-- ==== Sys2Proof/Word.lean ====
section
/-! DEFINITION. Words, sparse tables and the plainest arithmetic on bits (spec/00_scope.md R1, R2). -/

namespace Sys2Proof

/-- A 64-bit register value. -/
abbrev W64 := BitVec 64
/-- A 32-bit mask or code. -/
abbrev W32 := BitVec 32
/-- A byte of memory. -/
abbrev Byte := BitVec 8

/-- Bits `lo + n - 1` down to `lo` of `x`, as an unsigned integer (R5, `x<hi:lo>`). -/
def fld (x lo n : Nat) : Nat := x / 2 ^ lo % 2 ^ n

/-- The integer that the low `w` bits of `x` denote in two's complement (R16). -/
def toI (w x : Nat) : Int := if 2 * (x % 2 ^ w) < 2 ^ w then (x % 2 ^ w : Int) else (x % 2 ^ w : Int) - 2 ^ w

/-- An integer reduced to `w` bits (R5, a typed result wraps). -/
def ofI (w : Nat) (i : Int) : Nat := (i % 2 ^ w).toNat

/-- The low `w` bits of `x`, sign-extended to 64 bits (R55). -/
def sext64 (w x : Nat) : W64 := BitVec.ofInt 64 (toI w x)

/-- A table from keys to values, kept as a list of pairs whose keys rise strictly. -/
abbrev SMap (α : Type) := List (Nat × α)

namespace SMap
variable {α : Type}

/-- The value listed under `k`. -/
def find? : SMap α → Nat → Option α
  | [], _ => none
  | (k', v) :: t, k => if k' = k then some v else find? t k

/-- `m` with `v` listed under `k`. -/
def put : SMap α → Nat → α → SMap α
  | [], k, v => [(k, v)]
  | (k', v') :: t, k, v =>
    if k' = k then (k, v) :: t else if k < k' then (k, v) :: (k', v') :: t else (k', v') :: put t k v

/-- `m` with nothing listed under `k`. -/
def del : SMap α → Nat → SMap α
  | [], _ => []
  | (k', v) :: t, k => if k' = k then del t k else (k', v) :: del t k

/-- The value under `k`, `d` where nothing is listed. -/
def get (d : α) (m : SMap α) (k : Nat) : α := (m.find? k).getD d

/-- `m` with the value under `k` now `v`; a value equal to the default is not listed. -/
def set [DecidableEq α] (d : α) (m : SMap α) (k : Nat) (v : α) : SMap α :=
  if v = d then m.del k else m.put k v

/-- `m` with the value under `k` changed by `f`. -/
def modify (d : α) (m : SMap α) (k : Nat) (f : α → α) : SMap α := m.put k (f (m.get d k))

/-- `m` with the value under `k` changed by `f`, where one is listed. -/
def adjust (m : SMap α) (k : Nat) (f : α → α) : SMap α :=
  match m.find? k with
  | some v => m.put k (f v)
  | none => m

/-- Every listed value changed by `f`. -/
def mapV {β : Type} (m : SMap α) (f : Nat → α → β) : SMap β := m.map fun p => (p.1, f p.1 p.2)

/-- The keys rise strictly. -/
def sorted : SMap α → Bool
  | [] => true
  | [_] => true
  | (k, _) :: (k', v') :: t => k < k' && sorted ((k', v') :: t)

/-- Canonical form: the keys rise strictly and no value is the default. -/
def wf [DecidableEq α] (d : α) (m : SMap α) : Bool := m.sorted && m.all fun p => p.2 ≠ d

end SMap

/-- Sub-element `e` of width `w` of a 64-bit value (R5, R43). -/
def elem (w : Nat) (x : W64) (e : Nat) : Nat := fld x.toNat (w * e) w

/-- The sub-elements of width `w` of `x`, sub-element 0 first. -/
def elems (w : Nat) (x : W64) : List Nat := (List.range (64 / w)).map (elem w x)

/-- The integer whose `w`-bit digits are `l`, the first lowest (R21). -/
def packN (w : Nat) : List Nat → Nat
  | [] => 0
  | x :: t => x % 2 ^ w + 2 ^ w * packN w t

/-- The 64-bit value with sub-elements `l` of width `w`. -/
def ofElems (w : Nat) (l : List Nat) : W64 := BitVec.ofNat 64 (packN w l)

/-- `x` with sub-element `e` of width `w` replaced by `v`. -/
def setElem (w : Nat) (x : W64) (e v : Nat) : W64 :=
  ofElems w ((elems w x).set e v)

/-- The number of set bits among the low `n` bits of `x`. -/
def popN : Nat → Nat → Nat
  | 0, _ => 0
  | n + 1, x => x % 2 + popN n (x / 2)

/-- The index of the lowest set bit among the low `n` bits of `x`, `n` where none is set. -/
def ctzN : Nat → Nat → Nat
  | 0, _ => 0
  | n + 1, x => if x % 2 = 1 then 0 else 1 + ctzN n (x / 2)

/-- The leading zeros of the `w`-bit value `x`. -/
def clzN (w x : Nat) : Nat := if x % 2 ^ w = 0 then w else w - 1 - Nat.log2 (x % 2 ^ w)

/-- The lanes of a mask, in ascending order (R5, `for each lane l in M`). -/
def lanesOf (m : W32) : List Nat := (List.range 32).filter fun l => m.getLsbD l

/-- The mask whose bit `l` is `f l`. -/
def maskOf (f : Nat → Bool) : W32 :=
  BitVec.ofNat 32 (packN 1 ((List.range 32).map fun l => if f l then 1 else 0))

/-- The bytes of `v`, the lowest first (R2). -/
def bytesLE : Nat → Nat → List Byte
  | 0, _ => []
  | n + 1, v => BitVec.ofNat 8 v :: bytesLE n (v / 256)

/-- The integer that bytes denote, the lowest first (R2). -/
def ofBytesLE : List Byte → Nat
  | [] => 0
  | b :: t => b.toNat + 256 * ofBytesLE t

/-- A list cut into runs of `n`; `fuel` bounds the number of runs. -/
def chunks {α : Type} (n : Nat) : Nat → List α → List (List α)
  | 0, _ => []
  | fuel + 1, l => if l.isEmpty then [] else l.take n :: chunks n fuel (l.drop n)

end Sys2Proof
end

