-- ==== Sys2Proof/Config.lean ====
section
/-! DEFINITION. What an implementation fixes, and the free values (log 2, log 4, log 15). An `opaque`
constant has no body: nothing can be proved of its value. -/

namespace Sys2Proof.Config

/-- The n-th free value: a value the spec leaves open after an instruction that goes on (log 2). -/
opaque freeValue : Nat → W64
/-- The die that is home to a line, named by its physical key (R278; log 4). -/
opaque homeDie : Nat → Nat
/-- The slice, 0 to 47 of its die, that is home to a line (R278; log 4). -/
opaque homeSlice : Nat → Nat
/-- First frame address of the near (tier 0) or far (tier 1) memory of a die (log 4). -/
opaque frameBase : Nat → Nat → Nat
/-- The SECDED check code of n bits (R325; log 16). -/
opaque secded : Nat → Nat → Nat
/-- TAG of the packets of an operation, by its identity (Table LNK.2; log 16). -/
opaque tag : Nat → Nat
/-- OP of the packets of an operation, by its identity (Table LNK.2; log 16). -/
opaque packetOp : Nat → Nat
/-- Byte n of the secret seed of the device's identity key (R15, R199; log 15). -/
opaque deviceSeed : Nat → Byte
/-- Byte n of the randomness with which data are signed (FIPS 204; log 15). -/
opaque signRandom : List Byte → Nat → Byte
/-- The context string of the device's signatures and of the vendor's (FIPS 204; log 15). -/
opaque signContext : List Byte
opaque vendorContext : List Byte
/-- Byte n of a signature that no attempt gave, which FIPS 204 leaves open (log 15). -/
opaque signFailed : Nat → Byte
/-- The public key by which firmware images are checked (R362; log 15). -/
opaque vendorKey : List Byte
/-- The part of a firmware image that is signed, and its signature (R362, R363; log 15). -/
opaque imageParts : List Byte → List Byte × List Byte

/-- Number of dies (R7). -/
def dies : Nat := 4
/-- Cores of a die (R10). -/
def coresPerDie : Nat := 48
/-- 4 KiB frames of near memory of one die: four stacks of 96 GB (R7, R12). -/
def nearFrames : Nat := 4 * 96000000000 / 4096
/-- 4 KiB frames of far memory of one die: two ports of 768 GB (R7, Table DEV.3). -/
def farFrames : Nat := 2 * 768000000000 / 4096

end Sys2Proof.Config
end

