-- ==== Sys2Proof/Syntax.lean ====
section
/-! DEFINITION. The instructions, commands and events of spec/opcode_table.json, one constructor a row.
An instruction with a word carries the raw fields of that word (spec/04_assembly_by_contrast.md R53);
a command carries its record, a host write its value, an event the object it happens to. -/

namespace Sys2Proof

/-- A command record taken from a kernel queue (R200, R209): the queue, SEQ, the record's address, OP,
FLAGS and the twelve 8-byte words of ARGS. -/
structure Cmd where
  q     : Nat
  seq   : Nat
  ptr   : Nat
  op    : Nat
  flags : Nat
  args  : List Nat
  deriving DecidableEq, Repr

/-- A mailbox message (R356): OP, %ctx, SEQ and words 1 to 7. -/
structure Msg where
  op    : Nat
  ctx   : Nat
  seq   : Nat
  words : List Nat
  deriving DecidableEq, Repr

/-- An active message on its way (R331): the operation in flight that carries it (0 for a peer's), the
sender's context, the receiving device and core, the task-type index, the payload, the source device and core. -/
structure AMsg where
  op      : Nat
  ctx     : Nat
  dev     : Nat
  core    : Nat
  idx     : Nat
  payload : List Byte
  srcDev  : Nat
  srcCore : Nat
  deriving DecidableEq, Repr

/-- One constructor for each row of spec/opcode_table.json. -/
inductive Instr where
  /-- SADD, R77: Adds two scalar registers modulo 2^64. -/
  | sadd (d a b : Nat)
  /-- SSUB, R77: Subtracts scalar registers modulo 2^64. -/
  | ssub (d a b : Nat)
  /-- SMUL, R77: Writes the low 64 bits of a scalar product. -/
  | smul (d a b : Nat)
  /-- SMULH_I, R77: Writes the high 64 bits of a signed 128-bit product. -/
  | smulhI (d a b : Nat)
  /-- SMULH_N, R77: Writes the high 64 bits of an unsigned 128-bit product. -/
  | smulhN (d a b : Nat)
  /-- SDIV_I, R78: Signed division truncated towards zero, with fixed fates for zero divisor and overflow. -/
  | sdivI (d a b : Nat)
  /-- SDIV_N, R78: Unsigned division, giving 2^64 − 1 for a zero divisor. -/
  | sdivN (d a b : Nat)
  /-- SREM_I, R78: Signed remainder taking the sign of the dividend. -/
  | sremI (d a b : Nat)
  /-- SREM_N, R78: Unsigned remainder. -/
  | sremN (d a b : Nat)
  /-- SMIN_I, R77: Writes the signed lesser operand. -/
  | sminI (d a b : Nat)
  /-- SMIN_N, R77: Writes the unsigned lesser operand. -/
  | sminN (d a b : Nat)
  /-- SMAX_I, R77: Writes the signed greater operand. -/
  | smaxI (d a b : Nat)
  /-- SMAX_N, R77: Writes the unsigned greater operand. -/
  | smaxN (d a b : Nat)
  /-- SABS, R77: Writes the absolute value of a signed scalar. -/
  | sabs (d a : Nat)
  /-- SNEG, R77: Writes the negation of a scalar. -/
  | sneg (d a : Nat)
  /-- SEQ, R77: Writes 1 if the scalars are equal, else 0. -/
  | seq (d a b : Nat)
  /-- SNE, R77: Writes 1 if the scalars differ, else 0. -/
  | sne (d a b : Nat)
  /-- SLT_I, R77: Signed less-than comparison into a scalar. -/
  | sltI (d a b : Nat)
  /-- SLT_N, R77: Unsigned less-than comparison into a scalar. -/
  | sltN (d a b : Nat)
  /-- SLE_I, R77: Signed less-or-equal comparison into a scalar. -/
  | sleI (d a b : Nat)
  /-- SLE_N, R77: Unsigned less-or-equal comparison into a scalar. -/
  | sleN (d a b : Nat)
  /-- SSEL, R77: Selects S(a) or S(b) by the old S(d) as condition. -/
  | ssel (d a b : Nat)
  /-- SMOV, R77: Copies a scalar register. -/
  | smov (d a : Nat)
  /-- SADDS, R77: Adds S(b) scaled by 8 to S(a). -/
  | sadds (d a b : Nat)
  /-- SAND, R79: Bitwise AND of scalars. -/
  | sand (d a b : Nat)
  /-- SOR, R79: Bitwise OR of scalars. -/
  | sor (d a b : Nat)
  /-- SXOR, R79: Bitwise XOR of scalars. -/
  | sxor (d a b : Nat)
  /-- SANDN, R79: S(a) AND NOT S(b). -/
  | sandn (d a b : Nat)
  /-- SNOT, R79: Bitwise NOT of a scalar. -/
  | snot (d a : Nat)
  /-- SSHL, R79: Shifts a scalar left by S(b)<5:0>. -/
  | sshl (d a b : Nat)
  /-- SSHR, R79: Logical right shift of a scalar. -/
  | sshr (d a b : Nat)
  /-- SSAR, R79: Arithmetic right shift of a scalar. -/
  | ssar (d a b : Nat)
  /-- SROL, R79: Rotates a scalar left. -/
  | srol (d a b : Nat)
  /-- SROR, R79: Rotates a scalar right. -/
  | sror (d a b : Nat)
  /-- SCLZ, R79: Counts leading zeros of a scalar. -/
  | sclz (d a : Nat)
  /-- SCTZ, R79: Counts trailing zeros of a scalar. -/
  | sctz (d a : Nat)
  /-- SPOP, R79: Counts set bits of a scalar. -/
  | spop (d a : Nat)
  /-- SBFX_I, R80: Extracts a sign-extended bit field. -/
  | sbfxI (d a b : Nat)
  /-- SBFX_N, R80: Extracts a zero-extended bit field. -/
  | sbfxN (d a b : Nat)
  /-- SBFI, R80: Inserts a bit field into S(d). -/
  | sbfi (d a b : Nat)
  /-- MAND, R83: AND of two mask registers. -/
  | mand (d a b : Nat)
  /-- MOR, R83: OR of two mask registers. -/
  | mor (d a b : Nat)
  /-- MXOR, R83: XOR of two mask registers. -/
  | mxor (d a b : Nat)
  /-- MANDN, R83: M(a) AND NOT M(b). -/
  | mandn (d a b : Nat)
  /-- MNOT, R83: NOT of a mask register. -/
  | mnot (d a : Nat)
  /-- MMOV, R83: Copies a mask register. -/
  | mmov (d a : Nat)
  /-- MPOP, R83: Counts set bits of a mask into a scalar. -/
  | mpop (d a : Nat)
  /-- MFIRST, R83: Writes the index of the lowest set mask bit, or 32. -/
  | mfirst (d a : Nat)
  /-- MTOS, R83: Copies a mask into a scalar, zero-extended. -/
  | mtos (d a : Nat)
  /-- STOM, R83: Copies S(a)<31:0> into a mask. -/
  | stom (d a : Nat)
  /-- MBELOW, R83: Keeps mask bits below lane n. -/
  | mbelow (d a b : Nat)
  /-- SADDI, R81: Adds a sign-extended immediate to a scalar. -/
  | saddi (d a i : Nat)
  /-- SANDI, R81: ANDs a zero-extended immediate. -/
  | sandi (d a i : Nat)
  /-- SORI, R81: ORs a zero-extended immediate. -/
  | sori (d a i : Nat)
  /-- SXORI, R81: XORs a zero-extended immediate. -/
  | sxori (d a i : Nat)
  /-- SSHLI, R82: Shifts a scalar left by an immediate 0–63. -/
  | sshli (d a i : Nat)
  /-- SSHRI, R82: Shifts a scalar right by an immediate 0–63. -/
  | sshri (d a i : Nat)
  /-- SSLTI, R81: Signed less-than against a sign-extended immediate. -/
  | sslti (d a i : Nat)
  /-- SLI, R81: Loads a sign-extended immediate into a scalar. -/
  | sli (d i : Nat)
  /-- BR, R84: Branches the issuing path to a relative target after R87 checks. -/
  | br (o : Nat)
  /-- CALL, R84: Writes the link to s127 and branches. -/
  | call (o : Nat)
  /-- BC, R85: Branches the path when a scalar condition holds. -/
  | bc (a c o : Nat)
  /-- VBR, R226: Branches lanes by a mask, dividing the path under R227 when both sides are non-empty. -/
  | vbr (a c o : Nat)
  /-- VADD, R96: Adds vector sub-elements modulo 2^w. -/
  | vadd (w d a b : Nat)
  /-- VSUB, R96: Subtracts vector sub-elements modulo 2^w. -/
  | vsub (w d a b : Nat)
  /-- VMUL, R96: Low half of vector sub-element products. -/
  | vmul (w d a b : Nat)
  /-- VMULH_I, R96: High half of signed sub-element products. -/
  | vmulhI (w d a b : Nat)
  /-- VMULH_N, R96: High half of unsigned sub-element products. -/
  | vmulhN (w d a b : Nat)
  /-- VADD_SAT_I, R97: Signed saturating add, setting SAT on clamping. -/
  | vaddSatI (w d a b : Nat)
  /-- VADD_SAT_N, R97: Unsigned saturating add, setting SAT on clamping. -/
  | vaddSatN (w d a b : Nat)
  /-- VMIN_I, R96: Signed minimum per sub-element. -/
  | vminI (w d a b : Nat)
  /-- VMIN_N, R96: Unsigned minimum per sub-element. -/
  | vminN (w d a b : Nat)
  /-- VMAX_I, R96: Signed maximum per sub-element. -/
  | vmaxI (w d a b : Nat)
  /-- VMAX_N, R96: Unsigned maximum per sub-element. -/
  | vmaxN (w d a b : Nat)
  /-- VABS, R96: Absolute value per sub-element, wrapping. -/
  | vabs (w d a : Nat)
  /-- VNEG, R96: Negation per sub-element, wrapping. -/
  | vneg (w d a : Nat)
  /-- VAVG_N, R96: Rounded-up unsigned average per sub-element. -/
  | vavgN (w d a b : Nat)
  /-- VAND, R98: Bitwise AND of vector registers. -/
  | vand (d a b : Nat)
  /-- VOR, R98: Bitwise OR of vector registers. -/
  | vor (d a b : Nat)
  /-- VXOR, R98: Bitwise XOR of vector registers. -/
  | vxor (d a b : Nat)
  /-- VANDN, R98: V(a) AND NOT V(b). -/
  | vandn (d a b : Nat)
  /-- VNOT, R98: Bitwise NOT of a vector register. -/
  | vnot (d a : Nat)
  /-- VSEL, R98: Bit select of V(a) and V(b) by the old V(d). -/
  | vsel (d a b : Nat)
  /-- VMOV, R98: Copies a vector register. -/
  | vmov (d a : Nat)
  /-- VSHL, R99: Shifts sub-elements left by per-element counts. -/
  | vshl (w d a b : Nat)
  /-- VSHR, R99: Logical right shift of sub-elements. -/
  | vshr (w d a b : Nat)
  /-- VSAR, R99: Arithmetic right shift of sub-elements. -/
  | vsar (w d a b : Nat)
  /-- VPOP, R99: Counts set bits per sub-element. -/
  | vpop (w d a : Nat)
  /-- VCLZ, R99: Counts leading zeros per sub-element. -/
  | vclz (w d a : Nat)
  /-- VCEQ, R100: Integer equality compare to all-ones or zero sub-elements. -/
  | vceq (w d a b : Nat)
  /-- VCNE, R100: Integer inequality compare. -/
  | vcne (w d a b : Nat)
  /-- VCLT_I, R100: Signed less-than compare. -/
  | vcltI (w d a b : Nat)
  /-- VCLT_N, R100: Unsigned less-than compare. -/
  | vcltN (w d a b : Nat)
  /-- VCLE_I, R100: Signed less-or-equal compare. -/
  | vcleI (w d a b : Nat)
  /-- VCLE_N, R100: Unsigned less-or-equal compare. -/
  | vcleN (w d a b : Nat)
  /-- VTOM, R101: Builds a mask from non-zero sub-elements of acting lanes. -/
  | vtom (d a e : Nat)
  /-- MTOV, R101: Expands mask bits into all-ones or zero lane values. -/
  | mtov (d a : Nat)
  /-- VFMA_F32, R102: Fused multiply-add in f32, rounded once. -/
  | vfmaF32 (d a b : Nat)
  /-- VFMA_F16, R102: Fused multiply-add in f16. -/
  | vfmaF16 (d a b : Nat)
  /-- VFMA_BF16, R102: Fused multiply-add in bf16. -/
  | vfmaBf16 (d a b : Nat)
  /-- VFMS_F32, R102: Fused x·y − z in f32. -/
  | vfmsF32 (d a b : Nat)
  /-- VFMS_F16, R102: Fused x·y − z in f16. -/
  | vfmsF16 (d a b : Nat)
  /-- VFMS_BF16, R102: Fused x·y − z in bf16. -/
  | vfmsBf16 (d a b : Nat)
  /-- VFNMA_F32, R102: Fused z − x·y in f32. -/
  | vfnmaF32 (d a b : Nat)
  /-- VFNMA_F16, R102: Fused z − x·y in f16. -/
  | vfnmaF16 (d a b : Nat)
  /-- VFNMA_BF16, R102: Fused z − x·y in bf16. -/
  | vfnmaBf16 (d a b : Nat)
  /-- VFADD_F32, R102: Floating-point add in f32. -/
  | vfaddF32 (d a b : Nat)
  /-- VFADD_F16, R102: Floating-point add in f16. -/
  | vfaddF16 (d a b : Nat)
  /-- VFADD_BF16, R102: Floating-point add in bf16. -/
  | vfaddBf16 (d a b : Nat)
  /-- VFSUB_F32, R102: Floating-point subtract in f32. -/
  | vfsubF32 (d a b : Nat)
  /-- VFSUB_F16, R102: Floating-point subtract in f16. -/
  | vfsubF16 (d a b : Nat)
  /-- VFSUB_BF16, R102: Floating-point subtract in bf16. -/
  | vfsubBf16 (d a b : Nat)
  /-- VFMUL_F32, R102: Floating-point multiply in f32. -/
  | vfmulF32 (d a b : Nat)
  /-- VFMUL_F16, R102: Floating-point multiply in f16. -/
  | vfmulF16 (d a b : Nat)
  /-- VFMUL_BF16, R102: Floating-point multiply in bf16. -/
  | vfmulBf16 (d a b : Nat)
  /-- VFMIN_F32, R103: IEEE minimum in f32. -/
  | vfminF32 (d a b : Nat)
  /-- VFMIN_F16, R103: IEEE minimum in f16. -/
  | vfminF16 (d a b : Nat)
  /-- VFMIN_BF16, R103: IEEE minimum in bf16. -/
  | vfminBf16 (d a b : Nat)
  /-- VFMAX_F32, R103: IEEE maximum in f32. -/
  | vfmaxF32 (d a b : Nat)
  /-- VFMAX_F16, R103: IEEE maximum in f16. -/
  | vfmaxF16 (d a b : Nat)
  /-- VFMAX_BF16, R103: IEEE maximum in bf16. -/
  | vfmaxBf16 (d a b : Nat)
  /-- VFMINNUM_F32, R103: minimumNumber in f32. -/
  | vfminnumF32 (d a b : Nat)
  /-- VFMINNUM_F16, R103: minimumNumber in f16. -/
  | vfminnumF16 (d a b : Nat)
  /-- VFMINNUM_BF16, R103: minimumNumber in bf16. -/
  | vfminnumBf16 (d a b : Nat)
  /-- VFMAXNUM_F32, R103: maximumNumber in f32. -/
  | vfmaxnumF32 (d a b : Nat)
  /-- VFMAXNUM_F16, R103: maximumNumber in f16. -/
  | vfmaxnumF16 (d a b : Nat)
  /-- VFMAXNUM_BF16, R103: maximumNumber in bf16. -/
  | vfmaxnumBf16 (d a b : Nat)
  /-- VFCEQ_F32, R105: Floating-point equality compare in f32. -/
  | vfceqF32 (d a b : Nat)
  /-- VFCEQ_F16, R105: Floating-point equality compare in f16. -/
  | vfceqF16 (d a b : Nat)
  /-- VFCEQ_BF16, R105: Floating-point equality compare in bf16. -/
  | vfceqBf16 (d a b : Nat)
  /-- VFCLT_F32, R105: Floating-point less-than compare in f32. -/
  | vfcltF32 (d a b : Nat)
  /-- VFCLT_F16, R105: Floating-point less-than compare in f16. -/
  | vfcltF16 (d a b : Nat)
  /-- VFCLT_BF16, R105: Floating-point less-than compare in bf16. -/
  | vfcltBf16 (d a b : Nat)
  /-- VFCLE_F32, R105: Floating-point less-or-equal compare in f32. -/
  | vfcleF32 (d a b : Nat)
  /-- VFCLE_F16, R105: Floating-point less-or-equal compare in f16. -/
  | vfcleF16 (d a b : Nat)
  /-- VFCLE_BF16, R105: Floating-point less-or-equal compare in bf16. -/
  | vfcleBf16 (d a b : Nat)
  /-- VFCUN_F32, R105: Unordered compare in f32. -/
  | vfcunF32 (d a b : Nat)
  /-- VFCUN_F16, R105: Unordered compare in f16. -/
  | vfcunF16 (d a b : Nat)
  /-- VFCUN_BF16, R105: Unordered compare in bf16. -/
  | vfcunBf16 (d a b : Nat)
  /-- VFABS_F32, R106: Clears the sign bit of f32 sub-elements. -/
  | vfabsF32 (d a : Nat)
  /-- VFABS_F16, R106: Clears the sign bit of f16 sub-elements. -/
  | vfabsF16 (d a : Nat)
  /-- VFABS_BF16, R106: Clears the sign bit of bf16 sub-elements. -/
  | vfabsBf16 (d a : Nat)
  /-- VFNEG_F32, R106: Inverts the sign bit of f32 sub-elements. -/
  | vfnegF32 (d a : Nat)
  /-- VFNEG_F16, R106: Inverts the sign bit of f16 sub-elements. -/
  | vfnegF16 (d a : Nat)
  /-- VFNEG_BF16, R106: Inverts the sign bit of bf16 sub-elements. -/
  | vfnegBf16 (d a : Nat)
  /-- VFCLASS_F32, R106: Writes the one-hot class code of f32 sub-elements. -/
  | vfclassF32 (d a : Nat)
  /-- VFCLASS_F16, R106: Writes the one-hot class code of f16 sub-elements. -/
  | vfclassF16 (d a : Nat)
  /-- VFCLASS_BF16, R106: Writes the one-hot class code of bf16 sub-elements. -/
  | vfclassBf16 (d a : Nat)
  /-- VFCOPYSIGN_F32, R106: Copies the sign of y onto x in f32. -/
  | vfcopysignF32 (d a b : Nat)
  /-- VFCOPYSIGN_F16, R106: Copies the sign of y onto x in f16. -/
  | vfcopysignF16 (d a b : Nat)
  /-- VFCOPYSIGN_BF16, R106: Copies the sign of y onto x in bf16. -/
  | vfcopysignBf16 (d a b : Nat)
  /-- VCVT_F16_F32, R107: Narrows f32 to f16 into part p. -/
  | vcvtF16F32 (d a p : Nat)
  /-- VCVT_BF16_F32, R107: Narrows f32 to bf16 into part p. -/
  | vcvtBf16F32 (d a p : Nat)
  /-- VCVT_F32_F16, R107: Widens part p of f16 to f32 exactly. -/
  | vcvtF32F16 (d a p : Nat)
  /-- VCVT_F32_BF16, R107: Widens part p of bf16 to f32 exactly. -/
  | vcvtF32Bf16 (d a p : Nat)
  /-- VCVT_I32_F32, R108: Converts f32 to i32 with clamping fates. -/
  | vcvtI32F32 (d a : Nat)
  /-- VCVT_N32_F32, R108: Converts f32 to n32 with clamping fates. -/
  | vcvtN32F32 (d a : Nat)
  /-- VCVT_F32_I32, R108: Converts i32 to f32, rounded. -/
  | vcvtF32I32 (d a : Nat)
  /-- VCVT_F32_N32, R108: Converts n32 to f32, rounded. -/
  | vcvtF32N32 (d a : Nat)
  /-- VCVT_F8E4_F32, R108: Narrows f32 to f8e4 into part p. -/
  | vcvtF8e4F32 (d a p : Nat)
  /-- VCVT_F8E5_F32, R108: Narrows f32 to f8e5 into part p, honouring SATF8. -/
  | vcvtF8e5F32 (d a p : Nat)
  /-- VCVT_F32_F8E4, R108: Widens part p of f8e4 to f32 exactly. -/
  | vcvtF32F8e4 (d a p : Nat)
  /-- VCVT_F32_F8E5, R108: Widens part p of f8e5 to f32 exactly. -/
  | vcvtF32F8e5 (d a p : Nat)
  /-- VCVT_F6E2_F32, R108: Narrows f32 to f6e2 into part p. -/
  | vcvtF6e2F32 (d a p : Nat)
  /-- VCVT_F6E3_F32, R108: Narrows f32 to f6e3 into part p. -/
  | vcvtF6e3F32 (d a p : Nat)
  /-- VCVT_F4_F32, R31: Narrows f32 to f4 with the extra-value rule. -/
  | vcvtF4F32 (d a p : Nat)
  /-- VCVT_F32_F6E2, R108: Widens part p of f6e2 to f32 exactly. -/
  | vcvtF32F6e2 (d a p : Nat)
  /-- VCVT_F32_F6E3, R108: Widens part p of f6e3 to f32 exactly. -/
  | vcvtF32F6e3 (d a p : Nat)
  /-- VCVT_F32_F4, R31: Widens part p of f4 to f32, reading the %fx extra value. -/
  | vcvtF32F4 (d a p : Nat)
  /-- VCVT_I8_I32, R108: Clamps i32 to i8 into part p, setting SAT. -/
  | vcvtI8I32 (d a p : Nat)
  /-- VRCP_SEED, R112: Reciprocal seed to 12 significant bits. -/
  | vrcpSeed (d a : Nat)
  /-- VRSQ_SEED, R112: Reciprocal square root seed to 12 bits. -/
  | vrsqSeed (d a : Nat)
  /-- VEXP_RED, R112: Exact exponential range reduction, part k. -/
  | vexpRed (d a k : Nat)
  /-- VLOG_RED, R112: Logarithm range reduction, part k. -/
  | vlogRed (d a k : Nat)
  /-- VSC_RED, R112: Exact circular range reduction, part k. -/
  | vscRed (d a k : Nat)
  /-- VLDEXP, R112: Scales by a power of two with rounding. -/
  | vldexp (d a b : Nat)
  /-- VGETEXP, R112: Writes floor(log2|x|) as f32. -/
  | vgetexp (d a : Nat)
  /-- VGETMAN, R112: Writes the signed mantissa in [1,2). -/
  | vgetman (d a : Nat)
  /-- VFRAC, R112: Writes the fractional part exactly. -/
  | vfrac (d a : Nat)
  /-- VFRND, R112: Rounds to an integral value under the mode. -/
  | vfrnd (d a : Nat)
  /-- VSC_FIX, R114: Selects sine or cosine candidate by quadrant. -/
  | vscFix (d a b : Nat)
  /-- VADDI, R109: Adds an immediate to every sub-element. -/
  | vaddi (d a i : Nat)
  /-- VMOVI, R109: Writes an immediate into every sub-element. -/
  | vmovi (d i : Nat)
  /-- VSPLAT, R109: Writes S(a) plus an immediate into every sub-element. -/
  | vsplat (d a i : Nat)
  /-- VSHFL, R115: Takes each lane's value from a lane named by V(b). -/
  | vshfl (d a b : Nat)
  /-- VSHFLE_E32, R115: Shuffles 32-bit sub-elements by cross-lane index. -/
  | vshfleE32 (d a b : Nat)
  /-- VPSWAP, R115: Swaps with lane l XOR 2^k, negating in lanes with bit k clear. -/
  | vpswap (d a k : Nat)
  /-- VPREFIX_ADD_I32, R117: Inclusive integer prefix sum over acting lanes. -/
  | vprefixAddI32 (d a : Nat)
  /-- VPREFIX_ADD_F32, R34: Serial f32 prefix sum in ascending lane order. -/
  | vprefixAddF32 (d a : Nat)
  /-- VRED_ADD_I32, R117: Integer sum over acting lanes into each. -/
  | vredAddI32 (d a : Nat)
  /-- VRED_ADD_F32, R34: f32 sum by fixed pairwise tree. -/
  | vredAddF32 (d a : Nat)
  /-- VRED_MAX_I32, R117: Signed maximum over acting lanes. -/
  | vredMaxI32 (d a : Nat)
  /-- VRED_MAX_F32, R117: maximumNumber over acting lanes. -/
  | vredMaxF32 (d a : Nat)
  /-- VMAXIDX_F16, R119: Writes the MaxIdx winner of f16 pairs to every acting lane. -/
  | vmaxidxF16 (d a : Nat)
  /-- VMAXIDX_F32, R119: Writes the MaxIdx winner of f32 pairs. -/
  | vmaxidxF32 (d a : Nat)
  /-- VCOMPACT, R120: Compacts values of masked lanes into leading acting lanes. -/
  | vcompact (d a b : Nat)
  /-- VEXPAND, R120: Expands acting lanes' values into masked lanes. -/
  | vexpand (d a b : Nat)
  /-- VLANEID, R120: Writes each lane's number. -/
  | vlaneid (d : Nat)
  /-- VVOTE_ALL, R120: Scalar 1 if every acting lane is non-zero. -/
  | vvoteAll (d a : Nat)
  /-- VVOTE_ANY, R120: Scalar 1 if some acting lane is non-zero. -/
  | vvoteAny (d a : Nat)
  /-- VBALLOT, R120: Mask of acting lanes with non-zero values. -/
  | vballot (d a : Nat)
  /-- QSWP_H, R121: Horizontal quad exchange with helper lanes. -/
  | qswpH (d a : Nat)
  /-- QSWP_V, R121: Vertical quad exchange. -/
  | qswpV (d a : Nat)
  /-- QSWP_D, R121: Diagonal quad exchange. -/
  | qswpD (d a : Nat)
  /-- QBCAST, R122: Broadcasts a quad position chosen by S(b). -/
  | qbcast (d a b : Nat)
  /-- VPKPX, R123: Packs f32 lanes into PX blocks. -/
  | vpkpx (d a f : Nat)
  /-- VUNPX, R124: Unpacks PX blocks into f32 lanes. -/
  | vunpx (d a f : Nat)
  /-- VPKMX, R123: Packs f32 lanes into MX blocks. -/
  | vpkmx (d a f : Nat)
  /-- VUNMX, R124: Unpacks MX blocks into f32 lanes. -/
  | vunmx (d a f : Nat)
  /-- VGET, R116: Broadcasts one indexed sub-element, zero-extended. -/
  | vget (d a i : Nat)
  /-- VPUT, R116: Writes the lowest acting lane's element to an indexed sub-element. -/
  | vput (d a i : Nat)
  /-- VBCAST, R116: Broadcasts an indexed sub-element into every sub-element. -/
  | vbcast (d a i : Nat)
  /-- VBFLY, R116: Butterfly exchange by lane and sub-element XOR. -/
  | vbfly (d a i : Nat)
  /-- VROT, R116: Rotates elements across lanes. -/
  | vrot (d a i : Nat)
  /-- QBCAST_I, R122: Broadcasts an immediate quad position. -/
  | qbcastI (d a p : Nat)
  /-- VLD32, R128: Loads 4 bytes per acting lane from based addresses. -/
  | vld32 (d a i : Nat)
  /-- VLD64, R128: Loads 8 bytes per acting lane. -/
  | vld64 (d a i : Nat)
  /-- VST32, R128: Stores 4 bytes per acting lane. -/
  | vst32 (d a i : Nat)
  /-- VST64, R128: Stores 8 bytes per acting lane. -/
  | vst64 (d a i : Nat)
  /-- VLD16, R128: Loads 2 bytes per acting lane. -/
  | vld16 (d a i : Nat)
  /-- VST16, R128: Stores 2 bytes per acting lane. -/
  | vst16 (d a i : Nat)
  /-- VLD8, R128: Loads 1 byte per acting lane. -/
  | vld8 (d a i : Nat)
  /-- VST8, R128: Stores 1 byte per acting lane. -/
  | vst8 (d a i : Nat)
  /-- SLD, R128: Loads one 64-bit value into a scalar. -/
  | sld (d a i : Nat)
  /-- SST, R128: Stores one 64-bit scalar. -/
  | sst (d a i : Nat)
  /-- SPLD, R129: Loads 8 scratchpad bytes per lane at vector offsets. -/
  | spld (d a i : Nat)
  /-- SPST, R129: Stores 8 scratchpad bytes per lane. -/
  | spst (d a i : Nat)
  /-- VLDX32, R133: Indexed 4-byte load per lane. -/
  | vldx32 (d a b : Nat)
  /-- VLDX64, R133: Indexed 8-byte load per lane. -/
  | vldx64 (d a b : Nat)
  /-- VSTX32, R133: Indexed 4-byte store per lane. -/
  | vstx32 (d a b : Nat)
  /-- VSTX64, R133: Indexed 8-byte store per lane. -/
  | vstx64 (d a b : Nat)
  /-- VLDX16, R133: Indexed 2-byte load per lane. -/
  | vldx16 (d a b : Nat)
  /-- VSTX16, R133: Indexed 2-byte store per lane. -/
  | vstx16 (d a b : Nat)
  /-- VLDX8, R133: Indexed 1-byte load per lane. -/
  | vldx8 (d a b : Nat)
  /-- VSTX8, R133: Indexed 1-byte store per lane. -/
  | vstx8 (d a b : Nat)
  /-- FENCE, R272: Orders the path's accesses by its order and scope. -/
  | fence
  /-- VPREFETCH, R134: Hints a prefetch with no architectural effect. -/
  | vprefetch (l a b : Nat)
  /-- ATOM_ADD_E32, R135: Atomic 32-bit add at the home, returning the old value. -/
  | atomAddE32 (d a b : Nat)
  /-- ATOM_ADD_E64, R135: Atomic 64-bit add. -/
  | atomAddE64 (d a b : Nat)
  /-- ATOM_MIN_I32, R135: Atomic signed minimum. -/
  | atomMinI32 (d a b : Nat)
  /-- ATOM_MIN_N32, R135: Atomic unsigned minimum. -/
  | atomMinN32 (d a b : Nat)
  /-- ATOM_MAX_I32, R135: Atomic signed maximum. -/
  | atomMaxI32 (d a b : Nat)
  /-- ATOM_MAX_N32, R135: Atomic unsigned maximum. -/
  | atomMaxN32 (d a b : Nat)
  /-- ATOM_AND_B64, R135: Atomic AND. -/
  | atomAndB64 (d a b : Nat)
  /-- ATOM_OR_B64, R135: Atomic OR. -/
  | atomOrB64 (d a b : Nat)
  /-- ATOM_XOR_B64, R135: Atomic XOR. -/
  | atomXorB64 (d a b : Nat)
  /-- ATOM_XCHG_E32, R135: Atomic 32-bit exchange. -/
  | atomXchgE32 (d a b : Nat)
  /-- ATOM_XCHG_E64, R135: Atomic 64-bit exchange. -/
  | atomXchgE64 (d a b : Nat)
  /-- ATOM_CAS_E32, R135: Atomic 32-bit compare-and-swap. -/
  | atomCasE32 (d a b : Nat)
  /-- ATOM_CAS_E64, R135: Atomic 64-bit compare-and-swap using V(d+1). -/
  | atomCasE64 (d a b : Nat)
  /-- ATOM_FADD_F32, R36: Atomic f32 add rounded .rn at the home. -/
  | atomFaddF32 (d a b : Nat)
  /-- ATOM_FADD_BF16X2, R36: Two atomic bf16 additions. -/
  | atomFaddBf16x2 (d a b : Nat)
  /-- ATOM_MAXIDX_F16, R135: Atomic MaxIdx update of a pair. -/
  | atomMaxidxF16 (d a b : Nat)
  /-- GANG, R152: Writes %gang or returns the group's own entry. -/
  | gang (a k : Nat)
  /-- MMA, R161: Arrives at the rendezvous latch for a joint gang matrix product. -/
  | mma (t a k : Nat)
  /-- MMAT, R164: Matrix product with A from a tile, accepted by one group. -/
  | mmat (t a b k : Nat)
  /-- MPROM, R165: Adds accumulator B into accumulator T. -/
  | mprom (t b : Nat)
  /-- ACCZERO, R165: Clears an accumulator to +0. -/
  | acczero (t : Nat)
  /-- WBLD, R159: Loads weight panels from a tile into buffer slots. -/
  | wbld (a b k : Nat)
  /-- WBFREE, R160: Frees weight buffer slots. -/
  | wbfree (a : Nat)
  /-- FMTCHK, R157: Writes the validity reason code of a format-block. -/
  | fmtchk (a b k : Nat)
  /-- SXLD, R177: Starts loading 1,024 records into the sort array. -/
  | sxld (a k : Nat)
  /-- SXRUN, R178: Starts or resumes the shearsort. -/
  | sxrun (k : Nat)
  /-- SXST, R179: Starts storing the sorted records to a tile. -/
  | sxst (a k : Nat)
  /-- SXSTAT, R181: Reads the sort array status. -/
  | sxstat (a : Nat)
  /-- SXABORT, R182: Pauses or discards the sort array. -/
  | sxabort (k : Nat)
  /-- ACOPY, R144: Issues a copy-engine operation from memory into a tile. -/
  | acopy (a b : Nat)
  /-- ACOPYO, R144: Issues a copy from a tile to memory. -/
  | acopyo (a b k : Nat)
  /-- AGATH, R144: Issues an indexed gather into a tile. -/
  | agath (a b : Nat)
  /-- ASCAT, R144: Issues an indexed scatter from a tile. -/
  | ascat (a b k : Nat)
  /-- ACOLL, R144: Issues a collective reduction of a tile into memory. -/
  | acoll (a b k : Nat)
  /-- MCAST, R332: Issues a multicast of a tile to landing tiles. -/
  | mcast (a b k : Nat)
  /-- TSTAT, R141: Reads a tile table entry. -/
  | tstat (a b : Nat)
  /-- TREL, R141: Unregisters a tile or sets it empty or ready. -/
  | trel (a k : Nat)
  /-- TALLOC, R141: Registers a tile over banks. -/
  | talloc (a b k : Nat)
  /-- TGLOOK, R142: Looks up a key in the tag table. -/
  | tglook (a b : Nat)
  /-- TGSET, R142: Fills a tag table entry. -/
  | tgset (a b : Nat)
  /-- TGCLR, R142: Invalidates one or all tag entries. -/
  | tgclr (a k : Nat)
  /-- BOPEN, R303: Opens a bundle over a descriptor's ranges. -/
  | bopen (a b : Nat)
  /-- BCLOSE, R304: Commits or abandons the open bundle. -/
  | bclose (a k : Nat)
  /-- BLD, R305: Loads through the read set, entering missing lines whole. -/
  | bld (a b : Nat)
  /-- BCHK, R306: Checks or clears the read set. -/
  | bchk (a k : Nat)
  /-- BFETCH, R307: Fetches fractured read-set entries at their targets. -/
  | bfetch (a b : Nat)
  /-- BSTAT, R308: Reads bundle state, stamps or last trap reason. -/
  | bstat (a b k : Nat)
  /-- RET, R86: Branches to S(a). -/
  | ret (a : Nat)
  /-- BRX, R86: Branches to S(a). -/
  | brx (a : Nat)
  /-- RCV, R230: Reconverges divided paths by token. -/
  | rcv (c : Nat)
  /-- ALLON, R234: Holds other paths and enables all 32 lanes. -/
  | allon
  /-- ALLOFF, R234: Restores the saved mask and releases held paths. -/
  | alloff
  /-- REGROUP, R235: Arrives at a team regroup round, fusing half-empty groups in pairs. -/
  | regroup (d a b : Nat)
  /-- YIELD, R89: Places the group behind other ready groups. -/
  | yield
  /-- NOP, R89: Does nothing. -/
  | nop
  /-- EXIT, R90: Ends the issuing path's lanes. -/
  | exit
  /-- CALLX, R86: Writes a link to S(d) and branches to S(a). -/
  | callx (d a : Nat)
  /-- FORK, R252: Pushes a latent frame capturing arguments and writes its token. -/
  | fork (t a b k : Nat)
  /-- JOIN, R253: Inlines a latent frame or waits for and loads a done frame. -/
  | join (a : Nat)
  /-- FEND, R254: Ends an inlined frame or publishes a promoted frame's results. -/
  | fend
  /-- HOLD, R255: Sets the group's hold flag. -/
  | hold
  /-- RELEASE, R255: Clears the group's hold flag. -/
  | release
  /-- FRSTAT, R256: Reads frame state or heartbeat count, or sets the mode-1 count. -/
  | frstat (a b k : Nat)
  /-- BAR, R263: Arrives at a team barrier and waits for the phase. -/
  | bar (k : Nat)
  /-- BARA, R263: Arrives at a team barrier without waiting. -/
  | bara (a k : Nat)
  /-- BARW, R263: Waits for a team barrier phase to pass. -/
  | barw (a k : Nat)
  /-- CBAR, R263: Arrives at a cohort barrier and waits. -/
  | cbar (k : Nat)
  /-- WAITC, R147: Waits for earlier operations of named classes, raising ENGINE on ERR. -/
  | waitc (c : Nat)
  /-- SEQW, R147: Waits until a memory word reaches a value. -/
  | seqw (a b : Nat)
  /-- SLEEP, R147: Stops the path from issuing for a number of cycles. -/
  | sleep (a : Nat)
  /-- QPUT, R207: Puts an entry into a troupe queue, waiting for room. -/
  | qput (a b : Nat)
  /-- QTAKE, R207: Takes an entry from a troupe queue, waiting while empty. -/
  | qtake (a b : Nat)
  /-- QSTAT, R208: Reads a troupe queue's status. -/
  | qstat (a b : Nat)
  /-- AMSG, R331: Sends an active message to a core's handler. -/
  | amsg (a b : Nat)
  /-- DTURN, R337: Queues, reads or waits on die-boundary turns. -/
  | dturn (a b k : Nat)
  /-- SUBMIT, R205: Appends a command record to a kernel queue and rings its doorbell. -/
  | submit (a b : Nat)
  /-- AROW_RD, R167: Reads an accumulator row into lanes. -/
  | arowRd (d a b : Nat)
  /-- AROW_WR, R167: Writes an accumulator row from lanes. -/
  | arowWr (d a b : Nat)
  /-- ACOL_RD, R167: Reads an accumulator column into lanes. -/
  | acolRd (d a b : Nat)
  /-- ACOL_WR, R167: Writes an accumulator column from lanes. -/
  | acolWr (d a b : Nat)
  /-- AROW_RDB, R167: Reads an accumulator row rounded to bf16. -/
  | arowRdb (d a b : Nat)
  /-- AROW_ADD, R167: Adds lane values into an accumulator row. -/
  | arowAdd (d a b : Nat)
  /-- TRAP, R349: Raises SYSCALL with the payload. -/
  | trap (n : Nat)
  /-- RETT, R350: Ends the handler, re-injects the replay queue and resumes the path. -/
  | rett (m r : Nat)
  /-- RINJ, R351: Moves a value between handler and interrupted group. -/
  | rinj (d k i h : Nat)
  /-- SYSRD, R352: Reads a system register into a scalar. -/
  | sysrd (d n : Nat)
  /-- SYSWR, R352: Writes a scalar into a system register without behaviour of its own. -/
  | syswr (a n : Nat)
  /-- HALT, R354: Halts the path under the Porter or quiesces the context. -/
  | halt (c s : Nat)
  /-- MBOX_SEND, R355: Sends a 64-byte mailbox message to the host. -/
  | mboxSend (a : Nat)
  /-- MBOX_RECV, R355: Receives a 64-byte mailbox message from the host. -/
  | mboxRecv (a : Nat)
  /-- BRK, R349: Raises BREAK with the payload. -/
  | brk (n : Nat)
  /-- UCNT, R198: Reads a region usage counter after pending charges. -/
  | ucnt (d r k : Nat)
  /-- ATTEST, R199: Signs and writes a usage report. -/
  | attest (a b : Nat)
  /-- HINT, R58: Advises the scheduler of a gap or give-way. -/
  | hint (g p : Nat)
  /-- SRSEED_WRITE, R25: A syswr to %srseed sets the partition's stochastic generator state. -/
  | srseedWrite (a : Nat)
  /-- HBPERIOD_WRITE, R244: A syswr to %hbperiod changes the heartbeat period from the next count. -/
  | hbperiodWrite (a : Nat)
  /-- HBMODE_WRITE, R244: A syswr to %hbmode changes what the heartbeat count measures. -/
  | hbmodeWrite (a : Nat)
  /-- GANG_WRITE, R152: A syswr to %gang acts as gang with k = 0. -/
  | gangWrite (a : Nat)
  /-- DIVSPILL_SPILL, R353: A %divspill write with CMD 0 sets only the spill count. -/
  | divspillSpill (a : Nat)
  /-- DIVSPILL_DROP, R353: A %divspill write with CMD 1 removes the N oldest on-chip entries. -/
  | divspillDrop (a : Nat)
  /-- DIVSPILL_OPEN, R353: A %divspill write with CMD 2 inserts N zero entries at the oldest end. -/
  | divspillOpen (a : Nat)
  /-- CREATE, R184: Creates a context with its flags and context log. -/
  | create (c : Cmd)
  /-- REGKERNEL, R189: Hashes and registers a kernel code region. -/
  | regkernel (c : Cmd)
  /-- REGREGION, R189: Registers a weight region with its rights holder. -/
  | regregion (c : Cmd)
  /-- REGTASK, R220: Writes a task-type table entry. -/
  | regtask (c : Cmd)
  /-- REGQUEUE, R203: Registers a kernel queue from its sentinel. -/
  | regqueue (c : Cmd)
  /-- GRANT, R185: Grants quadrants of a die to a context. -/
  | grant (c : Cmd)
  /-- SHRINK, R219: Removes quadrants from a context, evicting or refusing cooperative grids. -/
  | shrink (c : Cmd)
  /-- RESUME, R377: Restores a saved context's image and makes it resident. -/
  | resume (c : Cmd)
  /-- SWITCH, R191: Starts quiescence of a resident context. -/
  | switch (c : Cmd)
  /-- MIGRATE, R195: Starts migration of a context and its final report. -/
  | migrate (c : Cmd)
  /-- DESTROY, R184: Quiesces and scrubs a context. -/
  | destroy (c : Cmd)
  /-- LAUNCH, R214: Checks a launch block and creates a queued kernel. -/
  | launch (c : Cmd)
  /-- RESYNC, R203: Restarts a stopped kernel queue at a new DONEPTR. -/
  | resync (c : Cmd)
  /-- SETBANKS, R185: Moves a scratchpad bank run to a quadrant. -/
  | setbanks (c : Cmd)
  /-- SETSORT, R174: Moves the sort array's owning quadrant. -/
  | setsort (c : Cmd)
  /-- RESOLVE, R315: Retries every access waiting on an open fault. -/
  | resolve (c : Cmd)
  /-- ABORT, R315: Fails every access and operation waiting on an open fault. -/
  | abort (c : Cmd)
  /-- ALLOC, R318: Takes a run of clean frames, waiting while none exists. -/
  | alloc (c : Cmd)
  /-- FREE, R317: Moves an unmapped run of frames to the scrub queue. -/
  | free (c : Cmd)
  /-- DIRTYLOG, R320: Sets or detaches the dirty-page log control block. -/
  | dirtylog (c : Cmd)
  /-- SETDOMAIN, R211: Sets the domain number and routing table. -/
  | setdomain (c : Cmd)
  /-- SETLINKNET, R211: Sets a Wenong link's network map. -/
  | setlinknet (c : Cmd)
  /-- BIND, R211: Binds a local context to a peer device's context. -/
  | bind (c : Cmd)
  /-- ALLOT, R336: Sets a context's wire-group allotment on a boundary. -/
  | allot (c : Cmd)
  /-- BADCMD, R209: A record with an unknown OP completes with BADCMD and changes nothing. -/
  | badcmd (c : Cmd)
  /-- BADSEQ, R202: A record whose SEQ is not DONESEQ + 1 stops the queue with a BADSEQ completion. -/
  | badseq (q : Nat)
  /-- DOORBELL, R360: A DOORBELL write starts the named host queue. -/
  | doorbell (v : Nat)
  /-- EQLOST_CLEAR, R364: A write of EQLOST clears the lost-record count. -/
  | eqlostClear (v : Nat)
  /-- H2PTAIL, R361: A host write of H2PTAIL posts mailbox messages, or is ignored with a BADDB record. -/
  | h2ptail (v : Nat)
  /-- PTROOT, R378: A write of PTROOT word 1 sets a context's top page table. -/
  | ptroot (v : Nat)
  /-- INVAL, R378: A write of INVAL word 3 starts or holds a translation invalidation. -/
  | inval (v : Nat)
  /-- POWER_RUN, R367: POWER request 0 moves the device to run. -/
  | powerRun (v : Nat)
  /-- POWER_CAPPED, R367: POWER request 1 caps power, or is refused. -/
  | powerCapped (v : Nat)
  /-- POWER_RETENTION, R367: POWER request 2 enters retention, or is refused. -/
  | powerRetention (v : Nat)
  /-- IMG_GO, R363: GO in IMGCTL starts reading and verifying a firmware image. -/
  | imgGo (v : Nat)
  /-- HOST_REGISTER_WRITE, R359: A host write to a BAR0 register without behaviour of its own. -/
  | hostRegisterWrite (off v : Nat)
  /-- HOST_MEMORY_ACCESS, R359: A host CXL.mem access to device memory is performed at its home slice. -/
  | hostMemoryAccess (wr : Bool) (pa n v : Nat)
  /-- INVALIDATION_COMPLETE, R313: Translations are dropped and their accesses performed; a held invalidation starts. -/
  | invalidationComplete
  /-- IMAGE_VERIFIED, R363: An image read and check ends, staged or rejected. -/
  | imageVerified (ok : Bool)
  /-- RESET, R362: Reset or power-on verifies the firmware image and installs a staged one. -/
  | reset
  /-- FIRMWARE_CHECK_END, R362: The boot image check ends in state 2 or 0xFE. -/
  | firmwareCheckEnd (ok : Bool)
  /-- POWER_LOSS, R195: Loss of power moves the device to off, destroying contexts. -/
  | powerLoss
  /-- THERMAL_LIMIT, R367: A junction at 105 °C forces capped and posts THERMAL kind 0. -/
  | thermalLimit (die temp : Nat)
  /-- THERMAL_LIFT, R367: All junctions below 100 °C lift the limit. -/
  | thermalLift
  /-- THERMAL_TRIP, R367: A junction at 115 °C trips power off. -/
  | thermalTrip (die temp : Nat)
  /-- QUIESCENCE_END, R191: The last in-flight effect lands and the context image is saved. -/
  | quiescenceEnd (c : Nat)
  /-- CONTEXT_SCRUB_END, R184: The last owned quadrant, bank and page are clean; the context is destroyed. -/
  | contextScrubEnd (c : Nat)
  /-- MIGRATION_EXPORT_END, R195: The final report is signed and the image exported; scrubbing begins. -/
  | migrationExportEnd (c : Nat)
  /-- KERNEL_DONE, R215: A finishing grid's effects are performed and its completion is written. -/
  | kernelDone (k : Nat)
  /-- ALLOTMENT, R217: The head of an allotment queue is placed when it fits. -/
  | allotment (core c : Nat)
  /-- EVICTION_BOUND, R218: A head waiting 262,144 cycles evicts the longest-resident blocked request. -/
  | evictionBound (core c : Nat)
  /-- EVICTED_REQUEUE, R218: An evicted request whose wake condition is met re-enters the queue tail. -/
  | evictedRequeue (r : Nat)
  /-- WAKE, R223: A waiting path's wake condition is met and it becomes ready. -/
  | wake (g p : Nat)
  /-- HEARTBEAT_TICK, R244: The mode-0 count reaches %hbperiod and a tick strikes for the context's groups. -/
  | heartbeatTick (core c : Nat)
  /-- HEARTBEAT_TICK_MODE1, R244: A group's mode-1 count reaches %hbperiod and a tick strikes for it. -/
  | heartbeatTickMode1 (g : Nat)
  /-- PROMOTION, R246: At a promotion point the oldest latent frame becomes promoting and its record is written. -/
  | promotion (g p : Nat)
  /-- PROMOTED, R246: The frame record is written and the spawn request queued. -/
  | promoted (g p : Nat)
  /-- SPAWN_FORWARD, R246: A spawn request older than 2·%hbperiod is withdrawn and forwarded. -/
  | spawnForward (r : Nat)
  /-- RECORD_CLAIM, R240: A background compare-and-swap reserves a free frame record. -/
  | recordClaim (g p start : Nat)
  /-- FRAME_SPILL, R242: The oldest on-chip frame entry is spilled to its record. -/
  | frameSpill (g p : Nat)
  /-- TILE_FILL_END, R139: The last sector lands and a filling tile becomes ready. -/
  | tileFillEnd (o : Nat)
  /-- TILE_DRAIN_END, R139: The last sector is read and a draining tile becomes ready or empty. -/
  | tileDrainEnd (o : Nat)
  /-- ENGINE_COMPLETION, R146: An engine operation ends and its completion record is written. -/
  | engineCompletion (o : Nat)
  /-- MCAST_DELIVERY, R333: A multicast delivery's first sector arrives and is accepted or dropped. -/
  | mcastDelivery (o t : Nat)
  /-- SORT_LOAD_END, R177: The last record is read and the sort array becomes loaded. -/
  | sortLoadEnd (core : Nat)
  /-- SORT_RUN_END, R172: Step 352 ends and the sort array becomes sorted. -/
  | sortRunEnd (core : Nat)
  /-- SORT_STOP, R182: A running sort stops or pauses at the next step boundary. -/
  | sortStop (core : Nat)
  /-- SORT_STORE_END, R179: The last record is written; the tile becomes ready. -/
  | sortStoreEnd (core : Nat)
  /-- SORT_SOFT_ERROR, R183: A detected soft error idles and zeroes the sort array. -/
  | sortSoftError (core : Nat)
  /-- MATRIX_RESULT, R166: An accepted matrix instruction writes its accumulator. -/
  | matrixResult (o : Nat)
  /-- WBLD_SLOT_LOADED, R159: A panel is stored and its slot becomes loaded. -/
  | wbldSlotLoaded (o : Nat)
  /-- LOAD_REPLY, R132: A load's data lands and the scoreboard releases its register. -/
  | loadReply (o : Nat)
  /-- ATOMIC_REPLY, R137: An atomic's old value lands in its destination. -/
  | atomicReply (o : Nat)
  /-- HOME_ACCESS, R278: A request reaches its home and is performed in coherence order. -/
  | homeAccess (o : Nat) (lanes : List Nat) (l1 : Bool)
  /-- WALK_COMPLETE, R311: A page walk ends held, faulting or with PERM. -/
  | walkComplete (w : Nat)
  /-- PAGE_SCRUB_START, R317: A page-scrub engine takes a scrub-queued frame. -/
  | pageScrubStart (die f : Nat)
  /-- PAGE_SCRUB_END, R317: A frame is zeroed and joins the clean pool. -/
  | pageScrubEnd (f : Nat)
  /-- MEMORY_ERROR, R366: An uncorrectable memory error is detected and reported. -/
  | memoryError (die kind pa : Nat)
  /-- PACKET_CHECK_FAILURE, R327: A packet failing ICHK or identity is dropped with a LOST notice. -/
  | packetCheckFailure (o kind die stop port : Nat)
  /-- LOST_NOTICE, R328: A LOST notice completes the source instruction by its fate. -/
  | lostNotice (o : Nat)
  /-- TRANSACTION_TIMEOUT, R327: No reply after 2^22 network cycles completes the transaction. -/
  | transactionTimeout (o : Nat)
  /-- LINK_FAILURE, R339: A failed link is reported and its in-flight packets dropped. -/
  | linkFailure (link : Nat)
  /-- ACTIVE_MESSAGE_ARRIVAL, R331: An active message arrives and its handler is queued or dropped. -/
  | activeMessageArrival (m : AMsg)
  /-- BUNDLE_COMMIT, R294: Sealing ends and the bundle is committed with a stamp, or abandoned. -/
  | bundleCommit (die i : Nat)
  /-- BUNDLE_INSTALL, R294: An install message makes a preparing version current at a home. -/
  | bundleInstall (die i line : Nat)
  /-- VERSION_FETCH, R299: A home returns the retained version at a target stamp, or VLOST. -/
  | versionFetch (o e : Nat)
  /-- INSTALL_RESEND, R294: An unacknowledged install is sent again after 2^22 cycles. -/
  | installResend (die i line : Nat)
  /-- BUNDLE_SOFT_ERROR, R309: A soft error in a preparing version abandons its bundle. -/
  | bundleSoftError (die i : Nat)
  /-- TURN_START, R336: The head turn entry starts turning its chosen wire groups. -/
  | turnStart (b : Nat)
  /-- TURN_END, R335: After draining and 48 ns dead time a wire group takes its new direction. -/
  | turnEnd (b g : Nat)
  /-- HANDLER_START, R345: A handler group starts on the free handler position for a waiting trap. -/
  | handlerStart (part : Nat)
  /-- ATTACH, R356: Mailbox message attaching the Porter. -/
  | attach (m : Msg)
  /-- DETACH, R344: Mailbox message detaching the Porter and clearing comparators. -/
  | detach (m : Msg)
  /-- PORTER_HALT, R358: Mailbox HALT stops named paths at their next boundary. -/
  | porterHalt (m : Msg)
  /-- PORTER_RESUME, R358: Mailbox RESUME resumes halted paths. -/
  | porterResume (m : Msg)
  /-- PORTER_STEP, R358: Mailbox STEP advances one path by one instruction. -/
  | porterStep (m : Msg)
  /-- STEPGRP, R358: Mailbox STEPGRP steps each path of a group once. -/
  | stepgrp (m : Msg)
  /-- SETBRK, R357: Mailbox SETBRK sets a breakpoint comparator. -/
  | setbrk (m : Msg)
  /-- CLRBRK, R357: Mailbox CLRBRK clears a comparator. -/
  | clrbrk (m : Msg)
  /-- RDREG, R356: Mailbox RDREG reads a register of a path. -/
  | rdreg (m : Msg)
  /-- WRREG, R356: Mailbox WRREG writes a register of a path. -/
  | wrreg (m : Msg)
  /-- RDMEM, R356: Mailbox RDMEM reads context memory. -/
  | rdmem (m : Msg)
  /-- WRMEM, R356: Mailbox WRMEM writes context memory. -/
  | wrmem (m : Msg)
  /-- ILLOP_ENCODING, R68: A fetched word whose major, fn, op10, unused field or reserved bit names no instruction raises ILLOP at decoding. -/
  | illopEncoding
  /-- EQ_HEAD_WRITE, R364: A host write of the event queue HEAD frees ring space, and the device writes the records it holds on die 0. -/
  | eqHeadWrite (v : Nat)
  /-- MBOX_BASE_WRITE, R361: A host write of H2PBASE or P2HBASE sets a mailbox ring and returns its indices to 0. -/
  | mboxBaseWrite (which v : Nat)
  deriving DecidableEq, Repr

end Sys2Proof
end

