-- ==== Sys2Proof/WellFormed.lean ====
section
/-! DEFINITION. Well-formed instructions: every field fits its place in the word (R53), and the field
values that raise ILLOP at decoding are refused (R70, R72 step 6). -/

namespace Sys2Proof

/-- The fields of `i` fit their places, and hold no value its entry calls illegal at decoding. Commands
and events carry no word and are well formed. -/
def Instr.WF : Instr → Prop
  | .sadd d a b => d < 128 ∧ a < 128 ∧ b < 128
  | .ssub d a b => d < 128 ∧ a < 128 ∧ b < 128
  | .smul d a b => d < 128 ∧ a < 128 ∧ b < 128
  | .smulhI d a b => d < 128 ∧ a < 128 ∧ b < 128
  | .smulhN d a b => d < 128 ∧ a < 128 ∧ b < 128
  | .sdivI d a b => d < 128 ∧ a < 128 ∧ b < 128
  | .sdivN d a b => d < 128 ∧ a < 128 ∧ b < 128
  | .sremI d a b => d < 128 ∧ a < 128 ∧ b < 128
  | .sremN d a b => d < 128 ∧ a < 128 ∧ b < 128
  | .sminI d a b => d < 128 ∧ a < 128 ∧ b < 128
  | .sminN d a b => d < 128 ∧ a < 128 ∧ b < 128
  | .smaxI d a b => d < 128 ∧ a < 128 ∧ b < 128
  | .smaxN d a b => d < 128 ∧ a < 128 ∧ b < 128
  | .sabs d a => d < 128 ∧ a < 128
  | .sneg d a => d < 128 ∧ a < 128
  | .seq d a b => d < 128 ∧ a < 128 ∧ b < 128
  | .sne d a b => d < 128 ∧ a < 128 ∧ b < 128
  | .sltI d a b => d < 128 ∧ a < 128 ∧ b < 128
  | .sltN d a b => d < 128 ∧ a < 128 ∧ b < 128
  | .sleI d a b => d < 128 ∧ a < 128 ∧ b < 128
  | .sleN d a b => d < 128 ∧ a < 128 ∧ b < 128
  | .ssel d a b => d < 128 ∧ a < 128 ∧ b < 128
  | .smov d a => d < 128 ∧ a < 128
  | .sadds d a b => d < 128 ∧ a < 128 ∧ b < 128
  | .sand d a b => d < 128 ∧ a < 128 ∧ b < 128
  | .sor d a b => d < 128 ∧ a < 128 ∧ b < 128
  | .sxor d a b => d < 128 ∧ a < 128 ∧ b < 128
  | .sandn d a b => d < 128 ∧ a < 128 ∧ b < 128
  | .snot d a => d < 128 ∧ a < 128
  | .sshl d a b => d < 128 ∧ a < 128 ∧ b < 128
  | .sshr d a b => d < 128 ∧ a < 128 ∧ b < 128
  | .ssar d a b => d < 128 ∧ a < 128 ∧ b < 128
  | .srol d a b => d < 128 ∧ a < 128 ∧ b < 128
  | .sror d a b => d < 128 ∧ a < 128 ∧ b < 128
  | .sclz d a => d < 128 ∧ a < 128
  | .sctz d a => d < 128 ∧ a < 128
  | .spop d a => d < 128 ∧ a < 128
  | .sbfxI d a b => d < 128 ∧ a < 128 ∧ b < 128
  | .sbfxN d a b => d < 128 ∧ a < 128 ∧ b < 128
  | .sbfi d a b => d < 128 ∧ a < 128 ∧ b < 128
  | .mand d a b => d < 8 ∧ a < 8 ∧ b < 8
  | .mor d a b => d < 8 ∧ a < 8 ∧ b < 8
  | .mxor d a b => d < 8 ∧ a < 8 ∧ b < 8
  | .mandn d a b => d < 8 ∧ a < 8 ∧ b < 8
  | .mnot d a => d < 8 ∧ a < 8
  | .mmov d a => d < 8 ∧ a < 8
  | .mpop d a => d < 128 ∧ a < 8
  | .mfirst d a => d < 128 ∧ a < 8
  | .mtos d a => d < 128 ∧ a < 8
  | .stom d a => d < 8 ∧ a < 128
  | .mbelow d a b => d < 8 ∧ a < 8 ∧ b < 128
  | .saddi d a i => d < 128 ∧ a < 128 ∧ i < 4096
  | .sandi d a i => d < 128 ∧ a < 128 ∧ i < 4096
  | .sori d a i => d < 128 ∧ a < 128 ∧ i < 4096
  | .sxori d a i => d < 128 ∧ a < 128 ∧ i < 4096
  | .sshli d a i => d < 128 ∧ a < 128 ∧ i < 64
  | .sshri d a i => d < 128 ∧ a < 128 ∧ i < 64
  | .sslti d a i => d < 128 ∧ a < 128 ∧ i < 4096
  | .sli d i => d < 128 ∧ i < 4096
  | .br o => o < 67108864
  | .call o => o < 67108864
  | .bc a c o => a < 128 ∧ c < 8 ∧ o < 65536
  | .vbr a c o => a < 8 ∧ c < 8 ∧ o < 65536
  | .vadd w d a b => w < 4 ∧ d < 128 ∧ a < 128 ∧ b < 128
  | .vsub w d a b => w < 4 ∧ d < 128 ∧ a < 128 ∧ b < 128
  | .vmul w d a b => w < 4 ∧ d < 128 ∧ a < 128 ∧ b < 128
  | .vmulhI w d a b => w < 4 ∧ d < 128 ∧ a < 128 ∧ b < 128
  | .vmulhN w d a b => w < 4 ∧ d < 128 ∧ a < 128 ∧ b < 128
  | .vaddSatI w d a b => w < 4 ∧ d < 128 ∧ a < 128 ∧ b < 128
  | .vaddSatN w d a b => w < 4 ∧ d < 128 ∧ a < 128 ∧ b < 128
  | .vminI w d a b => w < 4 ∧ d < 128 ∧ a < 128 ∧ b < 128
  | .vminN w d a b => w < 4 ∧ d < 128 ∧ a < 128 ∧ b < 128
  | .vmaxI w d a b => w < 4 ∧ d < 128 ∧ a < 128 ∧ b < 128
  | .vmaxN w d a b => w < 4 ∧ d < 128 ∧ a < 128 ∧ b < 128
  | .vabs w d a => w < 4 ∧ d < 128 ∧ a < 128
  | .vneg w d a => w < 4 ∧ d < 128 ∧ a < 128
  | .vavgN w d a b => w < 4 ∧ d < 128 ∧ a < 128 ∧ b < 128
  | .vand d a b => d < 128 ∧ a < 128 ∧ b < 128
  | .vor d a b => d < 128 ∧ a < 128 ∧ b < 128
  | .vxor d a b => d < 128 ∧ a < 128 ∧ b < 128
  | .vandn d a b => d < 128 ∧ a < 128 ∧ b < 128
  | .vnot d a => d < 128 ∧ a < 128
  | .vsel d a b => d < 128 ∧ a < 128 ∧ b < 128
  | .vmov d a => d < 128 ∧ a < 128
  | .vshl w d a b => w < 4 ∧ d < 128 ∧ a < 128 ∧ b < 128
  | .vshr w d a b => w < 4 ∧ d < 128 ∧ a < 128 ∧ b < 128
  | .vsar w d a b => w < 4 ∧ d < 128 ∧ a < 128 ∧ b < 128
  | .vpop w d a => w < 4 ∧ d < 128 ∧ a < 128
  | .vclz w d a => w < 4 ∧ d < 128 ∧ a < 128
  | .vceq w d a b => w < 4 ∧ d < 128 ∧ a < 128 ∧ b < 128
  | .vcne w d a b => w < 4 ∧ d < 128 ∧ a < 128 ∧ b < 128
  | .vcltI w d a b => w < 4 ∧ d < 128 ∧ a < 128 ∧ b < 128
  | .vcltN w d a b => w < 4 ∧ d < 128 ∧ a < 128 ∧ b < 128
  | .vcleI w d a b => w < 4 ∧ d < 128 ∧ a < 128 ∧ b < 128
  | .vcleN w d a b => w < 4 ∧ d < 128 ∧ a < 128 ∧ b < 128
  | .vtom d a e => d < 8 ∧ a < 128 ∧ e < 8
  | .mtov d a => d < 128 ∧ a < 8
  | .vfmaF32 d a b => d < 128 ∧ a < 128 ∧ b < 128
  | .vfmaF16 d a b => d < 128 ∧ a < 128 ∧ b < 128
  | .vfmaBf16 d a b => d < 128 ∧ a < 128 ∧ b < 128
  | .vfmsF32 d a b => d < 128 ∧ a < 128 ∧ b < 128
  | .vfmsF16 d a b => d < 128 ∧ a < 128 ∧ b < 128
  | .vfmsBf16 d a b => d < 128 ∧ a < 128 ∧ b < 128
  | .vfnmaF32 d a b => d < 128 ∧ a < 128 ∧ b < 128
  | .vfnmaF16 d a b => d < 128 ∧ a < 128 ∧ b < 128
  | .vfnmaBf16 d a b => d < 128 ∧ a < 128 ∧ b < 128
  | .vfaddF32 d a b => d < 128 ∧ a < 128 ∧ b < 128
  | .vfaddF16 d a b => d < 128 ∧ a < 128 ∧ b < 128
  | .vfaddBf16 d a b => d < 128 ∧ a < 128 ∧ b < 128
  | .vfsubF32 d a b => d < 128 ∧ a < 128 ∧ b < 128
  | .vfsubF16 d a b => d < 128 ∧ a < 128 ∧ b < 128
  | .vfsubBf16 d a b => d < 128 ∧ a < 128 ∧ b < 128
  | .vfmulF32 d a b => d < 128 ∧ a < 128 ∧ b < 128
  | .vfmulF16 d a b => d < 128 ∧ a < 128 ∧ b < 128
  | .vfmulBf16 d a b => d < 128 ∧ a < 128 ∧ b < 128
  | .vfminF32 d a b => d < 128 ∧ a < 128 ∧ b < 128
  | .vfminF16 d a b => d < 128 ∧ a < 128 ∧ b < 128
  | .vfminBf16 d a b => d < 128 ∧ a < 128 ∧ b < 128
  | .vfmaxF32 d a b => d < 128 ∧ a < 128 ∧ b < 128
  | .vfmaxF16 d a b => d < 128 ∧ a < 128 ∧ b < 128
  | .vfmaxBf16 d a b => d < 128 ∧ a < 128 ∧ b < 128
  | .vfminnumF32 d a b => d < 128 ∧ a < 128 ∧ b < 128
  | .vfminnumF16 d a b => d < 128 ∧ a < 128 ∧ b < 128
  | .vfminnumBf16 d a b => d < 128 ∧ a < 128 ∧ b < 128
  | .vfmaxnumF32 d a b => d < 128 ∧ a < 128 ∧ b < 128
  | .vfmaxnumF16 d a b => d < 128 ∧ a < 128 ∧ b < 128
  | .vfmaxnumBf16 d a b => d < 128 ∧ a < 128 ∧ b < 128
  | .vfceqF32 d a b => d < 128 ∧ a < 128 ∧ b < 128
  | .vfceqF16 d a b => d < 128 ∧ a < 128 ∧ b < 128
  | .vfceqBf16 d a b => d < 128 ∧ a < 128 ∧ b < 128
  | .vfcltF32 d a b => d < 128 ∧ a < 128 ∧ b < 128
  | .vfcltF16 d a b => d < 128 ∧ a < 128 ∧ b < 128
  | .vfcltBf16 d a b => d < 128 ∧ a < 128 ∧ b < 128
  | .vfcleF32 d a b => d < 128 ∧ a < 128 ∧ b < 128
  | .vfcleF16 d a b => d < 128 ∧ a < 128 ∧ b < 128
  | .vfcleBf16 d a b => d < 128 ∧ a < 128 ∧ b < 128
  | .vfcunF32 d a b => d < 128 ∧ a < 128 ∧ b < 128
  | .vfcunF16 d a b => d < 128 ∧ a < 128 ∧ b < 128
  | .vfcunBf16 d a b => d < 128 ∧ a < 128 ∧ b < 128
  | .vfabsF32 d a => d < 128 ∧ a < 128
  | .vfabsF16 d a => d < 128 ∧ a < 128
  | .vfabsBf16 d a => d < 128 ∧ a < 128
  | .vfnegF32 d a => d < 128 ∧ a < 128
  | .vfnegF16 d a => d < 128 ∧ a < 128
  | .vfnegBf16 d a => d < 128 ∧ a < 128
  | .vfclassF32 d a => d < 128 ∧ a < 128
  | .vfclassF16 d a => d < 128 ∧ a < 128
  | .vfclassBf16 d a => d < 128 ∧ a < 128
  | .vfcopysignF32 d a b => d < 128 ∧ a < 128 ∧ b < 128
  | .vfcopysignF16 d a b => d < 128 ∧ a < 128 ∧ b < 128
  | .vfcopysignBf16 d a b => d < 128 ∧ a < 128 ∧ b < 128
  | .vcvtF16F32 d a p => d < 128 ∧ a < 128 ∧ p < 2
  | .vcvtBf16F32 d a p => d < 128 ∧ a < 128 ∧ p < 2
  | .vcvtF32F16 d a p => d < 128 ∧ a < 128 ∧ p < 2
  | .vcvtF32Bf16 d a p => d < 128 ∧ a < 128 ∧ p < 2
  | .vcvtI32F32 d a => d < 128 ∧ a < 128
  | .vcvtN32F32 d a => d < 128 ∧ a < 128
  | .vcvtF32I32 d a => d < 128 ∧ a < 128
  | .vcvtF32N32 d a => d < 128 ∧ a < 128
  | .vcvtF8e4F32 d a p => d < 128 ∧ a < 128 ∧ p < 4
  | .vcvtF8e5F32 d a p => d < 128 ∧ a < 128 ∧ p < 4
  | .vcvtF32F8e4 d a p => d < 128 ∧ a < 128 ∧ p < 4
  | .vcvtF32F8e5 d a p => d < 128 ∧ a < 128 ∧ p < 4
  | .vcvtF6e2F32 d a p => d < 128 ∧ a < 128 ∧ p < 4
  | .vcvtF6e3F32 d a p => d < 128 ∧ a < 128 ∧ p < 4
  | .vcvtF4F32 d a p => d < 128 ∧ a < 128 ∧ p < 4
  | .vcvtF32F6e2 d a p => d < 128 ∧ a < 128 ∧ p < 4
  | .vcvtF32F6e3 d a p => d < 128 ∧ a < 128 ∧ p < 4
  | .vcvtF32F4 d a p => d < 128 ∧ a < 128 ∧ p < 4
  | .vcvtI8I32 d a p => d < 128 ∧ a < 128 ∧ p < 4
  | .vrcpSeed d a => d < 128 ∧ a < 128
  | .vrsqSeed d a => d < 128 ∧ a < 128
  | .vexpRed d a k => d < 128 ∧ a < 128 ∧ k < 2
  | .vlogRed d a k => d < 128 ∧ a < 128 ∧ k < 2
  | .vscRed d a k => d < 128 ∧ a < 128 ∧ k < 2
  | .vldexp d a b => d < 128 ∧ a < 128 ∧ b < 128
  | .vgetexp d a => d < 128 ∧ a < 128
  | .vgetman d a => d < 128 ∧ a < 128
  | .vfrac d a => d < 128 ∧ a < 128
  | .vfrnd d a => d < 128 ∧ a < 128
  | .vscFix d a b => d < 128 ∧ a < 128 ∧ b < 128
  | .vaddi d a i => d < 128 ∧ a < 128 ∧ i < 4096
  | .vmovi d i => d < 128 ∧ i < 4096
  | .vsplat d a i => d < 128 ∧ a < 128 ∧ i < 4096
  | .vshfl d a b => d < 128 ∧ a < 128 ∧ b < 128
  | .vshfleE32 d a b => d < 128 ∧ a < 128 ∧ b < 128
  | .vpswap d a k => d < 128 ∧ a < 128 ∧ k < 8 ∧ (k ≤ 4)  -- R115
  | .vprefixAddI32 d a => d < 128 ∧ a < 128
  | .vprefixAddF32 d a => d < 128 ∧ a < 128
  | .vredAddI32 d a => d < 128 ∧ a < 128
  | .vredAddF32 d a => d < 128 ∧ a < 128
  | .vredMaxI32 d a => d < 128 ∧ a < 128
  | .vredMaxF32 d a => d < 128 ∧ a < 128
  | .vmaxidxF16 d a => d < 128 ∧ a < 128
  | .vmaxidxF32 d a => d < 128 ∧ a < 128
  | .vcompact d a b => d < 128 ∧ a < 128 ∧ b < 8
  | .vexpand d a b => d < 128 ∧ a < 128 ∧ b < 8
  | .vlaneid d => d < 128
  | .vvoteAll d a => d < 128 ∧ a < 128
  | .vvoteAny d a => d < 128 ∧ a < 128
  | .vballot d a => d < 8 ∧ a < 128
  | .qswpH d a => d < 128 ∧ a < 128
  | .qswpV d a => d < 128 ∧ a < 128
  | .qswpD d a => d < 128 ∧ a < 128
  | .qbcast d a b => d < 128 ∧ a < 128 ∧ b < 128
  | .vpkpx d a f => d < 128 ∧ a < 128 ∧ f < 4 ∧ (f ≤ 2)  -- R123
  | .vunpx d a f => d < 128 ∧ a < 128 ∧ f < 4 ∧ (f ≤ 2)  -- R123
  | .vpkmx d a f => d < 128 ∧ a < 128 ∧ f < 8 ∧ (f ≤ 5)  -- R123
  | .vunmx d a f => d < 128 ∧ a < 128 ∧ f < 8 ∧ (f ≤ 5)  -- R123
  | .vget d a i => d < 128 ∧ a < 128 ∧ i < 256
  | .vput d a i => d < 128 ∧ a < 128 ∧ i < 256
  | .vbcast d a i => d < 128 ∧ a < 128 ∧ i < 256
  | .vbfly d a i => d < 128 ∧ a < 128 ∧ i < 256
  | .vrot d a i => d < 128 ∧ a < 128 ∧ i < 256
  | .qbcastI d a p => d < 128 ∧ a < 128 ∧ p < 4
  | .vld32 d a i => d < 128 ∧ a < 128 ∧ i < 4096
  | .vld64 d a i => d < 128 ∧ a < 128 ∧ i < 4096
  | .vst32 d a i => d < 128 ∧ a < 128 ∧ i < 4096
  | .vst64 d a i => d < 128 ∧ a < 128 ∧ i < 4096
  | .vld16 d a i => d < 128 ∧ a < 128 ∧ i < 4096
  | .vst16 d a i => d < 128 ∧ a < 128 ∧ i < 4096
  | .vld8 d a i => d < 128 ∧ a < 128 ∧ i < 4096
  | .vst8 d a i => d < 128 ∧ a < 128 ∧ i < 4096
  | .sld d a i => d < 128 ∧ a < 128 ∧ i < 4096
  | .sst d a i => d < 128 ∧ a < 128 ∧ i < 4096
  | .spld d a i => d < 128 ∧ a < 128 ∧ i < 4096
  | .spst d a i => d < 128 ∧ a < 128 ∧ i < 4096
  | .vldx32 d a b => d < 128 ∧ a < 128 ∧ b < 128
  | .vldx64 d a b => d < 128 ∧ a < 128 ∧ b < 128
  | .vstx32 d a b => d < 128 ∧ a < 128 ∧ b < 128
  | .vstx64 d a b => d < 128 ∧ a < 128 ∧ b < 128
  | .vldx16 d a b => d < 128 ∧ a < 128 ∧ b < 128
  | .vstx16 d a b => d < 128 ∧ a < 128 ∧ b < 128
  | .vldx8 d a b => d < 128 ∧ a < 128 ∧ b < 128
  | .vstx8 d a b => d < 128 ∧ a < 128 ∧ b < 128
  | .fence => True
  | .vprefetch l a b => l < 2 ∧ a < 128 ∧ b < 128
  | .atomAddE32 d a b => d < 128 ∧ a < 128 ∧ b < 128
  | .atomAddE64 d a b => d < 128 ∧ a < 128 ∧ b < 128
  | .atomMinI32 d a b => d < 128 ∧ a < 128 ∧ b < 128
  | .atomMinN32 d a b => d < 128 ∧ a < 128 ∧ b < 128
  | .atomMaxI32 d a b => d < 128 ∧ a < 128 ∧ b < 128
  | .atomMaxN32 d a b => d < 128 ∧ a < 128 ∧ b < 128
  | .atomAndB64 d a b => d < 128 ∧ a < 128 ∧ b < 128
  | .atomOrB64 d a b => d < 128 ∧ a < 128 ∧ b < 128
  | .atomXorB64 d a b => d < 128 ∧ a < 128 ∧ b < 128
  | .atomXchgE32 d a b => d < 128 ∧ a < 128 ∧ b < 128
  | .atomXchgE64 d a b => d < 128 ∧ a < 128 ∧ b < 128
  | .atomCasE32 d a b => d < 128 ∧ a < 128 ∧ b < 128
  | .atomCasE64 d a b => d < 128 ∧ a < 128 ∧ b < 128
  | .atomFaddF32 d a b => d < 128 ∧ a < 128 ∧ b < 128
  | .atomFaddBf16x2 d a b => d < 128 ∧ a < 128 ∧ b < 128
  | .atomMaxidxF16 d a b => d < 128 ∧ a < 128 ∧ b < 128
  | .gang a k => a < 128 ∧ k < 2
  | .mma t a k => t < 8 ∧ a < 128 ∧ k < 16
  | .mmat t a b k => t < 8 ∧ a < 128 ∧ b < 128 ∧ k < 16
  | .mprom t b => t < 8 ∧ b < 8
  | .acczero t => t < 8
  | .wbld a b k => a < 128 ∧ b < 128 ∧ k < 2
  | .wbfree a => a < 128
  | .fmtchk a b k => a < 128 ∧ b < 128 ∧ k < 2
  | .sxld a k => a < 128 ∧ k < 16 ∧ (k ≤ 5)  -- R169
  | .sxrun k => k < 2
  | .sxst a k => a < 128 ∧ k < 2
  | .sxstat a => a < 128
  | .sxabort k => k < 2
  | .acopy a b => a < 128 ∧ b < 128
  | .acopyo a b k => a < 128 ∧ b < 128 ∧ k < 2
  | .agath a b => a < 128 ∧ b < 128
  | .ascat a b k => a < 128 ∧ b < 128 ∧ k < 2
  | .acoll a b k => a < 128 ∧ b < 128 ∧ k < 16 ∧ (k % 8 ≤ 5)  -- R144
  | .mcast a b k => a < 128 ∧ b < 128 ∧ k < 2
  | .tstat a b => a < 128 ∧ b < 128
  | .trel a k => a < 128 ∧ k < 4 ∧ (k ≤ 2)  -- R141
  | .talloc a b k => a < 128 ∧ b < 128 ∧ k < 2
  | .tglook a b => a < 128 ∧ b < 128
  | .tgset a b => a < 128 ∧ b < 128
  | .tgclr a k => a < 128 ∧ k < 2 ∧ (k = 1 → a = 0)  -- R142
  | .bopen a b => a < 128 ∧ b < 128
  | .bclose a k => a < 128 ∧ k < 2
  | .bld a b => a < 128 ∧ b < 128
  | .bchk a k => a < 128 ∧ k < 2
  | .bfetch a b => a < 128 ∧ b < 128
  | .bstat a b k => a < 128 ∧ b < 128 ∧ k < 4 ∧ (k = 3 → b = 0)  -- R308
  | .ret a => a < 128
  | .brx a => a < 128
  | .rcv c => c < 8
  | .allon => True
  | .alloff => True
  | .regroup d a b => d < 128 ∧ a < 128 ∧ b < 128 ∧ (a ≤ b)  -- R235
  | .yield => True
  | .nop => True
  | .exit => True
  | .callx d a => d < 128 ∧ a < 128
  | .fork t a b k => t < 8 ∧ a < 128 ∧ b < 128 ∧ k < 16 ∧ (a ≠ 0 ∧ t ≤ 4 ∧ k ≤ 8 ∧ (t = 0 → b = 0) ∧ a + k ≤ 127 ∧ b + t ≤ 128)  -- R252
  | .join a => a < 128
  | .fend => True
  | .hold => True
  | .release => True
  | .frstat a b k => a < 128 ∧ b < 128 ∧ k < 16 ∧ (k ≤ 3 ∧ (k = 1 ∨ k = 2 → b = 0) ∧ (k = 3 → a = 0))  -- R256
  | .bar k => k < 16
  | .bara a k => a < 128 ∧ k < 16
  | .barw a k => a < 128 ∧ k < 16
  | .cbar k => k < 4
  | .waitc c => c < 64 ∧ (c ≠ 0)  -- R147
  | .seqw a b => a < 128 ∧ b < 128
  | .sleep a => a < 128
  | .qput a b => a < 128 ∧ b < 128
  | .qtake a b => a < 128 ∧ b < 128
  | .qstat a b => a < 128 ∧ b < 128
  | .amsg a b => a < 128 ∧ b < 128
  | .dturn a b k => a < 128 ∧ b < 128 ∧ k < 4 ∧ (k ≤ 2)  -- R337
  | .submit a b => a < 128 ∧ b < 128
  | .arowRd d a b => d < 128 ∧ a < 8 ∧ b < 128
  | .arowWr d a b => d < 8 ∧ a < 128 ∧ b < 128
  | .acolRd d a b => d < 128 ∧ a < 8 ∧ b < 128
  | .acolWr d a b => d < 8 ∧ a < 128 ∧ b < 128
  | .arowRdb d a b => d < 128 ∧ a < 8 ∧ b < 128
  | .arowAdd d a b => d < 8 ∧ a < 128 ∧ b < 128
  | .trap n => n < 65536
  | .rett m r => m < 4 ∧ r < 128 ∧ (m ≠ 3 ∧ (m ≠ 2 → r = 0))  -- R350
  | .rinj d k i h => d < 2 ∧ k < 4 ∧ i < 128 ∧ h < 64 ∧ ((k = 0 → h ≤ 31) ∧ (k = 2 → i ≤ 7) ∧ (k = 3 → i ≤ 15))  -- R351
  | .sysrd d n => d < 128 ∧ n < 256 ∧ (n < 32)  -- R48
  | .syswr a n => a < 128 ∧ n < 256 ∧ (n < 32)  -- R48
  | .halt c s => c < 256 ∧ s < 2
  | .mboxSend a => a < 128 ∧ (a ≤ 120)  -- R355
  | .mboxRecv a => a < 128 ∧ (a ≤ 120)  -- R355
  | .brk n => n < 65536
  | .ucnt d r k => d < 128 ∧ r < 64 ∧ k < 2
  | .attest a b => a < 128 ∧ b < 128
  | .hint g p => g < 2 ∧ p < 16
  | .srseedWrite _ => True
  | .hbperiodWrite _ => True
  | .hbmodeWrite _ => True
  | .gangWrite _ => True
  | .divspillSpill _ => True
  | .divspillDrop _ => True
  | .divspillOpen _ => True
  | .create _ => True
  | .regkernel _ => True
  | .regregion _ => True
  | .regtask _ => True
  | .regqueue _ => True
  | .grant _ => True
  | .shrink _ => True
  | .resume _ => True
  | .switch _ => True
  | .migrate _ => True
  | .destroy _ => True
  | .launch _ => True
  | .resync _ => True
  | .setbanks _ => True
  | .setsort _ => True
  | .resolve _ => True
  | .abort _ => True
  | .alloc _ => True
  | .free _ => True
  | .dirtylog _ => True
  | .setdomain _ => True
  | .setlinknet _ => True
  | .bind _ => True
  | .allot _ => True
  | .badcmd _ => True
  | .badseq _ => True
  | .doorbell _ => True
  | .eqlostClear _ => True
  | .h2ptail _ => True
  | .ptroot _ => True
  | .inval _ => True
  | .powerRun _ => True
  | .powerCapped _ => True
  | .powerRetention _ => True
  | .imgGo _ => True
  | .hostRegisterWrite _ _ => True
  | .hostMemoryAccess _ _ _ _ => True
  | .invalidationComplete => True
  | .imageVerified _ => True
  | .reset => True
  | .firmwareCheckEnd _ => True
  | .powerLoss => True
  | .thermalLimit _ _ => True
  | .thermalLift => True
  | .thermalTrip _ _ => True
  | .quiescenceEnd _ => True
  | .contextScrubEnd _ => True
  | .migrationExportEnd _ => True
  | .kernelDone _ => True
  | .allotment _ _ => True
  | .evictionBound _ _ => True
  | .evictedRequeue _ => True
  | .wake _ _ => True
  | .heartbeatTick _ _ => True
  | .heartbeatTickMode1 _ => True
  | .promotion _ _ => True
  | .promoted _ _ => True
  | .spawnForward _ => True
  | .recordClaim _ _ _ => True
  | .frameSpill _ _ => True
  | .tileFillEnd _ => True
  | .tileDrainEnd _ => True
  | .engineCompletion _ => True
  | .mcastDelivery _ _ => True
  | .sortLoadEnd _ => True
  | .sortRunEnd _ => True
  | .sortStop _ => True
  | .sortStoreEnd _ => True
  | .sortSoftError _ => True
  | .matrixResult _ => True
  | .wbldSlotLoaded _ => True
  | .loadReply _ => True
  | .atomicReply _ => True
  | .homeAccess _ _ _ => True
  | .walkComplete _ => True
  | .pageScrubStart _ _ => True
  | .pageScrubEnd _ => True
  | .memoryError _ _ _ => True
  | .packetCheckFailure _ _ _ _ _ => True
  | .lostNotice _ => True
  | .transactionTimeout _ => True
  | .linkFailure _ => True
  | .activeMessageArrival _ => True
  | .bundleCommit _ _ => True
  | .bundleInstall _ _ _ => True
  | .versionFetch _ _ => True
  | .installResend _ _ _ => True
  | .bundleSoftError _ _ => True
  | .turnStart _ => True
  | .turnEnd _ _ => True
  | .handlerStart _ => True
  | .attach _ => True
  | .detach _ => True
  | .porterHalt _ => True
  | .porterResume _ => True
  | .porterStep _ => True
  | .stepgrp _ => True
  | .setbrk _ => True
  | .clrbrk _ => True
  | .rdreg _ => True
  | .wrreg _ => True
  | .rdmem _ => True
  | .wrmem _ => True
  | .illopEncoding => True
  | .eqHeadWrite _ => True
  | .mboxBaseWrite _ _ => True

/-- The instruction has a word of its own: the rows of the table with an encoding. -/
def Instr.hasWord : Instr → Bool
  | .sadd _ _ _ => true
  | .ssub _ _ _ => true
  | .smul _ _ _ => true
  | .smulhI _ _ _ => true
  | .smulhN _ _ _ => true
  | .sdivI _ _ _ => true
  | .sdivN _ _ _ => true
  | .sremI _ _ _ => true
  | .sremN _ _ _ => true
  | .sminI _ _ _ => true
  | .sminN _ _ _ => true
  | .smaxI _ _ _ => true
  | .smaxN _ _ _ => true
  | .sabs _ _ => true
  | .sneg _ _ => true
  | .seq _ _ _ => true
  | .sne _ _ _ => true
  | .sltI _ _ _ => true
  | .sltN _ _ _ => true
  | .sleI _ _ _ => true
  | .sleN _ _ _ => true
  | .ssel _ _ _ => true
  | .smov _ _ => true
  | .sadds _ _ _ => true
  | .sand _ _ _ => true
  | .sor _ _ _ => true
  | .sxor _ _ _ => true
  | .sandn _ _ _ => true
  | .snot _ _ => true
  | .sshl _ _ _ => true
  | .sshr _ _ _ => true
  | .ssar _ _ _ => true
  | .srol _ _ _ => true
  | .sror _ _ _ => true
  | .sclz _ _ => true
  | .sctz _ _ => true
  | .spop _ _ => true
  | .sbfxI _ _ _ => true
  | .sbfxN _ _ _ => true
  | .sbfi _ _ _ => true
  | .mand _ _ _ => true
  | .mor _ _ _ => true
  | .mxor _ _ _ => true
  | .mandn _ _ _ => true
  | .mnot _ _ => true
  | .mmov _ _ => true
  | .mpop _ _ => true
  | .mfirst _ _ => true
  | .mtos _ _ => true
  | .stom _ _ => true
  | .mbelow _ _ _ => true
  | .saddi _ _ _ => true
  | .sandi _ _ _ => true
  | .sori _ _ _ => true
  | .sxori _ _ _ => true
  | .sshli _ _ _ => true
  | .sshri _ _ _ => true
  | .sslti _ _ _ => true
  | .sli _ _ => true
  | .br _ => true
  | .call _ => true
  | .bc _ _ _ => true
  | .vbr _ _ _ => true
  | .vadd _ _ _ _ => true
  | .vsub _ _ _ _ => true
  | .vmul _ _ _ _ => true
  | .vmulhI _ _ _ _ => true
  | .vmulhN _ _ _ _ => true
  | .vaddSatI _ _ _ _ => true
  | .vaddSatN _ _ _ _ => true
  | .vminI _ _ _ _ => true
  | .vminN _ _ _ _ => true
  | .vmaxI _ _ _ _ => true
  | .vmaxN _ _ _ _ => true
  | .vabs _ _ _ => true
  | .vneg _ _ _ => true
  | .vavgN _ _ _ _ => true
  | .vand _ _ _ => true
  | .vor _ _ _ => true
  | .vxor _ _ _ => true
  | .vandn _ _ _ => true
  | .vnot _ _ => true
  | .vsel _ _ _ => true
  | .vmov _ _ => true
  | .vshl _ _ _ _ => true
  | .vshr _ _ _ _ => true
  | .vsar _ _ _ _ => true
  | .vpop _ _ _ => true
  | .vclz _ _ _ => true
  | .vceq _ _ _ _ => true
  | .vcne _ _ _ _ => true
  | .vcltI _ _ _ _ => true
  | .vcltN _ _ _ _ => true
  | .vcleI _ _ _ _ => true
  | .vcleN _ _ _ _ => true
  | .vtom _ _ _ => true
  | .mtov _ _ => true
  | .vfmaF32 _ _ _ => true
  | .vfmaF16 _ _ _ => true
  | .vfmaBf16 _ _ _ => true
  | .vfmsF32 _ _ _ => true
  | .vfmsF16 _ _ _ => true
  | .vfmsBf16 _ _ _ => true
  | .vfnmaF32 _ _ _ => true
  | .vfnmaF16 _ _ _ => true
  | .vfnmaBf16 _ _ _ => true
  | .vfaddF32 _ _ _ => true
  | .vfaddF16 _ _ _ => true
  | .vfaddBf16 _ _ _ => true
  | .vfsubF32 _ _ _ => true
  | .vfsubF16 _ _ _ => true
  | .vfsubBf16 _ _ _ => true
  | .vfmulF32 _ _ _ => true
  | .vfmulF16 _ _ _ => true
  | .vfmulBf16 _ _ _ => true
  | .vfminF32 _ _ _ => true
  | .vfminF16 _ _ _ => true
  | .vfminBf16 _ _ _ => true
  | .vfmaxF32 _ _ _ => true
  | .vfmaxF16 _ _ _ => true
  | .vfmaxBf16 _ _ _ => true
  | .vfminnumF32 _ _ _ => true
  | .vfminnumF16 _ _ _ => true
  | .vfminnumBf16 _ _ _ => true
  | .vfmaxnumF32 _ _ _ => true
  | .vfmaxnumF16 _ _ _ => true
  | .vfmaxnumBf16 _ _ _ => true
  | .vfceqF32 _ _ _ => true
  | .vfceqF16 _ _ _ => true
  | .vfceqBf16 _ _ _ => true
  | .vfcltF32 _ _ _ => true
  | .vfcltF16 _ _ _ => true
  | .vfcltBf16 _ _ _ => true
  | .vfcleF32 _ _ _ => true
  | .vfcleF16 _ _ _ => true
  | .vfcleBf16 _ _ _ => true
  | .vfcunF32 _ _ _ => true
  | .vfcunF16 _ _ _ => true
  | .vfcunBf16 _ _ _ => true
  | .vfabsF32 _ _ => true
  | .vfabsF16 _ _ => true
  | .vfabsBf16 _ _ => true
  | .vfnegF32 _ _ => true
  | .vfnegF16 _ _ => true
  | .vfnegBf16 _ _ => true
  | .vfclassF32 _ _ => true
  | .vfclassF16 _ _ => true
  | .vfclassBf16 _ _ => true
  | .vfcopysignF32 _ _ _ => true
  | .vfcopysignF16 _ _ _ => true
  | .vfcopysignBf16 _ _ _ => true
  | .vcvtF16F32 _ _ _ => true
  | .vcvtBf16F32 _ _ _ => true
  | .vcvtF32F16 _ _ _ => true
  | .vcvtF32Bf16 _ _ _ => true
  | .vcvtI32F32 _ _ => true
  | .vcvtN32F32 _ _ => true
  | .vcvtF32I32 _ _ => true
  | .vcvtF32N32 _ _ => true
  | .vcvtF8e4F32 _ _ _ => true
  | .vcvtF8e5F32 _ _ _ => true
  | .vcvtF32F8e4 _ _ _ => true
  | .vcvtF32F8e5 _ _ _ => true
  | .vcvtF6e2F32 _ _ _ => true
  | .vcvtF6e3F32 _ _ _ => true
  | .vcvtF4F32 _ _ _ => true
  | .vcvtF32F6e2 _ _ _ => true
  | .vcvtF32F6e3 _ _ _ => true
  | .vcvtF32F4 _ _ _ => true
  | .vcvtI8I32 _ _ _ => true
  | .vrcpSeed _ _ => true
  | .vrsqSeed _ _ => true
  | .vexpRed _ _ _ => true
  | .vlogRed _ _ _ => true
  | .vscRed _ _ _ => true
  | .vldexp _ _ _ => true
  | .vgetexp _ _ => true
  | .vgetman _ _ => true
  | .vfrac _ _ => true
  | .vfrnd _ _ => true
  | .vscFix _ _ _ => true
  | .vaddi _ _ _ => true
  | .vmovi _ _ => true
  | .vsplat _ _ _ => true
  | .vshfl _ _ _ => true
  | .vshfleE32 _ _ _ => true
  | .vpswap _ _ _ => true
  | .vprefixAddI32 _ _ => true
  | .vprefixAddF32 _ _ => true
  | .vredAddI32 _ _ => true
  | .vredAddF32 _ _ => true
  | .vredMaxI32 _ _ => true
  | .vredMaxF32 _ _ => true
  | .vmaxidxF16 _ _ => true
  | .vmaxidxF32 _ _ => true
  | .vcompact _ _ _ => true
  | .vexpand _ _ _ => true
  | .vlaneid _ => true
  | .vvoteAll _ _ => true
  | .vvoteAny _ _ => true
  | .vballot _ _ => true
  | .qswpH _ _ => true
  | .qswpV _ _ => true
  | .qswpD _ _ => true
  | .qbcast _ _ _ => true
  | .vpkpx _ _ _ => true
  | .vunpx _ _ _ => true
  | .vpkmx _ _ _ => true
  | .vunmx _ _ _ => true
  | .vget _ _ _ => true
  | .vput _ _ _ => true
  | .vbcast _ _ _ => true
  | .vbfly _ _ _ => true
  | .vrot _ _ _ => true
  | .qbcastI _ _ _ => true
  | .vld32 _ _ _ => true
  | .vld64 _ _ _ => true
  | .vst32 _ _ _ => true
  | .vst64 _ _ _ => true
  | .vld16 _ _ _ => true
  | .vst16 _ _ _ => true
  | .vld8 _ _ _ => true
  | .vst8 _ _ _ => true
  | .sld _ _ _ => true
  | .sst _ _ _ => true
  | .spld _ _ _ => true
  | .spst _ _ _ => true
  | .vldx32 _ _ _ => true
  | .vldx64 _ _ _ => true
  | .vstx32 _ _ _ => true
  | .vstx64 _ _ _ => true
  | .vldx16 _ _ _ => true
  | .vstx16 _ _ _ => true
  | .vldx8 _ _ _ => true
  | .vstx8 _ _ _ => true
  | .fence => true
  | .vprefetch _ _ _ => true
  | .atomAddE32 _ _ _ => true
  | .atomAddE64 _ _ _ => true
  | .atomMinI32 _ _ _ => true
  | .atomMinN32 _ _ _ => true
  | .atomMaxI32 _ _ _ => true
  | .atomMaxN32 _ _ _ => true
  | .atomAndB64 _ _ _ => true
  | .atomOrB64 _ _ _ => true
  | .atomXorB64 _ _ _ => true
  | .atomXchgE32 _ _ _ => true
  | .atomXchgE64 _ _ _ => true
  | .atomCasE32 _ _ _ => true
  | .atomCasE64 _ _ _ => true
  | .atomFaddF32 _ _ _ => true
  | .atomFaddBf16x2 _ _ _ => true
  | .atomMaxidxF16 _ _ _ => true
  | .gang _ _ => true
  | .mma _ _ _ => true
  | .mmat _ _ _ _ => true
  | .mprom _ _ => true
  | .acczero _ => true
  | .wbld _ _ _ => true
  | .wbfree _ => true
  | .fmtchk _ _ _ => true
  | .sxld _ _ => true
  | .sxrun _ => true
  | .sxst _ _ => true
  | .sxstat _ => true
  | .sxabort _ => true
  | .acopy _ _ => true
  | .acopyo _ _ _ => true
  | .agath _ _ => true
  | .ascat _ _ _ => true
  | .acoll _ _ _ => true
  | .mcast _ _ _ => true
  | .tstat _ _ => true
  | .trel _ _ => true
  | .talloc _ _ _ => true
  | .tglook _ _ => true
  | .tgset _ _ => true
  | .tgclr _ _ => true
  | .bopen _ _ => true
  | .bclose _ _ => true
  | .bld _ _ => true
  | .bchk _ _ => true
  | .bfetch _ _ => true
  | .bstat _ _ _ => true
  | .ret _ => true
  | .brx _ => true
  | .rcv _ => true
  | .allon => true
  | .alloff => true
  | .regroup _ _ _ => true
  | .yield => true
  | .nop => true
  | .exit => true
  | .callx _ _ => true
  | .fork _ _ _ _ => true
  | .join _ => true
  | .fend => true
  | .hold => true
  | .release => true
  | .frstat _ _ _ => true
  | .bar _ => true
  | .bara _ _ => true
  | .barw _ _ => true
  | .cbar _ => true
  | .waitc _ => true
  | .seqw _ _ => true
  | .sleep _ => true
  | .qput _ _ => true
  | .qtake _ _ => true
  | .qstat _ _ => true
  | .amsg _ _ => true
  | .dturn _ _ _ => true
  | .submit _ _ => true
  | .arowRd _ _ _ => true
  | .arowWr _ _ _ => true
  | .acolRd _ _ _ => true
  | .acolWr _ _ _ => true
  | .arowRdb _ _ _ => true
  | .arowAdd _ _ _ => true
  | .trap _ => true
  | .rett _ _ => true
  | .rinj _ _ _ _ => true
  | .sysrd _ _ => true
  | .syswr _ _ => true
  | .halt _ _ => true
  | .mboxSend _ => true
  | .mboxRecv _ => true
  | .brk _ => true
  | .ucnt _ _ _ => true
  | .attest _ _ => true
  | .hint _ _ => true
  | .srseedWrite _ => false
  | .hbperiodWrite _ => false
  | .hbmodeWrite _ => false
  | .gangWrite _ => false
  | .divspillSpill _ => false
  | .divspillDrop _ => false
  | .divspillOpen _ => false
  | .create _ => false
  | .regkernel _ => false
  | .regregion _ => false
  | .regtask _ => false
  | .regqueue _ => false
  | .grant _ => false
  | .shrink _ => false
  | .resume _ => false
  | .switch _ => false
  | .migrate _ => false
  | .destroy _ => false
  | .launch _ => false
  | .resync _ => false
  | .setbanks _ => false
  | .setsort _ => false
  | .resolve _ => false
  | .abort _ => false
  | .alloc _ => false
  | .free _ => false
  | .dirtylog _ => false
  | .setdomain _ => false
  | .setlinknet _ => false
  | .bind _ => false
  | .allot _ => false
  | .badcmd _ => false
  | .badseq _ => false
  | .doorbell _ => false
  | .eqlostClear _ => false
  | .h2ptail _ => false
  | .ptroot _ => false
  | .inval _ => false
  | .powerRun _ => false
  | .powerCapped _ => false
  | .powerRetention _ => false
  | .imgGo _ => false
  | .hostRegisterWrite _ _ => false
  | .hostMemoryAccess _ _ _ _ => false
  | .invalidationComplete => false
  | .imageVerified _ => false
  | .reset => false
  | .firmwareCheckEnd _ => false
  | .powerLoss => false
  | .thermalLimit _ _ => false
  | .thermalLift => false
  | .thermalTrip _ _ => false
  | .quiescenceEnd _ => false
  | .contextScrubEnd _ => false
  | .migrationExportEnd _ => false
  | .kernelDone _ => false
  | .allotment _ _ => false
  | .evictionBound _ _ => false
  | .evictedRequeue _ => false
  | .wake _ _ => false
  | .heartbeatTick _ _ => false
  | .heartbeatTickMode1 _ => false
  | .promotion _ _ => false
  | .promoted _ _ => false
  | .spawnForward _ => false
  | .recordClaim _ _ _ => false
  | .frameSpill _ _ => false
  | .tileFillEnd _ => false
  | .tileDrainEnd _ => false
  | .engineCompletion _ => false
  | .mcastDelivery _ _ => false
  | .sortLoadEnd _ => false
  | .sortRunEnd _ => false
  | .sortStop _ => false
  | .sortStoreEnd _ => false
  | .sortSoftError _ => false
  | .matrixResult _ => false
  | .wbldSlotLoaded _ => false
  | .loadReply _ => false
  | .atomicReply _ => false
  | .homeAccess _ _ _ => false
  | .walkComplete _ => false
  | .pageScrubStart _ _ => false
  | .pageScrubEnd _ => false
  | .memoryError _ _ _ => false
  | .packetCheckFailure _ _ _ _ _ => false
  | .lostNotice _ => false
  | .transactionTimeout _ => false
  | .linkFailure _ => false
  | .activeMessageArrival _ => false
  | .bundleCommit _ _ => false
  | .bundleInstall _ _ _ => false
  | .versionFetch _ _ => false
  | .installResend _ _ _ => false
  | .bundleSoftError _ _ => false
  | .turnStart _ => false
  | .turnEnd _ _ => false
  | .handlerStart _ => false
  | .attach _ => false
  | .detach _ => false
  | .porterHalt _ => false
  | .porterResume _ => false
  | .porterStep _ => false
  | .stepgrp _ => false
  | .setbrk _ => false
  | .clrbrk _ => false
  | .rdreg _ => false
  | .wrreg _ => false
  | .rdmem _ => false
  | .wrmem _ => false
  | .illopEncoding => false
  | .eqHeadWrite _ => false
  | .mboxBaseWrite _ _ => false

/-- The checks at decoding that go beyond the fixed bits of the word, as a test (R70, R72 step 6). -/
def Instr.fieldsOk (i : Instr) : Bool :=
  match i with
  | .vpswap _ _ k => decide (k ≤ 4)  -- R115
  | .vpkpx _ _ f => decide (f ≤ 2)  -- R123
  | .vunpx _ _ f => decide (f ≤ 2)  -- R123
  | .vpkmx _ _ f => decide (f ≤ 5)  -- R123
  | .vunmx _ _ f => decide (f ≤ 5)  -- R123
  | .sxld _ k => decide (k ≤ 5)  -- R169
  | .acoll _ _ k => decide (k % 8 ≤ 5)  -- R144
  | .trel _ k => decide (k ≤ 2)  -- R141
  | .tgclr a k => decide (k = 1 → a = 0)  -- R142
  | .bstat _ b k => decide (k = 3 → b = 0)  -- R308
  | .regroup _ a b => decide (a ≤ b)  -- R235
  | .fork t a b k => decide (a ≠ 0 ∧ t ≤ 4 ∧ k ≤ 8 ∧ (t = 0 → b = 0) ∧ a + k ≤ 127 ∧ b + t ≤ 128)  -- R252
  | .frstat a b k => decide (k ≤ 3 ∧ (k = 1 ∨ k = 2 → b = 0) ∧ (k = 3 → a = 0))  -- R256
  | .waitc c => decide (c ≠ 0)  -- R147
  | .dturn _ _ k => decide (k ≤ 2)  -- R337
  | .rett m r => decide (m ≠ 3 ∧ (m ≠ 2 → r = 0))  -- R350
  | .rinj _ k i h => decide ((k = 0 → h ≤ 31) ∧ (k = 2 → i ≤ 7) ∧ (k = 3 → i ≤ 15))  -- R351
  | .sysrd _ n => decide (n < 32)  -- R48
  | .syswr _ n => decide (n < 32)  -- R48
  | .mboxSend a => decide (a ≤ 120)  -- R355
  | .mboxRecv a => decide (a ≤ 120)  -- R355
  | _ => true

end Sys2Proof
end

