-- ==== Sys2Proof/Decode.lean ====
section
/-! DEFINITION. From words to instructions (spec/05_opcode_map.md R68 to R72) and back. A word is read as a
number; its fields are digits of it (R1, R53). Definitions that build one of the later constructors of Instr are
marked noncomputable: the compiled runtime has room for 245 constructors with fields (log 19); the kernel evaluates them. -/

namespace Sys2Proof

/-- Major 0x01 (Table OPC.2): fn values not listed name no instruction. -/
def decode01 (w : Nat) : Option Instr :=
  match fld w 21 5 with
  | 0 => some (.sadd (fld w 14 7) (fld w 7 7) (fld w 0 7))
  | 1 => some (.ssub (fld w 14 7) (fld w 7 7) (fld w 0 7))
  | 2 => some (.smul (fld w 14 7) (fld w 7 7) (fld w 0 7))
  | 3 => some (.smulhI (fld w 14 7) (fld w 7 7) (fld w 0 7))
  | 4 => some (.smulhN (fld w 14 7) (fld w 7 7) (fld w 0 7))
  | 5 => some (.sdivI (fld w 14 7) (fld w 7 7) (fld w 0 7))
  | 6 => some (.sdivN (fld w 14 7) (fld w 7 7) (fld w 0 7))
  | 7 => some (.sremI (fld w 14 7) (fld w 7 7) (fld w 0 7))
  | 8 => some (.sremN (fld w 14 7) (fld w 7 7) (fld w 0 7))
  | 9 => some (.sminI (fld w 14 7) (fld w 7 7) (fld w 0 7))
  | 10 => some (.sminN (fld w 14 7) (fld w 7 7) (fld w 0 7))
  | 11 => some (.smaxI (fld w 14 7) (fld w 7 7) (fld w 0 7))
  | 12 => some (.smaxN (fld w 14 7) (fld w 7 7) (fld w 0 7))
  | 13 => if fld w 0 7 = 0 then some (.sabs (fld w 14 7) (fld w 7 7)) else none
  | 14 => if fld w 0 7 = 0 then some (.sneg (fld w 14 7) (fld w 7 7)) else none
  | 15 => some (.seq (fld w 14 7) (fld w 7 7) (fld w 0 7))
  | 16 => some (.sne (fld w 14 7) (fld w 7 7) (fld w 0 7))
  | 17 => some (.sltI (fld w 14 7) (fld w 7 7) (fld w 0 7))
  | 18 => some (.sltN (fld w 14 7) (fld w 7 7) (fld w 0 7))
  | 19 => some (.sleI (fld w 14 7) (fld w 7 7) (fld w 0 7))
  | 20 => some (.sleN (fld w 14 7) (fld w 7 7) (fld w 0 7))
  | 21 => some (.ssel (fld w 14 7) (fld w 7 7) (fld w 0 7))
  | 22 => if fld w 0 7 = 0 then some (.smov (fld w 14 7) (fld w 7 7)) else none
  | 23 => some (.sadds (fld w 14 7) (fld w 7 7) (fld w 0 7))
  | _ => none

/-- Major 0x02 (Table OPC.2): fn values not listed name no instruction. -/
def decode02 (w : Nat) : Option Instr :=
  match fld w 21 5 with
  | 0 => some (.sand (fld w 14 7) (fld w 7 7) (fld w 0 7))
  | 1 => some (.sor (fld w 14 7) (fld w 7 7) (fld w 0 7))
  | 2 => some (.sxor (fld w 14 7) (fld w 7 7) (fld w 0 7))
  | 3 => some (.sandn (fld w 14 7) (fld w 7 7) (fld w 0 7))
  | 4 => if fld w 0 7 = 0 then some (.snot (fld w 14 7) (fld w 7 7)) else none
  | 5 => some (.sshl (fld w 14 7) (fld w 7 7) (fld w 0 7))
  | 6 => some (.sshr (fld w 14 7) (fld w 7 7) (fld w 0 7))
  | 7 => some (.ssar (fld w 14 7) (fld w 7 7) (fld w 0 7))
  | 8 => some (.srol (fld w 14 7) (fld w 7 7) (fld w 0 7))
  | 9 => some (.sror (fld w 14 7) (fld w 7 7) (fld w 0 7))
  | 10 => if fld w 0 7 = 0 then some (.sclz (fld w 14 7) (fld w 7 7)) else none
  | 11 => if fld w 0 7 = 0 then some (.sctz (fld w 14 7) (fld w 7 7)) else none
  | 12 => if fld w 0 7 = 0 then some (.spop (fld w 14 7) (fld w 7 7)) else none
  | 13 => some (.sbfxI (fld w 14 7) (fld w 7 7) (fld w 0 7))
  | 14 => some (.sbfxN (fld w 14 7) (fld w 7 7) (fld w 0 7))
  | 15 => some (.sbfi (fld w 14 7) (fld w 7 7) (fld w 0 7))
  | _ => none

/-- Major 0x03 (Table OPC.2): fn values not listed name no instruction. -/
def decode03 (w : Nat) : Option Instr :=
  match fld w 21 5 with
  | 0 => if fld w 3 4 = 0 ∧ fld w 10 4 = 0 ∧ fld w 17 4 = 0 then some (.mand (fld w 14 3) (fld w 7 3) (fld w 0 3)) else none
  | 1 => if fld w 3 4 = 0 ∧ fld w 10 4 = 0 ∧ fld w 17 4 = 0 then some (.mor (fld w 14 3) (fld w 7 3) (fld w 0 3)) else none
  | 2 => if fld w 3 4 = 0 ∧ fld w 10 4 = 0 ∧ fld w 17 4 = 0 then some (.mxor (fld w 14 3) (fld w 7 3) (fld w 0 3)) else none
  | 3 => if fld w 3 4 = 0 ∧ fld w 10 4 = 0 ∧ fld w 17 4 = 0 then some (.mandn (fld w 14 3) (fld w 7 3) (fld w 0 3)) else none
  | 4 => if fld w 0 7 = 0 ∧ fld w 10 4 = 0 ∧ fld w 17 4 = 0 then some (.mnot (fld w 14 3) (fld w 7 3)) else none
  | 5 => if fld w 0 7 = 0 ∧ fld w 10 4 = 0 ∧ fld w 17 4 = 0 then some (.mmov (fld w 14 3) (fld w 7 3)) else none
  | 6 => if fld w 0 7 = 0 ∧ fld w 10 4 = 0 then some (.mpop (fld w 14 7) (fld w 7 3)) else none
  | 7 => if fld w 0 7 = 0 ∧ fld w 10 4 = 0 then some (.mfirst (fld w 14 7) (fld w 7 3)) else none
  | 8 => if fld w 0 7 = 0 ∧ fld w 10 4 = 0 then some (.mtos (fld w 14 7) (fld w 7 3)) else none
  | 9 => if fld w 0 7 = 0 ∧ fld w 17 4 = 0 then some (.stom (fld w 14 3) (fld w 7 7)) else none
  | 10 => if fld w 10 4 = 0 ∧ fld w 17 4 = 0 then some (.mbelow (fld w 14 3) (fld w 7 3) (fld w 0 7)) else none
  | _ => none

/-- Major 0x04 (Table OPC.1). -/
def decode04 (w : Nat) : Option Instr :=
  some (.saddi (fld w 19 7) (fld w 12 7) (fld w 0 12))

/-- Major 0x05 (Table OPC.1). -/
def decode05 (w : Nat) : Option Instr :=
  some (.sandi (fld w 19 7) (fld w 12 7) (fld w 0 12))

/-- Major 0x06 (Table OPC.1). -/
def decode06 (w : Nat) : Option Instr :=
  some (.sori (fld w 19 7) (fld w 12 7) (fld w 0 12))

/-- Major 0x07 (Table OPC.1). -/
def decode07 (w : Nat) : Option Instr :=
  some (.sxori (fld w 19 7) (fld w 12 7) (fld w 0 12))

/-- Major 0x08 (Table OPC.1). -/
def decode08 (w : Nat) : Option Instr :=
  if fld w 6 6 = 0 then some (.sshli (fld w 19 7) (fld w 12 7) (fld w 0 6)) else none

/-- Major 0x09 (Table OPC.1). -/
def decode09 (w : Nat) : Option Instr :=
  if fld w 6 6 = 0 then some (.sshri (fld w 19 7) (fld w 12 7) (fld w 0 6)) else none

/-- Major 0x0A (Table OPC.1). -/
def decode0A (w : Nat) : Option Instr :=
  some (.sslti (fld w 19 7) (fld w 12 7) (fld w 0 12))

/-- Major 0x0B (Table OPC.1). -/
def decode0B (w : Nat) : Option Instr :=
  if fld w 12 7 = 0 then some (.sli (fld w 19 7) (fld w 0 12)) else none

/-- Major 0x0C (Table OPC.1). -/
def decode0C (w : Nat) : Option Instr :=
  some (.br (fld w 0 26))

/-- Major 0x0D (Table OPC.1). -/
def decode0D (w : Nat) : Option Instr :=
  some (.call (fld w 0 26))

/-- Major 0x0E (Table OPC.1). -/
def decode0E (w : Nat) : Option Instr :=
  some (.bc (fld w 19 7) (fld w 16 3) (fld w 0 16))

/-- Major 0x0F (Table OPC.1). -/
def decode0F (w : Nat) : Option Instr :=
  if fld w 22 4 = 0 then some (.vbr (fld w 19 3) (fld w 16 3) (fld w 0 16)) else none

/-- Major 0x10 (Table OPC.2): fn values not listed name no instruction. -/
def decode10 (w : Nat) : Option Instr :=
  match fld w 21 5 with
  | 0 | 1 | 2 | 3 => some (.vadd (fld w 21 2) (fld w 14 7) (fld w 7 7) (fld w 0 7))
  | 4 | 5 | 6 | 7 => some (.vsub (fld w 21 2) (fld w 14 7) (fld w 7 7) (fld w 0 7))
  | 8 | 9 | 10 | 11 => some (.vmul (fld w 21 2) (fld w 14 7) (fld w 7 7) (fld w 0 7))
  | 12 | 13 | 14 | 15 => some (.vmulhI (fld w 21 2) (fld w 14 7) (fld w 7 7) (fld w 0 7))
  | 16 | 17 | 18 | 19 => some (.vmulhN (fld w 21 2) (fld w 14 7) (fld w 7 7) (fld w 0 7))
  | 20 | 21 | 22 | 23 => some (.vaddSatI (fld w 21 2) (fld w 14 7) (fld w 7 7) (fld w 0 7))
  | 24 | 25 | 26 | 27 => some (.vaddSatN (fld w 21 2) (fld w 14 7) (fld w 7 7) (fld w 0 7))
  | _ => none

/-- Major 0x11 (Table OPC.2): fn values not listed name no instruction. -/
def decode11 (w : Nat) : Option Instr :=
  match fld w 21 5 with
  | 0 | 1 | 2 | 3 => some (.vminI (fld w 21 2) (fld w 14 7) (fld w 7 7) (fld w 0 7))
  | 4 | 5 | 6 | 7 => some (.vminN (fld w 21 2) (fld w 14 7) (fld w 7 7) (fld w 0 7))
  | 8 | 9 | 10 | 11 => some (.vmaxI (fld w 21 2) (fld w 14 7) (fld w 7 7) (fld w 0 7))
  | 12 | 13 | 14 | 15 => some (.vmaxN (fld w 21 2) (fld w 14 7) (fld w 7 7) (fld w 0 7))
  | 16 | 17 | 18 | 19 => if fld w 0 7 = 0 then some (.vabs (fld w 21 2) (fld w 14 7) (fld w 7 7)) else none
  | 20 | 21 | 22 | 23 => if fld w 0 7 = 0 then some (.vneg (fld w 21 2) (fld w 14 7) (fld w 7 7)) else none
  | 24 | 25 | 26 | 27 => some (.vavgN (fld w 21 2) (fld w 14 7) (fld w 7 7) (fld w 0 7))
  | _ => none

/-- Major 0x12 (Table OPC.2): fn values not listed name no instruction. -/
def decode12 (w : Nat) : Option Instr :=
  match fld w 21 5 with
  | 0 => some (.vand (fld w 14 7) (fld w 7 7) (fld w 0 7))
  | 1 => some (.vor (fld w 14 7) (fld w 7 7) (fld w 0 7))
  | 2 => some (.vxor (fld w 14 7) (fld w 7 7) (fld w 0 7))
  | 3 => some (.vandn (fld w 14 7) (fld w 7 7) (fld w 0 7))
  | 4 => if fld w 0 7 = 0 then some (.vnot (fld w 14 7) (fld w 7 7)) else none
  | 5 => some (.vsel (fld w 14 7) (fld w 7 7) (fld w 0 7))
  | 6 => if fld w 0 7 = 0 then some (.vmov (fld w 14 7) (fld w 7 7)) else none
  | 8 | 9 | 10 | 11 => some (.vshl (fld w 21 2) (fld w 14 7) (fld w 7 7) (fld w 0 7))
  | 12 | 13 | 14 | 15 => some (.vshr (fld w 21 2) (fld w 14 7) (fld w 7 7) (fld w 0 7))
  | 16 | 17 | 18 | 19 => some (.vsar (fld w 21 2) (fld w 14 7) (fld w 7 7) (fld w 0 7))
  | 20 | 21 | 22 | 23 => if fld w 0 7 = 0 then some (.vpop (fld w 21 2) (fld w 14 7) (fld w 7 7)) else none
  | 24 | 25 | 26 | 27 => if fld w 0 7 = 0 then some (.vclz (fld w 21 2) (fld w 14 7) (fld w 7 7)) else none
  | _ => none

/-- Major 0x13 (Table OPC.2): fn values not listed name no instruction. -/
def decode13 (w : Nat) : Option Instr :=
  match fld w 21 5 with
  | 0 | 1 | 2 | 3 => some (.vceq (fld w 21 2) (fld w 14 7) (fld w 7 7) (fld w 0 7))
  | 4 | 5 | 6 | 7 => some (.vcne (fld w 21 2) (fld w 14 7) (fld w 7 7) (fld w 0 7))
  | 8 | 9 | 10 | 11 => some (.vcltI (fld w 21 2) (fld w 14 7) (fld w 7 7) (fld w 0 7))
  | 12 | 13 | 14 | 15 => some (.vcltN (fld w 21 2) (fld w 14 7) (fld w 7 7) (fld w 0 7))
  | 16 | 17 | 18 | 19 => some (.vcleI (fld w 21 2) (fld w 14 7) (fld w 7 7) (fld w 0 7))
  | 20 | 21 | 22 | 23 => some (.vcleN (fld w 21 2) (fld w 14 7) (fld w 7 7) (fld w 0 7))
  | 24 => if fld w 3 4 = 0 ∧ fld w 17 4 = 0 then some (.vtom (fld w 14 3) (fld w 7 7) (fld w 0 3)) else none
  | 25 => if fld w 0 7 = 0 ∧ fld w 10 4 = 0 then some (.mtov (fld w 14 7) (fld w 7 3)) else none
  | _ => none

/-- Major 0x14 (Table OPC.2): fn values not listed name no instruction. -/
def decode14 (w : Nat) : Option Instr :=
  match fld w 21 5 with
  | 0 => some (.vfmaF32 (fld w 14 7) (fld w 7 7) (fld w 0 7))
  | 1 => some (.vfmaF16 (fld w 14 7) (fld w 7 7) (fld w 0 7))
  | 2 => some (.vfmaBf16 (fld w 14 7) (fld w 7 7) (fld w 0 7))
  | 3 => some (.vfmsF32 (fld w 14 7) (fld w 7 7) (fld w 0 7))
  | 4 => some (.vfmsF16 (fld w 14 7) (fld w 7 7) (fld w 0 7))
  | 5 => some (.vfmsBf16 (fld w 14 7) (fld w 7 7) (fld w 0 7))
  | 6 => some (.vfnmaF32 (fld w 14 7) (fld w 7 7) (fld w 0 7))
  | 7 => some (.vfnmaF16 (fld w 14 7) (fld w 7 7) (fld w 0 7))
  | 8 => some (.vfnmaBf16 (fld w 14 7) (fld w 7 7) (fld w 0 7))
  | 9 => some (.vfaddF32 (fld w 14 7) (fld w 7 7) (fld w 0 7))
  | 10 => some (.vfaddF16 (fld w 14 7) (fld w 7 7) (fld w 0 7))
  | 11 => some (.vfaddBf16 (fld w 14 7) (fld w 7 7) (fld w 0 7))
  | 12 => some (.vfsubF32 (fld w 14 7) (fld w 7 7) (fld w 0 7))
  | 13 => some (.vfsubF16 (fld w 14 7) (fld w 7 7) (fld w 0 7))
  | 14 => some (.vfsubBf16 (fld w 14 7) (fld w 7 7) (fld w 0 7))
  | 15 => some (.vfmulF32 (fld w 14 7) (fld w 7 7) (fld w 0 7))
  | 16 => some (.vfmulF16 (fld w 14 7) (fld w 7 7) (fld w 0 7))
  | 17 => some (.vfmulBf16 (fld w 14 7) (fld w 7 7) (fld w 0 7))
  | 18 => some (.vfminF32 (fld w 14 7) (fld w 7 7) (fld w 0 7))
  | 19 => some (.vfminF16 (fld w 14 7) (fld w 7 7) (fld w 0 7))
  | 20 => some (.vfminBf16 (fld w 14 7) (fld w 7 7) (fld w 0 7))
  | 21 => some (.vfmaxF32 (fld w 14 7) (fld w 7 7) (fld w 0 7))
  | 22 => some (.vfmaxF16 (fld w 14 7) (fld w 7 7) (fld w 0 7))
  | 23 => some (.vfmaxBf16 (fld w 14 7) (fld w 7 7) (fld w 0 7))
  | 24 => some (.vfminnumF32 (fld w 14 7) (fld w 7 7) (fld w 0 7))
  | 25 => some (.vfminnumF16 (fld w 14 7) (fld w 7 7) (fld w 0 7))
  | 26 => some (.vfminnumBf16 (fld w 14 7) (fld w 7 7) (fld w 0 7))
  | 27 => some (.vfmaxnumF32 (fld w 14 7) (fld w 7 7) (fld w 0 7))
  | 28 => some (.vfmaxnumF16 (fld w 14 7) (fld w 7 7) (fld w 0 7))
  | 29 => some (.vfmaxnumBf16 (fld w 14 7) (fld w 7 7) (fld w 0 7))
  | _ => none

/-- Major 0x15 (Table OPC.2): fn values not listed name no instruction. -/
def decode15 (w : Nat) : Option Instr :=
  match fld w 21 5 with
  | 0 => some (.vfceqF32 (fld w 14 7) (fld w 7 7) (fld w 0 7))
  | 1 => some (.vfceqF16 (fld w 14 7) (fld w 7 7) (fld w 0 7))
  | 2 => some (.vfceqBf16 (fld w 14 7) (fld w 7 7) (fld w 0 7))
  | 3 => some (.vfcltF32 (fld w 14 7) (fld w 7 7) (fld w 0 7))
  | 4 => some (.vfcltF16 (fld w 14 7) (fld w 7 7) (fld w 0 7))
  | 5 => some (.vfcltBf16 (fld w 14 7) (fld w 7 7) (fld w 0 7))
  | 6 => some (.vfcleF32 (fld w 14 7) (fld w 7 7) (fld w 0 7))
  | 7 => some (.vfcleF16 (fld w 14 7) (fld w 7 7) (fld w 0 7))
  | 8 => some (.vfcleBf16 (fld w 14 7) (fld w 7 7) (fld w 0 7))
  | 9 => some (.vfcunF32 (fld w 14 7) (fld w 7 7) (fld w 0 7))
  | 10 => some (.vfcunF16 (fld w 14 7) (fld w 7 7) (fld w 0 7))
  | 11 => some (.vfcunBf16 (fld w 14 7) (fld w 7 7) (fld w 0 7))
  | 12 => if fld w 0 7 = 0 then some (.vfabsF32 (fld w 14 7) (fld w 7 7)) else none
  | 13 => if fld w 0 7 = 0 then some (.vfabsF16 (fld w 14 7) (fld w 7 7)) else none
  | 14 => if fld w 0 7 = 0 then some (.vfabsBf16 (fld w 14 7) (fld w 7 7)) else none
  | 15 => if fld w 0 7 = 0 then some (.vfnegF32 (fld w 14 7) (fld w 7 7)) else none
  | 16 => if fld w 0 7 = 0 then some (.vfnegF16 (fld w 14 7) (fld w 7 7)) else none
  | 17 => if fld w 0 7 = 0 then some (.vfnegBf16 (fld w 14 7) (fld w 7 7)) else none
  | 18 => if fld w 0 7 = 0 then some (.vfclassF32 (fld w 14 7) (fld w 7 7)) else none
  | 19 => if fld w 0 7 = 0 then some (.vfclassF16 (fld w 14 7) (fld w 7 7)) else none
  | 20 => if fld w 0 7 = 0 then some (.vfclassBf16 (fld w 14 7) (fld w 7 7)) else none
  | 21 => some (.vfcopysignF32 (fld w 14 7) (fld w 7 7) (fld w 0 7))
  | 22 => some (.vfcopysignF16 (fld w 14 7) (fld w 7 7) (fld w 0 7))
  | 23 => some (.vfcopysignBf16 (fld w 14 7) (fld w 7 7) (fld w 0 7))
  | _ => none

/-- Major 0x16 (Table OPC.2): fn values not listed name no instruction. -/
def decode16 (w : Nat) : Option Instr :=
  match fld w 21 5 with
  | 0 => if fld w 1 6 = 0 then some (.vcvtF16F32 (fld w 14 7) (fld w 7 7) (fld w 0 1)) else none
  | 1 => if fld w 1 6 = 0 then some (.vcvtBf16F32 (fld w 14 7) (fld w 7 7) (fld w 0 1)) else none
  | 2 => if fld w 1 6 = 0 then some (.vcvtF32F16 (fld w 14 7) (fld w 7 7) (fld w 0 1)) else none
  | 3 => if fld w 1 6 = 0 then some (.vcvtF32Bf16 (fld w 14 7) (fld w 7 7) (fld w 0 1)) else none
  | 4 => if fld w 0 7 = 0 then some (.vcvtI32F32 (fld w 14 7) (fld w 7 7)) else none
  | 5 => if fld w 0 7 = 0 then some (.vcvtN32F32 (fld w 14 7) (fld w 7 7)) else none
  | 6 => if fld w 0 7 = 0 then some (.vcvtF32I32 (fld w 14 7) (fld w 7 7)) else none
  | 7 => if fld w 0 7 = 0 then some (.vcvtF32N32 (fld w 14 7) (fld w 7 7)) else none
  | 8 => if fld w 2 5 = 0 then some (.vcvtF8e4F32 (fld w 14 7) (fld w 7 7) (fld w 0 2)) else none
  | 9 => if fld w 2 5 = 0 then some (.vcvtF8e5F32 (fld w 14 7) (fld w 7 7) (fld w 0 2)) else none
  | 10 => if fld w 2 5 = 0 then some (.vcvtF32F8e4 (fld w 14 7) (fld w 7 7) (fld w 0 2)) else none
  | 11 => if fld w 2 5 = 0 then some (.vcvtF32F8e5 (fld w 14 7) (fld w 7 7) (fld w 0 2)) else none
  | 12 => if fld w 2 5 = 0 then some (.vcvtF6e2F32 (fld w 14 7) (fld w 7 7) (fld w 0 2)) else none
  | 13 => if fld w 2 5 = 0 then some (.vcvtF6e3F32 (fld w 14 7) (fld w 7 7) (fld w 0 2)) else none
  | 14 => if fld w 2 5 = 0 then some (.vcvtF4F32 (fld w 14 7) (fld w 7 7) (fld w 0 2)) else none
  | 15 => if fld w 2 5 = 0 then some (.vcvtF32F6e2 (fld w 14 7) (fld w 7 7) (fld w 0 2)) else none
  | 16 => if fld w 2 5 = 0 then some (.vcvtF32F6e3 (fld w 14 7) (fld w 7 7) (fld w 0 2)) else none
  | 17 => if fld w 2 5 = 0 then some (.vcvtF32F4 (fld w 14 7) (fld w 7 7) (fld w 0 2)) else none
  | 18 => if fld w 2 5 = 0 then some (.vcvtI8I32 (fld w 14 7) (fld w 7 7) (fld w 0 2)) else none
  | _ => none

/-- Major 0x17 (Table OPC.2): fn values not listed name no instruction. -/
def decode17 (w : Nat) : Option Instr :=
  match fld w 21 5 with
  | 0 => if fld w 0 7 = 0 then some (.vrcpSeed (fld w 14 7) (fld w 7 7)) else none
  | 1 => if fld w 0 7 = 0 then some (.vrsqSeed (fld w 14 7) (fld w 7 7)) else none
  | 2 => if fld w 1 6 = 0 then some (.vexpRed (fld w 14 7) (fld w 7 7) (fld w 0 1)) else none
  | 3 => if fld w 1 6 = 0 then some (.vlogRed (fld w 14 7) (fld w 7 7) (fld w 0 1)) else none
  | 4 => if fld w 1 6 = 0 then some (.vscRed (fld w 14 7) (fld w 7 7) (fld w 0 1)) else none
  | 5 => some (.vldexp (fld w 14 7) (fld w 7 7) (fld w 0 7))
  | 6 => if fld w 0 7 = 0 then some (.vgetexp (fld w 14 7) (fld w 7 7)) else none
  | 7 => if fld w 0 7 = 0 then some (.vgetman (fld w 14 7) (fld w 7 7)) else none
  | 8 => if fld w 0 7 = 0 then some (.vfrac (fld w 14 7) (fld w 7 7)) else none
  | 9 => if fld w 0 7 = 0 then some (.vfrnd (fld w 14 7) (fld w 7 7)) else none
  | 10 => some (.vscFix (fld w 14 7) (fld w 7 7) (fld w 0 7))
  | _ => none

/-- Major 0x18 (Table OPC.1). -/
def decode18 (w : Nat) : Option Instr :=
  some (.vaddi (fld w 19 7) (fld w 12 7) (fld w 0 12))

/-- Major 0x19 (Table OPC.1). -/
def decode19 (w : Nat) : Option Instr :=
  if fld w 12 7 = 0 then some (.vmovi (fld w 19 7) (fld w 0 12)) else none

/-- Major 0x1A (Table OPC.1). -/
def decode1A (w : Nat) : Option Instr :=
  some (.vsplat (fld w 19 7) (fld w 12 7) (fld w 0 12))

/-- Major 0x1B (Table OPC.2): fn values not listed name no instruction. -/
def decode1B (w : Nat) : Option Instr :=
  match fld w 21 5 with
  | 0 => some (.vshfl (fld w 14 7) (fld w 7 7) (fld w 0 7))
  | 1 => some (.vshfleE32 (fld w 14 7) (fld w 7 7) (fld w 0 7))
  | 2 => if fld w 3 4 = 0 then some (.vpswap (fld w 14 7) (fld w 7 7) (fld w 0 3)) else none
  | 3 => if fld w 0 7 = 0 then some (.vprefixAddI32 (fld w 14 7) (fld w 7 7)) else none
  | 4 => if fld w 0 7 = 0 then some (.vprefixAddF32 (fld w 14 7) (fld w 7 7)) else none
  | 5 => if fld w 0 7 = 0 then some (.vredAddI32 (fld w 14 7) (fld w 7 7)) else none
  | 6 => if fld w 0 7 = 0 then some (.vredAddF32 (fld w 14 7) (fld w 7 7)) else none
  | 7 => if fld w 0 7 = 0 then some (.vredMaxI32 (fld w 14 7) (fld w 7 7)) else none
  | 8 => if fld w 0 7 = 0 then some (.vredMaxF32 (fld w 14 7) (fld w 7 7)) else none
  | 9 => if fld w 0 7 = 0 then some (.vmaxidxF16 (fld w 14 7) (fld w 7 7)) else none
  | 10 => if fld w 0 7 = 0 then some (.vmaxidxF32 (fld w 14 7) (fld w 7 7)) else none
  | 11 => if fld w 3 4 = 0 then some (.vcompact (fld w 14 7) (fld w 7 7) (fld w 0 3)) else none
  | 12 => if fld w 3 4 = 0 then some (.vexpand (fld w 14 7) (fld w 7 7) (fld w 0 3)) else none
  | 13 => if fld w 0 14 = 0 then some (.vlaneid (fld w 14 7)) else none
  | 14 => if fld w 0 7 = 0 then some (.vvoteAll (fld w 14 7) (fld w 7 7)) else none
  | 15 => if fld w 0 7 = 0 then some (.vvoteAny (fld w 14 7) (fld w 7 7)) else none
  | 16 => if fld w 0 7 = 0 ∧ fld w 17 4 = 0 then some (.vballot (fld w 14 3) (fld w 7 7)) else none
  | 17 => if fld w 0 7 = 0 then some (.qswpH (fld w 14 7) (fld w 7 7)) else none
  | 18 => if fld w 0 7 = 0 then some (.qswpV (fld w 14 7) (fld w 7 7)) else none
  | 19 => if fld w 0 7 = 0 then some (.qswpD (fld w 14 7) (fld w 7 7)) else none
  | 20 => some (.qbcast (fld w 14 7) (fld w 7 7) (fld w 0 7))
  | 21 => if fld w 2 5 = 0 then some (.vpkpx (fld w 14 7) (fld w 7 7) (fld w 0 2)) else none
  | 22 => if fld w 2 5 = 0 then some (.vunpx (fld w 14 7) (fld w 7 7) (fld w 0 2)) else none
  | 23 => if fld w 3 4 = 0 then some (.vpkmx (fld w 14 7) (fld w 7 7) (fld w 0 3)) else none
  | 24 => if fld w 3 4 = 0 then some (.vunmx (fld w 14 7) (fld w 7 7) (fld w 0 3)) else none
  | _ => none

/-- Major 0x1C (Table OPC.2): fn values not listed name no instruction. -/
def decode1C (w : Nat) : Option Instr :=
  match fld w 22 4 with
  | 0 => some (.vget (fld w 15 7) (fld w 8 7) (fld w 0 8))
  | 1 => some (.vput (fld w 15 7) (fld w 8 7) (fld w 0 8))
  | 2 => some (.vbcast (fld w 15 7) (fld w 8 7) (fld w 0 8))
  | 3 => some (.vbfly (fld w 15 7) (fld w 8 7) (fld w 0 8))
  | 4 => some (.vrot (fld w 15 7) (fld w 8 7) (fld w 0 8))
  | 5 => if fld w 2 6 = 0 then some (.qbcastI (fld w 15 7) (fld w 8 7) (fld w 0 2)) else none
  | _ => none

/-- Major 0x1D (Table OPC.1). -/
def decode1D (w : Nat) : Option Instr :=
  some (.vld32 (fld w 19 7) (fld w 12 7) (fld w 0 12))

/-- Major 0x1E (Table OPC.1). -/
def decode1E (w : Nat) : Option Instr :=
  some (.vld64 (fld w 19 7) (fld w 12 7) (fld w 0 12))

/-- Major 0x1F (Table OPC.1). -/
def decode1F (w : Nat) : Option Instr :=
  some (.vst32 (fld w 19 7) (fld w 12 7) (fld w 0 12))

/-- Major 0x20 (Table OPC.1). -/
def decode20 (w : Nat) : Option Instr :=
  some (.vst64 (fld w 19 7) (fld w 12 7) (fld w 0 12))

/-- Major 0x21 (Table OPC.1). -/
def decode21 (w : Nat) : Option Instr :=
  some (.vld16 (fld w 19 7) (fld w 12 7) (fld w 0 12))

/-- Major 0x22 (Table OPC.1). -/
def decode22 (w : Nat) : Option Instr :=
  some (.vst16 (fld w 19 7) (fld w 12 7) (fld w 0 12))

/-- Major 0x23 (Table OPC.1). -/
def decode23 (w : Nat) : Option Instr :=
  some (.vld8 (fld w 19 7) (fld w 12 7) (fld w 0 12))

/-- Major 0x24 (Table OPC.1). -/
def decode24 (w : Nat) : Option Instr :=
  some (.vst8 (fld w 19 7) (fld w 12 7) (fld w 0 12))

/-- Major 0x25 (Table OPC.1). -/
def decode25 (w : Nat) : Option Instr :=
  some (.sld (fld w 19 7) (fld w 12 7) (fld w 0 12))

/-- Major 0x26 (Table OPC.1). -/
def decode26 (w : Nat) : Option Instr :=
  some (.sst (fld w 19 7) (fld w 12 7) (fld w 0 12))

/-- Major 0x27 (Table OPC.1). -/
def decode27 (w : Nat) : Option Instr :=
  some (.spld (fld w 19 7) (fld w 12 7) (fld w 0 12))

/-- Major 0x28 (Table OPC.1). -/
def decode28 (w : Nat) : Option Instr :=
  some (.spst (fld w 19 7) (fld w 12 7) (fld w 0 12))

/-- Major 0x29 (Table OPC.2): fn values not listed name no instruction. -/
def decode29 (w : Nat) : Option Instr :=
  match fld w 21 5 with
  | 0 => some (.vldx32 (fld w 14 7) (fld w 7 7) (fld w 0 7))
  | 1 => some (.vldx64 (fld w 14 7) (fld w 7 7) (fld w 0 7))
  | 2 => some (.vstx32 (fld w 14 7) (fld w 7 7) (fld w 0 7))
  | 3 => some (.vstx64 (fld w 14 7) (fld w 7 7) (fld w 0 7))
  | 4 => some (.vldx16 (fld w 14 7) (fld w 7 7) (fld w 0 7))
  | 5 => some (.vstx16 (fld w 14 7) (fld w 7 7) (fld w 0 7))
  | 6 => some (.vldx8 (fld w 14 7) (fld w 7 7) (fld w 0 7))
  | 7 => some (.vstx8 (fld w 14 7) (fld w 7 7) (fld w 0 7))
  | 8 => if fld w 0 21 = 0 then some .fence else none
  | 9 => if fld w 15 6 = 0 then some (.vprefetch (fld w 14 1) (fld w 7 7) (fld w 0 7)) else none
  | _ => none

/-- Major 0x2A (Table OPC.2): fn values not listed name no instruction. -/
noncomputable def decode2A (w : Nat) : Option Instr :=
  match fld w 21 5 with
  | 0 => some (.atomAddE32 (fld w 14 7) (fld w 7 7) (fld w 0 7))
  | 1 => some (.atomAddE64 (fld w 14 7) (fld w 7 7) (fld w 0 7))
  | 2 => some (.atomMinI32 (fld w 14 7) (fld w 7 7) (fld w 0 7))
  | 3 => some (.atomMinN32 (fld w 14 7) (fld w 7 7) (fld w 0 7))
  | 4 => some (.atomMaxI32 (fld w 14 7) (fld w 7 7) (fld w 0 7))
  | 5 => some (.atomMaxN32 (fld w 14 7) (fld w 7 7) (fld w 0 7))
  | 6 => some (.atomAndB64 (fld w 14 7) (fld w 7 7) (fld w 0 7))
  | 7 => some (.atomOrB64 (fld w 14 7) (fld w 7 7) (fld w 0 7))
  | 8 => some (.atomXorB64 (fld w 14 7) (fld w 7 7) (fld w 0 7))
  | 9 => some (.atomXchgE32 (fld w 14 7) (fld w 7 7) (fld w 0 7))
  | 10 => some (.atomXchgE64 (fld w 14 7) (fld w 7 7) (fld w 0 7))
  | 11 => some (.atomCasE32 (fld w 14 7) (fld w 7 7) (fld w 0 7))
  | 12 => some (.atomCasE64 (fld w 14 7) (fld w 7 7) (fld w 0 7))
  | 13 => some (.atomFaddF32 (fld w 14 7) (fld w 7 7) (fld w 0 7))
  | 14 => some (.atomFaddBf16x2 (fld w 14 7) (fld w 7 7) (fld w 0 7))
  | 15 => some (.atomMaxidxF16 (fld w 14 7) (fld w 7 7) (fld w 0 7))
  | _ => none

/-- Major 0x2B (Table OPC.2): fn values not listed name no instruction. -/
noncomputable def decode2B (w : Nat) : Option Instr :=
  match fld w 21 5 with
  | 0 => if fld w 1 10 = 0 ∧ fld w 18 3 = 0 then some (.gang (fld w 11 7) (fld w 0 1)) else none
  | 1 => if fld w 4 7 = 0 then some (.mma (fld w 18 3) (fld w 11 7) (fld w 0 4)) else none
  | 2 => some (.mmat (fld w 18 3) (fld w 11 7) (fld w 4 7) (fld w 0 4))
  | 3 => if fld w 0 4 = 0 ∧ fld w 7 11 = 0 then some (.mprom (fld w 18 3) (fld w 4 3)) else none
  | 4 => if fld w 0 18 = 0 then some (.acczero (fld w 18 3)) else none
  | 5 => if fld w 1 3 = 0 ∧ fld w 18 3 = 0 then some (.wbld (fld w 11 7) (fld w 4 7) (fld w 0 1)) else none
  | 6 => if fld w 0 11 = 0 ∧ fld w 18 3 = 0 then some (.wbfree (fld w 11 7)) else none
  | 7 => if fld w 1 3 = 0 ∧ fld w 18 3 = 0 then some (.fmtchk (fld w 11 7) (fld w 4 7) (fld w 0 1)) else none
  | _ => none

/-- Major 0x2C (Table OPC.2): fn values not listed name no instruction. -/
noncomputable def decode2C (w : Nat) : Option Instr :=
  match fld w 21 5 with
  | 0 => if fld w 4 7 = 0 ∧ fld w 18 3 = 0 then some (.sxld (fld w 11 7) (fld w 0 4)) else none
  | 1 => if fld w 1 20 = 0 then some (.sxrun (fld w 0 1)) else none
  | 2 => if fld w 1 10 = 0 ∧ fld w 18 3 = 0 then some (.sxst (fld w 11 7) (fld w 0 1)) else none
  | 3 => if fld w 0 11 = 0 ∧ fld w 18 3 = 0 then some (.sxstat (fld w 11 7)) else none
  | 4 => if fld w 1 20 = 0 then some (.sxabort (fld w 0 1)) else none
  | _ => none

/-- Major 0x2D (Table OPC.2): fn values not listed name no instruction. -/
noncomputable def decode2D (w : Nat) : Option Instr :=
  match fld w 21 5 with
  | 0 => if fld w 0 4 = 0 ∧ fld w 18 3 = 0 then some (.acopy (fld w 11 7) (fld w 4 7)) else none
  | 1 => if fld w 1 3 = 0 ∧ fld w 18 3 = 0 then some (.acopyo (fld w 11 7) (fld w 4 7) (fld w 0 1)) else none
  | 2 => if fld w 0 4 = 0 ∧ fld w 18 3 = 0 then some (.agath (fld w 11 7) (fld w 4 7)) else none
  | 3 => if fld w 1 3 = 0 ∧ fld w 18 3 = 0 then some (.ascat (fld w 11 7) (fld w 4 7) (fld w 0 1)) else none
  | 4 => if fld w 18 3 = 0 then some (.acoll (fld w 11 7) (fld w 4 7) (fld w 0 4)) else none
  | 5 => if fld w 1 3 = 0 ∧ fld w 18 3 = 0 then some (.mcast (fld w 11 7) (fld w 4 7) (fld w 0 1)) else none
  | 6 => if fld w 0 4 = 0 ∧ fld w 18 3 = 0 then some (.tstat (fld w 11 7) (fld w 4 7)) else none
  | 7 => if fld w 2 9 = 0 ∧ fld w 18 3 = 0 then some (.trel (fld w 11 7) (fld w 0 2)) else none
  | 8 => if fld w 1 3 = 0 ∧ fld w 18 3 = 0 then some (.talloc (fld w 11 7) (fld w 4 7) (fld w 0 1)) else none
  | 9 => if fld w 0 4 = 0 ∧ fld w 18 3 = 0 then some (.tglook (fld w 11 7) (fld w 4 7)) else none
  | 10 => if fld w 0 4 = 0 ∧ fld w 18 3 = 0 then some (.tgset (fld w 11 7) (fld w 4 7)) else none
  | 11 => if fld w 1 10 = 0 ∧ fld w 18 3 = 0 then some (.tgclr (fld w 11 7) (fld w 0 1)) else none
  | _ => none

/-- Major 0x2E (Table OPC.2): fn values not listed name no instruction. -/
noncomputable def decode2E (w : Nat) : Option Instr :=
  match fld w 21 5 with
  | 0 => if fld w 0 4 = 0 ∧ fld w 18 3 = 0 then some (.bopen (fld w 11 7) (fld w 4 7)) else none
  | 1 => if fld w 1 10 = 0 ∧ fld w 18 3 = 0 then some (.bclose (fld w 11 7) (fld w 0 1)) else none
  | 2 => if fld w 0 4 = 0 ∧ fld w 18 3 = 0 then some (.bld (fld w 11 7) (fld w 4 7)) else none
  | 3 => if fld w 1 10 = 0 ∧ fld w 18 3 = 0 then some (.bchk (fld w 11 7) (fld w 0 1)) else none
  | 4 => if fld w 0 4 = 0 ∧ fld w 18 3 = 0 then some (.bfetch (fld w 11 7) (fld w 4 7)) else none
  | 5 => if fld w 2 2 = 0 ∧ fld w 18 3 = 0 then some (.bstat (fld w 11 7) (fld w 4 7) (fld w 0 2)) else none
  | _ => none

/-- Major 0x2F (Table OPC.2): fn values not listed name no instruction. -/
noncomputable def decode2F (w : Nat) : Option Instr :=
  match fld w 21 5 with
  | 0 => if fld w 0 7 = 0 ∧ fld w 14 7 = 0 then some (.ret (fld w 7 7)) else none
  | 1 => if fld w 0 7 = 0 ∧ fld w 14 7 = 0 then some (.brx (fld w 7 7)) else none
  | 2 => if fld w 3 18 = 0 then some (.rcv (fld w 0 3)) else none
  | 3 => if fld w 0 21 = 0 then some .allon else none
  | 4 => if fld w 0 21 = 0 then some .alloff else none
  | 5 => some (.regroup (fld w 14 7) (fld w 7 7) (fld w 0 7))
  | 6 => if fld w 0 21 = 0 then some .yield else none
  | 7 => if fld w 0 21 = 0 then some .nop else none
  | 8 => if fld w 0 21 = 0 then some .exit else none
  | 9 => if fld w 0 7 = 0 then some (.callx (fld w 14 7) (fld w 7 7)) else none
  | _ => none

/-- Major 0x30 (Table OPC.2): fn values not listed name no instruction. -/
noncomputable def decode30 (w : Nat) : Option Instr :=
  match fld w 21 5 with
  | 0 => some (.fork (fld w 18 3) (fld w 11 7) (fld w 4 7) (fld w 0 4))
  | 1 => if fld w 0 11 = 0 ∧ fld w 18 3 = 0 then some (.join (fld w 11 7)) else none
  | 2 => if fld w 0 21 = 0 then some .fend else none
  | 3 => if fld w 0 21 = 0 then some .hold else none
  | 4 => if fld w 0 21 = 0 then some .release else none
  | 5 => if fld w 18 3 = 0 then some (.frstat (fld w 11 7) (fld w 4 7) (fld w 0 4)) else none
  | _ => none

/-- Major 0x31 (Table OPC.2): fn values not listed name no instruction. -/
noncomputable def decode31 (w : Nat) : Option Instr :=
  match fld w 21 5 with
  | 0 => if fld w 4 17 = 0 then some (.bar (fld w 0 4)) else none
  | 1 => if fld w 4 7 = 0 ∧ fld w 18 3 = 0 then some (.bara (fld w 11 7) (fld w 0 4)) else none
  | 2 => if fld w 4 7 = 0 ∧ fld w 18 3 = 0 then some (.barw (fld w 11 7) (fld w 0 4)) else none
  | 3 => if fld w 2 19 = 0 then some (.cbar (fld w 0 2)) else none
  | 4 => if fld w 0 11 = 0 ∧ fld w 17 4 = 0 then some (.waitc (fld w 11 6)) else none
  | 5 => if fld w 0 4 = 0 ∧ fld w 18 3 = 0 then some (.seqw (fld w 11 7) (fld w 4 7)) else none
  | 6 => if fld w 0 11 = 0 ∧ fld w 18 3 = 0 then some (.sleep (fld w 11 7)) else none
  | _ => none

/-- Major 0x32 (Table OPC.2): fn values not listed name no instruction. -/
noncomputable def decode32 (w : Nat) : Option Instr :=
  match fld w 21 5 with
  | 0 => if fld w 0 4 = 0 ∧ fld w 18 3 = 0 then some (.qput (fld w 11 7) (fld w 4 7)) else none
  | 1 => if fld w 0 4 = 0 ∧ fld w 18 3 = 0 then some (.qtake (fld w 11 7) (fld w 4 7)) else none
  | 2 => if fld w 0 4 = 0 ∧ fld w 18 3 = 0 then some (.qstat (fld w 11 7) (fld w 4 7)) else none
  | 3 => if fld w 0 4 = 0 ∧ fld w 18 3 = 0 then some (.amsg (fld w 11 7) (fld w 4 7)) else none
  | 4 => if fld w 2 2 = 0 ∧ fld w 18 3 = 0 then some (.dturn (fld w 11 7) (fld w 4 7) (fld w 0 2)) else none
  | 5 => if fld w 0 4 = 0 ∧ fld w 18 3 = 0 then some (.submit (fld w 11 7) (fld w 4 7)) else none
  | _ => none

/-- Major 0x33 (Table OPC.2): fn values not listed name no instruction. -/
noncomputable def decode33 (w : Nat) : Option Instr :=
  match fld w 21 5 with
  | 0 => if fld w 10 4 = 0 then some (.arowRd (fld w 14 7) (fld w 7 3) (fld w 0 7)) else none
  | 1 => if fld w 17 4 = 0 then some (.arowWr (fld w 14 3) (fld w 7 7) (fld w 0 7)) else none
  | 2 => if fld w 10 4 = 0 then some (.acolRd (fld w 14 7) (fld w 7 3) (fld w 0 7)) else none
  | 3 => if fld w 17 4 = 0 then some (.acolWr (fld w 14 3) (fld w 7 7) (fld w 0 7)) else none
  | 4 => if fld w 10 4 = 0 then some (.arowRdb (fld w 14 7) (fld w 7 3) (fld w 0 7)) else none
  | 5 => if fld w 17 4 = 0 then some (.arowAdd (fld w 14 3) (fld w 7 7) (fld w 0 7)) else none
  | _ => none

/-- Major 0x3E (Table OPC.2): fn values not listed name no instruction. -/
noncomputable def decode3E (w : Nat) : Option Instr :=
  match fld w 16 10 with
  | 0 => some (.trap (fld w 0 16))
  | 1 => if fld w 0 7 = 0 then some (.rett (fld w 14 2) (fld w 7 7)) else none
  | 2 => some (.rinj (fld w 15 1) (fld w 13 2) (fld w 6 7) (fld w 0 6))
  | 3 => if fld w 0 1 = 0 then some (.sysrd (fld w 9 7) (fld w 1 8)) else none
  | 4 => if fld w 0 1 = 0 then some (.syswr (fld w 9 7) (fld w 1 8)) else none
  | 5 => if fld w 1 7 = 0 then some (.halt (fld w 8 8) (fld w 0 1)) else none
  | 6 => if fld w 0 9 = 0 then some (.mboxSend (fld w 9 7)) else if fld w 0 9 = 256 then some (.mboxRecv (fld w 9 7)) else none
  | 7 => some (.brk (fld w 0 16))
  | 8 => if fld w 0 2 = 0 then some (.ucnt (fld w 9 7) (fld w 3 6) (fld w 2 1)) else none
  | 9 => if fld w 0 2 = 0 then some (.attest (fld w 9 7) (fld w 2 7)) else none
  | _ => none

/-- Major 0x3F, kind 0: a hint (R57). The kinds 1 to 3 are prefixes and stand before an instruction (R65). -/
noncomputable def decode3F (w : Nat) : Option Instr :=
  if fld w 5 21 = 0 then some (.hint (fld w 4 1) (fld w 0 4)) else none

/-- The instruction a word names, before the field checks of its entry (R72 steps 3 and 4, and the fixed
zero bits of step 6). -/
noncomputable def decodeRaw (w : Nat) : Option Instr :=
  match fld w 26 6 with
  | 1 => decode01 w
  | 2 => decode02 w
  | 3 => decode03 w
  | 4 => decode04 w
  | 5 => decode05 w
  | 6 => decode06 w
  | 7 => decode07 w
  | 8 => decode08 w
  | 9 => decode09 w
  | 10 => decode0A w
  | 11 => decode0B w
  | 12 => decode0C w
  | 13 => decode0D w
  | 14 => decode0E w
  | 15 => decode0F w
  | 16 => decode10 w
  | 17 => decode11 w
  | 18 => decode12 w
  | 19 => decode13 w
  | 20 => decode14 w
  | 21 => decode15 w
  | 22 => decode16 w
  | 23 => decode17 w
  | 24 => decode18 w
  | 25 => decode19 w
  | 26 => decode1A w
  | 27 => decode1B w
  | 28 => decode1C w
  | 29 => decode1D w
  | 30 => decode1E w
  | 31 => decode1F w
  | 32 => decode20 w
  | 33 => decode21 w
  | 34 => decode22 w
  | 35 => decode23 w
  | 36 => decode24 w
  | 37 => decode25 w
  | 38 => decode26 w
  | 39 => decode27 w
  | 40 => decode28 w
  | 41 => decode29 w
  | 42 => decode2A w
  | 43 => decode2B w
  | 44 => decode2C w
  | 45 => decode2D w
  | 46 => decode2E w
  | 47 => decode2F w
  | 48 => decode30 w
  | 49 => decode31 w
  | 50 => decode32 w
  | 51 => decode33 w
  | 62 => decode3E w
  | 63 => decode3F w
  | _ => none

/-- The instruction a 32-bit word names, none where the word raises ILLOP by itself (R68, R70). -/
noncomputable def decodeWord (w : Nat) : Option Instr := (decodeRaw w).filter Instr.fieldsOk

/-- The instruction in the first four bytes, with the bytes left over (R2, R51). -/
noncomputable def decodeBytes : List Byte → Option (Instr × List Byte)
  | b0 :: b1 :: b2 :: b3 :: t =>
    match decodeWord (ofBytesLE [b0, b1, b2, b3]) with
    | some i => some (i, t)
    | none => none
  | _ => none

/-- The decoder on a word numbered as the opcode table numbers it: one 32-bit word, its lowest byte first. -/
noncomputable def decodeTableWord (nbits w : Nat) : Option Instr :=
  (decodeBytes (bytesLE 4 (w % 2 ^ nbits))).map Prod.fst

/-- The word of a well-formed instruction (Tables ASM.1, OPC.2); 0, which is no instruction, for a command
or an event. -/
def encode : Instr → Nat
  | .sadd d a b => 0x04000000 + d * 16384 + a * 128 + b
  | .ssub d a b => 0x04200000 + d * 16384 + a * 128 + b
  | .smul d a b => 0x04400000 + d * 16384 + a * 128 + b
  | .smulhI d a b => 0x04600000 + d * 16384 + a * 128 + b
  | .smulhN d a b => 0x04800000 + d * 16384 + a * 128 + b
  | .sdivI d a b => 0x04A00000 + d * 16384 + a * 128 + b
  | .sdivN d a b => 0x04C00000 + d * 16384 + a * 128 + b
  | .sremI d a b => 0x04E00000 + d * 16384 + a * 128 + b
  | .sremN d a b => 0x05000000 + d * 16384 + a * 128 + b
  | .sminI d a b => 0x05200000 + d * 16384 + a * 128 + b
  | .sminN d a b => 0x05400000 + d * 16384 + a * 128 + b
  | .smaxI d a b => 0x05600000 + d * 16384 + a * 128 + b
  | .smaxN d a b => 0x05800000 + d * 16384 + a * 128 + b
  | .sabs d a => 0x05A00000 + d * 16384 + a * 128
  | .sneg d a => 0x05C00000 + d * 16384 + a * 128
  | .seq d a b => 0x05E00000 + d * 16384 + a * 128 + b
  | .sne d a b => 0x06000000 + d * 16384 + a * 128 + b
  | .sltI d a b => 0x06200000 + d * 16384 + a * 128 + b
  | .sltN d a b => 0x06400000 + d * 16384 + a * 128 + b
  | .sleI d a b => 0x06600000 + d * 16384 + a * 128 + b
  | .sleN d a b => 0x06800000 + d * 16384 + a * 128 + b
  | .ssel d a b => 0x06A00000 + d * 16384 + a * 128 + b
  | .smov d a => 0x06C00000 + d * 16384 + a * 128
  | .sadds d a b => 0x06E00000 + d * 16384 + a * 128 + b
  | .sand d a b => 0x08000000 + d * 16384 + a * 128 + b
  | .sor d a b => 0x08200000 + d * 16384 + a * 128 + b
  | .sxor d a b => 0x08400000 + d * 16384 + a * 128 + b
  | .sandn d a b => 0x08600000 + d * 16384 + a * 128 + b
  | .snot d a => 0x08800000 + d * 16384 + a * 128
  | .sshl d a b => 0x08A00000 + d * 16384 + a * 128 + b
  | .sshr d a b => 0x08C00000 + d * 16384 + a * 128 + b
  | .ssar d a b => 0x08E00000 + d * 16384 + a * 128 + b
  | .srol d a b => 0x09000000 + d * 16384 + a * 128 + b
  | .sror d a b => 0x09200000 + d * 16384 + a * 128 + b
  | .sclz d a => 0x09400000 + d * 16384 + a * 128
  | .sctz d a => 0x09600000 + d * 16384 + a * 128
  | .spop d a => 0x09800000 + d * 16384 + a * 128
  | .sbfxI d a b => 0x09A00000 + d * 16384 + a * 128 + b
  | .sbfxN d a b => 0x09C00000 + d * 16384 + a * 128 + b
  | .sbfi d a b => 0x09E00000 + d * 16384 + a * 128 + b
  | .mand d a b => 0x0C000000 + d * 16384 + a * 128 + b
  | .mor d a b => 0x0C200000 + d * 16384 + a * 128 + b
  | .mxor d a b => 0x0C400000 + d * 16384 + a * 128 + b
  | .mandn d a b => 0x0C600000 + d * 16384 + a * 128 + b
  | .mnot d a => 0x0C800000 + d * 16384 + a * 128
  | .mmov d a => 0x0CA00000 + d * 16384 + a * 128
  | .mpop d a => 0x0CC00000 + d * 16384 + a * 128
  | .mfirst d a => 0x0CE00000 + d * 16384 + a * 128
  | .mtos d a => 0x0D000000 + d * 16384 + a * 128
  | .stom d a => 0x0D200000 + d * 16384 + a * 128
  | .mbelow d a b => 0x0D400000 + d * 16384 + a * 128 + b
  | .saddi d a i => 0x10000000 + d * 524288 + a * 4096 + i
  | .sandi d a i => 0x14000000 + d * 524288 + a * 4096 + i
  | .sori d a i => 0x18000000 + d * 524288 + a * 4096 + i
  | .sxori d a i => 0x1C000000 + d * 524288 + a * 4096 + i
  | .sshli d a i => 0x20000000 + d * 524288 + a * 4096 + i
  | .sshri d a i => 0x24000000 + d * 524288 + a * 4096 + i
  | .sslti d a i => 0x28000000 + d * 524288 + a * 4096 + i
  | .sli d i => 0x2C000000 + d * 524288 + i
  | .br o => 0x30000000 + o
  | .call o => 0x34000000 + o
  | .bc a c o => 0x38000000 + a * 524288 + c * 65536 + o
  | .vbr a c o => 0x3C000000 + a * 524288 + c * 65536 + o
  | .vadd w d a b => 0x40000000 + w * 2097152 + d * 16384 + a * 128 + b
  | .vsub w d a b => 0x40800000 + w * 2097152 + d * 16384 + a * 128 + b
  | .vmul w d a b => 0x41000000 + w * 2097152 + d * 16384 + a * 128 + b
  | .vmulhI w d a b => 0x41800000 + w * 2097152 + d * 16384 + a * 128 + b
  | .vmulhN w d a b => 0x42000000 + w * 2097152 + d * 16384 + a * 128 + b
  | .vaddSatI w d a b => 0x42800000 + w * 2097152 + d * 16384 + a * 128 + b
  | .vaddSatN w d a b => 0x43000000 + w * 2097152 + d * 16384 + a * 128 + b
  | .vminI w d a b => 0x44000000 + w * 2097152 + d * 16384 + a * 128 + b
  | .vminN w d a b => 0x44800000 + w * 2097152 + d * 16384 + a * 128 + b
  | .vmaxI w d a b => 0x45000000 + w * 2097152 + d * 16384 + a * 128 + b
  | .vmaxN w d a b => 0x45800000 + w * 2097152 + d * 16384 + a * 128 + b
  | .vabs w d a => 0x46000000 + w * 2097152 + d * 16384 + a * 128
  | .vneg w d a => 0x46800000 + w * 2097152 + d * 16384 + a * 128
  | .vavgN w d a b => 0x47000000 + w * 2097152 + d * 16384 + a * 128 + b
  | .vand d a b => 0x48000000 + d * 16384 + a * 128 + b
  | .vor d a b => 0x48200000 + d * 16384 + a * 128 + b
  | .vxor d a b => 0x48400000 + d * 16384 + a * 128 + b
  | .vandn d a b => 0x48600000 + d * 16384 + a * 128 + b
  | .vnot d a => 0x48800000 + d * 16384 + a * 128
  | .vsel d a b => 0x48A00000 + d * 16384 + a * 128 + b
  | .vmov d a => 0x48C00000 + d * 16384 + a * 128
  | .vshl w d a b => 0x49000000 + w * 2097152 + d * 16384 + a * 128 + b
  | .vshr w d a b => 0x49800000 + w * 2097152 + d * 16384 + a * 128 + b
  | .vsar w d a b => 0x4A000000 + w * 2097152 + d * 16384 + a * 128 + b
  | .vpop w d a => 0x4A800000 + w * 2097152 + d * 16384 + a * 128
  | .vclz w d a => 0x4B000000 + w * 2097152 + d * 16384 + a * 128
  | .vceq w d a b => 0x4C000000 + w * 2097152 + d * 16384 + a * 128 + b
  | .vcne w d a b => 0x4C800000 + w * 2097152 + d * 16384 + a * 128 + b
  | .vcltI w d a b => 0x4D000000 + w * 2097152 + d * 16384 + a * 128 + b
  | .vcltN w d a b => 0x4D800000 + w * 2097152 + d * 16384 + a * 128 + b
  | .vcleI w d a b => 0x4E000000 + w * 2097152 + d * 16384 + a * 128 + b
  | .vcleN w d a b => 0x4E800000 + w * 2097152 + d * 16384 + a * 128 + b
  | .vtom d a e => 0x4F000000 + d * 16384 + a * 128 + e
  | .mtov d a => 0x4F200000 + d * 16384 + a * 128
  | .vfmaF32 d a b => 0x50000000 + d * 16384 + a * 128 + b
  | .vfmaF16 d a b => 0x50200000 + d * 16384 + a * 128 + b
  | .vfmaBf16 d a b => 0x50400000 + d * 16384 + a * 128 + b
  | .vfmsF32 d a b => 0x50600000 + d * 16384 + a * 128 + b
  | .vfmsF16 d a b => 0x50800000 + d * 16384 + a * 128 + b
  | .vfmsBf16 d a b => 0x50A00000 + d * 16384 + a * 128 + b
  | .vfnmaF32 d a b => 0x50C00000 + d * 16384 + a * 128 + b
  | .vfnmaF16 d a b => 0x50E00000 + d * 16384 + a * 128 + b
  | .vfnmaBf16 d a b => 0x51000000 + d * 16384 + a * 128 + b
  | .vfaddF32 d a b => 0x51200000 + d * 16384 + a * 128 + b
  | .vfaddF16 d a b => 0x51400000 + d * 16384 + a * 128 + b
  | .vfaddBf16 d a b => 0x51600000 + d * 16384 + a * 128 + b
  | .vfsubF32 d a b => 0x51800000 + d * 16384 + a * 128 + b
  | .vfsubF16 d a b => 0x51A00000 + d * 16384 + a * 128 + b
  | .vfsubBf16 d a b => 0x51C00000 + d * 16384 + a * 128 + b
  | .vfmulF32 d a b => 0x51E00000 + d * 16384 + a * 128 + b
  | .vfmulF16 d a b => 0x52000000 + d * 16384 + a * 128 + b
  | .vfmulBf16 d a b => 0x52200000 + d * 16384 + a * 128 + b
  | .vfminF32 d a b => 0x52400000 + d * 16384 + a * 128 + b
  | .vfminF16 d a b => 0x52600000 + d * 16384 + a * 128 + b
  | .vfminBf16 d a b => 0x52800000 + d * 16384 + a * 128 + b
  | .vfmaxF32 d a b => 0x52A00000 + d * 16384 + a * 128 + b
  | .vfmaxF16 d a b => 0x52C00000 + d * 16384 + a * 128 + b
  | .vfmaxBf16 d a b => 0x52E00000 + d * 16384 + a * 128 + b
  | .vfminnumF32 d a b => 0x53000000 + d * 16384 + a * 128 + b
  | .vfminnumF16 d a b => 0x53200000 + d * 16384 + a * 128 + b
  | .vfminnumBf16 d a b => 0x53400000 + d * 16384 + a * 128 + b
  | .vfmaxnumF32 d a b => 0x53600000 + d * 16384 + a * 128 + b
  | .vfmaxnumF16 d a b => 0x53800000 + d * 16384 + a * 128 + b
  | .vfmaxnumBf16 d a b => 0x53A00000 + d * 16384 + a * 128 + b
  | .vfceqF32 d a b => 0x54000000 + d * 16384 + a * 128 + b
  | .vfceqF16 d a b => 0x54200000 + d * 16384 + a * 128 + b
  | .vfceqBf16 d a b => 0x54400000 + d * 16384 + a * 128 + b
  | .vfcltF32 d a b => 0x54600000 + d * 16384 + a * 128 + b
  | .vfcltF16 d a b => 0x54800000 + d * 16384 + a * 128 + b
  | .vfcltBf16 d a b => 0x54A00000 + d * 16384 + a * 128 + b
  | .vfcleF32 d a b => 0x54C00000 + d * 16384 + a * 128 + b
  | .vfcleF16 d a b => 0x54E00000 + d * 16384 + a * 128 + b
  | .vfcleBf16 d a b => 0x55000000 + d * 16384 + a * 128 + b
  | .vfcunF32 d a b => 0x55200000 + d * 16384 + a * 128 + b
  | .vfcunF16 d a b => 0x55400000 + d * 16384 + a * 128 + b
  | .vfcunBf16 d a b => 0x55600000 + d * 16384 + a * 128 + b
  | .vfabsF32 d a => 0x55800000 + d * 16384 + a * 128
  | .vfabsF16 d a => 0x55A00000 + d * 16384 + a * 128
  | .vfabsBf16 d a => 0x55C00000 + d * 16384 + a * 128
  | .vfnegF32 d a => 0x55E00000 + d * 16384 + a * 128
  | .vfnegF16 d a => 0x56000000 + d * 16384 + a * 128
  | .vfnegBf16 d a => 0x56200000 + d * 16384 + a * 128
  | .vfclassF32 d a => 0x56400000 + d * 16384 + a * 128
  | .vfclassF16 d a => 0x56600000 + d * 16384 + a * 128
  | .vfclassBf16 d a => 0x56800000 + d * 16384 + a * 128
  | .vfcopysignF32 d a b => 0x56A00000 + d * 16384 + a * 128 + b
  | .vfcopysignF16 d a b => 0x56C00000 + d * 16384 + a * 128 + b
  | .vfcopysignBf16 d a b => 0x56E00000 + d * 16384 + a * 128 + b
  | .vcvtF16F32 d a p => 0x58000000 + d * 16384 + a * 128 + p
  | .vcvtBf16F32 d a p => 0x58200000 + d * 16384 + a * 128 + p
  | .vcvtF32F16 d a p => 0x58400000 + d * 16384 + a * 128 + p
  | .vcvtF32Bf16 d a p => 0x58600000 + d * 16384 + a * 128 + p
  | .vcvtI32F32 d a => 0x58800000 + d * 16384 + a * 128
  | .vcvtN32F32 d a => 0x58A00000 + d * 16384 + a * 128
  | .vcvtF32I32 d a => 0x58C00000 + d * 16384 + a * 128
  | .vcvtF32N32 d a => 0x58E00000 + d * 16384 + a * 128
  | .vcvtF8e4F32 d a p => 0x59000000 + d * 16384 + a * 128 + p
  | .vcvtF8e5F32 d a p => 0x59200000 + d * 16384 + a * 128 + p
  | .vcvtF32F8e4 d a p => 0x59400000 + d * 16384 + a * 128 + p
  | .vcvtF32F8e5 d a p => 0x59600000 + d * 16384 + a * 128 + p
  | .vcvtF6e2F32 d a p => 0x59800000 + d * 16384 + a * 128 + p
  | .vcvtF6e3F32 d a p => 0x59A00000 + d * 16384 + a * 128 + p
  | .vcvtF4F32 d a p => 0x59C00000 + d * 16384 + a * 128 + p
  | .vcvtF32F6e2 d a p => 0x59E00000 + d * 16384 + a * 128 + p
  | .vcvtF32F6e3 d a p => 0x5A000000 + d * 16384 + a * 128 + p
  | .vcvtF32F4 d a p => 0x5A200000 + d * 16384 + a * 128 + p
  | .vcvtI8I32 d a p => 0x5A400000 + d * 16384 + a * 128 + p
  | .vrcpSeed d a => 0x5C000000 + d * 16384 + a * 128
  | .vrsqSeed d a => 0x5C200000 + d * 16384 + a * 128
  | .vexpRed d a k => 0x5C400000 + d * 16384 + a * 128 + k
  | .vlogRed d a k => 0x5C600000 + d * 16384 + a * 128 + k
  | .vscRed d a k => 0x5C800000 + d * 16384 + a * 128 + k
  | .vldexp d a b => 0x5CA00000 + d * 16384 + a * 128 + b
  | .vgetexp d a => 0x5CC00000 + d * 16384 + a * 128
  | .vgetman d a => 0x5CE00000 + d * 16384 + a * 128
  | .vfrac d a => 0x5D000000 + d * 16384 + a * 128
  | .vfrnd d a => 0x5D200000 + d * 16384 + a * 128
  | .vscFix d a b => 0x5D400000 + d * 16384 + a * 128 + b
  | .vaddi d a i => 0x60000000 + d * 524288 + a * 4096 + i
  | .vmovi d i => 0x64000000 + d * 524288 + i
  | .vsplat d a i => 0x68000000 + d * 524288 + a * 4096 + i
  | .vshfl d a b => 0x6C000000 + d * 16384 + a * 128 + b
  | .vshfleE32 d a b => 0x6C200000 + d * 16384 + a * 128 + b
  | .vpswap d a k => 0x6C400000 + d * 16384 + a * 128 + k
  | .vprefixAddI32 d a => 0x6C600000 + d * 16384 + a * 128
  | .vprefixAddF32 d a => 0x6C800000 + d * 16384 + a * 128
  | .vredAddI32 d a => 0x6CA00000 + d * 16384 + a * 128
  | .vredAddF32 d a => 0x6CC00000 + d * 16384 + a * 128
  | .vredMaxI32 d a => 0x6CE00000 + d * 16384 + a * 128
  | .vredMaxF32 d a => 0x6D000000 + d * 16384 + a * 128
  | .vmaxidxF16 d a => 0x6D200000 + d * 16384 + a * 128
  | .vmaxidxF32 d a => 0x6D400000 + d * 16384 + a * 128
  | .vcompact d a b => 0x6D600000 + d * 16384 + a * 128 + b
  | .vexpand d a b => 0x6D800000 + d * 16384 + a * 128 + b
  | .vlaneid d => 0x6DA00000 + d * 16384
  | .vvoteAll d a => 0x6DC00000 + d * 16384 + a * 128
  | .vvoteAny d a => 0x6DE00000 + d * 16384 + a * 128
  | .vballot d a => 0x6E000000 + d * 16384 + a * 128
  | .qswpH d a => 0x6E200000 + d * 16384 + a * 128
  | .qswpV d a => 0x6E400000 + d * 16384 + a * 128
  | .qswpD d a => 0x6E600000 + d * 16384 + a * 128
  | .qbcast d a b => 0x6E800000 + d * 16384 + a * 128 + b
  | .vpkpx d a f => 0x6EA00000 + d * 16384 + a * 128 + f
  | .vunpx d a f => 0x6EC00000 + d * 16384 + a * 128 + f
  | .vpkmx d a f => 0x6EE00000 + d * 16384 + a * 128 + f
  | .vunmx d a f => 0x6F000000 + d * 16384 + a * 128 + f
  | .vget d a i => 0x70000000 + d * 32768 + a * 256 + i
  | .vput d a i => 0x70400000 + d * 32768 + a * 256 + i
  | .vbcast d a i => 0x70800000 + d * 32768 + a * 256 + i
  | .vbfly d a i => 0x70C00000 + d * 32768 + a * 256 + i
  | .vrot d a i => 0x71000000 + d * 32768 + a * 256 + i
  | .qbcastI d a p => 0x71400000 + d * 32768 + a * 256 + p
  | .vld32 d a i => 0x74000000 + d * 524288 + a * 4096 + i
  | .vld64 d a i => 0x78000000 + d * 524288 + a * 4096 + i
  | .vst32 d a i => 0x7C000000 + d * 524288 + a * 4096 + i
  | .vst64 d a i => 0x80000000 + d * 524288 + a * 4096 + i
  | .vld16 d a i => 0x84000000 + d * 524288 + a * 4096 + i
  | .vst16 d a i => 0x88000000 + d * 524288 + a * 4096 + i
  | .vld8 d a i => 0x8C000000 + d * 524288 + a * 4096 + i
  | .vst8 d a i => 0x90000000 + d * 524288 + a * 4096 + i
  | .sld d a i => 0x94000000 + d * 524288 + a * 4096 + i
  | .sst d a i => 0x98000000 + d * 524288 + a * 4096 + i
  | .spld d a i => 0x9C000000 + d * 524288 + a * 4096 + i
  | .spst d a i => 0xA0000000 + d * 524288 + a * 4096 + i
  | .vldx32 d a b => 0xA4000000 + d * 16384 + a * 128 + b
  | .vldx64 d a b => 0xA4200000 + d * 16384 + a * 128 + b
  | .vstx32 d a b => 0xA4400000 + d * 16384 + a * 128 + b
  | .vstx64 d a b => 0xA4600000 + d * 16384 + a * 128 + b
  | .vldx16 d a b => 0xA4800000 + d * 16384 + a * 128 + b
  | .vstx16 d a b => 0xA4A00000 + d * 16384 + a * 128 + b
  | .vldx8 d a b => 0xA4C00000 + d * 16384 + a * 128 + b
  | .vstx8 d a b => 0xA4E00000 + d * 16384 + a * 128 + b
  | .fence => 0xA5000000
  | .vprefetch l a b => 0xA5200000 + l * 16384 + a * 128 + b
  | .atomAddE32 d a b => 0xA8000000 + d * 16384 + a * 128 + b
  | .atomAddE64 d a b => 0xA8200000 + d * 16384 + a * 128 + b
  | .atomMinI32 d a b => 0xA8400000 + d * 16384 + a * 128 + b
  | .atomMinN32 d a b => 0xA8600000 + d * 16384 + a * 128 + b
  | .atomMaxI32 d a b => 0xA8800000 + d * 16384 + a * 128 + b
  | .atomMaxN32 d a b => 0xA8A00000 + d * 16384 + a * 128 + b
  | .atomAndB64 d a b => 0xA8C00000 + d * 16384 + a * 128 + b
  | .atomOrB64 d a b => 0xA8E00000 + d * 16384 + a * 128 + b
  | .atomXorB64 d a b => 0xA9000000 + d * 16384 + a * 128 + b
  | .atomXchgE32 d a b => 0xA9200000 + d * 16384 + a * 128 + b
  | .atomXchgE64 d a b => 0xA9400000 + d * 16384 + a * 128 + b
  | .atomCasE32 d a b => 0xA9600000 + d * 16384 + a * 128 + b
  | .atomCasE64 d a b => 0xA9800000 + d * 16384 + a * 128 + b
  | .atomFaddF32 d a b => 0xA9A00000 + d * 16384 + a * 128 + b
  | .atomFaddBf16x2 d a b => 0xA9C00000 + d * 16384 + a * 128 + b
  | .atomMaxidxF16 d a b => 0xA9E00000 + d * 16384 + a * 128 + b
  | .gang a k => 0xAC000000 + a * 2048 + k
  | .mma t a k => 0xAC200000 + t * 262144 + a * 2048 + k
  | .mmat t a b k => 0xAC400000 + t * 262144 + a * 2048 + b * 16 + k
  | .mprom t b => 0xAC600000 + t * 262144 + b * 16
  | .acczero t => 0xAC800000 + t * 262144
  | .wbld a b k => 0xACA00000 + a * 2048 + b * 16 + k
  | .wbfree a => 0xACC00000 + a * 2048
  | .fmtchk a b k => 0xACE00000 + a * 2048 + b * 16 + k
  | .sxld a k => 0xB0000000 + a * 2048 + k
  | .sxrun k => 0xB0200000 + k
  | .sxst a k => 0xB0400000 + a * 2048 + k
  | .sxstat a => 0xB0600000 + a * 2048
  | .sxabort k => 0xB0800000 + k
  | .acopy a b => 0xB4000000 + a * 2048 + b * 16
  | .acopyo a b k => 0xB4200000 + a * 2048 + b * 16 + k
  | .agath a b => 0xB4400000 + a * 2048 + b * 16
  | .ascat a b k => 0xB4600000 + a * 2048 + b * 16 + k
  | .acoll a b k => 0xB4800000 + a * 2048 + b * 16 + k
  | .mcast a b k => 0xB4A00000 + a * 2048 + b * 16 + k
  | .tstat a b => 0xB4C00000 + a * 2048 + b * 16
  | .trel a k => 0xB4E00000 + a * 2048 + k
  | .talloc a b k => 0xB5000000 + a * 2048 + b * 16 + k
  | .tglook a b => 0xB5200000 + a * 2048 + b * 16
  | .tgset a b => 0xB5400000 + a * 2048 + b * 16
  | .tgclr a k => 0xB5600000 + a * 2048 + k
  | .bopen a b => 0xB8000000 + a * 2048 + b * 16
  | .bclose a k => 0xB8200000 + a * 2048 + k
  | .bld a b => 0xB8400000 + a * 2048 + b * 16
  | .bchk a k => 0xB8600000 + a * 2048 + k
  | .bfetch a b => 0xB8800000 + a * 2048 + b * 16
  | .bstat a b k => 0xB8A00000 + a * 2048 + b * 16 + k
  | .ret a => 0xBC000000 + a * 128
  | .brx a => 0xBC200000 + a * 128
  | .rcv c => 0xBC400000 + c
  | .allon => 0xBC600000
  | .alloff => 0xBC800000
  | .regroup d a b => 0xBCA00000 + d * 16384 + a * 128 + b
  | .yield => 0xBCC00000
  | .nop => 0xBCE00000
  | .exit => 0xBD000000
  | .callx d a => 0xBD200000 + d * 16384 + a * 128
  | .fork t a b k => 0xC0000000 + t * 262144 + a * 2048 + b * 16 + k
  | .join a => 0xC0200000 + a * 2048
  | .fend => 0xC0400000
  | .hold => 0xC0600000
  | .release => 0xC0800000
  | .frstat a b k => 0xC0A00000 + a * 2048 + b * 16 + k
  | .bar k => 0xC4000000 + k
  | .bara a k => 0xC4200000 + a * 2048 + k
  | .barw a k => 0xC4400000 + a * 2048 + k
  | .cbar k => 0xC4600000 + k
  | .waitc c => 0xC4800000 + c * 2048
  | .seqw a b => 0xC4A00000 + a * 2048 + b * 16
  | .sleep a => 0xC4C00000 + a * 2048
  | .qput a b => 0xC8000000 + a * 2048 + b * 16
  | .qtake a b => 0xC8200000 + a * 2048 + b * 16
  | .qstat a b => 0xC8400000 + a * 2048 + b * 16
  | .amsg a b => 0xC8600000 + a * 2048 + b * 16
  | .dturn a b k => 0xC8800000 + a * 2048 + b * 16 + k
  | .submit a b => 0xC8A00000 + a * 2048 + b * 16
  | .arowRd d a b => 0xCC000000 + d * 16384 + a * 128 + b
  | .arowWr d a b => 0xCC200000 + d * 16384 + a * 128 + b
  | .acolRd d a b => 0xCC400000 + d * 16384 + a * 128 + b
  | .acolWr d a b => 0xCC600000 + d * 16384 + a * 128 + b
  | .arowRdb d a b => 0xCC800000 + d * 16384 + a * 128 + b
  | .arowAdd d a b => 0xCCA00000 + d * 16384 + a * 128 + b
  | .trap n => 0xF8000000 + n
  | .rett m r => 0xF8010000 + m * 16384 + r * 128
  | .rinj d k i h => 0xF8020000 + d * 32768 + k * 8192 + i * 64 + h
  | .sysrd d n => 0xF8030000 + d * 512 + n * 2
  | .syswr a n => 0xF8040000 + a * 512 + n * 2
  | .halt c s => 0xF8050000 + c * 256 + s
  | .mboxSend a => 0xF8060000 + a * 512
  | .mboxRecv a => 0xF8060100 + a * 512
  | .brk n => 0xF8070000 + n
  | .ucnt d r k => 0xF8080000 + d * 512 + r * 8 + k * 4
  | .attest a b => 0xF8090000 + a * 512 + b * 4
  | .hint g p => 0xFC000000 + g * 16 + p
  | .srseedWrite _ => 0
  | .hbperiodWrite _ => 0
  | .hbmodeWrite _ => 0
  | .gangWrite _ => 0
  | .divspillSpill _ => 0
  | .divspillDrop _ => 0
  | .divspillOpen _ => 0
  | .create _ => 0
  | .regkernel _ => 0
  | .regregion _ => 0
  | .regtask _ => 0
  | .regqueue _ => 0
  | .grant _ => 0
  | .shrink _ => 0
  | .resume _ => 0
  | .switch _ => 0
  | .migrate _ => 0
  | .destroy _ => 0
  | .launch _ => 0
  | .resync _ => 0
  | .setbanks _ => 0
  | .setsort _ => 0
  | .resolve _ => 0
  | .abort _ => 0
  | .alloc _ => 0
  | .free _ => 0
  | .dirtylog _ => 0
  | .setdomain _ => 0
  | .setlinknet _ => 0
  | .bind _ => 0
  | .allot _ => 0
  | .badcmd _ => 0
  | .badseq _ => 0
  | .doorbell _ => 0
  | .eqlostClear _ => 0
  | .h2ptail _ => 0
  | .ptroot _ => 0
  | .inval _ => 0
  | .powerRun _ => 0
  | .powerCapped _ => 0
  | .powerRetention _ => 0
  | .imgGo _ => 0
  | .hostRegisterWrite _ _ => 0
  | .hostMemoryAccess _ _ _ _ => 0
  | .invalidationComplete => 0
  | .imageVerified _ => 0
  | .reset => 0
  | .firmwareCheckEnd _ => 0
  | .powerLoss => 0
  | .thermalLimit _ _ => 0
  | .thermalLift => 0
  | .thermalTrip _ _ => 0
  | .quiescenceEnd _ => 0
  | .contextScrubEnd _ => 0
  | .migrationExportEnd _ => 0
  | .kernelDone _ => 0
  | .allotment _ _ => 0
  | .evictionBound _ _ => 0
  | .evictedRequeue _ => 0
  | .wake _ _ => 0
  | .heartbeatTick _ _ => 0
  | .heartbeatTickMode1 _ => 0
  | .promotion _ _ => 0
  | .promoted _ _ => 0
  | .spawnForward _ => 0
  | .recordClaim _ _ _ => 0
  | .frameSpill _ _ => 0
  | .tileFillEnd _ => 0
  | .tileDrainEnd _ => 0
  | .engineCompletion _ => 0
  | .mcastDelivery _ _ => 0
  | .sortLoadEnd _ => 0
  | .sortRunEnd _ => 0
  | .sortStop _ => 0
  | .sortStoreEnd _ => 0
  | .sortSoftError _ => 0
  | .matrixResult _ => 0
  | .wbldSlotLoaded _ => 0
  | .loadReply _ => 0
  | .atomicReply _ => 0
  | .homeAccess _ _ _ => 0
  | .walkComplete _ => 0
  | .pageScrubStart _ _ => 0
  | .pageScrubEnd _ => 0
  | .memoryError _ _ _ => 0
  | .packetCheckFailure _ _ _ _ _ => 0
  | .lostNotice _ => 0
  | .transactionTimeout _ => 0
  | .linkFailure _ => 0
  | .activeMessageArrival _ => 0
  | .bundleCommit _ _ => 0
  | .bundleInstall _ _ _ => 0
  | .versionFetch _ _ => 0
  | .installResend _ _ _ => 0
  | .bundleSoftError _ _ => 0
  | .turnStart _ => 0
  | .turnEnd _ _ => 0
  | .handlerStart _ => 0
  | .attach _ => 0
  | .detach _ => 0
  | .porterHalt _ => 0
  | .porterResume _ => 0
  | .porterStep _ => 0
  | .stepgrp _ => 0
  | .setbrk _ => 0
  | .clrbrk _ => 0
  | .rdreg _ => 0
  | .wrreg _ => 0
  | .rdmem _ => 0
  | .wrmem _ => 0
  | .illopEncoding => 0
  | .eqHeadWrite _ => 0
  | .mboxBaseWrite _ _ => 0

/-- A mod word's fields (Table ASM.4). -/
structure ModW where
  rmv : Bool
  rm  : Nat
  pv  : Bool
  pn  : Bool
  pm  : Nat
  ov  : Bool
  ord : Nat
  scp : Nat
  px  : Nat
  ewv : Bool
  ew  : Nat
  bit0 : Nat
  deriving DecidableEq, Repr

/-- The fields of a mod payload (Table ASM.4). -/
def ModW.ofPayload (x : Nat) : ModW :=
  { rmv := fld x 23 1 = 1, rm := fld x 20 3, pv := fld x 19 1 = 1, pn := fld x 18 1 = 1, pm := fld x 15 3,
    ov := fld x 14 1 = 1, ord := fld x 11 3, scp := fld x 8 3, px := fld x 4 4, ewv := fld x 3 1 = 1,
    ew := fld x 1 2, bit0 := fld x 0 1 }

/-- No modifier at all. -/
def ModW.none : ModW := ModW.ofPayload 0

/-- The field checks on a mod word (R59, R70, Table ASM.4): absent groups are zero, present codes are legal. -/
def ModW.fieldsOk (m : ModW) : Bool :=
  m.bit0 = 0 && (if m.rmv then m.rm ≤ 5 else m.rm = 0) && (m.pv || (m.pn = false && m.pm = 0)) &&
  (if m.ov then m.ord ≤ 4 && m.scp ≤ 5 else m.ord = 0 && m.scp = 0) && (m.ewv || m.ew = 0)

/-- A rpt payload (R63): repetitions and the three signed steps. -/
structure RptW where
  cnt : Nat
  sd  : Int
  sa  : Int
  sb  : Int
  deriving DecidableEq, Repr

/-- The fields of a rpt payload (Table ASM.3). -/
def RptW.ofPayload (x : Nat) : RptW :=
  { cnt := fld x 18 6 + 1, sd := toI 6 (fld x 12 6), sa := toI 6 (fld x 6 6), sb := toI 6 (fld x 0 6) }

/-- The prefixes of one instruction (R65). -/
structure Prefixes where
  rpt : Option RptW
  mod : Option ModW
  his : List Nat
  deriving DecidableEq, Repr

/-- No prefix. -/
def Prefixes.none : Prefixes := { rpt := Option.none, mod := Option.none, his := [] }

/-- What decoding makes of a run of words: the prefixes, the word of the instruction and its place in the
run; or the run breaks the rules of R65; or it needs more words. -/
inductive Run where
  | instr (p : Prefixes) (word at_ : Nat)
  | illop
  | more
  deriving DecidableEq, Repr

/-- The prefix run of R65, read from its first word on. `kprev` is the kind of the word before. -/
def parseRun : Nat → Prefixes → Nat → List Nat → Run
  | _, _, _, [] => .more
  | kprev, p, at_, w :: t =>
    let k := fld w 24 2
    if fld w 26 6 = 0x3F then
      if k = 0 then (if kprev < 4 then .illop else .instr p w at_)
      else if k > kprev ∨ (k = kprev ∧ k ≠ 1) ∨ p.his.length = 2 then .illop
      else
        let x := fld w 0 24
        let p' : Prefixes :=
          if k = 3 then { p with rpt := some (RptW.ofPayload x) }
          else if k = 2 then { p with mod := some (ModW.ofPayload x) }
          else { p with his := p.his ++ [x] }
        parseRun k p' (at_ + 1) t
    else .instr p w at_

/-- A register field of `w` at bit `lo`, stepped by `k`; none outside 0 to 127 (R63). -/
def stepField (w lo : Nat) (k : Int) : Option Nat :=
  let v : Int := fld w lo 7 + k
  if 0 ≤ v ∧ v ≤ 127 then some (w - fld w lo 7 * 2 ^ lo + v.toNat * 2 ^ lo) else none

/-- The word of repetition `i` of an instruction under rpt (R63): d, a and b stepped at the places their
format gives them. None where a stepped number leaves 0 to 127. -/
def stepWord (w i : Nat) (r : RptW) : Option Nat :=
  let m := fld w 26 6
  let fmtB := (0x04 ≤ m ∧ m ≤ 0x0B) ∨ (0x18 ≤ m ∧ m ≤ 0x1A) ∨ (0x1D ≤ m ∧ m ≤ 0x24)
  let places : Nat × Nat := if fmtB then (19, 12) else if m = 0x1C then (15, 8) else (14, 7)
  ((stepField w places.1 (i * r.sd)).bind fun w1 =>
    if r.sa = 0 then some w1 else stepField w1 places.2 (i * r.sa)).bind fun w2 =>
      if r.sb = 0 then some w2 else stepField w2 0 (i * r.sb)

end Sys2Proof
end

