-- ==== Sys2Proof/Machine/State.lean ====
section
/-! DEFINITION. The state of the device, all of it plain data, and the state after reset. INVENTORY.md lists
every piece with the rule of spec/ that names it. -/

namespace Sys2Proof.Machine

/-- How a step can stop the machine. -/
inductive Fault where
  /-- Raised by every instruction of a path when the state names no issuing path (`State.iss`): such a step
  does not occur on the device. Safe: nothing is said of the device. -/
  | noPath
  deriving DecidableEq, Repr

/-- How a step can be without a meaning. -/
inductive Refusal where
  /-- An instruction the model gives no meaning yet; raised by arms of `exec` only. Safe. -/
  | notModelled (mnemonic : String)
  deriving DecidableEq, Repr

/-- Trap causes (Table TRP.8). -/
inductive Cause where
  | illop | regbound | maskreq | divdeep | divrefill | perm | align | padbound | tileempty | gang | framemem
  | brk | step | engine | fpx | regfault | sortstate | bundle | syscall | priv | framejoin
  deriving DecidableEq, Repr

/-- Where a group is resident: core of the device, quadrant, partition, position; position 16 is the handler
position of the partition (R10, R344). -/
structure Place where
  core : Nat
  quad : Nat
  part : Nat
  pos  : Nat
  deriving DecidableEq, Repr

/-- Frame states (Table FRM.3). -/
inductive FrameSt where
  | joined | latent | promoting | promoted | running | done | inlined | reserved
  deriving DecidableEq, Repr

/-- An entry of a path's frame stack with what its record holds (R241, R242). -/
structure Frame where
  addr   : Nat
  st     : FrameSt
  target : W64
  mask   : W32
  fpmode : W64
  nv     : Nat
  ns     : Nat
  sa     : Nat
  vb     : Nat
  ret    : W64
  smask  : W32
  sargs  : List W64
  vargs  : SMap W64          -- key 32·i + lane
  onchip : Bool
  failed : Bool              -- its spill failed (R242)
  deriving DecidableEq, Repr

/-- What a waiting path waits for (wake conditions, R147, R192). -/
inductive Wake where
  | score (rs : List (Nat × Nat))            -- busy registers, by kind and number (R132, R137)
  | acc (t : Nat)                            -- a busy accumulator (R150)
  | faultRoom                                -- room in the fault buffer (R314)
  | sleep (until_ : Nat)                     -- R147
  | waitc (cls : Nat) (ids : List Nat)       -- R147: the operations still in flight
  | seqw (va pa val : Nat) (acq : Bool)       -- R147, R148: value 0 once a write has satisfied it
  | bar (cohort : Bool) (k phase : Nat)      -- R263: the phase of the arrival
  | barAgain (cohort : Bool) (k phase : Nat) -- Table BAR.3: arrived already
  | barw (k phase : Nat)                     -- R263
  | rcv (tok : Nat)                          -- R231
  | regroup (d a b : Nat)                    -- R235
  | join (addr : Nat)                        -- R253
  | claim                                    -- R252
  | frame (addr : Nat)                       -- R242: a spill or a read-back
  | latch                                    -- R161
  | tile (t : Nat) (mat held : Bool)         -- R139: by matrix work (R198); and until it is held no more (R159)
  | eplace (eng : Nat)                       -- R145
  | sort                                     -- R175
  | wslots (ss : List Nat) (mat : Bool)      -- R159, R160; by matrix work that is charged (R198)
  | charges                                  -- R198
  | queue (q : Nat) (put : Bool)             -- R207
  | dirFree                                  -- R303
  | fetch                                    -- the group's bfetch is in flight (R300, R307)
  | turnQueue (b : Nat)                      -- R337
  | turnDone (b n : Nat)                     -- R337
  | mbox (send : Bool)                       -- R355
  | rinj (gid kind n : Nat)                  -- R351: a register of the interrupted group
  | porter                                   -- the Porter's firmware waits for the host (R356)
  | actSlot (dev core len : Nat)              -- R331: an injection slot of class ACT
  | order (write rel : Bool) (foot : List (Nat × Nat)) -- earlier accesses of its path, before one made at issue (R268, R281)
  deriving DecidableEq, Repr

/-- A trap taken and not yet ended (R340, R342). -/
structure TrapRec where
  cause  : Cause
  data   : W64
  addr   : W64      -- %trapaddr
  next   : W64      -- after the whole run and its repetitions
  rep    : Nat      -- %trapinfo REP
  after_ : Bool     -- taken after (Table TRP.4)
  deriving DecidableEq, Repr

/-- Path conditions (R223); a debugger halt stands beside them. -/
inductive Cond where
  | ready
  | waiting (w : Wake)
  | parked (n : Nat)                -- translations outstanding (R132)
  | trapped (t : TrapRec)
  deriving DecidableEq, Repr

/-- What a path condition reads as (R223): `issuing` for a path of which an instruction issued in this cycle. -/
inductive PCond where
  | ready | issuing | waiting | parked | trapped | halted
  deriving DecidableEq, Repr

/-- Group states (Table GRP.1), but for `retired`, of which no group record is left. -/
inductive GSt where
  | free | allotted | ready | issuing | waiting | parked | diverged | split | trapped | halted | evicted
  deriving DecidableEq, Repr

/-- One path of a group: slot A, slot B or a fragment (R223, R227, R228). -/
structure Path where
  pc       : W64
  rep      : Nat               -- repetition to issue (R64)
  mask     : W32
  cond     : Cond
  halted   : Bool
  after_   : W64               -- where a path waiting in an instruction goes on
  since    : Nat               -- the stamp of when it began to wait, 0 for none (R175, R207)
  tok      : Nat               -- token of the division (R228)
  parent   : Nat               -- PSLOT (R228)
  saved    : Option W32        -- saved mask of an allon region (R234)
  held     : Bool              -- held by another path's allon (R234)
  nent     : Nat               -- NENT (R229)
  frames   : List Frame        -- newest first (R239)
  promo    : Bool              -- pending promotion (R245)
  reserve  : List Nat          -- claimed records (R240)
  claimed  : Nat               -- last claimed index (R240)
  arrivals : List (Bool × Nat × Nat) -- barrier arrivals: cohort, number, phase (R258)
  counted  : Bool              -- the instruction at pc is counted (R370)
  fpx      : Option TrapRec    -- an enabled exception raised (R27)
  fmem     : Bool              -- FRAMEMEM due at the next boundary (R246)
  stepReq  : Nat               -- a Porter step: 0 none, 1 to be taken, 2 taken, STEP due (R358)
  stepAt   : W64               -- the instruction stepped, and the one after its run
  stepNext : W64
  skipCmp  : List Nat          -- comparators not matched for one issue (R357)
  permFail : List (Nat × Nat × Nat) -- pages, by address and size code, whose translation ended with PERM, with the fault kind (R132)
  aborted  : Bool              -- one of them by an ABORT (R315)
  woken    : Option Wake       -- the wait it was last woken from, while it takes the same instruction again
  gap      : Nat               -- issue gap left, in arithmetic cycles (R58, R238)
  inl      : Bool              -- it began inside the code of an inlined frame of its group (R91)
  deriving DecidableEq, Repr

/-- A reconvergence stack entry (Table GRP.3). -/
structure REntry where
  dpc    : W64
  owner  : Nat
  fdepth : Nat
  phase  : Bool
  tok    : Nat
  dmask  : W32
  deriving DecidableEq, Repr

/-- One register write. -/
inductive RegW where
  | s (n : Nat) (v : W64)
  | v (n l : Nat) (x : W64)
  | m (n : Nat) (x : W32)
  deriving DecidableEq, Repr

/-- Arithmetic issued whose result is not yet written: its writes and the flags it raises (R341). -/
structure PipeE where
  gid    : Nat
  slot   : Nat
  writes : List RegW
  flags  : Nat
  te     : Nat       -- the enabled flags of %fpmode when it issued (R27, R352)
  addr   : W64
  next   : W64
  rep    : Nat
  deriving DecidableEq, Repr

/-- The frame a spawned group runs (R246). -/
structure Spawn where
  addr : Nat
  pgid : Nat
  pslot : Nat
  target : W64
  mask : W32
  fpmode : W64
  nv : Nat
  ns : Nat
  sa : Nat
  vb : Nat
  sargs : List W64
  vargs : SMap W64
  deriving DecidableEq, Repr

/-- What a group runs. -/
inductive GKind where
  | grid                           -- launched by a kernel
  | spawned (f : Spawn)            -- a promoted frame (R246)
  | message                        -- a message handler (R221)
  | trapH (gid slot : Nat)         -- a trap handler, with the path it serves (R345)
  | porter (gid slot : Nat)        -- the Porter (R356)
  deriving DecidableEq, Repr

/-- A bundle handle (R291). -/
structure Handle where
  die : Nat        -- die of the device
  idx : Nat
  gen : Nat
  dom : Nat        -- domain number of the device when it was opened
  deriving DecidableEq, Repr

/-- A read-set entry (R297): line, its virtual address, the copy's cells, stamp, reference, LOST. -/
structure RSEntry where
  line  : Nat
  va    : Nat
  cells : SMap Byte
  stamp : Nat
  ref   : Option Handle
  lost  : Bool
  deriving DecidableEq, Repr

/-- A group (R38, R45, R223). -/
structure Group where
  ctx      : Nat
  place    : Place
  resident : Bool
  kind     : GKind
  kernel   : Nat
  team     : Nat              -- key of its team, 0 for none
  req      : Nat              -- allotment request it belongs to (R217)
  grp      : Nat
  teamNo   : Nat
  cohort   : Nat
  grid     : W64
  base     : Nat
  budget   : Nat
  v        : SMap W64         -- key 32·n + lane
  s        : SMap W64
  m        : SMap W32
  live     : W32
  paths    : SMap Path        -- key %slot
  divTok   : Nat
  fdepth   : Nat
  rstack   : List REntry      -- oldest first
  spill    : Nat
  fpmode   : W64
  fpflags  : W64
  frbase   : W64
  nrec     : Nat
  divbase  : W64
  err      : Nat              -- six ERR bits (R148)
  hold     : Bool
  hbCount  : Nat
  tickDue  : Bool
  readset  : List RSEntry
  bundle   : Option Handle
  bReason  : Nat
  replay   : List PipeE
  trapcause : W64
  trapaddr : W64
  trapinfo : W64
  trapdata : W64
  begun    : Bool             -- an instruction of it has issued (Table GRP.1)
  damaged  : List (Nat × Nat) -- soft errors: kind (0 s, 1 v, 2 m) and register, of a vector register 32·n + lane (R342)
  residentAt : Nat
  deriving DecidableEq, Repr

/-- One lane's access (R264): addresses, operand x, comparand c, whether it is a bundle store (R296), whether
performed, the value returned. -/
structure LaneAcc where
  lane : Nat
  va   : Nat
  pa   : Nat
  x    : Nat
  c    : Nat
  bun  : Bool
  done : Bool
  res  : Nat
  deriving DecidableEq, Repr

/-- A destination register. -/
inductive Dst where
  | vec (d : Nat)
  | sca (d : Nat)
  | none
  deriving DecidableEq, Repr

/-- Kinds of access to memory (Table MEM.1, Table MEM.3). -/
inductive MemK where
  | load
  | store
  | atom (fn : Nat)
  deriving DecidableEq, Repr

/-- A memory instruction in flight (R132, R135): bytes per lane, order, scope, destination, lanes. -/
structure MemOp where
  k      : MemK
  n      : Nat
  ord    : Nat
  scp    : Nat
  dst    : Dst
  lanes  : List LaneAcc
  bundle : Option Handle
  cls    : Nat           -- ERR class of a loss (R328)
  deriving DecidableEq, Repr

/-- A multicast target (R332). -/
structure Target where
  gen  : Nat
  tile : Nat
  dev  : Nat
  core : Nat
  deriving DecidableEq, Repr

/-- An engine operation in flight (R143 to R146, R332). -/
structure EngOp where
  eng    : Nat
  fn     : Nat
  seq    : Nat
  addr   : Nat
  pitch  : Int
  secs   : Nat
  rows   : Nat
  off    : Nat
  tile   : Nat
  rec_   : Nat
  itile  : Nat
  ioff   : Nat
  cnt    : Nat
  opc    : Nat
  keep   : Bool
  idx    : SMap Nat      -- row indices read (R144)
  todo   : List Nat      -- what has not moved
  moved  : Bool          -- the tile has reached its end state (R139)
  status : Nat
  denied : List (Nat × Nat) -- pages, by address and size code, whose fault was answered by ABORT (R315)
  recDrop : Bool         -- its record is not written (R146)
  rmask  : Nat
  targets : List Target
  loff   : Nat
  deriving DecidableEq, Repr

/-- Accepted matrix work not yet written (R150, R163, R165). -/
inductive MatKind where
  | zero
  | prom (b : Nat)
  | mm (af bf p : Nat) (a b : List (List Nat)) (asc bsc : List (List Nat)) (fx : Nat) (slots gids : List Nat)
  deriving DecidableEq, Repr

/-- What is in flight. -/
inductive OpKind where
  | mem (m : MemOp)
  | fence (ord scp : Nat)
  | eng (e : EngOp)
  | mat (q t : Nat) (k : MatKind)
  | wb (q slot n fmt : Nat) (sp : Bool) (off k tile rmask : Nat) (freed : List Nat)
  | submit (anchor rec_ ka kr : Nat) (reg : Nat) (res : Nat)
  | bclose (h : Handle) (reg : Nat)
  | bfetch (reg : Nat) (todo : List (Nat × Nat)) (lost : Nat)
  | amsg (m : AMsg)
  deriving DecidableEq, Repr

/-- An operation in flight with the path that issued it; `also` are the other paths whose accesses it comes before: those
that have divided from its path since (R264), and the path that a handler has returned to (R276). -/
structure Op where
  gid  : Nat
  slot : Nat
  also : List (Nat × Nat) := []
  ctx  : Nat
  core : Nat
  perf : Bool
  lost : Nat            -- 0 in flight; 1 dropped, a LOST notice on its way; 2 dropped without one (R327)
  born : Nat            -- the network cycle of its issue (R327)
  kind : OpKind
  lostAt : Nat := 0     -- where it is lost: the line or item whose packet was dropped (R328)
  site : W64 × W64 := (0, 0) -- of a submit: the address of its run and the one after it, for a PERM that its step finds (R205)
  deriving DecidableEq, Repr

/-- Sort array states (Table SRT.2). -/
inductive SortSt where
  | idle | loading | loaded | running | stopped | sorted | storing
  deriving DecidableEq, Repr

/-- A record in a cell (R169). -/
structure Cell where
  key : Nat
  pay : Nat
  pos : Nat
  deriving DecidableEq, Repr

/-- A core's sort array (R169, R173, R181). -/
structure SortArr where
  st    : SortSt
  cells : List Cell
  phase : Nat
  step  : Nat
  kf    : Nat
  dir   : Nat
  gid   : Nat            -- group whose operation runs
  slot  : Nat            -- and its path (Table HST.5)
  tile  : Nat
  off   : Nat
  k     : Nat
  op    : Nat            -- identity of the operation (R147, R180)
  stopReq : Bool         -- sxabort k = 0 is pending (R182)
  paused : Bool          -- paused by quiescence (R183)
  deriving DecidableEq, Repr

/-- Tile states (Table MEM.5). -/
inductive TileSt where
  | empty | filling | ready | draining
  deriving DecidableEq, Repr

/-- A tile table entry (Table MEM.4) with its region mask (R190) and the holds on it (R159, R177, R333). -/
structure Tile where
  gen   : Nat
  count : Nat
  base  : Nat
  reg   : Bool
  st    : TileSt
  rmask : Nat
  held  : Nat
  deriving DecidableEq, Repr

/-- A valid tag table entry (R142). -/
structure Tag where
  key  : W64
  slot : Nat
  used : Nat
  deriving DecidableEq, Repr

/-- A cached line of one context (R274). -/
structure L1Line where
  ctx   : Nat
  line  : Nat
  cells : SMap Byte
  deriving DecidableEq, Repr

/-- A translation held (R311, R312): the context, the first address and size code of what it covers, the physical key of
that address, R, W and X, whether D is set, MIG, and the key and page size code of its leaf entry. -/
structure Tlb where
  ctx  : Nat
  va   : Nat
  size : Nat
  pa   : Nat
  r    : Bool
  w    : Bool
  x    : Bool
  d    : Bool
  mig  : Bool
  leaf : Nat
  page : Nat
  deriving DecidableEq, Repr

/-- Heartbeat registers of a context on a core (R48, R244). -/
structure Hb where
  period : Nat
  mode   : Nat
  count  : Nat
  due    : Bool
  deriving DecidableEq, Repr

/-- A core (R126, R138, R142, R146, R174, R185, R217, R244, R274). -/
structure Core where
  bankOwner : SMap Nat
  sortq : Nat
  sort  : SortArr
  pad   : SMap Byte
  tiles : SMap Tile
  tags  : SMap Tag
  eseq  : SMap Nat        -- key 65536·engine + context
  hb    : SMap Hb
  l1    : List L1Line
  tlb   : List Tlb
  allot : SMap (List Nat) -- requests in arrival order, per context
  deriving DecidableEq, Repr

/-- Weight slot states (R158). -/
inductive SlotSt where
  | free | loading | loaded
  deriving DecidableEq, Repr

/-- A weight buffer slot (R158, R190). -/
structure WSlot where
  st    : SlotSt
  fmt   : Nat
  sp    : Bool
  data  : List Byte
  rmask : Nat
  deriving DecidableEq, Repr

/-- An arrival at the rendezvous latch (R161). -/
structure Arrival where
  gid  : Nat
  slot : Nat
  t    : Nat
  p    : Nat
  fb   : W64
  deriving DecidableEq, Repr

/-- A quadrant (R45, R151, R158, R185). -/
structure Quad where
  owner : Nat
  acc   : SMap W32       -- key 1024·t + 32·row + column
  slots : SMap WSlot
  gang  : W64
  latch : List Arrival
  deriving DecidableEq, Repr

/-- An issue of the current arithmetic cycle: the path, the pipe, and whether its instruction draws (R25, R225). -/
structure Issue where
  gid   : Nat
  slot  : Nat
  pipe  : Nat
  draws : Bool
  deriving DecidableEq, Repr

/-- A partition (R25, R225, R344): its generator, the paths that wait for the handler position, the paths in the order of
their last turns, the oldest first, the group that has given way (0 for none), and the issues of this arithmetic cycle. -/
structure Part where
  srseed : W32
  trapq  : List (Nat × Nat)
  rr     : List (Nat × Nat)
  gw     : Nat
  issued : List Issue
  deriving DecidableEq, Repr

/-- What an access needs of a page (R311): read, write, fetch; `hostBad`: an atomic that the host port does not
carry (R136). -/
structure Need where
  r : Bool
  w : Bool
  x : Bool
  hostBad : Bool
  deriving DecidableEq, Repr

/-- A walk in progress (R312): context, page, and the paths that share it with what the access of each needs. -/
structure Walk where
  ctx   : Nat
  va    : Nat
  paths : List (Nat × Nat × Need)
  deriving DecidableEq, Repr

/-- What a path's frames wait for in the fault buffer: a spill in the background, a read-back, or a promotion's record write
(R242, R246). -/
inductive FrWork where
  | spill | readBack | promote
  deriving DecidableEq, Repr

/-- An open fault (R314, Table PAG.2): context, page by address and size code, kind, ACC, and who waits. -/
structure FaultR where
  ctx   : Nat
  va    : Nat
  size  : Nat
  kind  : Nat
  acc   : Nat
  paths : List (Nat × Nat)
  ops   : List Nat
  frames : List (Nat × Nat × FrWork) -- paths whose spill, read-back or promotion waits (R242, R246)
  claims : List (Nat × Nat)  -- paths whose claim of a record waits (R240)
  deriving DecidableEq, Repr

/-- Bundle states (Table BND.1). -/
inductive BSt where
  | open_ | preparing | committed | superseded | drained
  deriving DecidableEq, Repr

/-- A bundle directory entry (R291): ranges as virtual lines, the physical lines, those not yet installed. -/
structure Dir where
  st     : BSt
  gen    : Nat
  dom    : Nat
  ctx    : Nat
  gid    : Nat
  ranges : List (Nat × Nat)
  lines  : List Nat
  wait   : List Nat
  stamp  : Nat
  op     : Nat
  deriving DecidableEq, Repr

/-- Version metadata of a line at its home (R293): the current version's stamp and reference, the previous version, the
stamp of a previous version that a soft error has lost (R299, R309), the preparing version. -/
structure LineV where
  stamp : Nat
  ref   : Option Handle
  prev  : Option (SMap Byte × Nat × Option Handle)
  vlost : Option Nat
  prep  : Option (SMap Byte × Handle)
  deriving DecidableEq, Repr

/-- A die (R290, R291, R312, R314, R327). -/
structure Die where
  dirs    : SMap Dir
  commits : SMap Nat     -- commits made under a CLK value (R290)
  faults  : SMap FaultR
  walks   : SMap Walk
  tlb     : List Tlb
  linkLog : List (Nat × Nat × Nat) -- stop and port of the input, kind, sending stop (R327)
  deriving DecidableEq, Repr

/-- A queued turn (R336, R337). -/
structure Turn where
  ctx    : Nat
  n      : Nat
  west   : Bool
  seq    : Nat
  allot  : Nat           -- the allotment of its context when it was queued (R211)
  chosen : Option (List Nat)
  deriving DecidableEq, Repr

/-- A die boundary (R335, R336): groups going west, groups turning, the tick of each group's last turn end,
queue, sequence numbers, allotments. -/
structure Bound where
  west    : Nat
  turning : SMap Nat       -- wire groups turning, with the tick at which each began
  lastEnd : SMap Nat
  queue   : List Turn
  nextSeq : Nat
  doneSeq : Nat
  allots  : SMap Nat
  deriving DecidableEq, Repr

/-- A barrier instance (R257). -/
structure Bar where
  phase   : Nat
  counted : List Nat
  deriving DecidableEq, Repr

/-- A team (R38, R257). -/
structure Team where
  ctx     : Nat
  kernel  : Nat
  cohort  : Nat
  no      : Nat
  core    : Nat
  die     : Nat
  total   : Nat
  retired : Nat
  bars    : SMap Bar
  regroups : List (W64 × Nat)  -- arrivals at a regroup: its address and the group (R235)
  deriving DecidableEq, Repr

/-- A cohort (R38, R257). -/
structure Cohort where
  kernel  : Nat
  no      : Nat
  total   : Nat
  retired : Nat
  bars    : SMap Bar
  deriving DecidableEq, Repr

/-- What an allotment request asks room for (R217). -/
inductive ReqKind where
  | team (t : Nat)
  | spawn (f : Spawn)
  | message (m : AMsg)
  deriving DecidableEq, Repr

/-- An allotment request (R217, R218, R219). -/
structure Req where
  ctx    : Nat
  core   : Nat
  die    : Nat
  kind   : ReqKind
  gids   : List Nat     -- its groups, where they exist already (evicted)
  placed : Bool
  queued : Bool         -- stands in its core's queue
  headAt : Option Nat
  since  : Nat
  coop   : Bool
  deriving DecidableEq, Repr

/-- Kernel states (Table KRN.3). -/
inductive KSt where
  | queued | running | suspended | finishing | done
  deriving DecidableEq, Repr

/-- A kernel (R212 to R215). -/
structure Kernel where
  ctx     : Nat
  q       : Nat
  seq     : Nat
  grid    : W64
  st      : KSt
  entry   : Nat
  cohorts : Nat
  teams   : Nat
  groups  : Nat
  regs    : Nat
  coop    : Bool
  troupe  : Bool
  fpmode  : W64
  frbase  : W64
  frsize  : Nat
  stack   : W64
  stacksize : W64
  args    : List W64
  roles   : List (Nat × Nat × Nat)
  divbase : W64
  left    : Nat          -- groups of the grid not yet retired
  gids    : List Nat     -- the groups of the grid that have started (R215)
  deriving DecidableEq, Repr

/-- Kernel queue states (Table QUE.3). -/
inductive QSt where
  | idle | running | stalled | stopped
  deriving DecidableEq, Repr

/-- A registered kernel queue (R203). -/
structure KQueue where
  ctx     : Nat
  anchor  : Nat
  st      : QSt
  doneSeq : Nat
  donePtr : Nat
  cqSeq   : Nat
  busy    : Option Cmd   -- a command whose effect is not yet complete (R209, R211)
  pend    : List (Nat × Nat × Nat) -- completions the full ring holds back: SEQ, STATUS, RESULT (R201)
  deriving DecidableEq, Repr

/-- Context states (Table CTX.1); a context not listed is destroyed. -/
inductive CSt where
  | created | loading | resident | quiescing | saved | migrating | scrubbing | destroyed
  deriving DecidableEq, Repr

/-- A usage counter with its reservation mark (R194). -/
structure Counter where
  c : Nat
  m : Nat
  deriving DecidableEq, Repr

/-- A weight region (R189). -/
structure Region where
  base   : Nat
  len    : Nat
  holder : Nat
  bytes  : Counter
  macs   : Counter
  deriving DecidableEq, Repr

/-- A task-type entry (Table KRN.4). -/
structure Task where
  entry  : W64
  frbase : W64
  grid   : W64
  cohort : Nat
  team   : Nat
  regs   : Nat
  valid  : Bool
  deriving DecidableEq, Repr

/-- What the running quiescence leads to (Table CTX.1). -/
inductive After where
  | save | destroy
  deriving DecidableEq, Repr

/-- The parts of the save image that are not group records (Table CTX.2): quadrants, generators, cores; and the state
and path conditions that it reports of each group (R223). -/
structure Image where
  grps  : SMap (GSt × SMap PCond)
  quads : SMap Quad
  parts : SMap W32
  cores : SMap Core
  deriving DecidableEq, Repr

/-- A replay entry (Table CTX.3): KIND 0 vector reply, 1 scalar reply, 2 parked access; the lanes whose values apply,
and the 32 values; `op` is the operation it answers, `waits` the pages and fault kinds that a parked access waits for
(R316). -/
structure Replay where
  kind  : Nat
  gid   : Nat
  slot  : Nat
  reg   : Nat
  lanes : W32
  vals  : List W64
  op    : Nat
  waits : List (Nat × Nat)
  deriving DecidableEq, Repr

/-- A context (R184 to R199). -/
structure Ctx where
  st       : CSt
  debugen  : Bool
  attested : Bool
  logBase  : Nat
  logSize  : Nat
  logTail  : Nat
  logLost  : Nat
  net      : SMap Nat
  ptTop    : Option Nat
  fx       : SMap W32
  kregs    : List (Nat × Nat × List Byte)
  regions  : List Region
  satc     : Bool
  tasks    : SMap Task
  dirtyLog : Nat
  porter   : Bool
  porterEver : Bool
  cmps     : SMap Nat
  reportSeq : Nat
  link     : List Byte
  hist     : List (Nat × Nat)
  after_   : Option After
  exportAddr : Nat
  image    : Option Image
  replays  : List Replay
  logSeq   : Nat            -- records of the context log counted so far (R193)
  scrub    : List Nat       -- frames that its scrubbing waits for (R184)
  deriving DecidableEq, Repr

/-- Boot states (R362). -/
inductive Boot where
  | checking | ready | failed
  deriving DecidableEq, Repr

/-- Power states (Table HST.2). -/
inductive PSt where
  | run | capped | retention | off
  deriving DecidableEq, Repr

/-- Power control (R367). -/
structure Power where
  st      : PSt
  req     : Nat
  cap     : Nat
  lastReq : Nat
  lastCap : Nat
  refused : Bool
  limit   : Bool
  tripped : Option (Nat × Nat)
  deriving DecidableEq, Repr

/-- Image load states (Table HST.4). -/
inductive ImgSt where
  | idle | reading | verifying | staged | rejected
  deriving DecidableEq, Repr

/-- Page-frame states (Table PAG.3); the state holds no frame as migrating, which its page table entries say. -/
inductive PgSt where
  | queued | scrubbing | clean | allocated | migrating
  deriving DecidableEq, Repr

/-- The host port: BAR0 registers and the event queue (Table HST.1, R361, R364, R378). -/
structure HostPort where
  eqBase : Nat
  eqSize : Nat
  eqHead : Nat
  eqTail : Nat
  eqLost : Nat
  eqSeq  : Nat                 -- records counted so far
  eqHeld : List (Nat × List Byte) -- held records with their sequence numbers
  h2pBase : Nat
  p2hBase : Nat
  h2pTail : Nat
  h2pHead : Nat
  p2hTail : Nat
  p2hHead : Nat
  p2hHeld : List (List Nat)    -- messages that wait for room in the Porter-to-host ring (R355)
  ptroot : SMap Nat
  inval  : SMap Nat
  invRun : Option (Nat × Nat × Nat)
  invHeld : List (Nat × Nat × Nat)
  imgAddr : Nat
  imgLen : Nat
  imgSt  : ImgSt
  imgBuf : List Byte           -- the image as read (R363)
  deriving DecidableEq, Repr

/-- The issuing path and the instruction it issues (log 5): the address of the run's first word, of the word
with the major opcode, and of the next instruction; its prefixes; the repetition. -/
structure Iss where
  gid  : Nat
  slot : Nat
  addr : W64
  at_  : W64
  next : W64
  pre  : Prefixes
  rep  : Nat
  deriving DecidableEq, Repr

/-- Where a packet on its way stands (R329): in a lap slot (lap 0 or 1) or the escape slot of its class at an input of
a stop of a die, by torus direction 0 +x, 1 −x, 2 +y, 3 −y; or at the input of a boundary, by its number. One in an escape slot
keeps its lap. -/
inductive PPos where
  | lap (die stop dir lap : Nat)
  | esc (die stop dir lap : Nat)
  | gate (die stop bound : Nat)
  deriving DecidableEq, Repr

/-- What a packet is sent for: an operation, the install of a line (R294), or a request that is forwarded (R246). -/
inductive Job where
  | op
  | install (die idx line : Nat)
  | spawn (req : Nat)
  deriving DecidableEq, Repr

/-- A packet on its way through the device, with the header fields of Table LNK.2, the operation it serves and the line or item
of it, and the network cycle of its last hop (R324). -/
structure Packet where
  job   : Job
  op    : Nat
  line  : Nat
  hopped : Nat
  ddev  : Nat
  ddie  : Nat
  dstop : Nat
  sdev  : Nat
  sdie  : Nat
  sstop : Nat
  tag   : Nat
  cls   : Nat
  len   : Nat          -- flits, 1 to 4
  code  : Nat          -- OP
  ctx   : Nat
  net   : Nat          -- the network in whose buffers it stands (R326)
  pos   : PPos
  deriving DecidableEq, Repr

/-- The clocks (R14), in ticks of 1/6.6 ns: an arithmetic cycle lasts `ar` ticks and a network cycle `net`; the time
passed, the network cycles passed and the tick of the last one. -/
structure Clocks where
  ar    : Nat
  net   : Nat
  ticks : Nat
  nets  : Nat
  edge  : Nat
  deriving DecidableEq, Repr

/-- One entry of the agenda (log 1): an event or command happens; a path issues; arithmetic is held in the
pipes or released; arithmetic cycles pass; a register is damaged by a soft error (R342); the Porter's firmware goes on at an address (R356); the packet of an operation,
by its place among those it may send, or of another job enters the torus, or a packet moves by one stop (R325, R329, R330); system software sets the clocks under a cap (R14); the final report of a migrated context reaches its successor (R195); a multicast
delivery, a submission, an active message or an access of a context of a peer device arrives by a link and its network, or a peer's
bundle directory changes (R205, R211, R331, R333, R338). -/
inductive Act where
  | event (i : Instr)
  | issue (gid slot : Nat)
  | hold (b : Bool)
  | tick (n : Nat)
  | damage (gid kind n : Nat)
  | porterAt (gid : Nat) (pc : W64)
  | inject (o k : Nat)
  | send (j : Job)
  | hop (n : Nat)
  | clock (ar net : Nat)
  | linkCtx (c : Nat) (report : List Byte)
  | peerMcast (link net dev c src core tile gen off : Nat) (data : List Byte)
  | peerSubmit (link net dev c anchor rec_ : Nat)
  | peerAmsg (link net : Nat) (m : AMsg)
  | peerAccess (link net dev c : Nat) (k : MemK) (pa n x y : Nat) (b : Option Handle)
  | peerDir (dev die idx : Nat) (d : Dir)
  deriving DecidableEq, Repr

/-- The state of the device. -/
structure State where
  mem      : SMap Byte
  cycles   : Nat
  clocks   : Clocks
  clkBase  : Nat
  agenda   : List Act
  fresh    : Nat
  nextId   : Nat
  iss      : Iss
  pipeHold : Bool
  pipe     : List PipeE
  boot     : Boot
  power    : Power
  host     : HostPort
  staged   : Option (List Byte)
  booting  : Option (List Byte) -- the image that stood staged at the reset, while it is checked (R363)
  image    : List Byte
  queues   : SMap KQueue
  kernels  : SMap Kernel
  teams    : SMap Team
  cohorts  : SMap Cohort
  reqs     : SMap Req
  groups   : SMap Group
  cores    : SMap Core
  quads    : SMap Quad
  parts    : SMap Part
  dies     : SMap Die
  bounds   : SMap Bound
  ctxs     : SMap Ctx
  ops      : SMap Op
  late     : SMap (Nat × Nat) -- operations ended by a timeout whose reply may still come: context and core (R327)
  lines    : SMap LineV
  torus    : SMap Packet
  pages    : SMap PgSt
  memErrs  : SMap (List (Nat × Nat) × List Nat) -- lines with an uncorrectable error: its record, and the contexts told (R318)
  domain   : Nat
  routing  : List Nat
  linkNet  : SMap (List Nat)
  binds    : SMap Nat       -- key 64·context + peer device: the peer context (R211)
  linkDown : List Nat
  reports  : List (Nat × List Byte) -- final and power-loss reports signed (R195)
  deriving DecidableEq, Repr

/-- Defaults of the sparse tables: the state of a unit at reset. -/
def SortArr.idle : SortArr :=
  { st := .idle, cells := [], phase := 0, step := 0, kf := 0, dir := 0, gid := 0, slot := 0, tile := 0, off := 0, k := 0,
    op := 0, stopReq := false, paused := false }

def Core.reset : Core :=
  { bankOwner := [], sortq := 0, sort := .idle, pad := [], tiles := [], tags := [], eseq := [], hb := [], l1 := [],
    tlb := [], allot := [] }

def Quad.reset : Quad := { owner := 0, acc := [], slots := [], gang := 0, latch := [] }

/-- The generator state after reset and at a change of owner (R25, R187). -/
def seedReset : W32 := 0x6D2B79F5

def Part.reset : Part := { srseed := seedReset, trapq := [], rr := [], gw := 0, issued := [] }

def Die.reset : Die :=
  { dirs := [], commits := [], faults := [], walks := [], tlb := [], linkLog := [] }

/-- Groups 0 to 47 east, 48 to 95 west (R335). -/
def Bound.reset : Bound :=
  { west := 2 ^ 96 - 2 ^ 48, turning := [], lastEnd := [], queue := [], nextSeq := 1, doneSeq := 0, allots := [] }

def LineV.none : LineV := { stamp := 0, ref := Option.none, prev := Option.none, vlost := Option.none, prep := Option.none }

def Tile.reset : Tile := { gen := 0, count := 0, base := 0, reg := false, st := .empty, rmask := 0, held := 0 }

def WSlot.reset : WSlot := { st := .free, fmt := 0, sp := false, data := [], rmask := 0 }

/-- Heartbeat registers at a context's first residence (Table WRK.4). -/
def Hb.reset : Hb := { period := 16384, mode := 0, count := 0, due := false }

def Bar.reset : Bar := { phase := 0, counted := [] }

def Power.reset : Power :=
  { st := .run, req := 0, cap := 0, lastReq := 0, lastCap := 0, refused := false, limit := false,
    tripped := none }

def HostPort.reset : HostPort :=
  { eqBase := 0, eqSize := 0, eqHead := 0, eqTail := 0, eqLost := 0, eqSeq := 0, eqHeld := [], h2pBase := 0,
    p2hBase := 0, h2pTail := 0, h2pHead := 0, p2hTail := 0, p2hHead := 0, p2hHeld := [], ptroot := [], inval := [],
    invRun := none, invHeld := [], imgAddr := 0, imgLen := 0, imgSt := .idle, imgBuf := [] }

def Iss.none : Iss := { gid := 0, slot := 0, addr := 0, at_ := 0, next := 4, pre := Prefixes.none, rep := 0 }

/-- Both clocks at full rate: 3.3 and 2.2 GHz (R14). -/
def Clocks.reset : Clocks := { ar := 2, net := 3, ticks := 0, nets := 0, edge := 0 }

/-- The device right after reset: the firmware image is being checked (R362), no context exists, nothing
issues. Values the spec does not give are in log 3 and log 5. -/
def State.reset : State :=
  { mem := [], cycles := 0, clocks := .reset, clkBase := 0, agenda := [], fresh := 0, nextId := 1, iss := Iss.none,
    pipeHold := false, pipe := [], boot := .checking, power := .reset, host := .reset, staged := none, booting := none,
    image := [], queues := [], kernels := [], teams := [], cohorts := [], reqs := [], groups := [], cores := [],
    quads := [], parts := [], dies := [], bounds := [], ctxs := [], ops := [], late := [], lines := [], torus := [], pages := [], memErrs := [],
    domain := 0, routing := [], linkNet := [], binds := [], linkDown := [], reports := [] }

end Sys2Proof.Machine
end

