-- ==== Sys2Proof/Machine/Phys.lean ====
section
/-! DEFINITION. Physical memory, the records the device writes to the host and to the context logs, the page walk
with its accessed and dirty bits, and the fault buffer (chapters 12, 21 and 24). -/

namespace Sys2Proof.Machine

/-- The outcome of one instruction or event. -/
abbrev Out := Host.Outcome State Fault Refusal

/-- The canonical form of memory: addresses rise strictly and no zero byte is listed (log 3). -/
def Memory.wf (m : SMap Byte) : Bool := SMap.wf 0 m

/-- The key of a frame address in memory LOC (Table PAG.1). -/
def locKey (loc addr : Nat) : Nat := loc * 2 ^ 57 + addr % 2 ^ 57

/-- The byte at a physical key; an unlisted byte reads 0 (log 3). -/
def State.byte (s : State) (pa : Nat) : Byte := s.mem.get 0 pa

/-- `n` bytes from `pa` on. -/
def State.bytes (s : State) (pa n : Nat) : List Byte := (List.range n).map fun i => s.byte (pa + i)

/-- Mem(pa, n) as an unsigned integer (R2, R5). -/
def State.rd (s : State) (pa n : Nat) : Nat := ofBytesLE (s.bytes pa n)

/-- Bytes written from `pa` on, in order. -/
def putBytes (m : SMap Byte) : Nat → List Byte → SMap Byte
  | _, [] => m
  | pa, b :: t => putBytes (m.set 0 pa b) (pa + 1) t

/-- A path that waits in seqw on bytes just written, whose condition the memory now satisfies, no longer depends on
what is written later (R148). -/
def seqwSeen (m : SMap Byte) (pa n : Nat) (p : Path) : Path :=
  match p.cond with
  | .waiting (.seqw va a v acq) =>
    if a < pa + n && pa < a + 8 && v ≤ ofBytesLE ((List.range 8).map fun i => m.get 0 (a + i)) then
      { p with cond := .waiting (.seqw va a 0 acq) }
    else p
  | _ => p

/-- Memory with `bs` at `pa`; a seqw that waits on these bytes sees the write (R148). -/
def State.wr (s : State) (pa : Nat) (bs : List Byte) : State :=
  let m := putBytes s.mem pa bs
  { s with
    mem := m
    groups := s.groups.mapV fun _ g => { g with paths := g.paths.mapV fun _ p => seqwSeen m pa bs.length p } }

/-- Memory with the `n`-byte value `v` at `pa`. -/
def State.wrN (s : State) (pa n v : Nat) : State := s.wr pa (bytesLE n v)

/-- A packet for the byte is routed to a failed link, and waits (R338, R339, Table PAG.1). -/
def linkWaits (s : State) (pa : Nat) : Bool :=
  pa / 2 ^ 57 = 3 && s.linkDown.contains (s.routing.getD (fld pa 51 6) 255)

/-- The line of 128 bytes that holds a byte (R278, R293). -/
def lineOf (pa : Nat) : Nat := pa / 128 * 128

/-- The frame is one of near (tier 0) or far (tier 1) memory of a die (R7, R317). -/
def frameOn (die tier f : Nat) : Bool :=
  let b := locKey tier (Config.frameBase die tier)
  let n := if tier = 0 then Config.nearFrames else Config.farFrames
  f % 4096 = 0 && b ≤ f && f < b + 4096 * n

/-- A frame of near or far memory of some die. -/
def isFrame (f : Nat) : Bool := (List.range Config.dies).any fun d => frameOn d 0 f || frameOn d 1 f

/-- The die that is home to a line of near or far memory: the one whose stack or port holds it (R278); a free value
says for an address beyond the installed memory (log 44). -/
def homeDie (line : Nat) : Nat :=
  ((List.range Config.dies).find? fun d => frameOn d (line / 2 ^ 57) (line / 4096 * 4096)).getD (Config.homeDie line % Config.dies)

/-- The slice, of the 192 of the device, that is home to a line (R12, R278; log 4). -/
def sliceOf (line : Nat) : Nat := Config.coresPerDie * homeDie line + Config.homeSlice line % Config.coresPerDie

/-- The L1 copies a core holds of the written bytes take them in the same step (R130, R274). -/
def l1Update (l : List L1Line) (pa : Nat) (bs : List Byte) : List L1Line :=
  l.map fun x =>
    if lineOf pa ≤ x.line ∧ x.line < pa + bs.length then
      { x with cells := (bs.zipIdx).foldl (fun c q => if lineOf (pa + q.2) = x.line then c.set 0 (pa + q.2) q.1 else c) x.cells }
    else x

/-- A line's version record, listed unless it is the default. -/
def State.setLine (s : State) (line : Nat) (v : LineV) : State := { s with lines := s.lines.set LineV.none line v }
def State.line (s : State) (line : Nat) : LineV := s.lines.get LineV.none line

/-- A write that reaches a stamped line outside a bundle: stamp 0, no reference, no previous version (R296). -/
def unstamp (s : State) (line : Nat) : State :=
  match s.lines.find? line with
  | none => s
  | some v => s.setLine line { v with stamp := 0, ref := none, prev := none, vlost := none }

/-- The lines that `n` bytes from `pa` on touch. -/
def linesOf (pa n : Nat) : List Nat :=
  (List.range ((lineOf (pa + n - 1) - lineOf pa) / 128 + 1)).map fun i => lineOf pa + 128 * i

/-- A WRITE AT ITS HOME: the bytes, the metadata of the lines touched (R296), and the L1 copy of the writing core (R274). -/
def homeWrite (s : State) (core : Option Nat) (pa : Nat) (bs : List Byte) : State :=
  let s1 := (linesOf pa bs.length).foldl unstamp (s.wr pa bs)
  match core with
  | none => s1
  | some c => { s1 with cores := s1.cores.adjust c fun k => { k with l1 := l1Update k.l1 pa bs } }

/-- A context's record; `none` where the context is destroyed or was never created. -/
def State.ctx? (s : State) (c : Nat) : Option Ctx := s.ctxs.find? c

/-- The context record changed by `f`, where the context exists. -/
def State.modCtx (s : State) (c : Nat) (f : Ctx → Ctx) : State := { s with ctxs := s.ctxs.adjust c f }

/-- The core record changed by `f`. -/
def State.modCore (s : State) (c : Nat) (f : Core → Core) : State := { s with cores := s.cores.modify Core.reset c f }
def State.core (s : State) (c : Nat) : Core := s.cores.get Core.reset c
def State.quad (s : State) (q : Nat) : Quad := s.quads.get Quad.reset q
def State.modQuad (s : State) (q : Nat) (f : Quad → Quad) : State := { s with quads := s.quads.modify Quad.reset q f }
def State.part (s : State) (p : Nat) : Part := s.parts.get Part.reset p
def State.modPart (s : State) (p : Nat) (f : Part → Part) : State := { s with parts := s.parts.modify Part.reset p f }
def State.die (s : State) (d : Nat) : Die := s.dies.get Die.reset d
def State.modDie (s : State) (d : Nat) (f : Die → Die) : State := { s with dies := s.dies.modify Die.reset d f }
def State.bound (s : State) (b : Nat) : Bound := s.bounds.get Bound.reset b
def State.modBound (s : State) (b : Nat) (f : Bound → Bound) : State :=
  { s with bounds := s.bounds.modify Bound.reset b f }
def State.modOp (s : State) (o : Nat) (f : Op → Op) : State := { s with ops := s.ops.adjust o f }
def State.delOp (s : State) (o : Nat) : State := { s with ops := s.ops.del o }
/-- A new operation in flight, under the next identity. -/
def State.addOp (s : State) (o : Op) : State := { s with ops := s.ops.put s.nextId o, nextId := s.nextId + 1 }

/-- The die of a core of the device (R10). -/
def dieOf (core : Nat) : Nat := core / Config.coresPerDie

/-- A 32-byte record: SEQ, TYPE, CTX and the body fields as (bytes, value) from offset 0x0C on (R364). -/
def recBytes (seq typ ctx : Nat) (body : List (Nat × Nat)) : List Byte :=
  (bytesLE 8 seq ++ bytesLE 2 typ ++ bytesLE 2 ctx ++ body.flatMap (fun (p : Nat × Nat) => bytesLE p.1 p.2) ++
    List.replicate 32 0).take 32

/-- The event queue is full, or not set up (R364). -/
def HostPort.full (h : HostPort) : Bool := h.eqSize = 0 || h.eqSize ≤ h.eqTail - h.eqHead

/-- Record `n` written at its place, and TAIL (R364). -/
def State.eqPut (s : State) (n : Nat) (b : List Byte) : State :=
  { s.wr (locKey 2 (s.host.eqBase + 32 * ((n - 1) % s.host.eqSize))) b with
    host := { s.host with eqTail := n } }

/-- A record posted to the host event queue: written, held among 256, or counted in EQLOST (R364). -/
def postEvent (s : State) (typ ctx : Nat) (body : List (Nat × Nat)) : State :=
  let n := s.host.eqSeq + 1
  let b := recBytes n typ ctx body
  let s1 := { s with host := { s.host with eqSeq := n } }
  if s.host.eqHeld.isEmpty && !s.host.full then s1.eqPut n b
  else if s.host.eqHeld.length < 256 then
    { s1 with host := { s1.host with eqHeld := s.host.eqHeld ++ [(n, b)] } }
  else { s1 with host := { s1.host with eqLost := s.host.eqLost + 1 } }

/-- Held records written while the ring has room (R364). -/
def flushEvents : Nat → State → State
  | 0, s => s
  | fuel + 1, s =>
    match s.host.eqHeld with
    | [] => s
    | (n, b) :: t =>
      if s.host.full then s
      else flushEvents fuel ({ s with host := { s.host with eqHeld := t } }.eqPut n b)

def Need.read : Need := { r := true, w := false, x := false, hostBad := false }
def Need.write : Need := { r := false, w := true, x := false, hostBad := false }
def Need.rw : Need := { r := true, w := true, x := false, hostBad := false }
def Need.fetch : Need := { r := false, w := false, x := true, hostBad := false }

/-- The result of a walk: a translation held with the key of its leaf entry, a replayable fault of a kind
(0 NOTMAPPED, 1 MIGRATING), or PERM (R311). -/
inductive WalkRes where
  | held (t : Tlb) (leaf size : Nat)
  | fault (kind : Nat)
  | perm
  deriving DecidableEq, Repr

/-- Address bits of a page of each size code (R211, R310). -/
def pageBits (size : Nat) : Nat := [12, 16, 21, 30].getD size 12

/-- The leaf entry `e` at level 1, 2 or 3 judged for an access to `va` (R310, R311). `run` are the entries of its
run of sixteen, for CONT. Of a 64 KiB page the 4 KiB part that is touched is held, since A and D are set part by part
(R311; log 9). A frame of LOC 0 or 1 beyond the installed memory is ordinary storage: the spec is silent (DESIGN CHOICE,
log 44). -/
def leafRes (c va lvl e leaf : Nat) (run : List Nat) (n : Need) : WalkRes :=
  let cont := fld e 9 1 = 1
  let size := if lvl = 3 then 3 else if lvl = 2 then 2 else if cont then 1 else 0
  let bits := pageBits size
  let frame := fld e 12 45 * 4096
  let loc := fld e 10 2
  let base := if size = 1 then run.headD e else e
  let bare (x : Nat) := x - 64 * fld x 6 1 - 128 * fld x 7 1
  let runOk := (List.range 16).all fun i => bare (run.getD i 0) = bare base + 4096 * i
  let badFrame := if size = 1 then !runOk || fld base 12 4 ≠ 0 else frame % 2 ^ bits ≠ 0
  if (lvl ≠ 1 && cont) || badFrame then .perm
  else if (n.r && fld e 2 1 = 0) || (n.w && fld e 3 1 = 0) || (n.x && fld e 4 1 = 0) || (n.hostBad && loc = 2)
  then .perm
  else if n.w && fld e 5 1 = 1 then .fault 1
  else
    let part := if size = 1 then 0 else size
    let b := pageBits part
    .held { ctx := c, va := va / 2 ^ b * 2 ^ b, size := part, pa := locKey loc (frame / 2 ^ b * 2 ^ b)
            r := fld e 2 1 = 1, w := fld e 3 1 = 1, x := fld e 4 1 = 1, d := n.w || fld e 7 1 = 1
            mig := fld e 5 1 = 1, leaf := leaf, page := size } leaf size

/-- The walk from level `lvl` with the table at `tbl` (R310, R311). -/
def walkFrom (s : State) (c va : Nat) (n : Need) : Nat → Nat → WalkRes
  | 0, _ => .perm
  | lvl + 1, tbl =>
    let a := tbl + 8 * fld va (12 + 9 * lvl) 9
    let e := s.rd a 8
    if fld e 0 1 = 0 then .fault 0
    else if fld e 57 7 ≠ 0 || fld e 1 1 = 1 then .perm
    else if fld e 8 1 = 1 then
      if 3 ≤ lvl then .perm
      else
        let a0 := tbl + 8 * (fld va (12 + 9 * lvl) 9 / 16 * 16)
        leafRes c va (lvl + 1) e a ((List.range 16).map fun i => s.rd (a0 + 8 * i) 8) n
    else if lvl = 0 || fld e 9 3 ≠ 0 || fld e 2 6 ≠ 0 then .perm
    else walkFrom s c va n lvl (locKey 0 (fld e 12 45 * 4096))

/-- An access that needs no right: what the tables say of an address. -/
def Need.none : Need := { r := false, w := false, x := false, hostBad := false }

/-- What the tables say of an address now, whatever an access needs. -/
def leafNow (s : State) (c va : Nat) : Option Tlb :=
  match (s.ctx? c).bind Ctx.ptTop with
  | some top => (match walkFrom s c va Need.none 5 top with
      | .held t _ _ => some t
      | _ => none)
  | none => none

/-- The physical key of `va` in a translation held. -/
def Tlb.key (t : Tlb) (va : Nat) : Nat := t.pa + va % 2 ^ pageBits t.size

/-- `va` lies in a page of a registered code region, which no agent writes (R189). -/
def inCode (x : Ctx) (va : Nat) : Bool :=
  x.kregs.any fun k => k.1 / 4096 * 4096 ≤ va && va < (k.1 + k.2.1 + 4095) / 4096 * 4096

/-- The pages of a context's registered code regions. -/
def codePages (x : Ctx) : List Nat :=
  x.kregs.flatMap fun k => (List.range ((k.1 + k.2.1 + 4095) / 4096 - k.1 / 4096)).map fun i => (k.1 / 4096 + i) * 4096

/-- The byte lies in the frame of a page of a registered code region, of whatever context: it is read-only to every
agent, by whatever address it is reached (R189). -/
def codeFrame (s : State) (pa : Nat) : Bool :=
  s.ctxs.any fun x => (codePages x.2).any fun p =>
    match x.2.ptTop with
    | some top => (match walkFrom s x.1 p Need.read 5 top with
        | .held t _ _ => t.key p / 4096 = pa / 4096
        | _ => false)
    | none => false

/-- Records of the device written at a physical key: into a frame of code nothing is written (R189). -/
def State.wrGuard (s : State) (pa n v : Nat) : State := if codeFrame s pa then s else s.wrN pa n v

/-- An entry appended to the context's dirty-page log when D rises from 0 to 1 (R320, R321). -/
def dirtyAppend (s : State) (c va size : Nat) : State :=
  match (s.ctx? c).map Ctx.dirtyLog with
  | none => s
  | some 0 => s
  | some cb =>
    let base := s.rd cb 8
    let cap := s.rd (cb + 8) 4
    let ctl := s.rd (cb + 12) 4
    let head := s.rd (cb + 16) 8
    let round := s.rd (cb + 24) 8
    if ctl % 4 ≠ 1 then s
    else if head = cap then
      postEvent (s.wrGuard (cb + 12) 4 (ctl + 2)) 2 c [(4, 0), (8, cb), (8, round)]
    else
      let page := va / 2 ^ pageBits size * 2 ^ pageBits size
      (s.wrGuard (base + 8 * head) 8 (fld page 12 45 * 4096 + round % 1024 * 4 + size)).wrGuard (cb + 16) 8 (head + 1)

/-- A and, for a write, D set by an atomic OR in the leaf entry of a translation held; a D that rises is logged first
(R311, R321). -/
def setAD (s : State) (c va leaf size : Nat) (w : Bool) : State :=
  let e := s.rd leaf 8
  let s1 := if w && fld e 7 1 = 0 then dirtyAppend s c va size else s
  s1.wrN leaf 8 (e ||| (if w then 192 else 64))

/-- A walk of `va` in context `c`: its result, with A and D set in the leaf entry where the translation is held
(R311, R312). -/
def walk (s : State) (c va : Nat) (n : Need) : State × WalkRes :=
  match (s.ctx? c).bind Ctx.ptTop with
  | none => (s, .fault 0)
  | some top =>
    match walkFrom s c va n 5 top with
    | .held t leaf size => (setAD s c va leaf size n.w, .held t leaf size)
    | r => (s, r)

/-- The translation of `va` that entries of a table hold (R312). -/
def tlbFind (l : List Tlb) (c va : Nat) : Option Tlb :=
  l.find? fun t => t.ctx = c && va / 2 ^ pageBits t.size * 2 ^ pageBits t.size = t.va

/-- Bits 63:57 of an address are not all equal to bit 56 (R87, R125). -/
def badVa (a : Nat) : Bool := fld a 57 7 ≠ (if fld a 56 1 = 1 then 127 else 0)

/-- `va` lies in a registered weight region of the context (R189). -/
def inRegion (x : Ctx) (va : Nat) : Bool := x.regions.any fun r => r.base ≤ va && va < r.base + r.len

/-- The translation of `va` by a walk at once, for work of the device that no path waits on: the key where it is held.
A weight region is read by engines only, and a code page is not written (R189). -/
def walkNow (s : State) (c va : Nat) (n : Need) : State × Option Nat :=
  if (s.ctx? c).any fun x => inRegion x va then (s, none)
  else match walk s c va n with
    | (s1, .held t _ _) => if n.w && codeFrame s (t.key va) then (s, none) else (s1, some (t.key va))
    | (s1, _) => (s1, none)

/-- A record written to a context log, counted in LOST while the ring is full, and counted in EQLOST where its
write fails translation (R193). -/
def ctxLog (s : State) (c typ : Nat) (body : List (Nat × Nat)) : State :=
  match s.ctx? c with
  | none => s
  | some x =>
    if x.st = .scrubbing || x.st = .destroyed then s
    else
      let n := x.logSeq + 1
      let s0 := s.modCtx c fun x => { x with logSeq := n }
      let rec_ := x.logBase + 64 + 32 * ((n - 1) % x.logSize)
      match walkNow s0 c x.logBase Need.write with
      | (s1, none) => { s1 with host := { s1.host with eqLost := s1.host.eqLost + 1 } }
      | (s1, some hd) =>
        if x.logSize ≤ x.logTail - s1.rd (hd + 8) 8 then
          (s1.modCtx c fun x => { x with logLost := x.logLost + 1 }).wrN (hd + 16) 8 (x.logLost + 1)
        else
          match walkNow s1 c rec_ Need.write with
          | (s2, none) => { s2 with host := { s2.host with eqLost := s2.host.eqLost + 1 } }
          | (s2, some k) =>
            ((s2.wr k (recBytes n typ c body)).wrN hd 8 n).modCtx c fun x => { x with logTail := n }

/-- A context reads bytes of memory from `pa` on: an uncorrectable error that stands there goes into its log, once (R318, R366; log 101). -/
def readSeen (c pa n : Nat) (s : State) : State :=
  if s.memErrs.isEmpty then s
  else (linesOf pa n).foldl (fun (s : State) l =>
    match s.memErrs.find? l with
    | some e => if e.2.contains c then s else ctxLog { s with memErrs := s.memErrs.put l (e.1, c :: e.2) } c 5 e.1
    | none => s) s

/-- Who waits on an open fault. -/
inductive Waiter where
  | path (g p : Nat)
  | op (o : Nat)
  | frame (g p : Nat) (w : FrWork)
  | claim (g p : Nat)
  deriving DecidableEq, Repr

/-- A waiter added to an open fault. -/
def FaultR.join (f : FaultR) : Waiter → FaultR
  | .path g p => { f with paths := if (g, p) ∈ f.paths then f.paths else f.paths ++ [(g, p)] }
  | .op o => { f with ops := if o ∈ f.ops then f.ops else f.ops ++ [o] }
  | .frame g p w => { f with frames := if (g, p, w) ∈ f.frames then f.frames else f.frames ++ [(g, p, w)] }
  | .claim g p => { f with claims := if (g, p) ∈ f.claims then f.claims else f.claims ++ [(g, p)] }

/-- The lowest identifier not open on a die. -/
def freeId (m : SMap FaultR) : Nat := ((List.range (m.length + 1)).find? fun i => (m.find? i).isNone).getD 0

/-- The size code of the page that maps `va` by the tables, 0 where none does (R310). -/
def pageSizeAt (s : State) (c va : Nat) : Nat := ((leafNow s c va).map Tlb.page).getD 0

/-- The walk of `va` ends above level 1, in an entry with V = 0. -/
def gapFrom (s : State) (va : Nat) : Nat → Nat → Bool
  | 0, _ => false
  | lvl + 1, tbl =>
    let e := s.rd (tbl + 8 * fld va (12 + 9 * lvl) 9) 8
    if fld e 0 1 = 0 then lvl ≠ 0
    else if fld e 8 1 = 1 then false
    else gapFrom s va lvl (locKey 0 (fld e 12 45 * 4096))

/-- The fault is met in the walk of table memory: no table, or an entry with V = 0 above level 1 (Table PAG.2 names ACC bit 4 and does
not say when it is set: DESIGN CHOICE, log 100). -/
def tableGap (s : State) (c va : Nat) : Bool :=
  match (s.ctx? c).bind Ctx.ptTop with
  | some top => gapFrom s va 5 top
  | none => true

/-- The open fault of a page, context and kind, with its die and identifier. -/
def faultAt (s : State) (c page kind : Nat) : Option (Nat × Nat × FaultR) :=
  (List.range Config.dies).findSome? fun d =>
    (List.find? (fun (p : Nat × FaultR) => p.2.ctx = c && p.2.va = page && p.2.kind = kind) (s.die d).faults).map fun p => (d, p.1, p.2)

/-- A replayable fault of an access on die `d`: the waiter joins the open fault of its page, context and kind, or a new one is opened
and its FAULT record posted (R314, Table PAG.2). `acc` holds ACC bits 3:0. -/
def openFault (s : State) (d c va kind acc : Nat) (w : Waiter) : State :=
  let size := if kind = 1 then pageSizeAt s c (va % 2 ^ 57) else 0
  let page := va % 2 ^ 57 / 2 ^ pageBits size * 2 ^ pageBits size
  match faultAt s c page kind with
  | some (e, i, f) => s.modDie e fun x => { x with faults := SMap.put x.faults i (f.join w) }
  | none =>
    let i := freeId (s.die d).faults
    let b := acc + (if kind = 0 && tableGap s c (va % 2 ^ 57) then 16 else 0)
    let f : FaultR := { ctx := c, va := page, size := size, kind := kind, acc := b, paths := [], ops := [], frames := [], claims := [] }
    postEvent (s.modDie d fun x => { x with faults := SMap.put x.faults i (f.join w) }) 1 c
      [(2, i), (1, d), (1, kind), (8, page), (1, b)]

/-- The address lies in a page named by its address and size code. -/
def inPage (page size va : Nat) : Bool := va % 2 ^ 57 / 2 ^ pageBits size * 2 ^ pageBits size = page

end Sys2Proof.Machine
end

