-- ==== Sys2Proof/Machine/Ops.lean ====
section
/-! DEFINITION. The named operations over groups, paths and registers; admission to issue (R72 steps 5 to 9, the
scoreboard); taking a trap and returning from one (R340 to R350). -/

namespace Sys2Proof.Machine

/-- The group changed by `f`. -/
def State.modGroup (s : State) (gid : Nat) (f : Group → Group) : State := { s with groups := s.groups.adjust gid f }

/-- The path `slot` of a group changed by `f`. -/
def Group.modPath (g : Group) (slot : Nat) (f : Path → Path) : Group := { g with paths := g.paths.adjust slot f }

/-- The path `slot` of group `gid` changed by `f`. -/
def State.modPathAt (s : State) (gid slot : Nat) (f : Path → Path) : State :=
  s.modGroup gid fun g => g.modPath slot f

/-- The issuing path changed by `f`. -/
def State.modPath (s : State) (f : Path → Path) : State := s.modPathAt s.iss.gid s.iss.slot f

/-- The issuing group changed by `f`. -/
def State.modG (s : State) (f : Group → Group) : State := s.modGroup s.iss.gid f

def State.group? (s : State) (gid : Nat) : Option Group := s.groups.find? gid

/-- The path `slot` of group `gid`. -/
def State.path? (s : State) (gid slot : Nat) : Option Path := (s.group? gid).bind fun g => g.paths.find? slot

/-- What `k` makes of the issuing group and path; without one, the fault noPath. -/
def onPath (s : State) (k : Group → Path → State) : Out :=
  match s.group? s.iss.gid with
  | none => .fault .noPath
  | some g =>
    match g.paths.find? s.iss.slot with
    | none => .fault .noPath
    | some p => .next (k g p)

/-- S(n): s0 reads 0 (R47). -/
def rS (g : Group) (n : Nat) : W64 := if n = 0 then 0 else g.s.get 0 n

/-- V(n, l) (R43). -/
def rV (g : Group) (n l : Nat) : W64 := g.v.get 0 (32 * n + l)

/-- The active mask of the instruction: the path's mask under the predicate (R60). -/
def act (s : State) (g : Group) (p : Path) : W32 :=
  match s.iss.pre.mod with
  | none => p.mask
  | some m =>
    if m.pv then
      let r := if m.pm = 0 then p.mask else g.m.get 0 m.pm
      if m.pn then p.mask &&& ~~~r else p.mask &&& r
    else p.mask

/-- M(n): m0 reads the active mask (R45, R60). -/
def rM (s : State) (g : Group) (p : Path) (n : Nat) : W32 := if n = 0 then act s g p else g.m.get 0 n

/-- The acting lanes, ascending. -/
def actLanes (s : State) (g : Group) (p : Path) : List Nat := lanesOf (act s g p)

/-- Where a soft error of what a register write writes is marked: kind and register, of a vector register with its lane (R342). -/
def RegW.cell : RegW → Nat × Nat
  | .s n _ => (0, n)
  | .v n l _ => (1, 32 * n + l)
  | .m n _ => (2, n)

/-- What a register write has written is damaged no more (R342; log 69). -/
def Group.mend (g : Group) (w : RegW) : Group := { g with damaged := g.damaged.filter (· ≠ w.cell) }

/-- One register write: s0 and m0 take none (R47). -/
def Group.put1 (g : Group) (w : RegW) : Group :=
  match w with
  | .s n v => if n = 0 then g else { g.mend w with s := g.s.set 0 n v }
  | .v n l x => { g.mend w with v := g.v.set 0 (32 * n + l) x }
  | .m n x => if n = 0 then g else { g.mend w with m := g.m.set 0 n x }

/-- Register writes in order. -/
def Group.puts (g : Group) (ws : List RegW) : Group := ws.foldl Group.put1 g

/-- S(d) of the issuing group written. -/
def State.wS (s : State) (d : Nat) (v : W64) : State := s.modG fun g => g.put1 (.s d v)

/-- The writes of a vector result: V(d, l) := f l for each lane. -/
def vWrites (d : Nat) (lanes : List Nat) (f : Nat → W64) : List RegW := lanes.map fun l => .v d l (f l)

/-- Repetitions of the instruction (R63). -/
def Iss.count (i : Iss) : Nat := (i.pre.rpt.map RptW.cnt).getD 1

/-- The repetition that follows, 0 where none remains (R64, Table TRP.3). -/
def Iss.nextRep (i : Iss) : Nat := if i.rep + 1 < i.count then i.rep + 1 else 0

/-- The path at its next instruction: the marks of the one before are gone, and a step has advanced it (R358). -/
def Path.fresh (p : Path) : Path :=
  { p with
    counted := false, skipCmp := [], permFail := [], aborted := false, since := 0, woken := none
    stepReq := if p.stepReq = 1 then 2 else p.stepReq }

/-- The issuing path goes on: at the next repetition where one remains, else after the run (R64). -/
def advance (s : State) : State :=
  s.modPath fun p =>
    if s.iss.rep + 1 < s.iss.count then { p.fresh with rep := s.iss.rep + 1 }
    else { p.fresh with pc := s.iss.next, rep := 0 }

/-- The issuing path goes on at `t`. -/
def goTo (t : W64) (s : State) : State := s.modPath fun p => { p.fresh with pc := t, rep := 0 }

/-- The stamp of a path's wait for `w`: its own where it has just been woken from the same wait, else `new`. -/
def Path.stampFor (p : Path) (w : Wake) (new : Nat) : Nat := if p.woken = some w then p.since else new

/-- A path that begins to wait takes the next stamp, so that waiters are served in the order in which they began
to wait (R175, R207); one that was woken and finds that it must wait for the same thing again keeps its own. -/
def Path.wait (p : Path) (w : Wake) (stamp : Nat) : Path :=
  { p with cond := .waiting w, since := p.stampFor w stamp, woken := none }

/-- The path waits for `w`, or has been woken from it and has not taken its instruction again yet: it keeps its place
among those that wait (R175, R207). -/
def Path.waitsFor (p : Path) (w : Wake) : Bool := p.cond = .waiting w || (p.cond = .ready && p.woken = some w)

/-- The stamp with which a path asks for what `w` waits for: the one with which it waits, or waited until it was woken, else
`new` (R175, R207). -/
def Path.queueStamp (p : Path) (w : Wake) (new : Nat) : Nat := if p.waitsFor w then p.since else new

/-- A group that can issue: it is resident, and so is its context. -/
def State.runs (s : State) (g : Group) : Bool := g.resident && (s.ctx? g.ctx).map Ctx.st = some .resident

/-- The issuing path waits; at WAKE it decodes its instruction again. -/
def waitOn (w : Wake) (s : State) : State :=
  { s.modPath fun p => p.wait w s.nextId with nextId := s.nextId + 1 }

/-- The issuing path waits having done its part; at WAKE it goes on at `t`. -/
def waitThen (w : Wake) (t : W64) (s : State) : State :=
  { s.modPath fun p => { p.wait w s.nextId with after_ := t } with nextId := s.nextId + 1 }

/-- Partition and quadrant indexes of a place (R10). -/
def Place.partIx (p : Place) : Nat := 16 * p.core + 4 * p.quad + p.part
def Place.quadIx (p : Place) : Nat := 4 * p.core + p.quad

/-- PGROUP of a group: quadrant, partition and position; for a handler group, of the group it serves
(Table GRP.2). -/
def pgroup (s : State) (g : Group) : Nat :=
  let pl := match g.kind with
    | .trapH gid _ => ((s.group? gid).map Group.place).getD g.place
    | .porter gid _ => ((s.group? gid).map Group.place).getD g.place
    | _ => g.place
  64 * pl.quad + 16 * pl.part + pl.pos % 16

/-- The group is a trap handler group or the Porter (R48). -/
def Group.isHandler (g : Group) : Bool :=
  match g.kind with
  | .trapH _ _ => true
  | .porter _ _ => true
  | _ => false

/-- The path that a handler group serves. -/
def Group.served (g : Group) : Option (Nat × Nat) :=
  match g.kind with
  | .trapH gid slot => some (gid, slot)
  | .porter gid slot => some (gid, slot)
  | _ => none

/-- Codes of Table TRP.8. -/
def Cause.code : Cause → Nat
  | .illop => 1 | .regbound => 2 | .maskreq => 3 | .divdeep => 4 | .divrefill => 5 | .perm => 6 | .align => 7
  | .padbound => 8 | .tileempty => 9 | .gang => 10 | .framemem => 11 | .brk => 12 | .step => 13 | .engine => 14
  | .fpx => 15 | .regfault => 16 | .sortstate => 17 | .bundle => 18 | .syscall => 19 | .priv => 20
  | .framejoin => 21

/-- The host-to-Porter ring is empty; the Porter-to-host ring is full (R355, R361). -/
def HostPort.h2pEmpty (h : HostPort) : Bool := h.h2pTail = h.h2pHead
def HostPort.p2hFull (h : HostPort) : Bool := (h.p2hTail + 2 ^ 32 - h.p2hHead) % 2 ^ 32 = 16

/-- A message written into the Porter-to-host ring, and its TAIL (R355, R361). -/
def ringPut (s : State) (ws : List Nat) : State :=
  { s.wr (locKey 2 (s.host.p2hBase + 64 * (s.host.p2hTail % 16))) ((List.range 8).flatMap fun i => bytesLE 8 (ws.getD i 0)) with
    host := { s.host with p2hTail := (s.host.p2hTail + 1) % 2 ^ 32 } }

/-- A message sent to the host; while the ring is full it waits for room (R355, R361; log 21). -/
def mboxPut (s : State) (ws : List Nat) : State :=
  if s.host.p2hFull || !s.host.p2hHeld.isEmpty then { s with host := { s.host with p2hHeld := s.host.p2hHeld ++ [ws] } }
  else ringPut s ws

/-- Messages that wait written in order, as the ring has room (R355). -/
def flushMbox : Nat → State → State
  | 0, s => s
  | fuel + 1, s =>
    match s.host.p2hHeld with
    | [] => s
    | ws :: t => if s.host.p2hFull then s else flushMbox fuel (ringPut { s with host := { s.host with p2hHeld := t } } ws)

/-- A NOTICE: PGROUP, SLOT, cause, address, CODE (R356, Table TRP.6). -/
def notice (s : State) (g : Group) (slot cause addr code : Nat) : State :=
  mboxPut s [13 * 2 ^ 48 + g.ctx * 2 ^ 32, pgroup s g, slot, cause, addr, code, 0, 0]

/-- Quiescence begins: the context stops and arrivals at rendezvous latches are withdrawn (R191 steps 1 and 2,
R168). -/
def beginQuiesce (s : State) (c : Nat) (a : After) : State :=
  let mine (gid : Nat) : Bool := match s.group? gid with | some g => g.ctx = c | none => false
  let s1 := s.modCtx c fun x => { x with st := .quiescing, after_ := some a }
  { s1 with
    quads := s1.quads.mapV fun _ q => { q with latch := q.latch.filter fun e => !mine e.gid }
    groups := s1.groups.mapV fun _ g =>
      if g.ctx = c then
        { g with paths := g.paths.mapV fun _ p => if p.cond = .waiting .latch then { p with cond := .ready } else p }
      else g }

/-- A double fault: the context quiesces to saved, a DOUBLEFAULT record is posted, and a NOTICE is sent where
the Porter is attached (R346). -/
def doubleFault (s : State) (g : Group) (slot : Nat) (c : Cause) (addr : W64) : State :=
  let x := s.ctx? g.ctx
  let s1 := if x.map Ctx.st = some .resident then beginQuiesce s g.ctx .save else s
  let s2 := postEvent s1 6 g.ctx [(1, c.code), (1, pgroup s g), (1, slot), (1, 0), (8, addr.toNat)]
  if x.map Ctx.porter = some true then notice s2 g slot c.code addr.toNat 0 else s2

/-- TAKING A TRAP: the path becomes trapped with its trap frame, its arithmetic in flight is withdrawn into the
replay queue, and it waits for the partition's handler position; a trap of a handler group is a double fault
(R340, R341, R344, R346). -/
def trapPath (s : State) (gid slot : Nat) (t : TrapRec) : State :=
  match s.group? gid with
  | none => s
  | some g =>
    if g.isHandler then doubleFault s g slot t.cause t.addr
    else
      let mine (e : PipeE) : Bool := e.gid = gid && e.slot = slot
      let s1 := { s with pipe := s.pipe.filter fun e => !mine e }
      let s2 := s1.modGroup gid fun g =>
        { (g.modPath slot fun p => { p with cond := .trapped t, fpx := none, since := 0, woken := none }) with
          replay := g.replay ++ s.pipe.filter mine }
      s2.modPart g.place.partIx fun q => { q with trapq := q.trapq ++ [(gid, slot)] }

/-- A trap of the issuing instruction, taken before it (Table TRP.4). -/
def trapAt (c : Cause) (data : Nat) (s : State) : State :=
  trapPath s s.iss.gid s.iss.slot
    { cause := c, data := BitVec.ofNat 64 data, addr := s.iss.addr, next := s.iss.next, rep := s.iss.rep, after_ := false }

/-- A trap of the issuing instruction, taken after it (Table TRP.4). -/
def trapAfter (c : Cause) (data : Nat) (s : State) : State :=
  trapPath (advance s) s.iss.gid s.iss.slot
    { cause := c, data := BitVec.ofNat 64 data, addr := s.iss.addr, next := s.iss.next, rep := s.iss.nextRep, after_ := true }

/-- Arithmetic landing: its registers and flags are written; a raised flag that was enabled when it issued makes the
path take FPX before its next instruction issues (R27, R352). -/
def landE (s : State) (e : PipeE) : State :=
  s.modGroup e.gid fun g =>
    let g1 := { g.puts e.writes with fpflags := g.fpflags ||| BitVec.ofNat 64 e.flags }
    if e.flags &&& e.te = 0 then g1
    else g1.modPath e.slot fun p =>
      if p.fpx.isSome then p
      else { p with fpx := some { cause := .fpx, data := BitVec.ofNat 64 e.flags, addr := e.addr, next := e.next, rep := e.rep, after_ := true } }

/-- The arithmetic of a group that is in flight lands, in issue order (R75). -/
def landGroup (s : State) (gid : Nat) : State :=
  (s.pipe.filter fun e => e.gid = gid).foldl landE { s with pipe := s.pipe.filter fun e => e.gid ≠ gid }

/-- Entries of a group's replay queue (R341). -/
def replayMax : Nat := 24

/-- Arithmetic of a group in flight and withheld: the replay queue has a place for each (R341). -/
def heldCount (s : State) (gid : Nat) : Nat :=
  (s.pipe.filter fun e => e.gid = gid).length + ((s.group? gid).map fun g => g.replay.length).getD 0

/-- The enabled flags of a group's %fpmode (Table NUM.7). -/
def Group.te (g : Group) : Nat := fld g.fpmode.toNat 5 5

/-- A result that is written as its instruction issues, the path going on: of an instruction outside the majors that a trap
withdraws (R340, R341). -/
def landNow (ws : List RegW) (flags : Nat) (s : State) : State :=
  advance (landE s { gid := s.iss.gid, slot := s.iss.slot, writes := ws, flags := flags
                     te := ((s.group? s.iss.gid).map Group.te).getD 0, addr := s.iss.addr, next := s.iss.next, rep := s.iss.nextRep })

/-- The result of an arithmetic instruction: it lands at once, or stays in the pipes while the schedule holds them and
the group's replay queue would have a place for it (R341; log 6). The path goes on. -/
def land (ws : List RegW) (flags : Nat) (s : State) : State :=
  let e : PipeE := { gid := s.iss.gid, slot := s.iss.slot, writes := ws, flags := flags
                     te := ((s.group? s.iss.gid).map Group.te).getD 0
                     addr := s.iss.addr, next := s.iss.next, rep := s.iss.nextRep }
  advance (if s.pipeHold && heldCount s s.iss.gid < replayMax then { s with pipe := s.pipe ++ [e] } else landE s e)

/-- R87: the target of a transfer of control that fails its checks. -/
def badTarget (t : W64) : Option Cause :=
  if badVa t.toNat then some .perm else if t.toNat % 4 ≠ 0 then some .align else none

/-- The slot that stands for every path of a group, in a fence of the whole group. -/
def allSlots : Nat := 1000

/-- The operation was issued by the path, or stands before its accesses all the same (R264, R276). -/
def Op.of (o : Op) (gid slot : Nat) : Bool :=
  (o.gid = gid && (o.slot = slot || o.slot = allSlots)) || o.also.contains (gid, slot)

/-- The operation is of some path of the group. -/
def Op.ofGroup (o : Op) (gid : Nat) : Bool := o.gid = gid || o.also.any fun a => a.1 = gid

/-- The L1 lines of a context on a core dropped (R130, R274). -/
def l1Drop (s : State) (core c : Nat) : State := s.modCore core fun k => { k with l1 := k.l1.filter fun x => x.ctx ≠ c }

/-- A fence of the whole group for its later accesses from core `core`: its earlier accesses are ordered before them (R270,
R276). None is recorded while the group has nothing in flight. -/
def fenceGroup (s : State) (gid core scp : Nat) : State :=
  if s.ops.any fun o => o.2.ofGroup gid then
    match s.group? gid with
    | none => s
    | some g => s.addOp { gid := gid, slot := allSlots, ctx := g.ctx, core := core, perf := false, lost := 0,
                          born := s.clocks.nets, kind := .fence 4 scp }
  else s

/-- The fence of a group at its own core (R270, R276). -/
def groupFence (s : State) (gid : Nat) : State := fenceGroup s gid ((s.group? gid).elim 0 fun g => g.place.core) 0

/-- A group that goes to another core starts there with a fence: what it has in flight is performed before its later accesses,
and the core's L1 then holds nothing older (R267, R276; log 55). -/
def moveFence (s : State) (gid core : Nat) : State := fenceGroup s gid core 1

/-- A packet of the operation is shown on its way (log 16): it is at no home and no core yet. -/
def enRoute (s : State) (o : Nat) : Bool := s.torus.any fun p => p.2.job = .op && p.2.op = o

/-- A packet of another job is shown on its way (log 16). -/
def jobOnWay (s : State) (j : Job) : Bool := s.torus.any fun p => p.2.job = j

/-- The directory entry a handle names, if it is not stale (R291). -/
def dirOf (s : State) (h : Handle) : Option Dir :=
  match (s.die h.die).dirs.find? h.idx with
  | some d => if d.gen = h.gen ∧ d.st ≠ .drained then some d else none
  | none => none

/-- A bundle abandoned: its preparing versions are discarded and it drains; the entry keeps its generation. Nothing
happens to a bundle that has drained already (R291, R292, R294, R304). -/
def abandon (s : State) (h : Handle) : State :=
  match dirOf s h with
  | none => s
  | some _ =>
    let drop (v : LineV) : LineV := match v.prep with | some (_, h') => if h' = h then { v with prep := none } else v | none => v
    let ls : SMap LineV := (s.lines.mapV fun _ v => drop v).filter fun (p : Nat × LineV) => p.2 ≠ LineV.none
    let s1 := { s with lines := ls }
    s1.modDie h.die fun d => { d with dirs := d.dirs.adjust h.idx fun x => { x with st := .drained, lines := [], wait := [] } }

/-- Handle bits (R291). -/
def Handle.bits (h : Handle) : W64 := BitVec.ofNat 64 (h.gen % 2 ^ 14 * 2 ^ 18 + (4 * h.dom + h.die % 4) % 2 ^ 8 * 2 ^ 10 + h.idx)

/-- An ABANDON record in the context log (Table HST.5). -/
def abandonLog (s : State) (c : Nat) (h : Handle) (reason : Nat) : State :=
  ctxLog s c 19 [(4, 0), (8, h.bits.toNat), (1, reason)]

/-- The last lane of a group has ended: a bundle that it holds open is abandoned, and the log says so (R304). -/
def abandonOpen (s : State) (g : Group) : State :=
  match g.bundle with
  | some h =>
    (match dirOf s h with
      | some d => if d.st = .open_ then abandonLog (abandon s h) g.ctx h 0 else s
      | none => s)
  | none => s

/-- The results withheld from a path are written, in order (R341). -/
def reinject (s : State) (gid slot : Nat) : State :=
  (((s.group? gid).map Group.replay).getD [] |>.filter fun e => e.slot = slot).foldl landE
    (s.modGroup gid fun g => { g with replay := g.replay.filter fun e => e.slot ≠ slot })

/-- RETURN FROM A TRAP by the issuing handler group: its position is freed, the replay queue is re-injected, and
the path is ready at the point MODE names (R341, R350); a bundle that the handler holds open is abandoned (R304), and its
accesses stand before the path's later ones (R276). `t2` is S(REG), for MODE 2. -/
def returnTrap (mode : Nat) (t2 : W64) (h : Group) (gid slot : Nat) (s : State) : State :=
  match (s.group? gid).bind fun g => g.paths.find? slot with
  | none => { s with groups := s.groups.del s.iss.gid }
  | some p =>
    match p.cond with
    | .trapped t =>
      let pc := if mode = 0 then (if t.after_ then p.pc else h.trapaddr) else if mode = 1 then t.next else t2
      let rep := if mode = 0 && (!t.after_ || p.rep ≠ 0) then fld h.trapinfo.toNat 58 6 else 0
      match badTarget pc with
      | some c => doubleFault s h s.iss.slot c s.iss.addr
      | none =>
        let s0 := abandonOpen s h
        let s1 := groupFence (l1Drop { s0 with
          groups := s0.groups.del s.iss.gid
          ops := s0.ops.mapV fun _ o => if o.ofGroup s.iss.gid then { o with also := o.also ++ [(gid, slot)] } else o }
          h.place.core h.ctx) gid
        (reinject s1 gid slot).modPathAt gid slot fun p =>
          { p with
            cond := .ready, pc := pc, rep := rep
            counted := p.counted && mode = 0 && !t.after_ && pc = t.addr && rep = t.rep
            permFail := [], aborted := false, since := 0, woken := none
            skipCmp := if mode = 0 && !t.after_ && pc = t.addr then
                (if t.cause = .brk then p.skipCmp ++ [t.data.toNat] else p.skipCmp) else [] }
    | _ => { s with groups := s.groups.del s.iss.gid }

/-- What an instruction accepts before it (R59, R62, R63): rounding, predicate, P, element width, order codes,
the steps of d, a and b under rpt, imm words. -/
structure Acc where
  rnd  : Bool := false
  pred : Bool := false
  px   : Bool := false
  ew   : Bool := false
  ords : List Nat := []
  rpt  : Option (Bool × Bool × Bool) := none
  imms : Nat := 0
  deriving DecidableEq, Repr

/-- The instruction accepts some field group of a mod word (R59). -/
def Acc.mods (a : Acc) : Bool := a.rnd || a.pred || a.px || a.ew || !a.ords.isEmpty

/-- The prefixes are all accepted (R59, R62, R63, R130) and their fields are legal (R59, Table ASM.4). An instruction that
accepts no field group accepts no mod word, be it empty (R76). A step on a field that the form does not use makes ILLOP due
before the first repetition: R63 and R76 do not say when (DESIGN CHOICE, log 45). -/
def prefixOk (a : Acc) (p : Prefixes) : Bool :=
  (match p.mod with
    | none => true
    | some m => a.mods && m.fieldsOk && (!m.rmv || a.rnd) && (!m.pv || a.pred) && (!m.ov || a.ords.contains m.ord) &&
        (m.px = 0 || a.px) && (!m.ewv || a.ew)) &&
  (match p.rpt with
    | none => true
    | some r => match a.rpt with
      | none => false
      | some (d, x, y) => (d || r.sd = 0) && (x || r.sa = 0) && (y || r.sb = 0)) &&
  p.his.length ≤ a.imms

/-- A register by kind (0 s, 1 v, 2 m) and number. -/
abbrev RegN := Nat × Nat

/-- Which groups may issue an instruction (R48, R91, R251, R348). -/
inductive Who where
  | any | handler | notHandler | porter | nobody
  deriving DecidableEq, Repr

/-- The group may issue it. -/
def Who.ok : Who → Group → Bool
  | .any, _ => true
  | .handler, g => g.isHandler
  | .notHandler, g => !g.isHandler
  | .porter, g => (match g.kind with | .porter _ _ => true | _ => false)
  | .nobody, _ => false

/-- What admission asks of an instruction: accepted prefixes, registers read and written, field checks that need
the prefixes (step 6), who may issue it (step 7), whether it needs the full mask (step 9), whether it counts
(R256). -/
structure Adm where
  acc    : Acc
  rd     : List RegN := []
  wr     : List RegN := []
  fields : Bool := true
  who    : Who := .any
  full   : Bool := false
  count  : Bool := true
  deriving DecidableEq, Repr

/-- The rounding mode of the instruction (R24). -/
def rmode (s : State) (g : Group) : Nat :=
  match s.iss.pre.mod with
  | some m => if m.rmv then m.rm else fld g.fpmode.toNat 0 3
  | none => fld g.fpmode.toNat 0 3

/-- The predicate's mask register, which the instruction reads (R60). -/
def predReg (p : Prefixes) : List RegN :=
  match p.mod with
  | some m => if m.pv && m.pm ≠ 0 then [(2, m.pm)] else []
  | none => []

/-- The registers an instruction names: those it reads, its predicate among them, and those it writes. -/
def Adm.named (a : Adm) (s : State) : List RegN := a.rd ++ predReg s.iss.pre ++ a.wr

/-- Destination registers an operation in flight keeps busy (R132, R137, R302). -/
def OpKind.dsts : OpKind → List RegN
  | .mem m => match m.dst with | .vec d => [(1, d)] | .sca d => [(0, d)] | .none => []
  | .submit _ _ _ _ r _ => [(0, r)]
  | .bclose _ r => [(0, r)]
  | .bfetch r _ _ => [(0, r)]
  | _ => []

/-- A register number the instruction cannot name (R46, R143). -/
def outOfBudget (g : Group) (r : RegN) : Bool :=
  match r.1 with
  | 0 => 128 ≤ r.2
  | 1 => g.budget ≤ r.2
  | _ => false

/-- Registers a pipe entry writes. -/
def RegW.reg : RegW → RegN
  | .s n _ => (0, n)
  | .v n _ _ => (1, n)
  | .m n _ => (2, n)

/-- The entry writes one of the registers. -/
def PipeE.names (e : PipeE) (rs : List RegN) : Bool := e.writes.any fun w => rs.contains w.reg

/-- A withheld result that a path must wait for: it is of the path, of a register that the group shares, or of a lane that the
path holds (R42, R341). -/
def PipeE.busyFor (e : PipeE) (slot : Nat) (p : Path) (rs : List RegN) : Bool :=
  e.writes.any fun w => rs.contains w.reg && (e.slot = slot || match w with | .v _ l _ => p.mask.getLsbD l | _ => true)

/-- An operation in flight of the path, or of the path it has divided from, keeps one of `rs` busy; inside an allon
region, an operation of any path of the group; and a destination of the group's replay queue stays busy (R132, R137, R234,
R264, R341). A quad instruction does not wait for what another path has pending in its own lanes (R42). -/
def scoreBusy (s : State) (gid slot : Nat) (p : Path) (rs : List RegN) : Bool :=
  (s.ops.any fun o => o.2.gid = gid && (o.2.of gid slot || p.saved.isSome) &&
    o.2.kind.dsts.any fun r => r ≠ (0, 0) && rs.contains r) ||
  (match s.group? gid with | some g => g.replay.any fun e => e.busyFor slot p rs | none => false)

/-- Arithmetic of the group in flight that must land before the instruction issues: it writes a register that the
instruction names, so that the paths' effects keep the order of issue (R75), or the path's own raises an enabled flag (R27,
R341). -/
def pipeBusy (s : State) (rs : List RegN) : Bool :=
  s.pipe.any fun e => e.gid = s.iss.gid && (e.names rs || (e.slot = s.iss.slot && e.flags &&& e.te ≠ 0))

/-- Where admission ends. -/
inductive Gate where
  | go
  | trap (c : Cause) (data : Nat)
  | settle
  | score
  deriving DecidableEq, Repr

/-- The register in which a soft error is marked. -/
def cellReg (c : Nat × Nat) : RegN := if c.1 = 1 then (1, c.2 / 32) else c

/-- The number of a damaged register among `rs` (R342). -/
def Group.damagedAmong (g : Group) (rs : List RegN) : Option Nat :=
  (g.damaged.find? fun c => rs.contains (cellReg c)).map fun c => (cellReg c).2

/-- Steps 5 to 9 of R72, in order, then the scoreboard and damaged registers (R342). A form that rounds needs a mode
code up to 5, wherever it comes from (R24). The ILLOP of a destination m0 (Table SCL.7) is judged after PRIV, REGBOUND and MASKREQ:
no step of R72 lists it (DESIGN CHOICE, log 98). -/
def gate (a : Adm) (s : State) (g : Group) (p : Path) : Gate :=
  if !prefixOk a.acc s.iss.pre || !a.fields || (a.acc.rnd && 6 ≤ rmode s g) then .trap .illop 0
  else if !a.who.ok g then .trap .priv 0
  else if (a.rd ++ a.wr).any (outOfBudget g) then .trap .regbound 0
  else if a.full && p.mask ≠ BitVec.allOnes 32 then .trap .maskreq 0
  else if a.wr.contains (2, 0) then .trap .illop 0
  else if pipeBusy s (a.named s) then .settle
  else if scoreBusy s s.iss.gid s.iss.slot p (a.named s) then .score
  else match g.damagedAmong (a.rd ++ predReg s.iss.pre) with
    | some n => .trap .regfault n
    | none => .go

/-- Cores' heartbeat registers of a context (R48). -/
def State.hb (s : State) (core c : Nat) : Hb := (s.core core).hb.get Hb.reset c

/-- One instruction counted under %hbmode = 1; a count that reaches the period makes a tick due (R244). -/
def countOne (gid : Nat) (s : State) : State :=
  match s.group? gid with
  | none => s
  | some g =>
    let h := s.hb g.place.core g.ctx
    if h.mode ≠ 1 then s
    else if h.period ≤ g.hbCount + 1 then s.modGroup gid fun g => { g with hbCount := 0, tickDue := true }
    else s.modGroup gid fun g => { g with hbCount := g.hbCount + 1 }

/-- An instruction admitted to issue: it counts once (R370), and `k` is its effect. -/
def issued (count : Bool) (s : State) (p : Path) (k : State → State) : State :=
  if p.counted || !count then k s
  else countOne s.iss.gid (k (s.modPath fun p => { p with counted := true }))

/-- REGFAULT of a damaged register, which the context log records (R342, Table HST.5). -/
def regFault (g : Group) (n : Nat) (s : State) : State :=
  ctxLog (trapAt .regfault n s) g.ctx 18 [(1, 0), (1, pgroup s g), (1, s.iss.slot), (1, 0), (8, n)]

/-- ADMISSION: `k` runs where the instruction issues; otherwise the trap is taken or the path waits. -/
def gated (a : Adm) (s : State) (k : Group → Path → State → State) : Out :=
  onPath s fun g p =>
    match gate a s g p with
    | .go => issued a.count s p (k g p)
    | .trap .regfault n => regFault g n s
    | .trap c n => trapAt c n s
    | .settle => landGroup s s.iss.gid
    | .score => waitOn (.score (a.named s)) s

end Sys2Proof.Machine
end

