-- ==== Sys2Proof/Machine/Life.lean ====
section
/-! DEFINITION. The life of paths and groups: barriers' counting, meetings at rcv, the end of a path, retirement,
regroup rounds (chapters 06, 15, 17). -/

namespace Sys2Proof.Machine

/-- A path that begins: ready, with no frame, reserve or arrival; `inl` where it divides from a path inside the code of an
inlined frame (R91). -/
def Path.start (pc : W64) (mask : W32) (tok parent : Nat) (halted : Bool) (inl : Bool := false) : Path :=
  { pc := pc, rep := 0, mask := mask, cond := .ready, halted := halted, after_ := pc, since := 0, tok := tok,
    parent := parent, saved := none, held := false, nent := 0, frames := [], promo := false,
    reserve := [], claimed := 0, arrivals := [], counted := false, fpx := none, fmem := false, stepReq := 0, stepAt := pc, stepNext := pc,
    skipCmp := [], permFail := [], aborted := false, woken := none, gap := 0, inl := inl }

/-- The entry of a gang list that names (PART, GSLOT) (Table MTX.1). -/
def gangEntries (x : W64) : List (Nat × Nat × Nat) :=
  (List.range (fld x.toNat 61 3)).map fun j =>
    (fld x.toNat (10 * j + 8) 2, fld x.toNat (10 * j + 4) 4, fld x.toNat (10 * j) 4)

/-- The gang list names the place. -/
def gangLists (x : W64) (p : Place) : Bool := (gangEntries x).any fun e => e.1 = p.part && e.2.1 = p.pos

/-- A waiting path takes a trap precisely at its instruction. -/
def trapWaiting (s : State) (gid slot : Nat) (c : Cause) : State :=
  match s.path? gid slot with
  | none => s
  | some p => trapPath s gid slot { cause := c, data := 0, addr := p.pc, next := p.after_, rep := 0, after_ := false }

/-- Every arrived group takes GANG at its mma; the latch is empty (R153). -/
def gangAbort (s : State) (q : Nat) : State :=
  (s.quad q).latch.foldl (fun s e => trapWaiting s e.gid e.slot .gang) (s.modQuad q fun x => { x with latch := [] })

/-- The groups of a team, in ascending %grp (R235, R257). -/
def teamGroups (s : State) (t : Nat) : List (Nat × Group) :=
  (s.groups.filter fun p => p.2.team = t).insertionSort fun a b => a.2.grp ≤ b.2.grp

/-- Every path of the group that holds live lanes has arrived at a barrier in a phase (R258). -/
def groupArrived (g : Group) (coh : Bool) (k ph : Nat) : Bool :=
  let ps := g.paths.filter fun (p : Nat × Path) => p.2.mask ≠ 0
  !g.paths.isEmpty && (if ps.isEmpty then g.paths else ps).all fun p => p.2.arrivals.contains (coh, k, ph)

/-- A barrier counted afresh: members `all` that have arrived are added; the phase completes when ARRIVED
reaches EXPECT (R258, R259). -/
def Bar.recount (b : Bar) (expect : Nat) (all : List Nat) (arrived : Nat → Bool) : Bar :=
  let c := b.counted ++ all.filter fun m => !b.counted.contains m && arrived m
  if expect ≠ 0 ∧ expect ≤ c.length then { phase := (b.phase + 1) % 2 ^ 32, counted := [] } else { b with counted := c }

/-- PHASE of barrier `k` of a group's team, or of its cohort. -/
def phaseOf (s : State) (g : Group) (coh : Bool) (k : Nat) : Nat :=
  match s.teams.find? g.team with
  | none => 0
  | some t => if coh then ((s.cohorts.find? t.cohort).map fun c => (c.bars.get Bar.reset k).phase).getD 0
    else (t.bars.get Bar.reset k).phase

/-- A path that waits at a barrier whose phase has completed is ready (R259): after the barrier, or, where it had
arrived already, at it (Table BAR.3). -/
def barWake (s : State) (g : Group) (p : Path) : Path :=
  match p.cond with
  | .waiting (.bar coh k ph) =>
    if phaseOf s g coh k ≠ ph then { p.fresh with cond := .ready, pc := p.after_, rep := 0 } else p
  | .waiting (.barAgain coh k ph) => if phaseOf s g coh k ≠ ph then { p with cond := .ready } else p
  | _ => p

/-- Every path that waits at a completed phase becomes ready (R259); its return is an acquire (R262). -/
def barWakeAll (s : State) : State :=
  let woken := s.groups.filter fun (g : Nat × Group) => g.2.paths.any fun p => barWake s g.2 p.2 ≠ p.2
  woken.foldl (fun s g => l1Drop s g.2.place.core g.2.ctx)
    { s with groups := s.groups.mapV fun _ g => { g with paths := g.paths.mapV fun _ p => barWake s g p } }

/-- The barriers of a team and of its cohort counted afresh, and the paths of a completed phase made ready (R258,
R259). -/
def recount (s : State) (t : Nat) : State := barWakeAll (recountBars s t)
where recountBars (s : State) (t : Nat) : State :=
  match s.teams.find? t with
  | none => s
  | some tm =>
    let gs := teamGroups s t
    let arr (coh : Bool) (k ph gid : Nat) : Bool := ((s.group? gid).map fun g => groupArrived g coh k ph).getD false
    let tm' := { tm with bars := tm.bars.mapV fun k b => b.recount (tm.total - tm.retired) (gs.map Prod.fst) (arr false k b.phase) }
    let s1 := { s with teams := s.teams.put t tm' }
    match s.cohorts.find? tm.cohort with
    | none => s1
    | some co =>
      let ts := (s.teams.filter fun p => p.2.cohort = tm.cohort).map Prod.fst
      let tArr (k ph t : Nat) : Bool :=
        let l := teamGroups s t
        !l.isEmpty && l.all fun p => groupArrived p.2 true k ph
      let co' := { co with bars := co.bars.mapV fun k b => b.recount (co.total - co.retired) ts (tArr k b.phase) }
      { s1 with cohorts := s1.cohorts.put tm.cohort co' }

/-- A path of a group known under a new %slot: everything that names it follows (R224, R231, R233). -/
def renamePath (s : State) (gid old new : Nat) : State :=
  let r (g' p' : Nat) : Nat × Nat := if g' = gid ∧ p' = old then (gid, new) else (g', p')
  let rl (l : List (Nat × Nat)) := l.map fun q => r q.1 q.2
  let rw (l : List (Nat × Nat × Need)) := l.map fun q => ((r q.1 q.2.1).1, (r q.1 q.2.1).2, q.2.2)
  let s1 := s.modGroup gid fun g =>
    match g.paths.find? old with
    | none => g
    | some p =>
      { g with
        paths := ((g.paths.del old).mapV fun _ q => if q.parent = old then { q with parent := new } else q).put new p
        rstack := g.rstack.map fun e => if e.owner = old then { e with owner := new } else e
        replay := g.replay.map fun e => if e.slot = old then { e with slot := new } else e }
  { s1 with
    ops := s1.ops.mapV fun _ o => { o with slot := (r o.gid o.slot).2, also := rl o.also }
    pipe := s1.pipe.map fun e => { e with slot := (r e.gid e.slot).2 }
    parts := s1.parts.mapV fun _ q =>
      { q with trapq := rl q.trapq, rr := rl q.rr, issued := q.issued.map fun i => { i with slot := (r i.gid i.slot).2 } }
    dies := s1.dies.mapV fun _ d =>
      { d with
        walks := d.walks.mapV fun _ w => { w with paths := rw w.paths }
        faults := d.faults.mapV fun _ f => { f with paths := rl f.paths, frames := f.frames.map (fun q => ((r q.1 q.2.1).1, (r q.1 q.2.1).2, q.2.2)), claims := rl f.claims } }
    groups := s1.groups.mapV fun _ g =>
      match g.kind with
      | .trapH a b => { g with kind := .trapH (r a b).1 (r a b).2 }
      | .porter a b => { g with kind := .porter (r a b).1 (r a b).2 }
      | _ => g }

/-- The split-table entries of a core in use: the fragments of its resident groups hold them (R228). -/
def splitUsed (s : State) (core : Nat) : List Nat :=
  ((s.groups.filter fun p => p.2.resident && p.2.place.core = core).flatMap fun p => p.2.paths.map Prod.fst).filter (2 ≤ ·)

/-- Entries of a core's split table (R228). -/
def splitMax : Nat := 64

/-- The lowest entry of a core's split table that is free (R228). -/
def freeSplit (s : State) (core : Nat) : Option Nat := (List.range splitMax).find? fun i => !(splitUsed s core).contains (i + 2)

/-- A claimed record returned to free by a write of STATE at its home (R240). -/
def freeRecord (s : State) (c core va : Nat) : State :=
  match walkNow s c va Need.write with
  | (s1, some k) => homeWrite s1 (some core) k [0]
  | (s1, none) => s1

/-- The reserve of a path that ends returned to free (R240, R243). -/
def freeReserve (s : State) (gid slot : Nat) : State :=
  match s.group? gid, s.path? gid slot with
  | some g, some p => p.reserve.foldl (fun s r => freeRecord s g.ctx g.place.core r) s
  | _, _ => s

/-- Path `old` ends in path `new` of its group: its lanes, the stack entries it owns and its operations pass to `new`, its
fragments take it as their parent, and its reserve is returned (R229, R231, R233, R240). -/
def fuseInto (s : State) (gid old new : Nat) : State :=
  let r (g' p' : Nat) : Nat × Nat := if g' = gid ∧ p' = old then (gid, new) else (g', p')
  let s1 := (freeReserve s gid old).modGroup gid fun g =>
    match g.paths.find? old with
    | none => g
    | some q =>
      let rest := (g.paths.del old).mapV fun _ k => if k.parent = old then { k with parent := new } else k
      { g with
        paths := rest.adjust new fun p => { p with mask := p.mask ||| q.mask, nent := p.nent + q.nent }
        rstack := g.rstack.map fun e => if e.owner = old then { e with owner := new } else e }
  groupFence { s1 with
    ops := s1.ops.mapV fun _ o => { o with slot := (r o.gid o.slot).2, also := o.also.map fun a => r a.1 a.2 }
    pipe := s1.pipe.map fun e => { e with slot := (r e.gid e.slot).2 } } gid

/-- A path waiting at a rcv with token `c`. -/
def atRcv (p : Path) (c : Nat) : Bool := p.cond = .waiting (.rcv c)

/-- Step 1 of R231 for path `q`: the live fragments of `q` under token `c`. -/
def rcvKids (g : Group) (q c : Nat) : List (Nat × Path) :=
  g.paths.filter fun p => 2 ≤ p.1 && p.2.parent = q && p.2.tok = c

/-- Every fragment of `q` waits at a rcv `c` (R231 step 1). -/
def kidsWait (g : Group) (q c : Nat) : Bool := (rcvKids g q c).all fun p => atRcv p.2 c

/-- What a path waiting at a rcv can do now (R231). -/
inductive Meet where
  | fuse (kid : Nat)
  | merge (other : Nat)
  | go
  deriving DecidableEq, Repr

/-- The step of R231 that path `q` waiting at a rcv can take. -/
def meetOf (g : Group) (q : Nat) (p : Path) : Option Meet :=
  match p.cond with
  | .waiting (.rcv c) =>
    if !kidsWait g q c then none
    else
      match (rcvKids g q c).find? fun k => k.2.pc = p.pc && kidsWait g k.1 c && (rcvKids g k.1 c).all (·.2.pc ≠ p.pc) with
      | some k => some (.fuse k.1)
      | none =>
        if (rcvKids g q c).any (·.2.pc = p.pc) then none
        else if 2 ≤ q ∧ p.tok = c then none
        else if q < 2 ∧ (g.paths.find? (1 - q)).isSome ∧ g.divTok = c then
          match g.paths.find? (1 - q) with
          | some o =>
            if atRcv o c && o.pc = p.pc && kidsWait g (1 - q) c && (rcvKids g (1 - q) c).all (·.2.pc ≠ p.pc) then
              some (.merge (1 - q))
            else none
          | none => none
        else some .go
  | _ => none

/-- One step of the meetings of a group. -/
def meetStep (s : State) (gid : Nat) : Option State :=
  match s.group? gid with
  | none => none
  | some g =>
    (g.paths.findSome? fun p => (meetOf g p.1 p.2).map fun m => (p.1, p.2, m)).map fun x =>
      match x.2.2 with
      | .go => s.modPathAt gid x.1 fun p => { p.fresh with cond := .ready, pc := p.after_, rep := 0 }
      | .fuse k => fuseInto s gid k x.1
      | .merge _ => (fuseInto s gid 1 0).modPathAt gid 0 fun p => { p.fresh with cond := .ready, pc := p.after_, rep := 0 }

/-- Meetings until none is possible; each step ends a path or a wait. -/
def meets : Nat → State → Nat → State
  | 0, s, _ => s
  | n + 1, s, gid => match meetStep s gid with | none => s | some s1 => meets n s1 gid

/-- A kernel with one group fewer; with none left it is finishing (R215). -/
def kernelLess (k : Kernel) : Kernel := { k with left := k.left - 1, st := if k.left ≤ 1 then .finishing else k.st }

/-- RETIREMENT of a group (R90 step 3): its position and registers are freed, its reserves returned, its open
bundle abandoned, its team, cohort and kernel count one group fewer. -/
def retire (s : State) (gid : Nat) : State :=
  match s.group? gid with
  | none => s
  | some g =>
    let s1 := g.paths.foldl (fun s p => freeReserve s gid p.1) s
    let s2 := abandonOpen s1 g
    let s3 := { s2 with groups := s2.groups.del gid, pipe := s2.pipe.filter fun e => e.gid ≠ gid }
    let s4 :=
      if g.resident && gangLists (s3.quad g.place.quadIx).gang g.place then
        (gangAbort s3 g.place.quadIx).modQuad g.place.quadIx fun q => { q with gang := 0 }
      else s3
    let s5 := { s4 with
      reqs := match s4.reqs.find? g.req with
        | none => s4.reqs
        | some r =>
          let l := r.gids.filter (· ≠ gid)
          if l.isEmpty then s4.reqs.del g.req else s4.reqs.put g.req { r with gids := l }
      kernels := if g.kind = GKind.grid then s4.kernels.adjust g.kernel kernelLess else s4.kernels }
    match s5.teams.find? g.team with
    | none => s5
    | some tm =>
      if tm.retired + 1 < tm.total then recount { s5 with teams := s5.teams.put g.team { tm with retired := tm.retired + 1 } } g.team
      else
        let s6 := { s5 with teams := s5.teams.del g.team }
        match s6.cohorts.find? tm.cohort with
        | none => s6
        | some co =>
          if co.retired + 1 < co.total then
            let s7 := { s6 with cohorts := s6.cohorts.put tm.cohort { co with retired := co.retired + 1 } }
            match List.find? (fun (p : Nat × Team) => p.2.cohort = tm.cohort) s7.teams with
            | some t => recount s7 t.1
            | none => s7
          else { s6 with cohorts := s6.cohorts.del tm.cohort }

/-- Converged under R224: one path, in slot A, and no stack entry. -/
def Group.converged (g : Group) : Bool :=
  match g.paths with
  | [(0, p)] => p.nent = 0 && g.rstack.isEmpty
  | _ => false

/-- A pair of a regroup round: the host takes the partner's live lanes and registers a to b (R236). -/
def fusePair (s : State) (host partner d a b : Nat) : State :=
  match s.group? host, s.group? partner with
  | some h, some q =>
    let src := lanesOf q.live
    let dst := (lanesOf (~~~h.live)).take src.length
    let moved := maskOf fun l => dst.contains l
    let v1 := dst.foldl (fun v l => (List.range h.budget).foldl (fun v n => v.set 0 (32 * n + l) 0) v) h.v
    let v2 := (List.zip src dst).foldl (fun v x =>
      (List.range (b + 1 - a)).foldl (fun v i => v.set 0 (32 * (a + i) + x.2) (rV q (a + i) x.1)) v) v1
    let s1 := s.modGroup host fun g =>
      let m1 := (List.range 8).foldl (fun m n => m.set 0 n (m.get 0 n &&& ~~~moved)) h.m
      let g1 := { g with v := v2, live := h.live ||| moved, fpflags := h.fpflags ||| q.fpflags, m := m1 }
      { g1.put1 (.s d 1) with
        paths := h.paths.adjust 0 fun p => { p.fresh with mask := h.live ||| moved, cond := .ready, pc := p.after_ } }
    retire s1 partner
  | _, _ => s

/-- Pairs of a list, first with second, third with fourth. -/
def pairUp : List Nat → List (Nat × Option Nat)
  | [] => []
  | [x] => [(x, none)]
  | x :: y :: t => (x, some y) :: pairUp t

/-- A regroup round at `x` resolves when every live group of the team has arrived (R235). -/
def regroupRound (s : State) (t : Nat) (x : W64) : State :=
  match s.teams.find? t with
  | none => s
  | some tm =>
    let gs := teamGroups s t
    let waiting (g : Group) : Option (Nat × Nat × Nat) :=
      match g.paths.find? 0 with
      | some p => match p.cond with
        | .waiting (.regroup d a b) => if p.pc = x then some (d, a, b) else none
        | _ => none
      | none => none
    if gs.isEmpty || gs.any fun p => !(tm.regroups.contains (x, p.1) && (p.2.resident || (waiting p.2).isSome)) then s
    else
      let s1 := { s with teams := s.teams.put t { tm with regroups := tm.regroups.filter fun q => q.1 ≠ x } }
      let ws := gs.filterMap fun p => (waiting p.2).map fun f => (p.1, f)
      let fOf (gid : Nat) : Nat × Nat × Nat := ((ws.find? fun w => w.1 = gid).map Prod.snd).getD (0, 0, 0)
      (pairUp (ws.map Prod.fst)).foldl (fun s pr =>
        match pr.2 with
        | some q => fusePair s pr.1 q (fOf pr.1).1 (fOf pr.1).2.1 (fOf pr.1).2.2
        | none => s.modGroup pr.1 fun g =>
          (g.put1 (.s (fOf pr.1).1 0)).modPath 0 fun p => { p.fresh with cond := .ready, pc := p.after_ }) s1

/-- The rounds at the addresses `xs` resolved where they can, again as often as `n` says: a round may retire a group that
another one waits for. -/
def regroupTimes (t : Nat) (xs : List W64) : Nat → State → State
  | 0, s => s
  | n + 1, s => regroupTimes t xs n (xs.foldl (fun s x => regroupRound s t x) s)

/-- Every regroup round of a team that can resolve. -/
def regroupAll (s : State) (t : Nat) : State :=
  match s.teams.find? t with
  | none => s
  | some tm =>
    let xs := (tm.regroups.map Prod.fst).eraseDups
    regroupTimes t xs xs.length s

/-- A path is gone: its fragments take a new parent, slot B moves into an empty slot A, or a fragment becomes
slot A (R224, R233). -/
def closeRanks (s : State) (gid old parent : Nat) : State :=
  match s.group? gid with
  | none => s
  | some g =>
    let np : Nat := if 2 ≤ old then parent else if (g.paths.find? (1 - old)).isSome then 1 - old else 0
    let s1 := s.modGroup gid fun g =>
      { g with paths := g.paths.mapV fun _ q => if q.parent = old ∧ old ≠ np then { q with parent := np } else q }
    if (g.paths.find? 0).isSome then s1
    else if (g.paths.find? 1).isSome then renamePath s1 gid 1 0
    else
      match g.paths with
      | [] => s1
      | (f, _) :: _ =>
        (renamePath s1 gid f 0).modGroup gid fun g =>
          { g with paths := g.paths.mapV fun k q => if k = 0 then q else if q.parent = old then { q with parent := 0 } else q }

/-- Where the accesses of a path that has ended are known under a slot of their own: they keep their order among themselves and
with the accesses before them (R90, R264). -/
def endedOps (s : State) (gid slot : Nat) : State :=
  let d := allSlots + s.nextId
  let r (x : Nat × Nat) : Nat × Nat := if x = (gid, slot) then (gid, d) else x
  { s with ops := s.ops.mapV fun _ o => { o with slot := (r (o.gid, o.slot)).2, also := o.also.map r }, nextId := s.nextId + 1 }

/-- A path of a group ends with its lanes (R90): the group's arithmetic lands, the path is removed, its reserve is
returned, and the group goes on with its other paths, or retires where no live lane remains. -/
def endPath (s0 : State) (gid slot : Nat) : State :=
  let s := landGroup s0 gid
  match s.group? gid with
  | none => s
  | some g =>
    match g.paths.find? slot with
    | none => s
    | some p =>
      let live := g.live &&& ~~~p.mask
      if g.paths.length ≤ 1 || live = 0 then
        regroupAll (retire (s.modGroup gid fun g => { g with live := live }) gid) g.team
      else
        let s1 := (freeReserve s gid slot).modGroup gid fun g => { g with live := live, paths := g.paths.del slot }
        regroupAll (recount (meets 200 (closeRanks (endedOps s1 gid slot) gid slot p.parent) gid) g.team) g.team

end Sys2Proof.Machine
end

