-- ==== Sys2Proof/Machine/Operands.lean ====
section
/-! DEFINITION. The operand forms: immediates and branch offsets with their imm words (R55, R62), the acceptance
of the formats (R63), and vectors element by element (R43, R92). -/

namespace Sys2Proof.Machine

/-- An immediate field of `w` bits under the imm words: its value and its width (R62). -/
def wide (s : State) (w raw : Nat) : Nat × Nat :=
  ((s.iss.pre.his.foldl (fun v h => v * 2 ^ 24 + h) 0) * 2 ^ w + raw, w + 24 * s.iss.pre.his.length)

/-- The sign-extended immediate (R55). -/
def immS (s : State) (raw : Nat) : W64 := sext64 (wide s 12 raw).2 (wide s 12 raw).1

/-- The zero-extended immediate (R55). -/
def immZ (s : State) (raw : Nat) : W64 := BitVec.ofNat 64 (wide s 12 raw).1

/-- The target of a relative branch with an offset field of `w` bits (R55, R84). -/
def relTarget (s : State) (w raw : Nat) : W64 := s.iss.at_ + 4 * sext64 (wide s w raw).2 (wide s w raw).1

/-- Acceptance of format A with three, or two, scalar registers (R63, R76). -/
def accS3 : Acc := { rpt := some (true, true, true) }
def accS2 : Acc := { rpt := some (true, true, false) }
/-- Acceptance of the scalar immediates (R62, R63, R81). -/
def accSI : Acc := { rpt := some (true, true, false), imms := 2 }
/-- Acceptance of vector forms with a predicate: three or two vector registers (R94, R95). -/
def accV3 : Acc := { pred := true, rpt := some (true, true, true) }
def accV2 : Acc := { pred := true, rpt := some (true, true, false) }
/-- Acceptance of rounding vector forms (R94). -/
def accR3 : Acc := { accV3 with rnd := true }
def accR2 : Acc := { accV2 with rnd := true }
/-- No prefix. -/
def acc0 : Acc := {}

/-- Register lists of one kind. -/
def sR (l : List Nat) : List RegN := l.map fun n => (0, n)
def vR (l : List Nat) : List RegN := l.map fun n => (1, n)
def mR (l : List Nat) : List RegN := l.map fun n => (2, n)

/-- The element width of an instruction that accepts one: 64 where none is given (R59). -/
def ewOf (s : State) : Nat :=
  match s.iss.pre.mod with
  | some m => if m.ewv then 8 * 2 ^ m.ew else 64
  | none => 64

/-- The width of a width code (R69). -/
def wOf (c : Nat) : Nat := 8 * 2 ^ c

/-- A lane's result, sub-element by sub-element (R92). -/
def mapE (w : Nat) (f : Nat → Nat) : W64 := ofElems w ((List.range (64 / w)).map f)

/-- The order and scope of a memory instruction; its entry's where no order is given (R59, R130). -/
def ordOf (s : State) (dord dscp : Nat) : Nat × Nat :=
  match s.iss.pre.mod with
  | some m => if m.ov then (m.ord, m.scp) else (dord, dscp)
  | none => (dord, dscp)

end Sys2Proof.Machine
end

