-- ==== Sys2Proof/Machine/Flags.lean ====
section
/-! DEFINITION. The flags, modes and stochastic draws of chapter 02, and vector results gathered with their flags. -/

namespace Sys2Proof.Machine

/-- Bits of %fpflags (Table NUM.8). -/
def fNV : Nat := 1
def fDZ : Nat := 2
def fOF : Nat := 4
def fUF : Nat := 8
def fNX : Nat := 16
def fSAT : Nat := 32

/-- Fields of %fpmode (Table NUM.7). -/
def Group.ftz (g : Group) : Bool := fld g.fpmode.toNat 3 1 = 1
def Group.daz (g : Group) : Bool := fld g.fpmode.toNat 4 1 = 1
def Group.fxsel (g : Group) : Nat := fld g.fpmode.toNat 10 3
def Group.satf8 (g : Group) : Bool := fld g.fpmode.toNat 13 1 = 1

/-- %fx(n) of the context (R18, R19). -/
def State.fx (s : State) (c n : Nat) : Nat :=
  match s.ctx? c with
  | some x => (x.fx.get 0x80000000 n).toNat
  | none => 0x80000000

/-- One draw of the generator (R25). -/
def nextDraw (x : Nat) : Nat :=
  let x1 := (x ^^^ (x * 2 ^ 13)) % 2 ^ 32
  let x2 := x1 ^^^ (x1 / 2 ^ 17)
  (x2 ^^^ (x2 * 2 ^ 5)) % 2 ^ 32

/-- `n` draws, and the state after them. -/
def drawList : Nat → Nat → List Nat × Nat
  | 0, x => ([], x)
  | n + 1, x => ((nextDraw x) :: (drawList n (nextDraw x)).1, (drawList n (nextDraw x)).2)

/-- `k` with the `n` draws of an instruction under the mode; none is drawn unless the mode is .sr (R25). -/
def withDraws (mode n : Nat) (g : Group) (s : State) (k : List Nat → State → State) : State :=
  if mode = 5 ∧ n ≠ 0 then
    let r := drawList n (s.part g.place.partIx).srseed.toNat
    k r.1 (s.modPart g.place.partIx fun p => { p with srseed := BitVec.ofNat 32 r.2 })
  else k [] s

/-- The union of flags. -/
def orAll (l : List Nat) : Nat := l.foldl (· ||| ·) 0

/-- Results of a lane-by-lane instruction: for each acting lane the value and the flags of each sub-element,
`f draw lane element`; draws are taken in lane order, then element order (R25). -/
def vecF (n : Nat) (lanes draws : List Nat) (f : Nat → Nat → Nat → Nat × Nat) : List (Nat × List (Nat × Nat)) :=
  lanes.zipIdx.map fun p => (p.1, (List.range n).map fun e => f (draws.getD (p.2 * n + e) 0) p.1 e)

/-- The flags that results raise (R27). -/
def vecFlags (r : List (Nat × List (Nat × Nat))) : Nat := orAll (r.flatMap fun p => p.2.map Prod.snd)

/-- The writes of results to whole registers. -/
def vecWrites (d w : Nat) (r : List (Nat × List (Nat × Nat))) : List RegW :=
  r.map fun p => .v d p.1 (ofElems w (p.2.map Prod.fst))

end Sys2Proof.Machine
end

