-- ==== Sys2Proof/Machine/Float.lean ====
section
/-! DEFINITION. Floating-point formats, exact values and their rounding (chapter 02, R112 to R114). A finite value
is held exactly as ±m·2^x; every rounding happens once, at the end. -/

namespace Sys2Proof.Machine

/-- An exact value: NaN (signalling or quiet), infinity, or ±m·2^x with m = 0 for a signed zero (R17, R29). -/
inductive FV where
  | nan (sig : Bool)
  | inf (neg : Bool)
  | fin (neg : Bool) (m : Nat) (x : Int)
  deriving DecidableEq, Repr

/-- Special codes of a format: IEEE infinities and NaNs; one NaN code only; none (Table NUM.2). -/
inductive Special where
  | ieee | oneNaN | bare
  deriving DecidableEq, Repr

/-- A format: exponent bits, fraction bits, bias, special codes (Table NUM.2). -/
structure Fmt where
  eb : Nat
  fb : Nat
  bias : Nat
  sp : Special
  deriving DecidableEq, Repr

def F32 : Fmt := { eb := 8, fb := 23, bias := 127, sp := .ieee }
def F16 : Fmt := { eb := 5, fb := 10, bias := 15, sp := .ieee }
def BF16 : Fmt := { eb := 8, fb := 7, bias := 127, sp := .ieee }
def F8E4 : Fmt := { eb := 4, fb := 3, bias := 7, sp := .oneNaN }
def F8E5 : Fmt := { eb := 5, fb := 2, bias := 15, sp := .ieee }
def F6E2 : Fmt := { eb := 2, fb := 3, bias := 1, sp := .bare }
def F6E3 : Fmt := { eb := 3, fb := 2, bias := 3, sp := .bare }
def F4 : Fmt := { eb := 2, fb := 1, bias := 1, sp := .bare }
/-- The matrix cell's narrow sum (R32). -/
def NS24 : Fmt := { eb := 8, fb := 15, bias := 127, sp := .ieee }

/-- Bits of a code. -/
def Fmt.bits (f : Fmt) : Nat := 1 + f.eb + f.fb
/-- The sign bit's weight. -/
def Fmt.top (f : Fmt) : Nat := 2 ^ (f.eb + f.fb)
/-- The code of +∞ of an IEEE format. -/
def Fmt.infCode (f : Fmt) : Nat := (2 ^ f.eb - 1) * 2 ^ f.fb
/-- The largest finite code. -/
def Fmt.maxCode (f : Fmt) : Nat :=
  match f.sp with
  | .ieee => f.infCode - 1
  | .oneNaN => f.top - 2
  | .bare => f.top - 1
/-- The canonical NaN (Table NUM.2); formats without one are given theirs by Table NUM.9. -/
def Fmt.qnan (f : Fmt) : Nat :=
  match f.sp with
  | .ieee => f.infCode + 2 ^ (f.fb - 1)
  | _ => f.top - 1

/-- A code with its sign. -/
def Fmt.signed (f : Fmt) (neg : Bool) (c : Nat) : Nat := if neg then f.top + c else c

/-- The value of a code (R17, R29). -/
def Fmt.val (f : Fmt) (code : Nat) : FV :=
  let c := code % (2 * f.top)
  let neg := f.top ≤ c
  let e := c % f.top / 2 ^ f.fb
  let r := c % 2 ^ f.fb
  if f.sp = .ieee ∧ e = 2 ^ f.eb - 1 then
    if r = 0 then .inf neg else .nan (r < 2 ^ (f.fb - 1))
  else if f.sp = .oneNaN ∧ c % f.top = f.top - 1 then .nan false
  else if e = 0 then .fin neg r (1 - f.bias - f.fb)
  else .fin neg (2 ^ f.fb + r) (e - f.bias - f.fb)

/-- A subnormal code read as zero of its sign (R28). -/
def Fmt.daz (f : Fmt) (on : Bool) (code : Nat) : Nat :=
  if on ∧ code % f.top / 2 ^ f.fb = 0 then code % (2 * f.top) / f.top * f.top else code

/-- m / 2^sh rounded to an integer under a mode with a draw (Table NUM.6, R25); whether it is inexact. -/
def roundQ (mode draw : Nat) (neg : Bool) (m sh : Nat) : Nat × Bool :=
  let t := m / 2 ^ sh
  let r := m % 2 ^ sh
  let up : Bool :=
    match mode with
    | 0 => 2 ^ sh < 2 * r || (2 * r = 2 ^ sh && t % 2 = 1)
    | 1 => false
    | 2 => !neg && r ≠ 0
    | 3 => neg && r ≠ 0
    | 4 => 2 ^ sh ≤ 2 * r
    | _ => draw < r * 2 ^ 32 / 2 ^ sh
  (if up && r ≠ 0 then t + 1 else t, r ≠ 0)

/-- The code a finite value beyond the range takes (Table NUM.9); `sat` keeps to the largest finite value. -/
def overCode (f : Fmt) (mode : Nat) (sat neg : Bool) : Nat :=
  if f.sp ≠ .ieee || sat then f.maxCode
  else
    match mode with
    | 0 => f.infCode
    | 4 => f.infCode
    | 2 => if neg then f.maxCode else f.infCode
    | 3 => if neg then f.infCode else f.maxCode
    | _ => f.maxCode

/-- ±m·2^x, m not 0, rounded into a format once: the code and the flags OF, UF, NX (R24, R25, R28, R30). Overflow is judged
on the rounded value, as R25 and R30 put it, so that an exact value just above the largest finite one may round back to it
with NX alone; of VFLT, for which R103 speaks of the exact result, see FV.round; tininess is judged on the value rounded with an unbounded
exponent, under .sr by the same draw (DEDUCED, log 10). -/
def roundTo (f : Fmt) (mode draw : Nat) (ftz sat neg : Bool) (m : Nat) (x : Int) : Nat × Nat :=
  let e : Int := Nat.log2 m + x
  let emin : Int := 1 - f.bias
  let q : Int := max e emin - f.fb
  let r := if q ≤ x then (m * 2 ^ (x - q).toNat, false) else roundQ mode draw neg m (q - x).toNat
  let q1 : Int := e - f.fb
  let r1 := if q1 ≤ x then (m * 2 ^ (x - q1).toNat, false) else roundQ mode draw neg m (q1 - x).toNat
  let tiny := e < emin && (r1.1 < 2 ^ (f.fb + 1) || e + 1 < emin)
  let code := if r.1 < 2 ^ f.fb then r.1 else ((q + f.fb + f.bias).toNat - 1) * 2 ^ f.fb + r.1
  if f.maxCode < code then (f.signed neg (overCode f mode sat neg), fOF + fNX)
  else if ftz && r.1 ≠ 0 && r.1 < 2 ^ f.fb then (f.signed neg 0, fUF + fNX)
  else (f.signed neg code, if r.2 then (if tiny then fUF + fNX else fNX) else 0)

/-- An exact value rounded into an IEEE format (R29, R30). -/
def FV.into (f : Fmt) (mode draw : Nat) (ftz sat : Bool) : FV → Nat × Nat
  | .nan sig => (f.qnan, if sig then fNV else 0)
  | .inf neg => (f.signed neg f.infCode, 0)
  | .fin neg m x => if m = 0 then (f.signed neg 0, 0) else roundTo f mode draw ftz sat neg m x

/-- ±m·2^x lies beyond the largest finite value of the format. -/
def Fmt.beyond (f : Fmt) (m : Nat) (x : Int) : Bool :=
  match f.val f.maxCode with
  | .fin _ n y => n * 2 ^ (y - min x y).toNat < m * 2 ^ (x - min x y).toNat
  | _ => false

/-- A result of VFLT, or of an f32 sum, rounded into its format: overflow is judged on the exact result (R103, Table NUM.8). -/
def FV.round (f : Fmt) (mode draw : Nat) (ftz : Bool) (v : FV) : Nat × Nat :=
  match v with
  | .fin neg m x => if f.beyond m x then (f.signed neg (overCode f mode false neg), fOF + fNX) else v.into f mode draw ftz false
  | _ => v.into f mode draw ftz false

/-- The negated value. -/
def FV.neg : FV → FV
  | .nan g => .nan g
  | .inf n => .inf !n
  | .fin n m x => .fin (!n) m x

def FV.isSig : FV → Bool
  | .nan g => g
  | _ => false
def FV.isNaN : FV → Bool
  | .nan _ => true
  | _ => false

/-- The exact product, and NV for 0 × ∞ (R103). -/
def FV.mul : FV → FV → FV × Nat
  | .nan a, .nan b => (.nan false, if a || b then fNV else 0)
  | .nan a, _ => (.nan false, if a then fNV else 0)
  | _, .nan b => (.nan false, if b then fNV else 0)
  | .inf a, .inf b => (.inf (a != b), 0)
  | .inf a, .fin b m _ => if m = 0 then (.nan false, fNV) else (.inf (a != b), 0)
  | .fin a m _, .inf b => if m = 0 then (.nan false, fNV) else (.inf (a != b), 0)
  | .fin a m x, .fin b n y => (.fin (a != b) (m * n) (x + y), 0)

/-- The signed integer s·m. -/
def sgn (neg : Bool) (m : Nat) : Int := if neg then -(m : Int) else m

/-- The exact sum of two finite values; an exact zero takes the sign of R103. -/
def finAdd (mode : Nat) (a : Bool) (m : Nat) (x : Int) (b : Bool) (n : Nat) (y : Int) : FV :=
  if m = 0 then (if n = 0 then .fin (if a = b then a else mode = 3) 0 0 else .fin b n y)
  else if n = 0 then .fin a m x
  else
    let k := min x y
    let i := sgn a (m * 2 ^ (x - k).toNat) + sgn b (n * 2 ^ (y - k).toNat)
    if i = 0 then .fin (mode = 3) 0 0 else .fin (i < 0) i.natAbs k

/-- The exact sum, and NV for ∞ − ∞ or a signalling source (R103). -/
def FV.add (mode : Nat) : FV → FV → FV × Nat
  | .nan a, .nan b => (.nan false, if a || b then fNV else 0)
  | .nan a, _ => (.nan false, if a then fNV else 0)
  | _, .nan b => (.nan false, if b then fNV else 0)
  | .inf a, .inf b => if a = b then (.inf a, 0) else (.nan false, fNV)
  | .inf a, .fin _ _ _ => (.inf a, 0)
  | .fin _ _ _, .inf b => (.inf b, 0)
  | .fin a m x, .fin b n y => (finAdd mode a m x b n y, 0)

/-- x·y + z exactly (R33, R103). -/
def FV.fma (mode : Nat) (x y z : FV) : FV × Nat :=
  let p := x.mul y
  let r := p.1.add mode z
  (r.1, p.2 ||| r.2)

/-- The place of a code in the order of numbers, −0 below +0. -/
def Fmt.key (f : Fmt) (code : Nat) : Int :=
  let c := code % (2 * f.top)
  if f.top ≤ c then -1 - ((c - f.top : Nat) : Int) else c

/-- FTZ on a result that is not rounded (R103). -/
def Fmt.flush (f : Fmt) (on : Bool) (code : Nat) : Nat × Nat :=
  if on ∧ code % f.top ≠ 0 ∧ code % f.top < 2 ^ f.fb then (code % (2 * f.top) / f.top * f.top, fUF + fNX) else (code, 0)

/-- Minimum or maximum; `num` returns the number where exactly one operand is NaN (R29, R103). -/
def Fmt.minMax (f : Fmt) (max_ num : Bool) (a b : Nat) : Nat × Nat :=
  let x := f.val a
  let y := f.val b
  let nv := if x.isSig || y.isSig then fNV else 0
  let pick := if (if max_ then f.key b ≤ f.key a else f.key a ≤ f.key b) then a else b
  (if x.isNaN then (if num && !y.isNaN then b else f.qnan)
   else if y.isNaN then (if num then a else f.qnan)
   else pick, nv)

/-- An exact value rounded to an integer under a mode: sign, magnitude, inexact (R30, R113). -/
def roundInt (mode draw : Nat) (neg : Bool) (m : Nat) (x : Int) : Nat × Bool :=
  if 0 ≤ x then (m * 2 ^ x.toNat, false) else roundQ mode draw neg m (-x).toNat

/-- An integer as an exact f32 code. -/
def f32OfInt (i : Int) : Nat := (FV.fin (i < 0) i.natAbs 0).into F32 0 0 false false |>.1

/-- The integer square root, one bit a step from bit `n - 1` down. -/
def isqrt (v : Nat) : Nat → Nat → Nat
  | 0, r => r
  | n + 1, r => if (r + 2 ^ n) * (r + 2 ^ n) ≤ v then isqrt v n (r + 2 ^ n) else isqrt v n r

/-- An exact value n·2^x rounded to 12 significant bits, ties to even, as an f32 code; beyond the range it is ±∞
or ±0 (R112, R113): whether it is beyond is judged on the rounded value (DESIGN CHOICE, log 51). -/
def seed12 (neg : Bool) (n : Nat) (x : Int) : Nat :=
  let sh := Nat.log2 n - 11
  let t := (roundQ 0 0 neg n sh).1
  let e : Int := Nat.log2 t + sh + x
  if 127 < e then F32.signed neg F32.infCode
  else if e < -126 then F32.signed neg 0
  else (FV.fin neg t (sh + x)).into F32 0 0 false false |>.1

/-- 1/x (R112, R113): the quotient carries 40 further bits and a sticky bit. -/
def rcpSeed : FV → Nat × Nat
  | .nan g => (F32.qnan, if g then fNV else 0)
  | .inf n => (F32.signed n 0, 0)
  | .fin n m x =>
    if m = 0 then (F32.signed n F32.infCode, fDZ)
    else
      let k := Nat.log2 m + 40
      (seed12 n (2 * (2 ^ k / m) + (if 2 ^ k % m = 0 then 0 else 1)) (-1 - k - x), 0)

/-- 1/√x (R112, R113). -/
def rsqSeed : FV → Nat × Nat
  | .nan g => (F32.qnan, if g then fNV else 0)
  | .inf n => if n then (F32.qnan, fNV) else (0, 0)
  | .fin n m x =>
    if m = 0 then (F32.signed n F32.infCode, fDZ)
    else if n then (F32.qnan, fNV)
    else
      let m1 := if x % 2 = 0 then m else 2 * m
      let x1 := if x % 2 = 0 then x else x - 1
      let k := Nat.log2 m1 + 30
      let v := 2 ^ (2 * k) / m1
      let r := isqrt v 64 0
      (seed12 false (2 * r + (if r * r * m1 = 2 ^ (2 * k) then 0 else 1)) (-1 - k - x1 / 2), 0)

/-- log2 e, 2/π and π/2, each times 2^400, rounded down. -/
def cLog2E : Nat := 3725399093452113361508878261685348397064333121840474113669779251110053462896811095071531244706817557295705407090210624801
def cTwoPi : Nat := 1643911329583902420875415334500933844528715375594949448028823594483032746353267717644494237032291291638281598697874456093
def cHalfPi : Nat := 4056188623365485619431135675650447259580575800089632601795595518807615452686995249372761680463408407713783389863663788118

/-- vexp.red (R112, R113): the parts f and n. The product with log2 e is irrational unless x is 0, so its last
bit is sticky. The f of a zero x is x itself, with its sign (DESIGN CHOICE, log 12). -/
def expRed (k : Nat) : FV → Nat × Nat
  | .nan g => (F32.qnan, if g then fNV else 0)
  | .inf n => (if k = 0 then 0 else f32OfInt (if n then -256 else 256), 0)
  | .fin n m x =>
    if m = 0 then (if k = 0 then F32.signed n 0 else 0, 0)
    else
      let t := 2 * (m * cLog2E) + 1
      let y := x - 401
      if (if 0 ≤ y then 0 else 256 * 2 ^ (-y).toNat) < t then (if k = 0 then 0 else f32OfInt (if n then -256 else 256), 0)
      else
        let r := (roundInt 0 0 false t y).1
        if k = 1 then (f32OfInt (sgn n r), 0)
        else
          let i := sgn n t - sgn n (r * 2 ^ (-y).toNat)
          let c := (FV.fin (i < 0) i.natAbs y).into F32 0 0 false false
          (c.1, c.2 &&& fNX)

/-- vlog.red (R112, R113). The m - 1 of a power of two is +0 (DESIGN CHOICE, log 12). -/
def logRed (k : Nat) : FV → Nat × Nat
  | .nan g => (F32.qnan, if g then fNV else 0)
  | .inf n => if n then (F32.qnan, fNV) else (if k = 0 then 0 else F32.infCode, 0)
  | .fin n m x =>
    if m = 0 then (if k = 0 then 0 else F32.signed true F32.infCode, 0)
    else if n then (F32.qnan, fNV)
    else
      let j := Nat.log2 m
      let big := 2 * 2 ^ (2 * j) ≤ m * m
      let e : Int := j + x + (if big then 1 else 0)
      if k = 1 then (f32OfInt e, 0)
      else
        let i : Int := (m : Int) - 2 ^ (if big then j + 1 else j)
        ((FV.fin (i < 0) i.natAbs (if big then -(j : Int) - 1 else -(j : Int))).into F32 0 0 false false |>.1, 0)

/-- vsc.red (R112, R113). With n = 0 the rounded part is x itself, a zero with its sign (DESIGN CHOICE, log 12). -/
def scRed (k : Nat) : FV → Nat × Nat
  | .nan g => (F32.qnan, if g then fNV else 0)
  | .inf _ => (F32.qnan, fNV)
  | .fin n m x =>
    if m = 0 then (if k = 0 then F32.signed n 0 else 0, 0)
    else
      let t := 2 * (m * cTwoPi) + 1
      let y := x - 401
      let r := (roundInt 0 0 false t y).1
      if k = 1 then (f32OfInt ((sgn n r) % 4), 0)
      else if r = 0 then ((FV.fin n m x).into F32 0 0 false false |>.1, 0)
      else
        let i := sgn n t - sgn n (r * 2 ^ (-y).toNat)
        let c := (FV.fin (i < 0) (2 * (i.natAbs * cHalfPi) + 1) (y - 401)).into F32 0 0 false false
        (c.1, c.2 &&& fNX)

/-- x·2^c under the mode (R112, R113). -/
def ldexp (mode draw : Nat) (ftz : Bool) (c : Int) : FV → Nat × Nat
  | .fin n m x => (FV.fin n m (if m = 0 then 0 else x + max (-512) (min 512 c))).into F32 mode draw ftz false
  | v => v.into F32 mode draw ftz false

/-- floor(log2 |x|) (R112, R113). -/
def getExp : FV → Nat × Nat
  | .nan g => (F32.qnan, if g then fNV else 0)
  | .inf _ => (F32.infCode, 0)
  | .fin _ m x => (if m = 0 then F32.signed true F32.infCode else f32OfInt (Nat.log2 m + x), 0)

/-- The significand in [1, 2) with the sign of x (R112, R113). -/
def getMan : FV → Nat × Nat
  | .nan g => (F32.qnan, if g then fNV else 0)
  | .inf _ => (F32.qnan, fNV)
  | .fin n m _ =>
    (if m = 0 then F32.signed n 0 else (FV.fin n m (-(Nat.log2 m : Int))).into F32 0 0 false false |>.1, 0)

/-- x − trunc(x) with the sign of x (R112, R113). -/
def fracPart : FV → Nat × Nat
  | .nan g => (F32.qnan, if g then fNV else 0)
  | .inf _ => (F32.qnan, fNV)
  | .fin n m x =>
    let r := if 0 ≤ x then 0 else m % 2 ^ (-x).toNat
    ((FV.fin n r x).into F32 0 0 false false |>.1, 0)

/-- x rounded to an integral value under the mode (R112, R113). -/
def frnd (mode draw : Nat) : FV → Nat × Nat
  | .fin n m x =>
    let r := roundInt mode draw n m x
    ((FV.fin n r.1 0).into F32 0 0 false false |>.1, if r.2 then fNX else 0)
  | v => v.into F32 mode draw false false

/-- vsc.fix on one sub-element (R114). -/
def scFix (q s c : Nat) : Nat × Nat :=
  match F32.val q with
  | .fin n m x =>
    let t : Nat := if 0 ≤ x then m * 2 ^ x.toNat else m / 2 ^ (-x).toNat
    match (sgn n t % 4).toNat with
    | 0 => (s, 0)
    | 1 => (c, 0)
    | 2 => (s ^^^ 0x80000000, 0)
    | _ => (c ^^^ 0x80000000, 0)
  | _ => (0x7FC00000, fNV)

/-- The value of an f4 code under the extra value `fx` (R18). -/
def f4Val (fx code : Nat) : FV :=
  if code % 16 = 8 then (match F32.val fx with | .nan _ => .nan false | v => v) else F4.val (code % 16)

/-- The f32 code of an f4 code (R31): the extra value's bits unchanged, a NaN canonical. -/
def f4ToF32 (fx code : Nat) : Nat :=
  if code % 16 = 8 then (match F32.val fx with | .nan _ => 0x7FC00000 | _ => fx)
  else (F4.val (code % 16)).into F32 0 0 false false |>.1

/-- A value into a narrow format: the fates of Table NUM.9 and R31. `fx` is the extra value selected. -/
def intoNarrow (f : Fmt) (mode draw : Nat) (sat : Bool) (fx : Nat) (v : FV) : Nat × Nat :=
  match f.sp with
  | .ieee => v.into f mode draw false sat
  | _ =>
    let r : Nat × Nat :=
      match v with
      | .nan g =>
        if f = F8E4 then (0x7F, if g then fNV else 0)
        else if f = F4 then ((match F32.val fx with | .nan _ => 8 | _ => 7), fNV)
        else (f.maxCode, fNV)
      | .inf n => (f.signed n f.maxCode, fNV)
      | .fin n m x => if m = 0 then (f.signed n 0, 0) else roundTo f mode draw false false n m x
    if f = F4 ∧ r.1 = 8 ∧ !v.isNaN then (if fx = 0x80000000 then 8 else 0, r.2) else r

/-- A value into a signed or unsigned integer of `w` bits (Table NUM.9). -/
def intoInt (signed_ : Bool) (w mode draw : Nat) : FV → Nat × Nat
  | .nan _ => (0, fNV)
  | .inf n => (if signed_ then (if n then 2 ^ (w - 1) else 2 ^ (w - 1) - 1) else if n then 0 else 2 ^ w - 1, fNV)
  | .fin n m x =>
    let r := roundInt mode draw n m x
    let i := sgn n r.1
    let lo : Int := if signed_ then -(2 ^ (w - 1)) else 0
    let hi : Int := if signed_ then 2 ^ (w - 1) - 1 else 2 ^ w - 1
    if i < lo then (ofI w lo, fNV) else if hi < i then (ofI w hi, fNV) else (ofI w i, if r.2 then fNX else 0)

/-- vfclass (Table VEC.4). -/
def Fmt.class_ (f : Fmt) (code : Nat) : Nat :=
  match f.val code with
  | .nan g => if g then 256 else 512
  | .inf n => if n then 1 else 128
  | .fin n m _ =>
    if m = 0 then (if n then 8 else 16)
    else if m < 2 ^ f.fb then (if n then 4 else 32)
    else if n then 2 else 64

/-- Round(a + b, f32, rn), and so on for the atomics and engines: NaN canonical, no flag (R36). -/
def addRn (f : Fmt) (a b : Nat) : Nat := ((((f.val a).add 0 (f.val b)).1).into f 0 0 false false).1

end Sys2Proof.Machine
end

