-- ==== Sys2Proof/Machine/XLane.lean ====
section
/-! DEFINITION. Cross-lane, quad and block-packing instructions: majors 0x1B and 0x1C (R110, R115 to R124). -/

namespace Sys2Proof.Machine

/-- V(n, l) as another lane sees it: 0 where lane l does not act (R110). -/
def seen (s : State) (g : Group) (p : Path) (n l : Nat) : W64 := if (act s g p).getLsbD l then rV g n l else 0

/-- A cross-lane move: V(d, l) := f for each acting lane, where `f rd l` reads other lanes by `rd` (R110). -/
def xMove (acc : Acc) (regs : List RegN) (fields : Bool) (d : Nat) (s : State)
    (f : Group → (Nat → Nat → W64) → Nat → W64) : Out :=
  gated { acc := acc, rd := regs, wr := vR [d], fields := fields } s fun g p =>
    land (vWrites d (actLanes s g p) (f g (seen s g p))) 0

/-- VSHFL (R115). -/
def execVshfl (d a b : Nat) (s : State) : Out :=
  xMove accV3 (vR [a, b]) true d s fun g r l => r a (fld (rV g b l).toNat 0 5)

/-- VSHFLE_E32 (R115). -/
def execVshfleE32 (d a b : Nat) (s : State) : Out :=
  xMove accV3 (vR [a, b]) true d s fun g r l =>
    mapE 32 fun e =>
      let i := elem 32 (rV g b l) e
      elem 32 (r a (fld i 3 5)) (fld i 0 1)

/-- VPSWAP (R115). -/
def execVpswap (d a k : Nat) (s : State) : Out :=
  gated { acc := { accV2 with ew := true }, rd := vR [a], wr := vR [d] } s fun g p =>
    land (vWrites d (actLanes s g p) fun l =>
      let q := l ^^^ 2 ^ k
      if (act s g p).getLsbD q then
        (if fld l k 1 = 0 then mapE (ewOf s) fun e => elem (ewOf s) (rV g a q) e ^^^ 2 ^ (ewOf s - 1) else rV g a q)
      else 0) 0

/-- Running sums over acting lanes: each lane's value combined with the sum before it (R34, R117). -/
def scanLanes {α : Type} (f : Nat → α → α → α) : Option α → List (Nat × α) → List (Nat × α)
  | _, [] => []
  | acc, (l, x) :: t =>
    let y := match acc with | none => x | some v => f l v x
    (l, y) :: scanLanes f (some y) t

/-- VPREFIX_ADD_I32 (R117). -/
def execVprefixAddI32 (d a : Nat) (s : State) : Out :=
  gated { acc := accV2, rd := vR [a], wr := vR [d] } s fun g p =>
    let col (e : Nat) := scanLanes (fun _ x y => (x + y) % 2 ^ 32) none
      ((actLanes s g p).map fun l => (l, elem 32 (rV g a l) e))
    land ((List.zip (col 0) (col 1)).map fun q => .v d q.1.1 (ofElems 32 [q.1.2, q.2.2])) 0

/-- An f32 sum rounded under the mode, with its flags; overflow is judged on the exact sum (Table NUM.8; log 10). -/
def addF (mode draw : Nat) (ftz : Bool) (x y : Nat) : Nat × Nat :=
  let v := (F32.val x).add mode (F32.val y)
  let c := v.1.round F32 mode draw ftz
  (c.1, v.2 ||| c.2)

/-- A single f32 value as the f32 forms hand it on: a signalling NaN sets NV, a NaN is canonical (R29). -/
def quietF (x : Nat) : Nat × Nat :=
  if (F32.val x).isNaN then (F32.qnan, if (F32.val x).isSig then fNV else 0) else (x, 0)

/-- VPREFIX_ADD_F32 (R34, R117): the first acting lane receives its own value, which nothing rounds and FTZ leaves as it is, since
R28 flushes rounded results (DESIGN CHOICE, log 105); NaN sources follow R29. -/
def execVprefixAddF32 (d a : Nat) (s : State) : Out :=
  gated { acc := accR2, rd := vR [a], wr := vR [d] } s fun g p s0 =>
    withDraws (rmode s g) (2 * (actLanes s g p).length) g s0 fun draws =>
      let col (e : Nat) : List (Nat × (Nat × Nat)) :=
        (scanLanes (fun i (x y : Nat × Nat) =>
            let r := addF (rmode s g) (draws.getD (2 * i + e) 0) g.ftz x.1 y.1
            (r.1, x.2 ||| y.2 ||| r.2)) none
          ((actLanes s g p).zipIdx.map fun q =>
            (q.2, quietF (F32.daz g.daz (elem 32 (rV g a q.1) e)))))
      let ls := actLanes s g p
      let c0 := col 0
      let c1 := col 1
      land ((List.zip c0 c1).map fun q => .v d (ls.getD q.1.1 0) (ofElems 32 [q.1.2.1, q.2.2.1]))
        (orAll (c0.map (·.2.2)) ||| orAll (c1.map (·.2.2)))

/-- A reduction of both 32-bit positions over the acting lanes, written to every acting lane (R117). -/
def reduce (acc : Acc) (d a : Nat) (s : State) (f : Group → List Nat → Nat × Nat) : Out :=
  gated { acc := acc, rd := vR [a], wr := vR [d] } s fun g p =>
    let r (e : Nat) := f g ((actLanes s g p).map fun l => elem 32 (rV g a l) e)
    if (actLanes s g p).isEmpty then land [] 0
    else land (vWrites d (actLanes s g p) fun _ => ofElems 32 [(r 0).1, (r 1).1]) ((r 0).2 ||| (r 1).2)

/-- VRED_ADD_I32 (R117). -/
def execVredAddI32 (d a : Nat) (s : State) : Out := reduce accV2 d a s fun _ l => (l.sum % 2 ^ 32, 0)

/-- VRED_MAX_I32 (R117). -/
def execVredMaxI32 (d a : Nat) (s : State) : Out :=
  reduce accV2 d a s fun _ l =>
    (l.foldl (fun m x => if toI 32 m < toI 32 x then x else m) (l.headD 0), 0)

/-- VRED_MAX_F32 (R117). -/
def execVredMaxF32 (d a : Nat) (s : State) : Out :=
  reduce accV2 d a s fun g l =>
    let xs := l.map (F32.daz g.daz)
    let r := match xs with
      | [] => (0, 0)
      | x :: t => t.foldl (fun m y => let c := F32.minMax true true m.1 y; (c.1, m.2 ||| c.2)) (quietF x)
    let z := F32.flush g.ftz r.1
    (z.1, r.2 ||| z.2)

/-- The value a lane brings to the tree of R34, with the flags so far and the draw it carries; a value that was
passed on carries no draw of its own stage (log 13). -/
structure TreeV where
  x : Nat
  fl : Nat
  deriving DecidableEq, Repr

/-- One stage of the tree: `draw l` is the draw of lane l (R34, R117). -/
def treeStage (add : Nat → Nat → Nat → Nat × Nat) (draw : Nat → Nat) (k : Nat) (v : Nat → Option TreeV) (l : Nat) :
    Option TreeV :=
  if l % 2 ^ (k + 1) ≠ 0 then none
  else match v l, v (l + 2 ^ k) with
    | some x, some y => let r := add (draw (l + 2 ^ k)) x.x y.x; some { x := r.1, fl := x.fl ||| y.fl ||| r.2 }
    | some x, none => some x
    | none, some y => some y
    | none, none => none

/-- VRED_ADD_F32 (R34, R117): a value that no other joins is passed on, not rounded and not flushed (DESIGN CHOICE, log 105); NaN
sources follow R29. Where the lane whose draw a stage uses does not act, no rule gives the draw: the
stage takes a free value (log 13). -/
def execVredAddF32 (d a : Nat) (s : State) : Out :=
  gated { acc := accR2, rd := vR [a], wr := vR [d] } s fun g p s0 =>
    withDraws (rmode s g) (2 * (actLanes s g p).length) g s0 fun draws s1 =>
      let ls := actLanes s g p
      let draw (e l : Nat) : Nat :=
        if (act s g p).getLsbD l then draws.getD (2 * (ls.idxOf l) + e) 0
        else (Config.freeValue (s1.fresh + 32 * e + l)).toNat % 2 ^ 32
      let leaf (e l : Nat) : Option TreeV :=
        if (act s g p).getLsbD l then
          let v := quietF (F32.daz g.daz (elem 32 (rV g a l) e))
          some { x := v.1, fl := v.2 }
        else none
      let st (e : Nat) := treeStage (fun dr x y => addF (rmode s g) dr g.ftz x y) (draw e)
      let root (e : Nat) : Option TreeV := st e 4 (st e 3 (st e 2 (st e 1 (st e 0 (leaf e))))) 0
      let r (e : Nat) : Nat × Nat :=
        match root e with
        | none => (0, 0)
        | some v => (v.x, v.fl)
      land (vWrites d ls fun _ => ofElems 32 [(r 0).1, (r 1).1]) (if ls.isEmpty then 0 else (r 0).2 ||| (r 1).2)
        { s1 with fresh := s1.fresh + 64 }

/-- Candidate p beats candidate q under the MaxIdx order of a format (R118). -/
def beats (f : Fmt) (p q : W64) : Bool :=
  let x := p.toNat % 2 ^ f.bits
  let y := q.toNat % 2 ^ f.bits
  let nx := (f.val x).isNaN
  let ny := (f.val y).isNaN
  if nx != ny then ny
  else if !nx && f.key x ≠ f.key y then f.key y < f.key x
  else fld p.toNat 32 32 < fld q.toNat 32 32

/-- The winning pair among candidates (R118, R119). Of two NaN candidates with the same IDX neither beats the other: the one
of the lower lane is kept (DESIGN CHOICE, log 48). -/
def bestOf (f : Fmt) : List W64 → W64
  | [] => 0
  | x :: t => t.foldl (fun m y => if beats f y m then y else m) x

/-- Max with index (R119): for .f16 bits 31:16 are written as zero (R118). -/
def maxIdx (f : Fmt) (d a : Nat) (s : State) : Out :=
  gated { acc := accV2, rd := vR [a], wr := vR [d] } s fun g p =>
    let w := bestOf f ((actLanes s g p).map fun l => rV g a l)
    land (vWrites d (actLanes s g p) fun _ => if f = F16 then w &&& 0xFFFFFFFF0000FFFF else w) 0

/-- VMAXIDX_F16 (R119). -/
def execVmaxidxF16 (d a : Nat) (s : State) : Out := maxIdx F16 d a s

/-- VMAXIDX_F32 (R119). -/
def execVmaxidxF32 (d a : Nat) (s : State) : Out := maxIdx F32 d a s

/-- Acceptance of vcompact and vexpand: b holds a mask (R111). -/
def accVVM : Acc := accV2

/-- The acting lanes kept by M(b) (R120). -/
def keptLanes (s : State) (g : Group) (p : Path) (b : Nat) : List Nat := lanesOf (rM s g p b &&& act s g p)

/-- VCOMPACT (R120). -/
def execVcompact (d a b : Nat) (s : State) : Out :=
  gated { acc := accVVM, rd := vR [a] ++ mR [b], wr := vR [d] } s fun g p =>
    land ((List.zip (actLanes s g p) (keptLanes s g p b)).map fun q => .v d q.1 (rV g a q.2)) 0

/-- VEXPAND (R120). -/
def execVexpand (d a b : Nat) (s : State) : Out :=
  gated { acc := accVVM, rd := vR [a] ++ mR [b], wr := vR [d] } s fun g p =>
    land ((List.zip (actLanes s g p) (keptLanes s g p b)).map fun q => .v d q.2 (rV g a q.1)) 0

/-- VLANEID (R120). -/
def execVlaneid (d : Nat) (s : State) : Out :=
  xMove { pred := true, rpt := some (true, false, false) } [] true d s fun _ _ l => BitVec.ofNat 64 l

/-- A vote into a scalar register (R120). -/
def vote (d a : Nat) (s : State) (f : List W64 → Bool) : Out :=
  gated { acc := accV2, rd := vR [a], wr := sR [d] } s fun g p =>
    land [.s d (if f ((actLanes s g p).map (rV g a)) then 1 else 0)] 0

/-- VVOTE_ALL (R120). -/
def execVvoteAll (d a : Nat) (s : State) : Out := vote d a s fun l => l.all (· ≠ 0)

/-- VVOTE_ANY (R120). -/
def execVvoteAny (d a : Nat) (s : State) : Out := vote d a s fun l => l.any (· ≠ 0)

/-- VBALLOT (R120). -/
def execVballot (d a : Nat) (s : State) : Out :=
  gated { acc := { pred := true, rpt := some (false, true, false) }, rd := vR [a], wr := mR [d] } s fun g p =>
    land [.m d (maskOf fun l => (act s g p).getLsbD l && rV g a l ≠ 0)] 0

/-- A quad exchange: helper lanes supply their registers (R41, R42, R121, R122). -/
def quadMove (acc : Acc) (regs : List RegN) (d : Nat) (s : State) (f : Group → Nat → W64) : Out :=
  gated { acc := acc, rd := regs, wr := vR [d] } s fun g p => land (vWrites d (actLanes s g p) (f g)) 0

/-- QSWP_H (R121). -/
def execQswpH (d a : Nat) (s : State) : Out := quadMove accV2 (vR [a]) d s fun g l => rV g a (l ^^^ 1)

/-- QSWP_V (R121). -/
def execQswpV (d a : Nat) (s : State) : Out := quadMove accV2 (vR [a]) d s fun g l => rV g a (l ^^^ 2)

/-- QSWP_D (R121). -/
def execQswpD (d a : Nat) (s : State) : Out := quadMove accV2 (vR [a]) d s fun g l => rV g a (l ^^^ 3)

/-- QBCAST (R122). -/
def execQbcast (d a b : Nat) (s : State) : Out :=
  quadMove accV3 (vR [a] ++ sR [b]) d s fun g l => rV g a (4 * (l / 4) + fld (rS g b).toNat 0 2)

/-- QBCAST_I (R122). -/
def execQbcastI (d a p : Nat) (s : State) : Out := quadMove accV2 (vR [a]) d s fun g l => rV g a (4 * (l / 4) + p)

/-- Acceptance and the SUB check of the XLANEI forms (R44, R111). -/
def accXI : Acc := { accV2 with ew := true }
def subOk (s : State) (i : Nat) : Bool := fld i 0 3 < 64 / ewOf s

/-- VGET (R116). -/
def execVget (d a i : Nat) (s : State) : Out :=
  xMove accXI (vR [a]) (subOk s i) d s fun _ r _ => BitVec.ofNat 64 (elem (ewOf s) (r a (fld i 3 5)) (fld i 0 3))

/-- VPUT (R116). -/
def execVput (d a i : Nat) (s : State) : Out :=
  gated { acc := accXI, rd := vR [a, d], wr := vR [d], fields := subOk s i } s fun g p =>
    match actLanes s g p with
    | [] => land [] 0
    | f :: _ =>
      if (act s g p).getLsbD (fld i 3 5) then
        land [.v d (fld i 3 5) (setElem (ewOf s) (rV g d (fld i 3 5)) (fld i 0 3) (elem (ewOf s) (rV g a f) 0))] 0
      else land [] 0

/-- VBCAST (R116). -/
def execVbcast (d a i : Nat) (s : State) : Out :=
  xMove accXI (vR [a]) (subOk s i) d s fun _ r _ => mapE (ewOf s) fun _ => elem (ewOf s) (r a (fld i 3 5)) (fld i 0 3)

/-- VBFLY (R116). -/
def execVbfly (d a i : Nat) (s : State) : Out :=
  xMove accXI (vR [a]) (subOk s i) d s fun _ r l =>
    mapE (ewOf s) fun e => elem (ewOf s) (r a (l ^^^ fld i 3 5)) (e ^^^ fld i 0 3)

/-- VROT (R116). -/
def execVrot (d a i : Nat) (s : State) : Out :=
  xMove accXI (vR [a]) (subOk s i) d s fun _ r l =>
    mapE (ewOf s) fun e =>
      let n := 64 / ewOf s
      let h := (n * l + e + 32 * n - (n * fld i 3 5 + fld i 0 3)) % (32 * n)
      elem (ewOf s) (r a (h / n)) (h % n)

/-- PX formats: magnitude bits k (Table NUM.5). -/
def pxBits (f : Nat) : Nat := [2, 4, 7].getD f 7

/-- The element format of an MX code and its emax (R23, Table NUM.4). -/
def mxFmt (f : Nat) : Fmt := [F8E4, F8E5, F6E2, F6E3, F4].getD f F4
def mxEmax (f : Nat) : Int := [8, 15, 2, 4, 2, 0].getD f 0

/-- The larger of two magnitudes (finite values). -/
def magLe (x y : FV) : Bool :=
  match x, y with
  | .fin _ m a, .fin _ n b => let k := min a b; m * 2 ^ (a - k).toNat ≤ n * 2 ^ (b - k).toNat
  | _, _ => true

/-- floor(log2) of a finite magnitude, not zero. -/
def flog2 : FV → Int
  | .fin _ m x => Nat.log2 m + x
  | _ => 0
def FV.isZero : FV → Bool
  | .fin _ m _ => m = 0
  | _ => false
def FV.isFin : FV → Bool
  | .fin _ _ _ => true
  | _ => false
def FV.sign : FV → Bool
  | .fin n _ _ => n
  | .inf n => n
  | .nan _ => false

/-- The largest magnitude of a list, the earliest on a tie: its index and value. -/
def largest (l : List FV) : Nat × FV :=
  (l.zipIdx).foldl (fun m q => if magLe q.1 m.2 then m else (q.2, q.1)) (0, l.headD (.fin false 0 0))

/-- An exact value scaled by 2^k. -/
def FV.scale (k : Int) : FV → FV
  | .fin n m x => .fin n m (x + k)
  | v => v

/-- A block of sixteen values as PX: its bytes and flags; each magnitude is rounded under the mode (R22, R23). -/
def packPx (k mode : Nat) (vs : List FV) (draws : List Nat) : List Byte × Nat :=
  let bytes (x b : Nat) (codes : List Nat) := bytesLE (2 + 2 * (k + 1)) (x + 256 * b + 2 ^ 16 * packN (k + 1) codes)
  if vs.any fun v => !v.isFin then (bytes 255 0 (List.replicate 16 0), fNV)
  else
    let a := largest vs
    let a' := (largest (vs.set a.1 (.fin false 0 0))).2
    let bsh : Nat := if a.2.isZero || a'.isZero then 0 else (max 0 (min 15 (flog2 a.2 - flog2 a'))).toNat
    let x : Int := if a.2.isZero then 0 else max 0 (min 254 (flog2 (if a'.isZero then a.2 else a') + 127))
    let el (i : Nat) (v : FV) : Nat × Nat :=
      let b : Int := if bsh ≠ 0 ∧ i = a.1 then bsh else 0
      match v.scale (-(x - 127 - (k - 1) + b)) with
      | .fin n m y =>
        let r := roundInt mode (draws.getD i 0) false m y
        let c := if 2 ^ k ≤ r.1 then (2 ^ k - 1, fOF + fNX) else (r.1, if r.2 then fNX else 0)
        (c.1 + (if n then 2 ^ k else 0), c.2)
      | _ => (0, 0)
    let es := vs.zipIdx.map fun q => if a.2.isZero then (if q.1.sign then 2 ^ k else 0, 0) else el q.2 q.1
    (bytes x.toNat (if bsh = 0 then 0 else 16 * a.1 + bsh) (es.map Prod.fst), orAll (es.map Prod.snd))

/-- A block of thirty-two values as MX: its element area, its scale and flags (R20, R23, R124). An element of −0 in a block
of zeros follows R31 for f4, not the sign code that R23 asks of such a block, and is 0 for INT8, which has no −0 (DESIGN CHOICE,
log 49). -/
def packMx (f mode : Nat) (sat : Bool) (fx : Nat) (vs : List FV) (draws : List Nat) : List Byte × Nat :=
  let cb := if f = 5 then 8 else (mxFmt f).bits
  let bytes (sc : Nat) (codes : List Nat) :=
    let area := bytesLE (4 * cb) (packN cb codes)
    area ++ List.replicate (32 - area.length) 0 ++ [BitVec.ofNat 8 sc]
  if vs.any fun v => !v.isFin then (bytes 255 (List.replicate 32 0), fNV)
  else
    let a := (largest vs).2
    if a.isZero then
      (bytes 0 (vs.map fun v => if f = 5 then 0 else if f = 4 then (intoNarrow F4 0 0 false fx v).1 else if v.sign then (mxFmt f).top else 0), 0)
    else
      let sc : Int := max 0 (min 254 (flog2 a - mxEmax f + 127))
      let es := vs.zipIdx.map fun q =>
        let v := q.1.scale (127 - sc)
        if f = 5 then
          match v.scale 6 with
          | .fin n m y =>
            let r := roundInt mode (draws.getD q.2 0) n m y
            if 127 < r.1 then (ofI 8 (sgn n 127), fOF + fNX) else (ofI 8 (sgn n r.1), if r.2 then fNX else 0)
          | _ => (0, 0)
        else intoNarrow (mxFmt f) mode (draws.getD q.2 0) sat fx v
      (bytes sc.toNat (es.map Prod.fst), orAll (es.map Prod.snd))

/-- The values of a PX block's bytes; none for a NaN block (R22). -/
def pxVals (k : Nat) (b : List Byte) : Option (List FV) :=
  let n := ofBytesLE (b.take (2 + 2 * (k + 1)))
  let x := fld n 0 8
  if x = 255 then none
  else some ((List.range 16).map fun i =>
    let c := fld n (16 + (k + 1) * i) (k + 1)
    let bo := if fld n 12 4 = i then fld n 8 4 else 0
    .fin (2 ^ k ≤ c) (c % 2 ^ k) ((x : Int) - 127 - (k - 1) + bo))

/-- The value of an MX element code without its scale (R18, R20). -/
def mxVal (f fx code : Nat) : FV :=
  if f = 5 then .fin (toI 8 code < 0) (toI 8 code).natAbs (-6)
  else if f = 4 then f4Val fx code else (mxFmt f).val code

/-- The values of an MX block's bytes, the scale in byte 32; none for a NaN block (R20, R123). -/
def mxVals (f fx : Nat) (b : List Byte) : Option (List FV) :=
  let sc := (b.getD 32 0).toNat
  let cb := if f = 5 then 8 else (mxFmt f).bits
  let n := ofBytesLE (b.take 32)
  if sc = 255 then none
  else some ((List.range 32).map fun i => (mxVal f fx (fld n (cb * i) cb)).scale (sc - 127))

/-- Blocks of `n` lanes, each wholly acting or wholly idle; none where one is partial (R123). -/
def blocks (s : State) (g : Group) (p : Path) (n : Nat) : Option (List Nat) :=
  let fl (j : Nat) := ((List.range n).filter fun i => (act s g p).getLsbD (n * j + i)).length
  if (List.range (32 / n)).any fun j => fl j ≠ 0 ∧ fl j ≠ n then none
  else some ((List.range (32 / n)).filter fun j => fl j = n)

/-- The rounding mode of the issuing group is one (R24). -/
def modeOk (s : State) : Bool := match s.group? s.iss.gid with | some g => rmode s g < 6 | none => true

/-- A block form over blocks of `n` lanes: `f` makes of the block's 8n bytes and its draws the new bytes and the
flags (R123, R124). -/
def blockOp (acc : Acc) (n d a : Nat) (s : State) (f : Group → List Nat → List Byte → List Byte × Nat) : Out :=
  gated { acc := acc, rd := vR [a], wr := vR [d], fields := modeOk s } s fun g p s0 =>
    match blocks s g p n with
    | none => trapAt .maskreq 0 s0
    | some js =>
      withDraws (rmode s g) (2 * n * js.length) g s0 fun draws =>
        let r := js.zipIdx.map fun q =>
          (q.1, f g (draws.drop (2 * n * q.2)) ((List.range n).flatMap fun i => bytesLE 8 (rV g a (n * q.1 + i)).toNat))
        land (r.flatMap fun q => (List.range n).map fun i =>
            .v d (n * q.1 + i) (BitVec.ofNat 64 (ofBytesLE ((q.2.1.drop (8 * i)).take 8))))
          (orAll (r.map (·.2.2)))

/-- The f32 sub-elements of a block's bytes, DAZ applied. -/
def f32s (g : Group) (b : List Byte) : List FV :=
  (List.range (b.length / 4)).map fun i => F32.val (F32.daz g.daz (ofBytesLE ((b.drop (4 * i)).take 4)))

/-- Values as f32 bytes, rounded under the mode; a NaN block gives the canonical NaN and no flag (R124). -/
def f32Bytes (mode n : Nat) (draws : List Nat) : Option (List FV) → List Byte × Nat
  | none => ((List.replicate n F32.qnan).flatMap (bytesLE 4), 0)
  | some vs =>
    let r := vs.zipIdx.map fun q => q.1.into F32 mode (draws.getD q.2 0) false false
    ((r.map Prod.fst).flatMap (bytesLE 4), orAll (r.map Prod.snd))

/-- Acceptance of the block forms; rounding only where R111 gives it. -/
def accBlk (rnd : Bool) : Acc := { accV2 with rnd := rnd }

/-- VPKPX (R123, R124). -/
def execVpkpx (d a f : Nat) (s : State) : Out :=
  blockOp (accBlk true) 8 d a s fun g draws b => packPx (pxBits f) (rmode s g) (f32s g b) draws

/-- VUNPX (R123, R124). -/
def execVunpx (d a f : Nat) (s : State) : Out :=
  blockOp (accBlk false) 8 d a s fun g draws b => f32Bytes (rmode s g) 16 draws (pxVals (pxBits f) b)

/-- VPKMX (R123, R124). -/
def execVpkmx (d a f : Nat) (s : State) : Out :=
  blockOp (accBlk true) 16 d a s fun g draws b =>
    packMx f (rmode s g) g.satf8 (s.fx g.ctx g.fxsel) (f32s g b) draws

/-- VUNMX (R123, R124). -/
def execVunmx (d a f : Nat) (s : State) : Out :=
  blockOp (accBlk true) 16 d a s fun g draws b => f32Bytes (rmode s g) 32 draws (mxVals f (s.fx g.ctx g.fxsel) b)

end Sys2Proof.Machine
end

