-- ==== Sys2Proof/Machine/Memory.lean ====
section
/-! DEFINITION. Memory instructions: translation, issue, what each home access does, replies, fences, prefetch
(R125 to R137, R264 to R285, R293 to R296). -/

namespace Sys2Proof.Machine

/-- The page of a virtual address, of 57 bits. -/
def pageOf (va : Nat) : Nat := va % 2 ^ 57 / 4096 * 4096

/-- The access of a lane has ended: it is performed, or its packet was dropped (R328). -/
def Op.ended (o : Op) (l : LaneAcc) : Bool := l.done || (o.lost ≠ 0 && lineOf l.pa = o.lostAt)

/-- A translation now: the physical key, a permission failure, or a miss (R132, R312). -/
inductive Tr where
  | key (pa : Nat)
  | perm
  | miss
  deriving DecidableEq, Repr

/-- The translation that a core's TLB or its die's holds (R312). -/
def tlbOf (s : State) (core c va : Nat) : Option Tlb :=
  (tlbFind (s.core core).tlb c va).or (tlbFind (s.die (dieOf core)).tlb c va)

/-- The access lacks a right that it needs by a translation held (R311). -/
def lacks (t : Tlb) (n : Need) : Bool :=
  (n.r && !t.r) || (n.w && !t.w) || (n.x && !t.x) || (n.hostBad && t.pa / 2 ^ 57 = 2)

/-- The page may not be accessed so whatever its entry says: a registered weight region is read by engines only (`eng`),
and a code page is not written (R189). -/
def barred (s : State) (c va pa : Nat) (n : Need) (eng : Bool) : Bool :=
  (match s.ctx? c with | some x => (inRegion x va && !eng) || (n.w && inCode x va) | none => false) || (n.w && codeFrame s pa)

/-- One address translated for an access; `eng`: by an engine that reads (R189, R311, R312). A write through an entry
that has not seen D set, or that has MIG, is a miss: its walk sets D or faults. -/
def trOne (s : State) (core c va : Nat) (n : Need) (eng : Bool) : Tr :=
  let v := va % 2 ^ 57
  match tlbOf s core c v with
  | some t =>
    if lacks t n || barred s c v (t.key v) n eng then .perm
    else if n.w && (t.mig || !t.d) then .miss
    else .key (t.key v)
  | none => .miss

/-- A path waits on the walk of a page, which the misses of all accesses to that page share (R312). -/
def wantWalk (s : State) (core c page : Nat) (n : Need) (gid slot : Nat) : State :=
  let d := dieOf core
  match List.find? (fun (p : Nat × Walk) => p.2.ctx = c && p.2.va = page) (s.die d).walks with
  | some (i, w) => s.modDie d fun x => { x with walks := SMap.put x.walks i { w with paths := w.paths ++ [(gid, slot, n)] } }
  | none =>
    let w : Walk := { ctx := c, va := page, paths := [(gid, slot, n)] }
    { s.modDie d fun x => { x with walks := SMap.put x.walks s.nextId w } with nextId := s.nextId + 1 }

/-- An access of the path to the address is to end with PERM (R132, R315). -/
def Path.failsAt (p : Path) (va : Nat) : Bool := p.permFail.any fun f => inPage f.1 f.2.1 va

/-- The accesses of the issuing path translated, each with what it needs: parked while one misses, PERM where one fails, else
`k` on their physical keys (R132, R315). -/
def translateEach (g : Group) (p : Path) (vas : List (Nat × Need)) (k : List Nat → State → State) (s : State) : State :=
  let core := g.place.core
  let rs := vas.map fun v => (v, trOne s core g.ctx v.1 v.2 false)
  let failed (va : Nat) (t : Tr) : Bool := (p.aborted || t = .miss) && p.failsAt va
  let fails := rs.filter fun r => r.2 = .perm || failed r.1.1 r.2
  let miss := ((rs.filter fun r => r.2 = .miss && !failed r.1.1 r.2).map fun r => (pageOf r.1.1, r.1.2)).eraseDups
  match fails, miss with
  | f :: _, [] => trapAt .perm f.1.1 s
  | [], [] => k (rs.map fun r => match r.2 with | .key a => a | _ => 0) s
  | f :: _, _ => if p.aborted then trapAt .perm f.1.1 s else park miss s
  | [], _ => park miss s
where
  /-- The path parks on the missing pages. -/
  park (miss : List (Nat × Need)) (s : State) : State :=
    miss.foldl (fun s m => wantWalk s g.place.core g.ctx m.1 m.2 s.iss.gid s.iss.slot)
      (s.modPath fun p => { p with cond := .parked miss.length })

/-- The same where every access needs the same. -/
def translate (g : Group) (p : Path) (vas : List Nat) (n : Need) (k : List Nat → State → State) (s : State) : State :=
  translateEach g p (vas.map fun va => (va, n)) k s

/-- The bundle a group holds open (R296). -/
def openBundle (s : State) (g : Group) : Option (Handle × Dir) :=
  match g.bundle with
  | none => none
  | some h =>
    match (s.die h.die).dirs.find? h.idx with
    | some d => if d.gen = h.gen ∧ d.st = .open_ then some (h, d) else none
    | none => none

/-- A virtual address lies in a bundle's ranges (R291). -/
def inRanges (d : Dir) (va : Nat) : Bool :=
  d.ranges.any fun r => r.1 ≤ va % 2 ^ 57 && va % 2 ^ 57 < r.1 + 128 * r.2

/-- The state of the entry a handle names; drained where it is stale (R291, R292). -/
def handleSt (s : State) (h : Handle) : BSt :=
  match (s.die h.die).dirs.find? h.idx with
  | some d => if d.gen = h.gen then d.st else .drained
  | none => .drained

/-- The bundles that claim a line: one's preparing version stands there, or a bundle store to it is on its way (R294,
R296). -/
def claimsOf (s : State) (line : Nat) : List Handle :=
  ((s.line line).prep.toList.map Prod.snd) ++ s.ops.filterMap fun o =>
    match o.2.kind with
    | .mem m => if m.lanes.any fun l => l.bun && !o.2.ended l && lineOf l.pa = line then m.bundle else none
    | _ => none

/-- Another bundle, open or preparing, claims the line (R296). -/
def conflict (s : State) (h : Handle) (line : Nat) : Bool :=
  (claimsOf s line).any fun k => k ≠ h && (handleSt s k = .open_ || handleSt s k = .preparing)

/-- ISSUE OF A MEMORY INSTRUCTION: the checks of all lanes (R127), translation (R132), the bundle checks (R296),
then the operation is in flight. `lanes` are (lane, address, operand, comparand). -/
def memIssue (k : MemK) (n ord scp : Nat) (dst : Dst) (lanes : List (Nat × Nat × Nat × Nat)) (hostBad : Bool)
    (g : Group) (p : Path) (s : State) : State :=
  let need : Need := match k with
    | .load => Need.read
    | .store => Need.write
    | .atom _ => { Need.rw with hostBad := hostBad }
  match lanes.findSome? fun l =>
      if badVa l.2.1 then some (Cause.perm, l.2.1) else if l.2.1 % n ≠ 0 then some (Cause.align, l.2.1) else none with
  | some (c, x) => trapAt c x s
  | none =>
    translate g p (lanes.map fun l => l.2.1) need (fun pas s =>
      let ob := openBundle s g
      let inB (va : Nat) : Bool := match ob with | some (_, d) => inRanges d va | none => false
      let las : List LaneAcc := (List.zip lanes pas).map fun q =>
        { lane := q.1.1, va := q.1.2.1 % 2 ^ 57, pa := q.2, x := q.1.2.2.1, c := q.1.2.2.2,
          bun := k = .store && inB q.1.2.1, done := false, res := 0 }
      let reason : Nat :=
        match k with
        | .atom _ => if las.any fun l => inB l.va then 5 else 0
        | .store => match ob with
          | some (h, _) => if las.any fun l => l.bun && conflict s h (lineOf l.pa) then 4 else 0
          | none => 0
        | .load => 0
      if reason ≠ 0 then trapAt .bundle reason (s.modG fun g => { g with bReason := reason })
      else if las.isEmpty then advance s
      else
        advance (s.addOp
          { gid := s.iss.gid, slot := s.iss.slot, ctx := g.ctx, core := g.place.core, perf := false, lost := 0,
            born := s.clocks.nets,
            kind := .mem { k := k, n := n, ord := ord, scp := scp, dst := dst, lanes := las, bundle := ob.map Prod.fst, cls := 3 } }))
      s

/-- Orders accepted by loads, stores and atomics (Table MEM.2). -/
def ordsL : List Nat := [0, 1, 4]
def ordsS : List Nat := [0, 2, 4]
def ordsA : List Nat := [0, 1, 2, 3, 4]

/-- A based vector load or store of n bytes (R128). -/
def based (store : Bool) (n d a i : Nat) (s : State) : Out :=
  let acc : Acc := { pred := true, ords := if store then ordsS else ordsL, rpt := some (true, true, false), imms := 2 }
  gated { acc := acc, rd := sR [a] ++ (if store then vR [d] else []), wr := if store then [] else vR [d] } s fun g p =>
    let o := ordOf s 0 0
    memIssue (if store then .store else .load) n o.1 o.2 (if store then .none else .vec d)
      ((actLanes s g p).map fun l =>
        (l, (rS g a + immS s i + BitVec.ofNat 64 (n * l)).toNat, (rV g d l).toNat % 2 ^ (8 * n), 0)) false g p

/-- An indexed load or store of n bytes (R133). -/
def indexed (store : Bool) (n d a b : Nat) (s : State) : Out :=
  let acc : Acc := { pred := true, ords := if store then ordsS else ordsL }
  gated { acc := acc, rd := sR [a] ++ vR (if store then [b, d] else [b]), wr := if store then [] else vR [d] } s fun g p =>
    let o := ordOf s 0 0
    memIssue (if store then .store else .load) n o.1 o.2 (if store then .none else .vec d)
      ((actLanes s g p).map fun l => (l, (rS g a + rV g b l).toNat, (rV g d l).toNat % 2 ^ (8 * n), 0)) false g p

/-- A scalar load or store (R128). -/
def scalarMem (store : Bool) (d a i : Nat) (s : State) : Out :=
  let acc : Acc := { ords := if store then ordsS else ordsL, imms := 2 }
  gated { acc := acc, rd := sR (if store then [a, d] else [a]), wr := if store then [] else sR [d] } s fun g p =>
    let o := ordOf s 0 0
    memIssue (if store then .store else .load) 8 o.1 o.2 (if store then .none else .sca d)
      [(0, (rS g a + immS s i).toNat, (rS g d).toNat, 0)] false g p

/-- An atomic (R135, R136). `hostOk`: the host performs it. -/
def atomic (fn n d a b : Nat) (hostOk : Bool) (s : State) : Out :=
  let acc : Acc := { pred := true, ords := ordsA }
  let regs := if fn = 12 then [b, d, d + 1] else [b, d]
  gated { acc := acc, rd := sR [a] ++ vR regs, wr := vR [d] } s fun g p =>
    let o := ordOf s 0 3
    memIssue (.atom fn) n o.1 o.2 (.vec d)
      ((actLanes s g p).map fun l =>
        let v := (rV g d l).toNat
        (l, (rS g a + rV g b l).toNat,
          if fn = 11 then v / 2 ^ 32 else if fn = 12 then (rV g (d + 1) l).toNat else v % 2 ^ (8 * n),
          if fn = 11 then v % 2 ^ 32 else if fn = 12 then v else 0)) (!hostOk) g p

/-- VLD32 (R128). -/
def execVld32 (d a i : Nat) (s : State) : Out := based false 4 d a i s

/-- VST32 (R128). -/
def execVst32 (d a i : Nat) (s : State) : Out := based true 4 d a i s

/-- VLD64 (R128). -/
def execVld64 (d a i : Nat) (s : State) : Out := based false 8 d a i s

/-- VST64 (R128). -/
def execVst64 (d a i : Nat) (s : State) : Out := based true 8 d a i s

/-- VLD16 (R128). -/
def execVld16 (d a i : Nat) (s : State) : Out := based false 2 d a i s

/-- VST16 (R128). -/
def execVst16 (d a i : Nat) (s : State) : Out := based true 2 d a i s

/-- VLD8 (R128). -/
def execVld8 (d a i : Nat) (s : State) : Out := based false 1 d a i s

/-- VST8 (R128). -/
def execVst8 (d a i : Nat) (s : State) : Out := based true 1 d a i s

/-- SLD (R128). -/
def execSld (d a i : Nat) (s : State) : Out := scalarMem false d a i s

/-- SST (R128). -/
def execSst (d a i : Nat) (s : State) : Out := scalarMem true d a i s

/-- VLDX32 (R133). -/
def execVldx32 (d a b : Nat) (s : State) : Out := indexed false 4 d a b s

/-- VSTX32 (R133). -/
def execVstx32 (d a b : Nat) (s : State) : Out := indexed true 4 d a b s

/-- VLDX64 (R133). -/
def execVldx64 (d a b : Nat) (s : State) : Out := indexed false 8 d a b s

/-- VSTX64 (R133). -/
def execVstx64 (d a b : Nat) (s : State) : Out := indexed true 8 d a b s

/-- VLDX16 (R133). -/
def execVldx16 (d a b : Nat) (s : State) : Out := indexed false 2 d a b s

/-- VSTX16 (R133). -/
def execVstx16 (d a b : Nat) (s : State) : Out := indexed true 2 d a b s

/-- VLDX8 (R133). -/
def execVldx8 (d a b : Nat) (s : State) : Out := indexed false 1 d a b s

/-- VSTX8 (R133). -/
def execVstx8 (d a b : Nat) (s : State) : Out := indexed true 1 d a b s

/-- ATOM_ADDE32 (R135, Table MEM.3). -/
def execAtomAddE32 (d a b : Nat) (s : State) : Out := atomic 0 4 d a b true s

/-- ATOM_ADDE64 (R135, Table MEM.3). -/
def execAtomAddE64 (d a b : Nat) (s : State) : Out := atomic 1 8 d a b true s

/-- ATOM_MINI32 (R135, Table MEM.3). -/
def execAtomMinI32 (d a b : Nat) (s : State) : Out := atomic 2 4 d a b false s

/-- ATOM_MINN32 (R135, Table MEM.3). -/
def execAtomMinN32 (d a b : Nat) (s : State) : Out := atomic 3 4 d a b false s

/-- ATOM_MAXI32 (R135, Table MEM.3). -/
def execAtomMaxI32 (d a b : Nat) (s : State) : Out := atomic 4 4 d a b false s

/-- ATOM_MAXN32 (R135, Table MEM.3). -/
def execAtomMaxN32 (d a b : Nat) (s : State) : Out := atomic 5 4 d a b false s

/-- ATOM_ANDB64 (R135, Table MEM.3). -/
def execAtomAndB64 (d a b : Nat) (s : State) : Out := atomic 6 8 d a b false s

/-- ATOM_ORB64 (R135, Table MEM.3). -/
def execAtomOrB64 (d a b : Nat) (s : State) : Out := atomic 7 8 d a b false s

/-- ATOM_XORB64 (R135, Table MEM.3). -/
def execAtomXorB64 (d a b : Nat) (s : State) : Out := atomic 8 8 d a b false s

/-- ATOM_XCHGE32 (R135, Table MEM.3). -/
def execAtomXchgE32 (d a b : Nat) (s : State) : Out := atomic 9 4 d a b true s

/-- ATOM_XCHGE64 (R135, Table MEM.3). -/
def execAtomXchgE64 (d a b : Nat) (s : State) : Out := atomic 10 8 d a b true s

/-- ATOM_CASE32 (R135, Table MEM.3). -/
def execAtomCasE32 (d a b : Nat) (s : State) : Out := atomic 11 4 d a b true s

/-- ATOM_CASE64 (R135, Table MEM.3). -/
def execAtomCasE64 (d a b : Nat) (s : State) : Out := atomic 12 8 d a b true s

/-- ATOM_FADDF32 (R135, Table MEM.3). -/
def execAtomFaddF32 (d a b : Nat) (s : State) : Out := atomic 13 4 d a b false s

/-- ATOM_FADDBF16X2 (R135, Table MEM.3). -/
def execAtomFaddBf16x2 (d a b : Nat) (s : State) : Out := atomic 14 4 d a b false s

/-- ATOM_MAXIDXF16 (R135, Table MEM.3). -/
def execAtomMaxidxF16 (d a b : Nat) (s : State) : Out := atomic 15 8 d a b false s

/-- Op of Table MEM.3. -/
def atomOp (fn n old x c : Nat) : Nat :=
  let w := 8 * n
  match fn with
  | 0 => (old + x) % 2 ^ w
  | 1 => (old + x) % 2 ^ w
  | 2 => if toI w x < toI w old then x else old
  | 3 => min old x
  | 4 => if toI w old < toI w x then x else old
  | 5 => max old x
  | 6 => old &&& x
  | 7 => old ||| x
  | 8 => old ^^^ x
  | 9 => x
  | 10 => x
  | 11 => if old = c then x else old
  | 12 => if old = c then x else old
  | 13 => addRn F32 old x
  | 14 => addRn BF16 (fld old 0 16) (fld x 0 16) + 2 ^ 16 * addRn BF16 (fld old 16 16) (fld x 16 16)
  | _ => if beats F16 (BitVec.ofNat 64 x) (BitVec.ofNat 64 old) then x - 2 ^ 16 * fld x 16 16 else old

/-- An operation reads, or writes, memory. -/
def OpKind.reads : OpKind → Bool
  | .mem m => m.k ≠ .store
  | _ => false
def OpKind.writes : OpKind → Bool
  | .mem m => m.k ≠ .load
  | .submit _ _ _ _ _ _ => true
  | .amsg _ => true
  | _ => false

/-- Some access of the operation is not performed yet; a lost one has ended (R328). -/
def Op.undone (o : Op) : Bool :=
  match o.kind with
  | .mem m => m.lanes.any fun l => !o.ended l
  | _ => o.lost = 0 && match o.kind with
  | .submit _ _ _ _ _ _ => !o.perf
  | .amsg _ => !o.perf
  | _ => false

/-- Some access of the operation is not performed yet, those of an engine among them (R281). -/
def Op.owed (o : Op) : Bool :=
  match o.kind with
  | .eng e => o.lost = 0 && !e.todo.isEmpty
  | _ => o.undone

/-- The operations that stand before `x` in its path (R264, R270, R276). -/
def before (s : State) (xid : Nat) (x : Op) : List (Nat × Op) :=
  s.ops.filter fun (o : Nat × Op) => o.1 < xid && o.2.of x.gid x.slot

/-- The operation was issued by the path of a fence, or by the group of one that fences all its paths. -/
def fenced (f z : Op) : Bool := if f.slot = allSlots then z.ofGroup f.gid else z.of f.gid f.slot

/-- What a fence orders before later accesses still waits for (R272, R281). -/
def fenceHolds (s : State) (fid : Nat) (f : Op) (ord : Nat) (write : Bool) : Bool :=
  s.ops.any fun z => z.1 < fid && fenced f z.2 && z.2.owed &&
    (match ord with
      | 1 => z.2.kind.reads
      | 2 => write
      | 3 => z.2.kind.reads || write
      | _ => true)

/-- Footprints share a byte. -/
def overlap (a n b m : Nat) : Bool := a < b + m && b < a + n

/-- Every access that stands before `x` is performed, as the fork edge of an engine operation asks (R146, R286). -/
def forked (s : State) (xid : Nat) (x : Op) : Bool := (before s xid x).all fun y => !y.2.undone

/-- ORDERING WITHIN A PATH: an access may be performed now (R266 to R268, R272, R276, R281). `foot` are its
footprints, `rel` that it is a release, `inj` that it is sent to a home: a line is then kept to one access at a
time until the reply or the acknowledgement (R330). A release waits for the path's engine operations too: R281 says so, though R286 leaves the
path's other accesses unordered with them (log 47). -/
def mayPerform (s : State) (xid : Nat) (x : Op) (write rel inj : Bool) (foot : List (Nat × Nat)) : Bool :=
  (before s xid x).all fun y =>
    match y.2.kind with
    | .mem m =>
      let und := m.lanes.filter fun l => !y.2.ended l
      (und.isEmpty || (!rel && !([1, 3, 4].contains m.ord))) &&
        (und.all fun l => foot.all fun f => !overlap l.pa m.n f.1 f.2) &&
        (!inj || m.lanes.all fun l => (y.2.lost ≠ 0 && lineOf l.pa = y.2.lostAt) || foot.all fun f => lineOf l.pa ≠ lineOf f.1)
    | .fence o _ => !fenceHolds s y.1 y.2 o write
    | .submit _ _ ka kr _ _ => y.2.lost ≠ 0 || (!rel || !y.2.owed) &&
      (y.2.perf || foot.all fun f => !overlap ka 16 f.1 f.2 && !overlap kr 16 f.1 f.2) &&
      (!inj || foot.all fun f => lineOf ka ≠ lineOf f.1 && lineOf kr ≠ lineOf f.1)
    | _ => !rel || !y.2.owed

/-- An access that the issuing path makes at its issue, of bytes `foot` where it is made at a home, must wait for earlier
accesses of the path (R266 to R268, R281). -/
def orderHolds (s : State) (gid slot : Nat) (g : Group) (write rel : Bool) (foot : List (Nat × Nat)) : Bool :=
  !mayPerform s s.nextId { gid := gid, slot := slot, ctx := g.ctx, core := g.place.core, perf := false, lost := 0,
                           born := 0, kind := .fence 1 0 } write rel (!foot.isEmpty) foot

/-- An access or release that the issuing path performs at its issue: it waits while earlier accesses must come first
(R275, R281). -/
def inOrder (g : Group) (write rel : Bool) (foot : List (Nat × Nat)) (k : State → State) (s : State) : State :=
  if orderHolds s s.iss.gid s.iss.slot g write rel foot then waitOn (.order write rel foot) s else k s

/-- The line as 128 listed cells. -/
def lineCells (s : State) (line : Nat) : SMap Byte :=
  (List.range 128).foldl (fun m i => m.set 0 (line + i) (s.byte (line + i))) []

/-- The core that holds a group's resident L1 copies. -/
def coreOf (s : State) (gid : Nat) : Nat := ((s.group? gid).map fun g => g.place.core).getD 0

/-- INSTALL of a committed preparing version at its home: one step (R294 step 3). The owner's core drops its copy
of the line, so that its loads keep R267. -/
def installLine (s : State) (line : Nat) : State :=
  match (s.line line).prep with
  | none => s
  | some (cells, h) =>
    match (s.die h.die).dirs.find? h.idx with
    | none => s
    | some d =>
      if d.gen = h.gen ∧ d.st = .committed then
        let v := s.line line
        let s1 := s.setLine line { stamp := d.stamp, ref := some h, prev := some (lineCells s line, v.stamp, v.ref), vlost := none, prep := none }
        let s2 := s1.wr line ((List.range 128).map fun i => cells.get 0 (line + i))
        let s3 := s2.modDie h.die fun x => { x with dirs := x.dirs.adjust h.idx fun d => { d with wait := d.wait.filter (· ≠ line) } }
        s3.modCore (coreOf s d.gid) fun k => { k with l1 := k.l1.filter fun x => x.line ≠ line }
      else s

/-- The preparing version on a line is a bundle's of the group (R296). -/
def ownPrep (s : State) (gid line : Nat) : Bool :=
  match (s.line line).prep with
  | some (_, h) =>
    match (s.die h.die).dirs.find? h.idx with
    | some d => d.gen = h.gen && d.gid = gid
    | none => false
  | none => false

/-- L1 lines of a core (Table DEV.2). -/
def l1Max : Nat := 2048

/-- A home read refreshes the core's copy of the line; a relaxed one fills it (R274, R278). -/
def l1Fill (s : State) (core c line : Nat) (fill : Bool) : State :=
  s.modCore core fun k =>
    let e : L1Line := { ctx := c, line := line, cells := lineCells s line }
    if k.l1.any fun x => x.ctx = c && x.line = line then
      { k with l1 := k.l1.map fun x => if x.ctx = c && x.line = line then e else x }
    else if fill then { k with l1 := (e :: k.l1).take l1Max } else k

/-- The copy of a line that a core's L1 holds for a context. -/
def l1Find (s : State) (core c line : Nat) : Option L1Line :=
  (s.core core).l1.find? fun x => x.ctx = c && x.line = line

/-- One lane of a load performed: the value. `l1`: it may be served from L1 (R130, R274). -/
def loadLane (s : State) (gid core c n pa : Nat) (relaxed l1 : Bool) : State × Nat :=
  let line := lineOf pa
  if ownPrep s gid line then
    let s1 := readSeen c pa n (installLine s line)
    match (s1.line line).prep with
    | some (cells, _) => (s1, ofBytesLE ((List.range n).map fun i => cells.get 0 (pa + i)))
    | none => (s1, s1.rd pa n)
  else
    let home := (readSeen c pa n (l1Fill s core c line relaxed), s.rd pa n)
    match l1Find s core c line with
    | some e => if l1 then (s, ofBytesLE ((List.range n).map fun i => e.cells.get 0 (pa + i))) else home
    | none => home

/-- Versions that the version store of a line's slice holds (R293, R295). -/
def sliceUse (s : State) (line : Nat) : Nat :=
  ((s.lines.filter fun (l : Nat × LineV) => l.1 / 2 ^ 57 ≤ 1 && sliceOf l.1 = sliceOf line).map fun l =>
    (if l.2.prev.isSome then 1 else 0) + (if l.2.prep.isSome then 1 else 0)).sum

/-- The line-versions of a slice's version store (R293). -/
def versionMax : Nat := 8192

/-- Room for one more version at a line's slice: where every entry is used, the previous version with the lowest
stamp is discarded; none where all are preparing (R295). The slices of this device hold lines of near and far memory only
(R278); a peer's slices are the peer's. -/
def versionRoom (s : State) (line : Nat) : Option State :=
  if 1 < line / 2 ^ 57 || 2 * s.lines.length < versionMax then some s
  else if sliceUse s line < versionMax then some s
  else
    let ps := s.lines.filter fun (l : Nat × LineV) => l.1 / 2 ^ 57 ≤ 1 && sliceOf l.1 = sliceOf line && l.2.prev.isSome
    let st (v : LineV) : Nat := (v.prev.map fun q => q.2.1).getD 0
    match ps with
    | [] => none
    | x :: t =>
      let m := t.foldl (fun (m : Nat × LineV) l => if st l.2 < st m.2 then l else m) x
      some (s.setLine m.1 { m.2 with prev := none })

/-- The bundle still takes stores. -/
def takesStores (s : State) (h : Handle) : Bool := handleSt s h = .open_ || handleSt s h = .preparing

/-- The line's preparing version of the bundle, created from the current version on first use (R296); a committed version
is installed first (R294); none while the slice has no room (R295). -/
def prepLine (s : State) (h : Handle) (line : Nat) : Option State :=
  let s1 := installLine s line
  if !takesStores s1 h then some s1
  else match (s1.line line).prep with
    | some _ => some s1
    | none => (versionRoom s1 line).map fun s2 => s2.setLine line { s2.line line with prep := some (lineCells s2 line, h) }

/-- The preparing versions of the lines that these lanes store into. -/
def prepLanes (h : Handle) : List LaneAcc → State → Option State
  | [], s => some s
  | l :: t, s => if l.bun then (prepLine s h (lineOf l.pa)).bind (prepLanes h t) else prepLanes h t s

/-- One bundle store performed into the line's preparing version (R296). A bundle abandoned meanwhile takes
nothing. -/
def bundleStore (s : State) (h : Handle) (pa : Nat) (bs : List Byte) : State :=
  let v := s.line (lineOf pa)
  match v.prep with
  | some (c, k) => if k = h && takesStores s h then s.setLine (lineOf pa) { v with prep := some (putBytes c pa bs, h) } else s
  | none => s

/-- One lane performed at its home. -/
def performLane (m : MemOp) (gid core c : Nat) (l1 : Bool) (s : State) (l : LaneAcc) : State × Nat :=
  match m.k with
  | .load => loadLane s gid core c m.n l.pa (m.ord = 0) l1
  | .store =>
    (match m.bundle, l.bun with
      | some h, true => bundleStore s h l.pa (bytesLE m.n l.x)
      | _, _ => homeWrite s (some core) l.pa (bytesLE m.n l.x), 0)
  | .atom fn =>
    let old := s.rd l.pa m.n
    (homeWrite (readSeen c l.pa m.n s) (some core) l.pa (bytesLE m.n (atomOp fn m.n old l.x l.c)), old)

/-- Lanes performed in order; the lanes with their results. -/
def performLanes (m : MemOp) (gid core c : Nat) (l1 : Bool) : State → List LaneAcc → State × List (Nat × Nat)
  | s, [] => (s, [])
  | s, l :: t =>
    let r := performLane m gid core c l1 s l
    let q := performLanes m gid core c l1 r.1 t
    (q.1, (l.lane, r.2) :: q.2)

/-- The instruction is a vector load or store whose lanes lie within two sectors (R284). -/
def oneUnit (m : MemOp) : Bool :=
  (match m.k with | .atom _ => false | _ => true) &&
    ((m.lanes.map fun l => l.pa / 32).eraseDups).length ≤ 2

/-- A HOME ACCESS of a memory operation: lanes `ls` in that order, all in ascending order where none is named, and
the whole of a unit of two sectors at once (R131, R136, R284). It is refused while the order of the path forbids
it (mayPerform), and a bundle store while its slice has no room for a version (R295): then nothing happens. -/
def memPerform (o : Nat) (op : Op) (m : MemOp) (ls : List Nat) (l1 : Bool) (s : State) : State :=
  let und := m.lanes.filter fun l => !op.ended l
  let named := ls.filterMap fun i => und.find? fun l => l.lane = i
  let pick := if ls.isEmpty then und
    else if oneUnit m then named ++ und.filter fun l => !ls.contains l.lane else named
  let rel := [2, 3, 4].contains m.ord
  let acq := [1, 3, 4].contains m.ord && m.k ≠ .store && 1 ≤ m.scp
  let hit := l1 && m.ord = 0 && !((before s o op).any fun y => match y.2.kind with
        | .fence f sc => f ≠ 2 && (1 ≤ sc || y.2.slot = allSlots)
        | _ => false) &&
      !(oneUnit m && 1 < ((m.lanes.map fun l => lineOf l.pa).eraseDups).length)
  let inj := !(hit && pick.all fun l => (l1Find s op.core op.ctx (lineOf l.pa)).isSome)
  if pick.isEmpty || !mayPerform s o op (m.k ≠ .load) rel inj (pick.map fun l => (l.pa, m.n)) then s
  else match (match m.bundle with | some h => prepLanes h pick s | none => some s) with
  | none => s
  | some s' =>
    let s0 := if acq then l1Drop s' op.core op.ctx else s'
    let r := performLanes m op.gid op.core op.ctx hit s0 pick
    let lanes := m.lanes.map fun l =>
      match r.2.find? fun q => q.1 = l.lane with
      | some q => { l with done := true, res := q.2 }
      | none => l
    r.1.modOp o fun p => { p with kind := .mem { m with lanes := lanes } }

/-- The register writes of a reply (R132, R137). -/
def replyWrites (m : MemOp) : List RegW :=
  match m.dst with
  | .vec d => m.lanes.map fun l => .v d l.lane (BitVec.ofNat 64 l.res)
  | .sca d => m.lanes.map fun l => .s d (BitVec.ofNat 64 l.res)
  | .none => []

/-- The replay entry of a reply (R192, Table CTX.3). -/
def replayOf (o : Nat) (op : Op) (ws : List RegW) : Replay :=
  let vec := ws.filterMap fun w => match w with | .v _ l x => some (l, x) | _ => none
  let e : Replay := { kind := 1, gid := op.gid, slot := op.slot, reg := 0, lanes := 1, vals := List.replicate 32 0, op := o, waits := [] }
  match ws with
  | .v d _ _ :: _ =>
    { e with kind := 0, reg := d, lanes := maskOf fun l => vec.any fun q => q.1 = l
             vals := (List.range 32).map fun l => ((vec.find? fun q => q.1 = l).map Prod.snd).getD 0 }
  | .s d x :: _ => { e with reg := d, vals := x :: List.replicate 31 0 }
  | _ => e

/-- The register writes of a replay entry (R192). -/
def Replay.writes (r : Replay) : List RegW :=
  match r.kind with
  | 0 => (lanesOf r.lanes).map fun l => .v r.reg l (r.vals.getD l 0)
  | 1 => [.s r.reg (r.vals.getD 0 0)]
  | _ => []

/-- A reply lands: its registers are written and leave the scoreboard; while the context is quiescing or saved it is
kept; a reply for a retired group is discarded (R90, R132, R137, R192). -/
def landReply (s : State) (o : Nat) (op : Op) (ws : List RegW) : State :=
  let s1 := s.delOp o
  match (s.ctx? op.ctx).map Ctx.st with
  | some .resident => s1.modGroup op.gid fun g => g.puts ws
  | some _ => s1.modCtx op.ctx fun x => { x with replays := x.replays ++ [replayOf o op ws] }
  | none => s1

/-- The fence's order over earlier accesses is done: it acts on L1 and is gone (R130, R272). -/
def fencePerform (o : Nat) (op : Op) (ord scp : Nat) (s : State) : State :=
  if fenceHolds s o op ord true then s
  else
    let s1 := s.delOp o
    if ord ≠ 2 && 1 ≤ scp then l1Drop s1 op.core op.ctx else s1

/-- FENCE (R272): it acts at once where nothing earlier of its path is in flight. -/
def execFence (s : State) : Out :=
  gated { acc := { pred := true, ords := [1, 2, 3, 4] } } s fun g _ s1 =>
    let o := ordOf s 4 3
    let op : Op := { gid := s.iss.gid, slot := s.iss.slot, ctx := g.ctx, core := g.place.core, perf := false, lost := 0,
                     born := s.clocks.nets, kind := .fence o.1 o.2 }
    let s2 := if o.1 ≠ 2 && 1 ≤ o.2 then l1Drop s1 g.place.core g.ctx else s1
    advance (if s.ops.any fun z => z.2.of op.gid op.slot && z.2.owed then s2.addOp op else s2)

/-- VPREFETCH (R134): level 0 may bring lines into L1; it never traps, faults or parks. -/
def execVprefetch (l a b : Nat) (s : State) : Out :=
  gated { acc := { pred := true }, rd := sR [a] ++ vR [b] } s fun g p s1 =>
    let core := g.place.core
    let lanes := if l = 0 then actLanes s g p else []
    advance (lanes.foldl (fun s i =>
      let va := (rS g a + rV g b i).toNat
      if badVa va then s
      else match trOne s core g.ctx va Need.read false with
        | .key pa => if ownPrep s s.iss.gid (lineOf pa) || (l1Find s core g.ctx (lineOf pa)).isSome then s
          else l1Fill s core g.ctx (lineOf pa) true
        | _ => s) s1)

/-- LOAD_REPLY for a memory load (R132); for a store it is the acknowledgement of its home, which ends the operation (R330). -/
def loadReplyMem (o : Nat) (op : Op) (m : MemOp) (s : State) : State :=
  if !m.lanes.all (·.done) then s
  else match m.k with
    | .load => landReply s o op (replyWrites m)
    | .store => s.delOp o
    | .atom _ => if m.dst = .none then s.delOp o else s

/-- A LOST record to the host and to the context log (Table HST.5). -/
def lostRecord (s : State) (o c core kind : Nat) : State :=
  let body := [(2, Config.tag o % 2 ^ 16), (1, dieOf core), (1, core % Config.coresPerDie), (1, kind)]
  ctxLog (postEvent s 4 c body) c 4 body

/-- A reply that arrives after its transaction was completed by a timeout is discarded and logged (R327; log 91). -/
def lateReply (s : State) (o : Nat) : State :=
  match s.late.find? o with
  | some x => { lostRecord s o x.1 x.2 1 with late := s.late.del o }
  | none => s

/-- ATOMIC_REPLY (R137): the old values land. -/
def execAtomicReply (o : Nat) (s : State) : Out :=
  .next (match s.ops.find? o with
    | some op =>
      match op.kind with
      | .mem m => if op.lost = 0 && !enRoute s o && m.lanes.all (·.done) && (match m.k with | .atom _ => true | _ => false) then landReply s o op (replyWrites m) else s
      | _ => s
    | none => lateReply s o)

end Sys2Proof.Machine
end

