-- ==== Sys2Proof/Machine/Barrier.lean ====
section
/-! DEFINITION. Barriers (chapter 17). -/

namespace Sys2Proof.Machine

/-- The barrier instance is listed, so that it is counted (R257). -/
def listBar (m : SMap Bar) (k : Nat) : SMap Bar := SMap.put m k (SMap.get Bar.reset m k)

/-- Team barrier `k`, or cohort barrier `k`, of a group listed. -/
def State.listBarOf (s : State) (g : Group) (coh : Bool) (k : Nat) : State :=
  match s.teams.find? g.team with
  | none => s
  | some t =>
    if coh then { s with cohorts := s.cohorts.adjust t.cohort fun c => { c with bars := listBar c.bars k } }
    else { s with teams := s.teams.put g.team { t with bars := listBar t.bars k } }

/-- The group may use barriers, and the path stands in no allon region (Table BAR.3). -/
def barOk (g : Group) (p : Path) : Bool := g.grp ≠ 63 && p.saved.isNone

/-- ARRIVAL at a barrier (R258): a release, made once the accesses before it are performed (R262, R281); the phase is recorded,
`k` is what the path does, and the members are counted. A path that has arrived in this phase already waits for its end (Table BAR.3). -/
def arriveBar (coh : Bool) (b : Nat) (k : Nat → State → State) (g : Group) (p : Path) (s : State) : State :=
  let ph := phaseOf s g coh b
  if !barOk g p then trapAt .illop 0 s
  else if p.arrivals.contains (coh, b, ph) then waitOn (.barAgain coh b ph) s
  else inOrder g true true [] (fun s0 =>
    let s1 := s0.listBarOf g coh b
    let s2 := s1.modPath fun p => { p with arrivals := p.arrivals.filter (fun a => !(a.1 = coh && a.2.1 = b)) ++ [(coh, b, ph)] }
    recount (k ph s2) g.team) s

/-- BAR (R258, R263). -/
def execBar (k : Nat) (s : State) : Out :=
  gated { acc := acc0 } s fun g p => arriveBar false k (fun ph s => waitThen (.bar false k ph) s.iss.next s) g p

/-- BARA (R258, R263). -/
def execBara (a k : Nat) (s : State) : Out :=
  gated { acc := acc0, wr := sR [a] } s fun g p => arriveBar false k (fun ph s => advance (s.wS a (BitVec.ofNat 64 ph))) g p

/-- CBAR (R258, R263). -/
def execCbar (k : Nat) (s : State) : Out :=
  gated { acc := acc0 } s fun g p => arriveBar true k (fun ph s => waitThen (.bar true k ph) s.iss.next s) g p

/-- barw waits (Table BAR.2). -/
def barwWaits (phase val : Nat) : Bool :=
  let d := (phase + 2 ^ 32 - val % 2 ^ 32) % 2 ^ 32
  d = 0 || 2 ^ 31 ≤ d

/-- BARW (R262, R263): its return is an acquire at scope .core. -/
def execBarw (a k : Nat) (s : State) : Out :=
  gated { acc := acc0, rd := sR [a] } s fun g p s1 =>
    let v := fld (rS g a).toNat 0 32
    if !barOk g p then trapAt .illop 0 s1
    else if barwWaits (phaseOf s g false k) v then waitThen (.barw k v) s.iss.next s1
    else advance (l1Drop s1 g.place.core g.ctx)

end Sys2Proof.Machine
end

