-- ==== Sys2Proof/Machine/Pad.lean ====
section
/-! DEFINITION. The scratchpad, its ownership, the tile table and the tag table (R126, R129, R138 to R142, R185). -/

namespace Sys2Proof.Machine

/-- The context that owns a bank: the owner of the quadrant its run is assigned to (R185). -/
def bankOwner (s : State) (core bank : Nat) : Nat :=
  (s.quad (4 * core + (s.core core).bankOwner.get (bank / 8 / 16) (bank / 8))).owner

/-- Context `c` owns the bank (R126). -/
def ownsBank (s : State) (core c bank : Nat) : Bool := c ≠ 0 && bankOwner s core bank = c

/-- The scratchpad of a core: a byte, and `n` bytes as an integer. -/
def padByte (s : State) (core o : Nat) : Byte := (s.core core).pad.get 0 o
def padBytes (s : State) (core o n : Nat) : List Byte := (List.range n).map fun i => padByte s core (o + i)
def padRd (s : State) (core o n : Nat) : Nat := ofBytesLE (padBytes s core o n)

/-- Bytes written into the scratchpad. -/
def padWr (s : State) (core o : Nat) (bs : List Byte) : State :=
  s.modCore core fun k => { k with pad := putBytes k.pad o bs }

/-- The first fault of a scratchpad offset (R127): range, alignment, ownership. -/
def padBad (s : State) (core c o : Nat) : Option Cause :=
  if 2 ^ 21 ≤ o then some .padbound
  else if o % 8 ≠ 0 then some .align
  else if ownsBank s core c (o / 4096) then none else some .padbound

/-- The trap of the lowest acting lane that fails, `f` giving a lane's address and its failure (R127). -/
def firstBad (lanes : List Nat) (f : Nat → Nat × Option Cause) : Option (Cause × Nat) :=
  lanes.findSome? fun l => (f l).2.map fun c => (c, (f l).1)

/-- Acceptance of spld and spst (Table MEM.1). -/
def accP : Acc := { pred := true, imms := 2 }

/-- SPLD (R129): it is performed at its issue, after the path's accesses that must come first (R266, R268, R272, R275). -/
def execSpld (d a i : Nat) (s : State) : Out :=
  gated { acc := accP, rd := vR [a], wr := vR [d] } s fun g p s1 =>
    let off (l : Nat) : Nat := (rV g a l + immS s i).toNat
    match firstBad (actLanes s g p) fun l => (off l, padBad s g.place.core g.ctx (off l)) with
    | some (c, x) => trapAt c x s1
    | none =>
      inOrder g false false [] (landNow (vWrites d (actLanes s g p) fun l => BitVec.ofNat 64 (padRd s g.place.core (off l) 8)) 0) s1

/-- The lane whose value a word of the scratchpad keeps: one of those that name it (R131). -/
def padWinner (s : State) (same : List Nat) : Nat :=
  match same with
  | [l] => l
  | l :: _ => same.getD ((Config.freeValue (s.fresh + l)).toNat % same.length) l
  | [] => 0

/-- SPST (R129, R131): performed at its issue, in the order of R275. -/
def execSpst (d a i : Nat) (s : State) : Out :=
  gated { acc := accP, rd := vR [a, d] } s fun g p s1 =>
    let off (l : Nat) : Nat := (rV g a l + immS s i).toNat
    let lanes := actLanes s g p
    match firstBad lanes fun l => (off l, padBad s g.place.core g.ctx (off l)) with
    | some (c, x) => trapAt c x s1
    | none =>
      let win (l : Nat) : Bool := padWinner s (lanes.filter fun k => off k = off l) = l
      let after := (lanes.filter win).foldl (fun s l => padWr s g.place.core (off l) (bytesLE 8 (rV g d l).toNat)) s1
      inOrder g true false [] (fun s2 => advance { s2 with fresh := s2.fresh + 32, cores := after.cores }) s1

/-- Tile entry `t` of a core. -/
def State.tile (s : State) (core t : Nat) : Tile := (s.core core).tiles.get Tile.reset t

/-- The entry changed by `f`. -/
def State.modTile (s : State) (core t : Nat) (f : Tile → Tile) : State :=
  s.modCore core fun k => { k with tiles := k.tiles.set Tile.reset t (f (k.tiles.get Tile.reset t)) }

/-- The banks of a registered tile all belong to the context (R145 step 3). -/
def tileBanks (s : State) (core c : Nat) (x : Tile) : Bool :=
  !x.reg || (List.range x.count).all fun i => ownsBank s core c (x.base + i)

/-- The entry, and the banks of its tile, belong to the context (R126). -/
def tileOwned (s : State) (core c t : Nat) : Bool :=
  ownsBank s core c (2 * t) && tileBanks s core c (s.tile core t)

/-- Filling or draining (R139). -/
def Tile.busy (x : Tile) : Bool := x.st = .filling || x.st = .draining

/-- How naming a tile ends (R139). -/
inductive TileUse where
  | ok
  | wait
  | trap (c : Cause) (data : Nat)
  deriving DecidableEq, Repr

/-- The states of a tile an instruction or operation names, once it is owned and not busy: an inbound destination
is empty, any other use needs it ready (R139, R145 step 6). -/
def tileState (x : Tile) (inbound : Bool) : TileUse :=
  if !x.reg then .trap .engine 0
  else if inbound then (if x.st = .empty then .ok else .trap .engine 0)
  else if x.st = .ready then .ok else .trap .tileempty 0

/-- R139 for an instruction that reads the tile. -/
def tileRead (s : State) (core c t : Nat) : TileUse :=
  if !tileOwned s core c t then .trap .padbound t
  else if (s.tile core t).busy then .wait
  else tileState (s.tile core t) false

/-- What a tile use decides, before `k`; `mat`: by matrix work that is charged (R198). -/
def TileUse.then (u : TileUse) (t : Nat) (mat : Bool) (k : State → State) (s : State) : State :=
  match u with
  | .ok => k s
  | .wait => waitOn (.tile t mat false) s
  | .trap c d => trapAt c d s

/-- TALLOC (R138, R141, R190); on a tile that a multicast delivery holds it waits (R333). -/
def execTalloc (a b k : Nat) (s : State) : Out :=
  gated { acc := acc0, rd := sR [a, b] } s fun g _ s1 =>
    let core := g.place.core
    let t := fld (rS g a).toNat 0 8
    let base := fld (rS g b).toNat 16 9
    let cnt := fld (rS g b).toNat 32 10
    let x := s.tile core t
    if !ownsBank s core g.ctx (2 * t) || (List.range cnt).any (fun i => base + i < 512 && !ownsBank s core g.ctx (base + i)) then
      trapAt .padbound t s1
    else if 0 < x.held then waitOn (.tile t false true) s1
    else if x.reg || cnt = 0 || 512 < base + cnt ||
        (s.core core).tiles.any fun y => y.2.reg && y.2.base < base + cnt && base < y.2.base + y.2.count then
      trapAt .engine 0 s1
    else
      advance (s1.modTile core t fun x =>
        { x with gen := (x.gen + 1) % 2 ^ 16, count := cnt, base := base, reg := true, rmask := 0, held := 0
                 st := if k = 0 then .empty else .ready })

/-- TREL (R141); a held tile makes it wait (R159). -/
def execTrel (a k : Nat) (s : State) : Out :=
  gated { acc := acc0, rd := sR [a] } s fun g _ s1 =>
    let core := g.place.core
    let t := fld (rS g a).toNat 0 8
    let x := s.tile core t
    if !ownsBank s core g.ctx (2 * t) then trapAt .padbound t s1
    else if !x.reg || x.busy then trapAt .engine 0 s1
    else if 0 < x.held then waitOn (.tile t false true) s1
    else if k = 2 && x.st ≠ .empty then trapAt .engine 0 s1
    else
      advance (s1.modTile core t fun x =>
        if k = 0 then { x with reg := false, st := .empty }
        else if k = 1 then { x with st := .empty } else { x with st := .ready })

/-- Codes of the tile states (Table MEM.4). -/
def TileSt.code : TileSt → Nat
  | .empty => 0 | .filling => 1 | .ready => 2 | .draining => 3

/-- A tile entry as tstat reads it (Table MEM.4). -/
def Tile.word (x : Tile) : W64 :=
  BitVec.ofNat 64 (x.gen * 2 ^ 48 + x.count * 2 ^ 32 + x.base * 2 ^ 16 + (if x.reg then 4 + x.st.code else 0))

/-- TSTAT (R141). -/
def execTstat (a b : Nat) (s : State) : Out :=
  gated { acc := acc0, rd := sR [b], wr := sR [a] } s fun g _ s1 =>
    let t := fld (rS g b).toNat 0 8
    if !ownsBank s g.place.core g.ctx (2 * t) then trapAt .padbound t s1
    else advance (s1.wS a (s.tile g.place.core t).word)

/-- Valid tag entries of a set, by way. -/
def setTags (k : Core) (set : Nat) : List (Nat × Option Tag) :=
  (List.range 4).map fun w => (4 * set + w, k.tags.find? (4 * set + w))

/-- The way to fill on a miss: the lowest invalid one, or else the least recently used (Table MEM.6). -/
def fillWay (l : List (Nat × Option Tag)) : Nat :=
  match l.find? fun w => w.2.isNone with
  | some w => w.1
  | none =>
    (l.foldl (fun (m : Nat × Nat) w =>
      match w.2 with
      | some t => if t.used < m.2 then (w.1, t.used) else m
      | none => m) ((l.headD (0, none)).1, (l.headD (0, none)).2.elim 0 Tag.used)).1

/-- A mark later than every use of a core's tags. -/
def nextUse (k : Core) : Nat := k.tags.foldl (fun m t => max m (t.2.used + 1)) 1

/-- TGLOOK (R142, Table MEM.6). Of two valid ways with the key the lowest is the hit (DESIGN CHOICE, log 106); the %trapdata of PADBOUND is
the set's number (DESIGN CHOICE, log 52). -/
def execTglook (a b : Nat) (s : State) : Out :=
  gated { acc := acc0, rd := sR [b], wr := sR [a] } s fun g _ s1 =>
    let core := g.place.core
    let key := rS g b
    let set := key.toNat % 256
    if !ownsBank s core g.ctx (2 * set) then trapAt .padbound set s1
    else
      let ways := setTags (s.core core) set
      match ways.find? fun w => w.2.map Tag.key = some key with
      | some w =>
        let slot := (w.2.map Tag.slot).getD 0
        advance ((s1.modCore core fun k =>
          { k with tags := k.tags.adjust w.1 fun t => { t with used := nextUse k } }).wS a
            (BitVec.ofNat 64 (slot * 2 ^ 16 + w.1)))
      | none => advance (s1.wS a (BitVec.ofNat 64 (2 ^ 63 + fillWay ways)))

/-- TGSET (R142): ownership is judged before the set; the %trapdata of PADBOUND is the entry's number (DESIGN CHOICE, log 52). -/
def execTgset (a b : Nat) (s : State) : Out :=
  gated { acc := acc0, rd := sR [a, b] } s fun g _ s1 =>
    let core := g.place.core
    let e := fld (rS g b).toNat 0 10
    if !ownsBank s core g.ctx (2 * (e / 4)) then trapAt .padbound e s1
    else if e / 4 ≠ (rS g a).toNat % 256 then trapAt .engine 0 s1
    else
      advance (s1.modCore core fun k =>
        { k with tags := k.tags.put e { key := rS g a, slot := fld (rS g b).toNat 16 16, used := nextUse k } })

/-- TGCLR (R142); the %trapdata of PADBOUND is the entry's number (DESIGN CHOICE, log 52). -/
def execTgclr (a k : Nat) (s : State) : Out :=
  gated { acc := acc0, rd := sR [a], fields := k ≠ 1 || a = 0 } s fun g _ s1 =>
    let core := g.place.core
    if k = 0 then
      let e := fld (rS g a).toNat 0 10
      if !ownsBank s core g.ctx (2 * (e / 4)) then trapAt .padbound e s1
      else advance (s1.modCore core fun x => { x with tags := x.tags.del e })
    else
      advance (s1.modCore core fun x =>
        { x with tags := x.tags.filter fun (t : Nat × Tag) => !ownsBank s core g.ctx (2 * (t.1 / 4)) })

end Sys2Proof.Machine
end

