-- ==== Sys2Proof/Machine/Trans.lean ====
section
/-! DEFINITION. Page walks and the fault buffer (R311 to R315), and translations of work that no path waits on. -/

namespace Sys2Proof.Machine

/-- Entries of the L1 and L2 TLBs and of a die's fault buffer; walks a die runs at once (R312, R314). -/
def l1Tlbs : Nat := 512
def l2Tlbs : Nat := 32768
def faultMax : Nat := 4096
def walkMax : Nat := 128

/-- A translation entered in a TLB; what it replaces is dropped (log 9). -/
def tlbFill (cap : Nat) (l : List Tlb) (t : Tlb) : List Tlb :=
  (t :: l.filter fun x => !(x.ctx = t.ctx && x.va < t.va + 2 ^ pageBits t.size && t.va < x.va + 2 ^ pageBits x.size)).take cap

/-- The entries of a die's fault buffer in use: one for each page of each access of the die that waits, whichever die holds the
fault's record; an evicted path holds none (R314). -/
def faultUse (s : State) (d : Nat) : Nat :=
  let here (gid : Nat) : Bool := match s.group? gid with | some g => dieOf g.place.core = d | none => false
  (s.dies.flatMap fun x => x.2.faults).foldl (fun n f =>
    n + (f.2.paths.filter fun q => here q.1).length + (f.2.ops.filter fun o => (s.ops.find? o).any fun p => dieOf p.core = d).length +
      (f.2.frames.filter fun q => here q.1).length + (f.2.claims.filter fun q => here q.1).length) 0

/-- The buffer has a free entry. -/
def faultRoom (s : State) (d : Nat) : Bool := faultUse s d < faultMax

/-- The ACC byte of a need (Table PAG.2). -/
def accByte (n : Need) (eng : Bool) : Nat :=
  (if n.r then 1 else 0) + (if n.w then 2 else 0) + (if n.x then 4 else 0) + (if eng then 8 else 0)

/-- A translation entered in the L2 TLB of a die and the L1 TLB of a core. -/
def fillBoth (s : State) (core : Nat) (t : Tlb) : State :=
  (s.modDie (dieOf core) fun d => { d with tlb := tlbFill l2Tlbs d.tlb t }).modCore core fun k =>
    { k with tlb := tlbFill l1Tlbs k.tlb t }

/-- A background translation: a key, a permission failure, a replayable fault of a kind, or a wait for its walk. -/
inductive XRes where
  | key (pa : Nat)
  | perm
  | fault (kind : Nat)
  | wait
  deriving DecidableEq, Repr

/-- The translation of a page for an access by whatever holds it: a TLB's entry, so long as it stands, else a walk (R312,
R313). A write through an entry sets D in its leaf, and one that finds MIG faults (R311). -/
def heldWalk (s : State) (core c va : Nat) (n : Need) : State × WalkRes :=
  match tlbOf s core c va with
  | some t =>
    if lacks t n then (s, .perm)
    else if n.w && t.mig then (s, .fault 1)
    else if n.w && !t.d then
      let t1 := { t with d := true }
      (fillBoth (setAD s c va t.leaf t.page true) core t1, .held t1 t.leaf t.page)
    else (fillBoth s core t, .held t t.leaf t.page)
  | none =>
    match walk s c va n with
    | (s1, .held t leaf size) => (fillBoth s1 core t, .held t leaf size)
    | r => r

/-- The translation of an access of an engine, frame or version fetch now: by a TLB, else by a walk (R146, R242, R312). -/
def bgNow (s : State) (core c va : Nat) (n : Need) (eng : Bool) : State × XRes :=
  let v := va % 2 ^ 57
  if badVa va then (s, .perm)
  else match heldWalk s core c v n with
    | (s1, .held t _ _) => if barred s c v (t.key v) n eng then (s, .perm) else (s1, .key (t.key v))
    | (s1, .fault k) => (s1, .fault k)
    | (s1, .perm) => (s1, .perm)

/-- A miss of background work waits for its turn among the walks of its die (R312). -/
def queueWalk (s : State) (d c page : Nat) : State :=
  if (s.die d).walks.any fun w => w.2.ctx = c && w.2.va = page then s
  else { s.modDie d fun x => { x with walks := SMap.put x.walks s.nextId { ctx := c, va := page, paths := [] } } with nextId := s.nextId + 1 }

/-- The same translation, which waits while it misses and the die runs all the walks that it can (R312). -/
def bgXlate (s : State) (core c va : Nat) (n : Need) (eng : Bool) : State × XRes :=
  if !badVa va && (tlbOf s core c (va % 2 ^ 57)).isNone && walkMax ≤ (s.die (dieOf core)).walks.length then
    (queueWalk s (dieOf core) c (pageOf va), .wait)
  else bgNow s core c va n eng

/-- A fault of background work: its waiter joins the open fault of the page, where the buffer has room (R314). -/
def bgFault (s : State) (core c va kind : Nat) (n : Need) (eng : Bool) (w : Waiter) : State :=
  if faultRoom s (dieOf core) then openFault s (dieOf core) c va kind (accByte n eng) w else s

/-- One translation of a parked path has ended: with the last, the path is ready to decode again. -/
def unparkOne (p : Path) : Path :=
  match p.cond with
  | .parked n => if n ≤ 1 then { p with cond := .ready } else { p with cond := .parked (n - 1) }
  | _ => p

/-- A path leaves every walk and fault it waits in, ready to decode again. -/
def unparkAll (s : State) (q : Nat × Nat) : State :=
  let s1 : State := { s with
    dies := s.dies.mapV fun _ d =>
      { d with
        walks := d.walks.mapV fun _ w => { w with paths := w.paths.filter fun x => (x.1, x.2.1) ≠ q }
        faults := d.faults.mapV fun _ f => { f with paths := f.paths.filter (· ≠ q) } } }
  s1.modPathAt q.1 q.2 fun p => match p.cond with | .parked _ => { p with cond := .ready } | _ => p

/-- The access of a path that a walk served ends: the translation is held, or the path parks on the fault of the page, or
its instruction is to take PERM (R311, R312, R314). One that finds the buffer full holds no entry while it waits. -/
def walkEnd (d : Nat) (k : Walk) (s : State) (q : Nat × Nat × Need) : State :=
  match heldWalk s (coreOf s q.1) k.ctx k.va q.2.2 with
  | (s1, .held _ _ _) => s1.modPathAt q.1 q.2.1 unparkOne
  | (s1, .perm) => s1.modPathAt q.1 q.2.1 fun p => unparkOne { p with permFail := (pageOf k.va, 0, 0) :: p.permFail }
  | (s1, .fault kind) =>
    if faultRoom s1 d then openFault s1 d k.ctx k.va kind (accByte q.2.2 false) (.path q.1 q.2.1)
    else { (unparkAll s1 (q.1, q.2.1)).modPathAt q.1 q.2.1 fun p => p.wait .faultRoom s1.nextId with nextId := s1.nextId + 1 }

/-- What a walk of background work alone finds is held by the die's TLB. -/
def walkHeld (d : Nat) (k : Walk) (s : State) : State :=
  match walk s k.ctx k.va Need.none with
  | (s1, .held t _ _) => s1.modDie d fun x => { x with tlb := tlbFill l2Tlbs x.tlb t }
  | (s1, _) => s1

/-- WALK_COMPLETE (R311, R312, R314): one of the walks a die runs ends, for every path that shares it. -/
def execWalkComplete (w : Nat) (s : State) : Out :=
  .next (match List.find? (fun (p : Nat × Die) => (p.2.walks.take walkMax).any fun x => x.1 = w) s.dies with
    | none => s
    | some (d, di) =>
      match di.walks.find? w with
      | none => s
      | some k =>
        let s1 := s.modDie d fun x => { x with walks := x.walks.del w }
        if k.paths.isEmpty then walkHeld d k s1 else k.paths.foldl (walkEnd d k) s1)

end Sys2Proof.Machine
end

