-- ==== Sys2Proof/Machine/Engine.lean ====
section
/-! DEFINITION. The copy, gather and collective engines: admission, movement, the ends of operations, multicast
(R143 to R146, R190, R286 to R288, R332 to R334). -/

namespace Sys2Proof.Machine

/-- Operations of an engine of a core that have not ended (R145 step 4). -/
def engOps (s : State) (core eng : Nat) : List (Nat × Op) :=
  s.ops.filter fun (o : Nat × Op) => o.2.core = core && (match o.2.kind with | .eng e => e.eng = eng | _ => false)

/-- Work items of an operation other than its last, the arrival counter: sectors, or elements for acoll. -/
def EngOp.items (e : EngOp) : Nat :=
  if e.fn = 4 then e.rows * e.secs * (if [1, 2].contains e.opc then 16 else 8) else e.rows * e.secs

/-- The direction is memory to tile (R144). -/
def EngOp.inbound (e : EngOp) : Bool := e.fn = 0 || e.fn = 2

/-- A descriptor read at issue (Table MEM.7, R332). -/
def engOf (fn k : Nat) (r : Nat → Nat) : EngOp :=
  let mc := fn = 5
  { eng := if fn < 2 then 0 else if fn < 4 then 1 else 2
    fn := fn, seq := 0, addr := r 0
    pitch := if mc then 0 else toI 32 (fld (r 1) 32 32)
    secs := fld (r 1) 16 16, rows := fld (r 1) 0 16, off := fld (r 2) 8 24, tile := fld (r 2) 0 8, rec_ := r 3
    itile := if fn = 2 || fn = 3 then fld (r 4) 0 8 else 0
    ioff := if fn = 2 || fn = 3 then fld (r 4) 8 24 else 0
    cnt := if fn = 4 then r 4 else 0
    opc := k % 8, keep := if fn = 4 then 8 ≤ k else k % 2 = 1
    idx := [], todo := [], moved := false, status := 0, denied := [], recDrop := false, rmask := 0, targets := []
    loff := if mc then fld (r 4) 8 24 else 0 }

/-- The entry is owned, and its banks where it is registered (R145 step 3). -/
def engOwned (s : State) (core c : Nat) (e : EngOp) : Option Nat :=
  if !tileOwned s core c e.tile then some e.tile
  else if (e.fn = 2 || e.fn = 3) && !tileOwned s core c e.itile then some e.itile else none

/-- The operation may not start while a named tile is filling, draining or held (R145 step 5, R159, R333). -/
def engBusy (s : State) (core : Nat) (e : EngOp) : Option Nat :=
  let b (t : Nat) : Bool := (s.tile core t).busy || 0 < (s.tile core t).held
  if b e.tile then some e.tile else if (e.fn = 2 || e.fn = 3) && b e.itile then some e.itile else none

/-- Steps 6 and 7 of R145. -/
def engStates (s : State) (core : Nat) (e : EngOp) : TileUse :=
  let x := s.tile core e.tile
  let y := s.tile core e.itile
  let gat := e.fn = 2 || e.fn = 3
  if !x.reg || (gat && !y.reg) then .trap .engine 0
  else match tileState x e.inbound, if gat then tileState y false else TileUse.ok with
    | .ok, .ok =>
      if 4096 * x.count < 32 * e.secs * e.rows + e.off then .trap .engine 0
      else if gat && 4096 * y.count < e.ioff + 4 * e.rows then .trap .engine 0
      else .ok
    | .ok, u => u
    | u, _ => u

/-- ADMISSION OF AN ENGINE OPERATION (R145): `bad` and `mis` are the corners of steps 1 and 2; `k` completes the
descriptor from memory before it is issued. The %trapdata of ALIGN is 0, since no lane's address fails (Table TRP.4 speaks of
that alone: DESIGN CHOICE, log 52), and that of PADBOUND the tile's number. -/
def engIssue (d b n : Nat) (e0 : (Nat → Nat) → EngOp) (bad : (Nat → Nat) → Bool) (mis : (Nat → Nat) → Bool)
    (k : Group → Path → EngOp → (EngOp → State → State) → State → State) (s : State) : Out :=
  gated { acc := acc0, rd := sR ((List.range n).map (b + ·)), wr := sR [d] } s fun g p s1 =>
    let core := g.place.core
    let r (i : Nat) : Nat := (rS g (b + i)).toNat
    let e := e0 r
    if bad r || e.secs = 0 || e.rows = 0 then trapAt .engine 0 s1
    else if mis r || e.off % 32 ≠ 0 || e.rec_ % 16 ≠ 0 then trapAt .align 0 s1
    else match engOwned s core g.ctx e with
      | some t => trapAt .padbound t s1
      | none =>
        if 64 ≤ (engOps s core e.eng).length then waitOn (.eplace e.eng) s1
        else match engBusy s core e with
          | some t => waitOn (.tile t false true) s1
          | none =>
            (engStates s core e).then e.tile false (k g p e fun e s2 =>
              let key := 65536 * e.eng + g.ctx
              let seq := (s2.core core).eseq.get 1 key
              let e1 := { e with seq := seq }
              let s3 := s2.modCore core fun c => { c with eseq := c.eseq.set 1 key (seq + 1) }
              let s4 := s3.modTile core e.tile fun t => { t with st := if e.inbound then .filling else .draining }
              let s5 := s4.addOp { gid := s.iss.gid, slot := s.iss.slot, ctx := g.ctx, core := core, perf := false,
                                   lost := 0, born := s.clocks.nets, kind := .eng e1 }
              advance (s5.wS d (BitVec.ofNat 64 seq))) s1

/-- An operation whose work is its sectors or elements, with the arrival counter last (R144). -/
def plainWork (_ : Group) (_ : Path) (e : EngOp) (k : EngOp → State → State) : State → State :=
  k { e with todo := List.range (e.items + if e.cnt ≠ 0 then 1 else 0) }

/-- Misaligned ADDR, PITCH, IOFF or CNT (R143, R145 step 2). -/
def misEng (gat coll : Bool) (r : Nat → Nat) : Bool :=
  r 0 % 32 ≠ 0 || fld (r 1) 32 32 % 32 ≠ 0 || (gat && fld (r 4) 8 24 % 4 ≠ 0) || (coll && r 4 % 8 ≠ 0)

/-- ACOPY (R144). -/
def execAcopy (a b : Nat) (s : State) : Out :=
  engIssue a b 4 (engOf 0 0) (fun _ => false) (misEng false false) plainWork s

/-- ACOPYO (R144). -/
def execAcopyo (a b k : Nat) (s : State) : Out :=
  engIssue a b 4 (engOf 1 k) (fun _ => false) (misEng false false) plainWork s

/-- AGATH (R144). -/
def execAgath (a b : Nat) (s : State) : Out :=
  engIssue a b 5 (engOf 2 0) (fun _ => false) (misEng true false) plainWork s

/-- ASCAT (R144). -/
def execAscat (a b k : Nat) (s : State) : Out :=
  engIssue a b 5 (engOf 3 k) (fun _ => false) (misEng true false) plainWork s

/-- ACOLL (R144). -/
def execAcoll (a b k : Nat) (s : State) : Out :=
  engIssue a b 5 (engOf 4 k) (fun _ => false) (misEng false true) plainWork s

/-- A target entry (R332). -/
def targetOf (x : Nat) : Target := { gen := fld x 48 16, tile := fld x 32 8, dev := fld x 8 6, core := fld x 0 8 }
def targetOk (x : Nat) : Bool := fld x 40 8 = 0 && fld x 14 18 = 0

/-- MCAST (R332): the list is read at issue, under the path's translation, after the path's own writes of it (R267). -/
def execMcast (a b k : Nat) (s : State) : Out :=
  engIssue a b 5 (engOf 5 k)
    (fun r => let n := fld (r 4) 0 8; fld (r 1) 32 32 ≠ 0 || n = 0 || 64 < n || fld (r 4) 32 32 ≠ 0)
    (fun r => r 0 % 8 ≠ 0 || fld (r 4) 8 24 % 32 ≠ 0)
    (fun g p e next s1 =>
      let n := fld (rS g (b + 4)).toNat 0 8
      let vas := (List.range n).map fun t => (e.addr + 8 * t) % 2 ^ 64
      match vas.find? badVa with
      | some x => trapAt .perm x s1
      | none =>
        translate g p vas Need.read (fun pas => inOrder g false false (pas.map fun pa => (pa, 8)) fun s2 =>
          let xs := pas.map fun pa => s2.rd pa 8
          if xs.any fun x => !targetOk x then trapAt .engine 0 s2
          else next { e with todo := List.range n, targets := xs.map targetOf } s2) s1) s

/-- The index of row `i`: read once (R144). -/
def rowIdx (s : State) (core : Nat) (e : EngOp) (i : Nat) : Nat :=
  if e.fn = 2 || e.fn = 3 then
    (e.idx.find? i).getD (padRd s core (4096 * (s.tile core e.itile).base + e.ioff + 4 * i) 4)
  else i

/-- The memory address of byte `o` of the row of index `j`, modulo 2^64 (R144). -/
def wrapAddr (e : EngOp) (j o : Nat) : Nat := ofI 64 (((e.addr + o : Nat) : Int) + e.pitch * j)

/-- The regions of the context that hold an address, as a mask (R190). -/
def regionMask (s : State) (c va : Nat) : Nat :=
  match s.ctx? c with
  | none => 0
  | some x => packN 1 (x.regions.map fun r => if r.base ≤ va % 2 ^ 57 && va % 2 ^ 57 < r.base + r.len then 1 else 0)

/-- One combination of acoll (R36, R144). -/
def collOp (opc old x : Nat) : Nat :=
  match opc with
  | 0 => addRn F32 old x
  | 1 => addRn BF16 old x
  | 2 => addRn F16 old x
  | 3 => (old + x) % 2 ^ 32
  | 4 => if toI 32 old < toI 32 x then x else old
  | _ => (F32.minMax true true old x).1

/-- An operation's record changed. -/
def State.modEng (s : State) (o : Nat) (f : EngOp → EngOp) : State :=
  s.modOp o fun p => match p.kind with | .eng e => { p with kind := .eng (f e) } | _ => p

/-- Item `i` is done, with a status of at least `st` (Table MEM.8). -/
def itemDone (s : State) (o i st : Nat) : State :=
  s.modEng o fun e => { e with todo := e.todo.filter (· ≠ i), status := max e.status st }

/-- An item moves whose bytes stand at `pa`, `w` of them, and in the tile at `pad` (R144, R318, R339). -/
def engMove (o i va pa pad w : Nat) (last : Bool) (op : Op) (e : EngOp) (s : State) : State :=
  let core := op.core
  let t := if last then readSeen op.ctx pa 8 s else if e.inbound then readSeen op.ctx pa 32 s
    else if e.fn = 4 then readSeen op.ctx pa w s else s
  if linkWaits s pa then s
  else if last then itemDone (homeWrite t none pa (bytesLE 8 (s.rd pa 8 + 1))) o i 0
  else if e.inbound then
    itemDone ((padWr t core pad (s.bytes pa 32)).modEng o fun e => { e with rmask := e.rmask ||| regionMask s op.ctx va }) o i 0
  else if e.fn = 4 then itemDone (homeWrite t none pa (bytesLE w (collOp e.opc (s.rd pa w) (padRd s core pad w)))) o i 0
  else itemDone (homeWrite t none pa (padBytes s core pad 32)) o i 0

/-- An item that may not be accessed ends denied; an inbound tile holds zero there (Table MEM.8). -/
def engDeny (o i pad core : Nat) (inbound : Bool) (s : State) : State :=
  itemDone (if inbound then padWr s core pad (List.replicate 32 0) else s) o i 1

/-- One item of a copy, gather or collective operation moves, ends denied, or meets a fault and stays (R144, R146,
Table MEM.8). -/
def engItem (o : Nat) (op : Op) (s : State) (i : Nat) : State :=
  match (s.ops.find? o).map Op.kind with
  | some (.eng e) =>
    let core := op.core
    let last := e.cnt ≠ 0 && i = e.items
    if !e.todo.contains i || (last && e.todo ≠ [i]) then s
    else
      let per := if e.fn = 4 then (if [1, 2].contains e.opc then 16 else 8) else 1
      let w := 32 / per
      let row := i / (e.secs * per)
      let col := i % (e.secs * per)
      if e.fn = 3 && e.todo.any fun j => j / e.secs < row then s
      else
        let j := rowIdx s core e row
        let s0 := if e.fn = 2 || e.fn = 3 then s.modEng o fun e => { e with idx := e.idx.put row j } else s
        let va := if last then e.cnt else wrapAddr e j (w * col)
        let need := if e.inbound then Need.read else if e.fn = 4 then Need.rw else Need.write
        let pad := 4096 * (s.tile core e.tile).base + e.off + 32 * e.secs * row + w * col
        if e.denied.any fun f => inPage f.1 f.2 va then engDeny o i pad core e.inbound s0
        else match bgXlate s0 core op.ctx va need e.inbound with
          | (s1, .perm) => engDeny o i pad core e.inbound s1
          | (s1, .fault k) => bgFault s1 core op.ctx va k need true (.op o)
          | (s1, .wait) => s1
          | (s1, .key pa) => engMove o i va pa pad w last op e s1
  | _ => s

/-- The landing tile's check (R333), of a delivery for context `c` whose last byte is at `last`: the drop reason, or none. -/
def landingBad (s : State) (c last : Nat) (t : Target) : Option Nat :=
  let x := s.tile t.core t.tile
  let owner := bankOwner s t.core (2 * t.tile)
  if !x.reg || x.st ≠ .ready then some 0
  else if x.gen ≠ t.gen then some 1
  else if owner ≠ c || (s.ctx? c).map Ctx.st ≠ some .resident ||
      (List.range 4).all (fun q => (s.quad (4 * t.core + q)).owner ≠ c) then some 2
  else if 4096 * x.count < last then some 3
  else none

/-- A delivery to a tile on a peer device, judged there (R333; log 23): a free value says whether it is dropped, whether the tile has
no owner, so that the drop is recorded in the issuer's log, and for which reason. -/
def peerDelivery (o t : Nat) (op : Op) (x : Target) (s : State) : State :=
  let v := Config.freeValue s.fresh
  let s1 : State := { s with fresh := s.fresh + 1 }
  if !v.getLsbD 0 then itemDone s1 o t 0
  else if !v.getLsbD 1 then itemDone s1 o t 2
  else ctxLog (itemDone s1 o t 2) op.ctx 17
    [(1, 0), (1, v.toNat / 4 % 4), (2, x.core), (2, x.gen), (1, x.tile), (1, s.domain), (2, op.core)]

/-- MCAST_DELIVERY (R333): the first sector of delivery `t` arrives; it is accepted and holds the tile, or dropped
whole. A target on a peer device is judged there: a free value says how (log 23). -/
def execMcastDelivery (o t : Nat) (s : State) : Out :=
  .next (match s.ops.find? o with
    | some op =>
      match op.kind with
      | .eng e =>
        if e.fn ≠ 5 || !e.todo.contains t || 64 ≤ t || op.lost ≠ 0 || enRoute s o || !forked s o op then s
        else match e.targets[t]? with
          | none => s
          | some x =>
            if x.dev ≠ s.domain && s.linkDown.contains (s.routing.getD x.dev 255) then s
            else if x.dev ≠ s.domain then
              peerDelivery o t op x s
            else match landingBad s op.ctx (e.loff + 32 * e.secs * e.rows) x with
              | some r =>
                let owner := bankOwner s x.core (2 * x.tile)
                ctxLog (itemDone s o t 2) (if owner = 0 then op.ctx else owner) 17
                  [(1, 0), (1, r), (2, x.core), (2, x.gen), (1, x.tile), (1, s.domain), (2, op.core)]
              | none =>
                let n := e.secs * e.rows
                (s.modTile x.core x.tile fun y => { y with held := y.held + 1 }).modEng o fun e =>
                  { e with todo := (e.todo.filter (· ≠ t)) ++ (List.range n).map fun k => 64 + t * n + k }
      | _ => s
    | none => s)

/-- A sector of an accepted delivery lands; the last one releases the landing tile (R333). -/
def mcastItem (o : Nat) (op : Op) (s : State) (i : Nat) : State :=
  match (s.ops.find? o).map Op.kind with
  | some (.eng e) =>
    if i < 64 || !e.todo.contains i then s
    else
      let n := e.secs * e.rows
      let t := (i - 64) / n
      let k := (i - 64) % n
      match e.targets[t]? with
      | none => s
      | some x =>
        let src := 4096 * (s.tile op.core e.tile).base + e.off + 32 * k
        let s1 := itemDone (padWr s x.core (4096 * (s.tile x.core x.tile).base + e.loff + 32 * k) (padBytes s op.core src 32)) o i 0
        if e.todo.any fun j => 64 ≤ j && j ≠ i && (j - 64) / n = t then s1
        else s1.modTile x.core x.tile fun y => { y with held := y.held - 1 }
  | _ => s

/-- The address that an item needs translated, for items that may wait on a fault. -/
def itemVa (s : State) (op : Op) (e : EngOp) (i : Nat) : Nat :=
  let per := if e.fn = 4 then (if [1, 2].contains e.opc then 16 else 8) else 1
  if e.cnt ≠ 0 && i = e.items then e.cnt
  else wrapAddr e (rowIdx s op.core e (i / (e.secs * per))) (32 / per * (i % (e.secs * per)))

/-- The operation waits on an open fault of the page that holds the address. -/
def opWaits (s : State) (o va : Nat) : Bool :=
  s.dies.any fun d => d.2.faults.any fun f => inPage f.2.va f.2.size va && f.2.ops.contains o

/-- Items that can move now: not those waiting on open faults. -/
def engReady (s : State) (o : Nat) (op : Op) (e : EngOp) : List Nat :=
  if e.fn = 5 then e.todo.filter (64 ≤ ·)
  else e.todo.filter fun i => !opWaits s o (itemVa s op e i)

/-- A HOME ACCESS of an engine operation: the items named, or all that can move; none before the accesses that
precede the instruction in its path (R146, R286). -/
def engPerform (o : Nat) (op : Op) (e : EngOp) (ls : List Nat) (s : State) : State :=
  if !forked s o op then s
  else (if ls.isEmpty then engReady s o op e else ls).foldl (fun s i => if e.fn = 5 then mcastItem o op s i else engItem o op s i) s

/-- TILE_FILL_END (R139, R190): the last sector has landed. -/
def execTileFillEnd (o : Nat) (s : State) : Out :=
  .next (match s.ops.find? o with
    | some op =>
      match op.kind with
      | .eng e =>
        if e.inbound && e.todo.isEmpty && !e.moved then
          (s.modTile op.core e.tile fun t => { t with st := .ready, rmask := e.rmask }).modEng o fun e => { e with moved := true }
        else s
      | _ => s
    | none => s)

/-- TILE_DRAIN_END (R139): the last sector has been read. -/
def execTileDrainEnd (o : Nat) (s : State) : Out :=
  .next (match s.ops.find? o with
    | some op =>
      match op.kind with
      | .eng e =>
        if !e.inbound && (e.todo.filter fun i => !(e.cnt ≠ 0 && i = e.items)).isEmpty && !e.moved then
          (s.modTile op.core e.tile fun t => { t with st := if e.keep then .ready else .empty }).modEng o fun e => { e with moved := true }
        else s
      | _ => s
    | none => s)

/-- The class bit of an engine (R147). -/
def engClass (e : Nat) : Nat := if e = 0 then 0 else if e = 1 then 1 else 5

/-- An ERR bit of a group set (R148). -/
def setErr (s : State) (gid cls : Nat) : State := s.modGroup gid fun g => { g with err := g.err ||| 2 ^ cls }

/-- ENGINE_COMPLETION (R146): the completion record is written in the order of issue, and the operation ends. -/
def execEngineCompletion (o : Nat) (s : State) : Out :=
  .next (match s.ops.find? o with
    | some op =>
      match op.kind with
      | .eng e =>
        let older (p : Nat × Op) : Bool := p.1 < o && p.2.core = op.core && p.2.ctx = op.ctx &&
          (match p.2.kind with | .eng f => f.eng = e.eng | _ => false)
        let fin (bad : Bool) (s : State) : State :=
          let s1 := s.delOp o
          if bad || e.status ≠ 0 then setErr s1 op.gid (engClass e.eng) else s1
        if !e.todo.isEmpty || !e.moved || (e.rec_ ≠ 0 && (s.ops.any older || !forked s o op)) then s
        else if e.rec_ = 0 then fin false s
        else if e.recDrop then fin true s
        else match bgXlate s op.core op.ctx e.rec_ Need.write false with
          | (s1, .perm) => fin true s1
          | (s1, .fault k) => bgFault s1 op.core op.ctx e.rec_ k Need.write true (.op o)
          | (s1, .wait) => s1
          | (s1, .key pa) => fin false (homeWrite s1 none pa (bytesLE 8 e.seq ++ bytesLE 8 e.status))
      | _ => s
    | none => s)

end Sys2Proof.Machine
end

