-- ==== Sys2Proof/Machine/Bundle.lean ====
section
/-! DEFINITION. Bundles: the directory, commit and install, read sets (chapter 20). -/

namespace Sys2Proof.Machine

/-- The domain stamp clock, in nanoseconds (R290): 6.6 ticks of the clocks each (R14). -/
def stampClk (s : State) : Nat := (s.clkBase + s.clocks.ticks * 5 / 33) % 2 ^ 52

/-- DIE of a stamp or handle: the die within the domain (R290). -/
def stampDie (s : State) (die : Nat) : Nat := (4 * s.domain + die) % 256

/-- The handle of a directory entry. -/
def Dir.handle (d : Dir) (die i : Nat) : Handle := { die := die, idx := i, gen := d.gen, dom := d.dom }

/-- The state of a bundle (Table BND.1): a committed bundle is superseded when every line is installed and none
has its version current, and drained when none has it retained. -/
def dirView (s : State) (die i : Nat) (d : Dir) : BSt :=
  match d.st with
  | .committed =>
    let h := d.handle die i
    if !d.wait.isEmpty || s.lines.any fun l => l.2.ref = some h then .committed
    else if s.lines.any fun l => (match l.2.prev with | some (_, _, r) => r = some h | none => false) then .superseded
    else .drained
  | x => x

/-- The lowest free directory entry of a die (R303). -/
def freeDir (s : State) (die : Nat) : Option Nat :=
  (List.range 1024).find? fun i =>
    match (s.die die).dirs.find? i with
    | some d => dirView s die i d = .drained
    | none => true

/-- The range records of a descriptor, or none where a corner gives DESC (R291, Table BND.4). -/
def descRanges (s : State) (pa : Nat) : Option (List (Nat × Nat)) :=
  let rs : List (Nat × Nat × Nat) := (List.range 4).map fun i => (s.rd (pa + 16 * i) 8, s.rd (pa + 16 * i + 8) 4, s.rd (pa + 16 * i + 12) 4)
  let ok := rs.all fun r => r.2.2 = 0 && r.2.1 ≤ 256 && (if r.2.1 = 0 then r.1 = 0 else r.1 % 128 = 0)
  let us : List (Nat × Nat) := (rs.filter fun r => r.2.1 ≠ 0).map fun r => (r.1, r.2.1)
  let tot := (us.map Prod.snd).sum
  let apart : Bool := us.zipIdx.all fun a => (us.drop (a.2 + 1)).all fun b => a.1.1 + 128 * a.1.2 ≤ b.1 || b.1 + 128 * b.2 ≤ a.1.1
  if ok && 0 < tot && tot ≤ 1024 && apart then some us else none

/-- A BUNDLE trap with its reason (R302). -/
def trapBundle (r : Nat) (s : State) : State := trapAt .bundle r (s.modG fun g => { g with bReason := r })

/-- BOPEN (R303, Table BND.4): the descriptor is read after the path's earlier writes. -/
def execBopen (a b : Nat) (s : State) : Out :=
  gated { acc := acc0, rd := sR [b], wr := sR [a] } s fun g p s1 =>
    let va := (rS g b).toNat
    let die := dieOf g.place.core
    if (openBundle s g).isSome then trapBundle 1 s1
    else if badVa va then trapAt .perm va s1
    else if va % 64 ≠ 0 then trapAt .align va s1
    else
      translate g p [va] Need.read (fun pas => inOrder g false false [(pas.headD 0, 64)] fun s3 =>
        match descRanges s3 (pas.headD 0) with
        | none => trapBundle 3 s3
        | some rs =>
          let lines := rs.flatMap fun r => (List.range r.2).map fun i => r.1 + 128 * i
          match lines.find? badVa with
          | some x => trapAt .perm x s3
          | none =>
            let pages := (lines.map fun l => l / 4096 * 4096).eraseDups
            translate g p pages Need.write (fun ks s4 =>
              match freeDir s4 die with
              | none => waitOn .dirFree s4
              | some i =>
                let tbl := List.zip pages ks
                let pl := lines.map fun l => ((tbl.find? fun q => q.1 = l / 4096 * 4096).map Prod.snd).getD 0 + l % 4096
                let gen := (((s4.die die).dirs.find? i).map Dir.gen).getD 0
                let d : Dir := { st := .open_, gen := (gen + 1) % 2 ^ 14, dom := s4.domain, ctx := g.ctx, gid := s.iss.gid,
                                 ranges := rs.map fun r => (r.1 % 2 ^ 57, r.2), lines := pl, wait := [], stamp := 0, op := 0 }
                let h := d.handle die i
                advance (((s4.modDie die fun x => { x with dirs := x.dirs.put i d }).modG fun g =>
                  { g with bundle := some h }).wS a h.bits)) s3) s1

/-- BCLOSE (R304): the path goes on at once. A bundle abandoned while it was open (R309) gives 0 and ERR. -/
def execBclose (a k : Nat) (s : State) : Out :=
  gated { acc := acc0, wr := sR [a] } s fun g _ s1 =>
    match g.bundle with
    | none => trapBundle 2 s1
    | some h =>
      let s2 := s1.modG fun g => { g with bundle := none }
      if handleSt s h ≠ .open_ then advance (setErr (s2.wS a 0) s.iss.gid 4)
      else if k = 1 then advance ((abandon s2 h).wS a 0)
      else
        let s3 := s2.modDie h.die fun x => { x with dirs := x.dirs.adjust h.idx fun d => { d with st := .preparing, op := s2.nextId } }
        advance (s3.addOp { gid := s.iss.gid, slot := s.iss.slot, ctx := g.ctx, core := g.place.core, perf := false, lost := 0,
                            born := s.clocks.nets, kind := .bclose h a })

/-- How sealing a line ends (R294 step 1). -/
inductive Seal where
  | ok (s : State)
  | fail
  | wait

/-- One line sealed for bundle `h`: it fails where another bundle that is open or preparing claims the line, a store of that
bundle on its way standing for its preparing version (log 53). -/
def sealLine (s : State) (h : Handle) (line : Nat) : Seal :=
  if conflict s h line then .fail
  else match prepLine s h line with
    | some s1 => .ok s1
    | none => .wait

/-- Every line sealed, in order. -/
def sealAll (h : Handle) : List Nat → State → Seal
  | [], s => .ok s
  | l :: t, s =>
    match sealLine s h l with
    | .ok s1 => sealAll h t s1
    | x => x

/-- The commit stamp of a bundle with these lines on a die: CLK and SEQ; none while a seventeenth commit waits for
the next CLK value (R290). -/
def commitStamp (s : State) (die : Nat) (lines : List Nat) : Option (Nat × Nat) :=
  let big := lines.foldl (fun m l => max m ((s.line l).stamp / 2 ^ 12 + 1)) 0
  let clk := max (stampClk s) big
  let n := (s.die die).commits.get 0 clk
  if n < 16 then some (clk, n) else none

/-- Every bundle store has landed (R292), and the accesses before the bclose are performed (R301). -/
def landed (s : State) (o : Nat) (op : Op) (h : Handle) : Bool :=
  ((before s o op).all fun y => !y.2.owed) &&
    s.ops.all fun x => match x.2.kind with
      | .mem m => m.bundle ≠ some h || m.lanes.all fun l => x.2.ended l || !l.bun
      | _ => true

/-- The lines of a bundle as its pages are mapped at its commit, which its bundle stores followed, and any other line that holds a
preparing version of it (R294, R303; log 102). -/
def linesNow (s : State) (core : Nat) (d : Dir) (h : Handle) : List Nat :=
  let vas := d.ranges.flatMap fun r => (List.range r.2).map fun i => r.1 + 128 * i
  let now := (List.zip vas d.lines).map fun q => match (tlbOf s core d.ctx q.1).or (leafNow s d.ctx q.1) with
    | some t => t.key q.1
    | none => q.2
  now ++ (s.lines.filterMap fun l => match l.2.prep with
    | some (_, k) => if k = h && !now.contains l.1 then some l.1 else none
    | none => none)

/-- BUNDLE_COMMIT (R290, R294): the lines are sealed and the stamp assigned; a seal that fails abandons the bundle. -/
def execBundleCommit (die i : Nat) (s : State) : Out :=
  .next (match (s.die die).dirs.find? i with
    | none => s
    | some d =>
      match d.st, s.ops.find? d.op with
      | .preparing, some op =>
        let h := d.handle die i
        if enRoute s d.op || !landed s d.op op h then s
        else
          let reg := match op.kind with | .bclose _ r => r | _ => 0
          let ls := linesNow s op.core d h
          match sealAll h ls s with
          | .wait => s
          | .fail =>
            abandonLog (landReply (setErr (abandon s h) op.gid 4) d.op op [.s reg 0]) d.ctx h 3
          | .ok s1 =>
            match commitStamp s1 die ls with
            | none => s
            | some (clk, n) =>
              let st := clk * 2 ^ 12 + stampDie s die * 2 ^ 4 + n
              let s2 := s1.modDie die fun x =>
                { x with
                  commits := (SMap.put x.commits clk (n + 1)).filter fun (q : Nat × Nat) => stampClk s ≤ q.1
                  dirs := x.dirs.adjust i fun d => { d with st := .committed, stamp := st, lines := ls, wait := ls } }
              landReply s2 d.op op [.s reg (BitVec.ofNat 64 st)]
      | _, _ => s)

/-- BUNDLE_INSTALL (R294): the install message makes the version current; one already current stays. -/
def execBundleInstall (die i line : Nat) (s : State) : Out :=
  .next (match (s.die die).dirs.find? i with
    | some d =>
      (match (s.line line).prep with
        | some (_, h) => if d.st = .committed && h = d.handle die i && !linkWaits s line && !jobOnWay s (.install die i line) then installLine s line else s
        | none => s)
    | none => s)

/-- INSTALL_RESEND (R294): the message is sent again; the line still waits for it. -/
def execInstallResend (_die _i _line : Nat) (s : State) : Out := .next s

/-- A soft error record of a line in the context log (R309, Table HST.5). -/
def lineError (s : State) (d : Dir) (line : Nat) : State :=
  let pg := ((s.group? d.gid).map (pgroup s)).getD 0
  ctxLog s d.ctx 18 [(1, 3), (1, pg), (1, 0), (1, 0), (8, line)]

/-- BUNDLE_SOFT_ERROR (R309): a soft error in a preparing version abandons the bundle, with ERR and the logs. Once the bundle
has committed, the version is lost: its line no longer waits for it, and a fetch of it finds VLOST (R299); so it is of a
previous version. -/
def execBundleSoftError (die i : Nat) (s : State) : Out :=
  .next (match (s.die die).dirs.find? i with
    | some d =>
      let h := d.handle die i
      match List.find? (fun (l : Nat × LineV) => (match l.2.prep with | some (_, k) => k = h | none => false)) s.lines with
      | some (line, v) =>
        if d.st = .committed then
          lineError ((s.setLine line { v with vlost := some d.stamp, prep := none }).modDie die fun x =>
            { x with dirs := x.dirs.adjust i fun d => { d with wait := d.wait.filter (· ≠ line) } }) d line
        else if d.st ≠ .open_ && d.st ≠ .preparing then s
        else
          let s1 := abandon s h
          let s2 := match d.st, s1.ops.find? d.op with
            | .preparing, some op => landReply (setErr s1 op.gid 4) d.op op [.s (match op.kind with | .bclose _ r => r | _ => 0) 0]
            | _, _ => s1
          abandonLog (lineError s2 d line) d.ctx h 1
      | none =>
        match List.find? (fun (l : Nat × LineV) => (match l.2.prev with | some (_, _, r) => r = some h | none => false)) s.lines with
        | some (line, v) => s.setLine line { v with prev := none, vlost := v.prev.map fun q => q.2.1 }
        | none => s
    | none => s)

/-- A bfetch of the group is in flight: its read set is not what it will be (R300, R307). -/
def fetching (s : State) (gid : Nat) : Bool :=
  s.ops.any fun o => o.2.gid = gid && (match o.2.kind with | .bfetch _ _ _ => true | _ => false)

/-- What reads or changes the read set waits for the group's bfetch: Table BND.6 lets no later bld or bchk see an entry that the
bfetch before it replaces (R300, R307; DEDUCED, log 102). -/
def afterFetch (k : State → State) (s : State) : State := if fetching s s.iss.gid then waitOn .fetch s else k s

/-- BLD (R305): a line of the set is served from its copy; the others are read whole from their homes, in their
current versions, and the core's L1 holds nothing older of them afterwards (R267). The data land with a reply. -/
def execBld (a b : Nat) (s : State) : Out :=
  gated { acc := { pred := true }, rd := vR [a] ++ sR [b], wr := vR [a] } s fun g p => afterFetch fun s1 =>
    let lanes := (actLanes s g p).map fun l => (l, (rS g b + rV g a l).toNat)
    match lanes.findSome? fun l =>
        if badVa l.2 then some (Cause.perm, l.2) else if l.2 % 8 ≠ 0 then some (Cause.align, l.2) else none with
    | some (c, x) => trapAt c x s1
    | none =>
      translate g p (lanes.map Prod.snd) Need.read (fun pas => inOrder g false false (pas.map fun pa => (lineOf pa, 128)) fun s3 =>
        let las := List.zip lanes pas
        let own (q : (Nat × Nat) × Nat) : Bool :=
          (match openBundle s3 g with | some (_, d) => inRanges d q.1.2 | none => false) ||
          (match (s3.line (lineOf q.2)).prep with
            | some (_, h) => ownPrep s3 s.iss.gid (lineOf q.2) && handleSt s3 h = .preparing
            | none => false)
        let gr := (s3.group? s.iss.gid).getD g
        let new := ((las.map fun q => (lineOf q.2, lineOf q.1.2)).filter fun l =>
          !gr.readset.any fun e => e.line = l.1).foldl (fun m l => if m.any fun x => x.1 = l.1 then m else m ++ [l]) []
        if las.any own then trapBundle 7 s3
        else if 16 < gr.readset.length + new.length then trapBundle 6 s3
        else if las.isEmpty then advance s3
        else
          let s4 := new.foldl (fun s l =>
            l1Fill (readSeen g.ctx l.1 128 (if ownPrep s s.iss.gid l.1 then installLine s l.1 else s)) g.place.core g.ctx l.1 false) s3
          let entry (l : Nat × Nat) : RSEntry :=
            { line := l.1, va := l.2, cells := lineCells s4 l.1, stamp := (s4.line l.1).stamp, ref := (s4.line l.1).ref, lost := false }
          let rs := gr.readset ++ new.map entry
          let res (pa : Nat) : Nat :=
            match rs.find? fun e => e.line = lineOf pa with
            | some e => ofBytesLE ((List.range 8).map fun i => e.cells.get 0 (pa + i))
            | none => 0
          advance ((s4.modG fun g => { g with readset := rs }).addOp
            { gid := s.iss.gid, slot := s.iss.slot, ctx := g.ctx, core := g.place.core, perf := true, lost := 0, born := s.clocks.nets,
              kind := .mem { k := .load, n := 8, ord := 0, scp := 0, dst := .vec a, bundle := none, cls := 4
                             lanes := las.map fun q => { lane := q.1.1, va := q.1.2 % 2 ^ 57, pa := q.2, x := 0, c := 0, bun := false,
                                                         done := true, res := res q.2 } } })) s1

/-- The lines of the ranges of the bundle a reference names; none where it has drained (R298). -/
def refLines (s : State) (h : Handle) : Option (List Nat) :=
  match (s.die h.die).dirs.find? h.idx with
  | some d => if d.gen = h.gen && dirView s h.die h.idx d ≠ .drained then some d.lines else none
  | none => none

/-- Entries whose bundle has drained marked LOST (R298). -/
def markLost (s : State) (rs : List RSEntry) : List RSEntry :=
  rs.map fun e => match e.ref with
    | some h => if (refLines s h).isNone then { e with lost := true } else e
    | none => e

/-- The target of an entry (R298). -/
def target (s : State) (rs : List RSEntry) (e : RSEntry) : Nat :=
  rs.foldl (fun t x => match x.ref.bind (refLines s) with
    | some ls => if ls.contains e.line then max t x.stamp else t
    | none => t) e.stamp

/-- Fractured entries, as a mask (R298). -/
def fractured (s : State) (rs : List RSEntry) : Nat :=
  packN 1 (rs.map fun e => if e.stamp < target s rs e then 1 else 0)

/-- BCHK (R301, R306). -/
def execBchk (a k : Nat) (s : State) : Out :=
  gated { acc := acc0, wr := sR [a] } s fun g _ => afterFetch fun s1 =>
    if k = 1 then advance ((s1.modG fun g => { g with readset := [] }).wS a 0)
    else
      let rs := markLost s g.readset
      let fr := fractured s rs
      let lost := rs.any RSEntry.lost
      let s2 := (s1.modG fun g => { g with readset := rs }).wS a
        (BitVec.ofNat 64 ((if lost then 2 ^ 63 else 0) + (2 ^ rs.length - 1) * 2 ^ 16 + fr))
      advance (if fr = 0 && !lost then l1Drop s2 g.place.core g.ctx else s2)

/-- BFETCH (R307): the fractured entries named are fetched at their targets; the result counts the entries that become LOST
on the way. -/
def execBfetch (a b : Nat) (s : State) : Out :=
  gated { acc := acc0, rd := sR [b], wr := sR [a] } s fun g _ => afterFetch fun s1 =>
    let rs := markLost s g.readset
    let want := (List.range rs.length).filterMap fun j =>
      match rs[j]? with
      | some e => if fld (rS g b).toNat j 1 = 1 && e.stamp < target s rs e then some (j, target s rs e) else none
      | none => none
    let s2 := s1.modG fun g => { g with readset := rs }
    let gone := packN 1 ((List.zip g.readset rs).map fun e => if e.2.lost && !e.1.lost then 1 else 0)
    if want.isEmpty then advance (s2.wS a (BitVec.ofNat 64 gone))
    else
      advance (s2.addOp { gid := s.iss.gid, slot := s.iss.slot, ctx := g.ctx, core := g.place.core, perf := false, lost := 0,
                          born := s.clocks.nets, kind := .bfetch a want gone })

/-- The retained version with the lowest stamp that is at least `t` (R299): cells, stamp, reference; a committed preparing one is
installed first where the target is at least its stamp (R294, R374). None where a soft error has lost the version that would
answer (R309). -/
def retained (s : State) (line t : Nat) : State × Option (SMap Byte × Nat × Option Handle) :=
  let learns : Bool :=
    match (s.line line).prep with
    | some (_, h) =>
      (match (s.die h.die).dirs.find? h.idx with
        | some d => d.gen = h.gen && d.st = .committed && d.stamp ≤ t
        | none => false)
    | none => false
  let s1 := if learns then installLine s line else s
  let v := s1.line line
  let cands := (v.prev.toList ++ [(lineCells s1 line, v.stamp, v.ref)]).filter fun q => t ≤ q.2.1
  (s1, match cands with
    | [] => none
    | x :: r =>
      let b := r.foldl (fun m q => if q.2.1 < m.2.1 then q else m) x
      if v.vlost.any fun p => t ≤ p && p < b.2.1 then none else some b)

/-- One fetch of a bfetch ends: the last one lands the mask of entries that became LOST (R307). -/
def fetchEnd (s : State) (o e : Nat) (lost : Bool) : State :=
  match s.ops.find? o with
  | some op =>
    match op.kind with
    | .bfetch reg todo l =>
      let l1 := if lost then l ||| 2 ^ e else l
      let left := todo.filter fun q => q.1 ≠ e
      if left.isEmpty then landReply s o op [.s reg (BitVec.ofNat 64 l1)]
      else s.modOp o fun p => { p with kind := .bfetch reg left l1 }
    | _ => s
  | none => s

/-- The read-set entry `e` of a group changed. -/
def modEntry (s : State) (gid e : Nat) (f : RSEntry → RSEntry) : State :=
  s.modGroup gid fun g => { g with readset := g.readset.modify e f }

/-- VERSION_FETCH (R299, R307, R309): entry `e` of a bfetch; a translation that faults waits in the fault buffer. -/
def execVersionFetch (o e : Nat) (s : State) : Out :=
  .next (match s.ops.find? o with
    | some op =>
      match op.kind with
      | .bfetch _ todo _ =>
        (match todo.find? fun q => q.1 = e, ((s.group? op.gid).bind fun g => g.readset[e]?) with
          | some (_, t), some x =>
            if op.lost ≠ 0 || enRoute s o || linkWaits s x.line || !forked s o op then s
            else
              let lose (s : State) : State := fetchEnd (modEntry s op.gid e fun x => { x with lost := true }) o e true
              (match bgXlate s op.core op.ctx x.va Need.read false with
                | (s1, .perm) => lose s1
                | (s1, .fault k) => bgFault s1 op.core op.ctx x.va k Need.read false (.op o)
                | (s1, .wait) => s1
                | (s1, .key pa) =>
                  if pa ≠ x.line then lose s1
                  else match retained s1 x.line t with
                    | (s2, none) => lose s2
                    | (s2, some (cells, st, ref)) =>
                      fetchEnd (modEntry (l1Fill (readSeen op.ctx x.line 128 s2) op.core op.ctx x.line false) op.gid e fun x => { x with cells := cells, stamp := st, ref := ref }) o e false)
          | some _, none => fetchEnd s o e false
          | none, _ => s)
      | _ => s
    | none => s)

/-- The directory entry that a register names, for its own context; none where it is stale or foreign (R308). -/
def dirNamed (s : State) (c : Nat) (x : W64) : Option (Nat × Nat × Dir) :=
  let i := fld x.toNat 0 10
  let die := fld x.toNat 10 2
  match (s.die die).dirs.find? i with
  | some d => if (d.handle die i).bits = x && d.ctx = c then some (die, i, d) else none
  | none => none

/-- State codes (Table BND.1). -/
def BSt.code : BSt → Nat
  | .open_ => 0 | .preparing => 1 | .committed => 2 | .superseded => 3 | .drained => 4

/-- BSTAT (R308). -/
def execBstat (a b k : Nat) (s : State) : Out :=
  gated { acc := acc0, rd := if k = 3 then [] else sR [b], wr := sR [a] } s fun g _ => (if k = 2 then afterFetch else id) fun s1 =>
    let x := rS g b
    let r : Nat :=
      match k with
      | 0 => match dirNamed s g.ctx x with
        | some (die, i, d) => (dirView s die i d).code
        | none => 4
      | 1 => match dirNamed s g.ctx x with
        | some (die, i, d) => if dirView s die i d = .drained then 0 else d.stamp
        | none => 0
      | 2 => ((g.readset[fld x.toNat 0 4]?).map RSEntry.stamp).getD 0
      | _ => g.bReason
    advance (s1.wS a (BitVec.ofNat 64 r))

end Sys2Proof.Machine
end

