-- ==== Sys2Proof/Machine/Control.lean ====
section
/-! DEFINITION. Branches, the vector branch, reconvergence, allon, regroup, nop, yield, exit and hint (chapters 04,
06 and 15). -/

namespace Sys2Proof.Machine

/-- A transfer of control to `t` after the checks of R87; `w` is the link write. -/
def jump (t : W64) (w : State → State) (s : State) : State :=
  match badTarget t with
  | some c => trapAt c t.toNat s
  | none => goTo t (w s)

/-- Acceptance of the relative branches (R62, R84). -/
def accJ : Acc := { imms := 1 }

/-- BR (R84). -/
def execBr (o : Nat) (s : State) : Out := gated { acc := accJ } s fun _ _ => jump (relTarget s 26 o) id

/-- CALL (R84). -/
def execCall (o : Nat) (s : State) : Out :=
  gated { acc := accJ, wr := sR [127] } s fun _ _ => jump (relTarget s 26 o) fun s => s.wS 127 (s.iss.at_ + 4)

/-- The conditions of bc (R85). -/
def condOf (c : Nat) (x : W64) : Bool :=
  match c with
  | 0 => x = 0
  | 1 => x ≠ 0
  | 2 => x.toInt < 0
  | 3 => 0 ≤ x.toInt
  | 4 => 0 < x.toInt
  | 5 => x.toInt ≤ 0
  | 6 => x.toNat % 2 = 1
  | _ => x.toNat % 2 = 0

/-- BC (R84, R85): a condition that fails checks nothing (R87). -/
def execBc (a c o : Nat) (s : State) : Out :=
  gated { acc := accJ, rd := sR [a] } s fun g _ =>
    if condOf c (rS g a) then jump (relTarget s 16 o) id else advance

/-- RET (R86). -/
def execRet (a : Nat) (s : State) : Out := gated { acc := acc0, rd := sR [a] } s fun g _ => jump (rS g a) id

/-- BRX (R86). -/
def execBrx (a : Nat) (s : State) : Out := gated { acc := acc0, rd := sR [a] } s fun g _ => jump (rS g a) id

/-- CALLX (R86): the target is read before the link is written. -/
def execCallx (d a : Nat) (s : State) : Out :=
  gated { acc := acc0, rd := sR [a], wr := sR [d] } s fun g _ => jump (rS g a) fun s => s.wS d (s.iss.at_ + 4)

/-- The accesses that a path has issued stand before those of a path that divides from it (R264). -/
def dividedOps (s : State) (gid slot new : Nat) : State :=
  { s with ops := s.ops.mapV fun _ o => if o.of gid slot then { o with also := o.also ++ [(gid, new)] } else o }

/-- R227: a path divides with token `c`; the lanes of `tk` branch to `t`, the others fall through. The path that begins inside the code of
an inlined frame counts as inside it (R91) to its end, also after the frame's fend by the path that joined it: R91 does not say
(DESIGN CHOICE, log 104). -/
def divide (c : Nat) (t : W64) (tk nt : W32) (g : Group) (p : Path) (s : State) : State :=
  let slot := s.iss.slot
  let next := s.iss.next
  let inl := p.inl || p.frames.any fun f => f.st = .inlined
  if slot = 0 ∧ (g.paths.find? 1).isNone then
    (dividedOps s s.iss.gid slot 1).modG fun g =>
      { g with
        divTok := c, fdepth := p.frames.length
        paths := (g.paths.adjust 0 fun q => { q.fresh with mask := nt, pc := next, rep := 0 }).put 1
          (Path.start t tk c 0 (p.stepReq ≠ 0) inl) }
  else
    let brMin := popN 32 tk.toNat ≤ popN 32 nt.toNat
    let (minM, minPc, majM, majPc) := if brMin then (tk, t, nt, next) else (nt, next, tk, t)
    match freeSplit s g.place.core with
    | some i =>
      (dividedOps s s.iss.gid slot (i + 2)).modG fun g =>
        { g with
          paths := (g.paths.adjust slot fun q => { q.fresh with mask := majM, pc := majPc, rep := 0 }).put (i + 2)
            (Path.start minPc minM c slot (p.stepReq ≠ 0) inl) }
    | none =>
      if 16 ≤ g.rstack.length then trapAt .divdeep 0 s
      else
        s.modG fun g =>
          let e : REntry := { dpc := minPc, owner := slot, fdepth := p.frames.length, phase := false, tok := c, dmask := minM }
          { g with
            rstack := g.rstack ++ [e]
            paths := g.paths.adjust slot fun q => { q.fresh with mask := majM, pc := majPc, rep := 0, nent := q.nent + 1 } }

/-- VBR (R226). -/
def execVbr (a c o : Nat) (s : State) : Out :=
  gated { acc := accJ, rd := mR [a] } s fun g p s1 =>
    let tk := p.mask &&& rM s g p a
    let nt := p.mask &&& ~~~rM s g p a
    let t := relTarget s 16 o
    if p.saved.isSome then trapAt .illop 0 s1
    else if tk = 0 then advance s1
    else match badTarget t with
      | some x => trapAt x t.toNat s1
      | none => if nt = 0 then goTo t s1 else divide c t tk nt g p s1

/-- The topmost on-chip entry that a path owns: its index (R229, R230). -/
def topEntry (g : Group) (slot : Nat) : Option Nat :=
  ((List.range g.rstack.length).reverse).find? fun i => (g.rstack[i]?.map REntry.owner) = some slot

/-- R230 on the topmost owned entry `e`, the `i`-th. -/
def rcvEntry (i : Nat) (e : REntry) (p : Path) (s : State) : State :=
  let x := s.iss.addr
  if e.fdepth < p.frames.length then trapAt .framejoin 0 s
  else if !e.phase then
    s.modG fun g =>
      { g with
        rstack := g.rstack.set i { e with dmask := p.mask, dpc := x, phase := true }
        paths := g.paths.adjust s.iss.slot fun q => { q.fresh with mask := e.dmask, pc := e.dpc, rep := 0 } }
  else
    groupFence (s.modG fun g =>
      { g with
        rstack := g.rstack.eraseIdx i
        paths := g.paths.adjust s.iss.slot fun q =>
          { q.fresh with mask := p.mask ||| e.dmask, nent := q.nent - 1, pc := s.iss.next, rep := 0 } }) s.iss.gid

/-- RCV (R230 to R232). -/
def execRcv (c : Nat) (s : State) : Out :=
  gated { acc := acc0 } s fun g p s1 =>
    if p.saved.isSome then trapAt .illop 0 s1
    else
      let e := (topEntry g s.iss.slot).bind fun i => g.rstack[i]?.map fun e => (i, e)
      match e with
      | none =>
        if 0 < p.nent then trapAt .divrefill 0 s1 else arrive g p s1
      | some (i, e) => if e.tok = c then rcvEntry i e p s1 else arrive g p s1
where
  /-- R231, R232: the path meets the others. -/
  arrive (g : Group) (p : Path) (s : State) : State :=
    let slot := s.iss.slot
    let diverged := (g.paths.find? 0).isSome && (g.paths.find? 1).isSome
    let bad := (2 ≤ slot ∧ p.tok = c ∧ !p.frames.isEmpty) ∨
      (slot = 1 ∧ diverged ∧ g.divTok = c ∧ !p.frames.isEmpty) ∨
      (slot = 0 ∧ diverged ∧ g.divTok = c ∧ g.fdepth < p.frames.length)
    if bad then trapAt .framejoin 0 s
    else recount (meets 200 (waitThen (.rcv c) s.iss.next s) s.iss.gid) g.team

/-- ALLON (R234): every path stands at an instruction boundary, so the wait ends at once. -/
def execAllon (s : State) : Out :=
  gated { acc := acc0 } s fun _ p s1 =>
    if p.saved.isSome then trapAt .illop 0 s1
    else
      groupFence (advance (s1.modG fun g =>
        { g with paths := g.paths.mapV fun k q =>
            if k = s.iss.slot then { q with saved := some q.mask, mask := BitVec.allOnes 32 } else { q with held := true } }))
        s.iss.gid

/-- ALLOFF (R234). -/
def execAlloff (s : State) : Out :=
  gated { acc := acc0 } s fun _ p s1 =>
    match p.saved with
    | none => trapAt .illop 0 s1
    | some m =>
      groupFence (advance (s1.modG fun g =>
        { g with paths := g.paths.mapV fun k q =>
            if k = s.iss.slot then { q with saved := none, mask := m } else { q with held := false } }))
        s.iss.gid

/-- REGROUP (R235, R236). -/
def execRegroup (d a b : Nat) (s : State) : Out :=
  gated { acc := acc0, rd := vR ((List.range (b + 1 - a)).map (· + a)), wr := sR [d] } s fun g p s1 =>
    if p.saved.isSome then trapAt .illop 0 s1
    else
      let x := s.iss.addr
      let s2 : State := { s1 with
        teams := s1.teams.adjust g.team fun t =>
          if t.regroups.contains (x, s.iss.gid) then t else { t with regroups := t.regroups ++ [(x, s.iss.gid)] } }
      let fit := g.converged && p.frames.isEmpty && popN 32 g.live.toNat ≤ 16 && g.team ≠ 0
      regroupAll (if fit then waitThen (.regroup d a b) s.iss.next s2 else advance (s2.wS d 0)) g.team

/-- The issuing group gives way: its paths go behind every other of the partition, and the next turn is another group's, where one
is ready (R58, R89). -/
def giveWay (s : State) (g : Group) : State :=
  s.modPart g.place.partIx fun q =>
    { q with
      gw := s.iss.gid
      rr := q.rr.filter (·.1 ≠ s.iss.gid) ++ ((g.paths.map fun p => (s.iss.gid, p.1)).filter (· ≠ (s.iss.gid, s.iss.slot))) ++
        [(s.iss.gid, s.iss.slot)] }

/-- YIELD (R89). -/
def execYield (s : State) : Out := gated { acc := acc0 } s fun g _ s1 => advance (giveWay s1 g)

/-- NOP (R89). -/
def execNop (s : State) : Out := gated { acc := acc0 } s fun _ _ => advance

/-- HINT (R58, R238): every path of the group keeps the gap. -/
def execHint (w n : Nat) (s : State) : Out :=
  gated { acc := acc0 } s fun g _ s1 =>
    let s2 := s1.modG fun x => { x with paths := x.paths.mapV fun _ q => { q with gap := max q.gap n } }
    advance (if w = 1 then giveWay s2 g else s2)

/-- R376: the exit of a path that owns stack entries; `i` and `e` are its topmost. -/
def exitEntry (i : Nat) (e : REntry) (p : Path) (s : State) : State :=
  s.modG fun g =>
    { g with
      live := g.live &&& ~~~p.mask
      rstack := if e.phase then g.rstack.eraseIdx i else g.rstack.set i { e with dmask := 0, phase := true }
      paths := g.paths.adjust s.iss.slot fun q =>
        { q.fresh with
          mask := e.dmask, rep := 0
          pc := if e.phase then e.dpc + 4 else e.dpc
          nent := if e.phase then q.nent - 1 else q.nent } }

/-- EXIT (R90, R91, R376). Inside an allon region a path that also holds an unjoined frame takes ILLOP: R234 and R91 state
no order (DESIGN CHOICE, log 46). -/
def execExit (s : State) : Out :=
  gated { acc := acc0, who := .notHandler } s fun g p s1 =>
    let spawned := match g.kind with | .spawned _ => true | _ => false
    if p.saved.isSome then trapAt .illop 0 s1
    else if !p.frames.isEmpty || spawned || p.inl then trapAt .framejoin 0 s1
    else if 0 < p.nent then
      match (topEntry g s.iss.slot).bind fun i => g.rstack[i]?.map fun e => (i, e) with
      | none => trapAt .divrefill 0 s1
      | some (i, e) => recount (exitEntry i e p s1) g.team
    else endPath s1 s.iss.gid s.iss.slot

end Sys2Proof.Machine
end

