-- ==== Sys2Proof/Machine/Kq.lean ====
section
/-! DEFINITION. Kernel queues: anchors, records, completions, doorbells (R200 to R204, R209, R210). -/

namespace Sys2Proof.Machine

/-- The key of an address of a queue: physical near memory for a host queue (log 20), else the context's. -/
def qKey (s : State) (q : KQueue) (va : Nat) (n : Need) : Option Nat :=
  if q.ctx = 0 then some (locKey 0 va) else (walkNow s q.ctx (va % 2 ^ 57) n).2

/-- A value of a queue's memory. -/
def qRd (s : State) (q : KQueue) (va n : Nat) : Option Nat := (qKey s q va Need.read).map fun k => s.rd k n

/-- Bytes written to a queue's memory; nothing where the address is not reachable. -/
def qWr (s : State) (q : KQueue) (va : Nat) (bs : List Byte) : State :=
  if q.ctx = 0 then homeWrite s none (locKey 0 va) bs
  else match walkNow s q.ctx (va % 2 ^ 57) Need.write with
    | (s1, some k) => homeWrite s1 none k bs
    | (s1, none) => s1

/-- The completion ring has room: CQSEQ − CQACK < CQSIZE (R201). -/
def qRoom (s : State) (q : KQueue) : Bool :=
  match qRd s q (q.anchor + 0x18) 4, qRd s q (q.anchor + 0x38) 8 with
  | some size, some ack => q.cqSeq - ack < size
  | _, _ => false

/-- The record and the ring of a completion are reachable for writing. -/
def qCan (s : State) (q : KQueue) : Bool :=
  match qRd s q (q.anchor + 0x10) 8, qRd s q (q.anchor + 0x18) 4 with
  | some base, some size =>
    (qKey s q (base + 32 * ((q.cqSeq + 1) % size)) Need.write).isSome && (qKey s q (q.anchor + 0x30) Need.write).isSome
  | _, _ => false

/-- The queue changed. -/
def State.modQ (s : State) (i : Nat) (f : KQueue → KQueue) : State := { s with queues := s.queues.adjust i f }

/-- Completions written while the ring has room: the record, then CQSEQ (R200, R201). -/
def qFlush : Nat → Nat → State → State
  | 0, _, s => s
  | fuel + 1, i, s =>
    match s.queues.find? i with
    | none => s
    | some q =>
      match q.pend with
      | [] => s
      | (seq, st, res) :: t =>
        if !qRoom s q || !qCan s q then s
        else
          let n := q.cqSeq + 1
          let base := (qRd s q (q.anchor + 0x10) 8).getD 0
          let size := (qRd s q (q.anchor + 0x18) 4).getD 1
          let s1 := qWr s q (base + 32 * (n % size)) (bytesLE 8 n ++ bytesLE 8 seq ++ bytesLE 4 st ++ bytesLE 4 0 ++ bytesLE 8 res)
          let s2 := qWr s1 q (q.anchor + 0x30) (bytesLE 8 n)
          qFlush fuel i (s2.modQ i fun q => { q with cqSeq := n, pend := t })

/-- A running queue whose ring is full is stalled (Table QUE.3). -/
def qStall (i : Nat) (s : State) : State :=
  match s.queues.find? i with
  | some q => if q.st = .running && (!q.pend.isEmpty || !qRoom s q) then s.modQ i fun q => { q with st := .stalled } else s
  | none => s

/-- A COMPLETION of queue `i` (R200, R209). -/
def complete (i seq st res : Nat) (s : State) : State :=
  let s1 := s.modQ i fun q => { q with pend := q.pend ++ [(seq, st, res)] }
  qStall i (qFlush ((s1.queues.find? i).elim 0 fun q => q.pend.length) i s1)

/-- A DOORBELL of queue `i` (R201, R203, R205). -/
def ring (i : Nat) (s : State) : State :=
  let s1 := qFlush ((s.queues.find? i).elim 0 fun q => q.pend.length) i s
  match s1.queues.find? i with
  | none => s1
  | some q =>
    let more : Bool := ((qRd s1 q (q.anchor + 8) 8).map fun t => decide (q.doneSeq < t)).getD false
    match q.st with
    | .idle => if more then qStall i (s1.modQ i fun q => { q with st := .running }) else s1
    | .stalled => if q.pend.isEmpty && qRoom s1 q then s1.modQ i fun q => { q with st := (if more then QSt.running else QSt.idle) } else s1
    | _ => s1

/-- The record that queue `i` reads next, none while its completion ring is full (R201): SEQ, its address, OP, FLAGS, the four bytes after FLAGS and ARGS. -/
def qNext (s : State) (i : Nat) : Option (Cmd × Nat) :=
  match s.queues.find? i with
  | none => none
  | some q =>
    if q.st ≠ .running || q.busy.isSome || !q.pend.isEmpty || !qRoom s q then none
    else
      match qRd s q (q.anchor + 8) 8, qRd s q (q.donePtr + 8) 8 with
      | some tail, some ptr =>
        if tail ≤ q.doneSeq || ptr = 0 then none
        else match qKey s q ptr Need.read with
          | none => none
          | some k => some ({ q := i, seq := s.rd k 8, ptr := ptr, op := s.rd (k + 16) 2, flags := s.rd (k + 18) 2,
                              args := (List.range 12).map fun j => s.rd (k + 32 + 8 * j) 8 }, s.rd (k + 20) 4)
      | _, _ => none

/-- SERIAL launches of a queue wait for its earlier launches (R209). -/
def serialWaits (s : State) (c : Cmd) : Bool :=
  c.op = 12 && c.flags % 2 = 1 && s.kernels.any fun k => k.2.q = c.q && k.2.st ≠ .done

/-- The command is due: its queue reads exactly this record next, in sequence. -/
def cmdDue (s : State) (c : Cmd) : Bool :=
  match qNext s c.q, s.queues.find? c.q with
  | some (x, _), some q => x = c && c.seq = q.doneSeq + 1 && !serialWaits s c
  | _, _ => false

/-- Bytes of ARGS that each command names (Table KRN.1). -/
def namedBytes (op : Nat) : Nat :=
  [0, 32, 24, 32, 48, 16, 40, 40, 8, 8, 16, 8, 16, 24, 32, 24, 16, 16, 24, 16, 16, 16, 16, 24, 28].getD op 0

/-- ARGS bytes and FLAGS bits that the command does not define are zero (R209). -/
def cmdForm (s : State) (c : Cmd) : Bool :=
  let raw := c.args.flatMap (bytesLE 8)
  1 ≤ c.op && c.op ≤ 24 && (raw.drop (namedBytes c.op)).all (· = 0) &&
    c.flags ≤ (if c.op = 7 || c.op = 12 then 1 else 0) &&
    (match qNext s c.q with | some (_, z) => z = 0 | none => true)

/-- The n-th 8-byte word of ARGS. -/
def arg (c : Cmd) (n : Nat) : Nat := c.args.getD n 0

/-- The registered queues of a context, in registration order: the index of a queue is its place (R213, R360). -/
def queuesOf (s : State) (ctx : Nat) : List Nat := (s.queues.filter fun (q : Nat × KQueue) => q.2.ctx = ctx).map Prod.fst

/-- An anchor as a queue of a context holds it: 57 bits of a virtual address, or a physical one for a host queue. -/
def anchorOf (ctx a : Nat) : Nat := if ctx = 0 then a else a % 2 ^ 57

/-- What the queue may name (R210): every command for a host queue; for a queue of context c, LAUNCH of c and
RESYNC of an anchor of c. -/
def cmdAllowed (s : State) (c : Cmd) : Bool :=
  match s.queues.find? c.q with
  | none => false
  | some q => q.ctx = 0 || (c.op = 12 && arg c 0 = q.ctx) ||
      (c.op = 13 && s.queues.any fun x => x.2.ctx = q.ctx && x.2.anchor = anchorOf q.ctx (arg c 0))

/-- A record consumed: DONESEQ and DONEPTR as one unit (R201); with the last one the queue is idle. -/
def consume (c : Cmd) (s : State) : State :=
  match s.queues.find? c.q with
  | none => s
  | some q =>
    let s1 := (qWr s q (q.anchor + 0x20) (bytesLE 8 c.seq ++ bytesLE 8 c.ptr)).modQ c.q fun q => { q with doneSeq := c.seq, donePtr := c.ptr }
    match qRd s1 q (q.anchor + 8) 8 with
    | some t => if t ≤ c.seq then s1.modQ c.q fun q => { q with st := .idle } else s1
    | none => s1

/-- Completion status codes (Table QUE.2). -/
def sOK : Nat := 0
def sBADSTATE : Nat := 1
def sNONET : Nat := 2
def sUNATTESTED : Nat := 3
def sBADSEQ : Nat := 4
def sBADCMD : Nat := 5

/-- How a command goes on: it completes now, completes later, or completes with its kernel. -/
inductive CmdRes where
  | done (st res : Nat) (s : State)
  | busy (s : State)
  | later (s : State)

/-- A COMMAND (R202, R209, R210): consumed when it is due and has operation `op`; ill-formed or not accepted from its
queue it completes with BADCMD; `k` is its effect. -/
def runCmd (op : Nat) (c : Cmd) (s : State) (k : State → CmdRes) : Out :=
  .next (if c.op ≠ op || !cmdDue s c then s
    else
      let s1 := consume c s
      if !cmdForm s c || !cmdAllowed s c then complete c.q c.seq sBADCMD 0 s1
      else match k s1 with
        | .done st res s2 => complete c.q c.seq st res s2
        | .busy s2 => s2.modQ c.q fun q => { q with busy := some c }
        | .later s2 => s2)

/-- A command in progress has had its effect. -/
def finishCmd (i st res : Nat) (s : State) : State :=
  match (s.queues.find? i).bind KQueue.busy with
  | some c => complete i c.seq st res (s.modQ i fun q => { q with busy := none })
  | none => s

/-- The commands in progress for which `f` holds have had their effect. -/
def finishAll (f : Cmd → Bool) (st res : Nat) (s : State) : State :=
  s.queues.foldl (fun s q => match q.2.busy with
    | some c => if f c then finishCmd q.1 st res s else s
    | none => s) s

/-- BADCMD (R209): an OP outside Table KRN.1. -/
def execBadcmd (c : Cmd) (s : State) : Out :=
  .next (if !cmdDue s c || (1 ≤ c.op && c.op ≤ 24) then s else complete c.q c.seq sBADCMD 0 (consume c s))

/-- BADSEQ (R202): nothing is consumed, and the queue stops. -/
def execBadseq (i : Nat) (s : State) : Out :=
  .next (match qNext s i, s.queues.find? i with
    | some (c, _), some q =>
      if c.seq = q.doneSeq + 1 then s
      else (complete i c.seq sBADSEQ (q.doneSeq + 1) s).modQ i fun q => { q with st := .stopped }
    | _, _ => s)

/-- DOORBELL (R360): bits 15:0 name a host queue by its place. -/
def execDoorbell (v : Nat) (s : State) : Out :=
  .next (match (queuesOf s 0)[v % 2 ^ 16]? with
    | some i => if s.boot = .ready then ring i s else s
    | none => if s.boot ≠ .failed && s.power.st ≠ .off then postEvent s 8 0 [(2, v % 2 ^ 16)] else s)

end Sys2Proof.Machine
end

