-- ==== Sys2Proof/Machine/Frame.lean ====
section
/-! DEFINITION. Frames: records, claims, spills, fork, join, fend, the heartbeat and promotion (chapter 16). -/

namespace Sys2Proof.Machine

/-- Codes of the frame states (Table FRM.3). -/
def FrameSt.code : FrameSt → Nat
  | .joined => 0 | .latent => 1 | .promoting => 2 | .promoted => 3 | .running => 4 | .done => 5 | .inlined => 6 | .reserved => 7

/-- The address of record `r` (R240). -/
def recAddr (g : Group) (r : Nat) : Nat := (g.frbase.toNat + 1152 * r) % 2 ^ 64

/-- The header word (Table FRM.2). -/
def Frame.hdr (f : Frame) (st : FrameSt) : Nat :=
  f.sa * 2 ^ 25 + f.vb * 2 ^ 18 + f.nv * 2 ^ 15 + f.ns * 2 ^ 11 + st.code

/-- A frame's record of 1,152 bytes (Table FRM.1). -/
def Frame.bytes (f : Frame) (st : FrameSt) (fpflags parent : Nat) : List Byte :=
  (([f.hdr st, f.target.toNat, f.mask.toNat, f.fpmode.toNat, fpflags, f.ret.toNat, f.smask.toNat, parent].flatMap (bytesLE 8)) ++
    ((List.range 8).flatMap fun i => bytesLE 8 (if i < f.ns then (f.sargs.getD i 0).toNat else 0))) ++
    (List.range 128).flatMap fun i => bytesLE 8 (if i / 32 < f.nv then (f.vargs.get 0 i).toNat else 0)

/-- PARENT of a frame (Table FRM.1). -/
def parentWord (s : State) (g : Group) (slot : Nat) : Nat := g.place.core * 2 ^ 16 + pgroup s g * 2 ^ 8 + slot % 128

/-- The physical keys of a record's first byte and, where a page begins inside it, of that page. -/
inductive RecX where
  | keys (k1 k2 : Nat)
  | perm
  | fault (va kind : Nat)
  | wait (va : Nat)
  deriving DecidableEq, Repr

/-- A record translated (R242). -/
def recXlate (s : State) (core c va : Nat) (n : Need) : State × RecX :=
  match bgXlate s core c va n false with
  | (s1, .perm) => (s1, .perm)
  | (s1, .fault k) => (s1, .fault va k)
  | (s1, .wait) => (s1, .wait va)
  | (s1, .key k1) =>
    let v2 := (va + 1151) % 2 ^ 64 / 4096 * 4096
    if pageOf v2 = pageOf va then (s1, .keys k1 0)
    else match bgXlate s1 core c v2 n false with
      | (s2, .perm) => (s2, .perm)
      | (s2, .fault k) => (s2, .fault v2 k)
      | (s2, .wait) => (s2, .wait v2)
      | (s2, .key k2) => (s2, .keys k1 k2)

/-- The key of byte `i` of a record. -/
def recKey (va k1 k2 i : Nat) : Nat :=
  if va % 4096 + i < 4096 then k1 + i else k2 + (va % 4096 + i - 4096)

/-- Bytes of a record from offset `i` on written at their homes. -/
def recPut (s : State) (core va k1 k2 i : Nat) (bs : List Byte) : State :=
  let n := 4096 - va % 4096 - i
  if n = 0 || 4096 ≤ va % 4096 + i then homeWrite s (some core) (recKey va k1 k2 i) bs
  else
    let s1 := homeWrite s (some core) (recKey va k1 k2 i) (bs.take n)
    if (bs.drop n).isEmpty then s1 else homeWrite s1 (some core) (recKey va k1 k2 (i + n)) (bs.drop n)

/-- `n` bytes of a record from offset `i` on, as an integer. -/
def recGet (s : State) (va k1 k2 i n : Nat) : Nat :=
  ofBytesLE ((List.range n).map fun j => s.byte (recKey va k1 k2 (i + j)))

/-- A frame read back from its record, with its FPFLAGS: what the record holds in bits that Tables FRM.1, FRM.2, NUM.7 and
NUM.8 leave no meaning is not taken. -/
def recRead (s : State) (f : Frame) (k1 k2 : Nat) : Frame × Nat :=
  let w (i : Nat) : Nat := recGet s f.addr k1 k2 i 8
  let h := w 0
  ({ f with
      target := BitVec.ofNat 64 (w 8), mask := BitVec.ofNat 32 (w 16), fpmode := BitVec.ofNat 64 (w 24 % 2 ^ 14)
      ret := BitVec.ofNat 64 (w 40), smask := BitVec.ofNat 32 (w 48)
      nv := min 4 (fld h 15 3), ns := min 8 (fld h 11 4), sa := fld h 25 7, vb := fld h 18 7
      sargs := (List.range 8).map fun i => BitVec.ofNat 64 (w (64 + 8 * i))
      vargs := (List.range 128).foldl (fun m i => SMap.set 0 m i (BitVec.ofNat 64 (w (128 + 8 * i)))) []
      onchip := true }, w 32 % 2 ^ 6)

/-- A change of a frame's state in its record (R243), where the record is reachable. -/
def recState (s : State) (core c va : Nat) (st : FrameSt) : State :=
  match bgNow s core c va Need.write false with
  | (s1, .key k) => homeWrite s1 (some core) k [BitVec.ofNat 8 st.code]
  | (s1, _) => s1

/-- A frame of a path changed, found by its record. -/
def modFrame (s : State) (gid addr : Nat) (f : Frame → Frame) : State :=
  s.modGroup gid fun g =>
    { g with paths := g.paths.mapV fun _ p => { p with frames := p.frames.map fun x => if x.addr = addr then f x else x } }

/-- The outcome of the search for a free record (R240). -/
inductive Find where
  | at_ (r key : Nat)
  | none_
  | fault (va kind : Nat)
  | wait
  deriving DecidableEq, Repr

/-- The first free record from index `r` on, cyclically; `n` records are left to see. -/
def findFree (core c : Nat) (g : Group) : Nat → Nat → State → State × Find
  | 0, _, s => (s, .none_)
  | n + 1, r, s =>
    let i := r % g.nrec
    match bgXlate s core c (recAddr g i) Need.rw false with
    | (s1, .key k) => if s1.rd k 1 = 0 then (s1, .at_ i k) else findFree core c g n (r + 1) s1
    | (s1, .perm) => findFree core c g n (r + 1) s1
    | (s1, .fault k) => (s1, .fault (recAddr g i) k)
    | (s1, .wait) => (s1, .wait)

/-- RECORD_CLAIM (R240): a path with room in its reserve claims the next free record, searching from its last
claimed index (`claimed` less 1), the first time from `start` (log 18). With none free, a fork that waits goes on and traps. -/
def execRecordClaim (gid slot start : Nat) (s : State) : Out :=
  .next (match s.group? gid with
    | none => s
    | some g =>
      match g.paths.find? slot with
      | none => s
      | some p =>
        if !g.resident || 2 ≤ p.reserve.length || g.nrec = 0 then s
        else
          let core := g.place.core
          match findFree core g.ctx g g.nrec (if p.claimed = 0 then start else p.claimed - 1) s with
          | (s1, .at_ r k) =>
            (homeWrite s1 (some core) k [7]).modPathAt gid slot fun p =>
              { p with reserve := p.reserve ++ [recAddr g r], claimed := r + 1 }
          | (s1, .fault va k) => bgFault s1 core g.ctx va k Need.rw false (.claim gid slot)
          | (s1, .none_) => s1
          | (s1, .wait) => s1)

/-- The frames of a path that are on chip (R242). -/
def onChip (p : Path) : List Frame := p.frames.filter Frame.onchip

/-- A spill of the oldest on-chip entry (R242): the new state, or why it does not happen. -/
inductive Spill where
  | ok (s : State)
  | perm (s : State)
  | fault (s : State) (va kind : Nat)
  | wait (s : State) (va : Nat)

/-- The oldest on-chip entry leaves the chip: it is written to its record, which for a promoted frame holds it whole
already, with the results of one that is done (R246, R254). -/
def spillOldest (s : State) (gid slot : Nat) (g : Group) (p : Path) : Spill :=
  match (onChip p).getLast? with
  | none => .ok s
  | some f =>
    let off (s : State) : Spill := .ok (s.modPathAt gid slot fun p =>
      { p with frames := p.frames.map fun x => if x.addr = f.addr then { x with onchip := false, failed := false } else x })
    if f.st = .promoted || f.st = .running || f.st = .done then off s
    else match recXlate s g.place.core g.ctx f.addr Need.write with
    | (s1, .perm) => .perm s1
    | (s1, .fault va k) => .fault s1 va k
    | (s1, .wait va) => .wait s1 va
    | (s1, .keys k1 k2) =>
      off (recPut s1 g.place.core f.addr k1 k2 0 (f.bytes f.st 0 (parentWord s g slot)))

/-- FRAME_SPILL (R242): in the background once three entries are on chip. -/
def execFrameSpill (gid slot : Nat) (s : State) : Out :=
  .next (match s.group? gid with
    | none => s
    | some g =>
      match g.paths.find? slot with
      | none => s
      | some p =>
        if (onChip p).length < 3 then s
        else
          let fail (s : State) : State := s.modPathAt gid slot fun p =>
            match (onChip p).getLast? with
            | some f => { p with frames := p.frames.map fun x => if x.addr = f.addr then { x with failed := true } else x }
            | none => p
          match spillOldest s gid slot g p with
          | .ok s1 => s1
          | .perm s1 => fail s1
          | .fault s1 va k => bgFault s1 g.place.core g.ctx va k Need.write false (.frame gid slot .spill)
          | .wait s1 _ => s1)

/-- The issuing path waits in the fault buffer for a record: parked, or at the blocking point `w`. -/
def recWait (g : Group) (va kind : Nat) (n : Need) (w : Option Wake) (s : State) : State :=
  let core := g.place.core
  if !faultRoom s (dieOf core) then waitOn .faultRoom s
  else
    match w with
    | none => openFault (s.modPath fun p => { p with cond := .parked 1 }) (dieOf core) g.ctx va kind (accByte n false)
        (.path s.iss.gid s.iss.slot)
    | some w => openFault (waitOn w s) (dieOf core) g.ctx va kind (accByte n false) (.frame s.iss.gid s.iss.slot .readBack)

/-- The issuing path parks on the walk of a record's page, where the die runs all the walks that it can (R312). -/
def recPark (g : Group) (va : Nat) (n : Need) (s : State) : State :=
  wantWalk (s.modPath fun p => { p with cond := .parked 1 }) g.place.core g.ctx (pageOf va) n s.iss.gid s.iss.slot

/-- Room for a new entry on chip (R242): with four there, the oldest is spilled first. -/
def withRoom (g : Group) (p : Path) (k : State → State) (s : State) : State :=
  if (onChip p).length < 4 then k s
  else if p.aborted || ((onChip p).getLast?.map Frame.failed).getD false then
    trapAt .framemem 0 (s.modPath fun p => { p with frames := p.frames.map fun x => { x with failed := false } })
  else match spillOldest s s.iss.gid s.iss.slot g p with
    | .ok s1 => k s1
    | .perm s1 => trapAt .framemem 0 s1
    | .fault s1 va kind => recWait g va kind Need.write none s1
    | .wait s1 va => recPark g va Need.write s1

/-- FORK (R252): a release at scope .die, once the accesses before it are performed (R249, R281). -/
def execFork (t a b n : Nat) (s : State) : Out :=
  gated { acc := { pred := true }, rd := sR ((List.range (n + 1)).map (a + ·)) ++ vR ((List.range t).map (b + ·)), wr := sR [a],
          who := .notHandler } s fun g p s1 =>
    let tgt := rS g a
    let mask := act s g p
    if mask = 0 then advance s1
    else match badTarget tgt with
      | some c => trapAt c tgt.toNat s1
      | none =>
        match p.reserve with
        | [] =>
          if p.aborted || g.nrec = 0 then trapAt .framemem 0 s1
          else match findFree g.place.core g.ctx g g.nrec p.claimed s1 with
            | (s2, .none_) => trapAt .framemem 0 s2
            | (s2, _) => waitOn .claim s2
        | r :: rest =>
          inOrder g true true [] (withRoom g p fun s3 =>
            let f : Frame :=
              { addr := r, st := .latent, target := tgt, mask := mask, fpmode := g.fpmode, nv := t, ns := n, sa := a, vb := b,
                ret := 0, smask := 0, sargs := (List.range n).map fun i => rS g (a + 1 + i)
                vargs := (List.range (32 * t)).foldl (fun m i => SMap.set 0 m i (rV g (b + i / 32) (i % 32))) []
                onchip := true, failed := false }
            advance ((s3.modPath fun p => { p with reserve := rest, frames := f :: p.frames }).wS a (BitVec.ofNat 64 r))) s1

/-- The registers that arguments and results use: scalar, then vector (R241). -/
def frameRegs (f : Frame) : List RegN := sR ((List.range f.ns).map (f.sa + 1 + ·)) ++ vR ((List.range f.nv).map (f.vb + ·))

/-- The argument registers written from a frame: vector lanes of MASK only (R253). -/
def argWrites (f : Frame) : List RegW :=
  (((List.range f.ns).filter fun i => f.sa + 1 + i < 128).map fun i => RegW.s (f.sa + 1 + i) (f.sargs.getD i 0)) ++
    ((List.range f.nv).filter fun i => f.vb + i < 128).flatMap fun i => (lanesOf f.mask).map fun l => RegW.v (f.vb + i) l (f.vargs.get 0 (32 * i + l))

/-- The path's newest frame read back where it is spilled, before `k` (R242). -/
def withTop (g : Group) (p : Path) (f : Frame) (k : Frame → State → State) (s : State) : State :=
  if f.onchip then k f s
  else if p.aborted then trapAt .framemem 0 s
  else match recXlate s g.place.core g.ctx f.addr Need.read with
    | (s1, .perm) => trapAt .framemem 0 s1
    | (s1, .fault va kind) => recWait g va kind Need.read (some (.frame f.addr)) s1
    | (s1, .wait va) => recPark g va Need.read s1
    | (s1, .keys k1 k2) =>
      let f1 := (recRead s1 f k1 k2).1
      k f1 (s1.modPath fun p => { p with frames := p.frames.map fun x => if x.addr = f.addr then f1 else x })

/-- The newest frame of the issuing path's registers, for the scoreboard. -/
def topRegs (s : State) : List RegN :=
  match s.path? s.iss.gid s.iss.slot with
  | some p => match p.frames with
    | f :: _ => frameRegs f
    | [] => []
  | none => []

/-- JOIN (R253). -/
def execJoin (a : Nat) (s : State) : Out :=
  gated { acc := acc0, rd := sR [a], wr := topRegs s, who := .notHandler } s fun g p s1 =>
    match p.frames with
    | [] => trapAt .framejoin 0 s1
    | f0 :: _ =>
      if f0.st = .inlined || (rS g a).toNat ≠ f0.addr then trapAt .framejoin 0 s1
      else
        withTop g p f0 (fun f s2 =>
          if f.mask &&& ~~~p.mask ≠ 0 then trapAt .framejoin 0 s2
          else if f.st = .latent then
            let f1 := { f with st := .inlined, ret := s.iss.at_ + 4, smask := p.mask }
            goTo f.target ((s2.modG fun g => g.puts (argWrites f)).modPath fun p =>
              { p with mask := f.mask, frames := f1 :: p.frames.tail })
          else if f.st ≠ .done then waitOn (.join f.addr) s2
          else if p.aborted then trapAt .framemem 0 s2
          else match recXlate s2 g.place.core g.ctx f.addr Need.read with
            | (s3, .perm) => trapAt .framemem 0 s3
            | (s3, .fault va kind) => recWait g va kind Need.read (some (.frame f.addr)) s3
            | (s3, .wait va) => recPark g va Need.read s3
            | (s3, .keys k1 k2) =>
              let r := recRead s3 f k1 k2
              let s4 := s3.modG fun g => { g.puts (argWrites r.1) with fpflags := g.fpflags ||| BitVec.ofNat 64 r.2 }
              let s5 := recState (l1Drop s4 g.place.core g.ctx) g.place.core g.ctx f.addr .joined
              advance (s5.modPath fun p => { p with frames := p.frames.tail })) s1

/-- The argument registers a spawned group returns, for the scoreboard. -/
def spawnRegs (s : State) : List RegN :=
  match (s.group? s.iss.gid).map Group.kind with
  | some (.spawned f) => sR ((List.range f.ns).map (f.sa + 1 + ·)) ++ vR ((List.range f.nv).map (f.vb + ·))
  | _ => []

/-- The results of a promoted frame written to its record, with FPFLAGS, to which the group's arithmetic in flight belongs, and
STATE done; the group retires (R254). -/
def fendSpawned (f : Spawn) (g0 : Group) (p : Path) (s0 : State) : State :=
  let s := landGroup s0 s0.iss.gid
  let g := (s.group? s0.iss.gid).getD g0
  let core := g.place.core
  if p.aborted then trapAt .framemem 0 s
  else match recXlate s core g.ctx f.addr Need.write with
  | (s1, .perm) => trapAt .framemem 0 s1
  | (s1, .fault va kind) => recWait g va kind Need.write none s1
  | (s1, .wait va) => recPark g va Need.write s1
  | (s1, .keys k1 k2) =>
    inOrder g true true [] (fun s2 =>
      let s3 := (List.range f.nv).foldl (fun s i => (lanesOf f.mask).foldl (fun s l =>
        recPut s core f.addr k1 k2 (128 + 256 * i + 8 * l) (bytesLE 8 (rV g (f.vb + i) l).toNat)) s) s2
      let s4 := (List.range f.ns).foldl (fun s i => recPut s core f.addr k1 k2 (64 + 8 * i) (bytesLE 8 (rS g (f.sa + 1 + i)).toNat)) s3
      let s5 := recPut s4 core f.addr k1 k2 32 (bytesLE 8 g.fpflags.toNat)
      let s6 := recPut s5 core f.addr k1 k2 0 [BitVec.ofNat 8 FrameSt.done.code]
      retire (modFrame s6 f.pgid f.addr fun x => { x with st := .done }) s0.iss.gid) s1

/-- FEND (R254): the first row that applies. -/
def execFend (s : State) : Out :=
  gated { acc := acc0, rd := spawnRegs s, who := .notHandler } s fun g p s1 =>
    match p.frames, g.kind with
    | f0 :: _, _ =>
      if f0.st = .inlined then
        withTop g p f0 (fun f s2 =>
          let s3 := recState s2 g.place.core g.ctx f.addr .joined
          goTo f.ret (s3.modPath fun p => { p with mask := f.smask, frames := p.frames.tail })) s1
      else trapAt .framejoin 0 s1
    | [], .spawned f => if g.converged then fendSpawned f g p s1 else trapAt .framejoin 0 s1
    | [], _ => trapAt .framejoin 0 s1

/-- HOLD (R255). -/
def execHold (s : State) : Out :=
  gated { acc := acc0, who := .notHandler } s fun _ _ s1 => advance (s1.modG fun g => { g with hold := true })

/-- RELEASE (R255). -/
def execRelease (s : State) : Out :=
  gated { acc := acc0, who := .notHandler } s fun _ _ s1 => advance (s1.modG fun g => { g with hold := false })

/-- STATE of the frame whose token is a value (R256): 0xFF where it is no record address of the family's area. A
record of no frame of the family is read at its home; one that cannot be reached has a free state. -/
def frameState (s : State) (g : Group) (x : W64) : Nat :=
  let o := (x - g.frbase).toNat
  if o % 1152 ≠ 0 || g.nrec ≤ o / 1152 then 255
  else match ((s.groups.filter fun (q : Nat × Group) => q.2.ctx = g.ctx && q.2.frbase = g.frbase).flatMap fun q =>
      q.2.paths.flatMap fun p => p.2.frames).find? fun f => f.addr = x.toNat with
    | some f => f.st.code + (if f.onchip then 256 else 0)
    | none =>
      match bgNow s g.place.core g.ctx x.toNat Need.read false with
      | (s1, .key k) => s1.rd k 1
      | _ => (Config.freeValue s.fresh).toNat % 256

/-- FRSTAT (R256). -/
def execFrstat (a b k : Nat) (s : State) : Out :=
  gated { acc := acc0, rd := if k = 0 || k = 3 then sR [b] else [], wr := sR [a], count := k ≠ 3 } s fun g p s1 =>
    let h := s.hb g.place.core g.ctx
    let latent := (p.frames.filter fun f => f.st = .latent).length
    match k with
    | 0 => advance ({ s1 with fresh := s1.fresh + 1 }.wS a (BitVec.ofNat 64 (frameState s g (rS g b))))
    | 1 => advance (s1.wS a (BitVec.ofNat 64
        (latent + p.frames.length * 2 ^ 16 + (onChip p).length * 2 ^ 32 + (if g.hold then 2 ^ 40 else 0) + (if p.promo then 2 ^ 41 else 0))))
    | 2 => advance (s1.wS a (BitVec.ofNat 64 (if h.mode = 1 then g.hbCount else h.count)))
    | _ =>
      let v := fld (rS g b).toNat 0 24
      if h.mode ≠ 1 || h.period ≤ v then trapAt .illop 0 s1 else advance (s1.modG fun g => { g with hbCount := v })

/-- A tick of a group (R245): each path with a latent frame has a promotion pending. -/
def strike (g : Group) : Group :=
  { g with paths := g.paths.mapV fun _ p => if p.frames.any fun f => f.st = .latent then { p with promo := true } else p }

/-- HEARTBEAT_TICK (R244): the count of a context on a core has reached %hbperiod. -/
def execHeartbeatTick (core c : Nat) (s : State) : Out :=
  .next (if (s.hb core c).due then
    { s.modCore core fun k => { k with hb := k.hb.modify Hb.reset c fun h => { h with due := false } } with
      groups := s.groups.mapV fun _ g => if g.resident && g.place.core = core && g.ctx = c then strike g else g }
    else s)

/-- HEARTBEAT_TICK_MODE1 (R244): a group's own count has reached %hbperiod. -/
def execHeartbeatTickMode1 (gid : Nat) (s : State) : Out :=
  .next (s.modGroup gid fun g => if g.tickDue then { strike g with tickDue := false } else g)

/-- The oldest frame of a path in a state. -/
def oldest (p : Path) (st : FrameSt) : Option Frame := (p.frames.filter fun f => f.st = st).getLast?

/-- A path is at its promotion point with a promotion pending (R245). -/
def promoNow (s : State) (g : Group) (p : Path) : Bool :=
  p.promo && g.resident && !g.hold && !p.halted && (s.ctx? g.ctx).map Ctx.st = some .resident &&
    (match p.cond with | .trapped _ => false | _ => true)

/-- PROMOTION (R245, R246 step 1): the path's oldest latent frame becomes promoting. -/
def execPromotion (gid slot : Nat) (s : State) : Out :=
  .next (match s.group? gid with
    | none => s
    | some g =>
      match g.paths.find? slot with
      | none => s
      | some p =>
        if !promoNow s g p then s
        else
          let s1 := s.modPathAt gid slot fun p => { p with promo := false }
          match oldest p .latent with
          | some f => modFrame s1 gid f.addr fun x => { x with st := .promoting }
          | none => s1)

/-- What a spawned group starts from. -/
def spawnOf (f : Frame) (gid slot : Nat) : Spawn :=
  { addr := f.addr, pgid := gid, pslot := slot, target := f.target, mask := f.mask, fpmode := f.fpmode, nv := f.nv, ns := f.ns,
    sa := f.sa, vb := f.vb, sargs := f.sargs, vargs := f.vargs }

/-- A promotion that fails: the frame is latent again, and the path takes FRAMEMEM at its next boundary, where one that waits
in the join of the frame stands (R246). -/
def promoFail (s : State) (gid slot : Nat) (f : Frame) : State :=
  (modFrame s gid f.addr fun x => { x with st := .latent }).modPathAt gid slot fun p =>
    { p with fmem := true, cond := if p.cond = .waiting (.join f.addr) then .ready else p.cond }

/-- PROMOTED (R246 steps 1 and 2): the whole record is written and the spawn request queued. -/
def execPromoted (gid slot : Nat) (s : State) : Out :=
  .next (match s.group? gid with
    | none => s
    | some g =>
      match g.paths.find? slot with
      | none => s
      | some p =>
        match oldest p .promoting with
        | none => s
        | some f0 =>
          let core := g.place.core
          match recXlate s core g.ctx f0.addr Need.write with
          | (s1, .perm) => promoFail s1 gid slot f0
          | (s1, .fault va k) => bgFault s1 core g.ctx va k Need.write false (.frame gid slot .promote)
          | (s1, .wait _) => s1
          | (s1, .keys k1 k2) =>
            let f := if f0.onchip then f0 else { (recRead s1 f0 k1 k2).1 with onchip := false }
            let s2 := recPut s1 core f.addr k1 k2 0 (f.bytes .promoted 0 (parentWord s g slot))
            let s3 := modFrame s2 gid f.addr fun x => { f with st := .promoted, failed := x.failed }
            let r : Req := { ctx := g.ctx, core := core, die := dieOf core, kind := .spawn (spawnOf f gid slot), gids := [],
                             placed := false, queued := true, headAt := none, since := s.cycles, coop := false }
            { s3 with
              reqs := s3.reqs.put s.nextId r
              nextId := s.nextId + 1
              cores := s3.cores.modify Core.reset core fun k => { k with allot := k.allot.modify [] g.ctx fun l => l ++ [s.nextId] } })

/-- The context owns quadrant `q` of a core, and no SHRINK in progress takes it (R186, R219). -/
def ownsQuad (s : State) (c core q : Nat) : Bool :=
  (s.quad (4 * core + q)).owner = c && c ≠ 0 &&
    !s.queues.any fun x => match x.2.busy with
      | some k => k.op = 7 && arg k 0 = c && arg k 1 = dieOf core &&
          fld (arg k 2 + 2 ^ 64 * arg k 3 + 2 ^ 128 * arg k 4) (4 * (core % Config.coresPerDie) + q) 1 = 1
      | none => false

/-- The context owns a quadrant of the core. -/
def ownsCore (s : State) (c core : Nat) : Bool := (List.range 4).any fun q => ownsQuad s c core q

/-- The next core, cyclically, of the die that holds a team of the cohort (R246). -/
def nextCohortCore (s : State) (core cohort : Nat) : Option Nat :=
  let d := dieOf core
  ((List.range Config.coresPerDie).map fun i => Config.coresPerDie * d + (core % Config.coresPerDie + 1 + i) % Config.coresPerDie).find? fun c =>
    c ≠ core && s.groups.any fun g => g.2.resident && g.2.place.core = c && (s.teams.find? g.2.team).map Team.cohort = some cohort

/-- The cohort of a spawn's forking group. -/
def spawnCohort (s : State) (f : Spawn) : Nat :=
  ((s.group? f.pgid).bind fun g =>
    (List.find? (fun (c : Nat × Cohort) => c.2.kernel = g.kernel && c.2.no = g.cohort) s.cohorts).map Prod.fst).getD 0

/-- A spawn request that has stood for 2·%hbperiod cycles, and the core that it is forwarded to (R246 step 2). -/
def forwardTo (s : State) (r : Nat) : Option (Req × Nat) :=
  (s.reqs.find? r).bind fun q =>
    match q.kind with
    | .spawn f =>
      if q.placed || !q.queued || !q.gids.isEmpty || s.cycles < q.since + 2 * (s.hb q.core q.ctx).period then none
      else (nextCohortCore s q.core (spawnCohort s f)).map fun c => (q, c)
    | _ => none

/-- A spawn request withdrawn from its queue and bound for core `c`. -/
def withdraw (s : State) (r : Nat) (q : Req) (c : Nat) : State :=
  { s.modCore q.core fun k => { k with allot := k.allot.modify [] q.ctx fun l => l.filter (· ≠ r) } with
    reqs := s.reqs.put r { q with core := c, die := dieOf c, queued := false, headAt := none } }

/-- It enters the tail of that core's queue, or goes on to the next core of its cohort where the context has lost that one. -/
def enterQueue (s : State) (r : Nat) (q : Req) (f : Spawn) : State :=
  let c := if ownsCore s q.ctx q.core then q.core else (nextCohortCore s q.core (spawnCohort s f)).getD q.core
  { s.modCore c fun k => { k with allot := k.allot.modify [] q.ctx fun l => l ++ [r] } with
    reqs := s.reqs.put r { q with core := c, die := dieOf c, queued := true, since := s.cycles } }

/-- SPAWN_FORWARD (R246 step 2): a request withdrawn enters the queue of the core it was sent to; one that has stood too long goes
there at once, where no packet of it is shown. -/
def execSpawnForward (r : Nat) (s : State) : Out :=
  .next (match s.reqs.find? r with
    | none => s
    | some q =>
      match q.kind with
      | .spawn f =>
        if !q.placed && !q.queued && q.gids.isEmpty then (if jobOnWay s (.spawn r) then s else enterQueue s r q f)
        else match forwardTo s r with
          | some (_, c) => enterQueue (withdraw s r q c) r { q with core := c, headAt := none } f
          | none => s
      | _ => s)

end Sys2Proof.Machine
end

