-- ==== Sys2Proof/Machine/Matrix.lean ====
section
/-! DEFINITION. The matrix array, the gang, the weight buffer and the accumulators (chapter 10). -/

namespace Sys2Proof.Machine

/-- The group of context `c` at a position of a quadrant, if any (R152). -/
def groupAt (s : State) (core quad part pos c : Nat) : Option (Nat × Group) :=
  List.find? (fun (p : Nat × Group) => p.2.resident && p.2.ctx = c &&
    p.2.place = { core := core, quad := quad, part := part, pos := pos }) s.groups

/-- A value is a legal %gang for context `c` in the quadrant of `pl` (Table MTX.1, R152). -/
def gangOk (s : State) (c : Nat) (pl : Place) (x : W64) : Bool :=
  let n := fld x.toNat 61 3
  let es := gangEntries x
  n ≠ 1 && n ≠ 7 && fld x.toNat (10 * n) (61 - 10 * n) = 0 &&
    (es.map fun e => (e.1, e.2.1)).Nodup && es.all fun e => (groupAt s pl.core pl.quad e.1 e.2.1 c).isSome

/-- %gang written with its corners (R152, R153). -/
def setGang (x : W64) (g : Group) (s : State) : State :=
  if !gangOk s g.ctx g.place x then trapAt .gang 0 s
  else advance (gangAbort (s.modQuad g.place.quadIx fun q => { q with gang := x }) g.place.quadIx)

/-- GANG (R152); k = 1 by a handler group gives the entry of the group it serves, whose identities it has (R345). -/
def execGang (a k : Nat) (s : State) : Out :=
  gated { acc := acc0, rd := if k = 0 then sR [a] else [], wr := if k = 0 then [] else sR [a], full := true } s
    fun g _ s1 =>
      if k = 0 then setGang (rS g a) g s1
      else advance (s1.wS a (BitVec.ofNat 64 (pgroup s g % 64 * 2 ^ 4)))

/-- A format of the matrix array (Table MTX.3): plain, MX or PX with its element code, bits of a code, the
pairing set, W, A elements per register, KP. -/
structure MFmt where
  fam  : Nat      -- 0 plain, 1 MX, 2 PX
  sub  : Nat      -- MX code of R23, PX code of R123
  bits : Nat
  pair : Nat
  w    : Nat
  e    : Nat
  kp   : Nat
  deriving DecidableEq, Repr

/-- Table MTX.3. -/
def mfmts : List MFmt :=
  [⟨0, 0, 16, 1, 2, 4, 128⟩, ⟨0, 0, 16, 1, 2, 4, 128⟩, ⟨0, 0, 8, 2, 4, 8, 256⟩, ⟨0, 0, 8, 2, 4, 8, 256⟩,
   ⟨0, 0, 6, 2, 4, 8, 256⟩, ⟨0, 0, 6, 2, 4, 8, 256⟩, ⟨0, 0, 4, 3, 8, 8, 256⟩,
   ⟨1, 0, 8, 4, 4, 8, 256⟩, ⟨1, 1, 8, 4, 4, 8, 256⟩, ⟨1, 2, 6, 4, 4, 8, 256⟩, ⟨1, 3, 6, 4, 4, 8, 256⟩] ++
  [⟨1, 4, 4, 5, 8, 8, 256⟩, ⟨1, 5, 8, 6, 8, 8, 256⟩, ⟨2, 1, 5, 7, 8, 0, 256⟩, ⟨2, 0, 3, 7, 8, 0, 256⟩,
   ⟨2, 2, 8, 8, 4, 0, 128⟩]

def mfmt (f : Nat) : MFmt := mfmts.getD f ⟨0, 0, 16, 0, 2, 4, 128⟩

/-- Bytes of one PX block (R22). -/
def pxBytes (m : MFmt) : Nat := 2 + 2 * (pxBits m.sub + 1)

/-- PB: bytes per column per slot (Table MTX.3, R158). -/
def pbOf (f : Nat) (sp : Bool) : Nat :=
  let m := mfmt f
  if m.fam = 2 then m.kp / 16 * pxBytes m
  else if sp then m.kp / 2 * m.bits / 8 + m.kp / 8
  else m.kp * m.bits / 8

/-- The k-step of a format (R35, R156): W, or a block. -/
def kStep (m : MFmt) : Nat := if m.fam = 0 then m.w else if m.fam = 1 then 32 else 16

/-- The slots that hold `k` from element `32·BKOFF` on, in order, each with how many k it gives (R162). -/
def slotRuns (bslot kp : Nat) : Nat → Nat → Nat → List (Nat × Nat)
  | 0, _, _ => []
  | fuel + 1, p, k =>
    if k = 0 then []
    else
      let n := min k (kp - p % kp)
      ((bslot + p / kp) % 32, n) :: slotRuns bslot kp fuel (p + n) (k - n)

/-- A format-block with K (Table MTX.2). -/
structure FBlock where
  bslot : Nat
  fxs   : Nat
  bkoff : Nat
  arc   : Nat
  bl    : Nat
  rsv   : Nat
  af    : Nat
  bf    : Nat
  bsc   : Nat
  asc   : Nat
  deriving DecidableEq, Repr

def FBlock.of (x : W64) : FBlock :=
  let n := x.toNat
  { bslot := fld n 59 5, fxs := fld n 56 3, bkoff := fld n 52 4, arc := fld n 48 4, bl := fld n 47 1,
    rsv := fld n 42 5, af := fld n 37 5, bf := fld n 32 5, bsc := fld n 16 16, asc := fld n 0 16 }

/-- K of an mma: N·R·e (R162). -/
def mmaK (gang : W64) (f : FBlock) : Nat := fld gang.toNat 61 3 * (f.arc + 1) * (mfmt f.af).e

/-- The slots an instruction takes B from, with the k each gives. -/
def FBlock.runs (f : FBlock) (k : Nat) : List (Nat × Nat) := slotRuns f.bslot (mfmt f.bf).kp 40 (32 * f.bkoff) k

/-- The weight slot. -/
def Quad.slot (q : Quad) (i : Nat) : WSlot := q.slots.get WSlot.reset i

/-- fmtchk's reason code (Table MTX.4), in the order of R156; `k` is K. -/
def fmtReason (q : Quad) (f : FBlock) (mmat : Bool) (k : Nat) : Nat :=
  let a := mfmt f.af
  let b := mfmt f.bf
  if 16 ≤ f.af || 16 ≤ f.bf || f.rsv ≠ 0 then 1
  else if a.pair ≠ b.pair then 2
  else if f.bl ≠ (if a.fam = 1 then 1 else 0) then 3
  else if (if mmat then f.arc ≠ 0 else a.fam = 2) then 4
  else if !mmat && fld q.gang.toNat 61 3 = 0 then 9
  else if k = 0 || k % kStep a ≠ 0 then 5
  else if b.kp ≤ 32 * f.bkoff then 7
  else if 32 * b.kp < k + 32 * f.bkoff then 8
  else if (f.runs k).any fun r => (q.slot r.1).st = .free || (q.slot r.1).fmt ≠ f.bf then 6
  else 0

/-- FMTCHK (R157). -/
def execFmtchk (a b k : Nat) (s : State) : Out :=
  gated { acc := acc0, rd := sR (if k = 0 then [b] else [b, b + 1]), wr := sR [a] } s fun g _ s1 =>
    let q := s.quad g.place.quadIx
    let f := FBlock.of (rS g b)
    let r := if k = 0 then fmtReason q f false (mmaK q.gang f)
      else fmtReason q f true (fld (rS g (b + 1)).toNat 32 16)
    advance (s1.wS a (BitVec.ofNat 64 r))

/-- A charge of a counter (R194); whether it is held at its limit. -/
def Counter.charge (k : Counter) (x : Nat) : Counter × Bool :=
  if k.m = 2 ^ 64 - 1 then (k, true)
  else
    let m := if k.m < k.c + x then k.m + 2 ^ 20 * ((k.c + x - k.m + 2 ^ 20 - 1) / 2 ^ 20) else k.m
    if 2 ^ 64 - 1 ≤ m then ({ c := min (k.c + x) (2 ^ 64 - 1), m := 2 ^ 64 - 1 }, true) else ({ c := k.c + x, m := m }, false)

/-- A charge to every region of a mask: bytes, or multiply-accumulates (R190, R194). -/
def charge (macs : Bool) (rmask x : Nat) (k : Ctx) : Ctx :=
  let step (i : Nat) (r : Region) : Region × Bool :=
    if fld rmask i 1 = 0 then (r, false)
    else if macs then ({ r with macs := (r.macs.charge x).1 }, (r.macs.charge x).2)
    else ({ r with bytes := (r.bytes.charge x).1 }, (r.bytes.charge x).2)
  let rs := k.regions.zipIdx.map fun p => step p.2 p.1
  { k with regions := rs.map Prod.fst, satc := k.satc || rs.any Prod.snd }

/-- Column `j` of a loaded slot as codes in ascending k, or PX blocks as integers (R158). -/
def slotCol (w : WSlot) (j : Nat) : List Nat :=
  let m := mfmt w.fmt
  let pb := pbOf w.fmt w.sp
  let n := ofBytesLE ((w.data.drop (pb * j)).take pb)
  if m.fam = 2 then (List.range (m.kp / 16)).map fun i => fld n (8 * pxBytes m * i) (8 * pxBytes m)
  else if w.sp then
    (List.range m.kp).map fun i =>
      let v (h : Nat) := fld n (m.bits * (2 * (i / 4) + h)) m.bits
      let pos (h : Nat) := fld n (m.kp / 2 * m.bits + 2 * (2 * (i / 4) + h)) 2
      if pos 1 = i % 4 then v 1 else if pos 0 = i % 4 then v 0 else 0
  else (List.range m.kp).map fun i => fld n (m.bits * i) m.bits

/-- Column `j` of B over K (R162): codes, or PX blocks. -/
def bCol (q : Quad) (f : FBlock) (k j : Nat) : List Nat :=
  let m := mfmt f.bf
  let u := if m.fam = 2 then 16 else 1
  let all := (slotRuns f.bslot m.kp 40 (32 * f.bkoff / m.kp * m.kp) (k + 32 * f.bkoff % m.kp)).flatMap fun r => slotCol (q.slot r.1) j
  (all.drop (32 * f.bkoff % m.kp / u)).take (k / u)

/-- The scale bytes of MX operands, by row or column (R162). -/
def scales (s : State) (core off k : Nat) : List (List Nat) :=
  (List.range 32).map fun i => (List.range (k / 32)).map fun q => (padByte s core (32 * off + k / 32 * i + q)).toNat

/-- The first scale byte that the context does not own (R162, R164 corner 6). -/
def badScale (s : State) (core c : Nat) (f : FBlock) (k : Nat) : Option Nat :=
  if (mfmt f.af).fam ≠ 1 then none
  else
    [f.asc, f.bsc].findSome? fun o =>
      (List.range k).findSome? fun i =>
        if 2 ^ 21 ≤ 32 * o + i || !ownsBank s core c ((32 * o + i) / 4096) then some (32 * o + i) else none

/-- B, the scales and the extra value captured; the charges made; the instruction in the acceptance order
(R150, R162, R190). `a` are the rows of A. -/
def acceptMat (s : State) (g : Group) (gid slot t p : Nat) (f : FBlock) (k : Nat) (a : List (List Nat)) (gids : List Nat) : State :=
  let core := g.place.core
  let q := s.quad g.place.quadIx
  let mx := (mfmt f.af).fam = 1
  let s1 := s.modCtx g.ctx fun x => (f.runs k).foldl (fun x r => charge true (q.slot r.1).rmask (1024 * r.2) x) x
  s1.addOp
    { gid := gid, slot := slot, ctx := g.ctx, core := core, perf := false, lost := 0, born := s.clocks.nets,
      kind := .mat g.place.quadIx t (.mm f.af f.bf p a ((List.range 32).map (bCol q f k))
        (if mx then scales s core f.asc k else []) (if mx then scales s core f.bsc k else [])
        (s.fx g.ctx f.fxs) ((f.runs k).map Prod.fst) gids) }

/-- P of a matrix product (R59). -/
def promP (s : State) (k : Nat) : Nat := ((s.iss.pre.mod.map fun m => m.px).getD 0) * 16 + k + 1

/-- A waiting member takes a trap at its mma. -/
def trapMember (s : State) (e : Arrival) (c : Cause) (data : Nat) : State :=
  match s.path? e.gid e.slot with
  | none => s
  | some p => trapPath s e.gid e.slot { cause := c, data := BitVec.ofNat 64 data, addr := p.pc, next := p.after_, rep := 0, after_ := false }

/-- Row `i` of A from the gang's registers (R162): member by member in entry order. -/
def gangRow (s : State) (core quad c : Nat) (gang : W64) (f : FBlock) (i : Nat) : List Nat :=
  (gangEntries gang).flatMap fun e =>
    match groupAt s core quad e.1 e.2.1 c with
    | none => []
    | some g => (List.range (f.arc + 1)).flatMap fun r => elems (64 / (mfmt f.af).e) (rV g.2 (8 * e.2.2 + r) i)

/-- Step 3 and step 4 of R161 where all members have arrived and no needed slot is loading. A format-block that names a free slot
(reason 6) is refused before the wait for a slot that is loading: R161 gives no order of the two (DESIGN CHOICE, log 107). -/
def mmaAccept (s : State) (qi : Nat) : State :=
  let q := s.quad qi
  match q.latch with
  | [] => s
  | e0 :: _ =>
    match s.group? e0.gid with
    | none => s
    | some g0 =>
      let f := FBlock.of e0.fb
      let k := mmaK q.gang f
      if q.latch.length < fld q.gang.toNat 61 3 then s
      else
        let out (c : Cause) (d : Nat) := q.latch.foldl (fun s e => trapMember s e c d) (s.modQuad qi fun x => { x with latch := [] })
        if fmtReason q f false k ≠ 0 then out .illop 0
        else if (f.runs k).any fun r => (q.slot r.1).st = .loading then s
        else
          let beyond (gid : Nat) : Bool := (gangEntries q.gang).any fun e =>
            match groupAt s g0.place.core g0.place.quad e.1 e.2.1 g0.ctx with
            | some g => g.1 = gid && g.2.budget ≤ 8 * e.2.2 + f.arc
            | none => false
          if q.latch.any fun e => beyond e.gid then
            q.latch.foldl (fun s e => trapMember s e (if beyond e.gid then .regbound else .gang) 0)
              (s.modQuad qi fun x => { x with latch := [] })
          else
            match badScale s g0.place.core g0.ctx f k with
            | some o => out .padbound o
            | none =>
              let a := (List.range 32).map (gangRow s g0.place.core g0.place.quad g0.ctx q.gang f)
              let s1 := acceptMat s g0 e0.gid e0.slot e0.t e0.p f k a (q.latch.map Arrival.gid)
              q.latch.foldl (fun s e => s.modPathAt e.gid e.slot fun p => { p.fresh with cond := .ready, pc := p.after_ })
                (s1.modQuad qi fun x => { x with latch := [] })

/-- The registers a listed group contributes to an mma, within its budget (R161, R162). -/
def contributed (s : State) (a : Nat) : List Nat :=
  match s.group? s.iss.gid with
  | none => []
  | some g =>
    ((gangEntries (s.quad g.place.quadIx).gang).filter fun e => e.1 = g.place.part && e.2.1 = g.place.pos).flatMap fun e =>
      ((List.range ((FBlock.of (rS g a)).arc + 1)).map (8 * e.2.2 + ·)).filter (· < g.budget)

/-- MMA (R161 to R163): arrival at the latch; the last arrival is accepted. -/
def execMma (t a k : Nat) (s : State) : Out :=
  gated { acc := { px := true }, rd := sR [a] ++ vR (contributed s a), full := true } s fun g _ s1 =>
    let qi := g.place.quadIx
    let q := s.quad qi
    let e : Arrival := { gid := s.iss.gid, slot := s.iss.slot, t := t, p := promP s k, fb := rS g a }
    if !gangLists q.gang g.place then trapAt .gang 0 s1
    else if q.latch.any fun x => x.t ≠ e.t || x.p ≠ e.p || x.fb ≠ e.fb then trapAt .gang 0 s1
    else
      mmaAccept (waitThen .latch s.iss.next (s1.modQuad qi fun x => { x with latch := x.latch ++ [e] })) qi

/-- Row `i` of A from a tile (R164). -/
def tileRow (s : State) (core base off pitch k : Nat) (m : MFmt) (i : Nat) : List Nat :=
  let o := 4096 * base + off + pitch * i
  if m.fam = 2 then (List.range (k / 16)).map fun b => padRd s core (o + pxBytes m * b) (pxBytes m)
  else
    let n := padRd s core o ((k * m.bits + 7) / 8)
    (List.range k).map fun j => fld n (m.bits * j) m.bits

/-- MMAT (R164): its corners in order, then acceptance; the %trapdata of ALIGN is 0 (DESIGN CHOICE, log 52). -/
def execMmat (t a b k : Nat) (s : State) : Out :=
  gated { acc := { px := true }, rd := sR [a, b], full := true } s fun g _ s1 =>
    let core := g.place.core
    let q := s.quad g.place.quadIx
    let f := FBlock.of (rS g a)
    let d := (rS g b).toNat
    let pitch := fld d 48 16
    let kk := fld d 32 16
    let off := fld d 8 24
    let tn := fld d 0 8
    let x := s.tile core tn
    let m := mfmt f.af
    let row := if m.fam = 2 then kk / 16 * pxBytes m else (kk * m.bits + 7) / 8
    if off % 32 ≠ 0 || pitch % 32 ≠ 0 then trapAt .align 0 s1
    else
      (tileRead s core g.ctx tn).then tn true (fun s2 =>
        if fmtReason q f true kk ≠ 0 then trapAt .illop 0 s2
        else if (f.runs kk).any fun r => (q.slot r.1).st = .loading then waitOn (.wslots ((f.runs kk).map Prod.fst) true) s2
        else if 4096 * x.count < off + 31 * pitch + row then trapAt .engine 0 s2
        else
          match badScale s core g.ctx f kk with
          | some o => trapAt .padbound o s2
          | none =>
            advance (acceptMat s2 g s.iss.gid s.iss.slot t (promP s k) f kk
              ((List.range 32).map (tileRow s core x.base off pitch kk m)) [s.iss.gid])) s1

/-- An instruction on accumulators alone enters the acceptance order. -/
def accWork (t : Nat) (k : MatKind) (s : State) : Out :=
  gated { acc := acc0, full := true } s fun g _ s1 =>
    advance (s1.addOp { gid := s.iss.gid, slot := s.iss.slot, ctx := g.ctx, core := g.place.core, perf := false, lost := 0,
                        born := s.clocks.nets, kind := .mat g.place.quadIx t k })

/-- MPROM (R165). -/
def execMprom (t b : Nat) (s : State) : Out := accWork t (.prom b) s

/-- ACCZERO (R165). -/
def execAcczero (t : Nat) (s : State) : Out := accWork t .zero s

/-- The slots SLOT to SLOT + NS − 1, modulo 32 (R159). -/
def slotList (slot n : Nat) : List Nat := (List.range n).map fun i => (slot + i) % 32

/-- An accepted product still in flight reads one of the slots (R159, R160). -/
def slotsRead (s : State) (qi : Nat) (ss : List Nat) : Bool :=
  s.ops.any fun o =>
    match o.2.kind with
    | .mat q _ (.mm _ _ _ _ _ _ _ _ sl _) => q = qi && sl.any fun i => ss.contains i
    | _ => false

/-- WBLD (R159): its corners, its waits, then the slots load; the %trapdata of ALIGN is 0 (DESIGN CHOICE, log 52). -/
def execWbld (a b k : Nat) (s : State) : Out :=
  gated { acc := acc0, rd := sR [a, b], full := true } s fun g _ s1 =>
    let core := g.place.core
    let qi := g.place.quadIx
    let x := (rS g a).toNat
    let y := (rS g b).toNat
    let tn := fld x 0 8
    let off := fld x 8 24
    let slot := fld y 0 5
    let n := fld y 8 6
    let f := fld y 16 5
    let sp := k % 2 = 1
    let tl := s.tile core tn
    let bytes := 32 * pbOf f sp * n
    if 16 ≤ f || (sp && (mfmt f).fam ≠ 0) || n = 0 || 32 < n || y ≠ slot + 2 ^ 8 * n + 2 ^ 16 * f then
      trapAt .illop 0 s1
    else if off % 32 ≠ 0 then trapAt .align 0 s1
    else
      (tileRead s core g.ctx tn).then tn true (fun s2 =>
        if 4096 * tl.count < off + bytes then trapAt .engine 0 s2
        else if slotsRead s qi (slotList slot n) then waitOn (.wslots (slotList slot n) true) s2
        else
          let s3 := s2.modQuad qi fun q =>
            { q with slots := (slotList slot n).foldl (fun m i =>
                m.put i { st := .loading, fmt := f, sp := sp, data := [], rmask := tl.rmask }) q.slots }
          let s4 := (s3.modTile core tn fun t => { t with held := t.held + 1 }).modCtx g.ctx (charge false tl.rmask bytes)
          advance (s4.addOp
            { gid := s.iss.gid, slot := s.iss.slot, ctx := g.ctx, core := core, perf := false, lost := 0,
              born := s.clocks.nets, kind := .wb qi slot n f sp off 0 tn tl.rmask [] })) s1

/-- WBFREE (R160): a loading slot is freed when its load ends. -/
def execWbfree (a : Nat) (s : State) : Out :=
  gated { acc := acc0, rd := sR [a], full := true } s fun g _ s1 =>
    let qi := g.place.quadIx
    let y := (rS g a).toNat
    let slot := fld y 0 5
    let n := fld y 8 6
    let ss := slotList slot n
    if n = 0 || 32 < n || y ≠ slot + 2 ^ 8 * n + 2 ^ 16 * fld y 16 5 then trapAt .illop 0 s1
    else if slotsRead s qi ss then waitOn (.wslots ss false) s1
    else
      let s2 := s1.modQuad qi fun q =>
        { q with slots := ss.foldl (fun m i => if (q.slot i).st = .loaded then m.del i else m) q.slots }
      advance { s2 with
        ops := s2.ops.mapV fun _ o =>
          match o.kind with
          | .wb q sl m f sp off j tn rm fr =>
            if q = qi then { o with kind := .wb q sl m f sp off j tn rm (fr ++ ss.filter fun i => (slotList sl m).contains i) } else o
          | _ => o }

/-- WBLD_SLOT_LOADED (R159): the next panel of the oldest load of the quadrant is stored. A slot that a later
load has taken over stays loading for it. -/
def execWbldSlotLoaded (o : Nat) (s : State) : Out :=
  .next (match s.ops.find? o with
    | some op =>
      match op.kind with
      | .wb qi slot n f sp off j tn rm fr =>
        let older (p : Nat × Op) : Bool := p.1 < o && (match p.2.kind with | .wb q _ _ _ _ _ _ _ _ _ => q = qi | _ => false)
        let newer (i : Nat) (p : Nat × Op) : Bool := o < p.1 &&
          (match p.2.kind with | .wb q sl m _ _ _ _ _ _ _ => q = qi && (slotList sl m).contains i | _ => false)
        if s.ops.any older then s
        else
          let i := (slot + j) % 32
          let pb := 32 * pbOf f sp
          let data := padBytes s op.core (4096 * (s.tile op.core tn).base + off + pb * j) pb
          let s1 :=
            if s.ops.any (newer i) then s
            else if fr.contains i then s.modQuad qi fun q => { q with slots := q.slots.del i }
            else s.modQuad qi fun q => { q with slots := q.slots.put i { st := .loaded, fmt := f, sp := sp, data := data, rmask := rm } }
          if j + 1 < n then s1.modOp o fun p => { p with kind := .wb qi slot n f sp off (j + 1) tn rm fr }
          else mmaAccept ((s1.delOp o).modTile op.core tn fun t => { t with held := t.held - 1 }) qi
      | _ => s
    | none => s)

/-- +0 for an exact zero (R35). -/
def FV.posZero : FV → FV
  | .fin n m x => if m = 0 then .fin false 0 0 else .fin n m x
  | v => v

/-- Round(x + y, f, rn) with an exact zero +0 (R35). -/
def sumRound (f : Fmt) (x y : FV) : Nat × Nat :=
  let r := x.add 0 y
  let c := r.1.posZero.into f 0 0 false false
  (c.1, r.2 ||| c.2)

/-- The values of a row or column, block by block: k-step by k-step (R35, R163). `sc` are the scales. -/
def stepVals (f fx : Nat) (codes sc : List Nat) : List (List FV) :=
  let m := mfmt f
  if m.fam = 2 then codes.map fun b => (pxVals (pxBits m.sub) (bytesLE (pxBytes m) b)).getD (List.replicate 16 (.nan false))
  else if m.fam = 1 then
    (chunks 32 (codes.length + 1) codes).zipIdx.map fun b =>
      let x := sc.getD b.2 255
      b.1.map fun c => if x = 255 then .nan false else (mxVal m.sub fx c).scale (x - 127)
  else
    let ft := [BF16, F16, F8E4, F8E5, F6E2, F6E3].getD f F4
    chunks m.w (codes.length + 1) (codes.map fun c => if f = 6 then f4Val fx c else ft.val c)

/-- The exact sum of a k-step's products, and its flags (R35; log 11). -/
def stepSum (a b : List FV) : FV × Nat :=
  (List.zip a b).foldl (fun t p =>
    let m := p.1.mul p.2
    let r := t.1.add 0 m.1
    (r.1, t.2 ||| m.2 ||| r.2)) (.fin false 0 0, 0)

/-- One cell of a product: the accumulator's new value and the flags (R35, R163). `st` are the k-steps left,
`n` the narrow sum, `c` the steps since the last promotion. -/
def cell (p : Nat) : List (List FV × List FV) → Nat → Nat → Nat → Nat → Nat × Nat
  | [], _, _, acc, fl => (acc, fl)
  | (a, b) :: t, n, c, acc, fl =>
    let x := stepSum a b
    let r := sumRound NS24 (NS24.val n) x.1.posZero
    if c + 1 = p || t.isEmpty then
      let z := sumRound F32 (F32.val acc) (NS24.val r.1)
      cell p t 0 0 z.1 (fl ||| x.2 ||| r.2 ||| z.2)
    else cell p t r.1 (c + 1) acc (fl ||| x.2 ||| r.2)

/-- An accumulator's element. -/
def Quad.acc? (q : Quad) (t i j : Nat) : Nat := (q.acc.get 0 (1024 * t + 32 * i + j)).toNat

/-- Accumulator `t` written whole. -/
def Quad.putAcc (q : Quad) (t : Nat) (f : Nat → Nat → Nat) : Quad :=
  { q with acc := (List.range 1024).foldl (fun m i => m.set 0 (1024 * t + i) (BitVec.ofNat 32 (f (i / 32) (i % 32)))) q.acc }

/-- What accepted work makes of an accumulator's element, with flags (R163, R165). -/
def MatKind.eval (k : MatKind) (q : Quad) (t i j : Nat) : Nat × Nat :=
  match k with
  | .zero => (0, 0)
  | .prom b =>
    let r := (F32.val (q.acc? t i j)).add 0 (F32.val (q.acc? b i j))
    let c := r.1.into F32 0 0 false false
    (c.1, r.2 ||| c.2)
  | .mm af bf p a b asc bsc fx _ _ =>
    cell p (List.zip (stepVals af fx (a.getD i []) (asc.getD i [])) (stepVals bf fx (b.getD j []) (bsc.getD j []))) 0 0
      (q.acc? t i j) 0

/-- MATRIX_RESULT (R150, R163, R165): the oldest accepted work of the quadrant writes its accumulator as one unit
and sets its flags. -/
def execMatrixResult (o : Nat) (s : State) : Out :=
  .next (match s.ops.find? o with
    | some op =>
      match op.kind with
      | .mat qi t k =>
        let older (p : Nat × Op) : Bool := p.1 < o && (match p.2.kind with | .mat q _ _ => q = qi | _ => false)
        if s.ops.any older then s
        else
          let q := s.quad qi
          let fl := orAll ((List.range 1024).map fun i => (k.eval q t (i / 32) (i % 32)).2)
          let gids := match k with | .mm _ _ _ _ _ _ _ _ _ l => l | _ => [op.gid]
          gids.foldl (fun s gid => s.modGroup gid fun g => { g with fpflags := g.fpflags ||| BitVec.ofNat 64 fl })
            ((s.delOp o).modQuad qi fun q => q.putAcc t fun i j => (k.eval q t i j).1)
      | _ => s
    | none => s)

/-- Accepted work in flight names accumulator `t` of the quadrant (R150). -/
def accBusy (s : State) (qi t : Nat) : Bool :=
  s.ops.any fun o =>
    match o.2.kind with
    | .mat q u (.prom b) => q = qi && (u = t || b = t)
    | .mat q u _ => q = qi && u = t
    | _ => false

/-- An ACCV access to accumulator `t` (R150, R167): it waits while the accumulator is busy, then `k` is its
effect, `r` being the row or column. -/
def accv (acc : Acc) (t : Nat) (rd wr : List RegN) (b : Nat) (s : State) (k : Group → Path → Nat → State → State) : Out :=
  gated { acc := acc, rd := rd ++ sR [b], wr := wr } s fun g p s1 =>
    if accBusy s g.place.quadIx t then waitOn (.acc t) s1 else k g p (fld (rS g b).toNat 0 5) s1

/-- Acceptance of ACCV (R167). -/
def accA (rnd : Bool) : Acc := { pred := true, rnd := rnd }

/-- Elements of accumulator `t` written: `at_ r l` gives the row and column of lane `l`. -/
def accPut (g : Group) (t : Nat) (lanes : List Nat) (at_ : Nat → Nat × Nat) (f : Nat → Nat) (s : State) : State :=
  s.modQuad g.place.quadIx fun q =>
    { q with acc := lanes.foldl (fun m l => m.set 0 (1024 * t + 32 * (at_ l).1 + (at_ l).2) (BitVec.ofNat 32 (f l))) q.acc }

/-- AROW_RD (R167). -/
def execArowRd (d a b : Nat) (s : State) : Out :=
  accv (accA false) a [] (vR [d]) b s fun g p r =>
    landNow (vWrites d (actLanes s g p) fun l => BitVec.ofNat 64 ((s.quad g.place.quadIx).acc? a r l)) 0

/-- AROW_WR (R167). -/
def execArowWr (d a b : Nat) (s : State) : Out :=
  accv (accA false) d (vR [a]) [] b s fun g p r s1 =>
    landNow [] 0 (accPut g d (actLanes s g p) (fun l => (r, l)) (fun l => elem 32 (rV g a l) 0) s1)

/-- ACOL_RD (R167). -/
def execAcolRd (d a b : Nat) (s : State) : Out :=
  accv (accA false) a [] (vR [d]) b s fun g p r =>
    landNow (vWrites d (actLanes s g p) fun l => BitVec.ofNat 64 ((s.quad g.place.quadIx).acc? a l r)) 0

/-- ACOL_WR (R167). -/
def execAcolWr (d a b : Nat) (s : State) : Out :=
  accv (accA false) d (vR [a]) [] b s fun g p r s1 =>
    landNow [] 0 (accPut g d (actLanes s g p) (fun l => (l, r)) (fun l => elem 32 (rV g a l) 0) s1)

/-- AROW_RDB (R108, R167). -/
def execArowRdb (d a b : Nat) (s : State) : Out :=
  accv (accA true) a [] (vR [d]) b s fun g p r s1 =>
    withDraws (rmode s g) (actLanes s g p).length g s1 fun draws =>
      let v := vecF 1 (actLanes s g p) draws fun dr l _ =>
        (F32.val (F32.daz g.daz ((s.quad g.place.quadIx).acc? a r l))).into BF16 (rmode s g) dr g.ftz false
      landNow (vecWrites d 64 v) (vecFlags v)

/-- AROW_ADD (R102, R103, R167). -/
def execArowAdd (d a b : Nat) (s : State) : Out :=
  accv (accA true) d (vR [a]) [] b s fun g p r s1 =>
    withDraws (rmode s g) (actLanes s g p).length g s1 fun draws s2 =>
      let v := vecF 1 (actLanes s g p) draws fun dr l _ =>
        let z := (F32.val (F32.daz g.daz ((s.quad g.place.quadIx).acc? d r l))).add (rmode s g)
          (F32.val (F32.daz g.daz (elem 32 (rV g a l) 0)))
        let c := z.1.round F32 (rmode s g) dr g.ftz
        (c.1, z.2 ||| c.2)
      let res (l : Nat) : Nat := ((v.find? fun q => q.1 = l).bind fun q => q.2.head?.map Prod.fst).getD 0
      landNow [] (vecFlags v) (accPut g d (actLanes s g p) (fun l => (r, l)) res s2)

end Sys2Proof.Machine
end

