-- ==== Sys2Proof/Machine/Torus.lean ====
section
/-! DEFINITION. The way of a packet through the device: stops and their ports, routes within a die and between dies, headers,
the buffers of the rings and what moves through them (R8, R11, R323 to R326, R329, R330, R338; log 16). -/

namespace Sys2Proof.Machine

/-- Columns and rows of a die, and the number of stop (x, y) (R10). -/
def cols : Nat := 8
def rows : Nat := 6
def stopOf (x y : Nat) : Nat := cols * y + x

/-- What the second port of a stop serves (Table LNK.1). -/
inductive Port2 where
  | hbm (stack : Nat)
  | cxl (n : Nat)
  | wenong (n : Nat)
  | host
  | security
  | scrub (n : Nat)
  deriving DecidableEq, Repr

/-- The second port of stop (x, y), of the 16 that have one on a die (R11, R323, Table LNK.1): the controllers of stack s are
at (0, s + 1) and (7, s + 1); the system port leads to the host port on die 0, to the security controller on the others. -/
def port2 (die x y : Nat) : Option Port2 :=
  if (x = 0 || x = 7) && 1 ≤ y && y ≤ 4 then some (.hbm (y - 1))
  else match x, y with
    | 3, 0 => some (.cxl 0)
    | 4, 5 => some (.cxl 1)
    | 2, 0 => some (.wenong 0)
    | 5, 0 => some (.wenong 1)
    | 3, 5 => some (.wenong 2)
    | 4, 0 => some (if die = 0 then .host else .security)
    | 2, 5 => some (.scrub 0)
    | 5, 5 => some (.scrub 1)
    | _, _ => none

/-- The second port of a stop by its number. -/
def portAt (die stop : Nat) : Option Port2 := port2 die (stop % cols) (stop / cols)

/-- The stop of Wenong link `link` on its die (Table LNK.1). The spec numbers 12 links and gives each die ports 0 to 2: that link n is
port n mod 3 of die n / 3 is a choice (DESIGN CHOICE, log 103). -/
def linkStop (link : Nat) : Nat := [stopOf 2 0, stopOf 5 0, stopOf 3 5].getD (link % 3) 0

/-- The two dies that a boundary joins: the one on the left, or on top, first (R8). -/
def boundDies (b : Nat) : Nat × Nat := [(0, 1), (1, 3), (2, 3), (0, 2)].getD b (0, 0)

/-- Boundaries 0 and 2 run between dies of one row, 1 and 3 between dies of one column (R8). -/
def horizontal (b : Nat) : Bool := b % 2 = 0

/-- The boundary that a packet on `die` bound for `dest` crosses next: the one that leaves the die horizontally, then the one that
enters the other vertically; none joins a die with the one diagonally opposite (R8). -/
def nextBound (die dest : Nat) : Nat :=
  if die % 2 ≠ dest % 2 then (if die < 2 then 0 else 2) else (if die % 2 = 1 then 1 else 3)

/-- The die on the other side of a boundary. -/
def acrossDie (b die : Nat) : Nat := if (boundDies b).1 = die then (boundDies b).2 else (boundDies b).1

/-- The nearest stop of `die` that attaches to boundary `b`, in dimension order from `stop`: of the facing column in its row, or
of the facing row in its column (R324). That the column x = 7 of a left die faces the right one, and the row y = 5 of a top die
the bottom one, is a choice (log 16). -/
def gateStop (b die stop : Nat) : Nat :=
  let first : Bool := (boundDies b).1 = die
  if horizontal b then stopOf (if first then cols - 1 else 0) (stop / cols) else stopOf (stop % cols) (if first then rows - 1 else 0)

/-- The stop at which a packet that leaves by `stop` enters the other die. -/
def acrossStop (b die stop : Nat) : Nat := gateStop b (acrossDie b die) stop

/-- One step on a ring of `n` stops from coordinate `a` to `b`: rising or not, the shorter way, and at a tie towards rising
coordinate (R324). -/
def rising (n a b : Nat) : Bool := 2 * ((b + n - a) % n) ≤ n

/-- The next coordinate on a ring. -/
def ringNext (n a : Nat) (up : Bool) : Nat := if up then (a + 1) % n else (a + n - 1) % n

/-- The step between two coordinates crosses the ring's dateline, between the last and 0 (R329). -/
def dateline (n a : Nat) (up : Bool) : Bool := if up then a = n - 1 else a = 0

/-- One hop: to the input of direction `dir` at the next stop of the die, crossing a dateline or not; or across a boundary. -/
inductive Hop where
  | ring (dir stop : Nat) (wrap : Bool)
  | cross (bound die stop : Nat)
  | here
  deriving DecidableEq, Repr

/-- The hop within a die from `stop` towards `dest`, along the x-ring first (R324). -/
def hopWithin (stop dest : Nat) : Hop :=
  let x := stop % cols
  let y := stop / cols
  if x ≠ dest % cols then
    let up := rising cols x (dest % cols)
    .ring (if up then 0 else 1) (stopOf (ringNext cols x up) y) (dateline cols x up)
  else if y ≠ dest / cols then
    let up := rising rows y (dest / cols)
    .ring (if up then 2 else 3) (stopOf x (ringNext rows y up)) (dateline rows y up)
  else .here

/-- The next hop from a stop of a die to a stop of a die (R8, R324). -/
def nextHop (die stop toDie toStop : Nat) : Hop :=
  if die = toDie then hopWithin stop toStop
  else
    let b := nextBound die toDie
    match hopWithin stop (gateStop b die stop) with
    | .here => .cross b (acrossDie b die) (acrossStop b die stop)
    | h => h

/-- The inputs on the way from a stop to another: die, stop and PORT as a LINK record names it (Table HST.5). -/
def routeFrom : Nat → Nat → Nat → Nat → Nat → List (Nat × Nat × Nat)
  | 0, _, _, _, _ => []
  | n + 1, die, stop, toDie, toStop =>
    match nextHop die stop toDie toStop with
    | .here => []
    | .ring dir st _ => (die, st, dir) :: routeFrom n die st toDie toStop
    | .cross b d st => (d, st, 4 + b) :: routeFrom n d st toDie toStop

/-- No way is longer than two boundaries and three crossings of a die. -/
def routeMax : Nat := 32

def route (die stop toDie toStop : Nat) : List (Nat × Nat × Nat) := routeFrom routeMax die stop toDie toStop

/-- Where the home of a byte stands: device, die, stop (R278). A peer's own map says where on it a line stands: a free value
(log 4). -/
def homeAt (s : State) (pa : Nat) : Nat × Nat × Nat :=
  let line := lineOf pa
  match pa / 2 ^ 57 with
  | 2 => (s.domain, 0, stopOf 4 0)
  | 3 => (fld pa 51 6, homeDie line, Config.homeSlice line % Config.coresPerDie)
  | _ => (s.domain, homeDie line, Config.homeSlice line % Config.coresPerDie)

/-- The die and stop of this device that a packet for a device leaves it by, or reaches: the port of the link that the routing
table names for a peer (R324, R338); none where it names none. -/
def localEnd (s : State) (dev die stop : Nat) : Option (Nat × Nat) :=
  if dev = s.domain then some (die, stop)
  else
    let link := s.routing.getD dev 255
    if 11 < link then none else some (link / 3, linkStop link)

/-- A packet that an operation may send: the other end, its class, its payload in bytes, the line or item it is for, and the
physical address it names, where it names one (R325). -/
structure Send where
  end_  : Nat × Nat × Nat
  cls   : Nat
  bytes : Nat
  line  : Nat
  pa    : Option Nat
  deriving DecidableEq, Repr

/-- A packet to or from the home of a byte. -/
def Send.home (s : State) (pa cls bytes line : Nat) : Send := { end_ := homeAt s pa, cls := cls, bytes := bytes, line := line, pa := some pa }

/-- The die and stop of a core of a device. -/
def coreEnd (dev core : Nat) : Nat × Nat × Nat := (dev, dieOf core, core % Config.coresPerDie)

/-- A packet of item `i` of an engine operation (R144, R332). -/
def engSend (s : State) (op : Op) (e : EngOp) (cls i : Nat) : Option Send :=
  if e.fn = 5 then
    (e.targets[if i < 64 then i else (i - 64) / (e.secs * e.rows)]?).map fun t =>
      { end_ := coreEnd t.dev t.core, cls := if cls = 0 then 2 else cls, bytes := 32, line := i, pa := none }
  else
    let va := itemVa s op e i % 2 ^ 57
    (tlbOf s op.core op.ctx va).map fun t => Send.home s (t.key va) cls (if e.inbound = (cls = 0) then 0 else 32) i

/-- The lines of the lanes of a memory operation that `f` chooses, each once, with their bytes. -/
def memSends (s : State) (m : MemOp) (f : LaneAcc → Bool) (cls : Nat) (data : Bool) : List Send :=
  let ls := m.lanes.filter f
  ((ls.map fun l => lineOf l.pa).eraseDups).map fun x =>
    Send.home s x cls (if data then min 240 (m.n * (ls.filter fun l => lineOf l.pa = x).length) else 0) x

/-- The requests of an operation that are to be sent or on their way (R325). -/
def requests (s : State) (op : Op) : List Send :=
  match op.kind with
  | .mem m => memSends s m (fun l => !op.ended l) 0 (m.k ≠ .load)
  | .eng e => e.todo.filterMap (engSend s op e 0)
  | .submit _ _ ka _ _ _ => if op.perf then [] else [Send.home s ka 0 16 (lineOf ka)]
  | .bfetch _ todo _ => todo.filterMap fun q =>
    ((s.group? op.gid).bind fun g => g.readset[q.1]?).map fun x => Send.home s x.line 0 0 q.1
  | .bclose h _ => (((s.die h.die).dirs.find? h.idx).elim [] Dir.lines).map fun l => Send.home s l 2 0 l
  | .amsg m => if op.perf then [] else [{ end_ := coreEnd m.dev m.core, cls := 3, bytes := m.payload.length, line := 0, pa := none }]
  | _ => []

/-- The replies and acknowledgements of an operation that has been performed, from their other end (R325, R330). -/
def replies (s : State) (op : Op) : List Send :=
  match op.kind with
  | .mem m => if m.lanes.all (·.done) then memSends s m (fun _ => true) 1 (m.k ≠ .store) else []
  | .eng e => if e.todo.isEmpty && !e.moved then (engSend s op e 1 0).toList else []
  | .submit _ _ ka _ _ _ => if op.perf then [Send.home s ka 1 8 (lineOf ka)] else []
  | _ => []

/-- The operation has been performed and its reply is on its way (R327). -/
def replyOnWay (op : Op) : Bool :=
  op.lost = 0 && (match op.kind with
    | .mem m => m.lanes.all (·.done)
    | .submit _ _ _ _ _ _ => op.perf
    | _ => false)

/-- Some packet of the operation is on its way: it may be lost (R328). -/
def onWay (op : Op) : Bool :=
  op.lost = 0 && (match op.kind with
    | .mem m => m.lanes.any fun l => !l.done
    | .eng e => !e.todo.isEmpty
    | .submit _ _ _ _ _ _ => !op.perf
    | .bfetch _ _ _ => true
    | .amsg _ => !op.perf
    | _ => false)

/-- The header of Table LNK.2; RCHK and ICHK are check codes that the spec names and does not give (log 16). -/
def Packet.header (p : Packet) : Nat :=
  let r := p.ddev * 2 ^ 50 + p.ddie * 2 ^ 48 + p.dstop * 2 ^ 42 + p.sdev * 2 ^ 36 + p.sdie * 2 ^ 34 + p.sstop * 2 ^ 28 + p.tag * 2 ^ 12 +
    p.cls * 2 ^ 10 + (p.len - 1) * 2 ^ 8 + p.code
  let i := p.ctx * 2 ^ 4 + p.net
  r * 2 ^ 72 + Config.secded 56 r % 2 ^ 8 * 2 ^ 64 + i * 2 ^ 44 + Config.secded 20 i % 2 ^ 8 * 2 ^ 36

/-- Flits of a packet: its header of 16 bytes and its payload in flits of 64 bytes (R325). -/
def flits (payload : Nat) : Nat := (16 + min 240 payload + 63) / 64

/-- The network that a context holds on a die (R185). -/
def netOn (s : State) (c die : Nat) : Option Nat := (s.ctx? c).bind fun x => x.net.find? die

/-- The context whose network it is on the die: the tenant of the buffers there (R185, R326). -/
def netOwner (s : State) (die net : Nat) : Option Nat :=
  (List.find? (fun (c : Nat × Ctx) => c.2.net.find? die = some net) s.ctxs).map Prod.fst

/-- A packet of context `c` from one end to the other as it is stamped where it is injected, from the grant of its context (R326): not
on network 15, which the device alone injects on. Where the context holds no network on that die, that of its other end's die is
taken, and none sends no packet (log 16). TAG and OP are the device's own (Table LNK.2). -/
def stamp (s : State) (j : Job) (o c : Nat) (a b : Nat × Nat × Nat) (x : Send) : Option Packet :=
  ((netOn s c a.2.1).or (netOn s c b.2.1)).map fun n =>
    { job := j, op := o, line := x.line, hopped := 0, ddev := b.1, ddie := b.2.1, dstop := b.2.2, sdev := a.1, sdie := a.2.1, sstop := a.2.2
      tag := Config.tag o % 2 ^ 16, cls := x.cls, len := flits x.bytes, code := Config.packetOp o % 2 ^ 8, ctx := c, net := n
      pos := .gate a.2.1 a.2.2 4 }

/-- The `k`-th packet that operation `o` may send next: of its requests, else of its replies. -/
def packetOf (s : State) (o : Nat) (op : Op) (k : Nat) : Option Packet :=
  let me := coreEnd s.domain op.core
  match requests s op with
  | [] => ((replies s op)[k]?).bind fun x => stamp s .op o op.ctx x.end_ me x
  | l => (l[k]?).bind fun x => stamp s .op o op.ctx me x.end_ x

/-- The die and stop where a packet stands, and the PORT of the input. -/
def PPos.at_ : PPos → Nat × Nat × Nat
  | .lap d st dir _ => (d, st, dir)
  | .esc d st dir _ => (d, st, dir)
  | .gate d st b => (d, st, 4 + b)

/-- The stops of the ring of direction `dir` through a stop (R329). -/
def ringStops (stop dir : Nat) : List Nat :=
  if dir < 2 then (List.range cols).map fun x => stopOf x (stop / cols) else (List.range rows).map fun y => stopOf (stop % cols) y

/-- Flits of one network in a lap slot (R329). -/
def lapUse (l : List Packet) (net : Nat) (pos : PPos) : Nat := ((l.filter fun p => p.net = net && p.pos = pos).map Packet.len).sum

/-- The escape slot of a class and a network at an input is taken. -/
def escTaken (l : List Packet) (cls net die stop dir : Nat) : Bool :=
  l.any fun p => p.cls = cls && p.net = net && (match p.pos with | .esc d st k _ => d = die && st = stop && k = dir | _ => false)

/-- F: the free escape slots of a class and a network over the inputs of a ring direction (R330). -/
def freeEsc (l : List Packet) (cls net die stop dir : Nat) : Nat :=
  ((ringStops stop dir).filter fun st => !escTaken l cls net die st dir).length

/-- THE SLOT that a packet takes at the input of direction `dir` at `stop` (R329, R330): the lap slot of its lap, else the
escape slot of its class: a packet that does not stand in one of the same ring already only while F is 2 or more. `only`: an active
message that arrives takes the escape slot, which it keeps (R331). `l` are the packets whose slots are taken. -/
def slotFor (l : List Packet) (p : Packet) (die stop dir : Nat) (wrap only : Bool) : Option PPos :=
  let same : Option Nat := match p.pos with
    | .lap d _ k lap => if d = die && k = dir then some lap else none
    | .esc d _ k lap => if d = die && k = dir then some lap else none
    | _ => none
  let inEsc : Bool := match p.pos with | .esc d _ k _ => d = die && k = dir | _ => false
  let lap := if wrap then 1 else same.getD 0
  if !only && lapUse l p.net (.lap die stop dir lap) + p.len ≤ 4 then some (.lap die stop dir lap)
  else if escTaken l p.cls p.net die stop dir then none
  else if inEsc || 2 ≤ freeEsc l p.cls p.net die stop dir then some (.esc die stop dir lap)
  else none

/-- The slot at the input of a link for a packet that comes by it, in its local network (R329, R338). -/
def linkSlot (l : List Packet) (p : Packet) (link : Nat) : Option PPos :=
  let die := link / 3
  let stop := linkStop link
  if lapUse l p.net (.lap die stop (16 + link) 0) + p.len ≤ 4 then some (.lap die stop (16 + link) 0)
  else if escTaken l p.cls p.net die stop (16 + link) then none
  else some (.esc die stop (16 + link) 0)

/-- The next hop of a packet. -/
def Packet.hop (s : State) (p : Packet) : Hop :=
  let a := p.pos.at_
  match localEnd s p.ddev p.ddie p.dstop with
  | some (d, st) => nextHop a.1 a.2.1 d st
  | none => .here

/-- The packet stands where it leaves the torus. -/
def Packet.arrived (s : State) (p : Packet) : Bool := p.hop s = .here

/-- Flits that a link carries in a network cycle (R324). -/
def linkFlits : Nat := 2

/-- Flits that a wire group carries in a network cycle, whole ones: 1.024 TB/s at 2.2 GHz (Table DEV.3, R14). -/
def groupFlits : Nat := 7

/-- Wire groups of a boundary that stand at a stop and carry a packet that leaves `die` there. That group g stands at the g mod 6th
stop of a column, or the g mod 8th of a row, is a choice; and one is taken to be there always, since a turn affects no traffic issued
before it completes (R335, R336; DESIGN CHOICE, log 16). -/
def crossGroups (s : State) (b die stop : Nat) : Nat :=
  let n := if horizontal b then rows else cols
  let i := if horizontal b then stop / cols else stop % cols
  let west : Bool := acrossDie b die < die
  max 1 ((List.range 96).filter fun g => g % n = i && (fld (s.bound b).west g 1 = 1) = west && ((s.bound b).turning.find? g).isNone).length

/-- Flits of a packet that the link into its input carries in network cycle `now` (R324). -/
def Packet.uses (p : Packet) (now : Nat) : Nat := if p.hopped = now then min linkFlits p.len else if p.hopped + 1 = now then p.len - linkFlits else 0

/-- The link into an input has room for a packet's flits in network cycle `now`. -/
def linkRoom (s : State) (l : List Packet) (len : Nat) (pos : PPos) (from_ : Nat × Nat) : Bool :=
  let now := s.clocks.nets
  let there := l.filter fun p => p.pos.at_ = pos.at_
  match pos with
  | .gate _ _ b => ((there.filter fun p => p.hopped = now).map Packet.len).sum + len ≤ groupFlits * crossGroups s b from_.1 from_.2
  | _ => (there.map fun p => p.uses now).sum + min linkFlits len ≤ linkFlits

/-- All flits of the packet have come in: it may move on (R324). -/
def Packet.whole (s : State) (p : Packet) : Bool :=
  (match p.pos with | .gate _ _ _ => p.hopped + 1 | _ => p.hopped + (p.len + 1) / linkFlits) ≤ s.clocks.nets

/-- The packet ends its way here as an active message of this device, which keeps its slot (R331). -/
def Packet.stays (s : State) (p : Packet) : Bool := p.cls = 3 && p.ddev = s.domain

/-- The packet after its next hop, where there is room; on another die it stands in its context's network there (R185). -/
def Packet.move (s : State) (l : List Packet) (p : Packet) : Option Packet :=
  let a := p.pos.at_
  let go (q : Packet) : Option Packet := if linkRoom s l p.len q.pos (a.1, a.2.1) then some { q with hopped := s.clocks.nets } else none
  match p.hop s with
  | .here => none
  | .ring dir st wrap =>
    (slotFor l p a.1 st dir wrap (p.stays s && a.1 = p.ddie && st = p.dstop)).bind fun x => go { p with pos := x }
  | .cross b d st => go { p with pos := .gate d st b, net := (netOn s p.ctx d).getD p.net }

/-- The packets of the torus. -/
def State.packets (s : State) : List Packet := s.torus.map Prod.snd

/-- What the packet is sent for still waits for it. -/
def Packet.live (s : State) (p : Packet) : Bool :=
  match p.job with
  | .op => (s.ops.find? p.op).isSome
  | .install die i line => ((s.die die).dirs.find? i).any fun d => d.wait.contains line
  | .spawn r => (s.reqs.find? r).any fun q => !q.queued && !q.placed

/-- EJECTION: packets that nothing waits for, and those that have arrived whole, leave the torus; that of an active message keeps
its slot until its handler is allotted (R221, R331). -/
def eject (s : State) : State :=
  { s with torus := s.torus.filter fun (p : Nat × Packet) =>
      p.2.live s && (!p.2.arrived s || p.2.stays s || !p.2.whole s) }

/-- A packet as it enters the buffers (R329, R330): one that comes by a link at its input, any other by its first hop; an active message
of which the way ends at its own stop takes an escape slot there (log 16). None where there is no room. -/
def Packet.enter (s : State) (p : Packet) : Option Packet :=
  if p.sdev ≠ s.domain then (linkSlot s.packets p (s.routing.getD p.sdev 255)).map fun x => { p with pos := x, hopped := s.clocks.nets }
  else if p.hop s = .here then
    (if !p.stays s then some p
     else if escTaken s.packets p.cls p.net p.sdie p.sstop 0 then none
     else some { p with pos := .esc p.sdie p.sstop 0 0, hopped := s.clocks.nets })
  else p.move s s.packets

/-- A packet shown in the torus; one whose way ends at its own stop enters no buffer. -/
def State.show (s : State) (p : Packet) : State :=
  if p.pos = .gate p.sdie p.sstop 4 then s else { s with torus := s.torus.put s.nextId p, nextId := s.nextId + 1 }

/-- The request's line is not held back by an earlier access of the path to it, which awaits its reply (R330). -/
def maySend (s : State) (o : Nat) (op : Op) (p : Packet) : Bool :=
  match op.kind with
  | .mem m => if op.undone then mayPerform s o op false false true ((m.lanes.filter fun l => lineOf l.pa = p.line).map fun l => (l.pa, 0)) else true
  | .submit _ _ ka kr _ _ => op.perf || mayPerform s o op false false true [(ka, 0), (kr, 0)]
  | _ => true

/-- A packet of an operation is injected at its stop, where there is room (R329, R330); one at a time is shown (log 16). -/
def inject (s : State) (o k : Nat) : State :=
  match s.ops.find? o with
  | none => s
  | some op =>
    if op.lost ≠ 0 || enRoute s o then s
    else match packetOf s o op k with
      | some p => if maySend s o op p then (match p.enter s with | some q => s.show q | none => s) else s
      | none => s

/-- The packet of an install, from its directory's die to the line's home, or of a spawn request that is withdrawn and forwarded
(R246, R294, R325). -/
def sendJob (s : State) (j : Job) : State :=
  if jobOnWay s j then s
  else match j with
    | .op => s
    | .install die i line =>
      (match (s.die die).dirs.find? i with
        | some d =>
          if !d.wait.contains line then s
          else match (stamp s j 0 d.ctx (s.domain, die, 0) (homeAt s line) (Send.home s line 2 0 line)).bind (Packet.enter s) with
            | some q => s.show q
            | none => s
        | none => s)
    | .spawn r =>
      match forwardTo s r with
      | some (q, c) =>
        let x : Send := { end_ := coreEnd s.domain c, cls := 2, bytes := 240, line := 0, pa := none }
        (match (stamp s j 0 q.ctx (coreEnd s.domain q.core) x.end_ x).bind (Packet.enter s) with
          | some p => (withdraw s r q c).show p
          | none => s)
      | none => s

/-- Packet `n` makes its next hop. -/
def hopOne (s : State) (n : Nat) : State :=
  match s.torus.find? n with
  | none => s
  | some p => if !p.whole s then s else match p.move s s.packets with
    | some q => eject { s with torus := s.torus.put n q }
    | none => s

/-- A NETWORK CYCLE of the torus: what has arrived leaves, then each packet that is whole makes one hop where the slot before it was
free at the start of the cycle and its link carries it. `moved` are the packets moved so far in the cycle. -/
def torusCycle (s : State) : State :=
  let s1 := eject s
  let r := s1.torus.foldl (fun (r : SMap Packet × List Packet) x =>
    if !x.2.whole s1 then r
    else match x.2.move s1 (s1.packets ++ r.2) with
      | none => r
      | some q => (r.1.put x.1 q, r.2 ++ [q])) (s1.torus, [])
  { s1 with torus := r.1 }

/-- The packet that an active message of a core starts as; none where its context holds no network there (log 16). -/
def actPacket (s : State) (o c core dev dest len : Nat) : Option Packet :=
  stamp s .op o c (coreEnd s.domain core) (coreEnd dev dest) { end_ := coreEnd dev dest, cls := 3, bytes := len, line := 0, pa := none }

/-- An active message finds an injection slot at its core's stop (R331). -/
def actRoom (s : State) (c core dev dest len : Nat) : Bool :=
  match actPacket s 0 c core dev dest len with
  | some p => (p.enter s).isSome
  | none => true

/-- The packet of an active message takes its injection slot (R331). -/
def sendAct (s : State) (o c core dev dest len : Nat) : State :=
  match (actPacket s o c core dev dest len).bind (Packet.enter s) with
  | some q => s.show q
  | none => s

/-- The inputs on the way of one packet of an operation and back, at the second port of the memory that it reaches, and at the port
of its link (R11, R323, R326; Table HST.5). -/
def sendInputs (s : State) (core : Nat) (x : Send) : List (Nat × Nat × Nat) :=
  let c := coreEnd s.domain core
  match localEnd s x.end_.1 x.end_.2.1 x.end_.2.2 with
  | none => []
  | some e =>
    let second (f : Port2 → Bool) : List (Nat × Nat × Nat) :=
      ((List.range Config.coresPerDie).filter fun st => (portAt e.1 st).any f).map fun st => (e.1, st, 32)
    let memory := if x.end_.1 ≠ s.domain then [(e.1, e.2, 16 + s.routing.getD x.end_.1 255)]
      else match x.pa.map (· / 2 ^ 57) with
        | some 0 => second fun p => match p with | .hbm _ => true | _ => false
        | some 1 => second fun p => match p with | .cxl _ => true | _ => false
        | some 2 => second (· = .host)
        | _ => []
    route c.2.1 c.2.2 e.1 e.2 ++ memory ++ route e.1 e.2 c.2.1 c.2.2

/-- The inputs at which a packet of an operation can be found. -/
def inputsOf (s : State) (op : Op) : List (Nat × Nat × Nat) := (requests s op ++ replies s op).flatMap (sendInputs s op.core)

/-- The packet's context is not the owner of the buffer that it stands in (R326); on a die where the context holds no network, there is
nothing to compare (log 16). -/
def identityBad (s : State) (p : Packet) : Bool := (netOn s p.ctx p.pos.at_.1).any (· ≠ p.net)

/-- The packet of an operation that is shown. -/
def shown (s : State) (o : Nat) : Option Packet := s.packets.find? fun p => p.job = .op && p.op = o

/-- An uncorrectable error can be found there: where a packet of the operation is shown in the torus, at its input; else at any
input on its way. -/
def foundAt (s : State) (o : Nat) (op : Op) (die stop port : Nat) : Bool :=
  match shown s o with
  | some p => p.pos.at_ = (die, stop, port)
  | none => (inputsOf s op).contains (die, stop, port)

end Sys2Proof.Machine
end

