-- ==== Sys2Proof/Machine/Queue.lean ====
section
/-! DEFINITION. Troupe queues, submit, active messages and the turns of wire groups (chapters 13 and 22). -/

namespace Sys2Proof.Machine

/-- PUTSEQ, TAKESEQ, CAP and the reserved bits of a queue header (R206). -/
structure QHead where
  put  : Nat
  take : Nat
  cap  : Nat
  rsv  : Nat
  deriving DecidableEq, Repr

/-- The header at scratchpad offset `q`. -/
def qHead (s : State) (core q : Nat) : QHead :=
  { put := padRd s core q 8, take := padRd s core (q + 8) 8, cap := padRd s core (q + 16) 2, rsv := padRd s core (q + 18) 14 }

/-- Entries held: PUTSEQ − TAKESEQ. -/
def QHead.fill (h : QHead) : Nat := (h.put + 2 ^ 64 - h.take) % 2 ^ 64

/-- Corners of a queue operation (R208): ALIGN, PADBOUND, and ENGINE for qput and qtake. -/
def qBad (s : State) (core c q : Nat) (strict : Bool) : Option (Cause × Nat) :=
  let cap := (qHead s core q).cap
  let top := q + 32 + 256 * cap
  if q % 32 ≠ 0 then some (.align, q)
  else if !ownsBank s core c (q / 4096) || 2 ^ 21 < top ||
      (List.range ((top - 1) / 4096 + 1 - q / 4096)).any (fun i => !ownsBank s core c (q / 4096 + i)) then some (.padbound, q)
  else if strict && ((qHead s core q).rsv ≠ 0 || cap = 0 || 1024 < cap || 2 ^ Nat.log2 cap ≠ cap) then some (.engine, 0)
  else none

/-- The scratchpad offset of entry `n`. -/
def QHead.entry (h : QHead) (q n : Nat) : Nat := q + 32 + 256 * (n % h.cap)

/-- The group stands on the core, or is evicted and its request is that core's (R218, R219). -/
def onCore (s : State) (core : Nat) (g : Group) : Bool :=
  if g.resident then g.place.core = core else (s.reqs.find? g.req).any fun r => r.core = core

/-- A path of the context, which runs, waits on the queue for the same thing and began to wait before stamp `b`; one that the
debugger has halted is passed over, and an evicted one keeps its place (R207). -/
def qWaiter (s : State) (core c q : Nat) (put : Bool) (b : Nat) : Bool :=
  s.groups.any fun g => g.2.ctx = c && onCore s core g.2 && (s.ctx? c).map Ctx.st = some .resident &&
    g.2.paths.any fun p => p.2.waitsFor (.queue q put) && !p.2.halted && p.2.since < b

/-- The queue operation must wait. -/
def qWaits (s : State) (core c q : Nat) (put : Bool) (p : Path) : Bool :=
  let h := qHead s core q
  (if put then h.fill = h.cap else h.put = h.take) || qWaiter s core c q put (p.queueStamp (.queue q put) s.nextId)

/-- QPUT (R206, R207): a release at scope .core: the accesses before it are performed first (R281). -/
def execQput (a b : Nat) (s : State) : Out :=
  gated { acc := { pred := true }, rd := sR [a] ++ vR [b] } s fun g p s1 =>
    let core := g.place.core
    let q := fld (rS g a).toNat 0 21
    match qBad s core g.ctx q true with
    | some (c, x) => trapAt c x s1
    | none =>
      inOrder g true true [] (fun s2 =>
        if qWaits s core g.ctx q true p then waitOn (.queue q true) s2
        else
          let h := qHead s core q
          let m := act s g p
          let bs := (List.range 32).flatMap fun l => bytesLE 8 (if m.getLsbD l then (rV g b l).toNat else 0)
          advance (padWr (padWr s2 core (h.entry q h.put) bs) core q (bytesLE 8 (h.put + 1)))) s1

/-- QTAKE (R206, R207): an acquire at scope .core. -/
def execQtake (a b : Nat) (s : State) : Out :=
  gated { acc := { pred := true }, rd := sR [a], wr := vR [b] } s fun g p s1 =>
    let core := g.place.core
    let q := fld (rS g a).toNat 0 21
    match qBad s core g.ctx q true with
    | some (c, x) => trapAt c x s1
    | none =>
      inOrder g true false [] (fun s2 =>
        if qWaits s core g.ctx q false p then waitOn (.queue q false) s2
        else
          let h := qHead s core q
          let ws := vWrites b (actLanes s g p) fun l => BitVec.ofNat 64 (padRd s core (h.entry q h.take + 8 * l) 8)
          advance ((padWr (l1Drop s2 core g.ctx) core (q + 8) (bytesLE 8 (h.take + 1))).modG fun g => g.puts ws)) s1

/-- Waiters of a queue of a context, saturating at 255 (R208). -/
def qCount (s : State) (core c q : Nat) (put : Bool) : Nat :=
  min 255 ((s.groups.filter fun (g : Nat × Group) => g.2.ctx = c && onCore s core g.2).map fun g =>
    (g.2.paths.filter fun (p : Nat × Path) => p.2.cond = .waiting (.queue q put)).length).sum

/-- QSTAT (R208). -/
def execQstat (a b : Nat) (s : State) : Out :=
  gated { acc := acc0, rd := sR [b], wr := sR [a] } s fun g _ s1 =>
    let core := g.place.core
    let q := fld (rS g b).toNat 0 21
    match qBad s core g.ctx q false with
    | some (c, x) => trapAt c x s1
    | none =>
      let h := qHead s core q
      advance (s1.wS a (BitVec.ofNat 64
        (qCount s core g.ctx q true * 2 ^ 40 + qCount s core g.ctx q false * 2 ^ 32 + h.cap * 2 ^ 16 + h.fill % 2 ^ 16)))

/-- The registered queue of a context with an anchor. -/
def queueAt (s : State) (c anchor : Nat) : Option Nat :=
  (List.find? (fun (q : Nat × KQueue) => q.2.ctx = c && q.2.anchor = anchor) s.queues).map Prod.fst

/-- An anchor on a peer device (Table PAG.1) is registered there or not: a free value says (log 24). -/
def peerAnchor (s : State) (pa : Nat) : Bool := pa / 2 ^ 57 = 3 && (Config.freeValue s.fresh).getLsbD 0

/-- A submit that its step at home finds not permitted writes nothing, and its path takes PERM at its next boundary, before the submit
(R205, R315; log 54); while another trap of the path is due, not yet. -/
def submitPerm (o : Nat) (op : Op) (va : Nat) (s : State) : State :=
  if ((s.path? op.gid op.slot).bind Path.fpx).isSome then s
  else (s.delOp o).modPathAt op.gid op.slot fun p =>
    { p with fpx := some { cause := .perm, data := BitVec.ofNat 64 va, addr := op.site.1, next := op.site.2, rep := 0, after_ := false } }

/-- SUBMIT (R205): its corners and translations; the step at the anchor's home follows. -/
def execSubmit (a b : Nat) (s : State) : Out :=
  gated { acc := acc0, rd := sR [a, b], wr := sR [b + 1] } s fun g p s1 =>
    let an := (rS g a).toNat
    let re := (rS g b).toNat
    if badVa an then trapAt .perm an s1
    else if badVa re then trapAt .perm re s1
    else if an % 64 ≠ 0 then trapAt .align an s1
    else if re % 128 ≠ 0 then trapAt .align re s1
    else
      translateEach g p [(an, Need.rw), (re, Need.write)] (fun pas s2 =>
        let ka := pas.headD 0
        if (queueAt s2 g.ctx (an % 2 ^ 57)).isNone && !peerAnchor s2 ka then trapAt .perm an { s2 with fresh := s2.fresh + 1 }
        else
          let t8 := (s2.rd ka 8 + 8) % 2 ^ 64
          if badVa t8 then trapAt .perm t8 { s2 with fresh := s2.fresh + 1 }
          else translate g p [t8] Need.write (fun _ s3 =>
            advance ({ s3 with fresh := s3.fresh + 1 }.addOp
              { gid := s.iss.gid, slot := s.iss.slot, ctx := g.ctx, core := g.place.core, perf := false, lost := 0, born := s.clocks.nets,
                kind := .submit (an % 2 ^ 57) re ka (pas.getD 1 0) (b + 1) 0
                site := (s.iss.addr, s.iss.next) })) s2) s1

/-- The writes of a submit at its anchor's home, and its sequence number (R205): the anchor is at `ka`, the record at `kr`, the
last record's NEXT at `kt`. -/
def submitStep (s : State) (core : Option Nat) (re ka kr kt : Nat) : State × Nat :=
  let n := (s.rd (ka + 8) 8 + 1) % 2 ^ 64
  (homeWrite (homeWrite (homeWrite s core kr (bytesLE 8 n ++ bytesLE 8 0)) core kt (bytesLE 8 re)) core ka (bytesLE 8 re ++ bytesLE 8 n), n)

/-- THE STEP OF A SUBMIT at its anchor's home (R205): one step, after every earlier access of its path (R281), by the
translations of its issue. TAIL is read in the step, so that NEXT of the last record is translated there: a page that misses
waits in the fault buffer, and one that may not be written ends in PERM (log 54). -/
def submitPerform (o : Nat) (op : Op) (an re ka kr reg : Nat) (s : State) : State :=
  if op.perf || op.lost ≠ 0 || !mayPerform s o op true true true [(ka, 16), (kr, 16)] then s
  else
    let t8 := (s.rd ka 8 + 8) % 2 ^ 64
    match bgXlate s op.core op.ctx t8 Need.write false with
    | (s1, .fault k) => bgFault s1 op.core op.ctx t8 k Need.write false (.op o)
    | (s1, .perm) => submitPerm o op t8 s1
    | (s1, .wait) => s1
    | (s1, .key kt) =>
      if linkWaits s1 ka || linkWaits s1 kr || linkWaits s1 kt || !mayPerform s1 o op true true true [(kt, 8)] then s1 else
      let r := submitStep s1 (some op.core) re ka kr kt
      let s2 := r.1.modOp o fun p => { p with perf := true, kind := .submit an re ka kr reg r.2 }
      match queueAt s2 op.ctx an with
      | some i => ring i s2
      | none => s2

/-- The domain table holds the device (R331, R338). -/
def inDomain (s : State) (dev : Nat) : Bool := dev = s.domain || (dev < 64 && s.routing.getD dev 255 ≠ 255)

/-- Scalar registers that hold a payload of `n` bytes. -/
def payRegs (b n : Nat) : List Nat := (List.range ((n + 7) / 8)).map (b + ·)

/-- LEN of the issuing group's S(a), for the scoreboard. -/
def amsgLen (s : State) (a : Nat) : Nat :=
  match s.group? s.iss.gid with
  | some g => min 192 (fld (rS g a).toNat 24 8)
  | none => 0

/-- AMSG (R331): a release, once the accesses before it are performed (R281), and an injection slot is there; the message is on its
way in that slot. -/
def execAmsg (a b : Nat) (s : State) : Out :=
  gated { acc := acc0, rd := sR (a :: (payRegs b (amsgLen s a)).filter (· < 128)) } s fun g _ s1 =>
    let x := (rS g a).toNat
    let len := fld x 24 8
    let dev := fld x 16 8
    if 192 < len || fld x 32 32 ≠ 0 then trapAt .illop 0 s1
    else if 128 < b + (len + 7) / 8 then trapAt .regbound 0 s1
    else if !inDomain s dev then trapAt .perm 0 s1
    else
      let bytes := (payRegs b len).flatMap fun r => bytesLE 8 (rS g r).toNat
      inOrder g true true [] (fun s2 =>
        if !actRoom s2 g.ctx g.place.core dev (fld x 8 8) len then waitOn (.actSlot dev (fld x 8 8) len) s2
        else advance (sendAct (s2.addOp
          { gid := s.iss.gid, slot := s.iss.slot, ctx := g.ctx, core := g.place.core, perf := false, lost := 0, born := s.clocks.nets,
            kind := .amsg { op := s2.nextId, ctx := g.ctx, dev := dev, core := fld x 8 8, idx := fld x 0 8, payload := bytes.take len,
                            srcDev := s.domain, srcCore := g.place.core } }) s2.nextId g.ctx g.place.core dev (fld x 8 8) len)) s1

/-- Turns of a context that have not completed on a boundary (R337). -/
def turnsOf (b : Bound) (c : Nat) : Nat := (b.queue.filter fun t => t.ctx = c).length

/-- A turn of a context must wait for room (R337). -/
def turnWaits (b : Bound) (c : Nat) : Bool := 8 ≤ b.queue.length || 2 ≤ turnsOf b c

/-- East-bound wire groups (R335, Table LNK.3). -/
def Bound.east (b : Bound) : Nat :=
  ((List.range 96).filter fun g => fld b.west g 1 = 0 && (b.turning.find? g).isNone).length

/-- DTURN (R337). -/
def execDturn (a b k : Nat) (s : State) : Out :=
  gated { acc := acc0, rd := if k = 2 then sR [a, b] else sR [b], wr := if k = 2 then [] else sR [a] } s fun g _ s1 =>
    let x := (rS g b).toNat
    let bi := fld x 0 2
    let bd := s.bound bi
    match k with
    | 0 =>
      let n := fld x 8 7
      if n = 0 || 88 < n || x ≠ bi + 2 ^ 8 * n + 2 ^ 16 * fld x 16 1 then trapAt .illop 0 s1
      else if bd.allots.get 0 g.ctx = 0 then trapAt .perm 0 s1
      else if turnWaits bd g.ctx then waitOn (.turnQueue bi) s1
      else
        let t : Turn := { ctx := g.ctx, n := n, west := fld x 16 1 = 1, seq := bd.nextSeq, allot := bd.allots.get 0 g.ctx, chosen := none }
        advance ((s1.modBound bi fun d => { d with queue := d.queue ++ [t], nextSeq := d.nextSeq + 1 }).wS a (BitVec.ofNat 64 bd.nextSeq))
    | 1 =>
      if x ≠ bi then trapAt .illop 0 s1
      else advance (s1.wS a (BitVec.ofNat 64 (bd.east * 2 ^ 56 + bd.doneSeq % 2 ^ 56)))
    | _ =>
      if x ≠ bi then trapAt .illop 0 s1
      else if (rS g a).toNat ≤ bd.doneSeq then advance s1
      else waitThen (.turnDone bi (rS g a).toNat) s.iss.next s1

end Sys2Proof.Machine
end

