-- ==== Sys2Proof/Machine/Sort.lean ====
section
/-! DEFINITION. The sort array (chapter 11). -/

namespace Sys2Proof.Machine

/-- Rank of a key under a format (Table SRT.1). -/
def rank (kf x : Nat) : Nat :=
  match kf with
  | 0 => x ^^^ 0x80000000
  | 1 => x
  | 2 => if fld x 31 1 = 1 then x ^^^ 0xFFFFFFFF else x ^^^ 0x80000000
  | 3 => if fld x 15 1 = 1 then x ^^^ 0xFFFF else x ^^^ 0x8000
  | 4 => if fld x 15 1 = 1 then x ^^^ 0xFFFF else x ^^^ 0x8000
  | _ => x

/-- The total order of R171. -/
def cellBefore (kf dir : Nat) (p q : Cell) : Bool :=
  if rank kf p.key ≠ rank kf q.key then
    (if dir = 0 then rank kf p.key < rank kf q.key else rank kf q.key < rank kf p.key)
  else p.pos < q.pos

/-- One step of shearsort: each cell's record after the exchanges of step `st` of phase `ph` (R172). -/
def sortStep (kf dir ph st : Nat) (cells : List Cell) : List Cell :=
  let a := cells.toArray
  let at_ (i : Nat) : Cell := a.getD i { key := 0, pay := 0, pos := 0 }
  let swaps (lo hi : Nat) : Bool := cellBefore kf dir (at_ hi) (at_ lo)
  (List.range 1024).map fun i =>
    let r := i / 32
    let c := i % 32
    if ph % 2 = 0 then
      let sw (l : Nat) : Bool := if r % 2 = 1 then swaps (l + 1) l else swaps l (l + 1)
      if c % 2 = st % 2 then (if c ≤ 30 && sw i then at_ (i + 1) else at_ i)
      else (if 1 ≤ c && sw (i - 1) then at_ (i - 1) else at_ i)
    else if r % 2 = st % 2 then (if r ≤ 30 && swaps i (i + 32) then at_ (i + 32) else at_ i)
    else (if 1 ≤ r && swaps (i - 32) i then at_ (i - 32) else at_ i)

/-- One arithmetic cycle of a running array (R172, R182): a stop that is due takes effect at this step boundary; the step that
is the last of the 352 makes it sorted. -/
def SortArr.tick (x : SortArr) : SortArr :=
  if x.st ≠ .running || x.paused || 11 ≤ x.phase then x
  else if x.stopReq then { x with st := .stopped, stopReq := false }
  else
    let y := { x with cells := sortStep x.kf x.dir x.phase x.step x.cells }
    if x.step + 1 = 32 then
      (if x.phase + 1 = 11 then { y with phase := 11, step := 0, st := .sorted } else { y with phase := x.phase + 1, step := 0 })
    else { y with step := x.step + 1 }

/-- The array's state makes SORT instructions wait (Table SRT.2). -/
def SortArr.busy (x : SortArr) : Bool := x.st = .loading || x.st = .running || x.st = .storing

/-- A path of the core that began to wait for the array before stamp `b`; one that the debugger halts does not hold others
back (R175). -/
def sortWaiter (s : State) (core b : Nat) : Bool :=
  s.groups.any fun g => s.runs g.2 && g.2.place.core = core &&
    g.2.paths.any fun p => p.2.waitsFor .sort && !p.2.halted && !p.2.held && p.2.since < b

/-- The array is busy, or an earlier waiter is to be served first. -/
def sortWaits (s : State) (core : Nat) (p : Path) : Bool :=
  (s.core core).sort.busy || sortWaiter s core (p.queueStamp .sort s.nextId)

/-- A SORT instruction that needs the array: the owner's check (R174), then the waits of R175, then `k`. -/
def sortInstr (rd : List RegN) (s : State) (early : Group → Option (Cause × Nat))
    (k : Group → Path → SortArr → State → State) : Out :=
  gated { acc := acc0, rd := rd } s fun g p s1 =>
    let core := g.place.core
    if (s.core core).sortq ≠ g.place.quad then trapAt .sortstate 0 s1
    else match early g with
      | some (c, d) => trapAt c d s1
      | none => if sortWaits s core p then waitOn .sort s1 else k g p (s.core core).sort s1

/-- The array changed. -/
def State.modSort (s : State) (core : Nat) (f : SortArr → SortArr) : State :=
  s.modCore core fun k => { k with sort := f k.sort }

/-- Bytes of a block of 1,024 records (R170). -/
def recSize (kf : Nat) : Nat := if kf = 5 then 16 else 8

/-- ALIGN and PADBOUND of a descriptor (R177, R179); the %trapdata of ALIGN is 0, since no lane's address fails (DESIGN CHOICE, log 52). -/
def sortDesc (s : State) (d : Nat) (g : Group) : Option (Cause × Nat) :=
  if fld d 8 24 % 32 ≠ 0 then some (.align, 0)
  else if !tileOwned s g.place.core g.ctx (fld d 0 8) then some (.padbound, fld d 0 8) else none

/-- SXLD (R177). -/
def execSxld (a k : Nat) (s : State) : Out :=
  let d (g : Group) : Nat := (rS g a).toNat
  sortInstr (sR [a]) s (fun g => sortDesc s (d g) g) fun g _ _ s1 =>
    let core := g.place.core
    let t := fld (d g) 0 8
    let off := fld (d g) 8 24
    (tileRead s core g.ctx t).then t false (fun s2 =>
      if 4096 * (s.tile core t).count < off + 1024 * recSize k then trapAt .engine 0 s2
      else
        let s3 := (s2.modTile core t fun x => { x with held := x.held + 1 }).modSort core fun x =>
          { x with st := .loading, cells := [], phase := 0, step := 0, kf := k, gid := s.iss.gid, slot := s.iss.slot, tile := t, off := off,
                   op := s2.nextId, stopReq := false, paused := false }
        advance { s3 with nextId := s2.nextId + 1 }) s1

/-- SXRUN (R178). -/
def execSxrun (k : Nat) (s : State) : Out :=
  sortInstr [] s (fun _ => none) fun g _ x s1 =>
    let run (ph st : Nat) : State :=
      advance { s1.modSort g.place.core fun x =>
        { x with st := .running, phase := ph, step := st, dir := k % 2, gid := s.iss.gid, slot := s.iss.slot, op := s1.nextId, stopReq := false, paused := false }
        with nextId := s1.nextId + 1 }
    match x.st with
    | .loaded => run 0 0
    | .sorted => run 0 0
    | .stopped => if k % 2 = x.dir then run x.phase x.step else trapAt .sortstate 0 s1
    | _ => trapAt .sortstate 0 s1

/-- SXST (R179): the tile waits while it is filling or draining; a held one is ready, and raises ENGINE. The
order of the checks is log 80 (DEDUCED). -/
def execSxst (a k : Nat) (s : State) : Out :=
  let d (g : Group) : Nat := (rS g a).toNat
  sortInstr (sR [a]) s (fun g => sortDesc s (d g) g) fun g _ x s1 =>
    let core := g.place.core
    let t := fld (d g) 0 8
    let off := fld (d g) 8 24
    let tl := s.tile core t
    if x.st ≠ .sorted then trapAt .sortstate 0 s1
    else if tl.busy then waitOn (.tile t false false) s1
    else
      (tileState tl true).then t false (fun s2 =>
        if 4096 * tl.count < off + 1024 * recSize x.kf then trapAt .engine 0 s2
        else
          let s3 := (s2.modTile core t fun x => { x with st := .filling }).modSort core fun x =>
            { x with st := .storing, gid := s.iss.gid, slot := s.iss.slot, tile := t, off := off, k := k, op := s2.nextId }
          advance { s3 with nextId := s2.nextId + 1 }) s1

/-- State codes (Table SRT.2). -/
def SortSt.code : SortSt → Nat
  | .idle => 0 | .loading => 1 | .loaded => 2 | .running => 3 | .stopped => 4 | .sorted => 5 | .storing => 6

/-- SXSTAT (R181, Table SRT.4). -/
def execSxstat (a : Nat) (s : State) : Out :=
  gated { acc := acc0, wr := sR [a] } s fun g _ s1 =>
    let c := s.core g.place.core
    let x := c.sort
    let mine : Bool := c.sortq = g.place.quad
    let same : Bool := (s.quad (4 * g.place.core + c.sortq)).owner = g.ctx
    advance (s1.wS a (BitVec.ofNat 64
      (if same then x.phase * 2 ^ 24 + x.step * 2 ^ 19 + x.kf * 2 ^ 16 + x.dir * 2 ^ 15 + c.sortq * 2 ^ 10 +
          (if mine then 2 ^ 9 else 0) + x.st.code
        else c.sortq * 2 ^ 10)))

/-- Every cell and the counter zeroed, the array idle (R174, R182, R183). -/
def SortArr.clear (x : SortArr) : SortArr := { SortArr.idle with kf := x.kf, dir := x.dir }

/-- SXABORT (R182). -/
def execSxabort (k : Nat) (s : State) : Out :=
  gated { acc := acc0 } s fun g p s1 =>
    let core := g.place.core
    if (s.core core).sortq ≠ g.place.quad then trapAt .sortstate 0 s1
    else if k = 0 then
      advance (if (s.core core).sort.st = .running then s1.modSort core fun x => { x with stopReq := true } else s1)
    else if sortWaits s core p then waitOn .sort s1
    else advance (s1.modSort core SortArr.clear)

/-- SORT_LOAD_END (R169, R170, R177): the records are in their cells; the tile's hold ends. All words are read here, so that one that
another path writes while the load runs is read new: R177 allows the old value or the new (DESIGN CHOICE, log 108). -/
def execSortLoadEnd (core : Nat) (s : State) : Out :=
  .next (let x := (s.core core).sort
    if x.st ≠ .loading then s
    else
      let n := recSize x.kf
      let base := 4096 * (s.tile core x.tile).base + x.off
      let cells : List Cell := (List.range 1024).map fun i =>
        { key := padRd s core (base + n * i) (if x.kf = 5 then 8 else if x.kf = 3 || x.kf = 4 then 2 else 4)
          pay := padRd s core (base + n * i + n / 2) 4, pos := i }
      (s.modTile core x.tile fun t => { t with held := t.held - 1 }).modSort core fun y =>
        { y with st := .loaded, cells := cells, phase := 0, step := 0 })

/-- SORT_RUN_END (R172): step 352 has ended; the array is sorted from the cycle of that step on, so that the event finds
nothing left to do. -/
def execSortRunEnd (core : Nat) (s : State) : Out :=
  .next (let x := (s.core core).sort
    if x.st = .running && x.phase = 11 then s.modSort core fun y => { y with st := .sorted, step := 0, stopReq := false } else s)

/-- The quadrant that owns the array belongs to a context that quiesces. -/
def sortQuiesces (s : State) (core : Nat) : Bool :=
  (s.ctx? (s.quad (4 * core + (s.core core).sortq)).owner).map Ctx.st = some .quiescing

/-- SORT_STOP (R182, R183): at a step boundary a run stops, or pauses for quiescence and stays running. -/
def execSortStop (core : Nat) (s : State) : Out :=
  .next (let x := (s.core core).sort
    if x.st = .running && x.stopReq then s.modSort core fun y => { y with st := .stopped, stopReq := false }
    else if x.st = .running && sortQuiesces s core then s.modSort core fun y => { y with paused := true }
    else s)

/-- Record `j` of the sorted arrangement: the snake order removed (R172). -/
def SortArr.record (x : SortArr) (j : Nat) : Cell :=
  x.cells.getD (if j / 32 % 2 = 0 then j else 32 * (j / 32) + 31 - j % 32) { key := 0, pay := 0, pos := 0 }

/-- SORT_STORE_END (R170, R179): the records are in the tile, which is ready with no region (R190). -/
def execSortStoreEnd (core : Nat) (s : State) : Out :=
  .next (let x := (s.core core).sort
    if x.st ≠ .storing then s
    else
      let h := recSize x.kf / 2
      let bs := (List.range 1024).flatMap fun j =>
        let r := x.record j
        bytesLE h r.key ++ bytesLE h (if x.k = 0 then r.pay else r.pos)
      ((padWr s core (4096 * (s.tile core x.tile).base + x.off) bs).modTile core x.tile fun t =>
        { t with st := .ready, rmask := 0 }).modSort core fun y => { y with st := .sorted })

/-- SORT_SOFT_ERROR (R183): the array idles with zeroed cells, the ERR bit of the group whose operation it ends is set, the
log records it. What
its operation did with a tile ends there: a load's hold is lifted, a store's tile is ready. -/
def execSortSoftError (core : Nat) (s : State) : Out :=
  .next (let x := (s.core core).sort
    let c := (s.quad (4 * core + (s.core core).sortq)).owner
    let s1 := if x.st = .loading then s.modTile core x.tile fun t => { t with held := t.held - 1 }
      else if x.st = .storing then s.modTile core x.tile fun t => { t with st := .ready, rmask := 0 } else s
    let s2 := s1.modSort core SortArr.clear
    let pg := ((s.group? x.gid).map (pgroup s)).getD 0
    ctxLog (if x.busy then setErr s2 x.gid 2 else s2) c 18 [(1, 1), (1, pg), (1, x.slot), (1, 0), (8, 0)])

end Sys2Proof.Machine
end

