-- ==== Sys2Proof/Machine/Wait.lean ====
section
/-! DEFINITION. waitc, seqw and sleep (R147, R148), and the end of every wait: the event WAKE (R223). -/

namespace Sys2Proof.Machine

/-- The class of an operation in flight that waitc may name (R147, R302). -/
def OpKind.cls : OpKind → Option Nat
  | .eng e => some (engClass e.eng)
  | .mem m => match m.k with | .atom _ => some 3 | _ => none
  | .bclose _ _ => some 4
  | .bfetch _ _ _ => some 4
  | _ => none

/-- The sort operations in progress: identity and group (R180). -/
def sortOps (s : State) : List (Nat × Nat) :=
  (s.cores.filter fun (c : Nat × Core) => c.2.sort.busy).map fun c => (c.2.sort.op, c.2.sort.gid)

/-- The operations of the named classes that the group has in flight. -/
def waitIds (s : State) (gid cls : Nat) : List Nat :=
  ((s.ops.filter fun (o : Nat × Op) => o.2.gid = gid &&
      (match o.2.kind.cls with | some c => fld cls c 1 = 1 | none => false)).map Prod.fst) ++
    (if fld cls 2 1 = 1 then ((sortOps s).filter fun x => x.2 = gid).map Prod.fst else [])

/-- None of the operations is in flight any more. -/
def idsDone (s : State) (ids : List Nat) : Bool :=
  ids.all fun i => (s.ops.find? i).isNone && !(sortOps s).any fun x => x.1 = i

/-- WAITC (R147, R148): with its classes' operations ended, ENGINE where an ERR bit of them is set, which clears
them; its return drops the core's L1 lines (R287). -/
def execWaitc (c : Nat) (s : State) : Out :=
  gated { acc := acc0 } s fun g _ s1 =>
    let ids := waitIds s s.iss.gid c
    if !ids.isEmpty then waitThen (.waitc c ids) s.iss.next s1
    else if g.err &&& c ≠ 0 then trapAt .engine 0 (s1.modG fun g => { g with err := g.err &&& (63 - c &&& 63) })
    else advance (l1Drop s1 g.place.core g.ctx)

/-- SEQW (R147, R148): the value is read at its home, after the accesses of the path that must precede it. -/
def execSeqw (a b : Nat) (s : State) : Out :=
  gated { acc := { ords := [0, 1, 4] }, rd := sR [a, b] } s fun g p s1 =>
    let va := (rS g a).toNat
    let o := ordOf s 1 3
    let acq := [1, 4].contains o.1
    if badVa va then trapAt .perm va s1
    else if va % 8 ≠ 0 then trapAt .align va s1
    else
      translate g p [va] Need.read (fun pas =>
        let pa := pas.headD 0
        inOrder g false (o.1 = 4) [(pa, 8)] fun s2 =>
          let r := loadLane s2 s.iss.gid g.place.core g.ctx 8 pa false false
          if (rS g b).toNat ≤ r.2 then advance (if acq then l1Drop r.1 g.place.core g.ctx else r.1)
          else waitThen (.seqw va pa (rS g b).toNat acq) s.iss.next r.1) s1

/-- SLEEP (R147): at least min(S(a), 2^24) arithmetic cycles; 0 acts as yield. -/
def execSleep (a : Nat) (s : State) : Out :=
  gated { acc := acc0, rd := sR [a] } s fun g _ s1 =>
    if rS g a = 0 then advance (giveWay s1 g)
    else waitThen (.sleep (s.cycles + min (rS g a).toNat (2 ^ 24))) s.iss.next s1

/-- A wait of matrix work that is not accepted yet and will be charged (R159, R198). -/
def Wake.charged : Wake → Bool
  | .latch => true
  | .wslots _ mat => mat
  | .tile _ mat _ => mat
  | _ => false

/-- Matrix work of the group that is issued and neither accepted nor withdrawn: its path waits, or has been woken to take it again
(R159, R198). -/
def chargesOpen (g : Group) : Bool :=
  g.paths.any fun q => match q.2.cond with
    | .waiting w => w.charged
    | .ready => q.2.woken.any Wake.charged
    | _ => false

/-- A reply still to come writes a register of a group (R351). -/
def regPending (s : State) (gid : Nat) (r : RegN) : Bool := s.ops.any fun o => o.2.gid = gid && o.2.kind.dsts.contains r

/-- A fault keeps the read-back of a path waiting (R314). -/
def frameFault (s : State) (gid slot : Nat) : Bool := s.dies.any fun d => d.2.faults.any fun f => f.2.frames.contains (gid, slot, .readBack)

/-- The wake condition of path `slot` of a group holds (R147, R192). -/
def wakeMet (s : State) (gid slot : Nat) (g : Group) (p : Path) : Wake → Bool
  | .score rs => !scoreBusy s gid slot p rs
  | .acc t => !accBusy s g.place.quadIx t
  | .faultRoom => faultRoom s (dieOf g.place.core)
  | .sleep u => u ≤ s.cycles
  | .waitc _ ids => idsDone s ids
  | .seqw _ pa v _ => v ≤ s.rd pa 8
  | .bar coh k ph => phaseOf s g coh k ≠ ph
  | .barAgain coh k ph => phaseOf s g coh k ≠ ph
  | .barw k v => !barwWaits (phaseOf s g false k) v
  | .rcv _ => false
  | .regroup _ _ _ => false
  | .join addr => match p.frames.find? fun f => f.addr = addr with | some f => f.st = .done | none => true
  | .claim => !p.reserve.isEmpty || p.aborted || (findFree g.place.core g.ctx g g.nrec p.claimed s).2 = .none_
  | .frame _ => !frameFault s gid slot
  | .latch => false
  | .tile t _ held => !(s.tile g.place.core t).busy && (!held || (s.tile g.place.core t).held = 0)
  | .eplace e => (engOps s g.place.core e).length < 64
  | .sort => !sortWaits s g.place.core p
  | .wslots ss _ => !slotsRead s g.place.quadIx ss && ss.all fun i => ((s.quad g.place.quadIx).slot i).st ≠ .loading
  | .charges => !chargesOpen g
  | .queue q put => !qWaits s g.place.core g.ctx q put p
  | .fetch => !fetching s gid
  | .dirFree => (freeDir s (dieOf g.place.core)).isSome
  | .turnQueue b => !turnWaits (s.bound b) g.ctx
  | .turnDone b n => n ≤ (s.bound b).doneSeq
  | .mbox send => if send then !s.host.p2hFull else !s.host.h2pEmpty
  | .rinj i k n => !regPending s i (k, n)
  | .porter => false
  | .actSlot dev dest len => actRoom s g.ctx g.place.core dev dest len
  | .order w r foot => !orderHolds s gid slot g w r foot

/-- The path goes on after its instruction (R223). -/
def goOn (s : State) (gid slot : Nat) : State :=
  s.modPathAt gid slot fun p => { p.fresh with cond := .ready, pc := p.after_, rep := 0 }

/-- The path takes its instruction again; it keeps its place among those that wait for the same (R175, R207). -/
def again (s : State) (gid slot : Nat) (w : Wake) : State :=
  s.modPathAt gid slot fun p => { p with cond := .ready, woken := some w }

/-- The end of a wait whose condition holds. What a seqw has read at its home is not older in the core's L1 afterwards
(R267, R274). -/
def wakeUp (s : State) (gid slot : Nat) (g : Group) : Wake → State
  | .sleep _ => goOn s gid slot
  | .waitc c _ =>
    if g.err &&& c ≠ 0 then trapWaiting (s.modGroup gid fun g => { g with err := g.err &&& (63 - c &&& 63) }) gid slot .engine
    else l1Drop (goOn s gid slot) g.place.core g.ctx
  | .seqw _ pa _ acq =>
    if acq then l1Drop (goOn s gid slot) g.place.core g.ctx
    else l1Fill (goOn s gid slot) g.place.core g.ctx (lineOf pa) false
  | .bar _ _ _ => l1Drop (goOn s gid slot) g.place.core g.ctx
  | .barw _ _ => l1Drop (goOn s gid slot) g.place.core g.ctx
  | .turnDone _ _ => goOn s gid slot
  | w => again s gid slot w

/-- A wait that ends though the context stops: of an instruction issued before, for the accesses before it (R191, R260). -/
def Wake.lands : Wake → Bool
  | .order _ _ _ => true
  | _ => false

/-- A path of a resident group of a resident context waits on a condition that holds, or of one that stops on one that lands. A
path that the debugger has halted keeps its place in a queue (R207) and takes no trap (R358). -/
def wakeDue (s : State) (gid slot : Nat) : Option (Group × Wake) :=
  match s.group? gid with
  | none => none
  | some g =>
    match g.paths.find? slot with
    | none => none
    | some p =>
      match p.cond with
      | .waiting w =>
        let held : Bool := p.halted && (match w with
          | .queue _ _ => true
          | .sort => true
          | .waitc c _ => g.err &&& c ≠ 0
          | _ => false)
        let st := (s.ctx? g.ctx).map Ctx.st
        if g.resident && (st = some .resident || (st = some .quiescing && w.lands)) && !held && wakeMet s gid slot g p w then some (g, w) else none
      | _ => none

/-- WAKE (R223): the wait ends; nothing happens while its condition does not hold. -/
def execWake (gid slot : Nat) (s : State) : Out :=
  .next (match wakeDue s gid slot with
    | some (g, w) => wakeUp s gid slot g w
    | none => s)

end Sys2Proof.Machine
end

