-- ==== Sys2Proof/Machine/Alloc.lean ====
section
/-! DEFINITION. Placement: seats, the start of groups, allotment queues, eviction (R216 to R221, R246, R39, R45). -/

namespace Sys2Proof.Machine

/-- The cores of a die where the context owns a quadrant. -/
def coresOn (s : State) (c die : Nat) : List Nat :=
  ((List.range Config.coresPerDie).map (Config.coresPerDie * die + ·)).filter fun k => ownsCore s c k

/-- A seat in a partition: a position and a range of registers (R46), with the split-table entries that its group's fragments
take (R228). Position 16 is the handler position. -/
structure Seat where
  place  : Place
  base   : Nat
  budget : Nat
  frags  : Nat
  deriving DecidableEq, Repr

/-- The fragments of a group. -/
def Group.frags (g : Group) : Nat := (g.paths.filter fun (p : Nat × Path) => 2 ≤ p.1).length

/-- The seats taken on a core. -/
def seatsOf (s : State) (core : Nat) : List Seat :=
  (s.groups.filter fun (g : Nat × Group) => g.2.resident && g.2.place.core = core).map fun g =>
    { place := g.2.place, base := g.2.base, budget := g.2.budget, frags := g.2.frags }

/-- What a group asks for: a budget, whether the handler that serves it comes along (R347), and the fragments of the two. -/
structure Want where
  budget  : Nat
  handler : Bool
  frags   : Nat
  deriving DecidableEq, Repr

/-- The seat of a group in partition `p` of quadrant `q`: the lowest position and the lowest base that is a multiple
of 8 (R217). -/
def seatIn (taken : List Seat) (core q p : Nat) (w : Want) : Option Seat :=
  let here := taken.filter fun t => t.place.core = core && t.place.quad = q && t.place.part = p
  let grp := here.filter fun t => t.place.pos < 16
  let pos := (List.range 16).find? fun i => grp.all fun t => t.place.pos ≠ i
  let base := ((List.range 64).map (8 * ·)).find? fun b =>
    b + w.budget ≤ 512 && grp.all fun t => b + w.budget ≤ t.base || t.base + t.budget ≤ b
  if w.handler && here.any fun t => t.place.pos = 16 then none
  else match pos, base with
    | some i, some b =>
      some { place := { core := core, quad := q, part := p, pos := i }, base := b, budget := w.budget, frags := w.frags }
    | _, _ => none

/-- The handler seat that goes with a group's seat. -/
def Seat.handler (t : Seat) : Seat := { place := { t.place with pos := 16 }, base := 0, budget := 32, frags := 0 }

/-- The seats of groups in order, each in the lowest-numbered partition with room; none where one does not fit. -/
def seatAll (core : Nat) (quads : List Nat) : List Want → List Seat → Option (List Seat)
  | [], _ => some []
  | w :: ws, taken =>
    match (quads.flatMap fun q => (List.range 4).map fun p => (q, p)).findSome? fun x => seatIn taken core x.1 x.2 w with
    | none => none
    | some t => (seatAll core quads ws (taken ++ t :: (if w.handler then [t.handler] else []))).map (t :: ·)

/-- The seats of a request on a core: a troupe within one quadrant (R217), and fragments only where the core's split table
has entries for them (R228; log 56). -/
def seatReq (s : State) (c core : Nat) (troupe : Bool) (ws : List Want) (taken : List Seat) : Option (List Seat) :=
  let qs := (List.range 4).filter fun q => ownsQuad s c core q
  let want := (ws.map Want.frags).sum
  if want ≠ 0 && splitMax < want + ((taken.filter fun t => t.place.core = core).map Seat.frags).sum then none
  else if troupe then qs.findSome? fun q => seatAll core [q] ws taken else seatAll core qs ws taken

/-- The role of group `i` of a troupe: entry and budget; roles take %grp in order (R212). -/
def roleOf : List (Nat × Nat × Nat) → Nat → Nat × Nat
  | [], _ => (0, 8)
  | (e, n, b) :: t, i => if i < n then (e, b) else roleOf t (i - n)

/-- The budgets of a kernel's team. -/
def teamWants (k : Kernel) : List Want :=
  (List.range k.groups).map fun i => { budget := if k.troupe then (roleOf k.roles i).2 else k.regs, handler := false, frags := 0 }

/-- The handler group that runs for a group. -/
def handlerOf (s : State) (gid : Nat) : Option (Nat × Group) :=
  List.find? (fun (g : Nat × Group) => (g.2.served.map Prod.fst) = some gid) s.groups

/-- A task-type entry of a context (Table KRN.4). -/
def taskOf (s : State) (c i : Nat) : Option Task := (s.ctx? c).bind fun x => x.tasks.find? i

/-- What the groups of a request ask for, and whether it is a troupe. -/
def reqWants (s : State) (r : Req) : List Want × Bool :=
  let back := r.gids.filterMap fun i => (s.group? i).map fun g => 
    let h := handlerOf s i
    ({ budget := g.budget, handler := h.isSome, frags := g.frags + h.elim 0 fun x => x.2.frags } : Want)
  match r.kind with
  | .team t =>
    let k := (s.teams.find? t).bind fun tm => s.kernels.find? tm.kernel
    (if r.gids.isEmpty then (k.map teamWants).getD [] else back, (k.map Kernel.troupe).getD false)
  | .spawn f => (if r.gids.isEmpty then [{ budget := ((s.group? f.pgid).map Group.budget).getD 8, handler := false, frags := 0 }] else back, false)
  | .message m => (if r.gids.isEmpty then [{ budget := ((taskOf s r.ctx m.idx).map Task.regs).getD 8, handler := false, frags := 0 }] else back, false)

/-- A group that starts (R45): every register zero, one path in slot A. -/
def Group.start (s : State) (c : Nat) (t : Seat) (kind : GKind) (entry : W64) (live : W32) : Group :=
  { ctx := c, place := t.place, resident := true, kind := kind, kernel := 0, team := 0, req := 0, grp := 63, teamNo := 0, cohort := 0,
    grid := 0, base := t.base, budget := t.budget, v := [], s := [], m := [], live := live,
    paths := [(0, Path.start entry live 0 0 false)], divTok := 0, fdepth := 0, rstack := [], spill := 0, fpmode := 0, fpflags := 0,
    frbase := 0, nrec := 0, divbase := 0, err := 0, hold := false, hbCount := 0, tickDue := false, readset := [], bundle := none,
    bReason := 0, replay := [], trapcause := 0, trapaddr := 0, trapinfo := 0, trapdata := 0, begun := false, damaged := [],
    residentAt := s.cycles }

/-- Group `i` of a team with its values at launch (R213). -/
def launchGroup (s : State) (c : Nat) (t : Seat) (team : Nat) (tm : Team) (kid : Nat) (k : Kernel) (coNo i : Nat) : Group :=
  let n := (coNo * k.teams + tm.no) * k.groups + i
  let g := Group.start s c t .grid (BitVec.ofNat 64 (if k.troupe then (roleOf k.roles i).1 else k.entry)) (BitVec.allOnes 32)
  let args := k.args.zipIdx.map fun a => RegW.s (a.2 + 1) a.1
  { (g.puts (args ++ [.s 126 (k.stack + k.stacksize * BitVec.ofNat 64 (n + 1))])) with
    kernel := kid, team := team, grp := i, teamNo := tm.no, cohort := coNo, grid := k.grid, fpmode := k.fpmode
    frbase := k.frbase + BitVec.ofNat 64 (k.frsize * n), nrec := k.frsize / 1152
    divbase := if k.divbase = 0 then 0 else k.divbase + BitVec.ofNat 64 (2048 * n) }

/-- The group of a promoted frame (R39, R246). -/
def spawnGroup (s : State) (c : Nat) (t : Seat) (f : Spawn) : Group :=
  let g := Group.start s c t (.spawned f) f.target f.mask
  let ws := ((List.range f.ns).map fun i => RegW.s (f.sa + 1 + i) (f.sargs.getD i 0)) ++
    (List.range (32 * f.nv)).map fun i => RegW.v (f.vb + i / 32) (i % 32) (f.vargs.get 0 i)
  match s.group? f.pgid with
  | none => { g.puts ws with fpmode := f.fpmode }
  | some p => { g.puts ws with
      fpmode := f.fpmode, kernel := p.kernel, teamNo := p.teamNo, cohort := p.cohort, grid := p.grid, frbase := p.frbase, nrec := p.nrec }

/-- A message handler group (R39, R221). -/
def messageGroup (s : State) (c : Nat) (t : Seat) (m : AMsg) : Group :=
  match taskOf s c m.idx with
  | none => Group.start s c t .message 0 (BitVec.allOnes 32)
  | some e =>
    let g := Group.start s c t .message e.entry (BitVec.allOnes 32)
    let ws := (List.range 24).map fun i => RegW.s (i + 1) (BitVec.ofNat 64 (ofBytesLE ((m.payload.drop (8 * i)).take 8)))
    { g.puts (ws ++ [.s 25 (BitVec.ofNat 64 m.payload.length)]) with
      teamNo := e.team, cohort := e.cohort, grid := e.grid, frbase := e.frbase, nrec := 16 }

/-- The trapped paths of a group that wait for a handler. -/
def waitingTraps (s : State) (gid : Nat) (g : Group) : List (Nat × Nat) :=
  ((g.paths.filter fun (p : Nat × Path) => match p.2.cond with | .trapped _ => true | _ => false).map fun p => (gid, p.1)).filter
    fun x => !s.groups.any fun h => h.2.served = some x

/-- The fragments of a group about to be resident on a core take entries of its split table that are free: their own where they
are, else the lowest (R228). -/
def reseatFrags (s : State) (gid core : Nat) : State :=
  match s.group? gid with
  | none => s
  | some g =>
    ((g.paths.map Prod.fst).filter (2 ≤ ·)).foldl (fun s i =>
      let used := splitUsed s core
      let own := ((s.group? gid).map fun g => g.paths.map Prod.fst).getD []
      if !used.contains i then s
      else match (List.range splitMax).find? fun k => !used.contains (k + 2) && !own.contains (k + 2) with
        | some k => renamePath s gid i (k + 2)
        | none => s) s

/-- One group put on a place. -/
def seatGroup (s : State) (gid : Nat) (pl : Place) (base : Nat) : State :=
  match s.group? gid with
  | none => s
  | some g =>
    let s1 := reseatFrags (if g.place.core = pl.core then s else moveFence s gid pl.core) gid pl.core
    s1.modGroup gid fun g => { g with place := pl, base := base, resident := true, residentAt := s.cycles }

/-- A group that exists takes a seat again, with the handler that serves it and its traps that wait (R192, R347). -/
def reseat (s : State) (gid : Nat) (t : Seat) : State :=
  let s1 := seatGroup s gid t.place t.base
  let s2 := match handlerOf s1 gid with
    | some h => seatGroup s1 h.1 t.handler.place 0
    | none => s1
  match s2.group? gid with
  | none => s2
  | some g => s2.modPart t.place.partIx fun p =>
      { p with trapq := p.trapq ++ (waitingTraps s2 gid g).filter fun x => !p.trapq.contains x }

/-- A group leaves its seat (R218, R219, R191): an arrival at the latch is withdrawn (R153), the handler that serves
it goes with it, and its waiting traps are kept with it. -/
def unseat (s : State) (gid : Nat) : State :=
  match s.group? gid with
  | none => s
  | some g =>
    let s1 := s.modQuad g.place.quadIx fun q => { q with latch := q.latch.filter fun e => e.gid ≠ gid }
    let s2 := s1.modPart g.place.partIx fun p => { p with trapq := p.trapq.filter fun x => x.1 ≠ gid }
    { s2 with groups := s2.groups.mapV fun i h =>
        if i = gid then
          { h with
            resident := false
            paths := h.paths.mapV fun _ p => if p.cond = .waiting .latch then { p with cond := .ready } else p }
        else if (h.served.map Prod.fst) = some gid then { h with resident := false } else h }

/-- A request placed on its seats: its groups start, or take their seats again; the core's L1 drops the context's
lines (R276), and a regroup round that only waited for them resolves (R235). -/
def placeReq (s : State) (rid : Nat) (r : Req) (core : Nat) (seats : List Seat) : State :=
  let s0 := l1Drop s core r.ctx
  let start (s : State) (g : Group) : State :=
    { s with groups := s.groups.put s.nextId { g with req := rid }, nextId := s.nextId + 1 }
  let fresh : Nat → List Nat := fun n => (List.range n).map (s.nextId + ·)
  let s1 : State × List Nat :=
    if !r.gids.isEmpty then
      let s2 := (List.zip r.gids seats).foldl (fun s x => reseat s x.1 x.2) s0
      ((match r.kind with
        | .team t => { s2 with teams := s2.teams.adjust t fun tm => { tm with core := core, die := dieOf core } }
        | _ => s2), r.gids)
    else match r.kind with
      | .team t =>
        match s.teams.find? t with
        | none => (s0, [])
        | some tm =>
          match s.kernels.find? tm.kernel with
          | none => (s0, [])
          | some k =>
            let coNo := ((s.cohorts.find? tm.cohort).map Cohort.no).getD 0
            let s2 := seats.zipIdx.foldl (fun s x => start s (launchGroup s r.ctx x.1 t tm tm.kernel k coNo x.2)) s0
            ({ s2 with
                teams := s2.teams.put t { tm with core := core, die := dieOf core }
                kernels := s2.kernels.adjust tm.kernel fun k =>
                  { k with gids := k.gids ++ fresh seats.length, st := if k.st = .queued then .running else k.st } },
              fresh seats.length)
      | .spawn f =>
        match seats with
        | t :: _ =>
          let s2 := start s0 (spawnGroup s r.ctx t f)
          (recState (modFrame s2 f.pgid f.addr fun x => { x with st := .running }) core r.ctx f.addr .running, fresh 1)
        | [] => (s0, [])
      | .message m =>
        match seats with
        | t :: _ =>
          let s2 := start s0 (messageGroup s r.ctx t m)
          (s2.delOp m.op, fresh 1)
        | [] => (s0, [])
  let s3 : State := { s1.1 with reqs := s1.1.reqs.put rid { r with core := core, die := dieOf core, gids := s1.2, placed := true, queued := false, headAt := none } }
  match r.kind with
  | .team t => regroupAll s3 t
  | _ => s3

/-- A request enters the tail of a core's queue (R217). -/
def enqueue (s : State) (rid core : Nat) : State :=
  match s.reqs.find? rid with
  | none => s
  | some r =>
    { s.modCore core fun k => { k with allot := k.allot.modify [] r.ctx fun l => l ++ [rid] } with
      reqs := s.reqs.put rid { r with core := core, die := if core < 192 then dieOf core else core - 192, queued := true, placed := false
                                      headAt := none, since := s.cycles } }

/-- A request leaves its core's queue. -/
def dequeue (s : State) (core c rid : Nat) : State :=
  s.modCore core fun k => { k with allot := (k.allot.adjust c fun l => l.filter (· ≠ rid)).filter fun (a : Nat × List Nat) => !a.2.isEmpty }

/-- Requests queued for a context on a core. -/
def allotQueue (s : State) (core c : Nat) : List Nat := (s.core core).allot.get [] c

/-- The core of a die with the fewest queued requests, the lowest at a tie (R216). -/
def bestCore (s : State) (c die : Nat) : Option Nat :=
  match coresOn s c die with
  | [] => none
  | x :: t => some (t.foldl (fun m k => if (allotQueue s k c).length < (allotQueue s m c).length then k else m) x)

/-- The queue that stands for a die where the context owns no core (R219, R377). -/
def dieQueue (die : Nat) : Nat := 192 + die

/-- A request enters the queue of an owned core of the die, or waits at the die (R216, R219, R377). -/
def sendTo (s : State) (rid c die : Nat) : State := enqueue s rid ((bestCore s c die).getD (dieQueue die))

/-- The requests of a kernel that are not placed, with their cores. -/
def kernelReqs (s : State) (kid : Nat) (p : Req → Bool) : List (Nat × Req) :=
  s.reqs.filter fun (r : Nat × Req) => !r.2.placed && p r.2 &&
    (match r.2.kind with | .team t => ((s.teams.find? t).map Team.kernel) = some kid | _ => false)

/-- Requests seated one after another, the seats of each kept for the next; none where one does not fit. -/
def seatMany (s : State) : List (Nat × Req) → List Seat → Option (List (Nat × Req × List Seat))
  | [], _ => some []
  | (i, r) :: t, extra =>
    match seatReq s r.ctx r.core (reqWants s r).2 (reqWants s r).1 (seatsOf s r.core ++ extra) with
    | none => none
    | some l => (seatMany s t (extra ++ l)).map ((i, r, l) :: ·)

/-- Teams placed on cores in order, each on the first core where it fits; none where one does not. -/
def fitTeams (s : State) (c : Nat) (cores : List Nat) : List (Bool × List Want) → List Seat → Option (List (Nat × List Seat))
  | [], _ => some []
  | (troupe, ws) :: t, taken =>
    match cores.findSome? fun x => (seatReq s c x troupe ws taken).map fun l => (x, l) with
    | none => none
    | some (x, l) => (fitTeams s c cores t (taken ++ l)).map ((x, l) :: ·)

/-- A cohort placed on cores of one die (Table WRK.1): the first of the dies with room for all its teams. -/
def fitCohort (s : State) (c : Nat) (dies : List Nat) (ws : List (Bool × List Want)) (taken : List Seat) : Option (List (Nat × List Seat)) :=
  dies.findSome? fun d => fitTeams s c (coresOn s c d) ws taken

/-- The kernel of a team request. -/
def reqKernel (s : State) (r : Req) : Option Nat :=
  match r.kind with
  | .team t => (s.teams.find? t).map Team.kernel
  | _ => none

/-- The cohort of a team request. -/
def reqCohort (s : State) (r : Req) : Option Nat :=
  match r.kind with
  | .team t => (s.teams.find? t).map Team.cohort
  | _ => none

/-- Seats for a cohort, whole: on the cores of its requests where it fits there, else on the first die with room, its own before
the others (R219; log 29); `extra` are seats given out already. -/
def seatCohort (s : State) (c : Nat) (l : List (Nat × Req)) (extra : List Seat) : Option (List (Nat × Req × Nat × List Seat)) :=
  match seatMany s l extra with
  | some ps => some (ps.map fun x => (x.1, x.2.1, x.2.1.core, x.2.2))
  | none =>
    let own := ((l.head?).map fun x => x.2.die).getD 0
    let ws := l.map fun x => ((reqWants s x.2).2, (reqWants s x.2).1)
    let taken := (List.range (Config.dies * Config.coresPerDie)).flatMap (seatsOf s) ++ extra
    (fitCohort s c (own :: (List.range Config.dies).filter (· ≠ own)) ws taken).map fun cs =>
      (List.zip l cs).map fun x => (x.1.1, x.1.2, x.2.1, x.2.2)

/-- Cohorts seated one after another; none where one does not fit. -/
def seatCohorts (s : State) (c : Nat) : List (List (Nat × Req)) → List Seat → Option (List (Nat × Req × Nat × List Seat))
  | [], _ => some []
  | l :: t, extra =>
    match seatCohort s c l extra with
    | none => none
    | some ps => (seatCohorts s c t (extra ++ ps.flatMap fun x => x.2.2.2)).map (ps ++ ·)

/-- The cooperative requests that are placed with the head `r`, all in one step (R219): they stand at the heads of
their cores' queues. -/
def coopSet (s : State) (r : Req) : Option (List (Nat × Req × Nat × List Seat)) :=
  match reqKernel s r with
  | none => none
  | some kid =>
    let l := kernelReqs s kid Req.queued
    let atHead (x : Nat × Req) : Bool :=
      (allotQueue s x.2.core x.2.ctx).takeWhile (fun i => l.any fun y => y.1 = i) |>.contains x.1
    let cos := (l.map fun x => reqCohort s x.2).eraseDups
    if l.all atHead then seatCohorts s r.ctx (cos.map fun co => l.filter fun x => reqCohort s x.2 = co) [] else none

/-- The placement of the head of a core's queue for a context, if it fits now: requests, cores and seats (R217, R219). -/
def headFit (s : State) (core c : Nat) : Option (List (Nat × Req × Nat × List Seat)) :=
  if (s.ctx? c).map Ctx.st ≠ some .resident then none
  else
    match (allotQueue s core c).head?.bind fun i => (s.reqs.find? i).map fun r => (i, r) with
    | none => none
    | some (i, r) =>
      if r.coop then coopSet s r
      else (seatReq s c core (reqWants s r).2 (reqWants s r).1 (seatsOf s core)).map fun l => [(i, r, core, l)]

/-- ALLOTMENT (R217): the head of the queue is placed when it fits. -/
def execAllotment (core c : Nat) (s : State) : Out :=
  .next (match headFit s core c with
    | none => s
    | some l => l.foldl (fun s x => placeReq (dequeue s x.2.1.core x.2.1.ctx x.1) x.1 x.2.1 x.2.2.1 x.2.2.2) s)

/-- The wait is at a blocking point: every wait that the spec names one. A wait for a register is one only where atomics,
submits, bclose or bfetch keep it busy (R137, R205, R302); waits for accumulators, weight slots, a claim or earlier accesses
are none (DESIGN CHOICE, log 57). -/
def blockingWait (s : State) (gid slot : Nat) (p : Path) : Wake → Bool
  | .score rs =>
    scoreBusy s gid slot p rs && (match s.group? gid with | some g => !(g.replay.any fun e => e.busyFor slot p rs) | none => true) &&
      s.ops.all fun o => o.2.gid ≠ gid || !(o.2.kind.dsts.any rs.contains) || (match o.2.kind with | .mem m => m.k ≠ .load | _ => true)
  | .acc _ => false
  | .wslots _ _ => false
  | .claim => false
  | .order _ _ _ => false
  | .porter => false
  | _ => true

/-- A path waits at a blocking point, and the debugger has not halted it (R218, R222). -/
def atBlock (s : State) (gid slot : Nat) (p : Path) : Bool :=
  !p.halted && (match p.cond with | .waiting w => blockingWait s gid slot p w | _ => false)

/-- The requests that R218 may evict, with the cycle their residence began. -/
def evictable (s : State) (core c : Nat) : List (Nat × Nat) :=
  s.reqs.filterMap fun x =>
    let r := x.2
    let gs := r.gids.filterMap fun i => (s.group? i).map fun g => (i, g)
    if r.placed && r.ctx = c && r.core = core && !r.coop && !gs.isEmpty &&
        gs.all (fun g => !g.2.paths.isEmpty && g.2.paths.all fun p => atBlock s g.1 p.1 p.2) then
      some (x.1, gs.foldl (fun m g => min m g.2.residentAt) s.cycles)
    else none

/-- A request evicted with its wake conditions (R218). -/
def evict (s : State) (rid : Nat) : State :=
  match s.reqs.find? rid with
  | none => s
  | some r =>
    { r.gids.foldl unseat s with reqs := s.reqs.put rid { r with placed := false, queued := false, headAt := none } }

/-- Cycles a head waits before an eviction (R218). -/
def evictAfter : Nat := 262144

/-- What the condition of a path reads as (R223). -/
def pathCond (s : State) (gid slot : Nat) (g : Group) (p : Path) : PCond :=
  if p.halted then .halted
  else match p.cond with
    | .trapped _ => .trapped
    | .parked _ => .parked
    | .waiting _ => .waiting
    | .ready => if (s.part g.place.partIx).issued.any fun i => i.gid = gid && i.slot = slot then .issuing else .ready

/-- The state of a group, as the debugger and the save image report it: the lowest row of Table GRP.1 that applies. -/
def groupState (s : State) (gid : Nat) (g : Group) : GSt :=
  let conds := g.paths.map fun q => pathCond s gid q.1 g q.2
  let live := g.paths.filter fun (q : Nat × Path) => q.2.mask ≠ 0
  if !g.resident then .evicted
  else if conds.contains .halted then .halted
  else if conds.contains .trapped then .trapped
  else if g.paths.any fun q => 2 ≤ q.1 then .split
  else if g.paths.any fun q => q.1 = 1 then .diverged
  else if !live.isEmpty && live.all fun q => (match q.2.cond with | .parked _ => true | _ => false) then .parked
  else if !live.isEmpty && live.all fun q => atBlock s gid q.1 q.2 then .waiting
  else if conds.contains .issuing then .issuing
  else if conds.contains .ready || g.begun then .ready
  else .allotted

/-- The state of a group position: free where no group has it (Table GRP.1). -/
def placeState (s : State) (pl : Place) : GSt :=
  match List.find? (fun (g : Nat × Group) => g.2.resident && g.2.place = pl) s.groups with
  | some g => groupState s g.1 g.2
  | none => .free

/-- The request that the bound of R218 evicts now. -/
def evictNow (s : State) (core c : Nat) : Option Nat :=
  match (allotQueue s core c).head?.bind s.reqs.find? with
  | none => none
  | some r =>
    match r.headAt with
    | none => none
    | some t =>
      if s.cycles < t + evictAfter || (s.ctx? c).map Ctx.st ≠ some .resident || (headFit s core c).isSome then none
      else match evictable s core c with
        | [] => none
        | x :: l => some (l.foldl (fun m y => if y.2 < m.2 then y else m) x).1

/-- EVICTION_BOUND (R218): one request is evicted, and the head waits as long again for the next (log 58). -/
def execEvictionBound (core c : Nat) (s : State) : Out :=
  .next (match evictNow s core c with
    | some r =>
      let s1 := evict s r
      (match (allotQueue s core c).head? with
        | some h => { s1 with reqs := s1.reqs.adjust h fun q => { q with headAt := some s.cycles } }
        | none => s1)
    | none => s)

/-- Some path of an evicted request could go on. -/
def reqAwake (s : State) (r : Req) : Bool :=
  r.gids.any fun i => match s.group? i with
    | none => false
    | some g => g.paths.any fun p =>
      match p.2.cond with
      | .waiting w => wakeMet s i p.1 g p.2 w
      | .ready => true
      | _ => false

/-- An evicted request is ready to enter its queue again: not one of a suspended kernel (R218, R219). -/
def requeueNow (s : State) (r : Req) : Bool := !r.placed && !r.queued && !r.coop && !r.gids.isEmpty && reqAwake s r

/-- EVICTED_REQUEUE (R218): the request enters the tail of its queue. -/
def execEvictedRequeue (rid : Nat) (s : State) : Out :=
  .next (match s.reqs.find? rid with
    | none => s
    | some r =>
      if requeueNow s r then
        (if ownsCore s r.ctx r.core then enqueue s rid r.core else sendTo s rid r.ctx r.die)
      else s)

end Sys2Proof.Machine
end

