-- ==== Sys2Proof/Machine/Page.lean ====
section
/-! DEFINITION. Frames of memory and their scrubbing, the answers to faults, invalidations, memory errors (R313, R315
to R318, R320, R366, R378). -/

namespace Sys2Proof.Machine

/-- The state of a frame, by its physical key; at reset every frame is scrub-queued (R317). -/
def State.page (s : State) (f : Nat) : PgSt := s.pages.get .queued f
def State.setPage (s : State) (f : Nat) (x : PgSt) : State := { s with pages := s.pages.set .queued f x }

/-- Leaves of a context's tables from level `lvl + 1` down: first frame key, size code and MIG (R310). -/
def leavesFrom (s : State) : Nat → Nat → List (Nat × Nat × Bool)
  | 0, _ => []
  | lvl + 1, tbl =>
    (List.range 512).flatMap fun i =>
      let e := s.rd (tbl + 8 * i) 8
      if fld e 0 1 = 0 then []
      else if fld e 8 1 = 1 then [(locKey (fld e 10 2) (fld e 12 45 * 4096), if lvl = 2 then 3 else if lvl = 1 then 2 else 0, fld e 5 1 = 1)]
      else leavesFrom s lvl (locKey 0 (fld e 12 45 * 4096))

/-- The frames that a context's tables map: first frame key, size code and MIG. -/
def leaves (s : State) (c : Nat) : List (Nat × Nat × Bool) :=
  match (s.ctx? c).bind Ctx.ptTop with
  | none => []
  | some top => leavesFrom s 5 top

/-- A run of bytes from frame `f` on is mapped by a context. -/
def mappedBy (s : State) (c f n : Nat) : Bool := (leaves s c).any fun l => l.1 < f + n && f < l.1 + 2 ^ pageBits l.2.1

/-- The state of a frame as Table PAG.3 has it: an allocated one is migrating while MIG is set in every entry that maps it. -/
def frameSt (s : State) (f : Nat) : PgSt :=
  let maps := (s.ctxs.flatMap fun x => leaves s x.1).filter fun l => l.1 ≤ f && f < l.1 + 2 ^ pageBits l.2.1
  if s.page f = .allocated && !maps.isEmpty && maps.all fun l => l.2.2 then .migrating else s.page f

/-- Keys of the frames of a run. -/
def runFrames (f size : Nat) : List Nat := (List.range (2 ^ (pageBits size - 12))).map fun i => f + 4096 * i

/-- The run that an ALLOC takes (R318): the lowest-addressed clean one, aligned to its size. -/
def findRun (s : State) (die tier size : Nat) : Option Nat :=
  let z := 2 ^ pageBits size
  ((s.pages.filter fun (p : Nat × PgSt) => p.2 = .clean).map fun p => p.1 / z * z).find? fun f =>
    (runFrames f size).all fun x => s.page x = .clean && frameOn die tier x

/-- RESULT of ALLOC: frame address and LOC (R211). -/
def allocResult (f : Nat) : Nat := f % 2 ^ 57 + f / 2 ^ 57 * 2 ^ 10

/-- An ALLOC that can be served. -/
def allocNow (s : State) (c : Cmd) : Option (State × Nat) :=
  (findRun s (arg c 0) (arg c 1) (arg c 2)).map fun f =>
    ((runFrames f (arg c 2)).foldl (fun s x => s.setPage x .allocated) s, allocResult f)

/-- ALLOC (R211, R318): it waits while no run is clean. -/
def execAlloc (c : Cmd) (s : State) : Out :=
  runCmd 18 c s fun s =>
    if 3 < arg c 0 || 1 < arg c 1 || 3 < arg c 2 then .done sBADCMD 0 s
    else match allocNow s c with
      | some (s1, r) => .done sOK r s1
      | none => .busy s

/-- ALLOCs that wait, tried again in the order of their queues. -/
def retryAllocs (s : State) : State :=
  s.queues.foldl (fun s q => match q.2.busy with
    | some c => if c.op ≠ 18 then s else match allocNow s c with
      | some (s1, r) => finishCmd q.1 sOK r s1
      | none => s
    | none => s) s

/-- FREE (R211, R317). -/
def execFree (c : Cmd) (s : State) : Out :=
  runCmd 19 c s fun s =>
    let size := arg c 1
    let f := locKey (fld (arg c 0) 10 2) (fld (arg c 0) 12 45 * 4096)
    if 3 < size || arg c 0 ≠ fld (arg c 0) 12 45 * 4096 + fld (arg c 0) 10 2 * 2 ^ 10 || f % 2 ^ pageBits size ≠ 0 then .done sBADCMD 0 s
    else if (runFrames f size).any (fun x => frameSt s x ≠ .allocated) || s.ctxs.any fun x => mappedBy s x.1 f (2 ^ pageBits size) then
      .done sBADSTATE 0 s
    else .done sOK 0 ((runFrames f size).foldl (fun s x => s.setPage x .queued) s)

/-- PAGE_SCRUB_START (R317): one of the two engines of a die takes a queued frame. -/
def execPageScrubStart (die f : Nat) (s : State) : Out :=
  .next (let mine (x : Nat) : Bool := frameOn die 0 x || frameOn die 1 x
    let busy := (s.pages.filter fun (p : Nat × PgSt) => p.2 = .scrubbing && mine p.1).length
    if s.page f = .queued && mine f && busy < 2 then s.setPage f .scrubbing else s)

/-- PAGE_SCRUB_END (R317): every byte is zero, the lines' versions are discarded, so that no bundle waits to install one (R309),
and their L1 copies invalidated; the frame is clean, and an ALLOC that waits may be served. -/
def execPageScrubEnd (f : Nat) (s : State) : Out :=
  .next (if s.page f ≠ .scrubbing then s
    else
      let inF (k : Nat) : Bool := f ≤ k && k < f + 4096
      let s1 : State := { s with
        mem := s.mem.filter fun (p : Nat × Byte) => !inF p.1
        memErrs := s.memErrs.filter fun (p : Nat × _) => !inF p.1
        lines := s.lines.filter fun (p : Nat × LineV) => !inF p.1
        cores := s.cores.mapV fun _ k => { k with l1 := k.l1.filter fun x => !inF x.line }
        dies := s.dies.mapV fun _ d => { d with dirs := d.dirs.mapV fun _ x => { x with wait := x.wait.filter fun l => !inF l } } }
      retryAllocs (s1.setPage f .clean))

/-- The first of `n` runs from frame `f` on in which no frame is allocated. -/
def freeRun (s : State) (size : Nat) : Nat → Nat → List Nat
  | 0, _ => []
  | n + 1, f =>
    if (runFrames f size).all fun x => s.page x ≠ .allocated then runFrames f size else freeRun s size n (f + 2 ^ pageBits size)

/-- The frames that something waits for: those of scrubbing contexts, and those of the first run that each waiting
ALLOC could take (R184, R318; log 42). -/
def wantedFrames (s : State) : List Nat :=
  (s.ctxs.flatMap fun x => if x.2.st = .scrubbing then x.2.scrub else []) ++
  s.queues.flatMap fun q => match q.2.busy with
    | some c =>
      if c.op ≠ 18 then [] else
        let z := 2 ^ pageBits (arg c 2)
        let lo := (Config.frameBase (arg c 0) (arg c 1) + z - 1) / z * z
        (freeRun s (arg c 2) (s.pages.length + 1) (locKey (arg c 1) lo)).filter fun f => frameOn (arg c 0) (arg c 1) f
    | none => []

/-- The open fault of a command (R315). -/
def faultNamed (s : State) (c : Cmd) : Option FaultR := if arg c 0 < Config.dies then (s.die (arg c 0)).faults.find? (arg c 1) else none

/-- A path that waits for a record of its frames is ready to take its instruction again (R242). -/
def frameAgain (s : State) (q : Nat × Nat) : State :=
  s.modPathAt q.1 q.2 fun p =>
    match p.cond with
    | .waiting (.frame _) => { p with cond := .ready }
    | .waiting .claim => { p with cond := .ready }
    | _ => p

/-- A fault is closed. -/
def closeFault (s : State) (die id : Nat) : State := s.modDie die fun d => { d with faults := d.faults.del id }

/-- RESOLVE (R315): every waiting access is tried again. -/
def execResolve (c : Cmd) (s : State) : Out :=
  runCmd 16 c s fun s =>
    match faultNamed s c with
    | none => .done sBADCMD 0 s
    | some f =>
      let s1 := closeFault s (arg c 0) (arg c 1)
      .done sOK 0 ((f.frames.map (fun q => (q.1, q.2.1)) ++ f.claims).foldl frameAgain (f.paths.foldl unparkAll s1))

/-- What an ABORT of a page's fault does to an operation that waits on it (R315); a submit ends in PERM (R205; log 54). -/
def abortOp (page size : Nat) (s : State) (o : Nat) : State :=
  match s.ops.find? o with
  | none => s
  | some op =>
    match op.kind with
    | .eng e =>
      s.modOp o fun p => { p with kind := .eng (if e.todo.isEmpty then { e with recDrop := true } else { e with denied := (page, size) :: e.denied }) }
    | .bfetch _ todo _ =>
      let bad := todo.filter fun q => match (s.group? op.gid).bind fun g => g.readset[q.1]? with
        | some x => inPage page size x.va
        | none => false
      bad.foldl (fun s q => fetchEnd (modEntry s op.gid q.1 fun x => { x with lost := true }) o q.1 true) s
    | .submit _ _ ka _ _ _ => submitPerm o op ((s.rd ka 8 + 8) % 2 ^ 64) s
    | _ => s

/-- What an ABORT does to the spill, read-back or promotion of a path that waits on the fault (R242, R246, R315). -/
def abortFrame (s : State) (q : Nat × Nat × FrWork) : State :=
  match q.2.2 with
  | .promote =>
    match (s.path? q.1 q.2.1).bind fun p => oldest p .promoting with
    | some f => promoFail s q.1 q.2.1 f
    | none => s
  | .readBack => s.modPathAt q.1 q.2.1 fun p => match p.cond with | .waiting (.frame _) => { p with cond := .ready, aborted := true } | _ => p
  | .spill => s.modPathAt q.1 q.2.1 fun p =>
    match (onChip p).getLast? with
    | some f => { p with frames := p.frames.map fun x => if x.addr = f.addr then { x with failed := true } else x }
    | none => p

/-- What an ABORT does to the claim of a path: a fork that waits for it takes FRAMEMEM (R240, R252, R315). -/
def abortClaim (s : State) (q : Nat × Nat) : State :=
  s.modPathAt q.1 q.2 fun p => if p.cond = .waiting .claim then { p with cond := .ready, aborted := true } else p

/-- The path's access of a page ends with PERM when it takes its instruction again (R315). -/
def abortPath (f : FaultR) (s : State) (q : Nat × Nat) : State :=
  s.modPathAt q.1 q.2 fun p => { p with aborted := true, permFail := (f.va, f.size, f.kind) :: p.permFail }

/-- The paths of a saved context whose parked access waits on the fault, by their replay entries (R316). -/
def savedWaiters (s : State) (f : FaultR) : List (Nat × Nat) :=
  match s.ctx? f.ctx with
  | none => []
  | some x => (x.replays.filter fun r => r.waits.contains (f.va, f.kind)).map fun r => (r.gid, r.slot)

/-- ABORT (R315, R316): waiting instructions take PERM, engine operations end DENIED, other work fails; of a saved context it
takes effect at the resumption. -/
def execAbort (c : Cmd) (s : State) : Out :=
  runCmd 17 c s fun s =>
    match faultNamed s c with
    | none => .done sBADCMD 0 s
    | some f =>
      let s1 := closeFault s (arg c 0) (arg c 1)
      let s2 := f.paths.foldl (fun s q => abortPath f (unparkAll s q) q) s1
      let s3 := (savedWaiters s f).foldl (abortPath f) s2
      .done sOK 0 (f.claims.foldl abortClaim (f.frames.foldl abortFrame (f.ops.foldl (abortOp f.va f.size) s3)))

/-- DIRTYLOG (R211, R320). -/
def execDirtylog (c : Cmd) (s : State) : Out :=
  runCmd 20 c s fun s =>
    if arg c 0 = 0 || 65535 < arg c 0 || arg c 1 % 32 ≠ 0 then .done sBADCMD 0 s
    else if (s.ctx? (arg c 0)).isNone then .done sBADSTATE 0 s
    else .done sOK 0 (s.modCtx (arg c 0) fun x => { x with dirtyLog := arg c 1 })

/-- PTROOT word 1 written (R310, R378): the top table of the context that word 0 names. -/
def execPtroot (v : Nat) (s : State) : Out :=
  .next (if s.boot = .failed then s
    else { s.modCtx (s.host.ptroot.get 0 0 % 2 ^ 16) fun x => { x with ptTop := some (locKey (fld v 10 2) (fld v 12 45 * 4096)) } with
      host := { s.host with ptroot := s.host.ptroot.set 0 1 (fld v 12 45 * 4096 + fld v 10 2 * 2 ^ 10) } })

/-- INVAL word 3 written (R378): an invalidation starts, or is held while one runs. -/
def execInval (_v : Nat) (s : State) : Out :=
  .next (if s.boot = .failed then s
    else
      let h := s.host
      let r := (h.inval.get 0 0 % 2 ^ 16, fld (h.inval.get 0 1) 12 45 * 4096, h.inval.get 0 2)
      match h.invRun with
      | none => { s with host := { h with invRun := some r } }
      | some _ => { s with host := { h with invHeld := h.invHeld ++ [r] } })

/-- The virtual lines of a bundle with their physical lines (R291). -/
def Dir.pairs (d : Dir) : List (Nat × Nat) :=
  List.zip (d.ranges.flatMap fun r => (List.range r.2).map fun i => r.1 + 128 * i) d.lines

/-- The lines of bundles of a context that the tables place elsewhere now, in a range (R319 step 3). -/
def movedLines (s : State) (c lo n : Nat) : List Nat :=
  s.dies.flatMap fun d => d.2.dirs.flatMap fun x => if x.2.ctx ≠ c then [] else
    (x.2.pairs.filter fun q => lo ≤ q.1 && q.1 < lo + n &&
      (match leafNow s c q.1 with | some t => t.key q.1 ≠ q.2 | none => false)).map Prod.snd

/-- The previous versions of lines that have moved are discarded (R319 step 3). -/
def dropPrev (s : State) (ls : List Nat) : State :=
  ls.foldl (fun s l => if (s.line l).prev.isSome then s.setLine l { s.line l with prev := none } else s) s

/-- A bundle of the context has a preparing version on a page of the range whose MIG is set (R319 step 1). -/
def migPrep (s : State) (c lo n : Nat) : Bool :=
  let mig (va : Nat) : Bool := match leafNow s c va with | some t => t.mig | none => false
  s.dies.any fun d => d.2.dirs.any fun x => x.2.ctx = c && x.2.pairs.any fun q =>
    lo ≤ q.1 && q.1 < lo + n && mig q.1 &&
      (match (s.line q.2).prep with | some (_, h) => h.die = d.1 && h.idx = x.1 && h.gen = x.2.gen | none => false)

/-- An access in flight that uses a translation of the range (R313). -/
def usesRange (s : State) (c lo n : Nat) : Bool :=
  let hit (va m : Nat) : Bool := va % 2 ^ 57 < lo + n && lo < va % 2 ^ 57 + m
  s.ops.any fun o => o.2.ctx = c && (match o.2.kind with
    | .mem m => m.lanes.any fun l => !o.2.ended l && hit l.va m.n
    | .submit an re _ _ _ _ => o.2.lost = 0 && !o.2.perf && (hit an 16 || hit re 16)
    | _ => false)

/-- A path that waits in seqw translates its address again: what it waits for is the memory that the address now names
(R148, R313). -/
def seqwAgain (s : State) (q : Nat × Nat) : State :=
  match s.group? q.1, s.path? q.1 q.2 with
  | some g, some p =>
    match p.cond with
    | .waiting (.seqw va _ v acq) =>
      if v = 0 then s
      else match bgNow s g.place.core g.ctx va Need.read false with
        | (s1, .key k) => s1.modPathAt q.1 q.2 fun p => { p with cond := .waiting (.seqw va k (if v ≤ s1.rd k 8 then 0 else v) acq) }
        | (s1, _) => s1.modPathAt q.1 q.2 fun p => { p with cond := .ready }
    | _ => s
  | _, _ => s

/-- The paths of a context that wait in seqw on an address in a range. -/
def seqwPaths (s : State) (c lo n : Nat) : List (Nat × Nat) :=
  (s.groups.filter fun (g : Nat × Group) => g.2.ctx = c).flatMap fun g =>
    (g.2.paths.filter fun (p : Nat × Path) => match p.2.cond with
      | .waiting (.seqw va _ _ _) => lo ≤ va % 2 ^ 57 && va % 2 ^ 57 < lo + n
      | _ => false).map fun p => (g.1, p.1)

/-- INVALIDATION_COMPLETE (R313, R319): with every access of the range performed or parked, every TLB drops it, and what
waits in seqw translates again. A held invalidation starts. -/
def execInvalidationComplete (s : State) : Out :=
  .next (match s.host.invRun with
    | none => s
    | some (c, lo, n) =>
      if usesRange s c lo n || migPrep s c lo n then s
      else
        let keep (t : Tlb) : Bool := !(t.ctx = c && t.va < lo + n && lo < t.va + 2 ^ pageBits t.size)
        (seqwPaths s c lo n).foldl seqwAgain { dropPrev s (movedLines s c lo n) with
          cores := s.cores.mapV fun _ k => { k with tlb := k.tlb.filter keep }
          dies := s.dies.mapV fun _ d => { d with tlb := d.tlb.filter keep }
          host := { s.host with
            invRun := s.host.invHeld.head?, invHeld := s.host.invHeld.tail } })

/-- MEMORY_ERROR (R299, R309, R318, R366) on a die of the device: reported to the host, to the log of each context with an access to the
line in flight, and to that of each context that reads it later; nothing is retired. One in the version store (kind 3) loses the
line's previous version. -/
def execMemoryError (die kind pa : Nat) (s : State) : Out :=
  .next (if Config.dies ≤ die || 3 < kind then s
    else
      let line := lineOf pa
      let body := [(1, die), (1, kind), (2, 0), (8, line)]
      let s0 : State := match kind, (s.line line).prev with
        | 3, some q => s.setLine line { s.line line with prev := none, vlost := some q.2.1 }
        | _, _ => s
      let s1 := if kind = 3 then s0 else { s0 with memErrs := s0.memErrs.put line (body, []) }
      let cs := (s.ops.filterMap fun o => match o.2.kind with
        | .mem m => if m.k ≠ .store && m.lanes.any (fun l => lineOf l.pa = line) then some o.2.ctx else none
        | _ => none).eraseDups
      cs.foldl (fun s c => if kind = 3 then ctxLog s c 5 body else readSeen c line 1 s) (postEvent s1 5 0 body))

end Sys2Proof.Machine
end

