-- ==== Sys2Proof/Machine/Keccak.lean ====
section
/-! DEFINITION. SHAKE of FIPS 202: SHAKE256 is the one hash of the device, and ML-DSA draws on SHAKE128 too (R15). -/

namespace Sys2Proof.Machine

/-- Rotation offsets of the lanes, lane (x, y) at 5·y + x (FIPS 202, step ρ). -/
def keccakRot : List Nat :=
  [0, 1, 62, 28, 27, 36, 44, 6, 55, 20, 3, 10, 43, 25, 39, 41, 45, 15, 21, 8, 18, 2, 61, 56, 14]

/-- Round constants (FIPS 202, step ι). -/
def keccakRc : List W64 :=
  [0x0000000000000001, 0x0000000000008082, 0x800000000000808A, 0x8000000080008000, 0x000000000000808B, 0x0000000080000001,
   0x8000000080008081, 0x8000000000008009, 0x000000000000008A, 0x0000000000000088, 0x0000000080008009, 0x000000008000000A,
   0x000000008000808B, 0x800000000000008B, 0x8000000000008089, 0x8000000000008003, 0x8000000000008002, 0x8000000000000080,
   0x000000000000800A, 0x800000008000000A, 0x8000000080008081, 0x8000000000008080, 0x0000000080000001, 0x8000000080008008]

/-- Lane (x, y), each taken modulo 5. -/
def lane (a : List W64) (x y : Nat) : W64 := a.getD (x % 5 + 5 * (y % 5)) 0

/-- Step θ. -/
def keccakTheta (a : List W64) : List W64 :=
  let c := (List.range 5).map fun x => (List.range 5).foldl (fun t y => t ^^^ lane a x y) 0
  let d := (List.range 5).map fun x => c.getD ((x + 4) % 5) 0 ^^^ (c.getD ((x + 1) % 5) 0).rotateLeft 1
  a.zipIdx.map fun e => e.1 ^^^ d.getD (e.2 % 5) 0

/-- Steps ρ and π. -/
def keccakRhoPi (a : List W64) : List W64 :=
  (List.range 25).map fun i =>
    let x := (i % 5 + 3 * (i / 5)) % 5
    (lane a x (i % 5)).rotateLeft (keccakRot.getD (x + 5 * (i % 5)) 0)

/-- Step χ. -/
def keccakChi (a : List W64) : List W64 :=
  a.zipIdx.map fun e => e.1 ^^^ (~~~lane a (e.2 % 5 + 1) (e.2 / 5) &&& lane a (e.2 % 5 + 2) (e.2 / 5))

/-- One round: θ, ρ, π, χ, ι. -/
def keccakRound (a : List W64) (rc : W64) : List W64 :=
  let b := keccakChi (keccakRhoPi (keccakTheta a))
  b.set 0 (b.headD 0 ^^^ rc)

/-- Keccak-f[1600]. -/
def keccakF (a : List W64) : List W64 := keccakRc.foldl keccakRound a

/-- Bytes of a block of SHAKE256 and of SHAKE128. -/
def shakeRate : Nat := 136
def shakeRate128 : Nat := 168

/-- The message with the suffix 1111 of SHAKE and the padding, a whole number of blocks of `rate` bytes (FIPS 202). -/
def shakePad (rate : Nat) (m : List Byte) : List Byte :=
  let n := rate - m.length % rate
  m ++ (List.range n).map fun i => (if i = 0 then (0x1F : Byte) else 0) ||| (if i + 1 = n then 0x80 else 0)

/-- The blocks absorbed one after another, as many as `n` says. -/
def shakeAbsorb (rate : Nat) : Nat → List Byte → List W64 → List W64
  | 0, _, a => a
  | n + 1, m, a =>
    shakeAbsorb rate n (m.drop rate) (keccakF (a.zipIdx.map fun e =>
      if e.2 < rate / 8 then e.1 ^^^ BitVec.ofNat 64 (ofBytesLE ((m.drop (8 * e.2)).take 8)) else e.1))

/-- `n` blocks of output. -/
def shakeSqueeze (rate : Nat) : Nat → List W64 → List Byte
  | 0, _ => []
  | n + 1, a => ((a.take (rate / 8)).flatMap fun x => bytesLE 8 x.toNat) ++ shakeSqueeze rate n (keccakF a)

/-- The first `n` bytes of SHAKE of the data with blocks of `rate` bytes. -/
def shake (rate : Nat) (m : List Byte) (n : Nat) : List Byte :=
  let p := shakePad rate m
  (shakeSqueeze rate ((n + rate - 1) / rate) (shakeAbsorb rate (p.length / rate) p (List.replicate 25 0))).take n

/-- The first 64 bytes of SHAKE256 of the data (R15, R189). -/
def shake64 (m : List Byte) : List Byte := shake shakeRate m 64

end Sys2Proof.Machine
end

