-- ==== Sys2Proof/Machine/MlDsa.lean ====
section
/-! DEFINITION. ML-DSA-65 of FIPS 204, the one signature of the device (R15): key generation, signing, the check of a signature. Its
loops are bounded above the least numbers that FIPS 204 allows an implementation; keys, the randomness of signing and the layout
of a firmware image are free (log 15). -/

namespace Sys2Proof.Machine.MlDsa

/-- The parameters of ML-DSA-65 (FIPS 204, Table 1). -/
def q : Nat := 8380417
def rowsA : Nat := 6
def colsA : Nat := 5
def dropBits : Nat := 13
def ones : Nat := 49
def gamma1 : Nat := 2 ^ 19
def gamma2 : Nat := (q - 1) / 32
def beta : Nat := 196
def omega : Nat := 55
def eta : Nat := 4
def chalLen : Nat := 48

/-- A polynomial: its 256 coefficients modulo q. -/
abbrev Poly := List Nat

/-- An integer as a coefficient, and a coefficient as the integer nearest 0. -/
def ofInt (i : Int) : Nat := (i % q).toNat
def centred (x : Nat) : Int := if q < 2 * x then (x : Int) - q else x

def addP (a b : Poly) : Poly := List.zipWith (fun x y => (x + y) % q) a b
def subP (a b : Poly) : Poly := List.zipWith (fun x y => (x + q - y) % q) a b
def mulN (a b : Poly) : Poly := List.zipWith (fun x y => x * y % q) a b

/-- The eight bits of a number in the other order. -/
def rev8 (n : Nat) : Nat := (List.range 8).foldl (fun r i => 2 * r + n / 2 ^ i % 2) 0

/-- The powers of the root of unity 1753 at node `m`, and their inverses (FIPS 204, Appendix B). -/
def zeta (m : Nat) : Nat := 1753 ^ rev8 m % q
def zetaInv (m : Nat) : Nat := 1753 ^ (512 - rev8 m) % q

/-- The transform of 2^d coefficients below node `m` (FIPS 204, Algorithm 41). -/
def nttFrom : Nat → Nat → Poly → Poly
  | 0, _, w => w
  | d + 1, m, w =>
    let a := w.take (2 ^ d)
    let t := (w.drop (2 ^ d)).map fun x => zeta m * x % q
    nttFrom d (2 * m) (addP a t) ++ nttFrom d (2 * m + 1) (subP a t)

/-- Its inverse, but for the factor 1/2 of each level (FIPS 204, Algorithm 42). -/
def invFrom : Nat → Nat → Poly → Poly
  | 0, _, w => w
  | d + 1, m, w =>
    let a := invFrom d (2 * m) (w.take (2 ^ d))
    let b := invFrom d (2 * m + 1) (w.drop (2 ^ d))
    addP a b ++ (subP a b).map fun x => zetaInv m * x % q

def ntt (w : Poly) : Poly := nttFrom 8 1 w
def invNtt (w : Poly) : Poly := (invFrom 8 1 w).map fun x => 8347681 * x % q

/-- The sum of products of a row with a vector, both transformed. -/
def dot (a v : List Poly) : Poly := (List.zipWith mulN a v).foldl addP (List.replicate 256 0)

/-- H and G (FIPS 204, 3.7). -/
def hashH (m : List Byte) (n : Nat) : List Byte := shake shakeRate m n
def hashG (m : List Byte) (n : Nat) : List Byte := shake shakeRate128 m n

/-- Packing of coefficients in `w` bits each, and back (Algorithms 16 to 19). -/
def pack (w : Nat) (p : List Nat) : List Byte := bytesLE (32 * w) (packN w p)
def unpack (w : Nat) (v : List Byte) : List Nat := let n := ofBytesLE v; (List.range 256).map fun i => fld n (w * i) w

/-- Bytes taken three at a time as a coefficient below q (Algorithms 14 and 30). -/
def rejNtt : List Byte → Poly
  | a :: b :: c :: t =>
    let z := c.toNat % 128 * 65536 + b.toNat * 256 + a.toNat
    if z < q then z :: rejNtt t else rejNtt t
  | _ => []

/-- A row of the matrix (Algorithm 32): 12 blocks of SHAKE128, above the 894 bytes of FIPS 204, Appendix C. -/
def expandA (rho : List Byte) (r : Nat) : List Poly :=
  (List.range colsA).map fun s => (rejNtt (hashG (rho ++ [BitVec.ofNat 8 s, BitVec.ofNat 8 r]) 2016)).take 256

/-- A short polynomial (Algorithms 15 and 31): 8 blocks of SHAKE256, above the 481 bytes of Appendix C. -/
def rejBounded (seed : List Byte) (r : Nat) : Poly :=
  (((hashH (seed ++ bytesLE 2 r) 1088).flatMap fun z => [z.toNat % 16, z.toNat / 16]).filterMap fun (x : Nat) =>
    if x < 9 then some (ofInt ((eta : Int) - x)) else none).take 256

/-- The mask of one attempt (Algorithm 34). -/
def expandMask (rho : List Byte) (n : Nat) : List Poly :=
  (List.range colsA).map fun r => (unpack 20 (hashH (rho ++ bytesLE 2 (n + r)) 640)).map fun z => ofInt ((gamma1 : Int) - z)

/-- The bytes left after the first that is at most `i`, with that byte. -/
def nextUpTo (i : Nat) : List Byte → Nat × List Byte
  | [] => (0, [])
  | b :: t => if b.toNat ≤ i then (b.toNat, t) else nextUpTo i t

/-- The challenge (Algorithm 29): 2 blocks of SHAKE256, above the 121 bytes of Appendix C. -/
def sampleInBall (rho : List Byte) : Poly :=
  let s := hashH rho 272
  let h := ofBytesLE (s.take 8)
  ((List.range ones).foldl (fun (c : Poly × List Byte) k =>
    let i := 256 - ones + k
    let j := nextUpTo i c.2
    ((c.1.set i (c.1.getD j.1 0)).set j.1 (if fld h k 1 = 1 then q - 1 else 1), j.2)) (List.replicate 256 0, s.drop 8)).1

/-- The low bits of a coefficient with their high part taken off (Algorithm 35). -/
def power2 (x : Nat) : Nat × Int :=
  let r : Int := (x % 2 ^ dropBits : Nat)
  let r0 := if 2 ^ (dropBits - 1) < r then r - 2 ^ dropBits else r
  ((((x : Int) - r0) / 2 ^ dropBits).toNat, r0)

/-- High and low bits (Algorithms 36 to 38). -/
def decompose (x : Nat) : Nat × Int :=
  let r : Int := (x % (2 * gamma2) : Nat)
  let r0 := if (gamma2 : Int) < r then r - 2 * gamma2 else r
  if (x : Int) - r0 = q - 1 then (0, r0 - 1) else ((((x : Int) - r0) / (2 * gamma2)).toNat, r0)

def high (p : Poly) : List Nat := p.map fun x => (decompose x).1

/-- A hint, and its use (Algorithms 39 and 40). -/
def makeHint (z r : Nat) : Bool := (decompose r).1 ≠ (decompose ((r + z) % q)).1
def useHint (h : Bool) (r : Nat) : Nat :=
  let d := decompose r
  if !h then d.1 else if 0 < d.2 then (d.1 + 1) % 16 else (d.1 + 15) % 16

/-- All coefficients are smaller than the bound. -/
def within (b : Nat) (l : List Poly) : Bool := l.all fun p => p.all fun x => (centred x).natAbs < b

/-- The hints as bytes, and back (Algorithms 20 and 21). -/
def hintPack (h : List (List Bool)) : List Byte :=
  let at_ (r : List Bool) : List Nat := r.zipIdx.filterMap fun x => if x.1 then some x.2 else none
  let ends := (List.range h.length).map fun i => ((h.take (i + 1)).map fun r => (at_ r).length).sum
  ((h.flatMap at_).map (BitVec.ofNat 8) ++ List.replicate omega 0).take omega ++ ends.map (BitVec.ofNat 8)
def hintUnpack (y : List Byte) : Option (List (List Bool)) :=
  let n (i : Nat) : Nat := (y.getD i 0).toNat
  let from_ (i : Nat) : Nat := if i = 0 then 0 else n (omega + i - 1)
  let row (i : Nat) : List Nat := (List.range (n (omega + i) - from_ i)).map fun j => n (from_ i + j)
  let ok := (List.range rowsA).all (fun i => from_ i ≤ n (omega + i) && n (omega + i) ≤ omega && decide ((row i).Pairwise (· < ·))) &&
    (List.range omega).all fun i => i < n (omega + rowsA - 1) || n i = 0
  if ok then some ((List.range rowsA).map fun i => (List.range 256).map fun j => (row i).contains j) else none

/-- A secret key with the public one (Algorithm 6). -/
structure Key where
  pk  : List Byte
  rho : List Byte
  sk  : List Byte
  tr  : List Byte
  s1  : List Poly
  s2  : List Poly
  t0  : List Poly
  deriving DecidableEq, Repr

/-- KeyGen (Algorithm 6). -/
def keyGen (seed : List Byte) : Key :=
  let h := hashH (seed ++ [BitVec.ofNat 8 rowsA, BitVec.ofNat 8 colsA]) 128
  let rho := h.take 32
  let s := (List.range (colsA + rowsA)).map (rejBounded ((h.drop 32).take 64))
  let s1 := (s.take colsA).map ntt
  let t := (List.range rowsA).map fun r => (addP (invNtt (dot (expandA rho r) s1)) (s.getD (colsA + r) [])).map power2
  let pk := rho ++ t.flatMap fun p => pack 10 (p.map Prod.fst)
  { pk := pk, rho := rho, sk := h.drop 96, tr := hashH pk 64, s1 := s1, s2 := (s.drop colsA).map ntt, t0 := t.map fun p => ntt (p.map fun x => ofInt x.2) }

/-- One attempt at a signature of `mu` (Algorithm 7). -/
def attempt (k : Key) (mu rho2 : List Byte) (n : Nat) : Option (List Byte) :=
  let y := expandMask rho2 n
  let yh := y.map ntt
  let w := (List.range rowsA).map fun r => invNtt (dot (expandA k.rho r) yh)
  let c1 := hashH (mu ++ w.flatMap fun p => pack 4 (high p)) chalLen
  let c := ntt (sampleInBall c1)
  let by_ (v : List Poly) : List Poly := v.map fun p => invNtt (mulN c p)
  let z := List.zipWith addP y (by_ k.s1)
  let w2 := List.zipWith subP w (by_ k.s2)
  let r0 := w2.map fun p => p.map fun x => ofInt (decompose x).2
  let ct := by_ k.t0
  let h := List.zipWith (fun a b => List.zipWith (fun t x => makeHint ((q - t) % q) ((x + t) % q)) a b) ct w2
  if within (gamma1 - beta) z && within (gamma2 - beta) r0 && within gamma2 ct && (h.map fun r => (r.filter id).length).sum ≤ omega then
    some (c1 ++ (z.flatMap fun p => pack 20 (p.map fun x => ((gamma1 : Int) - centred x).toNat)) ++ hintPack h)
  else none

/-- Attempts one after another, as many as FIPS 204 asks for at the least. -/
def attempts (k : Key) (mu rho2 : List Byte) : Nat → Nat → Option (List Byte)
  | 0, _ => none
  | f + 1, n => match attempt k mu rho2 n with
    | some x => some x
    | none => attempts k mu rho2 f (n + colsA)

/-- The message with its context string, not hashed before (Algorithms 2 and 3). -/
def framed (ctx m : List Byte) : List Byte := 0 :: BitVec.ofNat 8 ctx.length :: ctx ++ m

/-- Sign (Algorithms 2 and 7). -/
def sign (k : Key) (ctx rnd m : List Byte) : Option (List Byte) :=
  let mu := hashH (k.tr ++ framed ctx m) 64
  attempts k mu (hashH (k.sk ++ rnd ++ mu) 64) 814 0

/-- Verify (Algorithms 3 and 8). -/
def verify (pk ctx m sig : List Byte) : Bool :=
  let rho := pk.take 32
  let t1 := (List.range rowsA).map fun i => ntt ((unpack 10 ((pk.drop (32 + 320 * i)).take 320)).map fun x => x * 2 ^ dropBits % q)
  let c1 := sig.take chalLen
  let z := (List.range colsA).map fun i => (unpack 20 ((sig.drop (chalLen + 640 * i)).take 640)).map fun x => ofInt ((gamma1 : Int) - x)
  match hintUnpack (sig.drop (chalLen + 640 * colsA)) with
  | none => false
  | some h =>
    let mu := hashH (hashH pk 64 ++ framed ctx m) 64
    let c := ntt (sampleInBall c1)
    let zh := z.map ntt
    let w := (List.range rowsA).map fun r =>
      List.zipWith useHint (h.getD r []) (invNtt (subP (dot (expandA rho r) zh) (mulN c (t1.getD r []))))
    pk.length = 1952 && sig.length = 3309 && within (gamma1 - beta) z && c1 = hashH (mu ++ w.flatMap (pack 4)) chalLen

end Sys2Proof.Machine.MlDsa

namespace Sys2Proof.Machine

/-- The device's identity key (R15, R199). -/
@[irreducible] def identity : MlDsa.Key := MlDsa.keyGen ((List.range 32).map Config.deviceSeed)

/-- The 3,309 bytes of the device's signature of data (R199, Table CTX.6). -/
@[irreducible] def deviceSign (d : List Byte) : List Byte :=
  (MlDsa.sign identity Config.signContext ((List.range 32).map (Config.signRandom d)) d).getD ((List.range 3309).map Config.signFailed)

/-- The check of a firmware image (R15, R362, R363). -/
@[irreducible] def imageOk (i : List Byte) : Bool :=
  MlDsa.verify Config.vendorKey Config.vendorContext (Config.imageParts i).1 (Config.imageParts i).2

end Sys2Proof.Machine
end

