-- ==== Sys2Proof/Machine/Sys.lean ====
section
/-! DEFINITION. The SYS instructions: traps, the return, injection, system registers, halt, mailbox, usage counters and
reports (R48, R194 to R199, R348 to R355). -/

namespace Sys2Proof.Machine

/-- TRAP (R349): SYSCALL, taken after. -/
def execTrap (n : Nat) (s : State) : Out := gated { acc := acc0 } s fun _ _ => trapAfter .syscall n

/-- BRK (R349): BREAK, taken after. -/
def execBrk (n : Nat) (s : State) : Out := gated { acc := acc0 } s fun _ _ => trapAfter .brk n

/-- A word that names no instruction (R68, R72): ILLOP at decoding. -/
def execIllopEncoding (s : State) : Out := onPath s fun _ _ => trapAt .illop 0 s

/-- RETT (R350): the handler's arithmetic lands, and the interrupted path goes on. -/
def execRett (m r : Nat) (s : State) : Out :=
  gated { acc := acc0, who := .handler, rd := if m = 2 then sR [r] else [] } s fun g _ s1 =>
    match g.served with
    | some (gid, slot) => returnTrap m (rS g r) g gid slot { s1 with pipe := s1.pipe.filter fun e => e.gid ≠ s.iss.gid }
    | none => s1

/-- A reconvergence stack entry as bits (Table GRP.3). -/
def REntry.bits (e : REntry) : Nat :=
  e.dpc.toNat % 2 ^ 57 * 2 ^ 71 + e.owner * 2 ^ 64 + e.fdepth % 256 * 2 ^ 56 + (if e.phase then 2 ^ 35 else 0) + e.tok * 2 ^ 32 + e.dmask.toNat

/-- Bits as an entry. -/
def REntry.ofBits (x : Nat) : REntry :=
  { dpc := sext64 57 (fld x 71 57), owner := fld x 64 7, fdepth := fld x 56 8, phase := fld x 35 1 = 1, tok := fld x 32 3,
    dmask := BitVec.ofNat 32 x }

/-- The handler's side of a rinj. -/
def rinjRegs (k h : Nat) : List RegN := if k = 0 then vR [h] else if k = 3 then sR [h, h + 1] else sR [h]

/-- LANES of the trap frame (Table TRP.3). -/
def Group.lanes (g : Group) : W32 := BitVec.ofNat 32 g.trapinfo.toNat

/-- RINJ (R351): `d` 0 reads the interrupted group's register, 1 writes it. -/
def execRinj (d k i h : Nat) (s : State) : Out :=
  gated { acc := acc0, who := .handler, rd := if d = 1 then rinjRegs k h else [], wr := if d = 0 then rinjRegs k h else [] } s fun g _ s1 =>
    match g.served with
    | none => s1
    | some (gid, _) =>
      match s.group? gid with
      | none => s1
      | some t =>
        let reg : RegN := (if k = 0 then 1 else if k = 1 then 0 else 2, i)
        if k = 0 && t.budget ≤ i then trapAt .regbound 0 s1
        else if d = 0 then
          if k ≠ 3 && regPending s gid reg then waitOn (.rinj gid reg.1 i) s1
          else match (if k = 3 then none else t.damagedAmong [reg]) with
          | some n => regFault g n s1
          | none =>
            let due := s1.pipe.filter fun e => e.gid = gid && e.writes.any fun w => w.reg = reg
            let s2 := due.foldl landE { s1 with pipe := s1.pipe.filter fun e => !(e.gid = gid && e.writes.any fun w => w.reg = reg) }
            let t2 := (s2.group? gid).getD t
            advance (s2.modG fun g =>
              match k with
              | 0 => g.puts (vWrites h (List.range 32) fun l => rV t2 i l)
              | 1 => g.put1 (.s h (rS t2 i))
              | 2 => g.put1 (.s h (BitVec.ofNat 64 (if i = 0 then g.lanes else t2.m.get 0 i).toNat))
              | _ =>
                let x := (t2.rstack[i]?.map REntry.bits).getD 0
                g.puts [.s h (BitVec.ofNat 64 x), .s (h + 1) (BitVec.ofNat 64 (x / 2 ^ 64))])
        else
          match k with
          | 0 => advance (s1.modGroup gid fun t => t.puts (vWrites i (lanesOf g.lanes) fun l => rV g h l))
          | 1 => advance (s1.modGroup gid fun t => t.put1 (.s i (rS g h)))
          | 2 => if i = 0 then trapAt .illop 0 s1 else advance (s1.modGroup gid fun t => t.put1 (.m i (BitVec.ofNat 32 (rS g h).toNat)))
          | _ =>
            if t.rstack.length ≤ i then trapAt .illop 0 s1
            else advance (s1.modGroup gid fun t =>
              { t with rstack := t.rstack.set i (REntry.ofBits ((rS g h).toNat + 2 ^ 64 * (rS g (h + 1)).toNat)) })

/-- Who may read a system register (Table WRK.4, Table TRP.2). -/
def sysReader (n : Nat) : Who := if [0x19, 0x1A, 0x1B, 0x1C, 0x1D, 0x1E, 0x1F].contains n then .handler else .any

/-- Who may write it. -/
def sysWriter (n : Nat) : Who :=
  if n ≤ 7 || n = 0x0F || n = 0x18 || n = 0x1B then .nobody
  else if n = 8 || n = 9 || [0x19, 0x1A, 0x1C, 0x1D, 0x1E, 0x1F].contains n then .handler
  else .any

/-- The group that a handler serves: %replaycount, %divspill and %divbase are its own. -/
def servedGroup (s : State) (g : Group) : Option Group := g.served.bind fun x => s.group? x.1

/-- The value of system register `n` (Table WRK.4, Table TRP.2). -/
def sysValue (s : State) (g : Group) (p : Path) (n : Nat) : W64 :=
  let low := ((lanesOf p.mask).head?).getD 0
  let x := (servedGroup s g).getD g
  match n with
  | 0x00 => BitVec.ofNat 64 low
  | 0x01 => BitVec.ofNat 64 (low / 4)
  | 0x02 => BitVec.ofNat 64 g.grp
  | 0x03 => BitVec.ofNat 64 g.teamNo
  | 0x04 => BitVec.ofNat 64 g.cohort
  | 0x05 => g.grid
  | 0x06 => BitVec.ofNat 64 s.iss.slot
  | 0x07 => BitVec.ofNat 64 g.ctx
  | 0x08 => BitVec.ofNat 64 (s.hb g.place.core g.ctx).period
  | 0x09 => BitVec.ofNat 64 (s.hb g.place.core g.ctx).mode
  | 0x0A => g.frbase
  | 0x0B => g.fpmode
  | 0x0C => g.fpflags
  | 0x0D => BitVec.ofNat 64 (s.part g.place.partIx).srseed.toNat
  | 0x0E => (s.quad g.place.quadIx).gang
  | 0x0F => BitVec.ofNat 64 s.cycles
  | 0x18 => BitVec.ofNat 64 (stampClk s * 2 ^ 12 + stampDie s (dieOf g.place.core) * 2 ^ 4)
  | 0x19 => g.trapcause
  | 0x1A => g.trapaddr
  | 0x1B => BitVec.ofNat 64 (((servedGroup s g).map fun t => t.replay.length).getD 0)
  | 0x1C => g.trapinfo
  | 0x1D => BitVec.ofNat 64 (x.rstack.length * 2 ^ 8 + x.spill)
  | 0x1E => g.trapdata
  | 0x1F => x.divbase
  | _ => BitVec.ofNat 64 (s.fx g.ctx (n - 0x10))

/-- The flags of the group's arithmetic in flight have landed before %fpflags is accessed (R27). -/
def settleFlags (n : Nat) (s : State) : State := if n = 0x0C then landGroup s s.iss.gid else s

/-- SYSRD (R48, R352). -/
def execSysrd (d n : Nat) (s : State) : Out :=
  gated { acc := acc0, who := sysReader n, wr := sR [d] } s fun g p s1 =>
    let s2 := settleFlags n s1
    advance (s2.wS d (sysValue s2 ((s2.group? s.iss.gid).getD g) p n))

/-- A command written to %divspill (R353), for the group a handler serves. -/
def wrDivspill (x : Nat) (g : Group) (s : State) : State :=
  match g.served, servedGroup s g with
  | some (gid, _), some t =>
    let cmd := fld x 62 2
    let n := fld x 16 5
    let spill := fld x 0 8
    let bad : Bool := cmd = 3 || 128 < spill || (cmd = 1 && t.rstack.length < n) || (cmd = 2 && 16 - t.rstack.length < n)
    if bad then trapAt .illop 0 s
    else advance (s.modGroup gid fun t =>
      { t with
        spill := spill
        rstack := if cmd = 1 then t.rstack.drop n
          else if cmd = 2 then List.replicate n (REntry.ofBits 0) ++ t.rstack else t.rstack })
  | _, _ => s

/-- %hbperiod and %hbmode written with their ranges (R48, R244). -/
def wrHbperiod (x : Nat) (g : Group) (s : State) : State :=
  if x < 1024 || 2 ^ 24 < x then trapAt .illop 0 s
  else advance (s.modCore g.place.core fun k => { k with hb := k.hb.modify Hb.reset g.ctx fun h => { h with period := x } })
def wrHbmode (x : Nat) (g : Group) (s : State) : State :=
  if 1 < x then trapAt .illop 0 s
  else advance (s.modCore g.place.core fun k => { k with hb := k.hb.modify Hb.reset g.ctx fun h => { h with mode := x } })

/-- %srseed written (R25). -/
def wrSrseed (x : Nat) (g : Group) (s : State) : State :=
  advance (s.modPart g.place.partIx fun p =>
    { p with srseed := if x % 2 ^ 32 = 0 then seedReset else BitVec.ofNat 32 x })

/-- %trapinfo with REP changed (Table TRP.3). -/
def setRep (old x : W64) : W64 := BitVec.ofNat 64 (fld x.toNat 58 6 * 2 ^ 58 + old.toNat % 2 ^ 58)

/-- System register `n` written with `x`. -/
def sysWrite (n : Nat) (x : W64) (g : Group) (s : State) : State :=
  match n with
  | 0x08 => wrHbperiod x.toNat g s
  | 0x09 => wrHbmode x.toNat g s
  | 0x0A => advance (s.modG fun g => { g with frbase := x })
  | 0x0B => if 5 < fld x.toNat 0 3 then trapAt .illop 0 s
    else advance (s.modG fun g => { g with fpmode := BitVec.ofNat 64 (x.toNat % 2 ^ 14) })
  | 0x0C => advance (s.modG fun g => { g with fpflags := BitVec.ofNat 64 (x.toNat % 64) })
  | 0x0D => wrSrseed x.toNat g s
  | 0x0E => setGang x g s
  | 0x19 => advance (s.modG fun g => { g with trapcause := BitVec.ofNat 64 (x.toNat % 256) })
  | 0x1A => advance (s.modG fun g => { g with trapaddr := x })
  | 0x1C => advance (s.modG fun g => { g with trapinfo := setRep g.trapinfo x })
  | 0x1D => wrDivspill x.toNat g s
  | 0x1E => advance (s.modG fun g => { g with trapdata := x })
  | 0x1F => match g.served with
    | some (gid, _) => advance (s.modGroup gid fun t => { t with divbase := x })
    | none => advance s
  | _ => advance (s.modCtx g.ctx fun c => { c with fx := c.fx.set 0x80000000 (n - 0x10) (BitVec.ofNat 32 x.toNat) })

/-- A write of system register `n` from S(a), with its access and corners (R48, R352). -/
def syswrOp (a n : Nat) (s : State) : Out :=
  gated { acc := acc0, who := sysWriter n, rd := sR [a] } s fun g _ s1 => sysWrite n (rS g a) g (settleFlags n s1)

/-- SYSWR (R352). -/
def execSyswr (a n : Nat) (s : State) : Out := syswrOp a n s

/-- SRSEED_WRITE (R25). -/
def execSrseedWrite (a : Nat) (s : State) : Out := syswrOp a 0x0D s

/-- HBPERIOD_WRITE (R244). -/
def execHbperiodWrite (a : Nat) (s : State) : Out := syswrOp a 0x08 s

/-- HBMODE_WRITE (R244). -/
def execHbmodeWrite (a : Nat) (s : State) : Out := syswrOp a 0x09 s

/-- GANG_WRITE (R152, R153). -/
def execGangWrite (a : Nat) (s : State) : Out := syswrOp a 0x0E s

/-- DIVSPILL_SPILL (R353). -/
def execDivspillSpill (a : Nat) (s : State) : Out := syswrOp a 0x1D s

/-- DIVSPILL_DROP (R353). -/
def execDivspillDrop (a : Nat) (s : State) : Out := syswrOp a 0x1D s

/-- DIVSPILL_OPEN (R353). -/
def execDivspillOpen (a : Nat) (s : State) : Out := syswrOp a 0x1D s

/-- The Porter is attached to a context (R196). -/
def attached (s : State) (c : Nat) : Bool := ((s.ctx? c).map Ctx.porter).getD false

/-- HALT (R354): scope 0 halts the path where the Porter is attached; scope 1 quiesces the context to saved. -/
def execHalt (c sc : Nat) (s : State) : Out :=
  gated { acc := acc0, who := if sc = 1 then .handler else .any } s fun g _ s1 =>
    if sc = 1 then
      let s2 := advance s1
      let s3 := if (s2.ctx? g.ctx).map Ctx.st = some .resident then beginQuiesce s2 g.ctx .save else s2
      postEvent s3 7 g.ctx [(1, c)]
    else if attached s g.ctx then
      notice ((advance s1).modPath fun p => { p with halted := true }) g s.iss.slot 0 s.iss.addr.toNat c
    else advance s1

/-- MBOX_SEND (R355): waits while the Porter-to-host ring is full. -/
def execMboxSend (a : Nat) (s : State) : Out :=
  gated { acc := acc0, who := .porter, rd := sR ((List.range 8).map (a + ·)) } s fun g _ s1 =>
    if s.host.p2hFull then waitOn (.mbox true) s1
    else advance (mboxPut s1 ((List.range 8).map fun i => (rS g (a + i)).toNat))

/-- MBOX_RECV (R355): waits while the host-to-Porter ring is empty. -/
def execMboxRecv (a : Nat) (s : State) : Out :=
  gated { acc := acc0, who := .porter, wr := sR ((List.range 8).map (a + ·)) } s fun _ _ s1 =>
    let h := s.host
    if h.h2pEmpty then waitOn (.mbox false) s1
    else
      let k := locKey 2 (h.h2pBase + 64 * (h.h2pHead % 16))
      let ws := (List.range 8).map fun i => RegW.s (a + i) (BitVec.ofNat 64 (s1.rd (k + 8 * i) 8))
      advance ({ s1 with host := { h with h2pHead := (h.h2pHead + 1) % 2 ^ 32 } }.modG fun g => g.puts ws)

/-- UCNT (R198). -/
def execUcnt (d r k : Nat) (s : State) : Out :=
  gated { acc := acc0, wr := sR [d] } s fun g _ s1 =>
    match (s.ctx? g.ctx).bind fun x => x.regions[r]? with
    | none => trapAt .perm 0 s1
    | some x =>
      if chargesOpen g then waitOn .charges s1
      else advance (s1.wS d (BitVec.ofNat 64 (if k = 0 then x.bytes else x.macs).c))

/-- The 8,192 bytes of a report (Table CTX.6); `marks`: the counters at their marks. -/
def reportBytes (s : State) (die c : Nat) (x : Ctx) (nonce : List Byte) (fin loss marks : Bool) : List Byte :=
  let b (v : Bool) (n : Nat) : Nat := if v then 2 ^ n else 0
  let pad (n : Nat) (l : List Byte) : List Byte := (l ++ List.replicate n 0).take n
  let flags := b x.attested 0 + b x.debugen 1 + b x.porterEver 2 + b fin 3 + b loss 4 + b x.satc 5
  let v (k : Counter) : Nat := if marks then k.m else k.c
  let body :=
    bytesLE 4 1 ++ bytesLE 4 flags ++ bytesLE 8 c ++
    bytesLE 8 (stampClk s * 2 ^ 12 + stampDie s die * 2 ^ 4) ++ bytesLE 8 x.reportSeq ++ pad 32 nonce ++
    shake64 identity.pk ++ pad 64 x.link ++ bytesLE 4 x.kregs.length ++ bytesLE 4 x.regions.length ++
    List.replicate 56 0 ++ pad 2048 (x.kregs.flatMap fun k => k.2.2) ++
    pad 2048 (x.regions.flatMap fun r => bytesLE 8 r.base ++ bytesLE 8 r.len ++ bytesLE 8 (v r.bytes) ++ bytesLE 8 (v r.macs)) ++
    pad 256 (x.hist.flatMap fun h => bytesLE 8 h.1 ++ bytesLE 8 h.2)
  body ++ deviceSign body ++ List.replicate 275 0

/-- ATTEST (R199): once the charges of R198 are made, the report is signed and written as a store of order .rel. -/
def execAttest (a b : Nat) (s : State) : Out :=
  gated { acc := acc0, rd := sR [a, b] } s fun g p s1 =>
    let ra := (rS g a).toNat
    let na := (rS g b).toNat
    let r2 := (ra + 4096) % 2 ^ 64
    if badVa ra then trapAt .perm ra s1
    else if badVa na then trapAt .perm na s1
    else if ra % 4096 ≠ 0 then trapAt .align ra s1
    else if na % 32 ≠ 0 then trapAt .align na s1
    else if badVa r2 then trapAt .perm r2 s1
    else
      translateEach g p [(na, Need.read), (ra, Need.write), (r2, Need.write)] (fun ks s2 =>
        let nk := ks.getD 0 0
        let k1 := ks.getD 1 0
        let k2 := ks.getD 2 0
        if chargesOpen g then waitOn .charges s2
        else inOrder g true true [(nk, 32), (k1, 4096), (k2, 4096)] (fun s3 =>
          let s4 := s3.modCtx g.ctx fun x => { x with reportSeq := x.reportSeq + 1 }
          match s4.ctx? g.ctx with
          | none => s4
          | some x =>
            let r := reportBytes s4 (dieOf g.place.core) g.ctx x (s4.bytes nk 32) false false false
            advance (homeWrite (homeWrite s4 (some g.place.core) k1 (r.take 4096)) (some g.place.core) k2 (r.drop 4096))) s2) s1

end Sys2Proof.Machine
end

