-- ==== Sys2Proof/Machine/Context.lean ====
section
/-! DEFINITION. Contexts: the commands that create, grant, switch and destroy them, hand-over, quiescence, the save image
and its restoration (chapter 12; R203, R209 to R211, R219, R220, R316). -/

namespace Sys2Proof.Machine

/-- A ctx field out of range: 0 denotes system work (R184). -/
def ctxBad (n : Nat) : Bool := n = 0 || 65535 < n

/-- The context is in one of the states. -/
def ctxIn (s : State) (c : Nat) (l : List CSt) : Bool := match s.ctx? c with | some x => l.contains x.st | none => false

/-- The states in which grants and registrations are taken (R189; log 25). -/
def liveStates : List CSt := [.created, .loading, .resident, .saved]

/-- A command on a context: its number, then its state, then `k` (R184). -/
def onCtx (c : Nat) (l : List CSt) (s : State) (k : Ctx → CmdRes) : CmdRes :=
  if ctxBad c then .done sBADCMD 0 s
  else match s.ctx? c with
    | none => .done sBADSTATE 0 s
    | some x => if l.contains x.st then k x else .done sBADSTATE 0 s

/-- The first registration or grant makes a created context loading (Table CTX.1). -/
def load (x : Ctx) : Ctx := if x.st = .created then { x with st := .loading } else x

/-- CREATE (R184, R193). -/
def execCreate (c : Cmd) (s : State) : Out :=
  runCmd 1 c s fun s =>
    let n := arg c 0
    let f := arg c 1
    let lb := arg c 2
    let ls := arg c 3
    if ctxBad n || 3 < f || lb = 0 || lb % 64 ≠ 0 || badVa lb || ls < 64 || 65536 < ls || 2 ^ Nat.log2 ls ≠ ls then .done sBADCMD 0 s
    else if (s.ctx? n).isSome then .done sBADSTATE 0 s
    else
      let x : Ctx :=
        { st := .created, debugen := f % 2 = 1, attested := 2 ≤ f, logBase := lb % 2 ^ 57, logSize := ls, logTail := 0, logLost := 0, net := [],
          ptTop := none, fx := [], kregs := [], regions := [], satc := false, tasks := [], dirtyLog := 0, porter := false,
          porterEver := false, cmps := [], reportSeq := 0, link := [], hist := [], after_ := none, exportAddr := 0, image := none,
          replays := [], logSeq := 0, scrub := [] }
      .done sOK 0 { s with ctxs := s.ctxs.put n x }

/-- A range of a context is mapped readable; its bytes (R189, R212). -/
def ctxRead (s : State) (c va n : Nat) : Option (List Byte) :=
  let v := va % 2 ^ 57
  let pages := (List.range ((v % 4096 + n + 4095) / 4096)).map fun i => (v / 4096 + i) * 4096
  let keys := pages.map fun p => (walkNow s c p Need.read).2
  if badVa va || keys.any Option.isNone then none
  else
    let ks := keys.map fun k => k.getD 0
    some ((List.range n).map fun i => s.byte (ks.getD ((v % 4096 + i) / 4096) 0 + (v + i) % 4096))

/-- REGKERNEL (R189). -/
def execRegkernel (c : Cmd) (s : State) : Out :=
  runCmd 2 c s fun s => onCtx (arg c 0) [.created, .loading] s fun x =>
    if arg c 2 = 0 || 32 ≤ x.kregs.length then .done sBADCMD 0 s
    else match ctxRead s (arg c 0) (arg c 1) (arg c 2) with
      | none => .done sBADCMD 0 s
      | some bs => .done sOK x.kregs.length (s.modCtx (arg c 0) fun x =>
          load { x with kregs := x.kregs ++ [(arg c 1 % 2 ^ 57, arg c 2, shake64 bs)] })

/-- REGREGION (R189). -/
def execRegregion (c : Cmd) (s : State) : Out :=
  runCmd 3 c s fun s => onCtx (arg c 0) liveStates s fun x =>
    let z : Counter := { c := 0, m := 0 }
    if arg c 1 % 2 ^ 21 ≠ 0 || badVa (arg c 1) || arg c 2 = 0 || arg c 2 % 2 ^ 21 ≠ 0 || 64 ≤ x.regions.length then .done sBADCMD 0 s
    else .done sOK x.regions.length (s.modCtx (arg c 0) fun x =>
      load { x with regions := x.regions ++ [{ base := arg c 1 % 2 ^ 57, len := arg c 2, holder := arg c 3, bytes := z, macs := z }] })

/-- An entry lies in a registered kernel region (R189). -/
def entryOk (x : Ctx) (e : Nat) : Bool := x.kregs.any fun k => k.1 ≤ e % 2 ^ 57 && e % 2 ^ 57 < k.1 + k.2.1

/-- REGTASK (R220, Table KRN.4). -/
def execRegtask (c : Cmd) (s : State) : Out :=
  runCmd 4 c s fun s => onCtx (arg c 0) liveStates s fun x =>
    let e := arg c 2
    let w := arg c 5
    let t : Task := { entry := BitVec.ofNat 64 e, frbase := BitVec.ofNat 64 (arg c 3), grid := BitVec.ofNat 64 (arg c 4), cohort := fld w 0 32,
                      team := fld w 32 8, regs := fld w 40 8, valid := fld w 48 1 = 1 }
    if 255 < arg c 1 || e % 256 ≠ 0 || 15 < t.team || t.regs < 8 || 128 < t.regs || t.regs % 8 ≠ 0 || fld w 49 15 ≠ 0 then .done sBADCMD 0 s
    else if x.attested && !entryOk x e then .done sUNATTESTED 0 s
    else .done sOK 0 (s.modCtx (arg c 0) fun x => load { x with tasks := x.tasks.put (arg c 1) t })

/-- A queue as REGQUEUE registers it, where its anchor and sentinel are in order (R200, R203). -/
def newQueue (s : State) (ctx anchor : Nat) : Option KQueue :=
  let q : KQueue := { ctx := ctx, anchor := anchorOf ctx anchor, st := .idle, doneSeq := 0, donePtr := 0, cqSeq := 0,
                      busy := none, pend := [] }
  match qRd s q q.anchor 8, qRd s q (q.anchor + 8) 8, qRd s q (q.anchor + 0x10) 8, qRd s q (q.anchor + 0x18) 4 with
  | some tail, some tseq, some base, some size =>
    match qRd s q tail 8, qRd s q (tail + 8) 8 with
    | some sq, some nx =>
      if tseq = 0 && sq = 0 && nx = 0 && base % 32 = 0 && 16 ≤ size && size ≤ 65536 && 2 ^ Nat.log2 size = size then
        some { q with donePtr := tail }
      else none
    | _, _ => none
  | _, _, _, _ => none

/-- The queue registered: DONEPTR := TAIL and DONESEQ := 0 (R203). -/
def addQueue (s : State) (q : KQueue) : State :=
  let s1 := qWr s q (q.anchor + 0x20) (bytesLE 8 0 ++ bytesLE 8 q.donePtr)
  { s1 with queues := s1.queues.put s1.nextId q, nextId := s1.nextId + 1 }

/-- REGQUEUE (R203). The first host queue is registered by the host itself, since no queue carries its command
(log 26). -/
def execRegqueue (c : Cmd) (s : State) : Out :=
  let ctx := arg c 0
  let an := arg c 1
  let bad (s : State) : Bool := 65535 < ctx || an % 64 ≠ 0 || (ctx ≠ 0 && badVa an) || (ctx ≠ 0 && 64 ≤ (queuesOf s ctx).length) ||
    s.queues.any fun q => q.2.ctx = ctx && q.2.anchor = anchorOf ctx an
  if ctx = 0 && (queuesOf s 0).isEmpty then
    .next (if s.boot ≠ .ready || bad s then s else match newQueue s 0 an with | some q => addQueue s q | none => s)
  else
    runCmd 5 c s fun s =>
      if bad s then .done sBADCMD 0 s
      else if ctx ≠ 0 && !ctxIn s ctx liveStates then .done sBADSTATE 0 s
      else match newQueue s ctx an with
        | none => .done sBADCMD 0 s
        | some q => .done sOK 0 (addQueue s q)

/-- The bank run is assigned to a quadrant (R185). -/
def runQuad (k : Core) (r : Nat) : Nat := k.bankOwner.get (r / 16) r

/-- A run cleared (R185, R187): its banks zeroed, its tile entries unregistered with GEN 0, its tag entries
invalid. -/
def clearRun (k : Core) (r : Nat) : Core :=
  { k with
    pad := k.pad.filter fun (p : Nat × Byte) => p.1 / 32768 ≠ r
    tiles := k.tiles.filter fun (t : Nat × Tile) => t.1 / 4 ≠ r
    tags := k.tags.filter fun (t : Nat × Tag) => t.1 / 16 ≠ r }

/-- The array leaves its context: what it did with a tile ends there, and it is cleared (R174). -/
def sortLeave (s : State) (core : Nat) : State :=
  let x := (s.core core).sort
  let s1 := if x.st = .loading then s.modTile core x.tile fun t => { t with held := t.held - 1 }
    else if x.st = .storing then s.modTile core x.tile fun t => { t with st := .ready, rmask := 0 } else s
  s1.modSort core fun _ => SortArr.idle

/-- HAND-OVER of a quadrant (R187): everything of the old owner is gone before the new one's first group issues. -/
def handover (s : State) (core q c : Nat) : State :=
  let old := (s.quad (4 * core + q)).owner
  if old = c then s
  else
    let s1 := if (s.core core).sortq = q then sortLeave s core else s
    let s2 := s1.modQuad (4 * core + q) fun _ => { Quad.reset with owner := c }
    let s3 := (List.range 4).foldl (fun s p => s.modPart (16 * core + 4 * q + p) fun _ => Part.reset) s2
    s3.modCore core fun k =>
      let k1 := ((List.range 64).filter fun r => runQuad k r = q).foldl clearRun k
      { k1 with
        l1 := k1.l1.filter fun x => x.ctx ≠ old
        hb := (k1.hb.adjust c fun h => { h with count := 0 }).adjust old fun h => { h with count := 0 } }

/-- The quadrants of a mask on a die. -/
def maskQuads (c : Cmd) : List (Nat × Nat) :=
  ((List.range 192).filter fun b => fld (arg c 2 + 2 ^ 64 * arg c 3 + 2 ^ 128 * arg c 4) b 1 = 1).map fun b =>
    (Config.coresPerDie * arg c 1 + b / 4, b % 4)

/-- The lowest tenant network of a die that no context holds (R185). -/
def freeNet (s : State) (die : Nat) : Option Nat :=
  (List.range 15).find? fun n => s.ctxs.all fun x => x.2.net.find? die ≠ some n

/-- The unplaced requests of a suspended cohort. -/
def cohortReqs (s : State) (kid co : Nat) : List (Nat × Req) :=
  kernelReqs s kid fun r => !r.queued && (match r.kind with | .team t => ((s.teams.find? t).map Team.cohort) = some co | _ => false)

/-- A suspended cohort placed where it fits. -/
def placeCohort (c kid : Nat) (s : State) (co : Nat) : State :=
  let l := cohortReqs s kid co
  if l.isEmpty then s
  else match seatCohort s c l [] with
    | none => s
    | some ps => ps.foldl (fun s x => placeReq s x.1 x.2.1 x.2.2.1 x.2.2.2) s

/-- Suspended cohorts of a context's kernels placed, each whole, where they fit; a kernel none of whose cohorts is left over
runs again (R215, R219). -/
def trySuspended (s : State) (c : Nat) : State :=
  let ks := s.kernels.filter fun (k : Nat × Kernel) => k.2.ctx = c && k.2.st = .suspended
  ks.foldl (fun s k =>
    let s1 := ((s.cohorts.filter fun (x : Nat × Cohort) => x.2.kernel = k.1).map Prod.fst).foldl (placeCohort c k.1) s
    if (kernelReqs s1 k.1 fun r => !r.queued).isEmpty then { s1 with kernels := s1.kernels.adjust k.1 fun x => { x with st := .running } } else s1) s

/-- Requests that wait at a die, or in the queue of a core the context no longer owns, enter the queue of an owned core
of their die (R219, R377). -/
def rehome (s : State) (c : Nat) : State :=
  s.cores.foldl (fun s k =>
    if k.1 < 192 && ownsCore s c k.1 then s
    else
      let die := if k.1 < 192 then dieOf k.1 else k.1 - 192
      match bestCore s c die with
      | none => if k.1 < 192 then (allotQueue s k.1 c).foldl (fun s r => enqueue (dequeue s k.1 c r) r (dieQueue die)) s else s
      | some _ => (allotQueue s k.1 c).foldl (fun s r => sendTo (dequeue s k.1 c r) r c die) s) s

/-- GRANT (R185, R187). -/
def execGrant (c : Cmd) (s : State) : Out :=
  runCmd 6 c s fun s =>
    if 3 < arg c 1 then .done sBADCMD 0 s
    else onCtx (arg c 0) liveStates s fun x =>
      let n := arg c 0
      let qs := maskQuads c
      if qs.any fun q => (s.quad (4 * q.1 + q.2)).owner ≠ 0 && (s.quad (4 * q.1 + q.2)).owner ≠ n then .done sBADSTATE 0 s
      else
        let needs : Bool := !qs.isEmpty && (x.net.find? (arg c 1)).isNone
        match freeNet s (arg c 1) with
        | none => if needs then .done sNONET 0 s else grant n qs s
        | some net => grant n qs (if needs then s.modCtx n fun x => { x with net := x.net.put (arg c 1) net } else s)
where grant (n : Nat) (qs : List (Nat × Nat)) (s : State) : CmdRes :=
  let s1 := (qs.foldl (fun s q => handover s q.1 q.2 n) s).modCtx n load
  .done sOK 0 (if ctxIn s1 n [.resident] then trySuspended (rehome s1 n) n else s1)

/-- A tile entry of a core lies, in part, on the banks of a quadrant. -/
def tileOnQuad (s : State) (core q t : Nat) : Bool :=
  let k := s.core core
  let x := s.tile core t
  runQuad k (t / 4) = q || (x.reg && (List.range x.count).any fun i => runQuad k ((x.base + i) / 8) = q)

/-- Work in flight uses what a quadrant's owner owns through it (log 27). -/
def quadInUse (s : State) (core q : Nat) : Bool :=
  (s.ops.any fun o => match o.2.kind with
    | .mat i _ _ => i = 4 * core + q
    | .wb i _ _ _ _ _ _ _ _ _ => i = 4 * core + q
    | .eng e => o.2.core = core && !(e.todo.isEmpty && e.moved) &&
        (tileOnQuad s core q e.tile || ((e.fn = 2 || e.fn = 3) && tileOnQuad s core q e.itile))
    | _ => false) ||
  ((s.core core).tiles.any fun t => 0 < t.2.held && tileOnQuad s core q t.1) ||
  ((s.core core).sortq = q && ((s.core core).sort.st = .loading || (s.core core).sort.st = .storing))

/-- The context owns a quadrant of a die; of any die. -/
def ownsDie (s : State) (c die : Nat) : Bool :=
  (List.range (4 * Config.coresPerDie)).any fun i => (s.quad (4 * Config.coresPerDie * die + i)).owner = c
def ownsAny (s : State) (c : Nat) : Bool := (List.range Config.dies).any fun d => ownsDie s c d

/-- Quadrants taken from a context, with the networks of dies where it keeps none (R185, R187). -/
def takeQuads (s : State) (c : Nat) (qs : List (Nat × Nat)) : State :=
  let s1 := qs.foldl (fun s q => if (s.quad (4 * q.1 + q.2)).owner = c then handover s q.1 q.2 0 else s) s
  s1.modCtx c fun x => { x with net := x.net.filter fun (n : Nat × Nat) => ownsDie s1 c n.1 }

/-- The requests of a context with a group on one of the quadrants. -/
def reqsOn (s : State) (c : Nat) (qs : List (Nat × Nat)) : List (Nat × Req) :=
  s.reqs.filter fun (r : Nat × Req) => r.2.placed && r.2.ctx = c && r.2.gids.any fun i =>
    match s.group? i with
    | some g => qs.contains (g.place.core, g.place.quad)
    | none => false

/-- The groups leave removed quadrants (R219): a non-cooperative request enters another queue at once; cooperative
cohorts leave whole, and their kernel is suspended. -/
def leaveQuads (s : State) (c : Nat) (qs : List (Nat × Nat)) : State :=
  let rs := reqsOn s c qs
  let cos := (rs.filter fun (r : Nat × Req) => r.2.coop).filterMap fun r => reqCohort s r.2
  let whole := s.reqs.filter fun (r : Nat × Req) => r.2.placed && r.2.coop && (match reqCohort s r.2 with | some x => cos.contains x | none => false)
  let s1 := whole.foldl (fun s r =>
    let s2 := evict s r.1
    match reqKernel s r.2 with
    | some k => { s2 with kernels := s2.kernels.adjust k fun x => { x with st := .suspended } }
    | none => s2) s
  rehome ((rs.filter fun (r : Nat × Req) => !r.2.coop).foldl (fun s r => sendTo (evict s r.1) r.1 c r.2.die) s1) c

/-- SHRINKs of a context that wait, done: the groups that are left on their quadrants leave them, and the quadrants pass (R219). -/
def endShrinks (s : State) (c : Nat) : State :=
  s.queues.foldl (fun s q => match q.2.busy with
    | some k => if k.op = 7 && arg k 0 = c then finishCmd q.1 sOK 0 (takeQuads (leaveQuads s c (maskQuads k)) c (maskQuads k)) else s
    | none => s) s

/-- SHRINK (R219, Table CTX.1; log 27), of a resident context: the groups leave at once; the quadrants pass when the work in flight on them has ended, in a
later step of the same command. -/
def execShrink (c : Cmd) (s : State) : Out :=
  let n := arg c 0
  match (s.queues.find? c.q).bind KQueue.busy with
  | some b =>
    .next (if b ≠ c || c.op ≠ 7 || !ctxIn s n [.resident] || (maskQuads c).any fun q => (s.quad (4 * q.1 + q.2)).owner = n && quadInUse s q.1 q.2 then s
      else finishCmd c.q sOK 0 (takeQuads s n (maskQuads c)))
  | none =>
    runCmd 7 c s fun s =>
      if 3 < arg c 1 then .done sBADCMD 0 s
      else onCtx n [.resident] s fun _ =>
        let qs := (maskQuads c).filter fun q => (s.quad (4 * q.1 + q.2)).owner = n
        if c.flags % 2 = 0 && (reqsOn s n qs).any fun r => r.2.coop then .done sBADSTATE 1 s
        else if !qs.isEmpty && !ownsAny (takeQuads s n qs) n then .busy (beginQuiesce s n .save)
        else
          let s1 := leaveQuads (s.modQ c.q fun q => { q with busy := some c }) n qs
          if qs.any fun q => quadInUse s1 q.1 q.2 then .busy s1
          else .done sOK 0 ((takeQuads s1 n qs).modQ c.q fun q => { q with busy := none })

/-- SETBANKS (R185). -/
def execSetbanks (c : Cmd) (s : State) : Out :=
  runCmd 14 c s fun s =>
    let die := fld (arg c 1) 0 8
    let core := Config.coresPerDie * die + fld (arg c 1) 8 8
    let r := arg c 2
    if 3 < die || 47 < fld (arg c 1) 8 8 || 2 ^ 16 ≤ arg c 1 || 63 < r || 3 < arg c 3 then .done sBADCMD 0 s
    else onCtx (arg c 0) liveStates s fun _ =>
      let old := (s.quad (4 * core + runQuad (s.core core) r)).owner
      if (s.quad (4 * core + arg c 3)).owner ≠ arg c 0 || (old ≠ 0 && old ≠ arg c 0) then .done sBADSTATE 0 s
      else .done sOK 0 (s.modCore core fun k =>
        let k1 := if old = 0 then clearRun k r else k
        { k1 with bankOwner := k1.bankOwner.set (r / 16) r (arg c 3) })

/-- SETSORT (R174, R185): between quadrants of one context the array keeps everything; otherwise it is cleared. -/
def execSetsort (c : Cmd) (s : State) : Out :=
  runCmd 15 c s fun s =>
    let die := fld (arg c 1) 0 8
    let core := Config.coresPerDie * die + fld (arg c 1) 8 8
    if 3 < die || 47 < fld (arg c 1) 8 8 || 2 ^ 16 ≤ arg c 1 || 3 < arg c 2 then .done sBADCMD 0 s
    else onCtx (arg c 0) liveStates s fun _ =>
      let old := (s.quad (4 * core + (s.core core).sortq)).owner
      if (s.quad (4 * core + arg c 2)).owner ≠ arg c 0 then .done sBADSTATE 0 s
      else .done sOK 0 ((if old = arg c 0 then s else sortLeave s core).modCore core fun k => { k with sortq := arg c 2 })

/-- SWITCH (R184, R191). -/
def execSwitch (c : Cmd) (s : State) : Out :=
  runCmd 9 c s fun s => onCtx (arg c 0) [.resident] s fun _ => .busy (beginQuiesce s (arg c 0) .save)

/-- MIGRATE (R184, R191): of a saved context, or of a resident one after its quiescence. -/
def execMigrate (c : Cmd) (s : State) : Out :=
  runCmd 10 c s fun s => onCtx (arg c 0) [.saved, .resident] s fun x =>
    if x.st = .saved then .busy (s.modCtx (arg c 0) fun x => { x with st := .migrating, exportAddr := arg c 1 })
    else .busy (beginQuiesce (s.modCtx (arg c 0) fun x => { x with exportAddr := arg c 1 }) (arg c 0) .save)

/-- Kernels of a destroyed context end with BADSTATE and RESULT 2 (R215). -/
def killKernels (s : State) (c : Nat) : State :=
  (s.kernels.filter fun (k : Nat × Kernel) => k.2.ctx = c && k.2.st ≠ .done).foldl (fun s k =>
    complete k.2.q k.2.seq sBADSTATE 2 { s with kernels := s.kernels.put k.1 { k.2 with st := .done } }) s

/-- SCRUBBING BEGINS (R184, R193, R309, R317): open bundles are abandoned while the log is still written; the context's
work, queues, faults and allotments are gone; its frames that no other context maps join the scrub queue. -/
def beginScrub (s : State) (c : Nat) : State :=
  let mine := s.groups.filter fun (g : Nat × Group) => g.2.ctx = c
  let s1 := mine.foldl (fun s g => match g.2.bundle with
    | some h => if (dirOf s h).map Dir.st = some .open_ then abandonLog (abandon s h) c h 2 else s
    | none => s) s
  let s2 := killKernels s1 c
  let gids := mine.map Prod.fst
  let own := ((leaves s2 c).filter fun l => !s2.ctxs.any fun x => x.1 ≠ c && mappedBy s2 x.1 l.1 (2 ^ pageBits l.2.1)).flatMap fun l => runFrames l.1 l.2.1
  let frames := (own.filter fun f => isFrame f && s2.page f = .allocated).eraseDups
  let s3 := frames.foldl (fun s f => s.setPage f .queued) s2
  { s3.modCtx c fun x => { x with st := .scrubbing, after_ := none, scrub := frames, porter := false, cmps := [] } with
    groups := s3.groups.filter fun (g : Nat × Group) => g.2.ctx ≠ c
    ops := s3.ops.filter fun (o : Nat × Op) => o.2.ctx ≠ c
    torus := s3.torus.filter fun (p : Nat × Packet) => ((s3.ops.find? p.2.op).map Op.ctx) ≠ some c
    pipe := s3.pipe.filter fun e => !gids.contains e.gid
    reqs := s3.reqs.filter fun (r : Nat × Req) => r.2.ctx ≠ c
    teams := s3.teams.filter fun (t : Nat × Team) => t.2.ctx ≠ c
    cohorts := s3.cohorts.filter fun (x : Nat × Cohort) => ((s3.kernels.find? x.2.kernel).map Kernel.ctx) ≠ some c
    queues := s3.queues.filter fun (q : Nat × KQueue) => q.2.ctx ≠ c
    parts := s3.parts.mapV fun _ p => { p with trapq := p.trapq.filter fun x => !gids.contains x.1 }
    cores := s3.cores.mapV fun _ k =>
      { k with
        allot := k.allot.del c, l1 := k.l1.filter fun x => x.ctx ≠ c, tlb := k.tlb.filter fun t => t.ctx ≠ c, hb := k.hb.del c
        eseq := k.eseq.filter fun (e : Nat × Nat) => e.1 % 65536 ≠ c }
    dies := s3.dies.mapV fun _ d =>
      { d with
        tlb := d.tlb.filter fun t => t.ctx ≠ c, walks := d.walks.filter fun (w : Nat × Walk) => w.2.ctx ≠ c
        faults := d.faults.filter fun (f : Nat × FaultR) => f.2.ctx ≠ c }
    bounds := s3.bounds.mapV fun _ b => { b with allots := b.allots.del c }
    binds := s3.binds.filter fun (b : Nat × Nat) => b.1 / 64 ≠ c }

/-- DESTROY (R184). -/
def execDestroy (c : Cmd) (s : State) : Out :=
  runCmd 11 c s fun s => onCtx (arg c 0) [.created, .resident, .saved] s fun x =>
    if x.st = .resident then .busy (beginQuiesce s (arg c 0) .destroy) else .busy (beginScrub s (arg c 0))

/-- CONTEXT_SCRUB_END (R184): with its pages clean, its quadrants and banks pass on, and the number is free. -/
def execContextScrubEnd (c : Nat) (s : State) : Out :=
  .next (match s.ctx? c with
    | none => s
    | some x =>
      if x.st ≠ .scrubbing || x.scrub.any fun f => s.page f ≠ .clean && s.page f ≠ .allocated then s
      else
        let qs := (s.quads.filter fun (q : Nat × Quad) => q.2.owner = c).map fun q => (q.1 / 4, q.1 % 4)
        let s1 := takeQuads s c qs
        finishAll (fun k => (k.op = 10 || k.op = 11) && arg k 0 = c) sOK 0 { s1 with ctxs := s1.ctxs.del c })

/-- A replay entry of 272 bytes, of the group whose record has index `i` (Table CTX.3). -/
def Replay.bytes (r : Replay) (i : Nat) : List Byte :=
  bytesLE 8 (r.kind % 4 * 2 ^ 62 + i % 2 ^ 16 * 2 ^ 40 + r.slot % 2 ^ 8 * 2 ^ 32 + r.reg % 2 ^ 7 * 2 ^ 25) ++ bytesLE 8 r.lanes.toNat ++
    (List.range 32).flatMap fun l => bytesLE 8 (r.vals.getD l 0).toNat

/-- The replay entries of a context as its image holds them: in the order in which the replies arrived, each naming the group record of
its group (R192, Tables CTX.2 and CTX.3). -/
def replayBytes (x : Ctx) : List Byte :=
  let gs := (x.image.map fun i => i.grps.map Prod.fst).getD []
  x.replays.flatMap fun r => r.bytes ((gs.findIdx? (· = r.gid)).getD 0)

/-- The image of a migrating context written to memory at its export address: the form and length of the sections before the replay
entries are open (log 28), and the code pages of registered kernels are not written (R189). -/
def exportImage (s : State) (x : Ctx) : State :=
  let n := (Config.freeValue s.fresh).toNat % 2 ^ 48
  let s1 : State := { s with fresh := s.fresh + 1 + n }
  let bs := ((List.range n).map fun i => (Config.freeValue (s.fresh + 1 + i)).truncate 8) ++ replayBytes x
  bs.zipIdx.foldl (fun t b =>
    let k := locKey 0 (x.exportAddr + b.2)
    if codeFrame s k then t else homeWrite t none k [b.1]) s1

/-- MIGRATION_EXPORT_END (R195; log 28): the final report is signed, the image exported, and scrubbing begins. -/
def execMigrationExportEnd (c : Nat) (s : State) : Out :=
  .next (match s.ctx? c with
    | none => s
    | some x =>
      if x.st ≠ .migrating then s
      else
        let x1 := { x with reportSeq := x.reportSeq + 1 }
        beginScrub { exportImage s x with ctxs := s.ctxs.put c x1, reports := s.reports ++ [(c, reportBytes s 0 c x1 [] true false false)] } c)

/-- The final report of a migrated context reaches the context that continues it on this device: its reports carry the hash as
LINK (R195; log 28). -/
def linkCtx (c : Nat) (report : List Byte) (s : State) : State :=
  if ctxIn s c [.created, .loading] then s.modCtx c fun x => { x with link := shake64 report } else s

/-- An operation that quiescence waits for (R191 step 3). -/
def holdsQuiesce : OpKind → Bool
  | .fence _ _ => false
  | .amsg _ => false
  | _ => true

/-- A path has issued before the stop what waits for the accesses before it, or has just been woken from that wait (R191, R260). -/
def Path.landing (p : Path) : Bool :=
  !p.halted && !p.held && (match p.cond with
    | .waiting w => w.lands
    | .ready => p.woken.any Wake.lands
    | _ => false)

/-- Nothing of the context is in flight any more, and no spill, read-back or record write waits in a fault (R183, R191, R250,
R260, R333). -/
def quiet (s : State) (c : Nat) : Bool :=
  (s.groups.all fun g => g.2.ctx ≠ c || !g.2.resident || g.2.paths.all fun p => !p.2.landing) &&
  (s.dies.all fun d => d.2.faults.all fun f => f.2.ctx ≠ c || f.2.frames.isEmpty) && (s.ops.all fun o => o.2.ctx ≠ c || !holdsQuiesce o.2.kind) &&
  (s.groups.all fun g => g.2.ctx ≠ c || g.2.paths.all fun p => p.2.frames.all fun f => f.st ≠ .promoting) &&
  s.cores.all fun k =>
    ((s.quad (4 * k.1 + k.2.sortq)).owner ≠ c ||
      !(k.2.sort.st = .loading || k.2.sort.st = .storing || (k.2.sort.st = .running && !k.2.sort.paused))) &&
    k.2.tiles.all fun t => t.2.held = 0 || bankOwner s k.1 (2 * t.1) ≠ c

/-- What a context owns of a core, for the image (Table CTX.2). -/
def coreImage (s : State) (c core : Nat) : Core :=
  let k := s.core core
  let own (bank : Nat) : Bool := ownsBank s core c bank
  { k with
    pad := k.pad.filter fun (p : Nat × Byte) => own (p.1 / 4096)
    tiles := k.tiles.filter fun (t : Nat × Tile) => own (2 * t.1)
    tags := k.tags.filter fun (t : Nat × Tag) => own (2 * (t.1 / 4))
    eseq := k.eseq.filter fun (e : Nat × Nat) => e.1 % 65536 = c
    hb := k.hb.filter fun (h : Nat × Hb) => h.1 = c
    l1 := [], tlb := [], allot := []
    sort := if (s.quad (4 * core + k.sortq)).owner = c then k.sort else SortArr.idle }

/-- The image of a context (Table CTX.2): its groups stay in their records. -/
def imageOf (s : State) (c : Nat) : Image :=
  let qs := s.quads.filter fun (q : Nat × Quad) => q.2.owner = c
  let cs := (qs.map fun q => q.1 / 4).eraseDups
  { grps := (s.groups.filter fun (g : Nat × Group) => g.2.ctx = c).map fun g =>
      (g.1, groupState s g.1 g.2, g.2.paths.map fun p => (p.1, pathCond s g.1 p.1 g.2 p.2))
    quads := qs
    parts := (qs.flatMap fun q => (List.range 4).map fun p => 4 * q.1 + p).map fun i => (i, (s.part i).srseed)
    cores := cs.map fun k => (k, coreImage s c k) }

/-- The replay entry of a parked access, with the pages and fault kinds that it waits for (R191 step 4, R192, R316). -/
def parkedEntry (s : State) (gid slot : Nat) : Replay :=
  { kind := 2, gid := gid, slot := slot, reg := 0, lanes := 0, vals := List.replicate 32 0, op := 0
    waits := s.dies.flatMap fun d => (d.2.faults.filter fun (f : Nat × FaultR) =>
      f.2.paths.contains (gid, slot) || f.2.claims.contains (gid, slot)).map fun f => (f.2.va, f.2.kind) }

/-- The parked accesses of a context: paths that wait for a translation, and claims of a record that wait for one. -/
def parkedPaths (s : State) (c : Nat) : List (Nat × Nat) :=
  (s.groups.filter fun (g : Nat × Group) => g.2.ctx = c).flatMap fun g =>
    (g.2.paths.filter fun (p : Nat × Path) => (match p.2.cond with | .parked _ => true | _ => false) ||
      s.dies.any fun d => d.2.faults.any fun f => f.2.claims.contains (g.1, p.1)).map fun p => (g.1, p.1)

/-- Parked accesses leave the walks and the fault buffer for the image as replay entries of kind 2; the faults stay open (R191
step 4, R316). -/
def saveParked (s : State) (c : Nat) : State :=
  { s.modCtx c fun x => { x with replays := x.replays ++ (parkedPaths s c).map fun q => parkedEntry s q.1 q.2 } with
    dies := s.dies.mapV fun _ d =>
      { d with
        walks := d.walks.filter fun (w : Nat × Walk) => w.2.ctx ≠ c
        faults := d.faults.mapV fun _ f => if f.ctx = c then { f with paths := [], claims := [] } else f } }

/-- The context saved (R191 steps 4 and 5): its arithmetic has landed, its groups leave issue. -/
def saveCtx (s : State) (c : Nat) : State :=
  let mine (gid : Nat) : Bool := ((s.group? gid).map Group.ctx) = some c
  let s1 := (s.pipe.filter fun e => mine e.gid).foldl landE { s with pipe := s.pipe.filter fun e => !mine e.gid }
  let s2 : State := { s1 with
    groups := s1.groups.mapV fun _ g => if g.ctx = c then { g with resident := false } else g
    ops := s1.ops.filter fun (o : Nat × Op) => o.2.ctx ≠ c || (match o.2.kind with | .fence _ _ => false | _ => true) }
  let s3 := saveParked s2 c
  s3.modCtx c fun x => { x with st := .saved, after_ := none, image := some (imageOf s3 c) }

/-- Commands that wait for the quiescence of a context. -/
def afterSave (s : State) (c : Nat) : State :=
  (endShrinks s c).queues.foldl (fun s q => match q.2.busy with
    | some k =>
      if arg k 0 ≠ c then s
      else if k.op = 9 then finishCmd q.1 sOK 0 s
      else if k.op = 10 then s.modCtx c fun x => if x.st = .saved then { x with st := .migrating } else x
      else s
    | none => s) (endShrinks s c)

/-- QUIESCENCE_END (R191). -/
def execQuiescenceEnd (c : Nat) (s : State) : Out :=
  .next (match s.ctx? c with
    | none => s
    | some x =>
      if x.st ≠ .quiescing || !quiet s c then s
      else
        let s1 := saveCtx s c
        if x.after_ = some .destroy then beginScrub (endShrinks s1 c) c else afterSave s1 c)

/-- What an image holds of a core put back where the context still owns it (R377); a run of the sort array that was paused
continues, for a quadrant that has become its owner meanwhile too (R174, R183). -/
def restoreCore (s : State) (c core : Nat) (i : Core) : State :=
  s.modCore core fun k =>
    let own (bank : Nat) : Bool := ownsBank s core c bank
    let sortHere : Bool := (s.quad (4 * core + k.sortq)).owner = c
    { k with
      pad := (i.pad.filter fun (p : Nat × Byte) => own (p.1 / 4096)).foldl (fun m p => m.set 0 p.1 p.2)
        (k.pad.filter fun (p : Nat × Byte) => !own (p.1 / 4096))
      tiles := (i.tiles.filter fun (t : Nat × Tile) => own (2 * t.1)).foldl (fun m t => m.set Tile.reset t.1 t.2)
        (k.tiles.filter fun (t : Nat × Tile) => !own (2 * t.1))
      tags := (i.tags.filter fun (t : Nat × Tag) => own (2 * (t.1 / 4))).foldl (fun m t => SMap.put m t.1 t.2)
        (k.tags.filter fun (t : Nat × Tag) => !own (2 * (t.1 / 4)))
      eseq := i.eseq.foldl (fun m e => SMap.put m e.1 e.2) (k.eseq.filter fun (e : Nat × Nat) => e.1 % 65536 ≠ c)
      hb := i.hb.foldl (fun m h => SMap.put m h.1 h.2) k.hb
      sort := if sortHere then { i.sort with paused := false } else k.sort }

/-- A group can return to the place it held: its quadrant is still owned, and the split table of its core has entries for its
fragments and its handler's (R228, R377). -/
def canReturn (s : State) (c gid : Nat) : Bool :=
  match s.group? gid with
  | none => false
  | some g =>
    let n := g.frags + (handlerOf s gid).elim 0 fun h => h.2.frags
    ownsQuad s c g.place.core g.place.quad && (n = 0 || n + (splitUsed s g.place.core).length ≤ splitMax)

/-- Groups that return to their places, one after another: with the state, those that stay away. -/
def returnGroups (c : Nat) : List Nat → State → State × List Nat
  | [], s => (s, [])
  | i :: l, s =>
    if canReturn s c i then
      returnGroups c l (match s.group? i with
        | some g => reseat s i { place := g.place, base := g.base, budget := g.budget, frags := g.frags }
        | none => s)
    else
      let x := returnGroups c l s
      (x.1, i :: x.2)

/-- A cooperative request that leaves residency with its cohort: its kernel is suspended (R219). -/
def suspendReq (s : State) (x : Nat × Req) : State :=
  let s1 : State := { x.2.gids.foldl unseat s with reqs := s.reqs.put x.1 { x.2 with placed := false, queued := false, headAt := none } }
  match reqKernel s x.2 with
  | some k => { s1 with kernels := s1.kernels.adjust k fun k => { k with st := .suspended } }
  | none => s1

/-- A cooperative cohort at the resumption: it returns whole to the places that it held, or leaves whole (R219; log 29). -/
def resumeCohort (c : Nat) (s : State) (co : Nat) : State :=
  let rs := s.reqs.filter fun (r : Nat × Req) => r.2.placed && r.2.coop && r.2.ctx = c && reqCohort s r.2 = some co
  let x := returnGroups c (rs.flatMap fun r => r.2.gids) s
  if x.2.isEmpty then x.1 else rs.foldl suspendReq s

/-- The cooperative cohorts of a context that stand in residency. -/
def coopCohorts (s : State) (c : Nat) : List Nat :=
  (s.reqs.filterMap fun r => if r.2.placed && r.2.coop && r.2.ctx = c then reqCohort s r.2 else none).eraseDups

/-- A request of no cooperative cohort whose groups take their seats again where they can return; the others form one request that is
queued (R377). -/
def resumeReq (c : Nat) (s : State) (rid : Nat) : State :=
  match s.reqs.find? rid with
  | none => s
  | some r =>
    if !r.placed || r.ctx ≠ c || r.coop then s
    else
      let (s1, go) := returnGroups c r.gids s
      let stay := r.gids.filter fun i => !go.contains i
      if go.isEmpty then s1
      else
        let s2 := go.foldl unseat s1
        if stay.isEmpty then sendTo { s2 with reqs := s2.reqs.put rid { r with placed := false } } rid c r.die
        else
          let id := s2.nextId
          let s3 : State := { s2 with
            reqs := (s2.reqs.put rid { r with gids := stay }).put id { r with gids := go, placed := false }
            groups := s2.groups.mapV fun i g => if go.contains i then { g with req := id } else g
            nextId := id + 1 }
          sendTo s3 id c r.die

/-- A replay entry at the resumption (R192): a reply writes its registers; a parked access is issued again. -/
def replayEntry (s : State) (r : Replay) : State :=
  if r.kind = 2 then
    s.modPathAt r.gid r.slot fun p => match p.cond with
      | .parked _ => { p with cond := .ready }
      | .waiting .claim => { p with cond := .ready }
      | _ => p
  else s.modGroup r.gid fun g => g.puts r.writes

/-- The replay entries of a context, in the order of their arrival (R192). -/
def landReplays (s : State) (c : Nat) : State :=
  match s.ctx? c with
  | none => s
  | some x => (x.replays.foldl replayEntry s).modCtx c fun x => { x with replays := [], image := none }

/-- RESUME (R184, R377): the image is restored, and what waits in seqw translates its address again; the stop and the
resumption are an .sc fence at .sys (R276). The engine sequence counters of cores no longer owned start again at 1. -/
def execResume (c : Cmd) (s : State) : Out :=
  runCmd 8 c s fun s => onCtx (arg c 0) [.loading, .saved] s fun x =>
    let n := arg c 0
    if x.st = .loading && !ownsAny s n then .done sBADSTATE 0 s
    else
      let s0 := s.modCtx n fun x => { x with st := .resident }
      let s1 := match x.image with
        | none => s0
        | some i =>
          let a := (i.quads.filter fun (q : Nat × Quad) => (s.quad q.1).owner = n).foldl (fun (s : State) (q : Nat × Quad) => s.modQuad q.1 fun _ => q.2) s0
          let b := (i.parts.filter fun (p : Nat × W32) => (s.quad (p.1 / 4)).owner = n).foldl (fun (s : State) (p : Nat × W32) => s.modPart p.1 fun x => { x with srseed := p.2 }) a
          (i.cores.filter fun (k : Nat × Core) => ownsCore s n k.1).foldl (fun (s : State) (k : Nat × Core) => restoreCore s n k.1 k.2) b
      let s2 : State := { s1 with
        cores := s1.cores.mapV fun i k =>
          { k with
            l1 := k.l1.filter fun l => l.ctx ≠ n
            eseq := if ownsCore s n i then k.eseq else k.eseq.filter fun (e : Nat × Nat) => e.1 % 65536 ≠ n } }
      let s3 := (s.reqs.map Prod.fst).foldl (resumeReq n) ((coopCohorts s2 n).foldl (resumeCohort n) s2)
      let s4 := landReplays (trySuspended (rehome s3 n) n) n
      let s5 := ((s4.teams.filter fun (t : Nat × Team) => t.2.ctx = n).map Prod.fst).foldl regroupAll s4
      .done sOK 0 ((seqwPaths s5 n 0 (2 ^ 57)).foldl seqwAgain s5)

/-- RESYNC (R203, R210): a stopped queue takes a new DONEPTR and DONESEQ. -/
def execResync (c : Cmd) (s : State) : Out :=
  runCmd 13 c s fun s =>
    let own := ((s.queues.find? c.q).map KQueue.ctx).getD 0
    let hit (q : Nat × KQueue) : Bool := q.2.anchor = anchorOf q.2.ctx (arg c 0)
    let named := List.find? (fun (q : Nat × KQueue) => hit q && q.2.ctx = own) s.queues
    match named.or (if own = 0 then List.find? hit s.queues else none) with
    | none => .done sBADCMD 0 s
    | some (i, q) =>
      if q.st ≠ .stopped then .done sBADSTATE 0 s
      else .done sOK 0 ((qWr s q (q.anchor + 0x20) (bytesLE 8 (arg c 2) ++ bytesLE 8 (arg c 1))).modQ i fun q =>
        { q with st := .idle, doneSeq := arg c 2, donePtr := arg c 1 })

end Sys2Proof.Machine
end

