-- ==== Sys2Proof/Machine/Helper.lean ====
section
/-! DEFINITION. The function helpers: major 0x17 (R110 to R114). -/

namespace Sys2Proof.Machine

/-- A unary helper on both f32 sub-elements of each acting lane, DAZ on its source (R112). -/
def helper (acc : Acc) (d a : Nat) (s : State) (f : FV → Nat × Nat) : Out :=
  gated { acc := acc, rd := vR [a], wr := vR [d] } s fun g p =>
    let r := vecF 2 (actLanes s g p) [] fun _ l e => f (F32.val (F32.daz g.daz (elem 32 (rV g a l) e)))
    land (vecWrites d 32 r) (vecFlags r)

/-- VRCP_SEED (R112). -/
def execVrcpSeed (d a : Nat) (s : State) : Out := helper accV2 d a s rcpSeed

/-- VRSQ_SEED (R112). -/
def execVrsqSeed (d a : Nat) (s : State) : Out := helper accV2 d a s rsqSeed

/-- VEXP_RED (R112). -/
def execVexpRed (d a k : Nat) (s : State) : Out := helper accV2 d a s (expRed k)

/-- VLOG_RED (R112). -/
def execVlogRed (d a k : Nat) (s : State) : Out := helper accV2 d a s (logRed k)

/-- VSC_RED (R112). -/
def execVscRed (d a k : Nat) (s : State) : Out := helper accV2 d a s (scRed k)

/-- VLDEXP (R112). -/
def execVldexp (d a b : Nat) (s : State) : Out :=
  gated { acc := accR3, rd := vR [a, b], wr := vR [d] } s fun g p s0 =>
    withDraws (rmode s g) (2 * (actLanes s g p).length) g s0 fun draws =>
      let r := vecF 2 (actLanes s g p) draws fun dr l e =>
        ldexp (rmode s g) dr g.ftz (toI 32 (elem 32 (rV g b l) e)) (F32.val (F32.daz g.daz (elem 32 (rV g a l) e)))
      land (vecWrites d 32 r) (vecFlags r)

/-- VGETEXP (R112). -/
def execVgetexp (d a : Nat) (s : State) : Out := helper accV2 d a s getExp

/-- VGETMAN (R112). -/
def execVgetman (d a : Nat) (s : State) : Out := helper accV2 d a s getMan

/-- VFRAC (R112). -/
def execVfrac (d a : Nat) (s : State) : Out := helper accV2 d a s fracPart

/-- VFRND (R112). -/
def execVfrnd (d a : Nat) (s : State) : Out :=
  gated { acc := accR2, rd := vR [a], wr := vR [d] } s fun g p s0 =>
    withDraws (rmode s g) (2 * (actLanes s g p).length) g s0 fun draws =>
      let r := vecF 2 (actLanes s g p) draws fun dr l e =>
        frnd (rmode s g) dr (F32.val (F32.daz g.daz (elem 32 (rV g a l) e)))
      land (vecWrites d 32 r) (vecFlags r)

/-- VSC_FIX (R114). -/
def execVscFix (d a b : Nat) (s : State) : Out :=
  gated { acc := accV3, rd := vR [a, b, d], wr := vR [d] } s fun g p =>
    let r := vecF 2 (actLanes s g p) [] fun _ l e =>
      scFix (elem 32 (rV g d l) e) (elem 32 (rV g a l) e) (elem 32 (rV g b l) e)
    land (vecWrites d 32 r) (vecFlags r)

end Sys2Proof.Machine
end

