-- ==== Sys2Proof/Machine/Home.lean ====
section
/-! DEFINITION. The two events of every access: it is performed at its home, and its reply lands (R132, R278). -/

namespace Sys2Proof.Machine

/-- HOME_ACCESS (R278): the operation, or its named lanes or items, is performed, where the order of its path
allows it, no packet of it is shown on its way, and its link stands, but for what was dropped (R327, R339); `l1` lets loads be served from L1. -/
def execHomeAccess (o : Nat) (lanes : List Nat) (l1 : Bool) (s : State) : Out :=
  .next (match s.ops.find? o with
    | none => s
    | some op =>
      if enRoute s o then s
      else match op.kind with
      | .mem m => if m.lanes.any fun l => !op.ended l && linkWaits s l.pa then s else memPerform o op m lanes l1 s
      | .fence f sc => fencePerform o op f sc s
      | .eng e => if op.lost ≠ 0 then s else engPerform o op e lanes s
      | .submit an re ka kr reg _ => submitPerform o op an re ka kr reg s
      | _ => s)

/-- LOAD_REPLY (R132, R205): the data of a load, or the number of a submit, lands; one that comes after its timeout is discarded
and logged (R327). -/
def execLoadReply (o : Nat) (s : State) : Out :=
  .next (match s.ops.find? o with
    | none => lateReply s o
    | some op =>
      if op.lost ≠ 0 || enRoute s o then s
      else match op.kind with
      | .mem m => loadReplyMem o op m s
      | .submit _ _ _ _ reg n => if op.perf then landReply s o op (if reg = 0 then [] else [.s reg (BitVec.ofNat 64 n)]) else s
      | _ => s)

end Sys2Proof.Machine
end

