-- ==== Sys2Proof/Machine/Kernel.lean ====
section
/-! DEFINITION. LAUNCH and the end of a kernel (R209, R212 to R216, R219). -/

namespace Sys2Proof.Machine

/-- A field of a launch block: `n` bytes at offset `o` (Table KRN.2). -/
def blk (b : List Byte) (o n : Nat) : Nat := ofBytesLE ((b.drop o).take n)

/-- A budget of vector registers: 8 to 128 in multiples of 8 (R46). -/
def budgetOk (n : Nat) : Bool := 8 ≤ n && n ≤ 128 && n % 8 = 0

/-- ROLE `i`: entry, groups, budget. -/
def blkRole (b : List Byte) (i : Nat) : Nat × Nat × Nat := (blk b (0x80 + 16 * i) 8, blk b (0x88 + 16 * i) 1, blk b (0x89 + 16 * i) 1)

/-- The sixteen bytes of role `i` are zero. -/
def roleUnused (b : List Byte) (i : Nat) : Bool := blk b (0x80 + 16 * i) 16 = 0

/-- The used roles of a block. -/
def blkRoles (b : List Byte) : List (Nat × Nat × Nat) := ((List.range 4).filter fun i => !roleUnused b i).map (blkRole b)

/-- The roles are in range. -/
def rolesOk (b : List Byte) : Bool :=
  if blk b 0x0F 1 = 2 || blk b 0x0F 1 = 3 then
    let n := ((blkRoles b).map fun r => r.2.1).sum
    !(blkRoles b).isEmpty && 2 ≤ n && n ≤ 16 && n = blk b 0x0D 1 &&
      (List.range 4).all fun i => roleUnused b i ||
        (let r := blkRole b i
         r.1 % 256 = 0 && 1 ≤ r.2.1 && r.2.1 ≤ 6 && budgetOk r.2.2 && blk b (0x8A + 16 * i) 6 = 0)
  else (List.range 4).all (roleUnused b)

/-- Every field is in its range (Table KRN.2). -/
def blockOk (b : List Byte) : Bool :=
  blk b 0 8 % 256 = 0 && 1 ≤ blk b 8 4 && blk b 8 4 ≤ 65535 && 1 ≤ blk b 0x0C 1 && blk b 0x0C 1 ≤ 16 && 1 ≤ blk b 0x0D 1 &&
    blk b 0x0D 1 ≤ 32 && blk b 0x0F 1 ≤ 3 && (2 ≤ blk b 0x0F 1 || budgetOk (blk b 0x0E 1)) && blk b 0x10 8 % 8 ≤ 5 &&
    blk b 0x10 8 < 2 ^ 14 && blk b 0x20 4 % 1152 = 0 && (blk b 0x24 4 = 0 || (1024 ≤ blk b 0x24 4 && blk b 0x24 4 ≤ 2 ^ 24)) &&
    blk b 0x28 1 ≤ 1 && blk b 0x29 1 < 16 && blk b 0x2A 1 ≤ 8 && blk b 0x2B 5 = 0 && blk b 0x38 8 % 16 = 0 && rolesOk b &&
    blk b 0xC0 8 % 16 = 0 && blk b 0xC8 56 = 0

/-- The dies that DIES selects, ascending; none where the choice is out of range (R214). -/
def blkDies (s : State) (c : Nat) (b : List Byte) : Option (List Nat) :=
  let m := blk b 0x29 1
  let l := (List.range Config.dies).filter fun d => if m = 0 then ownsDie s c d else fld m d 1 = 1
  if l.isEmpty || l.any fun d => !ownsDie s c d then none else some l

/-- The entries of a block that R189 judges: the kernel's, and those of a troupe's roles. -/
def blkEntries (b : List Byte) : List Nat := blk b 0 8 :: if 2 ≤ blk b 0x0F 1 then (blkRoles b).map Prod.fst else []

/-- The kernel of a block (R213). -/
def kernelOf (c : Cmd) (ctx : Nat) (grid : W64) (b : List Byte) : Kernel :=
  { ctx := ctx, q := c.q, seq := c.seq, grid := grid, st := .queued, entry := blk b 0 8, cohorts := blk b 8 4, teams := blk b 0x0C 1,
    groups := blk b 0x0D 1, regs := blk b 0x0E 1, coop := blk b 0x0F 1 % 2 = 1, troupe := 2 ≤ blk b 0x0F 1,
    fpmode := BitVec.ofNat 64 (blk b 0x10 8), frbase := BitVec.ofNat 64 (blk b 0x18 8), frsize := blk b 0x20 4,
    stack := BitVec.ofNat 64 (blk b 0x30 8), stacksize := BitVec.ofNat 64 (blk b 0x38 8),
    args := (List.range (blk b 0x2A 1)).map fun i => BitVec.ofNat 64 (blk b (0x40 + 8 * i) 8),
    roles := blkRoles b, divbase := BitVec.ofNat 64 (blk b 0xC0 8), left := blk b 8 4 * blk b 0x0C 1 * blk b 0x0D 1
    gids := [] }

/-- Cores for the teams of the `n` cohorts of a cooperative kernel over an empty grant, cohort by cohort, each on one die
(Table WRK.1, R214, R219; log 29). -/
def coopCores (s : State) (c : Nat) (k : Kernel) (dies : List Nat) : Nat → List Seat → Option (List Nat)
  | 0, _ => some []
  | n + 1, taken =>
    match fitCohort s c dies (List.replicate k.teams (k.troupe, teamWants k)) taken with
    | none => none
    | some l => (coopCores s c k dies n (taken ++ l.flatMap Prod.snd)).map (l.map Prod.fst ++ ·)

/-- %grid of a LAUNCH (R213). -/
def gridOf (s : State) (c : Cmd) : W64 :=
  let ctx := ((s.queues.find? c.q).map KQueue.ctx).getD 0
  BitVec.ofNat 64 (((queuesOf s ctx).findIdx fun i => i = c.q) * 2 ^ 32 + c.seq % 2 ^ 32)

/-- HBPERIOD and HBMODE of a launch written to the cores of the chosen dies where the context owns a quadrant; of a saved context
also in its image, which holds these registers meanwhile (R192, R244, Table KRN.2). -/
def launchHb (s : State) (c period mode : Nat) (dies : List Nat) : State :=
  let set (x : Core) : Core :=
    { x with hb := x.hb.modify Hb.reset c fun h => { h with period := if period = 0 then h.period else period, mode := mode } }
  let cores := dies.flatMap fun d => coresOn s c d
  (cores.foldl (fun s k => s.modCore k set) s).modCtx c fun x =>
    { x with image := x.image.map fun i => { i with cores := cores.foldl (fun m k => m.adjust k set) i.cores } }

/-- A team of a kernel with its request, queued on a core or on its die's best core (R216, R217, R219). -/
def addTeam (s : State) (ctx kid cid no die : Nat) (k : Kernel) (core : Option Nat) : State :=
  let t := s.nextId
  let r := t + 1
  let s1 : State := { s with
    teams := s.teams.put t { ctx := ctx, kernel := kid, cohort := cid, no := no, core := 0, die := die, total := k.groups, retired := 0,
                             bars := [], regroups := [] }
    reqs := s.reqs.put r { ctx := ctx, core := 0, die := die, kind := .team t, gids := [], placed := false, queued := false,
                           headAt := none, since := s.cycles, coop := k.coop }
    nextId := r + 1 }
  match core with
  | some x => enqueue s1 r x
  | none => sendTo s1 r ctx die

/-- Cohort `no` of a kernel with its teams. -/
def addCohort (s : State) (ctx kid no : Nat) (k : Kernel) (dies : List Nat) (cores : Option (List Nat)) : State :=
  let cid := s.nextId
  let die := dies.getD (no % dies.length) 0
  let s1 : State := { s with
    cohorts := s.cohorts.put cid { kernel := kid, no := no, total := k.teams, retired := 0, bars := [] }, nextId := cid + 1 }
  (List.range k.teams).foldl (fun s t =>
    let core := cores.map fun l => l.getD (no * k.teams + t) 0
    addTeam s ctx kid cid t ((core.map dieOf).getD die) k core) s1

/-- A kernel that passed its checks: queued, with its cohorts, teams and requests (R214 to R217). -/
def addKernel (s : State) (ctx : Nat) (k : Kernel) (dies : List Nat) (cores : Option (List Nat)) : State :=
  let kid := s.nextId
  (List.range k.cohorts).foldl (fun s no => addCohort s ctx kid no k dies cores) { s with kernels := s.kernels.put kid k, nextId := kid + 1 }

/-- LAUNCH (R209, R212 to R214). -/
def execLaunch (c : Cmd) (s : State) : Out :=
  runCmd 12 c s fun s =>
    let n := arg c 0
    if ctxBad n || arg c 1 % 256 ≠ 0 then .done sBADCMD 0 s
    else match s.ctx? n, ctxRead s n (arg c 1) 256 with
      | none, _ => .done sBADSTATE 0 s
      | some _, none => .done sBADCMD 0 s
      | some x, some b =>
        match blockOk b, blkDies s n b with
        | true, some dies =>
          if x.st ≠ .resident && x.st ≠ .saved then .done sBADSTATE 0 s
          else if x.attested && !(blkEntries b).all (entryOk x) then .done sUNATTESTED 0 s
          else
            let k := kernelOf c n (gridOf s c) b
            let s1 := launchHb s n (blk b 0x24 4) (blk b 0x28 1) dies
            if !k.coop then .later (addKernel s1 n k dies none)
            else match coopCores s n k dies k.cohorts [] with
              | none => .done sBADCMD 0 s
              | some l => .later (addKernel s1 n k dies (some l))
        | _, _ => .done sBADCMD 0 s

/-- An engine operation, store or atomic that is not performed yet (R215). -/
def notPerformed (o : Op) : Bool :=
  match o.kind with
  | .mem m => m.k ≠ .load && m.lanes.any fun l => !o.ended l
  | .eng _ => true
  | _ => false

/-- The effects of a finishing grid are all performed: those that its groups issued (R215; log 30). -/
def kernelEnds (s : State) (k : Kernel) : Bool :=
  k.st = .finishing && s.ops.all fun o => !k.gids.contains o.2.gid || !notPerformed o.2

/-- KERNEL_DONE (R215): the completion with RESULT %grid. -/
def execKernelDone (kid : Nat) (s : State) : Out :=
  .next (match s.kernels.find? kid with
    | none => s
    | some k =>
      if kernelEnds s k then
        complete k.q k.seq sOK k.grid.toNat { s with kernels := s.kernels.put kid { k with st := .done } }
      else s)

end Sys2Proof.Machine
end

