-- ==== Sys2Proof/Machine/Host.lean ====
section
/-! DEFINITION. The host port: the BAR0 registers, host access to memory, the event queue, the mailbox rings, firmware
images, reset, power and heat (R194 to R196, R359 to R367, R378). -/

namespace Sys2Proof.Machine

/-- The device has power. -/
def powered (s : State) : Bool := s.power.st ≠ .off

/-- The register window is served in full: not while the firmware check has failed (R362). -/
def served (s : State) : Bool := powered s && s.boot ≠ .failed

/-- The value that a host read of a BAR0 register gives (Table HST.1, Table HST.3, Table HST.4, Table HST.6). -/
def bar0 (s : State) (off : Nat) : Nat :=
  let h := s.host
  if off = 0 then
    (match s.boot with | .checking => 1 | .ready => 2 | .failed => 0xFE) +
      (match s.power.st with | .capped => 1 | .retention => 2 | _ => 0) * 2 ^ 8
  else if 0xE0 ≤ off then
    match off with
    | 0xE0 => h.imgAddr
    | 0xE8 => h.imgLen
    | 0xF0 => (match h.imgSt with | .idle => 0 | .reading => 1 | .verifying => 2 | .staged => 3 | .rejected => 4)
    | _ => 0
  else if s.boot = .failed then 0
  else match off with
    | 0x10 => h.eqBase
    | 0x18 => h.eqSize
    | 0x20 => h.eqHead
    | 0x28 => h.eqTail
    | 0x30 => h.eqLost
    | 0x40 => h.h2pBase
    | 0x48 => h.p2hBase
    | 0x50 => h.h2pTail
    | 0x54 => h.h2pHead
    | 0x58 => h.p2hTail
    | 0x5C => h.p2hHead
    | 0xA0 => h.inval.get 0 0
    | 0xA8 => h.inval.get 0 1
    | 0xB0 => h.inval.get 0 2
    | 0xB8 => if h.invRun.isNone then 1 else 0
    | 0xC0 => s.power.req + (if s.power.refused then 4 else 0) + s.power.cap * 2 ^ 16
    | _ => 0

/-- EQLOST_CLEAR (R364). -/
def execEqlostClear (_v : Nat) (s : State) : Out :=
  .next (if served s then { s with host := { s.host with eqLost := 0 } } else s)

/-- H2PTAIL (R361): more than 16 ahead of H2PHEAD is ignored and recorded as BADDB. -/
def execH2ptail (v : Nat) (s : State) : Out :=
  .next (if !served s then s
    else if 16 < (v % 2 ^ 32 + 2 ^ 32 - s.host.h2pHead) % 2 ^ 32 then postEvent s 8 0 [(2, 0xFFFF)]
    else { s with host := { s.host with h2pTail := v % 2 ^ 32 } })

/-- A power history entry of every context that exists (R196, Table CTX.6); sixteen are kept (log 31). -/
def powerHistory (s : State) (code : Nat) : State :=
  let t := stampClk s * 2 ^ 12 + stampDie s 0 * 2 ^ 4
  { s with ctxs := s.ctxs.mapV fun _ x => { x with hist := (x.hist ++ [(t, code)]).drop (x.hist.length - 15) } }

/-- The clocks at new rates; a network clock whose rate changes begins its cycle anew. -/
def Clocks.at_ (c : Clocks) (ar net : Nat) : Clocks := { c with ar := ar, net := net, edge := if c.net = net then c.edge else c.ticks }

/-- The device moves to a power state: an entry on entering capped, and on leaving retention (Table CTX.4). The clocks are
lowered under a cap only (R14; log 17). -/
def powerTo (p : PSt) (s : State) : State :=
  let s1 := if s.power.st = .retention && p ≠ .retention then powerHistory s 2 else s
  let s2 := if p = .capped && s.power.st ≠ .capped then powerHistory s1 1 else s1
  { s2 with
    power := { s2.power with st := p }
    clocks := if p = .capped then s2.clocks else s2.clocks.at_ Clocks.reset.ar Clocks.reset.net }

/-- A write of POWER records its request and cap (R367). -/
def powerWritten (v : Nat) (refused : Bool) (s : State) : State :=
  { s with power := { s.power with
      req := v % 4, cap := fld v 16 16, refused := refused
      lastReq := if refused then s.power.lastReq else v % 4
      lastCap := if refused || v % 4 ≠ 1 then s.power.lastCap else fld v 16 16 } }

/-- POWER_RUN (R367): under a thermal limit the device is capped until it is lifted. -/
def execPowerRun (v : Nat) (s : State) : Out :=
  .next (if !served s || v % 4 ≠ 0 then s
    else powerTo (if s.power.limit then .capped else .run) (powerWritten v false s))

/-- POWER_CAPPED (R367): a cap outside 600 to 3,400 W is refused. -/
def execPowerCapped (v : Nat) (s : State) : Out :=
  .next (if !served s || v % 4 ≠ 1 then s
    else if fld v 16 16 < 600 || 3400 < fld v 16 16 then powerWritten v true s
    else powerTo .capped (powerWritten v false s))

/-- POWER_RETENTION (R367): refused while a context is resident or quiescing. -/
def execPowerRetention (v : Nat) (s : State) : Out :=
  .next (if !served s || v % 4 ≠ 2 then s
    else if s.ctxs.any fun x => x.2.st = .resident || x.2.st = .quiescing then powerWritten v true s
    else powerTo .retention (powerWritten v false s))

/-- IMGLEN is in range (Table HST.4). -/
def imgLenOk (n : Nat) : Bool := n % 128 = 0 && 4096 ≤ n && n ≤ 2 ^ 26

/-- IMG_GO (R363): ignored while an image is read or verified; a length out of range is rejected without a read. -/
def execImgGo (v : Nat) (s : State) : Out :=
  .next (if !powered s || v % 2 = 0 || s.host.imgSt = .reading || s.host.imgSt = .verifying then s
    else { s with host := { s.host with imgSt := if imgLenOk s.host.imgLen then .reading else .rejected } })

/-- The image has been read over the host port, and is verified (R363; log 32). -/
def imageRead (s : State) : State :=
  if s.host.imgSt = .reading then
    { s with host := { s.host with imgSt := .verifying, imgBuf := s.bytes (locKey 2 s.host.imgAddr) s.host.imgLen } }
  else s

/-- HOST_REGISTER_WRITE (R359, R378): registers that hold what is written; other offsets are ignored. -/
def execHostRegisterWrite (off v : Nat) (s : State) : Out :=
  let h := s.host
  let put (h : HostPort) : State := { s with host := h }
  .next (if !powered s then s
    else if off = 0xE0 then put { h with imgAddr := v }
    else if off = 0xE8 then put { h with imgLen := v }
    else if !served s then s
    else match off with
      | 0x10 => flushEvents h.eqHeld.length (put { h with eqBase := v })
      | 0x18 => flushEvents h.eqHeld.length (put { h with eqSize := v })
      | 0x5C => flushMbox h.p2hHeld.length (put { h with p2hHead := v % 2 ^ 32 })
      | 0x80 => put { h with ptroot := h.ptroot.set 0 0 (v % 2 ^ 16) }
      | 0xA0 => put { h with inval := h.inval.set 0 0 (v % 2 ^ 16) }
      | 0xA8 => put { h with inval := h.inval.set 0 1 (fld v 12 45 * 4096) }
      | 0xB0 => put { h with inval := h.inval.set 0 2 v }
      | 0xC0 => if v % 4 = 3 then { s with power := { s.power with req := 3, cap := fld v 16 16, refused := false } } else s
      | _ => s)

/-- HOST_MEMORY_ACCESS (R359): within one line of near memory, performed at its home; `pa` is a physical key, and a
key of LOC 2 is the host's own memory (log 33). A write to a page of a registered code region is ignored (R189; log 59). -/
def execHostMemoryAccess (wr : Bool) (pa n v : Nat) (s : State) : Out :=
  .next (if !served s || n = 0 || lineOf pa ≠ lineOf (pa + n - 1) || !(pa / 2 ^ 57 = 0 || pa / 2 ^ 57 = 2) || !wr || codeFrame s pa then s
    else homeWrite s none pa (bytesLE n v))

/-- Contexts whose counters are live (R195). -/
def liveCounters (x : Ctx) : Bool := x.st ≠ .scrubbing && !x.regions.isEmpty

/-- RESET of the device (R195, R362): what non-volatile storage holds stays, as does memory; the security controller
signs the final reports of contexts whose counters were live (log 34). -/
def resetDevice (s : State) : State :=
  let reps := (s.ctxs.filter fun (x : Nat × Ctx) => liveCounters x.2).map fun x =>
    (x.1, reportBytes s 0 x.1 { x.2 with reportSeq := x.2.reportSeq + 1 } [] true true true)
  { State.reset with
    mem := s.mem, clkBase := stampClk s, agenda := s.agenda, fresh := s.fresh, nextId := s.nextId, pipeHold := s.pipeHold
    booting := s.staged.or s.booting, image := s.image, reports := s.reports ++ reps
    power := { Power.reset with tripped := s.power.tripped } }

/-- RESET (R362): also power applied to a device that is off. -/
def execReset (s : State) : Out := .next (resetDevice s)

/-- IMAGE_VERIFIED (R363): staged or rejected; in boot state 0xFE a staged image resets the device at once. -/
def execImageVerified (ok : Bool) (s : State) : Out :=
  .next (if !powered s || s.host.imgSt ≠ .verifying || ok ≠ imageOk s.host.imgBuf then s
    else if ok then
      let s1 : State := { s with staged := some s.host.imgBuf, host := { s.host with imgSt := .staged, imgBuf := [] } }
      if s.boot = .failed then resetDevice s1 else s1
    else { s with host := { s.host with imgSt := .rejected, imgBuf := [] } })

/-- The image that stood staged at the reset passes its check (R363). -/
def stagedOk (s : State) : Bool := match s.booting with | some i => imageOk i | none => false

/-- The boot check passes: of the image that stood staged at the reset, or of the running one (R362, R363). -/
def bootOk (s : State) : Bool := stagedOk s || imageOk s.image

/-- FIRMWARE_CHECK_END (R362, R363): an image that stood staged at the reset and passes replaces the running one; one that does not
stays in the staging area, unless another has been staged since. The record of a thermal trip is posted at this boot (R367). -/
def execFirmwareCheckEnd (ok : Bool) (s : State) : Out :=
  .next (if !powered s || s.boot ≠ .checking || ok ≠ bootOk s then s
    else if !ok then { s with boot := .failed, staged := s.staged.or s.booting, booting := none }
    else
      let s1 : State := match stagedOk s, s.booting with
        | true, some i => { s with image := i, booting := none, boot := .ready }
        | _, _ => { s with staged := s.staged.or s.booting, booting := none, boot := .ready }
      match s.power.tripped with
      | some (d, t) => postEvent { s1 with power := { s1.power with tripped := none } } 9 0 [(1, d), (1, 2), (2, t)]
      | none => s1)

/-- Power is lost (R195, Table HST.2): contexts are destroyed, counters resume at their marks, device memory and every
volatile state are gone (log 34). -/
def powerOff (s : State) : State :=
  { State.reset with
    mem := s.mem.filter fun (p : Nat × Byte) => 2 * 2 ^ 57 ≤ p.1
    clkBase := stampClk s, agenda := s.agenda, fresh := s.fresh, nextId := s.nextId, pipeHold := s.pipeHold
    staged := s.staged.or s.booting, image := s.image, reports := s.reports
    ctxs := SMap.mapV (s.ctxs.filter fun (x : Nat × Ctx) => liveCounters x.2) fun _ x =>
      { x with st := .destroyed, regions := x.regions.map fun r => { r with bytes := { r.bytes with c := r.bytes.m }, macs := { r.macs with c := r.macs.m } } }
    power := { Power.reset with st := .off, tripped := s.power.tripped } }

/-- POWER_LOSS (R195). -/
def execPowerLoss (s : State) : Out := .next (powerOff s)

/-- THERMAL_LIMIT (R367): in retention nothing changes but the limit. -/
def execThermalLimit (die temp : Nat) (s : State) : Out :=
  .next (if !powered s || Config.dies ≤ die || temp < 105 || s.power.limit then s
    else
      let s1 : State := { s with power := { s.power with limit := true } }
      postEvent (if s.power.st = .retention then s1 else powerTo .capped s1) 9 0 [(1, die), (1, 0), (2, temp)])

/-- THERMAL_LIFT (R367): the state of the last accepted request; the record's die and temperature are free values. -/
def execThermalLift (s : State) : Out :=
  .next (if !powered s || !s.power.limit then s
    else
      let s1 : State := { s with power := { s.power with limit := false }, fresh := s.fresh + 2 }
      let s2 := if s.power.st = .retention then s1 else powerTo (if s.power.lastReq = 1 then .capped else .run) s1
      postEvent s2 9 0 [(1, (Config.freeValue s.fresh).toNat % 4), (1, 1), (2, (Config.freeValue (s.fresh + 1)).toNat % 100)])

/-- THERMAL_TRIP (R367): power is removed; the record is posted at the next boot. -/
def execThermalTrip (die temp : Nat) (s : State) : Out :=
  .next (if !powered s || Config.dies ≤ die || temp < 115 then s
    else powerOff { s with power := { s.power with tripped := some (die, temp) } })

/-- EQ_HEAD_WRITE (R364): held records are written while the ring has room. -/
def execEqHeadWrite (v : Nat) (s : State) : Out :=
  .next (if !served s then s else flushEvents s.host.eqHeld.length { s with host := { s.host with eqHead := v } })

/-- MBOX_BASE_WRITE (R361): 0 H2PBASE, 1 P2HBASE; the indices of the ring return to 0. -/
def execMboxBaseWrite (which v : Nat) (s : State) : Out :=
  .next (if !served s then s
    else if which = 0 then { s with host := { s.host with h2pBase := v, h2pTail := 0, h2pHead := 0 } }
    else flushMbox s.host.p2hHeld.length { s with host := { s.host with p2hBase := v, p2hTail := 0, p2hHead := 0 } })

end Sys2Proof.Machine
end

