-- ==== Sys2Proof/Machine/Link.lean ====
section
/-! DEFINITION. Links: the commands that set them up, loss and failure, the arrival of active messages, turns of wire
groups (chapter 22; R211). -/

namespace Sys2Proof.Machine

/-- `n` bytes of a table that a command names: physical near memory (log 20). -/
def tableAt (s : State) (a n : Nat) : List Nat := (s.bytes (locKey 0 a) n).map BitVec.toNat

/-- SETDOMAIN (R211): the byte of the device's own number is ignored. -/
def execSetdomain (c : Cmd) (s : State) : Out :=
  runCmd 21 c s fun s =>
    let t := tableAt s (arg c 1) 64
    if 63 < arg c 0 || t.zipIdx.any fun x => 11 < x.1 && x.1 ≠ 255 && x.2 ≠ arg c 0 then .done sBADCMD 0 s
    else .done sOK 0 { s with domain := arg c 0, routing := t }

/-- SETLINKNET (R211). -/
def execSetlinknet (c : Cmd) (s : State) : Out :=
  runCmd 22 c s fun s =>
    let t := tableAt s (arg c 1) 16
    if 11 < arg c 0 || (t.take 15).any (14 < ·) || t.getD 15 0 ≠ 15 then .done sBADCMD 0 s
    else .done sOK 0 { s with linkNet := s.linkNet.put (arg c 0) t }

/-- The states of a context that exists and is not being scrubbed. -/
def knownStates : List CSt := [.created, .loading, .resident, .quiescing, .saved, .migrating]

/-- BIND (R211): a peer context reaches one context here, the one bound last (log 35). -/
def execBind (c : Cmd) (s : State) : Out :=
  runCmd 23 c s fun s => onCtx (arg c 0) knownStates s fun _ =>
    if 63 < arg c 1 || 65535 < arg c 2 then .done sBADCMD 0 s
    else
      let k := 64 * arg c 0 + arg c 1
      let rest := s.binds.filter fun (b : Nat × Nat) => b.1 ≠ k && !(b.1 % 64 = arg c 1 && b.2 = arg c 2)
      .done sOK 0 { s with binds := if arg c 2 = 0 then s.binds.del k else SMap.put rest k (arg c 2) }

/-- ALLOT (R211, R336): allotments of different contexts are disjoint. -/
def execAllot (c : Cmd) (s : State) : Out :=
  runCmd 24 c s fun s => onCtx (arg c 0) knownStates s fun _ =>
    let m := arg c 2 + 2 ^ 64 * arg c 3
    if 3 < arg c 1 then .done sBADCMD 0 s
    else if (s.bound (arg c 1)).allots.any fun x => x.1 ≠ arg c 0 && x.2 &&& m ≠ 0 then .done sBADCMD 0 s
    else .done sOK 0 (s.modBound (arg c 1) fun b => { b with allots := b.allots.set 0 (arg c 0) m })

/-- A LINK record (Table HST.5); every error is recorded when it is found, so each record counts one. -/
def linkRecord (s : State) (die stop port kind sender : Nat) : State :=
  postEvent s 3 0 [(1, die), (1, stop), (1, port), (1, kind), (2, sender), (2, 0), (4, 1)]

/-- A sending stop in a LINK record (Table HST.5). -/
def senderBits (a : Nat × Nat × Nat) : Nat := a.1 % 64 * 2 ^ 8 + a.2.1 * 2 ^ 6 + a.2.2

/-- The stop that sent the packet of an operation that is on its way: the home that a reply comes from, else the core's (Table HST.5). -/
def senderOf (s : State) (o : Nat) (op : Op) : Nat :=
  match shown s o, replies s op with
  | some p, _ => senderBits (p.sdev, p.sdie, p.sstop)
  | none, x :: _ => if replyOnWay op then senderBits x.end_ else senderBits (coreEnd s.domain op.core)
  | none, [] => senderBits (coreEnd s.domain op.core)

/-- What MSGLOST says of an operation: CLS, instruction kind, address (Table HST.5). -/
def lostKind (s : State) (op : Op) : Nat × Nat × Nat :=
  match op.kind with
  | .mem m =>
    let a := ((m.lanes.find? fun l => lineOf l.pa = op.lostAt).map LaneAcc.va).getD ((m.lanes.head?.map LaneAcc.va).getD 0)
    (0, match m.k with | .load => if m.cls = 4 then 4 else 1 | .atom _ => 2 | .store => 3, a)
  | .eng e => (if e.fn = 5 then 2 else 0, 0, if e.fn = 5 then 0 else pageOf (itemVa s op e op.lostAt))
  | .submit a _ _ _ _ _ => (0, 5, a)
  | .amsg _ => (3, 6, 0)
  | _ => (0, 4, 0)

/-- An engine operation loses an item, or a delivery that had not begun (R328, Table MEM.8): its status is LOST, a tile keeps no stated
value in the sector, and a landing tile is released with the last sector of its delivery; the arrival counter is still written where
it is not what was lost. -/
def engLose (s : State) (o : Nat) (op : Op) (e : EngOp) : State :=
  let i := op.lostAt
  let n := e.secs * e.rows
  let s1 :=
    if e.fn = 5 then
      (match e.targets[(i - 64) / n]? with
        | some x =>
          if i < 64 || e.todo.any fun j => 64 ≤ j && j ≠ i && (j - 64) / n = (i - 64) / n then s
          else s.modTile x.core x.tile fun y => { y with held := y.held - 1 }
        | none => s)
    else if e.inbound && !(e.cnt ≠ 0 && i = e.items) then
      let pad := 4096 * (s.tile op.core e.tile).base + e.off + 32 * i
      { padWr s op.core pad ((List.range 4).flatMap fun k => bytesLE 8 (Config.freeValue (s.fresh + k)).toNat) with fresh := s.fresh + 4 }
    else s
  s1.modEng o fun e => { e with todo := e.todo.filter (· ≠ i), status := max e.status 3 }

/-- A memory instruction loses its lanes of a line (R328): they receive 0; the others go on, and once none is left it ends. -/
def memLose (s : State) (o : Nat) (op : Op) (m : MemOp) : State :=
  let m1 : MemOp := { m with lanes := m.lanes.map fun (l : LaneAcc) => if lineOf l.pa = op.lostAt then { l with done := true, res := 0 } else l }
  let s1 := setErr s op.gid m.cls
  if m1.lanes.any fun l => !l.done then s1.modOp o fun p => { p with lost := 0, kind := .mem m1 }
  else if m.k = .store || m.dst = .none then s1.delOp o
  else landReply (s1.modOp o fun p => { p with lost := 0, kind := .mem m1 }) o op (replyWrites m1)

/-- THE FATE OF A LOST MESSAGE (R328): the instruction completes, and the context log records the loss. -/
def completeLost (s : State) (o : Nat) (op : Op) : State :=
  let k := lostKind s op
  let s1 := ctxLog s op.ctx 16 [(2, Config.tag o % 2 ^ 16), (1, k.1), (1, k.2.1), (8, k.2.2)]
  match op.kind with
  | .mem m => memLose s1 o op m
  | .eng e => (engLose s1 o op e).modOp o fun p => { p with lost := 0 }
  | .submit _ _ _ _ reg _ => landReply (setErr s1 op.gid 3) o op (if reg = 0 then [] else [.s reg 0])
  | .bfetch reg _ _ => landReply (setErr s1 op.gid 4) o op [.s reg 0]
  | .amsg _ => s1.delOp o
  | _ => s1

/-- What a dropped packet of an operation was for: the line or item of the one that is shown, else of any that may be on its way: a
free value says which (R328; log 16). -/
def lostPart (s : State) (o : Nat) (op : Op) : Nat :=
  let l := match requests s op with | [] => replies s op | l => l
  match shown s o with
  | some p => p.line
  | none => ((l[(Config.freeValue s.fresh).toNat % l.length]?).map Send.line).getD 0

/-- A packet of an operation is dropped (R327): of a request with a LOST notice to its source, unless that cannot be sent; the notice
of a dropped reply goes to the home that sent it, so that the source learns of it by its timeout only (DEDUCED, log 16). A bld,
whose lines are read at its issue, may have lost its request. -/
def dropPacket (s : State) (o : Nat) (op : Op) (noticed : Bool) : State :=
  let req : Bool := match op.kind with | .mem m => m.cls = 4 | _ => false
  { s.modOp o fun p => { p with lost := if noticed && (!replyOnWay op || req) then 1 else 2, lostAt := lostPart s o op } with
    fresh := s.fresh + 1
    torus := s.torus.filter fun (p : Nat × Packet) => p.2.job ≠ .op || p.2.op ≠ o }

/-- PACKET_CHECK_FAILURE (R326, R327): a single-bit error (kind 0) is corrected; a packet whose check is uncorrectable or
whose identity differs is dropped, with a LOST notice unless the routing check is uncorrectable too (kind 2); the
error is kept in the die's link log. It is found at an input that the packet comes through; of a packet that is shown, an identity
differs only where it is not that of its buffer's owner (log 16). -/
def execPacketCheckFailure (o kind die stop port : Nat) (s : State) : Out :=
  .next (match s.ops.find? o with
    | none => s
    | some op =>
      if 3 < kind || Config.dies ≤ die || !(onWay op || replyOnWay op) || !foundAt s o op die stop port ||
          (kind = 3 && (shown s o).any fun p => !identityBad s p) then s
      else
        let from_ := senderOf s o op
        let s1 := linkRecord s die stop port kind from_
        if kind = 0 then s1
        else dropPacket (s1.modDie die fun d => { d with linkLog := d.linkLog ++ [(64 * stop + port, kind, from_)] }) o op (kind ≠ 2))

/-- LOST_NOTICE (R327, R328). -/
def execLostNotice (o : Nat) (s : State) : Out :=
  .next (match s.ops.find? o with
    | some op => if op.lost = 1 then completeLost s o op else s
    | none => s)

/-- 2^22 network cycles have passed since an operation was issued (R327). -/
def timedOut (s : State) (op : Op) : Bool := 2 ^ 22 ≤ s.clocks.nets - op.born

/-- TRANSACTION_TIMEOUT (R327): a packet dropped without a notice; a reply may come later. -/
def execTransactionTimeout (o : Nat) (s : State) : Out :=
  .next (match s.ops.find? o with
    | some op => if op.lost = 2 && timedOut s op then
        let s1 := completeLost (lostRecord s o op.ctx op.core 0) o op
        { s1 with late := s1.late.put o (op.ctx, op.core) }
      else s
    | none => s)

/-- The operation has packets routed to a link, or from it (R338). -/
def usesLink (s : State) (link : Nat) (op : Op) : Bool :=
  (requests s op ++ replies s op).any fun x => x.end_.1 ≠ s.domain && s.routing.getD x.end_.1 255 = link

/-- LINK_FAILURE (R339): reported; packets in flight on the link are dropped with LOST notices, those not yet sent wait:
a free value says which an operation's is, where no packet of it is shown on its way to the link. -/
def execLinkFailure (link : Nat) (s : State) : Out :=
  .next (if 11 < link || s.linkDown.contains link then s
    else
      let s1 := linkRecord { s with linkDown := s.linkDown ++ [link] } (link / 3) (linkStop link) (16 + link) 4 (senderBits (s.domain, link / 3, linkStop link))
      (s1.ops.filter fun (o : Nat × Op) => (onWay o.2 || replyOnWay o.2) && usesLink s1 link o.2 && !enRoute s1 o.1).foldl (fun s o =>
        let s2 : State := { s with fresh := s.fresh + 1 }
        if (Config.freeValue s.fresh).getLsbD 0 then dropPacket (lostRecord s2 o.1 o.2.ctx o.2.core 2) o.1 o.2 true else s2) s1)

/-- The context of this device that is bound to a context of a peer (R211). -/
def boundCtx (s : State) (dev c : Nat) : Option Nat :=
  (List.find? (fun (b : Nat × Nat) => b.1 % 64 = dev && b.2 = c) s.binds).map fun b => b.1 / 64

/-- A message dropped: recorded in the log of its context here, which is the sender's and the receiver's at once, or the receiver's of
a peer's message (R331; log 36). -/
def dropMsg (s : State) (c reason : Nat) (m : AMsg) : State :=
  ctxLog s c 17 [(1, 1), (1, reason), (2, m.core), (2, m.idx), (1, 0), (1, m.srcDev), (2, m.srcCore)]

/-- A message at its destination core: its handler is queued, or it is dropped (R217, R221, R331). -/
def deliver (s : State) (c o : Nat) (m : AMsg) : State :=
  if Config.dies * Config.coresPerDie ≤ m.core || !ownsCore s c m.core then (dropMsg s c 4 m).delOp o
  else if ((taskOf s c m.idx).map Task.valid) ≠ some true then (dropMsg s c 5 m).delOp o
  else
    let id := s.nextId
    let r : Req := { ctx := c, core := m.core, die := dieOf m.core, kind := .message { m with op := o }, gids := [], placed := false, queued := false,
                     headAt := none, since := s.cycles, coop := false }
    enqueue ({ s with reqs := s.reqs.put id r, nextId := id + 1 }.modOp o fun p => { p with perf := true }) id m.core

/-- No packet of the operation is still on its way to where it leaves the torus. -/
def msgThere (s : State) (o : Nat) : Bool := s.packets.all fun p => p.job ≠ .op || p.op ≠ o || (p.arrived s && p.whole s)

/-- A message that leaves for a peer device: dropped there or not, a free value says, and then recorded here too (R331; log 36). -/
def leaveDevice (s : State) (m : AMsg) : State :=
  let v := Config.freeValue s.fresh
  let s1 : State := { s.delOp m.op with fresh := s.fresh + 1 }
  if v.getLsbD 0 then dropMsg s1 m.ctx (4 + v.toNat / 2 % 3) m else s1

/-- ACTIVE_MESSAGE_ARRIVAL (R331): at its core here, or where it leaves for a peer device. -/
def execActiveMessageArrival (m : AMsg) (s : State) : Out :=
  .next (match s.ops.find? m.op with
    | none => s
    | some op =>
      if op.kind ≠ .amsg m || op.perf || op.lost ≠ 0 || !msgThere s m.op || (before s m.op op).any (fun y => y.2.undone) then s
      else if m.dev = s.domain then deliver s op.ctx m.op m
      else if s.linkDown.contains (s.routing.getD m.dev 255) then s
      else leaveDevice s m)

/-- The tenant of a packet that comes by a link in one of the link's networks: the context that holds the local network which the
link's map names, on the link's die (R326, R338). -/
def tenantOf (s : State) (link net : Nat) : Option Nat :=
  if 11 < link || 14 < net then none else netOwner s (link / 3) ((s.linkNet.get [] link).getD net 15)

/-- THE IDENTITY RULE AT A LINK'S INPUT (R326, R338): a packet from context `c` of device `dev` whose context here is not its tenant is
dropped, and recorded in the die's link log and to the host; else `k` with its tenant. A context that nothing binds is of no
other tenant, and what it asks for judges that (R331, R333). -/
def fromLink (link net dev c : Nat) (s : State) (k : Nat → State) : State :=
  if dev = s.domain || s.linkDown.contains link then s
  else match tenantOf s link net with
    | some x => if (boundCtx s dev c).all (· = x) then k x else drop
    | none => if 11 < link then s else drop
where
  /-- The packet is dropped for its identity. -/
  drop : State :=
    let from_ := senderBits (dev, 0, 0)
    (linkRecord s (link / 3) (linkStop link) (16 + link) 3 from_).modDie (link / 3) fun d =>
      { d with linkLog := d.linkLog ++ [(64 * linkStop link + (16 + link), 3, from_)] }

/-- An active message of a context of a peer device comes by a link: its packet stands at the link's input and goes on to its core
(R331, R338). -/
def peerAmsg (link net : Nat) (m : AMsg) (s : State) : State :=
  if m.dev ≠ s.domain || 192 < m.payload.length || Config.dies * Config.coresPerDie ≤ m.core then s
  else fromLink link net m.srcDev m.ctx s fun x =>
    if (boundCtx s m.srcDev m.ctx).isNone then dropMsg s x 6 m
    else
      let o := s.nextId
      let a : Nat × Nat × Nat := (m.srcDev, dieOf m.srcCore, m.srcCore % Config.coresPerDie)
      let p : Packet :=
        { job := .op, op := o, line := 0, hopped := s.clocks.nets, ddev := s.domain, ddie := dieOf m.core, dstop := m.core % Config.coresPerDie
          sdev := a.1, sdie := a.2.1, sstop := a.2.2, tag := Config.tag o % 2 ^ 16, cls := 3, len := flits m.payload.length
          code := Config.packetOp o % 2 ^ 8, ctx := x, net := (s.linkNet.get [] link).getD net 15, pos := .gate (link / 3) (linkStop link) 4 }
      match linkSlot s.packets p link with
      | some pos =>
        { s.addOp { gid := 0, slot := 0, ctx := x, core := m.core, perf := false, lost := 0, born := s.clocks.nets, kind := .amsg { m with op := o } } with
          torus := s.torus.put (o + 1) { p with pos := pos }, nextId := o + 2 }
      | none => s

/-- A load, store or atomic of a context of a peer device, or a sector or element of an engine operation of it, at its home here (R278,
R338): `fn` of 16 and more are the combinations of acoll. A bundle store names its handle, whose directory is on the peer. -/
def peerAccess (link net dev c : Nat) (k : MemK) (pa n x y : Nat) (b : Option Handle) (s : State) : State :=
  if 1 < pa / 2 ^ 57 || 32 < n || n = 0 || pa / n * n ≠ pa then s
  else fromLink link net dev c s fun t =>
    match k, b with
    | .load, _ => readSeen t pa n s
    | .store, some h => if h.die < 4 * (dev + 1) || 4 * (dev + 2) ≤ h.die then s
      else ((prepLine s h (lineOf pa)).map fun s1 => bundleStore s1 h pa (bytesLE n x)).getD s
    | .store, none => homeWrite s none pa (bytesLE n x)
    | .atom fn, _ => homeWrite (readSeen t pa n s) none pa (bytesLE n (if fn < 16 then atomOp fn n (s.rd pa n) x y else collOp (fn - 16) (s.rd pa n) x))

/-- An entry of a peer device's bundle directory as the homes here know it by its messages (R291, R294, R338): it is listed under
die 4·(dev + 1) + die, and its lines are those here. -/
def peerDir (dev die idx : Nat) (d : Dir) (s : State) : State :=
  let k := 4 * (dev + 1) + die
  if dev = s.domain || 63 < dev || 3 < die || 1023 < idx then s
  else
    let s1 := if d.st = .drained then abandon s { die := k, idx := idx, gen := d.gen, dom := dev } else s
    s1.modDie k fun x => { x with dirs := SMap.put x.dirs idx { d with ctx := 0, gid := 0, op := 0, dom := dev } }

/-- A multicast delivery of a context of a peer device arrives, whole (R333; log 23): its bytes land in the tile, or it is dropped and
the tile's owner's log records it. -/
def peerMcast (link net dev c src core tile gen off : Nat) (data : List Byte) (s : State) : State :=
  if Config.dies * Config.coresPerDie ≤ core || data.length % 32 ≠ 0 || off % 32 ≠ 0 || 255 < tile then s
  else fromLink link net dev c s fun _ =>
    let own := bankOwner s core (2 * tile)
    let bad := match boundCtx s dev c with
      | some x => landingBad s x (off + data.length) { gen := gen, tile := tile, dev := s.domain, core := core }
      | none => some 6
    match bad with
    | none => padWr s core (4096 * (s.tile core tile).base + off) data
    | some r =>
      if own = 0 then s
      else ctxLog s own 17 [(1, 0), (1, r), (2, core), (2, gen), (1, tile), (1, dev), (2, src)]

/-- A submission of a context of a peer device to a queue of the context bound to it here, in one step (R205, R210, R211): the record is
read through that context's translation (log 24). -/
def peerSubmit (link net dev c anchor rec_ : Nat) (s : State) : State :=
  fromLink link net dev c s fun x =>
    if (boundCtx s dev c).isNone then s
    else match queueAt s x (anchor % 2 ^ 57), (walkNow s x (anchor % 2 ^ 57) Need.rw).2, (walkNow s x (rec_ % 2 ^ 57) Need.write).2 with
    | some i, some ka, some kr =>
      (match (walkNow s x ((s.rd ka 8 + 8) % 2 ^ 57) Need.write).2 with
        | some kt => ring i (submitStep s none rec_ ka kr kt).1
        | none => s)
    | _, _, _ => s

/-- Ticks of 2 µs (R14, R336). -/
def turnRest : Nat := 13200

/-- Ticks of 48 ns, 316.8, rounded up to whole ones: the spec does not say how the dead time falls on the clock (R14, R335; DESIGN
CHOICE, log 17). -/
def turnDead : Nat := 317

/-- The wire groups that the head entry takes, of the allotment its context had when it was queued (R211, R336 step 1). -/
def chooseTurn (b : Bound) (t : Turn) : List Nat :=
  let opp := (List.range 96).filter fun g => (fld b.west g 1 = 1) ≠ t.west && (b.turning.find? g).isNone
  (opp.filter fun g => fld t.allot g 1 = 1).take (min t.n (opp.length - 8))

/-- A chosen group may begin to turn (R336 step 2). -/
def mayTurn (b : Bound) (now g : Nat) : Bool :=
  (b.turning.find? g).isNone && (match b.lastEnd.find? g with | some e => e + turnRest ≤ now | none => true)

/-- An entry with no group left to turn completes (R336 step 3). -/
def turnDone (b : Bound) : Bound :=
  match b.queue with
  | t :: rest => if t.chosen = some [] then { b with queue := rest, doneSeq := t.seq } else b
  | [] => b

/-- TURN_START (R336): the head entry chooses its groups, and those that may begin to turn. -/
def execTurnStart (bi : Nat) (s : State) : Out :=
  .next (if 3 < bi then s
    else match (s.bound bi).queue with
      | [] => s
      | t :: rest =>
        s.modBound bi fun b =>
          let l := t.chosen.getD (chooseTurn b t)
          turnDone { b with
            queue := { t with chosen := some l } :: rest
            turning := (l.filter (mayTurn b s.clocks.ticks)).foldl (fun m g => SMap.put m g s.clocks.ticks) b.turning })

/-- TURN_END (R335): drained, and after 48 ns of dead time, the group takes its new direction. -/
def execTurnEnd (bi g : Nat) (s : State) : Out :=
  .next (if 3 < bi then s
    else match (s.bound bi).queue, (s.bound bi).turning.find? g with
      | t :: rest, some st =>
        if s.clocks.ticks < st + turnDead then s
        else s.modBound bi fun b =>
          turnDone { b with
            west := if t.west then b.west + 2 ^ g else b.west - 2 ^ g
            turning := b.turning.del g, lastEnd := b.lastEnd.put g s.clocks.ticks
            queue := { t with chosen := t.chosen.map fun l => l.filter (· ≠ g) } :: rest }
      | _, _ => s)

end Sys2Proof.Machine
end

