-- ==== Sys2Proof/Machine/Porter.lean ====
section
/-! DEFINITION. The start of trap handlers, and the Porter's mailbox operations (R344 to R346, R356 to R358). -/

namespace Sys2Proof.Machine

/-- The seat of the handler position of a partition of the device. -/
def handlerPlace (part : Nat) : Place := { core := part / 16, quad := part / 4 % 4, part := part % 4, pos := 16 }

/-- The handler position is taken. -/
def handlerBusy (s : State) (part : Nat) : Bool := s.groups.any fun g => g.2.resident && g.2.place = handlerPlace part

/-- The trap of a path. -/
def trapOf (p : Path) : Option TrapRec := match p.cond with | .trapped t => some t | _ => none

/-- The trap that the handler position of a partition serves next: in arrival order, passing over paths that are halted
(R344, R358) and contexts that are not resident. -/
def nextTrap (s : State) (part : Nat) : Option (Nat × Nat × Group × Path × TrapRec) :=
  if handlerBusy s part then none
  else (s.part part).trapq.findSome? fun x =>
    match s.group? x.1, s.path? x.1 x.2 with
    | some g, some p =>
      if p.halted || !g.resident || (s.ctx? g.ctx).map Ctx.st ≠ some .resident then none
      else (trapOf p).map fun t => (x.1, x.2, g, p, t)
    | _, _ => none

/-- %trapinfo at entry (Table TRP.3). -/
def trapInfo (s : State) (g : Group) (slot : Nat) (p : Path) (t : TrapRec) : W64 :=
  BitVec.ofNat 64 (t.rep * 2 ^ 58 + slot * 2 ^ 48 + pgroup s g * 2 ^ 40 + p.mask.toNat)

/-- A handler group for a trap: v0 to v31, zero registers, the identities of the interrupted group, the trap frame
(R342, R345). -/
def handlerGroup (s : State) (part slot : Nat) (g : Group) (p : Path) (t : TrapRec) (kind : GKind) (entry frbase : W64) : Group :=
  let h := Group.start s g.ctx { place := handlerPlace part, base := 0, budget := 32, frags := 0 } kind entry (BitVec.allOnes 32)
  { h with
    teamNo := g.teamNo, cohort := g.cohort, grid := g.grid, kernel := g.kernel, frbase := frbase, nrec := 16
    trapcause := BitVec.ofNat 64 t.cause.code, trapaddr := t.addr, trapinfo := trapInfo s g slot p t, trapdata := t.data }

/-- A handler group put in its position; entry is an .ar fence at scope .core: what the path that it serves has in flight stands
before its accesses (R276). -/
def startHandler (s : State) (part gid slot : Nat) (h : Group) : State :=
  let s1 := l1Drop s (part / 16) h.ctx
  let hid := s1.nextId
  fenceGroup { s1.modPart part fun x => { x with trapq := x.trapq.filter fun y => y ≠ (gid, slot) } with
    groups := s1.groups.put hid h, nextId := hid + 1
    ops := s1.ops.mapV fun _ o => if o.of gid slot then { o with also := o.also ++ [(hid, 0)] } else o } hid (part / 16) 1

/-- HANDLER_START (R344, R345): the Porter where it takes the cause, else task-type entry 255, else a double fault. -/
def execHandlerStart (part : Nat) (s : State) : Out :=
  .next (match nextTrap s part with
    | none => s
    | some (gid, slot, g, p, t) =>
      if (t.cause = .brk || t.cause = .step) && attached s g.ctx then
        let h := { handlerGroup s part slot g p t (.porter gid slot) 0 0 with
                   paths := [(0, { Path.start 0 (BitVec.allOnes 32) 0 0 false with cond := .waiting .porter })] }
        notice (startHandler s part gid slot h) g slot t.cause.code t.addr.toNat 0
      else match taskOf s g.ctx 255 with
        | some e =>
          if e.valid then startHandler s part gid slot (handlerGroup s part slot g p t (.trapH gid slot) e.entry e.frbase)
          else doubleFault (dropTrap s part gid slot) g slot t.cause t.addr
        | none => doubleFault (dropTrap s part gid slot) g slot t.cause t.addr)
where dropTrap (s : State) (part gid slot : Nat) : State :=
  s.modPart part fun x => { x with trapq := x.trapq.filter fun y => y ≠ (gid, slot) }

/-- The message at the head of the host-to-Porter ring (R355, R356, R361). -/
def msgAt (s : State) : Option Msg :=
  if s.host.h2pEmpty then none
  else
    let k := locKey 2 (s.host.h2pBase + 64 * (s.host.h2pHead % 16))
    let w := s.rd k 8
    some { op := fld w 48 16, ctx := fld w 32 16, seq := fld w 0 32, words := (List.range 7).map fun i => s.rd (k + 8 * (i + 1)) 8 }

/-- Mailbox statuses (R356). -/
def mOK : Nat := 0
def mDENIED : Nat := 1
def mBADARG : Nat := 2

/-- The Porter takes the message at the head of its ring and replies (R356): `m` is that message, with operation `op`, and
the ring to the host has room. All but ATTACH ask that the Porter is attached to the context. -/
def porterOp (op : Nat) (m : Msg) (s : State) (k : State → Nat × List Nat × State) : Out :=
  .next (if !served s || s.boot ≠ .ready || msgAt s ≠ some m || m.op ≠ op || s.host.p2hFull then s
    else
      let s1 : State := { s with host := { s.host with h2pHead := (s.host.h2pHead + 1) % 2 ^ 32 } }
      let r := if op ≠ 1 && !attached s m.ctx then (mDENIED, [], s1) else k s1
      mboxPut r.2.2 (((op + 2 ^ 15) * 2 ^ 48 + m.ctx * 2 ^ 32 + m.seq) :: r.1 :: r.2.1))

/-- Word `n` of a message. -/
def mw (m : Msg) (n : Nat) : Nat := m.words.getD (n - 1) 0

/-- ATTACH (R196, Table CTX.4): refused without DEBUGEN and in retention. -/
def execAttach (m : Msg) (s : State) : Out :=
  porterOp 1 m s fun s => match s.ctx? m.ctx with
    | none => (mBADARG, [], s)
    | some x =>
      if !x.debugen || s.power.st = .retention then (mDENIED, [], s)
      else (mOK, [], s.modCtx m.ctx fun x => { x with porter := true, porterEver := true })

/-- The groups of a context. -/
def groupsOf (s : State) (c : Nat) : List (Nat × Group) := s.groups.filter fun (g : Nat × Group) => g.2.ctx = c

/-- A group named by PGROUP: the first of the context with that number (log 37). -/
def byPgroup (s : State) (c x : Nat) : Option (Nat × Group) :=
  (groupsOf s c).find? fun (g : Nat × Group) => !g.2.isHandler && pgroup s g.2 = x

/-- The paths that HALT and RESUME name (Table TRP.6). -/
def namedPaths (s : State) (m : Msg) : Option (List (Nat × Nat)) :=
  if mw m 1 = 2 ^ 64 - 1 then
    some (((groupsOf s m.ctx).filter fun (g : Nat × Group) => !g.2.isHandler).flatMap fun g => g.2.paths.map fun p => (g.1, p.1))
  else (byPgroup s m.ctx (mw m 1)).bind fun g => if (g.2.paths.find? (mw m 2)).isSome then some [(g.1, mw m 2)] else none

/-- The Porter leaves the path it serves, as by rett with MODE 0 (R350, R356). -/
def porterLeave (s : State) (gid slot : Nat) : State :=
  match List.find? (fun (g : Nat × Group) => g.2.kind = .porter gid slot) s.groups with
  | some (hid, h) => { returnTrap 0 0 h gid slot { s with iss := { s.iss with gid := hid, slot := 0 } } with iss := s.iss }
  | none => s

/-- A path that waits in vain for a handler because the Porter is gone: a STEP is cancelled (R344). -/
def cancelStep (p : Path) : Path :=
  let p1 := { p with stepReq := 0, halted := false }
  match trapOf p with
  | some t => if t.cause = .step then { p1 with cond := .ready } else p1
  | none => p1

/-- DETACH (R344): comparators are cleared and steps not yet taken cancelled; what the Porter holds goes on (log 38). -/
def execDetach (m : Msg) (s : State) : Out :=
  porterOp 2 m s fun s =>
    let held := s.groups.filterMap fun g => match g.2.kind with | .porter a b => if g.2.ctx = m.ctx then some (a, b) else none | _ => none
    let s1 := held.foldl (fun s x => porterLeave s x.1 x.2) s
    let steps : List (Nat × Nat) := (groupsOf s1 m.ctx).flatMap fun g =>
      (g.2.paths.filter fun (p : Nat × Path) => (trapOf p.2).map TrapRec.cause = some .step).map fun p => (g.1, p.1)
    let s2 : State := { s1 with
      groups := s1.groups.mapV fun _ g => if g.ctx = m.ctx then { g with paths := g.paths.mapV fun _ p => cancelStep p } else g
      parts := s1.parts.mapV fun _ p => { p with trapq := p.trapq.filter fun x => !steps.contains x } }
    (mOK, [], (steps.foldl (fun s x => reinject s x.1 x.2) s2).modCtx m.ctx fun x => { x with porter := false, cmps := [] })

/-- HALT (R358): the paths stop at their next boundary. -/
def execPorterHalt (m : Msg) (s : State) : Out :=
  porterOp 3 m s fun s => match namedPaths s m with
    | none => (mBADARG, [], s)
    | some l => (mOK, [], l.foldl (fun s x => s.modPathAt x.1 x.2 fun p => { p with halted := true }) s)

/-- RESUME (R358): halted paths go on, as do paths whose BREAK or STEP the Porter holds. -/
def execPorterResume (m : Msg) (s : State) : Out :=
  porterOp 4 m s fun s => match namedPaths s m with
    | none => (mBADARG, [], s)
    | some l => (mOK, [], l.foldl (fun s x => (porterLeave s x.1 x.2).modPathAt x.1 x.2 fun p => { p with halted := false }) s)

/-- A path is to advance by one instruction; of one that waits in an instruction, that is the instruction (R358). -/
def stepPath (s : State) (gid slot : Nat) : State :=
  (porterLeave s gid slot).modPathAt gid slot fun p => { p with halted := false, stepReq := 1, stepAt := p.pc, stepNext := p.after_ }

/-- STEP (R358). -/
def execPorterStep (m : Msg) (s : State) : Out :=
  porterOp 5 m s fun s => match (byPgroup s m.ctx (mw m 1)).bind fun g => (g.2.paths.find? (mw m 2)).map fun _ => g.1 with
    | none => (mBADARG, [], s)
    | some gid => (mOK, [], stepPath s gid (mw m 2))

/-- STEPGRP (R358): each path that exists now, slot A first, then slot B, then the fragments. -/
def execStepgrp (m : Msg) (s : State) : Out :=
  porterOp 6 m s fun s => match byPgroup s m.ctx (mw m 1) with
    | none => (mBADARG, [], s)
    | some (gid, g) => (mOK, [], (g.paths.map Prod.fst).foldl (fun s p => stepPath s gid p) s)

/-- SETBRK (R357): comparator 0 to 7, an address that is a multiple of 4. -/
def execSetbrk (m : Msg) (s : State) : Out :=
  porterOp 7 m s fun s =>
    if 7 < mw m 1 || mw m 2 % 4 ≠ 0 then (mBADARG, [], s)
    else (mOK, [], s.modCtx m.ctx fun x => { x with cmps := x.cmps.put (mw m 1) (mw m 2) })

/-- CLRBRK (R357). -/
def execClrbrk (m : Msg) (s : State) : Out :=
  porterOp 8 m s fun s =>
    if 7 < mw m 1 then (mBADARG, [], s)
    else (mOK, [], s.modCtx m.ctx fun x => { x with cmps := x.cmps.del (mw m 1) })

/-- RDREG and WRREG name PGROUP, SLOT, KIND and IREG in words 1 to 4 (log 39): the path and whether they are in range. -/
def regArg (s : State) (m : Msg) : Option (Nat × Group × Path) :=
  (byPgroup s m.ctx (mw m 1)).bind fun g => (g.2.paths.find? (mw m 2)).bind fun p =>
    let k := mw m 3
    let i := mw m 4
    if (k = 0 && i < g.2.budget) || (k = 1 && i < 128) || (k = 2 && i < 8) || (k = 3 && i < 16) then some (g.1, g.2, p) else none

/-- RDREG (R351, R356): the value in words 5 and 6; of a vector register, the lane is the path's lowest (log 39). -/
def execRdreg (m : Msg) (s : State) : Out :=
  porterOp 9 m s fun s => match regArg s m with
    | none => (mBADARG, [], s)
    | some (_, g, p) =>
      let i := mw m 4
      let v : Nat := match mw m 3 with
        | 0 => (rV g i ((lanesOf p.mask).headD 0)).toNat
        | 1 => (rS g i).toNat
        | 2 => (if i = 0 then p.mask else g.m.get 0 i).toNat
        | _ => ((g.rstack[i]?).map REntry.bits).getD 0
      (mOK, [0, 0, 0, v % 2 ^ 64, v / 2 ^ 64], s)

/-- WRREG (R351, R356): the value of words 5 and 6; a vector register takes it in every lane of the path (log 39). -/
def execWrreg (m : Msg) (s : State) : Out :=
  porterOp 10 m s fun s => match regArg s m with
    | none => (mBADARG, [], s)
    | some (gid, g, p) =>
      let i := mw m 4
      let v := BitVec.ofNat 64 (mw m 5)
      match mw m 3 with
      | 0 => (mOK, [], s.modGroup gid fun g => g.puts (vWrites i (lanesOf p.mask) fun _ => v))
      | 1 => (mOK, [], s.modGroup gid fun g => g.put1 (.s i v))
      | 2 => if i = 0 then (mBADARG, [], s) else (mOK, [], s.modGroup gid fun g => g.put1 (.m i (BitVec.ofNat 32 v.toNat)))
      | _ =>
        if g.rstack.length ≤ i then (mBADARG, [], s)
        else (mOK, [], s.modGroup gid fun g => { g with rstack := g.rstack.set i (REntry.ofBits (mw m 5 + 2 ^ 64 * mw m 6)) })

/-- A range lies in no weight region (R189). -/
def noRegion (x : Ctx) (va n : Nat) : Bool := (List.range n).all fun i => !inRegion x ((va + i) % 2 ^ 57)

/-- RDMEM (R356): 1 to 40 bytes, in words 3 to 7 of the reply; a weight region is not read (R189). -/
def execRdmem (m : Msg) (s : State) : Out :=
  porterOp 11 m s fun s =>
    let n := mw m 2
    if n = 0 || 40 < n then (mBADARG, [], s)
    else match s.ctx? m.ctx with
      | none => (mBADARG, [], s)
      | some x =>
        if !noRegion x (mw m 1) n then (mDENIED, [], s)
        else match ctxRead s m.ctx (mw m 1) n with
          | some bs => (mOK, 0 :: (List.range 5).map fun i => ofBytesLE ((bs.drop (8 * i)).take 8), s)
          | none => (mBADARG, [], s)

/-- WRMEM (R356): 1 to 40 bytes of words 3 to 7; code pages and weight regions are not written. -/
def execWrmem (m : Msg) (s : State) : Out :=
  porterOp 12 m s fun s =>
    let va := mw m 1
    let n := mw m 2
    let bs := ((List.range 5).flatMap fun i => bytesLE 8 (mw m (3 + i))).take n
    if n = 0 || 40 < n || badVa va then (mBADARG, [], s)
    else match s.ctx? m.ctx with
      | none => (mBADARG, [], s)
      | some x =>
        if !noRegion x va n || (List.range n).any fun i => inCode x ((va + i) % 2 ^ 57) then (mDENIED, [], s)
        else if (List.range n).any fun i => (walkNow s m.ctx ((va + i) % 2 ^ 57) Need.write).2.isNone then (mBADARG, [], s)
        else (mOK, [], bs.zipIdx.foldl (fun s b => match walkNow s m.ctx ((va + b.2) % 2 ^ 57) Need.write with
          | (s1, some k) => homeWrite s1 none k [b.1]
          | (s1, none) => s1) s)

end Sys2Proof.Machine
end

