-- ==== Sys2Proof/Machine/Scalar.lean ====
section
/-! DEFINITION. Scalar, bit and mask instructions: majors 0x01 to 0x0B (R74 to R83). -/

namespace Sys2Proof.Machine

/-- A scalar instruction with two sources (R77, R79). -/
def sBin (d a b : Nat) (s : State) (f : W64 → W64 → W64) : Out :=
  gated { acc := accS3, rd := sR [a, b], wr := sR [d] } s fun g _ => land [.s d (f (rS g a) (rS g b))] 0

/-- A scalar instruction that also reads S(d). -/
def sTri (d a b : Nat) (s : State) (f : W64 → W64 → W64 → W64) : Out :=
  gated { acc := accS3, rd := sR [a, b, d], wr := sR [d] } s fun g _ =>
    land [.s d (f (rS g d) (rS g a) (rS g b))] 0

/-- A unary scalar instruction. -/
def sUn (d a : Nat) (s : State) (f : W64 → W64) : Out :=
  gated { acc := accS2, rd := sR [a], wr := sR [d] } s fun g _ => land [.s d (f (rS g a))] 0

/-- A scalar immediate instruction (R81). -/
def sImm (acc : Acc) (d : Nat) (rd : List Nat) (s : State) (f : Group → W64) : Out :=
  gated { acc := acc, rd := sR rd, wr := sR [d] } s fun g _ => land [.s d (f g)] 0

/-- A mask instruction writing a mask (R83). -/
def mOp (d : Nat) (rd : List RegN) (s : State) (f : Group → Path → W32) : Out :=
  gated { acc := acc0, rd := rd, wr := mR [d] } s fun g p => land [.m d (f g p)] 0

/-- A mask instruction writing a scalar register (R83). -/
def msOp (d a : Nat) (s : State) (f : W32 → W64) : Out :=
  gated { acc := acc0, rd := mR [a], wr := sR [d] } s fun g p => land [.s d (f (rM s g p a))] 0

/-- 1 or 0. -/
def bit (b : Bool) : W64 := if b then 1 else 0

/-- The quotient of R78. -/
def quotI (a b : W64) : Int := if b = 0 then -1 else a.toInt.tdiv b.toInt

/-- The length of a field, cut at bit 63 (R80). -/
def fieldLen (b : W64) : Nat := min (fld b.toNat 8 7) (64 - fld b.toNat 0 6)

/-- The field of S(a) that S(b) names (R80). -/
def fieldOf (a b : W64) : Nat := fld a.toNat (fld b.toNat 0 6) (fieldLen b)

/-- A field inserted (R80). -/
def fieldIns (d a b : W64) : W64 :=
  let m : W64 := BitVec.ofNat 64 ((2 ^ fieldLen b - 1) * 2 ^ fld b.toNat 0 6)
  (d &&& ~~~m) ||| (BitVec.ofNat 64 (a.toNat % 2 ^ fieldLen b * 2 ^ fld b.toNat 0 6))

/-- SADD (R77). -/
def execSadd (d a b : Nat) (s : State) : Out := sBin d a b s fun a b => a + b

/-- SSUB (R77). -/
def execSsub (d a b : Nat) (s : State) : Out := sBin d a b s fun a b => a - b

/-- SMUL (R77). -/
def execSmul (d a b : Nat) (s : State) : Out := sBin d a b s fun a b => a * b

/-- SMULH_I (R77). -/
def execSmulhI (d a b : Nat) (s : State) : Out := sBin d a b s fun a b => BitVec.ofInt 64 (a.toInt * b.toInt / 2 ^ 64)

/-- SMULH_N (R77). -/
def execSmulhN (d a b : Nat) (s : State) : Out := sBin d a b s fun a b => BitVec.ofNat 64 (a.toNat * b.toNat / 2 ^ 64)

/-- SDIV_I (R78). -/
def execSdivI (d a b : Nat) (s : State) : Out := sBin d a b s fun a b => BitVec.ofInt 64 (quotI a b)

/-- SDIV_N (R78). -/
def execSdivN (d a b : Nat) (s : State) : Out := sBin d a b s fun a b => if b = 0 then BitVec.allOnes 64 else a / b

/-- SREM_I (R78). -/
def execSremI (d a b : Nat) (s : State) : Out := sBin d a b s fun a b => if b = 0 then a else BitVec.ofInt 64 (a.toInt - b.toInt * quotI a b)

/-- SREM_N (R78). -/
def execSremN (d a b : Nat) (s : State) : Out := sBin d a b s fun a b => if b = 0 then a else a % b

/-- SMIN_I (R77). -/
def execSminI (d a b : Nat) (s : State) : Out := sBin d a b s fun a b => if a.toInt ≤ b.toInt then a else b

/-- SMIN_N (R77). -/
def execSminN (d a b : Nat) (s : State) : Out := sBin d a b s fun a b => if a.toNat ≤ b.toNat then a else b

/-- SMAX_I (R77). -/
def execSmaxI (d a b : Nat) (s : State) : Out := sBin d a b s fun a b => if b.toInt ≤ a.toInt then a else b

/-- SMAX_N (R77). -/
def execSmaxN (d a b : Nat) (s : State) : Out := sBin d a b s fun a b => if b.toNat ≤ a.toNat then a else b

/-- SABS (R77). -/
def execSabs (d a : Nat) (s : State) : Out := sUn d a s fun a => if a.toInt < 0 then -a else a

/-- SNEG (R77). -/
def execSneg (d a : Nat) (s : State) : Out := sUn d a s fun a => -a

/-- SEQ (R77). -/
def execSeq (d a b : Nat) (s : State) : Out := sBin d a b s fun a b => bit (a = b)

/-- SNE (R77). -/
def execSne (d a b : Nat) (s : State) : Out := sBin d a b s fun a b => bit (a ≠ b)

/-- SLT_I (R77). -/
def execSltI (d a b : Nat) (s : State) : Out := sBin d a b s fun a b => bit (a.toInt < b.toInt)

/-- SLT_N (R77). -/
def execSltN (d a b : Nat) (s : State) : Out := sBin d a b s fun a b => bit (a.toNat < b.toNat)

/-- SLE_I (R77). -/
def execSleI (d a b : Nat) (s : State) : Out := sBin d a b s fun a b => bit (a.toInt ≤ b.toInt)

/-- SLE_N (R77). -/
def execSleN (d a b : Nat) (s : State) : Out := sBin d a b s fun a b => bit (a.toNat ≤ b.toNat)

/-- SSEL (R77). -/
def execSsel (d a b : Nat) (s : State) : Out := sTri d a b s fun d a b => if d ≠ 0 then a else b

/-- SMOV (R77). -/
def execSmov (d a : Nat) (s : State) : Out := sUn d a s fun a => a

/-- SADDS (R77). -/
def execSadds (d a b : Nat) (s : State) : Out := sBin d a b s fun a b => a + b * 8

/-- SAND (R79). -/
def execSand (d a b : Nat) (s : State) : Out := sBin d a b s fun a b => a &&& b

/-- SOR (R79). -/
def execSor (d a b : Nat) (s : State) : Out := sBin d a b s fun a b => a ||| b

/-- SXOR (R79). -/
def execSxor (d a b : Nat) (s : State) : Out := sBin d a b s fun a b => a ^^^ b

/-- SANDN (R79). -/
def execSandn (d a b : Nat) (s : State) : Out := sBin d a b s fun a b => a &&& ~~~b

/-- SNOT (R79). -/
def execSnot (d a : Nat) (s : State) : Out := sUn d a s fun a => ~~~a

/-- SSHL (R79). -/
def execSshl (d a b : Nat) (s : State) : Out := sBin d a b s fun a b => a <<< fld b.toNat 0 6

/-- SSHR (R79). -/
def execSshr (d a b : Nat) (s : State) : Out := sBin d a b s fun a b => a >>> fld b.toNat 0 6

/-- SSAR (R79). -/
def execSsar (d a b : Nat) (s : State) : Out := sBin d a b s fun a b => a.sshiftRight (fld b.toNat 0 6)

/-- SROL (R79). -/
def execSrol (d a b : Nat) (s : State) : Out := sBin d a b s fun a b => a.rotateLeft (fld b.toNat 0 6)

/-- SROR (R79). -/
def execSror (d a b : Nat) (s : State) : Out := sBin d a b s fun a b => a.rotateRight (fld b.toNat 0 6)

/-- SCLZ (R79). -/
def execSclz (d a : Nat) (s : State) : Out := sUn d a s fun a => BitVec.ofNat 64 (clzN 64 a.toNat)

/-- SCTZ (R79). -/
def execSctz (d a : Nat) (s : State) : Out := sUn d a s fun a => BitVec.ofNat 64 (ctzN 64 a.toNat)

/-- SPOP (R79). -/
def execSpop (d a : Nat) (s : State) : Out := sUn d a s fun a => BitVec.ofNat 64 (popN 64 a.toNat)

/-- SBFX_I (R80). -/
def execSbfxI (d a b : Nat) (s : State) : Out := sBin d a b s fun a b => sext64 (fieldLen b) (fieldOf a b)

/-- SBFX_N (R80). -/
def execSbfxN (d a b : Nat) (s : State) : Out := sBin d a b s fun a b => BitVec.ofNat 64 (fieldOf a b)

/-- SBFI (R80). -/
def execSbfi (d a b : Nat) (s : State) : Out := sTri d a b s fieldIns

/-- MAND (R83). -/
def execMand (d a b : Nat) (s : State) : Out := mOp d (mR [a, b]) s fun g p => rM s g p a &&& rM s g p b

/-- MOR (R83). -/
def execMor (d a b : Nat) (s : State) : Out := mOp d (mR [a, b]) s fun g p => rM s g p a ||| rM s g p b

/-- MXOR (R83). -/
def execMxor (d a b : Nat) (s : State) : Out := mOp d (mR [a, b]) s fun g p => rM s g p a ^^^ rM s g p b

/-- MANDN (R83). -/
def execMandn (d a b : Nat) (s : State) : Out := mOp d (mR [a, b]) s fun g p => rM s g p a &&& ~~~rM s g p b

/-- MNOT (R83). -/
def execMnot (d a : Nat) (s : State) : Out := mOp d (mR [a]) s fun g p => ~~~rM s g p a

/-- MMOV (R83). -/
def execMmov (d a : Nat) (s : State) : Out := mOp d (mR [a]) s fun g p => rM s g p a

/-- MPOP (R83). -/
def execMpop (d a : Nat) (s : State) : Out := msOp d a s fun m => BitVec.ofNat 64 (popN 32 m.toNat)

/-- MFIRST (R83). -/
def execMfirst (d a : Nat) (s : State) : Out := msOp d a s fun m => BitVec.ofNat 64 (ctzN 32 m.toNat)

/-- MTOS (R83). -/
def execMtos (d a : Nat) (s : State) : Out := msOp d a s fun m => m.setWidth 64

/-- STOM (R83). -/
def execStom (d a : Nat) (s : State) : Out := mOp d (sR [a]) s fun g _ => (rS g a).setWidth 32

/-- MBELOW (R83). -/
def execMbelow (d a b : Nat) (s : State) : Out :=
  mOp d (mR [a] ++ sR [b]) s fun g p => rM s g p a &&& BitVec.ofNat 32 (2 ^ min (rS g b).toNat 32 - 1)

/-- SADDI (R81). -/
def execSaddi (d a i : Nat) (s : State) : Out := sImm accSI d [a] s fun g => rS g a + immS s i

/-- SANDI (R81). -/
def execSandi (d a i : Nat) (s : State) : Out := sImm accSI d [a] s fun g => rS g a &&& immZ s i

/-- SORI (R81). -/
def execSori (d a i : Nat) (s : State) : Out := sImm accSI d [a] s fun g => rS g a ||| immZ s i

/-- SXORI (R81). -/
def execSxori (d a i : Nat) (s : State) : Out := sImm accSI d [a] s fun g => rS g a ^^^ immZ s i

/-- SSLTI (R81). -/
def execSslti (d a i : Nat) (s : State) : Out := sImm accSI d [a] s fun g => bit ((rS g a).toInt < (immS s i).toInt)

/-- SSHLI (R82): no imm word is accepted (R82). -/
def execSshli (d a i : Nat) (s : State) : Out := sImm accS2 d [a] s fun g => rS g a <<< i

/-- SSHRI (R82): no imm word is accepted (R82). -/
def execSshri (d a i : Nat) (s : State) : Out := sImm accS2 d [a] s fun g => rS g a >>> i

/-- SLI (R81). -/
def execSli (d i : Nat) (s : State) : Out :=
  sImm { rpt := some (true, false, false), imms := 2 } d [] s fun _ => immS s i

end Sys2Proof.Machine
end

