-- ==== Sys2Proof/Machine/VecFlt.lean ====
section
/-! DEFINITION. Floating-point vector instructions and conversions: majors 0x14 to 0x16 (R102 to R108). -/

namespace Sys2Proof.Machine

/-- A rounding instruction on sub-elements of a type: `f mode x y z` is the exact value and its flags (R33, R102). -/
def fArith (f : Fmt) (tri : Bool) (d a b : Nat) (s : State) (op : Nat → FV → FV → FV → FV × Nat) : Out :=
  gated { acc := accR3, rd := vR (if tri then [a, b, d] else [a, b]), wr := vR [d] } s fun g p =>
    let w := f.bits
    let mode := rmode s g
    let x (r l e : Nat) : FV := f.val (f.daz g.daz (elem w (rV g r l) e))
    fun s0 => withDraws mode (64 / w * (actLanes s g p).length) g s0 fun draws s1 =>
      let r := vecF (64 / w) (actLanes s g p) draws fun dr l e =>
        let v := op mode (x a l e) (x b l e) (x d l e)
        let c := v.1.round f mode dr g.ftz
        (c.1, v.2 ||| c.2)
      land (vecWrites d w r) (vecFlags r) s1

/-- A minimum or maximum (R103). -/
def fMinMax (f : Fmt) (mx num : Bool) (d a b : Nat) (s : State) : Out :=
  gated { acc := accV3, rd := vR [a, b], wr := vR [d] } s fun g p =>
    let w := f.bits
    let r := vecF (64 / w) (actLanes s g p) [] fun _ l e =>
      let v := f.minMax mx num (f.daz g.daz (elem w (rV g a l) e)) (f.daz g.daz (elem w (rV g b l) e))
      let c := f.flush g.ftz v.1
      (c.1, v.2 ||| c.2)
    land (vecWrites d w r) (vecFlags r)

/-- The relations of R105: 0 equal, 1 less, 2 less or equal, 3 unordered; and NV. -/
def fRel (f : Fmt) (rel a b : Nat) : Bool × Nat :=
  let x := f.val a
  let y := f.val b
  let nan := x.isNaN || y.isNaN
  let sig := x.isSig || y.isSig
  let z := a % f.top = 0 && b % f.top = 0
  match rel with
  | 0 => (!nan && (z || f.key a = f.key b), if sig then fNV else 0)
  | 1 => (!nan && !z && f.key a < f.key b, if nan then fNV else 0)
  | 2 => (!nan && (z || f.key a ≤ f.key b), if nan then fNV else 0)
  | _ => (nan, if sig then fNV else 0)

/-- A floating-point compare (R105). -/
def fCmp (f : Fmt) (rel d a b : Nat) (s : State) : Out :=
  gated { acc := accV3, rd := vR [a, b], wr := vR [d] } s fun g p =>
    let w := f.bits
    let r := vecF (64 / w) (actLanes s g p) [] fun _ l e =>
      let v := fRel f rel (f.daz g.daz (elem w (rV g a l) e)) (f.daz g.daz (elem w (rV g b l) e))
      (if v.1 then 2 ^ w - 1 else 0, v.2)
    land (vecWrites d w r) (vecFlags r)

/-- A form on the bits of the sub-elements, without flags (R106). -/
def fBits (f : Fmt) (un : Bool) (d a b : Nat) (s : State) (op : Nat → Nat → Nat) : Out :=
  gated { acc := if un then accV2 else accV3, rd := vR (if un then [a] else [a, b]), wr := vR [d] } s fun g p =>
    land (vWrites d (actLanes s g p) fun l =>
      mapE f.bits fun e => op (elem f.bits (rV g a l) e) (elem f.bits (rV g b l) e)) 0

/-- VFMA_F32 (R102). -/
def execVfmaF32 (d a b : Nat) (s : State) : Out := fArith F32 true d a b s fun m x y z => x.fma m y z

/-- VFMA_F16 (R102). -/
def execVfmaF16 (d a b : Nat) (s : State) : Out := fArith F16 true d a b s fun m x y z => x.fma m y z

/-- VFMA_BF16 (R102). -/
def execVfmaBf16 (d a b : Nat) (s : State) : Out := fArith BF16 true d a b s fun m x y z => x.fma m y z

/-- VFMS_F32 (R102). -/
def execVfmsF32 (d a b : Nat) (s : State) : Out := fArith F32 true d a b s fun m x y z => x.fma m y z.neg

/-- VFMS_F16 (R102). -/
def execVfmsF16 (d a b : Nat) (s : State) : Out := fArith F16 true d a b s fun m x y z => x.fma m y z.neg

/-- VFMS_BF16 (R102). -/
def execVfmsBf16 (d a b : Nat) (s : State) : Out := fArith BF16 true d a b s fun m x y z => x.fma m y z.neg

/-- VFNMA_F32 (R102). -/
def execVfnmaF32 (d a b : Nat) (s : State) : Out := fArith F32 true d a b s fun m x y z => x.neg.fma m y z

/-- VFNMA_F16 (R102). -/
def execVfnmaF16 (d a b : Nat) (s : State) : Out := fArith F16 true d a b s fun m x y z => x.neg.fma m y z

/-- VFNMA_BF16 (R102). -/
def execVfnmaBf16 (d a b : Nat) (s : State) : Out := fArith BF16 true d a b s fun m x y z => x.neg.fma m y z

/-- VFADD_F32 (R102). -/
def execVfaddF32 (d a b : Nat) (s : State) : Out := fArith F32 false d a b s fun m x y _ => x.add m y

/-- VFADD_F16 (R102). -/
def execVfaddF16 (d a b : Nat) (s : State) : Out := fArith F16 false d a b s fun m x y _ => x.add m y

/-- VFADD_BF16 (R102). -/
def execVfaddBf16 (d a b : Nat) (s : State) : Out := fArith BF16 false d a b s fun m x y _ => x.add m y

/-- VFSUB_F32 (R102). -/
def execVfsubF32 (d a b : Nat) (s : State) : Out := fArith F32 false d a b s fun m x y _ => x.add m y.neg

/-- VFSUB_F16 (R102). -/
def execVfsubF16 (d a b : Nat) (s : State) : Out := fArith F16 false d a b s fun m x y _ => x.add m y.neg

/-- VFSUB_BF16 (R102). -/
def execVfsubBf16 (d a b : Nat) (s : State) : Out := fArith BF16 false d a b s fun m x y _ => x.add m y.neg

/-- VFMUL_F32 (R102). -/
def execVfmulF32 (d a b : Nat) (s : State) : Out := fArith F32 false d a b s fun _ x y _ => x.mul y

/-- VFMUL_F16 (R102). -/
def execVfmulF16 (d a b : Nat) (s : State) : Out := fArith F16 false d a b s fun _ x y _ => x.mul y

/-- VFMUL_BF16 (R102). -/
def execVfmulBf16 (d a b : Nat) (s : State) : Out := fArith BF16 false d a b s fun _ x y _ => x.mul y

/-- VFMIN_F32 (R103). -/
def execVfminF32 (d a b : Nat) (s : State) : Out := fMinMax F32 false false d a b s

/-- VFMIN_F16 (R103). -/
def execVfminF16 (d a b : Nat) (s : State) : Out := fMinMax F16 false false d a b s

/-- VFMIN_BF16 (R103). -/
def execVfminBf16 (d a b : Nat) (s : State) : Out := fMinMax BF16 false false d a b s

/-- VFMAX_F32 (R103). -/
def execVfmaxF32 (d a b : Nat) (s : State) : Out := fMinMax F32 true false d a b s

/-- VFMAX_F16 (R103). -/
def execVfmaxF16 (d a b : Nat) (s : State) : Out := fMinMax F16 true false d a b s

/-- VFMAX_BF16 (R103). -/
def execVfmaxBf16 (d a b : Nat) (s : State) : Out := fMinMax BF16 true false d a b s

/-- VFMINNUM_F32 (R103). -/
def execVfminnumF32 (d a b : Nat) (s : State) : Out := fMinMax F32 false true d a b s

/-- VFMINNUM_F16 (R103). -/
def execVfminnumF16 (d a b : Nat) (s : State) : Out := fMinMax F16 false true d a b s

/-- VFMINNUM_BF16 (R103). -/
def execVfminnumBf16 (d a b : Nat) (s : State) : Out := fMinMax BF16 false true d a b s

/-- VFMAXNUM_F32 (R103). -/
def execVfmaxnumF32 (d a b : Nat) (s : State) : Out := fMinMax F32 true true d a b s

/-- VFMAXNUM_F16 (R103). -/
def execVfmaxnumF16 (d a b : Nat) (s : State) : Out := fMinMax F16 true true d a b s

/-- VFMAXNUM_BF16 (R103). -/
def execVfmaxnumBf16 (d a b : Nat) (s : State) : Out := fMinMax BF16 true true d a b s

/-- VFCEQ_F32 (R105). -/
def execVfceqF32 (d a b : Nat) (s : State) : Out := fCmp F32 0 d a b s

/-- VFCEQ_F16 (R105). -/
def execVfceqF16 (d a b : Nat) (s : State) : Out := fCmp F16 0 d a b s

/-- VFCEQ_BF16 (R105). -/
def execVfceqBf16 (d a b : Nat) (s : State) : Out := fCmp BF16 0 d a b s

/-- VFCLT_F32 (R105). -/
def execVfcltF32 (d a b : Nat) (s : State) : Out := fCmp F32 1 d a b s

/-- VFCLT_F16 (R105). -/
def execVfcltF16 (d a b : Nat) (s : State) : Out := fCmp F16 1 d a b s

/-- VFCLT_BF16 (R105). -/
def execVfcltBf16 (d a b : Nat) (s : State) : Out := fCmp BF16 1 d a b s

/-- VFCLE_F32 (R105). -/
def execVfcleF32 (d a b : Nat) (s : State) : Out := fCmp F32 2 d a b s

/-- VFCLE_F16 (R105). -/
def execVfcleF16 (d a b : Nat) (s : State) : Out := fCmp F16 2 d a b s

/-- VFCLE_BF16 (R105). -/
def execVfcleBf16 (d a b : Nat) (s : State) : Out := fCmp BF16 2 d a b s

/-- VFCUN_F32 (R105). -/
def execVfcunF32 (d a b : Nat) (s : State) : Out := fCmp F32 3 d a b s

/-- VFCUN_F16 (R105). -/
def execVfcunF16 (d a b : Nat) (s : State) : Out := fCmp F16 3 d a b s

/-- VFCUN_BF16 (R105). -/
def execVfcunBf16 (d a b : Nat) (s : State) : Out := fCmp BF16 3 d a b s

/-- VFABS_F32 (R106). -/
def execVfabsF32 (d a : Nat) (s : State) : Out := fBits F32 true d a 0 s fun x _ => x % F32.top

/-- VFABS_F16 (R106). -/
def execVfabsF16 (d a : Nat) (s : State) : Out := fBits F16 true d a 0 s fun x _ => x % F16.top

/-- VFABS_BF16 (R106). -/
def execVfabsBf16 (d a : Nat) (s : State) : Out := fBits BF16 true d a 0 s fun x _ => x % BF16.top

/-- VFNEG_F32 (R106). -/
def execVfnegF32 (d a : Nat) (s : State) : Out := fBits F32 true d a 0 s fun x _ => x ^^^ F32.top

/-- VFNEG_F16 (R106). -/
def execVfnegF16 (d a : Nat) (s : State) : Out := fBits F16 true d a 0 s fun x _ => x ^^^ F16.top

/-- VFNEG_BF16 (R106). -/
def execVfnegBf16 (d a : Nat) (s : State) : Out := fBits BF16 true d a 0 s fun x _ => x ^^^ BF16.top

/-- VFCLASS_F32 (R106). -/
def execVfclassF32 (d a : Nat) (s : State) : Out := fBits F32 true d a 0 s fun x _ => F32.class_ x

/-- VFCLASS_F16 (R106). -/
def execVfclassF16 (d a : Nat) (s : State) : Out := fBits F16 true d a 0 s fun x _ => F16.class_ x

/-- VFCLASS_BF16 (R106). -/
def execVfclassBf16 (d a : Nat) (s : State) : Out := fBits BF16 true d a 0 s fun x _ => BF16.class_ x

/-- VFCOPYSIGN_F32 (R106). -/
def execVfcopysignF32 (d a b : Nat) (s : State) : Out :=
  fBits F32 false d a b s fun x y => x % F32.top + y / F32.top * F32.top

/-- VFCOPYSIGN_F16 (R106). -/
def execVfcopysignF16 (d a b : Nat) (s : State) : Out :=
  fBits F16 false d a b s fun x y => x % F16.top + y / F16.top * F16.top

/-- VFCOPYSIGN_BF16 (R106). -/
def execVfcopysignBf16 (d a b : Nat) (s : State) : Out :=
  fBits BF16 false d a b s fun x y => x % BF16.top + y / BF16.top * BF16.top

/-- A conversion from width `ws` to width `wd` with part `p`: narrowing merges into part p of V(d), widening reads
part p of V(a) (R107). `cvt fx draw code` is the result and its flags. -/
def vCvt (rnd : Bool) (ws wd d a p : Nat) (s : State) (cvt : Group → Nat → Nat → Nat × Nat) : Out :=
  gated { acc := { (if rnd then accR2 else accV2) with rnd := rnd }, rd := vR (if wd < ws then [a, d] else [a]),
          wr := vR [d] } s fun g pa =>
    let n := 64 / max ws wd
    let mode := if rnd then rmode s g else 0
    fun s0 => withDraws mode (n * (actLanes s g pa).length) g s0 fun draws s1 =>
      let r := vecF n (actLanes s g pa) draws fun dr l j =>
        cvt g dr (elem ws (rV g a l) (if wd < ws then j else p * n + j))
      let ws_ := r.map fun x => RegW.v d x.1
        (if wd < ws then ofElems wd ((elems wd (rV g d x.1)).take (p * n) ++ x.2.map Prod.fst ++ (elems wd (rV g d x.1)).drop (p * n + n))
         else ofElems wd (x.2.map Prod.fst))
      land ws_ (vecFlags r) s1

/-- VCVT_F16_F32 (R107). -/
def execVcvtF16F32 (d a p : Nat) (s : State) : Out :=
  vCvt true 32 16 d a p s fun g dr x => (F32.val (F32.daz g.daz x)).into F16 (rmode s g) dr g.ftz false

/-- VCVT_BF16_F32 (R107). -/
def execVcvtBf16F32 (d a p : Nat) (s : State) : Out :=
  vCvt true 32 16 d a p s fun g dr x => (F32.val (F32.daz g.daz x)).into BF16 (rmode s g) dr g.ftz false

/-- VCVT_F32_F16 (R107): exact, then FTZ. R28 has FTZ set UF and NX, R108 lets an exact form set no flag but NV: R108, which
speaks of these forms, is followed (DESIGN CHOICE, log 50). -/
def execVcvtF32F16 (d a p : Nat) (s : State) : Out :=
  vCvt false 16 32 d a p s fun g _ x =>
    let r := (F16.val (F16.daz g.daz x)).into F32 0 0 false false
    let z := F32.flush g.ftz r.1
    (z.1, r.2 &&& fNV)

/-- VCVT_F32_BF16 (R107): exact, then FTZ, with no flag but NV (R108 against R28: DESIGN CHOICE, log 50). -/
def execVcvtF32Bf16 (d a p : Nat) (s : State) : Out :=
  vCvt false 16 32 d a p s fun g _ x =>
    let r := (BF16.val (BF16.daz g.daz x)).into F32 0 0 false false
    let z := F32.flush g.ftz r.1
    (z.1, r.2 &&& fNV)

/-- VCVT_I32_F32 (R108). -/
def execVcvtI32F32 (d a : Nat) (s : State) : Out :=
  vCvt true 32 32 d a 0 s fun g dr x => intoInt true 32 (rmode s g) dr (F32.val (F32.daz g.daz x))

/-- VCVT_N32_F32 (R108). -/
def execVcvtN32F32 (d a : Nat) (s : State) : Out :=
  vCvt true 32 32 d a 0 s fun g dr x => intoInt false 32 (rmode s g) dr (F32.val (F32.daz g.daz x))

/-- VCVT_F32_I32 (R108). -/
def execVcvtF32I32 (d a : Nat) (s : State) : Out :=
  vCvt true 32 32 d a 0 s fun g dr x => (FV.fin (toI 32 x < 0) (toI 32 x).natAbs 0).into F32 (rmode s g) dr g.ftz false

/-- VCVT_F32_N32 (R108). -/
def execVcvtF32N32 (d a : Nat) (s : State) : Out :=
  vCvt true 32 32 d a 0 s fun g dr x => (FV.fin false x 0).into F32 (rmode s g) dr g.ftz false

/-- VCVT_F8E4_F32 (R108). -/
def execVcvtF8e4F32 (d a p : Nat) (s : State) : Out :=
  vCvt true 32 8 d a p s fun g dr x => intoNarrow F8E4 (rmode s g) dr g.satf8 (s.fx g.ctx g.fxsel) (F32.val (F32.daz g.daz x))

/-- VCVT_F8E5_F32 (R108). -/
def execVcvtF8e5F32 (d a p : Nat) (s : State) : Out :=
  vCvt true 32 8 d a p s fun g dr x => intoNarrow F8E5 (rmode s g) dr g.satf8 (s.fx g.ctx g.fxsel) (F32.val (F32.daz g.daz x))

/-- VCVT_F6E2_F32 (R108). -/
def execVcvtF6e2F32 (d a p : Nat) (s : State) : Out :=
  vCvt true 32 8 d a p s fun g dr x => intoNarrow F6E2 (rmode s g) dr g.satf8 (s.fx g.ctx g.fxsel) (F32.val (F32.daz g.daz x))

/-- VCVT_F6E3_F32 (R108). -/
def execVcvtF6e3F32 (d a p : Nat) (s : State) : Out :=
  vCvt true 32 8 d a p s fun g dr x => intoNarrow F6E3 (rmode s g) dr g.satf8 (s.fx g.ctx g.fxsel) (F32.val (F32.daz g.daz x))

/-- VCVT_F4_F32 (R31). -/
def execVcvtF4F32 (d a p : Nat) (s : State) : Out :=
  vCvt true 32 8 d a p s fun g dr x => intoNarrow F4 (rmode s g) dr g.satf8 (s.fx g.ctx g.fxsel) (F32.val (F32.daz g.daz x))

/-- VCVT_F32_F8E4 (R108). -/
def execVcvtF32F8e4 (d a p : Nat) (s : State) : Out :=
  vCvt false 8 32 d a p s fun _ _ x => (F8E4.val x).into F32 0 0 false false

/-- VCVT_F32_F8E5 (R108). -/
def execVcvtF32F8e5 (d a p : Nat) (s : State) : Out :=
  vCvt false 8 32 d a p s fun _ _ x => (F8E5.val x).into F32 0 0 false false

/-- VCVT_F32_F6E2 (R108). -/
def execVcvtF32F6e2 (d a p : Nat) (s : State) : Out :=
  vCvt false 8 32 d a p s fun _ _ x => (F6E2.val x).into F32 0 0 false false

/-- VCVT_F32_F6E3 (R108). -/
def execVcvtF32F6e3 (d a p : Nat) (s : State) : Out :=
  vCvt false 8 32 d a p s fun _ _ x => (F6E3.val x).into F32 0 0 false false

/-- VCVT_F32_F4 (R31). -/
def execVcvtF32F4 (d a p : Nat) (s : State) : Out :=
  vCvt false 8 32 d a p s fun g _ x => (f4ToF32 (s.fx g.ctx g.fxsel) x, 0)

/-- VCVT_I8_I32 (R108). -/
def execVcvtI8I32 (d a p : Nat) (s : State) : Out :=
  vCvt false 32 8 d a p s fun _ _ x =>
    let i := toI 32 x
    if i < -128 then (0x80, fSAT) else if 127 < i then (0x7F, fSAT) else (ofI 8 i, 0)

end Sys2Proof.Machine
end

