-- ==== Sys2Proof/Machine/VecInt.lean ====
section
/-! DEFINITION. Vector integer, bit, compare and immediate instructions: majors 0x10 to 0x13 and 0x18 to 0x1A
(R92 to R101, R109). -/

namespace Sys2Proof.Machine

/-- A vector instruction on sub-elements of width `w` (R92): `f` answers the result and the flags. -/
def vElem (w : Nat) (un : Bool) (d a b : Nat) (s : State) (f : Nat → Nat → Nat × Nat) : Out :=
  gated { acc := if un then accV2 else accV3, rd := vR (if un then [a] else [a, b]), wr := vR [d] } s fun g p =>
    let r := vecF (64 / w) (actLanes s g p) [] fun _ l e => f (elem w (rV g a l) e) (elem w (rV g b l) e)
    land (vecWrites d w r) (vecFlags r)

/-- Without flags, two sources, the width in fn (R96, R99, R100). -/
def vBin (c d a b : Nat) (s : State) (f : Nat → Nat → Nat → Nat) : Out :=
  vElem (wOf c) false d a b s fun x y => (f (wOf c) x y, 0)

/-- Without flags, unary, the width in fn. -/
def vUn (c d a : Nat) (s : State) (f : Nat → Nat → Nat) : Out := vElem (wOf c) true d a 0 s fun x _ => (f (wOf c) x, 0)

/-- On whole registers (R98). -/
def vWhole (rd : List Nat) (acc : Acc) (d : Nat) (s : State) (f : Group → Nat → W64) : Out :=
  gated { acc := acc, rd := vR rd, wr := vR [d] } s fun g p => land (vWrites d (actLanes s g p) (f g)) 0

/-- All ones where `b` holds (R100). -/
def ones (w : Nat) (b : Bool) : Nat := if b then 2 ^ w - 1 else 0

/-- A sum clamped between bounds, and SAT where it is clamped (R96, R97). -/
def clampSat (w : Nat) (lo hi i : Int) : Nat × Nat :=
  if i < lo then (ofI w lo, fSAT) else if hi < i then (ofI w hi, fSAT) else (ofI w i, 0)

/-- VADD (R96). -/
def execVadd (w d a b : Nat) (s : State) : Out := vBin w d a b s fun _ x y => x + y

/-- VSUB (R96). -/
def execVsub (w d a b : Nat) (s : State) : Out := vBin w d a b s fun w x y => 2 ^ w + x - y

/-- VMUL (R96). -/
def execVmul (w d a b : Nat) (s : State) : Out := vBin w d a b s fun _ x y => x * y

/-- VMULH_I (R96). -/
def execVmulhI (w d a b : Nat) (s : State) : Out := vBin w d a b s fun w x y => ofI w (toI w x * toI w y / 2 ^ w)

/-- VMULH_N (R96). -/
def execVmulhN (w d a b : Nat) (s : State) : Out := vBin w d a b s fun w x y => x * y / 2 ^ w

/-- VMIN_I (R96). -/
def execVminI (w d a b : Nat) (s : State) : Out := vBin w d a b s fun w x y => if toI w x ≤ toI w y then x else y

/-- VMIN_N (R96). -/
def execVminN (w d a b : Nat) (s : State) : Out := vBin w d a b s fun _ x y => min x y

/-- VMAX_I (R96). -/
def execVmaxI (w d a b : Nat) (s : State) : Out := vBin w d a b s fun w x y => if toI w y ≤ toI w x then x else y

/-- VMAX_N (R96). -/
def execVmaxN (w d a b : Nat) (s : State) : Out := vBin w d a b s fun _ x y => max x y

/-- VABS (R96). -/
def execVabs (w d a : Nat) (s : State) : Out := vUn w d a s fun w x => ofI w (toI w x).natAbs

/-- VNEG (R96). -/
def execVneg (w d a : Nat) (s : State) : Out := vUn w d a s fun w x => 2 ^ w - x

/-- VAVG_N (R96). -/
def execVavgN (w d a b : Nat) (s : State) : Out := vBin w d a b s fun _ x y => (x + y + 1) / 2

/-- VSHL (R99). -/
def execVshl (w d a b : Nat) (s : State) : Out := vBin w d a b s fun w x y => x * 2 ^ (y % w)

/-- VSHR (R99). -/
def execVshr (w d a b : Nat) (s : State) : Out := vBin w d a b s fun w x y => x / 2 ^ (y % w)

/-- VSAR (R99). -/
def execVsar (w d a b : Nat) (s : State) : Out := vBin w d a b s fun w x y => ofI w (toI w x / 2 ^ (y % w))

/-- VPOP (R99). -/
def execVpop (w d a : Nat) (s : State) : Out := vUn w d a s fun w x => popN w x

/-- VCLZ (R99). -/
def execVclz (w d a : Nat) (s : State) : Out := vUn w d a s fun w x => clzN w x

/-- VCEQ (R100). -/
def execVceq (w d a b : Nat) (s : State) : Out := vBin w d a b s fun w x y => ones w (x = y)

/-- VCNE (R100). -/
def execVcne (w d a b : Nat) (s : State) : Out := vBin w d a b s fun w x y => ones w (x ≠ y)

/-- VCLT_I (R100). -/
def execVcltI (w d a b : Nat) (s : State) : Out := vBin w d a b s fun w x y => ones w (toI w x < toI w y)

/-- VCLT_N (R100). -/
def execVcltN (w d a b : Nat) (s : State) : Out := vBin w d a b s fun w x y => ones w (x < y)

/-- VCLE_I (R100). -/
def execVcleI (w d a b : Nat) (s : State) : Out := vBin w d a b s fun w x y => ones w (toI w x ≤ toI w y)

/-- VCLE_N (R100). -/
def execVcleN (w d a b : Nat) (s : State) : Out := vBin w d a b s fun w x y => ones w (x ≤ y)

/-- VADD_SAT_I (R97). -/
def execVaddSatI (w d a b : Nat) (s : State) : Out :=
  vElem (wOf w) false d a b s fun x y =>
    clampSat (wOf w) (-(2 ^ (wOf w - 1))) (2 ^ (wOf w - 1) - 1) (toI (wOf w) x + toI (wOf w) y)

/-- VADD_SAT_N (R97). -/
def execVaddSatN (w d a b : Nat) (s : State) : Out :=
  vElem (wOf w) false d a b s fun x y => clampSat (wOf w) 0 (2 ^ wOf w - 1) ((x + y : Nat) : Int)

/-- VAND (R98). -/
def execVand (d a b : Nat) (s : State) : Out := vWhole [a, b] accV3 d s fun g l => rV g a l &&& rV g b l

/-- VOR (R98). -/
def execVor (d a b : Nat) (s : State) : Out := vWhole [a, b] accV3 d s fun g l => rV g a l ||| rV g b l

/-- VXOR (R98). -/
def execVxor (d a b : Nat) (s : State) : Out := vWhole [a, b] accV3 d s fun g l => rV g a l ^^^ rV g b l

/-- VANDN (R98). -/
def execVandn (d a b : Nat) (s : State) : Out := vWhole [a, b] accV3 d s fun g l => rV g a l &&& ~~~rV g b l

/-- VSEL (R98). -/
def execVsel (d a b : Nat) (s : State) : Out :=
  vWhole [a, b, d] accV3 d s fun g l => (rV g a l &&& rV g d l) ||| (rV g b l &&& ~~~rV g d l)

/-- VNOT (R98). -/
def execVnot (d a : Nat) (s : State) : Out := vWhole [a] accV2 d s fun g l => ~~~rV g a l

/-- VMOV (R98). -/
def execVmov (d a : Nat) (s : State) : Out := vWhole [a] accV2 d s fun g l => rV g a l

/-- VTOM (R101). -/
def execVtom (d a e : Nat) (s : State) : Out :=
  gated { acc := { pred := true, ew := true, rpt := some (false, true, false) }, rd := vR [a], wr := mR [d],
          fields := e < 64 / ewOf s } s fun g p =>
    land [.m d (maskOf fun l => (act s g p).getLsbD l && elem (ewOf s) (rV g a l) e ≠ 0)] 0

/-- MTOV (R101). -/
def execMtov (d a : Nat) (s : State) : Out :=
  gated { acc := { pred := true, rpt := some (true, false, false) }, rd := mR [a], wr := vR [d] } s fun g p =>
    land (vWrites d (actLanes s g p) fun l => if (rM s g p a).getLsbD l then BitVec.allOnes 64 else 0) 0

/-- The immediate forms: `f` answers each sub-element before it is cut to `w` bits (R109). -/
def vImm (acc : Acc) (d : Nat) (rd : List RegN) (s : State) (f : Group → Nat → Nat → Nat) : Out :=
  gated { acc := acc, rd := rd, wr := vR [d] } s fun g p =>
    land (vWrites d (actLanes s g p) fun l => mapE (ewOf s) (f g l)) 0

/-- VADDI (R109). -/
def execVaddi (d a i : Nat) (s : State) : Out :=
  vImm { accV2 with ew := true, imms := 2 } d (vR [a]) s fun g l e => elem (ewOf s) (rV g a l) e + (immS s i).toNat

/-- VMOVI (R109). -/
def execVmovi (d i : Nat) (s : State) : Out :=
  vImm { pred := true, ew := true, imms := 2, rpt := some (true, false, false) } d [] s fun _ _ _ => (immS s i).toNat

/-- VSPLAT (R109). -/
def execVsplat (d a i : Nat) (s : State) : Out :=
  vImm { accV2 with ew := true, imms := 2 } d (sR [a]) s fun g _ _ => (rS g a + immS s i).toNat

end Sys2Proof.Machine
end

