-- ==== Sys2Proof/Machine/Dispatch.lean ====
section
/-! DEFINITION. One arm per constructor of Instr: a direct call of its meaning. -/

namespace Sys2Proof.Machine

def exec (i : Instr) (s : State) : Host.Outcome State Fault Refusal :=
  match i with
  | .sadd d a b => Sys2Proof.Machine.execSadd d a b s
  | .ssub d a b => Sys2Proof.Machine.execSsub d a b s
  | .smul d a b => Sys2Proof.Machine.execSmul d a b s
  | .smulhI d a b => Sys2Proof.Machine.execSmulhI d a b s
  | .smulhN d a b => Sys2Proof.Machine.execSmulhN d a b s
  | .sdivI d a b => Sys2Proof.Machine.execSdivI d a b s
  | .sdivN d a b => Sys2Proof.Machine.execSdivN d a b s
  | .sremI d a b => Sys2Proof.Machine.execSremI d a b s
  | .sremN d a b => Sys2Proof.Machine.execSremN d a b s
  | .sminI d a b => Sys2Proof.Machine.execSminI d a b s
  | .sminN d a b => Sys2Proof.Machine.execSminN d a b s
  | .smaxI d a b => Sys2Proof.Machine.execSmaxI d a b s
  | .smaxN d a b => Sys2Proof.Machine.execSmaxN d a b s
  | .sabs d a => Sys2Proof.Machine.execSabs d a s
  | .sneg d a => Sys2Proof.Machine.execSneg d a s
  | .seq d a b => Sys2Proof.Machine.execSeq d a b s
  | .sne d a b => Sys2Proof.Machine.execSne d a b s
  | .sltI d a b => Sys2Proof.Machine.execSltI d a b s
  | .sltN d a b => Sys2Proof.Machine.execSltN d a b s
  | .sleI d a b => Sys2Proof.Machine.execSleI d a b s
  | .sleN d a b => Sys2Proof.Machine.execSleN d a b s
  | .ssel d a b => Sys2Proof.Machine.execSsel d a b s
  | .smov d a => Sys2Proof.Machine.execSmov d a s
  | .sadds d a b => Sys2Proof.Machine.execSadds d a b s
  | .sand d a b => Sys2Proof.Machine.execSand d a b s
  | .sor d a b => Sys2Proof.Machine.execSor d a b s
  | .sxor d a b => Sys2Proof.Machine.execSxor d a b s
  | .sandn d a b => Sys2Proof.Machine.execSandn d a b s
  | .snot d a => Sys2Proof.Machine.execSnot d a s
  | .sshl d a b => Sys2Proof.Machine.execSshl d a b s
  | .sshr d a b => Sys2Proof.Machine.execSshr d a b s
  | .ssar d a b => Sys2Proof.Machine.execSsar d a b s
  | .srol d a b => Sys2Proof.Machine.execSrol d a b s
  | .sror d a b => Sys2Proof.Machine.execSror d a b s
  | .sclz d a => Sys2Proof.Machine.execSclz d a s
  | .sctz d a => Sys2Proof.Machine.execSctz d a s
  | .spop d a => Sys2Proof.Machine.execSpop d a s
  | .sbfxI d a b => Sys2Proof.Machine.execSbfxI d a b s
  | .sbfxN d a b => Sys2Proof.Machine.execSbfxN d a b s
  | .sbfi d a b => Sys2Proof.Machine.execSbfi d a b s
  | .mand d a b => Sys2Proof.Machine.execMand d a b s
  | .mor d a b => Sys2Proof.Machine.execMor d a b s
  | .mxor d a b => Sys2Proof.Machine.execMxor d a b s
  | .mandn d a b => Sys2Proof.Machine.execMandn d a b s
  | .mnot d a => Sys2Proof.Machine.execMnot d a s
  | .mmov d a => Sys2Proof.Machine.execMmov d a s
  | .mpop d a => Sys2Proof.Machine.execMpop d a s
  | .mfirst d a => Sys2Proof.Machine.execMfirst d a s
  | .mtos d a => Sys2Proof.Machine.execMtos d a s
  | .stom d a => Sys2Proof.Machine.execStom d a s
  | .mbelow d a b => Sys2Proof.Machine.execMbelow d a b s
  | .saddi d a im => Sys2Proof.Machine.execSaddi d a im s
  | .sandi d a im => Sys2Proof.Machine.execSandi d a im s
  | .sori d a im => Sys2Proof.Machine.execSori d a im s
  | .sxori d a im => Sys2Proof.Machine.execSxori d a im s
  | .sshli d a im => Sys2Proof.Machine.execSshli d a im s
  | .sshri d a im => Sys2Proof.Machine.execSshri d a im s
  | .sslti d a im => Sys2Proof.Machine.execSslti d a im s
  | .sli d im => Sys2Proof.Machine.execSli d im s
  | .br o => Sys2Proof.Machine.execBr o s
  | .call o => Sys2Proof.Machine.execCall o s
  | .bc a c o => Sys2Proof.Machine.execBc a c o s
  | .vbr a c o => Sys2Proof.Machine.execVbr a c o s
  | .vadd w d a b => Sys2Proof.Machine.execVadd w d a b s
  | .vsub w d a b => Sys2Proof.Machine.execVsub w d a b s
  | .vmul w d a b => Sys2Proof.Machine.execVmul w d a b s
  | .vmulhI w d a b => Sys2Proof.Machine.execVmulhI w d a b s
  | .vmulhN w d a b => Sys2Proof.Machine.execVmulhN w d a b s
  | .vaddSatI w d a b => Sys2Proof.Machine.execVaddSatI w d a b s
  | .vaddSatN w d a b => Sys2Proof.Machine.execVaddSatN w d a b s
  | .vminI w d a b => Sys2Proof.Machine.execVminI w d a b s
  | .vminN w d a b => Sys2Proof.Machine.execVminN w d a b s
  | .vmaxI w d a b => Sys2Proof.Machine.execVmaxI w d a b s
  | .vmaxN w d a b => Sys2Proof.Machine.execVmaxN w d a b s
  | .vabs w d a => Sys2Proof.Machine.execVabs w d a s
  | .vneg w d a => Sys2Proof.Machine.execVneg w d a s
  | .vavgN w d a b => Sys2Proof.Machine.execVavgN w d a b s
  | .vand d a b => Sys2Proof.Machine.execVand d a b s
  | .vor d a b => Sys2Proof.Machine.execVor d a b s
  | .vxor d a b => Sys2Proof.Machine.execVxor d a b s
  | .vandn d a b => Sys2Proof.Machine.execVandn d a b s
  | .vnot d a => Sys2Proof.Machine.execVnot d a s
  | .vsel d a b => Sys2Proof.Machine.execVsel d a b s
  | .vmov d a => Sys2Proof.Machine.execVmov d a s
  | .vshl w d a b => Sys2Proof.Machine.execVshl w d a b s
  | .vshr w d a b => Sys2Proof.Machine.execVshr w d a b s
  | .vsar w d a b => Sys2Proof.Machine.execVsar w d a b s
  | .vpop w d a => Sys2Proof.Machine.execVpop w d a s
  | .vclz w d a => Sys2Proof.Machine.execVclz w d a s
  | .vceq w d a b => Sys2Proof.Machine.execVceq w d a b s
  | .vcne w d a b => Sys2Proof.Machine.execVcne w d a b s
  | .vcltI w d a b => Sys2Proof.Machine.execVcltI w d a b s
  | .vcltN w d a b => Sys2Proof.Machine.execVcltN w d a b s
  | .vcleI w d a b => Sys2Proof.Machine.execVcleI w d a b s
  | .vcleN w d a b => Sys2Proof.Machine.execVcleN w d a b s
  | .vtom d a e => Sys2Proof.Machine.execVtom d a e s
  | .mtov d a => Sys2Proof.Machine.execMtov d a s
  | .vfmaF32 d a b => Sys2Proof.Machine.execVfmaF32 d a b s
  | .vfmaF16 d a b => Sys2Proof.Machine.execVfmaF16 d a b s
  | .vfmaBf16 d a b => Sys2Proof.Machine.execVfmaBf16 d a b s
  | .vfmsF32 d a b => Sys2Proof.Machine.execVfmsF32 d a b s
  | .vfmsF16 d a b => Sys2Proof.Machine.execVfmsF16 d a b s
  | .vfmsBf16 d a b => Sys2Proof.Machine.execVfmsBf16 d a b s
  | .vfnmaF32 d a b => Sys2Proof.Machine.execVfnmaF32 d a b s
  | .vfnmaF16 d a b => Sys2Proof.Machine.execVfnmaF16 d a b s
  | .vfnmaBf16 d a b => Sys2Proof.Machine.execVfnmaBf16 d a b s
  | .vfaddF32 d a b => Sys2Proof.Machine.execVfaddF32 d a b s
  | .vfaddF16 d a b => Sys2Proof.Machine.execVfaddF16 d a b s
  | .vfaddBf16 d a b => Sys2Proof.Machine.execVfaddBf16 d a b s
  | .vfsubF32 d a b => Sys2Proof.Machine.execVfsubF32 d a b s
  | .vfsubF16 d a b => Sys2Proof.Machine.execVfsubF16 d a b s
  | .vfsubBf16 d a b => Sys2Proof.Machine.execVfsubBf16 d a b s
  | .vfmulF32 d a b => Sys2Proof.Machine.execVfmulF32 d a b s
  | .vfmulF16 d a b => Sys2Proof.Machine.execVfmulF16 d a b s
  | .vfmulBf16 d a b => Sys2Proof.Machine.execVfmulBf16 d a b s
  | .vfminF32 d a b => Sys2Proof.Machine.execVfminF32 d a b s
  | .vfminF16 d a b => Sys2Proof.Machine.execVfminF16 d a b s
  | .vfminBf16 d a b => Sys2Proof.Machine.execVfminBf16 d a b s
  | .vfmaxF32 d a b => Sys2Proof.Machine.execVfmaxF32 d a b s
  | .vfmaxF16 d a b => Sys2Proof.Machine.execVfmaxF16 d a b s
  | .vfmaxBf16 d a b => Sys2Proof.Machine.execVfmaxBf16 d a b s
  | .vfminnumF32 d a b => Sys2Proof.Machine.execVfminnumF32 d a b s
  | .vfminnumF16 d a b => Sys2Proof.Machine.execVfminnumF16 d a b s
  | .vfminnumBf16 d a b => Sys2Proof.Machine.execVfminnumBf16 d a b s
  | .vfmaxnumF32 d a b => Sys2Proof.Machine.execVfmaxnumF32 d a b s
  | .vfmaxnumF16 d a b => Sys2Proof.Machine.execVfmaxnumF16 d a b s
  | .vfmaxnumBf16 d a b => Sys2Proof.Machine.execVfmaxnumBf16 d a b s
  | .vfceqF32 d a b => Sys2Proof.Machine.execVfceqF32 d a b s
  | .vfceqF16 d a b => Sys2Proof.Machine.execVfceqF16 d a b s
  | .vfceqBf16 d a b => Sys2Proof.Machine.execVfceqBf16 d a b s
  | .vfcltF32 d a b => Sys2Proof.Machine.execVfcltF32 d a b s
  | .vfcltF16 d a b => Sys2Proof.Machine.execVfcltF16 d a b s
  | .vfcltBf16 d a b => Sys2Proof.Machine.execVfcltBf16 d a b s
  | .vfcleF32 d a b => Sys2Proof.Machine.execVfcleF32 d a b s
  | .vfcleF16 d a b => Sys2Proof.Machine.execVfcleF16 d a b s
  | .vfcleBf16 d a b => Sys2Proof.Machine.execVfcleBf16 d a b s
  | .vfcunF32 d a b => Sys2Proof.Machine.execVfcunF32 d a b s
  | .vfcunF16 d a b => Sys2Proof.Machine.execVfcunF16 d a b s
  | .vfcunBf16 d a b => Sys2Proof.Machine.execVfcunBf16 d a b s
  | .vfabsF32 d a => Sys2Proof.Machine.execVfabsF32 d a s
  | .vfabsF16 d a => Sys2Proof.Machine.execVfabsF16 d a s
  | .vfabsBf16 d a => Sys2Proof.Machine.execVfabsBf16 d a s
  | .vfnegF32 d a => Sys2Proof.Machine.execVfnegF32 d a s
  | .vfnegF16 d a => Sys2Proof.Machine.execVfnegF16 d a s
  | .vfnegBf16 d a => Sys2Proof.Machine.execVfnegBf16 d a s
  | .vfclassF32 d a => Sys2Proof.Machine.execVfclassF32 d a s
  | .vfclassF16 d a => Sys2Proof.Machine.execVfclassF16 d a s
  | .vfclassBf16 d a => Sys2Proof.Machine.execVfclassBf16 d a s
  | .vfcopysignF32 d a b => Sys2Proof.Machine.execVfcopysignF32 d a b s
  | .vfcopysignF16 d a b => Sys2Proof.Machine.execVfcopysignF16 d a b s
  | .vfcopysignBf16 d a b => Sys2Proof.Machine.execVfcopysignBf16 d a b s
  | .vcvtF16F32 d a p => Sys2Proof.Machine.execVcvtF16F32 d a p s
  | .vcvtBf16F32 d a p => Sys2Proof.Machine.execVcvtBf16F32 d a p s
  | .vcvtF32F16 d a p => Sys2Proof.Machine.execVcvtF32F16 d a p s
  | .vcvtF32Bf16 d a p => Sys2Proof.Machine.execVcvtF32Bf16 d a p s
  | .vcvtI32F32 d a => Sys2Proof.Machine.execVcvtI32F32 d a s
  | .vcvtN32F32 d a => Sys2Proof.Machine.execVcvtN32F32 d a s
  | .vcvtF32I32 d a => Sys2Proof.Machine.execVcvtF32I32 d a s
  | .vcvtF32N32 d a => Sys2Proof.Machine.execVcvtF32N32 d a s
  | .vcvtF8e4F32 d a p => Sys2Proof.Machine.execVcvtF8e4F32 d a p s
  | .vcvtF8e5F32 d a p => Sys2Proof.Machine.execVcvtF8e5F32 d a p s
  | .vcvtF32F8e4 d a p => Sys2Proof.Machine.execVcvtF32F8e4 d a p s
  | .vcvtF32F8e5 d a p => Sys2Proof.Machine.execVcvtF32F8e5 d a p s
  | .vcvtF6e2F32 d a p => Sys2Proof.Machine.execVcvtF6e2F32 d a p s
  | .vcvtF6e3F32 d a p => Sys2Proof.Machine.execVcvtF6e3F32 d a p s
  | .vcvtF4F32 d a p => Sys2Proof.Machine.execVcvtF4F32 d a p s
  | .vcvtF32F6e2 d a p => Sys2Proof.Machine.execVcvtF32F6e2 d a p s
  | .vcvtF32F6e3 d a p => Sys2Proof.Machine.execVcvtF32F6e3 d a p s
  | .vcvtF32F4 d a p => Sys2Proof.Machine.execVcvtF32F4 d a p s
  | .vcvtI8I32 d a p => Sys2Proof.Machine.execVcvtI8I32 d a p s
  | .vrcpSeed d a => Sys2Proof.Machine.execVrcpSeed d a s
  | .vrsqSeed d a => Sys2Proof.Machine.execVrsqSeed d a s
  | .vexpRed d a k => Sys2Proof.Machine.execVexpRed d a k s
  | .vlogRed d a k => Sys2Proof.Machine.execVlogRed d a k s
  | .vscRed d a k => Sys2Proof.Machine.execVscRed d a k s
  | .vldexp d a b => Sys2Proof.Machine.execVldexp d a b s
  | .vgetexp d a => Sys2Proof.Machine.execVgetexp d a s
  | .vgetman d a => Sys2Proof.Machine.execVgetman d a s
  | .vfrac d a => Sys2Proof.Machine.execVfrac d a s
  | .vfrnd d a => Sys2Proof.Machine.execVfrnd d a s
  | .vscFix d a b => Sys2Proof.Machine.execVscFix d a b s
  | .vaddi d a im => Sys2Proof.Machine.execVaddi d a im s
  | .vmovi d im => Sys2Proof.Machine.execVmovi d im s
  | .vsplat d a im => Sys2Proof.Machine.execVsplat d a im s
  | .vshfl d a b => Sys2Proof.Machine.execVshfl d a b s
  | .vshfleE32 d a b => Sys2Proof.Machine.execVshfleE32 d a b s
  | .vpswap d a k => Sys2Proof.Machine.execVpswap d a k s
  | .vprefixAddI32 d a => Sys2Proof.Machine.execVprefixAddI32 d a s
  | .vprefixAddF32 d a => Sys2Proof.Machine.execVprefixAddF32 d a s
  | .vredAddI32 d a => Sys2Proof.Machine.execVredAddI32 d a s
  | .vredAddF32 d a => Sys2Proof.Machine.execVredAddF32 d a s
  | .vredMaxI32 d a => Sys2Proof.Machine.execVredMaxI32 d a s
  | .vredMaxF32 d a => Sys2Proof.Machine.execVredMaxF32 d a s
  | .vmaxidxF16 d a => Sys2Proof.Machine.execVmaxidxF16 d a s
  | .vmaxidxF32 d a => Sys2Proof.Machine.execVmaxidxF32 d a s
  | .vcompact d a b => Sys2Proof.Machine.execVcompact d a b s
  | .vexpand d a b => Sys2Proof.Machine.execVexpand d a b s
  | .vlaneid d => Sys2Proof.Machine.execVlaneid d s
  | .vvoteAll d a => Sys2Proof.Machine.execVvoteAll d a s
  | .vvoteAny d a => Sys2Proof.Machine.execVvoteAny d a s
  | .vballot d a => Sys2Proof.Machine.execVballot d a s
  | .qswpH d a => Sys2Proof.Machine.execQswpH d a s
  | .qswpV d a => Sys2Proof.Machine.execQswpV d a s
  | .qswpD d a => Sys2Proof.Machine.execQswpD d a s
  | .qbcast d a b => Sys2Proof.Machine.execQbcast d a b s
  | .vpkpx d a f => Sys2Proof.Machine.execVpkpx d a f s
  | .vunpx d a f => Sys2Proof.Machine.execVunpx d a f s
  | .vpkmx d a f => Sys2Proof.Machine.execVpkmx d a f s
  | .vunmx d a f => Sys2Proof.Machine.execVunmx d a f s
  | .vget d a im => Sys2Proof.Machine.execVget d a im s
  | .vput d a im => Sys2Proof.Machine.execVput d a im s
  | .vbcast d a im => Sys2Proof.Machine.execVbcast d a im s
  | .vbfly d a im => Sys2Proof.Machine.execVbfly d a im s
  | .vrot d a im => Sys2Proof.Machine.execVrot d a im s
  | .qbcastI d a p => Sys2Proof.Machine.execQbcastI d a p s
  | .vld32 d a im => Sys2Proof.Machine.execVld32 d a im s
  | .vld64 d a im => Sys2Proof.Machine.execVld64 d a im s
  | .vst32 d a im => Sys2Proof.Machine.execVst32 d a im s
  | .vst64 d a im => Sys2Proof.Machine.execVst64 d a im s
  | .vld16 d a im => Sys2Proof.Machine.execVld16 d a im s
  | .vst16 d a im => Sys2Proof.Machine.execVst16 d a im s
  | .vld8 d a im => Sys2Proof.Machine.execVld8 d a im s
  | .vst8 d a im => Sys2Proof.Machine.execVst8 d a im s
  | .sld d a im => Sys2Proof.Machine.execSld d a im s
  | .sst d a im => Sys2Proof.Machine.execSst d a im s
  | .spld d a im => Sys2Proof.Machine.execSpld d a im s
  | .spst d a im => Sys2Proof.Machine.execSpst d a im s
  | .vldx32 d a b => Sys2Proof.Machine.execVldx32 d a b s
  | .vldx64 d a b => Sys2Proof.Machine.execVldx64 d a b s
  | .vstx32 d a b => Sys2Proof.Machine.execVstx32 d a b s
  | .vstx64 d a b => Sys2Proof.Machine.execVstx64 d a b s
  | .vldx16 d a b => Sys2Proof.Machine.execVldx16 d a b s
  | .vstx16 d a b => Sys2Proof.Machine.execVstx16 d a b s
  | .vldx8 d a b => Sys2Proof.Machine.execVldx8 d a b s
  | .vstx8 d a b => Sys2Proof.Machine.execVstx8 d a b s
  | .fence => Sys2Proof.Machine.execFence s
  | .vprefetch l a b => Sys2Proof.Machine.execVprefetch l a b s
  | .atomAddE32 d a b => Sys2Proof.Machine.execAtomAddE32 d a b s
  | .atomAddE64 d a b => Sys2Proof.Machine.execAtomAddE64 d a b s
  | .atomMinI32 d a b => Sys2Proof.Machine.execAtomMinI32 d a b s
  | .atomMinN32 d a b => Sys2Proof.Machine.execAtomMinN32 d a b s
  | .atomMaxI32 d a b => Sys2Proof.Machine.execAtomMaxI32 d a b s
  | .atomMaxN32 d a b => Sys2Proof.Machine.execAtomMaxN32 d a b s
  | .atomAndB64 d a b => Sys2Proof.Machine.execAtomAndB64 d a b s
  | .atomOrB64 d a b => Sys2Proof.Machine.execAtomOrB64 d a b s
  | .atomXorB64 d a b => Sys2Proof.Machine.execAtomXorB64 d a b s
  | .atomXchgE32 d a b => Sys2Proof.Machine.execAtomXchgE32 d a b s
  | .atomXchgE64 d a b => Sys2Proof.Machine.execAtomXchgE64 d a b s
  | .atomCasE32 d a b => Sys2Proof.Machine.execAtomCasE32 d a b s
  | .atomCasE64 d a b => Sys2Proof.Machine.execAtomCasE64 d a b s
  | .atomFaddF32 d a b => Sys2Proof.Machine.execAtomFaddF32 d a b s
  | .atomFaddBf16x2 d a b => Sys2Proof.Machine.execAtomFaddBf16x2 d a b s
  | .atomMaxidxF16 d a b => Sys2Proof.Machine.execAtomMaxidxF16 d a b s
  | .gang a k => Sys2Proof.Machine.execGang a k s
  | .mma t a k => Sys2Proof.Machine.execMma t a k s
  | .mmat t a b k => Sys2Proof.Machine.execMmat t a b k s
  | .mprom t b => Sys2Proof.Machine.execMprom t b s
  | .acczero t => Sys2Proof.Machine.execAcczero t s
  | .wbld a b k => Sys2Proof.Machine.execWbld a b k s
  | .wbfree a => Sys2Proof.Machine.execWbfree a s
  | .fmtchk a b k => Sys2Proof.Machine.execFmtchk a b k s
  | .sxld a k => Sys2Proof.Machine.execSxld a k s
  | .sxrun k => Sys2Proof.Machine.execSxrun k s
  | .sxst a k => Sys2Proof.Machine.execSxst a k s
  | .sxstat a => Sys2Proof.Machine.execSxstat a s
  | .sxabort k => Sys2Proof.Machine.execSxabort k s
  | .acopy a b => Sys2Proof.Machine.execAcopy a b s
  | .acopyo a b k => Sys2Proof.Machine.execAcopyo a b k s
  | .agath a b => Sys2Proof.Machine.execAgath a b s
  | .ascat a b k => Sys2Proof.Machine.execAscat a b k s
  | .acoll a b k => Sys2Proof.Machine.execAcoll a b k s
  | .mcast a b k => Sys2Proof.Machine.execMcast a b k s
  | .tstat a b => Sys2Proof.Machine.execTstat a b s
  | .trel a k => Sys2Proof.Machine.execTrel a k s
  | .talloc a b k => Sys2Proof.Machine.execTalloc a b k s
  | .tglook a b => Sys2Proof.Machine.execTglook a b s
  | .tgset a b => Sys2Proof.Machine.execTgset a b s
  | .tgclr a k => Sys2Proof.Machine.execTgclr a k s
  | .bopen a b => Sys2Proof.Machine.execBopen a b s
  | .bclose a k => Sys2Proof.Machine.execBclose a k s
  | .bld a b => Sys2Proof.Machine.execBld a b s
  | .bchk a k => Sys2Proof.Machine.execBchk a k s
  | .bfetch a b => Sys2Proof.Machine.execBfetch a b s
  | .bstat a b k => Sys2Proof.Machine.execBstat a b k s
  | .ret a => Sys2Proof.Machine.execRet a s
  | .brx a => Sys2Proof.Machine.execBrx a s
  | .rcv c => Sys2Proof.Machine.execRcv c s
  | .allon => Sys2Proof.Machine.execAllon s
  | .alloff => Sys2Proof.Machine.execAlloff s
  | .regroup d a b => Sys2Proof.Machine.execRegroup d a b s
  | .yield => Sys2Proof.Machine.execYield s
  | .nop => Sys2Proof.Machine.execNop s
  | .exit => Sys2Proof.Machine.execExit s
  | .callx d a => Sys2Proof.Machine.execCallx d a s
  | .fork t a b k => Sys2Proof.Machine.execFork t a b k s
  | .join a => Sys2Proof.Machine.execJoin a s
  | .fend => Sys2Proof.Machine.execFend s
  | .hold => Sys2Proof.Machine.execHold s
  | .release => Sys2Proof.Machine.execRelease s
  | .frstat a b k => Sys2Proof.Machine.execFrstat a b k s
  | .bar k => Sys2Proof.Machine.execBar k s
  | .bara a k => Sys2Proof.Machine.execBara a k s
  | .barw a k => Sys2Proof.Machine.execBarw a k s
  | .cbar k => Sys2Proof.Machine.execCbar k s
  | .waitc c => Sys2Proof.Machine.execWaitc c s
  | .seqw a b => Sys2Proof.Machine.execSeqw a b s
  | .sleep a => Sys2Proof.Machine.execSleep a s
  | .qput a b => Sys2Proof.Machine.execQput a b s
  | .qtake a b => Sys2Proof.Machine.execQtake a b s
  | .qstat a b => Sys2Proof.Machine.execQstat a b s
  | .amsg a b => Sys2Proof.Machine.execAmsg a b s
  | .dturn a b k => Sys2Proof.Machine.execDturn a b k s
  | .submit a b => Sys2Proof.Machine.execSubmit a b s
  | .arowRd d a b => Sys2Proof.Machine.execArowRd d a b s
  | .arowWr d a b => Sys2Proof.Machine.execArowWr d a b s
  | .acolRd d a b => Sys2Proof.Machine.execAcolRd d a b s
  | .acolWr d a b => Sys2Proof.Machine.execAcolWr d a b s
  | .arowRdb d a b => Sys2Proof.Machine.execArowRdb d a b s
  | .arowAdd d a b => Sys2Proof.Machine.execArowAdd d a b s
  | .trap n => Sys2Proof.Machine.execTrap n s
  | .rett m r => Sys2Proof.Machine.execRett m r s
  | .rinj d k im h => Sys2Proof.Machine.execRinj d k im h s
  | .sysrd d n => Sys2Proof.Machine.execSysrd d n s
  | .syswr a n => Sys2Proof.Machine.execSyswr a n s
  | .halt c sc => Sys2Proof.Machine.execHalt c sc s
  | .mboxSend a => Sys2Proof.Machine.execMboxSend a s
  | .mboxRecv a => Sys2Proof.Machine.execMboxRecv a s
  | .brk n => Sys2Proof.Machine.execBrk n s
  | .ucnt d r k => Sys2Proof.Machine.execUcnt d r k s
  | .attest a b => Sys2Proof.Machine.execAttest a b s
  | .hint g p => Sys2Proof.Machine.execHint g p s
  | .srseedWrite a => Sys2Proof.Machine.execSrseedWrite a s
  | .hbperiodWrite a => Sys2Proof.Machine.execHbperiodWrite a s
  | .hbmodeWrite a => Sys2Proof.Machine.execHbmodeWrite a s
  | .gangWrite a => Sys2Proof.Machine.execGangWrite a s
  | .divspillSpill a => Sys2Proof.Machine.execDivspillSpill a s
  | .divspillDrop a => Sys2Proof.Machine.execDivspillDrop a s
  | .divspillOpen a => Sys2Proof.Machine.execDivspillOpen a s
  | .create c => Sys2Proof.Machine.execCreate c s
  | .regkernel c => Sys2Proof.Machine.execRegkernel c s
  | .regregion c => Sys2Proof.Machine.execRegregion c s
  | .regtask c => Sys2Proof.Machine.execRegtask c s
  | .regqueue c => Sys2Proof.Machine.execRegqueue c s
  | .grant c => Sys2Proof.Machine.execGrant c s
  | .shrink c => Sys2Proof.Machine.execShrink c s
  | .resume c => Sys2Proof.Machine.execResume c s
  | .switch c => Sys2Proof.Machine.execSwitch c s
  | .migrate c => Sys2Proof.Machine.execMigrate c s
  | .destroy c => Sys2Proof.Machine.execDestroy c s
  | .launch c => Sys2Proof.Machine.execLaunch c s
  | .resync c => Sys2Proof.Machine.execResync c s
  | .setbanks c => Sys2Proof.Machine.execSetbanks c s
  | .setsort c => Sys2Proof.Machine.execSetsort c s
  | .resolve c => Sys2Proof.Machine.execResolve c s
  | .abort c => Sys2Proof.Machine.execAbort c s
  | .alloc c => Sys2Proof.Machine.execAlloc c s
  | .free c => Sys2Proof.Machine.execFree c s
  | .dirtylog c => Sys2Proof.Machine.execDirtylog c s
  | .setdomain c => Sys2Proof.Machine.execSetdomain c s
  | .setlinknet c => Sys2Proof.Machine.execSetlinknet c s
  | .bind c => Sys2Proof.Machine.execBind c s
  | .allot c => Sys2Proof.Machine.execAllot c s
  | .badcmd c => Sys2Proof.Machine.execBadcmd c s
  | .badseq q => Sys2Proof.Machine.execBadseq q s
  | .doorbell v => Sys2Proof.Machine.execDoorbell v s
  | .eqlostClear v => Sys2Proof.Machine.execEqlostClear v s
  | .h2ptail v => Sys2Proof.Machine.execH2ptail v s
  | .ptroot v => Sys2Proof.Machine.execPtroot v s
  | .inval v => Sys2Proof.Machine.execInval v s
  | .powerRun v => Sys2Proof.Machine.execPowerRun v s
  | .powerCapped v => Sys2Proof.Machine.execPowerCapped v s
  | .powerRetention v => Sys2Proof.Machine.execPowerRetention v s
  | .imgGo v => Sys2Proof.Machine.execImgGo v s
  | .hostRegisterWrite off v => Sys2Proof.Machine.execHostRegisterWrite off v s
  | .hostMemoryAccess wr pa n v => Sys2Proof.Machine.execHostMemoryAccess wr pa n v s
  | .invalidationComplete => Sys2Proof.Machine.execInvalidationComplete s
  | .imageVerified ok => Sys2Proof.Machine.execImageVerified ok s
  | .reset => Sys2Proof.Machine.execReset s
  | .firmwareCheckEnd ok => Sys2Proof.Machine.execFirmwareCheckEnd ok s
  | .powerLoss => Sys2Proof.Machine.execPowerLoss s
  | .thermalLimit die temp => Sys2Proof.Machine.execThermalLimit die temp s
  | .thermalLift => Sys2Proof.Machine.execThermalLift s
  | .thermalTrip die temp => Sys2Proof.Machine.execThermalTrip die temp s
  | .quiescenceEnd c => Sys2Proof.Machine.execQuiescenceEnd c s
  | .contextScrubEnd c => Sys2Proof.Machine.execContextScrubEnd c s
  | .migrationExportEnd c => Sys2Proof.Machine.execMigrationExportEnd c s
  | .kernelDone k => Sys2Proof.Machine.execKernelDone k s
  | .allotment core c => Sys2Proof.Machine.execAllotment core c s
  | .evictionBound core c => Sys2Proof.Machine.execEvictionBound core c s
  | .evictedRequeue r => Sys2Proof.Machine.execEvictedRequeue r s
  | .wake g p => Sys2Proof.Machine.execWake g p s
  | .heartbeatTick core c => Sys2Proof.Machine.execHeartbeatTick core c s
  | .heartbeatTickMode1 g => Sys2Proof.Machine.execHeartbeatTickMode1 g s
  | .promotion g p => Sys2Proof.Machine.execPromotion g p s
  | .promoted g p => Sys2Proof.Machine.execPromoted g p s
  | .spawnForward r => Sys2Proof.Machine.execSpawnForward r s
  | .recordClaim g p start => Sys2Proof.Machine.execRecordClaim g p start s
  | .frameSpill g p => Sys2Proof.Machine.execFrameSpill g p s
  | .tileFillEnd o => Sys2Proof.Machine.execTileFillEnd o s
  | .tileDrainEnd o => Sys2Proof.Machine.execTileDrainEnd o s
  | .engineCompletion o => Sys2Proof.Machine.execEngineCompletion o s
  | .mcastDelivery o t => Sys2Proof.Machine.execMcastDelivery o t s
  | .sortLoadEnd core => Sys2Proof.Machine.execSortLoadEnd core s
  | .sortRunEnd core => Sys2Proof.Machine.execSortRunEnd core s
  | .sortStop core => Sys2Proof.Machine.execSortStop core s
  | .sortStoreEnd core => Sys2Proof.Machine.execSortStoreEnd core s
  | .sortSoftError core => Sys2Proof.Machine.execSortSoftError core s
  | .matrixResult o => Sys2Proof.Machine.execMatrixResult o s
  | .wbldSlotLoaded o => Sys2Proof.Machine.execWbldSlotLoaded o s
  | .loadReply o => Sys2Proof.Machine.execLoadReply o s
  | .atomicReply o => Sys2Proof.Machine.execAtomicReply o s
  | .homeAccess o lanes l1 => Sys2Proof.Machine.execHomeAccess o lanes l1 s
  | .walkComplete w => Sys2Proof.Machine.execWalkComplete w s
  | .pageScrubStart die f => Sys2Proof.Machine.execPageScrubStart die f s
  | .pageScrubEnd f => Sys2Proof.Machine.execPageScrubEnd f s
  | .memoryError die kind pa => Sys2Proof.Machine.execMemoryError die kind pa s
  | .packetCheckFailure o kind die stop port => Sys2Proof.Machine.execPacketCheckFailure o kind die stop port s
  | .lostNotice o => Sys2Proof.Machine.execLostNotice o s
  | .transactionTimeout o => Sys2Proof.Machine.execTransactionTimeout o s
  | .linkFailure link => Sys2Proof.Machine.execLinkFailure link s
  | .activeMessageArrival m => Sys2Proof.Machine.execActiveMessageArrival m s
  | .bundleCommit die im => Sys2Proof.Machine.execBundleCommit die im s
  | .bundleInstall die im line => Sys2Proof.Machine.execBundleInstall die im line s
  | .versionFetch o e => Sys2Proof.Machine.execVersionFetch o e s
  | .installResend die im line => Sys2Proof.Machine.execInstallResend die im line s
  | .bundleSoftError die im => Sys2Proof.Machine.execBundleSoftError die im s
  | .turnStart b => Sys2Proof.Machine.execTurnStart b s
  | .turnEnd b g => Sys2Proof.Machine.execTurnEnd b g s
  | .handlerStart part => Sys2Proof.Machine.execHandlerStart part s
  | .attach m => Sys2Proof.Machine.execAttach m s
  | .detach m => Sys2Proof.Machine.execDetach m s
  | .porterHalt m => Sys2Proof.Machine.execPorterHalt m s
  | .porterResume m => Sys2Proof.Machine.execPorterResume m s
  | .porterStep m => Sys2Proof.Machine.execPorterStep m s
  | .stepgrp m => Sys2Proof.Machine.execStepgrp m s
  | .setbrk m => Sys2Proof.Machine.execSetbrk m s
  | .clrbrk m => Sys2Proof.Machine.execClrbrk m s
  | .rdreg m => Sys2Proof.Machine.execRdreg m s
  | .wrreg m => Sys2Proof.Machine.execWrreg m s
  | .rdmem m => Sys2Proof.Machine.execRdmem m s
  | .wrmem m => Sys2Proof.Machine.execWrmem m s
  | .illopEncoding => Sys2Proof.Machine.execIllopEncoding s
  | .eqHeadWrite v => Sys2Proof.Machine.execEqHeadWrite v s
  | .mboxBaseWrite which v => Sys2Proof.Machine.execMboxBaseWrite which v s

end Sys2Proof.Machine
end

