-- ==== Sys2Proof/Machine/Sched.lean ====
section
/-! DEFINITION. What happens next: the agenda, the events that are due, the path that issues, its fetch, and the passage
of arithmetic cycles (R65, R66, R72, R225, R244, R357, R358; log 1). -/

namespace Sys2Proof.Machine

/-- What fetching a run came to: the run, or the state in which the path parked or trapped (R72 step 1). -/
inductive Fetch where
  | run (r : Run)
  | stop (s : State)

/-- The run at `pc`, word by word in address order, at most `fuel` words; `ws` are those read (R65, R72). -/
def fetchRun (s : State) (g : Group) (p : Path) : Nat → List Nat → Fetch
  | 0, _ => .run .illop
  | fuel + 1, ws =>
    match parseRun 4 Prefixes.none 0 ws with
    | .more =>
      let va := (p.pc + BitVec.ofNat 64 (4 * ws.length)).toNat
      if badVa va then .stop (trapAt .perm va s)
      else if p.aborted && p.permFail.any fun f => f.2.2 = 0 && inPage f.1 f.2.1 va then .stop (trapAt .perm va s)
      else match trOne s g.place.core g.ctx va Need.fetch false with
        | .key k => fetchRun s g p fuel (ws ++ [s.rd k 4])
        | .perm => .stop (trapAt .perm va s)
        | .miss =>
          if p.failsAt va then .stop (trapAt .perm va s)
          else .stop (wantWalk (s.modPath fun p => { p with cond := .parked 1 }) g.place.core g.ctx (pageOf va) Need.fetch s.iss.gid s.iss.slot)
    | r => .run r

/-- Words of the longest run: rpt, mod, two imm words, the instruction, and one word more to see a fault (R65). -/
def runMax : Nat := 7

/-- The state as the path `slot` of `gid` comes to issue: nothing is decoded yet. -/
def issHere (s : State) (gid slot : Nat) (p : Path) : State :=
  { s with iss := { gid := gid, slot := slot, addr := p.pc, at_ := p.pc, next := p.pc + 4, pre := Prefixes.none, rep := p.rep } }

/-- The address after the run at pc, where its words can be read. -/
def runNext (s : State) (g : Group) (p : Path) : W64 :=
  match fetchRun s g p runMax [] with
  | .run (.instr _ _ k) => p.pc + BitVec.ofNat 64 (4 * (k + 1))
  | _ => p.pc + 4

/-- The comparator that stops the path at its pc (R357). -/
def cmpHit (s : State) (g : Group) (p : Path) : Option Nat :=
  match s.ctx? g.ctx with
  | none => none
  | some x =>
    if p.rep ≠ 0 then none
    else (List.find? (fun (c : Nat × Nat) => c.2 = p.pc.toNat && !p.skipCmp.contains c.1) x.cmps).map Prod.fst

/-- A trap at the boundary before the path's next instruction (R27, R246, R357, R358). -/
def boundaryTrap (s : State) (g : Group) (p : Path) : Option TrapRec :=
  match p.fpx with
  | some t => some t
  | none =>
    if p.stepReq = 2 then
      some { cause := .step, data := 1, addr := p.stepAt, next := p.stepNext, rep := p.rep, after_ := true }
    else if p.fmem then
      some { cause := .framemem, data := 0, addr := p.pc, next := runNext s g p, rep := p.rep, after_ := false }
    else (cmpHit s g p).map fun k =>
      { cause := .brk, data := BitVec.ofNat 64 k, addr := p.pc, next := runNext s g p, rep := p.rep, after_ := false }

/-- A path has taken ILLOP. -/
def tookIllop (s : State) (gid slot : Nat) : Bool :=
  match (s.path? gid slot).map Path.cond with
  | some (.trapped t) => t.cause = .illop
  | _ => false

/-- A register that a step takes out of its range is judged at step 8 of R72, after the steps that can raise ILLOP: these are judged on
the word as it stands, as by a group that no handler right and no double fault concerns. -/
noncomputable def steppedOut (s : State) (gid slot word : Nat) : Out :=
  match decodeWord word with
  | none => exec .illopEncoding s
  | some i =>
    match exec i (s.modGroup gid fun g => { g with kind := .grid }) with
    | .next t => .next (if tookIllop t gid slot then trapAt .illop 0 s else trapAt .regbound 0 s)
    | o => o

/-- The memory that the words of a run come from is read by the context (R318). -/
def fetchSeen (s : State) (g : Group) (p : Path) (n : Nat) : State :=
  (List.range n).foldl (fun s i =>
    match trOne s g.place.core g.ctx (p.pc + BitVec.ofNat 64 (4 * i)).toNat Need.fetch false with
    | .key k => readSeen g.ctx k 4 s
    | _ => s) s

/-- THE INSTRUCTION OF A RUN runs: its word, stepped for the repetition (R63), decoded (R72). -/
noncomputable def runInstr (s : State) (p : Path) (gid slot : Nat) (pre : Prefixes) (word at_ : Nat) : Out :=
  let s1 : State := { s with iss := {
    gid := gid, slot := slot, addr := p.pc, at_ := p.pc + BitVec.ofNat 64 (4 * at_), next := p.pc + BitVec.ofNat 64 (4 * (at_ + 1)),
    pre := pre, rep := p.rep } }
  let s2 := s1.modPath fun p => if p.stepReq = 1 then { p with stepAt := p.pc, stepNext := s1.iss.next } else p
  match (match pre.rpt with | none => some word | some r => stepWord word p.rep r) with
  | none => steppedOut s2 gid slot word
  | some w =>
    match decodeWord w with
    | some i => exec i s2
    | none => exec .illopEncoding s2

/-- The pipe of an instruction by its major opcode: scalar, vector, memory, matrix, and one for everything else. The spec names the
vector pipe only (DESIGN CHOICE, log 43). -/
def pipeOf (major : Nat) : Nat :=
  if major ≤ 0x0F then 0
  else if major ≤ 0x1C || major = 0x33 then 1
  else if major ≤ 0x2A || major = 0x2E then 2
  else if major = 0x2B then 3
  else 4

def vectorPipe : Nat := 1

/-- The word is of an instruction that draws under .sr (R25). -/
def wordDraws (w : Nat) : Bool :=
  let fn := fld w 21 5
  match fld w 26 6 with
  | 0x14 => fn < 18
  | 0x16 => [0, 1, 4, 5, 6, 7, 8, 9, 12, 13, 14].contains fn
  | 0x17 => [5, 9].contains fn
  | 0x1B => [4, 6, 21, 22, 23, 24].contains fn
  | 0x33 => [4, 5].contains fn
  | _ => false

/-- What the issue of a path would be: its pipe, and whether it draws (R25, R225). -/
def issueOf (s : State) (x : Nat × Nat) : Issue :=
  let other : Issue := { gid := x.1, slot := x.2, pipe := 4, draws := false }
  match s.group? x.1, s.path? x.1 x.2 with
  | some g, some p =>
    (match fetchRun (issHere s x.1 x.2 p) g p runMax [] with
      | .run (.instr pre w _) =>
        { other with pipe := pipeOf (fld w 26 6), draws := wordDraws w && rmode { s with iss := { s.iss with pre := pre } } g = 5 }
      | _ => other)
  | _, _ => other

/-- Paths of a context issue: it is resident, and the device has its clocks (Table CTX.1, Table HST.2). -/
def mayRun (s : State) (c : Nat) : Bool :=
  s.boot = .ready && (s.power.st = .run || s.power.st = .capped) && (s.ctx? c).map Ctx.st = some .resident

/-- A context stops, and what it issued before the stop still issues where it waits no longer (R191, R260). -/
def mayLand (s : State) (c : Nat) : Bool :=
  s.boot = .ready && (s.power.st = .run || s.power.st = .capped) && (s.ctx? c).map Ctx.st = some .quiescing

/-- What a path waits for is the arrival of its group's other paths, among others. -/
def Path.awaitsOthers (p : Path) : Bool :=
  match p.cond with
  | .waiting (.rcv _) => true
  | .waiting (.bar _ _ _) => true
  | .waiting (.barAgain _ _ _) => true
  | _ => false

/-- A path with a lower %slot of the group is to step first, and its step is not done: it is ready, parked or waits, but not for
the other paths of its group (R358; log 99). -/
def stepsFirst (g : Group) (slot : Nat) : Bool :=
  g.paths.any fun q => q.1 < slot && q.2.stepReq = 1 && !q.2.halted && !q.2.held && !q.2.awaitsOthers &&
    (match q.2.cond with | .trapped _ => false | _ => true)

/-- A tick that is due for the group strikes before it issues (R244, R245). -/
def tickFirst (s : State) (g : Group) : Bool := g.tickDue || (s.hb g.place.core g.ctx).due

/-- The path is ready to issue in this cycle: it has not issued in it, and no gap, tick or promotion stands before its next
instruction (R58, R223, R225, R234, R238, R245, R358). -/
def mayIssue (s : State) (gid slot : Nat) : Bool :=
  match s.group? gid, s.path? gid slot with
  | some g, some p =>
    g.resident && (mayRun s g.ctx || (mayLand s g.ctx && p.landing)) && p.cond = .ready && !p.held && !p.halted && p.gap = 0 && !tickFirst s g && !promoNow s g p &&
      !(p.stepReq = 1 && stepsFirst g slot) && (s.part g.place.partIx).issued.all fun i => i.gid ≠ gid || i.slot ≠ slot
  | _, _ => false

/-- `a` has its turn before `b`: a path that has had none comes first, of two such the one of the lower group and %slot; then the
path whose last turn is longest ago (R225; log 43). -/
def sooner (rr : List (Nat × Nat)) (a b : Nat × Nat) : Bool :=
  match rr.findIdx? (· = a), rr.findIdx? (· = b) with
  | none, none => a.1 < b.1 || (a.1 = b.1 && a.2 < b.2)
  | none, some _ => true
  | some _, none => false
  | some i, some j => i < j

/-- The paths of a partition that are ready to issue, in the order of their turns (R225). -/
def readyPaths (s : State) (part : Nat) : List (Nat × Nat) :=
  let l := (s.groups.filter fun (g : Nat × Group) => g.2.resident && g.2.place.partIx = part).flatMap fun g =>
    (g.2.paths.map fun p => (g.1, p.1)).filter fun x => mayIssue s x.1 x.2
  l.insertionSort fun a b => sooner (s.part part).rr a b = true

/-- Those that may have the next turn: a group that has given way waits while another group of the partition is ready (R58, R89). -/
def rrOrder (s : State) (part : Nat) : List (Nat × Nat) :=
  let l := readyPaths s part
  let others := l.filter fun x => x.1 ≠ (s.part part).gw
  if others.isEmpty then l else others

/-- Two instructions may issue in one cycle: to different pipes, or to the vector pipe from paths of one group (R225). -/
def paired (a b : Issue) : Bool := a.pipe ≠ b.pipe || (a.pipe = vectorPipe && a.gid = b.gid)

/-- The draws of a path come before another's in the same cycle: of the lower position, of the lower %slot (R25). -/
def drawsFirst (s : State) (a b : Nat × Nat) : Bool :=
  let pos (x : Nat × Nat) : Nat := ((s.group? x.1).map fun g => g.place.pos).getD 0
  pos a < pos b || (pos a = pos b && a.2 < b.2)

/-- The second instruction of a cycle may follow the first: they pair, and it would not have had to draw before it (R25, R225). -/
def follows (s : State) (e x : Issue) : Bool :=
  paired e x && !(e.draws && x.draws && drawsFirst s (x.gid, x.slot) (e.gid, e.slot))

/-- WHOSE TURN IT IS in a partition (R25, R225): first in round-robin order, then the next path whose instruction may issue in the same
cycle. Of two that draw, the one whose draws come first issues first (log 43). -/
def turn (s : State) (part : Nat) : Option Issue :=
  let l := (rrOrder s part).map (issueOf s)
  match (s.part part).issued with
  | [] =>
    match l with
    | [] => none
    | f :: rest =>
      match rest.find? (paired f) with
      | some x => some (if f.draws && x.draws && drawsFirst s (x.gid, x.slot) (f.gid, f.slot) then x else f)
      | none => some f
  | [e] => l.find? (follows s e)
  | _ => none

/-- The issue of a path is noted: the path goes behind all others of the partition, which has no group left that gives way, and its
group has begun (R225, Table GRP.1). -/
def noteIssue (i : Issue) (s : State) : State :=
  match s.group? i.gid with
  | none => s
  | some g =>
    let s1 := if g.begun then s else s.modGroup i.gid fun g => { g with begun := true }
    s1.modPart g.place.partIx fun p =>
      { p with
        issued := p.issued ++ [i], gw := 0
        rr := (p.rr.filter fun x => x ≠ (i.gid, i.slot) && (s.group? x.1).isSome) ++ [(i.gid, i.slot)] }

/-- A PATH ISSUES: a trap due at this boundary, else the instruction at its pc. -/
noncomputable def issuePath (i : Issue) (s : State) : Out :=
  match s.group? i.gid, s.path? i.gid i.slot with
  | some g, some p =>
    let s0 := issHere (noteIssue i s) i.gid i.slot p
    match boundaryTrap s0 g p with
    | some t => .next ((trapPath s0 i.gid i.slot t).modPathAt i.gid i.slot fun p =>
        { p with stepReq := if p.stepReq = 2 then 0 else p.stepReq, fmem := p.fmem && t.cause ≠ .framemem })
    | none =>
      match fetchRun s0 g p runMax [] with
      | .stop s1 => .next s1
      | .run (.instr pre w k) => runInstr (fetchSeen s0 g p (k + 1)) p i.gid i.slot pre w k
      | .run _ => exec .illopEncoding s0
  | _, _ => .next s

/-- The partitions with resident groups. -/
def usedParts (s : State) : List Nat := ((s.groups.filter fun (g : Nat × Group) => g.2.resident).map fun g => g.2.place.partIx).eraseDups

/-- The path that issues next: of the first partition where one has its turn. -/
def pickPath (s : State) : Option Issue := (usedParts s).findSome? (turn s)

/-- The path has its turn now. -/
def hasTurn (s : State) (gid slot : Nat) : Option Issue :=
  (s.group? gid).bind fun g => (turn s g.place.partIx).bind fun i => if i.gid = gid && i.slot = slot then some i else none

/-- The heartbeat counts of a core under %hbmode 0 rise (R244). -/
def beatCore (s : State) (core : Nat) (k : Core) : Core :=
  { k with hb := k.hb.mapV fun c h =>
      if h.mode = 0 && (s.ctx? c).map Ctx.st = some .resident && ownsCore s c core then
        if h.period ≤ h.count + 1 then { h with count := 0, due := true } else { h with count := h.count + 1 }
      else h }

/-- Heartbeat registers listed for every resident context on each core it owns a quadrant of. -/
def listHb (s : State) : State :=
  s.quads.foldl (fun s q =>
    let c := q.2.owner
    if c ≠ 0 && (s.ctx? c).map Ctx.st = some .resident && ((s.core (q.1 / 4)).hb.find? c).isNone then
      s.modCore (q.1 / 4) fun k => { k with hb := k.hb.put c Hb.reset }
    else s) s

/-- The request at the head of each allotment queue takes the cycle in which it came to stand there (R218). -/
def markHeads (s : State) : State :=
  s.cores.foldl (fun s k => k.2.allot.foldl (fun (s : State) (a : Nat × List Nat) =>
    match a.2 with
    | r :: _ => { s with reqs := s.reqs.adjust r fun q => if q.headAt.isNone then { q with headAt := some s.cycles } else q }
    | [] => s) s) s

/-- Network cycles that end with the arithmetic cycle: the torus moves in each (R14, R330). -/
def netCycles : Nat → State → State
  | 0, s => s
  | n + 1, s =>
    if s.clocks.edge + s.clocks.net ≤ s.clocks.ticks then
      netCycles n (torusCycle { s with clocks := { s.clocks with edge := s.clocks.edge + s.clocks.net, nets := s.clocks.nets + 1 } })
    else s

/-- The array at the end of a cycle: a step, and the pause of a run whose context quiesces (R172, R183). -/
def sortCycle (s : State) (core : Nat) (x : SortArr) : SortArr :=
  let y := x.tick
  if y.st = .running && sortQuiesces s core then { y with paused := true } else y

/-- The issue gaps of a group run down, but not of a path that waits at a blocking point (R238). -/
def gapCycle (s : State) (gid : Nat) (g : Group) : Group :=
  { g with paths := g.paths.mapV fun i p => if p.gap = 0 || atBlock s gid i p then p else { p with gap := p.gap - 1 } }

/-- THE ARITHMETIC CYCLE ENDS (R14, R172, R218, R225, R238, R244, R363); in retention time passes and all other state is held
(Table HST.2). -/
def cycle (s : State) : State :=
  if !powered s then s
  else if s.power.st = .retention then imageRead { s with clocks := { s.clocks with ticks := s.clocks.ticks + s.clocks.ar } }
  else
    let s0 := markHeads s
    let s1 := listHb (imageRead { s0 with cycles := s.cycles + 1, clocks := { s.clocks with ticks := s.clocks.ticks + s.clocks.ar } })
    let s2 : State := { s1 with
      groups := s1.groups.mapV fun i g => gapCycle s1 i g
      parts := s1.parts.mapV fun _ p => { p with issued := [] }
      cores := s1.cores.mapV fun i k => { beatCore s1 i k with sort := sortCycle s1 i k.sort } }
    netCycles s2.clocks.ar s2

/-- The instruction of a command record (Table KRN.1). -/
noncomputable def cmdInstr (c : Cmd) : Instr :=
  match c.op with
  | 1 => .create c | 2 => .regkernel c | 3 => .regregion c | 4 => .regtask c | 5 => .regqueue c | 6 => .grant c | 7 => .shrink c
  | 8 => .resume c | 9 => .switch c | 10 => .migrate c | 11 => .destroy c | 12 => .launch c | 13 => .resync c | 14 => .setbanks c
  | 15 => .setsort c | 16 => .resolve c | 17 => .abort c | 18 => .alloc c | 19 => .free c | 20 => .dirtylog c | 21 => .setdomain c
  | 22 => .setlinknet c | 23 => .bind c | 24 => .allot c | _ => .badcmd c

/-- The instruction of a mailbox message (Table TRP.6). -/
noncomputable def msgInstr (m : Msg) : List Instr :=
  match m.op with
  | 1 => [.attach m] | 2 => [.detach m] | 3 => [.porterHalt m] | 4 => [.porterResume m] | 5 => [.porterStep m] | 6 => [.stepgrp m]
  | 7 => [.setbrk m] | 8 => [.clrbrk m] | 9 => [.rdreg m] | 10 => [.wrreg m] | 11 => [.rdmem m] | 12 => [.wrmem m] | _ => []

/-- What may happen to a kernel queue: its next record, or the command in progress (R201, R202, R219). -/
noncomputable def queueEvents (s : State) (i : Nat) (q : KQueue) : List Instr :=
  match q.busy with
  | some c => if c.op = 7 then [.shrink c] else []
  | none => match qNext s i with
    | some (c, _) => [if c.seq = q.doneSeq + 1 then cmdInstr c else .badseq i]
    | none => []

/-- What may happen to an operation in flight. -/
noncomputable def opEvents (o : Nat) (op : Op) : List Instr :=
  (match op.kind with
    | .mem _ => [.homeAccess o [] true, .loadReply o, .atomicReply o]
    | .fence _ _ => [.homeAccess o [] true]
    | .eng e => ((if e.fn = 5 then e.todo.filter (· < 64) else []).map fun t => Instr.mcastDelivery o t) ++
        [.homeAccess o [] true, .tileFillEnd o, .tileDrainEnd o, .engineCompletion o]
    | .mat _ _ _ => [.matrixResult o]
    | .wb _ _ _ _ _ _ _ _ _ _ => [.wbldSlotLoaded o]
    | .submit _ _ _ _ _ _ => [.homeAccess o [] true, .loadReply o]
    | .bclose h _ => [.bundleCommit h.die h.idx]
    | .bfetch _ todo _ => todo.map fun e => .versionFetch o e.1
    | .amsg m => [.activeMessageArrival m]) ++ [.lostNotice o, .transactionTimeout o]

/-- A packet whose identity is not its buffer's is dropped at its input (R326). -/
noncomputable def packetEvents (s : State) : List Instr :=
  s.packets.filterMap fun p => if p.job = .op && identityBad s p then
    some (.packetCheckFailure p.op 3 p.pos.at_.1 p.pos.at_.2.1 p.pos.at_.2.2) else none

/-- What may happen to a path or its group. Claims by a handler group, which never forks, and spills in the
background happen by the agenda only (R240, R242, R251; log 1). -/
noncomputable def pathEvents (gid : Nat) (g : Group) (slot : Nat) (p : Path) : List Instr :=
  (match p.cond with | .waiting _ => [Instr.wake gid slot] | _ => []) ++
  (if p.promo then [.promotion gid slot] else []) ++
  (if (oldest p .promoting).isSome then [.promoted gid slot] else []) ++
  (if g.nrec ≠ 0 && p.reserve.length < 2 && !g.isHandler then [.recordClaim gid slot 0] else [])

noncomputable def groupEvents (gid : Nat) (g : Group) : List Instr :=
  (if g.tickDue then [Instr.heartbeatTickMode1 gid] else []) ++ g.paths.flatMap fun p => pathEvents gid g p.1 p.2

/-- What may happen on a core. -/
noncomputable def coreEvents (i : Nat) (k : Core) : List Instr :=
  (k.hb.filterMap fun h => if h.2.due then some (Instr.heartbeatTick i h.1) else none) ++
  (k.allot.flatMap fun a => [.allotment i a.1, .evictionBound i a.1]) ++
  (match k.sort.st with | .loading => [.sortLoadEnd i] | .running => [.sortRunEnd i, .sortStop i] | .storing => [.sortStoreEnd i] | _ => [])

/-- What may happen to an allotment request. -/
noncomputable def reqEvents (i : Nat) (r : Req) : List Instr :=
  if r.placed then [] else match r.kind with | .spawn _ => [.spawnForward i, .evictedRequeue i] | _ => [.evictedRequeue i]

/-- What may happen on a die. -/
noncomputable def dieEvents (i : Nat) (d : Die) : List Instr :=
  (d.walks.map fun w => Instr.walkComplete w.1) ++ d.dirs.flatMap fun x => x.2.wait.map fun l => .bundleInstall i x.1 l

/-- What may happen to a context. -/
noncomputable def ctxEvents (i : Nat) (x : Ctx) : List Instr :=
  match x.st with
  | .quiescing => [.quiescenceEnd i]
  | .scrubbing => [.contextScrubEnd i]
  | .migrating => [.migrationExportEnd i]
  | _ => []

/-- What may happen at the host port and the security controller. -/
noncomputable def hostEvents (s : State) : List Instr :=
  (if s.boot = .checking then [Instr.firmwareCheckEnd (bootOk s)] else []) ++
  (if s.host.imgSt = .verifying then [.imageVerified (imageOk s.host.imgBuf)] else []) ++
  (if s.host.invRun.isSome then [.invalidationComplete] else []) ++
  (match msgAt s with | some m => msgInstr m | none => [])

/-- What may happen at a die boundary. -/
noncomputable def boundEvents (i : Nat) (b : Bound) : List Instr :=
  if b.queue.isEmpty then [] else .turnStart i :: b.turning.map fun g => .turnEnd i g.1

/-- Everything that the device may do by itself. -/
noncomputable def candidates (s : State) : List Instr :=
  hostEvents s ++ (s.groups.flatMap fun g => groupEvents g.1 g.2) ++ (s.ops.flatMap fun o => opEvents o.1 o.2) ++ packetEvents s ++
  (s.dies.flatMap fun d => dieEvents d.1 d.2) ++ (s.parts.flatMap fun p => if p.2.trapq.isEmpty then [] else [Instr.handlerStart p.1]) ++
  (s.cores.flatMap fun k => coreEvents k.1 k.2) ++ (s.reqs.flatMap fun r => reqEvents r.1 r.2) ++
  (s.kernels.flatMap fun k => if k.2.st = .finishing then [Instr.kernelDone k.1] else []) ++
  (s.queues.flatMap fun q => queueEvents s q.1 q.2) ++ (s.ctxs.flatMap fun x => ctxEvents x.1 x.2) ++
  (s.pages.flatMap fun p => if p.2 = .scrubbing then [Instr.pageScrubEnd p.1] else []) ++
  ((wantedFrames s).flatMap fun f => (List.range Config.dies).map fun d => Instr.pageScrubStart d f) ++
  (s.bounds.flatMap fun b => boundEvents b.1 b.2)

/-- The event changes the state. -/
def acts (s : State) (i : Instr) : Bool := match exec i s with | .next t => t ≠ s | _ => false

/-- The event that happens next. -/
noncomputable def dueEvent (s : State) : Option Instr := (candidates s).find? (acts s)

/-- An event, command or host access: it has no instruction word. -/
def isEvent (i : Instr) : Bool := encode i = 0 && i ≠ .illopEncoding

/-- The pipes released: what is in flight lands in issue order (log 6). -/
def release (s : State) : State := s.pipe.foldl landE { s with pipe := [], pipeHold := false }

/-- Ticks that are due, the promotions they give, and evictions that are due: they come before any issue and before the cycle passes
(R218, R244, R245). -/
noncomputable def tickEvents (s : State) : List Instr :=
  (s.cores.flatMap fun k => (k.2.hb.filterMap fun h => if h.2.due then some (Instr.heartbeatTick k.1 h.1) else none) ++
    k.2.allot.map fun a => Instr.evictionBound k.1 a.1) ++
  s.groups.flatMap fun g => (if g.2.tickDue then [Instr.heartbeatTickMode1 g.1] else []) ++
    g.2.paths.filterMap fun p => if p.2.promo then some (Instr.promotion g.1 p.1) else none

/-- The tick, promotion or eviction that comes first. -/
noncomputable def tickDueNow (s : State) : Option Instr := (tickEvents s).find? (acts s)

/-- System software lowers the clocks, or raises them again, under a cap (R14; log 17). -/
def setClocks (ar net : Nat) (s : State) : State :=
  if s.power.st = .capped && Clocks.reset.ar ≤ ar && Clocks.reset.net ≤ net then { s with clocks := s.clocks.at_ ar net } else s

/-- The Porter's firmware goes on at an address, which the spec does not give (R356; log 37). -/
def porterAt (gid : Nat) (pc : W64) (s : State) : State :=
  s.modPathAt gid 0 fun p => if p.cond = .waiting .porter then { p with cond := .ready, pc := pc } else p

/-- One entry of the agenda (log 1); of cycles that pass, the first. -/
noncomputable def agendaStep (a : Act) (s : State) : Out :=
  match a with
  | .event i => if isEvent i then exec i s else .next s
  | .issue gid slot => (match hasTurn s gid slot with | some i => issuePath i s | none => .next s)
  | .hold b => .next (if b then { s with pipeHold := true } else release s)
  | .tick n => .next (match n with | 0 => s | k + 1 => { cycle s with agenda := .tick k :: s.agenda })
  | .porterAt gid pc => .next (porterAt gid pc s)
  | .damage gid kind n => .next (s.modGroup gid fun g => { g with damaged := g.damaged ++ [(kind, n)] })
  | .inject o k => .next (inject s o k)
  | .send j => .next (sendJob s j)
  | .hop n => .next (hopOne s n)
  | .clock ar net => .next (setClocks ar net s)
  | .linkCtx c r => .next (linkCtx c r s)
  | .peerMcast l n d c src core tile gen off data => .next (peerMcast l n d c src core tile gen off data s)
  | .peerSubmit l n d c an re => .next (peerSubmit l n d c an re s)
  | .peerAmsg l n m => .next (peerAmsg l n m s)
  | .peerAccess l n d c k pa w x y b => .next (peerAccess l n d c k pa w x y b s)
  | .peerDir d die i e => .next (peerDir d die i e s)

/-- The entry lets an instruction issue, or a cycle pass. -/
def Act.timed : Act → Bool
  | .issue _ _ => true
  | .tick _ => true
  | _ => false

/-- WHAT HAPPENS NEXT: the head of the agenda, where it is an issue or a cycle only once no tick is due; else a due event; else the path
whose turn it is issues, in the running arithmetic cycle; else the cycle ends. -/
noncomputable def nextStep (s : State) : Out :=
  match s.agenda with
  | a :: t =>
    match (if a.timed then tickDueNow s else none) with
    | some i => exec i s
    | none => agendaStep a { s with agenda := t }
  | [] =>
    match dueEvent s with
    | some i => exec i s
    | none =>
      match pickPath s with
      | some i => issuePath i s
      | none => .next (cycle s)

/-- A context that is resident, has no log and registers nothing: what a program loaded from outside runs in (log 40). -/
def loadedCtx : Ctx :=
  { st := .resident, debugen := false, attested := false, logBase := 0, logSize := 64, logTail := 0, logLost := 0, net := [(0, 0)],
    ptTop := none, fx := [], kregs := [], regions := [], satc := false, tasks := [], dirtyLog := 0, porter := false, porterEver := false,
    cmps := [], reportSeq := 0, link := [], hist := [], after_ := none, exportAddr := 0, image := none, replays := [], logSeq := 0,
    scrub := [] }

/-- The virtual and physical address of a loaded program. -/
def loadAddr : Nat := 0x10000

/-- The device ready, with context 1 resident on quadrant 0 of core 0, its code page translated, and one group of it in
position 0 whose path stands at the loaded program (log 40). -/
def loaded (s : State) : State :=
  let g := Group.start s 1 { place := { core := 0, quad := 0, part := 0, pos := 0 }, base := 0, budget := 128, frags := 0 } .grid
    (BitVec.ofNat 64 loadAddr) (BitVec.allOnes 32)
  let t : Tlb := { ctx := 1, va := loadAddr, size := 0, pa := loadAddr, r := true, w := true, x := true, d := true, mig := false, leaf := 0, page := 0 }
  { (s.modQuad 0 fun q => { q with owner := 1 }).modCore 0 (fun k => { k with tlb := t :: k.tlb }) with
    boot := .ready, power := { s.power with st := .run }, ctxs := s.ctxs.put 1 loadedCtx
    groups := s.groups.put s.nextId { g with grp := 0 }, nextId := s.nextId + 1, agenda := [.issue s.nextId 0] }

/-- The program loaded where a device without a path that is ready starts it. -/
def loadCode (bs : List Byte) (s : State) : State := loaded { s with mem := putBytes s.mem loadAddr bs }

/-- No tick or eviction is due and no promotion pending. -/
def noTick (s : State) : Bool :=
  (s.cores.all fun k => (k.2.hb.all fun h => !h.2.due) && k.2.allot.all fun a => (evictNow s k.1 a.1).isNone) && s.groups.all fun g => !g.2.tickDue && g.2.paths.all fun p => !p.2.promo

/-- Bytes written where the path whose turn it is fetches, if it can issue them in the next step; else a loaded program. -/
def placeCode (bs : List Byte) (s : State) : State :=
  match pickPath s with
  | some i =>
    (match s.group? i.gid, s.path? i.gid i.slot with
      | some g, some p =>
        (match trOne s g.place.core g.ctx p.pc.toNat Need.fetch false with
          | .key k =>
            let t : State := { s with mem := putBytes s.mem k bs, agenda := [.issue i.gid i.slot] }
            if (hasTurn t i.gid i.slot).isSome && noTick t then t else loadCode bs s
          | _ => loadCode bs s)
      | _, _ => loadCode bs s)
  | none => loadCode bs s

end Sys2Proof.Machine
end

