-- ==== Sys2Proof/Machine/Step.lean ====
section
/-! DEFINITION. The step of the device, and the placing of an instruction where the next step fetches. -/

namespace Sys2Proof.Machine

/-- ONE STEP (log 1). -/
noncomputable def step (s : State) : Host.Outcome State Fault Refusal := nextStep s

/-- `s` with the instruction whose bits are `w` where the next step fetches: its word, lowest byte first, and zeros up
to the longest run (R51, R65). Where no path is ready to issue, a program is loaded from outside (log 40). -/
def State.withFetchWord (s : State) (nbits w : Nat) : State := placeCode (bytesLE 28 (w % 2 ^ nbits)) s

end Sys2Proof.Machine
end

