-- ==== Sys2Proof/Safety.lean ====
section
/-! DEFINITION. What claims say of a run: that a step goes on, and the invariants that steps keep. -/

namespace Sys2Proof

/-- The instruction or event goes on: it answers a next state, neither a fault nor a refusal. -/
def Completes (i : Instr) (s : Machine.State) : Prop := ∃ t, Machine.exec i s = .next t

/-- `exec i s` answers the next state `t`. -/
abbrev Runs (i : Instr) (s t : Machine.State) : Prop := Machine.exec i s = .next t

/-- The canonical form of memory (log 3). -/
def MemOk (s : Machine.State) : Prop := Machine.Memory.wf s.mem = true

/-- What the device as a whole is, beside what its contexts do: its clocks, its boot and power state, its firmware
images, its domain number, routing and network tables and failed links; and the schedule's own fields. -/
structure SameDevice (s t : Machine.State) : Prop where
  iss      : t.iss = s.iss
  pipeHold : t.pipeHold = s.pipeHold
  cycles   : t.cycles = s.cycles
  clocks   : t.clocks = s.clocks
  clkBase  : t.clkBase = s.clkBase
  boot     : t.boot = s.boot
  power    : t.power = s.power
  image    : t.image = s.image
  staged   : t.staged = s.staged
  domain   : t.domain = s.domain
  routing  : t.routing = s.routing
  linkNet  : t.linkNet = s.linkNet
  linkDown : t.linkDown = s.linkDown

namespace Claims
open Sys2Proof.Machine

/-- The group and the path that issue in a state. -/
structure Issuing (s : State) (g : Group) (p : Path) : Prop where
  group : s.group? s.iss.gid = some g
  path  : g.paths.find? s.iss.slot = some p

/-- ADMITTED: steps 5 to 9 of R72 find nothing, a form that rounds has a mode (R24), no earlier operation still holds a register that
the instruction names, its predicate among them (R60, R75, R132, R341), and none that it reads is damaged (R342). -/
structure Admitted (a : Adm) (s : State) (g : Group) (p : Path) : Prop extends Issuing s g p where
  prefixes : prefixOk a.acc s.iss.pre = true
  fields   : a.fields = true
  who      : a.who.ok g = true
  budget   : ∀ r ∈ a.rd ++ a.wr, outOfBudget g r = false
  full     : a.full = true → p.mask = BitVec.allOnes 32
  noM0     : (2, 0) ∉ a.wr
  rounding : a.acc.rnd = true → rmode s g < 6
  pipes    : pipeBusy s (a.named s) = false
  score    : scoreBusy s s.iss.gid s.iss.slot p (a.named s) = false
  sound    : ∀ c ∈ g.damaged, cellReg c ∉ a.rd ++ predReg s.iss.pre

/-- The path after its instruction: at the next repetition under rpt, else after the run (R64). -/
def nextPath (s : State) (p : Path) : Path :=
  if s.iss.rep + 1 < s.iss.count then { p.fresh with rep := s.iss.rep + 1 } else { p.fresh with pc := s.iss.next, rep := 0 }

/-- The FPX trap that raised flags make due, where one of them is enabled (R27). -/
def fpxDue (s : State) (g : Group) (p : Path) (fl : Nat) : Option TrapRec :=
  if fl &&& fld g.fpmode.toNat 5 5 = 0 then p.fpx
  else p.fpx.or (some { cause := .fpx, data := BitVec.ofNat 64 fl, addr := s.iss.addr, next := s.iss.next, rep := s.iss.nextRep, after_ := true })

/-- The group's heartbeat count and due tick after an instruction that counts (R244, R256): only under %hbmode = 1, and
once per instruction (R370). -/
def countedBeat (s : State) (g : Group) (p : Path) : Nat × Bool :=
  let h := s.hb g.place.core g.ctx
  if p.counted || h.mode ≠ 1 then (g.hbCount, g.tickDue)
  else if h.period ≤ g.hbCount + 1 then (0, true) else (g.hbCount + 1, g.tickDue)

/-- THE STATE `t` AFTER ARITHMETIC issued in `s`: the registers read as `rs`, `rv`, `rm` say, the flags `fl` are raised
(sticky), the path goes on, and nothing else of the state changes, memory and every other group and path included. `x` is
`s` with the draws of .sr taken from the partition's generator (R25); a damaged register stays damaged unless it is one of the
destinations `w` (R342). -/
def Computes (s x t : State) (g : Group) (p : Path) (w : List RegN) (rs : Nat → W64) (rv : Nat → Nat → W64) (rm : Nat → W32) (fl : Nat) : Prop :=
  t = { x with groups := t.groups } ∧
  (∀ j, j ≠ s.iss.gid → t.group? j = s.group? j) ∧
  ∃ g' p', t.group? s.iss.gid = some g' ∧ g'.paths.find? s.iss.slot = some p' ∧
    (∀ n, rS g' n = rs n) ∧ (∀ n l, l < 32 → rV g' n l = rv n l) ∧ (∀ n, n ≠ 0 → g'.m.get 0 n = rm n) ∧
    (∀ c ∈ g'.damaged, c ∈ g.damaged) ∧ (∀ c ∈ g.damaged, cellReg c ∉ w → c ∈ g'.damaged) ∧
    g' = { g with s := g'.s, v := g'.v, m := g'.m, damaged := g'.damaged, fpflags := g.fpflags ||| BitVec.ofNat 64 fl, paths := g'.paths,
                  hbCount := (countedBeat s g p).1, tickDue := (countedBeat s g p).2 } ∧
    (∀ j, j ≠ s.iss.slot → g'.paths.find? j = g.paths.find? j) ∧
    p' = { nextPath s p with fpx := fpxDue s g p fl }

/-- The scalar registers after S(d) := v; s0 takes no write (R47). -/
def setS (g : Group) (d : Nat) (v : W64) (n : Nat) : W64 := if n = d ∧ n ≠ 0 then v else rS g n
/-- The vector registers after V(d, l) := f l for each acting lane (R60). -/
def setV (s : State) (g : Group) (p : Path) (d : Nat) (f : Nat → W64) (n l : Nat) : W64 :=
  if n = d ∧ (act s g p).getLsbD l then f l else rV g n l
/-- The mask registers after M(d) := x. -/
def setM (g : Group) (d : Nat) (x : W32) (n : Nat) : W32 := if n = d then x else g.m.get 0 n

/-- The state `u` with the issuing instruction counted, under the heartbeat registers as they then stand (R244, R370), and the
issuing path changed by `f`. -/
def passes (s : State) (g : Group) (p : Path) (f : Path → Path) (u : State) : State :=
  u.modGroup s.iss.gid fun h =>
    { h with
      hbCount := (countedBeat u g p).1
      tickDue := (countedBeat u g p).2
      paths := h.paths.adjust s.iss.slot f }

/-- THE PATH GOES ON after its instruction, whose effect left the state `u`. -/
def goesOn (s : State) (g : Group) (p : Path) (u : State) : State := passes s g p (nextPath s) u

/-- THE PATH GOES ON at `t`. -/
def goesTo (s : State) (g : Group) (p : Path) (t : W64) (u : State) : State :=
  passes s g p (fun q => { q.fresh with pc := t, rep := 0 }) u

/-- THE PATH WAITS, and takes its instruction again when the wait ends; waiters are stamped in order (R175, R207). -/
def waitsOn (s : State) (g : Group) (p : Path) (w : Wake) (u : State) : State :=
  passes s g p (fun q => { q.wait w u.nextId with counted := true }) { u with nextId := u.nextId + 1 }

/-- THE PATH WAITS inside its instruction, and goes on at `t` when the wait ends. -/
def waitsThen (s : State) (g : Group) (p : Path) (w : Wake) (t : W64) (u : State) : State :=
  passes s g p (fun q => { q.wait w u.nextId with counted := true, after_ := t }) { u with nextId := u.nextId + 1 }

/-- The trap record of the issuing instruction, for a trap taken before it (Table TRP.3, Table TRP.4). -/
def trapBefore (s : State) (c : Cause) (data : Nat) : TrapRec :=
  { cause := c, data := BitVec.ofNat 64 data, addr := s.iss.addr, next := s.iss.next, rep := s.iss.rep, after_ := false }

/-- The trap record of the issuing instruction, for a trap taken after it. -/
def trapDone (s : State) (c : Cause) (data : Nat) : TrapRec :=
  { cause := c, data := BitVec.ofNat 64 data, addr := s.iss.addr, next := s.iss.next, rep := s.iss.nextRep, after_ := true }

/-- A TRAP IS TAKEN by the issuing path of a group that is no handler: the path is trapped with the record `r`, its arithmetic
in flight moves to the group's replay queue, and it waits for the partition's handler position (R340, R341, R344). -/
def trapped (s : State) (g : Group) (r : TrapRec) (u : State) : State :=
  let mine (e : PipeE) : Bool := e.gid = s.iss.gid && e.slot = s.iss.slot
  (({ u with pipe := u.pipe.filter fun e => !mine e } : State).modPart g.place.partIx fun q =>
    { q with trapq := q.trapq ++ [(s.iss.gid, s.iss.slot)] }).modGroup s.iss.gid fun h =>
      { h with
        replay := h.replay ++ u.pipe.filter mine
        paths := h.paths.adjust s.iss.slot fun q => { q with cond := .trapped r, fpx := none, since := 0, woken := none } }

/-- THE ISSUING INSTRUCTION TRAPS before it takes effect, having been admitted. -/
def trapsBefore (s : State) (g : Group) (p : Path) (c : Cause) (data : Nat) (u : State) : State :=
  passes s g p (fun q => { q with counted := true }) (trapped s g (trapBefore s c data) u)

/-- THE ISSUING INSTRUCTION TRAPS after it takes effect; `u` is the state with that effect. -/
def trapsAfter (s : State) (g : Group) (p : Path) (c : Cause) (data : Nat) (u : State) : State :=
  passes s g p (nextPath s) (trapped s g (trapDone s c data) u)

/-- One register of the issuing group written. -/
def wrote (w : RegW) (s : State) : State := s.modGroup s.iss.gid fun h => h.put1 w

/-- The issuing group is no handler group: its traps are not double faults (R346). -/
def Ordinary (g : Group) : Prop := g.isHandler = false

/-- `t` differs from `s` in the record of the issuing group alone, which is now `h`. -/
def OnlyGroup (s t : State) (h : Group) : Prop :=
  t = { s with groups := t.groups } ∧ (∀ j, j ≠ s.iss.gid → t.group? j = s.group? j) ∧ t.group? s.iss.gid = some h

end Claims

end Sys2Proof
end

