-- ==== Sys2Proof/Certificates/Slice0/Obligations.lean ====
section
/-! DEFINITION. The statements for the provers. Each is a claim about the machine, drawn from the numbered rules of the
spec; what the model chose is named as its choice in the docstring. -/

/-! ## Terms that the statements share -/

namespace Sys2Proof.Claims
open Sys2Proof Sys2Proof.Machine

/-- What an arithmetic instruction is to do: what it asks to be admitted, the number of draws under .sr, its results as a
function of those draws, and the flags it raises. -/
structure Effect where
  adm   : Adm
  draws : Nat := 0
  rs    : List Nat → Nat → W64
  rv    : List Nat → Nat → Nat → W64
  rm    : List Nat → Nat → W32
  fl    : List Nat → Nat

/-- The draws that an instruction takes under the rounding mode .sr (R25). -/
def drawn (s : State) (g : Group) (n : Nat) : List Nat :=
  if n ≠ 0 ∧ rmode s g = 5 then (drawList n (s.part g.place.partIx).srseed.toNat).1 else []
/-- The state with those draws taken. -/
def drawnFrom (s : State) (g : Group) (n : Nat) : State :=
  if n ≠ 0 ∧ rmode s g = 5 then
    s.modPart g.place.partIx fun q => { q with srseed := BitVec.ofNat 32 (drawList n (s.part g.place.partIx).srseed.toNat).2 }
  else s

/-- Admitted instructions of a family COMPLETE with exactly their effect. -/
def Completed (f : State → Group → Path → Instr → Option Effect) : Prop :=
  ∀ (i : Instr) (s : State) (g : Group) (p : Path) (e : Effect), f s g p i = some e → Admitted e.adm s g p →
    s.pipeHold = false → ∃ t, exec i s = .next t ∧
      Computes s (drawnFrom s g e.draws) t g p e.adm.wr (e.rs (drawn s g e.draws)) (e.rv (drawn s g e.draws)) (e.rm (drawn s g e.draws))
        (e.fl (drawn s g e.draws))

/-- A scalar register written. -/
def effS (g : Group) (acc : Acc) (rd : List RegN) (d : Nat) (v : W64) : Option Effect :=
  some { adm := { acc := acc, rd := rd, wr := sR [d] }, rs := fun _ => setS g d v, rv := fun _ => rV g, rm := fun _ n => g.m.get 0 n,
         fl := fun _ => 0 }
/-- A mask register written. -/
def effM (g : Group) (acc : Acc) (rd : List RegN) (d : Nat) (x : W32) : Option Effect :=
  some { adm := { acc := acc, rd := rd, wr := mR [d] }, rs := fun _ => rS g, rv := fun _ => rV g, rm := fun _ => setM g d x, fl := fun _ => 0 }
/-- A vector register written lane by lane, with no flag. -/
def effV (s : State) (g : Group) (p : Path) (acc : Acc) (rd : List RegN) (d : Nat) (f : Nat → W64) : Option Effect :=
  some { adm := { acc := acc, rd := rd, wr := vR [d] }, rs := fun _ => rS g, rv := fun _ => setV s g p d f, rm := fun _ n => g.m.get 0 n,
         fl := fun _ => 0 }

/-- A truth value as a scalar result. -/
def truth (b : Prop) [Decidable b] : W64 := if b then 1 else 0

/-- R78: the quotient of a signed division, toward zero; −1 for a zero divisor. -/
def sdivI (a b : W64) : W64 := if b = 0 then BitVec.ofInt 64 (-1) else BitVec.ofInt 64 (a.toInt.tdiv b.toInt)

/-- Scalar, bit and mask instructions (R77 to R83): the result of each. `S n` is S(n), `M n` is M(n). -/
def scalarEffect (s : State) (g : Group) (p : Path) (i : Instr) : Option Effect :=
  let S := rS g
  let M := rM s g p
  match i with
  | .sadd d a b => effS g accS3 (sR [a, b]) d (S a + S b)
  | .ssub d a b => effS g accS3 (sR [a, b]) d (S a - S b)
  | .smul d a b => effS g accS3 (sR [a, b]) d (S a * S b)
  | .smulhI d a b => effS g accS3 (sR [a, b]) d (BitVec.ofInt 64 ((S a).toInt * (S b).toInt / 2 ^ 64))
  | .smulhN d a b => effS g accS3 (sR [a, b]) d (BitVec.ofNat 64 ((S a).toNat * (S b).toNat / 2 ^ 64))
  | .sdivI d a b => effS g accS3 (sR [a, b]) d (sdivI (S a) (S b))
  | .sdivN d a b => effS g accS3 (sR [a, b]) d (if S b = 0 then BitVec.allOnes 64 else S a / S b)
  | .sremI d a b => effS g accS3 (sR [a, b]) d (if S b = 0 then S a else S a - sdivI (S a) (S b) * S b)
  | .sremN d a b => effS g accS3 (sR [a, b]) d (if S b = 0 then S a else S a % S b)
  | .sminI d a b => effS g accS3 (sR [a, b]) d (if (S a).toInt ≤ (S b).toInt then S a else S b)
  | .sminN d a b => effS g accS3 (sR [a, b]) d (if (S a).toNat ≤ (S b).toNat then S a else S b)
  | .smaxI d a b => effS g accS3 (sR [a, b]) d (if (S b).toInt ≤ (S a).toInt then S a else S b)
  | .smaxN d a b => effS g accS3 (sR [a, b]) d (if (S b).toNat ≤ (S a).toNat then S a else S b)
  | .sabs d a => effS g accS2 (sR [a]) d (if (S a).toInt < 0 then -S a else S a)
  | .sneg d a => effS g accS2 (sR [a]) d (0 - S a)
  | .seq d a b => effS g accS3 (sR [a, b]) d (truth (S a = S b))
  | .sne d a b => effS g accS3 (sR [a, b]) d (truth (S a ≠ S b))
  | .sltI d a b => effS g accS3 (sR [a, b]) d (truth ((S a).toInt < (S b).toInt))
  | .sltN d a b => effS g accS3 (sR [a, b]) d (truth ((S a).toNat < (S b).toNat))
  | .sleI d a b => effS g accS3 (sR [a, b]) d (truth ((S a).toInt ≤ (S b).toInt))
  | .sleN d a b => effS g accS3 (sR [a, b]) d (truth ((S a).toNat ≤ (S b).toNat))
  | .ssel d a b => effS g accS3 (sR [a, b, d]) d (if S d ≠ 0 then S a else S b)
  | .smov d a => effS g accS2 (sR [a]) d (S a)
  | .sadds d a b => effS g accS3 (sR [a, b]) d (S a + S b * 8)
  | .sand d a b => effS g accS3 (sR [a, b]) d (S a &&& S b)
  | .sor d a b => effS g accS3 (sR [a, b]) d (S a ||| S b)
  | .sxor d a b => effS g accS3 (sR [a, b]) d (S a ^^^ S b)
  | .sandn d a b => effS g accS3 (sR [a, b]) d (S a &&& ~~~S b)
  | .snot d a => effS g accS2 (sR [a]) d (~~~S a)
  | .sshl d a b => effS g accS3 (sR [a, b]) d (S a <<< ((S b).toNat % 64))
  | .sshr d a b => effS g accS3 (sR [a, b]) d (S a >>> ((S b).toNat % 64))
  | .ssar d a b => effS g accS3 (sR [a, b]) d ((S a).sshiftRight ((S b).toNat % 64))
  | .srol d a b => effS g accS3 (sR [a, b]) d ((S a).rotateLeft ((S b).toNat % 64))
  | .sror d a b => effS g accS3 (sR [a, b]) d ((S a).rotateRight ((S b).toNat % 64))
  | .sclz d a => effS g accS2 (sR [a]) d (BitVec.ofNat 64 (clzN 64 (S a).toNat))
  | .sctz d a => effS g accS2 (sR [a]) d (BitVec.ofNat 64 (ctzN 64 (S a).toNat))
  | .spop d a => effS g accS2 (sR [a]) d (BitVec.ofNat 64 (popN 64 (S a).toNat))
  | .sbfxI d a b => effS g accS3 (sR [a, b]) d (sext64 (fieldLen (S b)) (fieldOf (S a) (S b)))
  | .sbfxN d a b => effS g accS3 (sR [a, b]) d (BitVec.ofNat 64 (fieldOf (S a) (S b)))
  | .sbfi d a b => effS g accS3 (sR [a, b, d]) d (fieldIns (S d) (S a) (S b))
  | .mand d a b => effM g acc0 (mR [a, b]) d (M a &&& M b)
  | .mor d a b => effM g acc0 (mR [a, b]) d (M a ||| M b)
  | .mxor d a b => effM g acc0 (mR [a, b]) d (M a ^^^ M b)
  | .mandn d a b => effM g acc0 (mR [a, b]) d (M a &&& ~~~M b)
  | .mnot d a => effM g acc0 (mR [a]) d (~~~M a)
  | .mmov d a => effM g acc0 (mR [a]) d (M a)
  | .mpop d a => effS g acc0 (mR [a]) d (BitVec.ofNat 64 (popN 32 (M a).toNat))
  | .mfirst d a => effS g acc0 (mR [a]) d (BitVec.ofNat 64 (ctzN 32 (M a).toNat))
  | .mtos d a => effS g acc0 (mR [a]) d ((M a).setWidth 64)
  | .stom d a => effM g acc0 (sR [a]) d ((S a).setWidth 32)
  | .mbelow d a b => effM g acc0 (mR [a] ++ sR [b]) d (M a &&& BitVec.ofNat 32 (2 ^ min (S b).toNat 32 - 1))
  | .saddi d a im => effS g accSI (sR [a]) d (S a + immS s im)
  | .sandi d a im => effS g accSI (sR [a]) d (S a &&& immZ s im)
  | .sori d a im => effS g accSI (sR [a]) d (S a ||| immZ s im)
  | .sxori d a im => effS g accSI (sR [a]) d (S a ^^^ immZ s im)
  | .sslti d a im => effS g accSI (sR [a]) d (truth ((S a).toInt < (immS s im).toInt))
  | .sshli d a im => effS g accS2 (sR [a]) d (S a <<< im)
  | .sshri d a im => effS g accS2 (sR [a]) d (S a >>> im)
  | .sli d im => effS g { rpt := some (true, false, false), imms := 2 } [] d (immS s im)
  | _ => none

/-- Draw number `e` of lane `l`, where each acting lane takes `n`, in lane order (R25). -/
def drawOf (s : State) (g : Group) (p : Path) (n : Nat) (ds : List Nat) (l e : Nat) : Nat :=
  ds.getD ((actLanes s g p).idxOf l * n + e) 0

/-- The union of the flags of all sub-elements of all acting lanes. -/
def allFlags (s : State) (g : Group) (p : Path) (n : Nat) (f : Nat → Nat → Nat) : Nat :=
  ((actLanes s g p).flatMap fun l => (List.range n).map (f l)).foldl (· ||| ·) 0

/-- A vector register written sub-element by sub-element: `f l e` is the result of sub-element `e` of lane `l` and its
flags (R92). -/
def effE (s : State) (g : Group) (p : Path) (acc : Acc) (rd : List RegN) (d w : Nat) (f : Nat → Nat → Nat × Nat) : Option Effect :=
  some { adm := { acc := acc, rd := rd, wr := vR [d] }, rs := fun _ => rS g, rm := fun _ n => g.m.get 0 n
         rv := fun _ => setV s g p d fun l => mapE w fun e => (f l e).1
         fl := fun _ => allFlags s g p (64 / w) fun l e => (f l e).2 }

/-- The same for a rounding instruction: `f` also takes the sub-element's draw. -/
def effR (s : State) (g : Group) (p : Path) (acc : Acc) (rd : List RegN) (d w : Nat) (f : Nat → Nat → Nat → Nat × Nat) : Option Effect :=
  let n := 64 / w
  some { adm := { acc := acc, rd := rd, wr := vR [d] }, draws := n * (actLanes s g p).length
         rs := fun _ => rS g, rm := fun _ n => g.m.get 0 n
         rv := fun ds => setV s g p d fun l => mapE w fun e => (f (drawOf s g p n ds l e) l e).1
         fl := fun ds => allFlags s g p n fun l e => (f (drawOf s g p n ds l e) l e).2 }

/-- A signed integer as a `w`-bit code. -/
def wrap (w : Nat) (i : Int) : Nat := (i % 2 ^ w).toNat

/-- Vector integer, bit, compare and immediate instructions (R92 to R101, R109). `c` is a width code: width 8·2^c. -/
def vectorEffect (s : State) (g : Group) (p : Path) (i : Instr) : Option Effect :=
  let two (c d a b : Nat) (f : Nat → Nat → Nat → Nat × Nat) :=
    effE s g p accV3 (vR [a, b]) d (wOf c) fun l e => f (wOf c) (elem (wOf c) (rV g a l) e) (elem (wOf c) (rV g b l) e)
  let one (c d a : Nat) (f : Nat → Nat → Nat) :=
    effE s g p accV2 (vR [a]) d (wOf c) fun l e => (f (wOf c) (elem (wOf c) (rV g a l) e), 0)
  let cmp (c d a b : Nat) (f : Nat → Nat → Nat → Bool) :=
    two c d a b fun w x y => (if f w x y then 2 ^ w - 1 else 0, 0)
  let sat (w : Nat) (lo hi i : Int) : Nat × Nat := (wrap w (max lo (min hi i)), if lo ≤ i ∧ i ≤ hi then 0 else fSAT)
  match i with
  | .vadd c d a b => two c d a b fun w x y => (wrap w (x + y), 0)
  | .vsub c d a b => two c d a b fun w x y => (wrap w (x - y), 0)
  | .vmul c d a b => two c d a b fun w x y => (wrap w (x * y), 0)
  | .vmulhI c d a b => two c d a b fun w x y => (wrap w (toI w x * toI w y / 2 ^ w), 0)
  | .vmulhN c d a b => two c d a b fun w x y => (x * y / 2 ^ w, 0)
  | .vaddSatI c d a b => two c d a b fun w x y => sat w (-(2 ^ (w - 1))) (2 ^ (w - 1) - 1) (toI w x + toI w y)
  | .vaddSatN c d a b => two c d a b fun w x y => sat w 0 (2 ^ w - 1) (x + y)
  | .vminI c d a b => two c d a b fun w x y => (if toI w x ≤ toI w y then x else y, 0)
  | .vminN c d a b => two c d a b fun _ x y => (min x y, 0)
  | .vmaxI c d a b => two c d a b fun w x y => (if toI w y ≤ toI w x then x else y, 0)
  | .vmaxN c d a b => two c d a b fun _ x y => (max x y, 0)
  | .vabs c d a => one c d a fun w x => wrap w |toI w x|
  | .vneg c d a => one c d a fun w x => wrap w (-(x : Int))
  | .vavgN c d a b => two c d a b fun _ x y => ((x + y + 1) / 2, 0)
  | .vshl c d a b => two c d a b fun w x y => (x * 2 ^ (y % w) % 2 ^ w, 0)
  | .vshr c d a b => two c d a b fun w x y => (x / 2 ^ (y % w), 0)
  | .vsar c d a b => two c d a b fun w x y => (wrap w (toI w x / 2 ^ (y % w)), 0)
  | .vpop c d a => one c d a fun w x => popN w x
  | .vclz c d a => one c d a fun w x => clzN w x
  | .vceq c d a b => cmp c d a b fun _ x y => x = y
  | .vcne c d a b => cmp c d a b fun _ x y => x ≠ y
  | .vcltI c d a b => cmp c d a b fun w x y => toI w x < toI w y
  | .vcltN c d a b => cmp c d a b fun _ x y => x < y
  | .vcleI c d a b => cmp c d a b fun w x y => toI w x ≤ toI w y
  | .vcleN c d a b => cmp c d a b fun _ x y => x ≤ y
  | .vand d a b => effV s g p accV3 (vR [a, b]) d fun l => rV g a l &&& rV g b l
  | .vor d a b => effV s g p accV3 (vR [a, b]) d fun l => rV g a l ||| rV g b l
  | .vxor d a b => effV s g p accV3 (vR [a, b]) d fun l => rV g a l ^^^ rV g b l
  | .vandn d a b => effV s g p accV3 (vR [a, b]) d fun l => rV g a l &&& ~~~rV g b l
  | .vsel d a b => effV s g p accV3 (vR [a, b, d]) d fun l => (rV g a l &&& rV g d l) ||| (rV g b l &&& ~~~rV g d l)
  | .vnot d a => effV s g p accV2 (vR [a]) d fun l => ~~~rV g a l
  | .vmov d a => effV s g p accV2 (vR [a]) d fun l => rV g a l
  | .mtov d a => effV s g p { pred := true, rpt := some (true, false, false) } (mR [a]) d fun l =>
      if (rM s g p a).getLsbD l then BitVec.allOnes 64 else 0
  | .vtom d a e =>
      (effM g { pred := true, ew := true, rpt := some (false, true, false) } (vR [a]) d
        (maskOf fun l => (act s g p).getLsbD l && elem (ewOf s) (rV g a l) e ≠ 0)).map fun x =>
          { x with adm := { x.adm with fields := e < 64 / ewOf s } }
  | .vaddi d a im => effV s g p { accV2 with ew := true, imms := 2 } (vR [a]) d fun l =>
      mapE (ewOf s) fun e => elem (ewOf s) (rV g a l) e + (immS s im).toNat
  | .vmovi d im => effV s g p { pred := true, ew := true, imms := 2, rpt := some (true, false, false) } [] d fun _ =>
      mapE (ewOf s) fun _ => (immS s im).toNat
  | .vsplat d a im => effV s g p { accV2 with ew := true, imms := 2 } (sR [a]) d fun _ =>
      mapE (ewOf s) fun _ => (rS g a + immS s im).toNat
  | _ => none

/-- Floating-point arithmetic, compares, bit forms and helpers (R102 to R106, R112 to R114). A sub-element is read with
DAZ (R28); `num t x r` is the exact value of its code; the result is rounded once (R33), and an exact result beyond the largest finite
value overflows (R103). -/
def floatEffect (s : State) (g : Group) (p : Path) (i : Instr) : Option Effect :=
  let code (t : Fmt) (r l e : Nat) : Nat := t.daz g.daz (elem t.bits (rV g r l) e)
  let num (t : Fmt) (r l e : Nat) : FV := t.val (code t r l e)
  let round (t : Fmt) (dr : Nat) (v : FV × Nat) : Nat × Nat :=
    ((v.1.round t (rmode s g) dr g.ftz).1, v.2 ||| (v.1.round t (rmode s g) dr g.ftz).2)
  let fma (t : Fmt) (d a b : Nat) (n1 n3 : FV → FV) :=
    effR s g p accR3 (vR [a, b, d]) d t.bits fun dr l e =>
      round t dr ((n1 (num t a l e)).fma (rmode s g) (num t b l e) (n3 (num t d l e)))
  let sum (t : Fmt) (d a b : Nat) (n2 : FV → FV) :=
    effR s g p accR3 (vR [a, b]) d t.bits fun dr l e => round t dr ((num t a l e).add (rmode s g) (n2 (num t b l e)))
  let prod (t : Fmt) (d a b : Nat) :=
    effR s g p accR3 (vR [a, b]) d t.bits fun dr l e => round t dr ((num t a l e).mul (num t b l e))
  let pick (t : Fmt) (mx nm : Bool) (d a b : Nat) :=
    effE s g p accV3 (vR [a, b]) d t.bits fun l e =>
      let v := t.minMax mx nm (code t a l e) (code t b l e)
      ((t.flush g.ftz v.1).1, v.2 ||| (t.flush g.ftz v.1).2)
  let rel (t : Fmt) (r d a b : Nat) :=
    effE s g p accV3 (vR [a, b]) d t.bits fun l e =>
      (if (fRel t r (code t a l e) (code t b l e)).1 then 2 ^ t.bits - 1 else 0, (fRel t r (code t a l e) (code t b l e)).2)
  let raw (t : Fmt) (d a : Nat) (f : Nat → Nat) :=
    effV s g p accV2 (vR [a]) d fun l => mapE t.bits fun e => f (elem t.bits (rV g a l) e)
  let sign (t : Fmt) (d a b : Nat) :=
    effV s g p accV3 (vR [a, b]) d fun l => mapE t.bits fun e =>
      elem t.bits (rV g a l) e % t.top + elem t.bits (rV g b l) e / t.top * t.top
  let help (d a : Nat) (f : FV → Nat × Nat) := effE s g p accV2 (vR [a]) d 32 fun l e => f (num F32 a l e)
  match i with
  | .vfmaF32 d a b => fma F32 d a b id id
  | .vfmaF16 d a b => fma F16 d a b id id
  | .vfmaBf16 d a b => fma BF16 d a b id id
  | .vfmsF32 d a b => fma F32 d a b id FV.neg
  | .vfmsF16 d a b => fma F16 d a b id FV.neg
  | .vfmsBf16 d a b => fma BF16 d a b id FV.neg
  | .vfnmaF32 d a b => fma F32 d a b FV.neg id
  | .vfnmaF16 d a b => fma F16 d a b FV.neg id
  | .vfnmaBf16 d a b => fma BF16 d a b FV.neg id
  | .vfaddF32 d a b => sum F32 d a b id
  | .vfaddF16 d a b => sum F16 d a b id
  | .vfaddBf16 d a b => sum BF16 d a b id
  | .vfsubF32 d a b => sum F32 d a b FV.neg
  | .vfsubF16 d a b => sum F16 d a b FV.neg
  | .vfsubBf16 d a b => sum BF16 d a b FV.neg
  | .vfmulF32 d a b => prod F32 d a b
  | .vfmulF16 d a b => prod F16 d a b
  | .vfmulBf16 d a b => prod BF16 d a b
  | .vfminF32 d a b => pick F32 false false d a b
  | .vfminF16 d a b => pick F16 false false d a b
  | .vfminBf16 d a b => pick BF16 false false d a b
  | .vfmaxF32 d a b => pick F32 true false d a b
  | .vfmaxF16 d a b => pick F16 true false d a b
  | .vfmaxBf16 d a b => pick BF16 true false d a b
  | .vfminnumF32 d a b => pick F32 false true d a b
  | .vfminnumF16 d a b => pick F16 false true d a b
  | .vfminnumBf16 d a b => pick BF16 false true d a b
  | .vfmaxnumF32 d a b => pick F32 true true d a b
  | .vfmaxnumF16 d a b => pick F16 true true d a b
  | .vfmaxnumBf16 d a b => pick BF16 true true d a b
  | .vfceqF32 d a b => rel F32 0 d a b
  | .vfceqF16 d a b => rel F16 0 d a b
  | .vfceqBf16 d a b => rel BF16 0 d a b
  | .vfcltF32 d a b => rel F32 1 d a b
  | .vfcltF16 d a b => rel F16 1 d a b
  | .vfcltBf16 d a b => rel BF16 1 d a b
  | .vfcleF32 d a b => rel F32 2 d a b
  | .vfcleF16 d a b => rel F16 2 d a b
  | .vfcleBf16 d a b => rel BF16 2 d a b
  | .vfcunF32 d a b => rel F32 3 d a b
  | .vfcunF16 d a b => rel F16 3 d a b
  | .vfcunBf16 d a b => rel BF16 3 d a b
  | .vfabsF32 d a => raw F32 d a fun x => x % F32.top
  | .vfabsF16 d a => raw F16 d a fun x => x % F16.top
  | .vfabsBf16 d a => raw BF16 d a fun x => x % BF16.top
  | .vfnegF32 d a => raw F32 d a fun x => x ^^^ F32.top
  | .vfnegF16 d a => raw F16 d a fun x => x ^^^ F16.top
  | .vfnegBf16 d a => raw BF16 d a fun x => x ^^^ BF16.top
  | .vfclassF32 d a => raw F32 d a F32.class_
  | .vfclassF16 d a => raw F16 d a F16.class_
  | .vfclassBf16 d a => raw BF16 d a BF16.class_
  | .vfcopysignF32 d a b => sign F32 d a b
  | .vfcopysignF16 d a b => sign F16 d a b
  | .vfcopysignBf16 d a b => sign BF16 d a b
  | .vrcpSeed d a => help d a rcpSeed
  | .vrsqSeed d a => help d a rsqSeed
  | .vexpRed d a k => help d a (expRed k)
  | .vlogRed d a k => help d a (logRed k)
  | .vscRed d a k => help d a (scRed k)
  | .vgetexp d a => help d a getExp
  | .vgetman d a => help d a getMan
  | .vfrac d a => help d a fracPart
  | .vldexp d a b => effR s g p accR3 (vR [a, b]) d 32 fun dr l e =>
      ldexp (rmode s g) dr g.ftz (toI 32 (elem 32 (rV g b l) e)) (num F32 a l e)
  | .vfrnd d a => effR s g p accR2 (vR [a]) d 32 fun dr l e => frnd (rmode s g) dr (num F32 a l e)
  | .vscFix d a b => effE s g p accV3 (vR [a, b, d]) d 32 fun l e =>
      scFix (elem 32 (rV g d l) e) (elem 32 (rV g a l) e) (elem 32 (rV g b l) e)
  | _ => none

/-- Conversions (R107, R108): a narrowing one of part `q` merges its results into the sub-elements of that part of V(d),
a widening one reads the sub-elements of that part of V(a); `cv dr x` is one result and its flags. -/
def convertEffect (s : State) (g : Group) (p : Path) (i : Instr) : Option Effect :=
  let conv (acc : Acc) (ws wd d a q : Nat) (cv : Nat → Nat → Nat × Nat) : Option Effect :=
    let n := 64 / max ws wd
    let one (ds : List Nat) (l j : Nat) : Nat × Nat :=
      cv (drawOf s g p n ds l j) (elem ws (rV g a l) (if wd < ws then j else q * n + j))
    some { adm := { acc := acc, rd := vR (if wd < ws then [a, d] else [a]), wr := vR [d] }
           draws := if acc.rnd then n * (actLanes s g p).length else 0
           rs := fun _ => rS g, rm := fun _ n => g.m.get 0 n
           rv := fun ds => setV s g p d fun l => mapE wd fun e =>
             if wd < ws ∧ (e < q * n ∨ q * n + n ≤ e) then elem wd (rV g d l) e
             else (one ds l (if wd < ws then e - q * n else e)).1
           fl := fun ds => allFlags s g p n fun l j => (one ds l j).2 }
  let f32 (x : Nat) : FV := F32.val (F32.daz g.daz x)
  let m := rmode s g
  let fx := s.fx g.ctx g.fxsel
  let narrow (f : Fmt) (d a q : Nat) := conv accR2 32 8 d a q fun dr x => intoNarrow f m dr g.satf8 fx (f32 x)
  let widen (f : Fmt) (d a q : Nat) := conv accV2 8 32 d a q fun _ x => (f.val x).into F32 0 0 false false
  let exact (f : Fmt) (d a q : Nat) := conv accV2 16 32 d a q fun _ x =>
    let r := (f.val (f.daz g.daz x)).into F32 0 0 false false
    ((F32.flush g.ftz r.1).1, r.2 &&& fNV)
  match i with
  | .vcvtF16F32 d a q => if q < 2 then conv accR2 32 16 d a q fun dr x => (f32 x).into F16 m dr g.ftz false else none
  | .vcvtBf16F32 d a q => if q < 2 then conv accR2 32 16 d a q fun dr x => (f32 x).into BF16 m dr g.ftz false else none
  | .vcvtF32F16 d a q => if q < 2 then exact F16 d a q else none
  | .vcvtF32Bf16 d a q => if q < 2 then exact BF16 d a q else none
  | .vcvtI32F32 d a => conv accR2 32 32 d a 0 fun dr x => intoInt true 32 m dr (f32 x)
  | .vcvtN32F32 d a => conv accR2 32 32 d a 0 fun dr x => intoInt false 32 m dr (f32 x)
  | .vcvtF32I32 d a => conv accR2 32 32 d a 0 fun dr x => (FV.fin (toI 32 x < 0) (toI 32 x).natAbs 0).into F32 m dr g.ftz false
  | .vcvtF32N32 d a => conv accR2 32 32 d a 0 fun dr x => (FV.fin false x 0).into F32 m dr g.ftz false
  | .vcvtF8e4F32 d a q => if q < 4 then narrow F8E4 d a q else none
  | .vcvtF8e5F32 d a q => if q < 4 then narrow F8E5 d a q else none
  | .vcvtF6e2F32 d a q => if q < 4 then narrow F6E2 d a q else none
  | .vcvtF6e3F32 d a q => if q < 4 then narrow F6E3 d a q else none
  | .vcvtF4F32 d a q => if q < 4 then narrow F4 d a q else none
  | .vcvtF32F8e4 d a q => if q < 4 then widen F8E4 d a q else none
  | .vcvtF32F8e5 d a q => if q < 4 then widen F8E5 d a q else none
  | .vcvtF32F6e2 d a q => if q < 4 then widen F6E2 d a q else none
  | .vcvtF32F6e3 d a q => if q < 4 then widen F6E3 d a q else none
  | .vcvtF32F4 d a q => if q < 4 then conv accV2 8 32 d a q fun _ x => (f4ToF32 fx x, 0) else none
  | .vcvtI8I32 d a q => if q < 4 then conv accV2 32 8 d a q fun _ x =>
      (wrap 8 (max (-128) (min 127 (toI 32 x))), if -128 ≤ toI 32 x ∧ toI 32 x ≤ 127 then 0 else fSAT) else none
  | _ => none

/-- Cross-lane, quad and block instructions (R110, R115 to R124). `lane n l` is V(n, l) as another lane reads it: 0 where
lane l does not act (R110). -/
def crossEffect (s : State) (g : Group) (p : Path) (i : Instr) : Option Effect :=
  let acting (l : Nat) : Bool := (act s g p).getLsbD l
  let ls := actLanes s g p
  let lane (n l : Nat) : W64 := if acting l then rV g n l else 0
  let w := ewOf s
  let move (acc : Acc) (rd : List RegN) (d : Nat) (f : Nat → W64) := effV s g p acc rd d f
  let sub (im : Nat) (e : Option Effect) : Option Effect :=
    e.map fun x => { x with adm := { x.adm with fields := fld im 0 3 < 64 / w } }
  let vote (d a : Nat) (b : Bool) : Option Effect := effS g accV2 (vR [a]) d (truth b)
  let upto (l : Nat) : List Nat := ls.filter (· ≤ l)
  let col (a e : Nat) (l : List Nat) : List Nat := l.map fun k => elem 32 (rV g a k) e
  let all32 (d a : Nat) (f : List Nat → Nat × Nat) : Option Effect :=
    effE s g p accV2 (vR [a]) d 32 fun _ e => f (col a e ls)
  let m := rmode s g
  let runSum (a : Nat) (ds : List Nat) (l e : Nat) : Nat × Nat :=
    match upto l with
    | [] => (0, 0)
    | k :: t => t.foldl (fun acc j =>
        let r := addF m (drawOf s g p 2 ds j e) g.ftz acc.1 (F32.daz g.daz (elem 32 (rV g a j) e))
        (r.1, acc.2 ||| r.2)) (quietF (F32.daz g.daz (elem 32 (rV g a k) e)))
  let best (f : Fmt) (a : Nat) : W64 := bestOf f (ls.map fun l => rV g a l)
  match i with
  | .vshfl d a b => move accV3 (vR [a, b]) d fun l => lane a ((rV g b l).toNat % 32)
  | .vshfleE32 d a b => move accV3 (vR [a, b]) d fun l =>
      mapE 32 fun e => elem 32 (lane a (fld (elem 32 (rV g b l) e) 3 5)) (fld (elem 32 (rV g b l) e) 0 1)
  | .vpswap d a k => move { accV2 with ew := true } (vR [a]) d fun l =>
      if !acting (l ^^^ 2 ^ k) then 0
      else if l / 2 ^ k % 2 = 1 then rV g a (l ^^^ 2 ^ k)
      else mapE w fun e => elem w (rV g a (l ^^^ 2 ^ k)) e ^^^ 2 ^ (w - 1)
  | .vprefixAddI32 d a => move accV2 (vR [a]) d fun l => mapE 32 fun e => (col a e (upto l)).sum
  | .vprefixAddF32 d a => effR s g p accR2 (vR [a]) d 32 (fun _ _ _ => (0, 0)) |>.map fun x =>
      { x with rv := fun ds => setV s g p d fun l => mapE 32 fun e => (runSum a ds l e).1
               fl := fun ds => allFlags s g p 2 fun l e => (runSum a ds l e).2 }
  | .vredAddI32 d a => all32 d a fun l => (l.sum % 2 ^ 32, 0)
  | .vredMaxI32 d a => all32 d a fun l => (l.foldl (fun x y => if toI 32 x < toI 32 y then y else x) (l.headD 0), 0)
  | .vmaxidxF16 d a => move accV2 (vR [a]) d fun _ => best F16 a &&& 0xFFFFFFFF0000FFFF
  | .vmaxidxF32 d a => move accV2 (vR [a]) d fun _ => best F32 a
  | .vlaneid d => move { pred := true, rpt := some (true, false, false) } [] d fun l => BitVec.ofNat 64 l
  | .vvoteAll d a => vote d a (ls.all fun l => rV g a l ≠ 0)
  | .vvoteAny d a => vote d a (ls.any fun l => rV g a l ≠ 0)
  | .vballot d a => effM g { pred := true, rpt := some (false, true, false) } (vR [a]) d (maskOf fun l => acting l && rV g a l ≠ 0)
  | .qswpH d a => move accV2 (vR [a]) d fun l => rV g a (l ^^^ 1)
  | .qswpV d a => move accV2 (vR [a]) d fun l => rV g a (l ^^^ 2)
  | .qswpD d a => move accV2 (vR [a]) d fun l => rV g a (l ^^^ 3)
  | .qbcast d a b => move accV3 (vR [a] ++ sR [b]) d fun l => rV g a (l / 4 * 4 + (rS g b).toNat % 4)
  | .qbcastI d a q => move accV2 (vR [a]) d fun l => rV g a (l / 4 * 4 + q)
  | .vget d a im => sub im <| move accXI (vR [a]) d fun _ => BitVec.ofNat 64 (elem w (lane a (fld im 3 5)) (fld im 0 3))
  | .vbcast d a im => sub im <| move accXI (vR [a]) d fun _ => mapE w fun _ => elem w (lane a (fld im 3 5)) (fld im 0 3)
  | .vbfly d a im => sub im <| move accXI (vR [a]) d fun l => mapE w fun e => elem w (lane a (l ^^^ fld im 3 5)) (e ^^^ fld im 0 3)
  | .vrot d a im => sub im <| move accXI (vR [a]) d fun l => mapE w fun e =>
      let n : Int := 64 / w
      let h := ((n * l + e - (n * fld im 3 5 + fld im 0 3)) % (32 * n)).toNat
      elem w (lane a (h / (64 / w))) (h % (64 / w))
  | .vput d a im => sub im <| (move accXI (vR [a, d]) d fun l =>
      match ls with
      | f :: _ => if l = fld im 3 5 then setElem w (rV g d l) (fld im 0 3) (elem w (rV g a f) 0) else rV g d l
      | [] => rV g d l)
  | .vcompact d a b => move accVVM (vR [a] ++ mR [b]) d fun l =>
      ((lanesOf (rM s g p b &&& act s g p))[ls.idxOf l]?).elim (rV g d l) (rV g a)
  | .vexpand d a b => move accVVM (vR [a] ++ mR [b]) d fun l =>
      let k := lanesOf (rM s g p b &&& act s g p)
      if k.contains l then (ls[k.idxOf l]?).elim (rV g d l) (rV g a) else rV g d l
  | .vredMaxF32 d a => all32 d a fun l =>
      let r := match l.map (F32.daz g.daz) with
        | [] => (0, 0)
        | x :: t => t.foldl (fun m y => ((F32.minMax true true m.1 y).1, m.2 ||| (F32.minMax true true m.1 y).2)) (quietF x)
      ((F32.flush g.ftz r.1).1, r.2 ||| (F32.flush g.ftz r.1).2)
  | _ => none

/-- Block packing and unpacking (R22, R23, R123, R124): blocks of `n` lanes, each wholly acting or wholly idle; the block
of lanes n·j to n·j + n − 1 becomes the bytes that `f` makes of its draws and of its bytes. -/
def blockEffect (s : State) (g : Group) (p : Path) (i : Instr) : Option Effect :=
  let blk (rnd : Bool) (n d a : Nat) (f : List Nat → List Byte → List Byte × Nat) : Option Effect :=
    (blocks s g p n).map fun js =>
      let src (j : Nat) : List Byte := (List.range n).flatMap fun k => bytesLE 8 (rV g a (n * j + k)).toNat
      let out (ds : List Nat) (j : Nat) : List Byte × Nat := f (ds.drop (2 * n * js.idxOf j)) (src j)
      { adm := { acc := { accV2 with rnd := rnd }, rd := vR [a], wr := vR [d], fields := rmode s g < 6 }
        draws := 2 * n * js.length
        rs := fun _ => rS g, rm := fun _ k => g.m.get 0 k
        rv := fun ds => setV s g p d fun l => BitVec.ofNat 64 (ofBytesLE (((out ds (l / n)).1.drop (8 * (l % n))).take 8))
        fl := fun ds => (js.map fun j => (out ds j).2).foldl (· ||| ·) 0 }
  let m := rmode s g
  let fx := s.fx g.ctx g.fxsel
  match i with
  | .vpkpx d a f => blk true 8 d a fun ds b => packPx (pxBits f) m (f32s g b) ds
  | .vunpx d a f => blk false 8 d a fun ds b => f32Bytes m 16 ds (pxVals (pxBits f) b)
  | .vpkmx d a f => blk true 16 d a fun ds b => packMx f m g.satf8 fx (f32s g b) ds
  | .vunmx d a f => blk true 16 d a fun ds b => f32Bytes m 32 ds (mxVals f fx b)
  | _ => none

/-- The tree of R34 over the acting lanes for sub-element `e` of V(a): one value and its flags, where some lane acts. A stage
whose lane does not act takes a free value for its draw (log 13). -/
def treeSum (s : State) (g : Group) (p : Path) (a : Nat) (ds : List Nat) (e : Nat) : Nat × Nat :=
  let dr (l : Nat) : Nat :=
    if (act s g p).getLsbD l then drawOf s g p 2 ds l e else (Config.freeValue (s.fresh + 32 * e + l)).toNat % 2 ^ 32
  let leaf (l : Nat) : Option TreeV :=
    let v := quietF (F32.daz g.daz (elem 32 (rV g a l) e))
    if (act s g p).getLsbD l then some { x := v.1, fl := v.2 } else none
  let st := treeStage (fun r x y => addF (rmode s g) r g.ftz x y) dr
  match st 4 (st 3 (st 2 (st 1 (st 0 leaf)))) 0 with
  | none => (0, 0)
  | some v => (v.x, v.fl)

/-- A memory instruction's access: what it asks to be admitted, its kind, bytes per lane, order and scope, destination, and
for each lane its address, operand and comparand (R128, R133, R135). -/
structure Access where
  adm   : Adm
  k     : MemK
  n     : Nat
  ord   : Nat
  scp   : Nat
  dst   : Dst
  lanes : List (Nat × W64 × Nat × Nat)
  host  : Bool := true

/-- What the access needs of a page (R127, R136). -/
def Access.need (x : Access) : Need :=
  match x.k with
  | .load => { r := true, w := false, x := false, hostBad := false }
  | .store => { r := false, w := true, x := false, hostBad := false }
  | .atom _ => { r := true, w := true, x := false, hostBad := !x.host }

/-- The accesses of the loads, stores and atomics: the effective address is 64-bit addition (R125, R128, R133); without an
order prefix loads and stores are relaxed with scope cohort, atomics relaxed with scope device (Table MEM.2). -/
def memAccess (s : State) (g : Group) (p : Path) (i : Instr) : Option Access :=
  let ls := actLanes s g p
  let o := ordOf s 0 0
  let addr (a im : Nat) : W64 := rS g a + immS s im
  let data (n d l : Nat) : Nat := (rV g d l).toNat % 2 ^ (8 * n)
  let ld (n d a im : Nat) : Option Access :=
    some { adm := { acc := { pred := true, ords := [0, 1, 4], rpt := some (true, true, false), imms := 2 }, rd := sR [a], wr := vR [d] }
           k := .load, n := n, ord := o.1, scp := o.2, dst := .vec d
           lanes := ls.map fun l => (l, addr a im + BitVec.ofNat 64 (n * l), data n d l, 0) }
  let st (n d a im : Nat) : Option Access :=
    some { adm := { acc := { pred := true, ords := [0, 2, 4], rpt := some (true, true, false), imms := 2 }, rd := sR [a] ++ vR [d] }
           k := .store, n := n, ord := o.1, scp := o.2, dst := .none
           lanes := ls.map fun l => (l, addr a im + BitVec.ofNat 64 (n * l), data n d l, 0) }
  let ldx (n d a b : Nat) : Option Access :=
    some { adm := { acc := { pred := true, ords := [0, 1, 4] }, rd := sR [a] ++ vR [b], wr := vR [d] }
           k := .load, n := n, ord := o.1, scp := o.2, dst := .vec d
           lanes := ls.map fun l => (l, rS g a + rV g b l, data n d l, 0) }
  let stx (n d a b : Nat) : Option Access :=
    some { adm := { acc := { pred := true, ords := [0, 2, 4] }, rd := sR [a] ++ vR [b, d] }
           k := .store, n := n, ord := o.1, scp := o.2, dst := .none
           lanes := ls.map fun l => (l, rS g a + rV g b l, data n d l, 0) }
  let atom (fn n d a b : Nat) (host : Bool) (regs : List Nat) (x c : Nat → Nat) : Option Access :=
    let q := ordOf s 0 3
    some { adm := { acc := { pred := true, ords := [0, 1, 2, 3, 4] }, rd := sR [a] ++ vR regs, wr := vR [d] }
           k := .atom fn, n := n, ord := q.1, scp := q.2, dst := .vec d, host := host
           lanes := ls.map fun l => (l, rS g a + rV g b l, x l, c l) }
  let op1 (fn n d a b : Nat) (host : Bool) := atom fn n d a b host [b, d] (data n d) fun _ => 0
  match i with
  | .vld8 d a im => ld 1 d a im
  | .vld16 d a im => ld 2 d a im
  | .vld32 d a im => ld 4 d a im
  | .vld64 d a im => ld 8 d a im
  | .vst8 d a im => st 1 d a im
  | .vst16 d a im => st 2 d a im
  | .vst32 d a im => st 4 d a im
  | .vst64 d a im => st 8 d a im
  | .vldx8 d a b => ldx 1 d a b
  | .vldx16 d a b => ldx 2 d a b
  | .vldx32 d a b => ldx 4 d a b
  | .vldx64 d a b => ldx 8 d a b
  | .vstx8 d a b => stx 1 d a b
  | .vstx16 d a b => stx 2 d a b
  | .vstx32 d a b => stx 4 d a b
  | .vstx64 d a b => stx 8 d a b
  | .sld d a im =>
    some { adm := { acc := { ords := [0, 1, 4], imms := 2 }, rd := sR [a], wr := sR [d] }
           k := .load, n := 8, ord := o.1, scp := o.2, dst := .sca d, lanes := [(0, addr a im, (rS g d).toNat, 0)] }
  | .sst d a im =>
    some { adm := { acc := { ords := [0, 2, 4], imms := 2 }, rd := sR [a, d] }
           k := .store, n := 8, ord := o.1, scp := o.2, dst := .none, lanes := [(0, addr a im, (rS g d).toNat, 0)] }
  | .atomAddE32 d a b => op1 0 4 d a b true
  | .atomAddE64 d a b => op1 1 8 d a b true
  | .atomMinI32 d a b => op1 2 4 d a b false
  | .atomMinN32 d a b => op1 3 4 d a b false
  | .atomMaxI32 d a b => op1 4 4 d a b false
  | .atomMaxN32 d a b => op1 5 4 d a b false
  | .atomAndB64 d a b => op1 6 8 d a b false
  | .atomOrB64 d a b => op1 7 8 d a b false
  | .atomXorB64 d a b => op1 8 8 d a b false
  | .atomXchgE32 d a b => op1 9 4 d a b true
  | .atomXchgE64 d a b => op1 10 8 d a b true
  | .atomCasE32 d a b => atom 11 4 d a b true [b, d] (fun l => (rV g d l).toNat / 2 ^ 32) fun l => (rV g d l).toNat % 2 ^ 32
  | .atomCasE64 d a b => atom 12 8 d a b true [b, d, d + 1] (fun l => (rV g (d + 1) l).toNat) fun l => (rV g d l).toNat
  | .atomFaddF32 d a b => op1 13 4 d a b false
  | .atomFaddBf16x2 d a b => op1 14 4 d a b false
  | .atomMaxidxF16 d a b => op1 15 8 d a b false
  | _ => none

/-- A lane address that passes the checks of R127 for `n` bytes. -/
def addrOk (n : Nat) (va : W64) : Prop := badVa va.toNat = false ∧ va.toNat % n = 0

/-- The virtual address `va` is in a range of the bundle that the group holds open (R296). -/
def inBundle (s : State) (g : Group) (va : W64) : Bool :=
  match openBundle s g with
  | some (_, d) => inRanges d va.toNat
  | none => false

/-- The operation in flight that an access makes: a lane's physical address is the one that the translation held gives. -/
def accessOp (s : State) (g : Group) (x : Access) (pa : W64 → Nat) : Op :=
  { gid := s.iss.gid, slot := s.iss.slot, ctx := g.ctx, core := g.place.core, perf := false, lost := 0, born := s.clocks.nets
    kind := .mem {
      k := x.k, n := x.n, ord := x.ord, scp := x.scp, dst := x.dst, bundle := (openBundle s g).map Prod.fst, cls := 3
      lanes := x.lanes.map fun l =>
        { lane := l.1, va := l.2.1.toNat % 2 ^ 57, pa := pa l.2.1, x := l.2.2.1, c := l.2.2.2
          bun := x.k = .store && inBundle s g l.2.1, done := false, res := 0 } } }

/-- No lane of a store lies in a line that another bundle claims, and no lane of an atomic in a range of the group's own (R296). -/
def bundleOk (s : State) (g : Group) (x : Access) (pa : W64 → Nat) : Prop :=
  match x.k with
  | .load => True
  | .store => ∀ h, (openBundle s g).map Prod.fst = some h → ∀ l ∈ x.lanes, inBundle s g l.2.1 = true → conflict s h (lineOf (pa l.2.1)) = false
  | .atom _ => ∀ l ∈ x.lanes, inBundle s g l.2.1 = false

/-- The lanes of an operation that are not performed yet. -/
def undone (m : MemOp) : List LaneAcc := m.lanes.filter fun l => !l.done

/-- No access of the path to the address is to end with PERM by an ABORT (R315). -/
abbrev notAborted (p : Path) (va : W64) : Prop := p.aborted = true → p.failsAt va.toNat = false

/-- No uncorrectable memory error that the reading context has not been told of stands in a line of the access (R318, R366). -/
abbrev NoErrors (s : State) (op : Op) (m : MemOp) : Prop :=
  ∀ l ∈ undone m, ∀ x ∈ linesOf l.pa m.n, ((s.memErrs.find? x).all fun e => e.2.contains op.ctx) = true

/-- The same of whole lines that a context reads. -/
abbrev NoneToTell (s : State) (c : Nat) (lines : List Nat) : Prop := ∀ x ∈ lines, ((s.memErrs.find? x).all fun e => e.2.contains c) = true

/-- Nothing keeps the access from its home: no packet of it was dropped or is shown on its way, no link it needs has failed, and the order of its
path allows it (R266 to R281, R327, R339). -/
def AtHome (s : State) (o : Nat) (op : Op) (m : MemOp) : Prop :=
  s.ops.find? o = some op ∧ op.lost = 0 ∧ enRoute s o = false ∧ op.kind = .mem m ∧ undone m ≠ [] ∧ (∀ l ∈ undone m, linkWaits s l.pa = false) ∧
    mayPerform s o op (m.k ≠ .load) ([2, 3, 4].contains m.ord) true ((undone m).map fun l => (l.pa, m.n)) = true

/-- Memory and the old values after atomics in ascending lane order (R136). -/
def atomFold (fn n : Nat) : SMap Byte → List LaneAcc → SMap Byte × List Nat
  | mem, [] => (mem, [])
  | mem, l :: t =>
    let old := ofBytesLE ((List.range n).map fun i => mem.get 0 (l.pa + i))
    let r := atomFold fn n (putBytes mem l.pa (bytesLE n (atomOp fn n old l.x l.c))) t
    (r.1, old :: r.2)

/-- An earlier access of the issuing path has to come before one, or before a release, that it makes at its issue: of bytes `foot`
where it is made at a home (R266 to R268, R275, R281). -/
abbrev OthersFirst (s : State) (g : Group) (write rel : Bool) (foot : List (Nat × Nat)) : Prop :=
  orderHolds s s.iss.gid s.iss.slot g write rel foot = true

/-- A transfer of control: what it asks to be admitted, whether it is taken, its target, and its link write. -/
structure Transfer where
  adm    : Adm
  taken  : Bool := true
  target : W64
  link   : Option Nat := none

/-- The branches, calls and returns (R84 to R86): a relative target counts words from the address of the branch word. -/
def transfer (s : State) (g : Group) (i : Instr) : Option Transfer :=
  let off (w o : Nat) : W64 := s.iss.at_ + 4 * sext64 (wide s w o).2 (wide s w o).1
  let x (a : Nat) : W64 := rS g a
  match i with
  | .br o => some { adm := { acc := { imms := 1 } }, target := off 26 o }
  | .call o => some { adm := { acc := { imms := 1 }, wr := sR [127] }, target := off 26 o, link := some 127 }
  | .bc a c o => some { adm := { acc := { imms := 1 }, rd := sR [a] }, target := off 16 o
                        taken := match c with
                          | 0 => x a = 0
                          | 1 => x a ≠ 0
                          | 2 => (x a).toInt < 0
                          | 3 => 0 ≤ (x a).toInt
                          | 4 => 0 < (x a).toInt
                          | 5 => (x a).toInt ≤ 0
                          | 6 => (x a).getLsbD 0
                          | _ => !(x a).getLsbD 0 }
  | .ret a => some { adm := { acc := {}, rd := sR [a] }, target := x a }
  | .brx a => some { adm := { acc := {}, rd := sR [a] }, target := x a }
  | .callx d a => some { adm := { acc := {}, rd := sR [a], wr := sR [d] }, target := x a, link := some d }
  | _ => none

/-- The link register takes the address after the branch word; s0 takes no write (R47, R84, R86). -/
def linked (s : State) (d : Option Nat) : State :=
  match d with
  | none => s
  | some n => wrote (.s n (s.iss.at_ + 4)) s

/-- The issuing group's paths stand behind every other path of its partition, and its turn has gone to another group (R58, R89). -/
def givesWay (s : State) (g : Group) (u : State) : State :=
  u.modPart g.place.partIx fun q =>
    { q with
      gw := s.iss.gid
      rr := q.rr.filter (·.1 ≠ s.iss.gid) ++ ((g.paths.map fun p => (s.iss.gid, p.1)).filter (· ≠ (s.iss.gid, s.iss.slot))) ++
        [(s.iss.gid, s.iss.slot)] }

/-- A path as it begins (R228). -/
def freshPath (pc : W64) (mask : W32) (tok parent : Nat) (halted inl : Bool) : Path := Path.start pc mask tok parent halted inl

/-- A scratchpad offset of R127: in range, aligned, in a bank that the context owns. -/
def padFails (s : State) (g : Group) (off : Nat) : Option Cause :=
  if 2 ^ 21 ≤ off then some .padbound
  else if off % 8 ≠ 0 then some .align
  else if ownsBank s g.place.core g.ctx (off / 4096) then none else some .padbound

/-- The scratchpad offset of a lane (R129). -/
def padOff (s : State) (g : Group) (a im l : Nat) : Nat := (rV g a l + immS s im).toNat

/-- The issuing context owns the bank pair of tile entry or tag set `t` (R126). -/
def ownsEntry (s : State) (g : Group) (t : Nat) : Bool := ownsBank s g.place.core g.ctx (2 * t)

/-- The value that sysrd reads of system register `n` (Table WRK.4, Table TRP.2); `x` is the group a handler serves, or the
group itself. -/
def sysReads (s : State) (g : Group) (p : Path) (n : Nat) : W64 :=
  let x := (g.served.bind fun y => s.group? y.1).getD g
  let lowest : Nat := ctzN 32 p.mask.toNat
  let low : Nat := if lowest = 32 then 0 else lowest
  match n with
  | 0x00 => BitVec.ofNat 64 low
  | 0x01 => BitVec.ofNat 64 (low / 4)
  | 0x02 => BitVec.ofNat 64 g.grp
  | 0x03 => BitVec.ofNat 64 g.teamNo
  | 0x04 => BitVec.ofNat 64 g.cohort
  | 0x05 => g.grid
  | 0x06 => BitVec.ofNat 64 s.iss.slot
  | 0x07 => BitVec.ofNat 64 g.ctx
  | 0x08 => BitVec.ofNat 64 (s.hb g.place.core g.ctx).period
  | 0x09 => BitVec.ofNat 64 (s.hb g.place.core g.ctx).mode
  | 0x0A => g.frbase
  | 0x0B => g.fpmode
  | 0x0C => g.fpflags
  | 0x0D => (s.part g.place.partIx).srseed.setWidth 64
  | 0x0E => (s.quad g.place.quadIx).gang
  | 0x0F => BitVec.ofNat 64 s.cycles
  | 0x18 => BitVec.ofNat 64 (stampClk s * 2 ^ 12 + stampDie s (dieOf g.place.core) * 2 ^ 4)
  | 0x19 => g.trapcause
  | 0x1A => g.trapaddr
  | 0x1B => BitVec.ofNat 64 (((g.served.bind fun y => s.group? y.1).map fun t => t.replay.length).getD 0)
  | 0x1C => g.trapinfo
  | 0x1D => BitVec.ofNat 64 (x.rstack.length * 2 ^ 8 + x.spill)
  | 0x1E => g.trapdata
  | 0x1F => x.divbase
  | _ => BitVec.ofNat 64 (s.fx g.ctx (n - 0x10))

/-- Registers that only a handler group reads (Table TRP.2), and those that no instruction writes. -/
def sysHandler (n : Nat) : Bool := 0x19 ≤ n && n ≤ 0x1F
def sysReadOnly (n : Nat) : Bool := n ≤ 7 || n = 0x0F || n = 0x18 || n = 0x1B

/-- Who writes register `n` (R48, R244, R352). -/
def sysWho (n : Nat) : Who :=
  if sysReadOnly n then .nobody else if n = 8 || n = 9 || sysHandler n then .handler else .any

/-- The state after `x` is written to system register `n`; `none` for a value out of range (R48, R352, Table NUM.7). -/
def sysWrites (s : State) (g : Group) (n : Nat) (x : W64) : Option State :=
  let v := x.toNat
  let hb (f : Hb → Hb) : State := s.modCore g.place.core fun k => { k with hb := k.hb.modify Hb.reset g.ctx f }
  let own (f : Group → Group) : State := s.modGroup s.iss.gid f
  match n with
  | 0x08 => if 1024 ≤ v ∧ v ≤ 2 ^ 24 then some (hb fun h => { h with period := v }) else none
  | 0x09 => if v ≤ 1 then some (hb fun h => { h with mode := v }) else none
  | 0x0A => some (own fun h => { h with frbase := x })
  | 0x0B => if v % 8 ≤ 5 then some (own fun h => { h with fpmode := BitVec.ofNat 64 (v % 2 ^ 14) }) else none
  | 0x0C => some (own fun h => { h with fpflags := BitVec.ofNat 64 (v % 64) })
  | 0x0D => some (s.modPart g.place.partIx fun q => { q with srseed := if v % 2 ^ 32 = 0 then 0x6D2B79F5 else BitVec.ofNat 32 v })
  | 0x10 => some (s.modCtx g.ctx fun c => { c with fx := c.fx.set 0x80000000 0 (BitVec.ofNat 32 v) })
  | 0x11 => some (s.modCtx g.ctx fun c => { c with fx := c.fx.set 0x80000000 1 (BitVec.ofNat 32 v) })
  | 0x12 => some (s.modCtx g.ctx fun c => { c with fx := c.fx.set 0x80000000 2 (BitVec.ofNat 32 v) })
  | 0x13 => some (s.modCtx g.ctx fun c => { c with fx := c.fx.set 0x80000000 3 (BitVec.ofNat 32 v) })
  | 0x14 => some (s.modCtx g.ctx fun c => { c with fx := c.fx.set 0x80000000 4 (BitVec.ofNat 32 v) })
  | 0x15 => some (s.modCtx g.ctx fun c => { c with fx := c.fx.set 0x80000000 5 (BitVec.ofNat 32 v) })
  | 0x16 => some (s.modCtx g.ctx fun c => { c with fx := c.fx.set 0x80000000 6 (BitVec.ofNat 32 v) })
  | 0x17 => some (s.modCtx g.ctx fun c => { c with fx := c.fx.set 0x80000000 7 (BitVec.ofNat 32 v) })
  | 0x19 => some (own fun h => { h with trapcause := BitVec.ofNat 64 (v % 256) })
  | 0x1A => some (own fun h => { h with trapaddr := x })
  | 0x1C => some (own fun h => { h with trapinfo := BitVec.ofNat 64 (v / 2 ^ 58 % 64 * 2 ^ 58 + h.trapinfo.toNat % 2 ^ 58) })
  | 0x1E => some (own fun h => { h with trapdata := x })
  | 0x1F => g.served.map fun y => s.modGroup y.1 fun t => { t with divbase := x }
  | _ => none

/-- The writes of a system register that stand as instructions of their own in the table of events. -/
def namesWrite (i : Instr) (a n : Nat) : Prop :=
  i = .syswr a n ∨ (i = .srseedWrite a ∧ n = 0x0D) ∨ (i = .hbperiodWrite a ∧ n = 0x08) ∨ (i = .hbmodeWrite a ∧ n = 0x09) ∨
    (i = .gangWrite a ∧ n = 0x0E) ∨ ((i = .divspillSpill a ∨ i = .divspillDrop a ∨ i = .divspillOpen a) ∧ n = 0x1D)

/-- A reconvergence stack entry as its 128 bits (Table GRP.3), and back. -/
def entryBits (e : REntry) : Nat := REntry.bits e
def entryOf (x : Nat) : REntry := REntry.ofBits x


/-- P of a product: every P steps the narrow sum is promoted (R59). -/
def promoteEvery (s : State) (k : Nat) : Nat := ((s.iss.pre.mod.map fun m => m.px).getD 0) * 16 + k + 1

/-- PB, bytes per column per slot (Table MTX.3), and under 2:4 sparsity (R158). -/
def panelBytes (f : Nat) (sp : Bool) : Nat :=
  if sp then [144, 144, 160, 160, 128, 128, 96].getD f 0
  else [256, 256, 256, 256, 192, 192, 128, 256, 256, 192, 192, 128, 256, 192, 128, 144].getD f 0
/-- KP, A elements per register, cell width, and the block of 32 or 16 that a k-step is for block formats (Table MTX.3). -/
def kPer (f : Nat) : Nat := [128, 128, 256, 256, 256, 256, 256, 256, 256, 256, 256, 256, 256, 256, 256, 128].getD f 128
def perReg (f : Nat) : Nat := [4, 4, 8, 8, 8, 8, 8, 8, 8, 8, 8, 8, 8].getD f 0
def stepOf (f : Nat) : Nat := [2, 2, 4, 4, 4, 4, 8, 32, 32, 32, 32, 32, 32, 16, 16, 16].getD f 1
/-- The family of a format: 0 plain, 1 MX, 2 PX. -/
def famOf (f : Nat) : Nat := if f < 7 then 0 else if f < 13 then 1 else 2
/-- The legal pairs of formats (R155). -/
def pairOk (a b : Nat) : Bool := a = b || [[0, 1], [2, 3, 4, 5], [7, 8, 9, 10], [13, 14]].any fun l => l.contains a && l.contains b
/-- The slot that holds k-index `x` of B, and the place of `x` in it (R162). -/
def kSlot (f : FBlock) (x : Nat) : Nat := (f.bslot + (32 * f.bkoff + x) / kPer f.bf) % 32
def kPlace (f : FBlock) (x : Nat) : Nat := (32 * f.bkoff + x) % kPer f.bf
/-- The slots of the quadrant that a product takes B from. -/
def kSlots (f : FBlock) (k : Nat) : List Nat := (List.range k).map (kSlot f)

/-- R156, Table MTX.4: the first reason, in the order 1, 2, 3, 4, 9, 5, 7, 8, 6, for which a format-block is not valid, or 0. -/
def blockReason (q : Quad) (f : FBlock) (mmat : Bool) (k : Nat) : Nat :=
  ((List.find? (fun (r : Nat × Bool) => r.2)
    [(1, 16 ≤ f.af || 16 ≤ f.bf || f.rsv ≠ 0),
     (2, !pairOk f.af f.bf),
     (3, f.bl ≠ (if famOf f.af = 1 then 1 else 0)),
     (4, if mmat then f.arc ≠ 0 else famOf f.af = 2),
     (9, !mmat && q.gang.toNat / 2 ^ 61 % 8 = 0),
     (5, k = 0 || k % stepOf f.af ≠ 0),
     (7, kPer f.bf ≤ 32 * f.bkoff),
     (8, 32 * kPer f.bf < k + 32 * f.bkoff),
     (6, (kSlots f k).any fun i => (q.slot i).st = .free || (q.slot i).fmt ≠ f.bf)]).map Prod.fst).getD 0

/-- K of an mma: N registers' worth of ARC + 1 each (R162). -/
def gangK (q : Quad) (f : FBlock) : Nat := q.gang.toNat / 2 ^ 61 % 8 * (f.arc + 1) * perReg f.af

/-- The operand B and the scales of a product are those of R162: B by slot and position of each column, an MX scale byte for each
row or column and block. -/
structure Operands (s : State) (g : Group) (f : FBlock) (k : Nat) (b asc bsc : List (List Nat)) : Prop where
  codes  : famOf f.bf ≠ 2 → ∀ j < 32, ∀ x < k,
    (b.getD j []).getD x 0 = (slotCol ((s.quad g.place.quadIx).slot (kSlot f x)) j).getD (kPlace f x) 0
  blocks : famOf f.bf = 2 → ∀ j < 32, ∀ x < k / 16,
    (b.getD j []).getD x 0 = (slotCol ((s.quad g.place.quadIx).slot (kSlot f (16 * x))) j).getD (kPlace f (16 * x) / 16) 0
  ascale : famOf f.af = 1 → ∀ i < 32, ∀ x < k / 32,
    (asc.getD i []).getD x 0 = (padByte s g.place.core (32 * f.asc + k / 32 * i + x)).toNat
  bscale : famOf f.af = 1 → ∀ j < 32, ∀ x < k / 32,
    (bsc.getD j []).getD x 0 = (padByte s g.place.core (32 * f.bsc + k / 32 * j + x)).toNat

/-- Every MX scale byte of a product lies in a bank of the context (R162). -/
def scalesOk (s : State) (g : Group) (f : FBlock) (k : Nat) : Prop :=
  famOf f.af = 1 → ∀ o, o = f.asc ∨ o = f.bsc → ∀ x < k, 32 * o + x < 2 ^ 21 ∧ ownsBank s g.place.core g.ctx ((32 * o + x) / 4096) = true

/-- The context with the multiply-accumulates of a product charged: 1,024 for each k taken from a slot, to every region in the
slot's mask (R163, R190). -/
def macsCharged (q : Quad) (f : FBlock) (k : Nat) (c : Ctx) : Ctx :=
  (f.runs k).foldl (fun c r => charge true (q.slot r.1).rmask (1024 * r.2) c) c

/-- Accepted work of the issuing path (R150). -/
def matOp (s : State) (g : Group) (k : OpKind) : Op :=
  { gid := s.iss.gid, slot := s.iss.slot, ctx := g.ctx, core := g.place.core, perf := false, lost := 0, born := s.clocks.nets, kind := k }

/-- R163: the k-steps in runs of P; over each run a narrow sum starts at +0 and takes each step's exact sum with one rounding to
NS24, and after each run it is promoted into the accumulator with one rounding to FP32. The flags of every step are united. -/
def twoLevel (p : Nat) (steps : List (List FV × List FV)) (acc : Nat) : Nat × Nat :=
  (chunks p (steps.length + 1) steps).foldl (fun a run =>
    let n := run.foldl (fun n st =>
      let x := stepSum st.1 st.2
      let r := sumRound NS24 (NS24.val n.1) x.1.posZero
      (r.1, n.2 ||| x.2 ||| r.2)) (0, 0)
    let z := sumRound F32 (F32.val a.1) (NS24.val n.1)
    (z.1, a.2 ||| n.2 ||| z.2)) (acc, 0)

/-- What accepted work makes of element (i, j) of accumulator `t`, with its flags (R163, R165). -/
def workResult (k : MatKind) (q : Quad) (t i j : Nat) : Nat × Nat :=
  let acc (u : Nat) : Nat := (q.acc.get 0 (1024 * u + 32 * i + j)).toNat
  match k with
  | .zero => (0, 0)
  | .prom b =>
    let x := (F32.val (acc t)).add 0 (F32.val (acc b))
    ((x.1.into F32 0 0 false false).1, x.2 ||| (x.1.into F32 0 0 false false).2)
  | .mm af bf p a b asc bsc fx _ _ =>
    twoLevel p (List.zip (stepVals af fx (a.getD i []) (asc.getD i [])) (stepVals bf fx (b.getD j []) (bsc.getD j []))) (acc t)

/-- The groups that take a work's flags: for a product of a gang all its members, else the issuing group (R149). -/
def flagged (k : MatKind) (gid : Nat) : List Nat :=
  match k with
  | .mm _ _ _ _ _ _ _ _ _ l => l
  | _ => [gid]

/-- The key of a record as an integer in the order of its format (R169, Table SRT.1): signed, unsigned, or the total order of
floating-point codes. -/
def keyOrder (kf x : Nat) : Int :=
  match kf with
  | 0 => toI 32 x
  | 2 => if x / 2 ^ 31 % 2 = 1 then -(x % 2 ^ 31 : Nat) - 1 else x
  | 3 => if x / 2 ^ 15 % 2 = 1 then -(x % 2 ^ 15 : Nat) - 1 else x
  | 4 => if x / 2 ^ 15 % 2 = 1 then -(x % 2 ^ 15 : Nat) - 1 else x
  | _ => x
/-- Bits of a key (Table SRT.1). -/
def keyBits (kf : Nat) : Nat := if kf = 5 then 64 else if kf = 3 ∨ kf = 4 then 16 else 32

/-- R171: p comes before q in direction `dir`: by key order, and among equal keys by ascending position. -/
def comesBefore (kf dir : Nat) (p q : Cell) : Prop :=
  (if dir = 0 then keyOrder kf p.key < keyOrder kf q.key else keyOrder kf q.key < keyOrder kf p.key) ∨
    (keyOrder kf p.key = keyOrder kf q.key ∧ p.pos < q.pos)

/-- Cell `i` of the array. -/
def cellAt (l : List Cell) (i : Nat) : Cell := l.getD i { key := 0, pay := 0, pos := 0 }

/-- The pair (lo, hi) is put in order: exchanged where the record at `hi` comes before the one at `lo` (R172). -/
def exchanged (kf dir : Nat) (old new : List Cell) (lo hi : Nat) : Prop :=
  (comesBefore kf dir (cellAt old hi) (cellAt old lo) → cellAt new lo = cellAt old hi ∧ cellAt new hi = cellAt old lo) ∧
  (¬comesBefore kf dir (cellAt old hi) (cellAt old lo) → cellAt new lo = cellAt old lo ∧ cellAt new hi = cellAt old hi)

/-- Bytes of a record (R170). -/
def recordBytes (kf : Nat) : Nat := if kf = 5 then 16 else 8

/-- The issuing quadrant owns the core's sort array, and the instruction need not wait for it (R174, R175). -/
def sortMine (s : State) (g : Group) : Prop := (s.core g.place.core).sortq = g.place.quad

/-- The engine operations: function, k, number of descriptor registers, destination, first descriptor register (R143, R332). -/
def engineForm (i : Instr) : Option (Nat × Nat × Nat × Nat × Nat) :=
  match i with
  | .acopy a b => some (0, 0, 4, a, b)
  | .acopyo a b k => some (1, k, 4, a, b)
  | .agath a b => some (2, 0, 5, a, b)
  | .ascat a b k => some (3, k, 5, a, b)
  | .acoll a b k => some (4, k, 5, a, b)
  | .mcast a b k => some (5, k, 5, a, b)
  | _ => none

/-- What a descriptor of registers `r` describes (Table MEM.7, R332): gathers and scatters have an index tile, a collective its
arrival counter, a multicast a landing offset and no pitch. -/
def engineOp (fn k : Nat) (r : Nat → Nat) : EngOp :=
  { eng := [0, 0, 1, 1, 2, 2].getD fn 0, fn := fn, seq := 0, addr := r 0
    pitch := if fn = 5 then 0 else toI 32 (r 1 / 2 ^ 32 % 2 ^ 32)
    secs := r 1 / 2 ^ 16 % 2 ^ 16, rows := r 1 % 2 ^ 16, off := r 2 / 2 ^ 8 % 2 ^ 24, tile := r 2 % 2 ^ 8, rec_ := r 3
    itile := if fn = 2 ∨ fn = 3 then r 4 % 2 ^ 8 else 0, ioff := if fn = 2 ∨ fn = 3 then r 4 / 2 ^ 8 % 2 ^ 24 else 0
    cnt := if fn = 4 then r 4 else 0, opc := k % 8, keep := if fn = 4 then 8 ≤ k else k % 2 = 1
    idx := [], todo := [], moved := false, status := 0, denied := [], recDrop := false, rmask := 0, targets := []
    loff := if fn = 5 then r 4 / 2 ^ 8 % 2 ^ 24 else 0 }

/-- R145 step 1: the descriptor's counts are legal. -/
def engineShape (e : EngOp) (r : Nat → Nat) : Prop :=
  e.secs ≠ 0 ∧ e.rows ≠ 0 ∧ (e.fn = 5 → r 1 / 2 ^ 32 % 2 ^ 32 = 0 ∧ 1 ≤ r 4 % 256 ∧ r 4 % 256 ≤ 64 ∧ r 4 / 2 ^ 32 % 2 ^ 32 = 0)
/-- R145 step 2: its addresses and offsets are aligned. -/
def engineAligned (e : EngOp) (r : Nat → Nat) : Prop :=
  r 0 % (if e.fn = 5 then 8 else 32) = 0 ∧ (e.fn ≠ 5 → r 1 / 2 ^ 32 % 2 ^ 32 % 32 = 0) ∧ e.off % 32 = 0 ∧ e.rec_ % 16 = 0 ∧
    e.ioff % 4 = 0 ∧ e.cnt % 8 = 0 ∧ e.loff % 32 = 0
/-- The tiles that it names. -/
def engineTiles (e : EngOp) : List Nat := if e.fn = 2 ∨ e.fn = 3 then [e.tile, e.itile] else [e.tile]
/-- R139, R145 steps 6 and 7: an inbound tile is registered and empty, any other registered and ready, and the data fit. -/
def engineFits (s : State) (core : Nat) (e : EngOp) : Prop :=
  let x := s.tile core e.tile
  let y := s.tile core e.itile
  x.reg = true ∧ x.st = (if e.fn = 0 ∨ e.fn = 2 then .empty else .ready) ∧ e.off + 32 * e.secs * e.rows ≤ 4096 * x.count ∧
    (e.fn = 2 ∨ e.fn = 3 → y.reg = true ∧ y.st = .ready ∧ e.ioff + 4 * e.rows ≤ 4096 * y.count)

/-- The state with the operation issued: it takes the next sequence number of its engine and context, which goes to S(d), and its
tile fills or drains (R144 to R146). -/
def engineIssued (s : State) (g : Group) (d : Nat) (e : EngOp) : State :=
  let core := g.place.core
  let key := 65536 * e.eng + g.ctx
  let seq := (s.core core).eseq.get 1 key
  let u := (s.modCore core fun c => { c with eseq := c.eseq.set 1 key (seq + 1) }).modTile core e.tile fun t =>
    { t with st := if e.fn = 0 ∨ e.fn = 2 then .filling else .draining }
  wrote (.s d (BitVec.ofNat 64 seq)) (u.addOp (matOp s g (.eng { e with seq := seq })))

/-- The work items of an operation: sectors, or elements of a collective (R144). -/
def engineItems (e : EngOp) : Nat := e.rows * e.secs * (if e.fn = 4 then (if e.opc = 1 ∨ e.opc = 2 then 16 else 8) else 1)

/-- No packet of the operation is shown on its way, and nothing that precedes it in its path's order, or in that of the path that a
handler serves, is still to be performed (R146, R276, R286). -/
def AfterOthers (s : State) (o : Nat) (op : Op) : Prop :=
  enRoute s o = false ∧ (∀ y ∈ before s o op, y.2.undone = false) ∧
    ∀ h gid slot, s.group? op.gid = some h → h.kind = .trapH gid slot → ∀ z ∈ s.ops, z.2.of gid slot = true → z.2.undone = false

/-- R333: a landing tile takes a delivery: registered, ready and of the generation named; its bank and a quadrant of its core
belong to the resident sending context; and the data fit. -/
def landingOk (s : State) (c : Nat) (e : EngOp) (x : Target) : Prop :=
  let t := s.tile x.core x.tile
  t.reg = true ∧ t.st = .ready ∧ t.gen = x.gen ∧ bankOwner s x.core (2 * x.tile) = c ∧ (s.ctx? c).map Ctx.st = some .resident ∧
    (∃ q < 4, (s.quad (4 * x.core + q)).owner = c) ∧ e.loff + 32 * e.secs * e.rows ≤ 4096 * t.count

/-- A message whose packet has come to its destination, or to the link it leaves by, behind every access that its amsg releases: the message
of operation `op`, of the sender's context or, for a peer's, of the one bound to it (R211, R281, R331). -/
def OnItsWay (s : State) (m : AMsg) (op : Op) : Prop :=
  s.ops.find? m.op = some op ∧ op.kind = .amsg m ∧ op.perf = false ∧ op.lost = 0 ∧ (∀ y ∈ before s m.op op, y.2.undone = false) ∧
    ∀ q ∈ s.packets, q.job = .op → q.op = m.op → q.arrived s = true ∧ q.whole s = true

/-- Range record `i` of a bundle descriptor at `pa`: BASE, LINES, and the reserved bytes (R291). -/
def rangeRec (s : State) (pa i : Nat) : Nat × Nat × Nat := (s.rd (pa + 16 * i) 8, s.rd (pa + 16 * i + 8) 4, s.rd (pa + 16 * i + 12) 4)
/-- The ranges in use, in order. -/
def rangesUsed (s : State) (pa : Nat) : List (Nat × Nat) :=
  (((List.range 4).map (rangeRec s pa)).filter fun r => r.2.1 ≠ 0).map fun r => (r.1, r.2.1)
/-- R291: a descriptor without a corner: at most 256 lines to a range, aligned, nothing where unused; 1 to 1,024 lines, disjoint. -/
def rangesOk (s : State) (pa : Nat) : Prop :=
  (∀ i < 4, let r := rangeRec s pa i; r.2.2 = 0 ∧ r.2.1 ≤ 256 ∧ r.1 % (if r.2.1 = 0 then 2 ^ 64 else 128) = 0) ∧
    1 ≤ ((rangesUsed s pa).map Prod.snd).sum ∧ ((rangesUsed s pa).map Prod.snd).sum ≤ 1024 ∧
    (rangesUsed s pa).Pairwise fun a b => a.1 + 128 * a.2 ≤ b.1 ∨ b.1 + 128 * b.2 ≤ a.1
/-- The lines of the ranges, as virtual addresses. -/
def rangeLines (s : State) (pa : Nat) : List Nat := (rangesUsed s pa).flatMap fun r => (List.range r.2).map fun i => r.1 + 128 * i

/-- A directory entry that a bopen may take (R303). -/
def dirFree (s : State) (die i : Nat) : Prop := ∀ d, (s.die die).dirs.find? i = some d → dirView s die i d = .drained

/-- A handle as its register value (R291). -/
def handleWord (h : Handle) : W64 := BitVec.ofNat 64 (h.gen % 2 ^ 14 * 2 ^ 18 + (4 * h.dom + h.die) % 2 ^ 8 * 2 ^ 10 + h.idx)

/-- A BUNDLE trap with its reason, which bstat can read (R302). -/
def bundleTrap (s : State) (g : Group) (p : Path) (r : Nat) : State :=
  trapsBefore s g p .bundle r (s.modGroup s.iss.gid fun x => { x with bReason := r })

/-- No preparing version of bundle `h` is left at any line (R304). -/
def noVersionOf (h : Handle) (u : State) : Prop := ∀ x ∈ u.lines, ∀ v k, x.2.prep = some (v, k) → k ≠ h

/-- The read set with entries whose bundle has drained marked LOST (R298). -/
def readSet (s : State) (g : Group) : List RSEntry :=
  g.readset.map fun e => match e.ref with
    | some h => if (refLines s h).isNone then { e with lost := true } else e
    | none => e

/-- R298: some entry whose bundle's ranges hold this entry's line carries a greater stamp. -/
def isFractured (s : State) (rs : List RSEntry) (e : RSEntry) : Prop :=
  ∃ x ∈ rs, ∃ h ls, x.ref = some h ∧ refLines s h = some ls ∧ e.line ∈ ls ∧ e.stamp < x.stamp

/-- The record of a frame at virtual address `va` lies in one page that the core's TLBs translate for the need, at key `k` (R242). -/
def recordAt (s : State) (g : Group) (va : Nat) (n : Need) (k : Nat) : Prop :=
  badVa va = false ∧ va % 4096 + 1152 ≤ 4096 ∧ trOne s g.place.core g.ctx va n false = .key k

/-- Word `i` of a record at key `k`. -/
def recWord (s : State) (k i : Nat) : Nat := s.rd (k + 8 * i) 8

/-- Codes of Table FRM.3. -/
def frameCode (x : FrameSt) : Nat :=
  match x with
  | .joined => 0 | .latent => 1 | .promoting => 2 | .promoted => 3 | .running => 4 | .done => 5 | .inlined => 6 | .reserved => 7

/-- The registers after a frame's `ns` scalars and `nv` vectors are written to its argument registers, vector lanes of the
mask only (R253). -/
def argScalars (g : Group) (sa ns : Nat) (x : Nat → W64) (n : Nat) : W64 := if sa < n ∧ n ≤ sa + ns then x (n - sa - 1) else rS g n
def argVectors (g : Group) (vb nv : Nat) (mask : W32) (x : Nat → Nat → W64) (n l : Nat) : W64 :=
  if vb ≤ n ∧ n < vb + nv ∧ mask.getLsbD l then x (n - vb) l else rV g n l

/-- The frames of the family that a group belongs to (R240, R256). -/
def familyFrames (s : State) (g : Group) : List Frame :=
  s.groups.flatMap fun y => if y.2.ctx = g.ctx ∧ y.2.frbase = g.frbase then y.2.paths.flatMap fun q => q.2.frames else []

/-- A group's frames of record `addr` brought to a state. -/
def framesTo (l : List Frame) (addr : Nat) (st : FrameSt) : List Frame := l.map fun x => if x.addr = addr then { x with st := st } else x

/-- The record of a frame holds its fields (Table FRM.1, Table FRM.2). -/
def recordHolds (t : State) (k : Nat) (f : Frame) (st : FrameSt) (parent : Nat) : Prop :=
  recWord t k 0 = f.sa * 2 ^ 25 + f.vb * 2 ^ 18 + f.nv * 2 ^ 15 + f.ns * 2 ^ 11 + frameCode st ∧ recWord t k 1 = f.target.toNat ∧
    recWord t k 2 = f.mask.toNat ∧ recWord t k 3 = f.fpmode.toNat ∧ recWord t k 5 = f.ret.toNat ∧ recWord t k 6 = f.smask.toNat ∧
    recWord t k 7 = parent ∧ (∀ i < 8, recWord t k (8 + i) = if i < f.ns then (f.sargs.getD i 0).toNat else 0) ∧
    ∀ i < 4, ∀ l < 32, recWord t k (16 + 32 * i + l) = if i < f.nv then (f.vargs.get 0 (32 * i + l)).toNat else 0
/-- A frame's register numbers and counts fit the header (R252). -/
def frameFits (f : Frame) : Prop := f.sa < 128 ∧ f.vb < 128 ∧ f.nv ≤ 4 ∧ f.ns ≤ 8
/-- PARENT: the forking core, PGROUP and PSLOT (Table FRM.1). -/
def parentOf (s : State) (g : Group) (slot : Nat) : Nat := (g.place.core * 2 ^ 16 + pgroup s g * 2 ^ 8 + slot % 128) % 2 ^ 64

/-- Every path of the group that holds live lanes has arrived at a barrier in a phase, or every path, where none holds any (R258, R263). -/
abbrev hasArrived (g : Group) (coh : Bool) (k ph : Nat) : Prop :=
  g.paths ≠ [] ∧ ((∃ q ∈ g.paths, q.2.mask ≠ 0) → ∀ q ∈ g.paths, q.2.mask ≠ 0 → (coh, k, ph) ∈ q.2.arrivals) ∧
    ((∀ q ∈ g.paths, q.2.mask = 0) → ∀ q ∈ g.paths, (coh, k, ph) ∈ q.2.arrivals)

/-- The condition and continuation of a path. -/
def waitsAt (s : State) (gid slot : Nat) (w : Wake) (pc : W64) : Prop :=
  ∃ q, s.path? gid slot = some q ∧ q.cond = .waiting w ∧ q.after_ = pc
/-- The path is ready at `pc`. -/
def readyAt (s : State) (gid slot : Nat) (pc : W64) : Prop := ∃ q, s.path? gid slot = some q ∧ q.cond = .ready ∧ q.pc = pc ∧ q.rep = 0

/-- No operation of the group in the classes `c` is in flight (R147): copies, gathers, sorts, atomics, bundles, collectives. -/
def classesIdle (s : State) (gid c : Nat) : Prop :=
  (∀ o ∈ s.ops, o.2.gid = gid → match o.2.kind with
    | .eng e => c / 2 ^ (if e.eng = 0 then 0 else if e.eng = 1 then 1 else 5) % 2 = 0
    | .mem m => ∀ fn, m.k = .atom fn → c / 2 ^ 3 % 2 = 0
    | .bclose _ _ => c / 2 ^ 4 % 2 = 0
    | .bfetch _ _ _ => c / 2 ^ 4 % 2 = 0
    | _ => True) ∧
  (c / 2 ^ 2 % 2 = 1 → ∀ k ∈ s.cores, k.2.sort.gid = gid → k.2.sort.st ≠ .loading ∧ k.2.sort.st ≠ .running ∧ k.2.sort.st ≠ .storing)

/-- A troupe queue at scratchpad offset `q`: aligned, all of it in the context's banks, a capacity that is a power of two from 1 to
1,024, and nothing in the reserved bytes (R206, R208). -/
def queueLegal (s : State) (g : Group) (q : Nat) : Prop :=
  let core := g.place.core
  let cap := padRd s core (q + 16) 2
  q % 32 = 0 ∧ q + 32 + 256 * cap ≤ 2 ^ 21 ∧ (∀ b, q / 4096 ≤ b → 4096 * b < q + 32 + 256 * cap → ownsBank s core g.ctx b = true) ∧
    (∃ e ≤ 10, cap = 2 ^ e) ∧ padRd s core (q + 18) 14 = 0

/-- The tables from level `n` with the one at `tbl` down lead `va` to the entry at key `a` of level `lv` (R310): each entry above is valid,
points to the next table and has no other bit. -/
def tablesLead (s : State) (va a lv : Nat) : Nat → Nat → Prop
  | 0, _ => False
  | n + 1, tbl =>
    let here := tbl + 8 * (va / 2 ^ (12 + 9 * n) % 512)
    let e := s.rd here 8
    (n + 1 = lv ∧ a = here) ∨ (lv ≤ n ∧ e % 2 ^ 12 = 1 ∧ e < 2 ^ 57 ∧ tablesLead s va a lv n (e / 4096 * 4096))

/-- A bit of a page table entry. -/
def pteBit (e n : Nat) : Bool := e / 2 ^ n % 2 = 1

/-- A valid entry `e` of level `lv` at key `a` has a bit that it may not have, is a leaf where none may be, or is none at level 1 (R310, R311). -/
abbrev entryBad (lv e : Nat) : Prop :=
  2 ^ 57 ≤ e ∨ pteBit e 1 = true ∨ (pteBit e 8 = true ∧ 4 ≤ lv) ∨ (pteBit e 8 = false ∧ (lv = 1 ∨ e % 2 ^ 12 ≠ 1))
/-- The entry of a run of sixteen without A and D, which alone may differ. -/
abbrev bareEntry (e : Nat) : Nat := e - 64 * (e / 64 % 2) - 128 * (e / 128 % 2)
/-- The leaf `e` of level `lv` at key `a`, which `va` leads to, maps a page of size code `size` (R310): 4 KiB, a run of 64 KiB, 2 MiB, 1 GiB. -/
abbrev leafSize (s : State) (va lv e a size : Nat) : Prop :=
  (lv = 1 ∧ pteBit e 9 = false ∧ size = 0) ∨
  (lv = 1 ∧ pteBit e 9 = true ∧ size = 1 ∧ let first := a - 8 * (va / 2 ^ 12 % 16)
    s.rd first 8 / 2 ^ 12 % 16 = 0 ∧ ∀ i < 16, bareEntry (s.rd (first + 8 * i) 8) = bareEntry (s.rd first 8) + 4096 * i) ∨
  (lv = 2 ∧ pteBit e 9 = false ∧ e / 2 ^ 12 % 2 ^ 9 = 0 ∧ size = 2) ∨ (lv = 3 ∧ pteBit e 9 = false ∧ e / 2 ^ 12 % 2 ^ 18 = 0 ∧ size = 3)

/-- The only walk of a die, with the one path that waits for it and what that path needs. -/
def soleWalk (s : State) (d w : Nat) (k : Walk) (gid slot : Nat) (n : Need) (g : Group) (q : Path) : Prop :=
  (∃ di, s.dies = [(d, di)] ∧ di.walks = [(w, k)] ∧ di.faults = []) ∧ k.paths = [(gid, slot, n)] ∧ s.group? gid = some g ∧
    g.paths.find? slot = some q ∧ q.cond = .parked 1 ∧ k.va % 4096 = 0 ∧ k.va < 2 ^ 57 ∧
    ∃ x, s.ctx? k.ctx = some x ∧ x.dirtyLog = 0

/-- Wire groups of a boundary that point the other way and are not turning, lowest first, of which a turn takes those allotted to
its context when it was queued, at most N, leaving eight (R336). -/
def turnTakes (b : Bound) (t : Turn) : List Nat :=
  let opp := (List.range 96).filter fun w => (b.west / 2 ^ w % 2 = 1) ≠ (t.west = true) ∧ b.turning.find? w = none
  (opp.filter fun w => t.allot / 2 ^ w % 2 = 1).take (min t.n (opp.length - 8))

/-! Commands of kernel queues. -/

/-- Queue `c.q` takes up the record `c` next, in sequence, and accepts it (R201, R202, R209, R210). -/
structure Taken (op : Nat) (c : Cmd) (s : State) : Prop where
  op   : c.op = op
  due  : cmdDue s c = true
  form : cmdForm s c = true
  may  : cmdAllowed s c = true

/-- The command ends with STATUS and RESULT, its effect having left the state `u`. -/
def ends (c : Cmd) (st res : Nat) (u : State) : Host.Outcome State Fault Refusal := .next (complete c.q c.seq st res u)

/-- The command stays in progress; what it has done so far left the state `u`. -/
def lasts (c : Cmd) (u : State) : Host.Outcome State Fault Refusal := .next (u.modQ c.q fun q => { q with busy := some c })

/-- A 4- or 8-byte word of the anchor of a host queue. -/
def anchorWord (s : State) (q : KQueue) (off n : Nat) : Nat := s.rd (locKey 0 (q.anchor + off)) n

/-- The completion ring of a host queue has room (R201). -/
def ringRoom (s : State) (q : KQueue) : Prop := q.cqSeq - anchorWord s q 0x38 8 < anchorWord s q 0x18 4

/-- Memory after a completion of a host queue: its record at its place, then CQSEQ (R200, R201). -/
def ringWritten (s : State) (q : KQueue) (seq st res : Nat) : SMap Byte :=
  let n := q.cqSeq + 1
  putBytes (putBytes s.mem (locKey 0 (anchorWord s q 0x10 8 + 32 * (n % anchorWord s q 0x18 4)))
    (bytesLE 8 n ++ bytesLE 8 seq ++ bytesLE 4 st ++ bytesLE 4 0 ++ bytesLE 8 res)) (locKey 0 (q.anchor + 0x30)) (bytesLE 8 n)

/-- A context number that names no context (R184). -/
def numberBad (n : Nat) : Prop := n = 0 ∨ 65535 < n

/-- Context `n` exists in one of the states. -/
def inState (s : State) (n : Nat) (x : Ctx) (l : List CSt) : Prop := ¬numberBad n ∧ s.ctx? n = some x ∧ x.st ∈ l

/-- A created context that a registration or a grant reaches is loading (Table CTX.1). -/
def begun (st : CSt) : CSt := if st = .created then .loading else st

/-- The commands that begin by naming their context in the first argument. -/
noncomputable def namesContext (c : Cmd) : List (Nat × Instr) :=
  [(2, .regkernel c), (3, .regregion c), (4, .regtask c), (8, .resume c), (9, .switch c), (10, .migrate c), (11, .destroy c),
   (23, .bind c), (24, .allot c)]

/-- Quadrant `q` of core `k`, in the numbering of the device. -/
def quadNo (x : Nat × Nat) : Nat := 4 * x.1 + x.2

/-! The host port, messages and events. -/

/-- The host's event ring has room and no record is held back (R364). -/
def EventRoom (s : State) : Prop := s.host.eqHeld = [] ∧ s.host.eqTail - s.host.eqHead < s.host.eqSize

/-- A RECORD IS POSTED to the host's event ring: at its place, with the next sequence number (R364). -/
def Posts (s t : State) (typ ctx : Nat) (body : List (Nat × Nat)) : Prop :=
  t.mem = putBytes s.mem (locKey 2 (s.host.eqBase + 32 * (s.host.eqSeq % s.host.eqSize))) (recBytes (s.host.eqSeq + 1) typ ctx body) ∧
  t.host = { s.host with eqSeq := s.host.eqSeq + 1, eqTail := s.host.eqSeq + 1 }

/-- The device has power and its registers are served in full (R362). -/
def Served (s : State) : Prop := s.power.st ≠ .off ∧ s.boot ≠ .failed

/-- The host register file changed by `f`, and nothing else. -/
def hostNow (s : State) (f : HostPort → HostPort) : State := { s with host := f s.host }

/-- The Porter reads the message `m`, of operation `op`, next, and its ring to the host has room (R355, R356, R361). -/
structure Message (op : Nat) (m : Msg) (s : State) : Prop where
  served : Served s
  ready  : s.boot = .ready
  head   : msgAt s = some m
  op     : m.op = op
  room   : s.host.p2hFull = false

/-- The state in which the message has been taken from its ring. -/
def taken (s : State) : State := { s with host := { s.host with h2pHead := (s.host.h2pHead + 1) % 2 ^ 32 } }

/-- THE PORTER REPLIES to `m` with a status and words, having left the state `u` (R356). -/
def replies (m : Msg) (st : Nat) (ws : List Nat) (u : State) : Host.Outcome State Fault Refusal :=
  .next (mboxPut u (((m.op + 2 ^ 15) * 2 ^ 48 + m.ctx * 2 ^ 32 + m.seq) :: st :: ws))

/-- The operations of Table TRP.6 that ask for an attached Porter. -/
noncomputable def porterCalls (m : Msg) : List (Nat × Instr) :=
  [(2, .detach m), (3, .porterHalt m), (4, .porterResume m), (5, .porterStep m), (6, .stepgrp m), (7, .setbrk m), (8, .clrbrk m),
   (9, .rdreg m), (10, .wrreg m), (11, .rdmem m), (12, .wrmem m)]

/-- An access of the path (group, slot) is parked: the path waits for a translation, or a claim of its record waits in a fault of the
die (R191, R240, R315). -/
def parkedIn (d : Die) (q : Nat × Nat) (p : Path) : Prop := (∃ va, p.cond = .parked va) ∨ ∃ f ∈ d.faults, q ∈ f.2.claims

/-! Steps. -/

/-- The issue record of a path at its pc, for an instruction word at place `k` of its run (R65). -/
def issAt (p : Path) (gid slot : Nat) (pre : Prefixes) (k : Nat) : Iss :=
  { gid := gid
    slot := slot
    addr := p.pc
    at_ := p.pc + BitVec.ofNat 64 (4 * k)
    next := p.pc + BitVec.ofNat 64 (4 * (k + 1))
    pre := pre
    rep := p.rep }

/-- THE STATE IN WHICH AN INSTRUCTION RUNS: its issue is noted in its partition, it is the one that issues, and a step the debugger asked
for is marked (R225, R358). -/
def issuing (s : State) (p : Path) (i : Issue) (pre : Prefixes) (k : Nat) : State :=
  ({ noteIssue i s with iss := issAt p i.gid i.slot pre k } : State).modPath fun q =>
    if q.stepReq = 1 then { q with stepAt := q.pc, stepNext := p.pc + BitVec.ofNat 64 (4 * (k + 1)) } else q

/-- The path stands at its pc with no trap due there, its address translates to the physical key `k`, and no memory error that the context
has not been told of stands in the words of its run. -/
structure Fetches (s : State) (gid slot : Nat) (g : Group) (p : Path) (k : Nat) : Prop where
  group : s.group? gid = some g
  path  : g.paths.find? slot = some p
  clear : p.fpx = none ∧ p.stepReq ≠ 2 ∧ p.fmem = false ∧ cmpHit s g p = none
  canon : badVa p.pc.toNat = false
  key   : trOne s g.place.core g.ctx p.pc.toNat Need.fetch false = .key k
  live  : p.aborted = true → ∀ f ∈ p.permFail, f.2.2 = 0 → inPage f.1 f.2.1 p.pc.toNat = false
  told  : ∀ j < runMax, ∀ x, trOne s g.place.core g.ctx (p.pc + BitVec.ofNat 64 (4 * j)).toNat Need.fetch false = .key x →
    NoneToTell s g.ctx (linesOf x 4)
end Sys2Proof.Claims

open Sys2Proof Sys2Proof.Machine Sys2Proof.Claims

/-- R77 to R83: every scalar, bit and mask instruction that is admitted completes, with exactly its result: the destination
register takes the value of its table, s0 takes no write (R47), the path goes on, and nothing else of the state changes. -/
def Obligations.ScalarAndMaskResults : Prop := Completed scalarEffect

/-- R92 to R101, R109: every integer vector instruction that is admitted completes with exactly its result in the acting
lanes, and SAT, once, where a sub-element of an acting lane saturates; and vneg followed by vadd.sat.i subtracts, but of −2^(w−1) (R97). -/
def Obligations.IntegerVectorResults : Prop := Completed vectorEffect ∧
  ∀ c < 4, ∀ x y : Nat, y < 2 ^ wOf c → y ≠ 2 ^ (wOf c - 1) → toI (wOf c) x + toI (wOf c) (wrap (wOf c) (-(y : Int))) = toI (wOf c) x - toI (wOf c) y

/-- R102 to R106, R112 to R114: floating-point arithmetic, compares, bit forms and helpers. The model's own choices among them: when
a result is tiny (log 10), the sign of a zero remainder of the reductions (log 12), the ranges of the seeds (log 51). -/
def Obligations.FloatVectorResults : Prop := Completed floatEffect

/-- R107, R108: conversions, with the merging of narrow results. The model's own choices among them: vcvt.f32.f16 and vcvt.f32.bf16 flush a
subnormal result under FTZ and keep NV alone of its flags (log 50, between R28 and R108); the extra value of f4 is taken as it is, in vcvt.f32.f4
(log 22); overflow and tininess of the rounding conversions (log 10). -/
def Obligations.ConversionResults : Prop := Completed convertEffect

/-- R115: vshfl.e32 completes: sub-element e of each acting lane takes the 32-bit sub-element that bit 0 of its index names, of the lane that
bits 7:3 name, and 0 where that lane does not act (R110). -/
def Sys2Proof.Claims.ShuffleOfHalves : Prop :=
  ∀ (d a b : Nat) (s : State) (g : Group) (p : Path), Admitted { acc := accV3, rd := vR [a, b], wr := vR [d] } s g p → s.pipeHold = false →
    let from_ (x : Nat) : W64 := if (act s g p).getLsbD (x / 8 % 32) then rV g a (x / 8 % 32) else 0
    ∃ t, exec (.vshfleE32 d a b) s = .next t ∧
      Computes s s t g p (vR [d]) (rS g) (setV s g p d fun l =>
        mapE 32 fun e => elem 32 (from_ (elem 32 (rV g b l) e)) (elem 32 (rV g b l) e % 2)) (fun n => g.m.get 0 n) 0

/-- R110, R115 to R122: vshfl, vshfl.e32, vpswap, vrot, vbfly, vput, vget, vbcast, vcompact, vexpand, vlaneid, the prefixes, reductions, maxima
with their index, votes and ballots, and the quad exchanges each complete with exactly their result. The model's own choices among them: of two
NaN candidates of vmaxidx with equal index the lower lane's (log 48), and FTZ leaves a value that no sum rounds (log 105).
And: R115: vshfl.e32 completes: sub-element e of each acting lane takes the 32-bit sub-element that bit 0 of its index names, of the lane that
bits 7:3 name, and 0 where that lane does not act (R110). -/
def Obligations.CrossLaneResults : Prop := Completed crossEffect ∧ Claims.ShuffleOfHalves

/-- R123, R124: packing to and unpacking from the PX and MX blocks. -/
def Sys2Proof.Claims.BlockPackingResults : Prop := Completed blockEffect

/-- R34, R117: vred.add.f32 writes the tree's sum of the acting lanes to every acting lane. -/
def Sys2Proof.Claims.TreeSumResult : Prop :=
  ∀ (d a : Nat) (s : State) (g : Group) (p : Path), Admitted { acc := accR2, rd := vR [a], wr := vR [d] } s g p →
    s.pipeHold = false →
    let n := 2 * (actLanes s g p).length
    let r := treeSum s g p a (drawn s g n)
    ∃ t, exec (.vredAddF32 d a) s = .next t ∧
      Computes s { drawnFrom s g n with fresh := s.fresh + 64 } t g p (vR [d]) (rS g) (setV s g p d fun _ => mapE 32 fun e => (r e).1)
        (fun k => g.m.get 0 k) (if (actLanes s g p).isEmpty then 0 else (r 0).2 ||| (r 1).2)

/-- R123, R124: packing to and unpacking from the PX and MX blocks (signed zeros of an MX block of zeros: log 49).
And: R34, R117: vred.add.f32 writes the tree's sum of the acting lanes to every acting lane; the draw of a stage whose drawing lane does not
act is a free value (log 13), and FTZ leaves a value that no sum rounds (log 105). -/
def Obligations.PackingAndTreeSumResults : Prop := Claims.BlockPackingResults ∧ Claims.TreeSumResult

/-- R125 to R128, R132, R133, R135: a load, store or atomic whose lanes are aligned and translated, and that no bundle and no ABORT stops,
is in flight with exactly its lanes' addresses, operands, order and scope; nothing else changes, memory included; with no
lane it only goes on. -/
def Obligations.MemoryAccessesIssue : Prop :=
  ∀ (i : Instr) (s : State) (g : Group) (p : Path) (x : Access) (pa : W64 → Nat), memAccess s g p i = some x → Admitted x.adm s g p →
    (∀ l ∈ x.lanes, addrOk x.n l.2.1 ∧ trOne s g.place.core g.ctx l.2.1.toNat x.need false = .key (pa l.2.1) ∧ notAborted p l.2.1) →
    bundleOk s g x pa →
    exec i s = .next (goesOn s g p (if x.lanes = [] then s else s.addOp (accessOp s g x pa)))

/-- R127: the first lane in ascending order with a bad address decides: PERM for bits 63:57, ALIGN for a misaligned address;
then, with every page's translation known, the first lane without permission traps PERM (R132, R189, R311), and so does the first whose
access an ABORT ended (R315). -/
def Sys2Proof.Claims.MemoryAddressTraps : Prop :=
  ∀ (i : Instr) (s : State) (g : Group) (p : Path) (x : Access), memAccess s g p i = some x → Admitted x.adm s g p → Ordinary g →
    (∀ pre l post, x.lanes = pre ++ l :: post → (∀ q ∈ pre, addrOk x.n q.2.1) →
      (badVa l.2.1.toNat = true → exec i s = .next (trapsBefore s g p .perm l.2.1.toNat s)) ∧
      (badVa l.2.1.toNat = false → l.2.1.toNat % x.n ≠ 0 → exec i s = .next (trapsBefore s g p .align l.2.1.toNat s))) ∧
    ((∀ l ∈ x.lanes, addrOk x.n l.2.1 ∧ trOne s g.place.core g.ctx l.2.1.toNat x.need false ≠ .miss) →
      ∀ pre l post, x.lanes = pre ++ l :: post →
        (∀ q ∈ pre, trOne s g.place.core g.ctx q.2.1.toNat x.need false ≠ .perm ∧ notAborted p q.2.1) →
        trOne s g.place.core g.ctx l.2.1.toNat x.need false = .perm ∨ ¬notAborted p l.2.1 →
        exec i s = .next (trapsBefore s g p .perm l.2.1.toNat s))

/-- R132, R312: an access to one page that no TLB holds parks its path on that page's walk, which all misses of the page share,
and nothing is accessed. -/
def Sys2Proof.Claims.TranslationMissParks : Prop :=
  ∀ (i : Instr) (s : State) (g : Group) (p : Path) (x : Access) (l : Nat × W64 × Nat × Nat), memAccess s g p i = some x →
    Admitted x.adm s g p → x.lanes = [l] → addrOk x.n l.2.1 → p.failsAt l.2.1.toNat = false →
    trOne s g.place.core g.ctx l.2.1.toNat x.need false = .miss →
    let parked (u : State) : Host.Outcome State Fault Refusal :=
      .next (passes s g p (fun q => { q with counted := true, cond := .parked 1 }) u)
    let me : Nat × Nat × Need := (s.iss.gid, s.iss.slot, x.need)
    let page := pageOf l.2.1.toNat
    let ws := (s.die (dieOf g.place.core)).walks
    ((∀ w ∈ ws, ¬(w.2.ctx = g.ctx ∧ w.2.va = page)) →
      exec i s = parked { s.modDie (dieOf g.place.core) (fun d =>
        { d with walks := d.walks.put s.nextId { ctx := g.ctx, va := page, paths := [me] } }) with nextId := s.nextId + 1 }) ∧
    (∀ k w, (k, w) ∈ ws → w.ctx = g.ctx → w.va = page → (∀ y ∈ ws, y.2.ctx = g.ctx → y.2.va = page → y = (k, w)) →
      exec i s = parked (s.modDie (dieOf g.place.core) fun d =>
        { d with walks := d.walks.put k { w with paths := w.paths ++ [me] } }))

/-- R131, R136, R264, R278, R330: what an access that is no bundle store does at its home. A store writes its lanes' bytes and no other byte,
in ascending lane order where the event names no other (the model's choice where the spec leaves the order open, log 7), and waits for its
acknowledgement; a load reads and writes no byte; an atomic reads the old value and writes its function of it, lane by lane. -/
def Sys2Proof.Claims.AccessesAtHome : Prop :=
  ∀ (s : State) (o : Nat) (op : Op) (m : MemOp), AtHome s o op m → (∀ l ∈ m.lanes, l.bun = false) →
    ∃ t, exec (.homeAccess o [] false) s = .next t ∧
      (m.k = .store → t.mem = (undone m).foldl (fun mem l => putBytes mem l.pa (bytesLE m.n l.x)) s.mem ∧
        (∀ b, (∀ l ∈ undone m, b < l.pa ∨ l.pa + m.n ≤ b) → t.byte b = s.byte b) ∧
        ∃ q m', t.ops.find? o = some q ∧ q.kind = .mem m' ∧ ((m.lanes.map LaneAcc.lane).Nodup → ∀ l ∈ m'.lanes, l.done = true)) ∧
      (m.k = .load → (∀ l ∈ undone m, ownPrep s op.gid (lineOf l.pa) = false) → NoErrors s op m →
        t.mem = s.mem ∧ ((m.lanes.map LaneAcc.lane).Nodup →
          t.ops.find? o = some { op with kind := .mem { m with lanes := m.lanes.map fun l =>
            if l.done then l else { l with done := true, res := s.rd l.pa m.n } } })) ∧
      (∀ fn, m.k = .atom fn → NoErrors s op m → t.mem = (atomFold fn m.n s.mem (undone m)).1 ∧
        (∀ b, (∀ l ∈ undone m, b < l.pa ∨ l.pa + m.n ≤ b) → t.byte b = s.byte b) ∧
        ((m.lanes.map LaneAcc.lane).Nodup →
          ∃ q m', t.ops.find? o = some q ∧ q.kind = .mem m' ∧ (∀ l ∈ m'.lanes, l.done = true) ∧
            ((undone m).map fun l => (m'.lanes.find? fun x => x.lane = l.lane).map LaneAcc.res) = (atomFold fn m.n s.mem (undone m)).2.map some))

/-- R293, R296: a bundle store of one lane changes its bytes of its line's preparing version, which is made from the current version on
first use, and nothing of memory or of another line. The owning group's load of such a line reads the preparing version while its bundle
is open or preparing; of a committed bundle the version is installed first, with its stamp and reference, and then read (R294). -/
def Sys2Proof.Claims.BundleAccessesAtHome : Prop :=
  ∀ (s : State) (o : Nat) (op : Op) (m : MemOp) (l : LaneAcc) (h : Handle) (d : Dir) (v : SMap Byte), AtHome s o op m → m.lanes = [l] →
    1 ≤ m.n → lineOf (l.pa + m.n - 1) = lineOf l.pa → (s.die h.die).dirs.find? h.idx = some d → d.gen = h.gen →
    let line := lineOf l.pa
    let served (t : State) : Prop := t.ops.find? o = some { op with kind := .mem { m with lanes :=
      [{ l with done := true, res := ofBytesLE ((List.range m.n).map fun i => v.get 0 (l.pa + i)) }] } }
    (m.k = .store → l.bun = true → m.bundle = some h → d.st = .open_ ∨ d.st = .preparing →
      ((s.line line).prep = some (v, h) ∨ ((s.line line).prep = none ∧ versionRoom s line = some s ∧ v = lineCells s line)) →
      ∃ t w, exec (.homeAccess o [] false) s = .next t ∧ t.mem = s.mem ∧ t.line line = { s.line line with prep := some (w, h) } ∧
        (∀ x, x ≠ line → t.line x = s.line x) ∧
        ∀ b, w.get 0 b = if l.pa ≤ b ∧ b < l.pa + m.n then BitVec.ofNat 8 (l.x / 256 ^ (b - l.pa)) else v.get 0 b) ∧
    (m.k = .load → NoErrors s op m → (s.line line).prep = some (v, h) → d.gid = op.gid →
      (d.st = .open_ ∨ d.st = .preparing → ∃ t, exec (.homeAccess o [] false) s = .next t ∧ t.mem = s.mem ∧ t.lines = s.lines ∧ served t) ∧
      (d.st = .committed → ∃ t, exec (.homeAccess o [] false) s = .next t ∧ served t ∧ (∀ i < 128, t.byte (line + i) = v.get 0 (line + i)) ∧
        t.line line = { stamp := d.stamp, ref := some h, prev := some (lineCells s line, (s.line line).stamp, (s.line line).ref)
                        vlost := none, prep := none }))

/-- R131, R136, R264, R278, R330: what an access that is no bundle store does at its home. A store writes its lanes' bytes and no other byte,
in ascending lane order where the event names no other (the model's choice where the spec leaves the order open, log 7), and waits for its
acknowledgement; a load reads and writes no byte; an atomic reads the old value and writes its function of it, lane by lane.
And: R293, R296: a bundle store of one lane changes its bytes of its line's preparing version, which is made from the current version on
first use, and nothing of memory or of another line. The owning group's load of such a line reads the preparing version while its bundle
is open or preparing; of a committed bundle the version is installed first, with its stamp and reference, and then read (R294). -/
def Obligations.HomeAccessEffects : Prop := Claims.AccessesAtHome ∧ Claims.BundleAccessesAtHome

/-- R132, R137, R330: the reply of a load or atomic whose lanes are all performed writes its destination: V(d, l) or S(d) takes the
value, zero-extended, and leaves the scoreboard; no other register of the group, no other group and no byte of memory
changes. The acknowledgement of a store ends it and changes nothing else. -/
def Obligations.RepliesWriteDestinations : Prop :=
  ∀ (s : State) (o : Nat) (op : Op) (m : MemOp) (g : Group), s.ops.find? o = some op → op.lost = 0 → enRoute s o = false →
    op.kind = .mem m → (∀ l ∈ m.lanes, l.done = true ∧ l.lane < 32) → (m.lanes.map LaneAcc.lane).Nodup → s.group? op.gid = some g →
    (s.ctx? op.ctx).map Ctx.st = some .resident →
    (m.k = .store → exec (.loadReply o) s = .next { s with ops := s.ops.del o }) ∧
    ∀ i, (i = .loadReply o ∧ m.k = .load) ∨ (i = .atomicReply o ∧ ∃ fn, m.k = .atom fn) →
      ∃ t h, exec i s = .next t ∧ t = { s with ops := s.ops.del o, groups := t.groups } ∧ (∀ j, j ≠ op.gid → t.group? j = s.group? j) ∧
        t.group? op.gid = some h ∧ h = { g with s := h.s, v := h.v, damaged := h.damaged } ∧ (∀ c ∈ h.damaged, c ∈ g.damaged) ∧
        (∀ d, m.dst = .vec d → (∀ n, rS h n = rS g n) ∧ ∀ n l, l < 32 →
          rV h n l = if n = d then ((m.lanes.find? fun x => x.lane = l).map fun x => BitVec.ofNat 64 x.res).getD (rV g n l) else rV g n l) ∧
        (∀ d x, m.dst = .sca d → m.lanes = [x] → (∀ n l, rV h n l = rV g n l) ∧ ∀ n, rS h n = setS g d (BitVec.ofNat 64 x.res) n) ∧
        (m.dst = .none → h.s = g.s ∧ h.v = g.v ∧ h.damaged = g.damaged)

/-- R84 to R87: a transfer of control goes to its target, a call's link register takes the address after the branch word, and
a conditional branch whose condition fails goes on and checks nothing; a target with bad address bits takes PERM, a
misaligned one ALIGN, and then nothing is linked; the trap's data are the target (the model's, log 72). -/
def Sys2Proof.Claims.TransfersOfControl : Prop :=
  ∀ (i : Instr) (s : State) (g : Group) (p : Path) (x : Transfer), transfer s g i = some x → Admitted x.adm s g p →
    (x.taken = false → exec i s = .next (goesOn s g p s)) ∧
    (x.taken = true → badVa x.target.toNat = false → x.target.toNat % 4 = 0 →
      exec i s = .next (goesTo s g p x.target (linked s x.link))) ∧
    (x.taken = true → badVa x.target.toNat = true → Ordinary g → exec i s = .next (trapsBefore s g p .perm x.target.toNat s)) ∧
    (x.taken = true → badVa x.target.toNat = false → x.target.toNat % 4 ≠ 0 → Ordinary g →
      exec i s = .next (trapsBefore s g p .align x.target.toNat s))

/-- R226, R227, R229, R264: vbr. Inside an allon region it traps ILLOP; with no lane that branches it goes on; a bad target traps as any
branch's does; with all lanes it branches; else the path divides. Slot A of a group without slot B keeps the lanes that fall through and a new
slot B takes the others. Any other path keeps the side with more lanes: the side with fewer, or the branching side of two alike, becomes a
fragment in the lowest free entry of the core's split table, or else is deferred by a stack entry, which traps DIVDEEP where 16 are on chip. The
accesses that a path has in flight come before those of the path that divides from it. That the new path counts as inside an inlined
frame's code as its parent does is the model's choice (log 104). -/
def Sys2Proof.Claims.VectorBranchDivides : Prop :=
  ∀ (a c o : Nat) (s : State) (g : Group) (p : Path), Admitted { acc := { imms := 1 }, rd := mR [a] } s g p →
    let slot := s.iss.slot
    let core := g.place.core
    let tk := p.mask &&& rM s g p a
    let nt := p.mask &&& ~~~rM s g p a
    let t := s.iss.at_ + 4 * sext64 (wide s 16 o).2 (wide s 16 o).1
    let inl := p.inl || p.frames.any fun f => f.st = .inlined
    let fewer := popN 32 tk.toNat ≤ popN 32 nt.toNat
    let minor : W32 × W64 := if fewer then (tk, t) else (nt, s.iss.next)
    let major : W32 × W64 := if fewer then (nt, s.iss.next) else (tk, t)
    let after (new : Nat) (u : State) (h : Group) : Prop :=
      exec (.vbr a c o) s = .next u ∧ (∀ j, j ≠ s.iss.gid → u.group? j = s.group? j) ∧ u.group? s.iss.gid = some h ∧
        u = { s with
          groups := u.groups
          ops := s.ops.mapV fun _ x => if x.of s.iss.gid slot then { x with also := x.also ++ [(s.iss.gid, new)] } else x } ∧
        ∀ j, j ≠ slot → j ≠ new → h.paths.find? j = g.paths.find? j
    (p.saved.isSome = true → Ordinary g → exec (.vbr a c o) s = .next (trapsBefore s g p .illop 0 s)) ∧
    (p.saved = none →
      (tk = 0 → exec (.vbr a c o) s = .next (goesOn s g p s)) ∧
      (tk ≠ 0 → Ordinary g → badVa t.toNat = true → exec (.vbr a c o) s = .next (trapsBefore s g p .perm t.toNat s)) ∧
      (tk ≠ 0 → Ordinary g → badVa t.toNat = false → t.toNat % 4 ≠ 0 → exec (.vbr a c o) s = .next (trapsBefore s g p .align t.toNat s)) ∧
      (tk ≠ 0 → badVa t.toNat = false → t.toNat % 4 = 0 →
        (nt = 0 → exec (.vbr a c o) s = .next (goesTo s g p t s)) ∧
        (nt ≠ 0 → slot = 0 → g.paths.find? 1 = none → ∃ u h, after 1 u h ∧
          h = { g with paths := h.paths, divTok := c, fdepth := p.frames.length, hbCount := h.hbCount, tickDue := h.tickDue } ∧
          h.paths.find? 0 = some { p.fresh with mask := nt, pc := s.iss.next, rep := 0 } ∧
          h.paths.find? 1 = some (freshPath t tk c 0 (p.stepReq ≠ 0) inl)) ∧
        (nt ≠ 0 → ¬(slot = 0 ∧ g.paths.find? 1 = none) →
          (∀ i < splitMax, i + 2 ∉ splitUsed s core → (∀ j < i, j + 2 ∈ splitUsed s core) → i + 2 ≠ slot → ∃ u h, after (i + 2) u h ∧
            h = { g with paths := h.paths, hbCount := h.hbCount, tickDue := h.tickDue } ∧
            h.paths.find? slot = some { p.fresh with mask := major.1, pc := major.2, rep := 0 } ∧
            h.paths.find? (i + 2) = some (freshPath minor.2 minor.1 c slot (p.stepReq ≠ 0) inl)) ∧
          ((∀ i < splitMax, i + 2 ∈ splitUsed s core) →
            (g.rstack.length < 16 → ∃ u h, exec (.vbr a c o) s = .next u ∧ OnlyGroup s u h ∧
              h = { g with
                paths := h.paths, hbCount := h.hbCount, tickDue := h.tickDue
                rstack := g.rstack ++ [{ dpc := minor.2, owner := slot, fdepth := p.frames.length, phase := false, tok := c, dmask := minor.1 }] } ∧
              h.paths.find? slot = some { p.fresh with mask := major.1, pc := major.2, rep := 0, nent := p.nent + 1 } ∧
              ∀ j, j ≠ slot → h.paths.find? j = g.paths.find? j) ∧
            (16 ≤ g.rstack.length → Ordinary g → exec (.vbr a c o) s = .next (trapsBefore s g p .divdeep 0 s))))))

/-- R84 to R87: a transfer of control goes to its target, a call's link register takes the address after the branch word, and
a conditional branch whose condition fails goes on and checks nothing; a target with bad address bits takes PERM, a
misaligned one ALIGN, and then nothing is linked; the trap's data are the target (the model's, log 72).
And: R226, R227, R229, R264: vbr. Inside an allon region it traps ILLOP; with no lane that branches it goes on; a bad target traps as any
branch's does; with all lanes it branches; else the path divides. Slot A of a group without slot B keeps the lanes that fall through and a new
slot B takes the others. Any other path keeps the side with more lanes: the side with fewer, or the branching side of two alike, becomes a
fragment in the lowest free entry of the core's split table, or else is deferred by a stack entry, which traps DIVDEEP where 16 are on chip. The
accesses that a path has in flight come before those of the path that divides from it. That the new path counts as inside an inlined
frame's code as its parent does is the model's choice (log 104). -/
def Obligations.ControlTransfers : Prop := Claims.TransfersOfControl ∧ Claims.VectorBranchDivides

/-- R127: the first lane in ascending order with a bad address decides: PERM for bits 63:57, ALIGN for a misaligned address;
then, with every page's translation known, the first lane without permission traps PERM (R132, R189, R311; a store to a code page among
them: log 75), and so does the first whose access an ABORT ended (R315).
And: R132, R312: an access to one page that no TLB holds parks its path on that page's walk, which all misses of the page share,
and nothing is accessed. -/
def Obligations.TranslationOfAddresses : Prop := Claims.MemoryAddressTraps ∧ Claims.TranslationMissParks

/-- R127, R129, R131, R275: spld loads each acting lane's 64-bit word of the core's scratchpad; spst stores each lane's word, a word
that several lanes name taking one of their values, and no other byte of any scratchpad changes. The lowest acting lane whose
offset is out of range, misaligned or in a bank of another context traps. While accesses of its path that must come first are still
to be performed, either waits at its issue: that wait is the model's (log 60), as is which of several lanes' words stays (log 7). -/
def Obligations.ScratchpadAccesses : Prop :=
  ∀ (d a im : Nat) (s : State) (g : Group) (p : Path),
    (Admitted { acc := { pred := true, imms := 2 }, rd := vR [a], wr := vR [d] } s g p →
      (∀ l ∈ actLanes s g p, padFails s g (padOff s g a im l) = none) → ¬OthersFirst s g false false [] →
      ∃ t, exec (.spld d a im) s = .next t ∧ Computes s s t g p (vR [d]) (rS g)
        (setV s g p d fun l => BitVec.ofNat 64 (padRd s g.place.core (padOff s g a im l) 8)) (fun n => g.m.get 0 n) 0) ∧
    (Admitted { acc := { pred := true, imms := 2 }, rd := vR [a, d] } s g p →
      (∀ l ∈ actLanes s g p, padFails s g (padOff s g a im l) = none) → ¬OthersFirst s g true false [] →
      ∃ t, exec (.spst d a im) s = .next t ∧ t = { goesOn s g p s with cores := t.cores, fresh := t.fresh } ∧
        (∀ c, c ≠ g.place.core → t.core c = s.core c) ∧ { t.core g.place.core with pad := (s.core g.place.core).pad } = s.core g.place.core ∧
        (∀ b, (∀ l ∈ actLanes s g p, b < padOff s g a im l ∨ padOff s g a im l + 8 ≤ b) → padByte t g.place.core b = padByte s g.place.core b) ∧
        ∀ l ∈ actLanes s g p, ∃ k ∈ actLanes s g p, padOff s g a im k = padOff s g a im l ∧
          padRd t g.place.core (padOff s g a im l) 8 = (rV g d k).toNat) ∧
    ((∀ l ∈ actLanes s g p, padFails s g (padOff s g a im l) = none) →
      (Admitted { acc := { pred := true, imms := 2 }, rd := vR [a], wr := vR [d] } s g p → OthersFirst s g false false [] →
        exec (.spld d a im) s = .next (waitsOn s g p (.order false false []) s)) ∧
      (Admitted { acc := { pred := true, imms := 2 }, rd := vR [a, d] } s g p → OthersFirst s g true false [] →
        exec (.spst d a im) s = .next (waitsOn s g p (.order true false []) s))) ∧
    ∀ i, (i = .spld d a im ∧ Admitted { acc := { pred := true, imms := 2 }, rd := vR [a], wr := vR [d] } s g p) ∨
        (i = .spst d a im ∧ Admitted { acc := { pred := true, imms := 2 }, rd := vR [a, d] } s g p) → Ordinary g →
      ∀ pre l post c, actLanes s g p = pre ++ l :: post → (∀ q ∈ pre, padFails s g (padOff s g a im q) = none) →
        padFails s g (padOff s g a im l) = some c → exec i s = .next (trapsBefore s g p c (padOff s g a im l) s)

/-- R138 to R141, R333: talloc registers a tile over free banks of its context, EMPTY or READY, with the next generation; trel
unregisters, empties or readies it (an unregistered entry keeps its COUNT and BASE: the model's, log 74); tstat reads Table MEM.4. An entry or bank
of another context traps PADBOUND, before the corners of R141, which trap ENGINE; a held tile makes talloc and trel wait. -/
def Sys2Proof.Claims.TileTable : Prop :=
  ∀ (a b k : Nat) (s : State) (g : Group) (p : Path),
    let core := g.place.core
    let ta := (rS g a).toNat % 256
    let tb := (rS g b).toNat % 256
    let base := (rS g b).toNat / 2 ^ 16 % 2 ^ 9
    let cnt := (rS g b).toNat / 2 ^ 32 % 2 ^ 10
    let x := s.tile core ta
    let mine := ∀ i < cnt, base + i < 512 → ownsBank s core g.ctx (base + i) = true
    let apart := ∀ y ∈ (s.core core).tiles, y.2.reg = true → y.2.base + y.2.count ≤ base ∨ base + cnt ≤ y.2.base
    (Admitted { acc := {}, rd := sR [a, b] } s g p →
      (ownsEntry s g ta = true → mine → x.held = 0 → x.reg = false → cnt ≠ 0 → base + cnt ≤ 512 → apart →
        exec (.talloc a b k) s = .next (goesOn s g p (s.modTile core ta fun x =>
          { x with gen := (x.gen + 1) % 2 ^ 16, count := cnt, base := base, reg := true, rmask := 0, held := 0, st := if k = 0 then .empty else .ready }))) ∧
      (Ordinary g → ownsEntry s g ta = false ∨ ¬mine → exec (.talloc a b k) s = .next (trapsBefore s g p .padbound ta s)) ∧
      (ownsEntry s g ta = true → mine → 0 < x.held → exec (.talloc a b k) s = .next (waitsOn s g p (.tile ta false true) s)) ∧
      (Ordinary g → ownsEntry s g ta = true → mine → x.held = 0 → x.reg = true ∨ cnt = 0 ∨ 512 < base + cnt ∨
          (∃ y ∈ (s.core core).tiles, y.2.reg = true ∧ base < y.2.base + y.2.count ∧ y.2.base < base + cnt) →
        exec (.talloc a b k) s = .next (trapsBefore s g p .engine 0 s))) ∧
    (Admitted { acc := {}, rd := sR [a] } s g p →
      (ownsEntry s g ta = true → x.reg = true → (x.st = .empty ∨ x.st = .ready) →
        (x.held = 0 → (k = 2 → x.st = .empty) → k ≤ 2 → exec (.trel a k) s = .next (goesOn s g p (s.modTile core ta fun x =>
          if k = 0 then { x with reg := false, st := .empty } else if k = 1 then { x with st := .empty } else { x with st := .ready }))) ∧
        (0 < x.held → exec (.trel a k) s = .next (waitsOn s g p (.tile ta false true) s))) ∧
      (Ordinary g → ownsEntry s g ta = false → exec (.trel a k) s = .next (trapsBefore s g p .padbound ta s)) ∧
      (Ordinary g → ownsEntry s g ta = true → x.reg = false ∨ x.st = .filling ∨ x.st = .draining ∨ (x.held = 0 ∧ k = 2 ∧ x.st ≠ .empty) →
        exec (.trel a k) s = .next (trapsBefore s g p .engine 0 s))) ∧
    (Admitted { acc := {}, rd := sR [b], wr := sR [a] } s g p →
      (ownsEntry s g tb = true →
        exec (.tstat a b) s = .next (goesOn s g p (wrote (.s a (BitVec.ofNat 64 ((s.tile core tb).gen * 2 ^ 48 + (s.tile core tb).count * 2 ^ 32 +
          (s.tile core tb).base * 2 ^ 16 + if (s.tile core tb).reg then 4 + (s.tile core tb).st.code else 0))) s))) ∧
      (Ordinary g → ownsEntry s g tb = false → exec (.tstat a b) s = .next (trapsBefore s g p .padbound tb s)))

/-- R142, Table MEM.6: tglook answers a hit's slot and entry, or the way to fill; tgset makes an entry valid; tgclr clears one,
or every entry of the context's sets. Each key belongs to the set of its low byte, and its entries are owned with it: an entry of another context
traps PADBOUND, with the number of the set or entry as data (the model's, log 52), and tgset of a key into another set ENGINE. Of two ways
that hold one key the lowest is the hit (the model's, log 106). -/
def Sys2Proof.Claims.TagTable : Prop :=
  ∀ (a b : Nat) (s : State) (g : Group) (p : Path),
    let core := g.place.core
    let set := (rS g b).toNat % 256
    let e := (rS g b).toNat % 1024
    let ea := (rS g a).toNat % 1024
    let tag (w : Nat) : Option Tag := (s.core core).tags.find? (4 * set + w)
    (Admitted { acc := {}, rd := sR [b], wr := sR [a] } s g p → ownsEntry s g set = true →
      (∀ w t, w < 4 → tag w = some t → t.key = rS g b → (∀ v u, v < w → tag v = some u → u.key ≠ rS g b) →
        exec (.tglook a b) s = .next (goesOn s g p (wrote (.s a (BitVec.ofNat 64 (t.slot * 2 ^ 16 + (4 * set + w))))
          (s.modCore core fun c => { c with tags := c.tags.adjust (4 * set + w) fun t => { t with used := nextUse c } })))) ∧
      ((∀ w t, w < 4 → tag w = some t → t.key ≠ rS g b) →
        ∃ w, w < 4 ∧ exec (.tglook a b) s = .next (goesOn s g p (wrote (.s a (BitVec.ofNat 64 (2 ^ 63 + (4 * set + w)))) s)) ∧
          (∀ v, v < 4 → tag v = none → tag w = none ∧ w ≤ v) ∧
          (∀ v t u, v < 4 → tag w = some t → tag v = some u → t.used ≤ u.used))) ∧
    (Admitted { acc := {}, rd := sR [a, b] } s g p → ownsEntry s g (e / 4) = true → e / 4 = (rS g a).toNat % 256 →
      exec (.tgset a b) s = .next (goesOn s g p (s.modCore core fun c =>
        { c with tags := c.tags.put e { key := rS g a, slot := (rS g b).toNat / 2 ^ 16 % 2 ^ 16, used := nextUse c } }))) ∧
    (Admitted { acc := {}, rd := sR [a] } s g p → ownsEntry s g (ea / 4) = true →
      exec (.tgclr a 0) s = .next (goesOn s g p (s.modCore core fun c => { c with tags := c.tags.del ea }))) ∧
    (Admitted { acc := {}, rd := sR [0] } s g p →
      exec (.tgclr 0 1) s = .next (goesOn s g p (s.modCore core fun c =>
        { c with tags := c.tags.filter fun (t : Nat × Tag) => !ownsEntry s g (t.1 / 4) }))) ∧
    (Ordinary g →
      (Admitted { acc := {}, rd := sR [b], wr := sR [a] } s g p → ownsEntry s g set = false →
        exec (.tglook a b) s = .next (trapsBefore s g p .padbound set s)) ∧
      (Admitted { acc := {}, rd := sR [a, b] } s g p →
        (ownsEntry s g (e / 4) = false → exec (.tgset a b) s = .next (trapsBefore s g p .padbound e s)) ∧
        (ownsEntry s g (e / 4) = true → e / 4 ≠ (rS g a).toNat % 256 → exec (.tgset a b) s = .next (trapsBefore s g p .engine 0 s))) ∧
      (Admitted { acc := {}, rd := sR [a] } s g p → ownsEntry s g (ea / 4) = false →
        exec (.tgclr a 0) s = .next (trapsBefore s g p .padbound ea s)))

/-- R48, R352: sysrd reads the register of its table, for a handler group where the table says so; a group that may not read
it traps PRIV. -/
def Sys2Proof.Claims.SystemRegisterReads : Prop :=
  ∀ (d n : Nat) (s : State) (g : Group) (p : Path), n < 0x20 →
    (Admitted { acc := {}, wr := sR [d], who := if sysHandler n then .handler else .any } s g p →
      (n = 0x0C → ∀ e ∈ s.pipe, e.gid ≠ s.iss.gid) →
      exec (.sysrd d n) s = .next (goesOn s g p (wrote (.s d (sysReads s g p n)) s))) ∧
    (Issuing s g p → Ordinary g → prefixOk {} s.iss.pre = true → sysHandler n = true → d < 128 →
      exec (.sysrd d n) s = .next (trapped s g (trapBefore s .priv 0) s))

/-- R25, R48, R244, R352: a write of a system register that its group may make, in range, changes that register and nothing
else; a value out of range traps ILLOP; a register that no instruction writes, or that a handler alone writes, traps PRIV. -/
def Sys2Proof.Claims.SystemRegisterWrites : Prop :=
  ∀ (i : Instr) (a n : Nat) (s : State) (g : Group) (p : Path), n < 0x20 → namesWrite i a n →
    (Admitted { acc := {}, rd := sR [a], who := sysWho n } s g p → (n = 0x0C → ∀ e ∈ s.pipe, e.gid ≠ s.iss.gid) →
      (∀ u, sysWrites s g n (rS g a) = some u → (∀ y, n = 0x1F → g.served = some y → y.1 ≠ s.iss.gid) → exec i s = .next (goesOn s g p u)) ∧
      ((n = 0x08 ∨ n = 0x09 ∨ n = 0x0B) → sysWrites s g n (rS g a) = none → Ordinary g → exec i s = .next (trapsBefore s g p .illop 0 s))) ∧
    (Issuing s g p → Ordinary g → prefixOk {} s.iss.pre = true → a < 128 → (sysWho n = .nobody ∨ sysWho n = .handler) →
      exec i s = .next (trapped s g (trapBefore s .priv 0) s))

/-- R152, R153, R345: gang and a write of %gang set the quadrant's gang list and abandon the gang's pending rendezvous: every group that has
arrived takes GANG at its mma. With k = 1 gang reads the issuing group's own partition and position, those of the group that it serves in a
handler group. An illegal list traps GANG. -/
def Sys2Proof.Claims.GangLists : Prop :=
  ∀ (a : Nat) (s : State) (g : Group) (p : Path),
    (Admitted { acc := {}, wr := sR [a], full := true } s g p → ∀ x,
      (if g.isHandler then ∃ y h, g.served = some y ∧ s.group? y.1 = some h ∧ x = h.place else x = g.place) → x.part < 4 → x.pos < 16 →
      exec (.gang a 1) s = .next (goesOn s g p (wrote (.s a (BitVec.ofNat 64 (x.part * 2 ^ 8 + x.pos * 2 ^ 4))) s))) ∧
    ∀ i, (i = .gang a 0 ∧ Admitted { acc := {}, rd := sR [a], full := true } s g p) ∨
        (i = .gangWrite a ∧ Admitted { acc := {}, rd := sR [a] } s g p) →
      (gangOk s g.ctx g.place (rS g a) = true → (s.quad g.place.quadIx).latch = [] →
        exec i s = .next (goesOn s g p (s.modQuad g.place.quadIx fun q => { q with gang := rS g a, latch := [] }))) ∧
      (gangOk s g.ctx g.place (rS g a) = true →
        let l := (s.quad g.place.quadIx).latch.map fun e => (e.gid, e.slot)
        l.Nodup → (s.iss.gid, s.iss.slot) ∉ l → (∀ e ∈ l, ∃ h q, s.group? e.1 = some h ∧ Ordinary h ∧ h.paths.find? e.2 = some q) →
        ∃ t, exec i s = .next t ∧ t.quad g.place.quadIx = { s.quad g.place.quadIx with gang := rS g a, latch := [] } ∧ t.mem = s.mem ∧
          ∀ e ∈ l, ∃ q r, t.path? e.1 e.2 = some q ∧ q.cond = .trapped r ∧ r.cause = .gang ∧ r.after_ = false) ∧
      (gangOk s g.ctx g.place (rS g a) = false → Ordinary g → exec i s = .next (trapsBefore s g p .gang 0 s))

/-- R353: a command to %divspill, of a handler group: it sets SPILL; DROP (1) drops the oldest N on-chip entries of the
interrupted group's stack, OPEN (2) opens N empty ones below, of a count that fits. A command 3, a count that does not fit or a SPILL above 128
raises ILLOP, which in a handler group is a double fault (R346). -/
def Sys2Proof.Claims.StackSpillCommands : Prop :=
  ∀ (i : Instr) (a gid slot : Nat) (s : State) (g h : Group) (p : Path),
    (i = .syswr a 0x1D ∨ i = .divspillSpill a ∨ i = .divspillDrop a ∨ i = .divspillOpen a) →
    Admitted { acc := {}, rd := sR [a], who := .handler } s g p → g.served = some (gid, slot) → gid ≠ s.iss.gid → s.group? gid = some h →
    let x := (rS g a).toNat
    let cmd := x / 2 ^ 62 % 4
    let n := x / 2 ^ 16 % 2 ^ 5
    let sp := x % 2 ^ 8
    (cmd ≠ 3 → sp ≤ 128 → (cmd = 1 → n ≤ h.rstack.length) → (cmd = 2 → h.rstack.length + n ≤ 16) →
      exec i s = .next (goesOn s g p (s.modGroup gid fun t =>
        { t with
          spill := sp
          rstack := if cmd = 1 then t.rstack.drop n else if cmd = 2 then List.replicate n (entryOf 0) ++ t.rstack else t.rstack }))) ∧
    (cmd = 3 ∨ 128 < sp ∨ (cmd = 1 ∧ h.rstack.length < n) ∨ (cmd = 2 ∧ 16 < h.rstack.length + n) → h.rstack.length ≤ 16 →
      (s.ctx? g.ctx).map Ctx.st = some .resident → (s.ctx? g.ctx).map Ctx.porter = some false →
      ∃ t, exec i s = .next t ∧ (t.ctx? g.ctx).map Ctx.st = some .quiescing ∧ (t.ctx? g.ctx).bind Ctx.after_ = some .save ∧
        (t.group? gid).map Group.rstack = some h.rstack ∧ (t.group? gid).map Group.spill = some h.spill)

/-- R138 to R141, R333: talloc registers a tile over free banks of its context, EMPTY or READY, with the next generation; trel
unregisters, empties or readies it (an unregistered entry keeps its COUNT and BASE: the model's, log 74); tstat reads Table MEM.4. An entry or bank
of another context traps PADBOUND, before the corners of R141, which trap ENGINE; a held tile makes talloc and trel wait.
And: R142, Table MEM.6: tglook answers a hit's slot and entry, or the way to fill; tgset makes an entry valid; tgclr clears one,
or every entry of the context's sets. Each key belongs to the set of its low byte, and its entries are owned with it: an entry of another context
traps PADBOUND, with the number of the set or entry as data (the model's, log 52), and tgset of a key into another set ENGINE. Of two ways
that hold one key the lowest is the hit (the model's, log 106).
And: R152, R153, R345: gang and a write of %gang set the quadrant's gang list and abandon the gang's pending rendezvous: every group that has
arrived takes GANG at its mma. With k = 1 gang reads the issuing group's own partition and position, those of the group that it serves in a
handler group. An illegal list traps GANG.
And: R353: a command to %divspill, of a handler group: it sets SPILL; DROP (1) drops the oldest N on-chip entries of the
interrupted group's stack, OPEN (2) opens N empty ones below, of a count that fits. A command 3, a count that does not fit or a SPILL above 128
raises ILLOP, which in a handler group is a double fault (R346). -/
def Obligations.TablesGangsAndSpills : Prop :=
  Claims.TileTable ∧ Claims.TagTable ∧ Claims.GangLists ∧ Claims.StackSpillCommands

/-- R48, R352: sysrd reads the register of its table, for a handler group where the table says so; a group that may not read
it traps PRIV.
And: R25, R48, R244, R352: a write of a system register that its group may make, in range, changes that register and nothing
else; a value out of range traps ILLOP; a register that no instruction writes, or that a handler alone writes, traps PRIV. -/
def Obligations.SystemRegisters : Prop := Claims.SystemRegisterReads ∧ Claims.SystemRegisterWrites

/-- R89, R58, R238: nop only goes on; yield also puts the group's paths behind the others of its partition; hint gives every path of
the group a gap of at least p cycles, and with g = 1 the group also comes last (the round-robin mark is the model's own, log 43). -/
def Sys2Proof.Claims.HintsAndNop : Prop :=
  ∀ (x y : Nat) (s : State) (g : Group) (p : Path), Admitted { acc := {} } s g p → exec .nop s = .next (goesOn s g p s) ∧
    exec .yield s = .next (goesOn s g p (givesWay s g s)) ∧
    exec (.hint x y) s = .next (goesOn s g p
      (let u := s.modGroup s.iss.gid fun h => { h with paths := h.paths.mapV fun _ q => { q with gap := max q.gap y } }
       if x = 1 then givesWay s g u else u))

/-- R68, R72, R340, R349: trap and brk raise SYSCALL and BREAK after themselves with their number as data; a word that names no
instruction raises ILLOP before it. A trap of a handler group is a double fault: its resident context starts to quiesce and a
record is posted (R346). -/
def Sys2Proof.Claims.TrapInstructions : Prop :=
  ∀ (n : Nat) (s : State) (g : Group) (p : Path),
    (Admitted { acc := {} } s g p → Ordinary g →
      exec (.trap n) s = .next (trapsAfter s g p .syscall n s) ∧ exec (.brk n) s = .next (trapsAfter s g p .brk n s)) ∧
    (Issuing s g p → Ordinary g → exec .illopEncoding s = .next (trapped s g (trapBefore s .illop 0) s)) ∧
    (Issuing s g p → g.isHandler = true → (s.ctx? g.ctx).map Ctx.st = some .resident → (s.ctx? g.ctx).map Ctx.porter = some false →
      ∃ t, exec .illopEncoding s = .next t ∧ (t.ctx? g.ctx).map Ctx.st = some .quiescing ∧
        (t.ctx? g.ctx).bind Ctx.after_ = some .save ∧ t.host.eqSeq = s.host.eqSeq + 1)

/-- R72: admission checks in this order: prefixes, fields and, of a form that rounds, the rounding mode of R24 (ILLOP), the mode (PRIV), register numbers (REGBOUND), the full mask
(MASKREQ), a write of m0 (ILLOP); the first that fails is the trap, taken before the instruction. A register that an operation
in flight will still write makes the path wait (R132). -/
def Obligations.AdmissionTrapsInOrder : Prop :=
  ∀ (a : Adm) (s : State) (g : Group) (p : Path) (k : Group → Path → State → State), Issuing s g p → Ordinary g →
    let formOk := prefixOk a.acc s.iss.pre = true ∧ a.fields = true ∧ (a.acc.rnd = true → rmode s g < 6)
    let inBudget := ∀ r ∈ a.rd ++ a.wr, outOfBudget g r = false
    let maskOk := a.full = true → p.mask = BitVec.allOnes 32
    (¬formOk → gated a s k = .next (trapped s g (trapBefore s .illop 0) s)) ∧
    (formOk → a.who.ok g = false → gated a s k = .next (trapped s g (trapBefore s .priv 0) s)) ∧
    (formOk → a.who.ok g = true → ¬inBudget → gated a s k = .next (trapped s g (trapBefore s .regbound 0) s)) ∧
    (formOk → a.who.ok g = true → inBudget → ¬maskOk → gated a s k = .next (trapped s g (trapBefore s .maskreq 0) s)) ∧
    (formOk → a.who.ok g = true → inBudget → maskOk → (2, 0) ∈ a.wr → gated a s k = .next (trapped s g (trapBefore s .illop 0) s)) ∧
    (formOk → a.who.ok g = true → inBudget → maskOk → (2, 0) ∉ a.wr → pipeBusy s (a.named s) = false →
      scoreBusy s s.iss.gid s.iss.slot p (a.named s) = true →
      ∃ t q, gated a s k = .next t ∧ t = { s with groups := t.groups, nextId := s.nextId + 1 } ∧ t.path? s.iss.gid s.iss.slot = some q ∧
        q = { p with cond := .waiting (.score (a.named s)), since := q.since, woken := none } ∧ t.mem = s.mem)

/-- R341, R350: rett of a handler that holds no bundle open. The handler's position is freed and the interrupted path is ready at the point that MODE names: 0 the
trapped instruction again, or after it for a trap taken after; 1 the instruction after; 2 the address in S(r). Nothing but
groups, operations in flight, the core's L1 copies and arithmetic of the handler changes. -/
def Sys2Proof.Claims.ReturnFromTrap : Prop :=
  ∀ (m r gid slot : Nat) (s : State) (h g : Group) (hp q : Path) (t : TrapRec),
    Admitted { acc := {}, who := .handler, rd := if m = 2 then sR [r] else [] } s h hp → h.served = some (gid, slot) → gid ≠ s.iss.gid →
    h.bundle = none → s.group? gid = some g → g.paths.find? slot = some q → q.cond = .trapped t → (∀ e ∈ g.replay, e.slot ≠ slot) → m ≤ 2 →
    let pc : W64 := if m = 0 then (if t.after_ then q.pc else h.trapaddr) else if m = 1 then t.next else rS h r
    badVa pc.toNat = false → pc.toNat % 4 = 0 →
    ∃ u g' q', exec (.rett m r) s = .next u ∧ u.group? s.iss.gid = none ∧ u.group? gid = some g' ∧ g'.paths.find? slot = some q' ∧
      u = { s with groups := u.groups, ops := u.ops, nextId := u.nextId, cores := u.cores, pipe := u.pipe } ∧
      g' = { g with paths := g'.paths } ∧ (∀ j, j ≠ slot → g'.paths.find? j = g.paths.find? j) ∧
      (∀ j, j ≠ gid → j ≠ s.iss.gid → u.group? j = s.group? j) ∧
      q'.cond = .ready ∧ q'.pc = pc ∧ q'.mask = q.mask ∧ q'.frames = q.frames ∧
      q'.rep = (if m = 0 ∧ (t.after_ = false ∨ q.rep ≠ 0) then h.trapinfo.toNat / 2 ^ 58 % 64 else 0)

/-- R351: rinj moves a register between a handler and the group it serves: kind 0 a vector register, 1 a scalar, 2 a mask, 3 a
reconvergence stack entry in two scalars; written vector lanes are those of the trap frame's LANES. -/
def Sys2Proof.Claims.RegisterInjection : Prop :=
  ∀ (i h gid slot : Nat) (s : State) (hg g : Group) (hp : Path), hg.served = some (gid, slot) → gid ≠ s.iss.gid → s.group? gid = some g →
    (∀ e ∈ s.pipe, e.gid ≠ gid) → (∀ o ∈ s.ops, o.2.gid ≠ gid) →
    (Admitted { acc := {}, who := .handler, wr := vR [h] } s hg hp → i < g.budget →
      ∃ t h', exec (.rinj 0 0 i h) s = .next t ∧ t = { goesOn s hg hp s with groups := t.groups } ∧ t.group? s.iss.gid = some h' ∧
        ∀ n l, l < 32 → rV h' n l = if n = h then rV g i l else rV hg n l) ∧
    (Admitted { acc := {}, who := .handler, wr := sR [h] } s hg hp →
      exec (.rinj 0 1 i h) s = .next (goesOn s hg hp (wrote (.s h (rS g i)) s)) ∧
      (i ≠ 0 → exec (.rinj 0 2 i h) s = .next (goesOn s hg hp (wrote (.s h ((g.m.get 0 i).setWidth 64)) s)))) ∧
    (Admitted { acc := {}, who := .handler, wr := sR [h, h + 1] } s hg hp → ∀ e, g.rstack[i]? = some e →
      exec (.rinj 0 3 i h) s = .next (goesOn s hg hp
        (wrote (.s (h + 1) (BitVec.ofNat 64 (entryBits e / 2 ^ 64))) (wrote (.s h (BitVec.ofNat 64 (entryBits e))) s)))) ∧
    (Admitted { acc := {}, who := .handler, rd := vR [h] } s hg hp → i < g.budget →
      ∃ t g', exec (.rinj 1 0 i h) s = .next t ∧ t = { goesOn s hg hp s with groups := t.groups } ∧ t.group? gid = some g' ∧
        g' = { g with v := g'.v } ∧ ∀ n l, l < 32 →
          rV g' n l = if n = i ∧ (BitVec.ofNat 32 hg.trapinfo.toNat).getLsbD l = true then rV hg h l else rV g n l) ∧
    (Admitted { acc := {}, who := .handler, rd := sR [h] } s hg hp →
      exec (.rinj 1 1 i h) s = .next (goesOn s hg hp (s.modGroup gid fun t => t.put1 (.s i (rS hg h)))) ∧
      (i ≠ 0 → exec (.rinj 1 2 i h) s = .next (goesOn s hg hp (s.modGroup gid fun t => t.put1 (.m i ((rS hg h).setWidth 32)))))) ∧
    (Admitted { acc := {}, who := .handler, rd := sR [h, h + 1] } s hg hp → i < g.rstack.length →
      exec (.rinj 1 3 i h) s = .next (goesOn s hg hp (s.modGroup gid fun t =>
        { t with rstack := t.rstack.set i (entryOf ((rS hg h).toNat + 2 ^ 64 * (rS hg (h + 1)).toNat)) })))

/-- R354, R355, R361: halt without a Porter only goes on, with one it halts the path; from a handler with scope 1 the context
quiesces to saved and a HALT record is posted. mbox.send writes eight registers to the ring's place and moves its tail, behind the messages
that the device itself still holds for that ring (the model's, log 21); mbox.recv reads a message and moves the head; each waits while its ring
is full, or empty. -/
def Sys2Proof.Claims.HaltAndMailbox : Prop :=
  ∀ (c a : Nat) (s : State) (g : Group) (p : Path),
    (Admitted { acc := {} } s g p → (s.ctx? g.ctx).map Ctx.porter ≠ some true → exec (.halt c 0) s = .next (goesOn s g p s)) ∧
    (Admitted { acc := {} } s g p → (s.ctx? g.ctx).map Ctx.porter = some true →
      ∃ t q, exec (.halt c 0) s = .next t ∧ t.path? s.iss.gid s.iss.slot = some q ∧ q.halted = true ∧ q.pc = (nextPath s p).pc) ∧
    (Admitted { acc := {}, who := .handler } s g p → (s.ctx? g.ctx).map Ctx.st = some .resident →
      ∃ t, exec (.halt c 1) s = .next t ∧ (t.ctx? g.ctx).map Ctx.st = some .quiescing ∧ (t.ctx? g.ctx).bind Ctx.after_ = some .save ∧
        t.host.eqSeq = s.host.eqSeq + 1) ∧
    (Admitted { acc := {}, who := .porter, rd := sR ((List.range 8).map (a + ·)) } s g p →
      let n := (s.host.p2hTail + 2 ^ 32 - s.host.p2hHead) % 2 ^ 32
      (n ≠ 16 → s.host.p2hHeld = [] → ∃ t, exec (.mboxSend a) s = .next t ∧ t.host = { s.host with p2hTail := (s.host.p2hTail + 1) % 2 ^ 32 } ∧
        t.mem = putBytes s.mem (locKey 2 (s.host.p2hBase + 64 * (s.host.p2hTail % 16))) ((List.range 8).flatMap fun i => bytesLE 8 (rS g (a + i)).toNat)) ∧
      (n ≠ 16 → s.host.p2hHeld ≠ [] → exec (.mboxSend a) s = .next (goesOn s g p (hostNow s fun h =>
        { h with p2hHeld := h.p2hHeld ++ [(List.range 8).map fun i => (rS g (a + i)).toNat] }))) ∧
      (n = 16 → exec (.mboxSend a) s = .next (waitsOn s g p (.mbox true) s))) ∧
    (Admitted { acc := {}, who := .porter, wr := sR ((List.range 8).map (a + ·)) } s g p →
      (s.host.h2pTail ≠ s.host.h2pHead →
        ∃ t h, exec (.mboxRecv a) s = .next t ∧ t.host = { s.host with h2pHead := (s.host.h2pHead + 1) % 2 ^ 32 } ∧ t.mem = s.mem ∧
          t.group? s.iss.gid = some h ∧ ∀ n, rS h n = if a ≤ n ∧ n < a + 8 ∧ n ≠ 0 then
            BitVec.ofNat 64 (s.rd (locKey 2 (s.host.h2pBase + 64 * (s.host.h2pHead % 16)) + 8 * (n - a)) 8) else rS g n) ∧
      (s.host.h2pTail = s.host.h2pHead → exec (.mboxRecv a) s = .next (waitsOn s g p (.mbox false) s)))

/-- R194, R198, R199: ucnt reads a counter of a registered weight region, or traps PERM where none is registered; attest writes
the 8,192 bytes of a signed report to its two pages and counts it in the context's report sequence. Each waits while matrix work that its group
has issued is not yet accepted, after ucnt's PERM (the model's, log 78); a bad address of attest traps PERM and a misaligned one ALIGN. The
signature is ML-DSA-65 under a key the spec does not give (log 15). -/
def Sys2Proof.Claims.UsageAndReports : Prop :=
  ∀ (d r k a b : Nat) (s : State) (g : Group) (p : Path),
    (Admitted { acc := {}, wr := sR [d] } s g p → chargesOpen g = false → ∀ x y, s.ctx? g.ctx = some x → x.regions[r]? = some y →
      exec (.ucnt d r k) s = .next (goesOn s g p (wrote (.s d (BitVec.ofNat 64 (if k = 0 then y.bytes.c else y.macs.c))) s))) ∧
    (Admitted { acc := {}, wr := sR [d] } s g p → Ordinary g → (s.ctx? g.ctx).bind (fun x => x.regions[r]?) = none →
      exec (.ucnt d r k) s = .next (trapsBefore s g p .perm 0 s)) ∧
    (Admitted { acc := {}, wr := sR [d] } s g p → chargesOpen g = true → ∀ x y, s.ctx? g.ctx = some x → x.regions[r]? = some y →
      exec (.ucnt d r k) s = .next (waitsOn s g p .charges s)) ∧
    (Admitted { acc := {}, rd := sR [a, b] } s g p → Ordinary g →
      (badVa (rS g a).toNat = true → exec (.attest a b) s = .next (trapsBefore s g p .perm (rS g a).toNat s)) ∧
      (badVa (rS g a).toNat = false → badVa (rS g b).toNat = true → exec (.attest a b) s = .next (trapsBefore s g p .perm (rS g b).toNat s)) ∧
      (badVa (rS g a).toNat = false → badVa (rS g b).toNat = false →
        ((rS g a).toNat % 4096 ≠ 0 → exec (.attest a b) s = .next (trapsBefore s g p .align (rS g a).toNat s)) ∧
        ((rS g a).toNat % 4096 = 0 → (rS g b).toNat % 32 ≠ 0 → exec (.attest a b) s = .next (trapsBefore s g p .align (rS g b).toNat s)))) ∧
    (Admitted { acc := {}, rd := sR [a, b] } s g p → chargesOpen g = false → p.aborted = false → ∀ x k1 k2 kn, s.ctx? g.ctx = some x →
      ¬OthersFirst s g true true [(kn, 32), (k1, 4096), (k2, 4096)] →
      badVa (rS g a).toNat = false → badVa (rS g b).toNat = false → badVa (((rS g a).toNat + 4096) % 2 ^ 64) = false → (rS g a).toNat % 4096 = 0 → (rS g b).toNat % 32 = 0 →
      trOne s g.place.core g.ctx (rS g b).toNat { r := true, w := false, x := false, hostBad := false } false = .key kn →
      trOne s g.place.core g.ctx (rS g a).toNat { r := false, w := true, x := false, hostBad := false } false = .key k1 →
      trOne s g.place.core g.ctx (((rS g a).toNat + 4096) % 2 ^ 64) { r := false, w := true, x := false, hostBad := false } false = .key k2 →
      let u := s.modCtx g.ctx fun c => { c with reportSeq := c.reportSeq + 1 }
      let doc := reportBytes u (dieOf g.place.core) g.ctx { x with reportSeq := x.reportSeq + 1 } (s.bytes kn 32) false false false
      exec (.attest a b) s = .next (goesOn s g p
        (homeWrite (homeWrite u (some g.place.core) k1 (doc.take 4096)) (some g.place.core) k2 (doc.drop 4096))))

/-- R229 to R232: rcv. A path that owns the topmost stack entry of its token turns to the deferred lanes, and at the second rcv
takes them back and goes on after it; a sole path without divergence goes on; slots A and B that meet fuse, and the one that goes on takes the
stack entries of the other (the model's, log 97). A path that would meet others while it holds frames begun after the division traps FRAMEJOIN. -/
def Obligations.ReconvergenceResults : Prop :=
  ∀ (c : Nat) (s : State) (g : Group) (p : Path), Admitted { acc := {} } s g p → p.saved = none →
    (∀ i e, topEntry g s.iss.slot = some i → g.rstack[i]? = some e → e.tok = c → p.frames.length ≤ e.fdepth →
      (e.phase = false → ∃ t h, exec (.rcv c) s = .next t ∧ OnlyGroup s t h ∧
        h.rstack = g.rstack.set i { e with dmask := p.mask, dpc := s.iss.addr, phase := true } ∧
        h.paths.find? s.iss.slot = some { p.fresh with mask := e.dmask, pc := e.dpc, rep := 0 }) ∧
      (e.phase = true → ∃ t h, exec (.rcv c) s = .next t ∧ t.group? s.iss.gid = some h ∧ t.mem = s.mem ∧
        h.rstack = g.rstack.eraseIdx i ∧
        h.paths.find? s.iss.slot = some { p.fresh with mask := p.mask ||| e.dmask, nent := p.nent - 1, pc := s.iss.next, rep := 0 })) ∧
    (topEntry g s.iss.slot = none → 0 < p.nent → Ordinary g → exec (.rcv c) s = .next (trapsBefore s g p .divrefill 0 s)) ∧
    (topEntry g s.iss.slot = none → p.nent = 0 → Ordinary g →
      (2 ≤ s.iss.slot ∧ p.tok = c ∧ p.frames ≠ []) ∨
      (g.divTok = c ∧ (∃ x, g.paths.find? 0 = some x) ∧ (∃ y, g.paths.find? 1 = some y) ∧
        ((s.iss.slot = 1 ∧ p.frames ≠ []) ∨ (s.iss.slot = 0 ∧ g.fdepth < p.frames.length))) →
      exec (.rcv c) s = .next (trapsBefore s g p .framejoin 0 s)) ∧
    (topEntry g s.iss.slot = none → p.nent = 0 → s.iss.slot = 0 → g.paths = [(0, p)] →
      ∃ t h, exec (.rcv c) s = .next t ∧ t.group? s.iss.gid = some h ∧ t.mem = s.mem ∧ h.s = g.s ∧ h.v = g.v ∧ h.m = g.m ∧
        h.rstack = g.rstack ∧ h.paths = [(0, { p.fresh with cond := .ready, pc := s.iss.next, rep := 0, after_ := s.iss.next })]) ∧
    (∀ q, topEntry g s.iss.slot = none → p.nent = 0 → s.iss.slot = 0 → g.paths = [(0, p), (1, q)] → g.divTok = c → p.frames = [] →
      q.cond = .waiting (.rcv c) → q.pc = p.pc → q.reserve = [] →
      ∃ t h, exec (.rcv c) s = .next t ∧ t.group? s.iss.gid = some h ∧ t.mem = s.mem ∧ h.paths.find? 1 = none ∧ h.s = g.s ∧ h.v = g.v ∧ h.m = g.m ∧
        h.paths.find? 0 = some { p.fresh with
          mask := p.mask ||| q.mask, nent := p.nent + q.nent, cond := .ready, pc := s.iss.next, rep := 0, after_ := s.iss.next, parent := if p.parent = 1 then 0 else p.parent })

/-- R234: allon gives the issuing path all lanes and holds every other path of the group; alloff gives its mask back and lets
them go. allon inside a region and alloff outside one trap ILLOP, and so do rcv, regroup and exit inside one (vbr: ControlTransfers). -/
def Obligations.AllonRegions : Prop :=
  ∀ (s : State) (g : Group) (p : Path), Admitted { acc := {} } s g p →
    (p.saved = none → ∃ t h, exec .allon s = .next t ∧ t = { s with groups := t.groups, ops := t.ops, nextId := t.nextId } ∧
      t.group? s.iss.gid = some h ∧ h = { g with paths := h.paths, hbCount := h.hbCount, tickDue := h.tickDue } ∧
      h.paths.find? s.iss.slot = some { nextPath s p with saved := some p.mask, mask := BitVec.allOnes 32 } ∧
      ∀ j q, j ≠ s.iss.slot → g.paths.find? j = some q → h.paths.find? j = some { q with held := true }) ∧
    (∀ m, p.saved = some m → ∃ t h, exec .alloff s = .next t ∧ t = { s with groups := t.groups, ops := t.ops, nextId := t.nextId } ∧
      t.group? s.iss.gid = some h ∧ h = { g with paths := h.paths, hbCount := h.hbCount, tickDue := h.tickDue } ∧
      h.paths.find? s.iss.slot = some { nextPath s p with saved := none, mask := m } ∧
      ∀ j q, j ≠ s.iss.slot → g.paths.find? j = some q → h.paths.find? j = some { q with held := false }) ∧
    (Ordinary g → (p.saved.isSome = true → exec .allon s = .next (trapsBefore s g p .illop 0 s)) ∧
      (p.saved = none → exec .alloff s = .next (trapsBefore s g p .illop 0 s)) ∧
      (p.saved.isSome = true → (∀ c, exec (.rcv c) s = .next (trapsBefore s g p .illop 0 s)) ∧ exec .exit s = .next (trapsBefore s g p .illop 0 s) ∧
        ∀ d a b, Admitted { acc := {}, rd := vR ((List.range (b + 1 - a)).map (· + a)), wr := sR [d] } s g p →
          exec (.regroup d a b) s = .next (trapsBefore s g p .illop 0 s)))

/-- R235, R236: regroup. A group that cannot take part, being diverged, holding frames, with more than 16 live lanes or in no
team, gets 0 and goes on; one that can waits while others of its team have not come; alone in its team it gets 0; two that meet
are fused: the first, by %grp, takes the live lanes of the other with registers a to b, in its lowest free lanes, gets 1 and goes on, and
the other is gone. -/
def Obligations.RegroupResults : Prop :=
  ∀ (d a b : Nat) (s : State) (g : Group) (p : Path),
    Admitted { acc := {}, rd := vR ((List.range (b + 1 - a)).map (· + a)), wr := sR [d] } s g p → p.saved = none →
    let fit := g.converged = true ∧ p.frames = [] ∧ popN 32 g.live.toNat ≤ 16 ∧ g.team ≠ 0
    let x := s.iss.addr
    (¬fit → s.teams.find? g.team = none → exec (.regroup d a b) s = .next (goesOn s g p (wrote (.s d 0) s))) ∧
    (¬fit → p.cond = .ready → (∀ q ∈ g.paths, ∀ e a b, q.2.cond ≠ .waiting (.regroup e a b)) → (∀ q ∈ s.quads, ∀ e ∈ q.2.latch, e.gid ≠ s.iss.gid) →
      ∃ t h, exec (.regroup d a b) s = .next t ∧ t.group? s.iss.gid = some h ∧ (∀ n, rS h n = setS g d 0 n) ∧ h.v = g.v ∧ h.live = g.live ∧
        h.paths.find? s.iss.slot = some (nextPath s p)) ∧
    (fit → ∀ tm other o, s.teams.find? g.team = some tm → (∀ r ∈ tm.regroups, r.1 = x) → (other, o) ∈ teamGroups s g.team → other ≠ s.iss.gid →
      (x, other) ∉ tm.regroups → exec (.regroup d a b) s = .next (waitsThen s g p (.regroup d a b) s.iss.next
        { s with teams := s.teams.adjust g.team fun t =>
          { t with regroups := if (x, s.iss.gid) ∈ t.regroups then t.regroups else t.regroups ++ [(x, s.iss.gid)] } })) ∧
    (fit → p.pc = x → ∀ tm, s.teams.find? g.team = some tm → tm.regroups = [] → s.groups = [(s.iss.gid, g)] →
      ∃ t h, exec (.regroup d a b) s = .next t ∧ t.group? s.iss.gid = some h ∧ (∀ n, rS h n = setS g d 0 n) ∧ h.v = g.v ∧ h.live = g.live ∧
        (h.paths.find? 0).map Path.pc = some s.iss.next ∧ (h.paths.find? 0).map Path.cond = some .ready) ∧
    (fit → p.pc = x → g.bundle = none → p.reserve = [] → gangLists (s.quad g.place.quadIx).gang g.place = false →
      ∀ (tm : Team) (host : Nat) (hg : Group) (hp : Path), s.teams.find? g.team = some tm → tm.regroups = [(x, host)] → host < s.iss.gid → s.groups = [(host, hg), (s.iss.gid, g)] →
      hg.grp ≤ g.grp → hg.team = g.team → hg.paths = [(0, hp)] → hp.cond = .waiting (.regroup d a b) → hp.pc = x → popN 32 hg.live.toNat ≤ 16 →
      let src := lanesOf g.live
      let dst := (lanesOf (~~~hg.live)).take src.length
      let moved := maskOf fun l => dst.contains l
      ∃ t h q, exec (.regroup d a b) s = .next t ∧ t.group? s.iss.gid = none ∧ t.group? host = some h ∧ (∀ n, rS h n = setS hg d 1 n) ∧
        h.live = hg.live ||| moved ∧ h.fpflags = hg.fpflags ||| g.fpflags ∧ (∀ n < 8, n ≠ 0 → h.m.get 0 n = hg.m.get 0 n &&& ~~~moved) ∧
        (∀ (i y z : Nat), src[i]? = some y → dst[i]? = some z → (∀ n, a ≤ n → n ≤ b → rV h n z = rV g n y) ∧
          ∀ n < hg.budget, (n < a ∨ b < n) → rV h n z = 0) ∧
        (∀ n l, l < 32 → l ∉ dst → rV h n l = rV hg n l) ∧
        h.paths.find? 0 = some q ∧ q.mask = h.live ∧ q.pc = hp.after_ ∧ q.cond = .ready)

/-- R90, R91, R376: exit. The last path with live lanes retires its group, and else the group runs on without the lanes of the path that
ends; a path that owns stack entries turns to their deferred lanes; a path that holds frames or runs an inlined frame's code and a spawned group
trap FRAMEJOIN, and a handler group takes PRIV, which is a double fault (R346). -/
def Obligations.ExitResults : Prop :=
  ∀ (s : State) (g : Group) (p : Path),
    (Admitted { acc := {}, who := .notHandler } s g p → p.saved = none → p.frames = [] → p.inl = false → (∀ f, g.kind ≠ .spawned f) →
      (p.nent = 0 → g.paths.length ≤ 1 ∨ g.live &&& ~~~p.mask = 0 → ∃ t, exec .exit s = .next t ∧ t.group? s.iss.gid = none) ∧
      (p.nent = 0 → 1 < g.paths.length → g.live &&& ~~~p.mask ≠ 0 → s.teams.find? g.team = none →
        ∃ t h, exec .exit s = .next t ∧ t.group? s.iss.gid = some h ∧ h.live = g.live &&& ~~~p.mask) ∧
      (p.nent = 0 → g.paths = [(s.iss.slot, p)] → p.reserve = [] → g.bundle = none → g.resident = true → s.teams.find? g.team = none →
        gangLists (s.quad g.place.quadIx).gang g.place = false → g.kind = .grid → s.reqs.find? g.req = none →
        exec .exit s = .next { s with
          groups := s.groups.del s.iss.gid
          pipe := s.pipe.filter fun e => e.gid ≠ s.iss.gid
          kernels := s.kernels.adjust g.kernel fun k => { k with left := k.left - 1, st := if k.left ≤ 1 then .finishing else k.st } }) ∧
      (∀ i e, 0 < p.nent → topEntry g s.iss.slot = some i → g.rstack[i]? = some e → s.teams.find? g.team = none → p.cond = .ready →
        ∃ t h, exec .exit s = .next t ∧ t.group? s.iss.gid = some h ∧ t.mem = s.mem ∧ h.live = g.live &&& ~~~p.mask ∧
          h.paths.find? s.iss.slot = some { p.fresh with
            mask := e.dmask, rep := 0, pc := if e.phase then e.dpc + 4 else e.dpc, nent := if e.phase then p.nent - 1 else p.nent } ∧
          h.rstack = if e.phase then g.rstack.eraseIdx i else g.rstack.set i { e with dmask := 0, phase := true })) ∧
    (Admitted { acc := {}, who := .notHandler } s g p → p.saved = none → p.frames ≠ [] ∨ p.inl = true ∨ (∃ f, g.kind = .spawned f) →
      exec .exit s = .next (trapsBefore s g p .framejoin 0 s)) ∧
    (Issuing s g p → g.isHandler = true → prefixOk {} s.iss.pre = true → (s.ctx? g.ctx).map Ctx.st = some .resident →
      (s.ctx? g.ctx).map Ctx.porter = some false →
      ∃ t, exec .exit s = .next t ∧ (t.ctx? g.ctx).map Ctx.st = some .quiescing ∧ (t.ctx? g.ctx).bind Ctx.after_ = some .save ∧
        t.host.eqSeq = s.host.eqSeq + 1)

/-- R89, R58, R238: nop only goes on; yield also puts the group's paths behind the others of its partition; hint gives every path of
the group a gap of at least p cycles, and with g = 1 the group also comes last (the round-robin mark is the model's own, log 43).
And: R68, R72, R340, R349: trap and brk raise SYSCALL and BREAK after themselves with their number as data; a word that names no
instruction raises ILLOP before it. A trap of a handler group is a double fault: its resident context starts to quiesce and a
record is posted (R346).
And: R341, R350: rett of a handler that holds no bundle open. The handler's position is freed and the interrupted path is ready at the point that MODE names: 0 the
trapped instruction again, or after it for a trap taken after; 1 the instruction after; 2 the address in S(r). Nothing but
groups, operations in flight, the core's L1 copies and arithmetic of the handler changes.
And: R351: rinj moves a register between a handler and the group it serves: kind 0 a vector register, 1 a scalar, 2 a mask, 3 a
reconvergence stack entry in two scalars; written vector lanes are those of the trap frame's LANES. -/
def Obligations.HintsTrapsAndReturns : Prop :=
  Claims.HintsAndNop ∧ Claims.TrapInstructions ∧ Claims.ReturnFromTrap ∧ Claims.RegisterInjection

/-- R354, R355, R361: halt without a Porter only goes on, with one it halts the path; from a handler with scope 1 the context
quiesces to saved and a HALT record is posted. mbox.send writes eight registers to the ring's place and moves its tail, behind the messages
that the device itself still holds for that ring (the model's, log 21); mbox.recv reads a message and moves the head; each waits while its ring
is full, or empty.
And: R194, R198, R199: ucnt reads a counter of a registered weight region, or traps PERM where none is registered; attest writes
the 8,192 bytes of a signed report to its two pages and counts it in the context's report sequence. Each waits while matrix work that its group
has issued is not yet accepted, after ucnt's PERM (the model's, log 78); a bad address of attest traps PERM and a misaligned one ALIGN. The
signature is ML-DSA-65 under a key the spec does not give (log 15). -/
def Obligations.ReportsAndHalts : Prop := Claims.HaltAndMailbox ∧ Claims.UsageAndReports

/-- R153, R161: mma. A group that is not listed, or whose accumulator, P or format-block differs from the first arrival's, traps
GANG. An arrival before the last waits at the latch. The last is accepted: A is the members' registers in entry order (R162), B
and the scales are captured, the charge is made, the latch empties, and every member goes on after its mma. -/
def Obligations.MmaRendezvous : Prop :=
  ∀ (t a k : Nat) (s : State) (g : Group) (p : Path),
    Admitted { acc := { px := true }, rd := sR [a] ++ vR (contributed s a), full := true } s g p →
    let qi := g.place.quadIx
    let q := s.quad qi
    let f := FBlock.of (rS g a)
    let kk := gangK q f
    let e : Arrival := { gid := s.iss.gid, slot := s.iss.slot, t := t, p := promoteEvery s k, fb := rS g a }
    let same : Prop := ∀ x ∈ q.latch, x.t = t ∧ x.p = e.p ∧ x.fb = e.fb
    (Ordinary g → (gangLists q.gang g.place = false ∨ ¬same) → exec (.mma t a k) s = .next (trapsBefore s g p .gang 0 s)) ∧
    (gangLists q.gang g.place = true → same → q.latch.length + 1 < q.gang.toNat / 2 ^ 61 % 8 →
      exec (.mma t a k) s = .next (waitsThen s g p .latch s.iss.next (s.modQuad qi fun q => { q with latch := q.latch ++ [e] }))) ∧
    (gangLists q.gang g.place = true → same → q.gang.toNat / 2 ^ 61 % 8 ≤ q.latch.length + 1 → blockReason q f false kk = 0 →
      (∀ i ∈ kSlots f kk, (q.slot i).st ≠ .loading) → scalesOk s g f kk →
      (∀ en ∈ gangEntries q.gang, ∃ h, groupAt s g.place.core g.place.quad en.1 en.2.1 g.ctx = some h ∧ 8 * en.2.2 + f.arc < h.2.budget) →
      (∀ x ∈ q.latch, x.gid ≠ s.iss.gid ∧ ∃ h, s.group? x.gid = some h ∧ h.place.core = g.place.core ∧ h.place.quad = g.place.quad ∧ h.ctx = g.ctx) →
      ∃ u op ar b asc bsc, exec (.mma t a k) s = .next u ∧ u.mem = s.mem ∧ u.quad qi = { q with latch := [] } ∧
        u.ops.find? (s.nextId + 1) = some op ∧
        op.kind = .mat qi t (.mm f.af f.bf e.p ar b asc bsc (s.fx g.ctx f.fxs) ((f.runs kk).map Prod.fst) (q.latch.map Arrival.gid ++ [s.iss.gid])) ∧
        Operands s g f kk b asc bsc ∧
        (∀ m en h, (gangEntries q.gang)[m]? = some en → groupAt s g.place.core g.place.quad en.1 en.2.1 g.ctx = some h →
          ∀ i < 32, ∀ r ≤ f.arc, ∀ x < perReg f.af, (ar.getD i []).getD ((m * (f.arc + 1) + r) * perReg f.af + x) 0 =
            elem (64 / perReg f.af) (rV h.2 (8 * en.2.2 + r) i) x) ∧
        u.ctx? g.ctx = (s.ctx? g.ctx).map (macsCharged q f kk) ∧
        u.path? s.iss.gid s.iss.slot = some { p.fresh with cond := .ready, pc := s.iss.next, after_ := s.iss.next } ∧
        ∀ x ∈ q.latch, ∀ y, s.path? x.gid x.slot = some y → u.path? x.gid x.slot = some { y.fresh with cond := .ready, pc := y.after_ })

/-- R164, R165: mmat takes A from rows of a tile and is accepted at once, by one group alone; acczero and mprom enter the
acceptance order. The corners of mmat are judged in their order: ALIGN (its data 0: the model's, log 52), PADBOUND, TILEEMPTY, ILLOP, ENGINE. -/
def Obligations.TileProductsAndMerges : Prop :=
  ∀ (t a b k : Nat) (s : State) (g : Group) (p : Path),
    let core := g.place.core
    let q := s.quad g.place.quadIx
    let f := FBlock.of (rS g a)
    let d := (rS g b).toNat
    let pitch := d / 2 ^ 48
    let kk := d / 2 ^ 32 % 2 ^ 16
    let off := d / 2 ^ 8 % 2 ^ 24
    let tn := d % 256
    let x := s.tile core tn
    let bits := (mfmt f.af).bits
    let row := if famOf f.af = 2 then kk / 16 * pxBytes (mfmt f.af) else (kk * bits + 7) / 8
    let at_ (i : Nat) : Nat := 4096 * x.base + off + pitch * i
    let aligned : Prop := off % 32 = 0 ∧ pitch % 32 = 0
    (Admitted { acc := { px := true }, rd := sR [a, b], full := true } s g p →
      (aligned → tileRead s core g.ctx tn = .ok → blockReason q f true kk = 0 → (∀ i ∈ kSlots f kk, (q.slot i).st ≠ .loading) →
        off + 31 * pitch + row ≤ 4096 * x.count → scalesOk s g f kk →
        ∃ ar b' asc bsc, Operands s g f kk b' asc bsc ∧
          exec (.mmat t a b k) s = .next (goesOn s g p ((s.modCtx g.ctx (macsCharged q f kk)).addOp (matOp s g (.mat g.place.quadIx t
            (.mm f.af f.bf (promoteEvery s k) ar b' asc bsc (s.fx g.ctx f.fxs) ((f.runs kk).map Prod.fst) [s.iss.gid]))))) ∧
          (famOf f.af ≠ 2 → ∀ i < 32, ∀ y < kk, (ar.getD i []).getD y 0 = padRd s core (at_ i) row / 2 ^ (bits * y) % 2 ^ bits) ∧
          (famOf f.af = 2 → ∀ i < 32, ∀ y < kk / 16, (ar.getD i []).getD y 0 = padRd s core (at_ i + pxBytes (mfmt f.af) * y) (pxBytes (mfmt f.af)))) ∧
      (Ordinary g →
        (¬aligned → exec (.mmat t a b k) s = .next (trapsBefore s g p .align 0 s)) ∧
        (aligned → tileOwned s core g.ctx tn = false → exec (.mmat t a b k) s = .next (trapsBefore s g p .padbound tn s)) ∧
        (aligned → tileOwned s core g.ctx tn = true → x.reg = true → x.st = .empty → exec (.mmat t a b k) s = .next (trapsBefore s g p .tileempty 0 s)) ∧
        (aligned → tileRead s core g.ctx tn = .ok → blockReason q f true kk ≠ 0 → exec (.mmat t a b k) s = .next (trapsBefore s g p .illop 0 s)) ∧
        (aligned → tileRead s core g.ctx tn = .ok → blockReason q f true kk = 0 → (∀ i ∈ kSlots f kk, (q.slot i).st ≠ .loading) →
          4096 * x.count < off + 31 * pitch + row → exec (.mmat t a b k) s = .next (trapsBefore s g p .engine 0 s)))) ∧
    (Admitted { acc := {}, full := true } s g p →
      exec (.acczero t) s = .next (goesOn s g p (s.addOp (matOp s g (.mat g.place.quadIx t .zero)))) ∧
      exec (.mprom t b) s = .next (goesOn s g p (s.addOp (matOp s g (.mat g.place.quadIx t (.prom b))))))

/-- R150, R163, R165: the oldest accepted work of a quadrant writes its accumulator as one unit: every element is the two-level
sum of R163 over it, or the merged or cleared value; no other accumulator changes; its flags go to the groups of R149. -/
def Obligations.MatrixResults : Prop :=
  ∀ (s : State) (o : Nat) (op : Op) (qi t : Nat) (k : MatKind), s.ops.find? o = some op → op.kind = .mat qi t k →
    (∀ x ∈ s.ops, x.1 < o → ∀ u k', x.2.kind ≠ .mat qi u k') → (∀ af bf p a b c d fx l m, k = .mm af bf p a b c d fx l m → 0 < p) →
    ∃ u, exec (.matrixResult o) s = .next u ∧ u = { s with ops := s.ops.del o, quads := u.quads, groups := u.groups } ∧
      u.quad qi = { s.quad qi with acc := (u.quad qi).acc } ∧ (∀ j, j ≠ qi → u.quad j = s.quad j) ∧
      (∀ i < 32, ∀ j < 32, (u.quad qi).acc.get 0 (1024 * t + 32 * i + j) = BitVec.ofNat 32 (workResult k (s.quad qi) t i j).1) ∧
      (∀ n, n / 1024 ≠ t → (u.quad qi).acc.get 0 n = (s.quad qi).acc.get 0 n) ∧
      (∀ j, j ∉ flagged k op.gid → u.group? j = s.group? j) ∧
      let fl := ((List.range 1024).map fun n => (workResult k (s.quad qi) t (n / 32) (n % 32)).2).foldl (· ||| ·) 0
      ∀ j ∈ flagged k op.gid, u.group? j = (s.group? j).map fun h => { h with fpflags := h.fpflags ||| BitVec.ofNat 64 fl }

/-- R150, R167: a row or column of an accumulator that no accepted work names is read or written in the acting lanes only; while
such work is in flight the access waits. arow.rdb rounds each element to bf16; arow.add adds with one rounding to FP32. -/
def Obligations.AccumulatorRowsAndColumns : Prop :=
  ∀ (d a b : Nat) (s : State) (g : Group) (p : Path),
    let qi := g.place.quadIx
    let r := (rS g b).toNat % 32
    let el (t i j : Nat) : Nat := ((s.quad qi).acc.get 0 (1024 * t + 32 * i + j)).toNat
    let n := (actLanes s g p).length
    let ds := drawn s g n
    let bf (l : Nat) : Nat × Nat := (F32.val (F32.daz g.daz (el a r l))).into BF16 (rmode s g) (drawOf s g p 1 ds l 0) g.ftz false
    let sum (l : Nat) : Nat × Nat :=
      let z := (F32.val (F32.daz g.daz (el d r l))).add (rmode s g) (F32.val (F32.daz g.daz ((rV g a l).toNat % 2 ^ 32)))
      ((z.1.round F32 (rmode s g) (drawOf s g p 1 ds l 0) g.ftz).1, z.2 ||| (z.1.round F32 (rmode s g) (drawOf s g p 1 ds l 0) g.ftz).2)
    let same := fun n => g.m.get 0 n
    let rdAdm (rnd : Bool) : Adm := { acc := { pred := true, rnd := rnd }, rd := sR [b], wr := vR [d] }
    let wrAdm (rnd : Bool) : Adm := { acc := { pred := true, rnd := rnd }, rd := vR [a] ++ sR [b] }
    let put (y x : State) (f : Nat → Nat → Option Nat) : Prop :=
      x = { y with quads := x.quads } ∧ (∀ j, j ≠ qi → x.quad j = y.quad j) ∧ x.quad qi = { y.quad qi with acc := (x.quad qi).acc } ∧
      (∀ i < 32, ∀ j < 32, (x.quad qi).acc.get 0 (1024 * d + 32 * i + j) = ((f i j).map (BitVec.ofNat 32)).getD ((s.quad qi).acc.get 0 (1024 * d + 32 * i + j))) ∧
      ∀ m, m / 1024 ≠ d → (x.quad qi).acc.get 0 m = (s.quad qi).acc.get 0 m
    let on (l : Nat) (v : Nat) : Option Nat := if (act s g p).getLsbD l then some v else none
    let src (l : Nat) : Nat := (rV g a l).toNat % 2 ^ 32
    (accBusy s qi a = false →
      (Admitted (rdAdm false) s g p →
        (∃ t, exec (.arowRd d a b) s = .next t ∧ Computes s s t g p (vR [d]) (rS g) (setV s g p d fun l => BitVec.ofNat 64 (el a r l)) same 0) ∧
        (∃ t, exec (.acolRd d a b) s = .next t ∧ Computes s s t g p (vR [d]) (rS g) (setV s g p d fun l => BitVec.ofNat 64 (el a l r)) same 0)) ∧
      (Admitted (rdAdm true) s g p →
        ∃ t, exec (.arowRdb d a b) s = .next t ∧ Computes s (drawnFrom s g n) t g p (vR [d]) (rS g) (setV s g p d fun l => BitVec.ofNat 64 (bf l).1) same
          (((actLanes s g p).map fun l => (bf l).2).foldl (· ||| ·) 0))) ∧
    (accBusy s qi d = false →
      (Admitted (wrAdm false) s g p →
        (∃ x t, exec (.arowWr d a b) s = .next t ∧ put s x (fun i j => if i = r then on j (src j) else none) ∧ Computes s x t g p [] (rS g) (rV g) same 0) ∧
        (∃ x t, exec (.acolWr d a b) s = .next t ∧ put s x (fun i j => if j = r then on i (src i) else none) ∧ Computes s x t g p [] (rS g) (rV g) same 0)) ∧
      (Admitted (wrAdm true) s g p →
        ∃ x t, exec (.arowAdd d a b) s = .next t ∧ put (drawnFrom s g n) x (fun i j => if i = r then on j (sum j).1 else none) ∧
          Computes s x t g p [] (rS g) (rV g) same (((actLanes s g p).map fun l => (sum l).2).foldl (· ||| ·) 0))) ∧
    (accBusy s qi a = true →
      (Admitted (rdAdm false) s g p → exec (.arowRd d a b) s = .next (waitsOn s g p (.acc a) s) ∧
        exec (.acolRd d a b) s = .next (waitsOn s g p (.acc a) s)) ∧
      (Admitted (rdAdm true) s g p → exec (.arowRdb d a b) s = .next (waitsOn s g p (.acc a) s))) ∧
    (accBusy s qi d = true →
      (Admitted (wrAdm false) s g p → exec (.arowWr d a b) s = .next (waitsOn s g p (.acc d) s) ∧
        exec (.acolWr d a b) s = .next (waitsOn s g p (.acc d) s)) ∧
      (Admitted (wrAdm true) s g p → exec (.arowAdd d a b) s = .next (waitsOn s g p (.acc d) s)))

/-- R157, R159, R160, R190: fmtchk answers the reason code; wbld loads panels of an owned, ready tile into slots that no accepted
product reads, and charges their bytes; each panel is stored in turn; wbfree frees loaded slots at once and loading ones when
their load ends; both wait for slots that an accepted product reads. The %trapdata of wbld's ALIGN is 0 (the model's, log 52), and the order of its
checks the model's (log 80). -/
def Obligations.WeightBuffer : Prop :=
  ∀ (a b k : Nat) (s : State) (g : Group) (p : Path),
    let core := g.place.core
    let qi := g.place.quadIx
    let q := s.quad qi
    let x := (rS g a).toNat
    let y := (rS g b).toNat
    let slots (v : Nat) : List Nat := (List.range (v / 2 ^ 8 % 64)).map fun i => (v % 32 + i) % 32
    let shape (v : Nat) : Prop := 1 ≤ v / 2 ^ 8 % 64 ∧ v / 2 ^ 8 % 64 ≤ 32 ∧ v = v % 32 + 2 ^ 8 * (v / 2 ^ 8 % 64) + 2 ^ 16 * (v / 2 ^ 16 % 32)
    let f := y / 2 ^ 16 % 32
    let sp : Bool := k % 2 = 1
    let tn := x % 256
    let off := x / 2 ^ 8 % 2 ^ 24
    let bytes := 32 * panelBytes f sp * (y / 2 ^ 8 % 64)
    let legal : Prop := shape y ∧ f < 16 ∧ (sp = true → f < 7)
    let wb := Admitted { acc := {}, rd := sR [a, b], full := true } s g p
    (Admitted { acc := {}, rd := sR (if k = 0 then [b] else [b, b + 1]), wr := sR [a] } s g p →
      exec (.fmtchk a b k) s = .next (goesOn s g p (wrote (.s a (BitVec.ofNat 64 (if k = 0 then blockReason q (FBlock.of (rS g b)) false (gangK q (FBlock.of (rS g b)))
        else blockReason q (FBlock.of (rS g b)) true ((rS g (b + 1)).toNat / 2 ^ 32 % 2 ^ 16)))) s))) ∧
    (wb → legal → off % 32 = 0 → tileRead s core g.ctx tn = .ok → off + bytes ≤ 4096 * (s.tile core tn).count → slotsRead s qi (slots y) = false →
      ∃ u : State, u = { s with quads := u.quads, cores := u.cores, ctxs := u.ctxs } ∧
        exec (.wbld a b k) s = .next (goesOn s g p (u.addOp (matOp s g
          (.wb qi (y % 32) (y / 2 ^ 8 % 64) f sp off 0 tn (s.tile core tn).rmask [])))) ∧
        (∀ j, j ≠ qi → u.quad j = s.quad j) ∧ u.quad qi = { q with slots := (u.quad qi).slots } ∧
        (∀ i, (u.quad qi).slot i = if i ∈ slots y then { st := .loading, fmt := f, sp := sp, data := [], rmask := (s.tile core tn).rmask } else q.slot i) ∧
        u.tile core tn = { s.tile core tn with held := (s.tile core tn).held + 1 } ∧
        u.ctx? g.ctx = (s.ctx? g.ctx).map (charge false (s.tile core tn).rmask bytes)) ∧
    (wb → Ordinary g → (¬legal → exec (.wbld a b k) s = .next (trapsBefore s g p .illop 0 s)) ∧
      (legal → off % 32 ≠ 0 → exec (.wbld a b k) s = .next (trapsBefore s g p .align 0 s)) ∧
      (legal → off % 32 = 0 → tileRead s core g.ctx tn = .ok → 4096 * (s.tile core tn).count < off + bytes →
        exec (.wbld a b k) s = .next (trapsBefore s g p .engine 0 s)) ∧
      (legal → off % 32 = 0 → tileOwned s core g.ctx tn = false → exec (.wbld a b k) s = .next (trapsBefore s g p .padbound tn s)) ∧
      (legal → off % 32 = 0 → tileOwned s core g.ctx tn = true → (s.tile core tn).reg = true → (s.tile core tn).st = .empty →
        exec (.wbld a b k) s = .next (trapsBefore s g p .tileempty 0 s))) ∧
    (wb → legal → off % 32 = 0 → tileRead s core g.ctx tn = .ok → off + bytes ≤ 4096 * (s.tile core tn).count → slotsRead s qi (slots y) = true →
      exec (.wbld a b k) s = .next (waitsOn s g p (.wslots (slots y) true) s)) ∧
    (Admitted { acc := {}, rd := sR [a], full := true } s g p → shape x → slotsRead s qi (slots x) = true →
      exec (.wbfree a) s = .next (waitsOn s g p (.wslots (slots x) false) s)) ∧
    (Admitted { acc := {}, rd := sR [a], full := true } s g p →
      (shape x → slotsRead s qi (slots x) = false → ∃ u, exec (.wbfree a) s = .next (goesOn s g p u) ∧
        u = { s with quads := u.quads, ops := u.ops } ∧ (∀ j, j ≠ qi → u.quad j = s.quad j) ∧
        (∀ i, (u.quad qi).slot i = if i ∈ slots x ∧ (q.slot i).st = .loaded then WSlot.reset else q.slot i) ∧
        ∀ o op sl m f sp off j tn rm fr, s.ops.find? o = some op → op.kind = .wb qi sl m f sp off j tn rm fr →
          ∃ fr', u.ops.find? o = some { op with kind := .wb qi sl m f sp off j tn rm fr' } ∧
            ∀ i, i ∈ fr' ↔ i ∈ fr ∨ (i ∈ slots x ∧ ∃ n < m, i = (sl + n) % 32)) ∧
      (¬shape x → Ordinary g → exec (.wbfree a) s = .next (trapsBefore s g p .illop 0 s))) ∧
    (∀ o op n sl f sp off j tn rm fr, s.ops.find? o = some op → op.kind = .wb qi sl n f sp off j tn rm fr → q.latch = [] →
      (∀ z ∈ s.ops, z.1 ≠ o → ∀ sl n f sp off j tn rm fr, z.2.kind ≠ .wb qi sl n f sp off j tn rm fr) →
      ∃ u, exec (.wbldSlotLoaded o) s = .next u ∧ u.mem = s.mem ∧
        (u.quad qi).slot ((sl + j) % 32) = (if (sl + j) % 32 ∈ fr then WSlot.reset else
          { st := .loaded, fmt := f, sp := sp, rmask := rm
            data := padBytes s op.core (4096 * (s.tile op.core tn).base + off + 32 * pbOf f sp * j) (32 * pbOf f sp) }) ∧
        (∀ i, i ≠ (sl + j) % 32 → (u.quad qi).slot i = q.slot i) ∧
        (j + 1 < n → u.ops.find? o = some { op with kind := .wb qi sl n f sp off (j + 1) tn rm fr }) ∧
        (n ≤ j + 1 → u.ops.find? o = none ∧ u.tile op.core tn = { s.tile op.core tn with held := (s.tile op.core tn).held - 1 }))

/-- R171, R172: one step of shearsort puts each of its pairs in order and moves no other record: in a row phase the pairs (c, c + 1)
with c of the step's parity, reversed in odd rows; in a column phase the pairs (r, r + 1). The records are only exchanged. -/
def Sys2Proof.Claims.ShearsortStep : Prop :=
  ∀ (kf dir ph st : Nat) (cells : List Cell), cells.length = 1024 → (∀ c ∈ cells, c.key < 2 ^ keyBits kf) →
    let new := sortStep kf dir ph st cells
    new.length = 1024 ∧ new.Perm cells ∧
    (ph % 2 = 0 → ∀ r < 32, (∀ c ≤ 30, c % 2 = st % 2 →
        if r % 2 = 1 then exchanged kf dir cells new (32 * r + c + 1) (32 * r + c) else exchanged kf dir cells new (32 * r + c) (32 * r + c + 1)) ∧
      (st % 2 = 1 → cellAt new (32 * r) = cellAt cells (32 * r) ∧ cellAt new (32 * r + 31) = cellAt cells (32 * r + 31))) ∧
    (ph % 2 = 1 → ∀ c < 32, (∀ r ≤ 30, r % 2 = st % 2 → exchanged kf dir cells new (32 * r + c) (32 * (r + 1) + c)) ∧
      (st % 2 = 1 → cellAt new c = cellAt cells c ∧ cellAt new (992 + c) = cellAt cells (992 + c)))

/-- R174 to R182, Table SRT.2: the SORT instructions, issued from the owning quadrant once the array is neither busy nor awaited
by an earlier waiter: sxld starts a load from an owned, ready tile; sxrun starts or resumes a run; sxst stores a sorted array to an
empty tile; sxabort pauses or discards. From another quadrant they trap SORTSTATE; a misaligned OFF traps ALIGN (its data 0: the model's, log 52),
a tile not owned PADBOUND, an empty one TILEEMPTY for sxld, one that does not fit ENGINE, in the order of log 80 (the model's). sxstat reads
Table SRT.4. -/
def Obligations.SortInstructions : Prop :=
  ∀ (a k : Nat) (s : State) (g : Group) (p : Path),
    let core := g.place.core
    let x := (s.core core).sort
    let d := (rS g a).toNat
    let t := d % 256
    let off := d / 2 ^ 8 % 2 ^ 24
    let tl := s.tile core t
    let ad := Admitted { acc := {}, rd := sR [a] } s g p
    let ar := Admitted { acc := {} } s g p
    let sorts (f : SortArr → SortArr) : State := { s.modSort core f with nextId := s.nextId + 1 }
    (ad → sortMine s g → off % 32 = 0 → tileRead s core g.ctx t = .ok → sortWaits s core p = false → off + 1024 * recordBytes k ≤ 4096 * tl.count →
      exec (.sxld a k) s = .next (goesOn s g p { (s.modTile core t fun y => { y with held := y.held + 1 }).modSort core fun y =>
        { y with st := .loading, cells := [], phase := 0, step := 0, kf := k, gid := s.iss.gid, slot := s.iss.slot, tile := t, off := off, op := s.nextId,
                 stopReq := false, paused := false } with nextId := s.nextId + 1 })) ∧
    (ar → sortMine s g → sortWaits s core p = false →
      (x.st = .loaded ∨ x.st = .sorted → exec (.sxrun k) s = .next (goesOn s g p (sorts fun y =>
        { y with st := .running, phase := 0, step := 0, dir := k % 2, gid := s.iss.gid, slot := s.iss.slot, op := s.nextId, stopReq := false, paused := false }))) ∧
      (x.st = .stopped → x.dir = k % 2 → exec (.sxrun k) s = .next (goesOn s g p (sorts fun y =>
        { y with st := .running, gid := s.iss.gid, slot := s.iss.slot, op := s.nextId, stopReq := false, paused := false }))) ∧
      (Ordinary g → x.st = .idle ∨ (x.st = .stopped ∧ x.dir ≠ k % 2) → exec (.sxrun k) s = .next (trapsBefore s g p .sortstate 0 s))) ∧
    (ad → sortMine s g → off % 32 = 0 → tileOwned s core g.ctx t = true → sortWaits s core p = false →
      (x.st = .sorted → tl.reg = true → tl.st = .empty → off + 1024 * recordBytes x.kf ≤ 4096 * tl.count →
        exec (.sxst a k) s = .next (goesOn s g p { (s.modTile core t fun y => { y with st := .filling }).modSort core fun y =>
          { y with st := .storing, gid := s.iss.gid, slot := s.iss.slot, tile := t, off := off, k := k, op := s.nextId } with nextId := s.nextId + 1 })) ∧
      (Ordinary g → x.st ≠ .sorted → exec (.sxst a k) s = .next (trapsBefore s g p .sortstate 0 s)) ∧
      (Ordinary g → x.st = .sorted → tl.busy = false →
          tl.reg = false ∨ tl.st = .ready ∨ (tl.st = .empty ∧ 4096 * tl.count < off + 1024 * recordBytes x.kf) →
        exec (.sxst a k) s = .next (trapsBefore s g p .engine 0 s)) ∧
      (x.st = .sorted → tl.busy = true → exec (.sxst a k) s = .next (waitsOn s g p (.tile t false false) s))) ∧
    (ad → sortMine s g → off % 32 = 0 → tileOwned s core g.ctx t = true → sortWaits s core p = false →
      (Ordinary g → tl.busy = false → tl.reg = true → tl.st = .empty → exec (.sxld a k) s = .next (trapsBefore s g p .tileempty 0 s)) ∧
      (Ordinary g → tl.busy = false → tl.reg = false ∨ (tl.st = .ready ∧ 4096 * tl.count < off + 1024 * recordBytes k) →
        exec (.sxld a k) s = .next (trapsBefore s g p .engine 0 s)) ∧
      (tl.busy = true → exec (.sxld a k) s = .next (waitsOn s g p (.tile t false false) s))) ∧
    (ad → Ordinary g → ∀ i, i = .sxld a k ∨ i = .sxst a k →
      (¬sortMine s g → exec i s = .next (trapsBefore s g p .sortstate 0 s)) ∧
      (sortMine s g → off % 32 ≠ 0 → exec i s = .next (trapsBefore s g p .align 0 s)) ∧
      (sortMine s g → off % 32 = 0 → tileOwned s core g.ctx t = false → exec i s = .next (trapsBefore s g p .padbound t s)) ∧
      (sortMine s g → off % 32 = 0 → tileOwned s core g.ctx t = true → sortWaits s core p = true →
        exec i s = .next (waitsOn s g p .sort s))) ∧
    (ar → sortMine s g →
      exec (.sxabort 0) s = .next (goesOn s g p (if x.st = .running then s.modSort core fun y => { y with stopReq := true } else s)) ∧
      (sortWaits s core p = false → exec (.sxabort 1) s = .next (goesOn s g p (s.modSort core fun y => { SortArr.idle with kf := y.kf, dir := y.dir }))) ∧
      (sortWaits s core p = true → exec (.sxrun k) s = .next (waitsOn s g p .sort s) ∧ exec (.sxabort 1) s = .next (waitsOn s g p .sort s))) ∧
    (ar → Ordinary g → ¬sortMine s g → exec (.sxrun k) s = .next (trapsBefore s g p .sortstate 0 s) ∧
      exec (.sxabort k) s = .next (trapsBefore s g p .sortstate 0 s)) ∧
    (Admitted { acc := {}, wr := sR [a] } s g p →
      exec (.sxstat a) s = .next (goesOn s g p (wrote (.s a (BitVec.ofNat 64
        (if (s.quad (4 * core + (s.core core).sortq)).owner = g.ctx then
          x.phase * 2 ^ 24 + x.step * 2 ^ 19 + x.kf * 2 ^ 16 + x.dir * 2 ^ 15 + (s.core core).sortq * 2 ^ 10 +
            (if (s.core core).sortq = g.place.quad then 2 ^ 9 else 0) +
            (match x.st with | .idle => 0 | .loading => 1 | .loaded => 2 | .running => 3 | .stopped => 4 | .sorted => 5 | .storing => 6)
        else (s.core core).sortq * 2 ^ 10))) s)))

/-- R169, R170, R172, R177, R179, R182, R183: how sort operations end. A load's end puts record i of the tile into cell i and lifts
the hold; a run ends with the cycle of step 352, the last of phase 10, so that the event finds it ended; a requested stop ends it before; a store's end writes record j of the snake order at its place
and the tile is ready; a soft error idles the array with no records and sets the sort ERR bit. That a load reads all its words at its end is the
model's choice (log 108). -/
def Sys2Proof.Claims.SortOperationsEnd : Prop :=
  ∀ (core : Nat) (s : State),
    let x := (s.core core).sort
    let n := recordBytes x.kf
    let base := 4096 * (s.tile core x.tile).base + x.off
    (x.st = .loading → ∃ t, exec (.sortLoadEnd core) s = .next t ∧ t = { s with cores := t.cores } ∧ (∀ c, c ≠ core → t.core c = s.core c) ∧
      (t.core core).sort = { x with st := .loaded, phase := 0, step := 0, cells := (t.core core).sort.cells } ∧ (t.core core).sort.cells.length = 1024 ∧
      (∀ i < 1024, cellAt (t.core core).sort.cells i =
        { key := padRd s core (base + n * i) (keyBits x.kf / 8), pay := padRd s core (base + n * i + n / 2) 4, pos := i }) ∧
      t.tile core x.tile = { s.tile core x.tile with held := (s.tile core x.tile).held - 1 }) ∧
    (x.st = .running → x.paused = false → x.stopReq = false → x.phase = 10 → x.step = 31 → (sortCycle s core x).st = .sorted ∧
      (sortCycle s core x).phase = 11 ∧ (sortCycle s core x).cells = sortStep x.kf x.dir 10 31 x.cells) ∧
    (x.st = .sorted → exec (.sortRunEnd core) s = .next s) ∧
    (x.st = .running → x.phase = 11 → exec (.sortRunEnd core) s = .next (s.modSort core fun y => { y with st := .sorted, step := 0, stopReq := false })) ∧
    (x.st = .running → x.stopReq = true → exec (.sortStop core) s = .next (s.modSort core fun y => { y with st := .stopped, stopReq := false })) ∧
    (x.st = .running → x.stopReq = false → (s.ctx? (s.quad (4 * core + (s.core core).sortq)).owner).map Ctx.st = some .quiescing →
      exec (.sortStop core) s = .next (s.modSort core fun y => { y with paused := true })) ∧
    (x.st = .storing → ∃ t, exec (.sortStoreEnd core) s = .next t ∧ t = { s with cores := t.cores } ∧ (∀ c, c ≠ core → t.core c = s.core c) ∧
      (t.core core).sort = { x with st := .sorted } ∧ t.tile core x.tile = { s.tile core x.tile with st := .ready, rmask := 0 } ∧
      (∀ j < 1024,
        let c := cellAt x.cells (if j / 32 % 2 = 0 then j else 32 * (j / 32) + 31 - j % 32)
        padRd t core (base + n * j) (n / 2) = c.key % 256 ^ (n / 2) ∧
        padRd t core (base + n * j + n / 2) (n / 2) = (if x.k = 0 then c.pay else c.pos) % 256 ^ (n / 2)) ∧
      ∀ b, b < base ∨ base + 1024 * n ≤ b → padByte t core b = padByte s core b) ∧
    (x.st = .running → ∃ t, exec (.sortSoftError core) s = .next t ∧ (t.core core).sort = { SortArr.idle with kf := x.kf, dir := x.dir } ∧
      ∀ g, s.group? x.gid = some g → (t.group? x.gid).map Group.err = some (g.err ||| 4))

/-- R171, R172: one step of shearsort puts each of its pairs in order and moves no other record: in a row phase the pairs (c, c + 1)
with c of the step's parity, reversed in odd rows; in a column phase the pairs (r, r + 1). The records are only exchanged.
And: R169, R170, R172, R177, R179, R182, R183: how sort operations end. A load's end puts record i of the tile into cell i and lifts
the hold; a run ends with the cycle of step 352, the last of phase 10, so that the event finds it ended; a requested stop ends it before; a store's end writes record j of the snake order at its place
and the tile is ready; a soft error idles the array with no records and sets the sort ERR bit. That a load reads all its words at its end is the
model's choice (log 108). -/
def Obligations.SortSteps : Prop := Claims.ShearsortStep ∧ Claims.SortOperationsEnd

/-- R143 to R146, R332: an engine operation whose descriptor is legal and aligned, whose tiles are owned, free and in the right
state, and whose engine has a place, is issued: it takes the next sequence number, its tile fills or drains, and the path goes on.
The checks are made in the order ENGINE, ALIGN, PADBOUND, a place, the tiles, ENGINE or TILEEMPTY. The %trapdata of ALIGN is 0 and that of PADBOUND
the tile's number (the model's, log 52); a multicast waits at its issue for the path's earlier writes of its list (log 60). -/
def Obligations.EngineOperationsIssue : Prop :=
  ∀ (i : Instr) (fn k n d b : Nat) (s : State) (g : Group) (p : Path), engineForm i = some (fn, k, n, d, b) →
    Admitted { acc := {}, rd := sR ((List.range n).map (b + ·)), wr := sR [d] } s g p →
    let core := g.place.core
    let r (j : Nat) : Nat := (rS g (b + j)).toNat
    let e := engineOp fn k r
    let legal := engineShape e r
    let aligned := engineAligned e r
    let owned : Prop := ∀ t ∈ engineTiles e, tileOwned s core g.ctx t = true
    let room : Prop := (engOps s core e.eng).length < 64
    let still : Prop := ∀ t ∈ engineTiles e, (s.tile core t).st ≠ .filling ∧ (s.tile core t).st ≠ .draining ∧ (s.tile core t).held = 0
    (legal → aligned → owned → room → still → engineFits s core e →
      (fn ≠ 5 → exec i s = .next (goesOn s g p (engineIssued s g d
        { e with todo := List.range (engineItems e + if e.cnt ≠ 0 then 1 else 0) }))) ∧
      (fn = 5 → ∀ pa : Nat → Nat,
        let vas := (List.range (r 4 % 256)).map fun t => (r 0 + 8 * t) % 2 ^ 64
        let words := vas.map fun va => s.rd (pa va) 8
        (∀ va ∈ vas, badVa va = false ∧ trOne s core g.ctx va Need.read false = .key (pa va)) → p.aborted = false →
        ¬OthersFirst s g false false (vas.map fun va => (pa va, 8)) → (∀ x ∈ words, x / 2 ^ 40 % 2 ^ 8 = 0 ∧ x / 2 ^ 14 % 2 ^ 18 = 0) →
        exec i s = .next (goesOn s g p (engineIssued s g d { e with
          todo := List.range (r 4 % 256)
          targets := words.map fun x => { gen := x / 2 ^ 48 % 2 ^ 16, tile := x / 2 ^ 32 % 2 ^ 8, dev := x / 2 ^ 8 % 2 ^ 6, core := x % 2 ^ 8 } })))) ∧
    (legal → aligned → owned → ¬room → exec i s = .next (waitsOn s g p (.eplace e.eng) s)) ∧
    (legal → aligned → owned → room → (s.tile core e.tile).st = .filling ∨ (s.tile core e.tile).st = .draining ∨ 0 < (s.tile core e.tile).held →
      exec i s = .next (waitsOn s g p (.tile e.tile false true) s)) ∧
    (Ordinary g →
      (¬legal → exec i s = .next (trapsBefore s g p .engine 0 s)) ∧
      (legal → ¬aligned → exec i s = .next (trapsBefore s g p .align 0 s)) ∧
      (legal → aligned → tileOwned s core g.ctx e.tile = false → exec i s = .next (trapsBefore s g p .padbound e.tile s)) ∧
      (legal → aligned → owned → room → still → (s.tile core e.tile).reg = false → exec i s = .next (trapsBefore s g p .engine 0 s)) ∧
      (legal → aligned → owned → room → still → (fn = 1 ∨ fn = 4 ∨ fn = 5) → (s.tile core e.tile).reg = true → (s.tile core e.tile).st = .empty →
        exec i s = .next (trapsBefore s g p .tileempty 0 s)))

/-- R36, R139, R144, R146, R148, R333: how engine operations move and end. A sector of a copy or gather goes between the tile and memory at
ADDR + PITCH·row + 32·sector, the row's index of a gather or scatter read from the index tile once; a scatter's rows go in order; a collective
combines each element into memory by its operation, and adds 1 to its counter last. A sector that may not be accessed ends DENIED and leaves an
inbound tile zero there. With the last sector the tile is ready or empty; the completion record, its sequence number and status, is written in
order and a bad status sets the class's ERR bit. A multicast's delivery holds a tile that accepts it, and is dropped at any other; what a peer
device answers is a free value (log 23). -/
def Obligations.EngineOperationsEnd : Prop :=
  ∀ (s : State) (o : Nat) (op : Op) (e : EngOp), s.ops.find? o = some op → op.kind = .eng e →
    let tile := s.tile op.core e.tile
    let indexed : Bool := e.fn = 2 || e.fn = 3
    let inbound : Bool := e.fn = 0 || e.fn = 2
    let per : Nat := if e.fn = 4 then (if e.opc = 1 ∨ e.opc = 2 then 16 else 8) else 1
    let w := 32 / per
    let row (i : Nat) : Nat := i / (e.secs * per)
    let col (i : Nat) : Nat := i % (e.secs * per)
    let idx (i : Nat) : Nat :=
      if indexed then (e.idx.find? (row i)).getD (padRd s op.core (4096 * (s.tile op.core e.itile).base + e.ioff + 4 * row i) 4) else row i
    let at_ (i : Nat) : Nat := (((e.addr : Int) + (w * col i : Nat) + e.pitch * (idx i : Nat)) % 2 ^ 64).toNat
    let here (i : Nat) : Nat := 4096 * tile.base + e.off + 32 * e.secs * row i + w * col i
    let left (i st rm : Nat) : Option Op := some { op with kind := .eng { e with
      todo := e.todo.filter (· ≠ i), status := max e.status st, rmask := rm, idx := if indexed then e.idx.put (row i) (idx i) else e.idx } }
    let need : Need := if inbound then Need.read else if e.fn = 4 then Need.rw else Need.write
    let sum (f : Fmt) (x y : Nat) : Nat := (((f.val x).add 0 (f.val y)).1.into f 0 0 false false).1
    let combined (x y : Nat) : Nat :=
      match e.opc with
      | 0 => sum F32 x y
      | 1 => sum BF16 x y
      | 2 => sum F16 x y
      | 3 => (x + y) % 2 ^ 32
      | 4 => if toI 32 x < toI 32 y then y else x
      | _ => (F32.minMax true true x y).1
    let told (u : State) (pa n : Nat) : Prop := ∀ x ∈ linesOf pa n, ∀ z, u.memErrs.find? x = some z → op.ctx ∈ z.2
    (op.lost = 0 → AfterOthers s o op → e.denied = [] → 0 < e.secs → e.fn ≤ 4 →
      (∀ i u, i ∈ e.todo → ¬(e.cnt ≠ 0 ∧ i = engineItems e) → (e.fn = 3 → ∀ x ∈ e.todo, row i ≤ row x) →
        (∀ pa, bgXlate s op.core op.ctx (at_ i) need inbound = (u, .key pa) → linkWaits u pa = false →
          ∃ t, exec (.homeAccess o [i] false) s = .next t ∧
            (inbound → told u pa 32 → t = { u with cores := t.cores, ops := t.ops } ∧
              (∀ j < 32, padByte t op.core (here i + j) = u.byte (pa + j)) ∧
              (∀ b, b < here i ∨ here i + 32 ≤ b → padByte t op.core b = padByte s op.core b) ∧ ∃ rm, t.ops.find? o = left i 0 rm) ∧
            (e.fn = 1 ∨ e.fn = 3 → t.mem = putBytes u.mem pa (padBytes s op.core (here i) 32) ∧ t.cores = u.cores ∧
              t.ops.find? o = left i 0 e.rmask) ∧
            (e.fn = 4 → told u pa w → t.mem = putBytes u.mem pa (bytesLE w (combined (u.rd pa w) (padRd s op.core (here i) w))) ∧
              t.cores = u.cores ∧ t.ops.find? o = left i 0 e.rmask)) ∧
        (bgXlate s op.core op.ctx (at_ i) need inbound = (u, .perm) →
          ∃ t, exec (.homeAccess o [i] false) s = .next t ∧ t.mem = u.mem ∧ t.ops.find? o = left i 1 e.rmask ∧
            (inbound → (∀ j < 32, padByte t op.core (here i + j) = 0) ∧
              ∀ b, b < here i ∨ here i + 32 ≤ b → padByte t op.core b = padByte s op.core b) ∧ (¬inbound → t.cores = u.cores))) ∧
      (∀ pa u, e.fn = 4 → e.cnt ≠ 0 → e.todo = [engineItems e] → bgXlate s op.core op.ctx e.cnt Need.rw false = (u, .key pa) →
        linkWaits u pa = false → told u pa 8 → ∃ t, exec (.homeAccess o [engineItems e] false) s = .next t ∧
          t.mem = putBytes u.mem pa (bytesLE 8 (u.rd pa 8 + 1)) ∧ t.cores = u.cores ∧ t.ops.find? o = left (engineItems e) 0 e.rmask)) ∧
    (e.fn = 0 ∨ e.fn = 2 → e.todo = [] → e.moved = false → ∃ t, exec (.tileFillEnd o) s = .next t ∧ t = { s with cores := t.cores, ops := t.ops } ∧
      t.tile op.core e.tile = { tile with st := .ready, rmask := e.rmask } ∧ t.ops.find? o = some { op with kind := .eng { e with moved := true } }) ∧
    (e.fn = 1 ∨ e.fn = 3 ∨ e.fn = 4 ∨ e.fn = 5 → (∀ i ∈ e.todo, e.cnt ≠ 0 ∧ i = engineItems e) → e.moved = false →
      ∃ t, exec (.tileDrainEnd o) s = .next t ∧ t = { s with cores := t.cores, ops := t.ops } ∧
        t.tile op.core e.tile = { tile with st := if e.keep then .ready else .empty } ∧ t.ops.find? o = some { op with kind := .eng { e with moved := true } }) ∧
    (e.todo = [] → e.moved = true →
      let errs (x : Nat) : Nat := if e.status ≠ 0 then x ||| 2 ^ (if e.eng = 0 then 0 else if e.eng = 1 then 1 else 5) else x
      (e.rec_ = 0 → ∃ t, exec (.engineCompletion o) s = .next t ∧ t = { s with ops := s.ops.del o, groups := t.groups } ∧
        (t.group? op.gid).map Group.err = (s.group? op.gid).map fun g => errs g.err) ∧
      (e.rec_ ≠ 0 → e.recDrop = false → (∀ x ∈ s.ops, x.1 < o → x.2.core = op.core → x.2.ctx = op.ctx → ∀ f, x.2.kind = .eng f → f.eng ≠ e.eng) →
        (∀ y ∈ before s o op, y.2.undone = false) →
        ∀ pa u, bgXlate s op.core op.ctx e.rec_ Need.write false = (u, .key pa) →
        ∃ t, exec (.engineCompletion o) s = .next t ∧ t.mem = putBytes u.mem pa (bytesLE 8 e.seq ++ bytesLE 8 e.status) ∧
          t.ops.find? o = none ∧ (t.group? op.gid).map Group.err = (s.group? op.gid).map fun g => errs g.err)) ∧
    (∀ t x, e.fn = 5 → t ∈ e.todo → t < 64 → op.lost = 0 → AfterOthers s o op → e.targets[t]? = some x →
      (x.dev ≠ s.domain →
        (s.linkDown.contains (s.routing.getD x.dev 255) = true → exec (.mcastDelivery o t) s = .next s) ∧
        (s.linkDown.contains (s.routing.getD x.dev 255) = false → ∃ u n, exec (.mcastDelivery o t) s = .next u ∧ u.cores = s.cores ∧
          (n = e.status ∨ n = max e.status 2) ∧ u.ops.find? o = some { op with kind := .eng { e with todo := e.todo.filter (· ≠ t), status := n } })) ∧
      (x.dev = s.domain → landingOk s op.ctx e x → ∃ u, exec (.mcastDelivery o t) s = .next u ∧ u = { s with cores := u.cores, ops := u.ops } ∧
        u.tile x.core x.tile = { s.tile x.core x.tile with held := (s.tile x.core x.tile).held + 1 } ∧
        u.ops.find? o = some { op with kind := .eng { e with
          todo := e.todo.filter (· ≠ t) ++ (List.range (e.secs * e.rows)).map fun k => 64 + t * (e.secs * e.rows) + k } }) ∧
      (x.dev = s.domain → ¬landingOk s op.ctx e x → ∃ u, exec (.mcastDelivery o t) s = .next u ∧ u.cores = s.cores ∧
        u.ops.find? o = some { op with kind := .eng { e with todo := e.todo.filter (· ≠ t), status := max e.status 2 } }))

/-- R291, R303, R304: bopen reads its descriptor, takes a free directory entry of its die, the lowest (the model's choice, log 81), and opens
the bundle over the lines of the ranges; where none is free it waits. bclose moves it to preparing, its stamp to come, or abandons it: its
versions are discarded and it drains; of a bundle that has ended it gives 0 and ERR. The corners of Table BND.4 trap BUNDLE with their
reason, ALIGN or PERM: a page that is not writable or lies in a weight region among them, the first in the order of the ranges. That the
read of the descriptor waits with the wake order is the model's (log 60), and the order of the checks is (log 80). -/
def Obligations.BundlesOpenAndClose : Prop :=
  ∀ (a b : Nat) (s : State) (g : Group) (p : Path),
    let va := (rS g b).toNat
    let core := g.place.core
    let die := dieOf core
    let pages (pd : Nat) : List Nat := ((rangeLines s pd).map fun l => l / 4096 * 4096).eraseDups
    (Admitted { acc := {}, rd := sR [b], wr := sR [a] } s g p → p.aborted = false →
      (∀ pd i, ∀ pw : Nat → Nat, ¬OthersFirst s g false false [(pd, 64)] → openBundle s g = none → badVa va = false → va % 64 = 0 →
        trOne s core g.ctx va Need.read false = .key pd → rangesOk s pd →
        (∀ l ∈ rangeLines s pd, badVa l = false ∧ trOne s core g.ctx (l / 4096 * 4096) Need.write false = .key (pw (l / 4096 * 4096))) →
        i < 1024 → dirFree s die i → (∀ j < i, ¬dirFree s die j) →
        let d : Dir := { st := .open_, gen := ((((s.die die).dirs.find? i).map Dir.gen).getD 0 + 1) % 2 ^ 14, dom := s.domain, ctx := g.ctx
                         gid := s.iss.gid, ranges := (rangesUsed s pd).map fun r => (r.1 % 2 ^ 57, r.2)
                         lines := (rangeLines s pd).map fun l => pw (l / 4096 * 4096) + l % 4096, wait := [], stamp := 0, op := 0 }
        let h : Handle := { die := die, idx := i, gen := d.gen, dom := s.domain }
        exec (.bopen a b) s = .next (goesOn s g p (wrote (.s a (handleWord h))
          ((s.modDie die fun x => { x with dirs := x.dirs.put i d }).modGroup s.iss.gid fun x => { x with bundle := some h })))) ∧
      (Ordinary g →
        ((openBundle s g).isSome = true → exec (.bopen a b) s = .next (bundleTrap s g p 1)) ∧
        (openBundle s g = none → badVa va = true → exec (.bopen a b) s = .next (trapsBefore s g p .perm va s)) ∧
        (openBundle s g = none → badVa va = false → va % 64 ≠ 0 → exec (.bopen a b) s = .next (trapsBefore s g p .align va s)) ∧
        (∀ pd, ¬OthersFirst s g false false [(pd, 64)] → openBundle s g = none → badVa va = false → va % 64 = 0 →
          trOne s core g.ctx va Need.read false = .key pd → ¬rangesOk s pd → exec (.bopen a b) s = .next (bundleTrap s g p 3)) ∧
        (openBundle s g = none → badVa va = false → va % 64 = 0 → trOne s core g.ctx va Need.read false = .perm →
          exec (.bopen a b) s = .next (trapsBefore s g p .perm va s)) ∧
        (∀ pd pre x post, ¬OthersFirst s g false false [(pd, 64)] → openBundle s g = none → badVa va = false → va % 64 = 0 →
          trOne s core g.ctx va Need.read false = .key pd → rangesOk s pd →
          (rangeLines s pd = pre ++ x :: post → (∀ y ∈ pre, badVa y = false) → badVa x = true →
            exec (.bopen a b) s = .next (trapsBefore s g p .perm x s)) ∧
          ((∀ l ∈ rangeLines s pd, badVa l = false) → (∀ y ∈ pages pd, trOne s core g.ctx y Need.write false ≠ .miss) →
            pages pd = pre ++ x :: post → (∀ y ∈ pre, trOne s core g.ctx y Need.write false ≠ .perm) →
            trOne s core g.ctx x Need.write false = .perm → exec (.bopen a b) s = .next (trapsBefore s g p .perm x s)))) ∧
      (∀ pd, ¬OthersFirst s g false false [(pd, 64)] → openBundle s g = none → badVa va = false → va % 64 = 0 →
        trOne s core g.ctx va Need.read false = .key pd → rangesOk s pd →
        (∀ l ∈ rangeLines s pd, badVa l = false ∧ ∃ k, trOne s core g.ctx (l / 4096 * 4096) Need.write false = .key k) →
        (∀ i < 1024, ¬dirFree s die i) → exec (.bopen a b) s = .next (waitsOn s g p .dirFree s)) ∧
      (∀ pd, OthersFirst s g false false [(pd, 64)] → openBundle s g = none → badVa va = false → va % 64 = 0 →
        trOne s core g.ctx va Need.read false = .key pd → exec (.bopen a b) s = .next (waitsOn s g p (.order false false [(pd, 64)]) s))) ∧
    (Admitted { acc := {}, wr := sR [a] } s g p →
      (g.bundle = none → Ordinary g → ∀ k, exec (.bclose a k) s = .next (bundleTrap s g p 2)) ∧
      (∀ h k, g.bundle = some h → handleSt s h ≠ .open_ → exec (.bclose a k) s = .next (goesOn s g p
        ((wrote (.s a 0) (s.modGroup s.iss.gid fun x => { x with bundle := none })).modGroup s.iss.gid fun x => { x with err := x.err ||| 16 }))) ∧
      (∀ h, g.bundle = some h → handleSt s h = .open_ →
        exec (.bclose a 0) s = .next (goesOn s g p (((s.modGroup s.iss.gid fun x => { x with bundle := none }).modDie h.die fun x =>
          { x with dirs := x.dirs.adjust h.idx fun d => { d with st := .preparing, op := s.nextId } }).addOp (matOp s g (.bclose h a)))) ∧
        ∃ u, exec (.bclose a 1) s = .next (goesOn s g p (wrote (.s a 0) u)) ∧ noVersionOf h u ∧ u.mem = s.mem ∧
          ((u.die h.die).dirs.find? h.idx).map Dir.st = some .drained))

/-- R297, R298, R305 to R308: bld serves each lane from the read set, entering the lines that it misses whole and in their current
versions, of which the core's L1 then holds nothing older; its corners trap PERM, ALIGN and BUNDLE 7 and 6. bchk reports the fractured and
lost entries, or clears the set; bfetch asks for the fractured ones at their targets and counts those that become LOST; bstat reads states,
stamps and reasons. What the spec leaves open is the model's choice: a bld, bchk, bfetch or bstat of an entry waits for the group's bfetch
in flight (log 102), and bld with the wake order (log 60); reason 7 stands before reason 6 (log 107). -/
def Obligations.ReadSets : Prop :=
  ∀ (a b k : Nat) (s : State) (g : Group) (p : Path),
    let core := g.place.core
    let rs := readSet s g
    let busy : Prop := ∃ o ∈ s.ops, o.2.gid = s.iss.gid ∧ ∃ r t l, o.2.kind = .bfetch r t l
    let bldAdm : Adm := { acc := { pred := true }, rd := vR [a] ++ sR [b], wr := vR [a] }
    let statAdm : Adm := { acc := {}, rd := if k = 3 then [] else sR [b], wr := sR [a] }
    (busy → (Admitted bldAdm s g p → exec (.bld a b) s = .next (waitsOn s g p .fetch s)) ∧
      (Admitted { acc := {}, wr := sR [a] } s g p → exec (.bchk a k) s = .next (waitsOn s g p .fetch s)) ∧
      (Admitted { acc := {}, rd := sR [b], wr := sR [a] } s g p → exec (.bfetch a b) s = .next (waitsOn s g p .fetch s)) ∧
      (k = 2 → Admitted statAdm s g p → exec (.bstat a b k) s = .next (waitsOn s g p .fetch s))) ∧
    (¬busy → ∀ pa : Nat → Nat, Admitted bldAdm s g p →
      let va (l : Nat) : Nat := (rS g b + rV g a l).toNat
      let ls := actLanes s g p
      let foot := ls.map fun l => (lineOf (pa (va l)), 128)
      let missing := ((ls.map fun l => lineOf (pa (va l))).filter fun x => g.readset.all fun e => e.line ≠ x).eraseDups
      let mine (l : Nat) : Prop := inBundle s g (rS g b + rV g a l) = true ∨
        (ownPrep s s.iss.gid (lineOf (pa (va l))) = true ∧ ∃ c h, (s.line (lineOf (pa (va l)))).prep = some (c, h) ∧ handleSt s h = .preparing)
      (∀ pre l post, ls = pre ++ l :: post → (∀ x ∈ pre, badVa (va x) = false ∧ va x % 8 = 0) → Ordinary g →
        (badVa (va l) = true → exec (.bld a b) s = .next (trapsBefore s g p .perm (va l) s)) ∧
        (badVa (va l) = false → va l % 8 ≠ 0 → exec (.bld a b) s = .next (trapsBefore s g p .align (va l) s))) ∧
      ((∀ l ∈ ls, badVa (va l) = false ∧ va l % 8 = 0 ∧ trOne s core g.ctx (va l) Need.read false = .key (pa (va l))) → p.aborted = false →
        (OthersFirst s g false false foot → exec (.bld a b) s = .next (waitsOn s g p (.order false false foot) s)) ∧
        (¬OthersFirst s g false false foot →
          ((∃ l ∈ ls, mine l) → Ordinary g → exec (.bld a b) s = .next (bundleTrap s g p 7)) ∧
          ((∀ l ∈ ls, ¬mine l) → 16 < g.readset.length + missing.length → Ordinary g → exec (.bld a b) s = .next (bundleTrap s g p 6)) ∧
          (ls = [] → g.readset.length ≤ 16 → exec (.bld a b) s = .next (goesOn s g p s)) ∧
          (ls ≠ [] → (∀ l ∈ ls, ¬mine l ∧ ownPrep s s.iss.gid (lineOf (pa (va l))) = false) → g.readset.length + missing.length ≤ 16 →
            NoneToTell s g.ctx missing →
            ∃ (u : State) (new : List RSEntry) (op : Op) (m : MemOp), exec (.bld a b) s = .next (goesOn s g p ((u.modGroup s.iss.gid fun x => { x with readset := g.readset ++ new }).addOp op)) ∧
              u = { s with cores := u.cores } ∧
              (∀ x ∈ (u.core core).l1, x.ctx = g.ctx → x.line ∈ missing → x.cells = lineCells s x.line) ∧
              op.gid = s.iss.gid ∧ op.slot = s.iss.slot ∧ op.kind = .mem m ∧ m.k = .load ∧ m.dst = .vec a ∧
              m.lanes.map LaneAcc.lane = ls ∧ new.map RSEntry.line = missing ∧
              (∀ e ∈ new, e.stamp = (s.line e.line).stamp ∧ e.ref = (s.line e.line).ref ∧ e.lost = false ∧
                ∀ i < 128, e.cells.get 0 (e.line + i) = s.byte (e.line + i)) ∧
              ∀ x ∈ m.lanes, x.done = true ∧ ∃ e ∈ g.readset ++ new, e.line = lineOf (pa (va x.lane)) ∧
                x.res = ofBytesLE ((List.range 8).map fun i => e.cells.get 0 (pa (va x.lane) + i)))))) ∧
    (¬busy → Admitted { acc := {}, wr := sR [a] } s g p →
      exec (.bchk a 1) s = .next (goesOn s g p (wrote (.s a 0) (s.modGroup s.iss.gid fun x => { x with readset := [] }))) ∧
      (g.readset.length ≤ 16 → ∃ w : W64,
        let u := wrote (.s a w) (s.modGroup s.iss.gid fun x => { x with readset := rs })
        exec (.bchk a 0) s = .next (goesOn s g p (if w.toNat % 2 ^ 16 = 0 ∧ w.getLsbD 63 = false then l1Drop u core g.ctx else u)) ∧
          (∀ j e, rs[j]? = some e → (w.getLsbD j = true ↔ isFractured s rs e)) ∧ (∀ j < 16, w.getLsbD (16 + j) = decide (j < rs.length)) ∧
          (∀ j < 16, rs.length ≤ j → w.getLsbD j = false) ∧ (∀ j, 32 ≤ j → j < 63 → w.getLsbD j = false) ∧
          (w.getLsbD 63 = true ↔ ∃ e ∈ rs, e.lost = true))) ∧
    (¬busy → Admitted { acc := {}, rd := sR [b], wr := sR [a] } s g p →
      let u := s.modGroup s.iss.gid fun x => { x with readset := rs }
      let asked (j : Nat) (e : RSEntry) : Prop := rs[j]? = some e ∧ (rS g b).toNat / 2 ^ j % 2 = 1 ∧ isFractured s rs e
      ∃ gone, (∀ j, gone / 2 ^ j % 2 = 1 ↔ ∃ e x, rs[j]? = some e ∧ g.readset[j]? = some x ∧ e.lost = true ∧ x.lost = false) ∧
        ((∀ j e, ¬asked j e) → exec (.bfetch a b) s = .next (goesOn s g p (wrote (.s a (BitVec.ofNat 64 gone)) u))) ∧
        ((∃ j e, asked j e) → ∃ want, exec (.bfetch a b) s = .next (goesOn s g p (u.addOp (matOp s g (.bfetch a want gone)))) ∧
          ∀ j t, (j, t) ∈ want ↔ ∃ e, asked j e ∧ t = target s rs e)) ∧
    (Admitted statAdm s g p →
      let x := (rS g b).toNat
      let die := x / 2 ^ 10 % 4
      let entry := (s.die die).dirs.find? (x % 2 ^ 10)
      let mine (d : Dir) : Prop := handleWord { die := die, idx := x % 2 ^ 10, gen := d.gen, dom := d.dom } = rS g b ∧ d.ctx = g.ctx
      let gives (v : Nat) : Prop := exec (.bstat a b k) s = .next (goesOn s g p (wrote (.s a (BitVec.ofNat 64 v)) s))
      (k = 0 → (∀ d, entry = some d → mine d → gives (dirView s die (x % 2 ^ 10) d).code) ∧ ((∀ d, entry = some d → ¬mine d) → gives 4)) ∧
      (k = 1 → ∀ d, entry = some d → mine d → gives (if dirView s die (x % 2 ^ 10) d = .drained then 0 else d.stamp)) ∧
      (k = 2 → ¬busy → gives (((g.readset[x % 16]?).map RSEntry.stamp).getD 0)) ∧ (k = 3 → gives g.bReason))

/-- R290, R292, R294, R299, R307, R309: the commit of a preparing bundle whose stores have landed and whose lines carry its versions
gives it one stamp, which the bclose writes; each install makes the version current whole and keeps the one before; a fetch installs a committed
version that its target has reached, and brings the retained version of lowest stamp that reaches the target, or marks the entry LOST, as it does
where the translation of the line fails or has changed; a soft error abandons the bundle; once it has committed, the version is lost and its line
no longer waits for it. What the spec leaves open is the model's choice: the lines are those of the pages as mapped at the commit, and a fetch
answers with a retained version (log 102); a claim of another bundle fails the seal (log 53); a line of plain stores has stamp 0 (log 83); a
lost version no longer holds the bundle (log 84). -/
def Obligations.BundleEvents : Prop :=
  ∀ (die i : Nat) (s : State),
    (∀ d op reg, (s.die die).dirs.find? i = some d →
      let h : Handle := { die := die, idx := i, gen := d.gen, dom := d.dom }
      (d.st = .preparing → s.ops.find? d.op = some op → op.kind = .bclose h reg → landed s d.op op h = true → enRoute s d.op = false →
        (s.ctx? op.ctx).map Ctx.st = some .resident →
        let lines := linesNow s op.core d h
        ((∀ l ∈ lines, (s.line l).prep.map Prod.snd = some h ∧ conflict s h l = false) →
          let clk := lines.foldl (fun m l => max m ((s.line l).stamp / 2 ^ 12 + 1)) (stampClk s)
          let n := (s.die die).commits.get 0 clk
          let st := clk * 2 ^ 12 + (4 * s.domain + die) % 256 * 2 ^ 4 + n
          n < 16 → ∃ u, exec (.bundleCommit die i) s = .next u ∧ u.mem = s.mem ∧ u.ops.find? d.op = none ∧
            (u.die die).dirs.find? i = some { d with st := .committed, stamp := st, lines := lines, wait := lines } ∧
            ∀ g, s.group? op.gid = some g → ∃ g', u.group? op.gid = some g' ∧ (∀ m, rS g' m = setS g reg (BitVec.ofNat 64 st) m) ∧ g'.v = g.v) ∧
        (∀ l t, lines = l :: t → conflict s h l = true → ∃ u, exec (.bundleCommit die i) s = .next u ∧ noVersionOf h u ∧
          ((u.die die).dirs.find? i).map Dir.st = some .drained ∧
          ∀ g, s.group? op.gid = some g → ∃ g', u.group? op.gid = some g' ∧ (∀ m, rS g' m = setS g reg 0 m) ∧ g'.err = g.err ||| 16)) ∧
      (∀ line cells, d.st = .committed → (s.line line).prep = some (cells, h) → linkWaits s line = false →
        jobOnWay s (.install die i line) = false →
        ∃ u, exec (.bundleInstall die i line) s = .next u ∧ (∀ j < 128, u.byte (line + j) = cells.get 0 (line + j)) ∧
          (∀ b, b < line ∨ line + 128 ≤ b → u.byte b = s.byte b) ∧
          u.line line = { stamp := d.stamp, ref := some h, prev := some (lineCells s line, (s.line line).stamp, (s.line line).ref), vlost := none, prep := none } ∧
          (∀ l, l ≠ line → u.line l = s.line l) ∧ (u.die die).dirs.find? i = some { d with wait := d.wait.filter (· ≠ line) }) ∧
      (d.st = .open_ → (∃ l ∈ s.lines, l.2.prep.map Prod.snd = some h) →
        ∃ u, exec (.bundleSoftError die i) s = .next u ∧ noVersionOf h u ∧ ((u.die die).dirs.find? i).map Dir.st = some .drained) ∧
      (∀ line cells, d.st = .committed → (s.line line).prep = some (cells, h) → (∀ l ∈ s.lines, l.2.prep.map Prod.snd = some h → l.1 = line) →
        ∃ u, exec (.bundleSoftError die i) s = .next u ∧ noVersionOf h u ∧ (u.die die).dirs.find? i = some { d with wait := d.wait.filter (· ≠ line) } ∧
          (u.line line).vlost = some d.stamp)) ∧
    (∀ line, exec (.installResend die i line) s = .next s) ∧
    (∀ o op reg todo l e t g x u0 tr u1, s.ops.find? o = some op → op.kind = .bfetch reg todo l → todo.find? (fun q => q.1 = e) = some (e, t) →
      s.group? op.gid = some g → g.readset[e]? = some x → op.lost = 0 → linkWaits s x.line = false → AfterOthers s o op →
      bgXlate s op.core op.ctx x.va Need.read false = (u0, tr) → (s.ctx? op.ctx).map Ctx.st = some .resident →
      let reached : Prop := ∃ c h d, (u0.line x.line).prep = some (c, h) ∧ (u0.die h.die).dirs.find? h.idx = some d ∧ d.gen = h.gen ∧
        d.st = .committed ∧ d.stamp ≤ t
      (reached → u1 = installLine u0 x.line) → (¬reached → u1 = u0) →
      let v := u1.line x.line
      let cands := (v.prev.toList ++ [(lineCells u1 x.line, v.stamp, v.ref)]).filter fun q => t ≤ q.2.1
      let kept : List (SMap Byte × Nat × Option Handle) := if v.vlost.any fun n => t ≤ n ∧ ∀ q ∈ cands, n < q.2.1 then [] else cands
      let rest := todo.filter fun q => q.1 ≠ e
      let ended (u : State) (g' : Group) (lost : Nat) : Prop := exec (.versionFetch o e) s = .next u ∧ u.group? op.gid = some g' ∧
        (rest = [] → ∀ m, rS g' m = setS g reg (BitVec.ofNat 64 (l ||| lost)) m) ∧ (rest ≠ [] → ∀ m, rS g' m = rS g m)
      ((tr = .perm ∨ (∃ k, tr = .key k ∧ (k ≠ x.line ∨ kept = []))) →
        ∃ u g', ended u g' (2 ^ e) ∧ g'.readset = g.readset.set e { x with lost := true }) ∧
      (tr = .key x.line → NoneToTell u1 op.ctx [x.line] → ∀ q ∈ kept, (∀ r ∈ kept, q.2.1 ≤ r.2.1 ∧ (r.2.1 = q.2.1 → r = q)) →
        ∃ u g', ended u g' 0 ∧ u.mem = u1.mem ∧ g'.readset = g.readset.set e { x with cells := q.1, stamp := q.2.1, ref := q.2.2 }))

/-- R240, R242, R249, R252: fork pushes a latent frame that captures the target, the active mask, %fpmode and the arguments, on a
reserved record whose address it returns as the token, once the path's earlier accesses are performed (waiting with the wake order until then is
the model's, log 60); with no acting lane it only goes on; a bad target traps; with no record reserved it waits for a claim, or traps FRAMEMEM
where the area has none. -/
def Obligations.ForkPushesFrame : Prop :=
  ∀ (t a b n : Nat) (s : State) (g : Group) (p : Path),
    Admitted { acc := { pred := true }, rd := sR ((List.range (n + 1)).map (a + ·)) ++ vR ((List.range t).map (b + ·)), wr := sR [a], who := .notHandler } s g p →
    let tgt := rS g a
    let okTarget : Prop := badVa tgt.toNat = false ∧ tgt.toNat % 4 = 0
    (act s g p = 0 → exec (.fork t a b n) s = .next (goesOn s g p s)) ∧
    (∀ r rest, act s g p ≠ 0 → okTarget → p.reserve = r :: rest → (p.frames.filter Frame.onchip).length < 4 →
      (OthersFirst s g true true [] → exec (.fork t a b n) s = .next (waitsOn s g p (.order true true []) s)) ∧
      (¬OthersFirst s g true true [] → ∃ f, exec (.fork t a b n) s = .next (passes s g p (fun q => { nextPath s q with reserve := rest, frames := f :: q.frames }) (wrote (.s a (BitVec.ofNat 64 r)) s)) ∧
        f.addr = r ∧ f.st = .latent ∧ f.target = tgt ∧ f.mask = act s g p ∧ f.fpmode = g.fpmode ∧ f.nv = t ∧ f.ns = n ∧ f.sa = a ∧ f.vb = b ∧
        f.onchip = true ∧ (∀ i < n, f.sargs.getD i 0 = rS g (a + 1 + i)) ∧ ∀ i < t, ∀ l < 32, f.vargs.get 0 (32 * i + l) = rV g (b + i) l)) ∧
    (∀ u k, act s g p ≠ 0 → okTarget → p.reserve = [] → p.aborted = false → 0 < g.nrec →
      bgXlate s g.place.core g.ctx (recAddr g (p.claimed % g.nrec)) Need.rw false = (u, .key k) → u.rd k 1 = 0 →
      exec (.fork t a b n) s = .next (waitsOn s g p .claim u)) ∧
    (Ordinary g → act s g p ≠ 0 →
      (badVa tgt.toNat = true → exec (.fork t a b n) s = .next (trapsBefore s g p .perm tgt.toNat s)) ∧
      (badVa tgt.toNat = false → tgt.toNat % 4 ≠ 0 → exec (.fork t a b n) s = .next (trapsBefore s g p .align tgt.toNat s)) ∧
      (okTarget → p.reserve = [] → g.nrec = 0 → exec (.fork t a b n) s = .next (trapsBefore s g p .framemem 0 s)))

/-- R243, R253: join of a latent frame runs it inline: the arguments are in their registers, the mask is the frame's, and the path
goes to the target; of a done frame it takes the results from the record, which is free; of one between, it waits. Another token, an
inlined frame on top, or a mask beyond the active one traps FRAMEJOIN. -/
def Obligations.JoinResults : Prop :=
  ∀ (a : Nat) (s : State) (g : Group) (p : Path), Admitted { acc := {}, rd := sR [a], wr := topRegs s, who := .notHandler } s g p →
    (∀ f fs, p.frames = f :: fs → (rS g a).toNat = f.addr →
      (f.st = .latent → f.onchip = true → f.mask &&& ~~~p.mask = 0 →
        ∃ t h, exec (.join a) s = .next t ∧ OnlyGroup s t h ∧
          h = { g with s := h.s, v := h.v, paths := h.paths, hbCount := h.hbCount, tickDue := h.tickDue } ∧
          (∀ n < 128, rS h n = argScalars g f.sa f.ns (fun i => f.sargs.getD i 0) n) ∧
          (∀ n < 128, ∀ l < 32, rV h n l = argVectors g f.vb f.nv f.mask (fun i l => f.vargs.get 0 (32 * i + l)) n l) ∧
          h.paths.find? s.iss.slot = some { p.fresh with
            pc := f.target, rep := 0, mask := f.mask, frames := { f with st := .inlined, ret := s.iss.at_ + 4, smask := p.mask } :: fs }) ∧
      (f.st = .promoting ∨ f.st = .promoted ∨ f.st = .running → f.onchip = true → f.mask &&& ~~~p.mask = 0 →
        exec (.join a) s = .next (waitsOn s g p (.join f.addr) s)) ∧
      (∀ k, f.st = .done → f.onchip = true → f.mask &&& ~~~p.mask = 0 → recordAt s g f.addr Need.read k → recordAt s g f.addr Need.write k →
        let hdr := recWord s k 0
        ∃ t h, exec (.join a) s = .next t ∧ t.group? s.iss.gid = some h ∧ t.mem = putBytes s.mem k [0] ∧
          h.fpflags = g.fpflags ||| BitVec.ofNat 64 (recWord s k 4 % 64) ∧
          (∀ n < 128, rS h n = argScalars g (hdr / 2 ^ 25 % 128) (min 8 (hdr / 2 ^ 11 % 16)) (fun i => BitVec.ofNat 64 (recWord s k (8 + i))) n) ∧
          (∀ n < 128, ∀ l < 32, rV h n l = argVectors g (hdr / 2 ^ 18 % 128) (min 4 (hdr / 2 ^ 15 % 8)) (BitVec.ofNat 32 (recWord s k 2))
            (fun i l => BitVec.ofNat 64 (recWord s k (16 + 32 * i + l))) n l) ∧
          (h.paths.find? s.iss.slot).map (fun q => (q.pc, q.mask, q.frames)) = some (s.iss.next, p.mask, fs)) ∧
      (Ordinary g → f.st ≠ .inlined → f.onchip = true → f.mask &&& ~~~p.mask ≠ 0 → exec (.join a) s = .next (trapsBefore s g p .framejoin 0 s))) ∧
    (Ordinary g → (∀ f fs, p.frames = f :: fs → f.st = .inlined ∨ (rS g a).toNat ≠ f.addr) → exec (.join a) s = .next (trapsBefore s g p .framejoin 0 s))

/-- R254 to R256: fend of an inlined frame frees its record and goes back with the mask before the join; of a promoted frame it
writes the results and FPFLAGS to the record, marks it done and retires the group; else it traps FRAMEJOIN. hold and release set and
clear the group's flag. frstat reads frames, stacks and the count, or sets the mode-1 count without counting itself. -/
def Obligations.FrameEndsAndStatus : Prop :=
  ∀ (a b : Nat) (s : State) (g : Group) (p : Path),
    (Admitted { acc := {}, rd := spawnRegs s, who := .notHandler } s g p →
      (∀ f fs k, p.frames = f :: fs → f.st = .inlined → f.onchip = true → recordAt s g f.addr Need.write k →
        exec .fend s = .next (passes s g p (fun q => { q.fresh with pc := f.ret, rep := 0, mask := f.smask, frames := fs })
          (homeWrite (bgXlate s g.place.core g.ctx f.addr Need.write false).1 (some g.place.core) k [0]))) ∧
      (∀ f k me, p.frames = [] → g.kind = .spawned f → g.converged = true → g.paths = [(s.iss.slot, p)] → ¬OthersFirst s g true true [] →
        (landGroup s s.iss.gid).group? s.iss.gid = some me → recordAt s g f.addr Need.write k →
        p.reserve = [] → g.bundle = none → s.teams.find? g.team = none → gangLists (s.quad g.place.quadIx).gang g.place = false → f.nv ≤ 4 → f.ns ≤ 8 →
        ∃ t, exec .fend s = .next t ∧ t.group? s.iss.gid = none ∧ t.rd k 1 = 5 ∧ recWord t k 4 = me.fpflags.toNat ∧
          (∀ i < f.ns, recWord t k (8 + i) = (rS me (f.sa + 1 + i)).toNat) ∧
          (∀ i < f.nv, ∀ l < 32, f.mask.getLsbD l = true → recWord t k (16 + 32 * i + l) = (rV me (f.vb + i) l).toNat) ∧
          (∀ y, y < k ∨ k + 1152 ≤ y → t.byte y = s.byte y) ∧
          ∀ j h q, j ≠ s.iss.gid → f.pgid = j → s.group? j = some h → h.paths.find? f.pslot = some q →
            (t.path? j f.pslot).map Path.frames = some (framesTo q.frames f.addr .done)) ∧
      (Ordinary g → ((∃ f fs, p.frames = f :: fs ∧ f.st ≠ .inlined) ∨ (p.frames = [] ∧ (∀ f, g.kind = .spawned f → g.converged = false))) →
        exec .fend s = .next (trapsBefore s g p .framejoin 0 s))) ∧
    (Admitted { acc := {}, who := .notHandler } s g p →
      exec .hold s = .next (goesOn s g p (s.modGroup s.iss.gid fun h => { h with hold := true })) ∧
      exec .release s = .next (goesOn s g p (s.modGroup s.iss.gid fun h => { h with hold := false }))) ∧
    (Admitted { acc := {}, rd := sR [b], wr := sR [a] } s g p →
      let x := rS g b
      let o := (x - g.frbase).toNat
      let gives (v : Nat) : Prop := exec (.frstat a b 0) s = .next (goesOn s g p (wrote (.s a (BitVec.ofNat 64 v)) { s with fresh := s.fresh + 1 }))
      (o % 1152 ≠ 0 ∨ g.nrec ≤ o / 1152 → gives 255) ∧
      (∀ f ∈ familyFrames s g, o % 1152 = 0 → o / 1152 < g.nrec → f.addr = x.toNat →
        (∀ y ∈ familyFrames s g, y.addr = x.toNat → y.st = f.st ∧ y.onchip = f.onchip) → gives (frameCode f.st + if f.onchip then 256 else 0)) ∧
      (∀ u k, o % 1152 = 0 → o / 1152 < g.nrec → (∀ y ∈ familyFrames s g, y.addr ≠ x.toNat) →
        bgXlate s g.place.core g.ctx x.toNat Need.read false = (u, .key k) → gives (u.rd k 1))) ∧
    (Admitted { acc := {}, wr := sR [a] } s g p →
      exec (.frstat a b 1) s = .next (goesOn s g p (wrote (.s a (BitVec.ofNat 64 ((p.frames.filter fun f => f.st = .latent).length +
        p.frames.length * 2 ^ 16 + (p.frames.filter Frame.onchip).length * 2 ^ 32 + (if g.hold then 2 ^ 40 else 0) + (if p.promo then 2 ^ 41 else 0)))) s)) ∧
      exec (.frstat a b 2) s = .next (goesOn s g p (wrote (.s a (BitVec.ofNat 64
        (if (s.hb g.place.core g.ctx).mode = 1 then g.hbCount else (s.hb g.place.core g.ctx).count))) s))) ∧
    (Admitted { acc := {}, rd := sR [b], wr := sR [a], count := false } s g p →
      let v := (rS g b).toNat % 2 ^ 24
      let h := s.hb g.place.core g.ctx
      (h.mode = 1 → v < h.period → exec (.frstat a b 3) s = .next (s.modGroup s.iss.gid fun x =>
        { x with hbCount := v, paths := x.paths.adjust s.iss.slot (nextPath s) })) ∧
      (Ordinary g → h.mode ≠ 1 ∨ h.period ≤ v → exec (.frstat a b 3) s = .next (trapped s g (trapBefore s .illop 0) s)))

/-- R240, R242, R244 to R246: the frame events. A tick gives each path with a latent frame a promotion; at its promotion point the
oldest latent frame is promoting; then its whole record is written and a spawn request stands at the tail of the core's queue; one
that has stood two periods moves to the next core of the cohort. A path claims free records, and its oldest on-chip frame leaves
the chip, written to its record unless it was promoted. -/
def Obligations.HeartbeatAndFrameEvents : Prop :=
  ∀ (s : State),
    let struck (q q' : Path) : Prop := q' = if q.frames.any (fun f => f.st = .latent) then { q with promo := true } else q
    (∀ core c, (s.hb core c).due = true → ∃ t, exec (.heartbeatTick core c) s = .next t ∧ t = { s with groups := t.groups, cores := t.cores } ∧
      t.hb core c = { s.hb core c with due := false } ∧ ∀ j h, s.group? j = some h →
        if h.resident ∧ h.place.core = core ∧ h.ctx = c then ∃ h', t.group? j = some h' ∧ h' = { h with paths := h'.paths } ∧
          ∀ k q, h.paths.find? k = some q → ∃ q', h'.paths.find? k = some q' ∧ struck q q'
        else t.group? j = some h) ∧
    (∀ j h, s.group? j = some h → h.tickDue = true → ∃ t h', exec (.heartbeatTickMode1 j) s = .next t ∧ t.group? j = some h' ∧
      h' = { h with tickDue := false, paths := h'.paths } ∧ ∀ k q, h.paths.find? k = some q → ∃ q', h'.paths.find? k = some q' ∧ struck q q') ∧
    (∀ j slot h q f, s.group? j = some h → h.paths.find? slot = some q → q.promo = true → h.resident = true → h.hold = false → q.halted = false →
      (s.ctx? h.ctx).map Ctx.st = some .resident → (∀ r, q.cond ≠ .trapped r) → (q.frames.filter fun f => f.st = .latent).getLast? = some f →
      ∃ t, exec (.promotion j slot) s = .next t ∧ t = { s with groups := t.groups } ∧
        t.path? j slot = some { q with promo := false, frames := framesTo q.frames f.addr .promoting }) ∧
    (∀ j slot h q f k, s.group? j = some h → h.paths.find? slot = some q → (q.frames.filter fun f => f.st = .promoting).getLast? = some f →
      f.onchip = true → frameFits f → recordAt s h f.addr Need.write k → (q.frames.map Frame.addr).Nodup →
      ∃ t r, exec (.promoted j slot) s = .next t ∧ recordHolds t k f .promoted (parentOf s h slot) ∧
        (t.path? j slot).map Path.frames = some (framesTo q.frames f.addr .promoted) ∧
        t.reqs.find? s.nextId = some r ∧ r.core = h.place.core ∧ r.ctx = h.ctx ∧ r.queued = true ∧ r.placed = false ∧
        (t.core h.place.core).allot.get [] h.ctx = (s.core h.place.core).allot.get [] h.ctx ++ [s.nextId] ∧
        ∃ w, r.kind = .spawn w ∧ w.addr = f.addr ∧ w.target = f.target ∧ w.mask = f.mask ∧ w.fpmode = f.fpmode ∧ w.sargs = f.sargs ∧
          w.vargs = f.vargs ∧ w.pgid = j ∧ w.pslot = slot) ∧
    (∀ r q w h co n, s.reqs.find? r = some q → q.kind = .spawn w → s.group? w.pgid = some h → q.placed = false → q.queued = true → q.gids = [] →
      q.since + 2 * (s.hb q.core q.ctx).period ≤ s.cycles →
      List.find? (fun (c : Nat × Cohort) => c.2.kernel = h.kernel && c.2.no = h.cohort) s.cohorts = some co →
      let at_ (i : Nat) : Nat := 48 * (q.core / 48) + (q.core % 48 + 1 + i) % 48
      let holds (c : Nat) : Prop := c ≠ q.core ∧ ∃ y ∈ s.groups, y.2.resident = true ∧ y.2.place.core = c ∧ (s.teams.find? y.2.team).map Team.cohort = some co.1
      n < 48 → holds (at_ n) → (∀ i < n, ¬holds (at_ i)) →
      ∃ t, exec (.spawnForward r) s = .next t ∧ t.reqs.find? r = some { q with core := at_ n, since := s.cycles, headAt := none } ∧
        (t.core (at_ n)).allot.get [] q.ctx = (s.core (at_ n)).allot.get [] q.ctx ++ [r] ∧
        (t.core q.core).allot.get [] q.ctx = ((s.core q.core).allot.get [] q.ctx).filter (· ≠ r)) ∧
    (∀ j slot start h q k, s.group? j = some h → h.paths.find? slot = some q → h.resident = true → q.reserve.length < 2 → 0 < h.nrec →
      let n := (if q.claimed = 0 then start else q.claimed - 1) % h.nrec
      badVa (recAddr h n) = false → trOne s h.place.core h.ctx (recAddr h n) Need.rw false = .key k → s.rd k 1 = 0 →
      ∃ t q', exec (.recordClaim j slot start) s = .next t ∧ t.mem = putBytes s.mem k [7] ∧ t.path? j slot = some q' ∧
        q'.reserve = q.reserve ++ [(h.frbase.toNat + 1152 * n) % 2 ^ 64]) ∧
    (∀ j slot h q f k, s.group? j = some h → h.paths.find? slot = some q → 3 ≤ (q.frames.filter Frame.onchip).length →
      (q.frames.filter Frame.onchip).getLast? = some f →
      let off := q.frames.map fun x => if x.addr = f.addr then { x with onchip := false, failed := false } else x
      let whole : Prop := f.st = .promoted ∨ f.st = .running ∨ f.st = .done
      (whole → ∃ t, exec (.frameSpill j slot) s = .next t ∧ t = { s with groups := t.groups } ∧ (t.path? j slot).map Path.frames = some off) ∧
      (¬whole → frameFits f → recordAt s h f.addr Need.write k →
        ∃ t, exec (.frameSpill j slot) s = .next t ∧ recordHolds t k f f.st (parentOf s h slot) ∧ (t.path? j slot).map Path.frames = some off))

/-- R257 to R259, R262, R263, Table BAR.2, Table BAR.3: bar, bara and cbar arrive once per phase; the arrival that brings the count to
the members still live completes the phase, which rises by 1, and every path waiting for it goes on; before that, bar and cbar
wait and bara goes on with the phase in S(a). barw waits until the phase has passed its value. A second arrival waits, and one whose
earlier accesses are not performed, with the wake order (the model's, log 60); a group with number 63, as a handler has, and a path in an allon
region trap ILLOP. -/
def Obligations.BarrierResults : Prop :=
  ∀ (a k : Nat) (s : State) (g : Group) (p : Path),
    (Ordinary g → p.saved.isSome = true ∨ g.grp = 63 →
      (Admitted { acc := {} } s g p → exec (.bar k) s = .next (trapsBefore s g p .illop 0 s) ∧ exec (.cbar k) s = .next (trapsBefore s g p .illop 0 s)) ∧
      (Admitted { acc := {}, wr := sR [a] } s g p → exec (.bara a k) s = .next (trapsBefore s g p .illop 0 s)) ∧
      (Admitted { acc := {}, rd := sR [a] } s g p → exec (.barw a k) s = .next (trapsBefore s g p .illop 0 s))) ∧
    ∀ tm, s.teams.find? g.team = some tm → (s.groups.map Prod.fst).Nodup → (s.teams.map Prod.fst).Nodup →
    let b := tm.bars.get Bar.reset k
    let expect := tm.total - tm.retired
    let others (coh : Bool) (ph : Nat) (l : List Nat) : Prop := ∀ j h, (j, h) ∈ s.groups → h.team = g.team → j ≠ s.iss.gid → j ∈ l ∨ ¬hasArrived h coh k ph
    let sole : Prop := g.paths = [(s.iss.slot, p)] ∧ p.saved = none ∧ g.grp ≠ 63 ∧ ¬OthersFirst s g true true []
    let next := s.iss.next
    (Admitted { acc := {} } s g p → sole → (false, k, b.phase) ∉ p.arrivals → s.iss.gid ∉ b.counted → others false b.phase b.counted →
      (b.counted.length + 1 < expect → ∃ u tm', exec (.bar k) s = .next u ∧ u.mem = s.mem ∧ waitsAt u s.iss.gid s.iss.slot (.bar false k b.phase) next ∧
        u.teams.find? g.team = some tm' ∧ tm'.bars.get Bar.reset k = { b with counted := b.counted ++ [s.iss.gid] }) ∧
      (1 ≤ expect → expect ≤ b.counted.length + 1 → ∃ u tm', exec (.bar k) s = .next u ∧ u.mem = s.mem ∧ readyAt u s.iss.gid s.iss.slot next ∧
        u.teams.find? g.team = some tm' ∧ tm'.bars.get Bar.reset k = { phase := (b.phase + 1) % 2 ^ 32, counted := [] } ∧
        ∀ j h l q, s.group? j = some h → h.team = g.team → j ≠ s.iss.gid → h.paths.find? l = some q → q.cond = .waiting (.bar false k b.phase) →
          readyAt u j l q.after_)) ∧
    (Admitted { acc := {}, wr := sR [a] } s g p → sole → (false, k, b.phase) ∉ p.arrivals → s.iss.gid ∉ b.counted → others false b.phase b.counted →
      p.cond = .ready → 1 ≤ expect → ∃ u h tm', exec (.bara a k) s = .next u ∧ u.mem = s.mem ∧ readyAt u s.iss.gid s.iss.slot next ∧
        u.group? s.iss.gid = some h ∧ (∀ n, rS h n = setS g a (BitVec.ofNat 64 b.phase) n) ∧
        u.teams.find? g.team = some tm' ∧
        (b.counted.length + 1 < expect → tm'.bars.get Bar.reset k = { b with counted := b.counted ++ [s.iss.gid] }) ∧
        (expect ≤ b.counted.length + 1 → tm'.bars.get Bar.reset k = { phase := (b.phase + 1) % 2 ^ 32, counted := [] } ∧
          ∀ j h l q, s.group? j = some h → h.team = g.team → j ≠ s.iss.gid → h.paths.find? l = some q → q.cond = .waiting (.bar false k b.phase) →
            readyAt u j l q.after_)) ∧
    (Admitted { acc := {}, wr := sR [a] } s g p → p.saved = none → g.grp ≠ 63 →
      ((false, k, b.phase) ∈ p.arrivals → exec (.bara a k) s = .next (waitsOn s g p (.barAgain false k b.phase) s)) ∧
      ((false, k, b.phase) ∉ p.arrivals → OthersFirst s g true true [] → exec (.bara a k) s = .next (waitsOn s g p (.order true true []) s))) ∧
    (∀ co, Admitted { acc := {} } s g p → p.saved = none → g.grp ≠ 63 → s.cohorts.find? tm.cohort = some co →
      let ph := (co.bars.get Bar.reset k).phase
      ((true, k, ph) ∈ p.arrivals → exec (.cbar k) s = .next (waitsOn s g p (.barAgain true k ph) s)) ∧
      ((true, k, ph) ∉ p.arrivals → OthersFirst s g true true [] → exec (.cbar k) s = .next (waitsOn s g p (.order true true []) s))) ∧
    (Admitted { acc := {}, rd := sR [a] } s g p → p.saved = none → g.grp ≠ 63 →
      let d := (b.phase + 2 ^ 32 - (rS g a).toNat % 2 ^ 32) % 2 ^ 32
      (d = 0 ∨ 2 ^ 31 ≤ d → exec (.barw a k) s = .next (waitsThen s g p (.barw k ((rS g a).toNat % 2 ^ 32)) next s)) ∧
      (0 < d → d < 2 ^ 31 → exec (.barw a k) s = .next (goesOn s g p (l1Drop s g.place.core g.ctx)))) ∧
    (Admitted { acc := {} } s g p → sole → ∀ co, s.cohorts.find? tm.cohort = some co →
      let c := co.bars.get Bar.reset k
      (true, k, c.phase) ∉ p.arrivals → g.team ∉ c.counted → (∀ j h, (j, h) ∈ s.groups → h.team = g.team → j = s.iss.gid) →
      (∀ x ∈ s.teams, x.2.cohort = tm.cohort → x.1 ≠ g.team → x.1 ∈ c.counted ∨ ∃ y ∈ s.groups, y.2.team = x.1 ∧ ¬hasArrived y.2 true k c.phase) →
      (c.counted.length + 1 < co.total - co.retired → ∃ u co', exec (.cbar k) s = .next u ∧ waitsAt u s.iss.gid s.iss.slot (.bar true k c.phase) next ∧
        u.cohorts.find? tm.cohort = some co' ∧ co'.bars.get Bar.reset k = { c with counted := c.counted ++ [g.team] }) ∧
      (1 ≤ co.total - co.retired → co.total - co.retired ≤ c.counted.length + 1 → ∃ u co', exec (.cbar k) s = .next u ∧ readyAt u s.iss.gid s.iss.slot next ∧
        u.cohorts.find? tm.cohort = some co' ∧ co'.bars.get Bar.reset k = { phase := (c.phase + 1) % 2 ^ 32, counted := [] })) ∧
    (Admitted { acc := {} } s g p →
      (p.saved = none → g.grp ≠ 63 → (false, k, b.phase) ∈ p.arrivals → exec (.bar k) s = .next (waitsOn s g p (.barAgain false k b.phase) s)) ∧
      (p.saved = none → g.grp ≠ 63 → (false, k, b.phase) ∉ p.arrivals → OthersFirst s g true true [] →
        exec (.bar k) s = .next (waitsOn s g p (.order true true []) s)))

/-- R147, R148, R175, R207, R223: waitc goes on, dropping the core's L1 lines, once its classes are idle, and traps ENGINE, clearing
them, where one of their ERR bits is set; seqw waits until the word in memory is at least S(b); sleep waits min(S(a), 2^24) cycles, and
0 only yields. WAKE ends a wait exactly where its condition holds: here those of sleep, waitc, seqw, barw and dturn, a pending register, an
accumulator, a queue, a tile, an engine's place, a directory entry, a bfetch, the mailbox and the order of accesses (the wake order, log 60, and
the wait of a bfetch, log 102, are the model's own). -/
def Obligations.WaitsAndWakes : Prop :=
  ∀ (a b c : Nat) (s : State) (g : Group) (p : Path),
    (Admitted { acc := {} } s g p → c < 64 →
      (classesIdle s s.iss.gid c → g.err &&& c = 0 → exec (.waitc c) s = .next (goesOn s g p (l1Drop s g.place.core g.ctx))) ∧
      (classesIdle s s.iss.gid c → g.err &&& c ≠ 0 → Ordinary g →
        exec (.waitc c) s = .next (trapsBefore s g p .engine 0 (s.modGroup s.iss.gid fun h => { h with err := g.err &&& (63 - c) }))) ∧
      (¬classesIdle s s.iss.gid c → ∃ ids, ids ≠ [] ∧ exec (.waitc c) s = .next (waitsThen s g p (.waitc c ids) s.iss.next s))) ∧
    (∀ pa, Admitted { acc := { ords := [0, 1, 4] }, rd := sR [a, b] } s g p →
      let o := ordOf s 1 3
      let acq : Bool := o.1 = 1 ∨ o.1 = 4
      ¬OthersFirst s g false (o.1 = 4) [(pa, 8)] → badVa (rS g a).toNat = false → (rS g a).toNat % 8 = 0 →
      trOne s g.place.core g.ctx (rS g a).toNat Need.read false = .key pa → ownPrep s s.iss.gid (lineOf pa) = false →
      ((rS g b).toNat ≤ s.rd pa 8 → ∃ t, exec (.seqw a b) s = .next t ∧ t = { goesOn s g p s with cores := t.cores } ∧
        ∀ n, { t.core n with l1 := [] } = { s.core n with l1 := [] }) ∧
      (s.rd pa 8 < (rS g b).toNat → ∃ t, exec (.seqw a b) s = .next t ∧
        t = { waitsThen s g p (.seqw (rS g a).toNat pa (rS g b).toNat acq) s.iss.next s with cores := t.cores } ∧
        ∀ n, { t.core n with l1 := [] } = { s.core n with l1 := [] })) ∧
    (Admitted { acc := {}, rd := sR [a] } s g p →
      (rS g a = 0 → exec (.sleep a) s = .next (goesOn s g p (givesWay s g s))) ∧
      (rS g a ≠ 0 → exec (.sleep a) s = .next (waitsThen s g p (.sleep (s.cycles + min (rS g a).toNat (2 ^ 24))) s.iss.next s))) ∧
    (∀ j l h q, s.group? j = some h → h.paths.find? l = some q → h.resident = true → (s.ctx? h.ctx).map Ctx.st = some .resident →
      let on := s.modGroup j fun h => { h with paths := h.paths.adjust l fun q => { q.fresh with cond := .ready, pc := q.after_, rep := 0 } }
      let again (w : Wake) := s.modGroup j fun h => { h with paths := h.paths.adjust l fun q => { q with cond := .ready, woken := some w } }
      (∀ u, q.cond = .waiting (.sleep u) → exec (.wake j l) s = .next (if u ≤ s.cycles then on else s)) ∧
      (∀ rs, q.cond = .waiting (.score rs) → exec (.wake j l) s = .next (if scoreBusy s j l q rs then s else again (.score rs))) ∧
      (∀ t, q.cond = .waiting (.acc t) → exec (.wake j l) s = .next (if accBusy s h.place.quadIx t then s else again (.acc t))) ∧
      (∀ va pa n acq, q.cond = .waiting (.seqw va pa n acq) → exec (.wake j l) s = .next (if n ≤ s.rd pa 8 then
        (if acq then l1Drop on h.place.core h.ctx else l1Fill on h.place.core h.ctx (lineOf pa) false) else s)) ∧
      (∀ n w, q.cond = .waiting (.queue n w) → q.halted = false →
        exec (.wake j l) s = .next (if qWaits s h.place.core h.ctx n w q then s else again (.queue n w))) ∧
      (∀ c ids, q.cond = .waiting (.waitc c ids) → h.err &&& c = 0 → exec (.wake j l) s = .next
        (if (∀ i ∈ ids, s.ops.find? i = none ∧ ∀ k ∈ s.cores, k.2.sort.op = i → k.2.sort.st ≠ .loading ∧ k.2.sort.st ≠ .running ∧ k.2.sort.st ≠ .storing) then
          l1Drop on h.place.core h.ctx else s)) ∧
      (∀ k v, q.cond = .waiting (.barw k v) → exec (.wake j l) s = .next
        (let d := (phaseOf s h false k + 2 ^ 32 - v % 2 ^ 32) % 2 ^ 32
         if 0 < d ∧ d < 2 ^ 31 then l1Drop on h.place.core h.ctx else s)) ∧
      (∀ b n, q.cond = .waiting (.turnDone b n) → exec (.wake j l) s = .next (if n ≤ (s.bound b).doneSeq then on else s)) ∧
      (∀ e, q.cond = .waiting (.eplace e) → exec (.wake j l) s = .next (if (engOps s h.place.core e).length < 64 then again (.eplace e) else s)) ∧
      (∀ t op held, q.cond = .waiting (.tile t op held) → exec (.wake j l) s = .next
        (let x := s.tile h.place.core t
         if x.busy = false ∧ (held = true → x.held = 0) then again (.tile t op held) else s)) ∧
      (q.cond = .waiting .dirFree → exec (.wake j l) s = .next
        (if (freeDir s (dieOf h.place.core)).isSome then again .dirFree else s)) ∧
      (q.cond = .waiting .fetch → exec (.wake j l) s = .next (if fetching s j then s else again .fetch)) ∧
      (∀ send, q.cond = .waiting (.mbox send) → exec (.wake j l) s = .next
        (if (if send then s.host.p2hFull else s.host.h2pEmpty) then s else again (.mbox send))) ∧
      (∀ w r foot, q.cond = .waiting (.order w r foot) → exec (.wake j l) s = .next
        (if orderHolds s j l h w r foot then s else again (.order w r foot))))

/-- R206 to R208: qput writes one entry of 256 bytes, its acting lanes' words and zeros, and adds 1 to PUTSEQ; qtake reads the oldest
entry into its acting lanes and adds 1 to TAKESEQ; a full queue, an empty one, an earlier waiter, or an earlier access that must come first
makes them wait, the last with the wake order (the model's, log 60); qstat reads the fill, the capacity and the waiters. No other byte of the
scratchpad changes. -/
def Obligations.TroupeQueues : Prop :=
  ∀ (a b : Nat) (s : State) (g : Group) (p : Path),
    let core := g.place.core
    let head (q : Nat) : Nat × Nat × Nat := (padRd s core q 8, padRd s core (q + 8) 8, padRd s core (q + 16) 2)
    let entry (q n : Nat) : Nat := q + 32 + 256 * (n % padRd s core (q + 16) 2)
    let q := (rS g a).toNat % 2 ^ 21
    (Admitted { acc := { pred := true }, rd := sR [a] ++ vR [b] } s g p → queueLegal s g q →
      (OthersFirst s g true true [] → exec (.qput a b) s = .next (waitsOn s g p (.order true true []) s)) ∧
      (qWaits s core g.ctx q true p = false → ¬OthersFirst s g true true [] → ∃ t, exec (.qput a b) s = .next t ∧ t = { goesOn s g p s with cores := t.cores } ∧
        (∀ l < 32, padRd t core (entry q (head q).1 + 8 * l) 8 = if (act s g p).getLsbD l then (rV g b l).toNat else 0) ∧
        padRd t core q 8 = ((head q).1 + 1) % 2 ^ 64 ∧
        ∀ y, ¬(entry q (head q).1 ≤ y ∧ y < entry q (head q).1 + 256) → ¬(q ≤ y ∧ y < q + 8) → padByte t core y = padByte s core y) ∧
      ((head q).1 = ((head q).2.1 + (head q).2.2) % 2 ^ 64 → ¬OthersFirst s g true true [] → exec (.qput a b) s = .next (waitsOn s g p (.queue q true) s))) ∧
    (Admitted { acc := { pred := true }, rd := sR [a], wr := vR [b] } s g p → queueLegal s g q →
      (qWaits s core g.ctx q false p = false → ¬OthersFirst s g true false [] → ∃ t h, exec (.qtake a b) s = .next t ∧ t.mem = s.mem ∧ t.group? s.iss.gid = some h ∧ h.s = g.s ∧
        (∀ n l, l < 32 → rV h n l = setV s g p b (fun l => BitVec.ofNat 64 (padRd s core (entry q (head q).2.1 + 8 * l) 8)) n l) ∧
        h.paths.find? s.iss.slot = some (nextPath s p) ∧ padRd t core (q + 8) 8 = ((head q).2.1 + 1) % 2 ^ 64 ∧
        ∀ y, ¬(q + 8 ≤ y ∧ y < q + 16) → padByte t core y = padByte s core y) ∧
      ((head q).1 = (head q).2.1 → ¬OthersFirst s g true false [] → exec (.qtake a b) s = .next (waitsOn s g p (.queue q false) s))) ∧
    (Admitted { acc := {}, rd := sR [b], wr := sR [a] } s g p →
      let q := (rS g b).toNat % 2 ^ 21
      queueLegal s g q → exec (.qstat a b) s = .next (goesOn s g p (wrote (.s a (BitVec.ofNat 64
        (qCount s core g.ctx q true * 2 ^ 40 + qCount s core g.ctx q false * 2 ^ 32 + (head q).2.2 * 2 ^ 16 + ((head q).1 + 2 ^ 64 - (head q).2.1) % 2 ^ 64 % 2 ^ 16))) s))) ∧
    (Admitted { acc := { pred := true }, rd := sR [a] ++ vR [b] } s g p → Ordinary g → q % 32 ≠ 0 → exec (.qput a b) s = .next (trapsBefore s g p .align q s))

/-- R134, R272, R310 to R312, R314: a fence acts at once where nothing before it is in flight, else it stays in its path's order; a
prefetch changes L1 copies alone. A walk that finds a permitted leaf of any size sets A, and D for a write, and its path is ready with the
translation held; an invalid entry, or for a write a migrating page, opens a fault of that page that the host is told of; a reserved bit, a
misplaced leaf, a bad frame or run, or a missing permission ends the path's wait with PERM due. What the spec leaves open is the model's
choice: of a 64 KiB page the 4 KiB part touched is held (log 9), the lowest fault identifier is taken (log 81), and ACC bit 4 says that the
invalid entry stands above level 1 (log 100). -/
def Obligations.FencesPrefetchesAndWalks : Prop :=
  ∀ (s : State) (g : Group) (p : Path),
    (Admitted { acc := { pred := true, ords := [1, 2, 3, 4] } } s g p →
      let o := ordOf s 4 3
      let u := if o.1 ≠ 2 ∧ 1 ≤ o.2 then l1Drop s g.place.core g.ctx else s
      ((∀ z ∈ s.ops, z.2.of s.iss.gid s.iss.slot = true → z.2.owed = false) → exec .fence s = .next (goesOn s g p u)) ∧
      ((∃ z ∈ s.ops, z.2.of s.iss.gid s.iss.slot = true ∧ z.2.owed = true) →
        exec .fence s = .next (goesOn s g p (u.addOp (matOp s g (.fence o.1 o.2)))))) ∧
    (∀ l a b, Admitted { acc := { pred := true }, rd := sR [a] ++ vR [b] } s g p → ∃ t, exec (.vprefetch l a b) s = .next t ∧
      t = { goesOn s g p s with cores := t.cores } ∧ (l ≠ 0 → t.cores = s.cores) ∧ ∀ n, { t.core n with l1 := [] } = { s.core n with l1 := [] }) ∧
    (∀ d w k gid slot n q top a lv, soleWalk s d w k gid slot n g q → tlbOf s g.place.core k.ctx k.va = none →
      (s.ctx? k.ctx).bind Ctx.ptTop = some top → 1 ≤ lv → tablesLead s k.va a lv 5 top →
      let e := s.rd a 8
      let granted : Prop := (n.r = true → pteBit e 2 = true) ∧ (n.w = true → pteBit e 3 = true) ∧ (n.x = true → pteBit e 4 = true) ∧
        (n.hostBad = true → e / 2 ^ 10 % 4 ≠ 2)
      let needs : Nat := (if n.r then 1 else 0) + (if n.w then 2 else 0) + if n.x then 4 else 0
      let refused : Prop := ∃ u, exec (.walkComplete w) s = .next u ∧ u.mem = s.mem ∧
        u.path? gid slot = some { q with cond := .ready, permFail := (k.va, 0, 0) :: q.permFail }
      let faults (va size kind acc : Nat) : Prop := ∃ u f, exec (.walkComplete w) s = .next u ∧ u.path? gid slot = some q ∧
        u.host.eqSeq = s.host.eqSeq + 1 ∧ (u.die d).faults = [(0, f)] ∧ f.ctx = k.ctx ∧ f.va = va ∧ f.size = size ∧ f.kind = kind ∧ f.acc = acc ∧
        f.paths = [(gid, slot)]
      (pteBit e 0 = true → entryBad lv e → refused) ∧
      (pteBit e 0 = true → ¬entryBad lv e → pteBit e 8 = true → (∀ size, ¬leafSize s k.va lv e a size) → refused) ∧
      (∀ size, pteBit e 0 = true → ¬entryBad lv e → pteBit e 8 = true → leafSize s k.va lv e a size →
        (¬granted → refused) ∧
        (granted → n.w = true → pteBit e 5 = true → faults (k.va / 2 ^ pageBits size * 2 ^ pageBits size) size 1 needs) ∧
        (granted → (n.w = true → pteBit e 5 = false) → ∃ u t, exec (.walkComplete w) s = .next u ∧
          u.mem = putBytes s.mem a (bytesLE 8 (e ||| (if n.w then 192 else 64))) ∧ u.path? gid slot = some { q with cond := .ready } ∧
          (u.die d).walks = [] ∧ t ∈ (u.core g.place.core).tlb ∧ t.ctx = k.ctx ∧ t.page = size ∧ t.size = (if size = 1 then 0 else size) ∧
          t.va = k.va / 2 ^ pageBits t.size * 2 ^ pageBits t.size ∧ t.pa = e / 2 ^ 10 % 4 * 2 ^ 57 + e / 2 ^ 12 % 2 ^ 45 * 4096 ∧
          t.r = pteBit e 2 ∧ t.w = pteBit e 3 ∧ t.x = pteBit e 4)) ∧
      (pteBit e 0 = false → faults k.va 0 0 (needs + if 1 < lv then 16 else 0)))

/-- R205: submit of a registered anchor whose pages are held is on its way to the anchor's home; an anchor that is not registered traps
PERM, and so does a TAIL that is no address; misaligned or ill-formed addresses trap. At the home, once the path's earlier accesses are
performed, it makes its one step: the record is numbered and its NEXT cleared, the last record's NEXT is linked to it, and it becomes the
tail; the number comes back in S(b + 1). That TAIL is read again in the step, and that a page of it that then may not be written ends the
submit with PERM at its path's next boundary, is the model's (log 54); whether an anchor on a peer device is registered there is a free value
(log 24). -/
def Obligations.Submits : Prop :=
  ∀ (a b : Nat) (s : State) (g : Group) (p : Path),
    let core := g.place.core
    let an := (rS g a).toNat
    let re := (rS g b).toNat
    (Admitted { acc := {}, rd := sR [a, b], wr := sR [b + 1] } s g p → p.aborted = false →
      (badVa an = false → badVa re = false → an % 64 = 0 → re % 128 = 0 →
        ∀ ka kr, trOne s core g.ctx an Need.rw false = .key ka → trOne s core g.ctx re Need.write false = .key kr →
        let known : Prop := (∃ q ∈ s.queues, q.2.ctx = g.ctx ∧ q.2.anchor = an % 2 ^ 57) ∨ peerAnchor s ka = true
        let t8 := (s.rd ka 8 + 8) % 2 ^ 64
        (known → badVa t8 = true → Ordinary g → exec (.submit a b) s = .next (trapsBefore s g p .perm t8 { s with fresh := s.fresh + 1 })) ∧
        (∀ kt, known → badVa t8 = false → trOne s core g.ctx t8 Need.write false = .key kt →
          exec (.submit a b) s = .next (goesOn s g p ({ s with fresh := s.fresh + 1 }.addOp
            { matOp s g (.submit (an % 2 ^ 57) re ka kr (b + 1) 0) with site := (s.iss.addr, s.iss.next) }))) ∧
        (¬known → Ordinary g → exec (.submit a b) s = .next (trapsBefore s g p .perm an { s with fresh := s.fresh + 1 }))) ∧
      (Ordinary g → (badVa an = true → exec (.submit a b) s = .next (trapsBefore s g p .perm an s)) ∧
        (badVa an = false → badVa re = true → exec (.submit a b) s = .next (trapsBefore s g p .perm re s)) ∧
        (badVa an = false → badVa re = false → an % 64 ≠ 0 → exec (.submit a b) s = .next (trapsBefore s g p .align an s)) ∧
        (badVa an = false → badVa re = false → an % 64 = 0 → re % 128 ≠ 0 → exec (.submit a b) s = .next (trapsBefore s g p .align re s)))) ∧
    (∀ o op an re ka kr reg n tr u, s.ops.find? o = some op → op.kind = .submit an re ka kr reg n → op.perf = false → op.lost = 0 →
      enRoute s o = false → mayPerform s o op true true true [(ka, 16), (kr, 16)] = true →
      let t8 := (s.rd ka 8 + 8) % 2 ^ 64
      bgXlate s op.core op.ctx t8 Need.write false = (u, tr) →
      (∀ kt, tr = .key kt → mayPerform u o op true true true [(kt, 8)] = true → linkWaits u ka = false → linkWaits u kr = false → linkWaits u kt = false →
        (∀ q ∈ s.queues, q.2.ctx = op.ctx → q.2.anchor = an → q.2.pend = []) →
        let m := (u.rd (ka + 8) 8 + 1) % 2 ^ 64
        ∃ t, exec (.homeAccess o [] false) s = .next t ∧ t.ops.find? o = some { op with perf := true, kind := .submit an re ka kr reg m } ∧
          t.mem = putBytes (putBytes (putBytes u.mem kr (bytesLE 8 m ++ bytesLE 8 0)) kt (bytesLE 8 re)) ka (bytesLE 8 re ++ bytesLE 8 m)) ∧
      (∀ q, tr = .perm → u.path? op.gid op.slot = some q → q.fpx = none → ∃ t q', exec (.homeAccess o [] false) s = .next t ∧ t.ops.find? o = none ∧
        t.mem = u.mem ∧ t.path? op.gid op.slot = some q' ∧
        q' = { q with fpx := some { cause := .perm, data := BitVec.ofNat 64 t8, addr := op.site.1, next := op.site.2, rep := 0, after_ := false } })) ∧
    (∀ o op an re ka kr reg n g, s.ops.find? o = some op → op.kind = .submit an re ka kr reg n → op.perf = true → op.lost = 0 → enRoute s o = false →
      s.group? op.gid = some g → (s.ctx? op.ctx).map Ctx.st = some .resident → ∃ t h, exec (.loadReply o) s = .next t ∧ t.ops.find? o = none ∧
        t.mem = s.mem ∧ t.group? op.gid = some h ∧ ∀ k, rS h k = setS g reg (BitVec.ofNat 64 n) k)

/-- R331: amsg sends the bytes of its payload registers, with its sender and its destination, once the path's earlier accesses are
performed and an injection slot is there, and waits for these (with the wake order for the first, the model's, log 60; when a slot is there and
how its packet stands in it is log 16); bad lengths, registers or devices trap ILLOP, REGBOUND or PERM. A message that arrives, of this device
or, for the context bound to it, of a peer's, queues its handler on the core that it names; where the context owns no quadrant of that core or
has no valid entry of the index, it is dropped and recorded in the log of its context (which for a peer's is one of the two, log 36). A message
to a peer leaves this device by its link, and waits while the link has failed. -/
def Obligations.ActiveMessages : Prop :=
  ∀ (s : State),
    (∀ (a b : Nat) (g : Group) (p : Path),
      let x := (rS g a).toNat
      let len := x / 2 ^ 24 % 2 ^ 8
      let dev := x / 2 ^ 16 % 2 ^ 8
      let n := (len + 7) / 8
      let known : Prop := dev = s.domain ∨ (dev < 64 ∧ s.routing.getD dev 255 ≠ 255)
      let slot : Prop := actRoom s g.ctx g.place.core dev (x / 2 ^ 8 % 2 ^ 8) len = true
      Admitted { acc := {}, rd := sR (a :: ((payRegs b (amsgLen s a)).filter (· < 128))) } s g p →
      (len ≤ 192 → x < 2 ^ 32 → b + n ≤ 128 → known →
        (¬OthersFirst s g true true [] → slot → ∃ m u, exec (.amsg a b) s = .next (goesOn s g p u) ∧
          u = { s.addOp (matOp s g (.amsg m)) with torus := u.torus, nextId := u.nextId } ∧
          (∀ q ∈ u.packets, q ∈ s.packets ∨ (q.job = .op ∧ q.op = s.nextId ∧ q.cls = 3 ∧ q.ctx = g.ctx)) ∧
          m.op = s.nextId ∧ m.ctx = g.ctx ∧ m.dev = dev ∧ m.core = x / 2 ^ 8 % 2 ^ 8 ∧ m.idx = x % 2 ^ 8 ∧ m.srcDev = s.domain ∧
          m.srcCore = g.place.core ∧ m.payload = (((List.range n).flatMap fun i => bytesLE 8 (rS g (b + i)).toNat)).take len) ∧
        (¬OthersFirst s g true true [] → ¬slot → exec (.amsg a b) s = .next (waitsOn s g p (.actSlot dev (x / 2 ^ 8 % 2 ^ 8) len) s)) ∧
        (OthersFirst s g true true [] → exec (.amsg a b) s = .next (waitsOn s g p (.order true true []) s))) ∧
      (Ordinary g → (192 < len ∨ 2 ^ 32 ≤ x → exec (.amsg a b) s = .next (trapsBefore s g p .illop 0 s)) ∧
        (len ≤ 192 → x < 2 ^ 32 → 128 < b + n → exec (.amsg a b) s = .next (trapsBefore s g p .regbound 0 s)) ∧
        (len ≤ 192 → x < 2 ^ 32 → b + n ≤ 128 → ¬known → exec (.amsg a b) s = .next (trapsBefore s g p .perm 0 s)))) ∧
    (∀ m op, OnItsWay s m op → m.dev = s.domain →
      let c := op.ctx
      let known : Prop := m.core < 192 ∧ ownsCore s c m.core = true
      let valid : Prop := ∃ t, taskOf s c m.idx = some t ∧ t.valid = true
      let dropped (reason : Nat) : Prop := ∃ t, exec (.activeMessageArrival m) s = .next t ∧ t.ops.find? m.op = none ∧ t.reqs = s.reqs ∧
        t = { ctxLog s c 17 [(1, 1), (1, reason), (2, m.core), (2, m.idx), (1, 0), (1, m.srcDev), (2, m.srcCore)] with ops := t.ops }
      (known → valid →
        ∃ t r, exec (.activeMessageArrival m) s = .next t ∧ t.mem = s.mem ∧ t.reqs.find? s.nextId = some r ∧ r.kind = .message m ∧ r.ctx = c ∧
          r.core = m.core ∧ r.queued = true ∧ r.placed = false ∧
          (t.core m.core).allot.get [] c = (s.core m.core).allot.get [] c ++ [s.nextId] ∧
          t.ops.find? m.op = some { op with perf := true }) ∧
      (¬known → dropped 4) ∧ (known → ¬valid → dropped 5)) ∧
    (∀ m op, OnItsWay s m op → m.dev ≠ s.domain →
      (s.routing.getD m.dev 255 ∈ s.linkDown → exec (.activeMessageArrival m) s = .next s) ∧
      (s.routing.getD m.dev 255 ∉ s.linkDown → ∃ t, exec (.activeMessageArrival m) s = .next t ∧ t.ops.find? m.op = none ∧ t.reqs = s.reqs))

/-- R335 to R337: dturn queues a turn of an allotted context and answers its number, reads the boundary, or waits for a number; the
queue holds eight turns, two of a context. The head turn takes its wire groups, and those that have rested begin to turn; each takes its
new direction after 48 ns, 317 ticks (their rounding is the model's choice, log 17); with none left, the turn is done. -/
def Obligations.WireGroupTurns : Prop :=
  ∀ (a b : Nat) (s : State) (g : Group) (p : Path),
    let x := (rS g b).toNat
    let bi := x % 4
    let bd := s.bound bi
    (Admitted { acc := {}, rd := sR [b], wr := sR [a] } s g p →
      let n := x / 2 ^ 8 % 2 ^ 7
      let legal : Prop := 1 ≤ n ∧ n ≤ 88 ∧ x = bi + 2 ^ 8 * n + 2 ^ 16 * (x / 2 ^ 16 % 2)
      let full : Prop := 8 ≤ bd.queue.length ∨ 2 ≤ (bd.queue.filter fun t => t.ctx = g.ctx).length
      (legal → bd.allots.get 0 g.ctx ≠ 0 → ¬full →
        let t : Turn := { ctx := g.ctx, n := n, west := x / 2 ^ 16 % 2 = 1, seq := bd.nextSeq, allot := bd.allots.get 0 g.ctx, chosen := none }
        exec (.dturn a b 0) s = .next (goesOn s g p (wrote (.s a (BitVec.ofNat 64 bd.nextSeq))
          (s.modBound bi fun d => { d with queue := d.queue ++ [t], nextSeq := d.nextSeq + 1 })))) ∧
      (legal → bd.allots.get 0 g.ctx ≠ 0 → full → exec (.dturn a b 0) s = .next (waitsOn s g p (.turnQueue bi) s)) ∧
      (x < 4 → exec (.dturn a b 1) s = .next (goesOn s g p (wrote (.s a (BitVec.ofNat 64
        (((List.range 96).filter fun w => bd.west / 2 ^ w % 2 = 0 ∧ bd.turning.find? w = none).length * 2 ^ 56 + bd.doneSeq % 2 ^ 56))) s))) ∧
      (Ordinary g → (¬legal → exec (.dturn a b 0) s = .next (trapsBefore s g p .illop 0 s)) ∧
        (legal → bd.allots.get 0 g.ctx = 0 → exec (.dturn a b 0) s = .next (trapsBefore s g p .perm 0 s)))) ∧
    (Admitted { acc := {}, rd := sR [a, b] } s g p → x < 4 → exec (.dturn a b 2) s = .next (if (rS g a).toNat ≤ bd.doneSeq then goesOn s g p s
      else waitsThen s g p (.turnDone bi (rS g a).toNat) s.iss.next s)) ∧
    (∀ i t rest, i < 4 → (s.bound i).queue = t :: rest → t.chosen = none →
      let l := turnTakes (s.bound i) t
      let rested (w : Nat) : Prop := ∀ e, (s.bound i).lastEnd.find? w = some e → e + 13200 ≤ s.clocks.ticks
      ∃ u d, exec (.turnStart i) s = .next u ∧ u = { s with bounds := u.bounds } ∧ u.bound i = d ∧ d.west = (s.bound i).west ∧
        (l = [] → d.queue = rest ∧ d.doneSeq = t.seq) ∧ (l ≠ [] → d.queue = { t with chosen := some l } :: rest ∧ d.doneSeq = (s.bound i).doneSeq) ∧
        (∀ w ∈ l, rested w → d.turning.find? w = some s.clocks.ticks) ∧ ∀ w, (w ∉ l ∨ ¬rested w) → d.turning.find? w = (s.bound i).turning.find? w) ∧
    (∀ i w t rest l st, i < 4 → (s.bound i).queue = t :: rest → t.chosen = some l → (s.bound i).turning.find? w = some st → st + 317 ≤ s.clocks.ticks →
      ∃ u d, exec (.turnEnd i w) s = .next u ∧ u = { s with bounds := u.bounds } ∧ u.bound i = d ∧ d.turning.find? w = none ∧
        d.lastEnd.find? w = some s.clocks.ticks ∧
        (w < 96 → (s.bound i).west / 2 ^ w % 2 = (if t.west then 0 else 1) →
          d.west = if t.west then (s.bound i).west + 2 ^ w else (s.bound i).west - 2 ^ w) ∧
        (l.filter (· ≠ w) = [] → d.queue = rest ∧ d.doneSeq = t.seq) ∧
        (l.filter (· ≠ w) ≠ [] → d.queue = { t with chosen := some (l.filter (· ≠ w)) } :: rest))

/-- R200 to R203, R209, R210, R360: a record that its queue takes up is consumed, DONESEQ and DONEPTR as one unit; ill-formed, unknown
or not accepted from its queue it completes with BADCMD. A completion is written to the ring while there is room, then CQSEQ, and else
is kept and the queue stalls. A record out of sequence consumes nothing and stops its queue, until RESYNC. A doorbell starts an idle
queue with records ahead, or stalls it while its ring is full, and is recorded where it names none, whatever the boot state in which the
registers are served. That the anchors and rings of host queues lie in physical near memory is the model's reading (log 20). -/
def Obligations.QueueCommands : Prop :=
  (∀ (c : Cmd) (s : State), cmdDue s c = true → 1 ≤ c.op → c.op ≤ 24 → cmdForm s c = false ∨ cmdAllowed s c = false →
    (c.op = 5 → arg c 0 = 0 → queuesOf s 0 ≠ []) → exec (cmdInstr c) s = ends c 5 0 (consume c s)) ∧
  (∀ (c : Cmd) (s : State) (q : KQueue), cmdDue s c = true → c.op = 0 ∨ 24 < c.op → s.queues.find? c.q = some q → q.ctx = 0 →
    let s1 := consume c s
    s1.mem = putBytes s.mem (locKey 0 (q.anchor + 0x20)) (bytesLE 8 c.seq ++ bytesLE 8 c.ptr) ∧
    ∃ t q', exec (.badcmd c) s = .next t ∧ t.queues.find? c.q = some q' ∧ q'.doneSeq = c.seq ∧ q'.donePtr = c.ptr ∧
      t.mem = ringWritten s1 q c.seq 5 0 ∧ q'.cqSeq = q.cqSeq + 1 ∧ q'.pend = []) ∧
  (∀ (kid : Nat) (k : Kernel) (s : State) (q : KQueue), s.kernels.find? kid = some k → kernelEnds s k = true → s.queues.find? k.q = some q → q.ctx = 0 →
    q.pend = [] → ¬ringRoom s q → ∃ t q', exec (.kernelDone kid) s = .next t ∧ t.mem = s.mem ∧ t.queues.find? k.q = some q' ∧ q'.cqSeq = q.cqSeq ∧
      q'.pend = [(k.seq, 0, k.grid.toNat)] ∧ q'.st ≠ .running) ∧
  (∀ (i : Nat) (s : State) (q : KQueue) (c : Cmd) (z : Nat), qNext s i = some (c, z) → s.queues.find? i = some q → q.ctx = 0 →
    c.seq ≠ q.doneSeq + 1 → ∃ t, exec (.badseq i) s = .next t ∧ t.mem = ringWritten s q c.seq 4 (q.doneSeq + 1)) ∧
  (∀ (i : Nat) (s : State) (q : KQueue) (c : Cmd) (z : Nat), qNext s i = some (c, z) → s.queues.find? i = some q → c.seq ≠ q.doneSeq + 1 →
    ∃ t q', exec (.badseq i) s = .next t ∧ t = (complete i c.seq 4 (q.doneSeq + 1) s).modQ i (fun y => { y with st := .stopped }) ∧
      t.queues.find? i = some q' ∧ q'.st = .stopped ∧ q'.doneSeq = q.doneSeq ∧ q'.donePtr = q.donePtr) ∧
  (∀ (v i : Nat) (s : State) (q : KQueue), s.boot = .ready → (queuesOf s 0)[v % 2 ^ 16]? = some i → s.queues.find? i = some q → q.ctx = 0 →
    q.st = .idle → q.pend = [] → ∃ t, exec (.doorbell v) s = .next t ∧ t = { s with queues := t.queues } ∧
      (anchorWord s q 8 8 ≤ q.doneSeq → t.queues.find? i = some q) ∧
      (q.doneSeq < anchorWord s q 8 8 → ringRoom s q → t.queues.find? i = some { q with st := .running }) ∧
      (q.doneSeq < anchorWord s q 8 8 → ¬ringRoom s q → t.queues.find? i = some { q with st := .stalled }) ∧
      ∀ j, j ≠ i → t.queues.find? j = s.queues.find? j) ∧
  (∀ (v : Nat) (s : State), Served s → (queuesOf s 0)[v % 2 ^ 16]? = none → EventRoom s →
    ∃ t, exec (.doorbell v) s = .next t ∧ Posts s t 8 0 [(2, v % 2 ^ 16)]) ∧
  (∀ (c : Cmd) (s : State) (own q : KQueue) (i : Nat), Taken 13 c s →
    let s1 := consume c s
    s1.queues.find? c.q = some own → List.find? (fun (x : Nat × KQueue) => x.2.anchor = anchorOf x.2.ctx (arg c 0) && x.2.ctx = own.ctx) s1.queues = some (i, q) →
      (q.st ≠ .stopped → exec (.resync c) s = ends c 1 0 s1) ∧
      (q.st = .stopped → s1.queues.find? i = some q → q.ctx = 0 → ∃ u, exec (.resync c) s = ends c 0 0 u ∧
        u.mem = putBytes s1.mem (locKey 0 (q.anchor + 0x20)) (bytesLE 8 (arg c 2) ++ bytesLE 8 (arg c 1)) ∧
        u.queues.find? i = some { q with st := .idle, doneSeq := arg c 2, donePtr := arg c 1 }))

/-- R184, R189, R191, R203, R215, R220: what creates, registers, resumes, switches, migrates and destroys contexts, with the status of
Table QUE.2 where the context, its state or an argument forbids it. The states in which a registration is taken, that the host registers its
first queue itself, that its anchor and ring lie in physical near memory, and what a DESTROY finds, are the model's choices (logs 25, 26, 20,
63). -/
def Obligations.ContextCommands : Prop :=
  ∀ (c : Cmd) (s : State),
    let s1 := consume c s
    let n := arg c 0
    (∀ o ∈ namesContext c, Taken o.1 c s → (numberBad n → exec o.2 s = ends c 5 0 s1) ∧
      (¬numberBad n → s1.ctx? n = none → exec o.2 s = ends c 1 0 s1)) ∧
    (Taken 1 c s →
      let lb := arg c 2
      let legal : Prop := ¬numberBad n ∧ arg c 1 ≤ 3 ∧ lb ≠ 0 ∧ lb % 64 = 0 ∧ badVa lb = false ∧ ∃ j, 6 ≤ j ∧ j ≤ 16 ∧ arg c 3 = 2 ^ j
      (¬legal → exec (.create c) s = ends c 5 0 s1) ∧ (legal → s1.ctx? n ≠ none → exec (.create c) s = ends c 1 0 s1) ∧
      (legal → s1.ctx? n = none → ∃ x, exec (.create c) s = ends c 0 0 { s1 with ctxs := s1.ctxs.put n x } ∧ x.st = .created ∧
        x.debugen = (arg c 1 % 2 = 1) ∧ x.attested = (arg c 1 / 2 = 1) ∧ x.logBase = lb % 2 ^ 57 ∧ x.logSize = arg c 3 ∧ x.logTail = 0 ∧
        x.regions = [] ∧ x.kregs = [] ∧ x.tasks = [] ∧ x.net = [] ∧ x.ptTop = none ∧ x.satc = false ∧ x.porter = false)) ∧
    (∀ x bs, Taken 2 c s → inState s1 n x [.created, .loading] → arg c 2 ≠ 0 → x.kregs.length < 32 →
      (ctxRead s1 n (arg c 1) (arg c 2) = some bs → exec (.regkernel c) s = ends c 0 x.kregs.length (s1.modCtx n fun x =>
        { x with kregs := x.kregs ++ [(arg c 1 % 2 ^ 57, arg c 2, shake64 bs)], st := begun x.st })) ∧
      (ctxRead s1 n (arg c 1) (arg c 2) = none → exec (.regkernel c) s = ends c 5 0 s1)) ∧
    (∀ x, Taken 3 c s → inState s1 n x [.created, .loading, .resident, .saved] →
      let legal : Prop := arg c 1 % 2 ^ 21 = 0 ∧ badVa (arg c 1) = false ∧ arg c 2 ≠ 0 ∧ arg c 2 % 2 ^ 21 = 0 ∧ x.regions.length < 64
      (¬legal → exec (.regregion c) s = ends c 5 0 s1) ∧
      (legal → ∃ y, exec (.regregion c) s = ends c 0 x.regions.length (s1.modCtx n fun _ => y) ∧
        y = { x with regions := y.regions, st := begun x.st } ∧ ∃ r, y.regions = x.regions ++ [r] ∧ r.base = arg c 1 % 2 ^ 57 ∧ r.len = arg c 2 ∧
          r.holder = arg c 3 ∧ r.bytes.c = 0 ∧ r.bytes.m = 0 ∧ r.macs.c = 0 ∧ r.macs.m = 0)) ∧
    (∀ x, Taken 4 c s → inState s1 n x [.created, .loading, .resident, .saved] →
      let e := arg c 2
      let w := arg c 5
      let legal : Prop := arg c 1 ≤ 255 ∧ e % 256 = 0 ∧ fld w 32 8 ≤ 15 ∧ 8 ≤ fld w 40 8 ∧ fld w 40 8 ≤ 128 ∧ fld w 40 8 % 8 = 0 ∧ fld w 49 15 = 0
      let known : Prop := x.attested = false ∨ ∃ k ∈ x.kregs, k.1 ≤ e % 2 ^ 57 ∧ e % 2 ^ 57 < k.1 + k.2.1
      (¬legal → exec (.regtask c) s = ends c 5 0 s1) ∧ (legal → ¬known → exec (.regtask c) s = ends c 3 0 s1) ∧
      (legal → known → ∃ y k, exec (.regtask c) s = ends c 0 0 (s1.modCtx n fun _ => y) ∧
        y = { x with tasks := x.tasks.put (arg c 1) k, st := begun x.st } ∧ k.entry = BitVec.ofNat 64 e ∧ k.frbase = BitVec.ofNat 64 (arg c 3) ∧
        k.grid = BitVec.ofNat 64 (arg c 4) ∧ k.cohort = w % 2 ^ 32 ∧ k.team = fld w 32 8 ∧ k.regs = fld w 40 8 ∧ k.valid = (fld w 48 1 = 1))) ∧
    (let an := arg c 1
     let word (o k : Nat) := s.rd (locKey 0 (an + o)) k
     let tail := word 0 8
     n = 0 → queuesOf s 0 = [] → s.boot = .ready → an % 64 = 0 → (∀ q ∈ s.queues, q.2.ctx ≠ 0) → word 8 8 = 0 → s.rd (locKey 0 tail) 8 = 0 →
      s.rd (locKey 0 (tail + 8)) 8 = 0 → word 0x10 8 % 32 = 0 → (∃ j, 4 ≤ j ∧ j ≤ 16 ∧ word 0x18 4 = 2 ^ j) →
      ∃ t q, exec (.regqueue c) s = .next t ∧ t.queues = s.queues.put s.nextId q ∧ q.ctx = 0 ∧ q.anchor = an ∧ q.st = .idle ∧ q.doneSeq = 0 ∧
        q.donePtr = tail ∧ q.cqSeq = 0 ∧ q.busy = none ∧ q.pend = [] ∧
        t.mem = putBytes s.mem (locKey 0 (an + 0x20)) (bytesLE 8 0 ++ bytesLE 8 tail)) ∧
    (∀ q x, Taken 5 c s → inState s1 n x [.created, .loading, .resident, .saved] → badVa (arg c 1) = false → arg c 1 % 64 = 0 →
      (queuesOf s1 n).length < 64 → (∀ y ∈ s1.queues, ¬(y.2.ctx = n ∧ y.2.anchor = arg c 1 % 2 ^ 57)) → newQueue s1 n (arg c 1) = some q →
      exec (.regqueue c) s = ends c 0 0 (addQueue s1 q)) ∧
    (∀ x, Taken 8 c s → inState s1 n x [.loading, .saved] →
      (x.st = .loading → (∀ q, q < 768 → (s1.quad q).owner ≠ n) → exec (.resume c) s = ends c 1 0 s1) ∧
      (x.st = .loading → (∃ q, q < 768 ∧ (s1.quad q).owner = n) → x.image = none → x.replays = [] → s1.reqs = [] → s1.kernels = [] →
        (∀ g ∈ s1.groups, g.2.ctx ≠ n) →
        (∀ k, allotQueue s1 k n = []) → ∃ u, exec (.resume c) s = ends c 0 0 u ∧ u.ctx? n = some { x with st := .resident } ∧
          u.groups = s1.groups ∧ u.quads = s1.quads ∧ ∀ k, ∀ l ∈ (u.core k).l1, l.ctx ≠ n) ∧
      (x.st = .saved → ∀ i, x.image = some i → s1.reqs = [] → s1.kernels = [] → (∀ k, allotQueue s1 k n = []) →
        (i.quads.map Prod.fst).Nodup → (i.parts.map Prod.fst).Nodup → ∃ u, exec (.resume c) s = ends c 0 0 u ∧
          (u.ctx? n).map Ctx.st = some .resident ∧ (u.ctx? n).map Ctx.image = some none ∧
          (∀ q ∈ i.quads, (s1.quad q.1).owner = n → u.quad q.1 = q.2) ∧ (∀ p ∈ i.parts, (s1.quad (p.1 / 4)).owner = n → (u.part p.1).srseed = p.2))) ∧
    (∀ x, Taken 9 c s → inState s1 n x [.resident] → exec (.switch c) s = lasts c (beginQuiesce s1 n .save)) ∧
    (∀ x, Taken 10 c s → inState s1 n x [.saved] →
      exec (.migrate c) s = lasts c (s1.modCtx n fun x => { x with st := .migrating, exportAddr := arg c 1 })) ∧
    (∀ x, Taken 10 c s → inState s1 n x [.resident] →
      exec (.migrate c) s = lasts c (beginQuiesce (s1.modCtx n fun x => { x with exportAddr := arg c 1 }) n .save)) ∧
    (∀ x, Taken 11 c s → inState s1 n x [.resident] → exec (.destroy c) s = lasts c (beginQuiesce s1 n .destroy)) ∧
    (∀ x, Taken 11 c s → inState s1 n x [.created, .saved] → ∃ u, exec (.destroy c) s = lasts c u ∧ (u.ctx? n).map Ctx.st = some .scrubbing ∧
      (∀ g ∈ u.groups, g.2.ctx ≠ n) ∧ (∀ o ∈ u.ops, o.2.ctx ≠ n) ∧ (∀ r ∈ u.reqs, r.2.ctx ≠ n) ∧ (∀ q ∈ u.queues, q.2.ctx ≠ n) ∧
      ∀ k, ∀ l ∈ (u.core k).l1, l.ctx ≠ n)

/-- R185, R187, R219, Table PAD.2, Table SRT.2: quadrants that a context is granted come to it with everything of an old owner gone;
quadrants taken from a resident one belong to nobody, and one that keeps none quiesces; SETBANKS assigns a run of banks to one of its quadrants, and SETSORT the sort array.
The states in which these are taken, the second step of SHRINK, the status of SETSORT to a quadrant that the context does not own, and how
suspended work finds its place are the model's choices (logs 25, 27, 63, 29). -/
def Obligations.GrantCommands : Prop :=
  ∀ (c : Cmd) (s : State) (x : Ctx),
    let s1 := consume c s
    let n := arg c 0
    let qs := maskQuads c
    let owner (q : Nat × Nat) := (s1.quad (quadNo q)).owner
    (Taken 6 c s → arg c 1 ≤ 3 → inState s1 n x [.created, .loading, .resident, .saved] →
      ((∃ q ∈ qs, owner q ≠ 0 ∧ owner q ≠ n) → exec (.grant c) s = ends c 1 0 s1) ∧
      ((∀ q ∈ qs, owner q = 0 ∨ owner q = n) → qs ≠ [] → x.net.find? (arg c 1) = none → freeNet s1 (arg c 1) = none →
        exec (.grant c) s = ends c 2 0 s1) ∧
      ((∀ q ∈ qs, owner q = 0 ∨ owner q = n) → (x.st = .resident → s1.reqs = [] ∧ s1.kernels = []) → ∀ net, x.net.find? (arg c 1) = some net ∨ (x.net.find? (arg c 1) = none ∧ freeNet s1 (arg c 1) = some net) →
        ∃ u, exec (.grant c) s = ends c 0 0 u ∧ (u.ctx? n).map Ctx.st = some (begun x.st) ∧
          (qs ≠ [] → (u.ctx? n).bind (fun y => y.net.find? (arg c 1)) = some net) ∧
          (∀ q ∈ qs, owner q = n → u.quad (quadNo q) = s1.quad (quadNo q)) ∧
          (∀ q ∈ qs, owner q = 0 → u.quad (quadNo q) = { Quad.reset with owner := n } ∧ (∀ p, p < 4 → u.part (4 * quadNo q + p) = Part.reset) ∧
            ∀ a, a < 64 * 32768 → runQuad (s1.core q.1) (a / 32768) = q.2 → (u.core q.1).pad.get 0 a = 0) ∧
          (∀ i, (∀ q ∈ qs, quadNo q ≠ i) → u.quad i = s1.quad i))) ∧
    (Taken 7 c s → arg c 1 ≤ 3 →
      let mine := qs.filter fun q => owner q = n
      (inState s1 n x [.created, .loading, .quiescing, .saved, .migrating, .scrubbing] → exec (.shrink c) s = ends c 1 0 s1) ∧
      (inState s1 n x [.resident] → c.flags = 0 → (∃ r ∈ reqsOn s1 n mine, r.2.coop = true) → exec (.shrink c) s = ends c 1 1 s1) ∧
      (inState s1 n x [.resident] → (∀ r ∈ reqsOn s1 n mine, r.2.coop = false) → mine ≠ [] → ownsAny (takeQuads s1 n mine) n = false →
        exec (.shrink c) s = lasts c (beginQuiesce s1 n .save))) ∧
    (∀ q, s.queues.find? c.q = some q → q.busy = some c → c.op = 7 → ctxIn s n [.resident] = true →
      (∀ y ∈ qs, (s.quad (quadNo y)).owner = n → quadInUse s y.1 y.2 = false) →
      ∃ u, exec (.shrink c) s = ends c 0 0 u ∧ u.queues.find? c.q = some { q with busy := none } ∧
        ∀ y ∈ qs, (s.quad (quadNo y)).owner = n → u.quad (quadNo y) = Quad.reset) ∧
    (let die := fld (arg c 1) 0 8
     let core := 48 * die + fld (arg c 1) 8 8
     let legal : Prop := die ≤ 3 ∧ fld (arg c 1) 8 8 ≤ 47 ∧ arg c 1 < 2 ^ 16
     let r := arg c 2
     let held (q : Nat) := (s1.quad (4 * core + q)).owner
     (Taken 14 c s → inState s1 n x [.created, .loading, .resident, .saved] →
      let old := held (runQuad (s1.core core) r)
      (¬(legal ∧ r ≤ 63 ∧ arg c 3 ≤ 3) → exec (.setbanks c) s = ends c 5 0 s1) ∧
      (legal → r ≤ 63 → arg c 3 ≤ 3 → held (arg c 3) ≠ n ∨ (old ≠ 0 ∧ old ≠ n) → exec (.setbanks c) s = ends c 1 0 s1) ∧
      (legal → r ≤ 63 → arg c 3 ≤ 3 → held (arg c 3) = n → old = 0 ∨ old = n → ∃ u, exec (.setbanks c) s = ends c 0 0 u ∧
        u = { s1 with cores := u.cores } ∧ (∀ k, k ≠ core → u.core k = s1.core k) ∧ runQuad (u.core core) r = arg c 3 ∧
        (∀ i, i ≠ r → runQuad (u.core core) i = runQuad (s1.core core) i) ∧ (old = n → (u.core core).pad = (s1.core core).pad) ∧
        (old = 0 → ∀ a, (u.core core).pad.get 0 a = if a / 32768 = r then 0 else (s1.core core).pad.get 0 a))) ∧
     (Taken 15 c s → inState s1 n x [.created, .loading, .resident, .saved] → legal → arg c 2 ≤ 3 →
      (held (arg c 2) ≠ n → exec (.setsort c) s = ends c 1 0 s1) ∧
      (held (arg c 2) = n → ∃ u, exec (.setsort c) s = ends c 0 0 u ∧ u = { s1 with cores := u.cores } ∧ (u.core core).sortq = arg c 2 ∧
        (held (s1.core core).sortq = n → (u.core core).sort = (s1.core core).sort) ∧
        (held (s1.core core).sortq ≠ n → (u.core core).sort = SortArr.idle))))

/-- R209, R211 to R214, R315, R317, R318, R320, R336: LAUNCH queues a kernel of its block; RESOLVE and ABORT answer an open fault; ALLOC
takes the lowest clean run or waits, FREE returns frames to be scrubbed; and the commands that set a dirty log, the device's number and
routing, a link's networks, a peer context and a boundary's allotment.
That tables named by commands lie in physical near memory, that the latest BIND stands, which status is given where two checks of LAUNCH
fail, how frames lie on dies, and that a PERM of an aborted access comes when its instruction is taken again, are the model's choices (logs 20,
35, 63, 4, 75). -/
def Obligations.DeviceCommands : Prop :=
  ∀ (c : Cmd) (s : State),
    let s1 := consume c s
    let n := arg c 0
    (∀ x b, Taken 12 c s → ¬numberBad n → arg c 1 % 256 = 0 → s1.ctx? n = some x → ctxRead s1 n (arg c 1) 256 = some b →
      (blockOk b = false → exec (.launch c) s = ends c 5 0 s1) ∧
      (∀ dies, blockOk b = true → blkDies s1 n b = some dies →
        (x.st ≠ .resident → x.st ≠ .saved → exec (.launch c) s = ends c 1 0 s1) ∧
        (x.st = .resident ∨ x.st = .saved → x.attested = true → (∃ e ∈ blkEntries b, entryOk x e = false) → exec (.launch c) s = ends c 3 0 s1) ∧
        (x.st = .resident ∨ x.st = .saved → x.attested = false ∨ (∀ e ∈ blkEntries b, entryOk x e = true) → blk b 0x0F 1 % 2 = 0 →
          ∃ t k, exec (.launch c) s = .next t ∧ t.mem = s1.mem ∧ t.queues = s1.queues ∧ t.groups = s1.groups ∧
            t.kernels = s1.kernels.put s1.nextId k ∧ k.ctx = n ∧ k.q = c.q ∧ k.seq = c.seq ∧ k.st = .queued ∧ k.grid = gridOf s1 c ∧
            k.entry = blk b 0 8 ∧ k.cohorts = blk b 8 4 ∧ k.teams = blk b 0x0C 1 ∧ k.groups = blk b 0x0D 1 ∧ k.regs = blk b 0x0E 1 ∧
            k.fpmode.toNat = blk b 0x10 8 ∧ k.left = blk b 8 4 * blk b 0x0C 1 * blk b 0x0D 1))) ∧
    (∀ f, n ≤ 3 → (s1.die n).faults.find? (arg c 1) = some f →
      (Taken 16 c s → ∃ u, exec (.resolve c) s = ends c 0 0 u ∧ (u.die n).faults.find? (arg c 1) = none ∧ u.mem = s1.mem ∧
        ∀ q ∈ f.paths, ∀ p k, s1.path? q.1 q.2 = some p → p.cond = .parked k → u.path? q.1 q.2 = some { p with cond := .ready }) ∧
      (Taken 17 c s → f.ops = [] → f.frames = [] → f.claims = [] → f.paths.Nodup → (∀ x, s1.ctx? f.ctx = some x → x.replays = []) → ∃ u, exec (.abort c) s = ends c 0 0 u ∧
        (u.die n).faults.find? (arg c 1) = none ∧ u.mem = s1.mem ∧
        ∀ q ∈ f.paths, ∀ p k, s1.path? q.1 q.2 = some p → p.cond = .parked k →
          u.path? q.1 q.2 = some { p with cond := .ready, aborted := true, permFail := (f.va, f.size, f.kind) :: p.permFail })) ∧
    (3 < n ∨ (s1.die n).faults.find? (arg c 1) = none → (Taken 16 c s → exec (.resolve c) s = ends c 5 0 s1) ∧
      (Taken 17 c s → exec (.abort c) s = ends c 5 0 s1)) ∧
    (Taken 18 c s → n ≤ 3 → arg c 1 ≤ 1 → arg c 2 ≤ 3 →
      (∀ f, findRun s1 n (arg c 1) (arg c 2) = some f → (∀ a ∈ runFrames f (arg c 2), s1.page a = .clean) ∧
        ∃ u, exec (.alloc c) s = ends c 0 (f % 2 ^ 57 + f / 2 ^ 57 * 2 ^ 10) u ∧ u = { s1 with pages := u.pages } ∧
          ∀ a, u.page a = if a ∈ runFrames f (arg c 2) then .allocated else s1.page a) ∧
      (findRun s1 n (arg c 1) (arg c 2) = none → exec (.alloc c) s = lasts c s1)) ∧
    (Taken 18 c s → ¬(n ≤ 3 ∧ arg c 1 ≤ 1 ∧ arg c 2 ≤ 3) → exec (.alloc c) s = ends c 5 0 s1) ∧
    (let f := n / 2 ^ 10 % 4 * 2 ^ 57 + n / 2 ^ 12 % 2 ^ 45 * 4096
     let z := arg c 1
     Taken 19 c s → z ≤ 3 → n = n / 2 ^ 12 % 2 ^ 45 * 4096 + n / 2 ^ 10 % 4 * 2 ^ 10 → f % 2 ^ pageBits z = 0 →
      ((∃ a ∈ runFrames f z, s1.page a ≠ .allocated) ∨ (∃ x ∈ s1.ctxs, mappedBy s1 x.1 f (2 ^ pageBits z) = true) → exec (.free c) s = ends c 1 0 s1) ∧
      ((∀ a ∈ runFrames f z, s1.page a = .allocated) → (∀ x ∈ s1.ctxs, mappedBy s1 x.1 f (2 ^ pageBits z) = false) →
        ∃ u, exec (.free c) s = ends c 0 0 u ∧ u = { s1 with pages := u.pages } ∧
          ∀ a, u.page a = if a ∈ runFrames f z then .queued else s1.page a)) ∧
    (Taken 20 c s → (numberBad n ∨ arg c 1 % 32 ≠ 0 → exec (.dirtylog c) s = ends c 5 0 s1) ∧
      (∀ x, ¬numberBad n → arg c 1 % 32 = 0 → s1.ctx? n = some x →
        exec (.dirtylog c) s = ends c 0 0 (s1.modCtx n fun y => { y with dirtyLog := arg c 1 }))) ∧
    (let t := (s1.bytes (locKey 0 (arg c 1)) 64).map BitVec.toNat
     let legal : Prop := n ≤ 63 ∧ ∀ i v, t[i]? = some v → i ≠ n → v ≤ 11 ∨ v = 255
     Taken 21 c s → (legal → exec (.setdomain c) s = ends c 0 0 { s1 with domain := n, routing := t }) ∧
      (¬legal → exec (.setdomain c) s = ends c 5 0 s1)) ∧
    (let t := (s1.bytes (locKey 0 (arg c 1)) 16).map BitVec.toNat
     let legal : Prop := n ≤ 11 ∧ (∀ i v, t[i]? = some v → i < 15 → v ≤ 14) ∧ t[15]? = some 15
     Taken 22 c s → (legal → exec (.setlinknet c) s = ends c 0 0 { s1 with linkNet := s1.linkNet.put n t }) ∧
      (¬legal → exec (.setlinknet c) s = ends c 5 0 s1)) ∧
    (∀ x, inState s1 n x [.created, .loading, .resident, .quiescing, .saved, .migrating] →
      (Taken 23 c s → arg c 1 ≤ 63 → arg c 2 ≤ 65535 → ∃ u, exec (.bind c) s = ends c 0 0 u ∧ u = { s1 with binds := u.binds } ∧
        u.binds.find? (64 * n + arg c 1) = (if arg c 2 = 0 then none else some (arg c 2)) ∧
        (arg c 2 ≠ 0 → ∀ e ∈ u.binds, e.1 % 64 = arg c 1 → e.2 = arg c 2 → e.1 = 64 * n + arg c 1)) ∧
      (Taken 24 c s → arg c 1 ≤ 3 →
        let m := arg c 2 + 2 ^ 64 * arg c 3
        ((∀ e ∈ (s1.bound (arg c 1)).allots, e.1 ≠ n → e.2 &&& m = 0) → ∃ u, exec (.allot c) s = ends c 0 0 u ∧
          u = { s1 with bounds := u.bounds } ∧ (u.bound (arg c 1)).allots.get 0 n = m ∧
          (∀ j, j ≠ n → (u.bound (arg c 1)).allots.get 0 j = (s1.bound (arg c 1)).allots.get 0 j) ∧ ∀ i, i ≠ arg c 1 → u.bound i = s1.bound i) ∧
        ((∃ e ∈ (s1.bound (arg c 1)).allots, e.1 ≠ n ∧ e.2 &&& m ≠ 0) → exec (.allot c) s = ends c 5 0 s1)))

/-- R359, R361, R363, R364, R378, Table HST.1: each register of BAR0 takes what is written, the rings and the event queue their effects
with it: a HEAD that moves frees room for held records, a base returns its ring's indices to 0, a tail too far ahead is recorded; PTROOT
gives the context named before its top table, INVAL starts an invalidation or holds it, which drops what every TLB holds of its range.
An access of the host reads or writes memory, but no code page, where to ignore the write is the model's choice (log 59). The completion of an
invalidation discards the previous version of a line of a bundle that the tables place elsewhere now. -/
def Obligations.HostPortWrites : Prop :=
  ∀ (v : Nat) (s : State), Served s →
    (exec (.eqlostClear v) s = .next (hostNow s fun h => { h with eqLost := 0 })) ∧
    ((v % 2 ^ 32 + 2 ^ 32 - s.host.h2pHead) % 2 ^ 32 ≤ 16 → exec (.h2ptail v) s = .next (hostNow s fun h => { h with h2pTail := v % 2 ^ 32 })) ∧
    (16 < (v % 2 ^ 32 + 2 ^ 32 - s.host.h2pHead) % 2 ^ 32 → EventRoom s → ∃ t, exec (.h2ptail v) s = .next t ∧ Posts s t 8 0 [(2, 0xFFFF)]) ∧
    (exec (.mboxBaseWrite 0 v) s = .next (hostNow s fun h => { h with h2pBase := v, h2pTail := 0, h2pHead := 0 })) ∧
    (exec (.mboxBaseWrite 1 v) s = .next (hostNow s fun h => { h with p2hBase := v, p2hTail := 0, p2hHead := 0 })) ∧
    (s.host.eqHeld = [] → exec (.eqHeadWrite v) s = .next (hostNow s fun h => { h with eqHead := v })) ∧
    (∀ n b, s.host.eqHeld = [(n, b)] → s.host.eqTail - v < s.host.eqSize → ∃ t, exec (.eqHeadWrite v) s = .next t ∧
      t.host = { s.host with eqHead := v, eqHeld := [], eqTail := n } ∧
      t.mem = putBytes s.mem (locKey 2 (s.host.eqBase + 32 * ((n - 1) % s.host.eqSize))) b) ∧
    (s.host.eqHeld = [] → exec (.hostRegisterWrite 0x10 v) s = .next (hostNow s fun h => { h with eqBase := v }) ∧
      exec (.hostRegisterWrite 0x18 v) s = .next (hostNow s fun h => { h with eqSize := v })) ∧
    (s.host.p2hHeld = [] → exec (.hostRegisterWrite 0x5C v) s = .next (hostNow s fun h => { h with p2hHead := v % 2 ^ 32 })) ∧
    (∀ ws, s.host.p2hHeld = [ws] → (s.host.p2hTail + 2 ^ 32 - v % 2 ^ 32) % 2 ^ 32 < 16 → ∃ t, exec (.hostRegisterWrite 0x5C v) s = .next t ∧
      t.host = { s.host with p2hHead := v % 2 ^ 32, p2hHeld := [], p2hTail := (s.host.p2hTail + 1) % 2 ^ 32 }) ∧
    (exec (.hostRegisterWrite 0x80 v) s = .next (hostNow s fun h => { h with ptroot := h.ptroot.set 0 0 (v % 2 ^ 16) })) ∧
    (exec (.hostRegisterWrite 0xA0 v) s = .next (hostNow s fun h => { h with inval := h.inval.set 0 0 (v % 2 ^ 16) })) ∧
    (exec (.hostRegisterWrite 0xA8 v) s = .next (hostNow s fun h => { h with inval := h.inval.set 0 1 (v / 2 ^ 12 % 2 ^ 45 * 4096) })) ∧
    (exec (.hostRegisterWrite 0xB0 v) s = .next (hostNow s fun h => { h with inval := h.inval.set 0 2 v })) ∧
    (exec (.hostRegisterWrite 0xE0 v) s = .next (hostNow s fun h => { h with imgAddr := v })) ∧
    (exec (.hostRegisterWrite 0xE8 v) s = .next (hostNow s fun h => { h with imgLen := v })) ∧
    (∃ t, exec (.ptroot v) s = .next t ∧ t.mem = s.mem ∧
      ∀ x, s.ctx? (s.host.ptroot.get 0 0 % 2 ^ 16) = some x → t.ctx? (s.host.ptroot.get 0 0 % 2 ^ 16) =
        some { x with ptTop := some (v / 2 ^ 10 % 4 * 2 ^ 57 + v / 2 ^ 12 % 2 ^ 45 * 4096) }) ∧
    (let r := (s.host.inval.get 0 0 % 2 ^ 16, s.host.inval.get 0 1 / 2 ^ 12 % 2 ^ 45 * 4096, s.host.inval.get 0 2)
     (s.host.invRun = none → exec (.inval v) s = .next (hostNow s fun h => { h with invRun := some r })) ∧
     (s.host.invRun ≠ none → exec (.inval v) s = .next (hostNow s fun h => { h with invHeld := h.invHeld ++ [r] }))) ∧
    (∀ c lo n, s.host.invRun = some (c, lo, n) → s.ops = [] → migPrep s c lo n = false → seqwPaths s c lo n = [] → ∃ t, exec .invalidationComplete s = .next t ∧
      t = { s with cores := t.cores, dies := t.dies, host := t.host, lines := t.lines } ∧
      (∀ l, t.line l = if l ∈ movedLines s c lo n then { s.line l with prev := none } else s.line l) ∧
      t.host = { s.host with invRun := s.host.invHeld.head?, invHeld := s.host.invHeld.tail } ∧
      (let dropped (x : Tlb) : Prop := x.ctx = c ∧ x.va < lo + n ∧ lo < x.va + 2 ^ pageBits x.size
       (∀ k x, x ∈ (t.core k).tlb ↔ x ∈ (s.core k).tlb ∧ ¬dropped x) ∧ ∀ d x, x ∈ (t.die d).tlb ↔ x ∈ (s.die d).tlb ∧ ¬dropped x)) ∧
    (∀ pa n, 0 < n → lineOf pa = lineOf (pa + n - 1) → pa / 2 ^ 57 = 0 ∨ pa / 2 ^ 57 = 2 →
      (codeFrame s pa = false → ∃ t, exec (.hostMemoryAccess true pa n v) s = .next t ∧ t.mem = putBytes s.mem pa (bytesLE n v) ∧ t.cores = s.cores ∧
        ∀ l, s.lines.find? (lineOf pa) = some l → t.lines.find? (lineOf pa) = some { l with stamp := 0, ref := none, prev := none, vlost := none } ∨
          (t.lines.find? (lineOf pa) = none ∧ l.prep = none)) ∧
      (codeFrame s pa = true → exec (.hostMemoryAccess true pa n v) s = .next s) ∧ exec (.hostMemoryAccess false pa n v) s = .next s)

/-- R195, R362, R363, R367, Table HST.2, Table HST.4: POWER moves the device between its states, with its clocks at their full rates outside a cap, refusing a cap out of range and
retention beside a resident context; an image out of range is rejected unread; a verified image is staged and takes over at the check of the
next reset, or at once in boot state 0xFE; a reset keeps memory and what non-volatile storage holds, a loss of power no memory; heat caps the
device until it is lifted, and trips it. What stays over a reset and a loss of power, and the history entries kept, are in part the
model's choices (logs 31, 34); the key and the layout of a firmware image are free (log 15), and the clocks under a cap (log 17). -/
def Obligations.BootAndPower : Prop :=
  ∀ (v : Nat) (s : State),
    (Served s → v % 4 = 0 → ∃ t, exec (.powerRun v) s = .next t ∧ t = { s with power := t.power, ctxs := t.ctxs, clocks := t.clocks } ∧
      (s.power.limit = false → t.clocks.ar = Clocks.reset.ar ∧ t.clocks.net = Clocks.reset.net) ∧
      t.power = { s.power with st := (if s.power.limit then .capped else .run), req := 0, cap := v / 2 ^ 16 % 2 ^ 16, refused := false, lastReq := 0 }) ∧
    (Served s → v % 4 = 1 →
      let w := v / 2 ^ 16 % 2 ^ 16
      (600 ≤ w → w ≤ 3400 → ∃ t, exec (.powerCapped v) s = .next t ∧ t = { s with power := t.power, ctxs := t.ctxs } ∧
        t.power = { s.power with st := .capped, req := 1, cap := w, refused := false, lastReq := 1, lastCap := w } ∧
        (s.power.st = .run → ∀ c x, s.ctx? c = some x → ∃ h, t.ctx? c = some { x with hist := h } ∧
          h.getLast? = some (stampClk s * 2 ^ 12 + stampDie s 0 * 2 ^ 4, 1))) ∧
      (w < 600 ∨ 3400 < w → exec (.powerCapped v) s = .next { s with power := { s.power with req := 1, cap := w, refused := true } })) ∧
    (Served s → v % 4 = 2 →
      let w := v / 2 ^ 16 % 2 ^ 16
      let live : Prop := ∃ x ∈ s.ctxs, x.2.st = .resident ∨ x.2.st = .quiescing
      (live → exec (.powerRetention v) s = .next { s with power := { s.power with req := 2, cap := w, refused := true } }) ∧
      (¬live → ∃ t, exec (.powerRetention v) s = .next t ∧ t = { s with power := t.power, ctxs := t.ctxs, clocks := t.clocks } ∧
        t.power = { s.power with st := .retention, req := 2, cap := w, refused := false, lastReq := 2 })) ∧
    (s.power.st ≠ .off → v % 2 = 1 → s.host.imgSt ≠ .reading → s.host.imgSt ≠ .verifying →
      let n := s.host.imgLen
      exec (.imgGo v) s = .next (hostNow s fun h =>
        { h with imgSt := if n % 128 = 0 ∧ 4096 ≤ n ∧ n ≤ 67108864 then .reading else .rejected })) ∧
    (s.power.st ≠ .off → s.host.imgSt = .verifying →
      (imageOk s.host.imgBuf = false → exec (.imageVerified false) s = .next (hostNow s fun h => { h with imgSt := .rejected, imgBuf := [] })) ∧
      (imageOk s.host.imgBuf = true → ∃ t, exec (.imageVerified true) s = .next t ∧ t.mem = s.mem ∧
        (s.boot ≠ .failed → t.boot = s.boot ∧ t.host.imgSt = .staged ∧ t.staged = some s.host.imgBuf ∧ t.booting = s.booting) ∧
        (s.boot = .failed → t.boot = .checking ∧ t.ctxs = [] ∧ t.booting = some s.host.imgBuf))) ∧
    (s.power.st ≠ .off → s.boot = .checking → s.power.tripped = none →
      (∀ i, s.booting = some i → imageOk i = true →
        exec (.firmwareCheckEnd true) s = .next { s with image := i, booting := none, boot := .ready }) ∧
      ((∀ i, s.booting = some i → imageOk i = false) → imageOk s.image = true →
        exec (.firmwareCheckEnd true) s = .next { s with staged := s.staged.or s.booting, booting := none, boot := .ready }) ∧
      ((∀ i, s.booting = some i → imageOk i = false) → imageOk s.image = false →
        exec (.firmwareCheckEnd false) s = .next { s with staged := s.staged.or s.booting, booting := none, boot := .failed })) ∧
    (∀ d k, s.power.st ≠ .off → s.boot = .checking → s.booting = none → imageOk s.image = true → s.power.tripped = some (d, k) → EventRoom s →
      ∃ t, exec (.firmwareCheckEnd true) s = .next t ∧ t.boot = .ready ∧ t.power.tripped = none ∧ Posts s t 9 0 [(1, d), (1, 2), (2, k)]) ∧
    (∃ t, exec .reset s = .next t ∧ t.mem = s.mem ∧ t.boot = .checking ∧ t.power.st = .run ∧ t.ctxs = [] ∧ t.groups = [] ∧ t.ops = [] ∧
      t.queues = [] ∧ t.cores = [] ∧ t.quads = [] ∧ t.parts = [] ∧ t.dies = [] ∧ t.bounds = [] ∧ t.host = .reset ∧ t.image = s.image ∧
      t.booting = s.staged.or s.booting ∧ t.staged = none ∧ ∀ f, t.page f = .queued) ∧
    (∃ t, exec .powerLoss s = .next t ∧ t.power.st = .off ∧ t.groups = [] ∧ t.ops = [] ∧ t.queues = [] ∧ t.image = s.image ∧ t.staged = s.staged.or s.booting ∧
      (∀ a, t.byte a = if a < 2 * 2 ^ 57 then 0 else s.byte a) ∧
      ∀ c ∈ t.ctxs, c.2.st = .destroyed ∧ ∀ r ∈ c.2.regions, r.bytes.c = r.bytes.m ∧ r.macs.c = r.macs.m) ∧
    (∀ d k, s.power.st ≠ .off → d ≤ 3 → 105 ≤ k → s.power.limit = false → EventRoom s → ∃ t, exec (.thermalLimit d k) s = .next t ∧
      t.power.limit = true ∧ t.power.st = (if s.power.st = .retention then .retention else .capped) ∧ Posts s t 9 0 [(1, d), (1, 0), (2, k)]) ∧
    (s.power.st ≠ .off → s.power.limit = true → EventRoom s → ∃ t d k, exec .thermalLift s = .next t ∧ t.power.limit = false ∧
      t.power.st = (if s.power.st = .retention then .retention else if s.power.lastReq = 1 then .capped else .run) ∧
      Posts s t 9 0 [(1, d), (1, 1), (2, k)]) ∧
    (∀ d k, s.power.st ≠ .off → d ≤ 3 → 115 ≤ k → ∃ t, exec (.thermalTrip d k) s = .next t ∧ t.power.st = .off ∧ t.power.tripped = some (d, k) ∧
      t.groups = [] ∧ ∀ a, a < 2 * 2 ^ 57 → t.byte a = 0)

/-- R183, R184, R191, R195, R215, R217, R218: quiescence ends with the context saved, its groups out of issue and its image kept, or in
scrubbing; scrubbing ends with its number free; a kernel ends with its completion; the request at the head of a queue takes its seats, each
group starting with its values; a request that waits long enough may evict another, which enters its queue again. What a final report
is kept in, what a finishing kernel waits for, how long the head waits after an eviction, which waits are blocking points, and that seats are taken
first fit are the model's choices (logs 28, 30, 58, 57, 29). -/
def Obligations.ContextEvents : Prop :=
  ∀ (c : Nat) (s : State),
    (∀ x, s.ctx? c = some x → x.st = .quiescing → s.pipe = [] → (∀ o ∈ s.ops, o.2.ctx ≠ c) → (∀ q ∈ s.queues, q.2.busy = none) →
      (∀ g ∈ s.groups, g.2.ctx = c → ∀ p ∈ g.2.paths, ∀ f ∈ p.2.frames, f.st ≠ .promoting) →
      (∀ d ∈ s.dies, ∀ f ∈ d.2.faults, f.2.ctx = c → f.2.frames = []) →
      (∀ k ∈ s.cores, (k.2.sort.st ≠ .loading ∧ k.2.sort.st ≠ .running ∧ k.2.sort.st ≠ .storing) ∧ ∀ t ∈ k.2.tiles, t.2.held = 0) →
      (x.after_ ≠ some .destroy → ∃ t i l, exec (.quiescenceEnd c) s = .next t ∧
        t.ctx? c = some { x with st := .saved, after_ := none, image := some i, replays := x.replays ++ l } ∧
        (∀ q r, (q, r) ∈ i.quads ↔ (q, r) ∈ s.quads ∧ r.owner = c) ∧ t.mem = s.mem ∧ (∀ e ∈ l, e.kind = 2) ∧
        (∀ j g k p d f, s.group? j = some g → g.ctx = c → g.paths.find? k = some p → (d, f) ∈ s.dies → parkedIn f (j, k) p →
          ∃ e ∈ l, e.gid = j ∧ e.slot = k ∧ ∀ a ∈ f.faults, (j, k) ∈ a.2.paths ++ a.2.claims → (a.2.va, a.2.kind) ∈ e.waits) ∧
        ∀ j, t.group? j = (s.group? j).map fun g => if g.ctx = c then { g with resident := false } else g) ∧
      (x.after_ = some .destroy → ∃ t, exec (.quiescenceEnd c) s = .next t ∧ (t.ctx? c).map Ctx.st = some .scrubbing ∧ ∀ g ∈ t.groups, g.2.ctx ≠ c)) ∧
    (∀ x, s.ctx? c = some x → x.st = .scrubbing → c ≠ 0 →
      ((∀ f ∈ x.scrub, s.page f = .clean ∨ s.page f = .allocated) → ∃ t, exec (.contextScrubEnd c) s = .next t ∧ t.ctx? c = none ∧
        ∀ q, (t.quad q).owner ≠ c) ∧
      ((∃ f ∈ x.scrub, s.page f = .queued ∨ s.page f = .scrubbing) → exec (.contextScrubEnd c) s = .next s)) ∧
    (∀ x, s.ctx? c = some x → x.st = .migrating → ∃ t b, exec (.migrationExportEnd c) s = .next t ∧ (t.ctx? c).map Ctx.st = some .scrubbing ∧
      t.reports = s.reports ++ [(c, b)] ∧ ∀ g ∈ t.groups, g.2.ctx ≠ c) ∧
    (∀ k, s.kernels.find? c = some k → k.st = .finishing →
      ((∀ o ∈ s.ops, o.2.gid ∈ k.gids → notPerformed o.2 = false) → exec (.kernelDone c) s =
        .next (complete k.q k.seq 0 k.grid.toNat { s with kernels := s.kernels.put c { k with st := .done } })) ∧
      ((∃ o ∈ s.ops, o.2.gid ∈ k.gids ∧ notPerformed o.2 = true) → exec (.kernelDone c) s = .next s)) ∧
    (∀ core x r rest q tid tm k co l, s.ctx? c = some x → x.st = .resident → allotQueue s core c = r :: rest → s.reqs.find? r = some q →
      q.ctx = c → q.core = core → q.coop = false → q.gids = [] → q.kind = .team tid → s.teams.find? tid = some tm → tm.regroups = [] →
      s.kernels.find? tm.kernel = some k → s.cohorts.find? tm.cohort = some co → k.troupe = false → k.args.length ≤ 8 →
      seatReq s c core false (teamWants k) (seatsOf s core) = some l → ∃ t, exec (.allotment core c) s = .next t ∧ t.mem = s.mem ∧
        ∀ i st, l[i]? = some st →
          let n := (co.no * k.teams + tm.no) * k.groups + i
          ∃ g p, t.group? (s.nextId + i) = some g ∧ g.paths = [(0, p)] ∧ p.pc = BitVec.ofNat 64 k.entry ∧ p.mask = BitVec.allOnes 32 ∧ p.cond = .ready ∧
            g.ctx = c ∧ g.place = st.place ∧ g.base = st.base ∧ g.budget = st.budget ∧ g.resident = true ∧ g.kind = .grid ∧ g.grp = i ∧
            g.teamNo = tm.no ∧ g.cohort = co.no ∧ g.grid = k.grid ∧ g.fpmode = k.fpmode ∧ g.frbase = k.frbase + BitVec.ofNat 64 (k.frsize * n) ∧
            g.nrec = k.frsize / 1152 ∧ (∀ j a, k.args[j]? = some a → rS g (j + 1) = a) ∧
            rS g 126 = k.stack + k.stacksize * BitVec.ofNat 64 (n + 1) ∧ ∀ m j, rV g m j = 0) ∧
    (∀ core x r rest h τ v τv q, s.ctx? c = some x → x.st = .resident → allotQueue s core c = r :: rest → s.reqs.find? r = some h → h.headAt = some τ →
      headFit s core c = none → evictable s core c = [(v, τv)] → s.reqs.find? v = some q →
      (s.cycles < τ + 262144 → exec (.evictionBound core c) s = .next s) ∧
      (τ + 262144 ≤ s.cycles → ∃ t, exec (.evictionBound core c) s = .next t ∧ t.mem = s.mem ∧
        (∃ q', t.reqs.find? v = some q' ∧ q'.placed = false ∧ q'.gids = q.gids) ∧
        ∀ j ∈ q.gids, ∀ g, s.group? j = some g → ∃ g', t.group? j = some g' ∧ g'.resident = false ∧ g'.v = g.v ∧ g'.s = g.s ∧ g'.m = g.m)) ∧
    (∀ q j g p, s.reqs.find? c = some q → q.placed = false → q.queued = false → q.coop = false → j ∈ q.gids → s.group? j = some g → p ∈ g.paths →
      p.2.cond = .ready → ownsCore s q.ctx q.core = true → ∃ t q', exec (.evictedRequeue c) s = .next t ∧
        t = { s with reqs := t.reqs, cores := t.cores } ∧ t.reqs.find? c = some q' ∧ q'.queued = true ∧ q'.gids = q.gids ∧ q'.core = q.core ∧
        (t.core q.core).allot.get [] q.ctx = (s.core q.core).allot.get [] q.ctx ++ [c])

/-- R317, R318, R326 to R328, R338, R339, R366, Table PAG.3, Table HST.5: a queued frame is scrubbed by one of its die's two engines and is then
clean, every byte 0 and nothing of it cached; memory errors, check failures and failed links are reported to the host; a packet that is
dropped ends its instruction, for the line that it was sent for, with a LOST notice, or by its timeout where no notice was sent, the error bit
of its class set, and a reply that comes after the timeout is logged; and a packet in a slot of a ring hops to the lap slot of the next input,
lap 1 past the dateline, else, while two are free on its ring, to the escape slot, which an active message takes at its destination, else stays
(R324, R329 to R331). What the spec leaves open is the model's choice: that a packet is shown by the schedule, hops by a step of its own, and
where an error in it is found (log 16), how frames lie on dies (log 4), that an error is told once (log 101), which stop a link has (log 103)
and that each record reports one packet (log 95). -/
def Obligations.PagesAndLinkEvents : Prop :=
  (∀ (die f : Nat) (s : State), s.page f = .queued → frameOn die 0 f = true ∨ frameOn die 1 f = true →
    let busy := (s.pages.filter fun p => p.2 = .scrubbing && (frameOn die 0 p.1 || frameOn die 1 p.1)).length
    (busy < 2 → ∃ t, exec (.pageScrubStart die f) s = .next t ∧ t = { s with pages := t.pages } ∧
      ∀ x, t.page x = if x = f then .scrubbing else s.page x) ∧
    (2 ≤ busy → exec (.pageScrubStart die f) s = .next s)) ∧
  (∀ (f : Nat) (s : State), s.page f = .scrubbing → (∀ q ∈ s.queues, q.2.busy = none) → ∃ t, exec (.pageScrubEnd f) s = .next t ∧
    (∀ x, t.page x = if x = f then .clean else s.page x) ∧ (∀ a, t.byte a = if f ≤ a ∧ a < f + 4096 then 0 else s.byte a) ∧
    (∀ a, f ≤ a → a < f + 4096 → t.lines.find? a = none) ∧ (∀ k, ∀ l ∈ (t.core k).l1, ¬(f ≤ l.line ∧ l.line < f + 4096)) ∧
    ∀ d ∈ t.dies, ∀ x ∈ d.2.dirs, ∀ l ∈ x.2.wait, ¬(f ≤ l ∧ l < f + 4096)) ∧
  (∀ (die kind pa : Nat) (s : State), die ≤ 3 → kind ≤ 3 → s.ops = [] → EventRoom s →
    let line := pa / 128 * 128
    ∃ t, exec (.memoryError die kind pa) s = .next t ∧ Posts s t 5 0 [(1, die), (1, kind), (2, 0), (8, line)] ∧
      (∀ d v h, kind = 3 → (s.line line).prev = some (d, v, h) →
        t.line line = { s.line line with prev := none, vlost := some v }) ∧ (∀ a, kind ≠ 3 ∨ a ≠ line → t.line a = s.line a) ∧
      (kind ≠ 3 → t.memErrs.find? line = some ([(1, die), (1, kind), (2, 0), (8, line)], []))) ∧
  (∀ (die kind pa : Nat) (s : State), 3 < die → exec (.memoryError die kind pa) s = .next s) ∧
  (∀ (o kind die stop port sender : Nat) (s : State) (op : Op), s.ops.find? o = some op → kind ≤ 3 → die ≤ 3 → onWay op = true ∨ replyOnWay op = true →
    foundAt s o op die stop port = true → (∀ p, shown s o = some p → kind = 3 → identityBad s p = true) → EventRoom s →
    (∀ p, shown s o = some p → sender = p.sdev % 64 * 2 ^ 8 + p.sdie * 2 ^ 6 + p.sstop) →
    (shown s o = none → replyOnWay op = false ∧ replies s op = [] ∧ sender = s.domain % 64 * 2 ^ 8 + op.core / 48 * 2 ^ 6 + op.core % 48) →
    let fetched : Prop := ∃ m, op.kind = .mem m ∧ m.cls = 4
    ∃ t q, exec (.packetCheckFailure o kind die stop port) s = .next t ∧ Posts s t 3 0 [(1, die), (1, stop), (1, port), (1, kind), (2, sender), (2, 0), (4, 1)] ∧
      t.ops.find? o = some q ∧ (kind = 0 → q = op ∧ t.torus = s.torus) ∧
      (kind ≠ 0 → (t.die die).linkLog = (s.die die).linkLog ++ [(64 * stop + port, kind, sender)] ∧ (∀ p ∈ t.torus, p.2.job = .op → p.2.op ≠ o) ∧
        q = { op with lost := q.lost, lostAt := q.lostAt } ∧ (∀ p, shown s o = some p → q.lostAt = p.line) ∧
        (kind ≠ 2 → replyOnWay op = false ∨ fetched → q.lost = 1) ∧ (kind = 2 ∨ (replyOnWay op = true ∧ ¬fetched) → q.lost = 2))) ∧
  (∀ (o : Nat) (s : State) (op : Op) (m : MemOp) (g : Group), s.ops.find? o = some op → op.kind = .mem m → s.group? op.gid = some g → m.k = .store →
    let left : Prop := ∃ l ∈ m.lanes, l.done = false ∧ lineOf l.pa ≠ op.lostAt
    let ended (t : State) : Prop := (¬left → t.ops.find? o = none) ∧ (left → ∃ q m', t.ops.find? o = some q ∧ q.kind = .mem m' ∧ q.lost = 0 ∧
      m'.lanes.map (fun l => (l.lane, l.done)) = m.lanes.map fun l => (l.lane, l.done || decide (lineOf l.pa = op.lostAt))) ∧
      ∃ h, t.group? op.gid = some h ∧ h.err = g.err ||| 2 ^ m.cls
    (op.lost = 1 → ∃ t, exec (.lostNotice o) s = .next t ∧ ended t) ∧
    (op.lost = 2 → 2 ^ 22 ≤ s.clocks.nets - op.born → ∃ t, exec (.transactionTimeout o) s = .next t ∧ ended t ∧ s.host.eqSeq < t.host.eqSeq ∧
      t.late.find? o = some (op.ctx, op.core)) ∧
    (op.lost = 2 → s.clocks.nets - op.born < 2 ^ 22 → exec (.transactionTimeout o) s = .next s)) ∧
  (∀ (o c core : Nat) (s : State), s.ops.find? o = none → s.late.find? o = some (c, core) → EventRoom s → s.ctx? c = none →
    ∃ t, exec (.loadReply o) s = .next t ∧ t.late.find? o = none ∧ Posts s t 4 c [(2, Config.tag o % 2 ^ 16), (1, core / 48), (1, core % 48), (1, 1)]) ∧
  (∀ (o : Nat) (s : State) (op : Op) (an re ka kr reg n : Nat) (g : Group) (x : Ctx), s.ops.find? o = some op → op.kind = .submit an re ka kr reg n → op.lost = 1 →
    0 < reg → s.group? op.gid = some g → s.ctx? op.ctx = some x → x.st = .resident → ∃ t h, exec (.lostNotice o) s = .next t ∧ t.ops.find? o = none ∧
      t.group? op.gid = some h ∧ h.err = g.err ||| 8 ∧ ∀ k, rS h k = setS g reg 0 k) ∧
  (∀ (n dir st d st0 lap : Nat) (wrap : Bool) (rest : List Act) (s : State) (p : Packet), s.agenda = .hop n :: rest → s.torus.find? n = some p →
    p.live s = true → p.whole s = true → p.pos = .lap d st0 dir lap → p.hop s = .ring dir st wrap →
    linkRoom s s.packets p.len (.lap d st dir 0) (d, st0) = true →
    let l := if wrap then 1 else lap
    let ends : Prop := p.stays s = true ∧ d = p.ddie ∧ st = p.dstop
    let full : Prop := ends ∨ 4 < lapUse s.packets p.net (.lap d st dir l) + p.len
    let taken : Prop := escTaken s.packets p.cls p.net d st dir = true ∨ freeEsc s.packets p.cls p.net d st dir < 2
    let goes (x : PPos) : Prop := ∃ t, step s = .next t ∧ t = { s with agenda := rest, torus := t.torus } ∧
      (({ p with pos := x } : Packet).arrived s = false ∨ ends → t.torus.find? n = some { p with pos := x, hopped := s.clocks.nets })
    (¬full → goes (.lap d st dir l)) ∧ (full → ¬taken → goes (.esc d st dir l)) ∧ (full → taken → step s = .next { s with agenda := rest })) ∧
  (∀ (link : Nat) (s : State), link ≤ 11 → link ∉ s.linkDown → s.ops = [] → EventRoom s → ∃ t, exec (.linkFailure link) s = .next t ∧
    t.linkDown = s.linkDown ++ [link] ∧ ∃ stop, Posts s t 3 0 [(1, link / 3), (1, stop), (1, 16 + link), (1, 4),
      (2, s.domain % 64 * 2 ^ 8 + link / 3 * 2 ^ 6 + stop), (2, 0), (4, 1)])

/-- R344 to R346, R349, R351, R356 to R358: a free handler position takes the next trap, starting the Porter where it is attached and takes the
cause, else the handler of task-type entry 255, else a double fault; and the Porter's operations, each with its reply. Which group a number
names, the words of RDREG and WRREG, what a DETACH does, the handler's position and its place beside others, that an operation answers in one
step, and how a comparator is passed over once are the model's choices (logs 37, 39, 38, 66, 92, 94). -/
def Obligations.HandlersAndPorter : Prop :=
  (∀ (part gid slot : Nat) (rest : List (Nat × Nat)) (s : State) (g : Group) (p : Path) (t : TrapRec) (x : Ctx),
    (∀ h ∈ s.groups, ¬(h.2.resident = true ∧ h.2.place = handlerPlace part)) → (s.part part).trapq = (gid, slot) :: rest →
    s.group? gid = some g → g.paths.find? slot = some p → p.cond = .trapped t → p.halted = false → g.resident = true → g.kind = .grid →
    s.ctx? g.ctx = some x → x.st = .resident →
    let info := t.rep * 2 ^ 58 + slot * 2 ^ 48 + (64 * g.place.quad + 16 * g.place.part + g.place.pos % 16) * 2 ^ 40 + p.mask.toNat
    let served (u : State) (k : GKind) (pc fr : W64) (c : Cond) : Prop := (u.part part).trapq = rest.filter (· ≠ (gid, slot)) ∧
      ∃ h q, u.group? s.nextId = some h ∧ h.kind = k ∧ h.ctx = g.ctx ∧ h.place = handlerPlace part ∧ h.budget = 32 ∧ h.grid = g.grid ∧
        h.teamNo = g.teamNo ∧ h.cohort = g.cohort ∧ h.frbase = fr ∧ h.nrec = 16 ∧ h.trapcause.toNat = t.cause.code ∧ h.trapaddr = t.addr ∧
        h.trapdata = t.data ∧ h.trapinfo = BitVec.ofNat 64 info ∧ (∀ n, rS h n = 0) ∧ (∀ n l, rV h n l = 0) ∧ h.paths = [(0, q)] ∧ q.pc = pc ∧
        q.mask = BitVec.allOnes 32 ∧ q.cond = c
    (∀ e, (t.cause ≠ .brk ∧ t.cause ≠ .step) ∨ x.porter = false → x.tasks.find? 255 = some e → e.valid = true →
      ∃ u, exec (.handlerStart part) s = .next u ∧ u.mem = s.mem ∧ served u (.trapH gid slot) e.entry e.frbase .ready) ∧
    (x.porter = false → x.tasks.find? 255 = none → EventRoom s → ∃ u, exec (.handlerStart part) s = .next u ∧
      (u.ctx? g.ctx).map Ctx.st = some .quiescing ∧ (u.ctx? g.ctx).map Ctx.after_ = some (some .save) ∧
      Posts s u 6 g.ctx [(1, t.cause.code), (1, 64 * g.place.quad + 16 * g.place.part + g.place.pos % 16), (1, slot), (1, 0), (8, t.addr.toNat)]) ∧
    (t.cause = .brk ∨ t.cause = .step → x.porter = true → s.host.p2hFull = false → s.host.p2hHeld = [] → ∃ u, exec (.handlerStart part) s = .next u ∧
      served u (.porter gid slot) 0 0 (.waiting .porter) ∧
      u.mem = putBytes s.mem (locKey 2 (s.host.p2hBase + 64 * (s.host.p2hTail % 16))) ([13 * 2 ^ 48 + g.ctx * 2 ^ 32,
        64 * g.place.quad + 16 * g.place.part + g.place.pos % 16, slot, t.cause.code, t.addr.toNat, 0, 0, 0].flatMap (bytesLE 8)))) ∧
  (∀ (m : Msg) (s : State), Message 1 m s → s.host.p2hHeld = [] → s.ctx? m.ctx = none → ∃ t, exec (.attach m) s = .next t ∧
    t.mem = putBytes s.mem (locKey 2 (s.host.p2hBase + 64 * (s.host.p2hTail % 16)))
      ([(1 + 2 ^ 15) * 2 ^ 48 + m.ctx * 2 ^ 32 + m.seq, 2, 0, 0, 0, 0, 0, 0].flatMap (bytesLE 8)) ∧
    t.host = { s.host with h2pHead := (s.host.h2pHead + 1) % 2 ^ 32, p2hTail := (s.host.p2hTail + 1) % 2 ^ 32 }) ∧
  (∀ (m : Msg) (s : State) (x : Ctx), Message 1 m s → s.ctx? m.ctx = some x →
    (x.debugen = false ∨ s.power.st = .retention → exec (.attach m) s = replies m 1 [] (taken s)) ∧
    (x.debugen = true → s.power.st ≠ .retention →
      exec (.attach m) s = replies m 0 [] ((taken s).modCtx m.ctx fun y => { y with porter := true, porterEver := true }))) ∧
  (∀ (m : Msg) (s : State), attached s m.ctx = false → ∀ o ∈ porterCalls m, Message o.1 m s → exec o.2 s = replies m 1 [] (taken s)) ∧
  (∀ (m : Msg) (s : State) (x : Ctx), s.ctx? m.ctx = some x → x.porter = true →
    (Message 2 m s → (∀ g ∈ s.groups, ∀ a b, g.2.kind ≠ .porter a b) → ∃ u, exec (.detach m) s = replies m 0 [] u ∧
      u.ctx? m.ctx = some { x with porter := false, cmps := [] } ∧ ∀ gid slot g p, s.group? gid = some g → g.ctx = m.ctx → g.paths.find? slot = some p →
        (∀ t, p.cond ≠ .trapped t) → u.path? gid slot = some { p with stepReq := 0, halted := false }) ∧
    (Message 3 m s → mw m 1 = 2 ^ 64 - 1 → (s.groups.map Prod.fst).Nodup → ∃ u, exec (.porterHalt m) s = replies m 0 [] u ∧
      ∀ gid slot g p, s.group? gid = some g → g.paths.find? slot = some p → u.path? gid slot =
        some (if g.ctx = m.ctx ∧ g.isHandler = false then { p with halted := true } else p)) ∧
    (Message 7 m s → (mw m 1 ≤ 7 → mw m 2 % 4 = 0 → exec (.setbrk m) s = replies m 0 [] ((taken s).modCtx m.ctx fun y =>
        { y with cmps := y.cmps.put (mw m 1) (mw m 2) })) ∧ (7 < mw m 1 ∨ mw m 2 % 4 ≠ 0 → exec (.setbrk m) s = replies m 2 [] (taken s))) ∧
    (Message 8 m s → (mw m 1 ≤ 7 → exec (.clrbrk m) s = replies m 0 [] ((taken s).modCtx m.ctx fun y => { y with cmps := y.cmps.del (mw m 1) })) ∧
      (7 < mw m 1 → exec (.clrbrk m) s = replies m 2 [] (taken s))) ∧
    (Message 11 m s → 1 ≤ mw m 2 → mw m 2 ≤ 40 →
      (∀ bs, noRegion x (mw m 1) (mw m 2) = true → ctxRead (taken s) m.ctx (mw m 1) (mw m 2) = some bs → exec (.rdmem m) s =
        replies m 0 (0 :: (List.range 5).map fun i => ofBytesLE ((bs.drop (8 * i)).take 8)) (taken s)) ∧
      (noRegion x (mw m 1) (mw m 2) = false → exec (.rdmem m) s = replies m 1 [] (taken s))) ∧
    (Message 12 m s → mw m 2 = 1 → badVa (mw m 1) = false →
      let va := mw m 1 % 2 ^ 57
      (inRegion x va = true ∨ inCode x va = true → exec (.wrmem m) s = replies m 1 [] (taken s)) ∧
      (inRegion x va = false → inCode x va = false → ∀ s1 k, walkNow (taken s) m.ctx va Need.write = (s1, some k) →
        exec (.wrmem m) s = replies m 0 [] (homeWrite s1 none k [BitVec.ofNat 8 (mw m 3)]))) ∧
    (∀ gid g slot p, byPgroup s m.ctx (mw m 1) = some (gid, g) → s.group? gid = some g → mw m 2 = slot → mw m 1 ≠ 2 ^ 64 - 1 →
      g.paths.find? slot = some p →
      (Message 3 m s → exec (.porterHalt m) s = replies m 0 [] ((taken s).modPathAt gid slot fun q => { q with halted := true })) ∧
      ((∀ h ∈ s.groups, h.2.kind ≠ .porter gid slot) →
        (Message 4 m s → exec (.porterResume m) s = replies m 0 [] ((taken s).modPathAt gid slot fun q => { q with halted := false })) ∧
        (Message 5 m s → exec (.porterStep m) s = replies m 0 [] ((taken s).modPathAt gid slot fun q => { q with halted := false, stepReq := 1, stepAt := q.pc, stepNext := q.after_ }))) ∧
      ((∀ h ∈ s.groups, ∀ b, h.2.kind ≠ .porter gid b) → Message 6 m s → ∃ u, exec (.stepgrp m) s = replies m 0 [] u ∧
        ∀ j q, g.paths.find? j = some q → u.path? gid j = some { q with halted := false, stepReq := 1, stepAt := q.pc, stepNext := q.after_ }) ∧
      (∀ hid h t, Message 4 m s → List.find? (fun (y : Nat × Group) => y.2.kind = .porter gid slot) s.groups = some (hid, h) → hid ≠ gid →
        p.cond = .trapped t → t.after_ = false → badTarget h.trapaddr = none → ∃ u q, exec (.porterResume m) s = replies m 0 [] u ∧
          u.group? hid = none ∧ u.path? gid slot = some q ∧ q.cond = .ready ∧ q.pc = h.trapaddr ∧ q.halted = false ∧
          q.skipCmp = if h.trapaddr ≠ t.addr then [] else if t.cause = .brk then p.skipCmp ++ [t.data.toNat] else p.skipCmp) ∧
      (let i := mw m 4
       let w (v : Nat) := replies m 0 [0, 0, 0, v % 2 ^ 64, v / 2 ^ 64] (taken s)
       Message 9 m s → (mw m 3 = 0 → i < g.budget → exec (.rdreg m) s = w (rV g i ((lanesOf p.mask).headD 0)).toNat) ∧
        (mw m 3 = 1 → i < 128 → exec (.rdreg m) s = w (rS g i).toNat) ∧
        (mw m 3 = 2 → i < 8 → exec (.rdreg m) s = w (if i = 0 then p.mask else g.m.get 0 i).toNat) ∧
        (mw m 3 = 3 → i < 16 → exec (.rdreg m) s = w (((g.rstack[i]?).map REntry.bits).getD 0))) ∧
      (let i := mw m 4
       let v := BitVec.ofNat 64 (mw m 5)
       Message 10 m s →
        (mw m 3 = 0 → i < g.budget → ∃ u h, exec (.wrreg m) s = replies m 0 [] u ∧ u.group? gid = some h ∧ (∀ n, rS h n = rS g n) ∧
          ∀ n l, l < 32 → rV h n l = if n = i ∧ p.mask.getLsbD l then v else rV g n l) ∧
        (mw m 3 = 1 → i < 128 → ∃ u h, exec (.wrreg m) s = replies m 0 [] u ∧ u.group? gid = some h ∧ (∀ n, rS h n = setS g i v n) ∧
          ∀ n l, rV h n l = rV g n l) ∧
        (mw m 3 = 2 → 0 < i → i < 8 → ∃ u h, exec (.wrreg m) s = replies m 0 [] u ∧ u.group? gid = some h ∧
          ∀ n, h.m.get 0 n = setM g i (BitVec.ofNat 32 (mw m 5 % 2 ^ 64)) n) ∧
        (mw m 3 = 3 → i < 16 → i < g.rstack.length → ∃ u h, exec (.wrreg m) s = replies m 0 [] u ∧ u.group? gid = some h ∧
          h.rstack = g.rstack.set i (REntry.ofBits (mw m 5 + 2 ^ 64 * mw m 6))) ∧
        (mw m 3 = 2 → i = 0 → exec (.wrreg m) s = replies m 2 [] (taken s)) ∧
        (3 < mw m 3 → exec (.wrreg m) s = replies m 2 [] (taken s)))))

/-- R51, R53, R70, Table OPC.1, Table OPC.2: every instruction with a word of its own, with every operand its fields can hold, encodes to a
32-bit word that decodes to it; and a word that decodes is the word of what it decodes to, which is well formed: no bit is dropped, and
no two words are one instruction. -/
def Obligations.EncodeDecode : Prop :=
  (∀ i : Instr, i.hasWord = true → i.WF → encode i < 2 ^ 32 ∧ decodeWord (encode i) = some i) ∧
  (∀ (w : Nat) (i : Instr), w < 2 ^ 32 → decodeWord w = some i → i.hasWord = true ∧ i.WF ∧ encode i = w)

/-- Tables ASM.2, OPC.3, MEM.9, MTX.7, SRT.5, QUE.4, FRM.4, BAR.4, BND.5, LNK.4, TRP.5: words that the
manual writes out decode to the instructions that it gives them for, and its illegal words to none. -/
def Obligations.ManualWords : Prop :=
  (∀ x ∈ ([(0x04014307, .sadd 5 6 7), (0x4042858C, .vadd 2 10 11 12), (0x10183FFF, .saddi 3 3 0xFFF), (0x3C1A0010, .vbr 3 2 16),
      (0x33FFFFEF, .br 0x3FFFFEF), (0xAC940000, .acczero 5), (0xF8000021, .trap 0x21), (0xF8070000, .brk 0), (0xFC000013, .hint 1 3),
      (0x94286FF8, .sld 5 6 0xFF8), (0xB0002003, .sxld 4 3), (0xC008A083, .fork 2 20 8 3), (0xC4202803, .bara 5 3), (0xC8A05140, .submit 10 20),
      (0xB8A05041, .bstat 10 4 1), (0xC8602080, .amsg 4 8), (0xF802A144, .rinj 1 1 5 4), (0xBD000000, .exit)] : List (Nat × Instr)),
    decodeWord x.1 = some x.2) ∧
  (∀ w ∈ [0x00000000, 0xD0000000, 0x43800000, 0x53C00000, 0xF80A0000, 0xFC000020, 0xBD004000, 0xB0002006, 0xB0200002, 0xAC205030, 0xC4600005,
      0xB8603802, 0xC8802863], decodeWord w = none)

/-- R25, R185, R244, R317, R335, R362, Table SRT.2, Table WRK.4, Table HST.2: right after reset the firmware image is being checked and the device runs; no
context, group, operation or queue exists; every frame waits to be scrubbed, the generators hold their first state, the arrays are
idle, run r of a core's banks belongs to quadrant r / 16, half of a boundary's wire groups go each way; and memory is canonical. -/
def Obligations.ResetState : Prop :=
  let s := State.reset
  MemOk s ∧ s.boot = .checking ∧ s.power.st = .run ∧ s.ctxs = [] ∧ s.groups = [] ∧ s.ops = [] ∧ s.queues = [] ∧ s.kernels = [] ∧ s.host.imgSt = .idle ∧
  s.host.eqTail = 0 ∧ s.host.eqHeld = [] ∧ s.staged = none ∧ (∀ f, s.page f = .queued) ∧ (∀ p, (s.part p).srseed = 0x6D2B79F5) ∧
  (∀ c, (s.core c).sort.st = .idle ∧ (s.core c).tiles = [] ∧ (s.core c).tags = [] ∧ (s.core c).sortq = 0 ∧ ∀ r, runQuad (s.core c) r = r / 16) ∧
  (∀ q, (s.quad q).owner = 0) ∧ (∀ d, (s.die d).faults = [] ∧ (s.die d).dirs = []) ∧
  ∀ b, ∀ w, w < 96 → (s.bound b).west / 2 ^ w % 2 = (if w < 48 then 0 else 1)

/-- R2, R5, R293 (log 3): bytes written are read back, the lowest at the lowest address, and no other byte changes; a value of n bytes reads as
itself modulo 2^(8n); and memory keeps its one canonical form, in which equal memories are equal lists. -/
def Obligations.MemoryReadsBack : Prop :=
  (∀ (m : SMap Byte) (pa a : Nat) (bs : List Byte), (putBytes m pa bs).get 0 a = if pa ≤ a ∧ a < pa + bs.length then bs.getD (a - pa) 0 else m.get 0 a) ∧
  (∀ (s : State) (pa n v : Nat), (s.wrN pa n v).rd pa n = v % 2 ^ (8 * n)) ∧
  (∀ (s : State) (pa : Nat) (bs : List Byte), MemOk s → MemOk (s.wr pa bs)) ∧
  (∀ s t : State, MemOk s → MemOk t → (∀ a, s.byte a = t.byte a) → s.mem = t.mem) ∧
  (∀ (s : State) (core : Option Nat) (pa : Nat) (bs : List Byte), bs ≠ [] → lineOf pa = lineOf (pa + bs.length - 1) →
    (homeWrite s core pa bs).mem = putBytes s.mem pa bs ∧ ((homeWrite s core pa bs).line (lineOf pa)).stamp = 0 ∧
    ((homeWrite s core pa bs).line (lineOf pa)).ref = none ∧ ((homeWrite s core pa bs).line (lineOf pa)).prev = none)

/-- Log 3 (the model's form of memory): whatever a step does, memory keeps its canonical form, from every state in which it has it. -/
def Obligations.MemoryKept : Prop := ∀ s t : State, MemOk s → step s = .next t → MemOk t

/-- R211, R335, R339, R362, R363, R367: no instruction of a program changes what the device as a whole is: its clocks, its boot and power
state, its firmware images, its number, routing and networks, and which links have failed. -/
def Obligations.DeviceKept : Prop := ∀ (i : Instr) (s t : State), i.hasWord = true → exec i s = .next t → SameDevice s t

/-- R63, R65, R66, R72, R225, R357, R358 (the order of a step is the model's, log 1): where a path issues and nothing traps at its boundary, the
step is exec of the instruction that the bytes at its pc decode to, in the state where it is the one that issues; with prefixes, of the
run's last word, its registers stepped for the repetition under rpt; a word that names none is illegal; and outside issue a step is the
event at the head of the agenda or due, a tick that is due before any issue, clocks that system software sets under a cap, or the end of
an arithmetic cycle, after which every path may issue again; in retention nothing but time passes (Table HST.2). -/
def Obligations.StepRunsDecoded : Prop :=
  (∀ (s0 s : State) (i : Issue) (g : Group) (p : Path) (k : Nat),
    ((∃ rest, s0.agenda = .issue i.gid i.slot :: rest ∧ tickDueNow s0 = none ∧ s = { s0 with agenda := rest } ∧ hasTurn s i.gid i.slot = some i) ∨
      (s0.agenda = [] ∧ dueEvent s0 = none ∧ pickPath s0 = some i ∧ s = s0)) → Fetches s i.gid i.slot g p k →
    (∀ n, decodeWord (s.rd k 4) = some n → step s0 = exec n (issuing s p i Prefixes.none 0)) ∧
    (∀ pre w n, fetchRun s g p runMax [] = .run (.instr pre w n) →
      let u := issuing s p i pre n
      (pre.rpt = none → step s0 = exec ((decodeWord w).getD .illopEncoding) u) ∧
      (∀ r w', pre.rpt = some r → stepWord w p.rep r = some w' → step s0 = exec ((decodeWord w').getD .illopEncoding) u) ∧
      (∀ r o t, pre.rpt = some r → stepWord w p.rep r = none → decodeWord w = some o →
        exec o (u.modGroup i.gid fun h => { h with kind := .grid }) = .next t →
        step s0 = .next (trapAt (if tookIllop t i.gid i.slot then .illop else .regbound) 0 u)))) ∧
  (∀ (s : State) (a : Act) (rest : List Act), s.agenda = a :: rest →
    let u : State := { s with agenda := rest }
    (∀ i, a = .event i → isEvent i = true → step s = exec i u) ∧
    (∀ n, a = .tick (n + 1) → tickDueNow s = none → step s = .next { cycle u with agenda := .tick n :: rest }) ∧
    (∀ gid slot, a = .issue gid slot → tickDueNow s = none → hasTurn u gid slot = none → step s = .next u) ∧
    (∀ i, a.timed = true → tickDueNow s = some i → step s = exec i s) ∧
    (∀ ar net, a = .clock ar net → s.power.st = .capped → Clocks.reset.ar ≤ ar → Clocks.reset.net ≤ net → ∃ t, step s = .next t ∧
      t = { u with clocks := t.clocks } ∧ t.clocks.ar = ar ∧ t.clocks.net = net ∧ t.clocks.ticks = s.clocks.ticks) ∧
    (a = .hold true → step s = .next { u with pipeHold := true }) ∧
    (a = .hold false → ∃ t, step s = .next t ∧ t.pipeHold = false ∧ t.pipe = []) ∧
    (∀ gid kind n g, a = .damage gid kind n → s.group? gid = some g → ∃ t, step s = .next t ∧
      t.group? gid = some { g with damaged := g.damaged ++ [(kind, n)] })) ∧
  (∀ s : State, s.agenda = [] → (∀ i, dueEvent s = some i → step s = exec i s) ∧
    (dueEvent s = none → pickPath s = none → step s = .next (cycle s))) ∧
  (∀ s : State, s.power.st ≠ .off → (cycle s).clocks.ticks = s.clocks.ticks + s.clocks.ar ∧
    (s.power.st ≠ .retention → (cycle s).cycles = s.cycles + 1 ∧ ∀ n, ((cycle s).part n).issued = []) ∧
    (s.power.st = .retention → (cycle s).cycles = s.cycles ∧ (cycle s).cores = s.cores ∧ (cycle s).groups = s.groups ∧ (cycle s).ops = s.ops)) ∧
  (∀ s : State, s.power.st = .off → cycle s = s)
end

