-- ==== Sys2Proof/Laws/SMap.lean ====
section
/-! SUPPORT. Sparse tables: reading after writing, and the canonical form kept by every operation. -/

namespace Sys2Proof.SMap
variable {α : Type}

@[simp] theorem find?_nil (k : Nat) : find? ([] : SMap α) k = none := rfl

theorem find?_cons (k' : Nat) (v : α) (t : SMap α) (k : Nat) :
    find? ((k', v) :: t) k = if k' = k then some v else find? t k := rfl

@[simp] theorem find?_put_self (m : SMap α) (k : Nat) (v : α) : (m.put k v).find? k = some v := by
  induction m with
  | nil => simp [put, find?_cons]
  | cons p t ih =>
    obtain ⟨k', v'⟩ := p
    simp only [put]
    split_ifs with h h' <;> simp_all [find?_cons]

theorem find?_put_ne (m : SMap α) {k j : Nat} (v : α) (h : j ≠ k) : (m.put k v).find? j = m.find? j := by
  induction m with
  | nil => simp [put, find?_cons, Ne.symm h]
  | cons p t ih =>
    obtain ⟨k', v'⟩ := p
    simp only [put]
    split_ifs with h1 h2
    · subst h1; simp [find?_cons, Ne.symm h]
    · simp [find?_cons, Ne.symm h]
    · simp [find?_cons, ih]

theorem find?_put (m : SMap α) (k j : Nat) (v : α) :
    (m.put k v).find? j = if j = k then some v else m.find? j := by
  split_ifs with h
  · subst h; simp
  · exact find?_put_ne m v h

@[simp] theorem find?_del_self (m : SMap α) (k : Nat) : (m.del k).find? k = none := by
  induction m with
  | nil => rfl
  | cons p t ih =>
    obtain ⟨k', v'⟩ := p
    simp only [del]
    split_ifs with h
    · exact ih
    · simp [find?_cons, h, ih]

theorem find?_del_ne (m : SMap α) {k j : Nat} (h : j ≠ k) : (m.del k).find? j = m.find? j := by
  induction m with
  | nil => rfl
  | cons p t ih =>
    obtain ⟨k', v'⟩ := p
    simp only [del]
    split_ifs with h1
    · subst h1; simp [find?_cons, Ne.symm h, ih]
    · simp [find?_cons, ih]

theorem find?_del (m : SMap α) (k j : Nat) : (m.del k).find? j = if j = k then none else m.find? j := by
  split_ifs with h
  · subst h; simp
  · exact find?_del_ne m h

theorem find?_mapV {β : Type} (m : SMap α) (f : Nat → α → β) (k : Nat) :
    (m.mapV f).find? k = (m.find? k).map (f k) := by
  induction m with
  | nil => rfl
  | cons p t ih =>
    obtain ⟨k', v'⟩ := p
    simp only [mapV, List.map_cons, find?_cons] at *
    split_ifs with h
    · subst h; rfl
    · exact ih

theorem find?_adjust (m : SMap α) (k j : Nat) (f : α → α) :
    (m.adjust k f).find? j = if j = k then (m.find? k).map f else m.find? j := by
  unfold adjust
  cases h : m.find? k with
  | none =>
    split_ifs with hj
    · subst hj; simpa using h
    · rfl
  | some v => simp [find?_put]

theorem adjust_eq_put (m : SMap α) {k : Nat} {v : α} (f : α → α) (h : m.find? k = some v) :
    m.adjust k f = m.put k (f v) := by simp [adjust, h]

theorem put_put (m : SMap α) (k : Nat) (v w : α) : (m.put k v).put k w = m.put k w := by
  induction m with
  | nil => simp [put]
  | cons p t ih =>
    obtain ⟨k', v'⟩ := p
    simp only [put]
    split_ifs with h1 h2
    · subst h1; simp [put]
    · simp [put]
    · simp [put, h1, h2, ih]

theorem get_put (d : α) (m : SMap α) (k j : Nat) (v : α) :
    (m.put k v).get d j = if j = k then v else m.get d j := by
  simp only [get, find?_put]; split_ifs <;> simp

theorem get_modify (d : α) (m : SMap α) (k j : Nat) (f : α → α) :
    (m.modify d k f).get d j = if j = k then f (m.get d k) else m.get d j := get_put d m k j _

/-- READ AFTER WRITE: the value written is read at its key, every other key reads as before. -/
theorem get_set [DecidableEq α] (d : α) (m : SMap α) (k j : Nat) (v : α) :
    (m.set d k v).get d j = if j = k then v else m.get d j := by
  unfold set
  split_ifs with h hj hj
  · subst h hj; simp [get]
  · simp [get, find?_del, hj]
  · simp [get, hj]
  · simp [get, find?_put, hj]

@[simp] theorem get_nil (d : α) (k : Nat) : get d ([] : SMap α) k = d := rfl

/-- Every key listed is at least `k`. -/
def above (k : Nat) (m : SMap α) : Prop := ∀ p ∈ m, k < p.1

theorem sorted_cons (k : Nat) (v : α) (t : SMap α) :
    sorted ((k, v) :: t) = true ↔ above k t ∧ sorted t = true := by
  induction t generalizing k v with
  | nil => simp [sorted, above]
  | cons p t ih =>
    obtain ⟨k', v'⟩ := p
    simp only [sorted, Bool.and_eq_true, decide_eq_true_eq]
    constructor
    · rintro ⟨h, hs⟩
      refine ⟨?_, hs⟩
      intro q hq
      rcases List.mem_cons.mp hq with rfl | hq
      · exact h
      · exact lt_trans h (((ih k' v').mp hs).1 q hq)
    · rintro ⟨h, hs⟩
      exact ⟨h (k', v') (by simp), hs⟩

theorem mem_put (m : SMap α) (k : Nat) (v : α) {p : Nat × α} (h : p ∈ m.put k v) : p = (k, v) ∨ p ∈ m := by
  induction m with
  | nil => simpa [put] using h
  | cons q t ih =>
    obtain ⟨k', v'⟩ := q
    simp only [put] at h
    split_ifs at h with h1 h2
    · rcases List.mem_cons.mp h with rfl | h
      · exact Or.inl rfl
      · exact Or.inr (by simp [h])
    · rcases List.mem_cons.mp h with rfl | h
      · exact Or.inl rfl
      · exact Or.inr h
    · rcases List.mem_cons.mp h with rfl | h
      · exact Or.inr (by simp)
      · rcases ih h with h | h
        · exact Or.inl h
        · exact Or.inr (by simp [h])

theorem mem_del (m : SMap α) (k : Nat) {p : Nat × α} (h : p ∈ m.del k) : p ∈ m ∧ p.1 ≠ k := by
  induction m with
  | nil => simp [del] at h
  | cons q t ih =>
    obtain ⟨k', v'⟩ := q
    simp only [del] at h
    split_ifs at h with h1
    · exact ⟨by simp [(ih h).1], (ih h).2⟩
    · rcases List.mem_cons.mp h with rfl | h
      · exact ⟨by simp, h1⟩
      · exact ⟨by simp [(ih h).1], (ih h).2⟩

theorem sorted_put (m : SMap α) (k : Nat) (v : α) (h : m.sorted = true) : (m.put k v).sorted = true := by
  induction m with
  | nil => rfl
  | cons p t ih =>
    obtain ⟨k', v'⟩ := p
    rw [sorted_cons] at h
    simp only [put]
    split_ifs with h1 h2
    · subst h1; rw [sorted_cons]; exact h
    · rw [sorted_cons, sorted_cons]
      refine ⟨?_, h⟩
      intro q hq
      rcases List.mem_cons.mp hq with rfl | hq
      · exact h2
      · exact lt_trans h2 (h.1 q hq)
    · rw [sorted_cons]
      refine ⟨?_, ih h.2⟩
      intro q hq
      rcases mem_put t k v hq with rfl | hq
      · show k' < k; omega
      · exact h.1 q hq

theorem sorted_del (m : SMap α) (k : Nat) (h : m.sorted = true) : (m.del k).sorted = true := by
  induction m with
  | nil => rfl
  | cons p t ih =>
    obtain ⟨k', v'⟩ := p
    rw [sorted_cons] at h
    simp only [del]
    split_ifs with h1
    · exact ih h.2
    · rw [sorted_cons]; exact ⟨fun q hq => h.1 q (mem_del t k hq).1, ih h.2⟩

/-- THE CANONICAL FORM IS KEPT by the write of one value. -/
theorem wf_set [DecidableEq α] (d : α) (m : SMap α) (k : Nat) (v : α) (h : m.wf d = true) :
    (m.set d k v).wf d = true := by
  simp only [wf, Bool.and_eq_true, List.all_eq_true, decide_eq_true_eq] at *
  unfold set
  split_ifs with hv
  · exact ⟨sorted_del m k h.1, fun p hp => h.2 p (mem_del m k hp).1⟩
  · refine ⟨sorted_put m k v h.1, fun p hp => ?_⟩
    rcases mem_put m k v hp with rfl | hp
    · exact hv
    · exact h.2 p hp

theorem find?_of_above (m : SMap α) {k j : Nat} (h : above k m) (hj : j ≤ k) : m.find? j = none := by
  induction m with
  | nil => rfl
  | cons p t ih =>
    obtain ⟨k', v'⟩ := p
    have := h (k', v') (by simp)
    simp only [find?_cons]
    rw [if_neg (by simp at this; omega)]
    exact ih fun q hq => h q (by simp [hq])

/-- TWO TABLES IN CANONICAL FORM that read alike everywhere are one table. -/
theorem wf_ext [DecidableEq α] (d : α) (m n : SMap α) (hm : m.wf d = true) (hn : n.wf d = true)
    (h : ∀ k, m.get d k = n.get d k) : m = n := by
  simp only [wf, Bool.and_eq_true, List.all_eq_true, decide_eq_true_eq] at hm hn
  obtain ⟨ms, md⟩ := hm
  obtain ⟨ns, nd⟩ := hn
  induction m generalizing n with
  | nil =>
    cases n with
    | nil => rfl
    | cons q u =>
      obtain ⟨k, w⟩ := q
      have h1 := h k
      simp [get, find?_cons] at h1
      exact absurd h1.symm (nd (k, w) (by simp))
  | cons p t ih =>
    obtain ⟨k, v⟩ := p
    rw [sorted_cons] at ms
    cases n with
    | nil =>
      have h1 := h k
      simp [get, find?_cons] at h1
      exact absurd h1 (md (k, v) (by simp))
    | cons q u =>
      obtain ⟨j, w⟩ := q
      rw [sorted_cons] at ns
      have hv : v ≠ d := md (k, v) (by simp)
      have hw : w ≠ d := nd (j, w) (by simp)
      have hkj : k = j := by
        rcases lt_trichotomy k j with hlt | heq | hlt
        · have h1 := h k
          simp only [get, find?_cons, if_true] at h1
          rw [if_neg (by omega), find?_of_above u ns.1 (by omega)] at h1
          exact absurd h1 hv
        · exact heq
        · have h1 := h j
          simp only [get, find?_cons, if_true] at h1
          rw [if_neg (by omega), find?_of_above t ms.1 (by omega)] at h1
          exact absurd h1.symm hw
      subst hkj
      have hvw : v = w := by
        have h1 := h k
        simpa [get, find?_cons] using h1
      subst hvw
      congr 1
      refine ih u (fun x => ?_) ms.2 (fun p hp => md p (by simp [hp])) ns.2 (fun p hp => nd p (by simp [hp]))
      by_cases hx : k = x
      · subst hx
        simp [get, find?_of_above t ms.1 le_rfl, find?_of_above u ns.1 le_rfl]
      · have h1 := h x
        simpa [get, find?_cons, hx] using h1

end Sys2Proof.SMap
end

