-- ==== Sys2Proof/Laws/Kept.lean ====
section
/-! SUPPORT. What every operation of the model keeps: the canonical form of memory (log 3) and the fields of
`SameDevice`. One lemma per operation; the lemma of a meaning is cited, the meaning is not unfolded again. -/

set_option linter.unusedTactic false
set_option linter.unreachableTactic false

namespace Sys2Proof.Machine

/-- From `r` on, memory stays in its canonical form and the device as a whole stays as it is. -/
structure Kept (r t : State) : Prop where
  memOk : MemOk r → MemOk t
  same  : SameDevice r t

theorem Kept.refl (r : State) : Kept r r := ⟨id, ⟨rfl, rfl, rfl, rfl, rfl, rfl, rfl, rfl, rfl, rfl, rfl, rfl, rfl⟩⟩

theorem Kept.trans {r s t : State} (h : Kept r s) (k : Kept s t) : Kept r t :=
  ⟨k.memOk ∘ h.memOk, ⟨k.same.iss.trans h.same.iss, k.same.pipeHold.trans h.same.pipeHold,
    k.same.cycles.trans h.same.cycles, k.same.clocks.trans h.same.clocks, k.same.clkBase.trans h.same.clkBase, k.same.boot.trans h.same.boot,
    k.same.power.trans h.same.power, k.same.image.trans h.same.image, k.same.staged.trans h.same.staged,
    k.same.domain.trans h.same.domain, k.same.routing.trans h.same.routing, k.same.linkNet.trans h.same.linkNet,
    k.same.linkDown.trans h.same.linkDown⟩⟩

/-- Any change of the fields that `Kept` does not speak of. -/
theorem Kept.with_ {r t : State} (h : Kept r t) (agenda : List Act) (fresh : Nat) (nextId : Nat) (pipe : List PipeE) (host : HostPort) (booting : Option (List Byte)) (queues : SMap KQueue) (kernels : SMap Kernel) (teams : SMap Team) (cohorts : SMap Cohort) (reqs : SMap Req) (groups : SMap Group) (cores : SMap Core) (quads : SMap Quad) (parts : SMap Part) (dies : SMap Die) (bounds : SMap Bound) (ctxs : SMap Ctx) (ops : SMap Op) (late : SMap (Nat × Nat)) (lines : SMap LineV) (torus : SMap Packet) (pages : SMap PgSt) (memErrs : SMap (List (Nat × Nat) × List Nat)) (binds : SMap Nat) (reports : List (Nat × List Byte)) :
    Kept r { mem := t.mem, cycles := t.cycles, clocks := t.clocks, clkBase := t.clkBase, agenda := agenda, fresh := fresh, nextId := nextId, iss := t.iss, pipeHold := t.pipeHold, pipe := pipe, boot := t.boot, power := t.power, host := host, staged := t.staged, booting := booting, image := t.image, queues := queues, kernels := kernels, teams := teams, cohorts := cohorts, reqs := reqs, groups := groups, cores := cores, quads := quads, parts := parts, dies := dies, bounds := bounds, ctxs := ctxs, ops := ops, late := late, lines := lines, torus := torus, pages := pages, memErrs := memErrs, domain := t.domain, routing := t.routing, linkNet := t.linkNet, binds := binds, linkDown := t.linkDown, reports := reports } :=
  h.trans ⟨id, ⟨rfl, rfl, rfl, rfl, rfl, rfl, rfl, rfl, rfl, rfl, rfl, rfl, rfl⟩⟩

/-- The same, with memory changed to one in canonical form. -/
theorem Kept.withMem {r t : State} (h : Kept r t) (mem : SMap Byte) (hm : MemOk t → Memory.wf mem = true) (agenda : List Act) (fresh : Nat) (nextId : Nat) (pipe : List PipeE) (host : HostPort) (booting : Option (List Byte)) (queues : SMap KQueue) (kernels : SMap Kernel) (teams : SMap Team) (cohorts : SMap Cohort) (reqs : SMap Req) (groups : SMap Group) (cores : SMap Core) (quads : SMap Quad) (parts : SMap Part) (dies : SMap Die) (bounds : SMap Bound) (ctxs : SMap Ctx) (ops : SMap Op) (late : SMap (Nat × Nat)) (lines : SMap LineV) (torus : SMap Packet) (pages : SMap PgSt) (memErrs : SMap (List (Nat × Nat) × List Nat)) (binds : SMap Nat) (reports : List (Nat × List Byte)) :
    Kept r { mem := mem, cycles := t.cycles, clocks := t.clocks, clkBase := t.clkBase, agenda := agenda, fresh := fresh, nextId := nextId, iss := t.iss, pipeHold := t.pipeHold, pipe := pipe, boot := t.boot, power := t.power, host := host, staged := t.staged, booting := booting, image := t.image, queues := queues, kernels := kernels, teams := teams, cohorts := cohorts, reqs := reqs, groups := groups, cores := cores, quads := quads, parts := parts, dies := dies, bounds := bounds, ctxs := ctxs, ops := ops, late := late, lines := lines, torus := torus, pages := pages, memErrs := memErrs, domain := t.domain, routing := t.routing, linkNet := t.linkNet, binds := binds, linkDown := t.linkDown, reports := reports } :=
  h.trans ⟨hm, ⟨rfl, rfl, rfl, rfl, rfl, rfl, rfl, rfl, rfl, rfl, rfl, rfl, rfl⟩⟩

theorem Kept.id_ {r t : State} (h : Kept r t) : Kept r (id t) := h

theorem Kept.foldl {α : Type} {r s : State} (h : Kept r s) (f : State → α → State) (l : List α)
    (hf : ∀ t a, Kept r t → Kept r (f t a)) : Kept r (l.foldl f s) := by
  induction l generalizing s with
  | nil => exact h
  | cons a l ih => exact ih (hf s a h)

/-- Where an outcome carries a state, that state is kept. -/
@[irreducible] def OutK (r : State) : Out → Prop
  | .next t => Kept r t
  | _ => True
theorem OutK.of {r t : State} (h : Kept r t) : OutK r (.next t) := by unfold OutK; exact h
theorem OutK.fault {r : State} (f : Fault) : OutK r (.fault f) := by unfold OutK; trivial

/-- The same for an optional state. -/
@[irreducible] def OptK (r : State) : Option State → Prop
  | some t => Kept r t
  | none => True
theorem OptK.of {r t : State} (h : Kept r t) : OptK r (some t) := by unfold OptK; exact h
theorem OptK.none {r : State} : OptK r none := by unfold OptK; trivial
theorem OptK.get {r t : State} {o : Option State} (e : o = some t) (h : OptK r o) : Kept r t := by rw [e] at h; unfold OptK at h; exact h

theorem OptK.map {r : State} {o : Option State} {f : State → State} (h : OptK r o) (hf : ∀ t, Kept r t → Kept r (f t)) :
    OptK r (o.map f) := by
  cases o with
  | none => exact OptK.none
  | some t => exact OptK.of (hf t (OptK.get rfl h))
theorem OptK.bind {r : State} {o : Option State} {f : State → Option State} (h : OptK r o)
    (hf : ∀ t, Kept r t → OptK r (f t)) : OptK r (o.bind f) := by
  cases o with
  | none => exact OptK.none
  | some t => exact hf t (OptK.get rfl h)

/-- The same for an optional state with a value. -/
@[irreducible] def OptPK {α : Type} (r : State) : Option (State × α) → Prop
  | some p => Kept r p.1
  | none => True
theorem OptPK.of {α : Type} {r t : State} {x : α} (h : Kept r t) : OptPK r (some (t, x)) := by unfold OptPK; exact h
theorem OptPK.none {α : Type} {r : State} : OptPK (α := α) r none := by unfold OptPK; trivial
theorem OptPK.get {α : Type} {r t : State} {x : α} {o : Option (State × α)} (e : o = some (t, x)) (h : OptPK r o) :
    Kept r t := by rw [e] at h; unfold OptPK at h; exact h

/-- The same for a state with a value. -/
@[irreducible] def PairK {α : Type} (r : State) (p : State × α) : Prop := Kept r p.1
theorem PairK.of {α : Type} {r t : State} {x : α} (h : Kept r t) : PairK r (t, x) := by unfold PairK; exact h
theorem PairK.fst {α : Type} {r : State} {p : State × α} (h : PairK r p) : Kept r p.1 := by unfold PairK at h; exact h
theorem PairK.get {α : Type} {r t : State} {x : α} {p : State × α} (e : p = (t, x)) (h : PairK r p) : Kept r t := by
  rw [e] at h; unfold PairK at h; exact h

/-- The same for what a command comes to. -/
@[irreducible] def CmdK (r : State) : CmdRes → Prop
  | .done _ _ t => Kept r t
  | .busy t => Kept r t
  | .later t => Kept r t
theorem CmdK.ofDone {r t : State} {a b : Nat} (h : Kept r t) : CmdK r (.done a b t) := by unfold CmdK; exact h
theorem CmdK.ofBusy {r t : State} (h : Kept r t) : CmdK r (.busy t) := by unfold CmdK; exact h
theorem CmdK.ofLater {r t : State} (h : Kept r t) : CmdK r (.later t) := by unfold CmdK; exact h
theorem CmdK.getDone {r t : State} {a b : Nat} {o : CmdRes} (e : o = .done a b t) (h : CmdK r o) : Kept r t := by rw [e] at h; unfold CmdK at h; exact h
theorem CmdK.getBusy {r t : State} {o : CmdRes} (e : o = .busy t) (h : CmdK r o) : Kept r t := by rw [e] at h; unfold CmdK at h; exact h
theorem CmdK.getLater {r t : State} {o : CmdRes} (e : o = .later t) (h : CmdK r o) : Kept r t := by rw [e] at h; unfold CmdK at h; exact h

/-- The same for the sealing of a line. -/
@[irreducible] def SealK (r : State) : Seal → Prop
  | .ok t => Kept r t
  | _ => True
theorem SealK.of {r t : State} (h : Kept r t) : SealK r (.ok t) := by unfold SealK; exact h
theorem SealK.fail {r : State} : SealK r .fail := by unfold SealK; trivial
theorem SealK.wait {r : State} : SealK r .wait := by unfold SealK; trivial
theorem SealK.get {r t : State} {o : Seal} (e : o = .ok t) (h : SealK r o) : Kept r t := by rw [e] at h; unfold SealK at h; exact h

/-- The same for a spill. -/
@[irreducible] def SpillK (r : State) : Spill → Prop
  | .ok t => Kept r t
  | .perm t => Kept r t
  | .fault t _ _ => Kept r t
  | .wait t _ => Kept r t
theorem SpillK.ofOk {r t : State} (h : Kept r t) : SpillK r (.ok t) := by unfold SpillK; exact h
theorem SpillK.ofPerm {r t : State} (h : Kept r t) : SpillK r (.perm t) := by unfold SpillK; exact h
theorem SpillK.ofFault {r t : State} {a b : Nat} (h : Kept r t) : SpillK r (.fault t a b) := by unfold SpillK; exact h
theorem SpillK.ofWait {r t : State} {a : Nat} (h : Kept r t) : SpillK r (.wait t a) := by unfold SpillK; exact h
theorem SpillK.getOk {r t : State} {o : Spill} (e : o = .ok t) (h : SpillK r o) : Kept r t := by rw [e] at h; unfold SpillK at h; exact h
theorem SpillK.getPerm {r t : State} {o : Spill} (e : o = .perm t) (h : SpillK r o) : Kept r t := by rw [e] at h; unfold SpillK at h; exact h
theorem SpillK.getFault {r t : State} {a b : Nat} {o : Spill} (e : o = .fault t a b) (h : SpillK r o) : Kept r t := by
  rw [e] at h; unfold SpillK at h; exact h

theorem SpillK.getWait {r t : State} {a : Nat} {o : Spill} (e : o = .wait t a) (h : SpillK r o) : Kept r t := by
  rw [e] at h; unfold SpillK at h; exact h

/-- The same for a fetch. -/
@[irreducible] def FetchK (r : State) : Fetch → Prop
  | .stop t => Kept r t
  | _ => True
theorem FetchK.of {r t : State} (h : Kept r t) : FetchK r (.stop t) := by unfold FetchK; exact h
theorem FetchK.run {r : State} {x : Run} : FetchK r (.run x) := by unfold FetchK; trivial
theorem FetchK.get {r t : State} {o : Fetch} (e : o = .stop t) (h : FetchK r o) : Kept r t := by rw [e] at h; unfold FetchK at h; exact h

theorem putBytes_wf (bs : List Byte) (m : SMap Byte) (pa : Nat) (h : Memory.wf m = true) :
    Memory.wf (putBytes m pa bs) = true := by
  induction bs generalizing m pa with
  | nil => exact h
  | cons b t ih => exact ih _ _ (SMap.wf_set 0 m pa b h)

theorem filter_wf (m : SMap Byte) (f : Nat × Byte → Bool) (h : Memory.wf m = true) :
    Memory.wf (m.filter f) = true := by
  simp only [Memory.wf, SMap.wf, Bool.and_eq_true, List.all_eq_true] at *
  refine ⟨?_, fun p hp => h.2 p (List.mem_filter.mp hp).1⟩
  obtain ⟨hs, -⟩ := h
  induction m with
  | nil => rfl
  | cons p t ih =>
    obtain ⟨k, v⟩ := p
    rw [SMap.sorted_cons] at hs
    simp only [List.filter_cons]
    split
    · rw [SMap.sorted_cons]
      exact ⟨fun q hq => hs.1 q (List.mem_filter.mp hq).1, ih hs.2⟩
    · exact ih hs.2

end Sys2Proof.Machine
end

