-- ==== Sys2Proof/Laws/KeptOps.lean ====
section
/-! SUPPORT. What the operations over physical memory, groups and paths keep. -/

set_option linter.unusedTactic false
set_option linter.unreachableTactic false

namespace Sys2Proof.Machine

theorem State.wr_kept {r s : State} {pa : Nat} {bs : List Byte} (h : Kept r s) : Kept r (s.wr pa bs) := by
  unfold State.wr
  exact Kept.withMem h _ (fun hm => putBytes_wf bs _ pa hm) _ _ _ _ _ _ _ _ _ _ _ _ _ _ _ _ _ _ _ _ _ _ _ _ _ _

theorem State.wrN_kept {r : State} {s : State} {pa : Nat} {n : Nat} {v : Nat} (h₀ : Kept r s) : Kept r (State.wrN s pa n v) := by
  unfold State.wrN
  repeat' first
    | with_reducible assumption
    | with_reducible first
      | apply State.wr_kept
      | apply Kept.foldl
    | intro _
    | dsimp only
    | split
    | with_reducible apply Kept.with_

theorem State.setLine_kept {r : State} {s : State} {line : Nat} {v : LineV} (h₀ : Kept r s) : Kept r (State.setLine s line v) := by
  unfold State.setLine
  repeat' first
    | with_reducible assumption
    | with_reducible first
      | apply Kept.foldl
    | intro _
    | dsimp only
    | split
    | with_reducible apply Kept.with_

theorem unstamp_kept {r : State} {s : State} {line : Nat} (h₀ : Kept r s) : Kept r (unstamp s line) := by
  unfold unstamp
  repeat' first
    | with_reducible assumption
    | with_reducible first
      | apply State.setLine_kept
      | apply Kept.foldl
    | intro _
    | dsimp only
    | split
    | with_reducible apply Kept.with_

theorem homeWrite_kept {r : State} {s : State} {core : Option Nat} {pa : Nat} {bs : List Byte} (h₀ : Kept r s) : Kept r (homeWrite s core pa bs) := by
  unfold homeWrite
  repeat' first
    | with_reducible assumption
    | with_reducible first
      | apply State.wr_kept
      | apply unstamp_kept
      | apply Kept.foldl
    | intro _
    | dsimp only
    | split
    | with_reducible apply Kept.with_

theorem State.modCtx_kept {r : State} {s : State} {c : Nat} {f : Ctx → Ctx} (h₀ : Kept r s) : Kept r (State.modCtx s c f) := by
  unfold State.modCtx
  repeat' first
    | with_reducible assumption
    | with_reducible first
      | apply Kept.foldl
    | intro _
    | dsimp only
    | split
    | with_reducible apply Kept.with_

theorem State.modCore_kept {r : State} {s : State} {c : Nat} {f : Core → Core} (h₀ : Kept r s) : Kept r (State.modCore s c f) := by
  unfold State.modCore
  repeat' first
    | with_reducible assumption
    | with_reducible first
      | apply Kept.foldl
    | intro _
    | dsimp only
    | split
    | with_reducible apply Kept.with_

theorem State.modQuad_kept {r : State} {s : State} {q : Nat} {f : Quad → Quad} (h₀ : Kept r s) : Kept r (State.modQuad s q f) := by
  unfold State.modQuad
  repeat' first
    | with_reducible assumption
    | with_reducible first
      | apply Kept.foldl
    | intro _
    | dsimp only
    | split
    | with_reducible apply Kept.with_

theorem State.modPart_kept {r : State} {s : State} {p : Nat} {f : Part → Part} (h₀ : Kept r s) : Kept r (State.modPart s p f) := by
  unfold State.modPart
  repeat' first
    | with_reducible assumption
    | with_reducible first
      | apply Kept.foldl
    | intro _
    | dsimp only
    | split
    | with_reducible apply Kept.with_

theorem State.modDie_kept {r : State} {s : State} {d : Nat} {f : Die → Die} (h₀ : Kept r s) : Kept r (State.modDie s d f) := by
  unfold State.modDie
  repeat' first
    | with_reducible assumption
    | with_reducible first
      | apply Kept.foldl
    | intro _
    | dsimp only
    | split
    | with_reducible apply Kept.with_

theorem State.modBound_kept {r : State} {s : State} {b : Nat} {f : Bound → Bound} (h₀ : Kept r s) : Kept r (State.modBound s b f) := by
  unfold State.modBound
  repeat' first
    | with_reducible assumption
    | with_reducible first
      | apply Kept.foldl
    | intro _
    | dsimp only
    | split
    | with_reducible apply Kept.with_

theorem State.modOp_kept {r : State} {s : State} {o : Nat} {f : Op → Op} (h₀ : Kept r s) : Kept r (State.modOp s o f) := by
  unfold State.modOp
  repeat' first
    | with_reducible assumption
    | with_reducible first
      | apply Kept.foldl
    | intro _
    | dsimp only
    | split
    | with_reducible apply Kept.with_

theorem State.delOp_kept {r : State} {s : State} {o : Nat} (h₀ : Kept r s) : Kept r (State.delOp s o) := by
  unfold State.delOp
  repeat' first
    | with_reducible assumption
    | with_reducible first
      | apply Kept.foldl
    | intro _
    | dsimp only
    | split
    | with_reducible apply Kept.with_

theorem State.addOp_kept {r : State} {s : State} {o : Op} (h₀ : Kept r s) : Kept r (State.addOp s o) := by
  unfold State.addOp
  repeat' first
    | with_reducible assumption
    | with_reducible first
      | apply Kept.foldl
    | intro _
    | dsimp only
    | split
    | with_reducible apply Kept.with_

theorem State.eqPut_kept {r : State} {s : State} {n : Nat} {b : List Byte} (h₀ : Kept r s) : Kept r (State.eqPut s n b) := by
  unfold State.eqPut
  repeat' first
    | with_reducible assumption
    | with_reducible first
      | apply State.wr_kept
      | apply Kept.foldl
    | intro _
    | dsimp only
    | split
    | with_reducible apply Kept.with_

theorem postEvent_kept {r : State} {s : State} {typ : Nat} {ctx : Nat} {body : List (Nat × Nat)} (h₀ : Kept r s) : Kept r (postEvent s typ ctx body) := by
  unfold postEvent
  repeat' first
    | with_reducible assumption
    | with_reducible first
      | apply State.eqPut_kept
      | apply Kept.foldl
    | intro _
    | dsimp only
    | split
    | with_reducible apply Kept.with_

theorem flushEvents_kept {r s : State} (n : Nat) (h : Kept r s) : Kept r (flushEvents n s) := by
  induction n generalizing s with
  | zero => exact h
  | succ n ih =>
    unfold flushEvents
    repeat' first
      | assumption
      | apply ih
      | apply State.eqPut_kept
      | split
      | with_reducible apply Kept.with_

theorem State.wrGuard_kept {r : State} {s : State} {pa : Nat} {n : Nat} {v : Nat} (h₀ : Kept r s) : Kept r (State.wrGuard s pa n v) := by
  unfold State.wrGuard
  repeat' first
    | with_reducible assumption
    | with_reducible first
      | apply State.wrN_kept
      | apply Kept.foldl
    | intro _
    | dsimp only
    | split
    | with_reducible apply Kept.with_

theorem dirtyAppend_kept {r : State} {s : State} {c : Nat} {va : Nat} {size : Nat} (h₀ : Kept r s) : Kept r (dirtyAppend s c va size) := by
  unfold dirtyAppend
  repeat' first
    | with_reducible assumption
    | with_reducible first
      | apply State.wrGuard_kept
      | apply postEvent_kept
      | apply Kept.foldl
    | intro _
    | dsimp only
    | split
    | with_reducible apply Kept.with_

theorem setAD_kept {r : State} {s : State} {c : Nat} {va : Nat} {leaf : Nat} {size : Nat} {w : Bool} (h₀ : Kept r s) : Kept r (setAD s c va leaf size w) := by
  unfold setAD
  repeat' first
    | with_reducible assumption
    | with_reducible first
      | apply dirtyAppend_kept
      | apply State.wrN_kept
      | apply Kept.foldl
    | intro _
    | dsimp only
    | split
    | with_reducible apply Kept.with_

theorem walk_kept {r : State} {s : State} {c : Nat} {va : Nat} {n : Need} (h₀ : Kept r s) : PairK r (walk s c va n) := by
  unfold walk
  repeat' first
    | with_reducible assumption
    | with_reducible first
      | apply setAD_kept
      | apply PairK.of
      | refine PairK.get (by with_reducible assumption) ?_
      | apply Kept.foldl
    | intro _
    | dsimp only
    | split
    | with_reducible apply Kept.with_

theorem walkNow_kept {r : State} {s : State} {c : Nat} {va : Nat} {n : Need} (h₀ : Kept r s) : PairK r (walkNow s c va n) := by
  unfold walkNow
  repeat' first
    | with_reducible assumption
    | with_reducible first
      | refine PairK.fst (walk_kept ?_)
      | apply walk_kept
      | apply PairK.of
      | refine PairK.get (by with_reducible assumption) ?_
      | apply Kept.foldl
    | intro _
    | dsimp only
    | split
    | with_reducible apply Kept.with_

theorem ctxLog_kept {r : State} {s : State} {c : Nat} {typ : Nat} {body : List (Nat × Nat)} (h₀ : Kept r s) : Kept r (ctxLog s c typ body) := by
  unfold ctxLog
  repeat' first
    | with_reducible assumption
    | with_reducible first
      | refine PairK.fst (walkNow_kept ?_)
      | apply State.wr_kept
      | apply State.wrN_kept
      | apply walkNow_kept
      | apply State.modCtx_kept
      | apply PairK.of
      | refine PairK.get (by with_reducible assumption) ?_
      | apply Kept.foldl
    | intro _
    | dsimp only
    | split
    | with_reducible apply Kept.with_

theorem readSeen_kept {r : State} {c : Nat} {pa : Nat} {n : Nat} {s : State} (h₀ : Kept r s) : Kept r (readSeen c pa n s) := by
  unfold readSeen
  repeat' first
    | with_reducible assumption
    | with_reducible first
      | apply ctxLog_kept
      | apply Kept.foldl
    | intro _
    | dsimp only
    | split
    | with_reducible apply Kept.with_

theorem openFault_kept {r : State} {s : State} {d : Nat} {c : Nat} {va : Nat} {kind : Nat} {acc : Nat} {w : Waiter} (h₀ : Kept r s) : Kept r (openFault s d c va kind acc w) := by
  unfold openFault
  repeat' first
    | with_reducible assumption
    | with_reducible first
      | apply postEvent_kept
      | apply State.modDie_kept
      | apply Kept.foldl
    | intro _
    | dsimp only
    | split
    | with_reducible apply Kept.with_

theorem State.modGroup_kept {r : State} {s : State} {gid : Nat} {f : Group → Group} (h₀ : Kept r s) : Kept r (State.modGroup s gid f) := by
  unfold State.modGroup
  repeat' first
    | with_reducible assumption
    | with_reducible first
      | apply Kept.foldl
    | intro _
    | dsimp only
    | split
    | with_reducible apply Kept.with_

theorem State.modPathAt_kept {r : State} {s : State} {gid : Nat} {slot : Nat} {f : Path → Path} (h₀ : Kept r s) : Kept r (State.modPathAt s gid slot f) := by
  unfold State.modPathAt
  repeat' first
    | with_reducible assumption
    | with_reducible first
      | apply State.modGroup_kept
      | apply Kept.foldl
    | intro _
    | dsimp only
    | split
    | with_reducible apply Kept.with_

theorem State.modPath_kept {r : State} {s : State} {f : Path → Path} (h₀ : Kept r s) : Kept r (State.modPath s f) := by
  unfold State.modPath
  repeat' first
    | with_reducible assumption
    | with_reducible first
      | apply State.modPathAt_kept
      | apply Kept.foldl
    | intro _
    | dsimp only
    | split
    | with_reducible apply Kept.with_

theorem State.modG_kept {r : State} {s : State} {f : Group → Group} (h₀ : Kept r s) : Kept r (State.modG s f) := by
  unfold State.modG
  repeat' first
    | with_reducible assumption
    | with_reducible first
      | apply State.modGroup_kept
      | apply Kept.foldl
    | intro _
    | dsimp only
    | split
    | with_reducible apply Kept.with_

theorem onPath_kept {r : State} {s : State} {k : Group → Path → State} (h₀ : Kept r s) (hk : ∀ (x0 : Group) (x1 : Path), Kept r (k x0 x1)) : OutK r (onPath s k) := by
  unfold onPath
  repeat' first
    | with_reducible assumption
    | with_reducible first
      | apply hk
      | apply OutK.of
      | apply OutK.fault
      | apply Kept.foldl
    | intro _
    | dsimp only
    | split
    | with_reducible apply Kept.with_

theorem State.wS_kept {r : State} {s : State} {d : Nat} {v : W64} (h₀ : Kept r s) : Kept r (State.wS s d v) := by
  unfold State.wS
  repeat' first
    | with_reducible assumption
    | with_reducible first
      | apply State.modG_kept
      | apply Kept.foldl
    | intro _
    | dsimp only
    | split
    | with_reducible apply Kept.with_

theorem advance_kept {r : State} {s : State} (h₀ : Kept r s) : Kept r (advance s) := by
  unfold advance
  repeat' first
    | with_reducible assumption
    | with_reducible first
      | apply State.modPath_kept
      | apply Kept.foldl
    | intro _
    | dsimp only
    | split
    | with_reducible apply Kept.with_

theorem goTo_kept {r : State} {t : W64} {s : State} (h₀ : Kept r s) : Kept r (goTo t s) := by
  unfold goTo
  repeat' first
    | with_reducible assumption
    | with_reducible first
      | apply State.modPath_kept
      | apply Kept.foldl
    | intro _
    | dsimp only
    | split
    | with_reducible apply Kept.with_

theorem waitOn_kept {r : State} {w : Wake} {s : State} (h₀ : Kept r s) : Kept r (waitOn w s) := by
  unfold waitOn
  repeat' first
    | with_reducible assumption
    | with_reducible first
      | apply State.modPath_kept
      | apply Kept.foldl
    | intro _
    | dsimp only
    | split
    | with_reducible apply Kept.with_

theorem waitThen_kept {r : State} {w : Wake} {t : W64} {s : State} (h₀ : Kept r s) : Kept r (waitThen w t s) := by
  unfold waitThen
  repeat' first
    | with_reducible assumption
    | with_reducible first
      | apply State.modPath_kept
      | apply Kept.foldl
    | intro _
    | dsimp only
    | split
    | with_reducible apply Kept.with_

theorem ringPut_kept {r : State} {s : State} {ws : List Nat} (h₀ : Kept r s) : Kept r (ringPut s ws) := by
  unfold ringPut
  repeat' first
    | with_reducible assumption
    | with_reducible first
      | apply State.wr_kept
      | apply Kept.foldl
    | intro _
    | dsimp only
    | split
    | with_reducible apply Kept.with_

theorem mboxPut_kept {r : State} {s : State} {ws : List Nat} (h₀ : Kept r s) : Kept r (mboxPut s ws) := by
  unfold mboxPut
  repeat' first
    | with_reducible assumption
    | with_reducible first
      | apply ringPut_kept
      | apply Kept.foldl
    | intro _
    | dsimp only
    | split
    | with_reducible apply Kept.with_

theorem flushMbox_kept {r s : State} (n : Nat) (h : Kept r s) : Kept r (flushMbox n s) := by
  induction n generalizing s with
  | zero => exact h
  | succ n ih =>
    unfold flushMbox
    split
    · exact h
    · split
      · exact h
      · exact ih (ringPut_kept (Kept.with_ h _ _ _ _ _ _ _ _ _ _ _ _ _ _ _ _ _ _ _ _ _ _ _ _ _ _))

theorem notice_kept {r : State} {s : State} {g : Group} {slot : Nat} {cause : Nat} {addr : Nat} {code : Nat} (h₀ : Kept r s) : Kept r (notice s g slot cause addr code) := by
  unfold notice
  repeat' first
    | with_reducible assumption
    | with_reducible first
      | apply mboxPut_kept
      | apply Kept.foldl
    | intro _
    | dsimp only
    | split
    | with_reducible apply Kept.with_

theorem beginQuiesce_kept {r : State} {s : State} {c : Nat} {a : After} (h₀ : Kept r s) : Kept r (beginQuiesce s c a) := by
  unfold beginQuiesce
  repeat' first
    | with_reducible assumption
    | with_reducible first
      | apply State.modCtx_kept
      | apply Kept.foldl
    | intro _
    | dsimp only
    | split
    | with_reducible apply Kept.with_

theorem doubleFault_kept {r : State} {s : State} {g : Group} {slot : Nat} {c : Cause} {addr : W64} (h₀ : Kept r s) : Kept r (doubleFault s g slot c addr) := by
  unfold doubleFault
  repeat' first
    | with_reducible assumption
    | with_reducible first
      | apply postEvent_kept
      | apply beginQuiesce_kept
      | apply notice_kept
      | apply Kept.foldl
    | intro _
    | dsimp only
    | split
    | with_reducible apply Kept.with_

theorem trapPath_kept {r : State} {s : State} {gid : Nat} {slot : Nat} {t : TrapRec} (h₀ : Kept r s) : Kept r (trapPath s gid slot t) := by
  unfold trapPath
  repeat' first
    | with_reducible assumption
    | with_reducible first
      | apply State.modGroup_kept
      | apply doubleFault_kept
      | apply State.modPart_kept
      | apply Kept.foldl
    | intro _
    | dsimp only
    | split
    | with_reducible apply Kept.with_

theorem trapAt_kept {r : State} {c : Cause} {data : Nat} {s : State} (h₀ : Kept r s) : Kept r (trapAt c data s) := by
  unfold trapAt
  repeat' first
    | with_reducible assumption
    | with_reducible first
      | apply trapPath_kept
      | apply Kept.foldl
    | intro _
    | dsimp only
    | split
    | with_reducible apply Kept.with_

theorem trapAfter_kept {r : State} {c : Cause} {data : Nat} {s : State} (h₀ : Kept r s) : Kept r (trapAfter c data s) := by
  unfold trapAfter
  repeat' first
    | with_reducible assumption
    | with_reducible first
      | apply advance_kept
      | apply trapPath_kept
      | apply Kept.foldl
    | intro _
    | dsimp only
    | split
    | with_reducible apply Kept.with_

theorem landE_kept {r : State} {s : State} {e : PipeE} (h₀ : Kept r s) : Kept r (landE s e) := by
  unfold landE
  repeat' first
    | with_reducible assumption
    | with_reducible first
      | apply State.modGroup_kept
      | apply Kept.foldl
    | intro _
    | dsimp only
    | split
    | with_reducible apply Kept.with_

theorem landGroup_kept {r : State} {s : State} {gid : Nat} (h₀ : Kept r s) : Kept r (landGroup s gid) := by
  unfold landGroup
  repeat' first
    | with_reducible assumption
    | with_reducible first
      | apply landE_kept
      | apply Kept.foldl
    | intro _
    | dsimp only
    | split
    | with_reducible apply Kept.with_

theorem landNow_kept {r : State} {ws : List RegW} {flags : Nat} {s : State} (h₀ : Kept r s) : Kept r (landNow ws flags s) := by
  unfold landNow
  repeat' first
    | with_reducible assumption
    | with_reducible first
      | apply landE_kept
      | apply advance_kept
      | apply Kept.foldl
    | intro _
    | dsimp only
    | split
    | with_reducible apply Kept.with_

theorem land_kept {r : State} {ws : List RegW} {flags : Nat} {s : State} (h₀ : Kept r s) : Kept r (land ws flags s) := by
  unfold land
  repeat' first
    | with_reducible assumption
    | with_reducible first
      | apply landE_kept
      | apply advance_kept
      | apply Kept.foldl
    | intro _
    | dsimp only
    | split
    | with_reducible apply Kept.with_

theorem l1Drop_kept {r : State} {s : State} {core : Nat} {c : Nat} (h₀ : Kept r s) : Kept r (l1Drop s core c) := by
  unfold l1Drop
  repeat' first
    | with_reducible assumption
    | with_reducible first
      | apply State.modCore_kept
      | apply Kept.foldl
    | intro _
    | dsimp only
    | split
    | with_reducible apply Kept.with_

theorem fenceGroup_kept {r : State} {s : State} {gid : Nat} {core : Nat} {scp : Nat} (h₀ : Kept r s) : Kept r (fenceGroup s gid core scp) := by
  unfold fenceGroup
  repeat' first
    | with_reducible assumption
    | with_reducible first
      | apply State.addOp_kept
      | apply Kept.foldl
    | intro _
    | dsimp only
    | split
    | with_reducible apply Kept.with_

theorem groupFence_kept {r : State} {s : State} {gid : Nat} (h₀ : Kept r s) : Kept r (groupFence s gid) := by
  unfold groupFence
  repeat' first
    | with_reducible assumption
    | with_reducible first
      | apply fenceGroup_kept
      | apply Kept.foldl
    | intro _
    | dsimp only
    | split
    | with_reducible apply Kept.with_

theorem moveFence_kept {r : State} {s : State} {gid : Nat} {core : Nat} (h₀ : Kept r s) : Kept r (moveFence s gid core) := by
  unfold moveFence
  repeat' first
    | with_reducible assumption
    | with_reducible first
      | apply fenceGroup_kept
      | apply Kept.foldl
    | intro _
    | dsimp only
    | split
    | with_reducible apply Kept.with_

theorem abandon_kept {r : State} {s : State} {h : Handle} (h₀ : Kept r s) : Kept r (abandon s h) := by
  unfold abandon
  repeat' first
    | with_reducible assumption
    | with_reducible first
      | apply State.modDie_kept
      | apply Kept.foldl
    | intro _
    | dsimp only
    | split
    | with_reducible apply Kept.with_

theorem abandonLog_kept {r : State} {s : State} {c : Nat} {h : Handle} {reason : Nat} (h₀ : Kept r s) : Kept r (abandonLog s c h reason) := by
  unfold abandonLog
  repeat' first
    | with_reducible assumption
    | with_reducible first
      | apply ctxLog_kept
      | apply Kept.foldl
    | intro _
    | dsimp only
    | split
    | with_reducible apply Kept.with_

theorem abandonOpen_kept {r : State} {s : State} {g : Group} (h₀ : Kept r s) : Kept r (abandonOpen s g) := by
  unfold abandonOpen
  repeat' first
    | with_reducible assumption
    | with_reducible first
      | apply abandonLog_kept
      | apply abandon_kept
      | apply Kept.foldl
    | intro _
    | dsimp only
    | split
    | with_reducible apply Kept.with_

theorem reinject_kept {r : State} {s : State} {gid : Nat} {slot : Nat} (h₀ : Kept r s) : Kept r (reinject s gid slot) := by
  unfold reinject
  repeat' first
    | with_reducible assumption
    | with_reducible first
      | apply landE_kept
      | apply State.modGroup_kept
      | apply Kept.foldl
    | intro _
    | dsimp only
    | split
    | with_reducible apply Kept.with_

theorem returnTrap_kept {r : State} {mode : Nat} {t2 : W64} {h : Group} {gid : Nat} {slot : Nat} {s : State} (h₀ : Kept r s) : Kept r (returnTrap mode t2 h gid slot s) := by
  unfold returnTrap
  repeat' first
    | with_reducible assumption
    | with_reducible first
      | apply groupFence_kept
      | apply l1Drop_kept
      | apply reinject_kept
      | apply doubleFault_kept
      | apply abandonOpen_kept
      | apply State.modPathAt_kept
      | apply Kept.foldl
    | intro _
    | dsimp only
    | split
    | with_reducible apply Kept.with_

theorem countOne_kept {r : State} {gid : Nat} {s : State} (h₀ : Kept r s) : Kept r (countOne gid s) := by
  unfold countOne
  repeat' first
    | with_reducible assumption
    | with_reducible first
      | apply State.modGroup_kept
      | apply Kept.foldl
    | intro _
    | dsimp only
    | split
    | with_reducible apply Kept.with_

theorem issued_kept {r : State} {count : Bool} {s : State} {p : Path} {k : State → State} (h₀ : Kept r s) (hk : ∀ (x0 : State), Kept r x0 → Kept r (k x0)) : Kept r (issued count s p k) := by
  unfold issued
  repeat' first
    | with_reducible assumption
    | with_reducible first
      | apply hk
      | apply countOne_kept
      | apply State.modPath_kept
      | apply Kept.foldl
    | intro _
    | dsimp only
    | split
    | with_reducible apply Kept.with_

theorem regFault_kept {r : State} {g : Group} {n : Nat} {s : State} (h₀ : Kept r s) : Kept r (regFault g n s) := by
  unfold regFault
  repeat' first
    | with_reducible assumption
    | with_reducible first
      | apply trapAt_kept
      | apply ctxLog_kept
      | apply Kept.foldl
    | intro _
    | dsimp only
    | split
    | with_reducible apply Kept.with_

theorem gated_kept {r : State} {a : Adm} {s : State} {k : Group → Path → State → State} (h₀ : Kept r s) (hk : ∀ (x0 : Group) (x1 : Path) (x2 : State), Kept r x2 → Kept r (k x0 x1 x2)) : OutK r (gated a s k) := by
  unfold gated
  repeat' first
    | with_reducible assumption
    | with_reducible first
      | apply hk
      | apply regFault_kept
      | apply issued_kept
      | apply trapAt_kept
      | apply landGroup_kept
      | apply onPath_kept
      | apply waitOn_kept
      | apply OutK.of
      | apply OutK.fault
      | apply Kept.foldl
      | apply Kept.id_
    | intro _
    | dsimp only
    | split
    | with_reducible apply Kept.with_

theorem withDraws_kept {r : State} {mode : Nat} {n : Nat} {g : Group} {s : State} {k : List Nat → State → State} (h₀ : Kept r s) (hk : ∀ (x0 : List Nat) (x1 : State), Kept r x1 → Kept r (k x0 x1)) : Kept r (withDraws mode n g s k) := by
  unfold withDraws
  repeat' first
    | with_reducible assumption
    | with_reducible first
      | apply hk
      | apply State.modPart_kept
      | apply Kept.foldl
    | intro _
    | dsimp only
    | split
    | with_reducible apply Kept.with_

end Sys2Proof.Machine
end

