-- ==== Sys2Proof/Laws/KeptArith.lean ====
section
/-! SUPPORT. What arithmetic and cross-lane instructions keep. -/

set_option linter.unusedTactic false
set_option linter.unreachableTactic false

namespace Sys2Proof.Machine

theorem sBin_kept {r : State} {d : Nat} {a : Nat} {b : Nat} {s : State} {f : W64 → W64 → W64} (h₀ : Kept r s) : OutK r (sBin d a b s f) := by
  unfold sBin
  repeat' first
    | with_reducible assumption
    | with_reducible first
      | apply land_kept
      | apply gated_kept
      | apply OutK.of
      | apply OutK.fault
      | apply Kept.foldl
      | apply Kept.id_
    | intro _
    | dsimp only
    | split
    | with_reducible apply Kept.with_

theorem sTri_kept {r : State} {d : Nat} {a : Nat} {b : Nat} {s : State} {f : W64 → W64 → W64 → W64} (h₀ : Kept r s) : OutK r (sTri d a b s f) := by
  unfold sTri
  repeat' first
    | with_reducible assumption
    | with_reducible first
      | apply land_kept
      | apply gated_kept
      | apply OutK.of
      | apply OutK.fault
      | apply Kept.foldl
      | apply Kept.id_
    | intro _
    | dsimp only
    | split
    | with_reducible apply Kept.with_

theorem sUn_kept {r : State} {d : Nat} {a : Nat} {s : State} {f : W64 → W64} (h₀ : Kept r s) : OutK r (sUn d a s f) := by
  unfold sUn
  repeat' first
    | with_reducible assumption
    | with_reducible first
      | apply land_kept
      | apply gated_kept
      | apply OutK.of
      | apply OutK.fault
      | apply Kept.foldl
      | apply Kept.id_
    | intro _
    | dsimp only
    | split
    | with_reducible apply Kept.with_

theorem sImm_kept {r : State} {acc : Acc} {d : Nat} {rd : List Nat} {s : State} {f : Group → W64} (h₀ : Kept r s) : OutK r (sImm acc d rd s f) := by
  unfold sImm
  repeat' first
    | with_reducible assumption
    | with_reducible first
      | apply land_kept
      | apply gated_kept
      | apply OutK.of
      | apply OutK.fault
      | apply Kept.foldl
      | apply Kept.id_
    | intro _
    | dsimp only
    | split
    | with_reducible apply Kept.with_

theorem mOp_kept {r : State} {d : Nat} {rd : List RegN} {s : State} {f : Group → Path → W32} (h₀ : Kept r s) : OutK r (mOp d rd s f) := by
  unfold mOp
  repeat' first
    | with_reducible assumption
    | with_reducible first
      | apply land_kept
      | apply gated_kept
      | apply OutK.of
      | apply OutK.fault
      | apply Kept.foldl
      | apply Kept.id_
    | intro _
    | dsimp only
    | split
    | with_reducible apply Kept.with_

theorem msOp_kept {r : State} {d : Nat} {a : Nat} {s : State} {f : W32 → W64} (h₀ : Kept r s) : OutK r (msOp d a s f) := by
  unfold msOp
  repeat' first
    | with_reducible assumption
    | with_reducible first
      | apply land_kept
      | apply gated_kept
      | apply OutK.of
      | apply OutK.fault
      | apply Kept.foldl
      | apply Kept.id_
    | intro _
    | dsimp only
    | split
    | with_reducible apply Kept.with_

theorem execSadd_kept {r : State} {d : Nat} {a : Nat} {b : Nat} {s : State} (h₀ : Kept r s) : OutK r (execSadd d a b s) := by
  unfold execSadd
  repeat' first
    | with_reducible assumption
    | with_reducible first
      | apply sBin_kept
      | apply OutK.of
      | apply OutK.fault
      | apply Kept.foldl
    | intro _
    | dsimp only
    | split
    | with_reducible apply Kept.with_

theorem execSsub_kept {r : State} {d : Nat} {a : Nat} {b : Nat} {s : State} (h₀ : Kept r s) : OutK r (execSsub d a b s) := by
  unfold execSsub
  repeat' first
    | with_reducible assumption
    | with_reducible first
      | apply sBin_kept
      | apply OutK.of
      | apply OutK.fault
      | apply Kept.foldl
    | intro _
    | dsimp only
    | split
    | with_reducible apply Kept.with_

theorem execSmul_kept {r : State} {d : Nat} {a : Nat} {b : Nat} {s : State} (h₀ : Kept r s) : OutK r (execSmul d a b s) := by
  unfold execSmul
  repeat' first
    | with_reducible assumption
    | with_reducible first
      | apply sBin_kept
      | apply OutK.of
      | apply OutK.fault
      | apply Kept.foldl
    | intro _
    | dsimp only
    | split
    | with_reducible apply Kept.with_

theorem execSmulhI_kept {r : State} {d : Nat} {a : Nat} {b : Nat} {s : State} (h₀ : Kept r s) : OutK r (execSmulhI d a b s) := by
  unfold execSmulhI
  repeat' first
    | with_reducible assumption
    | with_reducible first
      | apply sBin_kept
      | apply OutK.of
      | apply OutK.fault
      | apply Kept.foldl
    | intro _
    | dsimp only
    | split
    | with_reducible apply Kept.with_

theorem execSmulhN_kept {r : State} {d : Nat} {a : Nat} {b : Nat} {s : State} (h₀ : Kept r s) : OutK r (execSmulhN d a b s) := by
  unfold execSmulhN
  repeat' first
    | with_reducible assumption
    | with_reducible first
      | apply sBin_kept
      | apply OutK.of
      | apply OutK.fault
      | apply Kept.foldl
    | intro _
    | dsimp only
    | split
    | with_reducible apply Kept.with_

theorem execSdivI_kept {r : State} {d : Nat} {a : Nat} {b : Nat} {s : State} (h₀ : Kept r s) : OutK r (execSdivI d a b s) := by
  unfold execSdivI
  repeat' first
    | with_reducible assumption
    | with_reducible first
      | apply sBin_kept
      | apply OutK.of
      | apply OutK.fault
      | apply Kept.foldl
    | intro _
    | dsimp only
    | split
    | with_reducible apply Kept.with_

theorem execSdivN_kept {r : State} {d : Nat} {a : Nat} {b : Nat} {s : State} (h₀ : Kept r s) : OutK r (execSdivN d a b s) := by
  unfold execSdivN
  repeat' first
    | with_reducible assumption
    | with_reducible first
      | apply sBin_kept
      | apply OutK.of
      | apply OutK.fault
      | apply Kept.foldl
    | intro _
    | dsimp only
    | split
    | with_reducible apply Kept.with_

theorem execSremI_kept {r : State} {d : Nat} {a : Nat} {b : Nat} {s : State} (h₀ : Kept r s) : OutK r (execSremI d a b s) := by
  unfold execSremI
  repeat' first
    | with_reducible assumption
    | with_reducible first
      | apply sBin_kept
      | apply OutK.of
      | apply OutK.fault
      | apply Kept.foldl
    | intro _
    | dsimp only
    | split
    | with_reducible apply Kept.with_

theorem execSremN_kept {r : State} {d : Nat} {a : Nat} {b : Nat} {s : State} (h₀ : Kept r s) : OutK r (execSremN d a b s) := by
  unfold execSremN
  repeat' first
    | with_reducible assumption
    | with_reducible first
      | apply sBin_kept
      | apply OutK.of
      | apply OutK.fault
      | apply Kept.foldl
    | intro _
    | dsimp only
    | split
    | with_reducible apply Kept.with_

theorem execSminI_kept {r : State} {d : Nat} {a : Nat} {b : Nat} {s : State} (h₀ : Kept r s) : OutK r (execSminI d a b s) := by
  unfold execSminI
  repeat' first
    | with_reducible assumption
    | with_reducible first
      | apply sBin_kept
      | apply OutK.of
      | apply OutK.fault
      | apply Kept.foldl
    | intro _
    | dsimp only
    | split
    | with_reducible apply Kept.with_

theorem execSminN_kept {r : State} {d : Nat} {a : Nat} {b : Nat} {s : State} (h₀ : Kept r s) : OutK r (execSminN d a b s) := by
  unfold execSminN
  repeat' first
    | with_reducible assumption
    | with_reducible first
      | apply sBin_kept
      | apply OutK.of
      | apply OutK.fault
      | apply Kept.foldl
    | intro _
    | dsimp only
    | split
    | with_reducible apply Kept.with_

theorem execSmaxI_kept {r : State} {d : Nat} {a : Nat} {b : Nat} {s : State} (h₀ : Kept r s) : OutK r (execSmaxI d a b s) := by
  unfold execSmaxI
  repeat' first
    | with_reducible assumption
    | with_reducible first
      | apply sBin_kept
      | apply OutK.of
      | apply OutK.fault
      | apply Kept.foldl
    | intro _
    | dsimp only
    | split
    | with_reducible apply Kept.with_

theorem execSmaxN_kept {r : State} {d : Nat} {a : Nat} {b : Nat} {s : State} (h₀ : Kept r s) : OutK r (execSmaxN d a b s) := by
  unfold execSmaxN
  repeat' first
    | with_reducible assumption
    | with_reducible first
      | apply sBin_kept
      | apply OutK.of
      | apply OutK.fault
      | apply Kept.foldl
    | intro _
    | dsimp only
    | split
    | with_reducible apply Kept.with_

theorem execSabs_kept {r : State} {d : Nat} {a : Nat} {s : State} (h₀ : Kept r s) : OutK r (execSabs d a s) := by
  unfold execSabs
  repeat' first
    | with_reducible assumption
    | with_reducible first
      | apply sUn_kept
      | apply OutK.of
      | apply OutK.fault
      | apply Kept.foldl
    | intro _
    | dsimp only
    | split
    | with_reducible apply Kept.with_

theorem execSneg_kept {r : State} {d : Nat} {a : Nat} {s : State} (h₀ : Kept r s) : OutK r (execSneg d a s) := by
  unfold execSneg
  repeat' first
    | with_reducible assumption
    | with_reducible first
      | apply sUn_kept
      | apply OutK.of
      | apply OutK.fault
      | apply Kept.foldl
    | intro _
    | dsimp only
    | split
    | with_reducible apply Kept.with_

theorem execSeq_kept {r : State} {d : Nat} {a : Nat} {b : Nat} {s : State} (h₀ : Kept r s) : OutK r (execSeq d a b s) := by
  unfold execSeq
  repeat' first
    | with_reducible assumption
    | with_reducible first
      | apply sBin_kept
      | apply OutK.of
      | apply OutK.fault
      | apply Kept.foldl
    | intro _
    | dsimp only
    | split
    | with_reducible apply Kept.with_

theorem execSne_kept {r : State} {d : Nat} {a : Nat} {b : Nat} {s : State} (h₀ : Kept r s) : OutK r (execSne d a b s) := by
  unfold execSne
  repeat' first
    | with_reducible assumption
    | with_reducible first
      | apply sBin_kept
      | apply OutK.of
      | apply OutK.fault
      | apply Kept.foldl
    | intro _
    | dsimp only
    | split
    | with_reducible apply Kept.with_

theorem execSltI_kept {r : State} {d : Nat} {a : Nat} {b : Nat} {s : State} (h₀ : Kept r s) : OutK r (execSltI d a b s) := by
  unfold execSltI
  repeat' first
    | with_reducible assumption
    | with_reducible first
      | apply sBin_kept
      | apply OutK.of
      | apply OutK.fault
      | apply Kept.foldl
    | intro _
    | dsimp only
    | split
    | with_reducible apply Kept.with_

theorem execSltN_kept {r : State} {d : Nat} {a : Nat} {b : Nat} {s : State} (h₀ : Kept r s) : OutK r (execSltN d a b s) := by
  unfold execSltN
  repeat' first
    | with_reducible assumption
    | with_reducible first
      | apply sBin_kept
      | apply OutK.of
      | apply OutK.fault
      | apply Kept.foldl
    | intro _
    | dsimp only
    | split
    | with_reducible apply Kept.with_

theorem execSleI_kept {r : State} {d : Nat} {a : Nat} {b : Nat} {s : State} (h₀ : Kept r s) : OutK r (execSleI d a b s) := by
  unfold execSleI
  repeat' first
    | with_reducible assumption
    | with_reducible first
      | apply sBin_kept
      | apply OutK.of
      | apply OutK.fault
      | apply Kept.foldl
    | intro _
    | dsimp only
    | split
    | with_reducible apply Kept.with_

theorem execSleN_kept {r : State} {d : Nat} {a : Nat} {b : Nat} {s : State} (h₀ : Kept r s) : OutK r (execSleN d a b s) := by
  unfold execSleN
  repeat' first
    | with_reducible assumption
    | with_reducible first
      | apply sBin_kept
      | apply OutK.of
      | apply OutK.fault
      | apply Kept.foldl
    | intro _
    | dsimp only
    | split
    | with_reducible apply Kept.with_

theorem execSsel_kept {r : State} {d : Nat} {a : Nat} {b : Nat} {s : State} (h₀ : Kept r s) : OutK r (execSsel d a b s) := by
  unfold execSsel
  repeat' first
    | with_reducible assumption
    | with_reducible first
      | apply sTri_kept
      | apply OutK.of
      | apply OutK.fault
      | apply Kept.foldl
    | intro _
    | dsimp only
    | split
    | with_reducible apply Kept.with_

theorem execSmov_kept {r : State} {d : Nat} {a : Nat} {s : State} (h₀ : Kept r s) : OutK r (execSmov d a s) := by
  unfold execSmov
  repeat' first
    | with_reducible assumption
    | with_reducible first
      | apply sUn_kept
      | apply OutK.of
      | apply OutK.fault
      | apply Kept.foldl
    | intro _
    | dsimp only
    | split
    | with_reducible apply Kept.with_

theorem execSadds_kept {r : State} {d : Nat} {a : Nat} {b : Nat} {s : State} (h₀ : Kept r s) : OutK r (execSadds d a b s) := by
  unfold execSadds
  repeat' first
    | with_reducible assumption
    | with_reducible first
      | apply sBin_kept
      | apply OutK.of
      | apply OutK.fault
      | apply Kept.foldl
    | intro _
    | dsimp only
    | split
    | with_reducible apply Kept.with_

theorem execSand_kept {r : State} {d : Nat} {a : Nat} {b : Nat} {s : State} (h₀ : Kept r s) : OutK r (execSand d a b s) := by
  unfold execSand
  repeat' first
    | with_reducible assumption
    | with_reducible first
      | apply sBin_kept
      | apply OutK.of
      | apply OutK.fault
      | apply Kept.foldl
    | intro _
    | dsimp only
    | split
    | with_reducible apply Kept.with_

theorem execSor_kept {r : State} {d : Nat} {a : Nat} {b : Nat} {s : State} (h₀ : Kept r s) : OutK r (execSor d a b s) := by
  unfold execSor
  repeat' first
    | with_reducible assumption
    | with_reducible first
      | apply sBin_kept
      | apply OutK.of
      | apply OutK.fault
      | apply Kept.foldl
    | intro _
    | dsimp only
    | split
    | with_reducible apply Kept.with_

theorem execSxor_kept {r : State} {d : Nat} {a : Nat} {b : Nat} {s : State} (h₀ : Kept r s) : OutK r (execSxor d a b s) := by
  unfold execSxor
  repeat' first
    | with_reducible assumption
    | with_reducible first
      | apply sBin_kept
      | apply OutK.of
      | apply OutK.fault
      | apply Kept.foldl
    | intro _
    | dsimp only
    | split
    | with_reducible apply Kept.with_

theorem execSandn_kept {r : State} {d : Nat} {a : Nat} {b : Nat} {s : State} (h₀ : Kept r s) : OutK r (execSandn d a b s) := by
  unfold execSandn
  repeat' first
    | with_reducible assumption
    | with_reducible first
      | apply sBin_kept
      | apply OutK.of
      | apply OutK.fault
      | apply Kept.foldl
    | intro _
    | dsimp only
    | split
    | with_reducible apply Kept.with_

theorem execSnot_kept {r : State} {d : Nat} {a : Nat} {s : State} (h₀ : Kept r s) : OutK r (execSnot d a s) := by
  unfold execSnot
  repeat' first
    | with_reducible assumption
    | with_reducible first
      | apply sUn_kept
      | apply OutK.of
      | apply OutK.fault
      | apply Kept.foldl
    | intro _
    | dsimp only
    | split
    | with_reducible apply Kept.with_

theorem execSshl_kept {r : State} {d : Nat} {a : Nat} {b : Nat} {s : State} (h₀ : Kept r s) : OutK r (execSshl d a b s) := by
  unfold execSshl
  repeat' first
    | with_reducible assumption
    | with_reducible first
      | apply sBin_kept
      | apply OutK.of
      | apply OutK.fault
      | apply Kept.foldl
    | intro _
    | dsimp only
    | split
    | with_reducible apply Kept.with_

theorem execSshr_kept {r : State} {d : Nat} {a : Nat} {b : Nat} {s : State} (h₀ : Kept r s) : OutK r (execSshr d a b s) := by
  unfold execSshr
  repeat' first
    | with_reducible assumption
    | with_reducible first
      | apply sBin_kept
      | apply OutK.of
      | apply OutK.fault
      | apply Kept.foldl
    | intro _
    | dsimp only
    | split
    | with_reducible apply Kept.with_

theorem execSsar_kept {r : State} {d : Nat} {a : Nat} {b : Nat} {s : State} (h₀ : Kept r s) : OutK r (execSsar d a b s) := by
  unfold execSsar
  repeat' first
    | with_reducible assumption
    | with_reducible first
      | apply sBin_kept
      | apply OutK.of
      | apply OutK.fault
      | apply Kept.foldl
    | intro _
    | dsimp only
    | split
    | with_reducible apply Kept.with_

theorem execSrol_kept {r : State} {d : Nat} {a : Nat} {b : Nat} {s : State} (h₀ : Kept r s) : OutK r (execSrol d a b s) := by
  unfold execSrol
  repeat' first
    | with_reducible assumption
    | with_reducible first
      | apply sBin_kept
      | apply OutK.of
      | apply OutK.fault
      | apply Kept.foldl
    | intro _
    | dsimp only
    | split
    | with_reducible apply Kept.with_

theorem execSror_kept {r : State} {d : Nat} {a : Nat} {b : Nat} {s : State} (h₀ : Kept r s) : OutK r (execSror d a b s) := by
  unfold execSror
  repeat' first
    | with_reducible assumption
    | with_reducible first
      | apply sBin_kept
      | apply OutK.of
      | apply OutK.fault
      | apply Kept.foldl
    | intro _
    | dsimp only
    | split
    | with_reducible apply Kept.with_

theorem execSclz_kept {r : State} {d : Nat} {a : Nat} {s : State} (h₀ : Kept r s) : OutK r (execSclz d a s) := by
  unfold execSclz
  repeat' first
    | with_reducible assumption
    | with_reducible first
      | apply sUn_kept
      | apply OutK.of
      | apply OutK.fault
      | apply Kept.foldl
    | intro _
    | dsimp only
    | split
    | with_reducible apply Kept.with_

theorem execSctz_kept {r : State} {d : Nat} {a : Nat} {s : State} (h₀ : Kept r s) : OutK r (execSctz d a s) := by
  unfold execSctz
  repeat' first
    | with_reducible assumption
    | with_reducible first
      | apply sUn_kept
      | apply OutK.of
      | apply OutK.fault
      | apply Kept.foldl
    | intro _
    | dsimp only
    | split
    | with_reducible apply Kept.with_

theorem execSpop_kept {r : State} {d : Nat} {a : Nat} {s : State} (h₀ : Kept r s) : OutK r (execSpop d a s) := by
  unfold execSpop
  repeat' first
    | with_reducible assumption
    | with_reducible first
      | apply sUn_kept
      | apply OutK.of
      | apply OutK.fault
      | apply Kept.foldl
    | intro _
    | dsimp only
    | split
    | with_reducible apply Kept.with_

theorem execSbfxI_kept {r : State} {d : Nat} {a : Nat} {b : Nat} {s : State} (h₀ : Kept r s) : OutK r (execSbfxI d a b s) := by
  unfold execSbfxI
  repeat' first
    | with_reducible assumption
    | with_reducible first
      | apply sBin_kept
      | apply OutK.of
      | apply OutK.fault
      | apply Kept.foldl
    | intro _
    | dsimp only
    | split
    | with_reducible apply Kept.with_

theorem execSbfxN_kept {r : State} {d : Nat} {a : Nat} {b : Nat} {s : State} (h₀ : Kept r s) : OutK r (execSbfxN d a b s) := by
  unfold execSbfxN
  repeat' first
    | with_reducible assumption
    | with_reducible first
      | apply sBin_kept
      | apply OutK.of
      | apply OutK.fault
      | apply Kept.foldl
    | intro _
    | dsimp only
    | split
    | with_reducible apply Kept.with_

theorem execSbfi_kept {r : State} {d : Nat} {a : Nat} {b : Nat} {s : State} (h₀ : Kept r s) : OutK r (execSbfi d a b s) := by
  unfold execSbfi
  repeat' first
    | with_reducible assumption
    | with_reducible first
      | apply sTri_kept
      | apply OutK.of
      | apply OutK.fault
      | apply Kept.foldl
    | intro _
    | dsimp only
    | split
    | with_reducible apply Kept.with_

theorem execMand_kept {r : State} {d : Nat} {a : Nat} {b : Nat} {s : State} (h₀ : Kept r s) : OutK r (execMand d a b s) := by
  unfold execMand
  repeat' first
    | with_reducible assumption
    | with_reducible first
      | apply mOp_kept
      | apply OutK.of
      | apply OutK.fault
      | apply Kept.foldl
    | intro _
    | dsimp only
    | split
    | with_reducible apply Kept.with_

theorem execMor_kept {r : State} {d : Nat} {a : Nat} {b : Nat} {s : State} (h₀ : Kept r s) : OutK r (execMor d a b s) := by
  unfold execMor
  repeat' first
    | with_reducible assumption
    | with_reducible first
      | apply mOp_kept
      | apply OutK.of
      | apply OutK.fault
      | apply Kept.foldl
    | intro _
    | dsimp only
    | split
    | with_reducible apply Kept.with_

theorem execMxor_kept {r : State} {d : Nat} {a : Nat} {b : Nat} {s : State} (h₀ : Kept r s) : OutK r (execMxor d a b s) := by
  unfold execMxor
  repeat' first
    | with_reducible assumption
    | with_reducible first
      | apply mOp_kept
      | apply OutK.of
      | apply OutK.fault
      | apply Kept.foldl
    | intro _
    | dsimp only
    | split
    | with_reducible apply Kept.with_

theorem execMandn_kept {r : State} {d : Nat} {a : Nat} {b : Nat} {s : State} (h₀ : Kept r s) : OutK r (execMandn d a b s) := by
  unfold execMandn
  repeat' first
    | with_reducible assumption
    | with_reducible first
      | apply mOp_kept
      | apply OutK.of
      | apply OutK.fault
      | apply Kept.foldl
    | intro _
    | dsimp only
    | split
    | with_reducible apply Kept.with_

theorem execMnot_kept {r : State} {d : Nat} {a : Nat} {s : State} (h₀ : Kept r s) : OutK r (execMnot d a s) := by
  unfold execMnot
  repeat' first
    | with_reducible assumption
    | with_reducible first
      | apply mOp_kept
      | apply OutK.of
      | apply OutK.fault
      | apply Kept.foldl
    | intro _
    | dsimp only
    | split
    | with_reducible apply Kept.with_

theorem execMmov_kept {r : State} {d : Nat} {a : Nat} {s : State} (h₀ : Kept r s) : OutK r (execMmov d a s) := by
  unfold execMmov
  repeat' first
    | with_reducible assumption
    | with_reducible first
      | apply mOp_kept
      | apply OutK.of
      | apply OutK.fault
      | apply Kept.foldl
    | intro _
    | dsimp only
    | split
    | with_reducible apply Kept.with_

theorem execMpop_kept {r : State} {d : Nat} {a : Nat} {s : State} (h₀ : Kept r s) : OutK r (execMpop d a s) := by
  unfold execMpop
  repeat' first
    | with_reducible assumption
    | with_reducible first
      | apply msOp_kept
      | apply OutK.of
      | apply OutK.fault
      | apply Kept.foldl
    | intro _
    | dsimp only
    | split
    | with_reducible apply Kept.with_

theorem execMfirst_kept {r : State} {d : Nat} {a : Nat} {s : State} (h₀ : Kept r s) : OutK r (execMfirst d a s) := by
  unfold execMfirst
  repeat' first
    | with_reducible assumption
    | with_reducible first
      | apply msOp_kept
      | apply OutK.of
      | apply OutK.fault
      | apply Kept.foldl
    | intro _
    | dsimp only
    | split
    | with_reducible apply Kept.with_

theorem execMtos_kept {r : State} {d : Nat} {a : Nat} {s : State} (h₀ : Kept r s) : OutK r (execMtos d a s) := by
  unfold execMtos
  repeat' first
    | with_reducible assumption
    | with_reducible first
      | apply msOp_kept
      | apply OutK.of
      | apply OutK.fault
      | apply Kept.foldl
    | intro _
    | dsimp only
    | split
    | with_reducible apply Kept.with_

theorem execStom_kept {r : State} {d : Nat} {a : Nat} {s : State} (h₀ : Kept r s) : OutK r (execStom d a s) := by
  unfold execStom
  repeat' first
    | with_reducible assumption
    | with_reducible first
      | apply mOp_kept
      | apply OutK.of
      | apply OutK.fault
      | apply Kept.foldl
    | intro _
    | dsimp only
    | split
    | with_reducible apply Kept.with_

theorem execMbelow_kept {r : State} {d : Nat} {a : Nat} {b : Nat} {s : State} (h₀ : Kept r s) : OutK r (execMbelow d a b s) := by
  unfold execMbelow
  repeat' first
    | with_reducible assumption
    | with_reducible first
      | apply mOp_kept
      | apply OutK.of
      | apply OutK.fault
      | apply Kept.foldl
    | intro _
    | dsimp only
    | split
    | with_reducible apply Kept.with_

theorem execSaddi_kept {r : State} {d : Nat} {a : Nat} {i : Nat} {s : State} (h₀ : Kept r s) : OutK r (execSaddi d a i s) := by
  unfold execSaddi
  repeat' first
    | with_reducible assumption
    | with_reducible first
      | apply sImm_kept
      | apply OutK.of
      | apply OutK.fault
      | apply Kept.foldl
    | intro _
    | dsimp only
    | split
    | with_reducible apply Kept.with_

theorem execSandi_kept {r : State} {d : Nat} {a : Nat} {i : Nat} {s : State} (h₀ : Kept r s) : OutK r (execSandi d a i s) := by
  unfold execSandi
  repeat' first
    | with_reducible assumption
    | with_reducible first
      | apply sImm_kept
      | apply OutK.of
      | apply OutK.fault
      | apply Kept.foldl
    | intro _
    | dsimp only
    | split
    | with_reducible apply Kept.with_

theorem execSori_kept {r : State} {d : Nat} {a : Nat} {i : Nat} {s : State} (h₀ : Kept r s) : OutK r (execSori d a i s) := by
  unfold execSori
  repeat' first
    | with_reducible assumption
    | with_reducible first
      | apply sImm_kept
      | apply OutK.of
      | apply OutK.fault
      | apply Kept.foldl
    | intro _
    | dsimp only
    | split
    | with_reducible apply Kept.with_

theorem execSxori_kept {r : State} {d : Nat} {a : Nat} {i : Nat} {s : State} (h₀ : Kept r s) : OutK r (execSxori d a i s) := by
  unfold execSxori
  repeat' first
    | with_reducible assumption
    | with_reducible first
      | apply sImm_kept
      | apply OutK.of
      | apply OutK.fault
      | apply Kept.foldl
    | intro _
    | dsimp only
    | split
    | with_reducible apply Kept.with_

theorem execSslti_kept {r : State} {d : Nat} {a : Nat} {i : Nat} {s : State} (h₀ : Kept r s) : OutK r (execSslti d a i s) := by
  unfold execSslti
  repeat' first
    | with_reducible assumption
    | with_reducible first
      | apply sImm_kept
      | apply OutK.of
      | apply OutK.fault
      | apply Kept.foldl
    | intro _
    | dsimp only
    | split
    | with_reducible apply Kept.with_

theorem execSshli_kept {r : State} {d : Nat} {a : Nat} {i : Nat} {s : State} (h₀ : Kept r s) : OutK r (execSshli d a i s) := by
  unfold execSshli
  repeat' first
    | with_reducible assumption
    | with_reducible first
      | apply sImm_kept
      | apply OutK.of
      | apply OutK.fault
      | apply Kept.foldl
    | intro _
    | dsimp only
    | split
    | with_reducible apply Kept.with_

theorem execSshri_kept {r : State} {d : Nat} {a : Nat} {i : Nat} {s : State} (h₀ : Kept r s) : OutK r (execSshri d a i s) := by
  unfold execSshri
  repeat' first
    | with_reducible assumption
    | with_reducible first
      | apply sImm_kept
      | apply OutK.of
      | apply OutK.fault
      | apply Kept.foldl
    | intro _
    | dsimp only
    | split
    | with_reducible apply Kept.with_

theorem execSli_kept {r : State} {d : Nat} {i : Nat} {s : State} (h₀ : Kept r s) : OutK r (execSli d i s) := by
  unfold execSli
  repeat' first
    | with_reducible assumption
    | with_reducible first
      | apply sImm_kept
      | apply OutK.of
      | apply OutK.fault
      | apply Kept.foldl
    | intro _
    | dsimp only
    | split
    | with_reducible apply Kept.with_

theorem vElem_kept {r : State} {w : Nat} {un : Bool} {d : Nat} {a : Nat} {b : Nat} {s : State} {f : Nat → Nat → Nat × Nat} (h₀ : Kept r s) : OutK r (vElem w un d a b s f) := by
  unfold vElem
  repeat' first
    | with_reducible assumption
    | with_reducible first
      | apply land_kept
      | apply gated_kept
      | apply OutK.of
      | apply OutK.fault
      | apply Kept.foldl
      | apply Kept.id_
    | intro _
    | dsimp only
    | split
    | with_reducible apply Kept.with_

theorem vBin_kept {r : State} {c : Nat} {d : Nat} {a : Nat} {b : Nat} {s : State} {f : Nat → Nat → Nat → Nat} (h₀ : Kept r s) : OutK r (vBin c d a b s f) := by
  unfold vBin
  repeat' first
    | with_reducible assumption
    | with_reducible first
      | apply vElem_kept
      | apply OutK.of
      | apply OutK.fault
      | apply Kept.foldl
    | intro _
    | dsimp only
    | split
    | with_reducible apply Kept.with_

theorem vUn_kept {r : State} {c : Nat} {d : Nat} {a : Nat} {s : State} {f : Nat → Nat → Nat} (h₀ : Kept r s) : OutK r (vUn c d a s f) := by
  unfold vUn
  repeat' first
    | with_reducible assumption
    | with_reducible first
      | apply vElem_kept
      | apply OutK.of
      | apply OutK.fault
      | apply Kept.foldl
    | intro _
    | dsimp only
    | split
    | with_reducible apply Kept.with_

theorem vWhole_kept {r : State} {rd : List Nat} {acc : Acc} {d : Nat} {s : State} {f : Group → Nat → W64} (h₀ : Kept r s) : OutK r (vWhole rd acc d s f) := by
  unfold vWhole
  repeat' first
    | with_reducible assumption
    | with_reducible first
      | apply land_kept
      | apply gated_kept
      | apply OutK.of
      | apply OutK.fault
      | apply Kept.foldl
      | apply Kept.id_
    | intro _
    | dsimp only
    | split
    | with_reducible apply Kept.with_

theorem execVadd_kept {r : State} {w : Nat} {d : Nat} {a : Nat} {b : Nat} {s : State} (h₀ : Kept r s) : OutK r (execVadd w d a b s) := by
  unfold execVadd
  repeat' first
    | with_reducible assumption
    | with_reducible first
      | apply vBin_kept
      | apply OutK.of
      | apply OutK.fault
      | apply Kept.foldl
    | intro _
    | dsimp only
    | split
    | with_reducible apply Kept.with_

theorem execVsub_kept {r : State} {w : Nat} {d : Nat} {a : Nat} {b : Nat} {s : State} (h₀ : Kept r s) : OutK r (execVsub w d a b s) := by
  unfold execVsub
  repeat' first
    | with_reducible assumption
    | with_reducible first
      | apply vBin_kept
      | apply OutK.of
      | apply OutK.fault
      | apply Kept.foldl
    | intro _
    | dsimp only
    | split
    | with_reducible apply Kept.with_

theorem execVmul_kept {r : State} {w : Nat} {d : Nat} {a : Nat} {b : Nat} {s : State} (h₀ : Kept r s) : OutK r (execVmul w d a b s) := by
  unfold execVmul
  repeat' first
    | with_reducible assumption
    | with_reducible first
      | apply vBin_kept
      | apply OutK.of
      | apply OutK.fault
      | apply Kept.foldl
    | intro _
    | dsimp only
    | split
    | with_reducible apply Kept.with_

theorem execVmulhI_kept {r : State} {w : Nat} {d : Nat} {a : Nat} {b : Nat} {s : State} (h₀ : Kept r s) : OutK r (execVmulhI w d a b s) := by
  unfold execVmulhI
  repeat' first
    | with_reducible assumption
    | with_reducible first
      | apply vBin_kept
      | apply OutK.of
      | apply OutK.fault
      | apply Kept.foldl
    | intro _
    | dsimp only
    | split
    | with_reducible apply Kept.with_

theorem execVmulhN_kept {r : State} {w : Nat} {d : Nat} {a : Nat} {b : Nat} {s : State} (h₀ : Kept r s) : OutK r (execVmulhN w d a b s) := by
  unfold execVmulhN
  repeat' first
    | with_reducible assumption
    | with_reducible first
      | apply vBin_kept
      | apply OutK.of
      | apply OutK.fault
      | apply Kept.foldl
    | intro _
    | dsimp only
    | split
    | with_reducible apply Kept.with_

theorem execVminI_kept {r : State} {w : Nat} {d : Nat} {a : Nat} {b : Nat} {s : State} (h₀ : Kept r s) : OutK r (execVminI w d a b s) := by
  unfold execVminI
  repeat' first
    | with_reducible assumption
    | with_reducible first
      | apply vBin_kept
      | apply OutK.of
      | apply OutK.fault
      | apply Kept.foldl
    | intro _
    | dsimp only
    | split
    | with_reducible apply Kept.with_

theorem execVminN_kept {r : State} {w : Nat} {d : Nat} {a : Nat} {b : Nat} {s : State} (h₀ : Kept r s) : OutK r (execVminN w d a b s) := by
  unfold execVminN
  repeat' first
    | with_reducible assumption
    | with_reducible first
      | apply vBin_kept
      | apply OutK.of
      | apply OutK.fault
      | apply Kept.foldl
    | intro _
    | dsimp only
    | split
    | with_reducible apply Kept.with_

theorem execVmaxI_kept {r : State} {w : Nat} {d : Nat} {a : Nat} {b : Nat} {s : State} (h₀ : Kept r s) : OutK r (execVmaxI w d a b s) := by
  unfold execVmaxI
  repeat' first
    | with_reducible assumption
    | with_reducible first
      | apply vBin_kept
      | apply OutK.of
      | apply OutK.fault
      | apply Kept.foldl
    | intro _
    | dsimp only
    | split
    | with_reducible apply Kept.with_

theorem execVmaxN_kept {r : State} {w : Nat} {d : Nat} {a : Nat} {b : Nat} {s : State} (h₀ : Kept r s) : OutK r (execVmaxN w d a b s) := by
  unfold execVmaxN
  repeat' first
    | with_reducible assumption
    | with_reducible first
      | apply vBin_kept
      | apply OutK.of
      | apply OutK.fault
      | apply Kept.foldl
    | intro _
    | dsimp only
    | split
    | with_reducible apply Kept.with_

theorem execVabs_kept {r : State} {w : Nat} {d : Nat} {a : Nat} {s : State} (h₀ : Kept r s) : OutK r (execVabs w d a s) := by
  unfold execVabs
  repeat' first
    | with_reducible assumption
    | with_reducible first
      | apply vUn_kept
      | apply OutK.of
      | apply OutK.fault
      | apply Kept.foldl
    | intro _
    | dsimp only
    | split
    | with_reducible apply Kept.with_

theorem execVneg_kept {r : State} {w : Nat} {d : Nat} {a : Nat} {s : State} (h₀ : Kept r s) : OutK r (execVneg w d a s) := by
  unfold execVneg
  repeat' first
    | with_reducible assumption
    | with_reducible first
      | apply vUn_kept
      | apply OutK.of
      | apply OutK.fault
      | apply Kept.foldl
    | intro _
    | dsimp only
    | split
    | with_reducible apply Kept.with_

theorem execVavgN_kept {r : State} {w : Nat} {d : Nat} {a : Nat} {b : Nat} {s : State} (h₀ : Kept r s) : OutK r (execVavgN w d a b s) := by
  unfold execVavgN
  repeat' first
    | with_reducible assumption
    | with_reducible first
      | apply vBin_kept
      | apply OutK.of
      | apply OutK.fault
      | apply Kept.foldl
    | intro _
    | dsimp only
    | split
    | with_reducible apply Kept.with_

theorem execVshl_kept {r : State} {w : Nat} {d : Nat} {a : Nat} {b : Nat} {s : State} (h₀ : Kept r s) : OutK r (execVshl w d a b s) := by
  unfold execVshl
  repeat' first
    | with_reducible assumption
    | with_reducible first
      | apply vBin_kept
      | apply OutK.of
      | apply OutK.fault
      | apply Kept.foldl
    | intro _
    | dsimp only
    | split
    | with_reducible apply Kept.with_

theorem execVshr_kept {r : State} {w : Nat} {d : Nat} {a : Nat} {b : Nat} {s : State} (h₀ : Kept r s) : OutK r (execVshr w d a b s) := by
  unfold execVshr
  repeat' first
    | with_reducible assumption
    | with_reducible first
      | apply vBin_kept
      | apply OutK.of
      | apply OutK.fault
      | apply Kept.foldl
    | intro _
    | dsimp only
    | split
    | with_reducible apply Kept.with_

theorem execVsar_kept {r : State} {w : Nat} {d : Nat} {a : Nat} {b : Nat} {s : State} (h₀ : Kept r s) : OutK r (execVsar w d a b s) := by
  unfold execVsar
  repeat' first
    | with_reducible assumption
    | with_reducible first
      | apply vBin_kept
      | apply OutK.of
      | apply OutK.fault
      | apply Kept.foldl
    | intro _
    | dsimp only
    | split
    | with_reducible apply Kept.with_

theorem execVpop_kept {r : State} {w : Nat} {d : Nat} {a : Nat} {s : State} (h₀ : Kept r s) : OutK r (execVpop w d a s) := by
  unfold execVpop
  repeat' first
    | with_reducible assumption
    | with_reducible first
      | apply vUn_kept
      | apply OutK.of
      | apply OutK.fault
      | apply Kept.foldl
    | intro _
    | dsimp only
    | split
    | with_reducible apply Kept.with_

theorem execVclz_kept {r : State} {w : Nat} {d : Nat} {a : Nat} {s : State} (h₀ : Kept r s) : OutK r (execVclz w d a s) := by
  unfold execVclz
  repeat' first
    | with_reducible assumption
    | with_reducible first
      | apply vUn_kept
      | apply OutK.of
      | apply OutK.fault
      | apply Kept.foldl
    | intro _
    | dsimp only
    | split
    | with_reducible apply Kept.with_

theorem execVceq_kept {r : State} {w : Nat} {d : Nat} {a : Nat} {b : Nat} {s : State} (h₀ : Kept r s) : OutK r (execVceq w d a b s) := by
  unfold execVceq
  repeat' first
    | with_reducible assumption
    | with_reducible first
      | apply vBin_kept
      | apply OutK.of
      | apply OutK.fault
      | apply Kept.foldl
    | intro _
    | dsimp only
    | split
    | with_reducible apply Kept.with_

theorem execVcne_kept {r : State} {w : Nat} {d : Nat} {a : Nat} {b : Nat} {s : State} (h₀ : Kept r s) : OutK r (execVcne w d a b s) := by
  unfold execVcne
  repeat' first
    | with_reducible assumption
    | with_reducible first
      | apply vBin_kept
      | apply OutK.of
      | apply OutK.fault
      | apply Kept.foldl
    | intro _
    | dsimp only
    | split
    | with_reducible apply Kept.with_

theorem execVcltI_kept {r : State} {w : Nat} {d : Nat} {a : Nat} {b : Nat} {s : State} (h₀ : Kept r s) : OutK r (execVcltI w d a b s) := by
  unfold execVcltI
  repeat' first
    | with_reducible assumption
    | with_reducible first
      | apply vBin_kept
      | apply OutK.of
      | apply OutK.fault
      | apply Kept.foldl
    | intro _
    | dsimp only
    | split
    | with_reducible apply Kept.with_

theorem execVcltN_kept {r : State} {w : Nat} {d : Nat} {a : Nat} {b : Nat} {s : State} (h₀ : Kept r s) : OutK r (execVcltN w d a b s) := by
  unfold execVcltN
  repeat' first
    | with_reducible assumption
    | with_reducible first
      | apply vBin_kept
      | apply OutK.of
      | apply OutK.fault
      | apply Kept.foldl
    | intro _
    | dsimp only
    | split
    | with_reducible apply Kept.with_

theorem execVcleI_kept {r : State} {w : Nat} {d : Nat} {a : Nat} {b : Nat} {s : State} (h₀ : Kept r s) : OutK r (execVcleI w d a b s) := by
  unfold execVcleI
  repeat' first
    | with_reducible assumption
    | with_reducible first
      | apply vBin_kept
      | apply OutK.of
      | apply OutK.fault
      | apply Kept.foldl
    | intro _
    | dsimp only
    | split
    | with_reducible apply Kept.with_

theorem execVcleN_kept {r : State} {w : Nat} {d : Nat} {a : Nat} {b : Nat} {s : State} (h₀ : Kept r s) : OutK r (execVcleN w d a b s) := by
  unfold execVcleN
  repeat' first
    | with_reducible assumption
    | with_reducible first
      | apply vBin_kept
      | apply OutK.of
      | apply OutK.fault
      | apply Kept.foldl
    | intro _
    | dsimp only
    | split
    | with_reducible apply Kept.with_

theorem execVaddSatI_kept {r : State} {w : Nat} {d : Nat} {a : Nat} {b : Nat} {s : State} (h₀ : Kept r s) : OutK r (execVaddSatI w d a b s) := by
  unfold execVaddSatI
  repeat' first
    | with_reducible assumption
    | with_reducible first
      | apply vElem_kept
      | apply OutK.of
      | apply OutK.fault
      | apply Kept.foldl
    | intro _
    | dsimp only
    | split
    | with_reducible apply Kept.with_

theorem execVaddSatN_kept {r : State} {w : Nat} {d : Nat} {a : Nat} {b : Nat} {s : State} (h₀ : Kept r s) : OutK r (execVaddSatN w d a b s) := by
  unfold execVaddSatN
  repeat' first
    | with_reducible assumption
    | with_reducible first
      | apply vElem_kept
      | apply OutK.of
      | apply OutK.fault
      | apply Kept.foldl
    | intro _
    | dsimp only
    | split
    | with_reducible apply Kept.with_

theorem execVand_kept {r : State} {d : Nat} {a : Nat} {b : Nat} {s : State} (h₀ : Kept r s) : OutK r (execVand d a b s) := by
  unfold execVand
  repeat' first
    | with_reducible assumption
    | with_reducible first
      | apply vWhole_kept
      | apply OutK.of
      | apply OutK.fault
      | apply Kept.foldl
    | intro _
    | dsimp only
    | split
    | with_reducible apply Kept.with_

theorem execVor_kept {r : State} {d : Nat} {a : Nat} {b : Nat} {s : State} (h₀ : Kept r s) : OutK r (execVor d a b s) := by
  unfold execVor
  repeat' first
    | with_reducible assumption
    | with_reducible first
      | apply vWhole_kept
      | apply OutK.of
      | apply OutK.fault
      | apply Kept.foldl
    | intro _
    | dsimp only
    | split
    | with_reducible apply Kept.with_

theorem execVxor_kept {r : State} {d : Nat} {a : Nat} {b : Nat} {s : State} (h₀ : Kept r s) : OutK r (execVxor d a b s) := by
  unfold execVxor
  repeat' first
    | with_reducible assumption
    | with_reducible first
      | apply vWhole_kept
      | apply OutK.of
      | apply OutK.fault
      | apply Kept.foldl
    | intro _
    | dsimp only
    | split
    | with_reducible apply Kept.with_

theorem execVandn_kept {r : State} {d : Nat} {a : Nat} {b : Nat} {s : State} (h₀ : Kept r s) : OutK r (execVandn d a b s) := by
  unfold execVandn
  repeat' first
    | with_reducible assumption
    | with_reducible first
      | apply vWhole_kept
      | apply OutK.of
      | apply OutK.fault
      | apply Kept.foldl
    | intro _
    | dsimp only
    | split
    | with_reducible apply Kept.with_

theorem execVsel_kept {r : State} {d : Nat} {a : Nat} {b : Nat} {s : State} (h₀ : Kept r s) : OutK r (execVsel d a b s) := by
  unfold execVsel
  repeat' first
    | with_reducible assumption
    | with_reducible first
      | apply vWhole_kept
      | apply OutK.of
      | apply OutK.fault
      | apply Kept.foldl
    | intro _
    | dsimp only
    | split
    | with_reducible apply Kept.with_

theorem execVnot_kept {r : State} {d : Nat} {a : Nat} {s : State} (h₀ : Kept r s) : OutK r (execVnot d a s) := by
  unfold execVnot
  repeat' first
    | with_reducible assumption
    | with_reducible first
      | apply vWhole_kept
      | apply OutK.of
      | apply OutK.fault
      | apply Kept.foldl
    | intro _
    | dsimp only
    | split
    | with_reducible apply Kept.with_

theorem execVmov_kept {r : State} {d : Nat} {a : Nat} {s : State} (h₀ : Kept r s) : OutK r (execVmov d a s) := by
  unfold execVmov
  repeat' first
    | with_reducible assumption
    | with_reducible first
      | apply vWhole_kept
      | apply OutK.of
      | apply OutK.fault
      | apply Kept.foldl
    | intro _
    | dsimp only
    | split
    | with_reducible apply Kept.with_

theorem execVtom_kept {r : State} {d : Nat} {a : Nat} {e : Nat} {s : State} (h₀ : Kept r s) : OutK r (execVtom d a e s) := by
  unfold execVtom
  repeat' first
    | with_reducible assumption
    | with_reducible first
      | apply land_kept
      | apply gated_kept
      | apply OutK.of
      | apply OutK.fault
      | apply Kept.foldl
      | apply Kept.id_
    | intro _
    | dsimp only
    | split
    | with_reducible apply Kept.with_

theorem execMtov_kept {r : State} {d : Nat} {a : Nat} {s : State} (h₀ : Kept r s) : OutK r (execMtov d a s) := by
  unfold execMtov
  repeat' first
    | with_reducible assumption
    | with_reducible first
      | apply land_kept
      | apply gated_kept
      | apply OutK.of
      | apply OutK.fault
      | apply Kept.foldl
      | apply Kept.id_
    | intro _
    | dsimp only
    | split
    | with_reducible apply Kept.with_

theorem vImm_kept {r : State} {acc : Acc} {d : Nat} {rd : List RegN} {s : State} {f : Group → Nat → Nat → Nat} (h₀ : Kept r s) : OutK r (vImm acc d rd s f) := by
  unfold vImm
  repeat' first
    | with_reducible assumption
    | with_reducible first
      | apply land_kept
      | apply gated_kept
      | apply OutK.of
      | apply OutK.fault
      | apply Kept.foldl
      | apply Kept.id_
    | intro _
    | dsimp only
    | split
    | with_reducible apply Kept.with_

theorem execVaddi_kept {r : State} {d : Nat} {a : Nat} {i : Nat} {s : State} (h₀ : Kept r s) : OutK r (execVaddi d a i s) := by
  unfold execVaddi
  repeat' first
    | with_reducible assumption
    | with_reducible first
      | apply vImm_kept
      | apply OutK.of
      | apply OutK.fault
      | apply Kept.foldl
    | intro _
    | dsimp only
    | split
    | with_reducible apply Kept.with_

theorem execVmovi_kept {r : State} {d : Nat} {i : Nat} {s : State} (h₀ : Kept r s) : OutK r (execVmovi d i s) := by
  unfold execVmovi
  repeat' first
    | with_reducible assumption
    | with_reducible first
      | apply vImm_kept
      | apply OutK.of
      | apply OutK.fault
      | apply Kept.foldl
    | intro _
    | dsimp only
    | split
    | with_reducible apply Kept.with_

theorem execVsplat_kept {r : State} {d : Nat} {a : Nat} {i : Nat} {s : State} (h₀ : Kept r s) : OutK r (execVsplat d a i s) := by
  unfold execVsplat
  repeat' first
    | with_reducible assumption
    | with_reducible first
      | apply vImm_kept
      | apply OutK.of
      | apply OutK.fault
      | apply Kept.foldl
    | intro _
    | dsimp only
    | split
    | with_reducible apply Kept.with_

theorem fArith_kept {r : State} {f : Fmt} {tri : Bool} {d : Nat} {a : Nat} {b : Nat} {s : State} {op : Nat → FV → FV → FV → FV × Nat} (h₀ : Kept r s) : OutK r (fArith f tri d a b s op) := by
  unfold fArith
  repeat' first
    | with_reducible assumption
    | with_reducible first
      | apply withDraws_kept
      | apply land_kept
      | apply gated_kept
      | apply OutK.of
      | apply OutK.fault
      | apply Kept.foldl
      | apply Kept.id_
    | intro _
    | dsimp only
    | split
    | with_reducible apply Kept.with_

theorem fMinMax_kept {r : State} {f : Fmt} {mx : Bool} {num : Bool} {d : Nat} {a : Nat} {b : Nat} {s : State} (h₀ : Kept r s) : OutK r (fMinMax f mx num d a b s) := by
  unfold fMinMax
  repeat' first
    | with_reducible assumption
    | with_reducible first
      | apply land_kept
      | apply gated_kept
      | apply OutK.of
      | apply OutK.fault
      | apply Kept.foldl
      | apply Kept.id_
    | intro _
    | dsimp only
    | split
    | with_reducible apply Kept.with_

theorem fCmp_kept {r : State} {f : Fmt} {rel : Nat} {d : Nat} {a : Nat} {b : Nat} {s : State} (h₀ : Kept r s) : OutK r (fCmp f rel d a b s) := by
  unfold fCmp
  repeat' first
    | with_reducible assumption
    | with_reducible first
      | apply land_kept
      | apply gated_kept
      | apply OutK.of
      | apply OutK.fault
      | apply Kept.foldl
      | apply Kept.id_
    | intro _
    | dsimp only
    | split
    | with_reducible apply Kept.with_

theorem fBits_kept {r : State} {f : Fmt} {un : Bool} {d : Nat} {a : Nat} {b : Nat} {s : State} {op : Nat → Nat → Nat} (h₀ : Kept r s) : OutK r (fBits f un d a b s op) := by
  unfold fBits
  repeat' first
    | with_reducible assumption
    | with_reducible first
      | apply land_kept
      | apply gated_kept
      | apply OutK.of
      | apply OutK.fault
      | apply Kept.foldl
      | apply Kept.id_
    | intro _
    | dsimp only
    | split
    | with_reducible apply Kept.with_

theorem execVfmaF32_kept {r : State} {d : Nat} {a : Nat} {b : Nat} {s : State} (h₀ : Kept r s) : OutK r (execVfmaF32 d a b s) := by
  unfold execVfmaF32
  repeat' first
    | with_reducible assumption
    | with_reducible first
      | apply fArith_kept
      | apply OutK.of
      | apply OutK.fault
      | apply Kept.foldl
    | intro _
    | dsimp only
    | split
    | with_reducible apply Kept.with_

theorem execVfmaF16_kept {r : State} {d : Nat} {a : Nat} {b : Nat} {s : State} (h₀ : Kept r s) : OutK r (execVfmaF16 d a b s) := by
  unfold execVfmaF16
  repeat' first
    | with_reducible assumption
    | with_reducible first
      | apply fArith_kept
      | apply OutK.of
      | apply OutK.fault
      | apply Kept.foldl
    | intro _
    | dsimp only
    | split
    | with_reducible apply Kept.with_

theorem execVfmaBf16_kept {r : State} {d : Nat} {a : Nat} {b : Nat} {s : State} (h₀ : Kept r s) : OutK r (execVfmaBf16 d a b s) := by
  unfold execVfmaBf16
  repeat' first
    | with_reducible assumption
    | with_reducible first
      | apply fArith_kept
      | apply OutK.of
      | apply OutK.fault
      | apply Kept.foldl
    | intro _
    | dsimp only
    | split
    | with_reducible apply Kept.with_

theorem execVfmsF32_kept {r : State} {d : Nat} {a : Nat} {b : Nat} {s : State} (h₀ : Kept r s) : OutK r (execVfmsF32 d a b s) := by
  unfold execVfmsF32
  repeat' first
    | with_reducible assumption
    | with_reducible first
      | apply fArith_kept
      | apply OutK.of
      | apply OutK.fault
      | apply Kept.foldl
    | intro _
    | dsimp only
    | split
    | with_reducible apply Kept.with_

theorem execVfmsF16_kept {r : State} {d : Nat} {a : Nat} {b : Nat} {s : State} (h₀ : Kept r s) : OutK r (execVfmsF16 d a b s) := by
  unfold execVfmsF16
  repeat' first
    | with_reducible assumption
    | with_reducible first
      | apply fArith_kept
      | apply OutK.of
      | apply OutK.fault
      | apply Kept.foldl
    | intro _
    | dsimp only
    | split
    | with_reducible apply Kept.with_

theorem execVfmsBf16_kept {r : State} {d : Nat} {a : Nat} {b : Nat} {s : State} (h₀ : Kept r s) : OutK r (execVfmsBf16 d a b s) := by
  unfold execVfmsBf16
  repeat' first
    | with_reducible assumption
    | with_reducible first
      | apply fArith_kept
      | apply OutK.of
      | apply OutK.fault
      | apply Kept.foldl
    | intro _
    | dsimp only
    | split
    | with_reducible apply Kept.with_

theorem execVfnmaF32_kept {r : State} {d : Nat} {a : Nat} {b : Nat} {s : State} (h₀ : Kept r s) : OutK r (execVfnmaF32 d a b s) := by
  unfold execVfnmaF32
  repeat' first
    | with_reducible assumption
    | with_reducible first
      | apply fArith_kept
      | apply OutK.of
      | apply OutK.fault
      | apply Kept.foldl
    | intro _
    | dsimp only
    | split
    | with_reducible apply Kept.with_

theorem execVfnmaF16_kept {r : State} {d : Nat} {a : Nat} {b : Nat} {s : State} (h₀ : Kept r s) : OutK r (execVfnmaF16 d a b s) := by
  unfold execVfnmaF16
  repeat' first
    | with_reducible assumption
    | with_reducible first
      | apply fArith_kept
      | apply OutK.of
      | apply OutK.fault
      | apply Kept.foldl
    | intro _
    | dsimp only
    | split
    | with_reducible apply Kept.with_

theorem execVfnmaBf16_kept {r : State} {d : Nat} {a : Nat} {b : Nat} {s : State} (h₀ : Kept r s) : OutK r (execVfnmaBf16 d a b s) := by
  unfold execVfnmaBf16
  repeat' first
    | with_reducible assumption
    | with_reducible first
      | apply fArith_kept
      | apply OutK.of
      | apply OutK.fault
      | apply Kept.foldl
    | intro _
    | dsimp only
    | split
    | with_reducible apply Kept.with_

theorem execVfaddF32_kept {r : State} {d : Nat} {a : Nat} {b : Nat} {s : State} (h₀ : Kept r s) : OutK r (execVfaddF32 d a b s) := by
  unfold execVfaddF32
  repeat' first
    | with_reducible assumption
    | with_reducible first
      | apply fArith_kept
      | apply OutK.of
      | apply OutK.fault
      | apply Kept.foldl
    | intro _
    | dsimp only
    | split
    | with_reducible apply Kept.with_

theorem execVfaddF16_kept {r : State} {d : Nat} {a : Nat} {b : Nat} {s : State} (h₀ : Kept r s) : OutK r (execVfaddF16 d a b s) := by
  unfold execVfaddF16
  repeat' first
    | with_reducible assumption
    | with_reducible first
      | apply fArith_kept
      | apply OutK.of
      | apply OutK.fault
      | apply Kept.foldl
    | intro _
    | dsimp only
    | split
    | with_reducible apply Kept.with_

theorem execVfaddBf16_kept {r : State} {d : Nat} {a : Nat} {b : Nat} {s : State} (h₀ : Kept r s) : OutK r (execVfaddBf16 d a b s) := by
  unfold execVfaddBf16
  repeat' first
    | with_reducible assumption
    | with_reducible first
      | apply fArith_kept
      | apply OutK.of
      | apply OutK.fault
      | apply Kept.foldl
    | intro _
    | dsimp only
    | split
    | with_reducible apply Kept.with_

theorem execVfsubF32_kept {r : State} {d : Nat} {a : Nat} {b : Nat} {s : State} (h₀ : Kept r s) : OutK r (execVfsubF32 d a b s) := by
  unfold execVfsubF32
  repeat' first
    | with_reducible assumption
    | with_reducible first
      | apply fArith_kept
      | apply OutK.of
      | apply OutK.fault
      | apply Kept.foldl
    | intro _
    | dsimp only
    | split
    | with_reducible apply Kept.with_

theorem execVfsubF16_kept {r : State} {d : Nat} {a : Nat} {b : Nat} {s : State} (h₀ : Kept r s) : OutK r (execVfsubF16 d a b s) := by
  unfold execVfsubF16
  repeat' first
    | with_reducible assumption
    | with_reducible first
      | apply fArith_kept
      | apply OutK.of
      | apply OutK.fault
      | apply Kept.foldl
    | intro _
    | dsimp only
    | split
    | with_reducible apply Kept.with_

theorem execVfsubBf16_kept {r : State} {d : Nat} {a : Nat} {b : Nat} {s : State} (h₀ : Kept r s) : OutK r (execVfsubBf16 d a b s) := by
  unfold execVfsubBf16
  repeat' first
    | with_reducible assumption
    | with_reducible first
      | apply fArith_kept
      | apply OutK.of
      | apply OutK.fault
      | apply Kept.foldl
    | intro _
    | dsimp only
    | split
    | with_reducible apply Kept.with_

theorem execVfmulF32_kept {r : State} {d : Nat} {a : Nat} {b : Nat} {s : State} (h₀ : Kept r s) : OutK r (execVfmulF32 d a b s) := by
  unfold execVfmulF32
  repeat' first
    | with_reducible assumption
    | with_reducible first
      | apply fArith_kept
      | apply OutK.of
      | apply OutK.fault
      | apply Kept.foldl
    | intro _
    | dsimp only
    | split
    | with_reducible apply Kept.with_

theorem execVfmulF16_kept {r : State} {d : Nat} {a : Nat} {b : Nat} {s : State} (h₀ : Kept r s) : OutK r (execVfmulF16 d a b s) := by
  unfold execVfmulF16
  repeat' first
    | with_reducible assumption
    | with_reducible first
      | apply fArith_kept
      | apply OutK.of
      | apply OutK.fault
      | apply Kept.foldl
    | intro _
    | dsimp only
    | split
    | with_reducible apply Kept.with_

theorem execVfmulBf16_kept {r : State} {d : Nat} {a : Nat} {b : Nat} {s : State} (h₀ : Kept r s) : OutK r (execVfmulBf16 d a b s) := by
  unfold execVfmulBf16
  repeat' first
    | with_reducible assumption
    | with_reducible first
      | apply fArith_kept
      | apply OutK.of
      | apply OutK.fault
      | apply Kept.foldl
    | intro _
    | dsimp only
    | split
    | with_reducible apply Kept.with_

theorem execVfminF32_kept {r : State} {d : Nat} {a : Nat} {b : Nat} {s : State} (h₀ : Kept r s) : OutK r (execVfminF32 d a b s) := by
  unfold execVfminF32
  repeat' first
    | with_reducible assumption
    | with_reducible first
      | apply fMinMax_kept
      | apply OutK.of
      | apply OutK.fault
      | apply Kept.foldl
    | intro _
    | dsimp only
    | split
    | with_reducible apply Kept.with_

theorem execVfminF16_kept {r : State} {d : Nat} {a : Nat} {b : Nat} {s : State} (h₀ : Kept r s) : OutK r (execVfminF16 d a b s) := by
  unfold execVfminF16
  repeat' first
    | with_reducible assumption
    | with_reducible first
      | apply fMinMax_kept
      | apply OutK.of
      | apply OutK.fault
      | apply Kept.foldl
    | intro _
    | dsimp only
    | split
    | with_reducible apply Kept.with_

theorem execVfminBf16_kept {r : State} {d : Nat} {a : Nat} {b : Nat} {s : State} (h₀ : Kept r s) : OutK r (execVfminBf16 d a b s) := by
  unfold execVfminBf16
  repeat' first
    | with_reducible assumption
    | with_reducible first
      | apply fMinMax_kept
      | apply OutK.of
      | apply OutK.fault
      | apply Kept.foldl
    | intro _
    | dsimp only
    | split
    | with_reducible apply Kept.with_

theorem execVfmaxF32_kept {r : State} {d : Nat} {a : Nat} {b : Nat} {s : State} (h₀ : Kept r s) : OutK r (execVfmaxF32 d a b s) := by
  unfold execVfmaxF32
  repeat' first
    | with_reducible assumption
    | with_reducible first
      | apply fMinMax_kept
      | apply OutK.of
      | apply OutK.fault
      | apply Kept.foldl
    | intro _
    | dsimp only
    | split
    | with_reducible apply Kept.with_

theorem execVfmaxF16_kept {r : State} {d : Nat} {a : Nat} {b : Nat} {s : State} (h₀ : Kept r s) : OutK r (execVfmaxF16 d a b s) := by
  unfold execVfmaxF16
  repeat' first
    | with_reducible assumption
    | with_reducible first
      | apply fMinMax_kept
      | apply OutK.of
      | apply OutK.fault
      | apply Kept.foldl
    | intro _
    | dsimp only
    | split
    | with_reducible apply Kept.with_

theorem execVfmaxBf16_kept {r : State} {d : Nat} {a : Nat} {b : Nat} {s : State} (h₀ : Kept r s) : OutK r (execVfmaxBf16 d a b s) := by
  unfold execVfmaxBf16
  repeat' first
    | with_reducible assumption
    | with_reducible first
      | apply fMinMax_kept
      | apply OutK.of
      | apply OutK.fault
      | apply Kept.foldl
    | intro _
    | dsimp only
    | split
    | with_reducible apply Kept.with_

theorem execVfminnumF32_kept {r : State} {d : Nat} {a : Nat} {b : Nat} {s : State} (h₀ : Kept r s) : OutK r (execVfminnumF32 d a b s) := by
  unfold execVfminnumF32
  repeat' first
    | with_reducible assumption
    | with_reducible first
      | apply fMinMax_kept
      | apply OutK.of
      | apply OutK.fault
      | apply Kept.foldl
    | intro _
    | dsimp only
    | split
    | with_reducible apply Kept.with_

theorem execVfminnumF16_kept {r : State} {d : Nat} {a : Nat} {b : Nat} {s : State} (h₀ : Kept r s) : OutK r (execVfminnumF16 d a b s) := by
  unfold execVfminnumF16
  repeat' first
    | with_reducible assumption
    | with_reducible first
      | apply fMinMax_kept
      | apply OutK.of
      | apply OutK.fault
      | apply Kept.foldl
    | intro _
    | dsimp only
    | split
    | with_reducible apply Kept.with_

theorem execVfminnumBf16_kept {r : State} {d : Nat} {a : Nat} {b : Nat} {s : State} (h₀ : Kept r s) : OutK r (execVfminnumBf16 d a b s) := by
  unfold execVfminnumBf16
  repeat' first
    | with_reducible assumption
    | with_reducible first
      | apply fMinMax_kept
      | apply OutK.of
      | apply OutK.fault
      | apply Kept.foldl
    | intro _
    | dsimp only
    | split
    | with_reducible apply Kept.with_

theorem execVfmaxnumF32_kept {r : State} {d : Nat} {a : Nat} {b : Nat} {s : State} (h₀ : Kept r s) : OutK r (execVfmaxnumF32 d a b s) := by
  unfold execVfmaxnumF32
  repeat' first
    | with_reducible assumption
    | with_reducible first
      | apply fMinMax_kept
      | apply OutK.of
      | apply OutK.fault
      | apply Kept.foldl
    | intro _
    | dsimp only
    | split
    | with_reducible apply Kept.with_

theorem execVfmaxnumF16_kept {r : State} {d : Nat} {a : Nat} {b : Nat} {s : State} (h₀ : Kept r s) : OutK r (execVfmaxnumF16 d a b s) := by
  unfold execVfmaxnumF16
  repeat' first
    | with_reducible assumption
    | with_reducible first
      | apply fMinMax_kept
      | apply OutK.of
      | apply OutK.fault
      | apply Kept.foldl
    | intro _
    | dsimp only
    | split
    | with_reducible apply Kept.with_

theorem execVfmaxnumBf16_kept {r : State} {d : Nat} {a : Nat} {b : Nat} {s : State} (h₀ : Kept r s) : OutK r (execVfmaxnumBf16 d a b s) := by
  unfold execVfmaxnumBf16
  repeat' first
    | with_reducible assumption
    | with_reducible first
      | apply fMinMax_kept
      | apply OutK.of
      | apply OutK.fault
      | apply Kept.foldl
    | intro _
    | dsimp only
    | split
    | with_reducible apply Kept.with_

theorem execVfceqF32_kept {r : State} {d : Nat} {a : Nat} {b : Nat} {s : State} (h₀ : Kept r s) : OutK r (execVfceqF32 d a b s) := by
  unfold execVfceqF32
  repeat' first
    | with_reducible assumption
    | with_reducible first
      | apply fCmp_kept
      | apply OutK.of
      | apply OutK.fault
      | apply Kept.foldl
    | intro _
    | dsimp only
    | split
    | with_reducible apply Kept.with_

theorem execVfceqF16_kept {r : State} {d : Nat} {a : Nat} {b : Nat} {s : State} (h₀ : Kept r s) : OutK r (execVfceqF16 d a b s) := by
  unfold execVfceqF16
  repeat' first
    | with_reducible assumption
    | with_reducible first
      | apply fCmp_kept
      | apply OutK.of
      | apply OutK.fault
      | apply Kept.foldl
    | intro _
    | dsimp only
    | split
    | with_reducible apply Kept.with_

theorem execVfceqBf16_kept {r : State} {d : Nat} {a : Nat} {b : Nat} {s : State} (h₀ : Kept r s) : OutK r (execVfceqBf16 d a b s) := by
  unfold execVfceqBf16
  repeat' first
    | with_reducible assumption
    | with_reducible first
      | apply fCmp_kept
      | apply OutK.of
      | apply OutK.fault
      | apply Kept.foldl
    | intro _
    | dsimp only
    | split
    | with_reducible apply Kept.with_

theorem execVfcltF32_kept {r : State} {d : Nat} {a : Nat} {b : Nat} {s : State} (h₀ : Kept r s) : OutK r (execVfcltF32 d a b s) := by
  unfold execVfcltF32
  repeat' first
    | with_reducible assumption
    | with_reducible first
      | apply fCmp_kept
      | apply OutK.of
      | apply OutK.fault
      | apply Kept.foldl
    | intro _
    | dsimp only
    | split
    | with_reducible apply Kept.with_

theorem execVfcltF16_kept {r : State} {d : Nat} {a : Nat} {b : Nat} {s : State} (h₀ : Kept r s) : OutK r (execVfcltF16 d a b s) := by
  unfold execVfcltF16
  repeat' first
    | with_reducible assumption
    | with_reducible first
      | apply fCmp_kept
      | apply OutK.of
      | apply OutK.fault
      | apply Kept.foldl
    | intro _
    | dsimp only
    | split
    | with_reducible apply Kept.with_

theorem execVfcltBf16_kept {r : State} {d : Nat} {a : Nat} {b : Nat} {s : State} (h₀ : Kept r s) : OutK r (execVfcltBf16 d a b s) := by
  unfold execVfcltBf16
  repeat' first
    | with_reducible assumption
    | with_reducible first
      | apply fCmp_kept
      | apply OutK.of
      | apply OutK.fault
      | apply Kept.foldl
    | intro _
    | dsimp only
    | split
    | with_reducible apply Kept.with_

theorem execVfcleF32_kept {r : State} {d : Nat} {a : Nat} {b : Nat} {s : State} (h₀ : Kept r s) : OutK r (execVfcleF32 d a b s) := by
  unfold execVfcleF32
  repeat' first
    | with_reducible assumption
    | with_reducible first
      | apply fCmp_kept
      | apply OutK.of
      | apply OutK.fault
      | apply Kept.foldl
    | intro _
    | dsimp only
    | split
    | with_reducible apply Kept.with_

theorem execVfcleF16_kept {r : State} {d : Nat} {a : Nat} {b : Nat} {s : State} (h₀ : Kept r s) : OutK r (execVfcleF16 d a b s) := by
  unfold execVfcleF16
  repeat' first
    | with_reducible assumption
    | with_reducible first
      | apply fCmp_kept
      | apply OutK.of
      | apply OutK.fault
      | apply Kept.foldl
    | intro _
    | dsimp only
    | split
    | with_reducible apply Kept.with_

theorem execVfcleBf16_kept {r : State} {d : Nat} {a : Nat} {b : Nat} {s : State} (h₀ : Kept r s) : OutK r (execVfcleBf16 d a b s) := by
  unfold execVfcleBf16
  repeat' first
    | with_reducible assumption
    | with_reducible first
      | apply fCmp_kept
      | apply OutK.of
      | apply OutK.fault
      | apply Kept.foldl
    | intro _
    | dsimp only
    | split
    | with_reducible apply Kept.with_

theorem execVfcunF32_kept {r : State} {d : Nat} {a : Nat} {b : Nat} {s : State} (h₀ : Kept r s) : OutK r (execVfcunF32 d a b s) := by
  unfold execVfcunF32
  repeat' first
    | with_reducible assumption
    | with_reducible first
      | apply fCmp_kept
      | apply OutK.of
      | apply OutK.fault
      | apply Kept.foldl
    | intro _
    | dsimp only
    | split
    | with_reducible apply Kept.with_

theorem execVfcunF16_kept {r : State} {d : Nat} {a : Nat} {b : Nat} {s : State} (h₀ : Kept r s) : OutK r (execVfcunF16 d a b s) := by
  unfold execVfcunF16
  repeat' first
    | with_reducible assumption
    | with_reducible first
      | apply fCmp_kept
      | apply OutK.of
      | apply OutK.fault
      | apply Kept.foldl
    | intro _
    | dsimp only
    | split
    | with_reducible apply Kept.with_

theorem execVfcunBf16_kept {r : State} {d : Nat} {a : Nat} {b : Nat} {s : State} (h₀ : Kept r s) : OutK r (execVfcunBf16 d a b s) := by
  unfold execVfcunBf16
  repeat' first
    | with_reducible assumption
    | with_reducible first
      | apply fCmp_kept
      | apply OutK.of
      | apply OutK.fault
      | apply Kept.foldl
    | intro _
    | dsimp only
    | split
    | with_reducible apply Kept.with_

theorem execVfabsF32_kept {r : State} {d : Nat} {a : Nat} {s : State} (h₀ : Kept r s) : OutK r (execVfabsF32 d a s) := by
  unfold execVfabsF32
  repeat' first
    | with_reducible assumption
    | with_reducible first
      | apply fBits_kept
      | apply OutK.of
      | apply OutK.fault
      | apply Kept.foldl
    | intro _
    | dsimp only
    | split
    | with_reducible apply Kept.with_

theorem execVfabsF16_kept {r : State} {d : Nat} {a : Nat} {s : State} (h₀ : Kept r s) : OutK r (execVfabsF16 d a s) := by
  unfold execVfabsF16
  repeat' first
    | with_reducible assumption
    | with_reducible first
      | apply fBits_kept
      | apply OutK.of
      | apply OutK.fault
      | apply Kept.foldl
    | intro _
    | dsimp only
    | split
    | with_reducible apply Kept.with_

theorem execVfabsBf16_kept {r : State} {d : Nat} {a : Nat} {s : State} (h₀ : Kept r s) : OutK r (execVfabsBf16 d a s) := by
  unfold execVfabsBf16
  repeat' first
    | with_reducible assumption
    | with_reducible first
      | apply fBits_kept
      | apply OutK.of
      | apply OutK.fault
      | apply Kept.foldl
    | intro _
    | dsimp only
    | split
    | with_reducible apply Kept.with_

theorem execVfnegF32_kept {r : State} {d : Nat} {a : Nat} {s : State} (h₀ : Kept r s) : OutK r (execVfnegF32 d a s) := by
  unfold execVfnegF32
  repeat' first
    | with_reducible assumption
    | with_reducible first
      | apply fBits_kept
      | apply OutK.of
      | apply OutK.fault
      | apply Kept.foldl
    | intro _
    | dsimp only
    | split
    | with_reducible apply Kept.with_

theorem execVfnegF16_kept {r : State} {d : Nat} {a : Nat} {s : State} (h₀ : Kept r s) : OutK r (execVfnegF16 d a s) := by
  unfold execVfnegF16
  repeat' first
    | with_reducible assumption
    | with_reducible first
      | apply fBits_kept
      | apply OutK.of
      | apply OutK.fault
      | apply Kept.foldl
    | intro _
    | dsimp only
    | split
    | with_reducible apply Kept.with_

theorem execVfnegBf16_kept {r : State} {d : Nat} {a : Nat} {s : State} (h₀ : Kept r s) : OutK r (execVfnegBf16 d a s) := by
  unfold execVfnegBf16
  repeat' first
    | with_reducible assumption
    | with_reducible first
      | apply fBits_kept
      | apply OutK.of
      | apply OutK.fault
      | apply Kept.foldl
    | intro _
    | dsimp only
    | split
    | with_reducible apply Kept.with_

theorem execVfclassF32_kept {r : State} {d : Nat} {a : Nat} {s : State} (h₀ : Kept r s) : OutK r (execVfclassF32 d a s) := by
  unfold execVfclassF32
  repeat' first
    | with_reducible assumption
    | with_reducible first
      | apply fBits_kept
      | apply OutK.of
      | apply OutK.fault
      | apply Kept.foldl
    | intro _
    | dsimp only
    | split
    | with_reducible apply Kept.with_

theorem execVfclassF16_kept {r : State} {d : Nat} {a : Nat} {s : State} (h₀ : Kept r s) : OutK r (execVfclassF16 d a s) := by
  unfold execVfclassF16
  repeat' first
    | with_reducible assumption
    | with_reducible first
      | apply fBits_kept
      | apply OutK.of
      | apply OutK.fault
      | apply Kept.foldl
    | intro _
    | dsimp only
    | split
    | with_reducible apply Kept.with_

theorem execVfclassBf16_kept {r : State} {d : Nat} {a : Nat} {s : State} (h₀ : Kept r s) : OutK r (execVfclassBf16 d a s) := by
  unfold execVfclassBf16
  repeat' first
    | with_reducible assumption
    | with_reducible first
      | apply fBits_kept
      | apply OutK.of
      | apply OutK.fault
      | apply Kept.foldl
    | intro _
    | dsimp only
    | split
    | with_reducible apply Kept.with_

theorem execVfcopysignF32_kept {r : State} {d : Nat} {a : Nat} {b : Nat} {s : State} (h₀ : Kept r s) : OutK r (execVfcopysignF32 d a b s) := by
  unfold execVfcopysignF32
  repeat' first
    | with_reducible assumption
    | with_reducible first
      | apply fBits_kept
      | apply OutK.of
      | apply OutK.fault
      | apply Kept.foldl
    | intro _
    | dsimp only
    | split
    | with_reducible apply Kept.with_

theorem execVfcopysignF16_kept {r : State} {d : Nat} {a : Nat} {b : Nat} {s : State} (h₀ : Kept r s) : OutK r (execVfcopysignF16 d a b s) := by
  unfold execVfcopysignF16
  repeat' first
    | with_reducible assumption
    | with_reducible first
      | apply fBits_kept
      | apply OutK.of
      | apply OutK.fault
      | apply Kept.foldl
    | intro _
    | dsimp only
    | split
    | with_reducible apply Kept.with_

theorem execVfcopysignBf16_kept {r : State} {d : Nat} {a : Nat} {b : Nat} {s : State} (h₀ : Kept r s) : OutK r (execVfcopysignBf16 d a b s) := by
  unfold execVfcopysignBf16
  repeat' first
    | with_reducible assumption
    | with_reducible first
      | apply fBits_kept
      | apply OutK.of
      | apply OutK.fault
      | apply Kept.foldl
    | intro _
    | dsimp only
    | split
    | with_reducible apply Kept.with_

theorem vCvt_kept {r : State} {rnd : Bool} {ws : Nat} {wd : Nat} {d : Nat} {a : Nat} {p : Nat} {s : State} {cvt : Group → Nat → Nat → Nat × Nat} (h₀ : Kept r s) : OutK r (vCvt rnd ws wd d a p s cvt) := by
  unfold vCvt
  repeat' first
    | with_reducible assumption
    | with_reducible first
      | apply withDraws_kept
      | apply land_kept
      | apply gated_kept
      | apply OutK.of
      | apply OutK.fault
      | apply Kept.foldl
      | apply Kept.id_
    | intro _
    | dsimp only
    | split
    | with_reducible apply Kept.with_

theorem execVcvtF16F32_kept {r : State} {d : Nat} {a : Nat} {p : Nat} {s : State} (h₀ : Kept r s) : OutK r (execVcvtF16F32 d a p s) := by
  unfold execVcvtF16F32
  repeat' first
    | with_reducible assumption
    | with_reducible first
      | apply vCvt_kept
      | apply OutK.of
      | apply OutK.fault
      | apply Kept.foldl
    | intro _
    | dsimp only
    | split
    | with_reducible apply Kept.with_

theorem execVcvtBf16F32_kept {r : State} {d : Nat} {a : Nat} {p : Nat} {s : State} (h₀ : Kept r s) : OutK r (execVcvtBf16F32 d a p s) := by
  unfold execVcvtBf16F32
  repeat' first
    | with_reducible assumption
    | with_reducible first
      | apply vCvt_kept
      | apply OutK.of
      | apply OutK.fault
      | apply Kept.foldl
    | intro _
    | dsimp only
    | split
    | with_reducible apply Kept.with_

theorem execVcvtF32F16_kept {r : State} {d : Nat} {a : Nat} {p : Nat} {s : State} (h₀ : Kept r s) : OutK r (execVcvtF32F16 d a p s) := by
  unfold execVcvtF32F16
  repeat' first
    | with_reducible assumption
    | with_reducible first
      | apply vCvt_kept
      | apply OutK.of
      | apply OutK.fault
      | apply Kept.foldl
    | intro _
    | dsimp only
    | split
    | with_reducible apply Kept.with_

theorem execVcvtF32Bf16_kept {r : State} {d : Nat} {a : Nat} {p : Nat} {s : State} (h₀ : Kept r s) : OutK r (execVcvtF32Bf16 d a p s) := by
  unfold execVcvtF32Bf16
  repeat' first
    | with_reducible assumption
    | with_reducible first
      | apply vCvt_kept
      | apply OutK.of
      | apply OutK.fault
      | apply Kept.foldl
    | intro _
    | dsimp only
    | split
    | with_reducible apply Kept.with_

theorem execVcvtI32F32_kept {r : State} {d : Nat} {a : Nat} {s : State} (h₀ : Kept r s) : OutK r (execVcvtI32F32 d a s) := by
  unfold execVcvtI32F32
  repeat' first
    | with_reducible assumption
    | with_reducible first
      | apply vCvt_kept
      | apply OutK.of
      | apply OutK.fault
      | apply Kept.foldl
    | intro _
    | dsimp only
    | split
    | with_reducible apply Kept.with_

theorem execVcvtN32F32_kept {r : State} {d : Nat} {a : Nat} {s : State} (h₀ : Kept r s) : OutK r (execVcvtN32F32 d a s) := by
  unfold execVcvtN32F32
  repeat' first
    | with_reducible assumption
    | with_reducible first
      | apply vCvt_kept
      | apply OutK.of
      | apply OutK.fault
      | apply Kept.foldl
    | intro _
    | dsimp only
    | split
    | with_reducible apply Kept.with_

theorem execVcvtF32I32_kept {r : State} {d : Nat} {a : Nat} {s : State} (h₀ : Kept r s) : OutK r (execVcvtF32I32 d a s) := by
  unfold execVcvtF32I32
  repeat' first
    | with_reducible assumption
    | with_reducible first
      | apply vCvt_kept
      | apply OutK.of
      | apply OutK.fault
      | apply Kept.foldl
    | intro _
    | dsimp only
    | split
    | with_reducible apply Kept.with_

theorem execVcvtF32N32_kept {r : State} {d : Nat} {a : Nat} {s : State} (h₀ : Kept r s) : OutK r (execVcvtF32N32 d a s) := by
  unfold execVcvtF32N32
  repeat' first
    | with_reducible assumption
    | with_reducible first
      | apply vCvt_kept
      | apply OutK.of
      | apply OutK.fault
      | apply Kept.foldl
    | intro _
    | dsimp only
    | split
    | with_reducible apply Kept.with_

theorem execVcvtF8e4F32_kept {r : State} {d : Nat} {a : Nat} {p : Nat} {s : State} (h₀ : Kept r s) : OutK r (execVcvtF8e4F32 d a p s) := by
  unfold execVcvtF8e4F32
  repeat' first
    | with_reducible assumption
    | with_reducible first
      | apply vCvt_kept
      | apply OutK.of
      | apply OutK.fault
      | apply Kept.foldl
    | intro _
    | dsimp only
    | split
    | with_reducible apply Kept.with_

theorem execVcvtF8e5F32_kept {r : State} {d : Nat} {a : Nat} {p : Nat} {s : State} (h₀ : Kept r s) : OutK r (execVcvtF8e5F32 d a p s) := by
  unfold execVcvtF8e5F32
  repeat' first
    | with_reducible assumption
    | with_reducible first
      | apply vCvt_kept
      | apply OutK.of
      | apply OutK.fault
      | apply Kept.foldl
    | intro _
    | dsimp only
    | split
    | with_reducible apply Kept.with_

theorem execVcvtF6e2F32_kept {r : State} {d : Nat} {a : Nat} {p : Nat} {s : State} (h₀ : Kept r s) : OutK r (execVcvtF6e2F32 d a p s) := by
  unfold execVcvtF6e2F32
  repeat' first
    | with_reducible assumption
    | with_reducible first
      | apply vCvt_kept
      | apply OutK.of
      | apply OutK.fault
      | apply Kept.foldl
    | intro _
    | dsimp only
    | split
    | with_reducible apply Kept.with_

theorem execVcvtF6e3F32_kept {r : State} {d : Nat} {a : Nat} {p : Nat} {s : State} (h₀ : Kept r s) : OutK r (execVcvtF6e3F32 d a p s) := by
  unfold execVcvtF6e3F32
  repeat' first
    | with_reducible assumption
    | with_reducible first
      | apply vCvt_kept
      | apply OutK.of
      | apply OutK.fault
      | apply Kept.foldl
    | intro _
    | dsimp only
    | split
    | with_reducible apply Kept.with_

theorem execVcvtF4F32_kept {r : State} {d : Nat} {a : Nat} {p : Nat} {s : State} (h₀ : Kept r s) : OutK r (execVcvtF4F32 d a p s) := by
  unfold execVcvtF4F32
  repeat' first
    | with_reducible assumption
    | with_reducible first
      | apply vCvt_kept
      | apply OutK.of
      | apply OutK.fault
      | apply Kept.foldl
    | intro _
    | dsimp only
    | split
    | with_reducible apply Kept.with_

theorem execVcvtF32F8e4_kept {r : State} {d : Nat} {a : Nat} {p : Nat} {s : State} (h₀ : Kept r s) : OutK r (execVcvtF32F8e4 d a p s) := by
  unfold execVcvtF32F8e4
  repeat' first
    | with_reducible assumption
    | with_reducible first
      | apply vCvt_kept
      | apply OutK.of
      | apply OutK.fault
      | apply Kept.foldl
    | intro _
    | dsimp only
    | split
    | with_reducible apply Kept.with_

theorem execVcvtF32F8e5_kept {r : State} {d : Nat} {a : Nat} {p : Nat} {s : State} (h₀ : Kept r s) : OutK r (execVcvtF32F8e5 d a p s) := by
  unfold execVcvtF32F8e5
  repeat' first
    | with_reducible assumption
    | with_reducible first
      | apply vCvt_kept
      | apply OutK.of
      | apply OutK.fault
      | apply Kept.foldl
    | intro _
    | dsimp only
    | split
    | with_reducible apply Kept.with_

theorem execVcvtF32F6e2_kept {r : State} {d : Nat} {a : Nat} {p : Nat} {s : State} (h₀ : Kept r s) : OutK r (execVcvtF32F6e2 d a p s) := by
  unfold execVcvtF32F6e2
  repeat' first
    | with_reducible assumption
    | with_reducible first
      | apply vCvt_kept
      | apply OutK.of
      | apply OutK.fault
      | apply Kept.foldl
    | intro _
    | dsimp only
    | split
    | with_reducible apply Kept.with_

theorem execVcvtF32F6e3_kept {r : State} {d : Nat} {a : Nat} {p : Nat} {s : State} (h₀ : Kept r s) : OutK r (execVcvtF32F6e3 d a p s) := by
  unfold execVcvtF32F6e3
  repeat' first
    | with_reducible assumption
    | with_reducible first
      | apply vCvt_kept
      | apply OutK.of
      | apply OutK.fault
      | apply Kept.foldl
    | intro _
    | dsimp only
    | split
    | with_reducible apply Kept.with_

theorem execVcvtF32F4_kept {r : State} {d : Nat} {a : Nat} {p : Nat} {s : State} (h₀ : Kept r s) : OutK r (execVcvtF32F4 d a p s) := by
  unfold execVcvtF32F4
  repeat' first
    | with_reducible assumption
    | with_reducible first
      | apply vCvt_kept
      | apply OutK.of
      | apply OutK.fault
      | apply Kept.foldl
    | intro _
    | dsimp only
    | split
    | with_reducible apply Kept.with_

theorem execVcvtI8I32_kept {r : State} {d : Nat} {a : Nat} {p : Nat} {s : State} (h₀ : Kept r s) : OutK r (execVcvtI8I32 d a p s) := by
  unfold execVcvtI8I32
  repeat' first
    | with_reducible assumption
    | with_reducible first
      | apply vCvt_kept
      | apply OutK.of
      | apply OutK.fault
      | apply Kept.foldl
    | intro _
    | dsimp only
    | split
    | with_reducible apply Kept.with_

theorem helper_kept {r : State} {acc : Acc} {d : Nat} {a : Nat} {s : State} {f : FV → Nat × Nat} (h₀ : Kept r s) : OutK r (helper acc d a s f) := by
  unfold helper
  repeat' first
    | with_reducible assumption
    | with_reducible first
      | apply land_kept
      | apply gated_kept
      | apply OutK.of
      | apply OutK.fault
      | apply Kept.foldl
      | apply Kept.id_
    | intro _
    | dsimp only
    | split
    | with_reducible apply Kept.with_

theorem execVrcpSeed_kept {r : State} {d : Nat} {a : Nat} {s : State} (h₀ : Kept r s) : OutK r (execVrcpSeed d a s) := by
  unfold execVrcpSeed
  repeat' first
    | with_reducible assumption
    | with_reducible first
      | apply helper_kept
      | apply OutK.of
      | apply OutK.fault
      | apply Kept.foldl
    | intro _
    | dsimp only
    | split
    | with_reducible apply Kept.with_

theorem execVrsqSeed_kept {r : State} {d : Nat} {a : Nat} {s : State} (h₀ : Kept r s) : OutK r (execVrsqSeed d a s) := by
  unfold execVrsqSeed
  repeat' first
    | with_reducible assumption
    | with_reducible first
      | apply helper_kept
      | apply OutK.of
      | apply OutK.fault
      | apply Kept.foldl
    | intro _
    | dsimp only
    | split
    | with_reducible apply Kept.with_

theorem execVexpRed_kept {r : State} {d : Nat} {a : Nat} {k : Nat} {s : State} (h₀ : Kept r s) : OutK r (execVexpRed d a k s) := by
  unfold execVexpRed
  repeat' first
    | with_reducible assumption
    | with_reducible first
      | apply helper_kept
      | apply OutK.of
      | apply OutK.fault
      | apply Kept.foldl
    | intro _
    | dsimp only
    | split
    | with_reducible apply Kept.with_

theorem execVlogRed_kept {r : State} {d : Nat} {a : Nat} {k : Nat} {s : State} (h₀ : Kept r s) : OutK r (execVlogRed d a k s) := by
  unfold execVlogRed
  repeat' first
    | with_reducible assumption
    | with_reducible first
      | apply helper_kept
      | apply OutK.of
      | apply OutK.fault
      | apply Kept.foldl
    | intro _
    | dsimp only
    | split
    | with_reducible apply Kept.with_

theorem execVscRed_kept {r : State} {d : Nat} {a : Nat} {k : Nat} {s : State} (h₀ : Kept r s) : OutK r (execVscRed d a k s) := by
  unfold execVscRed
  repeat' first
    | with_reducible assumption
    | with_reducible first
      | apply helper_kept
      | apply OutK.of
      | apply OutK.fault
      | apply Kept.foldl
    | intro _
    | dsimp only
    | split
    | with_reducible apply Kept.with_

theorem execVldexp_kept {r : State} {d : Nat} {a : Nat} {b : Nat} {s : State} (h₀ : Kept r s) : OutK r (execVldexp d a b s) := by
  unfold execVldexp
  repeat' first
    | with_reducible assumption
    | with_reducible first
      | apply withDraws_kept
      | apply land_kept
      | apply gated_kept
      | apply OutK.of
      | apply OutK.fault
      | apply Kept.foldl
      | apply Kept.id_
    | intro _
    | dsimp only
    | split
    | with_reducible apply Kept.with_

theorem execVgetexp_kept {r : State} {d : Nat} {a : Nat} {s : State} (h₀ : Kept r s) : OutK r (execVgetexp d a s) := by
  unfold execVgetexp
  repeat' first
    | with_reducible assumption
    | with_reducible first
      | apply helper_kept
      | apply OutK.of
      | apply OutK.fault
      | apply Kept.foldl
    | intro _
    | dsimp only
    | split
    | with_reducible apply Kept.with_

theorem execVgetman_kept {r : State} {d : Nat} {a : Nat} {s : State} (h₀ : Kept r s) : OutK r (execVgetman d a s) := by
  unfold execVgetman
  repeat' first
    | with_reducible assumption
    | with_reducible first
      | apply helper_kept
      | apply OutK.of
      | apply OutK.fault
      | apply Kept.foldl
    | intro _
    | dsimp only
    | split
    | with_reducible apply Kept.with_

theorem execVfrac_kept {r : State} {d : Nat} {a : Nat} {s : State} (h₀ : Kept r s) : OutK r (execVfrac d a s) := by
  unfold execVfrac
  repeat' first
    | with_reducible assumption
    | with_reducible first
      | apply helper_kept
      | apply OutK.of
      | apply OutK.fault
      | apply Kept.foldl
    | intro _
    | dsimp only
    | split
    | with_reducible apply Kept.with_

theorem execVfrnd_kept {r : State} {d : Nat} {a : Nat} {s : State} (h₀ : Kept r s) : OutK r (execVfrnd d a s) := by
  unfold execVfrnd
  repeat' first
    | with_reducible assumption
    | with_reducible first
      | apply withDraws_kept
      | apply land_kept
      | apply gated_kept
      | apply OutK.of
      | apply OutK.fault
      | apply Kept.foldl
      | apply Kept.id_
    | intro _
    | dsimp only
    | split
    | with_reducible apply Kept.with_

theorem execVscFix_kept {r : State} {d : Nat} {a : Nat} {b : Nat} {s : State} (h₀ : Kept r s) : OutK r (execVscFix d a b s) := by
  unfold execVscFix
  repeat' first
    | with_reducible assumption
    | with_reducible first
      | apply land_kept
      | apply gated_kept
      | apply OutK.of
      | apply OutK.fault
      | apply Kept.foldl
      | apply Kept.id_
    | intro _
    | dsimp only
    | split
    | with_reducible apply Kept.with_

theorem xMove_kept {r : State} {acc : Acc} {regs : List RegN} {fields : Bool} {d : Nat} {s : State} {f : Group → (Nat → Nat → W64) → Nat → W64} (h₀ : Kept r s) : OutK r (xMove acc regs fields d s f) := by
  unfold xMove
  repeat' first
    | with_reducible assumption
    | with_reducible first
      | apply land_kept
      | apply gated_kept
      | apply OutK.of
      | apply OutK.fault
      | apply Kept.foldl
      | apply Kept.id_
    | intro _
    | dsimp only
    | split
    | with_reducible apply Kept.with_

theorem execVshfl_kept {r : State} {d : Nat} {a : Nat} {b : Nat} {s : State} (h₀ : Kept r s) : OutK r (execVshfl d a b s) := by
  unfold execVshfl
  repeat' first
    | with_reducible assumption
    | with_reducible first
      | apply xMove_kept
      | apply OutK.of
      | apply OutK.fault
      | apply Kept.foldl
    | intro _
    | dsimp only
    | split
    | with_reducible apply Kept.with_

theorem execVshfleE32_kept {r : State} {d : Nat} {a : Nat} {b : Nat} {s : State} (h₀ : Kept r s) : OutK r (execVshfleE32 d a b s) := by
  unfold execVshfleE32
  repeat' first
    | with_reducible assumption
    | with_reducible first
      | apply xMove_kept
      | apply OutK.of
      | apply OutK.fault
      | apply Kept.foldl
    | intro _
    | dsimp only
    | split
    | with_reducible apply Kept.with_

theorem execVpswap_kept {r : State} {d : Nat} {a : Nat} {k : Nat} {s : State} (h₀ : Kept r s) : OutK r (execVpswap d a k s) := by
  unfold execVpswap
  repeat' first
    | with_reducible assumption
    | with_reducible first
      | apply land_kept
      | apply gated_kept
      | apply OutK.of
      | apply OutK.fault
      | apply Kept.foldl
      | apply Kept.id_
    | intro _
    | dsimp only
    | split
    | with_reducible apply Kept.with_

theorem execVprefixAddI32_kept {r : State} {d : Nat} {a : Nat} {s : State} (h₀ : Kept r s) : OutK r (execVprefixAddI32 d a s) := by
  unfold execVprefixAddI32
  repeat' first
    | with_reducible assumption
    | with_reducible first
      | apply land_kept
      | apply gated_kept
      | apply OutK.of
      | apply OutK.fault
      | apply Kept.foldl
      | apply Kept.id_
    | intro _
    | dsimp only
    | split
    | with_reducible apply Kept.with_

theorem execVprefixAddF32_kept {r : State} {d : Nat} {a : Nat} {s : State} (h₀ : Kept r s) : OutK r (execVprefixAddF32 d a s) := by
  unfold execVprefixAddF32
  repeat' first
    | with_reducible assumption
    | with_reducible first
      | apply withDraws_kept
      | apply land_kept
      | apply gated_kept
      | apply OutK.of
      | apply OutK.fault
      | apply Kept.foldl
      | apply Kept.id_
    | intro _
    | dsimp only
    | split
    | with_reducible apply Kept.with_

theorem reduce_kept {r : State} {acc : Acc} {d : Nat} {a : Nat} {s : State} {f : Group → List Nat → Nat × Nat} (h₀ : Kept r s) : OutK r (reduce acc d a s f) := by
  unfold reduce
  repeat' first
    | with_reducible assumption
    | with_reducible first
      | apply land_kept
      | apply gated_kept
      | apply OutK.of
      | apply OutK.fault
      | apply Kept.foldl
      | apply Kept.id_
    | intro _
    | dsimp only
    | split
    | with_reducible apply Kept.with_

theorem execVredAddI32_kept {r : State} {d : Nat} {a : Nat} {s : State} (h₀ : Kept r s) : OutK r (execVredAddI32 d a s) := by
  unfold execVredAddI32
  repeat' first
    | with_reducible assumption
    | with_reducible first
      | apply reduce_kept
      | apply OutK.of
      | apply OutK.fault
      | apply Kept.foldl
    | intro _
    | dsimp only
    | split
    | with_reducible apply Kept.with_

theorem execVredMaxI32_kept {r : State} {d : Nat} {a : Nat} {s : State} (h₀ : Kept r s) : OutK r (execVredMaxI32 d a s) := by
  unfold execVredMaxI32
  repeat' first
    | with_reducible assumption
    | with_reducible first
      | apply reduce_kept
      | apply OutK.of
      | apply OutK.fault
      | apply Kept.foldl
    | intro _
    | dsimp only
    | split
    | with_reducible apply Kept.with_

theorem execVredMaxF32_kept {r : State} {d : Nat} {a : Nat} {s : State} (h₀ : Kept r s) : OutK r (execVredMaxF32 d a s) := by
  unfold execVredMaxF32
  repeat' first
    | with_reducible assumption
    | with_reducible first
      | apply reduce_kept
      | apply OutK.of
      | apply OutK.fault
      | apply Kept.foldl
    | intro _
    | dsimp only
    | split
    | with_reducible apply Kept.with_

theorem execVredAddF32_kept {r : State} {d : Nat} {a : Nat} {s : State} (h₀ : Kept r s) : OutK r (execVredAddF32 d a s) := by
  unfold execVredAddF32
  repeat' first
    | with_reducible assumption
    | with_reducible first
      | apply withDraws_kept
      | apply land_kept
      | apply gated_kept
      | apply OutK.of
      | apply OutK.fault
      | apply Kept.foldl
      | apply Kept.id_
    | intro _
    | dsimp only
    | split
    | with_reducible apply Kept.with_

theorem maxIdx_kept {r : State} {f : Fmt} {d : Nat} {a : Nat} {s : State} (h₀ : Kept r s) : OutK r (maxIdx f d a s) := by
  unfold maxIdx
  repeat' first
    | with_reducible assumption
    | with_reducible first
      | apply land_kept
      | apply gated_kept
      | apply OutK.of
      | apply OutK.fault
      | apply Kept.foldl
      | apply Kept.id_
    | intro _
    | dsimp only
    | split
    | with_reducible apply Kept.with_

theorem execVmaxidxF16_kept {r : State} {d : Nat} {a : Nat} {s : State} (h₀ : Kept r s) : OutK r (execVmaxidxF16 d a s) := by
  unfold execVmaxidxF16
  repeat' first
    | with_reducible assumption
    | with_reducible first
      | apply maxIdx_kept
      | apply OutK.of
      | apply OutK.fault
      | apply Kept.foldl
    | intro _
    | dsimp only
    | split
    | with_reducible apply Kept.with_

theorem execVmaxidxF32_kept {r : State} {d : Nat} {a : Nat} {s : State} (h₀ : Kept r s) : OutK r (execVmaxidxF32 d a s) := by
  unfold execVmaxidxF32
  repeat' first
    | with_reducible assumption
    | with_reducible first
      | apply maxIdx_kept
      | apply OutK.of
      | apply OutK.fault
      | apply Kept.foldl
    | intro _
    | dsimp only
    | split
    | with_reducible apply Kept.with_

theorem execVcompact_kept {r : State} {d : Nat} {a : Nat} {b : Nat} {s : State} (h₀ : Kept r s) : OutK r (execVcompact d a b s) := by
  unfold execVcompact
  repeat' first
    | with_reducible assumption
    | with_reducible first
      | apply land_kept
      | apply gated_kept
      | apply OutK.of
      | apply OutK.fault
      | apply Kept.foldl
      | apply Kept.id_
    | intro _
    | dsimp only
    | split
    | with_reducible apply Kept.with_

theorem execVexpand_kept {r : State} {d : Nat} {a : Nat} {b : Nat} {s : State} (h₀ : Kept r s) : OutK r (execVexpand d a b s) := by
  unfold execVexpand
  repeat' first
    | with_reducible assumption
    | with_reducible first
      | apply land_kept
      | apply gated_kept
      | apply OutK.of
      | apply OutK.fault
      | apply Kept.foldl
      | apply Kept.id_
    | intro _
    | dsimp only
    | split
    | with_reducible apply Kept.with_

theorem execVlaneid_kept {r : State} {d : Nat} {s : State} (h₀ : Kept r s) : OutK r (execVlaneid d s) := by
  unfold execVlaneid
  repeat' first
    | with_reducible assumption
    | with_reducible first
      | apply xMove_kept
      | apply OutK.of
      | apply OutK.fault
      | apply Kept.foldl
    | intro _
    | dsimp only
    | split
    | with_reducible apply Kept.with_

theorem vote_kept {r : State} {d : Nat} {a : Nat} {s : State} {f : List W64 → Bool} (h₀ : Kept r s) : OutK r (vote d a s f) := by
  unfold vote
  repeat' first
    | with_reducible assumption
    | with_reducible first
      | apply land_kept
      | apply gated_kept
      | apply OutK.of
      | apply OutK.fault
      | apply Kept.foldl
      | apply Kept.id_
    | intro _
    | dsimp only
    | split
    | with_reducible apply Kept.with_

theorem execVvoteAll_kept {r : State} {d : Nat} {a : Nat} {s : State} (h₀ : Kept r s) : OutK r (execVvoteAll d a s) := by
  unfold execVvoteAll
  repeat' first
    | with_reducible assumption
    | with_reducible first
      | apply vote_kept
      | apply OutK.of
      | apply OutK.fault
      | apply Kept.foldl
    | intro _
    | dsimp only
    | split
    | with_reducible apply Kept.with_

theorem execVvoteAny_kept {r : State} {d : Nat} {a : Nat} {s : State} (h₀ : Kept r s) : OutK r (execVvoteAny d a s) := by
  unfold execVvoteAny
  repeat' first
    | with_reducible assumption
    | with_reducible first
      | apply vote_kept
      | apply OutK.of
      | apply OutK.fault
      | apply Kept.foldl
    | intro _
    | dsimp only
    | split
    | with_reducible apply Kept.with_

theorem execVballot_kept {r : State} {d : Nat} {a : Nat} {s : State} (h₀ : Kept r s) : OutK r (execVballot d a s) := by
  unfold execVballot
  repeat' first
    | with_reducible assumption
    | with_reducible first
      | apply land_kept
      | apply gated_kept
      | apply OutK.of
      | apply OutK.fault
      | apply Kept.foldl
      | apply Kept.id_
    | intro _
    | dsimp only
    | split
    | with_reducible apply Kept.with_

theorem quadMove_kept {r : State} {acc : Acc} {regs : List RegN} {d : Nat} {s : State} {f : Group → Nat → W64} (h₀ : Kept r s) : OutK r (quadMove acc regs d s f) := by
  unfold quadMove
  repeat' first
    | with_reducible assumption
    | with_reducible first
      | apply land_kept
      | apply gated_kept
      | apply OutK.of
      | apply OutK.fault
      | apply Kept.foldl
      | apply Kept.id_
    | intro _
    | dsimp only
    | split
    | with_reducible apply Kept.with_

theorem execQswpH_kept {r : State} {d : Nat} {a : Nat} {s : State} (h₀ : Kept r s) : OutK r (execQswpH d a s) := by
  unfold execQswpH
  repeat' first
    | with_reducible assumption
    | with_reducible first
      | apply quadMove_kept
      | apply OutK.of
      | apply OutK.fault
      | apply Kept.foldl
    | intro _
    | dsimp only
    | split
    | with_reducible apply Kept.with_

theorem execQswpV_kept {r : State} {d : Nat} {a : Nat} {s : State} (h₀ : Kept r s) : OutK r (execQswpV d a s) := by
  unfold execQswpV
  repeat' first
    | with_reducible assumption
    | with_reducible first
      | apply quadMove_kept
      | apply OutK.of
      | apply OutK.fault
      | apply Kept.foldl
    | intro _
    | dsimp only
    | split
    | with_reducible apply Kept.with_

theorem execQswpD_kept {r : State} {d : Nat} {a : Nat} {s : State} (h₀ : Kept r s) : OutK r (execQswpD d a s) := by
  unfold execQswpD
  repeat' first
    | with_reducible assumption
    | with_reducible first
      | apply quadMove_kept
      | apply OutK.of
      | apply OutK.fault
      | apply Kept.foldl
    | intro _
    | dsimp only
    | split
    | with_reducible apply Kept.with_

theorem execQbcast_kept {r : State} {d : Nat} {a : Nat} {b : Nat} {s : State} (h₀ : Kept r s) : OutK r (execQbcast d a b s) := by
  unfold execQbcast
  repeat' first
    | with_reducible assumption
    | with_reducible first
      | apply quadMove_kept
      | apply OutK.of
      | apply OutK.fault
      | apply Kept.foldl
    | intro _
    | dsimp only
    | split
    | with_reducible apply Kept.with_

theorem execQbcastI_kept {r : State} {d : Nat} {a : Nat} {p : Nat} {s : State} (h₀ : Kept r s) : OutK r (execQbcastI d a p s) := by
  unfold execQbcastI
  repeat' first
    | with_reducible assumption
    | with_reducible first
      | apply quadMove_kept
      | apply OutK.of
      | apply OutK.fault
      | apply Kept.foldl
    | intro _
    | dsimp only
    | split
    | with_reducible apply Kept.with_

theorem execVget_kept {r : State} {d : Nat} {a : Nat} {i : Nat} {s : State} (h₀ : Kept r s) : OutK r (execVget d a i s) := by
  unfold execVget
  repeat' first
    | with_reducible assumption
    | with_reducible first
      | apply xMove_kept
      | apply OutK.of
      | apply OutK.fault
      | apply Kept.foldl
    | intro _
    | dsimp only
    | split
    | with_reducible apply Kept.with_

theorem execVput_kept {r : State} {d a i : Nat} {s : State} (h₀ : Kept r s) : OutK r (execVput d a i s) := by
  unfold execVput
  refine gated_kept h₀ fun g p t h => ?_
  cases actLanes s g p with
  | nil => exact land_kept h
  | cons f l => dsimp only; split <;> exact land_kept h

theorem execVbcast_kept {r : State} {d : Nat} {a : Nat} {i : Nat} {s : State} (h₀ : Kept r s) : OutK r (execVbcast d a i s) := by
  unfold execVbcast
  repeat' first
    | with_reducible assumption
    | with_reducible first
      | apply xMove_kept
      | apply OutK.of
      | apply OutK.fault
      | apply Kept.foldl
    | intro _
    | dsimp only
    | split
    | with_reducible apply Kept.with_

theorem execVbfly_kept {r : State} {d : Nat} {a : Nat} {i : Nat} {s : State} (h₀ : Kept r s) : OutK r (execVbfly d a i s) := by
  unfold execVbfly
  repeat' first
    | with_reducible assumption
    | with_reducible first
      | apply xMove_kept
      | apply OutK.of
      | apply OutK.fault
      | apply Kept.foldl
    | intro _
    | dsimp only
    | split
    | with_reducible apply Kept.with_

theorem execVrot_kept {r : State} {d : Nat} {a : Nat} {i : Nat} {s : State} (h₀ : Kept r s) : OutK r (execVrot d a i s) := by
  unfold execVrot
  repeat' first
    | with_reducible assumption
    | with_reducible first
      | apply xMove_kept
      | apply OutK.of
      | apply OutK.fault
      | apply Kept.foldl
    | intro _
    | dsimp only
    | split
    | with_reducible apply Kept.with_

theorem blockOp_kept {r : State} {acc : Acc} {n : Nat} {d : Nat} {a : Nat} {s : State} {f : Group → List Nat → List Byte → List Byte × Nat} (h₀ : Kept r s) : OutK r (blockOp acc n d a s f) := by
  unfold blockOp
  repeat' first
    | with_reducible assumption
    | with_reducible first
      | apply trapAt_kept
      | apply withDraws_kept
      | apply land_kept
      | apply gated_kept
      | apply OutK.of
      | apply OutK.fault
      | apply Kept.foldl
      | apply Kept.id_
    | intro _
    | dsimp only
    | split
    | with_reducible apply Kept.with_

theorem execVpkpx_kept {r : State} {d : Nat} {a : Nat} {f : Nat} {s : State} (h₀ : Kept r s) : OutK r (execVpkpx d a f s) := by
  unfold execVpkpx
  repeat' first
    | with_reducible assumption
    | with_reducible first
      | apply blockOp_kept
      | apply OutK.of
      | apply OutK.fault
      | apply Kept.foldl
    | intro _
    | dsimp only
    | split
    | with_reducible apply Kept.with_

theorem execVunpx_kept {r : State} {d : Nat} {a : Nat} {f : Nat} {s : State} (h₀ : Kept r s) : OutK r (execVunpx d a f s) := by
  unfold execVunpx
  repeat' first
    | with_reducible assumption
    | with_reducible first
      | apply blockOp_kept
      | apply OutK.of
      | apply OutK.fault
      | apply Kept.foldl
    | intro _
    | dsimp only
    | split
    | with_reducible apply Kept.with_

theorem execVpkmx_kept {r : State} {d : Nat} {a : Nat} {f : Nat} {s : State} (h₀ : Kept r s) : OutK r (execVpkmx d a f s) := by
  unfold execVpkmx
  repeat' first
    | with_reducible assumption
    | with_reducible first
      | apply blockOp_kept
      | apply OutK.of
      | apply OutK.fault
      | apply Kept.foldl
    | intro _
    | dsimp only
    | split
    | with_reducible apply Kept.with_

theorem execVunmx_kept {r : State} {d : Nat} {a : Nat} {f : Nat} {s : State} (h₀ : Kept r s) : OutK r (execVunmx d a f s) := by
  unfold execVunmx
  repeat' first
    | with_reducible assumption
    | with_reducible first
      | apply blockOp_kept
      | apply OutK.of
      | apply OutK.fault
      | apply Kept.foldl
    | intro _
    | dsimp only
    | split
    | with_reducible apply Kept.with_

end Sys2Proof.Machine
end

