-- ==== Sys2Proof/Laws/KeptMem.lean ====
section
/-! SUPPORT. What translation, memory, pads and the life of groups keep. -/

set_option linter.unusedTactic false
set_option linter.unreachableTactic false

namespace Sys2Proof.Machine

theorem wantWalk_kept {r : State} {s : State} {core : Nat} {c : Nat} {page : Nat} {n : Need} {gid : Nat} {slot : Nat} (h₀ : Kept r s) : Kept r (wantWalk s core c page n gid slot) := by
  unfold wantWalk
  repeat' first
    | with_reducible assumption
    | with_reducible first
      | apply State.modDie_kept
      | apply Kept.foldl
    | intro _
    | dsimp only
    | split
    | with_reducible apply Kept.with_

theorem translateEach_park_kept {r : State} {g : Group} {miss : List (Nat × Need)} {s : State} (h₀ : Kept r s) : Kept r (translateEach.park g miss s) := by
  unfold translateEach.park
  repeat' first
    | with_reducible assumption
    | with_reducible first
      | apply State.modPath_kept
      | apply wantWalk_kept
      | apply Kept.foldl
    | intro _
    | dsimp only
    | split
    | with_reducible apply Kept.with_

theorem translateEach_kept {r : State} {g : Group} {p : Path} {vas : List (Nat × Need)} {k : List Nat → State → State} {s : State} (h₀ : Kept r s) (hk : ∀ (x0 : List Nat) (x1 : State), Kept r x1 → Kept r (k x0 x1)) : Kept r (translateEach g p vas k s) := by
  unfold translateEach
  repeat' first
    | with_reducible assumption
    | with_reducible first
      | apply hk
      | apply trapAt_kept
      | apply translateEach_park_kept
      | apply Kept.foldl
    | intro _
    | dsimp only
    | split
    | with_reducible apply Kept.with_

theorem translate_kept {r : State} {g : Group} {p : Path} {vas : List Nat} {n : Need} {k : List Nat → State → State} {s : State} (h₀ : Kept r s) (hk : ∀ (x0 : List Nat) (x1 : State), Kept r x1 → Kept r (k x0 x1)) : Kept r (translate g p vas n k s) := by
  unfold translate
  repeat' first
    | with_reducible assumption
    | with_reducible first
      | apply hk
      | apply translateEach_kept
      | apply Kept.foldl
      | apply Kept.id_
    | intro _
    | dsimp only
    | split
    | with_reducible apply Kept.with_

theorem memIssue_kept {r : State} {k : MemK} {n : Nat} {ord : Nat} {scp : Nat} {dst : Dst} {lanes : List (Nat × Nat × Nat × Nat)} {hostBad : Bool} {g : Group} {p : Path} {s : State} (h₀ : Kept r s) : Kept r (memIssue k n ord scp dst lanes hostBad g p s) := by
  unfold memIssue
  repeat' first
    | with_reducible assumption
    | with_reducible first
      | apply trapAt_kept
      | apply advance_kept
      | apply State.modG_kept
      | apply translate_kept
      | apply State.addOp_kept
      | apply Kept.foldl
      | apply Kept.id_
    | intro _
    | dsimp only
    | split
    | with_reducible apply Kept.with_

theorem based_kept {r : State} {store : Bool} {n : Nat} {d : Nat} {a : Nat} {i : Nat} {s : State} (h₀ : Kept r s) : OutK r (based store n d a i s) := by
  unfold based
  repeat' first
    | with_reducible assumption
    | with_reducible first
      | apply memIssue_kept
      | apply gated_kept
      | apply OutK.of
      | apply OutK.fault
      | apply Kept.foldl
      | apply Kept.id_
    | intro _
    | dsimp only
    | split
    | with_reducible apply Kept.with_

theorem indexed_kept {r : State} {store : Bool} {n : Nat} {d : Nat} {a : Nat} {b : Nat} {s : State} (h₀ : Kept r s) : OutK r (indexed store n d a b s) := by
  unfold indexed
  repeat' first
    | with_reducible assumption
    | with_reducible first
      | apply memIssue_kept
      | apply gated_kept
      | apply OutK.of
      | apply OutK.fault
      | apply Kept.foldl
      | apply Kept.id_
    | intro _
    | dsimp only
    | split
    | with_reducible apply Kept.with_

theorem scalarMem_kept {r : State} {store : Bool} {d : Nat} {a : Nat} {i : Nat} {s : State} (h₀ : Kept r s) : OutK r (scalarMem store d a i s) := by
  unfold scalarMem
  repeat' first
    | with_reducible assumption
    | with_reducible first
      | apply memIssue_kept
      | apply gated_kept
      | apply OutK.of
      | apply OutK.fault
      | apply Kept.foldl
      | apply Kept.id_
    | intro _
    | dsimp only
    | split
    | with_reducible apply Kept.with_

theorem atomic_kept {r : State} {fn : Nat} {n : Nat} {d : Nat} {a : Nat} {b : Nat} {hostOk : Bool} {s : State} (h₀ : Kept r s) : OutK r (atomic fn n d a b hostOk s) := by
  unfold atomic
  repeat' first
    | with_reducible assumption
    | with_reducible first
      | apply memIssue_kept
      | apply gated_kept
      | apply OutK.of
      | apply OutK.fault
      | apply Kept.foldl
      | apply Kept.id_
    | intro _
    | dsimp only
    | split
    | with_reducible apply Kept.with_

theorem execVld32_kept {r : State} {d : Nat} {a : Nat} {i : Nat} {s : State} (h₀ : Kept r s) : OutK r (execVld32 d a i s) := by
  unfold execVld32
  repeat' first
    | with_reducible assumption
    | with_reducible first
      | apply based_kept
      | apply OutK.of
      | apply OutK.fault
      | apply Kept.foldl
    | intro _
    | dsimp only
    | split
    | with_reducible apply Kept.with_

theorem execVst32_kept {r : State} {d : Nat} {a : Nat} {i : Nat} {s : State} (h₀ : Kept r s) : OutK r (execVst32 d a i s) := by
  unfold execVst32
  repeat' first
    | with_reducible assumption
    | with_reducible first
      | apply based_kept
      | apply OutK.of
      | apply OutK.fault
      | apply Kept.foldl
    | intro _
    | dsimp only
    | split
    | with_reducible apply Kept.with_

theorem execVld64_kept {r : State} {d : Nat} {a : Nat} {i : Nat} {s : State} (h₀ : Kept r s) : OutK r (execVld64 d a i s) := by
  unfold execVld64
  repeat' first
    | with_reducible assumption
    | with_reducible first
      | apply based_kept
      | apply OutK.of
      | apply OutK.fault
      | apply Kept.foldl
    | intro _
    | dsimp only
    | split
    | with_reducible apply Kept.with_

theorem execVst64_kept {r : State} {d : Nat} {a : Nat} {i : Nat} {s : State} (h₀ : Kept r s) : OutK r (execVst64 d a i s) := by
  unfold execVst64
  repeat' first
    | with_reducible assumption
    | with_reducible first
      | apply based_kept
      | apply OutK.of
      | apply OutK.fault
      | apply Kept.foldl
    | intro _
    | dsimp only
    | split
    | with_reducible apply Kept.with_

theorem execVld16_kept {r : State} {d : Nat} {a : Nat} {i : Nat} {s : State} (h₀ : Kept r s) : OutK r (execVld16 d a i s) := by
  unfold execVld16
  repeat' first
    | with_reducible assumption
    | with_reducible first
      | apply based_kept
      | apply OutK.of
      | apply OutK.fault
      | apply Kept.foldl
    | intro _
    | dsimp only
    | split
    | with_reducible apply Kept.with_

theorem execVst16_kept {r : State} {d : Nat} {a : Nat} {i : Nat} {s : State} (h₀ : Kept r s) : OutK r (execVst16 d a i s) := by
  unfold execVst16
  repeat' first
    | with_reducible assumption
    | with_reducible first
      | apply based_kept
      | apply OutK.of
      | apply OutK.fault
      | apply Kept.foldl
    | intro _
    | dsimp only
    | split
    | with_reducible apply Kept.with_

theorem execVld8_kept {r : State} {d : Nat} {a : Nat} {i : Nat} {s : State} (h₀ : Kept r s) : OutK r (execVld8 d a i s) := by
  unfold execVld8
  repeat' first
    | with_reducible assumption
    | with_reducible first
      | apply based_kept
      | apply OutK.of
      | apply OutK.fault
      | apply Kept.foldl
    | intro _
    | dsimp only
    | split
    | with_reducible apply Kept.with_

theorem execVst8_kept {r : State} {d : Nat} {a : Nat} {i : Nat} {s : State} (h₀ : Kept r s) : OutK r (execVst8 d a i s) := by
  unfold execVst8
  repeat' first
    | with_reducible assumption
    | with_reducible first
      | apply based_kept
      | apply OutK.of
      | apply OutK.fault
      | apply Kept.foldl
    | intro _
    | dsimp only
    | split
    | with_reducible apply Kept.with_

theorem execSld_kept {r : State} {d : Nat} {a : Nat} {i : Nat} {s : State} (h₀ : Kept r s) : OutK r (execSld d a i s) := by
  unfold execSld
  repeat' first
    | with_reducible assumption
    | with_reducible first
      | apply scalarMem_kept
      | apply OutK.of
      | apply OutK.fault
      | apply Kept.foldl
    | intro _
    | dsimp only
    | split
    | with_reducible apply Kept.with_

theorem execSst_kept {r : State} {d : Nat} {a : Nat} {i : Nat} {s : State} (h₀ : Kept r s) : OutK r (execSst d a i s) := by
  unfold execSst
  repeat' first
    | with_reducible assumption
    | with_reducible first
      | apply scalarMem_kept
      | apply OutK.of
      | apply OutK.fault
      | apply Kept.foldl
    | intro _
    | dsimp only
    | split
    | with_reducible apply Kept.with_

theorem execVldx32_kept {r : State} {d : Nat} {a : Nat} {b : Nat} {s : State} (h₀ : Kept r s) : OutK r (execVldx32 d a b s) := by
  unfold execVldx32
  repeat' first
    | with_reducible assumption
    | with_reducible first
      | apply indexed_kept
      | apply OutK.of
      | apply OutK.fault
      | apply Kept.foldl
    | intro _
    | dsimp only
    | split
    | with_reducible apply Kept.with_

theorem execVstx32_kept {r : State} {d : Nat} {a : Nat} {b : Nat} {s : State} (h₀ : Kept r s) : OutK r (execVstx32 d a b s) := by
  unfold execVstx32
  repeat' first
    | with_reducible assumption
    | with_reducible first
      | apply indexed_kept
      | apply OutK.of
      | apply OutK.fault
      | apply Kept.foldl
    | intro _
    | dsimp only
    | split
    | with_reducible apply Kept.with_

theorem execVldx64_kept {r : State} {d : Nat} {a : Nat} {b : Nat} {s : State} (h₀ : Kept r s) : OutK r (execVldx64 d a b s) := by
  unfold execVldx64
  repeat' first
    | with_reducible assumption
    | with_reducible first
      | apply indexed_kept
      | apply OutK.of
      | apply OutK.fault
      | apply Kept.foldl
    | intro _
    | dsimp only
    | split
    | with_reducible apply Kept.with_

theorem execVstx64_kept {r : State} {d : Nat} {a : Nat} {b : Nat} {s : State} (h₀ : Kept r s) : OutK r (execVstx64 d a b s) := by
  unfold execVstx64
  repeat' first
    | with_reducible assumption
    | with_reducible first
      | apply indexed_kept
      | apply OutK.of
      | apply OutK.fault
      | apply Kept.foldl
    | intro _
    | dsimp only
    | split
    | with_reducible apply Kept.with_

theorem execVldx16_kept {r : State} {d : Nat} {a : Nat} {b : Nat} {s : State} (h₀ : Kept r s) : OutK r (execVldx16 d a b s) := by
  unfold execVldx16
  repeat' first
    | with_reducible assumption
    | with_reducible first
      | apply indexed_kept
      | apply OutK.of
      | apply OutK.fault
      | apply Kept.foldl
    | intro _
    | dsimp only
    | split
    | with_reducible apply Kept.with_

theorem execVstx16_kept {r : State} {d : Nat} {a : Nat} {b : Nat} {s : State} (h₀ : Kept r s) : OutK r (execVstx16 d a b s) := by
  unfold execVstx16
  repeat' first
    | with_reducible assumption
    | with_reducible first
      | apply indexed_kept
      | apply OutK.of
      | apply OutK.fault
      | apply Kept.foldl
    | intro _
    | dsimp only
    | split
    | with_reducible apply Kept.with_

theorem execVldx8_kept {r : State} {d : Nat} {a : Nat} {b : Nat} {s : State} (h₀ : Kept r s) : OutK r (execVldx8 d a b s) := by
  unfold execVldx8
  repeat' first
    | with_reducible assumption
    | with_reducible first
      | apply indexed_kept
      | apply OutK.of
      | apply OutK.fault
      | apply Kept.foldl
    | intro _
    | dsimp only
    | split
    | with_reducible apply Kept.with_

theorem execVstx8_kept {r : State} {d : Nat} {a : Nat} {b : Nat} {s : State} (h₀ : Kept r s) : OutK r (execVstx8 d a b s) := by
  unfold execVstx8
  repeat' first
    | with_reducible assumption
    | with_reducible first
      | apply indexed_kept
      | apply OutK.of
      | apply OutK.fault
      | apply Kept.foldl
    | intro _
    | dsimp only
    | split
    | with_reducible apply Kept.with_

theorem execAtomAddE32_kept {r : State} {d : Nat} {a : Nat} {b : Nat} {s : State} (h₀ : Kept r s) : OutK r (execAtomAddE32 d a b s) := by
  unfold execAtomAddE32
  repeat' first
    | with_reducible assumption
    | with_reducible first
      | apply atomic_kept
      | apply OutK.of
      | apply OutK.fault
      | apply Kept.foldl
    | intro _
    | dsimp only
    | split
    | with_reducible apply Kept.with_

theorem execAtomAddE64_kept {r : State} {d : Nat} {a : Nat} {b : Nat} {s : State} (h₀ : Kept r s) : OutK r (execAtomAddE64 d a b s) := by
  unfold execAtomAddE64
  repeat' first
    | with_reducible assumption
    | with_reducible first
      | apply atomic_kept
      | apply OutK.of
      | apply OutK.fault
      | apply Kept.foldl
    | intro _
    | dsimp only
    | split
    | with_reducible apply Kept.with_

theorem execAtomMinI32_kept {r : State} {d : Nat} {a : Nat} {b : Nat} {s : State} (h₀ : Kept r s) : OutK r (execAtomMinI32 d a b s) := by
  unfold execAtomMinI32
  repeat' first
    | with_reducible assumption
    | with_reducible first
      | apply atomic_kept
      | apply OutK.of
      | apply OutK.fault
      | apply Kept.foldl
    | intro _
    | dsimp only
    | split
    | with_reducible apply Kept.with_

theorem execAtomMinN32_kept {r : State} {d : Nat} {a : Nat} {b : Nat} {s : State} (h₀ : Kept r s) : OutK r (execAtomMinN32 d a b s) := by
  unfold execAtomMinN32
  repeat' first
    | with_reducible assumption
    | with_reducible first
      | apply atomic_kept
      | apply OutK.of
      | apply OutK.fault
      | apply Kept.foldl
    | intro _
    | dsimp only
    | split
    | with_reducible apply Kept.with_

theorem execAtomMaxI32_kept {r : State} {d : Nat} {a : Nat} {b : Nat} {s : State} (h₀ : Kept r s) : OutK r (execAtomMaxI32 d a b s) := by
  unfold execAtomMaxI32
  repeat' first
    | with_reducible assumption
    | with_reducible first
      | apply atomic_kept
      | apply OutK.of
      | apply OutK.fault
      | apply Kept.foldl
    | intro _
    | dsimp only
    | split
    | with_reducible apply Kept.with_

theorem execAtomMaxN32_kept {r : State} {d : Nat} {a : Nat} {b : Nat} {s : State} (h₀ : Kept r s) : OutK r (execAtomMaxN32 d a b s) := by
  unfold execAtomMaxN32
  repeat' first
    | with_reducible assumption
    | with_reducible first
      | apply atomic_kept
      | apply OutK.of
      | apply OutK.fault
      | apply Kept.foldl
    | intro _
    | dsimp only
    | split
    | with_reducible apply Kept.with_

theorem execAtomAndB64_kept {r : State} {d : Nat} {a : Nat} {b : Nat} {s : State} (h₀ : Kept r s) : OutK r (execAtomAndB64 d a b s) := by
  unfold execAtomAndB64
  repeat' first
    | with_reducible assumption
    | with_reducible first
      | apply atomic_kept
      | apply OutK.of
      | apply OutK.fault
      | apply Kept.foldl
    | intro _
    | dsimp only
    | split
    | with_reducible apply Kept.with_

theorem execAtomOrB64_kept {r : State} {d : Nat} {a : Nat} {b : Nat} {s : State} (h₀ : Kept r s) : OutK r (execAtomOrB64 d a b s) := by
  unfold execAtomOrB64
  repeat' first
    | with_reducible assumption
    | with_reducible first
      | apply atomic_kept
      | apply OutK.of
      | apply OutK.fault
      | apply Kept.foldl
    | intro _
    | dsimp only
    | split
    | with_reducible apply Kept.with_

theorem execAtomXorB64_kept {r : State} {d : Nat} {a : Nat} {b : Nat} {s : State} (h₀ : Kept r s) : OutK r (execAtomXorB64 d a b s) := by
  unfold execAtomXorB64
  repeat' first
    | with_reducible assumption
    | with_reducible first
      | apply atomic_kept
      | apply OutK.of
      | apply OutK.fault
      | apply Kept.foldl
    | intro _
    | dsimp only
    | split
    | with_reducible apply Kept.with_

theorem execAtomXchgE32_kept {r : State} {d : Nat} {a : Nat} {b : Nat} {s : State} (h₀ : Kept r s) : OutK r (execAtomXchgE32 d a b s) := by
  unfold execAtomXchgE32
  repeat' first
    | with_reducible assumption
    | with_reducible first
      | apply atomic_kept
      | apply OutK.of
      | apply OutK.fault
      | apply Kept.foldl
    | intro _
    | dsimp only
    | split
    | with_reducible apply Kept.with_

theorem execAtomXchgE64_kept {r : State} {d : Nat} {a : Nat} {b : Nat} {s : State} (h₀ : Kept r s) : OutK r (execAtomXchgE64 d a b s) := by
  unfold execAtomXchgE64
  repeat' first
    | with_reducible assumption
    | with_reducible first
      | apply atomic_kept
      | apply OutK.of
      | apply OutK.fault
      | apply Kept.foldl
    | intro _
    | dsimp only
    | split
    | with_reducible apply Kept.with_

theorem execAtomCasE32_kept {r : State} {d : Nat} {a : Nat} {b : Nat} {s : State} (h₀ : Kept r s) : OutK r (execAtomCasE32 d a b s) := by
  unfold execAtomCasE32
  repeat' first
    | with_reducible assumption
    | with_reducible first
      | apply atomic_kept
      | apply OutK.of
      | apply OutK.fault
      | apply Kept.foldl
    | intro _
    | dsimp only
    | split
    | with_reducible apply Kept.with_

theorem execAtomCasE64_kept {r : State} {d : Nat} {a : Nat} {b : Nat} {s : State} (h₀ : Kept r s) : OutK r (execAtomCasE64 d a b s) := by
  unfold execAtomCasE64
  repeat' first
    | with_reducible assumption
    | with_reducible first
      | apply atomic_kept
      | apply OutK.of
      | apply OutK.fault
      | apply Kept.foldl
    | intro _
    | dsimp only
    | split
    | with_reducible apply Kept.with_

theorem execAtomFaddF32_kept {r : State} {d : Nat} {a : Nat} {b : Nat} {s : State} (h₀ : Kept r s) : OutK r (execAtomFaddF32 d a b s) := by
  unfold execAtomFaddF32
  repeat' first
    | with_reducible assumption
    | with_reducible first
      | apply atomic_kept
      | apply OutK.of
      | apply OutK.fault
      | apply Kept.foldl
    | intro _
    | dsimp only
    | split
    | with_reducible apply Kept.with_

theorem execAtomFaddBf16x2_kept {r : State} {d : Nat} {a : Nat} {b : Nat} {s : State} (h₀ : Kept r s) : OutK r (execAtomFaddBf16x2 d a b s) := by
  unfold execAtomFaddBf16x2
  repeat' first
    | with_reducible assumption
    | with_reducible first
      | apply atomic_kept
      | apply OutK.of
      | apply OutK.fault
      | apply Kept.foldl
    | intro _
    | dsimp only
    | split
    | with_reducible apply Kept.with_

theorem execAtomMaxidxF16_kept {r : State} {d : Nat} {a : Nat} {b : Nat} {s : State} (h₀ : Kept r s) : OutK r (execAtomMaxidxF16 d a b s) := by
  unfold execAtomMaxidxF16
  repeat' first
    | with_reducible assumption
    | with_reducible first
      | apply atomic_kept
      | apply OutK.of
      | apply OutK.fault
      | apply Kept.foldl
    | intro _
    | dsimp only
    | split
    | with_reducible apply Kept.with_

theorem inOrder_kept {r : State} {g : Group} {write : Bool} {rel : Bool} {foot : List (Nat × Nat)} {k : State → State} {s : State} (h₀ : Kept r s) (hk : ∀ (x0 : State), Kept r x0 → Kept r (k x0)) : Kept r (inOrder g write rel foot k s) := by
  unfold inOrder
  repeat' first
    | with_reducible assumption
    | with_reducible first
      | apply hk
      | apply waitOn_kept
      | apply Kept.foldl
    | intro _
    | dsimp only
    | split
    | with_reducible apply Kept.with_

theorem installLine_kept {r : State} {s : State} {line : Nat} (h₀ : Kept r s) : Kept r (installLine s line) := by
  unfold installLine
  repeat' first
    | with_reducible assumption
    | with_reducible first
      | apply State.setLine_kept
      | apply State.modCore_kept
      | apply State.wr_kept
      | apply State.modDie_kept
      | apply Kept.foldl
    | intro _
    | dsimp only
    | split
    | with_reducible apply Kept.with_

theorem l1Fill_kept {r : State} {s : State} {core : Nat} {c : Nat} {line : Nat} {fill : Bool} (h₀ : Kept r s) : Kept r (l1Fill s core c line fill) := by
  unfold l1Fill
  repeat' first
    | with_reducible assumption
    | with_reducible first
      | apply State.modCore_kept
      | apply Kept.foldl
    | intro _
    | dsimp only
    | split
    | with_reducible apply Kept.with_

theorem loadLane_kept {r s : State} {gid core c n pa : Nat} {relaxed l1 : Bool} (h₀ : Kept r s) :
    PairK r (loadLane s gid core c n pa relaxed l1) := by
  have h1 : Kept r (readSeen c pa n (installLine s (lineOf pa))) := readSeen_kept (installLine_kept h₀)
  have h2 : Kept r (readSeen c pa n (l1Fill s core c (lineOf pa) relaxed)) := readSeen_kept (l1Fill_kept h₀)
  unfold loadLane
  dsimp only
  split
  · split <;> exact PairK.of h1
  · split
    · split
      · exact PairK.of h₀
      · exact PairK.of h2
    · exact PairK.of h2

theorem versionRoom_kept {r : State} {s : State} {line : Nat} (h₀ : Kept r s) : OptK r (versionRoom s line) := by
  unfold versionRoom
  repeat' first
    | with_reducible assumption
    | with_reducible first
      | apply State.setLine_kept
      | apply OptK.of
      | apply OptK.none
      | refine OptK.get (by with_reducible assumption) ?_
      | apply Kept.foldl
    | intro _
    | dsimp only
    | split
    | with_reducible apply Kept.with_

theorem prepLine_kept {r s : State} {h : Handle} {line : Nat} (h₀ : Kept r s) : OptK r (prepLine s h line) := by
  have h1 : Kept r (installLine s line) := installLine_kept h₀
  unfold prepLine
  extract_lets s1
  split
  · exact OptK.of h1
  · split
    · exact OptK.of h1
    · exact OptK.map (versionRoom_kept h1) fun t ht => State.setLine_kept ht

theorem prepLanes_kept {r s : State} {h : Handle} {l : List LaneAcc} (h₀ : Kept r s) : OptK r (prepLanes h l s) := by
  induction l generalizing s with
  | nil => exact OptK.of h₀
  | cons a l ih =>
    unfold prepLanes
    split
    · exact OptK.bind (prepLine_kept h₀) fun t ht => ih ht
    · exact ih h₀

theorem bundleStore_kept {r : State} {s : State} {h : Handle} {pa : Nat} {bs : List Byte} (h₀ : Kept r s) : Kept r (bundleStore s h pa bs) := by
  unfold bundleStore
  repeat' first
    | with_reducible assumption
    | with_reducible first
      | apply State.setLine_kept
      | apply Kept.foldl
    | intro _
    | dsimp only
    | split
    | with_reducible apply Kept.with_

theorem performLane_kept {r : State} {m : MemOp} {gid : Nat} {core : Nat} {c : Nat} {l1 : Bool} {s : State} {l : LaneAcc} (h₀ : Kept r s) : PairK r (performLane m gid core c l1 s l) := by
  unfold performLane
  repeat' first
    | with_reducible assumption
    | with_reducible first
      | refine PairK.fst (loadLane_kept ?_)
      | apply bundleStore_kept
      | apply readSeen_kept
      | apply homeWrite_kept
      | apply loadLane_kept
      | apply PairK.of
      | refine PairK.get (by with_reducible assumption) ?_
      | apply Kept.foldl
    | intro _
    | dsimp only
    | split
    | with_reducible apply Kept.with_

theorem performLanes_kept {r s : State} {m : MemOp} {gid core c : Nat} {l1 : Bool} {l : List LaneAcc} (h₀ : Kept r s) :
    PairK r (performLanes m gid core c l1 s l) := by
  induction l generalizing s with
  | nil => exact PairK.of h₀
  | cons a l ih => exact PairK.of (PairK.fst (ih (PairK.fst (performLane_kept h₀))))

theorem memPerform_kept {r : State} {o : Nat} {op : Op} {m : MemOp} {ls : List Nat} {l1 : Bool} {s : State} (h₀ : Kept r s) : Kept r (memPerform o op m ls l1 s) := by
  unfold memPerform
  repeat' first
    | with_reducible assumption
    | with_reducible first
      | refine PairK.fst (performLanes_kept ?_)
      | apply l1Drop_kept
      | apply performLanes_kept
      | apply prepLanes_kept
      | apply State.modOp_kept
      | apply State.delOp_kept
      | apply OptK.of
      | apply OptK.none
      | refine OptK.get (by with_reducible assumption) ?_
      | apply PairK.of
      | refine PairK.get (by with_reducible assumption) ?_
      | apply Kept.foldl
    | intro _
    | dsimp only
    | split
    | with_reducible apply Kept.with_

theorem landReply_kept {r : State} {s : State} {o : Nat} {op : Op} {ws : List RegW} (h₀ : Kept r s) : Kept r (landReply s o op ws) := by
  unfold landReply
  repeat' first
    | with_reducible assumption
    | with_reducible first
      | apply State.modGroup_kept
      | apply State.modCtx_kept
      | apply State.delOp_kept
      | apply Kept.foldl
    | intro _
    | dsimp only
    | split
    | with_reducible apply Kept.with_

theorem fencePerform_kept {r : State} {o : Nat} {op : Op} {ord : Nat} {scp : Nat} {s : State} (h₀ : Kept r s) : Kept r (fencePerform o op ord scp s) := by
  unfold fencePerform
  repeat' first
    | with_reducible assumption
    | with_reducible first
      | apply l1Drop_kept
      | apply State.delOp_kept
      | apply Kept.foldl
    | intro _
    | dsimp only
    | split
    | with_reducible apply Kept.with_

theorem execFence_kept {r : State} {s : State} (h₀ : Kept r s) : OutK r (execFence s) := by
  unfold execFence
  repeat' first
    | with_reducible assumption
    | with_reducible first
      | apply l1Drop_kept
      | apply advance_kept
      | apply gated_kept
      | apply State.addOp_kept
      | apply OutK.of
      | apply OutK.fault
      | apply Kept.foldl
      | apply Kept.id_
    | intro _
    | dsimp only
    | split
    | with_reducible apply Kept.with_

theorem execVprefetch_kept {r : State} {l : Nat} {a : Nat} {b : Nat} {s : State} (h₀ : Kept r s) : OutK r (execVprefetch l a b s) := by
  unfold execVprefetch
  repeat' first
    | with_reducible assumption
    | with_reducible first
      | apply advance_kept
      | apply gated_kept
      | apply l1Fill_kept
      | apply OutK.of
      | apply OutK.fault
      | apply Kept.foldl
      | apply Kept.id_
    | intro _
    | dsimp only
    | split
    | with_reducible apply Kept.with_

theorem loadReplyMem_kept {r : State} {o : Nat} {op : Op} {m : MemOp} {s : State} (h₀ : Kept r s) : Kept r (loadReplyMem o op m s) := by
  unfold loadReplyMem
  repeat' first
    | with_reducible assumption
    | with_reducible first
      | apply landReply_kept
      | apply State.delOp_kept
      | apply Kept.foldl
    | intro _
    | dsimp only
    | split
    | with_reducible apply Kept.with_

theorem lostRecord_kept {r : State} {s : State} {o : Nat} {c : Nat} {core : Nat} {kind : Nat} (h₀ : Kept r s) : Kept r (lostRecord s o c core kind) := by
  unfold lostRecord
  repeat' first
    | with_reducible assumption
    | with_reducible first
      | apply postEvent_kept
      | apply ctxLog_kept
      | apply Kept.foldl
    | intro _
    | dsimp only
    | split
    | with_reducible apply Kept.with_

theorem lateReply_kept {r : State} {s : State} {o : Nat} (h₀ : Kept r s) : Kept r (lateReply s o) := by
  unfold lateReply
  repeat' first
    | with_reducible assumption
    | with_reducible first
      | apply lostRecord_kept
      | apply Kept.foldl
    | intro _
    | dsimp only
    | split
    | with_reducible apply Kept.with_

theorem execAtomicReply_kept {r : State} {o : Nat} {s : State} (h₀ : Kept r s) : OutK r (execAtomicReply o s) := by
  unfold execAtomicReply
  repeat' first
    | with_reducible assumption
    | with_reducible first
      | apply lateReply_kept
      | apply landReply_kept
      | apply OutK.of
      | apply OutK.fault
      | apply Kept.foldl
    | intro _
    | dsimp only
    | split
    | with_reducible apply Kept.with_

theorem fillBoth_kept {r : State} {s : State} {core : Nat} {t : Tlb} (h₀ : Kept r s) : Kept r (fillBoth s core t) := by
  unfold fillBoth
  repeat' first
    | with_reducible assumption
    | with_reducible first
      | apply State.modCore_kept
      | apply State.modDie_kept
      | apply Kept.foldl
    | intro _
    | dsimp only
    | split
    | with_reducible apply Kept.with_

theorem heldWalk_kept {r : State} {s : State} {core : Nat} {c : Nat} {va : Nat} {n : Need} (h₀ : Kept r s) : PairK r (heldWalk s core c va n) := by
  unfold heldWalk
  repeat' first
    | with_reducible assumption
    | with_reducible first
      | refine PairK.fst (walk_kept ?_)
      | apply fillBoth_kept
      | apply setAD_kept
      | apply walk_kept
      | apply PairK.of
      | refine PairK.get (by with_reducible assumption) ?_
      | apply Kept.foldl
    | intro _
    | dsimp only
    | split
    | with_reducible apply Kept.with_

theorem bgNow_kept {r : State} {s : State} {core : Nat} {c : Nat} {va : Nat} {n : Need} {eng : Bool} (h₀ : Kept r s) : PairK r (bgNow s core c va n eng) := by
  unfold bgNow
  repeat' first
    | with_reducible assumption
    | with_reducible first
      | refine PairK.fst (heldWalk_kept ?_)
      | apply heldWalk_kept
      | apply PairK.of
      | refine PairK.get (by with_reducible assumption) ?_
      | apply Kept.foldl
    | intro _
    | dsimp only
    | split
    | with_reducible apply Kept.with_

theorem queueWalk_kept {r : State} {s : State} {d : Nat} {c : Nat} {page : Nat} (h₀ : Kept r s) : Kept r (queueWalk s d c page) := by
  unfold queueWalk
  repeat' first
    | with_reducible assumption
    | with_reducible first
      | apply State.modDie_kept
      | apply Kept.foldl
    | intro _
    | dsimp only
    | split
    | with_reducible apply Kept.with_

theorem bgXlate_kept {r : State} {s : State} {core : Nat} {c : Nat} {va : Nat} {n : Need} {eng : Bool} (h₀ : Kept r s) : PairK r (bgXlate s core c va n eng) := by
  unfold bgXlate
  repeat' first
    | with_reducible assumption
    | with_reducible first
      | refine PairK.fst (bgNow_kept ?_)
      | apply bgNow_kept
      | apply queueWalk_kept
      | apply PairK.of
      | refine PairK.get (by with_reducible assumption) ?_
      | apply Kept.foldl
    | intro _
    | dsimp only
    | split
    | with_reducible apply Kept.with_

theorem bgFault_kept {r : State} {s : State} {core : Nat} {c : Nat} {va : Nat} {kind : Nat} {n : Need} {eng : Bool} {w : Waiter} (h₀ : Kept r s) : Kept r (bgFault s core c va kind n eng w) := by
  unfold bgFault
  repeat' first
    | with_reducible assumption
    | with_reducible first
      | apply openFault_kept
      | apply Kept.foldl
    | intro _
    | dsimp only
    | split
    | with_reducible apply Kept.with_

theorem unparkAll_kept {r : State} {s : State} {q : Nat × Nat} (h₀ : Kept r s) : Kept r (unparkAll s q) := by
  unfold unparkAll
  repeat' first
    | with_reducible assumption
    | with_reducible first
      | apply State.modPathAt_kept
      | apply Kept.foldl
    | intro _
    | dsimp only
    | split
    | with_reducible apply Kept.with_

theorem walkEnd_kept {r : State} {d : Nat} {k : Walk} {s : State} {q : Nat × Nat × Need} (h₀ : Kept r s) : Kept r (walkEnd d k s q) := by
  unfold walkEnd
  repeat' first
    | with_reducible assumption
    | with_reducible first
      | refine PairK.fst (heldWalk_kept ?_)
      | apply unparkAll_kept
      | apply heldWalk_kept
      | apply openFault_kept
      | apply State.modPathAt_kept
      | apply PairK.of
      | refine PairK.get (by with_reducible assumption) ?_
      | apply Kept.foldl
    | intro _
    | dsimp only
    | split
    | with_reducible apply Kept.with_

theorem walkHeld_kept {r : State} {d : Nat} {k : Walk} {s : State} (h₀ : Kept r s) : Kept r (walkHeld d k s) := by
  unfold walkHeld
  repeat' first
    | with_reducible assumption
    | with_reducible first
      | refine PairK.fst (walk_kept ?_)
      | apply State.modDie_kept
      | apply walk_kept
      | apply PairK.of
      | refine PairK.get (by with_reducible assumption) ?_
      | apply Kept.foldl
    | intro _
    | dsimp only
    | split
    | with_reducible apply Kept.with_

theorem execWalkComplete_kept {r : State} {w : Nat} {s : State} (h₀ : Kept r s) : OutK r (execWalkComplete w s) := by
  unfold execWalkComplete
  repeat' first
    | with_reducible assumption
    | with_reducible first
      | apply walkHeld_kept
      | apply State.modDie_kept
      | apply walkEnd_kept
      | apply OutK.of
      | apply OutK.fault
      | apply Kept.foldl
    | intro _
    | dsimp only
    | split
    | with_reducible apply Kept.with_

theorem padWr_kept {r : State} {s : State} {core : Nat} {o : Nat} {bs : List Byte} (h₀ : Kept r s) : Kept r (padWr s core o bs) := by
  unfold padWr
  repeat' first
    | with_reducible assumption
    | with_reducible first
      | apply State.modCore_kept
      | apply Kept.foldl
    | intro _
    | dsimp only
    | split
    | with_reducible apply Kept.with_

theorem execSpld_kept {r : State} {d : Nat} {a : Nat} {i : Nat} {s : State} (h₀ : Kept r s) : OutK r (execSpld d a i s) := by
  unfold execSpld
  repeat' first
    | with_reducible assumption
    | with_reducible first
      | apply trapAt_kept
      | apply inOrder_kept
      | apply landNow_kept
      | apply gated_kept
      | apply OutK.of
      | apply OutK.fault
      | apply Kept.foldl
      | apply Kept.id_
    | intro _
    | dsimp only
    | split
    | with_reducible apply Kept.with_

theorem execSpst_kept {r : State} {d : Nat} {a : Nat} {i : Nat} {s : State} (h₀ : Kept r s) : OutK r (execSpst d a i s) := by
  unfold execSpst
  repeat' first
    | with_reducible assumption
    | with_reducible first
      | apply trapAt_kept
      | apply advance_kept
      | apply inOrder_kept
      | apply gated_kept
      | apply padWr_kept
      | apply OutK.of
      | apply OutK.fault
      | apply Kept.foldl
      | apply Kept.id_
    | intro _
    | dsimp only
    | split
    | with_reducible apply Kept.with_

theorem State.modTile_kept {r : State} {s : State} {core : Nat} {t : Nat} {f : Tile → Tile} (h₀ : Kept r s) : Kept r (State.modTile s core t f) := by
  unfold State.modTile
  repeat' first
    | with_reducible assumption
    | with_reducible first
      | apply State.modCore_kept
      | apply Kept.foldl
    | intro _
    | dsimp only
    | split
    | with_reducible apply Kept.with_

theorem TileUse_then_kept {r : State} {u : TileUse} {t : Nat} {mat : Bool} {k : State → State} {s : State} (h₀ : Kept r s) (hk : ∀ (x0 : State), Kept r x0 → Kept r (k x0)) : Kept r (TileUse.then u t mat k s) := by
  unfold TileUse.then
  repeat' first
    | with_reducible assumption
    | with_reducible first
      | apply hk
      | apply trapAt_kept
      | apply waitOn_kept
      | apply Kept.foldl
    | intro _
    | dsimp only
    | split
    | with_reducible apply Kept.with_

theorem execTalloc_kept {r : State} {a : Nat} {b : Nat} {k : Nat} {s : State} (h₀ : Kept r s) : OutK r (execTalloc a b k s) := by
  unfold execTalloc
  repeat' first
    | with_reducible assumption
    | with_reducible first
      | apply trapAt_kept
      | apply advance_kept
      | apply gated_kept
      | apply waitOn_kept
      | apply State.modTile_kept
      | apply OutK.of
      | apply OutK.fault
      | apply Kept.foldl
      | apply Kept.id_
    | intro _
    | dsimp only
    | split
    | with_reducible apply Kept.with_

theorem execTrel_kept {r : State} {a : Nat} {k : Nat} {s : State} (h₀ : Kept r s) : OutK r (execTrel a k s) := by
  unfold execTrel
  repeat' first
    | with_reducible assumption
    | with_reducible first
      | apply trapAt_kept
      | apply advance_kept
      | apply gated_kept
      | apply waitOn_kept
      | apply State.modTile_kept
      | apply OutK.of
      | apply OutK.fault
      | apply Kept.foldl
      | apply Kept.id_
    | intro _
    | dsimp only
    | split
    | with_reducible apply Kept.with_

theorem execTstat_kept {r : State} {a : Nat} {b : Nat} {s : State} (h₀ : Kept r s) : OutK r (execTstat a b s) := by
  unfold execTstat
  repeat' first
    | with_reducible assumption
    | with_reducible first
      | apply trapAt_kept
      | apply advance_kept
      | apply gated_kept
      | apply State.wS_kept
      | apply OutK.of
      | apply OutK.fault
      | apply Kept.foldl
      | apply Kept.id_
    | intro _
    | dsimp only
    | split
    | with_reducible apply Kept.with_

theorem execTglook_kept {r : State} {a : Nat} {b : Nat} {s : State} (h₀ : Kept r s) : OutK r (execTglook a b s) := by
  unfold execTglook
  repeat' first
    | with_reducible assumption
    | with_reducible first
      | apply trapAt_kept
      | apply advance_kept
      | apply State.modCore_kept
      | apply gated_kept
      | apply State.wS_kept
      | apply OutK.of
      | apply OutK.fault
      | apply Kept.foldl
      | apply Kept.id_
    | intro _
    | dsimp only
    | split
    | with_reducible apply Kept.with_

theorem execTgset_kept {r : State} {a : Nat} {b : Nat} {s : State} (h₀ : Kept r s) : OutK r (execTgset a b s) := by
  unfold execTgset
  repeat' first
    | with_reducible assumption
    | with_reducible first
      | apply trapAt_kept
      | apply advance_kept
      | apply State.modCore_kept
      | apply gated_kept
      | apply OutK.of
      | apply OutK.fault
      | apply Kept.foldl
      | apply Kept.id_
    | intro _
    | dsimp only
    | split
    | with_reducible apply Kept.with_

theorem execTgclr_kept {r : State} {a : Nat} {k : Nat} {s : State} (h₀ : Kept r s) : OutK r (execTgclr a k s) := by
  unfold execTgclr
  repeat' first
    | with_reducible assumption
    | with_reducible first
      | apply trapAt_kept
      | apply advance_kept
      | apply State.modCore_kept
      | apply gated_kept
      | apply OutK.of
      | apply OutK.fault
      | apply Kept.foldl
      | apply Kept.id_
    | intro _
    | dsimp only
    | split
    | with_reducible apply Kept.with_

theorem trapWaiting_kept {r : State} {s : State} {gid : Nat} {slot : Nat} {c : Cause} (h₀ : Kept r s) : Kept r (trapWaiting s gid slot c) := by
  unfold trapWaiting
  repeat' first
    | with_reducible assumption
    | with_reducible first
      | apply trapPath_kept
      | apply Kept.foldl
    | intro _
    | dsimp only
    | split
    | with_reducible apply Kept.with_

theorem gangAbort_kept {r : State} {s : State} {q : Nat} (h₀ : Kept r s) : Kept r (gangAbort s q) := by
  unfold gangAbort
  repeat' first
    | with_reducible assumption
    | with_reducible first
      | apply State.modQuad_kept
      | apply trapWaiting_kept
      | apply Kept.foldl
    | intro _
    | dsimp only
    | split
    | with_reducible apply Kept.with_

theorem barWakeAll_kept {r : State} {s : State} (h₀ : Kept r s) : Kept r (barWakeAll s) := by
  unfold barWakeAll
  repeat' first
    | with_reducible assumption
    | with_reducible first
      | apply l1Drop_kept
      | apply Kept.foldl
    | intro _
    | dsimp only
    | split
    | with_reducible apply Kept.with_

theorem recount_recountBars_kept {r s : State} {t : Nat} (h₀ : Kept r s) : Kept r (recount.recountBars s t) := by
  unfold recount.recountBars
  split
  · exact h₀
  · extract_lets gs arr tm' s1
    have h1 : Kept r s1 := by unfold s1; apply Kept.with_; exact h₀
    split
    · exact h1
    · apply Kept.with_; exact h1

theorem recount_kept {r : State} {s : State} {t : Nat} (h₀ : Kept r s) : Kept r (recount s t) := by
  unfold recount
  repeat' first
    | with_reducible assumption
    | with_reducible first
      | apply barWakeAll_kept
      | apply recount_recountBars_kept
      | apply Kept.foldl
    | intro _
    | dsimp only
    | split
    | with_reducible apply Kept.with_

theorem renamePath_kept {r : State} {s : State} {gid : Nat} {old : Nat} {new : Nat} (h₀ : Kept r s) : Kept r (renamePath s gid old new) := by
  unfold renamePath
  repeat' first
    | with_reducible assumption
    | with_reducible first
      | apply State.modGroup_kept
      | apply Kept.foldl
    | intro _
    | dsimp only
    | split
    | with_reducible apply Kept.with_

theorem freeRecord_kept {r : State} {s : State} {c : Nat} {core : Nat} {va : Nat} (h₀ : Kept r s) : Kept r (freeRecord s c core va) := by
  unfold freeRecord
  repeat' first
    | with_reducible assumption
    | with_reducible first
      | refine PairK.fst (walkNow_kept ?_)
      | apply walkNow_kept
      | apply homeWrite_kept
      | apply PairK.of
      | refine PairK.get (by with_reducible assumption) ?_
      | apply Kept.foldl
    | intro _
    | dsimp only
    | split
    | with_reducible apply Kept.with_

theorem freeReserve_kept {r : State} {s : State} {gid : Nat} {slot : Nat} (h₀ : Kept r s) : Kept r (freeReserve s gid slot) := by
  unfold freeReserve
  repeat' first
    | with_reducible assumption
    | with_reducible first
      | apply freeRecord_kept
      | apply Kept.foldl
    | intro _
    | dsimp only
    | split
    | with_reducible apply Kept.with_

theorem fuseInto_kept {r : State} {s : State} {gid : Nat} {old : Nat} {new : Nat} (h₀ : Kept r s) : Kept r (fuseInto s gid old new) := by
  unfold fuseInto
  repeat' first
    | with_reducible assumption
    | with_reducible first
      | apply State.modGroup_kept
      | apply groupFence_kept
      | apply freeReserve_kept
      | apply Kept.foldl
    | intro _
    | dsimp only
    | split
    | with_reducible apply Kept.with_

theorem meetStep_kept {r s : State} {gid : Nat} (h₀ : Kept r s) : OptK r (meetStep s gid) := by
  unfold meetStep
  cases s.group? gid with
  | none => exact OptK.none
  | some g =>
    dsimp only
    cases List.findSome? (fun p => (meetOf g p.1 p.2).map fun m => (p.1, p.2, m)) g.paths with
    | none => exact OptK.none
    | some x =>
      simp only [Option.map_some]
      apply OptK.of
      split
      · exact State.modPathAt_kept h₀
      · exact fuseInto_kept h₀
      · exact State.modPathAt_kept (fuseInto_kept h₀)

theorem meets_kept {r s : State} {n gid : Nat} (h₀ : Kept r s) : Kept r (meets n s gid) := by
  induction n generalizing s with
  | zero => exact h₀
  | succ n ih =>
    unfold meets
    split
    · exact h₀
    · next s1 e => exact ih (OptK.get e (meetStep_kept h₀))

theorem retire_kept {r : State} {s : State} {gid : Nat} (h₀ : Kept r s) : Kept r (retire s gid) := by
  unfold retire
  repeat' first
    | with_reducible assumption
    | with_reducible first
      | apply State.modQuad_kept
      | apply recount_kept
      | apply gangAbort_kept
      | apply freeReserve_kept
      | apply abandonOpen_kept
      | apply Kept.foldl
    | intro _
    | dsimp only
    | split
    | with_reducible apply Kept.with_

theorem fusePair_kept {r : State} {s : State} {host : Nat} {partner : Nat} {d : Nat} {a : Nat} {b : Nat} (h₀ : Kept r s) : Kept r (fusePair s host partner d a b) := by
  unfold fusePair
  repeat' first
    | with_reducible assumption
    | with_reducible first
      | apply State.modGroup_kept
      | apply retire_kept
      | apply Kept.foldl
    | intro _
    | dsimp only
    | split
    | with_reducible apply Kept.with_

theorem regroupRound_kept {r : State} {s : State} {t : Nat} {x : W64} (h₀ : Kept r s) : Kept r (regroupRound s t x) := by
  unfold regroupRound
  repeat' first
    | with_reducible assumption
    | with_reducible first
      | apply State.modGroup_kept
      | apply fusePair_kept
      | apply Kept.foldl
    | intro _
    | dsimp only
    | split
    | with_reducible apply Kept.with_

theorem regroupTimes_kept {r s : State} {t n : Nat} {xs : List W64} (h₀ : Kept r s) : Kept r (regroupTimes t xs n s) := by
  induction n generalizing s with
  | zero => exact h₀
  | succ n ih =>
    unfold regroupTimes
    first
      | exact ih (Kept.foldl h₀ _ _ fun u x hu => regroupRound_kept hu)
      | (dsimp only; split <;> first | exact h₀ | exact ih (Kept.foldl h₀ _ _ fun u x hu => regroupRound_kept hu))

theorem regroupAll_kept {r : State} {s : State} {t : Nat} (h₀ : Kept r s) : Kept r (regroupAll s t) := by
  unfold regroupAll
  repeat' first
    | with_reducible assumption
    | with_reducible first
      | apply regroupTimes_kept
      | apply Kept.foldl
    | intro _
    | dsimp only
    | split
    | with_reducible apply Kept.with_

theorem closeRanks_kept {r : State} {s : State} {gid : Nat} {old : Nat} {parent : Nat} (h₀ : Kept r s) : Kept r (closeRanks s gid old parent) := by
  unfold closeRanks
  repeat' first
    | with_reducible assumption
    | with_reducible first
      | apply State.modGroup_kept
      | apply renamePath_kept
      | apply Kept.foldl
    | intro _
    | dsimp only
    | split
    | with_reducible apply Kept.with_

theorem endedOps_kept {r : State} {s : State} {gid : Nat} {slot : Nat} (h₀ : Kept r s) : Kept r (endedOps s gid slot) := by
  unfold endedOps
  repeat' first
    | with_reducible assumption
    | with_reducible first
      | apply Kept.foldl
    | intro _
    | dsimp only
    | split
    | with_reducible apply Kept.with_

theorem endPath_kept {r : State} {s0 : State} {gid : Nat} {slot : Nat} (h₀ : Kept r s0) : Kept r (endPath s0 gid slot) := by
  unfold endPath
  repeat' first
    | with_reducible assumption
    | with_reducible first
      | apply State.modGroup_kept
      | apply recount_kept
      | apply landGroup_kept
      | apply freeReserve_kept
      | apply closeRanks_kept
      | apply endedOps_kept
      | apply meets_kept
      | apply retire_kept
      | apply regroupAll_kept
      | apply Kept.foldl
    | intro _
    | dsimp only
    | split
    | with_reducible apply Kept.with_

end Sys2Proof.Machine
end

