-- ==== Sys2Proof/Laws/KeptUnits.lean ====
section
/-! SUPPORT. What control, matrix, engine, sort, bundle, frame and barrier instructions and events keep. -/

set_option linter.unusedTactic false
set_option linter.unreachableTactic false

namespace Sys2Proof.Machine

theorem jump_kept {r : State} {t : W64} {w : State → State} {s : State} (h₀ : Kept r s) (hw : ∀ (x0 : State), Kept r x0 → Kept r (w x0)) : Kept r (jump t w s) := by
  unfold jump
  repeat' first
    | with_reducible assumption
    | with_reducible first
      | apply hw
      | apply goTo_kept
      | apply trapAt_kept
      | apply Kept.foldl
    | intro _
    | dsimp only
    | split
    | with_reducible apply Kept.with_

theorem execBr_kept {r : State} {o : Nat} {s : State} (h₀ : Kept r s) : OutK r (execBr o s) := by
  unfold execBr
  repeat' first
    | with_reducible assumption
    | with_reducible first
      | apply jump_kept
      | apply gated_kept
      | apply OutK.of
      | apply OutK.fault
      | apply Kept.foldl
      | apply Kept.id_
    | intro _
    | dsimp only
    | split
    | with_reducible apply Kept.with_

theorem execCall_kept {r : State} {o : Nat} {s : State} (h₀ : Kept r s) : OutK r (execCall o s) := by
  unfold execCall
  repeat' first
    | with_reducible assumption
    | with_reducible first
      | apply jump_kept
      | apply gated_kept
      | apply State.wS_kept
      | apply OutK.of
      | apply OutK.fault
      | apply Kept.foldl
      | apply Kept.id_
    | intro _
    | dsimp only
    | split
    | with_reducible apply Kept.with_

theorem execBc_kept {r : State} {a : Nat} {c : Nat} {o : Nat} {s : State} (h₀ : Kept r s) : OutK r (execBc a c o s) := by
  unfold execBc
  repeat' first
    | with_reducible assumption
    | with_reducible first
      | apply jump_kept
      | apply advance_kept
      | apply gated_kept
      | apply OutK.of
      | apply OutK.fault
      | apply Kept.foldl
      | apply Kept.id_
    | intro _
    | dsimp only
    | split
    | with_reducible apply Kept.with_

theorem execRet_kept {r : State} {a : Nat} {s : State} (h₀ : Kept r s) : OutK r (execRet a s) := by
  unfold execRet
  repeat' first
    | with_reducible assumption
    | with_reducible first
      | apply jump_kept
      | apply gated_kept
      | apply OutK.of
      | apply OutK.fault
      | apply Kept.foldl
      | apply Kept.id_
    | intro _
    | dsimp only
    | split
    | with_reducible apply Kept.with_

theorem execBrx_kept {r : State} {a : Nat} {s : State} (h₀ : Kept r s) : OutK r (execBrx a s) := by
  unfold execBrx
  repeat' first
    | with_reducible assumption
    | with_reducible first
      | apply jump_kept
      | apply gated_kept
      | apply OutK.of
      | apply OutK.fault
      | apply Kept.foldl
      | apply Kept.id_
    | intro _
    | dsimp only
    | split
    | with_reducible apply Kept.with_

theorem execCallx_kept {r : State} {d : Nat} {a : Nat} {s : State} (h₀ : Kept r s) : OutK r (execCallx d a s) := by
  unfold execCallx
  repeat' first
    | with_reducible assumption
    | with_reducible first
      | apply jump_kept
      | apply gated_kept
      | apply State.wS_kept
      | apply OutK.of
      | apply OutK.fault
      | apply Kept.foldl
      | apply Kept.id_
    | intro _
    | dsimp only
    | split
    | with_reducible apply Kept.with_

theorem dividedOps_kept {r : State} {s : State} {gid : Nat} {slot : Nat} {new : Nat} (h₀ : Kept r s) : Kept r (dividedOps s gid slot new) := by
  unfold dividedOps
  repeat' first
    | with_reducible assumption
    | with_reducible first
      | apply Kept.foldl
    | intro _
    | dsimp only
    | split
    | with_reducible apply Kept.with_

theorem divide_kept {r : State} {c : Nat} {t : W64} {tk : W32} {nt : W32} {g : Group} {p : Path} {s : State} (h₀ : Kept r s) : Kept r (divide c t tk nt g p s) := by
  unfold divide
  repeat' first
    | with_reducible assumption
    | with_reducible first
      | apply trapAt_kept
      | apply State.modG_kept
      | apply dividedOps_kept
      | apply Kept.foldl
    | intro _
    | dsimp only
    | split
    | with_reducible apply Kept.with_

theorem execVbr_kept {r : State} {a : Nat} {c : Nat} {o : Nat} {s : State} (h₀ : Kept r s) : OutK r (execVbr a c o s) := by
  unfold execVbr
  repeat' first
    | with_reducible assumption
    | with_reducible first
      | apply goTo_kept
      | apply trapAt_kept
      | apply advance_kept
      | apply divide_kept
      | apply gated_kept
      | apply OutK.of
      | apply OutK.fault
      | apply Kept.foldl
      | apply Kept.id_
    | intro _
    | dsimp only
    | split
    | with_reducible apply Kept.with_

theorem rcvEntry_kept {r : State} {i : Nat} {e : REntry} {p : Path} {s : State} (h₀ : Kept r s) : Kept r (rcvEntry i e p s) := by
  unfold rcvEntry
  repeat' first
    | with_reducible assumption
    | with_reducible first
      | apply groupFence_kept
      | apply trapAt_kept
      | apply State.modG_kept
      | apply Kept.foldl
    | intro _
    | dsimp only
    | split
    | with_reducible apply Kept.with_

theorem execRcv_arrive_kept {r : State} {c : Nat} {g : Group} {p : Path} {s : State} (h₀ : Kept r s) : Kept r (execRcv.arrive c g p s) := by
  unfold execRcv.arrive
  repeat' first
    | with_reducible assumption
    | with_reducible first
      | apply waitThen_kept
      | apply recount_kept
      | apply trapAt_kept
      | apply meets_kept
      | apply Kept.foldl
    | intro _
    | dsimp only
    | split
    | with_reducible apply Kept.with_

theorem execRcv_kept {r : State} {c : Nat} {s : State} (h₀ : Kept r s) : OutK r (execRcv c s) := by
  unfold execRcv
  repeat' first
    | with_reducible assumption
    | with_reducible first
      | apply execRcv_arrive_kept
      | apply trapAt_kept
      | apply gated_kept
      | apply rcvEntry_kept
      | apply OutK.of
      | apply OutK.fault
      | apply Kept.foldl
      | apply Kept.id_
    | intro _
    | dsimp only
    | split
    | with_reducible apply Kept.with_

theorem execAllon_kept {r : State} {s : State} (h₀ : Kept r s) : OutK r (execAllon s) := by
  unfold execAllon
  repeat' first
    | with_reducible assumption
    | with_reducible first
      | apply groupFence_kept
      | apply trapAt_kept
      | apply advance_kept
      | apply State.modG_kept
      | apply gated_kept
      | apply OutK.of
      | apply OutK.fault
      | apply Kept.foldl
      | apply Kept.id_
    | intro _
    | dsimp only
    | split
    | with_reducible apply Kept.with_

theorem execAlloff_kept {r : State} {s : State} (h₀ : Kept r s) : OutK r (execAlloff s) := by
  unfold execAlloff
  repeat' first
    | with_reducible assumption
    | with_reducible first
      | apply groupFence_kept
      | apply trapAt_kept
      | apply advance_kept
      | apply State.modG_kept
      | apply gated_kept
      | apply OutK.of
      | apply OutK.fault
      | apply Kept.foldl
      | apply Kept.id_
    | intro _
    | dsimp only
    | split
    | with_reducible apply Kept.with_

theorem execRegroup_kept {r : State} {d : Nat} {a : Nat} {b : Nat} {s : State} (h₀ : Kept r s) : OutK r (execRegroup d a b s) := by
  unfold execRegroup
  repeat' first
    | with_reducible assumption
    | with_reducible first
      | apply waitThen_kept
      | apply trapAt_kept
      | apply advance_kept
      | apply gated_kept
      | apply State.wS_kept
      | apply regroupAll_kept
      | apply OutK.of
      | apply OutK.fault
      | apply Kept.foldl
      | apply Kept.id_
    | intro _
    | dsimp only
    | split
    | with_reducible apply Kept.with_

theorem giveWay_kept {r : State} {s : State} {g : Group} (h₀ : Kept r s) : Kept r (giveWay s g) := by
  unfold giveWay
  repeat' first
    | with_reducible assumption
    | with_reducible first
      | apply State.modPart_kept
      | apply Kept.foldl
    | intro _
    | dsimp only
    | split
    | with_reducible apply Kept.with_

theorem execYield_kept {r : State} {s : State} (h₀ : Kept r s) : OutK r (execYield s) := by
  unfold execYield
  repeat' first
    | with_reducible assumption
    | with_reducible first
      | apply advance_kept
      | apply gated_kept
      | apply giveWay_kept
      | apply OutK.of
      | apply OutK.fault
      | apply Kept.foldl
      | apply Kept.id_
    | intro _
    | dsimp only
    | split
    | with_reducible apply Kept.with_

theorem execNop_kept {r : State} {s : State} (h₀ : Kept r s) : OutK r (execNop s) := by
  unfold execNop
  repeat' first
    | with_reducible assumption
    | with_reducible first
      | apply advance_kept
      | apply gated_kept
      | apply OutK.of
      | apply OutK.fault
      | apply Kept.foldl
      | apply Kept.id_
    | intro _
    | dsimp only
    | split
    | with_reducible apply Kept.with_

theorem execHint_kept {r : State} {w : Nat} {n : Nat} {s : State} (h₀ : Kept r s) : OutK r (execHint w n s) := by
  unfold execHint
  repeat' first
    | with_reducible assumption
    | with_reducible first
      | apply advance_kept
      | apply State.modG_kept
      | apply gated_kept
      | apply giveWay_kept
      | apply OutK.of
      | apply OutK.fault
      | apply Kept.foldl
      | apply Kept.id_
    | intro _
    | dsimp only
    | split
    | with_reducible apply Kept.with_

theorem exitEntry_kept {r : State} {i : Nat} {e : REntry} {p : Path} {s : State} (h₀ : Kept r s) : Kept r (exitEntry i e p s) := by
  unfold exitEntry
  repeat' first
    | with_reducible assumption
    | with_reducible first
      | apply State.modG_kept
      | apply Kept.foldl
    | intro _
    | dsimp only
    | split
    | with_reducible apply Kept.with_

theorem execExit_kept {r : State} {s : State} (h₀ : Kept r s) : OutK r (execExit s) := by
  unfold execExit
  repeat' first
    | with_reducible assumption
    | with_reducible first
      | apply recount_kept
      | apply trapAt_kept
      | apply endPath_kept
      | apply gated_kept
      | apply exitEntry_kept
      | apply OutK.of
      | apply OutK.fault
      | apply Kept.foldl
      | apply Kept.id_
    | intro _
    | dsimp only
    | split
    | with_reducible apply Kept.with_

theorem setGang_kept {r : State} {x : W64} {g : Group} {s : State} (h₀ : Kept r s) : Kept r (setGang x g s) := by
  unfold setGang
  repeat' first
    | with_reducible assumption
    | with_reducible first
      | apply State.modQuad_kept
      | apply trapAt_kept
      | apply advance_kept
      | apply gangAbort_kept
      | apply Kept.foldl
    | intro _
    | dsimp only
    | split
    | with_reducible apply Kept.with_

theorem execGang_kept {r : State} {a : Nat} {k : Nat} {s : State} (h₀ : Kept r s) : OutK r (execGang a k s) := by
  unfold execGang
  repeat' first
    | with_reducible assumption
    | with_reducible first
      | apply advance_kept
      | apply gated_kept
      | apply State.wS_kept
      | apply setGang_kept
      | apply OutK.of
      | apply OutK.fault
      | apply Kept.foldl
      | apply Kept.id_
    | intro _
    | dsimp only
    | split
    | with_reducible apply Kept.with_

theorem execFmtchk_kept {r : State} {a : Nat} {b : Nat} {k : Nat} {s : State} (h₀ : Kept r s) : OutK r (execFmtchk a b k s) := by
  unfold execFmtchk
  repeat' first
    | with_reducible assumption
    | with_reducible first
      | apply advance_kept
      | apply gated_kept
      | apply State.wS_kept
      | apply OutK.of
      | apply OutK.fault
      | apply Kept.foldl
      | apply Kept.id_
    | intro _
    | dsimp only
    | split
    | with_reducible apply Kept.with_

theorem acceptMat_kept {r : State} {s : State} {g : Group} {gid : Nat} {slot : Nat} {t : Nat} {p : Nat} {f : FBlock} {k : Nat} {a : List (List Nat)} {gids : List Nat} (h₀ : Kept r s) : Kept r (acceptMat s g gid slot t p f k a gids) := by
  unfold acceptMat
  repeat' first
    | with_reducible assumption
    | with_reducible first
      | apply State.modCtx_kept
      | apply State.addOp_kept
      | apply Kept.foldl
    | intro _
    | dsimp only
    | split
    | with_reducible apply Kept.with_

theorem trapMember_kept {r : State} {s : State} {e : Arrival} {c : Cause} {data : Nat} (h₀ : Kept r s) : Kept r (trapMember s e c data) := by
  unfold trapMember
  repeat' first
    | with_reducible assumption
    | with_reducible first
      | apply trapPath_kept
      | apply Kept.foldl
    | intro _
    | dsimp only
    | split
    | with_reducible apply Kept.with_

theorem mmaAccept_kept {r : State} {s : State} {qi : Nat} (h₀ : Kept r s) : Kept r (mmaAccept s qi) := by
  unfold mmaAccept
  repeat' first
    | with_reducible assumption
    | with_reducible first
      | apply State.modQuad_kept
      | apply acceptMat_kept
      | apply trapMember_kept
      | apply State.modPathAt_kept
      | apply Kept.foldl
    | intro _
    | dsimp only
    | split
    | with_reducible apply Kept.with_

theorem execMma_kept {r : State} {t : Nat} {a : Nat} {k : Nat} {s : State} (h₀ : Kept r s) : OutK r (execMma t a k s) := by
  unfold execMma
  repeat' first
    | with_reducible assumption
    | with_reducible first
      | apply State.modQuad_kept
      | apply waitThen_kept
      | apply trapAt_kept
      | apply mmaAccept_kept
      | apply gated_kept
      | apply OutK.of
      | apply OutK.fault
      | apply Kept.foldl
      | apply Kept.id_
    | intro _
    | dsimp only
    | split
    | with_reducible apply Kept.with_

theorem execMmat_kept {r : State} {t : Nat} {a : Nat} {b : Nat} {k : Nat} {s : State} (h₀ : Kept r s) : OutK r (execMmat t a b k s) := by
  unfold execMmat
  repeat' first
    | with_reducible assumption
    | with_reducible first
      | apply trapAt_kept
      | apply advance_kept
      | apply acceptMat_kept
      | apply gated_kept
      | apply TileUse_then_kept
      | apply waitOn_kept
      | apply OutK.of
      | apply OutK.fault
      | apply Kept.foldl
      | apply Kept.id_
    | intro _
    | dsimp only
    | split
    | with_reducible apply Kept.with_

theorem accWork_kept {r : State} {t : Nat} {k : MatKind} {s : State} (h₀ : Kept r s) : OutK r (accWork t k s) := by
  unfold accWork
  repeat' first
    | with_reducible assumption
    | with_reducible first
      | apply advance_kept
      | apply gated_kept
      | apply State.addOp_kept
      | apply OutK.of
      | apply OutK.fault
      | apply Kept.foldl
      | apply Kept.id_
    | intro _
    | dsimp only
    | split
    | with_reducible apply Kept.with_

theorem execMprom_kept {r : State} {t : Nat} {b : Nat} {s : State} (h₀ : Kept r s) : OutK r (execMprom t b s) := by
  unfold execMprom
  repeat' first
    | with_reducible assumption
    | with_reducible first
      | apply accWork_kept
      | apply OutK.of
      | apply OutK.fault
      | apply Kept.foldl
    | intro _
    | dsimp only
    | split
    | with_reducible apply Kept.with_

theorem execAcczero_kept {r : State} {t : Nat} {s : State} (h₀ : Kept r s) : OutK r (execAcczero t s) := by
  unfold execAcczero
  repeat' first
    | with_reducible assumption
    | with_reducible first
      | apply accWork_kept
      | apply OutK.of
      | apply OutK.fault
      | apply Kept.foldl
    | intro _
    | dsimp only
    | split
    | with_reducible apply Kept.with_

theorem execWbld_kept {r : State} {a : Nat} {b : Nat} {k : Nat} {s : State} (h₀ : Kept r s) : OutK r (execWbld a b k s) := by
  unfold execWbld
  repeat' first
    | with_reducible assumption
    | with_reducible first
      | apply State.modQuad_kept
      | apply trapAt_kept
      | apply advance_kept
      | apply gated_kept
      | apply TileUse_then_kept
      | apply State.modCtx_kept
      | apply waitOn_kept
      | apply State.modTile_kept
      | apply State.addOp_kept
      | apply OutK.of
      | apply OutK.fault
      | apply Kept.foldl
      | apply Kept.id_
    | intro _
    | dsimp only
    | split
    | with_reducible apply Kept.with_

theorem execWbfree_kept {r : State} {a : Nat} {s : State} (h₀ : Kept r s) : OutK r (execWbfree a s) := by
  unfold execWbfree
  repeat' first
    | with_reducible assumption
    | with_reducible first
      | apply State.modQuad_kept
      | apply trapAt_kept
      | apply advance_kept
      | apply gated_kept
      | apply waitOn_kept
      | apply OutK.of
      | apply OutK.fault
      | apply Kept.foldl
      | apply Kept.id_
    | intro _
    | dsimp only
    | split
    | with_reducible apply Kept.with_

theorem execWbldSlotLoaded_kept {r : State} {o : Nat} {s : State} (h₀ : Kept r s) : OutK r (execWbldSlotLoaded o s) := by
  unfold execWbldSlotLoaded
  repeat' first
    | with_reducible assumption
    | with_reducible first
      | apply State.modQuad_kept
      | apply mmaAccept_kept
      | apply State.modOp_kept
      | apply State.delOp_kept
      | apply State.modTile_kept
      | apply OutK.of
      | apply OutK.fault
      | apply Kept.foldl
    | intro _
    | dsimp only
    | split
    | with_reducible apply Kept.with_

theorem execMatrixResult_kept {r : State} {o : Nat} {s : State} (h₀ : Kept r s) : OutK r (execMatrixResult o s) := by
  unfold execMatrixResult
  repeat' first
    | with_reducible assumption
    | with_reducible first
      | apply State.modQuad_kept
      | apply State.modGroup_kept
      | apply State.delOp_kept
      | apply OutK.of
      | apply OutK.fault
      | apply Kept.foldl
    | intro _
    | dsimp only
    | split
    | with_reducible apply Kept.with_

theorem accv_kept {r : State} {acc : Acc} {t : Nat} {rd : List RegN} {wr : List RegN} {b : Nat} {s : State} {k : Group → Path → Nat → State → State} (h₀ : Kept r s) (hk : ∀ (x0 : Group) (x1 : Path) (x2 : Nat) (x3 : State), Kept r x3 → Kept r (k x0 x1 x2 x3)) : OutK r (accv acc t rd wr b s k) := by
  unfold accv
  repeat' first
    | with_reducible assumption
    | with_reducible first
      | apply hk
      | apply gated_kept
      | apply waitOn_kept
      | apply OutK.of
      | apply OutK.fault
      | apply Kept.foldl
      | apply Kept.id_
    | intro _
    | dsimp only
    | split
    | with_reducible apply Kept.with_

theorem accPut_kept {r : State} {g : Group} {t : Nat} {lanes : List Nat} {at_ : Nat → Nat × Nat} {f : Nat → Nat} {s : State} (h₀ : Kept r s) : Kept r (accPut g t lanes at_ f s) := by
  unfold accPut
  repeat' first
    | with_reducible assumption
    | with_reducible first
      | apply State.modQuad_kept
      | apply Kept.foldl
    | intro _
    | dsimp only
    | split
    | with_reducible apply Kept.with_

theorem execArowRd_kept {r : State} {d : Nat} {a : Nat} {b : Nat} {s : State} (h₀ : Kept r s) : OutK r (execArowRd d a b s) := by
  unfold execArowRd
  repeat' first
    | with_reducible assumption
    | with_reducible first
      | apply accv_kept
      | apply landNow_kept
      | apply OutK.of
      | apply OutK.fault
      | apply Kept.foldl
      | apply Kept.id_
    | intro _
    | dsimp only
    | split
    | with_reducible apply Kept.with_

theorem execArowWr_kept {r : State} {d : Nat} {a : Nat} {b : Nat} {s : State} (h₀ : Kept r s) : OutK r (execArowWr d a b s) := by
  unfold execArowWr
  repeat' first
    | with_reducible assumption
    | with_reducible first
      | apply accv_kept
      | apply accPut_kept
      | apply landNow_kept
      | apply OutK.of
      | apply OutK.fault
      | apply Kept.foldl
      | apply Kept.id_
    | intro _
    | dsimp only
    | split
    | with_reducible apply Kept.with_

theorem execAcolRd_kept {r : State} {d : Nat} {a : Nat} {b : Nat} {s : State} (h₀ : Kept r s) : OutK r (execAcolRd d a b s) := by
  unfold execAcolRd
  repeat' first
    | with_reducible assumption
    | with_reducible first
      | apply accv_kept
      | apply landNow_kept
      | apply OutK.of
      | apply OutK.fault
      | apply Kept.foldl
      | apply Kept.id_
    | intro _
    | dsimp only
    | split
    | with_reducible apply Kept.with_

theorem execAcolWr_kept {r : State} {d : Nat} {a : Nat} {b : Nat} {s : State} (h₀ : Kept r s) : OutK r (execAcolWr d a b s) := by
  unfold execAcolWr
  repeat' first
    | with_reducible assumption
    | with_reducible first
      | apply accv_kept
      | apply accPut_kept
      | apply landNow_kept
      | apply OutK.of
      | apply OutK.fault
      | apply Kept.foldl
      | apply Kept.id_
    | intro _
    | dsimp only
    | split
    | with_reducible apply Kept.with_

theorem execArowRdb_kept {r : State} {d : Nat} {a : Nat} {b : Nat} {s : State} (h₀ : Kept r s) : OutK r (execArowRdb d a b s) := by
  unfold execArowRdb
  repeat' first
    | with_reducible assumption
    | with_reducible first
      | apply accv_kept
      | apply landNow_kept
      | apply withDraws_kept
      | apply OutK.of
      | apply OutK.fault
      | apply Kept.foldl
      | apply Kept.id_
    | intro _
    | dsimp only
    | split
    | with_reducible apply Kept.with_

theorem execArowAdd_kept {r : State} {d : Nat} {a : Nat} {b : Nat} {s : State} (h₀ : Kept r s) : OutK r (execArowAdd d a b s) := by
  unfold execArowAdd
  repeat' first
    | with_reducible assumption
    | with_reducible first
      | apply accv_kept
      | apply accPut_kept
      | apply landNow_kept
      | apply withDraws_kept
      | apply OutK.of
      | apply OutK.fault
      | apply Kept.foldl
      | apply Kept.id_
    | intro _
    | dsimp only
    | split
    | with_reducible apply Kept.with_

theorem engIssue_kept {r : State} {d : Nat} {b : Nat} {n : Nat} {e0 : (Nat → Nat) → EngOp} {bad : (Nat → Nat) → Bool} {mis : (Nat → Nat) → Bool} {k : Group → Path → EngOp → (EngOp → State → State) → State → State} {s : State} (h₀ : Kept r s) (hk : ∀ (x0 : Group) (x1 : Path) (x2 : EngOp) (x3 : (EngOp → State → State)) (x4 : State), Kept r x4 → (∀ (y0 : EngOp) (y1 : State), Kept r y1 → Kept r (x3 y0 y1)) → Kept r (k x0 x1 x2 x3 x4)) : OutK r (engIssue d b n e0 bad mis k s) := by
  unfold engIssue
  repeat' first
    | with_reducible assumption
    | with_reducible first
      | apply hk
      | apply trapAt_kept
      | apply advance_kept
      | apply State.modCore_kept
      | apply gated_kept
      | apply TileUse_then_kept
      | apply State.wS_kept
      | apply waitOn_kept
      | apply State.modTile_kept
      | apply State.addOp_kept
      | apply OutK.of
      | apply OutK.fault
      | apply Kept.foldl
      | apply Kept.id_
    | intro _
    | dsimp only
    | split
    | with_reducible apply Kept.with_

theorem plainWork_kept {r : State} {z0 : Group} {z1 : Path} {e : EngOp} {k : EngOp → State → State} {z4 : State} (h₀ : Kept r z4) (hk : ∀ (x0 : EngOp) (x1 : State), Kept r x1 → Kept r (k x0 x1)) : Kept r (plainWork z0 z1 e k z4) := by
  unfold plainWork
  repeat' first
    | with_reducible assumption
    | with_reducible first
      | apply hk
      | apply Kept.foldl
    | intro _
    | dsimp only
    | split
    | with_reducible apply Kept.with_

theorem execAcopy_kept {r : State} {a : Nat} {b : Nat} {s : State} (h₀ : Kept r s) : OutK r (execAcopy a b s) := by
  unfold execAcopy
  repeat' first
    | with_reducible assumption
    | with_reducible first
      | apply engIssue_kept
      | apply plainWork_kept
      | apply OutK.of
      | apply OutK.fault
      | apply Kept.foldl
      | apply Kept.id_
    | intro _
    | dsimp only
    | split
    | with_reducible apply Kept.with_

theorem execAcopyo_kept {r : State} {a : Nat} {b : Nat} {k : Nat} {s : State} (h₀ : Kept r s) : OutK r (execAcopyo a b k s) := by
  unfold execAcopyo
  repeat' first
    | with_reducible assumption
    | with_reducible first
      | apply engIssue_kept
      | apply plainWork_kept
      | apply OutK.of
      | apply OutK.fault
      | apply Kept.foldl
      | apply Kept.id_
    | intro _
    | dsimp only
    | split
    | with_reducible apply Kept.with_

theorem execAgath_kept {r : State} {a : Nat} {b : Nat} {s : State} (h₀ : Kept r s) : OutK r (execAgath a b s) := by
  unfold execAgath
  repeat' first
    | with_reducible assumption
    | with_reducible first
      | apply engIssue_kept
      | apply plainWork_kept
      | apply OutK.of
      | apply OutK.fault
      | apply Kept.foldl
      | apply Kept.id_
    | intro _
    | dsimp only
    | split
    | with_reducible apply Kept.with_

theorem execAscat_kept {r : State} {a : Nat} {b : Nat} {k : Nat} {s : State} (h₀ : Kept r s) : OutK r (execAscat a b k s) := by
  unfold execAscat
  repeat' first
    | with_reducible assumption
    | with_reducible first
      | apply engIssue_kept
      | apply plainWork_kept
      | apply OutK.of
      | apply OutK.fault
      | apply Kept.foldl
      | apply Kept.id_
    | intro _
    | dsimp only
    | split
    | with_reducible apply Kept.with_

theorem execAcoll_kept {r : State} {a : Nat} {b : Nat} {k : Nat} {s : State} (h₀ : Kept r s) : OutK r (execAcoll a b k s) := by
  unfold execAcoll
  repeat' first
    | with_reducible assumption
    | with_reducible first
      | apply engIssue_kept
      | apply plainWork_kept
      | apply OutK.of
      | apply OutK.fault
      | apply Kept.foldl
      | apply Kept.id_
    | intro _
    | dsimp only
    | split
    | with_reducible apply Kept.with_

theorem execMcast_kept {r s : State} {a b k : Nat} (h₀ : Kept r s) : OutK r (execMcast a b k s) := by
  unfold execMcast
  refine engIssue_kept h₀ fun g p e next s1 h1 hn => ?_
  dsimp only
  split
  · exact trapAt_kept h1
  · refine translate_kept h1 fun pas s2 h2 => inOrder_kept h2 fun s2 h2 => ?_
    split
    · exact trapAt_kept h2
    · exact hn _ _ h2

theorem State.modEng_kept {r : State} {s : State} {o : Nat} {f : EngOp → EngOp} (h₀ : Kept r s) : Kept r (State.modEng s o f) := by
  unfold State.modEng
  repeat' first
    | with_reducible assumption
    | with_reducible first
      | apply State.modOp_kept
      | apply Kept.foldl
    | intro _
    | dsimp only
    | split
    | with_reducible apply Kept.with_

theorem itemDone_kept {r : State} {s : State} {o : Nat} {i : Nat} {st : Nat} (h₀ : Kept r s) : Kept r (itemDone s o i st) := by
  unfold itemDone
  repeat' first
    | with_reducible assumption
    | with_reducible first
      | apply State.modEng_kept
      | apply Kept.foldl
    | intro _
    | dsimp only
    | split
    | with_reducible apply Kept.with_

theorem engMove_kept {r : State} {o : Nat} {i : Nat} {va : Nat} {pa : Nat} {pad : Nat} {w : Nat} {last : Bool} {op : Op} {e : EngOp} {s : State} (h₀ : Kept r s) : Kept r (engMove o i va pa pad w last op e s) := by
  unfold engMove
  repeat' first
    | with_reducible assumption
    | with_reducible first
      | apply State.modEng_kept
      | apply itemDone_kept
      | apply readSeen_kept
      | apply homeWrite_kept
      | apply padWr_kept
      | apply Kept.foldl
    | intro _
    | dsimp only
    | split
    | with_reducible apply Kept.with_

theorem engDeny_kept {r : State} {o : Nat} {i : Nat} {pad : Nat} {core : Nat} {inbound : Bool} {s : State} (h₀ : Kept r s) : Kept r (engDeny o i pad core inbound s) := by
  unfold engDeny
  repeat' first
    | with_reducible assumption
    | with_reducible first
      | apply itemDone_kept
      | apply padWr_kept
      | apply Kept.foldl
    | intro _
    | dsimp only
    | split
    | with_reducible apply Kept.with_

theorem engItem_kept {r : State} {o : Nat} {op : Op} {s : State} {i : Nat} (h₀ : Kept r s) : Kept r (engItem o op s i) := by
  unfold engItem
  repeat' first
    | with_reducible assumption
    | with_reducible first
      | refine PairK.fst (bgXlate_kept ?_)
      | apply State.modEng_kept
      | apply bgXlate_kept
      | apply bgFault_kept
      | apply engDeny_kept
      | apply engMove_kept
      | apply PairK.of
      | refine PairK.get (by with_reducible assumption) ?_
      | apply Kept.foldl
    | intro _
    | dsimp only
    | split
    | with_reducible apply Kept.with_

theorem peerDelivery_kept {r : State} {o : Nat} {t : Nat} {op : Op} {x : Target} {s : State} (h₀ : Kept r s) : Kept r (peerDelivery o t op x s) := by
  unfold peerDelivery
  repeat' first
    | with_reducible assumption
    | with_reducible first
      | apply itemDone_kept
      | apply ctxLog_kept
      | apply Kept.foldl
    | intro _
    | dsimp only
    | split
    | with_reducible apply Kept.with_

theorem execMcastDelivery_kept {r : State} {o : Nat} {t : Nat} {s : State} (h₀ : Kept r s) : OutK r (execMcastDelivery o t s) := by
  unfold execMcastDelivery
  repeat' first
    | with_reducible assumption
    | with_reducible first
      | apply State.modEng_kept
      | apply peerDelivery_kept
      | apply itemDone_kept
      | apply ctxLog_kept
      | apply State.modTile_kept
      | apply OutK.of
      | apply OutK.fault
      | apply Kept.foldl
    | intro _
    | dsimp only
    | split
    | with_reducible apply Kept.with_

theorem mcastItem_kept {r : State} {o : Nat} {op : Op} {s : State} {i : Nat} (h₀ : Kept r s) : Kept r (mcastItem o op s i) := by
  unfold mcastItem
  repeat' first
    | with_reducible assumption
    | with_reducible first
      | apply itemDone_kept
      | apply State.modTile_kept
      | apply padWr_kept
      | apply Kept.foldl
    | intro _
    | dsimp only
    | split
    | with_reducible apply Kept.with_

theorem engPerform_kept {r : State} {o : Nat} {op : Op} {e : EngOp} {ls : List Nat} {s : State} (h₀ : Kept r s) : Kept r (engPerform o op e ls s) := by
  unfold engPerform
  repeat' first
    | with_reducible assumption
    | with_reducible first
      | apply mcastItem_kept
      | apply engItem_kept
      | apply Kept.foldl
    | intro _
    | dsimp only
    | split
    | with_reducible apply Kept.with_

theorem execTileFillEnd_kept {r : State} {o : Nat} {s : State} (h₀ : Kept r s) : OutK r (execTileFillEnd o s) := by
  unfold execTileFillEnd
  repeat' first
    | with_reducible assumption
    | with_reducible first
      | apply State.modEng_kept
      | apply State.modTile_kept
      | apply OutK.of
      | apply OutK.fault
      | apply Kept.foldl
    | intro _
    | dsimp only
    | split
    | with_reducible apply Kept.with_

theorem execTileDrainEnd_kept {r : State} {o : Nat} {s : State} (h₀ : Kept r s) : OutK r (execTileDrainEnd o s) := by
  unfold execTileDrainEnd
  repeat' first
    | with_reducible assumption
    | with_reducible first
      | apply State.modEng_kept
      | apply State.modTile_kept
      | apply OutK.of
      | apply OutK.fault
      | apply Kept.foldl
    | intro _
    | dsimp only
    | split
    | with_reducible apply Kept.with_

theorem setErr_kept {r : State} {s : State} {gid : Nat} {cls : Nat} (h₀ : Kept r s) : Kept r (setErr s gid cls) := by
  unfold setErr
  repeat' first
    | with_reducible assumption
    | with_reducible first
      | apply State.modGroup_kept
      | apply Kept.foldl
    | intro _
    | dsimp only
    | split
    | with_reducible apply Kept.with_

theorem execEngineCompletion_kept {r : State} {o : Nat} {s : State} (h₀ : Kept r s) : OutK r (execEngineCompletion o s) := by
  unfold execEngineCompletion
  repeat' first
    | with_reducible assumption
    | with_reducible first
      | refine PairK.fst (bgXlate_kept ?_)
      | apply bgXlate_kept
      | apply setErr_kept
      | apply bgFault_kept
      | apply homeWrite_kept
      | apply State.delOp_kept
      | apply OutK.of
      | apply OutK.fault
      | apply PairK.of
      | refine PairK.get (by with_reducible assumption) ?_
      | apply Kept.foldl
    | intro _
    | dsimp only
    | split
    | with_reducible apply Kept.with_

theorem sortInstr_kept {r : State} {rd : List RegN} {s : State} {early : Group → Option (Cause × Nat)} {k : Group → Path → SortArr → State → State} (h₀ : Kept r s) (hk : ∀ (x0 : Group) (x1 : Path) (x2 : SortArr) (x3 : State), Kept r x3 → Kept r (k x0 x1 x2 x3)) : OutK r (sortInstr rd s early k) := by
  unfold sortInstr
  repeat' first
    | with_reducible assumption
    | with_reducible first
      | apply hk
      | apply trapAt_kept
      | apply gated_kept
      | apply waitOn_kept
      | apply OutK.of
      | apply OutK.fault
      | apply Kept.foldl
      | apply Kept.id_
    | intro _
    | dsimp only
    | split
    | with_reducible apply Kept.with_

theorem State.modSort_kept {r : State} {s : State} {core : Nat} {f : SortArr → SortArr} (h₀ : Kept r s) : Kept r (State.modSort s core f) := by
  unfold State.modSort
  repeat' first
    | with_reducible assumption
    | with_reducible first
      | apply State.modCore_kept
      | apply Kept.foldl
    | intro _
    | dsimp only
    | split
    | with_reducible apply Kept.with_

theorem execSxld_kept {r : State} {a : Nat} {k : Nat} {s : State} (h₀ : Kept r s) : OutK r (execSxld a k s) := by
  unfold execSxld
  repeat' first
    | with_reducible assumption
    | with_reducible first
      | apply trapAt_kept
      | apply advance_kept
      | apply TileUse_then_kept
      | apply State.modSort_kept
      | apply sortInstr_kept
      | apply State.modTile_kept
      | apply OutK.of
      | apply OutK.fault
      | apply Kept.foldl
      | apply Kept.id_
    | intro _
    | dsimp only
    | split
    | with_reducible apply Kept.with_

theorem execSxrun_kept {r : State} {k : Nat} {s : State} (h₀ : Kept r s) : OutK r (execSxrun k s) := by
  unfold execSxrun
  repeat' first
    | with_reducible assumption
    | with_reducible first
      | apply trapAt_kept
      | apply advance_kept
      | apply State.modSort_kept
      | apply sortInstr_kept
      | apply OutK.of
      | apply OutK.fault
      | apply Kept.foldl
      | apply Kept.id_
    | intro _
    | dsimp only
    | split
    | with_reducible apply Kept.with_

theorem execSxst_kept {r : State} {a : Nat} {k : Nat} {s : State} (h₀ : Kept r s) : OutK r (execSxst a k s) := by
  unfold execSxst
  repeat' first
    | with_reducible assumption
    | with_reducible first
      | apply trapAt_kept
      | apply advance_kept
      | apply TileUse_then_kept
      | apply State.modSort_kept
      | apply sortInstr_kept
      | apply waitOn_kept
      | apply State.modTile_kept
      | apply OutK.of
      | apply OutK.fault
      | apply Kept.foldl
      | apply Kept.id_
    | intro _
    | dsimp only
    | split
    | with_reducible apply Kept.with_

theorem execSxstat_kept {r : State} {a : Nat} {s : State} (h₀ : Kept r s) : OutK r (execSxstat a s) := by
  unfold execSxstat
  repeat' first
    | with_reducible assumption
    | with_reducible first
      | apply advance_kept
      | apply gated_kept
      | apply State.wS_kept
      | apply OutK.of
      | apply OutK.fault
      | apply Kept.foldl
      | apply Kept.id_
    | intro _
    | dsimp only
    | split
    | with_reducible apply Kept.with_

theorem execSxabort_kept {r : State} {k : Nat} {s : State} (h₀ : Kept r s) : OutK r (execSxabort k s) := by
  unfold execSxabort
  repeat' first
    | with_reducible assumption
    | with_reducible first
      | apply trapAt_kept
      | apply advance_kept
      | apply gated_kept
      | apply State.modSort_kept
      | apply waitOn_kept
      | apply OutK.of
      | apply OutK.fault
      | apply Kept.foldl
      | apply Kept.id_
    | intro _
    | dsimp only
    | split
    | with_reducible apply Kept.with_

theorem execSortLoadEnd_kept {r : State} {core : Nat} {s : State} (h₀ : Kept r s) : OutK r (execSortLoadEnd core s) := by
  unfold execSortLoadEnd
  repeat' first
    | with_reducible assumption
    | with_reducible first
      | apply State.modSort_kept
      | apply State.modTile_kept
      | apply OutK.of
      | apply OutK.fault
      | apply Kept.foldl
    | intro _
    | dsimp only
    | split
    | with_reducible apply Kept.with_

theorem execSortRunEnd_kept {r : State} {core : Nat} {s : State} (h₀ : Kept r s) : OutK r (execSortRunEnd core s) := by
  unfold execSortRunEnd
  repeat' first
    | with_reducible assumption
    | with_reducible first
      | apply State.modSort_kept
      | apply OutK.of
      | apply OutK.fault
      | apply Kept.foldl
    | intro _
    | dsimp only
    | split
    | with_reducible apply Kept.with_

theorem execSortStop_kept {r : State} {core : Nat} {s : State} (h₀ : Kept r s) : OutK r (execSortStop core s) := by
  unfold execSortStop
  repeat' first
    | with_reducible assumption
    | with_reducible first
      | apply State.modSort_kept
      | apply OutK.of
      | apply OutK.fault
      | apply Kept.foldl
    | intro _
    | dsimp only
    | split
    | with_reducible apply Kept.with_

theorem execSortStoreEnd_kept {r : State} {core : Nat} {s : State} (h₀ : Kept r s) : OutK r (execSortStoreEnd core s) := by
  unfold execSortStoreEnd
  repeat' first
    | with_reducible assumption
    | with_reducible first
      | apply State.modSort_kept
      | apply State.modTile_kept
      | apply padWr_kept
      | apply OutK.of
      | apply OutK.fault
      | apply Kept.foldl
    | intro _
    | dsimp only
    | split
    | with_reducible apply Kept.with_

theorem execSortSoftError_kept {r : State} {core : Nat} {s : State} (h₀ : Kept r s) : OutK r (execSortSoftError core s) := by
  unfold execSortSoftError
  repeat' first
    | with_reducible assumption
    | with_reducible first
      | apply setErr_kept
      | apply State.modSort_kept
      | apply ctxLog_kept
      | apply State.modTile_kept
      | apply OutK.of
      | apply OutK.fault
      | apply Kept.foldl
    | intro _
    | dsimp only
    | split
    | with_reducible apply Kept.with_

theorem trapBundle_kept {r : State} {r0 : Nat} {s : State} (h₀ : Kept r s) : Kept r (trapBundle r0 s) := by
  unfold trapBundle
  repeat' first
    | with_reducible assumption
    | with_reducible first
      | apply trapAt_kept
      | apply State.modG_kept
      | apply Kept.foldl
    | intro _
    | dsimp only
    | split
    | with_reducible apply Kept.with_

theorem execBopen_kept {r : State} {a : Nat} {b : Nat} {s : State} (h₀ : Kept r s) : OutK r (execBopen a b s) := by
  unfold execBopen
  repeat' first
    | with_reducible assumption
    | with_reducible first
      | apply trapAt_kept
      | apply advance_kept
      | apply inOrder_kept
      | apply State.modG_kept
      | apply State.modDie_kept
      | apply trapBundle_kept
      | apply gated_kept
      | apply translate_kept
      | apply State.wS_kept
      | apply waitOn_kept
      | apply OutK.of
      | apply OutK.fault
      | apply Kept.foldl
      | apply Kept.id_
    | intro _
    | dsimp only
    | split
    | with_reducible apply Kept.with_

theorem execBclose_kept {r : State} {a : Nat} {k : Nat} {s : State} (h₀ : Kept r s) : OutK r (execBclose a k s) := by
  unfold execBclose
  repeat' first
    | with_reducible assumption
    | with_reducible first
      | apply advance_kept
      | apply State.modG_kept
      | apply setErr_kept
      | apply abandon_kept
      | apply State.modDie_kept
      | apply trapBundle_kept
      | apply gated_kept
      | apply State.wS_kept
      | apply State.addOp_kept
      | apply OutK.of
      | apply OutK.fault
      | apply Kept.foldl
      | apply Kept.id_
    | intro _
    | dsimp only
    | split
    | with_reducible apply Kept.with_

theorem sealLine_kept {r : State} {s : State} {h : Handle} {line : Nat} (h₀ : Kept r s) : SealK r (sealLine s h line) := by
  unfold sealLine
  repeat' first
    | with_reducible assumption
    | with_reducible first
      | apply prepLine_kept
      | apply OptK.of
      | apply OptK.none
      | refine OptK.get (by with_reducible assumption) ?_
      | apply SealK.of
      | apply SealK.fail
      | apply SealK.wait
      | refine SealK.get (by with_reducible assumption) ?_
      | apply Kept.foldl
    | intro _
    | dsimp only
    | split
    | with_reducible apply Kept.with_

theorem sealAll_kept {r s : State} {b : Handle} {l : List Nat} (h₀ : Kept r s) : SealK r (sealAll b l s) := by
  induction l generalizing s with
  | nil => exact SealK.of h₀
  | cons a l ih =>
    unfold sealAll
    have h1 : SealK r (sealLine s b a) := sealLine_kept h₀
    cases e : sealLine s b a with
    | ok s1 => exact ih (SealK.get e h1)
    | fail => exact SealK.fail
    | wait => exact SealK.wait

theorem execBundleCommit_kept {r : State} {die : Nat} {i : Nat} {s : State} (h₀ : Kept r s) : OutK r (execBundleCommit die i s) := by
  unfold execBundleCommit
  repeat' first
    | with_reducible assumption
    | with_reducible first
      | apply sealAll_kept
      | apply setErr_kept
      | apply abandonLog_kept
      | apply abandon_kept
      | apply State.modDie_kept
      | apply landReply_kept
      | apply OutK.of
      | apply OutK.fault
      | apply SealK.of
      | apply SealK.fail
      | apply SealK.wait
      | refine SealK.get (by with_reducible assumption) ?_
      | apply Kept.foldl
    | intro _
    | dsimp only
    | split
    | with_reducible apply Kept.with_

theorem execBundleInstall_kept {r : State} {die : Nat} {i : Nat} {line : Nat} {s : State} (h₀ : Kept r s) : OutK r (execBundleInstall die i line s) := by
  unfold execBundleInstall
  repeat' first
    | with_reducible assumption
    | with_reducible first
      | apply installLine_kept
      | apply OutK.of
      | apply OutK.fault
      | apply Kept.foldl
    | intro _
    | dsimp only
    | split
    | with_reducible apply Kept.with_

theorem execInstallResend_kept {r : State} {_die : Nat} {_i : Nat} {_line : Nat} {s : State} (h₀ : Kept r s) : OutK r (execInstallResend _die _i _line s) := by
  unfold execInstallResend
  repeat' first
    | with_reducible assumption
    | with_reducible first
      | apply OutK.of
      | apply OutK.fault
      | apply Kept.foldl
    | intro _
    | dsimp only
    | split
    | with_reducible apply Kept.with_

theorem lineError_kept {r : State} {s : State} {d : Dir} {line : Nat} (h₀ : Kept r s) : Kept r (lineError s d line) := by
  unfold lineError
  repeat' first
    | with_reducible assumption
    | with_reducible first
      | apply ctxLog_kept
      | apply Kept.foldl
    | intro _
    | dsimp only
    | split
    | with_reducible apply Kept.with_

theorem execBundleSoftError_kept {r : State} {die : Nat} {i : Nat} {s : State} (h₀ : Kept r s) : OutK r (execBundleSoftError die i s) := by
  unfold execBundleSoftError
  repeat' first
    | with_reducible assumption
    | with_reducible first
      | apply State.setLine_kept
      | apply lineError_kept
      | apply setErr_kept
      | apply abandonLog_kept
      | apply abandon_kept
      | apply State.modDie_kept
      | apply landReply_kept
      | apply OutK.of
      | apply OutK.fault
      | apply Kept.foldl
    | intro _
    | dsimp only
    | split
    | with_reducible apply Kept.with_

theorem afterFetch_kept {r : State} {k : State → State} {s : State} (h₀ : Kept r s) (hk : ∀ (x0 : State), Kept r x0 → Kept r (k x0)) : Kept r (afterFetch k s) := by
  unfold afterFetch
  repeat' first
    | with_reducible assumption
    | with_reducible first
      | apply hk
      | apply waitOn_kept
      | apply Kept.foldl
    | intro _
    | dsimp only
    | split
    | with_reducible apply Kept.with_

theorem execBld_kept {r : State} {a : Nat} {b : Nat} {s : State} (h₀ : Kept r s) : OutK r (execBld a b s) := by
  unfold execBld
  repeat' first
    | with_reducible assumption
    | with_reducible first
      | apply trapAt_kept
      | apply advance_kept
      | apply inOrder_kept
      | apply State.modG_kept
      | apply readSeen_kept
      | apply trapBundle_kept
      | apply afterFetch_kept
      | apply gated_kept
      | apply translate_kept
      | apply l1Fill_kept
      | apply installLine_kept
      | apply State.addOp_kept
      | apply OutK.of
      | apply OutK.fault
      | apply Kept.foldl
      | apply Kept.id_
    | intro _
    | dsimp only
    | split
    | with_reducible apply Kept.with_

theorem execBchk_kept {r : State} {a : Nat} {k : Nat} {s : State} (h₀ : Kept r s) : OutK r (execBchk a k s) := by
  unfold execBchk
  repeat' first
    | with_reducible assumption
    | with_reducible first
      | apply l1Drop_kept
      | apply advance_kept
      | apply State.modG_kept
      | apply afterFetch_kept
      | apply gated_kept
      | apply State.wS_kept
      | apply OutK.of
      | apply OutK.fault
      | apply Kept.foldl
      | apply Kept.id_
    | intro _
    | dsimp only
    | split
    | with_reducible apply Kept.with_

theorem execBfetch_kept {r : State} {a : Nat} {b : Nat} {s : State} (h₀ : Kept r s) : OutK r (execBfetch a b s) := by
  unfold execBfetch
  repeat' first
    | with_reducible assumption
    | with_reducible first
      | apply advance_kept
      | apply State.modG_kept
      | apply afterFetch_kept
      | apply gated_kept
      | apply State.wS_kept
      | apply State.addOp_kept
      | apply OutK.of
      | apply OutK.fault
      | apply Kept.foldl
      | apply Kept.id_
    | intro _
    | dsimp only
    | split
    | with_reducible apply Kept.with_

theorem retained_kept {r : State} {s : State} {line : Nat} {t : Nat} (h₀ : Kept r s) : PairK r (retained s line t) := by
  unfold retained
  repeat' first
    | with_reducible assumption
    | with_reducible first
      | apply installLine_kept
      | apply PairK.of
      | refine PairK.get (by with_reducible assumption) ?_
      | apply Kept.foldl
    | intro _
    | dsimp only
    | split
    | with_reducible apply Kept.with_

theorem fetchEnd_kept {r : State} {s : State} {o : Nat} {e : Nat} {lost : Bool} (h₀ : Kept r s) : Kept r (fetchEnd s o e lost) := by
  unfold fetchEnd
  repeat' first
    | with_reducible assumption
    | with_reducible first
      | apply State.modOp_kept
      | apply landReply_kept
      | apply Kept.foldl
    | intro _
    | dsimp only
    | split
    | with_reducible apply Kept.with_

theorem modEntry_kept {r : State} {s : State} {gid : Nat} {e : Nat} {f : RSEntry → RSEntry} (h₀ : Kept r s) : Kept r (modEntry s gid e f) := by
  unfold modEntry
  repeat' first
    | with_reducible assumption
    | with_reducible first
      | apply State.modGroup_kept
      | apply Kept.foldl
    | intro _
    | dsimp only
    | split
    | with_reducible apply Kept.with_

theorem execVersionFetch_kept {r : State} {o : Nat} {e : Nat} {s : State} (h₀ : Kept r s) : OutK r (execVersionFetch o e s) := by
  unfold execVersionFetch
  repeat' first
    | with_reducible assumption
    | with_reducible first
      | refine PairK.fst (bgXlate_kept ?_)
      | refine PairK.fst (retained_kept ?_)
      | apply bgXlate_kept
      | apply readSeen_kept
      | apply bgFault_kept
      | apply l1Fill_kept
      | apply retained_kept
      | apply modEntry_kept
      | apply fetchEnd_kept
      | apply OutK.of
      | apply OutK.fault
      | apply PairK.of
      | refine PairK.get (by with_reducible assumption) ?_
      | apply Kept.foldl
    | intro _
    | dsimp only
    | split
    | with_reducible apply Kept.with_

theorem execBstat_kept {r s : State} {a b k : Nat} (h₀ : Kept r s) : OutK r (execBstat a b k s) := by
  unfold execBstat
  refine gated_kept h₀ fun g p s1 h1 => ?_
  split
  · exact afterFetch_kept h1 fun t ht => advance_kept (State.wS_kept ht)
  · exact advance_kept (State.wS_kept h1)

theorem recXlate_kept {r : State} {s : State} {core : Nat} {c : Nat} {va : Nat} {n : Need} (h₀ : Kept r s) : PairK r (recXlate s core c va n) := by
  unfold recXlate
  repeat' first
    | with_reducible assumption
    | with_reducible first
      | refine PairK.fst (bgXlate_kept ?_)
      | apply bgXlate_kept
      | apply PairK.of
      | refine PairK.get (by with_reducible assumption) ?_
      | apply Kept.foldl
    | intro _
    | dsimp only
    | split
    | with_reducible apply Kept.with_

theorem recPut_kept {r : State} {s : State} {core : Nat} {va : Nat} {k1 : Nat} {k2 : Nat} {i : Nat} {bs : List Byte} (h₀ : Kept r s) : Kept r (recPut s core va k1 k2 i bs) := by
  unfold recPut
  repeat' first
    | with_reducible assumption
    | with_reducible first
      | apply homeWrite_kept
      | apply Kept.foldl
    | intro _
    | dsimp only
    | split
    | with_reducible apply Kept.with_

theorem recState_kept {r : State} {s : State} {core : Nat} {c : Nat} {va : Nat} {st : FrameSt} (h₀ : Kept r s) : Kept r (recState s core c va st) := by
  unfold recState
  repeat' first
    | with_reducible assumption
    | with_reducible first
      | refine PairK.fst (bgNow_kept ?_)
      | apply bgNow_kept
      | apply homeWrite_kept
      | apply PairK.of
      | refine PairK.get (by with_reducible assumption) ?_
      | apply Kept.foldl
    | intro _
    | dsimp only
    | split
    | with_reducible apply Kept.with_

theorem modFrame_kept {r : State} {s : State} {gid : Nat} {addr : Nat} {f : Frame → Frame} (h₀ : Kept r s) : Kept r (modFrame s gid addr f) := by
  unfold modFrame
  repeat' first
    | with_reducible assumption
    | with_reducible first
      | apply State.modGroup_kept
      | apply Kept.foldl
    | intro _
    | dsimp only
    | split
    | with_reducible apply Kept.with_

theorem findFree_kept {r s : State} {core c n i : Nat} {g : Group} (h₀ : Kept r s) :
    PairK r (findFree core c g n i s) := by
  induction n generalizing s i with
  | zero => exact PairK.of h₀
  | succ n ih =>
    unfold findFree
    dsimp only
    split
    · next s1 k e =>
      have h1 := PairK.get e (bgXlate_kept h₀)
      split
      · exact PairK.of h1
      · exact ih h1
    · next s1 e => exact ih (PairK.get e (bgXlate_kept h₀))
    · next s1 k e => exact PairK.of (PairK.get e (bgXlate_kept h₀))
    · next s1 e => exact PairK.of (PairK.get e (bgXlate_kept h₀))

theorem execRecordClaim_kept {r : State} {gid : Nat} {slot : Nat} {start : Nat} {s : State} (h₀ : Kept r s) : OutK r (execRecordClaim gid slot start s) := by
  unfold execRecordClaim
  repeat' first
    | with_reducible assumption
    | with_reducible first
      | refine PairK.fst (findFree_kept ?_)
      | apply findFree_kept
      | apply bgFault_kept
      | apply homeWrite_kept
      | apply State.modPathAt_kept
      | apply OutK.of
      | apply OutK.fault
      | apply PairK.of
      | refine PairK.get (by with_reducible assumption) ?_
      | apply Kept.foldl
    | intro _
    | dsimp only
    | split
    | with_reducible apply Kept.with_

theorem spillOldest_kept {r : State} {s : State} {gid : Nat} {slot : Nat} {g : Group} {p : Path} (h₀ : Kept r s) : SpillK r (spillOldest s gid slot g p) := by
  unfold spillOldest
  repeat' first
    | with_reducible assumption
    | with_reducible first
      | refine PairK.fst (recXlate_kept ?_)
      | apply recXlate_kept
      | apply recPut_kept
      | apply State.modPathAt_kept
      | apply PairK.of
      | refine PairK.get (by with_reducible assumption) ?_
      | apply SpillK.ofOk
      | apply SpillK.ofPerm
      | apply SpillK.ofFault
      | apply SpillK.ofWait
      | refine SpillK.getWait (by with_reducible assumption) ?_
      | refine SpillK.getOk (by with_reducible assumption) ?_
      | refine SpillK.getPerm (by with_reducible assumption) ?_
      | refine SpillK.getFault (by with_reducible assumption) ?_
      | apply Kept.foldl
    | intro _
    | dsimp only
    | split
    | with_reducible apply Kept.with_

theorem execFrameSpill_kept {r : State} {gid : Nat} {slot : Nat} {s : State} (h₀ : Kept r s) : OutK r (execFrameSpill gid slot s) := by
  unfold execFrameSpill
  repeat' first
    | with_reducible assumption
    | with_reducible first
      | apply bgFault_kept
      | apply SpillK.ofWait
      | refine SpillK.getWait (by with_reducible assumption) ?_
      | apply State.modPathAt_kept
      | apply spillOldest_kept
      | apply OutK.of
      | apply OutK.fault
      | apply SpillK.ofOk
      | apply SpillK.ofPerm
      | apply SpillK.ofFault
      | refine SpillK.getOk (by with_reducible assumption) ?_
      | refine SpillK.getPerm (by with_reducible assumption) ?_
      | refine SpillK.getFault (by with_reducible assumption) ?_
      | apply Kept.foldl
    | intro _
    | dsimp only
    | split
    | with_reducible apply Kept.with_

theorem recWait_kept {r : State} {g : Group} {va : Nat} {kind : Nat} {n : Need} {w : Option Wake} {s : State} (h₀ : Kept r s) : Kept r (recWait g va kind n w s) := by
  unfold recWait
  repeat' first
    | with_reducible assumption
    | with_reducible first
      | apply State.modPath_kept
      | apply openFault_kept
      | apply waitOn_kept
      | apply Kept.foldl
    | intro _
    | dsimp only
    | split
    | with_reducible apply Kept.with_

theorem recPark_kept {r : State} {g : Group} {va : Nat} {n : Need} {s : State} (h₀ : Kept r s) : Kept r (recPark g va n s) := by
  unfold recPark
  repeat' first
    | with_reducible assumption
    | with_reducible first
      | apply State.modPath_kept
      | apply wantWalk_kept
      | apply Kept.foldl
    | intro _
    | dsimp only
    | split
    | with_reducible apply Kept.with_

theorem withRoom_kept {r : State} {g : Group} {p : Path} {k : State → State} {s : State} (h₀ : Kept r s) (hk : ∀ (x0 : State), Kept r x0 → Kept r (k x0)) : Kept r (withRoom g p k s) := by
  unfold withRoom
  repeat' first
    | with_reducible assumption
    | with_reducible first
      | apply hk
      | apply trapAt_kept
      | apply recWait_kept
      | apply State.modPath_kept
      | apply recPark_kept
      | apply spillOldest_kept
      | apply SpillK.ofOk
      | apply SpillK.ofPerm
      | apply SpillK.ofFault
      | apply SpillK.ofWait
      | refine SpillK.getWait (by with_reducible assumption) ?_
      | refine SpillK.getOk (by with_reducible assumption) ?_
      | refine SpillK.getPerm (by with_reducible assumption) ?_
      | refine SpillK.getFault (by with_reducible assumption) ?_
      | apply Kept.foldl
    | intro _
    | dsimp only
    | split
    | with_reducible apply Kept.with_

theorem execFork_kept {r : State} {t : Nat} {a : Nat} {b : Nat} {n : Nat} {s : State} (h₀ : Kept r s) : OutK r (execFork t a b n s) := by
  unfold execFork
  repeat' first
    | with_reducible assumption
    | with_reducible first
      | refine PairK.fst (findFree_kept ?_)
      | apply findFree_kept
      | apply trapAt_kept
      | apply advance_kept
      | apply inOrder_kept
      | apply gated_kept
      | apply State.wS_kept
      | apply State.modPath_kept
      | apply waitOn_kept
      | apply withRoom_kept
      | apply OutK.of
      | apply OutK.fault
      | apply PairK.of
      | refine PairK.get (by with_reducible assumption) ?_
      | apply Kept.foldl
      | apply Kept.id_
    | intro _
    | dsimp only
    | split
    | with_reducible apply Kept.with_

theorem withTop_kept {r : State} {g : Group} {p : Path} {f : Frame} {k : Frame → State → State} {s : State} (h₀ : Kept r s) (hk : ∀ (x0 : Frame) (x1 : State), Kept r x1 → Kept r (k x0 x1)) : Kept r (withTop g p f k s) := by
  unfold withTop
  repeat' first
    | with_reducible assumption
    | with_reducible first
      | apply hk
      | refine PairK.fst (recXlate_kept ?_)
      | apply trapAt_kept
      | apply recXlate_kept
      | apply recWait_kept
      | apply recPark_kept
      | apply State.modPath_kept
      | apply PairK.of
      | refine PairK.get (by with_reducible assumption) ?_
      | apply Kept.foldl
    | intro _
    | dsimp only
    | split
    | with_reducible apply Kept.with_

theorem execJoin_kept {r : State} {a : Nat} {s : State} (h₀ : Kept r s) : OutK r (execJoin a s) := by
  unfold execJoin
  repeat' first
    | with_reducible assumption
    | with_reducible first
      | refine PairK.fst (recXlate_kept ?_)
      | apply goTo_kept
      | apply withTop_kept
      | apply l1Drop_kept
      | apply trapAt_kept
      | apply advance_kept
      | apply recState_kept
      | apply State.modG_kept
      | apply recXlate_kept
      | apply gated_kept
      | apply recWait_kept
      | apply State.modPath_kept
      | apply waitOn_kept
      | apply recPark_kept
      | apply OutK.of
      | apply OutK.fault
      | apply PairK.of
      | refine PairK.get (by with_reducible assumption) ?_
      | apply Kept.foldl
      | apply Kept.id_
    | intro _
    | dsimp only
    | split
    | with_reducible apply Kept.with_

theorem fendSpawned_kept {r : State} {f : Spawn} {g0 : Group} {p : Path} {s0 : State} (h₀ : Kept r s0) : Kept r (fendSpawned f g0 p s0) := by
  unfold fendSpawned
  repeat' first
    | with_reducible assumption
    | with_reducible first
      | refine PairK.fst (recXlate_kept ?_)
      | apply modFrame_kept
      | apply trapAt_kept
      | apply inOrder_kept
      | apply landGroup_kept
      | apply recXlate_kept
      | apply recWait_kept
      | apply recPut_kept
      | apply retire_kept
      | apply recPark_kept
      | apply PairK.of
      | refine PairK.get (by with_reducible assumption) ?_
      | apply Kept.foldl
      | apply Kept.id_
    | intro _
    | dsimp only
    | split
    | with_reducible apply Kept.with_

theorem execFend_kept {r : State} {s : State} (h₀ : Kept r s) : OutK r (execFend s) := by
  unfold execFend
  repeat' first
    | with_reducible assumption
    | with_reducible first
      | apply goTo_kept
      | apply withTop_kept
      | apply trapAt_kept
      | apply recState_kept
      | apply gated_kept
      | apply State.modPath_kept
      | apply fendSpawned_kept
      | apply OutK.of
      | apply OutK.fault
      | apply Kept.foldl
      | apply Kept.id_
    | intro _
    | dsimp only
    | split
    | with_reducible apply Kept.with_

theorem execHold_kept {r : State} {s : State} (h₀ : Kept r s) : OutK r (execHold s) := by
  unfold execHold
  repeat' first
    | with_reducible assumption
    | with_reducible first
      | apply advance_kept
      | apply State.modG_kept
      | apply gated_kept
      | apply OutK.of
      | apply OutK.fault
      | apply Kept.foldl
      | apply Kept.id_
    | intro _
    | dsimp only
    | split
    | with_reducible apply Kept.with_

theorem execRelease_kept {r : State} {s : State} (h₀ : Kept r s) : OutK r (execRelease s) := by
  unfold execRelease
  repeat' first
    | with_reducible assumption
    | with_reducible first
      | apply advance_kept
      | apply State.modG_kept
      | apply gated_kept
      | apply OutK.of
      | apply OutK.fault
      | apply Kept.foldl
      | apply Kept.id_
    | intro _
    | dsimp only
    | split
    | with_reducible apply Kept.with_

theorem execFrstat_kept {r : State} {a : Nat} {b : Nat} {k : Nat} {s : State} (h₀ : Kept r s) : OutK r (execFrstat a b k s) := by
  unfold execFrstat
  repeat' first
    | with_reducible assumption
    | with_reducible first
      | apply trapAt_kept
      | apply advance_kept
      | apply State.modG_kept
      | apply gated_kept
      | apply State.wS_kept
      | apply OutK.of
      | apply OutK.fault
      | apply Kept.foldl
      | apply Kept.id_
    | intro _
    | dsimp only
    | split
    | with_reducible apply Kept.with_

theorem execHeartbeatTick_kept {r : State} {core : Nat} {c : Nat} {s : State} (h₀ : Kept r s) : OutK r (execHeartbeatTick core c s) := by
  unfold execHeartbeatTick
  repeat' first
    | with_reducible assumption
    | with_reducible first
      | apply State.modCore_kept
      | apply OutK.of
      | apply OutK.fault
      | apply Kept.foldl
    | intro _
    | dsimp only
    | split
    | with_reducible apply Kept.with_

theorem execHeartbeatTickMode1_kept {r : State} {gid : Nat} {s : State} (h₀ : Kept r s) : OutK r (execHeartbeatTickMode1 gid s) := by
  unfold execHeartbeatTickMode1
  repeat' first
    | with_reducible assumption
    | with_reducible first
      | apply State.modGroup_kept
      | apply OutK.of
      | apply OutK.fault
      | apply Kept.foldl
    | intro _
    | dsimp only
    | split
    | with_reducible apply Kept.with_

theorem execPromotion_kept {r : State} {gid : Nat} {slot : Nat} {s : State} (h₀ : Kept r s) : OutK r (execPromotion gid slot s) := by
  unfold execPromotion
  repeat' first
    | with_reducible assumption
    | with_reducible first
      | apply modFrame_kept
      | apply State.modPathAt_kept
      | apply OutK.of
      | apply OutK.fault
      | apply Kept.foldl
    | intro _
    | dsimp only
    | split
    | with_reducible apply Kept.with_

theorem promoFail_kept {r : State} {s : State} {gid : Nat} {slot : Nat} {f : Frame} (h₀ : Kept r s) : Kept r (promoFail s gid slot f) := by
  unfold promoFail
  repeat' first
    | with_reducible assumption
    | with_reducible first
      | apply modFrame_kept
      | apply State.modPathAt_kept
      | apply Kept.foldl
    | intro _
    | dsimp only
    | split
    | with_reducible apply Kept.with_

theorem execPromoted_kept {r : State} {gid : Nat} {slot : Nat} {s : State} (h₀ : Kept r s) : OutK r (execPromoted gid slot s) := by
  unfold execPromoted
  repeat' first
    | with_reducible assumption
    | with_reducible first
      | refine PairK.fst (recXlate_kept ?_)
      | apply promoFail_kept
      | apply modFrame_kept
      | apply recXlate_kept
      | apply bgFault_kept
      | apply recPut_kept
      | apply OutK.of
      | apply OutK.fault
      | apply PairK.of
      | refine PairK.get (by with_reducible assumption) ?_
      | apply Kept.foldl
    | intro _
    | dsimp only
    | split
    | with_reducible apply Kept.with_

theorem withdraw_kept {r : State} {s : State} {r0 : Nat} {q : Req} {c : Nat} (h₀ : Kept r s) : Kept r (withdraw s r0 q c) := by
  unfold withdraw
  repeat' first
    | with_reducible assumption
    | with_reducible first
      | apply State.modCore_kept
      | apply Kept.foldl
    | intro _
    | dsimp only
    | split
    | with_reducible apply Kept.with_

theorem enterQueue_kept {r : State} {s : State} {r0 : Nat} {q : Req} {f : Spawn} (h₀ : Kept r s) : Kept r (enterQueue s r0 q f) := by
  unfold enterQueue
  repeat' first
    | with_reducible assumption
    | with_reducible first
      | apply State.modCore_kept
      | apply Kept.foldl
    | intro _
    | dsimp only
    | split
    | with_reducible apply Kept.with_

theorem execSpawnForward_kept {r : State} {r0 : Nat} {s : State} (h₀ : Kept r s) : OutK r (execSpawnForward r0 s) := by
  unfold execSpawnForward
  repeat' first
    | with_reducible assumption
    | with_reducible first
      | apply enterQueue_kept
      | apply withdraw_kept
      | apply OutK.of
      | apply OutK.fault
      | apply Kept.foldl
    | intro _
    | dsimp only
    | split
    | with_reducible apply Kept.with_

theorem State.listBarOf_kept {r : State} {s : State} {g : Group} {coh : Bool} {k : Nat} (h₀ : Kept r s) : Kept r (State.listBarOf s g coh k) := by
  unfold State.listBarOf
  repeat' first
    | with_reducible assumption
    | with_reducible first
      | apply Kept.foldl
    | intro _
    | dsimp only
    | split
    | with_reducible apply Kept.with_

theorem arriveBar_kept {r : State} {coh : Bool} {b : Nat} {k : Nat → State → State} {g : Group} {p : Path} {s : State} (h₀ : Kept r s) (hk : ∀ (x0 : Nat) (x1 : State), Kept r x1 → Kept r (k x0 x1)) : Kept r (arriveBar coh b k g p s) := by
  unfold arriveBar
  repeat' first
    | with_reducible assumption
    | with_reducible first
      | apply hk
      | apply recount_kept
      | apply trapAt_kept
      | apply inOrder_kept
      | apply State.listBarOf_kept
      | apply State.modPath_kept
      | apply waitOn_kept
      | apply Kept.foldl
      | apply Kept.id_
    | intro _
    | dsimp only
    | split
    | with_reducible apply Kept.with_

theorem execBar_kept {r : State} {k : Nat} {s : State} (h₀ : Kept r s) : OutK r (execBar k s) := by
  unfold execBar
  repeat' first
    | with_reducible assumption
    | with_reducible first
      | apply waitThen_kept
      | apply arriveBar_kept
      | apply gated_kept
      | apply OutK.of
      | apply OutK.fault
      | apply Kept.foldl
      | apply Kept.id_
    | intro _
    | dsimp only
    | split
    | with_reducible apply Kept.with_

theorem execBara_kept {r : State} {a : Nat} {k : Nat} {s : State} (h₀ : Kept r s) : OutK r (execBara a k s) := by
  unfold execBara
  repeat' first
    | with_reducible assumption
    | with_reducible first
      | apply advance_kept
      | apply arriveBar_kept
      | apply gated_kept
      | apply State.wS_kept
      | apply OutK.of
      | apply OutK.fault
      | apply Kept.foldl
      | apply Kept.id_
    | intro _
    | dsimp only
    | split
    | with_reducible apply Kept.with_

theorem execCbar_kept {r : State} {k : Nat} {s : State} (h₀ : Kept r s) : OutK r (execCbar k s) := by
  unfold execCbar
  repeat' first
    | with_reducible assumption
    | with_reducible first
      | apply waitThen_kept
      | apply arriveBar_kept
      | apply gated_kept
      | apply OutK.of
      | apply OutK.fault
      | apply Kept.foldl
      | apply Kept.id_
    | intro _
    | dsimp only
    | split
    | with_reducible apply Kept.with_

theorem execBarw_kept {r : State} {a : Nat} {k : Nat} {s : State} (h₀ : Kept r s) : OutK r (execBarw a k s) := by
  unfold execBarw
  repeat' first
    | with_reducible assumption
    | with_reducible first
      | apply l1Drop_kept
      | apply waitThen_kept
      | apply trapAt_kept
      | apply advance_kept
      | apply gated_kept
      | apply OutK.of
      | apply OutK.fault
      | apply Kept.foldl
      | apply Kept.id_
    | intro _
    | dsimp only
    | split
    | with_reducible apply Kept.with_

end Sys2Proof.Machine
end

