-- ==== Sys2Proof/Laws/KeptQueue.lean ====
section
/-! SUPPORT. What queues, the torus, waits, home accesses, system instructions, allotments and pages keep. -/

set_option linter.unusedTactic false
set_option linter.unreachableTactic false

namespace Sys2Proof.Machine

theorem qWr_kept {r : State} {s : State} {q : KQueue} {va : Nat} {bs : List Byte} (h₀ : Kept r s) : Kept r (qWr s q va bs) := by
  unfold qWr
  repeat' first
    | with_reducible assumption
    | with_reducible first
      | refine PairK.fst (walkNow_kept ?_)
      | apply walkNow_kept
      | apply homeWrite_kept
      | apply PairK.of
      | refine PairK.get (by with_reducible assumption) ?_
      | apply Kept.foldl
    | intro _
    | dsimp only
    | split
    | with_reducible apply Kept.with_

theorem State.modQ_kept {r : State} {s : State} {i : Nat} {f : KQueue → KQueue} (h₀ : Kept r s) : Kept r (State.modQ s i f) := by
  unfold State.modQ
  repeat' first
    | with_reducible assumption
    | with_reducible first
      | apply Kept.foldl
    | intro _
    | dsimp only
    | split
    | with_reducible apply Kept.with_

theorem qFlush_kept {r s : State} {n i : Nat} (h₀ : Kept r s) : Kept r (qFlush n i s) := by
  induction n generalizing s with
  | zero => exact h₀
  | succ n ih =>
    unfold qFlush
    split
    · exact h₀
    · split
      · exact h₀
      · dsimp only
        split
        · exact h₀
        · exact ih (State.modQ_kept (qWr_kept (qWr_kept h₀)))

theorem qStall_kept {r : State} {i : Nat} {s : State} (h₀ : Kept r s) : Kept r (qStall i s) := by
  unfold qStall
  repeat' first
    | with_reducible assumption
    | with_reducible first
      | apply State.modQ_kept
      | apply Kept.foldl
    | intro _
    | dsimp only
    | split
    | with_reducible apply Kept.with_

theorem complete_kept {r : State} {i : Nat} {seq : Nat} {st : Nat} {res : Nat} {s : State} (h₀ : Kept r s) : Kept r (complete i seq st res s) := by
  unfold complete
  repeat' first
    | with_reducible assumption
    | with_reducible first
      | apply State.modQ_kept
      | apply qFlush_kept
      | apply qStall_kept
      | apply Kept.foldl
    | intro _
    | dsimp only
    | split
    | with_reducible apply Kept.with_

theorem ring_kept {r : State} {i : Nat} {s : State} (h₀ : Kept r s) : Kept r (ring i s) := by
  unfold ring
  repeat' first
    | with_reducible assumption
    | with_reducible first
      | apply State.modQ_kept
      | apply qFlush_kept
      | apply qStall_kept
      | apply Kept.foldl
    | intro _
    | dsimp only
    | split
    | with_reducible apply Kept.with_

theorem consume_kept {r : State} {c : Cmd} {s : State} (h₀ : Kept r s) : Kept r (consume c s) := by
  unfold consume
  repeat' first
    | with_reducible assumption
    | with_reducible first
      | apply State.modQ_kept
      | apply qWr_kept
      | apply Kept.foldl
    | intro _
    | dsimp only
    | split
    | with_reducible apply Kept.with_

theorem runCmd_kept {r s : State} {op : Nat} {c : Cmd} {k : State → CmdRes} (h₀ : Kept r s)
    (hk : ∀ x0 : State, Kept r x0 → CmdK r (k x0)) : OutK r (runCmd op c s k) := by
  unfold runCmd
  apply OutK.of
  dsimp only
  split
  · exact h₀
  · have h1 : Kept r (consume c s) := consume_kept h₀
    split
    · exact complete_kept h1
    · have h2 := hk _ h1
      cases e : k (consume c s) with
      | done a b t => exact complete_kept (CmdK.getDone e h2)
      | busy t => exact State.modQ_kept (CmdK.getBusy e h2)
      | later t => exact CmdK.getLater e h2

theorem finishCmd_kept {r : State} {i : Nat} {st : Nat} {res : Nat} {s : State} (h₀ : Kept r s) : Kept r (finishCmd i st res s) := by
  unfold finishCmd
  repeat' first
    | with_reducible assumption
    | with_reducible first
      | apply State.modQ_kept
      | apply complete_kept
      | apply Kept.foldl
    | intro _
    | dsimp only
    | split
    | with_reducible apply Kept.with_

theorem finishAll_kept {r : State} {f : Cmd → Bool} {st : Nat} {res : Nat} {s : State} (h₀ : Kept r s) : Kept r (finishAll f st res s) := by
  unfold finishAll
  repeat' first
    | with_reducible assumption
    | with_reducible first
      | apply finishCmd_kept
      | apply Kept.foldl
    | intro _
    | dsimp only
    | split
    | with_reducible apply Kept.with_

theorem execBadcmd_kept {r : State} {c : Cmd} {s : State} (h₀ : Kept r s) : OutK r (execBadcmd c s) := by
  unfold execBadcmd
  repeat' first
    | with_reducible assumption
    | with_reducible first
      | apply complete_kept
      | apply consume_kept
      | apply OutK.of
      | apply OutK.fault
      | apply Kept.foldl
    | intro _
    | dsimp only
    | split
    | with_reducible apply Kept.with_

theorem execBadseq_kept {r : State} {i : Nat} {s : State} (h₀ : Kept r s) : OutK r (execBadseq i s) := by
  unfold execBadseq
  repeat' first
    | with_reducible assumption
    | with_reducible first
      | apply State.modQ_kept
      | apply complete_kept
      | apply OutK.of
      | apply OutK.fault
      | apply Kept.foldl
    | intro _
    | dsimp only
    | split
    | with_reducible apply Kept.with_

theorem execDoorbell_kept {r : State} {v : Nat} {s : State} (h₀ : Kept r s) : OutK r (execDoorbell v s) := by
  unfold execDoorbell
  repeat' first
    | with_reducible assumption
    | with_reducible first
      | apply ring_kept
      | apply postEvent_kept
      | apply OutK.of
      | apply OutK.fault
      | apply Kept.foldl
    | intro _
    | dsimp only
    | split
    | with_reducible apply Kept.with_

theorem eject_kept {r : State} {s : State} (h₀ : Kept r s) : Kept r (eject s) := by
  unfold eject
  repeat' first
    | with_reducible assumption
    | with_reducible first
      | apply Kept.foldl
    | intro _
    | dsimp only
    | split
    | with_reducible apply Kept.with_

theorem State.show_kept {r : State} {s : State} {p : Packet} (h₀ : Kept r s) : Kept r (State.show s p) := by
  unfold State.show
  repeat' first
    | with_reducible assumption
    | with_reducible first
      | apply Kept.foldl
    | intro _
    | dsimp only
    | split
    | with_reducible apply Kept.with_

theorem inject_kept {r : State} {s : State} {o : Nat} {k : Nat} (h₀ : Kept r s) : Kept r (inject s o k) := by
  unfold inject
  repeat' first
    | with_reducible assumption
    | with_reducible first
      | apply State.show_kept
      | apply Kept.foldl
    | intro _
    | dsimp only
    | split
    | with_reducible apply Kept.with_

theorem sendJob_kept {r : State} {s : State} {j : Job} (h₀ : Kept r s) : Kept r (sendJob s j) := by
  unfold sendJob
  repeat' first
    | with_reducible assumption
    | with_reducible first
      | apply State.show_kept
      | apply withdraw_kept
      | apply Kept.foldl
    | intro _
    | dsimp only
    | split
    | with_reducible apply Kept.with_

theorem hopOne_kept {r : State} {s : State} {n : Nat} (h₀ : Kept r s) : Kept r (hopOne s n) := by
  unfold hopOne
  repeat' first
    | with_reducible assumption
    | with_reducible first
      | apply eject_kept
      | apply Kept.foldl
    | intro _
    | dsimp only
    | split
    | with_reducible apply Kept.with_

theorem torusCycle_kept {r : State} {s : State} (h₀ : Kept r s) : Kept r (torusCycle s) := by
  unfold torusCycle
  repeat' first
    | with_reducible assumption
    | with_reducible first
      | apply eject_kept
      | apply Kept.foldl
    | intro _
    | dsimp only
    | split
    | with_reducible apply Kept.with_

theorem sendAct_kept {r : State} {s : State} {o : Nat} {c : Nat} {core : Nat} {dev : Nat} {dest : Nat} {len : Nat} (h₀ : Kept r s) : Kept r (sendAct s o c core dev dest len) := by
  unfold sendAct
  repeat' first
    | with_reducible assumption
    | with_reducible first
      | apply State.show_kept
      | apply Kept.foldl
    | intro _
    | dsimp only
    | split
    | with_reducible apply Kept.with_

theorem execQput_kept {r : State} {a : Nat} {b : Nat} {s : State} (h₀ : Kept r s) : OutK r (execQput a b s) := by
  unfold execQput
  repeat' first
    | with_reducible assumption
    | with_reducible first
      | apply trapAt_kept
      | apply advance_kept
      | apply inOrder_kept
      | apply gated_kept
      | apply waitOn_kept
      | apply padWr_kept
      | apply OutK.of
      | apply OutK.fault
      | apply Kept.foldl
      | apply Kept.id_
    | intro _
    | dsimp only
    | split
    | with_reducible apply Kept.with_

theorem execQtake_kept {r : State} {a : Nat} {b : Nat} {s : State} (h₀ : Kept r s) : OutK r (execQtake a b s) := by
  unfold execQtake
  repeat' first
    | with_reducible assumption
    | with_reducible first
      | apply l1Drop_kept
      | apply trapAt_kept
      | apply advance_kept
      | apply inOrder_kept
      | apply State.modG_kept
      | apply gated_kept
      | apply waitOn_kept
      | apply padWr_kept
      | apply OutK.of
      | apply OutK.fault
      | apply Kept.foldl
      | apply Kept.id_
    | intro _
    | dsimp only
    | split
    | with_reducible apply Kept.with_

theorem execQstat_kept {r : State} {a : Nat} {b : Nat} {s : State} (h₀ : Kept r s) : OutK r (execQstat a b s) := by
  unfold execQstat
  repeat' first
    | with_reducible assumption
    | with_reducible first
      | apply trapAt_kept
      | apply advance_kept
      | apply gated_kept
      | apply State.wS_kept
      | apply OutK.of
      | apply OutK.fault
      | apply Kept.foldl
      | apply Kept.id_
    | intro _
    | dsimp only
    | split
    | with_reducible apply Kept.with_

theorem submitPerm_kept {r : State} {o : Nat} {op : Op} {va : Nat} {s : State} (h₀ : Kept r s) : Kept r (submitPerm o op va s) := by
  unfold submitPerm
  repeat' first
    | with_reducible assumption
    | with_reducible first
      | apply State.delOp_kept
      | apply State.modPathAt_kept
      | apply Kept.foldl
    | intro _
    | dsimp only
    | split
    | with_reducible apply Kept.with_

theorem execSubmit_kept {r : State} {a : Nat} {b : Nat} {s : State} (h₀ : Kept r s) : OutK r (execSubmit a b s) := by
  unfold execSubmit
  repeat' first
    | with_reducible assumption
    | with_reducible first
      | apply trapAt_kept
      | apply advance_kept
      | apply gated_kept
      | apply translate_kept
      | apply translateEach_kept
      | apply State.addOp_kept
      | apply OutK.of
      | apply OutK.fault
      | apply Kept.foldl
      | apply Kept.id_
    | intro _
    | dsimp only
    | split
    | with_reducible apply Kept.with_

theorem submitStep_kept {r : State} {s : State} {core : Option Nat} {re : Nat} {ka : Nat} {kr : Nat} {kt : Nat} (h₀ : Kept r s) : PairK r (submitStep s core re ka kr kt) := by
  unfold submitStep
  repeat' first
    | with_reducible assumption
    | with_reducible first
      | apply homeWrite_kept
      | apply PairK.of
      | refine PairK.get (by with_reducible assumption) ?_
      | apply Kept.foldl
    | intro _
    | dsimp only
    | split
    | with_reducible apply Kept.with_

theorem submitPerform_kept {r : State} {o : Nat} {op : Op} {an : Nat} {re : Nat} {ka : Nat} {kr : Nat} {reg : Nat} {s : State} (h₀ : Kept r s) : Kept r (submitPerform o op an re ka kr reg s) := by
  unfold submitPerform
  repeat' first
    | with_reducible assumption
    | with_reducible first
      | refine PairK.fst (submitStep_kept ?_)
      | refine PairK.fst (bgXlate_kept ?_)
      | apply ring_kept
      | apply submitStep_kept
      | apply bgXlate_kept
      | apply State.modOp_kept
      | apply bgFault_kept
      | apply submitPerm_kept
      | apply PairK.of
      | refine PairK.get (by with_reducible assumption) ?_
      | apply Kept.foldl
    | intro _
    | dsimp only
    | split
    | with_reducible apply Kept.with_

theorem execAmsg_kept {r : State} {a : Nat} {b : Nat} {s : State} (h₀ : Kept r s) : OutK r (execAmsg a b s) := by
  unfold execAmsg
  repeat' first
    | with_reducible assumption
    | with_reducible first
      | apply trapAt_kept
      | apply advance_kept
      | apply inOrder_kept
      | apply gated_kept
      | apply sendAct_kept
      | apply waitOn_kept
      | apply State.addOp_kept
      | apply OutK.of
      | apply OutK.fault
      | apply Kept.foldl
      | apply Kept.id_
    | intro _
    | dsimp only
    | split
    | with_reducible apply Kept.with_

theorem execDturn_kept {r : State} {a : Nat} {b : Nat} {k : Nat} {s : State} (h₀ : Kept r s) : OutK r (execDturn a b k s) := by
  unfold execDturn
  repeat' first
    | with_reducible assumption
    | with_reducible first
      | apply waitThen_kept
      | apply trapAt_kept
      | apply advance_kept
      | apply gated_kept
      | apply State.wS_kept
      | apply waitOn_kept
      | apply State.modBound_kept
      | apply OutK.of
      | apply OutK.fault
      | apply Kept.foldl
      | apply Kept.id_
    | intro _
    | dsimp only
    | split
    | with_reducible apply Kept.with_

theorem execWaitc_kept {r : State} {c : Nat} {s : State} (h₀ : Kept r s) : OutK r (execWaitc c s) := by
  unfold execWaitc
  repeat' first
    | with_reducible assumption
    | with_reducible first
      | apply l1Drop_kept
      | apply waitThen_kept
      | apply trapAt_kept
      | apply advance_kept
      | apply State.modG_kept
      | apply gated_kept
      | apply OutK.of
      | apply OutK.fault
      | apply Kept.foldl
      | apply Kept.id_
    | intro _
    | dsimp only
    | split
    | with_reducible apply Kept.with_

theorem execSeqw_kept {r : State} {a : Nat} {b : Nat} {s : State} (h₀ : Kept r s) : OutK r (execSeqw a b s) := by
  unfold execSeqw
  repeat' first
    | with_reducible assumption
    | with_reducible first
      | refine PairK.fst (loadLane_kept ?_)
      | apply l1Drop_kept
      | apply waitThen_kept
      | apply trapAt_kept
      | apply advance_kept
      | apply inOrder_kept
      | apply gated_kept
      | apply translate_kept
      | apply loadLane_kept
      | apply OutK.of
      | apply OutK.fault
      | apply PairK.of
      | refine PairK.get (by with_reducible assumption) ?_
      | apply Kept.foldl
      | apply Kept.id_
    | intro _
    | dsimp only
    | split
    | with_reducible apply Kept.with_

theorem execSleep_kept {r : State} {a : Nat} {s : State} (h₀ : Kept r s) : OutK r (execSleep a s) := by
  unfold execSleep
  repeat' first
    | with_reducible assumption
    | with_reducible first
      | apply waitThen_kept
      | apply advance_kept
      | apply gated_kept
      | apply giveWay_kept
      | apply OutK.of
      | apply OutK.fault
      | apply Kept.foldl
      | apply Kept.id_
    | intro _
    | dsimp only
    | split
    | with_reducible apply Kept.with_

theorem goOn_kept {r : State} {s : State} {gid : Nat} {slot : Nat} (h₀ : Kept r s) : Kept r (goOn s gid slot) := by
  unfold goOn
  repeat' first
    | with_reducible assumption
    | with_reducible first
      | apply State.modPathAt_kept
      | apply Kept.foldl
    | intro _
    | dsimp only
    | split
    | with_reducible apply Kept.with_

theorem again_kept {r : State} {s : State} {gid : Nat} {slot : Nat} {w : Wake} (h₀ : Kept r s) : Kept r (again s gid slot w) := by
  unfold again
  repeat' first
    | with_reducible assumption
    | with_reducible first
      | apply State.modPathAt_kept
      | apply Kept.foldl
    | intro _
    | dsimp only
    | split
    | with_reducible apply Kept.with_

theorem wakeUp_kept {r : State} {s : State} {gid : Nat} {slot : Nat} {g : Group} {z4 : Wake} (h₀ : Kept r s) : Kept r (wakeUp s gid slot g z4) := by
  unfold wakeUp
  repeat' first
    | with_reducible assumption
    | with_reducible first
      | apply State.modGroup_kept
      | apply l1Drop_kept
      | apply again_kept
      | apply goOn_kept
      | apply trapWaiting_kept
      | apply l1Fill_kept
      | apply Kept.foldl
    | intro _
    | dsimp only
    | split
    | with_reducible apply Kept.with_

theorem execWake_kept {r : State} {gid : Nat} {slot : Nat} {s : State} (h₀ : Kept r s) : OutK r (execWake gid slot s) := by
  unfold execWake
  repeat' first
    | with_reducible assumption
    | with_reducible first
      | apply wakeUp_kept
      | apply OutK.of
      | apply OutK.fault
      | apply Kept.foldl
    | intro _
    | dsimp only
    | split
    | with_reducible apply Kept.with_

theorem execHomeAccess_kept {r : State} {o : Nat} {lanes : List Nat} {l1 : Bool} {s : State} (h₀ : Kept r s) : OutK r (execHomeAccess o lanes l1 s) := by
  unfold execHomeAccess
  repeat' first
    | with_reducible assumption
    | with_reducible first
      | apply engPerform_kept
      | apply memPerform_kept
      | apply fencePerform_kept
      | apply submitPerform_kept
      | apply OutK.of
      | apply OutK.fault
      | apply Kept.foldl
    | intro _
    | dsimp only
    | split
    | with_reducible apply Kept.with_

theorem execLoadReply_kept {r : State} {o : Nat} {s : State} (h₀ : Kept r s) : OutK r (execLoadReply o s) := by
  unfold execLoadReply
  repeat' first
    | with_reducible assumption
    | with_reducible first
      | apply lateReply_kept
      | apply landReply_kept
      | apply loadReplyMem_kept
      | apply OutK.of
      | apply OutK.fault
      | apply Kept.foldl
    | intro _
    | dsimp only
    | split
    | with_reducible apply Kept.with_

theorem execTrap_kept {r : State} {n : Nat} {s : State} (h₀ : Kept r s) : OutK r (execTrap n s) := by
  unfold execTrap
  repeat' first
    | with_reducible assumption
    | with_reducible first
      | apply trapAfter_kept
      | apply gated_kept
      | apply OutK.of
      | apply OutK.fault
      | apply Kept.foldl
      | apply Kept.id_
    | intro _
    | dsimp only
    | split
    | with_reducible apply Kept.with_

theorem execBrk_kept {r : State} {n : Nat} {s : State} (h₀ : Kept r s) : OutK r (execBrk n s) := by
  unfold execBrk
  repeat' first
    | with_reducible assumption
    | with_reducible first
      | apply trapAfter_kept
      | apply gated_kept
      | apply OutK.of
      | apply OutK.fault
      | apply Kept.foldl
      | apply Kept.id_
    | intro _
    | dsimp only
    | split
    | with_reducible apply Kept.with_

theorem execIllopEncoding_kept {r : State} {s : State} (h₀ : Kept r s) : OutK r (execIllopEncoding s) := by
  unfold execIllopEncoding
  repeat' first
    | with_reducible assumption
    | with_reducible first
      | apply trapAt_kept
      | apply onPath_kept
      | apply OutK.of
      | apply OutK.fault
      | apply Kept.foldl
      | apply Kept.id_
    | intro _
    | dsimp only
    | split
    | with_reducible apply Kept.with_

theorem execRett_kept {r : State} {m : Nat} {r0 : Nat} {s : State} (h₀ : Kept r s) : OutK r (execRett m r0 s) := by
  unfold execRett
  repeat' first
    | with_reducible assumption
    | with_reducible first
      | apply returnTrap_kept
      | apply gated_kept
      | apply OutK.of
      | apply OutK.fault
      | apply Kept.foldl
      | apply Kept.id_
    | intro _
    | dsimp only
    | split
    | with_reducible apply Kept.with_

theorem execRinj_kept {r : State} {d : Nat} {k : Nat} {i : Nat} {h : Nat} {s : State} (h₀ : Kept r s) : OutK r (execRinj d k i h s) := by
  unfold execRinj
  repeat' first
    | with_reducible assumption
    | with_reducible first
      | apply landE_kept
      | apply regFault_kept
      | apply State.modGroup_kept
      | apply trapAt_kept
      | apply advance_kept
      | apply State.modG_kept
      | apply gated_kept
      | apply waitOn_kept
      | apply OutK.of
      | apply OutK.fault
      | apply Kept.foldl
      | apply Kept.id_
    | intro _
    | dsimp only
    | split
    | with_reducible apply Kept.with_

theorem settleFlags_kept {r : State} {n : Nat} {s : State} (h₀ : Kept r s) : Kept r (settleFlags n s) := by
  unfold settleFlags
  repeat' first
    | with_reducible assumption
    | with_reducible first
      | apply landGroup_kept
      | apply Kept.foldl
    | intro _
    | dsimp only
    | split
    | with_reducible apply Kept.with_

theorem execSysrd_kept {r : State} {d : Nat} {n : Nat} {s : State} (h₀ : Kept r s) : OutK r (execSysrd d n s) := by
  unfold execSysrd
  repeat' first
    | with_reducible assumption
    | with_reducible first
      | apply advance_kept
      | apply gated_kept
      | apply State.wS_kept
      | apply settleFlags_kept
      | apply OutK.of
      | apply OutK.fault
      | apply Kept.foldl
      | apply Kept.id_
    | intro _
    | dsimp only
    | split
    | with_reducible apply Kept.with_

theorem wrDivspill_kept {r : State} {x : Nat} {g : Group} {s : State} (h₀ : Kept r s) : Kept r (wrDivspill x g s) := by
  unfold wrDivspill
  repeat' first
    | with_reducible assumption
    | with_reducible first
      | apply State.modGroup_kept
      | apply trapAt_kept
      | apply advance_kept
      | apply Kept.foldl
    | intro _
    | dsimp only
    | split
    | with_reducible apply Kept.with_

theorem wrHbperiod_kept {r : State} {x : Nat} {g : Group} {s : State} (h₀ : Kept r s) : Kept r (wrHbperiod x g s) := by
  unfold wrHbperiod
  repeat' first
    | with_reducible assumption
    | with_reducible first
      | apply trapAt_kept
      | apply advance_kept
      | apply State.modCore_kept
      | apply Kept.foldl
    | intro _
    | dsimp only
    | split
    | with_reducible apply Kept.with_

theorem wrHbmode_kept {r : State} {x : Nat} {g : Group} {s : State} (h₀ : Kept r s) : Kept r (wrHbmode x g s) := by
  unfold wrHbmode
  repeat' first
    | with_reducible assumption
    | with_reducible first
      | apply trapAt_kept
      | apply advance_kept
      | apply State.modCore_kept
      | apply Kept.foldl
    | intro _
    | dsimp only
    | split
    | with_reducible apply Kept.with_

theorem wrSrseed_kept {r : State} {x : Nat} {g : Group} {s : State} (h₀ : Kept r s) : Kept r (wrSrseed x g s) := by
  unfold wrSrseed
  repeat' first
    | with_reducible assumption
    | with_reducible first
      | apply advance_kept
      | apply State.modPart_kept
      | apply Kept.foldl
    | intro _
    | dsimp only
    | split
    | with_reducible apply Kept.with_

theorem sysWrite_kept {r : State} {n : Nat} {x : W64} {g : Group} {s : State} (h₀ : Kept r s) : Kept r (sysWrite n x g s) := by
  unfold sysWrite
  repeat' first
    | with_reducible assumption
    | with_reducible first
      | apply State.modGroup_kept
      | apply wrDivspill_kept
      | apply trapAt_kept
      | apply advance_kept
      | apply wrHbmode_kept
      | apply State.modG_kept
      | apply wrHbperiod_kept
      | apply wrSrseed_kept
      | apply State.modCtx_kept
      | apply setGang_kept
      | apply Kept.foldl
    | intro _
    | dsimp only
    | split
    | with_reducible apply Kept.with_

theorem syswrOp_kept {r : State} {a : Nat} {n : Nat} {s : State} (h₀ : Kept r s) : OutK r (syswrOp a n s) := by
  unfold syswrOp
  repeat' first
    | with_reducible assumption
    | with_reducible first
      | apply gated_kept
      | apply sysWrite_kept
      | apply settleFlags_kept
      | apply OutK.of
      | apply OutK.fault
      | apply Kept.foldl
      | apply Kept.id_
    | intro _
    | dsimp only
    | split
    | with_reducible apply Kept.with_

theorem execSyswr_kept {r : State} {a : Nat} {n : Nat} {s : State} (h₀ : Kept r s) : OutK r (execSyswr a n s) := by
  unfold execSyswr
  repeat' first
    | with_reducible assumption
    | with_reducible first
      | apply syswrOp_kept
      | apply OutK.of
      | apply OutK.fault
      | apply Kept.foldl
    | intro _
    | dsimp only
    | split
    | with_reducible apply Kept.with_

theorem execSrseedWrite_kept {r : State} {a : Nat} {s : State} (h₀ : Kept r s) : OutK r (execSrseedWrite a s) := by
  unfold execSrseedWrite
  repeat' first
    | with_reducible assumption
    | with_reducible first
      | apply syswrOp_kept
      | apply OutK.of
      | apply OutK.fault
      | apply Kept.foldl
    | intro _
    | dsimp only
    | split
    | with_reducible apply Kept.with_

theorem execHbperiodWrite_kept {r : State} {a : Nat} {s : State} (h₀ : Kept r s) : OutK r (execHbperiodWrite a s) := by
  unfold execHbperiodWrite
  repeat' first
    | with_reducible assumption
    | with_reducible first
      | apply syswrOp_kept
      | apply OutK.of
      | apply OutK.fault
      | apply Kept.foldl
    | intro _
    | dsimp only
    | split
    | with_reducible apply Kept.with_

theorem execHbmodeWrite_kept {r : State} {a : Nat} {s : State} (h₀ : Kept r s) : OutK r (execHbmodeWrite a s) := by
  unfold execHbmodeWrite
  repeat' first
    | with_reducible assumption
    | with_reducible first
      | apply syswrOp_kept
      | apply OutK.of
      | apply OutK.fault
      | apply Kept.foldl
    | intro _
    | dsimp only
    | split
    | with_reducible apply Kept.with_

theorem execGangWrite_kept {r : State} {a : Nat} {s : State} (h₀ : Kept r s) : OutK r (execGangWrite a s) := by
  unfold execGangWrite
  repeat' first
    | with_reducible assumption
    | with_reducible first
      | apply syswrOp_kept
      | apply OutK.of
      | apply OutK.fault
      | apply Kept.foldl
    | intro _
    | dsimp only
    | split
    | with_reducible apply Kept.with_

theorem execDivspillSpill_kept {r : State} {a : Nat} {s : State} (h₀ : Kept r s) : OutK r (execDivspillSpill a s) := by
  unfold execDivspillSpill
  repeat' first
    | with_reducible assumption
    | with_reducible first
      | apply syswrOp_kept
      | apply OutK.of
      | apply OutK.fault
      | apply Kept.foldl
    | intro _
    | dsimp only
    | split
    | with_reducible apply Kept.with_

theorem execDivspillDrop_kept {r : State} {a : Nat} {s : State} (h₀ : Kept r s) : OutK r (execDivspillDrop a s) := by
  unfold execDivspillDrop
  repeat' first
    | with_reducible assumption
    | with_reducible first
      | apply syswrOp_kept
      | apply OutK.of
      | apply OutK.fault
      | apply Kept.foldl
    | intro _
    | dsimp only
    | split
    | with_reducible apply Kept.with_

theorem execDivspillOpen_kept {r : State} {a : Nat} {s : State} (h₀ : Kept r s) : OutK r (execDivspillOpen a s) := by
  unfold execDivspillOpen
  repeat' first
    | with_reducible assumption
    | with_reducible first
      | apply syswrOp_kept
      | apply OutK.of
      | apply OutK.fault
      | apply Kept.foldl
    | intro _
    | dsimp only
    | split
    | with_reducible apply Kept.with_

theorem execHalt_kept {r : State} {c : Nat} {sc : Nat} {s : State} (h₀ : Kept r s) : OutK r (execHalt c sc s) := by
  unfold execHalt
  repeat' first
    | with_reducible assumption
    | with_reducible first
      | apply advance_kept
      | apply postEvent_kept
      | apply beginQuiesce_kept
      | apply notice_kept
      | apply gated_kept
      | apply State.modPath_kept
      | apply OutK.of
      | apply OutK.fault
      | apply Kept.foldl
      | apply Kept.id_
    | intro _
    | dsimp only
    | split
    | with_reducible apply Kept.with_

theorem execMboxSend_kept {r : State} {a : Nat} {s : State} (h₀ : Kept r s) : OutK r (execMboxSend a s) := by
  unfold execMboxSend
  repeat' first
    | with_reducible assumption
    | with_reducible first
      | apply mboxPut_kept
      | apply advance_kept
      | apply gated_kept
      | apply waitOn_kept
      | apply OutK.of
      | apply OutK.fault
      | apply Kept.foldl
      | apply Kept.id_
    | intro _
    | dsimp only
    | split
    | with_reducible apply Kept.with_

theorem execMboxRecv_kept {r : State} {a : Nat} {s : State} (h₀ : Kept r s) : OutK r (execMboxRecv a s) := by
  unfold execMboxRecv
  repeat' first
    | with_reducible assumption
    | with_reducible first
      | apply advance_kept
      | apply State.modG_kept
      | apply gated_kept
      | apply waitOn_kept
      | apply OutK.of
      | apply OutK.fault
      | apply Kept.foldl
      | apply Kept.id_
    | intro _
    | dsimp only
    | split
    | with_reducible apply Kept.with_

theorem execUcnt_kept {r : State} {d : Nat} {r0 : Nat} {k : Nat} {s : State} (h₀ : Kept r s) : OutK r (execUcnt d r0 k s) := by
  unfold execUcnt
  repeat' first
    | with_reducible assumption
    | with_reducible first
      | apply trapAt_kept
      | apply advance_kept
      | apply gated_kept
      | apply State.wS_kept
      | apply waitOn_kept
      | apply OutK.of
      | apply OutK.fault
      | apply Kept.foldl
      | apply Kept.id_
    | intro _
    | dsimp only
    | split
    | with_reducible apply Kept.with_

theorem execAttest_kept {r : State} {a : Nat} {b : Nat} {s : State} (h₀ : Kept r s) : OutK r (execAttest a b s) := by
  unfold execAttest
  repeat' first
    | with_reducible assumption
    | with_reducible first
      | apply trapAt_kept
      | apply advance_kept
      | apply inOrder_kept
      | apply gated_kept
      | apply homeWrite_kept
      | apply State.modCtx_kept
      | apply waitOn_kept
      | apply translateEach_kept
      | apply OutK.of
      | apply OutK.fault
      | apply Kept.foldl
      | apply Kept.id_
    | intro _
    | dsimp only
    | split
    | with_reducible apply Kept.with_

theorem reseatFrags_kept {r : State} {s : State} {gid : Nat} {core : Nat} (h₀ : Kept r s) : Kept r (reseatFrags s gid core) := by
  unfold reseatFrags
  repeat' first
    | with_reducible assumption
    | with_reducible first
      | apply renamePath_kept
      | apply Kept.foldl
    | intro _
    | dsimp only
    | split
    | with_reducible apply Kept.with_

theorem seatGroup_kept {r : State} {s : State} {gid : Nat} {pl : Place} {base : Nat} (h₀ : Kept r s) : Kept r (seatGroup s gid pl base) := by
  unfold seatGroup
  repeat' first
    | with_reducible assumption
    | with_reducible first
      | apply State.modGroup_kept
      | apply reseatFrags_kept
      | apply moveFence_kept
      | apply Kept.foldl
    | intro _
    | dsimp only
    | split
    | with_reducible apply Kept.with_

theorem reseat_kept {r : State} {s : State} {gid : Nat} {t : Seat} (h₀ : Kept r s) : Kept r (reseat s gid t) := by
  unfold reseat
  repeat' first
    | with_reducible assumption
    | with_reducible first
      | apply seatGroup_kept
      | apply State.modPart_kept
      | apply Kept.foldl
    | intro _
    | dsimp only
    | split
    | with_reducible apply Kept.with_

theorem unseat_kept {r : State} {s : State} {gid : Nat} (h₀ : Kept r s) : Kept r (unseat s gid) := by
  unfold unseat
  repeat' first
    | with_reducible assumption
    | with_reducible first
      | apply State.modQuad_kept
      | apply State.modPart_kept
      | apply Kept.foldl
    | intro _
    | dsimp only
    | split
    | with_reducible apply Kept.with_

theorem placeReq_kept {r : State} {s : State} {rid : Nat} {r0 : Req} {core : Nat} {seats : List Seat} (h₀ : Kept r s) : Kept r (placeReq s rid r0 core seats) := by
  unfold placeReq
  repeat' first
    | with_reducible assumption
    | with_reducible first
      | apply l1Drop_kept
      | apply reseat_kept
      | apply modFrame_kept
      | apply recState_kept
      | apply State.delOp_kept
      | apply regroupAll_kept
      | apply Kept.foldl
    | intro _
    | dsimp only
    | split
    | with_reducible apply Kept.with_

theorem enqueue_kept {r : State} {s : State} {rid : Nat} {core : Nat} (h₀ : Kept r s) : Kept r (enqueue s rid core) := by
  unfold enqueue
  repeat' first
    | with_reducible assumption
    | with_reducible first
      | apply State.modCore_kept
      | apply Kept.foldl
    | intro _
    | dsimp only
    | split
    | with_reducible apply Kept.with_

theorem dequeue_kept {r : State} {s : State} {core : Nat} {c : Nat} {rid : Nat} (h₀ : Kept r s) : Kept r (dequeue s core c rid) := by
  unfold dequeue
  repeat' first
    | with_reducible assumption
    | with_reducible first
      | apply State.modCore_kept
      | apply Kept.foldl
    | intro _
    | dsimp only
    | split
    | with_reducible apply Kept.with_

theorem sendTo_kept {r : State} {s : State} {rid : Nat} {c : Nat} {die : Nat} (h₀ : Kept r s) : Kept r (sendTo s rid c die) := by
  unfold sendTo
  repeat' first
    | with_reducible assumption
    | with_reducible first
      | apply enqueue_kept
      | apply Kept.foldl
    | intro _
    | dsimp only
    | split
    | with_reducible apply Kept.with_

theorem execAllotment_kept {r : State} {core : Nat} {c : Nat} {s : State} (h₀ : Kept r s) : OutK r (execAllotment core c s) := by
  unfold execAllotment
  repeat' first
    | with_reducible assumption
    | with_reducible first
      | apply placeReq_kept
      | apply dequeue_kept
      | apply OutK.of
      | apply OutK.fault
      | apply Kept.foldl
    | intro _
    | dsimp only
    | split
    | with_reducible apply Kept.with_

theorem evict_kept {r : State} {s : State} {rid : Nat} (h₀ : Kept r s) : Kept r (evict s rid) := by
  unfold evict
  repeat' first
    | with_reducible assumption
    | with_reducible first
      | apply unseat_kept
      | apply Kept.foldl
    | intro _
    | dsimp only
    | split
    | with_reducible apply Kept.with_

theorem execEvictionBound_kept {r : State} {core : Nat} {c : Nat} {s : State} (h₀ : Kept r s) : OutK r (execEvictionBound core c s) := by
  unfold execEvictionBound
  repeat' first
    | with_reducible assumption
    | with_reducible first
      | apply evict_kept
      | apply OutK.of
      | apply OutK.fault
      | apply Kept.foldl
    | intro _
    | dsimp only
    | split
    | with_reducible apply Kept.with_

theorem execEvictedRequeue_kept {r : State} {rid : Nat} {s : State} (h₀ : Kept r s) : OutK r (execEvictedRequeue rid s) := by
  unfold execEvictedRequeue
  repeat' first
    | with_reducible assumption
    | with_reducible first
      | apply enqueue_kept
      | apply sendTo_kept
      | apply OutK.of
      | apply OutK.fault
      | apply Kept.foldl
    | intro _
    | dsimp only
    | split
    | with_reducible apply Kept.with_

theorem State.setPage_kept {r : State} {s : State} {f : Nat} {x : PgSt} (h₀ : Kept r s) : Kept r (State.setPage s f x) := by
  unfold State.setPage
  repeat' first
    | with_reducible assumption
    | with_reducible first
      | apply Kept.foldl
    | intro _
    | dsimp only
    | split
    | with_reducible apply Kept.with_

theorem allocNow_kept {r s : State} {c : Cmd} (h₀ : Kept r s) : OptPK r (allocNow s c) := by
  unfold allocNow
  cases findRun s (arg c 0) (arg c 1) (arg c 2) with
  | none => exact OptPK.none
  | some f =>
    refine OptPK.of (Kept.foldl h₀ _ _ fun t a h => ?_)
    exact State.setPage_kept h

theorem execAlloc_kept {r : State} {c : Cmd} {s : State} (h₀ : Kept r s) : OutK r (execAlloc c s) := by
  unfold execAlloc
  repeat' first
    | with_reducible assumption
    | with_reducible first
      | apply runCmd_kept
      | apply allocNow_kept
      | apply OutK.of
      | apply OutK.fault
      | apply OptPK.of
      | apply OptPK.none
      | refine OptPK.get (by with_reducible assumption) ?_
      | apply CmdK.ofDone
      | apply CmdK.ofBusy
      | apply CmdK.ofLater
      | apply Kept.foldl
      | apply Kept.id_
    | intro _
    | dsimp only
    | split
    | with_reducible apply Kept.with_

theorem retryAllocs_kept {r : State} {s : State} (h₀ : Kept r s) : Kept r (retryAllocs s) := by
  unfold retryAllocs
  repeat' first
    | with_reducible assumption
    | with_reducible first
      | apply allocNow_kept
      | apply finishCmd_kept
      | apply OptPK.of
      | apply OptPK.none
      | refine OptPK.get (by with_reducible assumption) ?_
      | apply Kept.foldl
    | intro _
    | dsimp only
    | split
    | with_reducible apply Kept.with_

theorem execFree_kept {r : State} {c : Cmd} {s : State} (h₀ : Kept r s) : OutK r (execFree c s) := by
  unfold execFree
  repeat' first
    | with_reducible assumption
    | with_reducible first
      | apply runCmd_kept
      | apply State.setPage_kept
      | apply OutK.of
      | apply OutK.fault
      | apply CmdK.ofDone
      | apply CmdK.ofBusy
      | apply CmdK.ofLater
      | apply Kept.foldl
      | apply Kept.id_
    | intro _
    | dsimp only
    | split
    | with_reducible apply Kept.with_

theorem execPageScrubStart_kept {r : State} {die : Nat} {f : Nat} {s : State} (h₀ : Kept r s) : OutK r (execPageScrubStart die f s) := by
  unfold execPageScrubStart
  repeat' first
    | with_reducible assumption
    | with_reducible first
      | apply State.setPage_kept
      | apply OutK.of
      | apply OutK.fault
      | apply Kept.foldl
    | intro _
    | dsimp only
    | split
    | with_reducible apply Kept.with_

theorem execPageScrubEnd_kept {r s : State} {f : Nat} (h₀ : Kept r s) : OutK r (execPageScrubEnd f s) := by
  unfold execPageScrubEnd
  apply OutK.of
  split
  · exact h₀
  · apply retryAllocs_kept
    apply State.setPage_kept
    exact Kept.withMem h₀ _ (fun hm => filter_wf _ _ hm) _ _ _ _ _ _ _ _ _ _ _ _ _ _ _ _ _ _ _ _ _ _ _ _ _ _

theorem frameAgain_kept {r : State} {s : State} {q : Nat × Nat} (h₀ : Kept r s) : Kept r (frameAgain s q) := by
  unfold frameAgain
  repeat' first
    | with_reducible assumption
    | with_reducible first
      | apply State.modPathAt_kept
      | apply Kept.foldl
    | intro _
    | dsimp only
    | split
    | with_reducible apply Kept.with_

theorem closeFault_kept {r : State} {s : State} {die : Nat} {id : Nat} (h₀ : Kept r s) : Kept r (closeFault s die id) := by
  unfold closeFault
  repeat' first
    | with_reducible assumption
    | with_reducible first
      | apply State.modDie_kept
      | apply Kept.foldl
    | intro _
    | dsimp only
    | split
    | with_reducible apply Kept.with_

theorem execResolve_kept {r : State} {c : Cmd} {s : State} (h₀ : Kept r s) : OutK r (execResolve c s) := by
  unfold execResolve
  repeat' first
    | with_reducible assumption
    | with_reducible first
      | apply runCmd_kept
      | apply unparkAll_kept
      | apply frameAgain_kept
      | apply closeFault_kept
      | apply OutK.of
      | apply OutK.fault
      | apply CmdK.ofDone
      | apply CmdK.ofBusy
      | apply CmdK.ofLater
      | apply Kept.foldl
      | apply Kept.id_
    | intro _
    | dsimp only
    | split
    | with_reducible apply Kept.with_

theorem abortOp_kept {r : State} {page : Nat} {size : Nat} {s : State} {o : Nat} (h₀ : Kept r s) : Kept r (abortOp page size s o) := by
  unfold abortOp
  repeat' first
    | with_reducible assumption
    | with_reducible first
      | apply State.modOp_kept
      | apply submitPerm_kept
      | apply modEntry_kept
      | apply fetchEnd_kept
      | apply Kept.foldl
    | intro _
    | dsimp only
    | split
    | with_reducible apply Kept.with_

theorem abortFrame_kept {r : State} {s : State} {q : Nat × Nat × FrWork} (h₀ : Kept r s) : Kept r (abortFrame s q) := by
  unfold abortFrame
  repeat' first
    | with_reducible assumption
    | with_reducible first
      | apply promoFail_kept
      | apply State.modPathAt_kept
      | apply Kept.foldl
    | intro _
    | dsimp only
    | split
    | with_reducible apply Kept.with_

theorem abortClaim_kept {r : State} {s : State} {q : Nat × Nat} (h₀ : Kept r s) : Kept r (abortClaim s q) := by
  unfold abortClaim
  repeat' first
    | with_reducible assumption
    | with_reducible first
      | apply State.modPathAt_kept
      | apply Kept.foldl
    | intro _
    | dsimp only
    | split
    | with_reducible apply Kept.with_

theorem abortPath_kept {r : State} {f : FaultR} {s : State} {q : Nat × Nat} (h₀ : Kept r s) : Kept r (abortPath f s q) := by
  unfold abortPath
  repeat' first
    | with_reducible assumption
    | with_reducible first
      | apply State.modPathAt_kept
      | apply Kept.foldl
    | intro _
    | dsimp only
    | split
    | with_reducible apply Kept.with_

theorem execAbort_kept {r : State} {c : Cmd} {s : State} (h₀ : Kept r s) : OutK r (execAbort c s) := by
  unfold execAbort
  repeat' first
    | with_reducible assumption
    | with_reducible first
      | apply abortOp_kept
      | apply abortPath_kept
      | apply abortClaim_kept
      | apply runCmd_kept
      | apply unparkAll_kept
      | apply closeFault_kept
      | apply abortFrame_kept
      | apply OutK.of
      | apply OutK.fault
      | apply CmdK.ofDone
      | apply CmdK.ofBusy
      | apply CmdK.ofLater
      | apply Kept.foldl
      | apply Kept.id_
    | intro _
    | dsimp only
    | split
    | with_reducible apply Kept.with_

theorem execDirtylog_kept {r : State} {c : Cmd} {s : State} (h₀ : Kept r s) : OutK r (execDirtylog c s) := by
  unfold execDirtylog
  repeat' first
    | with_reducible assumption
    | with_reducible first
      | apply runCmd_kept
      | apply State.modCtx_kept
      | apply OutK.of
      | apply OutK.fault
      | apply CmdK.ofDone
      | apply CmdK.ofBusy
      | apply CmdK.ofLater
      | apply Kept.foldl
      | apply Kept.id_
    | intro _
    | dsimp only
    | split
    | with_reducible apply Kept.with_

theorem execPtroot_kept {r : State} {v : Nat} {s : State} (h₀ : Kept r s) : OutK r (execPtroot v s) := by
  unfold execPtroot
  repeat' first
    | with_reducible assumption
    | with_reducible first
      | apply State.modCtx_kept
      | apply OutK.of
      | apply OutK.fault
      | apply Kept.foldl
    | intro _
    | dsimp only
    | split
    | with_reducible apply Kept.with_

theorem execInval_kept {r : State} {_v : Nat} {s : State} (h₀ : Kept r s) : OutK r (execInval _v s) := by
  unfold execInval
  repeat' first
    | with_reducible assumption
    | with_reducible first
      | apply OutK.of
      | apply OutK.fault
      | apply Kept.foldl
    | intro _
    | dsimp only
    | split
    | with_reducible apply Kept.with_

theorem dropPrev_kept {r : State} {s : State} {ls : List Nat} (h₀ : Kept r s) : Kept r (dropPrev s ls) := by
  unfold dropPrev
  repeat' first
    | with_reducible assumption
    | with_reducible first
      | apply State.setLine_kept
      | apply Kept.foldl
    | intro _
    | dsimp only
    | split
    | with_reducible apply Kept.with_

theorem seqwAgain_kept {r : State} {s : State} {q : Nat × Nat} (h₀ : Kept r s) : Kept r (seqwAgain s q) := by
  unfold seqwAgain
  repeat' first
    | with_reducible assumption
    | with_reducible first
      | refine PairK.fst (bgNow_kept ?_)
      | apply bgNow_kept
      | apply State.modPathAt_kept
      | apply PairK.of
      | refine PairK.get (by with_reducible assumption) ?_
      | apply Kept.foldl
    | intro _
    | dsimp only
    | split
    | with_reducible apply Kept.with_

theorem execInvalidationComplete_kept {r : State} {s : State} (h₀ : Kept r s) : OutK r (execInvalidationComplete s) := by
  unfold execInvalidationComplete
  repeat' first
    | with_reducible assumption
    | with_reducible first
      | apply seqwAgain_kept
      | apply dropPrev_kept
      | apply OutK.of
      | apply OutK.fault
      | apply Kept.foldl
    | intro _
    | dsimp only
    | split
    | with_reducible apply Kept.with_

theorem execMemoryError_kept {r : State} {die : Nat} {kind : Nat} {pa : Nat} {s : State} (h₀ : Kept r s) : OutK r (execMemoryError die kind pa s) := by
  unfold execMemoryError
  repeat' first
    | with_reducible assumption
    | with_reducible first
      | apply State.setLine_kept
      | apply readSeen_kept
      | apply postEvent_kept
      | apply ctxLog_kept
      | apply OutK.of
      | apply OutK.fault
      | apply Kept.foldl
    | intro _
    | dsimp only
    | split
    | with_reducible apply Kept.with_

end Sys2Proof.Machine
end

