-- ==== Sys2Proof/Laws/KeptDevice.lean ====
section
/-! SUPPORT. What the lives of contexts and kernels, the host port, links and the Porter keep. -/

set_option linter.unusedTactic false
set_option linter.unreachableTactic false

namespace Sys2Proof.Machine

theorem onCtx_kept {r : State} {c : Nat} {l : List CSt} {s : State} {k : Ctx → CmdRes} (h₀ : Kept r s) (hk : ∀ (x0 : Ctx), CmdK r (k x0)) : CmdK r (onCtx c l s k) := by
  unfold onCtx
  repeat' first
    | with_reducible assumption
    | with_reducible first
      | apply hk
      | apply CmdK.ofDone
      | apply CmdK.ofBusy
      | apply CmdK.ofLater
      | apply Kept.foldl
    | intro _
    | dsimp only
    | split
    | with_reducible apply Kept.with_

theorem execCreate_kept {r : State} {c : Cmd} {s : State} (h₀ : Kept r s) : OutK r (execCreate c s) := by
  unfold execCreate
  repeat' first
    | with_reducible assumption
    | with_reducible first
      | apply runCmd_kept
      | apply OutK.of
      | apply OutK.fault
      | apply CmdK.ofDone
      | apply CmdK.ofBusy
      | apply CmdK.ofLater
      | apply Kept.foldl
      | apply Kept.id_
    | intro _
    | dsimp only
    | split
    | with_reducible apply Kept.with_

theorem execRegkernel_kept {r : State} {c : Cmd} {s : State} (h₀ : Kept r s) : OutK r (execRegkernel c s) := by
  unfold execRegkernel
  repeat' first
    | with_reducible assumption
    | with_reducible first
      | apply runCmd_kept
      | apply onCtx_kept
      | apply State.modCtx_kept
      | apply OutK.of
      | apply OutK.fault
      | apply CmdK.ofDone
      | apply CmdK.ofBusy
      | apply CmdK.ofLater
      | apply Kept.foldl
      | apply Kept.id_
    | intro _
    | dsimp only
    | split
    | with_reducible apply Kept.with_

theorem execRegregion_kept {r : State} {c : Cmd} {s : State} (h₀ : Kept r s) : OutK r (execRegregion c s) := by
  unfold execRegregion
  repeat' first
    | with_reducible assumption
    | with_reducible first
      | apply runCmd_kept
      | apply onCtx_kept
      | apply State.modCtx_kept
      | apply OutK.of
      | apply OutK.fault
      | apply CmdK.ofDone
      | apply CmdK.ofBusy
      | apply CmdK.ofLater
      | apply Kept.foldl
      | apply Kept.id_
    | intro _
    | dsimp only
    | split
    | with_reducible apply Kept.with_

theorem execRegtask_kept {r : State} {c : Cmd} {s : State} (h₀ : Kept r s) : OutK r (execRegtask c s) := by
  unfold execRegtask
  repeat' first
    | with_reducible assumption
    | with_reducible first
      | apply runCmd_kept
      | apply onCtx_kept
      | apply State.modCtx_kept
      | apply OutK.of
      | apply OutK.fault
      | apply CmdK.ofDone
      | apply CmdK.ofBusy
      | apply CmdK.ofLater
      | apply Kept.foldl
      | apply Kept.id_
    | intro _
    | dsimp only
    | split
    | with_reducible apply Kept.with_

theorem addQueue_kept {r : State} {s : State} {q : KQueue} (h₀ : Kept r s) : Kept r (addQueue s q) := by
  unfold addQueue
  repeat' first
    | with_reducible assumption
    | with_reducible first
      | apply qWr_kept
      | apply Kept.foldl
    | intro _
    | dsimp only
    | split
    | with_reducible apply Kept.with_

theorem execRegqueue_kept {r : State} {c : Cmd} {s : State} (h₀ : Kept r s) : OutK r (execRegqueue c s) := by
  unfold execRegqueue
  repeat' first
    | with_reducible assumption
    | with_reducible first
      | apply runCmd_kept
      | apply addQueue_kept
      | apply OutK.of
      | apply OutK.fault
      | apply CmdK.ofDone
      | apply CmdK.ofBusy
      | apply CmdK.ofLater
      | apply Kept.foldl
      | apply Kept.id_
    | intro _
    | dsimp only
    | split
    | with_reducible apply Kept.with_

theorem sortLeave_kept {r : State} {s : State} {core : Nat} (h₀ : Kept r s) : Kept r (sortLeave s core) := by
  unfold sortLeave
  repeat' first
    | with_reducible assumption
    | with_reducible first
      | apply State.modSort_kept
      | apply State.modTile_kept
      | apply Kept.foldl
    | intro _
    | dsimp only
    | split
    | with_reducible apply Kept.with_

theorem handover_kept {r : State} {s : State} {core : Nat} {q : Nat} {c : Nat} (h₀ : Kept r s) : Kept r (handover s core q c) := by
  unfold handover
  repeat' first
    | with_reducible assumption
    | with_reducible first
      | apply State.modQuad_kept
      | apply State.modCore_kept
      | apply State.modPart_kept
      | apply sortLeave_kept
      | apply Kept.foldl
    | intro _
    | dsimp only
    | split
    | with_reducible apply Kept.with_

theorem placeCohort_kept {r : State} {c : Nat} {kid : Nat} {s : State} {co : Nat} (h₀ : Kept r s) : Kept r (placeCohort c kid s co) := by
  unfold placeCohort
  repeat' first
    | with_reducible assumption
    | with_reducible first
      | apply placeReq_kept
      | apply Kept.foldl
    | intro _
    | dsimp only
    | split
    | with_reducible apply Kept.with_

theorem trySuspended_kept {r : State} {s : State} {c : Nat} (h₀ : Kept r s) : Kept r (trySuspended s c) := by
  unfold trySuspended
  repeat' first
    | with_reducible assumption
    | with_reducible first
      | apply placeCohort_kept
      | apply Kept.foldl
    | intro _
    | dsimp only
    | split
    | with_reducible apply Kept.with_

theorem rehome_kept {r : State} {s : State} {c : Nat} (h₀ : Kept r s) : Kept r (rehome s c) := by
  unfold rehome
  repeat' first
    | with_reducible assumption
    | with_reducible first
      | apply enqueue_kept
      | apply sendTo_kept
      | apply dequeue_kept
      | apply Kept.foldl
    | intro _
    | dsimp only
    | split
    | with_reducible apply Kept.with_

theorem execGrant_grant_kept {r : State} {n : Nat} {qs : List (Nat × Nat)} {s : State} (h₀ : Kept r s) : CmdK r (execGrant.grant n qs s) := by
  unfold execGrant.grant
  repeat' first
    | with_reducible assumption
    | with_reducible first
      | apply rehome_kept
      | apply handover_kept
      | apply State.modCtx_kept
      | apply trySuspended_kept
      | apply CmdK.ofDone
      | apply CmdK.ofBusy
      | apply CmdK.ofLater
      | apply Kept.foldl
    | intro _
    | dsimp only
    | split
    | with_reducible apply Kept.with_

theorem execGrant_kept {r : State} {c : Cmd} {s : State} (h₀ : Kept r s) : OutK r (execGrant c s) := by
  unfold execGrant
  repeat' first
    | with_reducible assumption
    | with_reducible first
      | apply runCmd_kept
      | apply onCtx_kept
      | apply execGrant_grant_kept
      | apply State.modCtx_kept
      | apply OutK.of
      | apply OutK.fault
      | apply CmdK.ofDone
      | apply CmdK.ofBusy
      | apply CmdK.ofLater
      | apply Kept.foldl
      | apply Kept.id_
    | intro _
    | dsimp only
    | split
    | with_reducible apply Kept.with_

theorem takeQuads_kept {r : State} {s : State} {c : Nat} {qs : List (Nat × Nat)} (h₀ : Kept r s) : Kept r (takeQuads s c qs) := by
  unfold takeQuads
  repeat' first
    | with_reducible assumption
    | with_reducible first
      | apply handover_kept
      | apply State.modCtx_kept
      | apply Kept.foldl
    | intro _
    | dsimp only
    | split
    | with_reducible apply Kept.with_

theorem leaveQuads_kept {r : State} {s : State} {c : Nat} {qs : List (Nat × Nat)} (h₀ : Kept r s) : Kept r (leaveQuads s c qs) := by
  unfold leaveQuads
  repeat' first
    | with_reducible assumption
    | with_reducible first
      | apply rehome_kept
      | apply sendTo_kept
      | apply evict_kept
      | apply Kept.foldl
    | intro _
    | dsimp only
    | split
    | with_reducible apply Kept.with_

theorem endShrinks_kept {r : State} {s : State} {c : Nat} (h₀ : Kept r s) : Kept r (endShrinks s c) := by
  unfold endShrinks
  repeat' first
    | with_reducible assumption
    | with_reducible first
      | apply leaveQuads_kept
      | apply takeQuads_kept
      | apply finishCmd_kept
      | apply Kept.foldl
    | intro _
    | dsimp only
    | split
    | with_reducible apply Kept.with_

theorem execShrink_kept {r : State} {c : Cmd} {s : State} (h₀ : Kept r s) : OutK r (execShrink c s) := by
  unfold execShrink
  repeat' first
    | with_reducible assumption
    | with_reducible first
      | apply runCmd_kept
      | apply State.modQ_kept
      | apply onCtx_kept
      | apply leaveQuads_kept
      | apply beginQuiesce_kept
      | apply takeQuads_kept
      | apply finishCmd_kept
      | apply OutK.of
      | apply OutK.fault
      | apply CmdK.ofDone
      | apply CmdK.ofBusy
      | apply CmdK.ofLater
      | apply Kept.foldl
      | apply Kept.id_
    | intro _
    | dsimp only
    | split
    | with_reducible apply Kept.with_

theorem execSetbanks_kept {r : State} {c : Cmd} {s : State} (h₀ : Kept r s) : OutK r (execSetbanks c s) := by
  unfold execSetbanks
  repeat' first
    | with_reducible assumption
    | with_reducible first
      | apply runCmd_kept
      | apply onCtx_kept
      | apply State.modCore_kept
      | apply OutK.of
      | apply OutK.fault
      | apply CmdK.ofDone
      | apply CmdK.ofBusy
      | apply CmdK.ofLater
      | apply Kept.foldl
      | apply Kept.id_
    | intro _
    | dsimp only
    | split
    | with_reducible apply Kept.with_

theorem execSetsort_kept {r : State} {c : Cmd} {s : State} (h₀ : Kept r s) : OutK r (execSetsort c s) := by
  unfold execSetsort
  repeat' first
    | with_reducible assumption
    | with_reducible first
      | apply runCmd_kept
      | apply onCtx_kept
      | apply State.modCore_kept
      | apply sortLeave_kept
      | apply OutK.of
      | apply OutK.fault
      | apply CmdK.ofDone
      | apply CmdK.ofBusy
      | apply CmdK.ofLater
      | apply Kept.foldl
      | apply Kept.id_
    | intro _
    | dsimp only
    | split
    | with_reducible apply Kept.with_

theorem execSwitch_kept {r : State} {c : Cmd} {s : State} (h₀ : Kept r s) : OutK r (execSwitch c s) := by
  unfold execSwitch
  repeat' first
    | with_reducible assumption
    | with_reducible first
      | apply runCmd_kept
      | apply onCtx_kept
      | apply beginQuiesce_kept
      | apply OutK.of
      | apply OutK.fault
      | apply CmdK.ofDone
      | apply CmdK.ofBusy
      | apply CmdK.ofLater
      | apply Kept.foldl
      | apply Kept.id_
    | intro _
    | dsimp only
    | split
    | with_reducible apply Kept.with_

theorem execMigrate_kept {r : State} {c : Cmd} {s : State} (h₀ : Kept r s) : OutK r (execMigrate c s) := by
  unfold execMigrate
  repeat' first
    | with_reducible assumption
    | with_reducible first
      | apply runCmd_kept
      | apply onCtx_kept
      | apply beginQuiesce_kept
      | apply State.modCtx_kept
      | apply OutK.of
      | apply OutK.fault
      | apply CmdK.ofDone
      | apply CmdK.ofBusy
      | apply CmdK.ofLater
      | apply Kept.foldl
      | apply Kept.id_
    | intro _
    | dsimp only
    | split
    | with_reducible apply Kept.with_

theorem killKernels_kept {r : State} {s : State} {c : Nat} (h₀ : Kept r s) : Kept r (killKernels s c) := by
  unfold killKernels
  repeat' first
    | with_reducible assumption
    | with_reducible first
      | apply complete_kept
      | apply Kept.foldl
    | intro _
    | dsimp only
    | split
    | with_reducible apply Kept.with_

theorem beginScrub_kept {r : State} {s : State} {c : Nat} (h₀ : Kept r s) : Kept r (beginScrub s c) := by
  unfold beginScrub
  repeat' first
    | with_reducible assumption
    | with_reducible first
      | apply abandonLog_kept
      | apply abandon_kept
      | apply killKernels_kept
      | apply State.setPage_kept
      | apply State.modCtx_kept
      | apply Kept.foldl
    | intro _
    | dsimp only
    | split
    | with_reducible apply Kept.with_

theorem execDestroy_kept {r : State} {c : Cmd} {s : State} (h₀ : Kept r s) : OutK r (execDestroy c s) := by
  unfold execDestroy
  repeat' first
    | with_reducible assumption
    | with_reducible first
      | apply runCmd_kept
      | apply onCtx_kept
      | apply beginQuiesce_kept
      | apply beginScrub_kept
      | apply OutK.of
      | apply OutK.fault
      | apply CmdK.ofDone
      | apply CmdK.ofBusy
      | apply CmdK.ofLater
      | apply Kept.foldl
      | apply Kept.id_
    | intro _
    | dsimp only
    | split
    | with_reducible apply Kept.with_

theorem execContextScrubEnd_kept {r : State} {c : Nat} {s : State} (h₀ : Kept r s) : OutK r (execContextScrubEnd c s) := by
  unfold execContextScrubEnd
  repeat' first
    | with_reducible assumption
    | with_reducible first
      | apply finishAll_kept
      | apply takeQuads_kept
      | apply OutK.of
      | apply OutK.fault
      | apply Kept.foldl
    | intro _
    | dsimp only
    | split
    | with_reducible apply Kept.with_

theorem exportImage_kept {r : State} {s : State} {x : Ctx} (h₀ : Kept r s) : Kept r (exportImage s x) := by
  unfold exportImage
  repeat' first
    | with_reducible assumption
    | with_reducible first
      | apply homeWrite_kept
      | apply Kept.foldl
    | intro _
    | dsimp only
    | split
    | with_reducible apply Kept.with_

theorem execMigrationExportEnd_kept {r : State} {c : Nat} {s : State} (h₀ : Kept r s) : OutK r (execMigrationExportEnd c s) := by
  unfold execMigrationExportEnd
  repeat' first
    | with_reducible assumption
    | with_reducible first
      | apply beginScrub_kept
      | apply exportImage_kept
      | apply OutK.of
      | apply OutK.fault
      | apply Kept.foldl
    | intro _
    | dsimp only
    | split
    | with_reducible apply Kept.with_

theorem linkCtx_kept {r : State} {c : Nat} {report : List Byte} {s : State} (h₀ : Kept r s) : Kept r (linkCtx c report s) := by
  unfold linkCtx
  repeat' first
    | with_reducible assumption
    | with_reducible first
      | apply State.modCtx_kept
      | apply Kept.foldl
    | intro _
    | dsimp only
    | split
    | with_reducible apply Kept.with_

theorem saveParked_kept {r : State} {s : State} {c : Nat} (h₀ : Kept r s) : Kept r (saveParked s c) := by
  unfold saveParked
  repeat' first
    | with_reducible assumption
    | with_reducible first
      | apply State.modCtx_kept
      | apply Kept.foldl
    | intro _
    | dsimp only
    | split
    | with_reducible apply Kept.with_

theorem saveCtx_kept {r : State} {s : State} {c : Nat} (h₀ : Kept r s) : Kept r (saveCtx s c) := by
  unfold saveCtx
  repeat' first
    | with_reducible assumption
    | with_reducible first
      | apply landE_kept
      | apply State.modCtx_kept
      | apply saveParked_kept
      | apply Kept.foldl
    | intro _
    | dsimp only
    | split
    | with_reducible apply Kept.with_

theorem afterSave_kept {r : State} {s : State} {c : Nat} (h₀ : Kept r s) : Kept r (afterSave s c) := by
  unfold afterSave
  repeat' first
    | with_reducible assumption
    | with_reducible first
      | apply endShrinks_kept
      | apply finishCmd_kept
      | apply State.modCtx_kept
      | apply Kept.foldl
    | intro _
    | dsimp only
    | split
    | with_reducible apply Kept.with_

theorem execQuiescenceEnd_kept {r : State} {c : Nat} {s : State} (h₀ : Kept r s) : OutK r (execQuiescenceEnd c s) := by
  unfold execQuiescenceEnd
  repeat' first
    | with_reducible assumption
    | with_reducible first
      | apply endShrinks_kept
      | apply saveCtx_kept
      | apply beginScrub_kept
      | apply afterSave_kept
      | apply OutK.of
      | apply OutK.fault
      | apply Kept.foldl
    | intro _
    | dsimp only
    | split
    | with_reducible apply Kept.with_

theorem restoreCore_kept {r : State} {s : State} {c : Nat} {core : Nat} {i : Core} (h₀ : Kept r s) : Kept r (restoreCore s c core i) := by
  unfold restoreCore
  repeat' first
    | with_reducible assumption
    | with_reducible first
      | apply State.modCore_kept
      | apply Kept.foldl
    | intro _
    | dsimp only
    | split
    | with_reducible apply Kept.with_

theorem returnGroups_kept {r s : State} {c : Nat} {l : List Nat} (h₀ : Kept r s) : PairK r (returnGroups c l s) := by
  induction l generalizing s with
  | nil => exact PairK.of h₀
  | cons i l ih =>
    unfold returnGroups
    split
    · refine ih ?_
      split
      · exact reseat_kept h₀
      · exact h₀
    · exact PairK.of (PairK.fst (ih h₀))

theorem suspendReq_kept {r : State} {s : State} {x : Nat × Req} (h₀ : Kept r s) : Kept r (suspendReq s x) := by
  unfold suspendReq
  repeat' first
    | with_reducible assumption
    | with_reducible first
      | apply unseat_kept
      | apply Kept.foldl
    | intro _
    | dsimp only
    | split
    | with_reducible apply Kept.with_

theorem resumeCohort_kept {r : State} {c : Nat} {s : State} {co : Nat} (h₀ : Kept r s) : Kept r (resumeCohort c s co) := by
  unfold resumeCohort
  repeat' first
    | with_reducible assumption
    | with_reducible first
      | refine PairK.fst (returnGroups_kept ?_)
      | apply suspendReq_kept
      | apply returnGroups_kept
      | apply PairK.of
      | refine PairK.get (by with_reducible assumption) ?_
      | apply Kept.foldl
    | intro _
    | dsimp only
    | split
    | with_reducible apply Kept.with_

theorem resumeReq_kept {r : State} {c : Nat} {s : State} {rid : Nat} (h₀ : Kept r s) : Kept r (resumeReq c s rid) := by
  unfold resumeReq
  repeat' first
    | with_reducible assumption
    | with_reducible first
      | refine PairK.fst (returnGroups_kept ?_)
      | apply unseat_kept
      | apply sendTo_kept
      | apply returnGroups_kept
      | apply PairK.of
      | refine PairK.get (by with_reducible assumption) ?_
      | apply Kept.foldl
    | intro _
    | dsimp only
    | split
    | with_reducible apply Kept.with_

theorem replayEntry_kept {r : State} {s : State} {r0 : Replay} (h₀ : Kept r s) : Kept r (replayEntry s r0) := by
  unfold replayEntry
  repeat' first
    | with_reducible assumption
    | with_reducible first
      | apply State.modGroup_kept
      | apply State.modPathAt_kept
      | apply Kept.foldl
    | intro _
    | dsimp only
    | split
    | with_reducible apply Kept.with_

theorem landReplays_kept {r : State} {s : State} {c : Nat} (h₀ : Kept r s) : Kept r (landReplays s c) := by
  unfold landReplays
  repeat' first
    | with_reducible assumption
    | with_reducible first
      | apply replayEntry_kept
      | apply State.modCtx_kept
      | apply Kept.foldl
    | intro _
    | dsimp only
    | split
    | with_reducible apply Kept.with_

theorem execResume_kept {r : State} {c : Cmd} {s : State} (h₀ : Kept r s) : OutK r (execResume c s) := by
  unfold execResume
  repeat' first
    | with_reducible assumption
    | with_reducible first
      | apply State.modQuad_kept
      | apply rehome_kept
      | apply runCmd_kept
      | apply restoreCore_kept
      | apply seqwAgain_kept
      | apply onCtx_kept
      | apply resumeReq_kept
      | apply State.modCtx_kept
      | apply landReplays_kept
      | apply resumeCohort_kept
      | apply trySuspended_kept
      | apply State.modPart_kept
      | apply regroupAll_kept
      | apply OutK.of
      | apply OutK.fault
      | apply CmdK.ofDone
      | apply CmdK.ofBusy
      | apply CmdK.ofLater
      | apply Kept.foldl
      | apply Kept.id_
    | intro _
    | dsimp only
    | split
    | with_reducible apply Kept.with_

theorem execResync_kept {r : State} {c : Cmd} {s : State} (h₀ : Kept r s) : OutK r (execResync c s) := by
  unfold execResync
  repeat' first
    | with_reducible assumption
    | with_reducible first
      | apply runCmd_kept
      | apply State.modQ_kept
      | apply qWr_kept
      | apply OutK.of
      | apply OutK.fault
      | apply CmdK.ofDone
      | apply CmdK.ofBusy
      | apply CmdK.ofLater
      | apply Kept.foldl
      | apply Kept.id_
    | intro _
    | dsimp only
    | split
    | with_reducible apply Kept.with_

theorem launchHb_kept {r : State} {s : State} {c : Nat} {period : Nat} {mode : Nat} {dies : List Nat} (h₀ : Kept r s) : Kept r (launchHb s c period mode dies) := by
  unfold launchHb
  repeat' first
    | with_reducible assumption
    | with_reducible first
      | apply State.modCore_kept
      | apply State.modCtx_kept
      | apply Kept.foldl
    | intro _
    | dsimp only
    | split
    | with_reducible apply Kept.with_

theorem addTeam_kept {r : State} {s : State} {ctx : Nat} {kid : Nat} {cid : Nat} {no : Nat} {die : Nat} {k : Kernel} {core : Option Nat} (h₀ : Kept r s) : Kept r (addTeam s ctx kid cid no die k core) := by
  unfold addTeam
  repeat' first
    | with_reducible assumption
    | with_reducible first
      | apply enqueue_kept
      | apply sendTo_kept
      | apply Kept.foldl
    | intro _
    | dsimp only
    | split
    | with_reducible apply Kept.with_

theorem addCohort_kept {r : State} {s : State} {ctx : Nat} {kid : Nat} {no : Nat} {k : Kernel} {dies : List Nat} {cores : Option (List Nat)} (h₀ : Kept r s) : Kept r (addCohort s ctx kid no k dies cores) := by
  unfold addCohort
  repeat' first
    | with_reducible assumption
    | with_reducible first
      | apply addTeam_kept
      | apply Kept.foldl
    | intro _
    | dsimp only
    | split
    | with_reducible apply Kept.with_

theorem addKernel_kept {r : State} {s : State} {ctx : Nat} {k : Kernel} {dies : List Nat} {cores : Option (List Nat)} (h₀ : Kept r s) : Kept r (addKernel s ctx k dies cores) := by
  unfold addKernel
  repeat' first
    | with_reducible assumption
    | with_reducible first
      | apply addCohort_kept
      | apply Kept.foldl
    | intro _
    | dsimp only
    | split
    | with_reducible apply Kept.with_

theorem execLaunch_kept {r : State} {c : Cmd} {s : State} (h₀ : Kept r s) : OutK r (execLaunch c s) := by
  unfold execLaunch
  repeat' first
    | with_reducible assumption
    | with_reducible first
      | apply launchHb_kept
      | apply runCmd_kept
      | apply addKernel_kept
      | apply OutK.of
      | apply OutK.fault
      | apply CmdK.ofDone
      | apply CmdK.ofBusy
      | apply CmdK.ofLater
      | apply Kept.foldl
      | apply Kept.id_
    | intro _
    | dsimp only
    | split
    | with_reducible apply Kept.with_

theorem execKernelDone_kept {r : State} {kid : Nat} {s : State} (h₀ : Kept r s) : OutK r (execKernelDone kid s) := by
  unfold execKernelDone
  repeat' first
    | with_reducible assumption
    | with_reducible first
      | apply complete_kept
      | apply OutK.of
      | apply OutK.fault
      | apply Kept.foldl
    | intro _
    | dsimp only
    | split
    | with_reducible apply Kept.with_

theorem execEqlostClear_kept {r : State} {_v : Nat} {s : State} (h₀ : Kept r s) : OutK r (execEqlostClear _v s) := by
  unfold execEqlostClear
  repeat' first
    | with_reducible assumption
    | with_reducible first
      | apply OutK.of
      | apply OutK.fault
      | apply Kept.foldl
    | intro _
    | dsimp only
    | split
    | with_reducible apply Kept.with_

theorem execH2ptail_kept {r : State} {v : Nat} {s : State} (h₀ : Kept r s) : OutK r (execH2ptail v s) := by
  unfold execH2ptail
  repeat' first
    | with_reducible assumption
    | with_reducible first
      | apply postEvent_kept
      | apply OutK.of
      | apply OutK.fault
      | apply Kept.foldl
    | intro _
    | dsimp only
    | split
    | with_reducible apply Kept.with_

theorem powerHistory_kept {r : State} {s : State} {code : Nat} (h₀ : Kept r s) : Kept r (powerHistory s code) := by
  unfold powerHistory
  repeat' first
    | with_reducible assumption
    | with_reducible first
      | apply Kept.foldl
    | intro _
    | dsimp only
    | split
    | with_reducible apply Kept.with_

theorem execImgGo_kept {r : State} {v : Nat} {s : State} (h₀ : Kept r s) : OutK r (execImgGo v s) := by
  unfold execImgGo
  repeat' first
    | with_reducible assumption
    | with_reducible first
      | apply OutK.of
      | apply OutK.fault
      | apply Kept.foldl
    | intro _
    | dsimp only
    | split
    | with_reducible apply Kept.with_

theorem imageRead_kept {r : State} {s : State} (h₀ : Kept r s) : Kept r (imageRead s) := by
  unfold imageRead
  repeat' first
    | with_reducible assumption
    | with_reducible first
      | apply Kept.foldl
    | intro _
    | dsimp only
    | split
    | with_reducible apply Kept.with_

theorem execHostMemoryAccess_kept {r : State} {wr : Bool} {pa : Nat} {n : Nat} {v : Nat} {s : State} (h₀ : Kept r s) : OutK r (execHostMemoryAccess wr pa n v s) := by
  unfold execHostMemoryAccess
  repeat' first
    | with_reducible assumption
    | with_reducible first
      | apply homeWrite_kept
      | apply OutK.of
      | apply OutK.fault
      | apply Kept.foldl
    | intro _
    | dsimp only
    | split
    | with_reducible apply Kept.with_

theorem execEqHeadWrite_kept {r : State} {v : Nat} {s : State} (h₀ : Kept r s) : OutK r (execEqHeadWrite v s) := by
  unfold execEqHeadWrite
  repeat' first
    | with_reducible assumption
    | with_reducible first
      | apply flushEvents_kept
      | apply OutK.of
      | apply OutK.fault
      | apply Kept.foldl
    | intro _
    | dsimp only
    | split
    | with_reducible apply Kept.with_

theorem execMboxBaseWrite_kept {r : State} {which : Nat} {v : Nat} {s : State} (h₀ : Kept r s) : OutK r (execMboxBaseWrite which v s) := by
  unfold execMboxBaseWrite
  repeat' first
    | with_reducible assumption
    | with_reducible first
      | apply flushMbox_kept
      | apply OutK.of
      | apply OutK.fault
      | apply Kept.foldl
    | intro _
    | dsimp only
    | split
    | with_reducible apply Kept.with_

theorem execBind_kept {r : State} {c : Cmd} {s : State} (h₀ : Kept r s) : OutK r (execBind c s) := by
  unfold execBind
  repeat' first
    | with_reducible assumption
    | with_reducible first
      | apply runCmd_kept
      | apply onCtx_kept
      | apply OutK.of
      | apply OutK.fault
      | apply CmdK.ofDone
      | apply CmdK.ofBusy
      | apply CmdK.ofLater
      | apply Kept.foldl
      | apply Kept.id_
    | intro _
    | dsimp only
    | split
    | with_reducible apply Kept.with_

theorem execAllot_kept {r : State} {c : Cmd} {s : State} (h₀ : Kept r s) : OutK r (execAllot c s) := by
  unfold execAllot
  repeat' first
    | with_reducible assumption
    | with_reducible first
      | apply runCmd_kept
      | apply onCtx_kept
      | apply State.modBound_kept
      | apply OutK.of
      | apply OutK.fault
      | apply CmdK.ofDone
      | apply CmdK.ofBusy
      | apply CmdK.ofLater
      | apply Kept.foldl
      | apply Kept.id_
    | intro _
    | dsimp only
    | split
    | with_reducible apply Kept.with_

theorem linkRecord_kept {r : State} {s : State} {die : Nat} {stop : Nat} {port : Nat} {kind : Nat} {sender : Nat} (h₀ : Kept r s) : Kept r (linkRecord s die stop port kind sender) := by
  unfold linkRecord
  repeat' first
    | with_reducible assumption
    | with_reducible first
      | apply postEvent_kept
      | apply Kept.foldl
    | intro _
    | dsimp only
    | split
    | with_reducible apply Kept.with_

theorem engLose_kept {r : State} {s : State} {o : Nat} {op : Op} {e : EngOp} (h₀ : Kept r s) : Kept r (engLose s o op e) := by
  unfold engLose
  repeat' first
    | with_reducible assumption
    | with_reducible first
      | apply State.modEng_kept
      | apply State.modTile_kept
      | apply padWr_kept
      | apply Kept.foldl
    | intro _
    | dsimp only
    | split
    | with_reducible apply Kept.with_

theorem memLose_kept {r : State} {s : State} {o : Nat} {op : Op} {m : MemOp} (h₀ : Kept r s) : Kept r (memLose s o op m) := by
  unfold memLose
  repeat' first
    | with_reducible assumption
    | with_reducible first
      | apply setErr_kept
      | apply State.modOp_kept
      | apply landReply_kept
      | apply State.delOp_kept
      | apply Kept.foldl
    | intro _
    | dsimp only
    | split
    | with_reducible apply Kept.with_

theorem completeLost_kept {r : State} {s : State} {o : Nat} {op : Op} (h₀ : Kept r s) : Kept r (completeLost s o op) := by
  unfold completeLost
  repeat' first
    | with_reducible assumption
    | with_reducible first
      | apply memLose_kept
      | apply setErr_kept
      | apply State.modOp_kept
      | apply landReply_kept
      | apply engLose_kept
      | apply ctxLog_kept
      | apply State.delOp_kept
      | apply Kept.foldl
    | intro _
    | dsimp only
    | split
    | with_reducible apply Kept.with_

theorem dropPacket_kept {r : State} {s : State} {o : Nat} {op : Op} {noticed : Bool} (h₀ : Kept r s) : Kept r (dropPacket s o op noticed) := by
  unfold dropPacket
  repeat' first
    | with_reducible assumption
    | with_reducible first
      | apply State.modOp_kept
      | apply Kept.foldl
    | intro _
    | dsimp only
    | split
    | with_reducible apply Kept.with_

theorem execPacketCheckFailure_kept {r : State} {o : Nat} {kind : Nat} {die : Nat} {stop : Nat} {port : Nat} {s : State} (h₀ : Kept r s) : OutK r (execPacketCheckFailure o kind die stop port s) := by
  unfold execPacketCheckFailure
  repeat' first
    | with_reducible assumption
    | with_reducible first
      | apply dropPacket_kept
      | apply linkRecord_kept
      | apply State.modDie_kept
      | apply OutK.of
      | apply OutK.fault
      | apply Kept.foldl
    | intro _
    | dsimp only
    | split
    | with_reducible apply Kept.with_

theorem execLostNotice_kept {r : State} {o : Nat} {s : State} (h₀ : Kept r s) : OutK r (execLostNotice o s) := by
  unfold execLostNotice
  repeat' first
    | with_reducible assumption
    | with_reducible first
      | apply completeLost_kept
      | apply OutK.of
      | apply OutK.fault
      | apply Kept.foldl
    | intro _
    | dsimp only
    | split
    | with_reducible apply Kept.with_

theorem execTransactionTimeout_kept {r : State} {o : Nat} {s : State} (h₀ : Kept r s) : OutK r (execTransactionTimeout o s) := by
  unfold execTransactionTimeout
  repeat' first
    | with_reducible assumption
    | with_reducible first
      | apply lostRecord_kept
      | apply completeLost_kept
      | apply OutK.of
      | apply OutK.fault
      | apply Kept.foldl
    | intro _
    | dsimp only
    | split
    | with_reducible apply Kept.with_

theorem dropMsg_kept {r : State} {s : State} {c : Nat} {reason : Nat} {m : AMsg} (h₀ : Kept r s) : Kept r (dropMsg s c reason m) := by
  unfold dropMsg
  repeat' first
    | with_reducible assumption
    | with_reducible first
      | apply ctxLog_kept
      | apply Kept.foldl
    | intro _
    | dsimp only
    | split
    | with_reducible apply Kept.with_

theorem deliver_kept {r : State} {s : State} {c : Nat} {o : Nat} {m : AMsg} (h₀ : Kept r s) : Kept r (deliver s c o m) := by
  unfold deliver
  repeat' first
    | with_reducible assumption
    | with_reducible first
      | apply dropMsg_kept
      | apply State.modOp_kept
      | apply enqueue_kept
      | apply State.delOp_kept
      | apply Kept.foldl
    | intro _
    | dsimp only
    | split
    | with_reducible apply Kept.with_

theorem leaveDevice_kept {r : State} {s : State} {m : AMsg} (h₀ : Kept r s) : Kept r (leaveDevice s m) := by
  unfold leaveDevice
  repeat' first
    | with_reducible assumption
    | with_reducible first
      | apply dropMsg_kept
      | apply State.delOp_kept
      | apply Kept.foldl
    | intro _
    | dsimp only
    | split
    | with_reducible apply Kept.with_

theorem execActiveMessageArrival_kept {r : State} {m : AMsg} {s : State} (h₀ : Kept r s) : OutK r (execActiveMessageArrival m s) := by
  unfold execActiveMessageArrival
  repeat' first
    | with_reducible assumption
    | with_reducible first
      | apply leaveDevice_kept
      | apply deliver_kept
      | apply OutK.of
      | apply OutK.fault
      | apply Kept.foldl
    | intro _
    | dsimp only
    | split
    | with_reducible apply Kept.with_

theorem fromLink_drop_kept {r : State} {link : Nat} {dev : Nat} {s : State} (h₀ : Kept r s) : Kept r (fromLink.drop link dev s) := by
  unfold fromLink.drop
  repeat' first
    | with_reducible assumption
    | with_reducible first
      | apply linkRecord_kept
      | apply State.modDie_kept
      | apply Kept.foldl
    | intro _
    | dsimp only
    | split
    | with_reducible apply Kept.with_

theorem fromLink_kept {r : State} {link : Nat} {net : Nat} {dev : Nat} {c : Nat} {s : State} {k : Nat → State} (h₀ : Kept r s) (hk : ∀ (x0 : Nat), Kept r (k x0)) : Kept r (fromLink link net dev c s k) := by
  unfold fromLink
  repeat' first
    | with_reducible assumption
    | with_reducible first
      | apply hk
      | apply fromLink_drop_kept
      | apply Kept.foldl
    | intro _
    | dsimp only
    | split
    | with_reducible apply Kept.with_

theorem peerAmsg_kept {r : State} {link : Nat} {net : Nat} {m : AMsg} {s : State} (h₀ : Kept r s) : Kept r (peerAmsg link net m s) := by
  unfold peerAmsg
  repeat' first
    | with_reducible assumption
    | with_reducible first
      | apply fromLink_kept
      | apply dropMsg_kept
      | apply State.addOp_kept
      | apply Kept.foldl
      | apply Kept.id_
    | intro _
    | dsimp only
    | split
    | with_reducible apply Kept.with_

theorem peerAccess_kept {r : State} {link : Nat} {net : Nat} {dev : Nat} {c : Nat} {k : MemK} {pa : Nat} {n : Nat} {x : Nat} {y : Nat} {b : Option Handle} {s : State} (h₀ : Kept r s) : Kept r (peerAccess link net dev c k pa n x y b s) := by
  unfold peerAccess
  split
  · exact h₀
  refine fromLink_kept h₀ fun t => ?_
  split
  · exact readSeen_kept h₀
  · split
    · exact h₀
    · rename_i h _
      have hp : OptK r (prepLine s h (lineOf pa)) := prepLine_kept h₀
      cases e : prepLine s h (lineOf pa) with
      | none => exact h₀
      | some s1 => exact bundleStore_kept (OptK.get e hp)
  · exact homeWrite_kept h₀
  · exact homeWrite_kept (readSeen_kept h₀)

theorem peerDir_kept {r : State} {dev : Nat} {die : Nat} {idx : Nat} {d : Dir} {s : State} (h₀ : Kept r s) : Kept r (peerDir dev die idx d s) := by
  unfold peerDir
  repeat' first
    | with_reducible assumption
    | with_reducible first
      | apply abandon_kept
      | apply State.modDie_kept
      | apply Kept.foldl
    | intro _
    | dsimp only
    | split
    | with_reducible apply Kept.with_

theorem peerMcast_kept {r : State} {link : Nat} {net : Nat} {dev : Nat} {c : Nat} {src : Nat} {core : Nat} {tile : Nat} {gen : Nat} {off : Nat} {data : List Byte} {s : State} (h₀ : Kept r s) : Kept r (peerMcast link net dev c src core tile gen off data s) := by
  unfold peerMcast
  repeat' first
    | with_reducible assumption
    | with_reducible first
      | apply fromLink_kept
      | apply ctxLog_kept
      | apply padWr_kept
      | apply Kept.foldl
      | apply Kept.id_
    | intro _
    | dsimp only
    | split
    | with_reducible apply Kept.with_

theorem peerSubmit_kept {r : State} {link : Nat} {net : Nat} {dev : Nat} {c : Nat} {anchor : Nat} {rec_ : Nat} {s : State} (h₀ : Kept r s) : Kept r (peerSubmit link net dev c anchor rec_ s) := by
  unfold peerSubmit
  repeat' first
    | with_reducible assumption
    | with_reducible first
      | refine PairK.fst (submitStep_kept ?_)
      | refine PairK.fst (walkNow_kept ?_)
      | apply ring_kept
      | apply fromLink_kept
      | apply submitStep_kept
      | apply walkNow_kept
      | apply PairK.of
      | refine PairK.get (by with_reducible assumption) ?_
      | apply Kept.foldl
      | apply Kept.id_
    | intro _
    | dsimp only
    | split
    | with_reducible apply Kept.with_

theorem execTurnStart_kept {r : State} {bi : Nat} {s : State} (h₀ : Kept r s) : OutK r (execTurnStart bi s) := by
  unfold execTurnStart
  repeat' first
    | with_reducible assumption
    | with_reducible first
      | apply State.modBound_kept
      | apply OutK.of
      | apply OutK.fault
      | apply Kept.foldl
    | intro _
    | dsimp only
    | split
    | with_reducible apply Kept.with_

theorem execTurnEnd_kept {r : State} {bi : Nat} {g : Nat} {s : State} (h₀ : Kept r s) : OutK r (execTurnEnd bi g s) := by
  unfold execTurnEnd
  repeat' first
    | with_reducible assumption
    | with_reducible first
      | apply State.modBound_kept
      | apply OutK.of
      | apply OutK.fault
      | apply Kept.foldl
    | intro _
    | dsimp only
    | split
    | with_reducible apply Kept.with_

theorem startHandler_kept {r : State} {s : State} {part : Nat} {gid : Nat} {slot : Nat} {h : Group} (h₀ : Kept r s) : Kept r (startHandler s part gid slot h) := by
  unfold startHandler
  repeat' first
    | with_reducible assumption
    | with_reducible first
      | apply l1Drop_kept
      | apply fenceGroup_kept
      | apply State.modPart_kept
      | apply Kept.foldl
    | intro _
    | dsimp only
    | split
    | with_reducible apply Kept.with_

theorem execHandlerStart_dropTrap_kept {r : State} {s : State} {part : Nat} {gid : Nat} {slot : Nat} (h₀ : Kept r s) : Kept r (execHandlerStart.dropTrap s part gid slot) := by
  unfold execHandlerStart.dropTrap
  repeat' first
    | with_reducible assumption
    | with_reducible first
      | apply State.modPart_kept
      | apply Kept.foldl
    | intro _
    | dsimp only
    | split
    | with_reducible apply Kept.with_

theorem execHandlerStart_kept {r : State} {part : Nat} {s : State} (h₀ : Kept r s) : OutK r (execHandlerStart part s) := by
  unfold execHandlerStart
  repeat' first
    | with_reducible assumption
    | with_reducible first
      | apply execHandlerStart_dropTrap_kept
      | apply notice_kept
      | apply doubleFault_kept
      | apply startHandler_kept
      | apply OutK.of
      | apply OutK.fault
      | apply Kept.foldl
    | intro _
    | dsimp only
    | split
    | with_reducible apply Kept.with_

theorem porterOp_kept {r : State} {op : Nat} {m : Msg} {s : State} {k : State → Nat × List Nat × State} (h₀ : Kept r s) (hk : ∀ (x0 : State), Kept r x0 → Kept r (k x0).2.2) : OutK r (porterOp op m s k) := by
  unfold porterOp
  repeat' first
    | with_reducible assumption
    | with_reducible first
      | apply hk
      | apply mboxPut_kept
      | apply OutK.of
      | apply OutK.fault
      | apply Kept.foldl
    | intro _
    | dsimp only
    | split
    | with_reducible apply Kept.with_

theorem execAttach_kept {r : State} {m : Msg} {s : State} (h₀ : Kept r s) : OutK r (execAttach m s) := by
  unfold execAttach
  repeat' first
    | with_reducible assumption
    | with_reducible first
      | apply porterOp_kept
      | apply State.modCtx_kept
      | apply OutK.of
      | apply OutK.fault
      | apply Kept.foldl
      | apply Kept.id_
    | intro _
    | dsimp only
    | split
    | with_reducible apply Kept.with_

theorem porterLeave_kept {r s : State} {gid slot : Nat} (h₀ : Kept r s) : Kept r (porterLeave s gid slot) := by
  unfold porterLeave
  split
  · next hid hg _ =>
    have k := returnTrap_kept (mode := 0) (t2 := 0) (h := hg) (gid := gid) (slot := slot)
      (Kept.refl { s with iss := { s.iss with gid := hid, slot := 0 } })
    exact h₀.trans ⟨k.memOk, ⟨rfl, k.same.pipeHold, k.same.cycles, k.same.clocks, k.same.clkBase, k.same.boot, k.same.power, k.same.image,
      k.same.staged, k.same.domain, k.same.routing, k.same.linkNet, k.same.linkDown⟩⟩
  · exact h₀

theorem execDetach_kept {r : State} {m : Msg} {s : State} (h₀ : Kept r s) : OutK r (execDetach m s) := by
  unfold execDetach
  repeat' first
    | with_reducible assumption
    | with_reducible first
      | apply porterOp_kept
      | apply reinject_kept
      | apply porterLeave_kept
      | apply State.modCtx_kept
      | apply OutK.of
      | apply OutK.fault
      | apply Kept.foldl
      | apply Kept.id_
    | intro _
    | dsimp only
    | split
    | with_reducible apply Kept.with_

theorem execPorterHalt_kept {r : State} {m : Msg} {s : State} (h₀ : Kept r s) : OutK r (execPorterHalt m s) := by
  unfold execPorterHalt
  repeat' first
    | with_reducible assumption
    | with_reducible first
      | apply porterOp_kept
      | apply State.modPathAt_kept
      | apply OutK.of
      | apply OutK.fault
      | apply Kept.foldl
      | apply Kept.id_
    | intro _
    | dsimp only
    | split
    | with_reducible apply Kept.with_

theorem execPorterResume_kept {r : State} {m : Msg} {s : State} (h₀ : Kept r s) : OutK r (execPorterResume m s) := by
  unfold execPorterResume
  repeat' first
    | with_reducible assumption
    | with_reducible first
      | apply porterOp_kept
      | apply porterLeave_kept
      | apply State.modPathAt_kept
      | apply OutK.of
      | apply OutK.fault
      | apply Kept.foldl
      | apply Kept.id_
    | intro _
    | dsimp only
    | split
    | with_reducible apply Kept.with_

theorem stepPath_kept {r : State} {s : State} {gid : Nat} {slot : Nat} (h₀ : Kept r s) : Kept r (stepPath s gid slot) := by
  unfold stepPath
  repeat' first
    | with_reducible assumption
    | with_reducible first
      | apply porterLeave_kept
      | apply State.modPathAt_kept
      | apply Kept.foldl
    | intro _
    | dsimp only
    | split
    | with_reducible apply Kept.with_

theorem execPorterStep_kept {r : State} {m : Msg} {s : State} (h₀ : Kept r s) : OutK r (execPorterStep m s) := by
  unfold execPorterStep
  repeat' first
    | with_reducible assumption
    | with_reducible first
      | apply porterOp_kept
      | apply stepPath_kept
      | apply OutK.of
      | apply OutK.fault
      | apply Kept.foldl
      | apply Kept.id_
    | intro _
    | dsimp only
    | split
    | with_reducible apply Kept.with_

theorem execStepgrp_kept {r : State} {m : Msg} {s : State} (h₀ : Kept r s) : OutK r (execStepgrp m s) := by
  unfold execStepgrp
  repeat' first
    | with_reducible assumption
    | with_reducible first
      | apply porterOp_kept
      | apply stepPath_kept
      | apply OutK.of
      | apply OutK.fault
      | apply Kept.foldl
      | apply Kept.id_
    | intro _
    | dsimp only
    | split
    | with_reducible apply Kept.with_

theorem execSetbrk_kept {r : State} {m : Msg} {s : State} (h₀ : Kept r s) : OutK r (execSetbrk m s) := by
  unfold execSetbrk
  repeat' first
    | with_reducible assumption
    | with_reducible first
      | apply porterOp_kept
      | apply State.modCtx_kept
      | apply OutK.of
      | apply OutK.fault
      | apply Kept.foldl
      | apply Kept.id_
    | intro _
    | dsimp only
    | split
    | with_reducible apply Kept.with_

theorem execClrbrk_kept {r : State} {m : Msg} {s : State} (h₀ : Kept r s) : OutK r (execClrbrk m s) := by
  unfold execClrbrk
  repeat' first
    | with_reducible assumption
    | with_reducible first
      | apply porterOp_kept
      | apply State.modCtx_kept
      | apply OutK.of
      | apply OutK.fault
      | apply Kept.foldl
      | apply Kept.id_
    | intro _
    | dsimp only
    | split
    | with_reducible apply Kept.with_

theorem execRdreg_kept {r : State} {m : Msg} {s : State} (h₀ : Kept r s) : OutK r (execRdreg m s) := by
  unfold execRdreg
  repeat' first
    | with_reducible assumption
    | with_reducible first
      | apply porterOp_kept
      | apply OutK.of
      | apply OutK.fault
      | apply Kept.foldl
      | apply Kept.id_
    | intro _
    | dsimp only
    | split
    | with_reducible apply Kept.with_

theorem execWrreg_kept {r : State} {m : Msg} {s : State} (h₀ : Kept r s) : OutK r (execWrreg m s) := by
  unfold execWrreg
  repeat' first
    | with_reducible assumption
    | with_reducible first
      | apply State.modGroup_kept
      | apply porterOp_kept
      | apply OutK.of
      | apply OutK.fault
      | apply Kept.foldl
      | apply Kept.id_
    | intro _
    | dsimp only
    | split
    | with_reducible apply Kept.with_

theorem execRdmem_kept {r : State} {m : Msg} {s : State} (h₀ : Kept r s) : OutK r (execRdmem m s) := by
  unfold execRdmem
  repeat' first
    | with_reducible assumption
    | with_reducible first
      | apply porterOp_kept
      | apply OutK.of
      | apply OutK.fault
      | apply Kept.foldl
      | apply Kept.id_
    | intro _
    | dsimp only
    | split
    | with_reducible apply Kept.with_

theorem execWrmem_kept {r : State} {m : Msg} {s : State} (h₀ : Kept r s) : OutK r (execWrmem m s) := by
  unfold execWrmem
  repeat' first
    | with_reducible assumption
    | with_reducible first
      | refine PairK.fst (walkNow_kept ?_)
      | apply porterOp_kept
      | apply walkNow_kept
      | apply homeWrite_kept
      | apply OutK.of
      | apply OutK.fault
      | apply PairK.of
      | refine PairK.get (by with_reducible assumption) ?_
      | apply Kept.foldl
      | apply Kept.id_
    | intro _
    | dsimp only
    | split
    | with_reducible apply Kept.with_

end Sys2Proof.Machine
end

