-- ==== Sys2Proof/Laws/KeptHost.lean ====
section
/-! SUPPORT. The canonical form of memory kept by what changes the device as a whole: reset, power, firmware images,
domain and network tables, link failures; and by what the schedule does around an instruction. -/

set_option linter.unusedTactic false
set_option linter.unreachableTactic false

namespace Sys2Proof.Machine

theorem Kept.of_memOk {r t : State} (h : Kept r t) (hm : MemOk r) : MemOk t := h.memOk hm

theorem resetDevice_memOk {s : State} (h : MemOk s) : MemOk (resetDevice s) := h

theorem powerOff_memOk {s : State} (h : MemOk s) : MemOk (powerOff s) := filter_wf s.mem _ h

theorem powerHistory_memOk {s : State} {c : Nat} (h : MemOk s) : MemOk (powerHistory s c) := h

theorem powerTo_memOk {p : PSt} {s : State} (h : MemOk s) : MemOk (powerTo p s) := by
  unfold powerTo
  dsimp only
  split <;> split <;> exact h

theorem powerWritten_memOk {v : Nat} {b : Bool} {s : State} (h : MemOk s) : MemOk (powerWritten v b s) := h

theorem postEvent_memOk {s : State} {typ c : Nat} {body : List (Nat × Nat)} (h : MemOk s) :
    MemOk (postEvent s typ c body) := (postEvent_kept (Kept.refl s)).memOk h

theorem flushEvents_memOk {s : State} (n : Nat) (h : MemOk s) : MemOk (flushEvents n s) :=
  (flushEvents_kept n (Kept.refl s)).memOk h

theorem flushMbox_memOk {s : State} (n : Nat) (h : MemOk s) : MemOk (flushMbox n s) :=
  (flushMbox_kept n (Kept.refl s)).memOk h

theorem execReset_memOk {s t : State} (h : MemOk s) (e : execReset s = .next t) : MemOk t := by
  cases e; exact resetDevice_memOk h

theorem execPowerLoss_memOk {s t : State} (h : MemOk s) (e : execPowerLoss s = .next t) : MemOk t := by
  cases e; exact powerOff_memOk h

theorem execPowerRun_memOk {s t : State} {v : Nat} (h : MemOk s) (e : execPowerRun v s = .next t) : MemOk t := by
  unfold execPowerRun at e
  cases e
  split
  · exact h
  · exact powerTo_memOk (powerWritten_memOk h)

theorem execPowerCapped_memOk {s t : State} {v : Nat} (h : MemOk s) (e : execPowerCapped v s = .next t) : MemOk t := by
  unfold execPowerCapped at e
  cases e
  split
  · exact h
  · split
    · exact powerWritten_memOk h
    · exact powerTo_memOk (powerWritten_memOk h)

theorem execPowerRetention_memOk {s t : State} {v : Nat} (h : MemOk s) (e : execPowerRetention v s = .next t) : MemOk t := by
  unfold execPowerRetention at e
  cases e
  split
  · exact h
  · split
    · exact powerWritten_memOk h
    · exact powerTo_memOk (powerWritten_memOk h)

theorem execHostRegisterWrite_memOk {s t : State} {off v : Nat} (h : MemOk s)
    (e : execHostRegisterWrite off v s = .next t) : MemOk t := by
  unfold execHostRegisterWrite at e
  dsimp only at e
  cases e
  repeat' split
  all_goals first
    | exact h
    | exact flushEvents_memOk _ h
    | exact flushMbox_memOk _ h

theorem execImageVerified_memOk {s t : State} {ok : Bool} (h : MemOk s) (e : execImageVerified ok s = .next t) : MemOk t := by
  unfold execImageVerified at e
  cases e
  repeat' split
  all_goals exact h

theorem execFirmwareCheckEnd_memOk {s t : State} {ok : Bool} (h : MemOk s) (e : execFirmwareCheckEnd ok s = .next t) :
    MemOk t := by
  unfold execFirmwareCheckEnd at e
  cases e
  dsimp only
  repeat' split
  all_goals first
    | exact h
    | exact postEvent_memOk h

theorem execThermalLimit_memOk {s t : State} {d x : Nat} (h : MemOk s) (e : execThermalLimit d x s = .next t) : MemOk t := by
  unfold execThermalLimit at e
  cases e
  dsimp only
  split
  · exact h
  · refine postEvent_memOk ?_
    split
    · exact h
    · exact powerTo_memOk h

theorem execThermalLift_memOk {s t : State} (h : MemOk s) (e : execThermalLift s = .next t) : MemOk t := by
  unfold execThermalLift at e
  cases e
  dsimp only
  split
  · exact h
  · refine postEvent_memOk ?_
    split
    · exact h
    · exact powerTo_memOk h

theorem execThermalTrip_memOk {s t : State} {d x : Nat} (h : MemOk s) (e : execThermalTrip d x s = .next t) : MemOk t := by
  unfold execThermalTrip at e
  cases e
  split
  · exact h
  · exact powerOff_memOk h

/-- A command keeps the canonical form where its effect does. -/
theorem runCmd_memOk {s t : State} {op : Nat} {c : Cmd} {k : State → CmdRes} (h : MemOk s)
    (hk : ∀ x, MemOk x → ∀ y, (∃ a b, k x = .done a b y) ∨ k x = .busy y ∨ k x = .later y → MemOk y)
    (e : runCmd op c s k = .next t) : MemOk t := by
  unfold runCmd at e
  cases e
  dsimp only
  split
  · exact h
  · have h1 : MemOk (consume c s) := (consume_kept (Kept.refl s)).memOk h
    split
    · exact (complete_kept (Kept.refl _)).memOk h1
    · cases e : k (consume c s) with
      | done a b y => exact (complete_kept (Kept.refl _)).memOk (hk _ h1 y (Or.inl ⟨a, b, e⟩))
      | busy y => exact hk _ h1 y (Or.inr (Or.inl e))
      | later y => exact hk _ h1 y (Or.inr (Or.inr e))

theorem execSetdomain_memOk {s t : State} {c : Cmd} (h : MemOk s) (e : execSetdomain c s = .next t) : MemOk t := by
  refine runCmd_memOk h (fun x hx y hy => ?_) e
  dsimp only at hy
  split at hy <;> simp only [CmdRes.done.injEq, reduceCtorEq, or_false] at hy
  · obtain ⟨_, _, -, -, rfl⟩ := hy; exact hx
  · obtain ⟨_, _, -, -, rfl⟩ := hy; exact hx

theorem execSetlinknet_memOk {s t : State} {c : Cmd} (h : MemOk s) (e : execSetlinknet c s = .next t) : MemOk t := by
  refine runCmd_memOk h (fun x hx y hy => ?_) e
  dsimp only at hy
  split at hy <;> simp only [CmdRes.done.injEq, reduceCtorEq, or_false] at hy
  · obtain ⟨_, _, -, -, rfl⟩ := hy; exact hx
  · obtain ⟨_, _, -, -, rfl⟩ := hy; exact hx

theorem execLinkFailure_memOk {s t : State} {l : Nat} (h : MemOk s) (e : execLinkFailure l s = .next t) : MemOk t := by
  unfold execLinkFailure at e
  cases e
  split
  · exact h
  · dsimp only
    have h1 := (linkRecord_kept (die := l / 3) (stop := linkStop l) (port := 16 + l) (kind := 4)
      (sender := senderBits (s.domain, l / 3, linkStop l)) (Kept.refl { s with linkDown := s.linkDown ++ [l] })).memOk h
    refine (Kept.foldl (Kept.refl _) _ _ fun u a hu => ?_).memOk h1
    split
    · apply dropPacket_kept
      apply lostRecord_kept
      apply Kept.with_
      exact hu
    · apply Kept.with_
      exact hu

theorem cyc_kept_imageRead {r s : State} (h : Kept r s) : Kept r (imageRead s) := imageRead_kept h

theorem markHeads_kept {r s : State} (h : Kept r s) : Kept r (markHeads s) := by
  unfold markHeads
  refine Kept.foldl h _ _ fun t a ht => Kept.foldl ht _ _ fun u b hu => ?_
  split
  · apply Kept.with_; exact hu
  · exact hu

theorem listHb_kept {r s : State} (h : Kept r s) : Kept r (listHb s) := by
  unfold listHb
  refine Kept.foldl h _ _ fun t a ht => ?_
  dsimp only
  split
  · exact State.modCore_kept ht
  · exact ht

theorem netCycles_memOk {s : State} (n : Nat) (h : MemOk s) : MemOk (netCycles n s) := by
  induction n generalizing s with
  | zero => exact h
  | succ n ih =>
    unfold netCycles
    split
    · exact ih ((torusCycle_kept (Kept.refl _)).memOk h)
    · exact h

theorem netCycles_cycles (n : Nat) (s : State) : (netCycles n s).cycles = s.cycles := by
  induction n generalizing s with
  | zero => rfl
  | succ n ih =>
    unfold netCycles
    split
    · exact (ih _).trans (torusCycle_kept (Kept.refl _)).same.cycles
    · rfl

theorem cycle_memOk {s : State} (h : MemOk s) : MemOk (cycle s) := by
  unfold cycle
  split
  · exact h
  split
  · exact (imageRead_kept (Kept.refl _)).memOk (r := { s with clocks := _ }) h
  · exact netCycles_memOk _ ((listHb_kept (imageRead_kept (Kept.refl _))).memOk ((markHeads_kept (Kept.refl s)).memOk h))

/-- A cycle that passes with the clocks on is counted (R14); in retention the count is held with all else (Table HST.2). -/
theorem cycle_cycles (s : State) :
    (cycle s).cycles = if powered s = true ∧ s.power.st ≠ .retention then s.cycles + 1 else s.cycles := by
  unfold cycle
  split
  · next h => simp at h; simp [h]
  split
  · next h =>
    rw [if_neg (by simp [h])]
    exact (imageRead_kept (Kept.refl _)).same.cycles
  · next h hr =>
    simp at h
    rw [if_pos ⟨h, hr⟩]
    exact (netCycles_cycles _ _).trans (listHb_kept (imageRead_kept (Kept.refl _))).same.cycles

theorem setClocks_memOk {s : State} {a n : Nat} (h : MemOk s) : MemOk (setClocks a n s) := by
  unfold setClocks
  split <;> exact h

theorem noteIssue_kept {r s : State} {i : Issue} (h : Kept r s) : Kept r (noteIssue i s) := by
  unfold noteIssue
  repeat' first
    | assumption
    | apply State.modGroup_kept
    | apply State.modPart_kept
    | apply Kept.foldl
    | intro _
    | dsimp only
    | split
    | with_reducible apply Kept.with_

theorem release_memOk {s : State} (h : MemOk s) : MemOk (release s) :=
  (Kept.foldl (Kept.refl { s with pipe := [], pipeHold := false }) _ _ fun _ _ hu => landE_kept hu).memOk h

end Sys2Proof.Machine
end

