-- ==== Sys2Proof/Laws/State.lean ====
section
/-! SUPPORT. One lemma per field per update of the state: what each update leaves alone. -/

namespace Sys2Proof.Machine

@[simp] theorem State.wr_cycles (s : State) (pa : Nat) (bs : List Byte) : (s.wr pa bs).cycles = s.cycles := rfl
@[simp] theorem State.wr_clocks (s : State) (pa : Nat) (bs : List Byte) : (s.wr pa bs).clocks = s.clocks := rfl
@[simp] theorem State.wr_clkBase (s : State) (pa : Nat) (bs : List Byte) : (s.wr pa bs).clkBase = s.clkBase := rfl
@[simp] theorem State.wr_agenda (s : State) (pa : Nat) (bs : List Byte) : (s.wr pa bs).agenda = s.agenda := rfl
@[simp] theorem State.wr_fresh (s : State) (pa : Nat) (bs : List Byte) : (s.wr pa bs).fresh = s.fresh := rfl
@[simp] theorem State.wr_nextId (s : State) (pa : Nat) (bs : List Byte) : (s.wr pa bs).nextId = s.nextId := rfl
@[simp] theorem State.wr_iss (s : State) (pa : Nat) (bs : List Byte) : (s.wr pa bs).iss = s.iss := rfl
@[simp] theorem State.wr_pipeHold (s : State) (pa : Nat) (bs : List Byte) : (s.wr pa bs).pipeHold = s.pipeHold := rfl
@[simp] theorem State.wr_pipe (s : State) (pa : Nat) (bs : List Byte) : (s.wr pa bs).pipe = s.pipe := rfl
@[simp] theorem State.wr_boot (s : State) (pa : Nat) (bs : List Byte) : (s.wr pa bs).boot = s.boot := rfl
@[simp] theorem State.wr_power (s : State) (pa : Nat) (bs : List Byte) : (s.wr pa bs).power = s.power := rfl
@[simp] theorem State.wr_host (s : State) (pa : Nat) (bs : List Byte) : (s.wr pa bs).host = s.host := rfl
@[simp] theorem State.wr_staged (s : State) (pa : Nat) (bs : List Byte) : (s.wr pa bs).staged = s.staged := rfl
@[simp] theorem State.wr_booting (s : State) (pa : Nat) (bs : List Byte) : (s.wr pa bs).booting = s.booting := rfl
@[simp] theorem State.wr_image (s : State) (pa : Nat) (bs : List Byte) : (s.wr pa bs).image = s.image := rfl
@[simp] theorem State.wr_queues (s : State) (pa : Nat) (bs : List Byte) : (s.wr pa bs).queues = s.queues := rfl
@[simp] theorem State.wr_kernels (s : State) (pa : Nat) (bs : List Byte) : (s.wr pa bs).kernels = s.kernels := rfl
@[simp] theorem State.wr_teams (s : State) (pa : Nat) (bs : List Byte) : (s.wr pa bs).teams = s.teams := rfl
@[simp] theorem State.wr_cohorts (s : State) (pa : Nat) (bs : List Byte) : (s.wr pa bs).cohorts = s.cohorts := rfl
@[simp] theorem State.wr_reqs (s : State) (pa : Nat) (bs : List Byte) : (s.wr pa bs).reqs = s.reqs := rfl
@[simp] theorem State.wr_cores (s : State) (pa : Nat) (bs : List Byte) : (s.wr pa bs).cores = s.cores := rfl
@[simp] theorem State.wr_quads (s : State) (pa : Nat) (bs : List Byte) : (s.wr pa bs).quads = s.quads := rfl
@[simp] theorem State.wr_parts (s : State) (pa : Nat) (bs : List Byte) : (s.wr pa bs).parts = s.parts := rfl
@[simp] theorem State.wr_dies (s : State) (pa : Nat) (bs : List Byte) : (s.wr pa bs).dies = s.dies := rfl
@[simp] theorem State.wr_bounds (s : State) (pa : Nat) (bs : List Byte) : (s.wr pa bs).bounds = s.bounds := rfl
@[simp] theorem State.wr_ctxs (s : State) (pa : Nat) (bs : List Byte) : (s.wr pa bs).ctxs = s.ctxs := rfl
@[simp] theorem State.wr_ops (s : State) (pa : Nat) (bs : List Byte) : (s.wr pa bs).ops = s.ops := rfl
@[simp] theorem State.wr_late (s : State) (pa : Nat) (bs : List Byte) : (s.wr pa bs).late = s.late := rfl
@[simp] theorem State.wr_lines (s : State) (pa : Nat) (bs : List Byte) : (s.wr pa bs).lines = s.lines := rfl
@[simp] theorem State.wr_torus (s : State) (pa : Nat) (bs : List Byte) : (s.wr pa bs).torus = s.torus := rfl
@[simp] theorem State.wr_pages (s : State) (pa : Nat) (bs : List Byte) : (s.wr pa bs).pages = s.pages := rfl
@[simp] theorem State.wr_memErrs (s : State) (pa : Nat) (bs : List Byte) : (s.wr pa bs).memErrs = s.memErrs := rfl
@[simp] theorem State.wr_domain (s : State) (pa : Nat) (bs : List Byte) : (s.wr pa bs).domain = s.domain := rfl
@[simp] theorem State.wr_routing (s : State) (pa : Nat) (bs : List Byte) : (s.wr pa bs).routing = s.routing := rfl
@[simp] theorem State.wr_linkNet (s : State) (pa : Nat) (bs : List Byte) : (s.wr pa bs).linkNet = s.linkNet := rfl
@[simp] theorem State.wr_binds (s : State) (pa : Nat) (bs : List Byte) : (s.wr pa bs).binds = s.binds := rfl
@[simp] theorem State.wr_linkDown (s : State) (pa : Nat) (bs : List Byte) : (s.wr pa bs).linkDown = s.linkDown := rfl
@[simp] theorem State.wr_reports (s : State) (pa : Nat) (bs : List Byte) : (s.wr pa bs).reports = s.reports := rfl

@[simp] theorem State.wrN_cycles (s : State) (pa n v : Nat) : (s.wrN pa n v).cycles = s.cycles := rfl
@[simp] theorem State.wrN_clocks (s : State) (pa n v : Nat) : (s.wrN pa n v).clocks = s.clocks := rfl
@[simp] theorem State.wrN_clkBase (s : State) (pa n v : Nat) : (s.wrN pa n v).clkBase = s.clkBase := rfl
@[simp] theorem State.wrN_agenda (s : State) (pa n v : Nat) : (s.wrN pa n v).agenda = s.agenda := rfl
@[simp] theorem State.wrN_fresh (s : State) (pa n v : Nat) : (s.wrN pa n v).fresh = s.fresh := rfl
@[simp] theorem State.wrN_nextId (s : State) (pa n v : Nat) : (s.wrN pa n v).nextId = s.nextId := rfl
@[simp] theorem State.wrN_iss (s : State) (pa n v : Nat) : (s.wrN pa n v).iss = s.iss := rfl
@[simp] theorem State.wrN_pipeHold (s : State) (pa n v : Nat) : (s.wrN pa n v).pipeHold = s.pipeHold := rfl
@[simp] theorem State.wrN_pipe (s : State) (pa n v : Nat) : (s.wrN pa n v).pipe = s.pipe := rfl
@[simp] theorem State.wrN_boot (s : State) (pa n v : Nat) : (s.wrN pa n v).boot = s.boot := rfl
@[simp] theorem State.wrN_power (s : State) (pa n v : Nat) : (s.wrN pa n v).power = s.power := rfl
@[simp] theorem State.wrN_host (s : State) (pa n v : Nat) : (s.wrN pa n v).host = s.host := rfl
@[simp] theorem State.wrN_staged (s : State) (pa n v : Nat) : (s.wrN pa n v).staged = s.staged := rfl
@[simp] theorem State.wrN_booting (s : State) (pa n v : Nat) : (s.wrN pa n v).booting = s.booting := rfl
@[simp] theorem State.wrN_image (s : State) (pa n v : Nat) : (s.wrN pa n v).image = s.image := rfl
@[simp] theorem State.wrN_queues (s : State) (pa n v : Nat) : (s.wrN pa n v).queues = s.queues := rfl
@[simp] theorem State.wrN_kernels (s : State) (pa n v : Nat) : (s.wrN pa n v).kernels = s.kernels := rfl
@[simp] theorem State.wrN_teams (s : State) (pa n v : Nat) : (s.wrN pa n v).teams = s.teams := rfl
@[simp] theorem State.wrN_cohorts (s : State) (pa n v : Nat) : (s.wrN pa n v).cohorts = s.cohorts := rfl
@[simp] theorem State.wrN_reqs (s : State) (pa n v : Nat) : (s.wrN pa n v).reqs = s.reqs := rfl
@[simp] theorem State.wrN_cores (s : State) (pa n v : Nat) : (s.wrN pa n v).cores = s.cores := rfl
@[simp] theorem State.wrN_quads (s : State) (pa n v : Nat) : (s.wrN pa n v).quads = s.quads := rfl
@[simp] theorem State.wrN_parts (s : State) (pa n v : Nat) : (s.wrN pa n v).parts = s.parts := rfl
@[simp] theorem State.wrN_dies (s : State) (pa n v : Nat) : (s.wrN pa n v).dies = s.dies := rfl
@[simp] theorem State.wrN_bounds (s : State) (pa n v : Nat) : (s.wrN pa n v).bounds = s.bounds := rfl
@[simp] theorem State.wrN_ctxs (s : State) (pa n v : Nat) : (s.wrN pa n v).ctxs = s.ctxs := rfl
@[simp] theorem State.wrN_ops (s : State) (pa n v : Nat) : (s.wrN pa n v).ops = s.ops := rfl
@[simp] theorem State.wrN_late (s : State) (pa n v : Nat) : (s.wrN pa n v).late = s.late := rfl
@[simp] theorem State.wrN_lines (s : State) (pa n v : Nat) : (s.wrN pa n v).lines = s.lines := rfl
@[simp] theorem State.wrN_torus (s : State) (pa n v : Nat) : (s.wrN pa n v).torus = s.torus := rfl
@[simp] theorem State.wrN_pages (s : State) (pa n v : Nat) : (s.wrN pa n v).pages = s.pages := rfl
@[simp] theorem State.wrN_memErrs (s : State) (pa n v : Nat) : (s.wrN pa n v).memErrs = s.memErrs := rfl
@[simp] theorem State.wrN_domain (s : State) (pa n v : Nat) : (s.wrN pa n v).domain = s.domain := rfl
@[simp] theorem State.wrN_routing (s : State) (pa n v : Nat) : (s.wrN pa n v).routing = s.routing := rfl
@[simp] theorem State.wrN_linkNet (s : State) (pa n v : Nat) : (s.wrN pa n v).linkNet = s.linkNet := rfl
@[simp] theorem State.wrN_binds (s : State) (pa n v : Nat) : (s.wrN pa n v).binds = s.binds := rfl
@[simp] theorem State.wrN_linkDown (s : State) (pa n v : Nat) : (s.wrN pa n v).linkDown = s.linkDown := rfl
@[simp] theorem State.wrN_reports (s : State) (pa n v : Nat) : (s.wrN pa n v).reports = s.reports := rfl

@[simp] theorem State.setLine_mem (s : State) (line : Nat) (v : LineV) : (s.setLine line v).mem = s.mem := rfl
@[simp] theorem State.setLine_cycles (s : State) (line : Nat) (v : LineV) : (s.setLine line v).cycles = s.cycles := rfl
@[simp] theorem State.setLine_clocks (s : State) (line : Nat) (v : LineV) : (s.setLine line v).clocks = s.clocks := rfl
@[simp] theorem State.setLine_clkBase (s : State) (line : Nat) (v : LineV) : (s.setLine line v).clkBase = s.clkBase := rfl
@[simp] theorem State.setLine_agenda (s : State) (line : Nat) (v : LineV) : (s.setLine line v).agenda = s.agenda := rfl
@[simp] theorem State.setLine_fresh (s : State) (line : Nat) (v : LineV) : (s.setLine line v).fresh = s.fresh := rfl
@[simp] theorem State.setLine_nextId (s : State) (line : Nat) (v : LineV) : (s.setLine line v).nextId = s.nextId := rfl
@[simp] theorem State.setLine_iss (s : State) (line : Nat) (v : LineV) : (s.setLine line v).iss = s.iss := rfl
@[simp] theorem State.setLine_pipeHold (s : State) (line : Nat) (v : LineV) : (s.setLine line v).pipeHold = s.pipeHold := rfl
@[simp] theorem State.setLine_pipe (s : State) (line : Nat) (v : LineV) : (s.setLine line v).pipe = s.pipe := rfl
@[simp] theorem State.setLine_boot (s : State) (line : Nat) (v : LineV) : (s.setLine line v).boot = s.boot := rfl
@[simp] theorem State.setLine_power (s : State) (line : Nat) (v : LineV) : (s.setLine line v).power = s.power := rfl
@[simp] theorem State.setLine_host (s : State) (line : Nat) (v : LineV) : (s.setLine line v).host = s.host := rfl
@[simp] theorem State.setLine_staged (s : State) (line : Nat) (v : LineV) : (s.setLine line v).staged = s.staged := rfl
@[simp] theorem State.setLine_booting (s : State) (line : Nat) (v : LineV) : (s.setLine line v).booting = s.booting := rfl
@[simp] theorem State.setLine_image (s : State) (line : Nat) (v : LineV) : (s.setLine line v).image = s.image := rfl
@[simp] theorem State.setLine_queues (s : State) (line : Nat) (v : LineV) : (s.setLine line v).queues = s.queues := rfl
@[simp] theorem State.setLine_kernels (s : State) (line : Nat) (v : LineV) : (s.setLine line v).kernels = s.kernels := rfl
@[simp] theorem State.setLine_teams (s : State) (line : Nat) (v : LineV) : (s.setLine line v).teams = s.teams := rfl
@[simp] theorem State.setLine_cohorts (s : State) (line : Nat) (v : LineV) : (s.setLine line v).cohorts = s.cohorts := rfl
@[simp] theorem State.setLine_reqs (s : State) (line : Nat) (v : LineV) : (s.setLine line v).reqs = s.reqs := rfl
@[simp] theorem State.setLine_groups (s : State) (line : Nat) (v : LineV) : (s.setLine line v).groups = s.groups := rfl
@[simp] theorem State.setLine_cores (s : State) (line : Nat) (v : LineV) : (s.setLine line v).cores = s.cores := rfl
@[simp] theorem State.setLine_quads (s : State) (line : Nat) (v : LineV) : (s.setLine line v).quads = s.quads := rfl
@[simp] theorem State.setLine_parts (s : State) (line : Nat) (v : LineV) : (s.setLine line v).parts = s.parts := rfl
@[simp] theorem State.setLine_dies (s : State) (line : Nat) (v : LineV) : (s.setLine line v).dies = s.dies := rfl
@[simp] theorem State.setLine_bounds (s : State) (line : Nat) (v : LineV) : (s.setLine line v).bounds = s.bounds := rfl
@[simp] theorem State.setLine_ctxs (s : State) (line : Nat) (v : LineV) : (s.setLine line v).ctxs = s.ctxs := rfl
@[simp] theorem State.setLine_ops (s : State) (line : Nat) (v : LineV) : (s.setLine line v).ops = s.ops := rfl
@[simp] theorem State.setLine_late (s : State) (line : Nat) (v : LineV) : (s.setLine line v).late = s.late := rfl
@[simp] theorem State.setLine_torus (s : State) (line : Nat) (v : LineV) : (s.setLine line v).torus = s.torus := rfl
@[simp] theorem State.setLine_pages (s : State) (line : Nat) (v : LineV) : (s.setLine line v).pages = s.pages := rfl
@[simp] theorem State.setLine_memErrs (s : State) (line : Nat) (v : LineV) : (s.setLine line v).memErrs = s.memErrs := rfl
@[simp] theorem State.setLine_domain (s : State) (line : Nat) (v : LineV) : (s.setLine line v).domain = s.domain := rfl
@[simp] theorem State.setLine_routing (s : State) (line : Nat) (v : LineV) : (s.setLine line v).routing = s.routing := rfl
@[simp] theorem State.setLine_linkNet (s : State) (line : Nat) (v : LineV) : (s.setLine line v).linkNet = s.linkNet := rfl
@[simp] theorem State.setLine_binds (s : State) (line : Nat) (v : LineV) : (s.setLine line v).binds = s.binds := rfl
@[simp] theorem State.setLine_linkDown (s : State) (line : Nat) (v : LineV) : (s.setLine line v).linkDown = s.linkDown := rfl
@[simp] theorem State.setLine_reports (s : State) (line : Nat) (v : LineV) : (s.setLine line v).reports = s.reports := rfl

@[simp] theorem State.modCtx_mem (s : State) (c : Nat) (f : Ctx → Ctx) : (s.modCtx c f).mem = s.mem := rfl
@[simp] theorem State.modCtx_cycles (s : State) (c : Nat) (f : Ctx → Ctx) : (s.modCtx c f).cycles = s.cycles := rfl
@[simp] theorem State.modCtx_clocks (s : State) (c : Nat) (f : Ctx → Ctx) : (s.modCtx c f).clocks = s.clocks := rfl
@[simp] theorem State.modCtx_clkBase (s : State) (c : Nat) (f : Ctx → Ctx) : (s.modCtx c f).clkBase = s.clkBase := rfl
@[simp] theorem State.modCtx_agenda (s : State) (c : Nat) (f : Ctx → Ctx) : (s.modCtx c f).agenda = s.agenda := rfl
@[simp] theorem State.modCtx_fresh (s : State) (c : Nat) (f : Ctx → Ctx) : (s.modCtx c f).fresh = s.fresh := rfl
@[simp] theorem State.modCtx_nextId (s : State) (c : Nat) (f : Ctx → Ctx) : (s.modCtx c f).nextId = s.nextId := rfl
@[simp] theorem State.modCtx_iss (s : State) (c : Nat) (f : Ctx → Ctx) : (s.modCtx c f).iss = s.iss := rfl
@[simp] theorem State.modCtx_pipeHold (s : State) (c : Nat) (f : Ctx → Ctx) : (s.modCtx c f).pipeHold = s.pipeHold := rfl
@[simp] theorem State.modCtx_pipe (s : State) (c : Nat) (f : Ctx → Ctx) : (s.modCtx c f).pipe = s.pipe := rfl
@[simp] theorem State.modCtx_boot (s : State) (c : Nat) (f : Ctx → Ctx) : (s.modCtx c f).boot = s.boot := rfl
@[simp] theorem State.modCtx_power (s : State) (c : Nat) (f : Ctx → Ctx) : (s.modCtx c f).power = s.power := rfl
@[simp] theorem State.modCtx_host (s : State) (c : Nat) (f : Ctx → Ctx) : (s.modCtx c f).host = s.host := rfl
@[simp] theorem State.modCtx_staged (s : State) (c : Nat) (f : Ctx → Ctx) : (s.modCtx c f).staged = s.staged := rfl
@[simp] theorem State.modCtx_booting (s : State) (c : Nat) (f : Ctx → Ctx) : (s.modCtx c f).booting = s.booting := rfl
@[simp] theorem State.modCtx_image (s : State) (c : Nat) (f : Ctx → Ctx) : (s.modCtx c f).image = s.image := rfl
@[simp] theorem State.modCtx_queues (s : State) (c : Nat) (f : Ctx → Ctx) : (s.modCtx c f).queues = s.queues := rfl
@[simp] theorem State.modCtx_kernels (s : State) (c : Nat) (f : Ctx → Ctx) : (s.modCtx c f).kernels = s.kernels := rfl
@[simp] theorem State.modCtx_teams (s : State) (c : Nat) (f : Ctx → Ctx) : (s.modCtx c f).teams = s.teams := rfl
@[simp] theorem State.modCtx_cohorts (s : State) (c : Nat) (f : Ctx → Ctx) : (s.modCtx c f).cohorts = s.cohorts := rfl
@[simp] theorem State.modCtx_reqs (s : State) (c : Nat) (f : Ctx → Ctx) : (s.modCtx c f).reqs = s.reqs := rfl
@[simp] theorem State.modCtx_groups (s : State) (c : Nat) (f : Ctx → Ctx) : (s.modCtx c f).groups = s.groups := rfl
@[simp] theorem State.modCtx_cores (s : State) (c : Nat) (f : Ctx → Ctx) : (s.modCtx c f).cores = s.cores := rfl
@[simp] theorem State.modCtx_quads (s : State) (c : Nat) (f : Ctx → Ctx) : (s.modCtx c f).quads = s.quads := rfl
@[simp] theorem State.modCtx_parts (s : State) (c : Nat) (f : Ctx → Ctx) : (s.modCtx c f).parts = s.parts := rfl
@[simp] theorem State.modCtx_dies (s : State) (c : Nat) (f : Ctx → Ctx) : (s.modCtx c f).dies = s.dies := rfl
@[simp] theorem State.modCtx_bounds (s : State) (c : Nat) (f : Ctx → Ctx) : (s.modCtx c f).bounds = s.bounds := rfl
@[simp] theorem State.modCtx_ops (s : State) (c : Nat) (f : Ctx → Ctx) : (s.modCtx c f).ops = s.ops := rfl
@[simp] theorem State.modCtx_late (s : State) (c : Nat) (f : Ctx → Ctx) : (s.modCtx c f).late = s.late := rfl
@[simp] theorem State.modCtx_lines (s : State) (c : Nat) (f : Ctx → Ctx) : (s.modCtx c f).lines = s.lines := rfl
@[simp] theorem State.modCtx_torus (s : State) (c : Nat) (f : Ctx → Ctx) : (s.modCtx c f).torus = s.torus := rfl
@[simp] theorem State.modCtx_pages (s : State) (c : Nat) (f : Ctx → Ctx) : (s.modCtx c f).pages = s.pages := rfl
@[simp] theorem State.modCtx_memErrs (s : State) (c : Nat) (f : Ctx → Ctx) : (s.modCtx c f).memErrs = s.memErrs := rfl
@[simp] theorem State.modCtx_domain (s : State) (c : Nat) (f : Ctx → Ctx) : (s.modCtx c f).domain = s.domain := rfl
@[simp] theorem State.modCtx_routing (s : State) (c : Nat) (f : Ctx → Ctx) : (s.modCtx c f).routing = s.routing := rfl
@[simp] theorem State.modCtx_linkNet (s : State) (c : Nat) (f : Ctx → Ctx) : (s.modCtx c f).linkNet = s.linkNet := rfl
@[simp] theorem State.modCtx_binds (s : State) (c : Nat) (f : Ctx → Ctx) : (s.modCtx c f).binds = s.binds := rfl
@[simp] theorem State.modCtx_linkDown (s : State) (c : Nat) (f : Ctx → Ctx) : (s.modCtx c f).linkDown = s.linkDown := rfl
@[simp] theorem State.modCtx_reports (s : State) (c : Nat) (f : Ctx → Ctx) : (s.modCtx c f).reports = s.reports := rfl

@[simp] theorem State.modCore_mem (s : State) (c : Nat) (f : Core → Core) : (s.modCore c f).mem = s.mem := rfl
@[simp] theorem State.modCore_cycles (s : State) (c : Nat) (f : Core → Core) : (s.modCore c f).cycles = s.cycles := rfl
@[simp] theorem State.modCore_clocks (s : State) (c : Nat) (f : Core → Core) : (s.modCore c f).clocks = s.clocks := rfl
@[simp] theorem State.modCore_clkBase (s : State) (c : Nat) (f : Core → Core) : (s.modCore c f).clkBase = s.clkBase := rfl
@[simp] theorem State.modCore_agenda (s : State) (c : Nat) (f : Core → Core) : (s.modCore c f).agenda = s.agenda := rfl
@[simp] theorem State.modCore_fresh (s : State) (c : Nat) (f : Core → Core) : (s.modCore c f).fresh = s.fresh := rfl
@[simp] theorem State.modCore_nextId (s : State) (c : Nat) (f : Core → Core) : (s.modCore c f).nextId = s.nextId := rfl
@[simp] theorem State.modCore_iss (s : State) (c : Nat) (f : Core → Core) : (s.modCore c f).iss = s.iss := rfl
@[simp] theorem State.modCore_pipeHold (s : State) (c : Nat) (f : Core → Core) : (s.modCore c f).pipeHold = s.pipeHold := rfl
@[simp] theorem State.modCore_pipe (s : State) (c : Nat) (f : Core → Core) : (s.modCore c f).pipe = s.pipe := rfl
@[simp] theorem State.modCore_boot (s : State) (c : Nat) (f : Core → Core) : (s.modCore c f).boot = s.boot := rfl
@[simp] theorem State.modCore_power (s : State) (c : Nat) (f : Core → Core) : (s.modCore c f).power = s.power := rfl
@[simp] theorem State.modCore_host (s : State) (c : Nat) (f : Core → Core) : (s.modCore c f).host = s.host := rfl
@[simp] theorem State.modCore_staged (s : State) (c : Nat) (f : Core → Core) : (s.modCore c f).staged = s.staged := rfl
@[simp] theorem State.modCore_booting (s : State) (c : Nat) (f : Core → Core) : (s.modCore c f).booting = s.booting := rfl
@[simp] theorem State.modCore_image (s : State) (c : Nat) (f : Core → Core) : (s.modCore c f).image = s.image := rfl
@[simp] theorem State.modCore_queues (s : State) (c : Nat) (f : Core → Core) : (s.modCore c f).queues = s.queues := rfl
@[simp] theorem State.modCore_kernels (s : State) (c : Nat) (f : Core → Core) : (s.modCore c f).kernels = s.kernels := rfl
@[simp] theorem State.modCore_teams (s : State) (c : Nat) (f : Core → Core) : (s.modCore c f).teams = s.teams := rfl
@[simp] theorem State.modCore_cohorts (s : State) (c : Nat) (f : Core → Core) : (s.modCore c f).cohorts = s.cohorts := rfl
@[simp] theorem State.modCore_reqs (s : State) (c : Nat) (f : Core → Core) : (s.modCore c f).reqs = s.reqs := rfl
@[simp] theorem State.modCore_groups (s : State) (c : Nat) (f : Core → Core) : (s.modCore c f).groups = s.groups := rfl
@[simp] theorem State.modCore_quads (s : State) (c : Nat) (f : Core → Core) : (s.modCore c f).quads = s.quads := rfl
@[simp] theorem State.modCore_parts (s : State) (c : Nat) (f : Core → Core) : (s.modCore c f).parts = s.parts := rfl
@[simp] theorem State.modCore_dies (s : State) (c : Nat) (f : Core → Core) : (s.modCore c f).dies = s.dies := rfl
@[simp] theorem State.modCore_bounds (s : State) (c : Nat) (f : Core → Core) : (s.modCore c f).bounds = s.bounds := rfl
@[simp] theorem State.modCore_ctxs (s : State) (c : Nat) (f : Core → Core) : (s.modCore c f).ctxs = s.ctxs := rfl
@[simp] theorem State.modCore_ops (s : State) (c : Nat) (f : Core → Core) : (s.modCore c f).ops = s.ops := rfl
@[simp] theorem State.modCore_late (s : State) (c : Nat) (f : Core → Core) : (s.modCore c f).late = s.late := rfl
@[simp] theorem State.modCore_lines (s : State) (c : Nat) (f : Core → Core) : (s.modCore c f).lines = s.lines := rfl
@[simp] theorem State.modCore_torus (s : State) (c : Nat) (f : Core → Core) : (s.modCore c f).torus = s.torus := rfl
@[simp] theorem State.modCore_pages (s : State) (c : Nat) (f : Core → Core) : (s.modCore c f).pages = s.pages := rfl
@[simp] theorem State.modCore_memErrs (s : State) (c : Nat) (f : Core → Core) : (s.modCore c f).memErrs = s.memErrs := rfl
@[simp] theorem State.modCore_domain (s : State) (c : Nat) (f : Core → Core) : (s.modCore c f).domain = s.domain := rfl
@[simp] theorem State.modCore_routing (s : State) (c : Nat) (f : Core → Core) : (s.modCore c f).routing = s.routing := rfl
@[simp] theorem State.modCore_linkNet (s : State) (c : Nat) (f : Core → Core) : (s.modCore c f).linkNet = s.linkNet := rfl
@[simp] theorem State.modCore_binds (s : State) (c : Nat) (f : Core → Core) : (s.modCore c f).binds = s.binds := rfl
@[simp] theorem State.modCore_linkDown (s : State) (c : Nat) (f : Core → Core) : (s.modCore c f).linkDown = s.linkDown := rfl
@[simp] theorem State.modCore_reports (s : State) (c : Nat) (f : Core → Core) : (s.modCore c f).reports = s.reports := rfl

@[simp] theorem State.modQuad_mem (s : State) (q : Nat) (f : Quad → Quad) : (s.modQuad q f).mem = s.mem := rfl
@[simp] theorem State.modQuad_cycles (s : State) (q : Nat) (f : Quad → Quad) : (s.modQuad q f).cycles = s.cycles := rfl
@[simp] theorem State.modQuad_clocks (s : State) (q : Nat) (f : Quad → Quad) : (s.modQuad q f).clocks = s.clocks := rfl
@[simp] theorem State.modQuad_clkBase (s : State) (q : Nat) (f : Quad → Quad) : (s.modQuad q f).clkBase = s.clkBase := rfl
@[simp] theorem State.modQuad_agenda (s : State) (q : Nat) (f : Quad → Quad) : (s.modQuad q f).agenda = s.agenda := rfl
@[simp] theorem State.modQuad_fresh (s : State) (q : Nat) (f : Quad → Quad) : (s.modQuad q f).fresh = s.fresh := rfl
@[simp] theorem State.modQuad_nextId (s : State) (q : Nat) (f : Quad → Quad) : (s.modQuad q f).nextId = s.nextId := rfl
@[simp] theorem State.modQuad_iss (s : State) (q : Nat) (f : Quad → Quad) : (s.modQuad q f).iss = s.iss := rfl
@[simp] theorem State.modQuad_pipeHold (s : State) (q : Nat) (f : Quad → Quad) : (s.modQuad q f).pipeHold = s.pipeHold := rfl
@[simp] theorem State.modQuad_pipe (s : State) (q : Nat) (f : Quad → Quad) : (s.modQuad q f).pipe = s.pipe := rfl
@[simp] theorem State.modQuad_boot (s : State) (q : Nat) (f : Quad → Quad) : (s.modQuad q f).boot = s.boot := rfl
@[simp] theorem State.modQuad_power (s : State) (q : Nat) (f : Quad → Quad) : (s.modQuad q f).power = s.power := rfl
@[simp] theorem State.modQuad_host (s : State) (q : Nat) (f : Quad → Quad) : (s.modQuad q f).host = s.host := rfl
@[simp] theorem State.modQuad_staged (s : State) (q : Nat) (f : Quad → Quad) : (s.modQuad q f).staged = s.staged := rfl
@[simp] theorem State.modQuad_booting (s : State) (q : Nat) (f : Quad → Quad) : (s.modQuad q f).booting = s.booting := rfl
@[simp] theorem State.modQuad_image (s : State) (q : Nat) (f : Quad → Quad) : (s.modQuad q f).image = s.image := rfl
@[simp] theorem State.modQuad_queues (s : State) (q : Nat) (f : Quad → Quad) : (s.modQuad q f).queues = s.queues := rfl
@[simp] theorem State.modQuad_kernels (s : State) (q : Nat) (f : Quad → Quad) : (s.modQuad q f).kernels = s.kernels := rfl
@[simp] theorem State.modQuad_teams (s : State) (q : Nat) (f : Quad → Quad) : (s.modQuad q f).teams = s.teams := rfl
@[simp] theorem State.modQuad_cohorts (s : State) (q : Nat) (f : Quad → Quad) : (s.modQuad q f).cohorts = s.cohorts := rfl
@[simp] theorem State.modQuad_reqs (s : State) (q : Nat) (f : Quad → Quad) : (s.modQuad q f).reqs = s.reqs := rfl
@[simp] theorem State.modQuad_groups (s : State) (q : Nat) (f : Quad → Quad) : (s.modQuad q f).groups = s.groups := rfl
@[simp] theorem State.modQuad_cores (s : State) (q : Nat) (f : Quad → Quad) : (s.modQuad q f).cores = s.cores := rfl
@[simp] theorem State.modQuad_parts (s : State) (q : Nat) (f : Quad → Quad) : (s.modQuad q f).parts = s.parts := rfl
@[simp] theorem State.modQuad_dies (s : State) (q : Nat) (f : Quad → Quad) : (s.modQuad q f).dies = s.dies := rfl
@[simp] theorem State.modQuad_bounds (s : State) (q : Nat) (f : Quad → Quad) : (s.modQuad q f).bounds = s.bounds := rfl
@[simp] theorem State.modQuad_ctxs (s : State) (q : Nat) (f : Quad → Quad) : (s.modQuad q f).ctxs = s.ctxs := rfl
@[simp] theorem State.modQuad_ops (s : State) (q : Nat) (f : Quad → Quad) : (s.modQuad q f).ops = s.ops := rfl
@[simp] theorem State.modQuad_late (s : State) (q : Nat) (f : Quad → Quad) : (s.modQuad q f).late = s.late := rfl
@[simp] theorem State.modQuad_lines (s : State) (q : Nat) (f : Quad → Quad) : (s.modQuad q f).lines = s.lines := rfl
@[simp] theorem State.modQuad_torus (s : State) (q : Nat) (f : Quad → Quad) : (s.modQuad q f).torus = s.torus := rfl
@[simp] theorem State.modQuad_pages (s : State) (q : Nat) (f : Quad → Quad) : (s.modQuad q f).pages = s.pages := rfl
@[simp] theorem State.modQuad_memErrs (s : State) (q : Nat) (f : Quad → Quad) : (s.modQuad q f).memErrs = s.memErrs := rfl
@[simp] theorem State.modQuad_domain (s : State) (q : Nat) (f : Quad → Quad) : (s.modQuad q f).domain = s.domain := rfl
@[simp] theorem State.modQuad_routing (s : State) (q : Nat) (f : Quad → Quad) : (s.modQuad q f).routing = s.routing := rfl
@[simp] theorem State.modQuad_linkNet (s : State) (q : Nat) (f : Quad → Quad) : (s.modQuad q f).linkNet = s.linkNet := rfl
@[simp] theorem State.modQuad_binds (s : State) (q : Nat) (f : Quad → Quad) : (s.modQuad q f).binds = s.binds := rfl
@[simp] theorem State.modQuad_linkDown (s : State) (q : Nat) (f : Quad → Quad) : (s.modQuad q f).linkDown = s.linkDown := rfl
@[simp] theorem State.modQuad_reports (s : State) (q : Nat) (f : Quad → Quad) : (s.modQuad q f).reports = s.reports := rfl

@[simp] theorem State.modPart_mem (s : State) (q : Nat) (f : Part → Part) : (s.modPart q f).mem = s.mem := rfl
@[simp] theorem State.modPart_cycles (s : State) (q : Nat) (f : Part → Part) : (s.modPart q f).cycles = s.cycles := rfl
@[simp] theorem State.modPart_clocks (s : State) (q : Nat) (f : Part → Part) : (s.modPart q f).clocks = s.clocks := rfl
@[simp] theorem State.modPart_clkBase (s : State) (q : Nat) (f : Part → Part) : (s.modPart q f).clkBase = s.clkBase := rfl
@[simp] theorem State.modPart_agenda (s : State) (q : Nat) (f : Part → Part) : (s.modPart q f).agenda = s.agenda := rfl
@[simp] theorem State.modPart_fresh (s : State) (q : Nat) (f : Part → Part) : (s.modPart q f).fresh = s.fresh := rfl
@[simp] theorem State.modPart_nextId (s : State) (q : Nat) (f : Part → Part) : (s.modPart q f).nextId = s.nextId := rfl
@[simp] theorem State.modPart_iss (s : State) (q : Nat) (f : Part → Part) : (s.modPart q f).iss = s.iss := rfl
@[simp] theorem State.modPart_pipeHold (s : State) (q : Nat) (f : Part → Part) : (s.modPart q f).pipeHold = s.pipeHold := rfl
@[simp] theorem State.modPart_pipe (s : State) (q : Nat) (f : Part → Part) : (s.modPart q f).pipe = s.pipe := rfl
@[simp] theorem State.modPart_boot (s : State) (q : Nat) (f : Part → Part) : (s.modPart q f).boot = s.boot := rfl
@[simp] theorem State.modPart_power (s : State) (q : Nat) (f : Part → Part) : (s.modPart q f).power = s.power := rfl
@[simp] theorem State.modPart_host (s : State) (q : Nat) (f : Part → Part) : (s.modPart q f).host = s.host := rfl
@[simp] theorem State.modPart_staged (s : State) (q : Nat) (f : Part → Part) : (s.modPart q f).staged = s.staged := rfl
@[simp] theorem State.modPart_booting (s : State) (q : Nat) (f : Part → Part) : (s.modPart q f).booting = s.booting := rfl
@[simp] theorem State.modPart_image (s : State) (q : Nat) (f : Part → Part) : (s.modPart q f).image = s.image := rfl
@[simp] theorem State.modPart_queues (s : State) (q : Nat) (f : Part → Part) : (s.modPart q f).queues = s.queues := rfl
@[simp] theorem State.modPart_kernels (s : State) (q : Nat) (f : Part → Part) : (s.modPart q f).kernels = s.kernels := rfl
@[simp] theorem State.modPart_teams (s : State) (q : Nat) (f : Part → Part) : (s.modPart q f).teams = s.teams := rfl
@[simp] theorem State.modPart_cohorts (s : State) (q : Nat) (f : Part → Part) : (s.modPart q f).cohorts = s.cohorts := rfl
@[simp] theorem State.modPart_reqs (s : State) (q : Nat) (f : Part → Part) : (s.modPart q f).reqs = s.reqs := rfl
@[simp] theorem State.modPart_groups (s : State) (q : Nat) (f : Part → Part) : (s.modPart q f).groups = s.groups := rfl
@[simp] theorem State.modPart_cores (s : State) (q : Nat) (f : Part → Part) : (s.modPart q f).cores = s.cores := rfl
@[simp] theorem State.modPart_quads (s : State) (q : Nat) (f : Part → Part) : (s.modPart q f).quads = s.quads := rfl
@[simp] theorem State.modPart_dies (s : State) (q : Nat) (f : Part → Part) : (s.modPart q f).dies = s.dies := rfl
@[simp] theorem State.modPart_bounds (s : State) (q : Nat) (f : Part → Part) : (s.modPart q f).bounds = s.bounds := rfl
@[simp] theorem State.modPart_ctxs (s : State) (q : Nat) (f : Part → Part) : (s.modPart q f).ctxs = s.ctxs := rfl
@[simp] theorem State.modPart_ops (s : State) (q : Nat) (f : Part → Part) : (s.modPart q f).ops = s.ops := rfl
@[simp] theorem State.modPart_late (s : State) (q : Nat) (f : Part → Part) : (s.modPart q f).late = s.late := rfl
@[simp] theorem State.modPart_lines (s : State) (q : Nat) (f : Part → Part) : (s.modPart q f).lines = s.lines := rfl
@[simp] theorem State.modPart_torus (s : State) (q : Nat) (f : Part → Part) : (s.modPart q f).torus = s.torus := rfl
@[simp] theorem State.modPart_pages (s : State) (q : Nat) (f : Part → Part) : (s.modPart q f).pages = s.pages := rfl
@[simp] theorem State.modPart_memErrs (s : State) (q : Nat) (f : Part → Part) : (s.modPart q f).memErrs = s.memErrs := rfl
@[simp] theorem State.modPart_domain (s : State) (q : Nat) (f : Part → Part) : (s.modPart q f).domain = s.domain := rfl
@[simp] theorem State.modPart_routing (s : State) (q : Nat) (f : Part → Part) : (s.modPart q f).routing = s.routing := rfl
@[simp] theorem State.modPart_linkNet (s : State) (q : Nat) (f : Part → Part) : (s.modPart q f).linkNet = s.linkNet := rfl
@[simp] theorem State.modPart_binds (s : State) (q : Nat) (f : Part → Part) : (s.modPart q f).binds = s.binds := rfl
@[simp] theorem State.modPart_linkDown (s : State) (q : Nat) (f : Part → Part) : (s.modPart q f).linkDown = s.linkDown := rfl
@[simp] theorem State.modPart_reports (s : State) (q : Nat) (f : Part → Part) : (s.modPart q f).reports = s.reports := rfl

@[simp] theorem State.modDie_mem (s : State) (d : Nat) (f : Die → Die) : (s.modDie d f).mem = s.mem := rfl
@[simp] theorem State.modDie_cycles (s : State) (d : Nat) (f : Die → Die) : (s.modDie d f).cycles = s.cycles := rfl
@[simp] theorem State.modDie_clocks (s : State) (d : Nat) (f : Die → Die) : (s.modDie d f).clocks = s.clocks := rfl
@[simp] theorem State.modDie_clkBase (s : State) (d : Nat) (f : Die → Die) : (s.modDie d f).clkBase = s.clkBase := rfl
@[simp] theorem State.modDie_agenda (s : State) (d : Nat) (f : Die → Die) : (s.modDie d f).agenda = s.agenda := rfl
@[simp] theorem State.modDie_fresh (s : State) (d : Nat) (f : Die → Die) : (s.modDie d f).fresh = s.fresh := rfl
@[simp] theorem State.modDie_nextId (s : State) (d : Nat) (f : Die → Die) : (s.modDie d f).nextId = s.nextId := rfl
@[simp] theorem State.modDie_iss (s : State) (d : Nat) (f : Die → Die) : (s.modDie d f).iss = s.iss := rfl
@[simp] theorem State.modDie_pipeHold (s : State) (d : Nat) (f : Die → Die) : (s.modDie d f).pipeHold = s.pipeHold := rfl
@[simp] theorem State.modDie_pipe (s : State) (d : Nat) (f : Die → Die) : (s.modDie d f).pipe = s.pipe := rfl
@[simp] theorem State.modDie_boot (s : State) (d : Nat) (f : Die → Die) : (s.modDie d f).boot = s.boot := rfl
@[simp] theorem State.modDie_power (s : State) (d : Nat) (f : Die → Die) : (s.modDie d f).power = s.power := rfl
@[simp] theorem State.modDie_host (s : State) (d : Nat) (f : Die → Die) : (s.modDie d f).host = s.host := rfl
@[simp] theorem State.modDie_staged (s : State) (d : Nat) (f : Die → Die) : (s.modDie d f).staged = s.staged := rfl
@[simp] theorem State.modDie_booting (s : State) (d : Nat) (f : Die → Die) : (s.modDie d f).booting = s.booting := rfl
@[simp] theorem State.modDie_image (s : State) (d : Nat) (f : Die → Die) : (s.modDie d f).image = s.image := rfl
@[simp] theorem State.modDie_queues (s : State) (d : Nat) (f : Die → Die) : (s.modDie d f).queues = s.queues := rfl
@[simp] theorem State.modDie_kernels (s : State) (d : Nat) (f : Die → Die) : (s.modDie d f).kernels = s.kernels := rfl
@[simp] theorem State.modDie_teams (s : State) (d : Nat) (f : Die → Die) : (s.modDie d f).teams = s.teams := rfl
@[simp] theorem State.modDie_cohorts (s : State) (d : Nat) (f : Die → Die) : (s.modDie d f).cohorts = s.cohorts := rfl
@[simp] theorem State.modDie_reqs (s : State) (d : Nat) (f : Die → Die) : (s.modDie d f).reqs = s.reqs := rfl
@[simp] theorem State.modDie_groups (s : State) (d : Nat) (f : Die → Die) : (s.modDie d f).groups = s.groups := rfl
@[simp] theorem State.modDie_cores (s : State) (d : Nat) (f : Die → Die) : (s.modDie d f).cores = s.cores := rfl
@[simp] theorem State.modDie_quads (s : State) (d : Nat) (f : Die → Die) : (s.modDie d f).quads = s.quads := rfl
@[simp] theorem State.modDie_parts (s : State) (d : Nat) (f : Die → Die) : (s.modDie d f).parts = s.parts := rfl
@[simp] theorem State.modDie_bounds (s : State) (d : Nat) (f : Die → Die) : (s.modDie d f).bounds = s.bounds := rfl
@[simp] theorem State.modDie_ctxs (s : State) (d : Nat) (f : Die → Die) : (s.modDie d f).ctxs = s.ctxs := rfl
@[simp] theorem State.modDie_ops (s : State) (d : Nat) (f : Die → Die) : (s.modDie d f).ops = s.ops := rfl
@[simp] theorem State.modDie_late (s : State) (d : Nat) (f : Die → Die) : (s.modDie d f).late = s.late := rfl
@[simp] theorem State.modDie_lines (s : State) (d : Nat) (f : Die → Die) : (s.modDie d f).lines = s.lines := rfl
@[simp] theorem State.modDie_torus (s : State) (d : Nat) (f : Die → Die) : (s.modDie d f).torus = s.torus := rfl
@[simp] theorem State.modDie_pages (s : State) (d : Nat) (f : Die → Die) : (s.modDie d f).pages = s.pages := rfl
@[simp] theorem State.modDie_memErrs (s : State) (d : Nat) (f : Die → Die) : (s.modDie d f).memErrs = s.memErrs := rfl
@[simp] theorem State.modDie_domain (s : State) (d : Nat) (f : Die → Die) : (s.modDie d f).domain = s.domain := rfl
@[simp] theorem State.modDie_routing (s : State) (d : Nat) (f : Die → Die) : (s.modDie d f).routing = s.routing := rfl
@[simp] theorem State.modDie_linkNet (s : State) (d : Nat) (f : Die → Die) : (s.modDie d f).linkNet = s.linkNet := rfl
@[simp] theorem State.modDie_binds (s : State) (d : Nat) (f : Die → Die) : (s.modDie d f).binds = s.binds := rfl
@[simp] theorem State.modDie_linkDown (s : State) (d : Nat) (f : Die → Die) : (s.modDie d f).linkDown = s.linkDown := rfl
@[simp] theorem State.modDie_reports (s : State) (d : Nat) (f : Die → Die) : (s.modDie d f).reports = s.reports := rfl

@[simp] theorem State.modBound_mem (s : State) (b : Nat) (f : Bound → Bound) : (s.modBound b f).mem = s.mem := rfl
@[simp] theorem State.modBound_cycles (s : State) (b : Nat) (f : Bound → Bound) : (s.modBound b f).cycles = s.cycles := rfl
@[simp] theorem State.modBound_clocks (s : State) (b : Nat) (f : Bound → Bound) : (s.modBound b f).clocks = s.clocks := rfl
@[simp] theorem State.modBound_clkBase (s : State) (b : Nat) (f : Bound → Bound) : (s.modBound b f).clkBase = s.clkBase := rfl
@[simp] theorem State.modBound_agenda (s : State) (b : Nat) (f : Bound → Bound) : (s.modBound b f).agenda = s.agenda := rfl
@[simp] theorem State.modBound_fresh (s : State) (b : Nat) (f : Bound → Bound) : (s.modBound b f).fresh = s.fresh := rfl
@[simp] theorem State.modBound_nextId (s : State) (b : Nat) (f : Bound → Bound) : (s.modBound b f).nextId = s.nextId := rfl
@[simp] theorem State.modBound_iss (s : State) (b : Nat) (f : Bound → Bound) : (s.modBound b f).iss = s.iss := rfl
@[simp] theorem State.modBound_pipeHold (s : State) (b : Nat) (f : Bound → Bound) : (s.modBound b f).pipeHold = s.pipeHold := rfl
@[simp] theorem State.modBound_pipe (s : State) (b : Nat) (f : Bound → Bound) : (s.modBound b f).pipe = s.pipe := rfl
@[simp] theorem State.modBound_boot (s : State) (b : Nat) (f : Bound → Bound) : (s.modBound b f).boot = s.boot := rfl
@[simp] theorem State.modBound_power (s : State) (b : Nat) (f : Bound → Bound) : (s.modBound b f).power = s.power := rfl
@[simp] theorem State.modBound_host (s : State) (b : Nat) (f : Bound → Bound) : (s.modBound b f).host = s.host := rfl
@[simp] theorem State.modBound_staged (s : State) (b : Nat) (f : Bound → Bound) : (s.modBound b f).staged = s.staged := rfl
@[simp] theorem State.modBound_booting (s : State) (b : Nat) (f : Bound → Bound) : (s.modBound b f).booting = s.booting := rfl
@[simp] theorem State.modBound_image (s : State) (b : Nat) (f : Bound → Bound) : (s.modBound b f).image = s.image := rfl
@[simp] theorem State.modBound_queues (s : State) (b : Nat) (f : Bound → Bound) : (s.modBound b f).queues = s.queues := rfl
@[simp] theorem State.modBound_kernels (s : State) (b : Nat) (f : Bound → Bound) : (s.modBound b f).kernels = s.kernels := rfl
@[simp] theorem State.modBound_teams (s : State) (b : Nat) (f : Bound → Bound) : (s.modBound b f).teams = s.teams := rfl
@[simp] theorem State.modBound_cohorts (s : State) (b : Nat) (f : Bound → Bound) : (s.modBound b f).cohorts = s.cohorts := rfl
@[simp] theorem State.modBound_reqs (s : State) (b : Nat) (f : Bound → Bound) : (s.modBound b f).reqs = s.reqs := rfl
@[simp] theorem State.modBound_groups (s : State) (b : Nat) (f : Bound → Bound) : (s.modBound b f).groups = s.groups := rfl
@[simp] theorem State.modBound_cores (s : State) (b : Nat) (f : Bound → Bound) : (s.modBound b f).cores = s.cores := rfl
@[simp] theorem State.modBound_quads (s : State) (b : Nat) (f : Bound → Bound) : (s.modBound b f).quads = s.quads := rfl
@[simp] theorem State.modBound_parts (s : State) (b : Nat) (f : Bound → Bound) : (s.modBound b f).parts = s.parts := rfl
@[simp] theorem State.modBound_dies (s : State) (b : Nat) (f : Bound → Bound) : (s.modBound b f).dies = s.dies := rfl
@[simp] theorem State.modBound_ctxs (s : State) (b : Nat) (f : Bound → Bound) : (s.modBound b f).ctxs = s.ctxs := rfl
@[simp] theorem State.modBound_ops (s : State) (b : Nat) (f : Bound → Bound) : (s.modBound b f).ops = s.ops := rfl
@[simp] theorem State.modBound_late (s : State) (b : Nat) (f : Bound → Bound) : (s.modBound b f).late = s.late := rfl
@[simp] theorem State.modBound_lines (s : State) (b : Nat) (f : Bound → Bound) : (s.modBound b f).lines = s.lines := rfl
@[simp] theorem State.modBound_torus (s : State) (b : Nat) (f : Bound → Bound) : (s.modBound b f).torus = s.torus := rfl
@[simp] theorem State.modBound_pages (s : State) (b : Nat) (f : Bound → Bound) : (s.modBound b f).pages = s.pages := rfl
@[simp] theorem State.modBound_memErrs (s : State) (b : Nat) (f : Bound → Bound) : (s.modBound b f).memErrs = s.memErrs := rfl
@[simp] theorem State.modBound_domain (s : State) (b : Nat) (f : Bound → Bound) : (s.modBound b f).domain = s.domain := rfl
@[simp] theorem State.modBound_routing (s : State) (b : Nat) (f : Bound → Bound) : (s.modBound b f).routing = s.routing := rfl
@[simp] theorem State.modBound_linkNet (s : State) (b : Nat) (f : Bound → Bound) : (s.modBound b f).linkNet = s.linkNet := rfl
@[simp] theorem State.modBound_binds (s : State) (b : Nat) (f : Bound → Bound) : (s.modBound b f).binds = s.binds := rfl
@[simp] theorem State.modBound_linkDown (s : State) (b : Nat) (f : Bound → Bound) : (s.modBound b f).linkDown = s.linkDown := rfl
@[simp] theorem State.modBound_reports (s : State) (b : Nat) (f : Bound → Bound) : (s.modBound b f).reports = s.reports := rfl

@[simp] theorem State.modOp_mem (s : State) (o : Nat) (f : Op → Op) : (s.modOp o f).mem = s.mem := rfl
@[simp] theorem State.modOp_cycles (s : State) (o : Nat) (f : Op → Op) : (s.modOp o f).cycles = s.cycles := rfl
@[simp] theorem State.modOp_clocks (s : State) (o : Nat) (f : Op → Op) : (s.modOp o f).clocks = s.clocks := rfl
@[simp] theorem State.modOp_clkBase (s : State) (o : Nat) (f : Op → Op) : (s.modOp o f).clkBase = s.clkBase := rfl
@[simp] theorem State.modOp_agenda (s : State) (o : Nat) (f : Op → Op) : (s.modOp o f).agenda = s.agenda := rfl
@[simp] theorem State.modOp_fresh (s : State) (o : Nat) (f : Op → Op) : (s.modOp o f).fresh = s.fresh := rfl
@[simp] theorem State.modOp_nextId (s : State) (o : Nat) (f : Op → Op) : (s.modOp o f).nextId = s.nextId := rfl
@[simp] theorem State.modOp_iss (s : State) (o : Nat) (f : Op → Op) : (s.modOp o f).iss = s.iss := rfl
@[simp] theorem State.modOp_pipeHold (s : State) (o : Nat) (f : Op → Op) : (s.modOp o f).pipeHold = s.pipeHold := rfl
@[simp] theorem State.modOp_pipe (s : State) (o : Nat) (f : Op → Op) : (s.modOp o f).pipe = s.pipe := rfl
@[simp] theorem State.modOp_boot (s : State) (o : Nat) (f : Op → Op) : (s.modOp o f).boot = s.boot := rfl
@[simp] theorem State.modOp_power (s : State) (o : Nat) (f : Op → Op) : (s.modOp o f).power = s.power := rfl
@[simp] theorem State.modOp_host (s : State) (o : Nat) (f : Op → Op) : (s.modOp o f).host = s.host := rfl
@[simp] theorem State.modOp_staged (s : State) (o : Nat) (f : Op → Op) : (s.modOp o f).staged = s.staged := rfl
@[simp] theorem State.modOp_booting (s : State) (o : Nat) (f : Op → Op) : (s.modOp o f).booting = s.booting := rfl
@[simp] theorem State.modOp_image (s : State) (o : Nat) (f : Op → Op) : (s.modOp o f).image = s.image := rfl
@[simp] theorem State.modOp_queues (s : State) (o : Nat) (f : Op → Op) : (s.modOp o f).queues = s.queues := rfl
@[simp] theorem State.modOp_kernels (s : State) (o : Nat) (f : Op → Op) : (s.modOp o f).kernels = s.kernels := rfl
@[simp] theorem State.modOp_teams (s : State) (o : Nat) (f : Op → Op) : (s.modOp o f).teams = s.teams := rfl
@[simp] theorem State.modOp_cohorts (s : State) (o : Nat) (f : Op → Op) : (s.modOp o f).cohorts = s.cohorts := rfl
@[simp] theorem State.modOp_reqs (s : State) (o : Nat) (f : Op → Op) : (s.modOp o f).reqs = s.reqs := rfl
@[simp] theorem State.modOp_groups (s : State) (o : Nat) (f : Op → Op) : (s.modOp o f).groups = s.groups := rfl
@[simp] theorem State.modOp_cores (s : State) (o : Nat) (f : Op → Op) : (s.modOp o f).cores = s.cores := rfl
@[simp] theorem State.modOp_quads (s : State) (o : Nat) (f : Op → Op) : (s.modOp o f).quads = s.quads := rfl
@[simp] theorem State.modOp_parts (s : State) (o : Nat) (f : Op → Op) : (s.modOp o f).parts = s.parts := rfl
@[simp] theorem State.modOp_dies (s : State) (o : Nat) (f : Op → Op) : (s.modOp o f).dies = s.dies := rfl
@[simp] theorem State.modOp_bounds (s : State) (o : Nat) (f : Op → Op) : (s.modOp o f).bounds = s.bounds := rfl
@[simp] theorem State.modOp_ctxs (s : State) (o : Nat) (f : Op → Op) : (s.modOp o f).ctxs = s.ctxs := rfl
@[simp] theorem State.modOp_late (s : State) (o : Nat) (f : Op → Op) : (s.modOp o f).late = s.late := rfl
@[simp] theorem State.modOp_lines (s : State) (o : Nat) (f : Op → Op) : (s.modOp o f).lines = s.lines := rfl
@[simp] theorem State.modOp_torus (s : State) (o : Nat) (f : Op → Op) : (s.modOp o f).torus = s.torus := rfl
@[simp] theorem State.modOp_pages (s : State) (o : Nat) (f : Op → Op) : (s.modOp o f).pages = s.pages := rfl
@[simp] theorem State.modOp_memErrs (s : State) (o : Nat) (f : Op → Op) : (s.modOp o f).memErrs = s.memErrs := rfl
@[simp] theorem State.modOp_domain (s : State) (o : Nat) (f : Op → Op) : (s.modOp o f).domain = s.domain := rfl
@[simp] theorem State.modOp_routing (s : State) (o : Nat) (f : Op → Op) : (s.modOp o f).routing = s.routing := rfl
@[simp] theorem State.modOp_linkNet (s : State) (o : Nat) (f : Op → Op) : (s.modOp o f).linkNet = s.linkNet := rfl
@[simp] theorem State.modOp_binds (s : State) (o : Nat) (f : Op → Op) : (s.modOp o f).binds = s.binds := rfl
@[simp] theorem State.modOp_linkDown (s : State) (o : Nat) (f : Op → Op) : (s.modOp o f).linkDown = s.linkDown := rfl
@[simp] theorem State.modOp_reports (s : State) (o : Nat) (f : Op → Op) : (s.modOp o f).reports = s.reports := rfl

@[simp] theorem State.delOp_mem (s : State) (o : Nat) : (s.delOp o).mem = s.mem := rfl
@[simp] theorem State.delOp_cycles (s : State) (o : Nat) : (s.delOp o).cycles = s.cycles := rfl
@[simp] theorem State.delOp_clocks (s : State) (o : Nat) : (s.delOp o).clocks = s.clocks := rfl
@[simp] theorem State.delOp_clkBase (s : State) (o : Nat) : (s.delOp o).clkBase = s.clkBase := rfl
@[simp] theorem State.delOp_agenda (s : State) (o : Nat) : (s.delOp o).agenda = s.agenda := rfl
@[simp] theorem State.delOp_fresh (s : State) (o : Nat) : (s.delOp o).fresh = s.fresh := rfl
@[simp] theorem State.delOp_nextId (s : State) (o : Nat) : (s.delOp o).nextId = s.nextId := rfl
@[simp] theorem State.delOp_iss (s : State) (o : Nat) : (s.delOp o).iss = s.iss := rfl
@[simp] theorem State.delOp_pipeHold (s : State) (o : Nat) : (s.delOp o).pipeHold = s.pipeHold := rfl
@[simp] theorem State.delOp_pipe (s : State) (o : Nat) : (s.delOp o).pipe = s.pipe := rfl
@[simp] theorem State.delOp_boot (s : State) (o : Nat) : (s.delOp o).boot = s.boot := rfl
@[simp] theorem State.delOp_power (s : State) (o : Nat) : (s.delOp o).power = s.power := rfl
@[simp] theorem State.delOp_host (s : State) (o : Nat) : (s.delOp o).host = s.host := rfl
@[simp] theorem State.delOp_staged (s : State) (o : Nat) : (s.delOp o).staged = s.staged := rfl
@[simp] theorem State.delOp_booting (s : State) (o : Nat) : (s.delOp o).booting = s.booting := rfl
@[simp] theorem State.delOp_image (s : State) (o : Nat) : (s.delOp o).image = s.image := rfl
@[simp] theorem State.delOp_queues (s : State) (o : Nat) : (s.delOp o).queues = s.queues := rfl
@[simp] theorem State.delOp_kernels (s : State) (o : Nat) : (s.delOp o).kernels = s.kernels := rfl
@[simp] theorem State.delOp_teams (s : State) (o : Nat) : (s.delOp o).teams = s.teams := rfl
@[simp] theorem State.delOp_cohorts (s : State) (o : Nat) : (s.delOp o).cohorts = s.cohorts := rfl
@[simp] theorem State.delOp_reqs (s : State) (o : Nat) : (s.delOp o).reqs = s.reqs := rfl
@[simp] theorem State.delOp_groups (s : State) (o : Nat) : (s.delOp o).groups = s.groups := rfl
@[simp] theorem State.delOp_cores (s : State) (o : Nat) : (s.delOp o).cores = s.cores := rfl
@[simp] theorem State.delOp_quads (s : State) (o : Nat) : (s.delOp o).quads = s.quads := rfl
@[simp] theorem State.delOp_parts (s : State) (o : Nat) : (s.delOp o).parts = s.parts := rfl
@[simp] theorem State.delOp_dies (s : State) (o : Nat) : (s.delOp o).dies = s.dies := rfl
@[simp] theorem State.delOp_bounds (s : State) (o : Nat) : (s.delOp o).bounds = s.bounds := rfl
@[simp] theorem State.delOp_ctxs (s : State) (o : Nat) : (s.delOp o).ctxs = s.ctxs := rfl
@[simp] theorem State.delOp_late (s : State) (o : Nat) : (s.delOp o).late = s.late := rfl
@[simp] theorem State.delOp_lines (s : State) (o : Nat) : (s.delOp o).lines = s.lines := rfl
@[simp] theorem State.delOp_torus (s : State) (o : Nat) : (s.delOp o).torus = s.torus := rfl
@[simp] theorem State.delOp_pages (s : State) (o : Nat) : (s.delOp o).pages = s.pages := rfl
@[simp] theorem State.delOp_memErrs (s : State) (o : Nat) : (s.delOp o).memErrs = s.memErrs := rfl
@[simp] theorem State.delOp_domain (s : State) (o : Nat) : (s.delOp o).domain = s.domain := rfl
@[simp] theorem State.delOp_routing (s : State) (o : Nat) : (s.delOp o).routing = s.routing := rfl
@[simp] theorem State.delOp_linkNet (s : State) (o : Nat) : (s.delOp o).linkNet = s.linkNet := rfl
@[simp] theorem State.delOp_binds (s : State) (o : Nat) : (s.delOp o).binds = s.binds := rfl
@[simp] theorem State.delOp_linkDown (s : State) (o : Nat) : (s.delOp o).linkDown = s.linkDown := rfl
@[simp] theorem State.delOp_reports (s : State) (o : Nat) : (s.delOp o).reports = s.reports := rfl

@[simp] theorem State.addOp_mem (s : State) (o : Op) : (s.addOp o).mem = s.mem := rfl
@[simp] theorem State.addOp_cycles (s : State) (o : Op) : (s.addOp o).cycles = s.cycles := rfl
@[simp] theorem State.addOp_clocks (s : State) (o : Op) : (s.addOp o).clocks = s.clocks := rfl
@[simp] theorem State.addOp_clkBase (s : State) (o : Op) : (s.addOp o).clkBase = s.clkBase := rfl
@[simp] theorem State.addOp_agenda (s : State) (o : Op) : (s.addOp o).agenda = s.agenda := rfl
@[simp] theorem State.addOp_fresh (s : State) (o : Op) : (s.addOp o).fresh = s.fresh := rfl
@[simp] theorem State.addOp_iss (s : State) (o : Op) : (s.addOp o).iss = s.iss := rfl
@[simp] theorem State.addOp_pipeHold (s : State) (o : Op) : (s.addOp o).pipeHold = s.pipeHold := rfl
@[simp] theorem State.addOp_pipe (s : State) (o : Op) : (s.addOp o).pipe = s.pipe := rfl
@[simp] theorem State.addOp_boot (s : State) (o : Op) : (s.addOp o).boot = s.boot := rfl
@[simp] theorem State.addOp_power (s : State) (o : Op) : (s.addOp o).power = s.power := rfl
@[simp] theorem State.addOp_host (s : State) (o : Op) : (s.addOp o).host = s.host := rfl
@[simp] theorem State.addOp_staged (s : State) (o : Op) : (s.addOp o).staged = s.staged := rfl
@[simp] theorem State.addOp_booting (s : State) (o : Op) : (s.addOp o).booting = s.booting := rfl
@[simp] theorem State.addOp_image (s : State) (o : Op) : (s.addOp o).image = s.image := rfl
@[simp] theorem State.addOp_queues (s : State) (o : Op) : (s.addOp o).queues = s.queues := rfl
@[simp] theorem State.addOp_kernels (s : State) (o : Op) : (s.addOp o).kernels = s.kernels := rfl
@[simp] theorem State.addOp_teams (s : State) (o : Op) : (s.addOp o).teams = s.teams := rfl
@[simp] theorem State.addOp_cohorts (s : State) (o : Op) : (s.addOp o).cohorts = s.cohorts := rfl
@[simp] theorem State.addOp_reqs (s : State) (o : Op) : (s.addOp o).reqs = s.reqs := rfl
@[simp] theorem State.addOp_groups (s : State) (o : Op) : (s.addOp o).groups = s.groups := rfl
@[simp] theorem State.addOp_cores (s : State) (o : Op) : (s.addOp o).cores = s.cores := rfl
@[simp] theorem State.addOp_quads (s : State) (o : Op) : (s.addOp o).quads = s.quads := rfl
@[simp] theorem State.addOp_parts (s : State) (o : Op) : (s.addOp o).parts = s.parts := rfl
@[simp] theorem State.addOp_dies (s : State) (o : Op) : (s.addOp o).dies = s.dies := rfl
@[simp] theorem State.addOp_bounds (s : State) (o : Op) : (s.addOp o).bounds = s.bounds := rfl
@[simp] theorem State.addOp_ctxs (s : State) (o : Op) : (s.addOp o).ctxs = s.ctxs := rfl
@[simp] theorem State.addOp_late (s : State) (o : Op) : (s.addOp o).late = s.late := rfl
@[simp] theorem State.addOp_lines (s : State) (o : Op) : (s.addOp o).lines = s.lines := rfl
@[simp] theorem State.addOp_torus (s : State) (o : Op) : (s.addOp o).torus = s.torus := rfl
@[simp] theorem State.addOp_pages (s : State) (o : Op) : (s.addOp o).pages = s.pages := rfl
@[simp] theorem State.addOp_memErrs (s : State) (o : Op) : (s.addOp o).memErrs = s.memErrs := rfl
@[simp] theorem State.addOp_domain (s : State) (o : Op) : (s.addOp o).domain = s.domain := rfl
@[simp] theorem State.addOp_routing (s : State) (o : Op) : (s.addOp o).routing = s.routing := rfl
@[simp] theorem State.addOp_linkNet (s : State) (o : Op) : (s.addOp o).linkNet = s.linkNet := rfl
@[simp] theorem State.addOp_binds (s : State) (o : Op) : (s.addOp o).binds = s.binds := rfl
@[simp] theorem State.addOp_linkDown (s : State) (o : Op) : (s.addOp o).linkDown = s.linkDown := rfl
@[simp] theorem State.addOp_reports (s : State) (o : Op) : (s.addOp o).reports = s.reports := rfl

@[simp] theorem State.modGroup_mem (s : State) (gid : Nat) (f : Group → Group) : (s.modGroup gid f).mem = s.mem := rfl
@[simp] theorem State.modGroup_cycles (s : State) (gid : Nat) (f : Group → Group) : (s.modGroup gid f).cycles = s.cycles := rfl
@[simp] theorem State.modGroup_clocks (s : State) (gid : Nat) (f : Group → Group) : (s.modGroup gid f).clocks = s.clocks := rfl
@[simp] theorem State.modGroup_clkBase (s : State) (gid : Nat) (f : Group → Group) : (s.modGroup gid f).clkBase = s.clkBase := rfl
@[simp] theorem State.modGroup_agenda (s : State) (gid : Nat) (f : Group → Group) : (s.modGroup gid f).agenda = s.agenda := rfl
@[simp] theorem State.modGroup_fresh (s : State) (gid : Nat) (f : Group → Group) : (s.modGroup gid f).fresh = s.fresh := rfl
@[simp] theorem State.modGroup_nextId (s : State) (gid : Nat) (f : Group → Group) : (s.modGroup gid f).nextId = s.nextId := rfl
@[simp] theorem State.modGroup_iss (s : State) (gid : Nat) (f : Group → Group) : (s.modGroup gid f).iss = s.iss := rfl
@[simp] theorem State.modGroup_pipeHold (s : State) (gid : Nat) (f : Group → Group) : (s.modGroup gid f).pipeHold = s.pipeHold := rfl
@[simp] theorem State.modGroup_pipe (s : State) (gid : Nat) (f : Group → Group) : (s.modGroup gid f).pipe = s.pipe := rfl
@[simp] theorem State.modGroup_boot (s : State) (gid : Nat) (f : Group → Group) : (s.modGroup gid f).boot = s.boot := rfl
@[simp] theorem State.modGroup_power (s : State) (gid : Nat) (f : Group → Group) : (s.modGroup gid f).power = s.power := rfl
@[simp] theorem State.modGroup_host (s : State) (gid : Nat) (f : Group → Group) : (s.modGroup gid f).host = s.host := rfl
@[simp] theorem State.modGroup_staged (s : State) (gid : Nat) (f : Group → Group) : (s.modGroup gid f).staged = s.staged := rfl
@[simp] theorem State.modGroup_booting (s : State) (gid : Nat) (f : Group → Group) : (s.modGroup gid f).booting = s.booting := rfl
@[simp] theorem State.modGroup_image (s : State) (gid : Nat) (f : Group → Group) : (s.modGroup gid f).image = s.image := rfl
@[simp] theorem State.modGroup_queues (s : State) (gid : Nat) (f : Group → Group) : (s.modGroup gid f).queues = s.queues := rfl
@[simp] theorem State.modGroup_kernels (s : State) (gid : Nat) (f : Group → Group) : (s.modGroup gid f).kernels = s.kernels := rfl
@[simp] theorem State.modGroup_teams (s : State) (gid : Nat) (f : Group → Group) : (s.modGroup gid f).teams = s.teams := rfl
@[simp] theorem State.modGroup_cohorts (s : State) (gid : Nat) (f : Group → Group) : (s.modGroup gid f).cohorts = s.cohorts := rfl
@[simp] theorem State.modGroup_reqs (s : State) (gid : Nat) (f : Group → Group) : (s.modGroup gid f).reqs = s.reqs := rfl
@[simp] theorem State.modGroup_cores (s : State) (gid : Nat) (f : Group → Group) : (s.modGroup gid f).cores = s.cores := rfl
@[simp] theorem State.modGroup_quads (s : State) (gid : Nat) (f : Group → Group) : (s.modGroup gid f).quads = s.quads := rfl
@[simp] theorem State.modGroup_parts (s : State) (gid : Nat) (f : Group → Group) : (s.modGroup gid f).parts = s.parts := rfl
@[simp] theorem State.modGroup_dies (s : State) (gid : Nat) (f : Group → Group) : (s.modGroup gid f).dies = s.dies := rfl
@[simp] theorem State.modGroup_bounds (s : State) (gid : Nat) (f : Group → Group) : (s.modGroup gid f).bounds = s.bounds := rfl
@[simp] theorem State.modGroup_ctxs (s : State) (gid : Nat) (f : Group → Group) : (s.modGroup gid f).ctxs = s.ctxs := rfl
@[simp] theorem State.modGroup_ops (s : State) (gid : Nat) (f : Group → Group) : (s.modGroup gid f).ops = s.ops := rfl
@[simp] theorem State.modGroup_late (s : State) (gid : Nat) (f : Group → Group) : (s.modGroup gid f).late = s.late := rfl
@[simp] theorem State.modGroup_lines (s : State) (gid : Nat) (f : Group → Group) : (s.modGroup gid f).lines = s.lines := rfl
@[simp] theorem State.modGroup_torus (s : State) (gid : Nat) (f : Group → Group) : (s.modGroup gid f).torus = s.torus := rfl
@[simp] theorem State.modGroup_pages (s : State) (gid : Nat) (f : Group → Group) : (s.modGroup gid f).pages = s.pages := rfl
@[simp] theorem State.modGroup_memErrs (s : State) (gid : Nat) (f : Group → Group) : (s.modGroup gid f).memErrs = s.memErrs := rfl
@[simp] theorem State.modGroup_domain (s : State) (gid : Nat) (f : Group → Group) : (s.modGroup gid f).domain = s.domain := rfl
@[simp] theorem State.modGroup_routing (s : State) (gid : Nat) (f : Group → Group) : (s.modGroup gid f).routing = s.routing := rfl
@[simp] theorem State.modGroup_linkNet (s : State) (gid : Nat) (f : Group → Group) : (s.modGroup gid f).linkNet = s.linkNet := rfl
@[simp] theorem State.modGroup_binds (s : State) (gid : Nat) (f : Group → Group) : (s.modGroup gid f).binds = s.binds := rfl
@[simp] theorem State.modGroup_linkDown (s : State) (gid : Nat) (f : Group → Group) : (s.modGroup gid f).linkDown = s.linkDown := rfl
@[simp] theorem State.modGroup_reports (s : State) (gid : Nat) (f : Group → Group) : (s.modGroup gid f).reports = s.reports := rfl

@[simp] theorem State.modPathAt_mem (s : State) (gid slot : Nat) (f : Path → Path) : (s.modPathAt gid slot f).mem = s.mem := rfl
@[simp] theorem State.modPathAt_cycles (s : State) (gid slot : Nat) (f : Path → Path) : (s.modPathAt gid slot f).cycles = s.cycles := rfl
@[simp] theorem State.modPathAt_clocks (s : State) (gid slot : Nat) (f : Path → Path) : (s.modPathAt gid slot f).clocks = s.clocks := rfl
@[simp] theorem State.modPathAt_clkBase (s : State) (gid slot : Nat) (f : Path → Path) : (s.modPathAt gid slot f).clkBase = s.clkBase := rfl
@[simp] theorem State.modPathAt_agenda (s : State) (gid slot : Nat) (f : Path → Path) : (s.modPathAt gid slot f).agenda = s.agenda := rfl
@[simp] theorem State.modPathAt_fresh (s : State) (gid slot : Nat) (f : Path → Path) : (s.modPathAt gid slot f).fresh = s.fresh := rfl
@[simp] theorem State.modPathAt_nextId (s : State) (gid slot : Nat) (f : Path → Path) : (s.modPathAt gid slot f).nextId = s.nextId := rfl
@[simp] theorem State.modPathAt_iss (s : State) (gid slot : Nat) (f : Path → Path) : (s.modPathAt gid slot f).iss = s.iss := rfl
@[simp] theorem State.modPathAt_pipeHold (s : State) (gid slot : Nat) (f : Path → Path) : (s.modPathAt gid slot f).pipeHold = s.pipeHold := rfl
@[simp] theorem State.modPathAt_pipe (s : State) (gid slot : Nat) (f : Path → Path) : (s.modPathAt gid slot f).pipe = s.pipe := rfl
@[simp] theorem State.modPathAt_boot (s : State) (gid slot : Nat) (f : Path → Path) : (s.modPathAt gid slot f).boot = s.boot := rfl
@[simp] theorem State.modPathAt_power (s : State) (gid slot : Nat) (f : Path → Path) : (s.modPathAt gid slot f).power = s.power := rfl
@[simp] theorem State.modPathAt_host (s : State) (gid slot : Nat) (f : Path → Path) : (s.modPathAt gid slot f).host = s.host := rfl
@[simp] theorem State.modPathAt_staged (s : State) (gid slot : Nat) (f : Path → Path) : (s.modPathAt gid slot f).staged = s.staged := rfl
@[simp] theorem State.modPathAt_booting (s : State) (gid slot : Nat) (f : Path → Path) : (s.modPathAt gid slot f).booting = s.booting := rfl
@[simp] theorem State.modPathAt_image (s : State) (gid slot : Nat) (f : Path → Path) : (s.modPathAt gid slot f).image = s.image := rfl
@[simp] theorem State.modPathAt_queues (s : State) (gid slot : Nat) (f : Path → Path) : (s.modPathAt gid slot f).queues = s.queues := rfl
@[simp] theorem State.modPathAt_kernels (s : State) (gid slot : Nat) (f : Path → Path) : (s.modPathAt gid slot f).kernels = s.kernels := rfl
@[simp] theorem State.modPathAt_teams (s : State) (gid slot : Nat) (f : Path → Path) : (s.modPathAt gid slot f).teams = s.teams := rfl
@[simp] theorem State.modPathAt_cohorts (s : State) (gid slot : Nat) (f : Path → Path) : (s.modPathAt gid slot f).cohorts = s.cohorts := rfl
@[simp] theorem State.modPathAt_reqs (s : State) (gid slot : Nat) (f : Path → Path) : (s.modPathAt gid slot f).reqs = s.reqs := rfl
@[simp] theorem State.modPathAt_cores (s : State) (gid slot : Nat) (f : Path → Path) : (s.modPathAt gid slot f).cores = s.cores := rfl
@[simp] theorem State.modPathAt_quads (s : State) (gid slot : Nat) (f : Path → Path) : (s.modPathAt gid slot f).quads = s.quads := rfl
@[simp] theorem State.modPathAt_parts (s : State) (gid slot : Nat) (f : Path → Path) : (s.modPathAt gid slot f).parts = s.parts := rfl
@[simp] theorem State.modPathAt_dies (s : State) (gid slot : Nat) (f : Path → Path) : (s.modPathAt gid slot f).dies = s.dies := rfl
@[simp] theorem State.modPathAt_bounds (s : State) (gid slot : Nat) (f : Path → Path) : (s.modPathAt gid slot f).bounds = s.bounds := rfl
@[simp] theorem State.modPathAt_ctxs (s : State) (gid slot : Nat) (f : Path → Path) : (s.modPathAt gid slot f).ctxs = s.ctxs := rfl
@[simp] theorem State.modPathAt_ops (s : State) (gid slot : Nat) (f : Path → Path) : (s.modPathAt gid slot f).ops = s.ops := rfl
@[simp] theorem State.modPathAt_late (s : State) (gid slot : Nat) (f : Path → Path) : (s.modPathAt gid slot f).late = s.late := rfl
@[simp] theorem State.modPathAt_lines (s : State) (gid slot : Nat) (f : Path → Path) : (s.modPathAt gid slot f).lines = s.lines := rfl
@[simp] theorem State.modPathAt_torus (s : State) (gid slot : Nat) (f : Path → Path) : (s.modPathAt gid slot f).torus = s.torus := rfl
@[simp] theorem State.modPathAt_pages (s : State) (gid slot : Nat) (f : Path → Path) : (s.modPathAt gid slot f).pages = s.pages := rfl
@[simp] theorem State.modPathAt_memErrs (s : State) (gid slot : Nat) (f : Path → Path) : (s.modPathAt gid slot f).memErrs = s.memErrs := rfl
@[simp] theorem State.modPathAt_domain (s : State) (gid slot : Nat) (f : Path → Path) : (s.modPathAt gid slot f).domain = s.domain := rfl
@[simp] theorem State.modPathAt_routing (s : State) (gid slot : Nat) (f : Path → Path) : (s.modPathAt gid slot f).routing = s.routing := rfl
@[simp] theorem State.modPathAt_linkNet (s : State) (gid slot : Nat) (f : Path → Path) : (s.modPathAt gid slot f).linkNet = s.linkNet := rfl
@[simp] theorem State.modPathAt_binds (s : State) (gid slot : Nat) (f : Path → Path) : (s.modPathAt gid slot f).binds = s.binds := rfl
@[simp] theorem State.modPathAt_linkDown (s : State) (gid slot : Nat) (f : Path → Path) : (s.modPathAt gid slot f).linkDown = s.linkDown := rfl
@[simp] theorem State.modPathAt_reports (s : State) (gid slot : Nat) (f : Path → Path) : (s.modPathAt gid slot f).reports = s.reports := rfl

@[simp] theorem State.modPath_mem (s : State) (f : Path → Path) : (s.modPath f).mem = s.mem := rfl
@[simp] theorem State.modPath_cycles (s : State) (f : Path → Path) : (s.modPath f).cycles = s.cycles := rfl
@[simp] theorem State.modPath_clocks (s : State) (f : Path → Path) : (s.modPath f).clocks = s.clocks := rfl
@[simp] theorem State.modPath_clkBase (s : State) (f : Path → Path) : (s.modPath f).clkBase = s.clkBase := rfl
@[simp] theorem State.modPath_agenda (s : State) (f : Path → Path) : (s.modPath f).agenda = s.agenda := rfl
@[simp] theorem State.modPath_fresh (s : State) (f : Path → Path) : (s.modPath f).fresh = s.fresh := rfl
@[simp] theorem State.modPath_nextId (s : State) (f : Path → Path) : (s.modPath f).nextId = s.nextId := rfl
@[simp] theorem State.modPath_iss (s : State) (f : Path → Path) : (s.modPath f).iss = s.iss := rfl
@[simp] theorem State.modPath_pipeHold (s : State) (f : Path → Path) : (s.modPath f).pipeHold = s.pipeHold := rfl
@[simp] theorem State.modPath_pipe (s : State) (f : Path → Path) : (s.modPath f).pipe = s.pipe := rfl
@[simp] theorem State.modPath_boot (s : State) (f : Path → Path) : (s.modPath f).boot = s.boot := rfl
@[simp] theorem State.modPath_power (s : State) (f : Path → Path) : (s.modPath f).power = s.power := rfl
@[simp] theorem State.modPath_host (s : State) (f : Path → Path) : (s.modPath f).host = s.host := rfl
@[simp] theorem State.modPath_staged (s : State) (f : Path → Path) : (s.modPath f).staged = s.staged := rfl
@[simp] theorem State.modPath_booting (s : State) (f : Path → Path) : (s.modPath f).booting = s.booting := rfl
@[simp] theorem State.modPath_image (s : State) (f : Path → Path) : (s.modPath f).image = s.image := rfl
@[simp] theorem State.modPath_queues (s : State) (f : Path → Path) : (s.modPath f).queues = s.queues := rfl
@[simp] theorem State.modPath_kernels (s : State) (f : Path → Path) : (s.modPath f).kernels = s.kernels := rfl
@[simp] theorem State.modPath_teams (s : State) (f : Path → Path) : (s.modPath f).teams = s.teams := rfl
@[simp] theorem State.modPath_cohorts (s : State) (f : Path → Path) : (s.modPath f).cohorts = s.cohorts := rfl
@[simp] theorem State.modPath_reqs (s : State) (f : Path → Path) : (s.modPath f).reqs = s.reqs := rfl
@[simp] theorem State.modPath_cores (s : State) (f : Path → Path) : (s.modPath f).cores = s.cores := rfl
@[simp] theorem State.modPath_quads (s : State) (f : Path → Path) : (s.modPath f).quads = s.quads := rfl
@[simp] theorem State.modPath_parts (s : State) (f : Path → Path) : (s.modPath f).parts = s.parts := rfl
@[simp] theorem State.modPath_dies (s : State) (f : Path → Path) : (s.modPath f).dies = s.dies := rfl
@[simp] theorem State.modPath_bounds (s : State) (f : Path → Path) : (s.modPath f).bounds = s.bounds := rfl
@[simp] theorem State.modPath_ctxs (s : State) (f : Path → Path) : (s.modPath f).ctxs = s.ctxs := rfl
@[simp] theorem State.modPath_ops (s : State) (f : Path → Path) : (s.modPath f).ops = s.ops := rfl
@[simp] theorem State.modPath_late (s : State) (f : Path → Path) : (s.modPath f).late = s.late := rfl
@[simp] theorem State.modPath_lines (s : State) (f : Path → Path) : (s.modPath f).lines = s.lines := rfl
@[simp] theorem State.modPath_torus (s : State) (f : Path → Path) : (s.modPath f).torus = s.torus := rfl
@[simp] theorem State.modPath_pages (s : State) (f : Path → Path) : (s.modPath f).pages = s.pages := rfl
@[simp] theorem State.modPath_memErrs (s : State) (f : Path → Path) : (s.modPath f).memErrs = s.memErrs := rfl
@[simp] theorem State.modPath_domain (s : State) (f : Path → Path) : (s.modPath f).domain = s.domain := rfl
@[simp] theorem State.modPath_routing (s : State) (f : Path → Path) : (s.modPath f).routing = s.routing := rfl
@[simp] theorem State.modPath_linkNet (s : State) (f : Path → Path) : (s.modPath f).linkNet = s.linkNet := rfl
@[simp] theorem State.modPath_binds (s : State) (f : Path → Path) : (s.modPath f).binds = s.binds := rfl
@[simp] theorem State.modPath_linkDown (s : State) (f : Path → Path) : (s.modPath f).linkDown = s.linkDown := rfl
@[simp] theorem State.modPath_reports (s : State) (f : Path → Path) : (s.modPath f).reports = s.reports := rfl

@[simp] theorem State.modG_mem (s : State) (f : Group → Group) : (s.modG f).mem = s.mem := rfl
@[simp] theorem State.modG_cycles (s : State) (f : Group → Group) : (s.modG f).cycles = s.cycles := rfl
@[simp] theorem State.modG_clocks (s : State) (f : Group → Group) : (s.modG f).clocks = s.clocks := rfl
@[simp] theorem State.modG_clkBase (s : State) (f : Group → Group) : (s.modG f).clkBase = s.clkBase := rfl
@[simp] theorem State.modG_agenda (s : State) (f : Group → Group) : (s.modG f).agenda = s.agenda := rfl
@[simp] theorem State.modG_fresh (s : State) (f : Group → Group) : (s.modG f).fresh = s.fresh := rfl
@[simp] theorem State.modG_nextId (s : State) (f : Group → Group) : (s.modG f).nextId = s.nextId := rfl
@[simp] theorem State.modG_iss (s : State) (f : Group → Group) : (s.modG f).iss = s.iss := rfl
@[simp] theorem State.modG_pipeHold (s : State) (f : Group → Group) : (s.modG f).pipeHold = s.pipeHold := rfl
@[simp] theorem State.modG_pipe (s : State) (f : Group → Group) : (s.modG f).pipe = s.pipe := rfl
@[simp] theorem State.modG_boot (s : State) (f : Group → Group) : (s.modG f).boot = s.boot := rfl
@[simp] theorem State.modG_power (s : State) (f : Group → Group) : (s.modG f).power = s.power := rfl
@[simp] theorem State.modG_host (s : State) (f : Group → Group) : (s.modG f).host = s.host := rfl
@[simp] theorem State.modG_staged (s : State) (f : Group → Group) : (s.modG f).staged = s.staged := rfl
@[simp] theorem State.modG_booting (s : State) (f : Group → Group) : (s.modG f).booting = s.booting := rfl
@[simp] theorem State.modG_image (s : State) (f : Group → Group) : (s.modG f).image = s.image := rfl
@[simp] theorem State.modG_queues (s : State) (f : Group → Group) : (s.modG f).queues = s.queues := rfl
@[simp] theorem State.modG_kernels (s : State) (f : Group → Group) : (s.modG f).kernels = s.kernels := rfl
@[simp] theorem State.modG_teams (s : State) (f : Group → Group) : (s.modG f).teams = s.teams := rfl
@[simp] theorem State.modG_cohorts (s : State) (f : Group → Group) : (s.modG f).cohorts = s.cohorts := rfl
@[simp] theorem State.modG_reqs (s : State) (f : Group → Group) : (s.modG f).reqs = s.reqs := rfl
@[simp] theorem State.modG_cores (s : State) (f : Group → Group) : (s.modG f).cores = s.cores := rfl
@[simp] theorem State.modG_quads (s : State) (f : Group → Group) : (s.modG f).quads = s.quads := rfl
@[simp] theorem State.modG_parts (s : State) (f : Group → Group) : (s.modG f).parts = s.parts := rfl
@[simp] theorem State.modG_dies (s : State) (f : Group → Group) : (s.modG f).dies = s.dies := rfl
@[simp] theorem State.modG_bounds (s : State) (f : Group → Group) : (s.modG f).bounds = s.bounds := rfl
@[simp] theorem State.modG_ctxs (s : State) (f : Group → Group) : (s.modG f).ctxs = s.ctxs := rfl
@[simp] theorem State.modG_ops (s : State) (f : Group → Group) : (s.modG f).ops = s.ops := rfl
@[simp] theorem State.modG_late (s : State) (f : Group → Group) : (s.modG f).late = s.late := rfl
@[simp] theorem State.modG_lines (s : State) (f : Group → Group) : (s.modG f).lines = s.lines := rfl
@[simp] theorem State.modG_torus (s : State) (f : Group → Group) : (s.modG f).torus = s.torus := rfl
@[simp] theorem State.modG_pages (s : State) (f : Group → Group) : (s.modG f).pages = s.pages := rfl
@[simp] theorem State.modG_memErrs (s : State) (f : Group → Group) : (s.modG f).memErrs = s.memErrs := rfl
@[simp] theorem State.modG_domain (s : State) (f : Group → Group) : (s.modG f).domain = s.domain := rfl
@[simp] theorem State.modG_routing (s : State) (f : Group → Group) : (s.modG f).routing = s.routing := rfl
@[simp] theorem State.modG_linkNet (s : State) (f : Group → Group) : (s.modG f).linkNet = s.linkNet := rfl
@[simp] theorem State.modG_binds (s : State) (f : Group → Group) : (s.modG f).binds = s.binds := rfl
@[simp] theorem State.modG_linkDown (s : State) (f : Group → Group) : (s.modG f).linkDown = s.linkDown := rfl
@[simp] theorem State.modG_reports (s : State) (f : Group → Group) : (s.modG f).reports = s.reports := rfl

@[simp] theorem State.wS_mem (s : State) (d : Nat) (v : W64) : (s.wS d v).mem = s.mem := rfl
@[simp] theorem State.wS_cycles (s : State) (d : Nat) (v : W64) : (s.wS d v).cycles = s.cycles := rfl
@[simp] theorem State.wS_clocks (s : State) (d : Nat) (v : W64) : (s.wS d v).clocks = s.clocks := rfl
@[simp] theorem State.wS_clkBase (s : State) (d : Nat) (v : W64) : (s.wS d v).clkBase = s.clkBase := rfl
@[simp] theorem State.wS_agenda (s : State) (d : Nat) (v : W64) : (s.wS d v).agenda = s.agenda := rfl
@[simp] theorem State.wS_fresh (s : State) (d : Nat) (v : W64) : (s.wS d v).fresh = s.fresh := rfl
@[simp] theorem State.wS_nextId (s : State) (d : Nat) (v : W64) : (s.wS d v).nextId = s.nextId := rfl
@[simp] theorem State.wS_iss (s : State) (d : Nat) (v : W64) : (s.wS d v).iss = s.iss := rfl
@[simp] theorem State.wS_pipeHold (s : State) (d : Nat) (v : W64) : (s.wS d v).pipeHold = s.pipeHold := rfl
@[simp] theorem State.wS_pipe (s : State) (d : Nat) (v : W64) : (s.wS d v).pipe = s.pipe := rfl
@[simp] theorem State.wS_boot (s : State) (d : Nat) (v : W64) : (s.wS d v).boot = s.boot := rfl
@[simp] theorem State.wS_power (s : State) (d : Nat) (v : W64) : (s.wS d v).power = s.power := rfl
@[simp] theorem State.wS_host (s : State) (d : Nat) (v : W64) : (s.wS d v).host = s.host := rfl
@[simp] theorem State.wS_staged (s : State) (d : Nat) (v : W64) : (s.wS d v).staged = s.staged := rfl
@[simp] theorem State.wS_booting (s : State) (d : Nat) (v : W64) : (s.wS d v).booting = s.booting := rfl
@[simp] theorem State.wS_image (s : State) (d : Nat) (v : W64) : (s.wS d v).image = s.image := rfl
@[simp] theorem State.wS_queues (s : State) (d : Nat) (v : W64) : (s.wS d v).queues = s.queues := rfl
@[simp] theorem State.wS_kernels (s : State) (d : Nat) (v : W64) : (s.wS d v).kernels = s.kernels := rfl
@[simp] theorem State.wS_teams (s : State) (d : Nat) (v : W64) : (s.wS d v).teams = s.teams := rfl
@[simp] theorem State.wS_cohorts (s : State) (d : Nat) (v : W64) : (s.wS d v).cohorts = s.cohorts := rfl
@[simp] theorem State.wS_reqs (s : State) (d : Nat) (v : W64) : (s.wS d v).reqs = s.reqs := rfl
@[simp] theorem State.wS_cores (s : State) (d : Nat) (v : W64) : (s.wS d v).cores = s.cores := rfl
@[simp] theorem State.wS_quads (s : State) (d : Nat) (v : W64) : (s.wS d v).quads = s.quads := rfl
@[simp] theorem State.wS_parts (s : State) (d : Nat) (v : W64) : (s.wS d v).parts = s.parts := rfl
@[simp] theorem State.wS_dies (s : State) (d : Nat) (v : W64) : (s.wS d v).dies = s.dies := rfl
@[simp] theorem State.wS_bounds (s : State) (d : Nat) (v : W64) : (s.wS d v).bounds = s.bounds := rfl
@[simp] theorem State.wS_ctxs (s : State) (d : Nat) (v : W64) : (s.wS d v).ctxs = s.ctxs := rfl
@[simp] theorem State.wS_ops (s : State) (d : Nat) (v : W64) : (s.wS d v).ops = s.ops := rfl
@[simp] theorem State.wS_late (s : State) (d : Nat) (v : W64) : (s.wS d v).late = s.late := rfl
@[simp] theorem State.wS_lines (s : State) (d : Nat) (v : W64) : (s.wS d v).lines = s.lines := rfl
@[simp] theorem State.wS_torus (s : State) (d : Nat) (v : W64) : (s.wS d v).torus = s.torus := rfl
@[simp] theorem State.wS_pages (s : State) (d : Nat) (v : W64) : (s.wS d v).pages = s.pages := rfl
@[simp] theorem State.wS_memErrs (s : State) (d : Nat) (v : W64) : (s.wS d v).memErrs = s.memErrs := rfl
@[simp] theorem State.wS_domain (s : State) (d : Nat) (v : W64) : (s.wS d v).domain = s.domain := rfl
@[simp] theorem State.wS_routing (s : State) (d : Nat) (v : W64) : (s.wS d v).routing = s.routing := rfl
@[simp] theorem State.wS_linkNet (s : State) (d : Nat) (v : W64) : (s.wS d v).linkNet = s.linkNet := rfl
@[simp] theorem State.wS_binds (s : State) (d : Nat) (v : W64) : (s.wS d v).binds = s.binds := rfl
@[simp] theorem State.wS_linkDown (s : State) (d : Nat) (v : W64) : (s.wS d v).linkDown = s.linkDown := rfl
@[simp] theorem State.wS_reports (s : State) (d : Nat) (v : W64) : (s.wS d v).reports = s.reports := rfl

@[simp] theorem advance_mem (s : State) : (advance s).mem = s.mem := rfl
@[simp] theorem advance_cycles (s : State) : (advance s).cycles = s.cycles := rfl
@[simp] theorem advance_clocks (s : State) : (advance s).clocks = s.clocks := rfl
@[simp] theorem advance_clkBase (s : State) : (advance s).clkBase = s.clkBase := rfl
@[simp] theorem advance_agenda (s : State) : (advance s).agenda = s.agenda := rfl
@[simp] theorem advance_fresh (s : State) : (advance s).fresh = s.fresh := rfl
@[simp] theorem advance_nextId (s : State) : (advance s).nextId = s.nextId := rfl
@[simp] theorem advance_iss (s : State) : (advance s).iss = s.iss := rfl
@[simp] theorem advance_pipeHold (s : State) : (advance s).pipeHold = s.pipeHold := rfl
@[simp] theorem advance_pipe (s : State) : (advance s).pipe = s.pipe := rfl
@[simp] theorem advance_boot (s : State) : (advance s).boot = s.boot := rfl
@[simp] theorem advance_power (s : State) : (advance s).power = s.power := rfl
@[simp] theorem advance_host (s : State) : (advance s).host = s.host := rfl
@[simp] theorem advance_staged (s : State) : (advance s).staged = s.staged := rfl
@[simp] theorem advance_booting (s : State) : (advance s).booting = s.booting := rfl
@[simp] theorem advance_image (s : State) : (advance s).image = s.image := rfl
@[simp] theorem advance_queues (s : State) : (advance s).queues = s.queues := rfl
@[simp] theorem advance_kernels (s : State) : (advance s).kernels = s.kernels := rfl
@[simp] theorem advance_teams (s : State) : (advance s).teams = s.teams := rfl
@[simp] theorem advance_cohorts (s : State) : (advance s).cohorts = s.cohorts := rfl
@[simp] theorem advance_reqs (s : State) : (advance s).reqs = s.reqs := rfl
@[simp] theorem advance_cores (s : State) : (advance s).cores = s.cores := rfl
@[simp] theorem advance_quads (s : State) : (advance s).quads = s.quads := rfl
@[simp] theorem advance_parts (s : State) : (advance s).parts = s.parts := rfl
@[simp] theorem advance_dies (s : State) : (advance s).dies = s.dies := rfl
@[simp] theorem advance_bounds (s : State) : (advance s).bounds = s.bounds := rfl
@[simp] theorem advance_ctxs (s : State) : (advance s).ctxs = s.ctxs := rfl
@[simp] theorem advance_ops (s : State) : (advance s).ops = s.ops := rfl
@[simp] theorem advance_late (s : State) : (advance s).late = s.late := rfl
@[simp] theorem advance_lines (s : State) : (advance s).lines = s.lines := rfl
@[simp] theorem advance_torus (s : State) : (advance s).torus = s.torus := rfl
@[simp] theorem advance_pages (s : State) : (advance s).pages = s.pages := rfl
@[simp] theorem advance_memErrs (s : State) : (advance s).memErrs = s.memErrs := rfl
@[simp] theorem advance_domain (s : State) : (advance s).domain = s.domain := rfl
@[simp] theorem advance_routing (s : State) : (advance s).routing = s.routing := rfl
@[simp] theorem advance_linkNet (s : State) : (advance s).linkNet = s.linkNet := rfl
@[simp] theorem advance_binds (s : State) : (advance s).binds = s.binds := rfl
@[simp] theorem advance_linkDown (s : State) : (advance s).linkDown = s.linkDown := rfl
@[simp] theorem advance_reports (s : State) : (advance s).reports = s.reports := rfl

@[simp] theorem goTo_mem (t : W64) (s : State) : (goTo t s).mem = s.mem := rfl
@[simp] theorem goTo_cycles (t : W64) (s : State) : (goTo t s).cycles = s.cycles := rfl
@[simp] theorem goTo_clocks (t : W64) (s : State) : (goTo t s).clocks = s.clocks := rfl
@[simp] theorem goTo_clkBase (t : W64) (s : State) : (goTo t s).clkBase = s.clkBase := rfl
@[simp] theorem goTo_agenda (t : W64) (s : State) : (goTo t s).agenda = s.agenda := rfl
@[simp] theorem goTo_fresh (t : W64) (s : State) : (goTo t s).fresh = s.fresh := rfl
@[simp] theorem goTo_nextId (t : W64) (s : State) : (goTo t s).nextId = s.nextId := rfl
@[simp] theorem goTo_iss (t : W64) (s : State) : (goTo t s).iss = s.iss := rfl
@[simp] theorem goTo_pipeHold (t : W64) (s : State) : (goTo t s).pipeHold = s.pipeHold := rfl
@[simp] theorem goTo_pipe (t : W64) (s : State) : (goTo t s).pipe = s.pipe := rfl
@[simp] theorem goTo_boot (t : W64) (s : State) : (goTo t s).boot = s.boot := rfl
@[simp] theorem goTo_power (t : W64) (s : State) : (goTo t s).power = s.power := rfl
@[simp] theorem goTo_host (t : W64) (s : State) : (goTo t s).host = s.host := rfl
@[simp] theorem goTo_staged (t : W64) (s : State) : (goTo t s).staged = s.staged := rfl
@[simp] theorem goTo_booting (t : W64) (s : State) : (goTo t s).booting = s.booting := rfl
@[simp] theorem goTo_image (t : W64) (s : State) : (goTo t s).image = s.image := rfl
@[simp] theorem goTo_queues (t : W64) (s : State) : (goTo t s).queues = s.queues := rfl
@[simp] theorem goTo_kernels (t : W64) (s : State) : (goTo t s).kernels = s.kernels := rfl
@[simp] theorem goTo_teams (t : W64) (s : State) : (goTo t s).teams = s.teams := rfl
@[simp] theorem goTo_cohorts (t : W64) (s : State) : (goTo t s).cohorts = s.cohorts := rfl
@[simp] theorem goTo_reqs (t : W64) (s : State) : (goTo t s).reqs = s.reqs := rfl
@[simp] theorem goTo_cores (t : W64) (s : State) : (goTo t s).cores = s.cores := rfl
@[simp] theorem goTo_quads (t : W64) (s : State) : (goTo t s).quads = s.quads := rfl
@[simp] theorem goTo_parts (t : W64) (s : State) : (goTo t s).parts = s.parts := rfl
@[simp] theorem goTo_dies (t : W64) (s : State) : (goTo t s).dies = s.dies := rfl
@[simp] theorem goTo_bounds (t : W64) (s : State) : (goTo t s).bounds = s.bounds := rfl
@[simp] theorem goTo_ctxs (t : W64) (s : State) : (goTo t s).ctxs = s.ctxs := rfl
@[simp] theorem goTo_ops (t : W64) (s : State) : (goTo t s).ops = s.ops := rfl
@[simp] theorem goTo_late (t : W64) (s : State) : (goTo t s).late = s.late := rfl
@[simp] theorem goTo_lines (t : W64) (s : State) : (goTo t s).lines = s.lines := rfl
@[simp] theorem goTo_torus (t : W64) (s : State) : (goTo t s).torus = s.torus := rfl
@[simp] theorem goTo_pages (t : W64) (s : State) : (goTo t s).pages = s.pages := rfl
@[simp] theorem goTo_memErrs (t : W64) (s : State) : (goTo t s).memErrs = s.memErrs := rfl
@[simp] theorem goTo_domain (t : W64) (s : State) : (goTo t s).domain = s.domain := rfl
@[simp] theorem goTo_routing (t : W64) (s : State) : (goTo t s).routing = s.routing := rfl
@[simp] theorem goTo_linkNet (t : W64) (s : State) : (goTo t s).linkNet = s.linkNet := rfl
@[simp] theorem goTo_binds (t : W64) (s : State) : (goTo t s).binds = s.binds := rfl
@[simp] theorem goTo_linkDown (t : W64) (s : State) : (goTo t s).linkDown = s.linkDown := rfl
@[simp] theorem goTo_reports (t : W64) (s : State) : (goTo t s).reports = s.reports := rfl

@[simp] theorem waitOn_mem (w : Wake) (s : State) : (waitOn w s).mem = s.mem := rfl
@[simp] theorem waitOn_cycles (w : Wake) (s : State) : (waitOn w s).cycles = s.cycles := rfl
@[simp] theorem waitOn_clocks (w : Wake) (s : State) : (waitOn w s).clocks = s.clocks := rfl
@[simp] theorem waitOn_clkBase (w : Wake) (s : State) : (waitOn w s).clkBase = s.clkBase := rfl
@[simp] theorem waitOn_agenda (w : Wake) (s : State) : (waitOn w s).agenda = s.agenda := rfl
@[simp] theorem waitOn_fresh (w : Wake) (s : State) : (waitOn w s).fresh = s.fresh := rfl
@[simp] theorem waitOn_iss (w : Wake) (s : State) : (waitOn w s).iss = s.iss := rfl
@[simp] theorem waitOn_pipeHold (w : Wake) (s : State) : (waitOn w s).pipeHold = s.pipeHold := rfl
@[simp] theorem waitOn_pipe (w : Wake) (s : State) : (waitOn w s).pipe = s.pipe := rfl
@[simp] theorem waitOn_boot (w : Wake) (s : State) : (waitOn w s).boot = s.boot := rfl
@[simp] theorem waitOn_power (w : Wake) (s : State) : (waitOn w s).power = s.power := rfl
@[simp] theorem waitOn_host (w : Wake) (s : State) : (waitOn w s).host = s.host := rfl
@[simp] theorem waitOn_staged (w : Wake) (s : State) : (waitOn w s).staged = s.staged := rfl
@[simp] theorem waitOn_booting (w : Wake) (s : State) : (waitOn w s).booting = s.booting := rfl
@[simp] theorem waitOn_image (w : Wake) (s : State) : (waitOn w s).image = s.image := rfl
@[simp] theorem waitOn_queues (w : Wake) (s : State) : (waitOn w s).queues = s.queues := rfl
@[simp] theorem waitOn_kernels (w : Wake) (s : State) : (waitOn w s).kernels = s.kernels := rfl
@[simp] theorem waitOn_teams (w : Wake) (s : State) : (waitOn w s).teams = s.teams := rfl
@[simp] theorem waitOn_cohorts (w : Wake) (s : State) : (waitOn w s).cohorts = s.cohorts := rfl
@[simp] theorem waitOn_reqs (w : Wake) (s : State) : (waitOn w s).reqs = s.reqs := rfl
@[simp] theorem waitOn_cores (w : Wake) (s : State) : (waitOn w s).cores = s.cores := rfl
@[simp] theorem waitOn_quads (w : Wake) (s : State) : (waitOn w s).quads = s.quads := rfl
@[simp] theorem waitOn_parts (w : Wake) (s : State) : (waitOn w s).parts = s.parts := rfl
@[simp] theorem waitOn_dies (w : Wake) (s : State) : (waitOn w s).dies = s.dies := rfl
@[simp] theorem waitOn_bounds (w : Wake) (s : State) : (waitOn w s).bounds = s.bounds := rfl
@[simp] theorem waitOn_ctxs (w : Wake) (s : State) : (waitOn w s).ctxs = s.ctxs := rfl
@[simp] theorem waitOn_ops (w : Wake) (s : State) : (waitOn w s).ops = s.ops := rfl
@[simp] theorem waitOn_late (w : Wake) (s : State) : (waitOn w s).late = s.late := rfl
@[simp] theorem waitOn_lines (w : Wake) (s : State) : (waitOn w s).lines = s.lines := rfl
@[simp] theorem waitOn_torus (w : Wake) (s : State) : (waitOn w s).torus = s.torus := rfl
@[simp] theorem waitOn_pages (w : Wake) (s : State) : (waitOn w s).pages = s.pages := rfl
@[simp] theorem waitOn_memErrs (w : Wake) (s : State) : (waitOn w s).memErrs = s.memErrs := rfl
@[simp] theorem waitOn_domain (w : Wake) (s : State) : (waitOn w s).domain = s.domain := rfl
@[simp] theorem waitOn_routing (w : Wake) (s : State) : (waitOn w s).routing = s.routing := rfl
@[simp] theorem waitOn_linkNet (w : Wake) (s : State) : (waitOn w s).linkNet = s.linkNet := rfl
@[simp] theorem waitOn_binds (w : Wake) (s : State) : (waitOn w s).binds = s.binds := rfl
@[simp] theorem waitOn_linkDown (w : Wake) (s : State) : (waitOn w s).linkDown = s.linkDown := rfl
@[simp] theorem waitOn_reports (w : Wake) (s : State) : (waitOn w s).reports = s.reports := rfl

end Sys2Proof.Machine
end

