-- ==== Sys2Proof/Laws/Ops.lean ====
section
/-! SUPPORT. What the shared operations over groups, paths and registers do: admission, arithmetic that lands, waiting,
taking a trap. Each is said once; statements about an instruction cite these. -/

namespace Sys2Proof.Machine
open Sys2Proof.Claims

theorem modGroup_of {s : State} {gid : Nat} {g : Group} (h : s.group? gid = some g) (f : Group → Group) :
    s.modGroup gid f = { s with groups := s.groups.put gid (f g) } := by
  simp only [State.modGroup, SMap.adjust_eq_put s.groups f h]

theorem Group.modPath_of {g : Group} {slot : Nat} {p : Path} (h : g.paths.find? slot = some p) (f : Path → Path) :
    g.modPath slot f = { g with paths := g.paths.put slot (f p) } := by
  simp only [Group.modPath, SMap.adjust_eq_put g.paths f h]

theorem modPath_of {s : State} {g : Group} {p : Path} (h : Issuing s g p) (f : Path → Path) :
    s.modPath f = { s with groups := s.groups.put s.iss.gid { g with paths := g.paths.put s.iss.slot (f p) } } := by
  simp only [State.modPath, State.modPathAt, modGroup_of h.group, Group.modPath_of h.path]

@[simp] theorem group_put_self (s : State) (gid : Nat) (g : Group) :
    State.group? { s with groups := s.groups.put gid g } gid = some g := by simp [State.group?]

theorem group_put (s : State) (gid j : Nat) (g : Group) :
    State.group? { s with groups := s.groups.put gid g } j = if j = gid then some g else s.group? j := by
  simp [State.group?, SMap.find?_put]

/-- An instruction that is admitted passes every check of R72. -/
theorem gate_admitted {a : Adm} {s : State} {g : Group} {p : Path} (h : Admitted a s g p) : gate a s g p = .go := by
  have h1 : (a.rd ++ a.wr).any (outOfBudget g) = false := by
    simpa only [List.any_eq_false, Bool.not_eq_true] using h.budget
  have h2 : a.wr.contains (2, 0) = false := by simpa using h.noM0
  have h3 : g.damagedAmong (a.rd ++ predReg s.iss.pre) = none := by
    simp only [Group.damagedAmong, Option.map_eq_none_iff, List.find?_eq_none, List.contains_eq_mem, decide_eq_true_eq]
    exact h.sound
  have h5 : (a.acc.rnd && decide (6 ≤ rmode s g)) = false := by
    cases hr : a.acc.rnd
    · rfl
    · simp [Nat.not_le.mpr (h.rounding hr)]
  have h4 : (a.full && decide (p.mask ≠ BitVec.allOnes 32)) = false := by
    cases hf : a.full
    · rfl
    · simp [h.full hf]
  unfold gate
  simp only [h.prefixes, h.fields, h.who, h1, h2, h4, h5, h.pipes, h.score, h3, Bool.not_true, Bool.or_self, Bool.false_eq_true,
    if_false]

/-- Without an issuing path nothing issues. -/
theorem onPath_issuing {s : State} {g : Group} {p : Path} (h : Issuing s g p) (k : Group → Path → State) :
    onPath s k = .next (k g p) := by
  simp only [onPath, h.group, h.path]

/-- ADMITTED: the effect runs. -/
theorem gated_admitted {a : Adm} {s : State} {g : Group} {p : Path} (h : Admitted a s g p) (k : Group → Path → State → State) :
    gated a s k = .next (issued a.count s p (k g p)) := by
  simp only [gated, onPath_issuing h.toIssuing, gate_admitted h]

/-- NOT ADMITTED: the trap that admission found is taken, but for a damaged register, which is also logged. -/
theorem gated_trap {a : Adm} {s : State} {g : Group} {p : Path} {c : Cause} {n : Nat} (h : Issuing s g p)
    (hg : gate a s g p = .trap c n) (hc : c ≠ .regfault) (k : Group → Path → State → State) :
    gated a s k = .next (trapAt c n s) := by
  simp only [gated, onPath_issuing h, hg]

theorem advance_of {s : State} {g : Group} {p : Path} (h : Issuing s g p) :
    advance s = { s with groups := s.groups.put s.iss.gid { g with paths := g.paths.put s.iss.slot (nextPath s p) } } := by
  simp only [advance, modPath_of h, nextPath]

@[simp] theorem Group.mend_s (g : Group) (w : RegW) : (g.mend w).s = g.s := rfl
@[simp] theorem Group.mend_v (g : Group) (w : RegW) : (g.mend w).v = g.v := rfl
@[simp] theorem Group.mend_m (g : Group) (w : RegW) : (g.mend w).m = g.m := rfl
@[simp] theorem Group.mend_paths (g : Group) (w : RegW) : (g.mend w).paths = g.paths := rfl

theorem Group.put1_paths (g : Group) (w : RegW) : (g.put1 w).paths = g.paths := by
  cases w <;> simp only [Group.put1] <;> (try split_ifs) <;> rfl

/-- A register write changes registers, and what is damaged; nothing else of the group. -/
theorem Group.put1_frame (g : Group) (w : RegW) :
    g.put1 w = { g with s := (g.put1 w).s, v := (g.put1 w).v, m := (g.put1 w).m, damaged := (g.put1 w).damaged } := by
  cases w <;> simp only [Group.put1] <;> (try split_ifs) <;> rfl

theorem Group.mem_put1_damaged {g : Group} {w : RegW} {c : Nat × Nat} (h : c ∈ (g.put1 w).damaged) : c ∈ g.damaged := by
  cases w <;> simp only [Group.put1] at h <;> (try split_ifs at h) <;>
    first | exact h | exact (List.mem_filter.mp h).1

theorem Group.mem_damaged_put1 {g : Group} {w : RegW} {c : Nat × Nat} (h : c ∈ g.damaged) (hc : c ≠ w.cell) :
    c ∈ (g.put1 w).damaged := by
  have k : c ∈ (g.mend w).damaged := List.mem_filter.mpr ⟨h, decide_eq_true hc⟩
  cases w <;> simp only [Group.put1] <;> (try split_ifs) <;> first | exact k | exact h

/-- A cell damaged after register writes was damaged before. -/
theorem Group.mem_puts_damaged {ws : List RegW} {g : Group} {c : Nat × Nat} (h : c ∈ (g.puts ws).damaged) : c ∈ g.damaged := by
  unfold Group.puts at h
  induction ws generalizing g with
  | nil => exact h
  | cons w t ih => exact Group.mem_put1_damaged (ih h)

/-- A damaged cell that no write of the list names stays damaged. -/
theorem Group.mem_damaged_puts {ws : List RegW} {g : Group} {c : Nat × Nat} (h : c ∈ g.damaged) (hc : ∀ w ∈ ws, c ≠ w.cell) :
    c ∈ (g.puts ws).damaged := by
  unfold Group.puts
  induction ws generalizing g with
  | nil => exact h
  | cons w t ih => exact ih (Group.mem_damaged_put1 h (hc w (by simp))) fun x hx => hc x (by simp [hx])

theorem Group.puts_frame (ws : List RegW) (g : Group) :
    g.puts ws = { g with s := (g.puts ws).s, v := (g.puts ws).v, m := (g.puts ws).m, damaged := (g.puts ws).damaged } := by
  unfold Group.puts
  induction ws generalizing g with
  | nil => rfl
  | cons w t ih =>
    simp only [List.foldl_cons]
    refine (ih (g.put1 w)).trans ?_
    generalize List.foldl Group.put1 (g.put1 w) t = h
    have e := Group.put1_frame g w
    generalize g.put1 w = k at e ⊢
    rw [e]

@[simp] theorem Path.fresh_fpx (p : Path) : p.fresh.fpx = p.fpx := rfl

theorem advance_put {s : State} {g : Group} {p : Path} (h : g.paths.find? s.iss.slot = some p) :
    advance { s with groups := s.groups.put s.iss.gid g } =
      { s with groups := s.groups.put s.iss.gid { g with paths := g.paths.put s.iss.slot (nextPath s p) } } := by
  have hi : Issuing { s with groups := s.groups.put s.iss.gid g } g p := ⟨group_put_self _ _ _, h⟩
  rw [advance_of hi]
  simp only [SMap.put_put]
  rfl

theorem nextPath_fpx (s : State) (p : Path) (x : Option TrapRec) :
    nextPath s { p with fpx := x } = { nextPath s p with fpx := x } := by
  unfold nextPath; split <;> rfl

/-- Arithmetic that lands at once: registers, flags, the FPX trap that becomes due, and the path goes on. -/
theorem land_of {s : State} {g : Group} {p : Path} (h : Issuing s g p) (hp : s.pipeHold = false) (ws : List RegW) (fl : Nat) :
    land ws fl s = { s with groups := s.groups.put s.iss.gid { g.puts ws with
      fpflags := g.fpflags ||| BitVec.ofNat 64 fl
      paths := g.paths.put s.iss.slot { nextPath s p with fpx := fpxDue s g p fl } } } := by
  have hf := Group.puts_frame ws g
  have hfl : (g.puts ws).fpflags = g.fpflags := by rw [hf]
  have hpa : (g.puts ws).paths = g.paths := by rw [hf]
  have hmo : (g.puts ws).fpmode = g.fpmode := by rw [hf]
  let e : PipeE := ⟨s.iss.gid, s.iss.slot, ws, fl, g.te, s.iss.addr, s.iss.next, s.iss.nextRep⟩
  have hl : land ws fl s = advance (landE s e) := by
    unfold land
    simp only [hp, h.group, Option.map_some, Option.getD_some, Bool.false_and, Bool.false_eq_true, if_false, e]
  have key : landE s e = { s with groups := s.groups.put s.iss.gid { g.puts ws with
      fpflags := g.fpflags ||| BitVec.ofNat 64 fl
      paths := if fl &&& fld g.fpmode.toNat 5 5 = 0 then g.paths else g.paths.put s.iss.slot { p with fpx := fpxDue s g p fl } } } := by
    unfold landE
    rw [modGroup_of h.group]
    dsimp only [e, Group.te]
    by_cases h1 : fl &&& fld g.fpmode.toNat 5 5 = 0
    · simp only [if_pos h1, hpa]
    · simp only [if_neg h1]
      rw [Group.modPath_of (p := p) (by exact hpa ▸ h.path)]
      simp only [hpa, fpxDue, if_neg h1]
      obtain ⟨x, hx⟩ | hx := Option.eq_none_or_eq_some p.fpx |>.symm
      · have : { p with fpx := some x } = p := by rw [← hx]
        simp [hx, this]
      · simp [hx]
  rw [hl, key]
  by_cases h1 : fl &&& fld g.fpmode.toNat 5 5 = 0
  · simp only [if_pos h1]
    refine (advance_put (g := { g.puts ws with fpflags := g.fpflags ||| BitVec.ofNat 64 fl, paths := g.paths }) h.path).trans ?_
    simp only [fpxDue, if_pos h1]
    simp only [nextPath]
    split <;> rfl
  · simp only [if_neg h1]
    rw [advance_put (SMap.find?_put_self _ _ _)]
    simp only [SMap.put_put, nextPath_fpx]

theorem Group.puts_paths (ws : List RegW) (g : Group) (x : SMap Path) :
    ({ g with paths := x } : Group).puts ws = { g.puts ws with paths := x } := by
  unfold Group.puts
  induction ws generalizing g with
  | nil => rfl
  | cons w t ih =>
    simp only [List.foldl_cons]
    rw [← ih (g.put1 w)]
    congr 1
    cases w <;> simp only [Group.put1] <;> (try split_ifs) <;> rfl

theorem nextPath_counted (s : State) (p : Path) (b : Bool) : nextPath s { p with counted := b } = nextPath s p := by
  unfold nextPath; split <;> rfl

/-- An instruction counted once: what `countOne` makes of a state whose issuing group is `g`. -/
theorem countOne_put (s : State) (gid : Nat) (g : Group) :
    countOne gid { s with groups := s.groups.put gid g } =
      let h := s.hb g.place.core g.ctx
      let g' : Group := if h.mode ≠ 1 then g else if h.period ≤ g.hbCount + 1 then { g with hbCount := 0, tickDue := true }
        else { g with hbCount := g.hbCount + 1 }
      { s with groups := s.groups.put gid g' } := by
  dsimp only
  unfold countOne
  rw [group_put_self]
  have e : State.hb { s with groups := s.groups.put gid g } g.place.core g.ctx = s.hb g.place.core g.ctx := rfl
  simp only [e]
  split_ifs
  · rfl
  · rw [modGroup_of (group_put_self _ _ _)]; simp only [SMap.put_put]
  · rw [modGroup_of (group_put_self _ _ _)]; simp only [SMap.put_put]

/-- ARITHMETIC ADMITTED AND LANDED, with its count under %hbmode (R25, R27, R64, R244, R370): `x` is the state with what
the draws and free values took. -/
theorem issued_land {s : State} {g : Group} {p : Path} (h : Issuing s g p) (hp : s.pipeHold = false) (ws : List RegW)
    (fl : Nat) (P : SMap Part) (F : Nat) :
    issued true s p (fun u => land ws fl { u with parts := P, fresh := F }) =
      { s with parts := P, fresh := F, groups := s.groups.put s.iss.gid { g.puts ws with
        fpflags := g.fpflags ||| BitVec.ofNat 64 fl
        hbCount := (countedBeat s g p).1
        tickDue := (countedBeat s g p).2
        paths := g.paths.put s.iss.slot { nextPath s p with fpx := fpxDue s g p fl } } } := by
  have hf := Group.puts_frame ws g
  unfold issued
  by_cases hc : p.counted
  · simp only [hc, Bool.true_or, if_true]
    rw [land_of (s := { s with parts := P, fresh := F }) (g := g) (p := p) ⟨h.group, h.path⟩ hp]
    have e : countedBeat s g p = (g.hbCount, g.tickDue) := by simp [countedBeat, hc]
    rw [e]
    have e1 : (g.puts ws).hbCount = g.hbCount := by rw [hf]
    have e2 : (g.puts ws).tickDue = g.tickDue := by rw [hf]
    rw [← e1, ← e2]
    rfl
  · simp only [hc, Bool.not_true, Bool.or_self, Bool.false_eq_true, if_false]
    rw [modPath_of h]
    set q : Path := { p with counted := true } with hq
    set g1 : Group := { g with paths := g.paths.put s.iss.slot q } with hg1
    rw [land_of (s := { s with groups := s.groups.put s.iss.gid g1, parts := P, fresh := F }) (g := g1) (p := q)
      ⟨group_put_self _ _ _, by simp [hg1]⟩ hp]
    simp only [SMap.put_put]
    have e := countOne_put { s with parts := P, fresh := F } s.iss.gid { g1.puts ws with
      fpflags := g1.fpflags ||| BitVec.ofNat 64 fl
      paths := g1.paths.put s.iss.slot
        { nextPath { s with groups := s.groups.put s.iss.gid g1, parts := P, fresh := F } q with
          fpx := fpxDue { s with groups := s.groups.put s.iss.gid g1, parts := P, fresh := F } g1 q fl } }
    refine e.trans ?_
    rw [hg1, Group.puts_paths]
    simp only [SMap.put_put, hq]
    have e0 : (g.puts ws).place = g.place := by rw [hf]
    have e1 : (g.puts ws).hbCount = g.hbCount := by rw [hf]
    have e2 : (g.puts ws).tickDue = g.tickDue := by rw [hf]
    have e3 : (g.puts ws).ctx = g.ctx := by rw [hf]
    have e4 : ∀ c d, State.hb { s with parts := P, fresh := F } c d = s.hb c d := fun _ _ => rfl
    have e5 : ∀ G : SMap Group, nextPath { s with groups := G, parts := P, fresh := F } { p with counted := true } =
      nextPath s p := fun _ => nextPath_counted s p true
    have e6 : ∀ (G : SMap Group) (x : SMap Path), fpxDue { s with groups := G, parts := P, fresh := F } { g with paths := x }
      { p with counted := true } fl = fpxDue s g p fl := fun _ _ => rfl
    simp only [e0, e1, e2, e3, e4, e5, e6]
    clear e
    by_cases hm : (s.hb g.place.core g.ctx).mode = 1
    · by_cases hl : (s.hb g.place.core g.ctx).period ≤ g.hbCount + 1
      · have eb : countedBeat s g p = (0, true) := by simp [countedBeat, hc, hm, hl]
        simp only [eb, hm, hl, ne_eq, not_true_eq_false, if_false, if_true]
      · have eb : countedBeat s g p = (g.hbCount + 1, g.tickDue) := by simp [countedBeat, hc, hm, hl]
        simp only [eb, hm, hl, ne_eq, not_true_eq_false, if_false]
    · have eb : countedBeat s g p = (g.hbCount, g.tickDue) := by simp [countedBeat, hc, hm]
      simp only [eb, hm, ne_eq, not_false_eq_true, if_true]


/-- ARITHMETIC COMPUTES: admitted, with the pipes not held, it completes with the registers that its writes give. -/
theorem computes_of {a : Adm} {s : State} {g : Group} {p : Path} (h : Admitted a s g p) (hc : a.count = true)
    (hp : s.pipeHold = false) (ws : List RegW) (fl : Nat) (P : SMap Part) (F : Nat) (k : Group → Path → State → State)
    (hk : ∀ G, k g p { s with groups := G } = land ws fl { s with groups := G, parts := P, fresh := F })
    {rs : Nat → W64} {rv : Nat → Nat → W64} {rm : Nat → W32} (hs : ∀ n, rS (g.puts ws) n = rs n)
    (hv : ∀ n l, l < 32 → rV (g.puts ws) n l = rv n l) (hm : ∀ n, n ≠ 0 → (g.puts ws).m.get 0 n = rm n)
    {W : List RegN} (hw : ∀ w ∈ ws, cellReg w.cell ∈ W) :
    ∃ t, gated a s k = .next t ∧ Computes s { s with parts := P, fresh := F } t g p W rs rv rm fl := by
  refine ⟨_, gated_admitted h k, ?_⟩
  have e : issued a.count s p (k g p) = issued true s p (fun u => land ws fl { u with parts := P, fresh := F }) := by
    rw [hc]; unfold issued
    split
    · exact hk s.groups
    · exact congrArg _ (hk _)
  rw [e, issued_land h.toIssuing hp]
  refine ⟨rfl, ?_, ?_⟩
  · intro j hj; simp [State.group?, SMap.find?_put_ne _ _ hj]
  · refine ⟨_, _, group_put_self _ _ _, SMap.find?_put_self _ _ _, hs, hv, hm, fun _ h => Group.mem_puts_damaged h,
      fun c h hc => Group.mem_damaged_puts h fun w hx e => hc (e ▸ hw w hx), ?_, ?_, rfl⟩
    · have := Group.puts_frame ws g
      rw [this]
    · intro j hj; exact SMap.find?_put_ne _ _ hj

theorem rS_puts_s (g : Group) (d : Nat) (v : W64) (n : Nat) : rS (g.puts [.s d v]) n = setS g d v n := by
  simp only [Group.puts, List.foldl_cons, List.foldl_nil, Group.put1, rS, setS]
  by_cases h0 : n = 0
  · simp [h0]
  · by_cases hd : d = 0
    · have : n ≠ d := by omega
      simp [h0, hd]
    · simp [h0, hd, SMap.get_set]

theorem rV_puts_s (g : Group) (d : Nat) (v : W64) (n l : Nat) : rV (g.puts [.s d v]) n l = rV g n l := by
  simp only [Group.puts, List.foldl_cons, List.foldl_nil, Group.put1, rV]; split_ifs <;> rfl

theorem m_puts_s (g : Group) (d : Nat) (v : W64) : (g.puts [.s d v]).m = g.m := by
  simp only [Group.puts, List.foldl_cons, List.foldl_nil, Group.put1]; split_ifs <;> rfl

theorem rS_puts_m (g : Group) (d : Nat) (x : W32) (n : Nat) : rS (g.puts [.m d x]) n = rS g n := by
  simp only [Group.puts, List.foldl_cons, List.foldl_nil, Group.put1, rS]; split_ifs <;> rfl

theorem rV_puts_m (g : Group) (d : Nat) (x : W32) (n l : Nat) : rV (g.puts [.m d x]) n l = rV g n l := by
  simp only [Group.puts, List.foldl_cons, List.foldl_nil, Group.put1, rV]; split_ifs <;> rfl

theorem m_puts_m (g : Group) (d : Nat) (x : W32) {n : Nat} (h : n ≠ 0) : (g.puts [.m d x]).m.get 0 n = setM g d x n := by
  simp only [Group.puts, List.foldl_cons, List.foldl_nil, Group.put1, setM]
  by_cases hd : d = 0
  · have : n ≠ d := by omega
    simp [hd, h]
  · simp [hd, SMap.get_set]

/-- Lane writes touch vector registers only. -/
theorem puts_lanes (d : Nat) (ls : List (Nat × W64)) (g : Group) :
    (g.puts (ls.map fun q => .v d q.1 q.2)).s = g.s ∧ (g.puts (ls.map fun q => .v d q.1 q.2)).m = g.m := by
  unfold Group.puts
  induction ls generalizing g with
  | nil => exact ⟨rfl, rfl⟩
  | cons q t ih => simpa [Group.put1] using ih (g.put1 (.v d q.1 q.2))

theorem rV_put1_v (g : Group) (d l' : Nat) (x : W64) (n l : Nat) (hl : l < 32) (hl' : l' < 32) :
    rV (g.put1 (.v d l' x)) n l = if n = d ∧ l = l' then x else rV g n l := by
  simp only [Group.put1, rV, SMap.get_set]
  by_cases h : 32 * n + l = 32 * d + l'
  · have : n = d ∧ l = l' := by omega
    simp [this]
  · have : ¬(n = d ∧ l = l') := by omega
    simp [h, this]

/-- Lane writes to distinct lanes: each lane listed reads its value, the others read as before. -/
theorem rV_puts_lanes (d : Nat) (ls : List (Nat × W64)) (hn : (ls.map Prod.fst).Nodup) (hb : ∀ q ∈ ls, q.1 < 32) (g : Group)
    (n l : Nat) (hl : l < 32) :
    rV (g.puts (ls.map fun q => .v d q.1 q.2)) n l =
      if n = d then ((ls.find? fun q => q.1 = l).map Prod.snd).getD (rV g n l) else rV g n l := by
  unfold Group.puts
  induction ls generalizing g with
  | nil => simp
  | cons q t ih =>
    have hq : q.1 < 32 := hb q (by simp)
    have ht : (t.map Prod.fst).Nodup := (List.nodup_cons.mp hn).2
    simp only [List.map_cons, List.foldl_cons]
    rw [ih ht (fun x hx => hb x (by simp [hx])), rV_put1_v _ _ _ _ _ _ hl hq]
    by_cases hd : n = d
    · simp only [hd, true_and, if_true, List.find?_cons]
      by_cases hlq : q.1 = l
      · have hnone : t.find? (fun x => x.1 = l) = none := by
          rw [List.find?_eq_none]
          intro x hx hxl
          simp only [decide_eq_true_eq] at hxl
          exact (List.nodup_cons.mp hn).1 (List.mem_map.mpr ⟨x, hx, hxl.trans hlq.symm⟩)
        simp [hlq, hnone]
      · simp [hlq, Ne.symm hlq]
    · simp [hd]

theorem mem_lanesOf (m : W32) (l : Nat) : l ∈ lanesOf m ↔ l < 32 ∧ m.getLsbD l = true := by
  simp [lanesOf]

theorem lanesOf_nodup (m : W32) : (lanesOf m).Nodup := List.Nodup.filter _ List.nodup_range

/-- The writes of a vector result: the acting lanes take their values. -/
theorem rV_puts_vWrites (s : State) (g : Group) (p : Path) (d : Nat) (f : Nat → W64) (n l : Nat) (hl : l < 32) :
    rV (g.puts (vWrites d (actLanes s g p) f)) n l = setV s g p d f n l := by
  have e : vWrites d (actLanes s g p) f = ((actLanes s g p).map fun k => (k, f k)).map fun q => RegW.v d q.1 q.2 := by
    simp [vWrites, Function.comp_def]
  have hl' : ∀ k ∈ actLanes s g p, k < 32 := fun k hk => ((mem_lanesOf _ _).mp hk).1
  rw [e, rV_puts_lanes _ _ (by simpa [Function.comp_def, actLanes] using lanesOf_nodup (act s g p)) (by simpa using hl') _ _ _ hl]
  simp only [setV, List.find?_map]
  by_cases hd : n = d
  · simp only [hd, true_and, if_true]
    by_cases ha : (act s g p).getLsbD l = true
    · rw [if_pos ha]
      have : (actLanes s g p).find? (fun k => decide (k = l)) = some l := by
        have hm : l ∈ actLanes s g p := (mem_lanesOf _ _).mpr ⟨hl, ha⟩
        have h2 := List.find?_isSome (p := fun k => decide (k = l)) (xs := actLanes s g p)
        obtain ⟨k, hk⟩ := Option.isSome_iff_exists.mp (h2.mpr ⟨l, hm, by simp⟩)
        have hkl : k = l := by simpa using List.find?_some hk
        subst hkl
        exact hk
      simp [this]
    · rw [if_neg ha]
      have : (actLanes s g p).find? (fun k => decide (k = l)) = none := by
        rw [List.find?_eq_none]
        intro k hk hkl
        simp only [decide_eq_true_eq] at hkl
        subst hkl
        exact ha ((mem_lanesOf _ _).mp hk).2
      simp [Function.comp_def, this]
  · simp [hd]

/-- AN ADMITTED INSTRUCTION PASSES: its effect changes the state to `u`, whose groups are those of `s`, the record of its
group by `e`, and its path by `f`; it is counted once. `f0` is what the meaning does to the path, which it marks counted. -/
theorem issued_passes {s u : State} {g : Group} {p : Path} (h : Issuing s g p) (k : State → State) (e : Group → Group)
    (f0 f : Path → Path) (hg : u.groups = s.groups) (hi : u.iss = s.iss)
    (he : ∀ x, e { g with paths := x } = { e g with paths := x }) (ec : (e g).ctx = g.ctx) (ep : (e g).place = g.place)
    (eh : (e g).hbCount = g.hbCount) (et : (e g).tickDue = g.tickDue) (epa : (e g).paths = g.paths)
    (hf : f0 { p with counted := true } = f p) (hf' : p.counted = true → f0 p = f p)
    (hk : ∀ (G : SMap Group) (x : SMap Path) (q : Path), G.find? s.iss.gid = some { g with paths := x } →
      x.find? s.iss.slot = some q → k { s with groups := G } =
        { u with groups := G.put s.iss.gid { e g with paths := x.put s.iss.slot (f0 q) } }) :
    issued true s p k = passes s g p f (u.modGroup s.iss.gid e) := by
  have hu : u.group? s.iss.gid = some g := by unfold State.group?; rw [hg]; exact h.group
  have er : passes s g p f (u.modGroup s.iss.gid e) = { u with groups := s.groups.put s.iss.gid { e g with
      hbCount := (countedBeat u g p).1, tickDue := (countedBeat u g p).2, paths := g.paths.put s.iss.slot (f p) } } := by
    have ec : countedBeat { u with groups := u.groups.put s.iss.gid (e g) } g p = countedBeat u g p := rfl
    rw [modGroup_of hu, passes, modGroup_of (group_put_self _ _ _), ec]
    simp only [SMap.put_put, hg]
    rw [SMap.adjust_eq_put _ f (epa.symm ▸ h.path), epa]
  rw [er]
  unfold issued
  by_cases hc : p.counted
  · simp only [hc, Bool.true_or, if_true]
    have e1 : k s = _ := hk s.groups g.paths p h.group h.path
    rw [e1, hf' hc]
    have eb : countedBeat u g p = (g.hbCount, g.tickDue) := by simp [countedBeat, hc]
    rw [eb, ← eh, ← et]
  · simp only [hc, Bool.not_true, Bool.or_self, Bool.false_eq_true, if_false]
    rw [modPath_of h, hk _ (g.paths.put s.iss.slot { p with counted := true }) _ (SMap.find?_put_self _ _ _)
      (SMap.find?_put_self _ _ _), SMap.put_put, SMap.put_put, hf]
    have e2 := countOne_put u s.iss.gid { e g with paths := g.paths.put s.iss.slot (f p) }
    rw [hg] at e2
    refine e2.trans ?_
    simp only [ep, ec, eh]
    by_cases hm : (u.hb g.place.core g.ctx).mode = 1
    · by_cases hl : (u.hb g.place.core g.ctx).period ≤ g.hbCount + 1
      · have eb : countedBeat u g p = (0, true) := by simp [countedBeat, hc, hm, hl]
        simp only [eb, hm, hl, ne_eq, not_true_eq_false, if_false, if_true]
      · have eb : countedBeat u g p = (g.hbCount + 1, g.tickDue) := by simp [countedBeat, hc, hm, hl]
        simp only [eb, hm, hl, ne_eq, not_true_eq_false, if_false, ← et]
    · have eb : countedBeat u g p = (g.hbCount, g.tickDue) := by simp [countedBeat, hc, hm]
      simp only [eb, hm, ne_eq, not_false_eq_true, if_true, ← et, ← eh]

theorem passes_id {s u : State} {g h : Group} {p : Path} (f : Path → Path) (hu : u.group? s.iss.gid = some h) :
    passes s g p f (u.modGroup s.iss.gid id) = passes s g p f u := by
  unfold passes
  rw [modGroup_of hu, modGroup_of (group_put_self _ _ _), modGroup_of hu]
  simp only [id_eq, SMap.put_put]
  rfl

/-- The same for an effect that leaves the groups alone. -/
theorem passes_of {s u : State} {g : Group} {p : Path} (h : Issuing s g p) (k : State → State) (f0 f : Path → Path)
    (hg : u.groups = s.groups) (hi : u.iss = s.iss)
    (hf : f0 { p with counted := true } = f p) (hf' : p.counted = true → f0 p = f p)
    (hk : ∀ (G : SMap Group) (x : SMap Path) (q : Path), G.find? s.iss.gid = some { g with paths := x } →
      x.find? s.iss.slot = some q → k { s with groups := G } =
        { u with groups := G.put s.iss.gid { g with paths := x.put s.iss.slot (f0 q) } }) :
    issued true s p k = passes s g p f u :=
  (issued_passes h k id f0 f hg hi (fun _ => rfl) rfl rfl rfl rfl rfl hf hf' hk).trans
    (passes_id f (by unfold State.group?; rw [hg]; exact h.group))

theorem advance_at {s : State} {g : Group} {G : SMap Group} {x : SMap Path} {q : Path}
    (hg : G.find? s.iss.gid = some { g with paths := x }) (hx : x.find? s.iss.slot = some q) :
    advance { s with groups := G } =
      { s with groups := G.put s.iss.gid { g with paths := x.put s.iss.slot (nextPath s q) } } := by
  have hi : Issuing { s with groups := G } { g with paths := x } q := ⟨hg, hx⟩
  rw [advance_of hi]; rfl

theorem modPath_at {s : State} {g : Group} {G : SMap Group} {x : SMap Path} {q : Path} (f : Path → Path)
    (hg : G.find? s.iss.gid = some { g with paths := x }) (hx : x.find? s.iss.slot = some q) :
    ({ s with groups := G } : State).modPath f =
      { s with groups := G.put s.iss.gid { g with paths := x.put s.iss.slot (f q) } } := by
  have hi : Issuing { s with groups := G } { g with paths := x } q := ⟨hg, hx⟩
  rw [modPath_of hi]

/-- An effect that leaves the groups alone, after which the path goes on. -/
theorem goesOn_of {s u : State} {g : Group} {p : Path} (h : Issuing s g p) (k : State → State) (hg : u.groups = s.groups)
    (hi : u.iss = s.iss) (hk : ∀ G, k { s with groups := G } = advance { u with groups := G }) :
    issued true s p k = goesOn s g p u := by
  have hn : ∀ q, nextPath u q = nextPath s q := fun q => by unfold nextPath; rw [hi]
  refine passes_of h k (nextPath s) (nextPath s) hg hi (nextPath_counted s p true) (fun _ => rfl) fun G x q h1 h2 => ?_
  rw [hk, ← hi, advance_at (hi ▸ h1) (hi ▸ h2), hn]

/-- The path goes on at `t`. -/
theorem goesTo_of {s u : State} {g : Group} {p : Path} (h : Issuing s g p) (k : State → State) (t : W64)
    (hg : u.groups = s.groups) (hi : u.iss = s.iss)
    (hk : ∀ G, k { s with groups := G } = goTo t { u with groups := G }) : issued true s p k = goesTo s g p t u := by
  refine passes_of h k (fun q => { q.fresh with pc := t, rep := 0 }) _ hg hi rfl (fun _ => rfl) fun G x q h1 h2 => ?_
  rw [hk, ← hi]; exact modPath_at _ (hi ▸ h1) (hi ▸ h2)

/-- The path waits for `w` and takes its instruction again. -/
theorem waitsOn_of {s u : State} {g : Group} {p : Path} (h : Issuing s g p) (k : State → State) (w : Wake)
    (hg : u.groups = s.groups) (hi : u.iss = s.iss)
    (hk : ∀ G, k { s with groups := G } = waitOn w { u with groups := G }) : issued true s p k = waitsOn s g p w u := by
  refine passes_of (u := { u with nextId := u.nextId + 1 }) h k (fun q => q.wait w u.nextId) _ hg hi rfl (fun hc => ?_)
    fun G x q h1 h2 => ?_
  · unfold Path.wait; simp only [hc]
  · rw [hk, ← hi]; unfold waitOn; rw [modPath_at _ (hi ▸ h1) (hi ▸ h2)]

/-- The path waits for `w` and goes on at `t`. -/
theorem waitsThen_of {s u : State} {g : Group} {p : Path} (h : Issuing s g p) (k : State → State) (w : Wake) (t : W64)
    (hg : u.groups = s.groups) (hi : u.iss = s.iss)
    (hk : ∀ G, k { s with groups := G } = waitThen w t { u with groups := G }) : issued true s p k = waitsThen s g p w t u := by
  refine passes_of (u := { u with nextId := u.nextId + 1 }) h k (fun q => { q.wait w u.nextId with after_ := t }) _ hg hi rfl
    (fun hc => ?_) fun G x q h1 h2 => ?_
  · unfold Path.wait; simp only [hc]
  · rw [hk, ← hi]; unfold waitThen; rw [modPath_at _ (hi ▸ h1) (hi ▸ h2)]

/-- A TRAP of an ordinary group's path. -/
theorem trapPath_of {s : State} {g : Group} {slot : Nat} {gid : Nat} (h : s.group? gid = some g) (ho : Ordinary g) (t : TrapRec) :
    trapPath s gid slot t = ((({ s with pipe := s.pipe.filter fun e => !(decide (e.gid = gid) && decide (e.slot = slot)) } : State).modGroup gid
      fun g => { (g.modPath slot fun p => { p with cond := .trapped t, fpx := none, since := 0, woken := none }) with
        replay := g.replay ++ s.pipe.filter fun e => decide (e.gid = gid) && decide (e.slot = slot) }).modPart g.place.partIx
          fun q => { q with trapq := q.trapq ++ [(gid, slot)] }) := by
  unfold trapPath
  rw [h]
  unfold Ordinary at ho
  simp only [ho, Bool.false_eq_true, if_false]

/-- The admitted instruction of an ordinary group traps before it takes effect. -/
theorem trapsBefore_of {s u : State} {g : Group} {p : Path} (h : Issuing s g p) (ho : Ordinary g) (k : State → State) (c : Cause)
    (n : Nat) (hg : u.groups = s.groups) (hi : u.iss = s.iss)
    (hk : ∀ G, k { s with groups := G } = trapAt c n { u with groups := G }) : issued true s p k = trapsBefore s g p c n u := by
  let mine (e : PipeE) : Bool := decide (e.gid = s.iss.gid) && decide (e.slot = s.iss.slot)
  let v : State := ({ u with pipe := u.pipe.filter fun e => !mine e } : State).modPart g.place.partIx fun q =>
    { q with trapq := q.trapq ++ [(s.iss.gid, s.iss.slot)] }
  have hv : v.group? s.iss.gid = some g := by
    have : v.groups = s.groups := hg
    unfold State.group?; rw [this]; exact h.group
  refine (issued_passes (u := v) h k (fun x => { x with replay := x.replay ++ u.pipe.filter mine })
    (fun q => { q with cond := .trapped (trapBefore s c n), fpx := none, since := 0, woken := none })
    (fun q => { q with cond := .trapped (trapBefore s c n), fpx := none, since := 0, woken := none, counted := true }) hg hi (fun _ => rfl) rfl rfl rfl rfl
    rfl rfl (fun hc => by simp only [hc]) fun G x q h1 h2 => ?_).trans ?_
  · rw [hk]
    unfold trapAt
    rw [trapPath_of (g := { g with paths := x }) (by exact hi ▸ h1) ho]
    simp only [hi]
    rw [modGroup_of (g := { g with paths := x }) (by exact h1), Group.modPath_of (by exact h2)]
    simp only [v, mine, State.modPart, trapBefore, ← hi]
  · unfold trapsBefore trapped passes
    rw [modGroup_of hv, modGroup_of (group_put_self _ _ _), modGroup_of (s := v) hv, modGroup_of (group_put_self _ _ _)]
    simp only [SMap.put_put]
    rw [SMap.adjust_eq_put _ _ h.path, SMap.adjust_eq_put _ _ h.path, SMap.adjust_eq_put _ _ (SMap.find?_put_self _ _ _),
      SMap.put_put]
    rfl

end Sys2Proof.Machine
end

