-- ==== Sys2Proof/Tests/Slice0.lean ====
section
/-! SUPPORT. The model's own tests: words of the opcode table decoded, ill-formed terms refused, values the spec writes out, and for
every clause of every statement a state and operands that meet its hypotheses together. -/
set_option Elab.async false
set_option linter.all false
set_option maxRecDepth 1000000
set_option maxHeartbeats 2000000
set_option synthInstance.maxHeartbeats 400000
set_option synthInstance.maxSize 4000
open Sys2Proof.Machine Sys2Proof.Claims
namespace Sys2Proof.Slice0

/-- Context 1 is resident on quadrant 0 of core 0, its page 0x10000 is translated for every access, and path 0 of its group 1 issues the
word at 0x10000. The event ring has room. -/
def base : State :=
  { loaded State.reset with
    agenda := []
    nextId := 10
    cycles := 1000
    host := { HostPort.reset with eqBase := 0x8000, eqSize := 8 }
    iss := { gid := 1, slot := 0, addr := 0x10000, at_ := 0x10000, next := 0x10004, pre := Prefixes.none, rep := 0 } }

/-- The issuing group and path. -/
def G (s : State) : Group :=
  (s.group? s.iss.gid).getD (Group.start s 0 { place := { core := 0, quad := 0, part := 0, pos := 0 }, base := 0, budget := 0, frags := 0 } .grid 0 0)
def P (s : State) : Path := ((G s).paths.find? s.iss.slot).getD (Path.start 0 0 0 0 false)

/-- `s` with the issuing group, path, one register or the prefixes of its instruction changed. -/
def onG (f : Group → Group) (s : State) : State := s.modGroup s.iss.gid f
def onP (f : Path → Path) (s : State) : State := s.modPath f
def S (n x : Nat) (s : State) : State := onG (fun g => g.put1 (.s n (BitVec.ofNat 64 x))) s
def V (n l x : Nat) (s : State) : State := onG (fun g => g.put1 (.v n l (BitVec.ofNat 64 x))) s
def M (n x : Nat) (s : State) : State := onG (fun g => g.put1 (.m n (BitVec.ofNat 32 x))) s
def pre (p : Prefixes) (s : State) : State := { s with iss := { s.iss with pre := p } }

/-- The conditions under which an instruction is issued, as one test. -/
def admB (a : Adm) (s : State) (g : Group) (p : Path) : Bool :=
  decide (s.group? s.iss.gid = some g) && decide (g.paths.find? s.iss.slot = some p) && prefixOk a.acc s.iss.pre && a.fields && a.who.ok g &&
  ((a.rd ++ a.wr).all fun r => !outOfBudget g r) && (!a.full || decide (p.mask = BitVec.allOnes 32)) && !(a.wr.contains (2, 0)) &&
  (!a.acc.rnd || decide (rmode s g < 6)) &&
  !pipeBusy s (a.named s) && !scoreBusy s s.iss.gid s.iss.slot p (a.named s) && g.damaged.all fun r => !((a.rd ++ predReg s.iss.pre).contains (cellReg r))
theorem adm {a s g p} (h : admB a s g p = true) : Admitted a s g p := by
  simp only [admB, Bool.and_eq_true, Bool.or_eq_true, decide_eq_true_eq, List.all_eq_true, Bool.not_eq_true', List.contains_eq_mem, decide_eq_false_iff_not] at h
  obtain ⟨⟨⟨⟨⟨⟨⟨⟨⟨⟨⟨h1, h2⟩, h3⟩, h4⟩, h5⟩, h6⟩, h7⟩, h8⟩, hr⟩, h9⟩, h10⟩, h11⟩ := h
  exact { group := h1, path := h2, prefixes := h3, fields := h4, who := h5, budget := h6, full := fun hf => by simpa [hf] using h7, noM0 := h8, rounding := fun hf => by simpa [hf] using hr, pipes := h9, score := h10, sound := h11 }

/-- What the kernel decides; admission and an ordinary group so decided. -/
theorem dd {p : Prop} (h : p := by decide +kernel) : p := h
theorem ad {a s g p} (h : admB a s g p = true := by decide +kernel) : Admitted a s g p := adm h
theorem oo {g : Group} (h : Ordinary g := by unfold Ordinary; decide +kernel) : Ordinary g := h

theorem queueOk {s : State} {g : Group} {q : Nat} (cap e : Nat) (h : padRd s g.place.core (q + 16) 2 = cap) (h1 : q % 32 = 0) (h2 : q + 32 + 256 * cap ≤ 2 ^ 21)
    (h3 : ∀ b < 512, q / 4096 ≤ b → 4096 * b < q + 32 + 256 * cap → ownsBank s g.place.core g.ctx b = true) (h4 : e ≤ 10 ∧ cap = 2 ^ e) (h5 : padRd s g.place.core (q + 18) 14 = 0) :
    queueLegal s g q := by
  subst h
  exact ⟨h1, h2, fun b x y => h3 b (by omega) x y, ⟨e, h4⟩, h5⟩
theorem getAllot {n : Nat} (l : SMap Core) (k : Nat) (h : ∀ x ∈ l, x.2.allot = []) : (SMap.get Core.reset l k).allot.get [] n = [] := by
  induction l with
  | nil => rfl
  | cons a t ih =>
    simp only [SMap.get, SMap.find?]
    by_cases e : a.1 = k
    · simp only [e, if_true, Option.getD_some, h a (List.mem_cons_self ..)]; rfl
    · simp only [e, if_false]; exact ih fun x hx => h x (List.mem_cons_of_mem _ hx)
/-- No core queues a request. -/
theorem noAllot {s : State} {n : Nat} (h : ∀ x ∈ s.cores, x.2.allot = []) (k : Nat) : allotQueue s k n = [] := getAllot s.cores k h

/-! Words: the match bits and the field places of each row of the opcode table, with a value of its own in every field. -/

theorem test_decode_sadd_to_sadds : ∀ x ∈ ([(0x04014307, .sadd 5 6 7),
    (0x04214307, .ssub 5 6 7),
    (0x04414307, .smul 5 6 7),
    (0x04614307, .smulhI 5 6 7),
    (0x04814307, .smulhN 5 6 7),
    (0x04A14307, .sdivI 5 6 7),
    (0x04C14307, .sdivN 5 6 7),
    (0x04E14307, .sremI 5 6 7),
    (0x05014307, .sremN 5 6 7),
    (0x05214307, .sminI 5 6 7),
    (0x05414307, .sminN 5 6 7),
    (0x05614307, .smaxI 5 6 7),
    (0x05814307, .smaxN 5 6 7),
    (0x05A14300, .sabs 5 6),
    (0x05C14300, .sneg 5 6),
    (0x05E14307, .seq 5 6 7),
    (0x06014307, .sne 5 6 7),
    (0x06214307, .sltI 5 6 7),
    (0x06414307, .sltN 5 6 7),
    (0x06614307, .sleI 5 6 7),
    (0x06814307, .sleN 5 6 7),
    (0x06A14307, .ssel 5 6 7),
    (0x06C14300, .smov 5 6),
    (0x06E14307, .sadds 5 6 7)] : List (Nat × Instr)), decodeWord x.1 = some x.2 := by decide +kernel

theorem test_decode_sand_to_mfirst : ∀ x ∈ ([(0x08014307, .sand 5 6 7),
    (0x08214307, .sor 5 6 7),
    (0x08414307, .sxor 5 6 7),
    (0x08614307, .sandn 5 6 7),
    (0x08814300, .snot 5 6),
    (0x08A14307, .sshl 5 6 7),
    (0x08C14307, .sshr 5 6 7),
    (0x08E14307, .ssar 5 6 7),
    (0x09014307, .srol 5 6 7),
    (0x09214307, .sror 5 6 7),
    (0x09414300, .sclz 5 6),
    (0x09614300, .sctz 5 6),
    (0x09814300, .spop 5 6),
    (0x09A14307, .sbfxI 5 6 7),
    (0x09C14307, .sbfxN 5 6 7),
    (0x09E14307, .sbfi 5 6 7),
    (0x0C014307, .mand 5 6 7),
    (0x0C214307, .mor 5 6 7),
    (0x0C414307, .mxor 5 6 7),
    (0x0C614307, .mandn 5 6 7),
    (0x0C814300, .mnot 5 6),
    (0x0CA14300, .mmov 5 6),
    (0x0CC14300, .mpop 5 6),
    (0x0CE14300, .mfirst 5 6)] : List (Nat × Instr)), decodeWord x.1 = some x.2 := by decide +kernel

theorem test_decode_mtos_to_vminN : ∀ x ∈ ([(0x0D014300, .mtos 5 6),
    (0x0D214300, .stom 5 6),
    (0x0D414307, .mbelow 5 6 7),
    (0x10286CDF, .saddi 5 6 3295),
    (0x14286CDF, .sandi 5 6 3295),
    (0x18286CDF, .sori 5 6 3295),
    (0x1C286CDF, .sxori 5 6 3295),
    (0x20286007, .sshli 5 6 7),
    (0x24286007, .sshri 5 6 7),
    (0x28286CDF, .sslti 5 6 3295),
    (0x2C280CDF, .sli 5 3295),
    (0x300ABCDF, .br 703711),
    (0x340ABCDF, .call 703711),
    (0x382EBCDF, .bc 5 6 48351),
    (0x3C2EBCDF, .vbr 5 6 48351),
    (0x40218383, .vadd 1 6 7 3),
    (0x40A18383, .vsub 1 6 7 3),
    (0x41218383, .vmul 1 6 7 3),
    (0x41A18383, .vmulhI 1 6 7 3),
    (0x42218383, .vmulhN 1 6 7 3),
    (0x42A18383, .vaddSatI 1 6 7 3),
    (0x43218383, .vaddSatN 1 6 7 3),
    (0x44218383, .vminI 1 6 7 3),
    (0x44A18383, .vminN 1 6 7 3)] : List (Nat × Instr)), decodeWord x.1 = some x.2 := by decide +kernel

theorem test_decode_vmaxI_to_vtom : ∀ x ∈ ([(0x45218383, .vmaxI 1 6 7 3),
    (0x45A18383, .vmaxN 1 6 7 3),
    (0x46218380, .vabs 1 6 7),
    (0x46A18380, .vneg 1 6 7),
    (0x47218383, .vavgN 1 6 7 3),
    (0x48014307, .vand 5 6 7),
    (0x48214307, .vor 5 6 7),
    (0x48414307, .vxor 5 6 7),
    (0x48614307, .vandn 5 6 7),
    (0x48814300, .vnot 5 6),
    (0x48A14307, .vsel 5 6 7),
    (0x48C14300, .vmov 5 6),
    (0x49218383, .vshl 1 6 7 3),
    (0x49A18383, .vshr 1 6 7 3),
    (0x4A218383, .vsar 1 6 7 3),
    (0x4AA18380, .vpop 1 6 7),
    (0x4B218380, .vclz 1 6 7),
    (0x4C218383, .vceq 1 6 7 3),
    (0x4CA18383, .vcne 1 6 7 3),
    (0x4D218383, .vcltI 1 6 7 3),
    (0x4DA18383, .vcltN 1 6 7 3),
    (0x4E218383, .vcleI 1 6 7 3),
    (0x4EA18383, .vcleN 1 6 7 3),
    (0x4F014307, .vtom 5 6 7)] : List (Nat × Instr)), decodeWord x.1 = some x.2 := by decide +kernel

theorem test_decode_mtov_to_vfmaxF16 : ∀ x ∈ ([(0x4F214300, .mtov 5 6),
    (0x50014307, .vfmaF32 5 6 7),
    (0x50214307, .vfmaF16 5 6 7),
    (0x50414307, .vfmaBf16 5 6 7),
    (0x50614307, .vfmsF32 5 6 7),
    (0x50814307, .vfmsF16 5 6 7),
    (0x50A14307, .vfmsBf16 5 6 7),
    (0x50C14307, .vfnmaF32 5 6 7),
    (0x50E14307, .vfnmaF16 5 6 7),
    (0x51014307, .vfnmaBf16 5 6 7),
    (0x51214307, .vfaddF32 5 6 7),
    (0x51414307, .vfaddF16 5 6 7),
    (0x51614307, .vfaddBf16 5 6 7),
    (0x51814307, .vfsubF32 5 6 7),
    (0x51A14307, .vfsubF16 5 6 7),
    (0x51C14307, .vfsubBf16 5 6 7),
    (0x51E14307, .vfmulF32 5 6 7),
    (0x52014307, .vfmulF16 5 6 7),
    (0x52214307, .vfmulBf16 5 6 7),
    (0x52414307, .vfminF32 5 6 7),
    (0x52614307, .vfminF16 5 6 7),
    (0x52814307, .vfminBf16 5 6 7),
    (0x52A14307, .vfmaxF32 5 6 7),
    (0x52C14307, .vfmaxF16 5 6 7)] : List (Nat × Instr)), decodeWord x.1 = some x.2 := by decide +kernel

theorem test_decode_vfmaxBf16_to_vfnegF16 : ∀ x ∈ ([(0x52E14307, .vfmaxBf16 5 6 7),
    (0x53014307, .vfminnumF32 5 6 7),
    (0x53214307, .vfminnumF16 5 6 7),
    (0x53414307, .vfminnumBf16 5 6 7),
    (0x53614307, .vfmaxnumF32 5 6 7),
    (0x53814307, .vfmaxnumF16 5 6 7),
    (0x53A14307, .vfmaxnumBf16 5 6 7),
    (0x54014307, .vfceqF32 5 6 7),
    (0x54214307, .vfceqF16 5 6 7),
    (0x54414307, .vfceqBf16 5 6 7),
    (0x54614307, .vfcltF32 5 6 7),
    (0x54814307, .vfcltF16 5 6 7),
    (0x54A14307, .vfcltBf16 5 6 7),
    (0x54C14307, .vfcleF32 5 6 7),
    (0x54E14307, .vfcleF16 5 6 7),
    (0x55014307, .vfcleBf16 5 6 7),
    (0x55214307, .vfcunF32 5 6 7),
    (0x55414307, .vfcunF16 5 6 7),
    (0x55614307, .vfcunBf16 5 6 7),
    (0x55814300, .vfabsF32 5 6),
    (0x55A14300, .vfabsF16 5 6),
    (0x55C14300, .vfabsBf16 5 6),
    (0x55E14300, .vfnegF32 5 6),
    (0x56014300, .vfnegF16 5 6)] : List (Nat × Instr)), decodeWord x.1 = some x.2 := by decide +kernel

theorem test_decode_vfnegBf16_to_vcvtF32F6e3 : ∀ x ∈ ([(0x56214300, .vfnegBf16 5 6),
    (0x56414300, .vfclassF32 5 6),
    (0x56614300, .vfclassF16 5 6),
    (0x56814300, .vfclassBf16 5 6),
    (0x56A14307, .vfcopysignF32 5 6 7),
    (0x56C14307, .vfcopysignF16 5 6 7),
    (0x56E14307, .vfcopysignBf16 5 6 7),
    (0x58014301, .vcvtF16F32 5 6 1),
    (0x58214301, .vcvtBf16F32 5 6 1),
    (0x58414301, .vcvtF32F16 5 6 1),
    (0x58614301, .vcvtF32Bf16 5 6 1),
    (0x58814300, .vcvtI32F32 5 6),
    (0x58A14300, .vcvtN32F32 5 6),
    (0x58C14300, .vcvtF32I32 5 6),
    (0x58E14300, .vcvtF32N32 5 6),
    (0x59014302, .vcvtF8e4F32 5 6 2),
    (0x59214302, .vcvtF8e5F32 5 6 2),
    (0x59414302, .vcvtF32F8e4 5 6 2),
    (0x59614302, .vcvtF32F8e5 5 6 2),
    (0x59814302, .vcvtF6e2F32 5 6 2),
    (0x59A14302, .vcvtF6e3F32 5 6 2),
    (0x59C14302, .vcvtF4F32 5 6 2),
    (0x59E14302, .vcvtF32F6e2 5 6 2),
    (0x5A014302, .vcvtF32F6e3 5 6 2)] : List (Nat × Instr)), decodeWord x.1 = some x.2 := by decide +kernel

theorem test_decode_vcvtF32F4_to_vredMaxI32 : ∀ x ∈ ([(0x5A214302, .vcvtF32F4 5 6 2),
    (0x5A414302, .vcvtI8I32 5 6 2),
    (0x5C014300, .vrcpSeed 5 6),
    (0x5C214300, .vrsqSeed 5 6),
    (0x5C414301, .vexpRed 5 6 1),
    (0x5C614301, .vlogRed 5 6 1),
    (0x5C814301, .vscRed 5 6 1),
    (0x5CA14307, .vldexp 5 6 7),
    (0x5CC14300, .vgetexp 5 6),
    (0x5CE14300, .vgetman 5 6),
    (0x5D014300, .vfrac 5 6),
    (0x5D214300, .vfrnd 5 6),
    (0x5D414307, .vscFix 5 6 7),
    (0x60286CDF, .vaddi 5 6 3295),
    (0x64280CDF, .vmovi 5 3295),
    (0x68286CDF, .vsplat 5 6 3295),
    (0x6C014307, .vshfl 5 6 7),
    (0x6C214307, .vshfleE32 5 6 7),
    (0x6C414303, .vpswap 5 6 3),
    (0x6C614300, .vprefixAddI32 5 6),
    (0x6C814300, .vprefixAddF32 5 6),
    (0x6CA14300, .vredAddI32 5 6),
    (0x6CC14300, .vredAddF32 5 6),
    (0x6CE14300, .vredMaxI32 5 6)] : List (Nat × Instr)), decodeWord x.1 = some x.2 := by decide +kernel

theorem test_decode_vredMaxF32_to_vld32 : ∀ x ∈ ([(0x6D014300, .vredMaxF32 5 6),
    (0x6D214300, .vmaxidxF16 5 6),
    (0x6D414300, .vmaxidxF32 5 6),
    (0x6D614307, .vcompact 5 6 7),
    (0x6D814307, .vexpand 5 6 7),
    (0x6DA14000, .vlaneid 5),
    (0x6DC14300, .vvoteAll 5 6),
    (0x6DE14300, .vvoteAny 5 6),
    (0x6E014300, .vballot 5 6),
    (0x6E214300, .qswpH 5 6),
    (0x6E414300, .qswpV 5 6),
    (0x6E614300, .qswpD 5 6),
    (0x6E814307, .qbcast 5 6 7),
    (0x6EA14302, .vpkpx 5 6 2),
    (0x6EC14302, .vunpx 5 6 2),
    (0x6EE14305, .vpkmx 5 6 5),
    (0x6F014305, .vunmx 5 6 5),
    (0x700286DF, .vget 5 6 223),
    (0x704286DF, .vput 5 6 223),
    (0x708286DF, .vbcast 5 6 223),
    (0x70C286DF, .vbfly 5 6 223),
    (0x710286DF, .vrot 5 6 223),
    (0x71428602, .qbcastI 5 6 2),
    (0x74286CDF, .vld32 5 6 3295)] : List (Nat × Instr)), decodeWord x.1 = some x.2 := by decide +kernel

theorem test_decode_vld64_to_atomMinI32 : ∀ x ∈ ([(0x78286CDF, .vld64 5 6 3295),
    (0x7C286CDF, .vst32 5 6 3295),
    (0x80286CDF, .vst64 5 6 3295),
    (0x84286CDF, .vld16 5 6 3295),
    (0x88286CDF, .vst16 5 6 3295),
    (0x8C286CDF, .vld8 5 6 3295),
    (0x90286CDF, .vst8 5 6 3295),
    (0x94286CDF, .sld 5 6 3295),
    (0x98286CDF, .sst 5 6 3295),
    (0x9C286CDF, .spld 5 6 3295),
    (0xA0286CDF, .spst 5 6 3295),
    (0xA4014307, .vldx32 5 6 7),
    (0xA4214307, .vldx64 5 6 7),
    (0xA4414307, .vstx32 5 6 7),
    (0xA4614307, .vstx64 5 6 7),
    (0xA4814307, .vldx16 5 6 7),
    (0xA4A14307, .vstx16 5 6 7),
    (0xA4C14307, .vldx8 5 6 7),
    (0xA4E14307, .vstx8 5 6 7),
    (0xA5000000, .fence),
    (0xA5204307, .vprefetch 1 6 7),
    (0xA8014307, .atomAddE32 5 6 7),
    (0xA8214307, .atomAddE64 5 6 7),
    (0xA8414307, .atomMinI32 5 6 7)] : List (Nat × Instr)), decodeWord x.1 = some x.2 := by decide +kernel

theorem test_decode_atomMinN32_to_sxst : ∀ x ∈ ([(0xA8614307, .atomMinN32 5 6 7),
    (0xA8814307, .atomMaxI32 5 6 7),
    (0xA8A14307, .atomMaxN32 5 6 7),
    (0xA8C14307, .atomAndB64 5 6 7),
    (0xA8E14307, .atomOrB64 5 6 7),
    (0xA9014307, .atomXorB64 5 6 7),
    (0xA9214307, .atomXchgE32 5 6 7),
    (0xA9414307, .atomXchgE64 5 6 7),
    (0xA9614307, .atomCasE32 5 6 7),
    (0xA9814307, .atomCasE64 5 6 7),
    (0xA9A14307, .atomFaddF32 5 6 7),
    (0xA9C14307, .atomFaddBf16x2 5 6 7),
    (0xA9E14307, .atomMaxidxF16 5 6 7),
    (0xAC002801, .gang 5 1),
    (0xAC343007, .mma 5 6 7),
    (0xAC543073, .mmat 5 6 7 3),
    (0xAC740060, .mprom 5 6),
    (0xAC940000, .acczero 5),
    (0xACA02861, .wbld 5 6 1),
    (0xACC02800, .wbfree 5),
    (0xACE02861, .fmtchk 5 6 1),
    (0xB0002805, .sxld 5 5),
    (0xB0200001, .sxrun 1),
    (0xB0402801, .sxst 5 1)] : List (Nat × Instr)), decodeWord x.1 = some x.2 := by decide +kernel

theorem test_decode_sxstat_to_allon : ∀ x ∈ ([(0xB0602800, .sxstat 5),
    (0xB0800001, .sxabort 1),
    (0xB4002860, .acopy 5 6),
    (0xB4202861, .acopyo 5 6 1),
    (0xB4402860, .agath 5 6),
    (0xB4602861, .ascat 5 6 1),
    (0xB4802865, .acoll 5 6 5),
    (0xB4A02861, .mcast 5 6 1),
    (0xB4C02860, .tstat 5 6),
    (0xB4E02801, .trel 5 1),
    (0xB5002861, .talloc 5 6 1),
    (0xB5202860, .tglook 5 6),
    (0xB5402860, .tgset 5 6),
    (0xB5602800, .tgclr 5 0),
    (0xB8002860, .bopen 5 6),
    (0xB8202801, .bclose 5 1),
    (0xB8402860, .bld 5 6),
    (0xB8602801, .bchk 5 1),
    (0xB8802860, .bfetch 5 6),
    (0xB8A02862, .bstat 5 6 2),
    (0xBC000280, .ret 5),
    (0xBC200280, .brx 5),
    (0xBC400005, .rcv 5),
    (0xBC600000, .allon)] : List (Nat × Instr)), decodeWord x.1 = some x.2 := by decide +kernel

theorem test_decode_alloff_to_dturn : ∀ x ∈ ([(0xBC800000, .alloff),
    (0xBCA14307, .regroup 5 6 7),
    (0xBCC00000, .yield),
    (0xBCE00000, .nop),
    (0xBD000000, .exit),
    (0xBD214300, .callx 5 6),
    (0xC0083073, .fork 2 6 7 3),
    (0xC0202800, .join 5),
    (0xC0400000, .fend),
    (0xC0600000, .hold),
    (0xC0800000, .release),
    (0xC0A02860, .frstat 5 6 0),
    (0xC4000005, .bar 5),
    (0xC4202806, .bara 5 6),
    (0xC4402806, .barw 5 6),
    (0xC4600001, .cbar 1),
    (0xC4802800, .waitc 5),
    (0xC4A02860, .seqw 5 6),
    (0xC4C02800, .sleep 5),
    (0xC8002860, .qput 5 6),
    (0xC8202860, .qtake 5 6),
    (0xC8402860, .qstat 5 6),
    (0xC8602860, .amsg 5 6),
    (0xC8802862, .dturn 5 6 2)] : List (Nat × Instr)), decodeWord x.1 = some x.2 := by decide +kernel

theorem test_decode_submit_to_hint : ∀ x ∈ ([(0xC8A02860, .submit 5 6),
    (0xCC014307, .arowRd 5 6 7),
    (0xCC214307, .arowWr 5 6 7),
    (0xCC414307, .acolRd 5 6 7),
    (0xCC614307, .acolWr 5 6 7),
    (0xCC814307, .arowRdb 5 6 7),
    (0xCCA14307, .arowAdd 5 6 7),
    (0xF800BCDF, .trap 48351),
    (0xF8018280, .rett 2 5),
    (0xF802A1C3, .rinj 1 1 7 3),
    (0xF8030A2A, .sysrd 5 21),
    (0xF8040A14, .syswr 5 10),
    (0xF805DF01, .halt 223 1),
    (0xF8060A00, .mboxSend 5),
    (0xF8060B00, .mboxRecv 5),
    (0xF807BCDF, .brk 48351),
    (0xF8080A34, .ucnt 5 6 1),
    (0xF8090A18, .attest 5 6),
    (0xFC000016, .hint 1 6)] : List (Nat × Instr)), decodeWord x.1 = some x.2 := by decide +kernel

/-! Ill-formed terms: for each row the first field one past its place, and each value that an entry calls illegal. -/

theorem test_illFormed_from_sadd_0 : ¬ (Instr.sadd 128 6 7).WF ∧
    ¬ (Instr.ssub 128 6 7).WF ∧
    ¬ (Instr.smul 128 6 7).WF ∧
    ¬ (Instr.smulhI 128 6 7).WF ∧
    ¬ (Instr.smulhN 128 6 7).WF ∧
    ¬ (Instr.sdivI 128 6 7).WF ∧
    ¬ (Instr.sdivN 128 6 7).WF ∧
    ¬ (Instr.sremI 128 6 7).WF ∧
    ¬ (Instr.sremN 128 6 7).WF ∧
    ¬ (Instr.sminI 128 6 7).WF ∧
    ¬ (Instr.sminN 128 6 7).WF ∧
    ¬ (Instr.smaxI 128 6 7).WF ∧
    ¬ (Instr.smaxN 128 6 7).WF ∧
    ¬ (Instr.sabs 128 6).WF ∧
    ¬ (Instr.sneg 128 6).WF ∧
    ¬ (Instr.seq 128 6 7).WF ∧
    ¬ (Instr.sne 128 6 7).WF ∧
    ¬ (Instr.sltI 128 6 7).WF ∧
    ¬ (Instr.sltN 128 6 7).WF ∧
    ¬ (Instr.sleI 128 6 7).WF ∧
    ¬ (Instr.sleN 128 6 7).WF ∧
    ¬ (Instr.ssel 128 6 7).WF ∧
    ¬ (Instr.smov 128 6).WF ∧
    ¬ (Instr.sadds 128 6 7).WF ∧
    ¬ (Instr.sand 128 6 7).WF ∧
    ¬ (Instr.sor 128 6 7).WF ∧
    ¬ (Instr.sxor 128 6 7).WF ∧
    ¬ (Instr.sandn 128 6 7).WF ∧
    ¬ (Instr.snot 128 6).WF ∧
    ¬ (Instr.sshl 128 6 7).WF := by
  delta Instr.WF; dsimp only; decide

theorem test_illFormed_from_sshr_1 : ¬ (Instr.sshr 128 6 7).WF ∧
    ¬ (Instr.ssar 128 6 7).WF ∧
    ¬ (Instr.srol 128 6 7).WF ∧
    ¬ (Instr.sror 128 6 7).WF ∧
    ¬ (Instr.sclz 128 6).WF ∧
    ¬ (Instr.sctz 128 6).WF ∧
    ¬ (Instr.spop 128 6).WF ∧
    ¬ (Instr.sbfxI 128 6 7).WF ∧
    ¬ (Instr.sbfxN 128 6 7).WF ∧
    ¬ (Instr.sbfi 128 6 7).WF ∧
    ¬ (Instr.mand 8 6 7).WF ∧
    ¬ (Instr.mor 8 6 7).WF ∧
    ¬ (Instr.mxor 8 6 7).WF ∧
    ¬ (Instr.mandn 8 6 7).WF ∧
    ¬ (Instr.mnot 8 6).WF ∧
    ¬ (Instr.mmov 8 6).WF ∧
    ¬ (Instr.mpop 128 6).WF ∧
    ¬ (Instr.mfirst 128 6).WF ∧
    ¬ (Instr.mtos 128 6).WF ∧
    ¬ (Instr.stom 8 6).WF ∧
    ¬ (Instr.mbelow 8 6 7).WF ∧
    ¬ (Instr.saddi 128 6 3295).WF ∧
    ¬ (Instr.sandi 128 6 3295).WF ∧
    ¬ (Instr.sori 128 6 3295).WF ∧
    ¬ (Instr.sxori 128 6 3295).WF ∧
    ¬ (Instr.sshli 128 6 7).WF ∧
    ¬ (Instr.sshri 128 6 7).WF ∧
    ¬ (Instr.sslti 128 6 3295).WF ∧
    ¬ (Instr.sli 128 3295).WF ∧
    ¬ (Instr.br 67108864).WF := by
  delta Instr.WF; dsimp only; decide

theorem test_illFormed_from_call_2 : ¬ (Instr.call 67108864).WF ∧
    ¬ (Instr.bc 128 6 48351).WF ∧
    ¬ (Instr.vbr 8 6 48351).WF ∧
    ¬ (Instr.vadd 4 6 7 3).WF ∧
    ¬ (Instr.vsub 4 6 7 3).WF ∧
    ¬ (Instr.vmul 4 6 7 3).WF ∧
    ¬ (Instr.vmulhI 4 6 7 3).WF ∧
    ¬ (Instr.vmulhN 4 6 7 3).WF ∧
    ¬ (Instr.vaddSatI 4 6 7 3).WF ∧
    ¬ (Instr.vaddSatN 4 6 7 3).WF ∧
    ¬ (Instr.vminI 4 6 7 3).WF ∧
    ¬ (Instr.vminN 4 6 7 3).WF ∧
    ¬ (Instr.vmaxI 4 6 7 3).WF ∧
    ¬ (Instr.vmaxN 4 6 7 3).WF ∧
    ¬ (Instr.vabs 4 6 7).WF ∧
    ¬ (Instr.vneg 4 6 7).WF ∧
    ¬ (Instr.vavgN 4 6 7 3).WF ∧
    ¬ (Instr.vand 128 6 7).WF ∧
    ¬ (Instr.vor 128 6 7).WF ∧
    ¬ (Instr.vxor 128 6 7).WF ∧
    ¬ (Instr.vandn 128 6 7).WF ∧
    ¬ (Instr.vnot 128 6).WF ∧
    ¬ (Instr.vsel 128 6 7).WF ∧
    ¬ (Instr.vmov 128 6).WF ∧
    ¬ (Instr.vshl 4 6 7 3).WF ∧
    ¬ (Instr.vshr 4 6 7 3).WF ∧
    ¬ (Instr.vsar 4 6 7 3).WF ∧
    ¬ (Instr.vpop 4 6 7).WF ∧
    ¬ (Instr.vclz 4 6 7).WF ∧
    ¬ (Instr.vceq 4 6 7 3).WF := by
  delta Instr.WF; dsimp only; decide

theorem test_illFormed_from_vcne_3 : ¬ (Instr.vcne 4 6 7 3).WF ∧
    ¬ (Instr.vcltI 4 6 7 3).WF ∧
    ¬ (Instr.vcltN 4 6 7 3).WF ∧
    ¬ (Instr.vcleI 4 6 7 3).WF ∧
    ¬ (Instr.vcleN 4 6 7 3).WF ∧
    ¬ (Instr.vtom 8 6 7).WF ∧
    ¬ (Instr.mtov 128 6).WF ∧
    ¬ (Instr.vfmaF32 128 6 7).WF ∧
    ¬ (Instr.vfmaF16 128 6 7).WF ∧
    ¬ (Instr.vfmaBf16 128 6 7).WF ∧
    ¬ (Instr.vfmsF32 128 6 7).WF ∧
    ¬ (Instr.vfmsF16 128 6 7).WF ∧
    ¬ (Instr.vfmsBf16 128 6 7).WF ∧
    ¬ (Instr.vfnmaF32 128 6 7).WF ∧
    ¬ (Instr.vfnmaF16 128 6 7).WF ∧
    ¬ (Instr.vfnmaBf16 128 6 7).WF ∧
    ¬ (Instr.vfaddF32 128 6 7).WF ∧
    ¬ (Instr.vfaddF16 128 6 7).WF ∧
    ¬ (Instr.vfaddBf16 128 6 7).WF ∧
    ¬ (Instr.vfsubF32 128 6 7).WF ∧
    ¬ (Instr.vfsubF16 128 6 7).WF ∧
    ¬ (Instr.vfsubBf16 128 6 7).WF ∧
    ¬ (Instr.vfmulF32 128 6 7).WF ∧
    ¬ (Instr.vfmulF16 128 6 7).WF ∧
    ¬ (Instr.vfmulBf16 128 6 7).WF ∧
    ¬ (Instr.vfminF32 128 6 7).WF ∧
    ¬ (Instr.vfminF16 128 6 7).WF ∧
    ¬ (Instr.vfminBf16 128 6 7).WF ∧
    ¬ (Instr.vfmaxF32 128 6 7).WF ∧
    ¬ (Instr.vfmaxF16 128 6 7).WF := by
  delta Instr.WF; dsimp only; decide

theorem test_illFormed_from_vfmaxBf16_4 : ¬ (Instr.vfmaxBf16 128 6 7).WF ∧
    ¬ (Instr.vfminnumF32 128 6 7).WF ∧
    ¬ (Instr.vfminnumF16 128 6 7).WF ∧
    ¬ (Instr.vfminnumBf16 128 6 7).WF ∧
    ¬ (Instr.vfmaxnumF32 128 6 7).WF ∧
    ¬ (Instr.vfmaxnumF16 128 6 7).WF ∧
    ¬ (Instr.vfmaxnumBf16 128 6 7).WF ∧
    ¬ (Instr.vfceqF32 128 6 7).WF ∧
    ¬ (Instr.vfceqF16 128 6 7).WF ∧
    ¬ (Instr.vfceqBf16 128 6 7).WF ∧
    ¬ (Instr.vfcltF32 128 6 7).WF ∧
    ¬ (Instr.vfcltF16 128 6 7).WF ∧
    ¬ (Instr.vfcltBf16 128 6 7).WF ∧
    ¬ (Instr.vfcleF32 128 6 7).WF ∧
    ¬ (Instr.vfcleF16 128 6 7).WF ∧
    ¬ (Instr.vfcleBf16 128 6 7).WF ∧
    ¬ (Instr.vfcunF32 128 6 7).WF ∧
    ¬ (Instr.vfcunF16 128 6 7).WF ∧
    ¬ (Instr.vfcunBf16 128 6 7).WF ∧
    ¬ (Instr.vfabsF32 128 6).WF ∧
    ¬ (Instr.vfabsF16 128 6).WF ∧
    ¬ (Instr.vfabsBf16 128 6).WF ∧
    ¬ (Instr.vfnegF32 128 6).WF ∧
    ¬ (Instr.vfnegF16 128 6).WF ∧
    ¬ (Instr.vfnegBf16 128 6).WF ∧
    ¬ (Instr.vfclassF32 128 6).WF ∧
    ¬ (Instr.vfclassF16 128 6).WF ∧
    ¬ (Instr.vfclassBf16 128 6).WF ∧
    ¬ (Instr.vfcopysignF32 128 6 7).WF ∧
    ¬ (Instr.vfcopysignF16 128 6 7).WF := by
  delta Instr.WF; dsimp only; decide

theorem test_illFormed_from_vfcopysignBf16_5 : ¬ (Instr.vfcopysignBf16 128 6 7).WF ∧
    ¬ (Instr.vcvtF16F32 128 6 1).WF ∧
    ¬ (Instr.vcvtBf16F32 128 6 1).WF ∧
    ¬ (Instr.vcvtF32F16 128 6 1).WF ∧
    ¬ (Instr.vcvtF32Bf16 128 6 1).WF ∧
    ¬ (Instr.vcvtI32F32 128 6).WF ∧
    ¬ (Instr.vcvtN32F32 128 6).WF ∧
    ¬ (Instr.vcvtF32I32 128 6).WF ∧
    ¬ (Instr.vcvtF32N32 128 6).WF ∧
    ¬ (Instr.vcvtF8e4F32 128 6 2).WF ∧
    ¬ (Instr.vcvtF8e5F32 128 6 2).WF ∧
    ¬ (Instr.vcvtF32F8e4 128 6 2).WF ∧
    ¬ (Instr.vcvtF32F8e5 128 6 2).WF ∧
    ¬ (Instr.vcvtF6e2F32 128 6 2).WF ∧
    ¬ (Instr.vcvtF6e3F32 128 6 2).WF ∧
    ¬ (Instr.vcvtF4F32 128 6 2).WF ∧
    ¬ (Instr.vcvtF32F6e2 128 6 2).WF ∧
    ¬ (Instr.vcvtF32F6e3 128 6 2).WF ∧
    ¬ (Instr.vcvtF32F4 128 6 2).WF ∧
    ¬ (Instr.vcvtI8I32 128 6 2).WF ∧
    ¬ (Instr.vrcpSeed 128 6).WF ∧
    ¬ (Instr.vrsqSeed 128 6).WF ∧
    ¬ (Instr.vexpRed 128 6 1).WF ∧
    ¬ (Instr.vlogRed 128 6 1).WF ∧
    ¬ (Instr.vscRed 128 6 1).WF ∧
    ¬ (Instr.vldexp 128 6 7).WF ∧
    ¬ (Instr.vgetexp 128 6).WF ∧
    ¬ (Instr.vgetman 128 6).WF ∧
    ¬ (Instr.vfrac 128 6).WF ∧
    ¬ (Instr.vfrnd 128 6).WF := by
  delta Instr.WF; dsimp only; decide

theorem test_illFormed_from_vscFix_6 : ¬ (Instr.vscFix 128 6 7).WF ∧
    ¬ (Instr.vaddi 128 6 3295).WF ∧
    ¬ (Instr.vmovi 128 3295).WF ∧
    ¬ (Instr.vsplat 128 6 3295).WF ∧
    ¬ (Instr.vshfl 128 6 7).WF ∧
    ¬ (Instr.vshfleE32 128 6 7).WF ∧
    ¬ (Instr.vpswap 128 6 3).WF ∧
    ¬ (Instr.vprefixAddI32 128 6).WF ∧
    ¬ (Instr.vprefixAddF32 128 6).WF ∧
    ¬ (Instr.vredAddI32 128 6).WF ∧
    ¬ (Instr.vredAddF32 128 6).WF ∧
    ¬ (Instr.vredMaxI32 128 6).WF ∧
    ¬ (Instr.vredMaxF32 128 6).WF ∧
    ¬ (Instr.vmaxidxF16 128 6).WF ∧
    ¬ (Instr.vmaxidxF32 128 6).WF ∧
    ¬ (Instr.vcompact 128 6 7).WF ∧
    ¬ (Instr.vexpand 128 6 7).WF ∧
    ¬ (Instr.vlaneid 128).WF ∧
    ¬ (Instr.vvoteAll 128 6).WF ∧
    ¬ (Instr.vvoteAny 128 6).WF ∧
    ¬ (Instr.vballot 8 6).WF ∧
    ¬ (Instr.qswpH 128 6).WF ∧
    ¬ (Instr.qswpV 128 6).WF ∧
    ¬ (Instr.qswpD 128 6).WF ∧
    ¬ (Instr.qbcast 128 6 7).WF ∧
    ¬ (Instr.vpkpx 128 6 2).WF ∧
    ¬ (Instr.vunpx 128 6 2).WF ∧
    ¬ (Instr.vpkmx 128 6 5).WF ∧
    ¬ (Instr.vunmx 128 6 5).WF ∧
    ¬ (Instr.vget 128 6 223).WF := by
  delta Instr.WF; dsimp only; decide

theorem test_illFormed_from_vput_7 : ¬ (Instr.vput 128 6 223).WF ∧
    ¬ (Instr.vbcast 128 6 223).WF ∧
    ¬ (Instr.vbfly 128 6 223).WF ∧
    ¬ (Instr.vrot 128 6 223).WF ∧
    ¬ (Instr.qbcastI 128 6 2).WF ∧
    ¬ (Instr.vld32 128 6 3295).WF ∧
    ¬ (Instr.vld64 128 6 3295).WF ∧
    ¬ (Instr.vst32 128 6 3295).WF ∧
    ¬ (Instr.vst64 128 6 3295).WF ∧
    ¬ (Instr.vld16 128 6 3295).WF ∧
    ¬ (Instr.vst16 128 6 3295).WF ∧
    ¬ (Instr.vld8 128 6 3295).WF ∧
    ¬ (Instr.vst8 128 6 3295).WF ∧
    ¬ (Instr.sld 128 6 3295).WF ∧
    ¬ (Instr.sst 128 6 3295).WF ∧
    ¬ (Instr.spld 128 6 3295).WF ∧
    ¬ (Instr.spst 128 6 3295).WF ∧
    ¬ (Instr.vldx32 128 6 7).WF ∧
    ¬ (Instr.vldx64 128 6 7).WF ∧
    ¬ (Instr.vstx32 128 6 7).WF ∧
    ¬ (Instr.vstx64 128 6 7).WF ∧
    ¬ (Instr.vldx16 128 6 7).WF ∧
    ¬ (Instr.vstx16 128 6 7).WF ∧
    ¬ (Instr.vldx8 128 6 7).WF ∧
    ¬ (Instr.vstx8 128 6 7).WF ∧
    ¬ (Instr.vprefetch 2 6 7).WF ∧
    ¬ (Instr.atomAddE32 128 6 7).WF ∧
    ¬ (Instr.atomAddE64 128 6 7).WF ∧
    ¬ (Instr.atomMinI32 128 6 7).WF ∧
    ¬ (Instr.atomMinN32 128 6 7).WF := by
  delta Instr.WF; dsimp only; decide

theorem test_illFormed_from_atomMaxI32_8 : ¬ (Instr.atomMaxI32 128 6 7).WF ∧
    ¬ (Instr.atomMaxN32 128 6 7).WF ∧
    ¬ (Instr.atomAndB64 128 6 7).WF ∧
    ¬ (Instr.atomOrB64 128 6 7).WF ∧
    ¬ (Instr.atomXorB64 128 6 7).WF ∧
    ¬ (Instr.atomXchgE32 128 6 7).WF ∧
    ¬ (Instr.atomXchgE64 128 6 7).WF ∧
    ¬ (Instr.atomCasE32 128 6 7).WF ∧
    ¬ (Instr.atomCasE64 128 6 7).WF ∧
    ¬ (Instr.atomFaddF32 128 6 7).WF ∧
    ¬ (Instr.atomFaddBf16x2 128 6 7).WF ∧
    ¬ (Instr.atomMaxidxF16 128 6 7).WF ∧
    ¬ (Instr.gang 128 1).WF ∧
    ¬ (Instr.mma 8 6 7).WF ∧
    ¬ (Instr.mmat 8 6 7 3).WF ∧
    ¬ (Instr.mprom 8 6).WF ∧
    ¬ (Instr.acczero 8).WF ∧
    ¬ (Instr.wbld 128 6 1).WF ∧
    ¬ (Instr.wbfree 128).WF ∧
    ¬ (Instr.fmtchk 128 6 1).WF ∧
    ¬ (Instr.sxld 128 5).WF ∧
    ¬ (Instr.sxrun 2).WF ∧
    ¬ (Instr.sxst 128 1).WF ∧
    ¬ (Instr.sxstat 128).WF ∧
    ¬ (Instr.sxabort 2).WF ∧
    ¬ (Instr.acopy 128 6).WF ∧
    ¬ (Instr.acopyo 128 6 1).WF ∧
    ¬ (Instr.agath 128 6).WF ∧
    ¬ (Instr.ascat 128 6 1).WF ∧
    ¬ (Instr.acoll 128 6 5).WF := by
  delta Instr.WF; dsimp only; decide

theorem test_illFormed_from_mcast_9 : ¬ (Instr.mcast 128 6 1).WF ∧
    ¬ (Instr.tstat 128 6).WF ∧
    ¬ (Instr.trel 128 1).WF ∧
    ¬ (Instr.talloc 128 6 1).WF ∧
    ¬ (Instr.tglook 128 6).WF ∧
    ¬ (Instr.tgset 128 6).WF ∧
    ¬ (Instr.tgclr 128 0).WF ∧
    ¬ (Instr.bopen 128 6).WF ∧
    ¬ (Instr.bclose 128 1).WF ∧
    ¬ (Instr.bld 128 6).WF ∧
    ¬ (Instr.bchk 128 1).WF ∧
    ¬ (Instr.bfetch 128 6).WF ∧
    ¬ (Instr.bstat 128 6 2).WF ∧
    ¬ (Instr.ret 128).WF ∧
    ¬ (Instr.brx 128).WF ∧
    ¬ (Instr.rcv 8).WF ∧
    ¬ (Instr.regroup 128 6 7).WF ∧
    ¬ (Instr.callx 128 6).WF ∧
    ¬ (Instr.fork 8 6 7 3).WF ∧
    ¬ (Instr.join 128).WF ∧
    ¬ (Instr.frstat 128 6 0).WF ∧
    ¬ (Instr.bar 16).WF ∧
    ¬ (Instr.bara 128 6).WF ∧
    ¬ (Instr.barw 128 6).WF ∧
    ¬ (Instr.cbar 4).WF ∧
    ¬ (Instr.waitc 64).WF ∧
    ¬ (Instr.seqw 128 6).WF ∧
    ¬ (Instr.sleep 128).WF ∧
    ¬ (Instr.qput 128 6).WF ∧
    ¬ (Instr.qtake 128 6).WF := by
  delta Instr.WF; dsimp only; decide

theorem test_illFormed_from_qstat_10 : ¬ (Instr.qstat 128 6).WF ∧
    ¬ (Instr.amsg 128 6).WF ∧
    ¬ (Instr.dturn 128 6 2).WF ∧
    ¬ (Instr.submit 128 6).WF ∧
    ¬ (Instr.arowRd 128 6 7).WF ∧
    ¬ (Instr.arowWr 8 6 7).WF ∧
    ¬ (Instr.acolRd 128 6 7).WF ∧
    ¬ (Instr.acolWr 8 6 7).WF ∧
    ¬ (Instr.arowRdb 128 6 7).WF ∧
    ¬ (Instr.arowAdd 8 6 7).WF ∧
    ¬ (Instr.trap 65536).WF ∧
    ¬ (Instr.rett 4 5).WF ∧
    ¬ (Instr.rinj 2 1 7 3).WF ∧
    ¬ (Instr.sysrd 128 21).WF ∧
    ¬ (Instr.syswr 128 10).WF ∧
    ¬ (Instr.halt 256 1).WF ∧
    ¬ (Instr.mboxSend 128).WF ∧
    ¬ (Instr.mboxRecv 128).WF ∧
    ¬ (Instr.brk 65536).WF ∧
    ¬ (Instr.ucnt 128 6 1).WF ∧
    ¬ (Instr.attest 128 6).WF ∧
    ¬ (Instr.hint 2 6).WF ∧
    ¬ (Instr.vpswap 5 6 5).WF ∧
    ¬ (Instr.vpkpx 5 6 3).WF ∧
    ¬ (Instr.vunpx 5 6 3).WF ∧
    ¬ (Instr.vpkmx 5 6 6).WF ∧
    ¬ (Instr.vunmx 5 6 6).WF ∧
    ¬ (Instr.sxld 5 6).WF ∧
    ¬ (Instr.acoll 5 6 6).WF ∧
    ¬ (Instr.trel 5 3).WF := by
  delta Instr.WF; dsimp only; decide

theorem test_illFormed_from_tgclr_11 : ¬ (Instr.tgclr 5 1).WF ∧
    ¬ (Instr.bstat 5 6 3).WF ∧
    ¬ (Instr.regroup 5 7 6).WF ∧
    ¬ (Instr.fork 2 0 6 3).WF ∧
    ¬ (Instr.fork 5 6 7 3).WF ∧
    ¬ (Instr.fork 2 6 7 9).WF ∧
    ¬ (Instr.fork 0 6 7 3).WF ∧
    ¬ (Instr.fork 2 120 7 8).WF ∧
    ¬ (Instr.fork 2 6 127 3).WF ∧
    ¬ (Instr.frstat 5 6 4).WF ∧
    ¬ (Instr.frstat 5 6 1).WF ∧
    ¬ (Instr.frstat 5 6 3).WF ∧
    ¬ (Instr.waitc 0).WF ∧
    ¬ (Instr.rett 3 0).WF ∧
    ¬ (Instr.rett 1 1).WF ∧
    ¬ (Instr.rinj 0 0 5 32).WF ∧
    ¬ (Instr.rinj 0 2 8 5).WF ∧
    ¬ (Instr.rinj 0 3 16 5).WF ∧
    ¬ (Instr.sysrd 5 32).WF ∧
    ¬ (Instr.syswr 5 32).WF ∧
    ¬ (Instr.mboxSend 121).WF ∧
    ¬ (Instr.mboxRecv 121).WF ∧
    ¬ (Instr.dturn 5 6 3).WF := by
  delta Instr.WF; dsimp only; decide

/-! Every arithmetic and memory instruction meets the conditions that its statement asks, in one plain state. -/

/-- The conditions of `i`'s statement are met in `s`. -/
noncomputable def meets (s : State) (i : Instr) : Bool :=
  [scalarEffect, vectorEffect, floatEffect, convertEffect, crossEffect, blockEffect].any fun f =>
    match f s (G s) (P s) i with | some e => admB e.adm s (G s) (P s) | none => false
noncomputable def meetsMem (s : State) (i : Instr) : Bool :=
  match memAccess s (G s) (P s) i with | some x => admB x.adm s (G s) (P s) | none => false

theorem test_admitted_from_sadd : ∀ i ∈ ([.sadd 1 2 3, .ssub 1 2 3, .smul 1 2 3, .smulhI 1 2 3, .smulhN 1 2 3, .sdivI 1 2 3, .sdivN 1 2 3, .sremI 1 2 3, 
    .sremN 1 2 3, .sminI 1 2 3, .sminN 1 2 3, .smaxI 1 2 3, .smaxN 1 2 3, .sabs 1 2, .sneg 1 2, .seq 1 2 3, 
    .sne 1 2 3, .sltI 1 2 3, .sltN 1 2 3, .sleI 1 2 3, .sleN 1 2 3, .ssel 1 2 3, .smov 1 2, .sadds 1 2 3, 
    .sand 1 2 3, .sor 1 2 3, .sxor 1 2 3, .sandn 1 2 3, .snot 1 2, .sshl 1 2 3, .sshr 1 2 3, .ssar 1 2 3, 
    .srol 1 2 3, .sror 1 2 3, .sclz 1 2, .sctz 1 2, .spop 1 2, .sbfxI 1 2 3, .sbfxN 1 2 3, .sbfi 1 2 3] : List Instr), meets base i = true := by decide +kernel

theorem test_admitted_from_mand : ∀ i ∈ ([.mand 1 2 3, .mor 1 2 3, .mxor 1 2 3, .mandn 1 2 3, .mnot 1 2, .mmov 1 2, .mpop 1 2, .mfirst 1 2, 
    .mtos 1 2, .stom 1 2, .mbelow 1 2 3, .saddi 1 2 8, .sandi 1 2 8, .sori 1 2 8, .sxori 1 2 8, .sshli 1 2 8, 
    .sshri 1 2 8, .sslti 1 2 8, .sli 1 8, .vadd 1 1 2 3, .vsub 1 1 2 3, .vmul 1 1 2 3, .vmulhI 1 1 2 3, .vmulhN 1 1 2 3, 
    .vaddSatI 1 1 2 3, .vaddSatN 1 1 2 3, .vminI 1 1 2 3, .vminN 1 1 2 3, .vmaxI 1 1 2 3, .vmaxN 1 1 2 3, .vabs 1 1 2, .vneg 1 1 2, 
    .vavgN 1 1 2 3, .vand 1 2 3, .vor 1 2 3, .vxor 1 2 3, .vandn 1 2 3, .vnot 1 2, .vsel 1 2 3, .vmov 1 2] : List Instr), meets base i = true := by decide +kernel

theorem test_admitted_from_vshl : ∀ i ∈ ([.vshl 1 1 2 3, .vshr 1 1 2 3, .vsar 1 1 2 3, .vpop 1 1 2, .vclz 1 1 2, .vceq 1 1 2 3, .vcne 1 1 2 3, .vcltI 1 1 2 3, 
    .vcltN 1 1 2 3, .vcleI 1 1 2 3, .vcleN 1 1 2 3, .vtom 1 2 0, .mtov 1 2, .vfmaF32 1 2 3, .vfmaF16 1 2 3, .vfmaBf16 1 2 3, 
    .vfmsF32 1 2 3, .vfmsF16 1 2 3, .vfmsBf16 1 2 3, .vfnmaF32 1 2 3, .vfnmaF16 1 2 3, .vfnmaBf16 1 2 3, .vfaddF32 1 2 3, .vfaddF16 1 2 3, 
    .vfaddBf16 1 2 3, .vfsubF32 1 2 3, .vfsubF16 1 2 3, .vfsubBf16 1 2 3, .vfmulF32 1 2 3, .vfmulF16 1 2 3, .vfmulBf16 1 2 3, .vfminF32 1 2 3, 
    .vfminF16 1 2 3, .vfminBf16 1 2 3, .vfmaxF32 1 2 3, .vfmaxF16 1 2 3, .vfmaxBf16 1 2 3, .vfminnumF32 1 2 3, .vfminnumF16 1 2 3, .vfminnumBf16 1 2 3] : List Instr), meets base i = true := by decide +kernel

theorem test_admitted_from_vfmaxnumF32 : ∀ i ∈ ([.vfmaxnumF32 1 2 3, .vfmaxnumF16 1 2 3, .vfmaxnumBf16 1 2 3, .vfceqF32 1 2 3, .vfceqF16 1 2 3, .vfceqBf16 1 2 3, .vfcltF32 1 2 3, .vfcltF16 1 2 3, 
    .vfcltBf16 1 2 3, .vfcleF32 1 2 3, .vfcleF16 1 2 3, .vfcleBf16 1 2 3, .vfcunF32 1 2 3, .vfcunF16 1 2 3, .vfcunBf16 1 2 3, .vfabsF32 1 2, 
    .vfabsF16 1 2, .vfabsBf16 1 2, .vfnegF32 1 2, .vfnegF16 1 2, .vfnegBf16 1 2, .vfclassF32 1 2, .vfclassF16 1 2, .vfclassBf16 1 2, 
    .vfcopysignF32 1 2 3, .vfcopysignF16 1 2 3, .vfcopysignBf16 1 2 3, .vcvtF16F32 1 2 1, .vcvtBf16F32 1 2 1, .vcvtF32F16 1 2 1, .vcvtF32Bf16 1 2 1, .vcvtI32F32 1 2, 
    .vcvtN32F32 1 2, .vcvtF32I32 1 2, .vcvtF32N32 1 2, .vcvtF8e4F32 1 2 1, .vcvtF8e5F32 1 2 1, .vcvtF32F8e4 1 2 1, .vcvtF32F8e5 1 2 1, .vcvtF6e2F32 1 2 1] : List Instr), meets base i = true := by decide +kernel

theorem test_admitted_from_vcvtF6e3F32 : ∀ i ∈ ([.vcvtF6e3F32 1 2 1, .vcvtF4F32 1 2 1, .vcvtF32F6e2 1 2 1, .vcvtF32F6e3 1 2 1, .vcvtF32F4 1 2 1, .vcvtI8I32 1 2 1, .vrcpSeed 1 2, .vrsqSeed 1 2, 
    .vexpRed 1 2 1, .vlogRed 1 2 1, .vscRed 1 2 1, .vldexp 1 2 3, .vgetexp 1 2, .vgetman 1 2, .vfrac 1 2, .vfrnd 1 2, 
    .vscFix 1 2 3, .vaddi 1 2 8, .vmovi 1 8, .vsplat 1 2 8, .vshfl 1 2 3, .vshfleE32 1 2 3, .vpswap 1 2 1, .vprefixAddI32 1 2, 
    .vprefixAddF32 1 2, .vredAddI32 1 2, .vredMaxI32 1 2, .vredMaxF32 1 2, .vmaxidxF16 1 2, .vmaxidxF32 1 2, .vcompact 1 2 3, .vexpand 1 2 3, 
    .vlaneid 1, .vvoteAll 1 2, .vvoteAny 1 2, .vballot 1 2, .qswpH 1 2, .qswpV 1 2, .qswpD 1 2, .qbcast 1 2 3] : List Instr), meets base i = true := by decide +kernel

theorem test_admitted_from_vpkpx : ∀ i ∈ ([.vpkpx 1 2 1, .vunpx 1 2 1, .vpkmx 1 2 1, .vunmx 1 2 1, .vget 1 2 8, .vput 1 2 8, .vbcast 1 2 8, .vbfly 1 2 8, 
    .vrot 1 2 8, .qbcastI 1 2 1] : List Instr), meets base i = true := by decide +kernel

theorem test_accessAdmitted_from_vld32 : ∀ i ∈ ([.vld32 1 2 8, .vld64 1 2 8, .vst32 1 2 8, .vst64 1 2 8, .vld16 1 2 8, .vst16 1 2 8, .vld8 1 2 8, .vst8 1 2 8, 
    .sld 1 2 8, .sst 1 2 8, .vldx32 1 2 3, .vldx64 1 2 3, .vstx32 1 2 3, .vstx64 1 2 3, .vldx16 1 2 3, .vstx16 1 2 3, 
    .vldx8 1 2 3, .vstx8 1 2 3, .atomAddE32 1 2 3, .atomAddE64 1 2 3, .atomMinI32 1 2 3, .atomMinN32 1 2 3, .atomMaxI32 1 2 3, .atomMaxN32 1 2 3, 
    .atomAndB64 1 2 3, .atomOrB64 1 2 3, .atomXorB64 1 2 3, .atomXchgE32 1 2 3, .atomXchgE64 1 2 3, .atomCasE32 1 2 3, .atomCasE64 1 2 3, .atomFaddF32 1 2 3, 
    .atomFaddBf16x2 1 2 3, .atomMaxidxF16 1 2 3] : List Instr), meetsMem base i = true := by decide +kernel

/-! For every clause of every statement, a state and operands that meet its hypotheses: the statement applied to them. -/

/-! States and operands for ScalarAndMaskResults, IntegerVectorResults, FloatVectorResults, ConversionResults, CrossLaneResults, PackingAndTreeSumResults, MemoryAccessesIssue, HomeAccessEffects, RepliesWriteDestinations, ControlTransfers, TranslationOfAddresses. -/

noncomputable def two (s : State) : State := onP (fun p => { p with mask := 3 }) s
noncomputable def m0 : State := two (S 2 0x10100 (V 1 0 5 (V 1 1 6 (V 3 0 0x10200 (V 3 1 0x10280 (S 4 0x10400 (S 5 0x10402 (S 6 0x8000000000000000 (S 7 0x50000 (M 1 1 base))))))))))
noncomputable def nx (i : Instr) (s : State) : State := match exec i s with | .next t => t | _ => s
noncomputable def opOf (s : State) (o : Nat) : Op := (s.ops.find? o).getD { gid := 0, slot := 0, ctx := 0, core := 0, perf := false, lost := 0, born := 0, kind := .fence 0 0 }
noncomputable def memOf (s : State) (o : Nat) : MemOp := match (opOf s o).kind with | .mem m => m | _ => { k := .load, n := 0, ord := 0, scp := 0, dst := .none, bundle := none, cls := 0, lanes := [] }
noncomputable def busyB : State := onG (fun g => { g with paths := g.paths.put 1 (P m0) }) m0
noncomputable def full3s : State := let s := busyB; { s with groups := s.groups ++ [(500, { G base with paths := (List.range 64).map fun i => (i + 2, P base) })] }
noncomputable def deep : State := onG (fun g => { g with rstack := List.replicate 16 { dpc := 0, owner := 0, fdepth := 0, phase := false, tok := 0, dmask := 0 } }) full3s
noncomputable def sav : State := onP (fun p => { p with saved := some 1 }) m0
noncomputable def bh : Handle := { die := 0, idx := 2, gen := 5, dom := 3 }
noncomputable def bdir (st : BSt) : Dir := { st := st, gen := 5, dom := 3, ctx := 1, gid := 1, ranges := [(0x10080, 128)], lines := [0x10080], wait := [], stamp := 9, op := 0 }
noncomputable def inD (st : BSt) (pr : Bool) (s : State) : State :=
  { s with
    dies := s.dies.put 0 { s.die 0 with dirs := [(2, bdir st)] }
    lines := if pr then [(0x10080, { stamp := 0, ref := none, prev := none, vlost := none, prep := some ([(0x10080, 7)], bh) })] else [] }
noncomputable def one (b : Bool) (s : State) : State :=
  { s with
    ops := s.ops.mapV fun _ o =>
      match o.kind with
      | .mem m => { o with kind := .mem { m with bundle := if b then some bh else none, lanes := [{ lane := 0, va := 0x10090, pa := 0x10090, x := 0x1234, c := 0, bun := b, done := false, res := 0 }] } }
      | _ => o }
noncomputable def mL : State := nx (.vld32 1 2 0) m0
noncomputable def mS : State := nx (.vst32 1 2 0) m0
noncomputable def mA : State := nx (.atomAddE32 1 4 3) (S 4 0 m0)
noncomputable def mL2 : State := nx (.homeAccess 10 [] false) mL
noncomputable def mA2 : State := nx (.homeAccess 10 [] false) mA
noncomputable def bS1 : State := inD .open_ true (one true mS)
noncomputable def bS2 : State := inD .preparing false (one true mS)
noncomputable def bL1 : State := inD .open_ true (one false mL)
noncomputable def bL2 : State := inD .committed true (one false mL)
noncomputable def laneOf (s : State) : LaneAcc := ((memOf s 10).lanes.head?).getD { lane := 0, va := 0, pa := 0, x := 0, c := 0, bun := false, done := false, res := 0 }
noncomputable def mS2 : State := nx (.homeAccess 10 [] false) mS
noncomputable def skewP : State := { m0 with iss := { m0.iss with at_ := BitVec.ofNat 64 (2 ^ 63) } }
noncomputable def skew (s : State) : State := { s with iss := { s.iss with at_ := 0x10002 } }

theorem test_scalarAndMaskResults_meets (H : Obligations.ScalarAndMaskResults) :
    (∃ t, exec (.sadd 1 2 3) base = .next t) := by
  · obtain ⟨_, h, _⟩ := H (.sadd 1 2 3) base (G base) (P base) _ rfl ad dd
    exact ⟨_, h⟩

theorem test_integerVectorResults_meets (H : Obligations.IntegerVectorResults) :
    (∃ t, exec (.vadd 2 1 2 3) base = .next t) := by
  · obtain ⟨_, h, _⟩ := H.1 (.vadd 2 1 2 3) base (G base) (P base) _ rfl ad dd
    exact ⟨_, h⟩

theorem test_floatVectorResults_meets (H : Obligations.FloatVectorResults) :
    (∃ t, exec (.vfaddF32 1 2 3) m0 = .next t) := by
  · obtain ⟨_, h, _⟩ := H (.vfaddF32 1 2 3) m0 (G m0) (P m0) _ rfl ad dd
    exact ⟨_, h⟩

theorem test_conversionResults_meets (H : Obligations.ConversionResults) :
    (∃ t, exec (.vcvtF32F16 1 2 0) m0 = .next t) := by
  · obtain ⟨_, h, _⟩ := H (.vcvtF32F16 1 2 0) m0 (G m0) (P m0) _ rfl ad dd
    exact ⟨_, h⟩

theorem test_crossLaneResults_meets (H : Obligations.CrossLaneResults) :
    (∃ t, exec (.vshfl 1 2 3) m0 = .next t) ∧
    (∃ t, exec (.vshfleE32 1 2 3) m0 = .next t) := by
  refine ⟨?_, ?_⟩
  · obtain ⟨_, h, _⟩ := H.1 (.vshfl 1 2 3) m0 (G m0) (P m0) _ rfl ad dd
    exact ⟨_, h⟩
  · obtain ⟨_, h, _⟩ := H.2 1 2 3 m0 (G m0) (P m0) ad dd
    exact ⟨_, h⟩

theorem test_packingAndTreeSumResults_meets (H : Obligations.PackingAndTreeSumResults) :
    (∃ t, exec (.vredAddF32 1 2) m0 = .next t) := by
  · obtain ⟨_, h, _⟩ := H.2 1 2 m0 (G m0) (P m0) ad dd
    exact ⟨_, h⟩

theorem test_memoryAccessesIssue_meets (H : Obligations.MemoryAccessesIssue) :
    (∃ t, exec (.vld32 1 2 0) m0 = .next t) ∧
    (∃ t, exec (.vst32 1 2 0) m0 = .next t) ∧
    (∃ t, exec (.atomAddE32 1 4 3) (S 4 0 m0) = .next t) := by
  refine ⟨?_, ?_, ?_⟩
  · exact ⟨_, H (.vld32 1 2 0) m0 (G m0) (P m0) _ (fun a => a.toNat) rfl ad (by simp only [addrOk]; decide +kernel) trivial⟩
  · exact ⟨_, H (.vst32 1 2 0) m0 (G m0) (P m0) _ (fun a => a.toNat) rfl ad (by simp only [addrOk]; decide +kernel) (by intro h e; rw [show openBundle m0 (G m0) = none from by decide +kernel] at e; cases e)⟩
  · exact ⟨_, H (.atomAddE32 1 4 3) (S 4 0 m0) (G (S 4 0 m0)) (P (S 4 0 m0)) _ (fun a => a.toNat) rfl ad (by simp only [addrOk]; decide +kernel) (by simp only [bundleOk]; decide +kernel)⟩

theorem test_homeAccessEffects_meets (H : Obligations.HomeAccessEffects) :
    (∃ t, exec (.homeAccess 10 [] false) mL = .next t) ∧
    (∃ t, exec (.homeAccess 10 [] false) mS = .next t) ∧
    (∃ t, exec (.homeAccess 10 [] false) mA = .next t) ∧
    (∃ t, exec (.homeAccess 10 [] false) bS1 = .next t) ∧
    (∃ t, exec (.homeAccess 10 [] false) bS2 = .next t) ∧
    (∃ t, exec (.homeAccess 10 [] false) bL1 = .next t) ∧
    (∃ t, exec (.homeAccess 10 [] false) bL2 = .next t) := by
  refine ⟨?_, ?_, ?_, ?_, ?_, ?_, ?_⟩
  · obtain ⟨_, h, _⟩ := H.1 mL 10 (opOf mL 10) (memOf mL 10) (by unfold AtHome; decide +kernel) dd
    exact ⟨_, h⟩
  · obtain ⟨_, h, _⟩ := H.1 mS 10 (opOf mS 10) (memOf mS 10) (by unfold AtHome; decide +kernel) dd
    exact ⟨_, h⟩
  · obtain ⟨_, h, _⟩ := H.1 mA 10 (opOf mA 10) (memOf mA 10) (by unfold AtHome; decide +kernel) dd
    exact ⟨_, h⟩
  · obtain ⟨_, _, h, _⟩ := (H.2 bS1 10 (opOf bS1 10) (memOf bS1 10) (laneOf bS1) bh (bdir .open_) [(0x10080, 7)] (by unfold AtHome; decide +kernel) dd dd dd dd dd).1 dd dd dd dd (Or.inl dd)
    exact ⟨_, h⟩
  · obtain ⟨_, _, h, _⟩ := (H.2 bS2 10 (opOf bS2 10) (memOf bS2 10) (laneOf bS2) bh (bdir .preparing) (lineCells bS2 0x10080) (by unfold AtHome; decide +kernel) dd dd dd dd dd).1 dd dd dd dd (Or.inr dd)
    exact ⟨_, h⟩
  · obtain ⟨_, h, _⟩ := ((H.2 bL1 10 (opOf bL1 10) (memOf bL1 10) (laneOf bL1) bh (bdir .open_) [(0x10080, 7)] (by unfold AtHome; decide +kernel) dd dd dd dd dd).2 dd dd dd dd).1 dd
    exact ⟨_, h⟩
  · obtain ⟨_, h, _⟩ := ((H.2 bL2 10 (opOf bL2 10) (memOf bL2 10) (laneOf bL2) bh (bdir .committed) [(0x10080, 7)] (by unfold AtHome; decide +kernel) dd dd dd dd dd).2 dd dd dd dd).2 dd
    exact ⟨_, h⟩

theorem test_repliesWriteDestinations_meets (H : Obligations.RepliesWriteDestinations) :
    (∃ t, exec (.loadReply 10) mL2 = .next t) ∧
    (∃ t, exec (.atomicReply 10) mA2 = .next t) ∧
    (∃ t, exec (.loadReply 10) mS2 = .next t) := by
  refine ⟨?_, ?_, ?_⟩
  · obtain ⟨_, _, h, _⟩ := (H mL2 10 (opOf mL2 10) (memOf mL2 10) (G mL2) dd dd dd dd dd dd dd dd).2 (.loadReply 10) (Or.inl ⟨rfl, dd⟩)
    exact ⟨_, h⟩
  · obtain ⟨_, _, h, _⟩ := (H mA2 10 (opOf mA2 10) (memOf mA2 10) (G mA2) dd dd dd dd dd dd dd dd).2 (.atomicReply 10) (Or.inr ⟨rfl, 0, dd⟩)
    exact ⟨_, h⟩
  · exact ⟨_, (H mS2 10 (opOf mS2 10) (memOf mS2 10) (G mS2) dd dd dd dd dd dd dd dd).1 dd⟩

theorem test_controlTransfers_meets_1 (H : Obligations.ControlTransfers) :
    (∃ t, exec (.bc 4 0 4) m0 = .next t) ∧
    (∃ t, exec (.br 4) m0 = .next t) ∧
    (∃ t, exec (.callx 4 4) m0 = .next t) ∧
    (∃ t, exec (.ret 5) m0 = .next t) ∧
    (∃ t, exec (.ret 6) m0 = .next t) ∧
    (∃ t, exec (.brx 4) (S 4 (2 ^ 63) m0) = .next t) ∧
    (∃ t, exec (.vbr 1 1 16) sav = .next t) ∧
    (∃ t, exec (.vbr 1 1 16) (M 1 4 m0) = .next t) ∧
    (∃ t, exec (.vbr 1 1 16) skewP = .next t) ∧
    (∃ t, exec (.vbr 1 1 16) (skew m0) = .next t) ∧
    (∃ t, exec (.vbr 1 1 16) (M 1 7 m0) = .next t) ∧
    (∃ t, exec (.vbr 1 1 16) m0 = .next t) := by
  refine ⟨?_, ?_, ?_, ?_, ?_, ?_, ?_, ?_, ?_, ?_, ?_, ?_⟩
  · exact ⟨_, (H.1 (.bc 4 0 4) m0 (G m0) (P m0) _ rfl ad).1 dd⟩
  · exact ⟨_, (H.1 (.br 4) m0 (G m0) (P m0) _ rfl ad).2.1 dd dd dd⟩
  · exact ⟨_, (H.1 (.callx 4 4) m0 (G m0) (P m0) _ rfl ad).2.1 dd dd dd⟩
  · exact ⟨_, (H.1 (.ret 5) m0 (G m0) (P m0) _ rfl ad).2.2.2 dd dd dd oo⟩
  · exact ⟨_, (H.1 (.ret 6) m0 (G m0) (P m0) _ rfl ad).2.2.1 dd dd oo⟩
  · exact ⟨_, (H.1 (.brx 4) (S 4 (2 ^ 63) m0) (G (S 4 (2 ^ 63) m0)) (P (S 4 (2 ^ 63) m0)) _ rfl ad).2.2.1 dd dd oo⟩
  · exact ⟨_, (H.2 1 1 16 sav (G sav) (P sav) ad).1 dd oo⟩
  · exact ⟨_, ((H.2 1 1 16 (M 1 4 m0) (G (M 1 4 m0)) (P (M 1 4 m0)) ad).2 dd).1 dd⟩
  · exact ⟨_, ((H.2 1 1 16 skewP (G skewP) (P skewP) ad).2 dd).2.1 dd oo dd⟩
  · exact ⟨_, ((H.2 1 1 16 (skew m0) (G (skew m0)) (P (skew m0)) ad).2 dd).2.2.1 dd oo dd dd⟩
  · exact ⟨_, (((H.2 1 1 16 (M 1 7 m0) (G (M 1 7 m0)) (P (M 1 7 m0)) ad).2 dd).2.2.2 dd dd dd).1 dd⟩
  · obtain ⟨_, _, ⟨h, _⟩, _⟩ := (((H.2 1 1 16 m0 (G m0) (P m0) ad).2 dd).2.2.2 dd dd dd).2.1 dd dd dd
    exact ⟨_, h⟩

theorem test_controlTransfers_meets_2 (H : Obligations.ControlTransfers) :
    (∃ t, exec (.vbr 1 1 16) mL = .next t) ∧
    (∃ t, exec (.vbr 1 1 16) busyB = .next t) ∧
    (∃ t, exec (.vbr 1 1 16) full3s = .next t) ∧
    (∃ t, exec (.vbr 1 1 16) deep = .next t) := by
  refine ⟨?_, ?_, ?_, ?_⟩
  · obtain ⟨_, _, ⟨h, _⟩, _⟩ := (((H.2 1 1 16 mL (G mL) (P mL) ad).2 dd).2.2.2 dd dd dd).2.1 dd dd dd
    exact ⟨_, h⟩
  · obtain ⟨_, _, ⟨h, _⟩, _⟩ := ((((H.2 1 1 16 busyB (G busyB) (P busyB) ad).2 dd).2.2.2 dd dd dd).2.2 dd dd).1 0 dd dd dd dd
    exact ⟨_, h⟩
  · obtain ⟨_, _, h, _⟩ := ((((H.2 1 1 16 full3s (G full3s) (P full3s) ad).2 dd).2.2.2 dd dd dd).2.2 dd dd).2 dd |>.1 dd
    exact ⟨_, h⟩
  · exact ⟨_, ((((H.2 1 1 16 deep (G deep) (P deep) ad).2 dd).2.2.2 dd dd dd).2.2 dd dd).2 dd |>.2 dd oo⟩

theorem test_translationOfAddresses_meets (H : Obligations.TranslationOfAddresses) :
    (∃ t, exec (.sld 1 5 0) m0 = .next t) ∧
    (∃ t, exec (.sld 1 7 0) m0 = .next t) := by
  refine ⟨?_, ?_⟩
  · exact ⟨_, ((H.1 (.sld 1 5 0) m0 (G m0) (P m0) _ rfl ad oo).1 [] _ [] rfl (by intro q h; cases h)).2 dd dd⟩
  · exact ⟨_, (H.2 (.sld 1 7 0) m0 (G m0) (P m0) _ _ rfl ad rfl (by simp only [addrOk]; decide +kernel) dd dd).1 dd⟩

/-! States and operands for ScratchpadAccesses, TablesGangsAndSpills, SystemRegisters. -/

noncomputable def p0 : State := two (V 1 0 0x40 (V 1 1 0x40 (V 2 0 7 (V 2 1 9 (S 1 5 (S 2 (2 * 2 ^ 32 + 8 * 2 ^ 16) (S 3 0x105 (S 4 (5 * 2 ^ 16 + 21) base))))))))
noncomputable def p1 : State := V 1 1 0x48 p0
noncomputable def t1 : State := nx (.talloc 1 2 1) p0
noncomputable def tH : State := t1.modTile 0 5 fun t => { t with held := 1 }
noncomputable def tg : State := nx (.tgset 3 4) p0
noncomputable def hd : State := { onG (fun g => { g with kind := .trapH 2 0, place := { g.place with pos := 16 } }) p0 with groups := (onG (fun g => { g with kind := .trapH 2 0, place := { g.place with pos := 16 } }) p0).groups.put 2 ((G p0).put1 (.s 9 9)) }
noncomputable def pM : State := let s := nx (.vld32 9 2 0) (S 2 0x10200 p1); { s with ops := s.ops.mapV fun _ o => match o.kind with | .mem m => { o with kind := .mem { m with ord := 1 } } | _ => o }
noncomputable def gl : State := { base with groups := base.groups.put 2 { G base with place := { (G base).place with pos := 1 } }, quads := base.quads.put 0 { base.quad 0 with latch := [{ gid := 2, slot := 0, t := 0, p := 0, fb := 0 }] } }
noncomputable def pO : State := S 2 (8 * 2 ^ 16) p0

theorem test_scratchpadAccesses_meets (H : Obligations.ScratchpadAccesses) :
    (∃ t, exec (.spld 3 1 0) p1 = .next t) ∧
    (∃ t, exec (.spst 2 1 0) p1 = .next t) ∧
    (∃ t, exec (.spld 3 1 0) pM = .next t) ∧
    (∃ t, exec (.spst 2 1 0) pM = .next t) ∧
    (∃ t, exec (.spld 3 2 0) p0 = .next t) ∧
    (∃ t, exec (.spst 3 2 0) p0 = .next t) := by
  refine ⟨?_, ?_, ?_, ?_, ?_, ?_⟩
  · obtain ⟨_, h, _⟩ := (H 3 1 0 p1 (G p1) (P p1)).1 ad dd dd
    exact ⟨_, h⟩
  · obtain ⟨_, h, _⟩ := (H 2 1 0 p1 (G p1) (P p1)).2.1 ad dd dd
    exact ⟨_, h⟩
  · exact ⟨_, (H 3 1 0 pM (G pM) (P pM)).2.2.1 dd |>.1 ad dd⟩
  · exact ⟨_, (H 2 1 0 pM (G pM) (P pM)).2.2.1 dd |>.2 ad dd⟩
  · exact ⟨_, (H 3 2 0 p0 (G p0) (P p0)).2.2.2 _ (Or.inl ⟨rfl, ad⟩) oo [] 0 [1] .align dd (by intro q h; cases h) dd⟩
  · exact ⟨_, (H 3 2 0 p0 (G p0) (P p0)).2.2.2 _ (Or.inr ⟨rfl, ad⟩) oo [] 0 [1] .align dd (by intro q h; cases h) dd⟩

theorem test_tablesGangsAndSpills_meets_1 (H : Obligations.TablesGangsAndSpills) :
    (∃ t, exec (.talloc 1 2 1) p0 = .next t) ∧
    (∃ t, exec (.talloc 5 2 1) (S 5 200 p0) = .next t) ∧
    (∃ t, exec (.talloc 1 2 1) tH = .next t) ∧
    (∃ t, exec (.talloc 1 2 1) pO = .next t) ∧
    (∃ t, exec (.trel 1 0) t1 = .next t) ∧
    (∃ t, exec (.trel 1 2) tH = .next t) ∧
    (∃ t, exec (.trel 5 2) (S 5 200 p0) = .next t) ∧
    (∃ t, exec (.trel 1 0) p0 = .next t) ∧
    (∃ t, exec (.tstat 6 1) t1 = .next t) ∧
    (∃ t, exec (.tstat 6 5) (S 5 200 p0) = .next t) ∧
    (∃ t, exec (.tglook 6 5) (S 5 200 p0) = .next t) ∧
    (∃ t, exec (.tgset 3 5) (S 5 800 p0) = .next t) := by
  refine ⟨?_, ?_, ?_, ?_, ?_, ?_, ?_, ?_, ?_, ?_, ?_, ?_⟩
  · exact ⟨_, ((H.1 1 2 1 p0 (G p0) (P p0)).1 ad).1 dd dd dd dd dd dd dd⟩
  · exact ⟨_, ((H.1 5 2 1 (S 5 200 p0) (G (S 5 200 p0)) (P (S 5 200 p0))).1 ad).2.1 oo (Or.inl dd)⟩
  · exact ⟨_, ((H.1 1 2 1 tH (G tH) (P tH)).1 ad).2.2.1 dd dd dd⟩
  · exact ⟨_, ((H.1 1 2 1 pO (G pO) (P pO)).1 ad).2.2.2 oo dd dd dd (Or.inr (Or.inl dd))⟩
  · exact ⟨_, (((H.1 1 2 0 t1 (G t1) (P t1)).2.1 ad).1 dd dd dd).1 dd dd dd⟩
  · exact ⟨_, (((H.1 1 2 2 tH (G tH) (P tH)).2.1 ad).1 dd dd dd).2 dd⟩
  · exact ⟨_, ((H.1 5 2 2 (S 5 200 p0) (G (S 5 200 p0)) (P (S 5 200 p0))).2.1 ad).2.1 oo dd⟩
  · exact ⟨_, ((H.1 1 2 0 p0 (G p0) (P p0)).2.1 ad).2.2 oo dd (Or.inl dd)⟩
  · exact ⟨_, ((H.1 6 1 2 t1 (G t1) (P t1)).2.2 ad).1 dd⟩
  · exact ⟨_, ((H.1 6 5 2 (S 5 200 p0) (G (S 5 200 p0)) (P (S 5 200 p0))).2.2 ad).2 oo dd⟩
  · exact ⟨_, ((H.2.1 6 5 (S 5 200 p0) (G (S 5 200 p0)) (P (S 5 200 p0))).2.2.2.2 oo).1 ad dd⟩
  · exact ⟨_, (((H.2.1 3 5 (S 5 800 p0) (G (S 5 800 p0)) (P (S 5 800 p0))).2.2.2.2 oo).2.1 ad).1 dd⟩

theorem test_tablesGangsAndSpills_meets_2 (H : Obligations.TablesGangsAndSpills) :
    (∃ t, exec (.tgset 3 5) (S 5 0 p0) = .next t) ∧
    (∃ t, exec (.tgclr 5 0) (S 5 800 p0) = .next t) ∧
    (∃ t, exec (.gang 0 0) gl = .next t) ∧
    (∃ t, exec (.tgset 3 4) p0 = .next t) ∧
    (∃ t, exec (.tglook 6 3) tg = .next t) ∧
    (∃ t, exec (.tglook 6 3) p0 = .next t) ∧
    (∃ t, exec (.tgclr 4 0) tg = .next t) ∧
    (∃ t, exec (.tgclr 0 1) tg = .next t) ∧
    (∃ t, exec (.gang 6 1) base = .next t) ∧
    (∃ t, exec (.gang 0 0) base = .next t) ∧
    (∃ t, exec (.gang 1 0) (S 1 1 base) = .next t) ∧
    (∃ t, exec (.divspillOpen 1) (S 1 (2^63 + 2 * 2^16 + 7) hd) = .next t) := by
  refine ⟨?_, ?_, ?_, ?_, ?_, ?_, ?_, ?_, ?_, ?_, ?_, ?_⟩
  · exact ⟨_, (((H.2.1 3 5 (S 5 0 p0) (G (S 5 0 p0)) (P (S 5 0 p0))).2.2.2.2 oo).2.1 ad).2 dd dd⟩
  · exact ⟨_, ((H.2.1 5 5 (S 5 800 p0) (G (S 5 800 p0)) (P (S 5 800 p0))).2.2.2.2 oo).2.2 ad dd⟩
  · obtain ⟨_, h, _⟩ := ((H.2.2.1 0 gl (G gl) (P gl)).2 _ (Or.inl ⟨rfl, ad⟩)).2.1 dd dd dd (by intro e h; simp only [show (gl.quad (G gl).place.quadIx).latch.map (fun e => (e.gid, e.slot)) = [(2, 0)] from by decide +kernel, List.mem_singleton] at h; subst h; exact ⟨(gl.group? 2).getD (G gl), P gl, by decide +kernel, by unfold Ordinary; decide +kernel, by decide +kernel⟩)
    exact ⟨_, h⟩
  · exact ⟨_, (H.2.1 3 4 p0 (G p0) (P p0)).2.1 ad dd dd⟩
  · exact ⟨_, ((H.2.1 6 3 tg (G tg) (P tg)).1 ad dd).1 1 { key := 0x105, slot := 5, used := 1 } dd dd dd (by intro v u h e; have hv : v = 0 := (by omega); subst hv; simp only [show (tg.core (G tg).place.core).tags.find? (4 * (BitVec.toNat (rS (G tg) 3) % 256) + 0) = none from by decide +kernel] at e; cases e)⟩
  · obtain ⟨_, _, h, _⟩ := ((H.2.1 6 3 p0 (G p0) (P p0)).1 ad dd).2 (by intro w t h e; have : ∀ w < 4, (p0.core (G p0).place.core).tags.find? (4 * (BitVec.toNat (rS (G p0) 3) % 256) + w) = none := (by decide +kernel); have e2 := (this w h).symm.trans e; cases e2)
    exact ⟨_, h⟩
  · exact ⟨_, (H.2.1 4 0 tg (G tg) (P tg)).2.2.1 ad dd⟩
  · exact ⟨_, (H.2.1 4 0 tg (G tg) (P tg)).2.2.2.1 ad⟩
  · exact ⟨_, (H.2.2.1 6 base (G base) (P base)).1 ad (G base).place rfl dd dd⟩
  · exact ⟨_, ((H.2.2.1 0 base (G base) (P base)).2 _ (Or.inl ⟨rfl, ad⟩)).1 dd dd⟩
  · exact ⟨_, ((H.2.2.1 1 (S 1 1 base) (G (S 1 1 base)) (P (S 1 1 base))).2 _ (Or.inl ⟨rfl, ad⟩)).2.2 dd oo⟩
  · exact ⟨_, (H.2.2.2 (.divspillOpen 1) 1 2 0 (S 1 (2^63 + 2 * 2^16 + 7) hd) (G (S 1 (2^63 + 2 * 2^16 + 7) hd)) (G p0 |>.put1 (.s 9 9)) (P (S 1 (2^63 + 2 * 2^16 + 7) hd)) (by simp) ad dd dd dd).1 dd dd dd dd⟩

theorem test_tablesGangsAndSpills_meets_3 (H : Obligations.TablesGangsAndSpills) :
    (∃ t, exec (.divspillSpill 1) (S 1 (3 * 2^62 + 7) hd) = .next t) := by
  · obtain ⟨_, h, _⟩ := (H.2.2.2 (.divspillSpill 1) 1 2 0 (S 1 (3 * 2^62 + 7) hd) (G (S 1 (3 * 2^62 + 7) hd)) (G p0 |>.put1 (.s 9 9)) (P (S 1 (3 * 2^62 + 7) hd)) (by simp) ad dd dd dd).2 (Or.inl dd) dd dd dd
    exact ⟨_, h⟩

theorem test_systemRegisters_meets_1 (H : Obligations.SystemRegisters) :
    (∃ t, exec (.sysrd 6 0) base = .next t) ∧
    (∃ t, exec (.sysrd 6 1) base = .next t) ∧
    (∃ t, exec (.sysrd 6 2) base = .next t) ∧
    (∃ t, exec (.sysrd 6 3) base = .next t) ∧
    (∃ t, exec (.sysrd 6 4) base = .next t) ∧
    (∃ t, exec (.sysrd 6 5) base = .next t) ∧
    (∃ t, exec (.sysrd 6 6) base = .next t) ∧
    (∃ t, exec (.sysrd 6 7) base = .next t) ∧
    (∃ t, exec (.sysrd 6 8) base = .next t) ∧
    (∃ t, exec (.sysrd 6 9) base = .next t) ∧
    (∃ t, exec (.sysrd 6 10) base = .next t) ∧
    (∃ t, exec (.sysrd 6 11) base = .next t) := by
  refine ⟨?_, ?_, ?_, ?_, ?_, ?_, ?_, ?_, ?_, ?_, ?_, ?_⟩
  · exact ⟨_, (H.1 6 0 base (G base) (P base) dd).1 ad (fun _ => dd)⟩
  · exact ⟨_, (H.1 6 1 base (G base) (P base) dd).1 ad (fun _ => dd)⟩
  · exact ⟨_, (H.1 6 2 base (G base) (P base) dd).1 ad (fun _ => dd)⟩
  · exact ⟨_, (H.1 6 3 base (G base) (P base) dd).1 ad (fun _ => dd)⟩
  · exact ⟨_, (H.1 6 4 base (G base) (P base) dd).1 ad (fun _ => dd)⟩
  · exact ⟨_, (H.1 6 5 base (G base) (P base) dd).1 ad (fun _ => dd)⟩
  · exact ⟨_, (H.1 6 6 base (G base) (P base) dd).1 ad (fun _ => dd)⟩
  · exact ⟨_, (H.1 6 7 base (G base) (P base) dd).1 ad (fun _ => dd)⟩
  · exact ⟨_, (H.1 6 8 base (G base) (P base) dd).1 ad (fun _ => dd)⟩
  · exact ⟨_, (H.1 6 9 base (G base) (P base) dd).1 ad (fun _ => dd)⟩
  · exact ⟨_, (H.1 6 10 base (G base) (P base) dd).1 ad (fun _ => dd)⟩
  · exact ⟨_, (H.1 6 11 base (G base) (P base) dd).1 ad (fun _ => dd)⟩

theorem test_systemRegisters_meets_2 (H : Obligations.SystemRegisters) :
    (∃ t, exec (.sysrd 6 12) base = .next t) ∧
    (∃ t, exec (.sysrd 6 13) base = .next t) ∧
    (∃ t, exec (.sysrd 6 14) base = .next t) ∧
    (∃ t, exec (.sysrd 6 15) base = .next t) ∧
    (∃ t, exec (.sysrd 6 16) base = .next t) ∧
    (∃ t, exec (.sysrd 6 17) base = .next t) ∧
    (∃ t, exec (.sysrd 6 18) base = .next t) ∧
    (∃ t, exec (.sysrd 6 19) base = .next t) ∧
    (∃ t, exec (.sysrd 6 20) base = .next t) ∧
    (∃ t, exec (.sysrd 6 21) base = .next t) ∧
    (∃ t, exec (.sysrd 6 22) hd = .next t) ∧
    (∃ t, exec (.sysrd 6 23) hd = .next t) := by
  refine ⟨?_, ?_, ?_, ?_, ?_, ?_, ?_, ?_, ?_, ?_, ?_, ?_⟩
  · exact ⟨_, (H.1 6 12 base (G base) (P base) dd).1 ad (fun _ => dd)⟩
  · exact ⟨_, (H.1 6 13 base (G base) (P base) dd).1 ad (fun _ => dd)⟩
  · exact ⟨_, (H.1 6 14 base (G base) (P base) dd).1 ad (fun _ => dd)⟩
  · exact ⟨_, (H.1 6 15 base (G base) (P base) dd).1 ad (fun _ => dd)⟩
  · exact ⟨_, (H.1 6 16 base (G base) (P base) dd).1 ad (fun _ => dd)⟩
  · exact ⟨_, (H.1 6 17 base (G base) (P base) dd).1 ad (fun _ => dd)⟩
  · exact ⟨_, (H.1 6 18 base (G base) (P base) dd).1 ad (fun _ => dd)⟩
  · exact ⟨_, (H.1 6 19 base (G base) (P base) dd).1 ad (fun _ => dd)⟩
  · exact ⟨_, (H.1 6 20 base (G base) (P base) dd).1 ad (fun _ => dd)⟩
  · exact ⟨_, (H.1 6 21 base (G base) (P base) dd).1 ad (fun _ => dd)⟩
  · exact ⟨_, (H.1 6 22 hd (G hd) (P hd) dd).1 ad (fun _ => dd)⟩
  · exact ⟨_, (H.1 6 23 hd (G hd) (P hd) dd).1 ad (fun _ => dd)⟩

theorem test_systemRegisters_meets_3 (H : Obligations.SystemRegisters) :
    (∃ t, exec (.sysrd 6 24) hd = .next t) ∧
    (∃ t, exec (.sysrd 6 25) hd = .next t) ∧
    (∃ t, exec (.sysrd 6 26) hd = .next t) ∧
    (∃ t, exec (.sysrd 6 27) hd = .next t) ∧
    (∃ t, exec (.sysrd 6 28) hd = .next t) ∧
    (∃ t, exec (.sysrd 6 29) hd = .next t) ∧
    (∃ t, exec (.sysrd 6 30) hd = .next t) ∧
    (∃ t, exec (.sysrd 6 31) hd = .next t) ∧
    (∃ t, exec (.sysrd 6 0x1C) base = .next t) ∧
    (∃ t, exec (.syswr 1 11) (S 1 0x21 base) = .next t) ∧
    (∃ t, exec (.syswr 1 12) (S 1 0x21 base) = .next t) ∧
    (∃ t, exec (.syswr 1 11) (S 1 6 base) = .next t) := by
  refine ⟨?_, ?_, ?_, ?_, ?_, ?_, ?_, ?_, ?_, ?_, ?_, ?_⟩
  · exact ⟨_, (H.1 6 24 hd (G hd) (P hd) dd).1 ad (fun _ => dd)⟩
  · exact ⟨_, (H.1 6 25 hd (G hd) (P hd) dd).1 ad (fun _ => dd)⟩
  · exact ⟨_, (H.1 6 26 hd (G hd) (P hd) dd).1 ad (fun _ => dd)⟩
  · exact ⟨_, (H.1 6 27 hd (G hd) (P hd) dd).1 ad (fun _ => dd)⟩
  · exact ⟨_, (H.1 6 28 hd (G hd) (P hd) dd).1 ad (fun _ => dd)⟩
  · exact ⟨_, (H.1 6 29 hd (G hd) (P hd) dd).1 ad (fun _ => dd)⟩
  · exact ⟨_, (H.1 6 30 hd (G hd) (P hd) dd).1 ad (fun _ => dd)⟩
  · exact ⟨_, (H.1 6 31 hd (G hd) (P hd) dd).1 ad (fun _ => dd)⟩
  · exact ⟨_, (H.1 6 0x1C base (G base) (P base) dd).2 ⟨dd, dd⟩ oo dd dd dd⟩
  · exact ⟨_, ((H.2 (.syswr 1 11) 1 11 (S 1 0x21 base) (G (S 1 0x21 base)) (P (S 1 0x21 base)) dd (Or.inl rfl)).1 ad (fun _ => dd)).1 _ rfl (by intro y h; exact absurd h (by decide))⟩
  · exact ⟨_, ((H.2 (.syswr 1 12) 1 12 (S 1 0x21 base) (G (S 1 0x21 base)) (P (S 1 0x21 base)) dd (Or.inl rfl)).1 ad (fun _ => dd)).1 _ rfl (by intro y h; exact absurd h (by decide))⟩
  · exact ⟨_, ((H.2 (.syswr 1 11) 1 11 (S 1 6 base) (G (S 1 6 base)) (P (S 1 6 base)) dd (Or.inl rfl)).1 ad (fun _ => dd)).2 (by decide) dd oo⟩

theorem test_systemRegisters_meets_4 (H : Obligations.SystemRegisters) :
    (∃ t, exec (.syswr 1 0) base = .next t) ∧
    (∃ t, exec (.hbmodeWrite 1) base = .next t) := by
  refine ⟨?_, ?_⟩
  · exact ⟨_, (H.2 (.syswr 1 0) 1 0 base (G base) (P base) dd (Or.inl rfl)).2 ⟨dd, dd⟩ oo dd dd (Or.inl dd)⟩
  · exact ⟨_, (H.2 (.hbmodeWrite 1) 1 9 base (G base) (P base) dd (by simp [namesWrite])).2 ⟨dd, dd⟩ oo dd dd (Or.inr dd)⟩

/-! States and operands for HintsTrapsAndReturns, AdmissionTrapsInOrder, ReportsAndHalts, ReconvergenceResults, AllonRegions, RegroupResults, ExitResults. -/

noncomputable def tr (c : Cause) (aft : Bool) : TrapRec := { cause := c, data := 3, addr := 0x10040, next := 0x10044, rep := 0, after_ := aft }
noncomputable def gp (s : State) (k : Nat) (f : Path → Path) (gid : Nat) : State := s.modGroup gid fun g => { g with paths := g.paths.adjust k f }
noncomputable def hdT : State := gp ((hd).modGroup 1 fun g => { g with trapaddr := 0x10040, trapinfo := 0xffffffff }) 0 (fun p => { p with cond := .trapped (tr .perm false) }) 2
noncomputable def hdA : State := gp hdT 0 (fun p => { p with cond := .trapped (tr .brk true) }) 2
noncomputable def hdR : State := hdT.modGroup 2 fun g => { g with rstack := [entryOf 77, entryOf 78] }
noncomputable def team0 : Team := { ctx := 1, kernel := 3, cohort := 4, no := 0, core := 0, die := 0, total := 2, retired := 0, bars := [], regroups := [] }
noncomputable def rg0 : State := onG (fun g => { g with live := 0xffff, team := 5, grp := 0 }) (onP (fun p => { p with mask := 0xffff }) (V 3 0 7 (V 3 1 8 (V 9 0 1 base))))
noncomputable def rg1 : State := { rg0 with teams := [(5, team0)] }
noncomputable def rg2 : State := { rg1 with groups := rg1.groups.put 2 { (G rg1) with grp := 1 } }
noncomputable def hp0 : Path := { (P rg1) with cond := .waiting (.regroup 6 3 4), after_ := 0x10004, since := 9, counted := true }
noncomputable def rg3 : State := { rg1 with
  teams := [(5, { team0 with regroups := [(0x10000, 1)] })], iss := { rg1.iss with gid := 2 }
  groups := [(1, { (G rg1) with live := 0x00ff, paths := [(0, { hp0 with mask := 0xff })] }), (2, { (G rg1) with grp := 1, v := [(32 * 3 + 5, 99), (32 * 4 + 15, 98), (32 * 9 + 1, 4)] })] }
noncomputable def att : State := (S 1 0x10000 (S 2 0x10100 (base.modCore 0 fun k => { k with tlb := k.tlb ++ k.tlb.map fun e => { e with va := 0x11000, pa := 0x11000 } })))
noncomputable def halted : State := base.modCtx 1 fun x => { x with porter := true }
noncomputable def ptr : State := { onG (fun g => { g with kind := .porter 2 0 }) base with host := { base.host with p2hBase := 0x9000, h2pBase := 0xa000, h2pTail := 1 } }
noncomputable def ptrF : State := { ptr with host := { ptr.host with p2hTail := 16, h2pTail := 0 } }
noncomputable def reg1 : State := base.modCtx 1 fun x => { x with regions := [{ base := 0, len := 2^21, holder := 0, bytes := { c := 5, m := 0 }, macs := { c := 6, m := 0 } }] }
noncomputable def rc (ph : Bool) : State := onP (fun p => { p with nent := 1 }) (onG (fun g => { g with rstack := [{ tok := 2, fdepth := 0, dmask := 0xf0, dpc := 0x10040, phase := ph, owner := 0 }] }) base)
noncomputable def rcE : State := onP (fun p => { p with nent := 1 }) base
noncomputable def rcF : State := onG (fun g => { g with divTok := 2, paths := g.paths.put 1 { (P base) with cond := .waiting (.rcv 2), mask := 0x30, parent := 0, since := 4, counted := true } }) (onP (fun p => { p with mask := 0xf }) base)
noncomputable def al : State := onG (fun g => { g with paths := g.paths.put 1 { (P base) with mask := 0x30 } }) (onP (fun p => { p with mask := 0xf }) base)
noncomputable def al1 : State := { (nx .allon al) with iss := al.iss }
noncomputable def rgX : State := onG (fun g => { g with live := 0x1ffff }) rg2
noncomputable def ptrH : State := { ptr with host := { ptr.host with p2hHeld := [[1, 2, 3, 4, 5, 6, 7, 8]] } }
noncomputable def chg : State := onG (fun g => { g with paths := g.paths.put 1 { P base with cond := .waiting (.tile 5 true false) } }) reg1
noncomputable def rcj : State := { onG (fun g => { g with paths := g.paths.put 2 { P base with tok := 2, frames := [{ addr := 0, st := .latent, target := 0, mask := 1, fpmode := 0, nv := 0, ns := 0, sa := 0, vb := 0, ret := 0, smask := 0, sargs := [], vargs := [], onchip := true, failed := false }] } }) base with iss := { base.iss with slot := 2 } }
noncomputable def two2 : State := onG (fun g => { g with live := 0x3f, paths := g.paths.put 1 { P base with mask := 0x30 } }) (onP (fun p => { p with mask := 0xf }) base)
noncomputable def lowB : State := onG (fun g => { g with budget := 16 }) base
noncomputable def rm7 : State := onG (fun g => { g with fpmode := 7 }) base
noncomputable def sco : State := onG (fun g => { g with v := (32 * 8, 1) :: g.v }) (nx (.vld32 8 2 0) (V 9 0 0 (S 2 0x10100 (M 1 1 base))))
noncomputable def spw : State := onG (fun g => { g with kind := .message }) base

theorem test_hintsTrapsAndReturns_meets_1 (H : Obligations.HintsTrapsAndReturns) :
    (∃ t, exec (.nop) base = .next t) ∧
    (∃ t, exec (.yield) base = .next t) ∧
    (∃ t, exec (.hint 1 3) base = .next t) ∧
    (∃ t, exec (.trap 1) base = .next t) ∧
    (∃ t, exec (.brk 1) base = .next t) ∧
    (∃ t, exec (.illopEncoding) base = .next t) ∧
    (∃ t, exec (.illopEncoding) hd = .next t) ∧
    (∃ t, exec (.rett 0 0) hdT = .next t) ∧
    (∃ t, exec (.rett 1 0) hdA = .next t) ∧
    (∃ t, exec (.rett 0 0) hdA = .next t) ∧
    (∃ t, exec (.rett 2 1) (S 1 0x10080 hdT) = .next t) ∧
    (∃ t, exec (.rinj 0 0 1 2) hdR = .next t) := by
  refine ⟨?_, ?_, ?_, ?_, ?_, ?_, ?_, ?_, ?_, ?_, ?_, ?_⟩
  · exact ⟨_, (H.1 1 3 base (G base) (P base) ad).1⟩
  · exact ⟨_, (H.1 1 3 base (G base) (P base) ad).2.1⟩
  · exact ⟨_, (H.1 1 3 base (G base) (P base) ad).2.2⟩
  · exact ⟨_, ((H.2.1 1 base (G base) (P base)).1 ad oo).1⟩
  · exact ⟨_, ((H.2.1 1 base (G base) (P base)).1 ad oo).2⟩
  · exact ⟨_, (H.2.1 1 base (G base) (P base)).2.1 ⟨dd, dd⟩ oo⟩
  · obtain ⟨_, h, _⟩ := (H.2.1 1 hd (G hd) (P hd)).2.2 ⟨dd, dd⟩ dd dd dd
    exact ⟨_, h⟩
  · obtain ⟨_, _, _, h, _⟩ := H.2.2.1 0 0 2 0 hdT (G hdT) ((hdT.group? 2).get dd) (P hdT) ((hdT.path? 2 0).get dd) (tr .perm false) ad dd dd dd dd dd dd dd dd dd dd
    exact ⟨_, h⟩
  · obtain ⟨_, _, _, h, _⟩ := H.2.2.1 1 0 2 0 hdA (G hdA) ((hdA.group? 2).get dd) (P hdA) ((hdA.path? 2 0).get dd) (tr .brk true) ad dd dd dd dd dd dd dd dd dd dd
    exact ⟨_, h⟩
  · obtain ⟨_, _, _, h, _⟩ := H.2.2.1 0 0 2 0 hdA (G hdA) ((hdA.group? 2).get dd) (P hdA) ((hdA.path? 2 0).get dd) (tr .brk true) ad dd dd dd dd dd dd dd dd dd dd
    exact ⟨_, h⟩
  · obtain ⟨_, _, _, h, _⟩ := H.2.2.1 2 1 2 0 (S 1 0x10080 hdT) (G (S 1 0x10080 hdT)) ((hdT.group? 2).get dd) (P hdT) ((hdT.path? 2 0).get dd) (tr .perm false) ad dd dd dd dd dd dd dd dd dd dd
    exact ⟨_, h⟩
  · obtain ⟨_, _, h, _⟩ := (H.2.2.2 1 2 2 0 hdR (G hdR) ((hdR.group? 2).get dd) (P hdR) dd dd dd dd dd).1 ad dd
    exact ⟨_, h⟩

theorem test_hintsTrapsAndReturns_meets_2 (H : Obligations.HintsTrapsAndReturns) :
    (∃ t, exec (.rinj 0 1 9 2) hdR = .next t) ∧
    (∃ t, exec (.rinj 0 2 1 2) hdR = .next t) ∧
    (∃ t, exec (.rinj 0 3 1 2) hdR = .next t) ∧
    (∃ t, exec (.rinj 1 0 1 2) hdR = .next t) ∧
    (∃ t, exec (.rinj 1 1 9 2) hdR = .next t) ∧
    (∃ t, exec (.rinj 1 2 1 2) hdR = .next t) ∧
    (∃ t, exec (.rinj 1 3 1 2) hdR = .next t) := by
  refine ⟨?_, ?_, ?_, ?_, ?_, ?_, ?_⟩
  · exact ⟨_, (H.2.2.2 9 2 2 0 hdR (G hdR) ((hdR.group? 2).get dd) (P hdR) dd dd dd dd dd).2.1 ad |>.1⟩
  · exact ⟨_, (H.2.2.2 1 2 2 0 hdR (G hdR) ((hdR.group? 2).get dd) (P hdR) dd dd dd dd dd).2.1 ad |>.2 dd⟩
  · exact ⟨_, (H.2.2.2 1 2 2 0 hdR (G hdR) ((hdR.group? 2).get dd) (P hdR) dd dd dd dd dd).2.2.1 ad _ rfl⟩
  · obtain ⟨_, _, h, _⟩ := (H.2.2.2 1 2 2 0 hdR (G hdR) ((hdR.group? 2).get dd) (P hdR) dd dd dd dd dd).2.2.2.1 ad dd
    exact ⟨_, h⟩
  · exact ⟨_, (H.2.2.2 9 2 2 0 hdR (G hdR) ((hdR.group? 2).get dd) (P hdR) dd dd dd dd dd).2.2.2.2.1 ad |>.1⟩
  · exact ⟨_, (H.2.2.2 1 2 2 0 hdR (G hdR) ((hdR.group? 2).get dd) (P hdR) dd dd dd dd dd).2.2.2.2.1 ad |>.2 dd⟩
  · exact ⟨_, (H.2.2.2 1 2 2 0 hdR (G hdR) ((hdR.group? 2).get dd) (P hdR) dd dd dd dd dd).2.2.2.2.2 ad dd⟩

theorem test_admissionTrapsInOrder_meets (H : Obligations.AdmissionTrapsInOrder) :
    (∃ t, gated { acc := { rnd := true } } (onG (fun g => { g with fpmode := 7 }) base) (fun _ _ s => s) = .next t) ∧
    (∃ t, gated { acc := {}, who := .handler } base (fun _ _ s => s) = .next t) ∧
    (∃ t, gated { acc := {}, rd := vR [126] } lowB (fun _ _ s => s) = .next t) ∧
    (∃ t, gated { acc := {}, full := true } al (fun _ _ s => s) = .next t) ∧
    (∃ t, gated { acc := {}, wr := [(2, 0)] } base (fun _ _ s => s) = .next t) ∧
    (∃ t, gated { acc := {}, rd := vR [8] } sco (fun _ _ s => s) = .next t) := by
  refine ⟨?_, ?_, ?_, ?_, ?_, ?_⟩
  · exact ⟨_, (H { acc := { rnd := true } } rm7 (G rm7) (P rm7) (fun _ _ s => s) ⟨dd, dd⟩ oo).1 dd⟩
  · exact ⟨_, (H { acc := {}, who := .handler } base (G base) (P base) (fun _ _ s => s) ⟨dd, dd⟩ oo).2.1 dd dd⟩
  · exact ⟨_, (H { acc := {}, rd := vR [126] } lowB (G lowB) (P lowB) (fun _ _ s => s) ⟨dd, dd⟩ oo).2.2.1 dd dd dd⟩
  · exact ⟨_, (H { acc := {}, full := true } al (G al) (P al) (fun _ _ s => s) ⟨dd, dd⟩ oo).2.2.2.1 dd dd dd dd⟩
  · exact ⟨_, (H { acc := {}, wr := [(2, 0)] } base (G base) (P base) (fun _ _ s => s) ⟨dd, dd⟩ oo).2.2.2.2.1 dd dd dd dd dd⟩
  · obtain ⟨_, _, h, _⟩ := (H { acc := {}, rd := vR [8] } sco (G sco) (P sco) (fun _ _ s => s) ⟨dd, dd⟩ oo).2.2.2.2.2 dd dd dd dd dd dd dd
    exact ⟨_, h⟩

theorem test_reportsAndHalts_meets_1 (H : Obligations.ReportsAndHalts) :
    (∃ t, exec (.halt 4 0) base = .next t) ∧
    (∃ t, exec (.halt 4 0) halted = .next t) ∧
    (∃ t, exec (.halt 4 1) hd = .next t) ∧
    (∃ t, exec (.mboxSend 8) ptr = .next t) ∧
    (∃ t, exec (.mboxSend 8) ptrH = .next t) ∧
    (∃ t, exec (.mboxSend 8) ptrF = .next t) ∧
    (∃ t, exec (.mboxRecv 8) ptr = .next t) ∧
    (∃ t, exec (.mboxRecv 8) ptrF = .next t) ∧
    (∃ t, exec (.ucnt 1 0 1) reg1 = .next t) ∧
    (∃ t, exec (.ucnt 1 0 1) base = .next t) ∧
    (∃ t, exec (.ucnt 1 0 1) chg = .next t) ∧
    (∃ t, exec (.attest 1 2) (S 1 (2 ^ 63) att) = .next t) := by
  refine ⟨?_, ?_, ?_, ?_, ?_, ?_, ?_, ?_, ?_, ?_, ?_, ?_⟩
  · exact ⟨_, (H.1 4 8 base (G base) (P base)).1 ad dd⟩
  · obtain ⟨_, _, h, _⟩ := (H.1 4 8 halted (G halted) (P halted)).2.1 ad dd
    exact ⟨_, h⟩
  · obtain ⟨_, h, _⟩ := (H.1 4 8 hd (G hd) (P hd)).2.2.1 ad dd
    exact ⟨_, h⟩
  · obtain ⟨_, h, _⟩ := ((H.1 4 8 ptr (G ptr) (P ptr)).2.2.2.1 ad).1 dd dd
    exact ⟨_, h⟩
  · exact ⟨_, ((H.1 4 8 ptrH (G ptrH) (P ptrH)).2.2.2.1 ad).2.1 dd dd⟩
  · exact ⟨_, ((H.1 4 8 ptrF (G ptrF) (P ptrF)).2.2.2.1 ad).2.2 dd⟩
  · obtain ⟨_, _, h, _⟩ := ((H.1 4 8 ptr (G ptr) (P ptr)).2.2.2.2 ad).1 dd
    exact ⟨_, h⟩
  · exact ⟨_, ((H.1 4 8 ptrF (G ptrF) (P ptrF)).2.2.2.2 ad).2 dd⟩
  · exact ⟨_, (H.2 1 0 1 1 2 reg1 (G reg1) (P reg1)).1 ad dd _ _ rfl rfl⟩
  · exact ⟨_, (H.2 1 0 1 1 2 base (G base) (P base)).2.1 ad oo dd⟩
  · exact ⟨_, (H.2 1 0 1 1 2 chg (G chg) (P chg)).2.2.1 ad dd _ _ rfl rfl⟩
  · exact ⟨_, ((H.2 1 0 1 1 2 (S 1 (2 ^ 63) att) (G (S 1 (2 ^ 63) att)) (P (S 1 (2 ^ 63) att))).2.2.2.1 ad oo).1 dd⟩

theorem test_reportsAndHalts_meets_2 (H : Obligations.ReportsAndHalts) :
    (∃ t, exec (.attest 1 2) (S 2 (2 ^ 63) att) = .next t) ∧
    (∃ t, exec (.attest 1 2) (S 1 0x10800 att) = .next t) ∧
    (∃ t, exec (.attest 1 2) (S 2 0x10010 att) = .next t) ∧
    (∃ t, exec (.attest 1 2) att = .next t) := by
  refine ⟨?_, ?_, ?_, ?_⟩
  · exact ⟨_, ((H.2 1 0 1 1 2 (S 2 (2 ^ 63) att) (G (S 2 (2 ^ 63) att)) (P (S 2 (2 ^ 63) att))).2.2.2.1 ad oo).2.1 dd dd⟩
  · exact ⟨_, (((H.2 1 0 1 1 2 (S 1 0x10800 att) (G (S 1 0x10800 att)) (P (S 1 0x10800 att))).2.2.2.1 ad oo).2.2 dd dd).1 dd⟩
  · exact ⟨_, (((H.2 1 0 1 1 2 (S 2 0x10010 att) (G (S 2 0x10010 att)) (P (S 2 0x10010 att))).2.2.2.1 ad oo).2.2 dd dd).2 dd dd⟩
  · exact ⟨_, (H.2 1 0 1 1 2 att (G att) (P att)).2.2.2.2 ad dd dd _ 0x10000 0x11000 0x10100 rfl dd dd dd dd dd dd dd dd dd⟩

theorem test_reconvergenceResults_meets (H : Obligations.ReconvergenceResults) :
    (∃ t, exec (.rcv 2) (rc false) = .next t) ∧
    (∃ t, exec (.rcv 2) (rc true) = .next t) ∧
    (∃ t, exec (.rcv 2) rcE = .next t) ∧
    (∃ t, exec (.rcv 2) rcj = .next t) ∧
    (∃ t, exec (.rcv 2) base = .next t) ∧
    (∃ t, exec (.rcv 2) rcF = .next t) := by
  refine ⟨?_, ?_, ?_, ?_, ?_, ?_⟩
  · obtain ⟨_, _, h, _⟩ := ((H 2 (rc false) (G (rc false)) (P (rc false)) ad dd).1 0 _ dd rfl dd dd).1 dd
    exact ⟨_, h⟩
  · obtain ⟨_, _, h, _⟩ := ((H 2 (rc true) (G (rc true)) (P (rc true)) ad dd).1 0 _ dd rfl dd dd).2 dd
    exact ⟨_, h⟩
  · exact ⟨_, (H 2 rcE (G rcE) (P rcE) ad dd).2.1 dd dd oo⟩
  · exact ⟨_, (H 2 rcj (G rcj) (P rcj) ad dd).2.2.1 dd dd oo (Or.inl dd)⟩
  · obtain ⟨_, _, h, _⟩ := (H 2 base (G base) (P base) ad dd).2.2.2.1 dd dd dd dd
    exact ⟨_, h⟩
  · obtain ⟨_, _, h, _⟩ := (H 2 rcF (G rcF) (P rcF) ad dd).2.2.2.2 _ dd dd dd rfl dd dd rfl dd dd
    exact ⟨_, h⟩

theorem test_allonRegions_meets (H : Obligations.AllonRegions) :
    (∃ t, exec (.allon) al = .next t) ∧
    (∃ t, exec (.alloff) al1 = .next t) ∧
    (∃ t, exec (.allon) al1 = .next t) ∧
    (∃ t, exec (.alloff) al = .next t) ∧
    (∃ t, exec (.rcv 2) al1 = .next t) ∧
    (∃ t, exec (.exit) al1 = .next t) ∧
    (∃ t, exec (.regroup 6 3 4) al1 = .next t) := by
  refine ⟨?_, ?_, ?_, ?_, ?_, ?_, ?_⟩
  · obtain ⟨_, _, h, _⟩ := (H al (G al) (P al) ad).1 dd
    exact ⟨_, h⟩
  · obtain ⟨_, _, h, _⟩ := (H al1 (G al1) (P al1) ad).2.1 _ rfl
    exact ⟨_, h⟩
  · exact ⟨_, ((H al1 (G al1) (P al1) ad).2.2 oo).1 dd⟩
  · exact ⟨_, ((H al (G al) (P al) ad).2.2 oo).2.1 dd⟩
  · exact ⟨_, (((H al1 (G al1) (P al1) ad).2.2 oo).2.2 dd).1 2⟩
  · exact ⟨_, (((H al1 (G al1) (P al1) ad).2.2 oo).2.2 dd).2.1⟩
  · exact ⟨_, (((H al1 (G al1) (P al1) ad).2.2 oo).2.2 dd).2.2 6 3 4 ad⟩

theorem test_regroupResults_meets (H : Obligations.RegroupResults) :
    (∃ t, exec (.regroup 6 3 4) (onG (fun g => { g with team := 0 }) rg0) = .next t) ∧
    (∃ t, exec (.regroup 6 3 4) rgX = .next t) ∧
    (∃ t, exec (.regroup 6 3 4) rg2 = .next t) ∧
    (∃ t, exec (.regroup 6 3 4) rg1 = .next t) ∧
    (∃ t, exec (.regroup 6 3 4) rg3 = .next t) := by
  refine ⟨?_, ?_, ?_, ?_, ?_⟩
  · exact ⟨_, (H 6 3 4 (onG (fun g => { g with team := 0 }) rg0) (G (onG (fun g => { g with team := 0 }) rg0)) (P rg0) ad dd).1 dd dd⟩
  · obtain ⟨_, _, h, _⟩ := (H 6 3 4 rgX (G rgX) (P rgX) ad dd).2.1 dd dd (by intro q hq e a b hc; have hr : ∀ q ∈ (G rgX).paths, q.2.cond = .ready := (by decide +kernel); rw [hr q hq] at hc; cases hc) dd
    exact ⟨_, h⟩
  · exact ⟨_, (H 6 3 4 rg2 (G rg2) (P rg2) ad dd).2.2.1 dd team0 2 _ dd dd (by rw [show teamGroups rg2 (G rg2).team = [(1, G rg2), (2, { (G rg1) with grp := 1 })] from by decide +kernel]; exact List.mem_cons_of_mem _ (List.mem_singleton.mpr rfl)) dd dd⟩
  · obtain ⟨_, _, h, _⟩ := (H 6 3 4 rg1 (G rg1) (P rg1) ad dd).2.2.2.1 dd dd team0 dd dd dd
    exact ⟨_, h⟩
  · obtain ⟨_, _, _, h, _⟩ := (H 6 3 4 rg3 (G rg3) (P rg3) ad dd).2.2.2.2 dd dd dd dd dd _ _ _ _ rfl dd dd rfl dd dd rfl dd dd dd
    exact ⟨_, h⟩

theorem test_exitResults_meets (H : Obligations.ExitResults) :
    (∃ t, exec (.exit) (onP (fun p => { p with inl := true }) base) = .next t) ∧
    (∃ t, exec (.exit) hd = .next t) ∧
    (∃ t, exec (.exit) base = .next t) ∧
    (∃ t, exec (.exit) two2 = .next t) ∧
    (∃ t, exec (.exit) base = .next t) ∧
    (∃ t, exec (.exit) (rc true) = .next t) ∧
    (∃ t, exec (.exit) (rc false) = .next t) := by
  refine ⟨?_, ?_, ?_, ?_, ?_, ?_, ?_⟩
  · exact ⟨_, (H (onP (fun p => { p with inl := true }) base) (G (onP (fun p => { p with inl := true }) base)) (P (onP (fun p => { p with inl := true }) base))).2.1 ad dd (Or.inr (Or.inl dd))⟩
  · obtain ⟨_, h, _⟩ := (H hd (G hd) (P hd)).2.2 ⟨dd, dd⟩ dd dd dd dd
    exact ⟨_, h⟩
  · obtain ⟨_, h, _⟩ := ((H base (G base) (P base)).1 ad dd dd dd (by intro f e; exact absurd e (by simp [show (G base).kind = .grid from by decide +kernel]))).1 dd (Or.inl dd)
    exact ⟨_, h⟩
  · obtain ⟨_, _, h, _⟩ := ((H two2 (G two2) (P two2)).1 ad dd dd dd (by intro f e; exact absurd e (by simp [show (G two2).kind = .grid from by decide +kernel]))).2.1 dd dd dd dd
    exact ⟨_, h⟩
  · exact ⟨_, ((H base (G base) (P base)).1 ad dd dd dd (by intro f e; exact absurd e (by simp [show (G base).kind = .grid from by decide +kernel]))).2.2.1 dd dd dd dd dd dd dd dd dd⟩
  · obtain ⟨_, _, h, _⟩ := ((H (rc true) (G (rc true)) (P (rc true))).1 ad dd dd dd (by intro f e; exact absurd e (by simp [show (G (rc true)).kind = .grid from by decide +kernel]))).2.2.2 0 _ dd dd rfl dd dd
    exact ⟨_, h⟩
  · obtain ⟨_, _, h, _⟩ := ((H (rc false) (G (rc false)) (P (rc false))).1 ad dd dd dd (by intro f e; exact absurd e (by simp [show (G (rc false)).kind = .grid from by decide +kernel]))).2.2.2 0 _ dd dd rfl dd dd
    exact ⟨_, h⟩

/-! States and operands for WeightBuffer, MmaRendezvous, TileProductsAndMerges, AccumulatorRowsAndColumns, MatrixResults. -/

/-- A format-block: f32-like formats AF and BF 0 (tf32?), slot 0; ganged alone. -/
noncomputable def mg (s : State) : State := s.modQuad 0 fun q => { q with gang := BitVec.ofNat 64 (2 ^ 61) }
noncomputable def wbL (s : State) : State := s.modQuad 0 fun q => { q with slots := [(0, { st := .loaded, fmt := 0, sp := false, data := List.replicate 256 1, rmask := 0 })] }
noncomputable def ma : State := mg (wbL (S 1 0 base))
noncomputable def mm : State := wbL (S 1 0 (S 2 (4 * 2 ^ 32 + 0) base))
noncomputable def tl0 : Tile := { gen := 1, count := 2, base := 8, reg := true, st := .ready, rmask := 0, held := 0 }
noncomputable def mmT : State := mm.modTile 0 0 fun _ => tl0
noncomputable def mzop : State := nx (.acczero 2) (base.modQuad 0 fun q => { q with acc := [(2049, 7)] })
noncomputable def accs : State := two (S 1 1 (V 2 0 5 (V 2 1 6 (base.modQuad 0 fun q => { q with acc := [(32 + 1, 7), (1024 + 32, 9)] }))))
noncomputable def wbs : State := (S 1 0x000 (S 2 (2 ^ 8 + 0) base)).modTile 0 0 fun _ => { tl0 with count := 4 }
noncomputable def wbd : State := nx (.wbld 1 2 0) wbs
/-- Rows of 32 bytes at pitch 32 in a tile of two pages; the slot holds a panel. -/
noncomputable def ptch (p k o t : Nat) (s : State) : State := S 2 (p * 2 ^ 48 + k * 2 ^ 32 + o * 2 ^ 8 + t) s
noncomputable def mmA : State := ptch 32 4 4 0 mmT
noncomputable def mmTe : State := (ptch 32 4 0 0 mm).modTile 0 0 fun _ => { tl0 with st := .empty }
noncomputable def mmI : State := ptch 32 0 0 0 mmT
noncomputable def mmE : State := ptch 992 4 0 0 mmT
/-- Two members, the other not arrived. -/
noncomputable def ma2 : State := (wbL (S 1 0 base)).modQuad 0 fun q => { q with gang := BitVec.ofNat 64 (2 * 2 ^ 61 + (1 * 2 ^ 4) * 2 ^ 10) }
noncomputable def maX : State := mg (wbL (S 1 0 base))
noncomputable def mres : State := nx (.acczero 2) (base.modQuad 0 fun q => { q with acc := [(2049, 7)] })
noncomputable def wbP : State := wbs.modTile 0 0 fun t => { t with base := 300 }
noncomputable def wbT : State := wbs.modTile 0 0 fun t => { t with st := .empty }
noncomputable def wbR : State := S 1 0 (S 2 256 (nx (.mmat 2 1 2 0) mmT))

theorem test_weightBuffer_meets (H : Obligations.WeightBuffer) :
    (∃ t, exec (.fmtchk 3 1 0) ma = .next t) ∧
    (∃ t, exec (.wbfree 2) wbd = .next t) ∧
    (∃ t, exec (.wbld 1 2 0) wbs = .next t) ∧
    (∃ t, exec (.wbld 1 2 0) (S 2 0 wbs) = .next t) ∧
    (∃ t, exec (.wbld 1 2 0) (S 1 0x100 wbs) = .next t) ∧
    (∃ t, exec (.wbld 1 2 0) (S 1 0x400000 wbs) = .next t) ∧
    (∃ t, exec (.wbld 1 2 0) wbP = .next t) ∧
    (∃ t, exec (.wbld 1 2 0) wbT = .next t) ∧
    (∃ t, exec (.wbld 1 2 0) wbR = .next t) ∧
    (∃ t, exec (.wbfree 2) wbR = .next t) ∧
    (∃ t, exec (.wbfree 1) (S 1 0 wbs) = .next t) ∧
    (∃ t, exec (.wbldSlotLoaded 10) wbd = .next t) := by
  refine ⟨?_, ?_, ?_, ?_, ?_, ?_, ?_, ?_, ?_, ?_, ?_, ?_⟩
  · exact ⟨_, (H 3 1 0 ma (G ma) (P ma)).1 ad⟩
  · obtain ⟨_, h, _⟩ := ((H 2 2 0 wbd (G wbd) (P wbd)).2.2.2.2.2.1 ad).1 ⟨dd, dd, dd⟩ dd
    exact ⟨_, h⟩
  · obtain ⟨_, _, h, _⟩ := ((H 1 2 0 wbs (G wbs) (P wbs)).2.1 ad ⟨⟨dd, dd, dd⟩, dd, dd⟩ dd dd dd dd)
    exact ⟨_, h⟩
  · exact ⟨_, ((H 1 2 0 (S 2 0 wbs) (G (S 2 0 wbs)) (P wbs)).2.2.1 ad oo).1 (by rintro ⟨⟨h, _⟩, _⟩; revert h; decide +kernel)⟩
  · exact ⟨_, ((H 1 2 0 (S 1 0x100 wbs) (G (S 1 0x100 wbs)) (P wbs)).2.2.1 ad oo).2.1 ⟨⟨dd, dd, dd⟩, dd, dd⟩ dd⟩
  · exact ⟨_, ((H 1 2 0 (S 1 0x400000 wbs) (G (S 1 0x400000 wbs)) (P (S 1 0x400000 wbs))).2.2.1 ad oo).2.2.1 ⟨⟨dd, dd, dd⟩, dd, dd⟩ dd dd dd⟩
  · exact ⟨_, ((H 1 2 0 wbP (G wbP) (P wbP)).2.2.1 ad oo).2.2.2.1 ⟨⟨dd, dd, dd⟩, dd, dd⟩ dd dd⟩
  · exact ⟨_, ((H 1 2 0 wbT (G wbT) (P wbT)).2.2.1 ad oo).2.2.2.2 ⟨⟨dd, dd, dd⟩, dd, dd⟩ dd dd dd dd⟩
  · exact ⟨_, (H 1 2 0 wbR (G wbR) (P wbR)).2.2.2.1 ad ⟨⟨dd, dd, dd⟩, dd, dd⟩ dd dd dd dd⟩
  · exact ⟨_, (H 2 2 0 wbR (G wbR) (P wbR)).2.2.2.2.1 ad ⟨dd, dd, dd⟩ dd⟩
  · exact ⟨_, ((H 1 2 0 (S 1 0 wbs) (G (S 1 0 wbs)) (P (S 1 0 wbs))).2.2.2.2.2.1 ad).2 (by rintro ⟨h, _⟩; revert h; decide +kernel) oo⟩
  · obtain ⟨_, h, _⟩ := (H 2 2 0 wbd (G wbd) (P wbd)).2.2.2.2.2.2 10 (opOf wbd 10) 1 0 0 false 0 0 0 0 [] dd dd dd (by intro z hz hn; have : ∀ z ∈ wbd.ops, z.1 = 10 := (by decide +kernel); exact absurd (this z hz) hn)
    exact ⟨_, h⟩

theorem test_mmaRendezvous_meets (H : Obligations.MmaRendezvous) :
    (∃ t, exec (.mma 0 1 0) base = .next t) ∧
    (∃ t, exec (.mma 0 1 0) ma2 = .next t) ∧
    (∃ t, exec (.mma 0 1 0) maX = .next t) := by
  refine ⟨?_, ?_, ?_⟩
  · exact ⟨_, (H 0 1 0 base (G base) (P base) ad).1 oo (Or.inl dd)⟩
  · exact ⟨_, (H 0 1 0 ma2 (G ma2) (P ma2) ad).2.1 dd (by intro x hx; have : (ma2.quad (G ma2).place.quadIx).latch = [] := (by decide +kernel); rw [this] at hx; cases hx) dd⟩
  · obtain ⟨_, _, _, _, _, _, h, _⟩ := (H 0 1 0 maX (G maX) (P maX) ad).2.2 dd (by intro x hx; have : (maX.quad (G maX).place.quadIx).latch = [] := (by decide +kernel); rw [this] at hx; cases hx) dd dd dd (by intro _ o ho x hx; have h0 : o = 0 := (by rcases ho with h | h <;> (rw [h]; decide +kernel)); have hk : gangK (maX.quad (G maX).place.quadIx) (FBlock.of (rS (G maX) 1)) < 4096 := (by decide +kernel); subst h0; have : x < 4096 := lt_trans hx hk; rw [show (32 * 0 + x) / 4096 = 0 by omega]; exact ⟨by omega, by decide +kernel⟩) (by intro en hen; have e : gangEntries (maX.quad (G maX).place.quadIx).gang = [(0, 0, 0)] := (by decide +kernel); rw [e] at hen; rcases List.mem_singleton.mp hen with rfl; exact ⟨(1, G maX), dd, dd⟩) (by intro x hx; have : (maX.quad (G maX).place.quadIx).latch = [] := (by decide +kernel); rw [this] at hx; cases hx)
    exact ⟨_, h⟩

theorem test_tileProductsAndMerges_meets (H : Obligations.TileProductsAndMerges) :
    (∃ t, exec (.acczero 2) base = .next t) ∧
    (∃ t, exec (.mprom 2 1) base = .next t) ∧
    (∃ t, exec (.mmat 2 1 2 0) mmA = .next t) ∧
    (∃ t, exec (.mmat 2 1 2 0) (mm.modQuad 0 fun q => { q with owner := 2 }) = .next t) ∧
    (∃ t, exec (.mmat 2 1 2 0) mmTe = .next t) ∧
    (∃ t, exec (.mmat 2 1 2 0) mmI = .next t) ∧
    (∃ t, exec (.mmat 2 1 2 0) mmE = .next t) ∧
    (∃ t, exec (.mmat 2 1 2 0) mmT = .next t) := by
  refine ⟨?_, ?_, ?_, ?_, ?_, ?_, ?_, ?_⟩
  · exact ⟨_, ((H 2 1 1 0 base (G base) (P base)).2 ad).1⟩
  · exact ⟨_, ((H 2 1 1 0 base (G base) (P base)).2 ad).2⟩
  · exact ⟨_, ((H 2 1 2 0 mmA (G mmA) (P mmA)).1 ad).2 oo |>.1 (by rintro ⟨h, _⟩; revert h; decide +kernel)⟩
  · exact ⟨_, ((H 2 1 2 0 (mm.modQuad 0 fun q => { q with owner := 2 }) (G (mm.modQuad 0 fun q => { q with owner := 2 })) (P mm)).1 ad).2 oo |>.2.1 ⟨dd, dd⟩ dd⟩
  · exact ⟨_, ((H 2 1 2 0 mmTe (G mmTe) (P mmTe)).1 ad).2 oo |>.2.2.1 ⟨dd, dd⟩ dd dd dd⟩
  · exact ⟨_, ((H 2 1 2 0 mmI (G mmI) (P mmI)).1 ad).2 oo |>.2.2.2.1 ⟨dd, dd⟩ dd dd⟩
  · exact ⟨_, ((H 2 1 2 0 mmE (G mmE) (P mmE)).1 ad).2 oo |>.2.2.2.2 ⟨dd, dd⟩ dd dd dd dd⟩
  · obtain ⟨_, _, _, _, _, h, _⟩ := ((H 2 1 2 0 mmT (G mmT) (P mmT)).1 ad).1 ⟨dd, dd⟩ dd dd dd dd (by intro _ o ho x hx; have h0 : o = 0 := (by rcases ho with h | h <;> (rw [h]; decide +kernel)); have hk : (rS (G mmT) 2).toNat / 2 ^ 32 % 2 ^ 16 < 4096 := (by decide +kernel); subst h0; have : x < 4096 := lt_trans hx hk; rw [show (32 * 0 + x) / 4096 = 0 by omega]; exact ⟨by omega, by decide +kernel⟩)
    exact ⟨_, h⟩

theorem test_accumulatorRowsAndColumns_meets (H : Obligations.AccumulatorRowsAndColumns) :
    (∃ t, exec (.arowRd 3 0 1) accs = .next t) ∧
    (∃ t, exec (.acolRd 3 0 1) accs = .next t) ∧
    (∃ t, exec (.arowRdb 3 0 1) accs = .next t) ∧
    (∃ t, exec (.arowWr 1 2 1) accs = .next t) ∧
    (∃ t, exec (.acolWr 1 2 1) accs = .next t) ∧
    (∃ t, exec (.arowAdd 1 2 1) accs = .next t) ∧
    (∃ t, exec (.arowRd 3 2 1) (S 1 1 mres) = .next t) ∧
    (∃ t, exec (.acolRd 3 2 1) (S 1 1 mres) = .next t) ∧
    (∃ t, exec (.arowRdb 3 2 1) (S 1 1 mres) = .next t) ∧
    (∃ t, exec (.arowWr 2 3 1) (S 1 1 mres) = .next t) ∧
    (∃ t, exec (.acolWr 2 3 1) (S 1 1 mres) = .next t) ∧
    (∃ t, exec (.arowAdd 2 3 1) (S 1 1 mres) = .next t) := by
  refine ⟨?_, ?_, ?_, ?_, ?_, ?_, ?_, ?_, ?_, ?_, ?_, ?_⟩
  · obtain ⟨_, h, _⟩ := (((H 3 0 1 accs (G accs) (P accs)).1 dd).1 ad).1
    exact ⟨_, h⟩
  · obtain ⟨_, h, _⟩ := (((H 3 0 1 accs (G accs) (P accs)).1 dd).1 ad).2
    exact ⟨_, h⟩
  · obtain ⟨_, h, _⟩ := ((H 3 0 1 accs (G accs) (P accs)).1 dd).2 ad
    exact ⟨_, h⟩
  · obtain ⟨_, _, h, _⟩ := (((H 1 2 1 accs (G accs) (P accs)).2.1 dd).1 ad).1
    exact ⟨_, h⟩
  · obtain ⟨_, _, h, _⟩ := (((H 1 2 1 accs (G accs) (P accs)).2.1 dd).1 ad).2
    exact ⟨_, h⟩
  · obtain ⟨_, _, h, _⟩ := ((H 1 2 1 accs (G accs) (P accs)).2.1 dd).2 ad
    exact ⟨_, h⟩
  · exact ⟨_, (((H 3 2 1 (S 1 1 mres) (G (S 1 1 mres)) (P (S 1 1 mres))).2.2.1 dd).1 ad).1⟩
  · exact ⟨_, (((H 3 2 1 (S 1 1 mres) (G (S 1 1 mres)) (P (S 1 1 mres))).2.2.1 dd).1 ad).2⟩
  · exact ⟨_, ((H 3 2 1 (S 1 1 mres) (G (S 1 1 mres)) (P (S 1 1 mres))).2.2.1 dd).2 ad⟩
  · exact ⟨_, (((H 2 3 1 (S 1 1 mres) (G (S 1 1 mres)) (P (S 1 1 mres))).2.2.2 dd).1 ad).1⟩
  · exact ⟨_, (((H 2 3 1 (S 1 1 mres) (G (S 1 1 mres)) (P (S 1 1 mres))).2.2.2 dd).1 ad).2⟩
  · exact ⟨_, ((H 2 3 1 (S 1 1 mres) (G (S 1 1 mres)) (P (S 1 1 mres))).2.2.2 dd).2 ad⟩

theorem test_matrixResults_meets (H : Obligations.MatrixResults) :
    (∃ t, exec (.matrixResult 10) mres = .next t) := by
  · obtain ⟨_, h, _⟩ := H mres 10 (opOf mres 10) 0 2 (match (opOf mres 10).kind with | .mat _ _ k => k | _ => .zero) dd dd (by intro x hx h; have : ∀ x ∈ mres.ops, ¬ x.1 < 10 := (by decide +kernel); exact absurd h (this x hx)) (by intro af bf p a b c d fx l m e; have : (match (opOf mres 10).kind with | .mat _ _ k => k | _ => .zero) = .zero := (by decide +kernel); rw [this] at e; cases e)
    exact ⟨_, h⟩

/-! States and operands for SortInstructions, SortSteps. -/

noncomputable def tl1 (n : Nat) (st : TileSt) : Tile := { gen := 1, count := n, base := 8, reg := true, st := st, rmask := 0, held := 0 }
noncomputable def so (st : SortSt) : State := (S 1 (32 * 256 + 3) base).modSort 0 fun y => { y with st := st, kf := 0 }
noncomputable def sl : State := (so .idle).modTile 0 3 fun _ => tl1 4 .ready
noncomputable def se : State := (so .sorted).modTile 0 3 fun _ => tl1 4 .empty
noncomputable def sq (st : SortSt) : State := ((so st).modCore 0 fun k => { k with sortq := 1 })
noncomputable def sLast : State := (so .running).modSort 0 fun y => { y with phase := 10, step := 31 }
noncomputable def sDone : State := (so .running).modSort 0 fun y => { y with phase := 11 }
noncomputable def sQui : State := (so .running).modCtx 1 fun x => { x with st := .quiescing }

theorem test_sortInstructions_meets_1 (H : Obligations.SortInstructions) :
    (∃ t, exec (.sxld 1 0) sl = .next t) ∧
    (∃ t, exec (.sxrun 1) (so .loaded) = .next t) ∧
    (∃ t, exec (.sxrun 0) (so .stopped) = .next t) ∧
    (∃ t, exec (.sxrun 0) (so .idle) = .next t) ∧
    (∃ t, exec (.sxst 1 0) se = .next t) ∧
    (∃ t, exec (.sxst 1 0) sl = .next t) ∧
    (∃ t, exec (.sxst 1 0) (se.modTile 0 3 fun t => { t with st := .ready }) = .next t) ∧
    (∃ t, exec (.sxst 1 0) (se.modTile 0 3 fun t => { t with st := .filling }) = .next t) ∧
    (∃ t, exec (.sxld 1 0) (sl.modTile 0 3 fun t => { t with st := .empty }) = .next t) ∧
    (∃ t, exec (.sxld 1 0) (sl.modTile 0 3 fun t => { t with count := 1 }) = .next t) ∧
    (∃ t, exec (.sxld 1 0) (sl.modTile 0 3 fun t => { t with st := .draining }) = .next t) ∧
    (∃ t, exec (.sxld 1 0) (sq .sorted) = .next t) := by
  refine ⟨?_, ?_, ?_, ?_, ?_, ?_, ?_, ?_, ?_, ?_, ?_, ?_⟩
  · exact ⟨_, (H 1 0 sl (G sl) (P sl)).1 ad (by unfold sortMine; decide +kernel) dd dd dd dd⟩
  · exact ⟨_, ((H 1 1 (so .loaded) (G (so .loaded)) (P (so .loaded))).2.1 ad (by unfold sortMine; decide +kernel) dd).1 dd⟩
  · exact ⟨_, ((H 1 0 (so .stopped) (G (so .stopped)) (P (so .stopped))).2.1 ad (by unfold sortMine; decide +kernel) dd).2.1 dd dd⟩
  · exact ⟨_, ((H 1 0 (so .idle) (G (so .idle)) (P (so .idle))).2.1 ad (by unfold sortMine; decide +kernel) dd).2.2 oo (Or.inl dd)⟩
  · exact ⟨_, ((H 1 0 se (G se) (P se)).2.2.1 ad (by unfold sortMine; decide +kernel) dd dd dd).1 dd dd dd dd⟩
  · exact ⟨_, ((H 1 0 sl (G sl) (P sl)).2.2.1 ad (by unfold sortMine; decide +kernel) dd dd dd).2.1 oo dd⟩
  · exact ⟨_, ((H 1 0 (se.modTile 0 3 fun t => { t with st := .ready }) (G (se.modTile 0 3 fun t => { t with st := .ready })) (P (se.modTile 0 3 fun t => { t with st := .ready }))).2.2.1 ad (by unfold sortMine; decide +kernel) dd dd dd).2.2.1 oo dd dd (Or.inr (Or.inl dd))⟩
  · exact ⟨_, ((H 1 0 (se.modTile 0 3 fun t => { t with st := .filling }) (G (se.modTile 0 3 fun t => { t with st := .filling })) (P (se.modTile 0 3 fun t => { t with st := .filling }))).2.2.1 ad (by unfold sortMine; decide +kernel) dd dd dd).2.2.2 dd dd⟩
  · exact ⟨_, ((H 1 0 (sl.modTile 0 3 fun t => { t with st := .empty }) (G (sl.modTile 0 3 fun t => { t with st := .empty })) (P (sl.modTile 0 3 fun t => { t with st := .empty }))).2.2.2.1 ad (by unfold sortMine; decide +kernel) dd dd dd).1 oo dd dd dd⟩
  · exact ⟨_, ((H 1 0 (sl.modTile 0 3 fun t => { t with count := 1 }) (G (sl.modTile 0 3 fun t => { t with count := 1 })) (P (sl.modTile 0 3 fun t => { t with count := 1 }))).2.2.2.1 ad (by unfold sortMine; decide +kernel) dd dd dd).2.1 oo dd (Or.inr dd)⟩
  · exact ⟨_, ((H 1 0 (sl.modTile 0 3 fun t => { t with st := .draining }) (G (sl.modTile 0 3 fun t => { t with st := .draining })) (P (sl.modTile 0 3 fun t => { t with st := .draining }))).2.2.2.1 ad (by unfold sortMine; decide +kernel) dd dd dd).2.2 dd⟩
  · exact ⟨_, ((H 1 0 (sq .sorted) (G (sq .sorted)) (P (sq .sorted))).2.2.2.2.1 ad oo _ (Or.inl rfl)).1 (by unfold sortMine; decide +kernel)⟩

theorem test_sortInstructions_meets_2 (H : Obligations.SortInstructions) :
    (∃ t, exec (.sxld 1 0) (S 1 (8 * 256 + 3) (so .sorted)) = .next t) ∧
    (∃ t, exec (.sxld 1 0) (S 1 (32 * 256 + 3) ((so .sorted).modTile 0 3 fun _ => { tl1 4 .ready with base := 300 })) = .next t) ∧
    (∃ t, exec (.sxld 1 0) ((so .running).modTile 0 3 fun _ => tl1 4 .ready) = .next t) ∧
    (∃ t, exec (.sxst 1 0) (sq .sorted) = .next t) ∧
    (∃ t, exec (.sxst 1 0) (S 1 (8 * 256 + 3) (so .sorted)) = .next t) ∧
    (∃ t, exec (.sxst 1 0) (S 1 (32 * 256 + 3) ((so .sorted).modTile 0 3 fun _ => { tl1 4 .ready with base := 300 })) = .next t) ∧
    (∃ t, exec (.sxst 1 0) ((so .running).modTile 0 3 fun _ => tl1 4 .ready) = .next t) ∧
    (∃ t, exec (.sxabort 0) (so .running) = .next t) ∧
    (∃ t, exec (.sxabort 1) (so .sorted) = .next t) ∧
    (∃ t, exec (.sxrun 0) (so .running) = .next t) ∧
    (∃ t, exec (.sxabort 1) (so .running) = .next t) ∧
    (∃ t, exec (.sxrun 0) (sq .loaded) = .next t) := by
  refine ⟨?_, ?_, ?_, ?_, ?_, ?_, ?_, ?_, ?_, ?_, ?_, ?_⟩
  · exact ⟨_, ((H 1 0 (S 1 (8 * 256 + 3) (so .sorted)) (G (S 1 (8 * 256 + 3) (so .sorted))) (P (S 1 (8 * 256 + 3) (so .sorted)))).2.2.2.2.1 ad oo _ (Or.inl rfl)).2.1 (by unfold sortMine; decide +kernel) dd⟩
  · exact ⟨_, ((H 1 0 (S 1 (32 * 256 + 3) ((so .sorted).modTile 0 3 fun _ => { tl1 4 .ready with base := 300 })) (G (S 1 (32 * 256 + 3) ((so .sorted).modTile 0 3 fun _ => { tl1 4 .ready with base := 300 }))) (P (S 1 (32 * 256 + 3) ((so .sorted).modTile 0 3 fun _ => { tl1 4 .ready with base := 300 })))).2.2.2.2.1 ad oo _ (Or.inl rfl)).2.2.1 (by unfold sortMine; decide +kernel) dd dd⟩
  · exact ⟨_, ((H 1 0 ((so .running).modTile 0 3 fun _ => tl1 4 .ready) (G ((so .running).modTile 0 3 fun _ => tl1 4 .ready)) (P ((so .running).modTile 0 3 fun _ => tl1 4 .ready))).2.2.2.2.1 ad oo _ (Or.inl rfl)).2.2.2 (by unfold sortMine; decide +kernel) dd dd dd⟩
  · exact ⟨_, ((H 1 0 (sq .sorted) (G (sq .sorted)) (P (sq .sorted))).2.2.2.2.1 ad oo _ (Or.inr rfl)).1 (by unfold sortMine; decide +kernel)⟩
  · exact ⟨_, ((H 1 0 (S 1 (8 * 256 + 3) (so .sorted)) (G (S 1 (8 * 256 + 3) (so .sorted))) (P (S 1 (8 * 256 + 3) (so .sorted)))).2.2.2.2.1 ad oo _ (Or.inr rfl)).2.1 (by unfold sortMine; decide +kernel) dd⟩
  · exact ⟨_, ((H 1 0 (S 1 (32 * 256 + 3) ((so .sorted).modTile 0 3 fun _ => { tl1 4 .ready with base := 300 })) (G (S 1 (32 * 256 + 3) ((so .sorted).modTile 0 3 fun _ => { tl1 4 .ready with base := 300 }))) (P (S 1 (32 * 256 + 3) ((so .sorted).modTile 0 3 fun _ => { tl1 4 .ready with base := 300 })))).2.2.2.2.1 ad oo _ (Or.inr rfl)).2.2.1 (by unfold sortMine; decide +kernel) dd dd⟩
  · exact ⟨_, ((H 1 0 ((so .running).modTile 0 3 fun _ => tl1 4 .ready) (G ((so .running).modTile 0 3 fun _ => tl1 4 .ready)) (P ((so .running).modTile 0 3 fun _ => tl1 4 .ready))).2.2.2.2.1 ad oo _ (Or.inr rfl)).2.2.2 (by unfold sortMine; decide +kernel) dd dd dd⟩
  · exact ⟨_, ((H 1 0 (so .running) (G (so .running)) (P (so .running))).2.2.2.2.2.1 ad (by unfold sortMine; decide +kernel)).1⟩
  · exact ⟨_, ((H 1 0 (so .sorted) (G (so .sorted)) (P (so .sorted))).2.2.2.2.2.1 ad (by unfold sortMine; decide +kernel)).2.1 dd⟩
  · exact ⟨_, ((H 1 0 (so .running) (G (so .running)) (P (so .running))).2.2.2.2.2.1 ad (by unfold sortMine; decide +kernel)).2.2 dd |>.1⟩
  · exact ⟨_, ((H 1 0 (so .running) (G (so .running)) (P (so .running))).2.2.2.2.2.1 ad (by unfold sortMine; decide +kernel)).2.2 dd |>.2⟩
  · exact ⟨_, ((H 1 0 (sq .loaded) (G (sq .loaded)) (P (sq .loaded))).2.2.2.2.2.2.1 ad oo (by unfold sortMine; decide +kernel)).1⟩

theorem test_sortInstructions_meets_3 (H : Obligations.SortInstructions) :
    (∃ t, exec (.sxabort 0) (sq .loaded) = .next t) ∧
    (∃ t, exec (.sxstat 4) (so .loaded) = .next t) := by
  refine ⟨?_, ?_⟩
  · exact ⟨_, ((H 1 0 (sq .loaded) (G (sq .loaded)) (P (sq .loaded))).2.2.2.2.2.2.1 ad oo (by unfold sortMine; decide +kernel)).2⟩
  · exact ⟨_, (H 4 0 (so .loaded) (G (so .loaded)) (P (so .loaded))).2.2.2.2.2.2.2 ad⟩

theorem test_sortSteps_meets (H : Obligations.SortSteps) :
    (∃ t, exec (.sortRunEnd 0) (so .sorted) = .next t) ∧
    (∃ t, exec (.sortStop 0) ((so .running).modSort 0 fun y => { y with stopReq := true }) = .next t) ∧
    (∃ t, exec (.sortSoftError 0) (so .running) = .next t) ∧
    (∃ t, exec (.sortLoadEnd 0) (so .loading) = .next t) ∧
    ((sortCycle sLast 0 (sLast.core 0).sort).st = .sorted ∧ (sortCycle sLast 0 (sLast.core 0).sort).phase = 11) ∧
    (∃ t, exec (.sortRunEnd 0) sDone = .next t) ∧
    (∃ t, exec (.sortStop 0) sQui = .next t) ∧
    (∃ t, exec (.sortStoreEnd 0) (so .storing) = .next t) ∧
    ((sortStep 0 0 1 31 (List.replicate 1024 { key := 65535, pay := 0, pos := 0 })).length = 1024) := by
  refine ⟨?_, ?_, ?_, ?_, ?_, ?_, ?_, ?_, ?_⟩
  · exact ⟨_, (H.2 0 (so .sorted)).2.2.1 dd⟩
  · exact ⟨_, (H.2 0 ((so .running).modSort 0 fun y => { y with stopReq := true })).2.2.2.2.1 dd dd⟩
  · obtain ⟨_, h, _⟩ := (H.2 0 (so .running)).2.2.2.2.2.2.2 dd
    exact ⟨_, h⟩
  · obtain ⟨_, h, _⟩ := (H.2 0 (so .loading)).1 dd
    exact ⟨_, h⟩
  · exact ⟨((H.2 0 sLast).2.1 dd dd dd dd dd).1, ((H.2 0 sLast).2.1 dd dd dd dd dd).2.1⟩
  · exact ⟨_, (H.2 0 sDone).2.2.2.1 dd dd⟩
  · exact ⟨_, (H.2 0 sQui).2.2.2.2.2.1 dd dd dd⟩
  · obtain ⟨_, h, _⟩ := (H.2 0 (so .storing)).2.2.2.2.2.2.1 dd
    exact ⟨_, h⟩
  · exact (H.1 0 0 1 31 (List.replicate 1024 { key := 65535, pay := 0, pos := 0 }) (List.length_replicate ..) (by intro c hc; rw [List.eq_of_mem_replicate hc]; decide)).1

/-! States and operands for EngineOperationsIssue, EngineOperationsEnd. -/

/-- A copy descriptor: s8 address 0x10200, s9 one row of one sector, s10 tile 3 offset 0, s11 no record; s12 for a fifth register. -/
noncomputable def ed (rec_ x : Nat) : State := S 8 0x10200 (S 9 0x10001 (S 10 3 (S 11 rec_ (S 12 x base))))
noncomputable def e0 (st : TileSt) (rec_ x : Nat) : State := (ed rec_ x).modTile 0 3 fun _ => tl1 4 st
noncomputable def em : State := { (S 8 0x10200 (S 9 0x10001 (S 10 3 (S 11 0 (S 12 1 base))))).modTile 0 3 fun _ => tl1 4 .ready with mem := putBytes [] 0x10200 (bytesLE 8 (1 * 2 ^ 48 + 5 * 2 ^ 32)) }
noncomputable def emx : State := nx (.mcast 4 8 0) (em.modTile 0 5 fun _ => tl1 8 .ready |> fun t => { t with base := 64 })
noncomputable def c0 : State := nx (.acopy 4 8) (e0 .empty 0 0)
noncomputable def c1 : State := nx (.acopyo 4 8 0) (e0 .ready 0x10100 0)
noncomputable def c4 : State := nx (.acoll 4 8 3) (e0 .ready 0x10100 0)
noncomputable def engOf (s : State) (o : Nat) : EngOp := match (opOf s o).kind with | .eng e => e | _ => engineOp 0 0 (fun _ => 0)
noncomputable def c0d : State := nx (.homeAccess 10 [0] false) c0
noncomputable def c1d : State := nx (.tileDrainEnd 10) (nx (.homeAccess 10 [0] false) c1)
noncomputable def c1e : State := nx (.homeAccess 10 [0] false) c1
noncomputable def c0e : State := nx (.tileFillEnd 10) c0d
noncomputable def cD : State := nx (.acopy 4 8) (S 8 (2 ^ 63) (e0 .empty 0 0))
noncomputable def eG : State := (e0 .empty 0 5).modTile 0 5 fun _ => { tl1 4 .ready with base := 20 }
noncomputable def eS : State := (e0 .ready 0 5).modTile 0 5 fun _ => { tl1 4 .ready with base := 20 }
noncomputable def cG : State := nx (.agath 4 8) eG
noncomputable def cS : State := nx (.ascat 4 8 1) eS
noncomputable def cN : State :=
  let s := nx (.homeAccess 10 [0] false) (nx (.acoll 4 8 3) (e0 .ready 0x10100 0x10108))
  { s with ops := s.ops.mapV fun _ o => match o.kind with | .eng e => { o with kind := .eng { e with todo := [engineItems e] } } | _ => o }
noncomputable def eFull : State := { e0 .empty 0 0 with ops := (List.range 64).map fun i => (20 + i, opOf c0 10) }
noncomputable def emz : State := emx.modTile 0 5 fun t => { t with gen := 2 }
noncomputable def emp (down : List Nat) : State :=
  { emx with
    linkDown := down, routing := []
    ops := emx.ops.mapV fun _ o => match o.kind with | .eng e => { o with kind := .eng { e with targets := [{ gen := 1, tile := 5, dev := 3, core := 0 }] } } | _ => o }

theorem test_engineOperationsIssue_meets_1 (H : Obligations.EngineOperationsIssue) :
    (∃ t, exec (.acopy 4 8) (e0 .empty 0 0) = .next t) ∧
    (∃ t, exec (.acopyo 4 8 0) (e0 .ready 0x10100 0) = .next t) ∧
    (∃ t, exec (.agath 4 8) eG = .next t) ∧
    (∃ t, exec (.ascat 4 8 1) eS = .next t) ∧
    (∃ t, exec (.acoll 4 8 3) (e0 .ready 0 0x10100) = .next t) ∧
    (∃ t, exec (.mcast 4 8 0) em = .next t) ∧
    (∃ t, exec (.acopy 4 8) eFull = .next t) ∧
    (∃ t, exec (.acopy 4 8) (e0 .filling 0 0) = .next t) ∧
    (∃ t, exec (.acopy 4 8) (S 9 0 (e0 .empty 0 0)) = .next t) ∧
    (∃ t, exec (.acopy 4 8) (S 8 4 (e0 .empty 0 0)) = .next t) ∧
    (∃ t, exec (.acopy 4 8) ((e0 .empty 0 0).modTile 0 3 fun t => { t with base := 300 }) = .next t) ∧
    (∃ t, exec (.acopy 4 8) ((e0 .empty 0 0).modTile 0 3 fun t => { t with reg := false }) = .next t) := by
  refine ⟨?_, ?_, ?_, ?_, ?_, ?_, ?_, ?_, ?_, ?_, ?_, ?_⟩
  · exact ⟨_, (H (.acopy 4 8) 0 0 4 4 8 (e0 .empty 0 0) (G (e0 .empty 0 0)) (P (e0 .empty 0 0)) rfl ad).1 (by unfold engineShape; decide +kernel) (by unfold engineAligned; decide +kernel) dd dd dd (by unfold engineFits; decide +kernel) |>.1 dd⟩
  · exact ⟨_, (H (.acopyo 4 8 0) 1 0 4 4 8 (e0 .ready 0x10100 0) (G (e0 .ready 0x10100 0)) (P (e0 .ready 0x10100 0)) rfl ad).1 (by unfold engineShape; decide +kernel) (by unfold engineAligned; decide +kernel) dd dd dd (by unfold engineFits; decide +kernel) |>.1 dd⟩
  · exact ⟨_, (H (.agath 4 8) 2 0 5 4 8 eG (G eG) (P eG) rfl ad).1 (by unfold engineShape; decide +kernel) (by unfold engineAligned; decide +kernel) dd dd dd (by unfold engineFits; decide +kernel) |>.1 dd⟩
  · exact ⟨_, (H (.ascat 4 8 1) 3 1 5 4 8 eS (G eS) (P eS) rfl ad).1 (by unfold engineShape; decide +kernel) (by unfold engineAligned; decide +kernel) dd dd dd (by unfold engineFits; decide +kernel) |>.1 dd⟩
  · exact ⟨_, (H (.acoll 4 8 3) 4 3 5 4 8 (e0 .ready 0 0x10100) (G (e0 .ready 0 0x10100)) (P (e0 .ready 0 0x10100)) rfl ad).1 (by unfold engineShape; decide +kernel) (by unfold engineAligned; decide +kernel) dd dd dd (by unfold engineFits; decide +kernel) |>.1 dd⟩
  · exact ⟨_, (H (.mcast 4 8 0) 5 0 5 4 8 em (G em) (P em) rfl ad).1 (by unfold engineShape; decide +kernel) (by unfold engineAligned; decide +kernel) dd dd dd (by unfold engineFits; decide +kernel) |>.2 dd (fun a => a) dd dd dd dd⟩
  · exact ⟨_, (H (.acopy 4 8) 0 0 4 4 8 eFull (G eFull) (P eFull) rfl ad).2.1 (by unfold engineShape; decide +kernel) (by unfold engineAligned; decide +kernel) dd dd⟩
  · exact ⟨_, (H (.acopy 4 8) 0 0 4 4 8 (e0 .filling 0 0) (G (e0 .filling 0 0)) (P (e0 .filling 0 0)) rfl ad).2.2.1 (by unfold engineShape; decide +kernel) (by unfold engineAligned; decide +kernel) dd dd (Or.inl dd)⟩
  · exact ⟨_, (H (.acopy 4 8) 0 0 4 4 8 (S 9 0 (e0 .empty 0 0)) (G (S 9 0 (e0 .empty 0 0))) (P (S 9 0 (e0 .empty 0 0))) rfl ad).2.2.2 oo |>.1 (by unfold engineShape; decide +kernel)⟩
  · exact ⟨_, (H (.acopy 4 8) 0 0 4 4 8 (S 8 4 (e0 .empty 0 0)) (G (S 8 4 (e0 .empty 0 0))) (P (S 8 4 (e0 .empty 0 0))) rfl ad).2.2.2 oo |>.2.1 (by unfold engineShape; decide +kernel) (by unfold engineAligned; decide +kernel)⟩
  · exact ⟨_, (H (.acopy 4 8) 0 0 4 4 8 ((e0 .empty 0 0).modTile 0 3 fun t => { t with base := 300 }) (G ((e0 .empty 0 0).modTile 0 3 fun t => { t with base := 300 })) (P ((e0 .empty 0 0).modTile 0 3 fun t => { t with base := 300 })) rfl ad).2.2.2 oo |>.2.2.1 (by unfold engineShape; decide +kernel) (by unfold engineAligned; decide +kernel) dd⟩
  · exact ⟨_, (H (.acopy 4 8) 0 0 4 4 8 ((e0 .empty 0 0).modTile 0 3 fun t => { t with reg := false }) (G ((e0 .empty 0 0).modTile 0 3 fun t => { t with reg := false })) (P ((e0 .empty 0 0).modTile 0 3 fun t => { t with reg := false })) rfl ad).2.2.2 oo |>.2.2.2.1 (by unfold engineShape; decide +kernel) (by unfold engineAligned; decide +kernel) dd dd dd dd⟩

theorem test_engineOperationsIssue_meets_2 (H : Obligations.EngineOperationsIssue) :
    (∃ t, exec (.acopyo 4 8 0) (e0 .empty 0 0) = .next t) := by
  · exact ⟨_, (H (.acopyo 4 8 0) 1 0 4 4 8 (e0 .empty 0 0) (G (e0 .empty 0 0)) (P (e0 .empty 0 0)) rfl ad).2.2.2 oo |>.2.2.2.2 (by unfold engineShape; decide +kernel) (by unfold engineAligned; decide +kernel) dd dd dd (Or.inl rfl) dd dd⟩

theorem test_engineOperationsEnd_meets_1 (H : Obligations.EngineOperationsEnd) :
    (∃ t, exec (.homeAccess 10 [0] false) c0 = .next t) ∧
    (∃ t, exec (.homeAccess 10 [0] false) c1 = .next t) ∧
    (∃ t, exec (.homeAccess 10 [0] false) c4 = .next t) ∧
    (∃ t, exec (.homeAccess 10 [0] false) cG = .next t) ∧
    (∃ t, exec (.homeAccess 10 [0] false) cS = .next t) ∧
    (∃ t, exec (.homeAccess 10 [0] false) cD = .next t) ∧
    (∃ t, exec (.homeAccess 10 [engineItems (engOf cN 10)] false) cN = .next t) ∧
    (∃ t, exec (.tileFillEnd 10) c0d = .next t) ∧
    (∃ t, exec (.tileDrainEnd 10) c1e = .next t) ∧
    (∃ t, exec (.engineCompletion 10) c0e = .next t) ∧
    (∃ t, exec (.engineCompletion 10) c1d = .next t) ∧
    (∃ t, exec (.mcastDelivery 10 0) emx = .next t) := by
  refine ⟨?_, ?_, ?_, ?_, ?_, ?_, ?_, ?_, ?_, ?_, ?_, ?_⟩
  · obtain ⟨_, h, _⟩ := (((H c0 10 (opOf c0 10) (engOf c0 10) dd dd).1 dd (by refine ⟨dd, dd, ?_⟩; intro h gid slot hh hk; have : h.kind = .grid := (by have := Option.some.inj (hh.symm.trans (show c0.group? (opOf c0 10).gid = some (G c0) from by decide +kernel)); rw [this]; decide +kernel); rw [this] at hk; cases hk) dd dd dd).1 0 (bgXlate c0 0 1 0x10200 Need.read true).1 dd dd (by intro h; revert h; decide +kernel)).1 0x10200 dd dd
    exact ⟨_, h⟩
  · obtain ⟨_, h, _⟩ := (((H c1 10 (opOf c1 10) (engOf c1 10) dd dd).1 dd (by refine ⟨dd, dd, ?_⟩; intro h gid slot hh hk; have : h.kind = .grid := (by have := Option.some.inj (hh.symm.trans (show c1.group? (opOf c1 10).gid = some (G c1) from by decide +kernel)); rw [this]; decide +kernel); rw [this] at hk; cases hk) dd dd dd).1 0 (bgXlate c1 0 1 0x10200 Need.write false).1 dd dd (by intro h; revert h; decide +kernel)).1 0x10200 dd dd
    exact ⟨_, h⟩
  · obtain ⟨_, h, _⟩ := (((H c4 10 (opOf c4 10) (engOf c4 10) dd dd).1 dd (by refine ⟨dd, dd, ?_⟩; intro h gid slot hh hk; have : h.kind = .grid := (by have := Option.some.inj (hh.symm.trans (show c4.group? (opOf c4 10).gid = some (G c4) from by decide +kernel)); rw [this]; decide +kernel); rw [this] at hk; cases hk) dd dd dd).1 0 (bgXlate c4 0 1 0x10200 Need.rw false).1 dd dd (by intro h; revert h; decide +kernel)).1 0x10200 dd dd
    exact ⟨_, h⟩
  · obtain ⟨_, h, _⟩ := (((H cG 10 (opOf cG 10) (engOf cG 10) dd dd).1 dd (by refine ⟨dd, dd, ?_⟩; intro h gid slot hh hk; have : h.kind = .grid := (by have := Option.some.inj (hh.symm.trans (show cG.group? (opOf cG 10).gid = some (G cG) from by decide +kernel)); rw [this]; decide +kernel); rw [this] at hk; cases hk) dd dd dd).1 0 (bgXlate cG 0 1 0x10200 Need.read true).1 dd dd (by intro h; revert h; decide +kernel)).1 0x10200 dd dd
    exact ⟨_, h⟩
  · obtain ⟨_, h, _⟩ := (((H cS 10 (opOf cS 10) (engOf cS 10) dd dd).1 dd (by refine ⟨dd, dd, ?_⟩; intro h gid slot hh hk; have : h.kind = .grid := (by have := Option.some.inj (hh.symm.trans (show cS.group? (opOf cS 10).gid = some (G cS) from by decide +kernel)); rw [this]; decide +kernel); rw [this] at hk; cases hk) dd dd dd).1 0 (bgXlate cS 0 1 0x10200 Need.write false).1 dd dd dd).1 0x10200 dd dd
    exact ⟨_, h⟩
  · obtain ⟨_, h, _⟩ := (((H cD 10 (opOf cD 10) (engOf cD 10) dd dd).1 dd (by refine ⟨dd, dd, ?_⟩; intro h gid slot hh hk; have : h.kind = .grid := (by have := Option.some.inj (hh.symm.trans (show cD.group? (opOf cD 10).gid = some (G cD) from by decide +kernel)); rw [this]; decide +kernel); rw [this] at hk; cases hk) dd dd dd).1 0 (bgXlate cD 0 1 (2 ^ 63) Need.read true).1 dd dd (by intro h; revert h; decide +kernel)).2 dd
    exact ⟨_, h⟩
  · obtain ⟨_, h, _⟩ := ((H cN 10 (opOf cN 10) (engOf cN 10) dd dd).1 dd (by refine ⟨dd, dd, ?_⟩; intro h gid slot hh hk; have : h.kind = .grid := (by have := Option.some.inj (hh.symm.trans (show cN.group? (opOf cN 10).gid = some (G cN) from by decide +kernel)); rw [this]; decide +kernel); rw [this] at hk; cases hk) dd dd dd).2 (engOf cN 10).cnt (bgXlate cN 0 1 (engOf cN 10).cnt Need.rw false).1 dd dd dd dd dd dd
    exact ⟨_, h⟩
  · obtain ⟨_, h, _⟩ := (H c0d 10 (opOf c0d 10) (engOf c0d 10) dd dd).2.1 (Or.inl dd) dd dd
    exact ⟨_, h⟩
  · obtain ⟨_, h, _⟩ := (H c1e 10 (opOf c1e 10) (engOf c1e 10) dd dd).2.2.1 (Or.inl dd) dd dd
    exact ⟨_, h⟩
  · obtain ⟨_, h, _⟩ := (H c0e 10 (opOf c0e 10) (engOf c0e 10) dd dd).2.2.2.1 dd dd |>.1 dd
    exact ⟨_, h⟩
  · obtain ⟨_, h, _⟩ := (H c1d 10 (opOf c1d 10) (engOf c1d 10) dd dd).2.2.2.1 dd dd |>.2 dd dd (by intro x h1 h2; have : ∀ x ∈ c1d.ops, ¬ x.1 < 10 := (by decide +kernel); exact absurd h2 (this x h1)) dd 0x10100 c1d dd
    exact ⟨_, h⟩
  · obtain ⟨_, h, _⟩ := (H emx 10 (opOf emx 10) (engOf emx 10) dd dd).2.2.2.2 0 { gen := 1, tile := 5, dev := 0, core := 0 } dd dd dd dd (by refine ⟨dd, dd, ?_⟩; intro h gid slot hh hk; have : h.kind = .grid := (by have := Option.some.inj (hh.symm.trans (show emx.group? (opOf emx 10).gid = some (G emx) from by decide +kernel)); rw [this]; decide +kernel); rw [this] at hk; cases hk) dd |>.2.1 dd (by unfold landingOk; decide +kernel)
    exact ⟨_, h⟩

theorem test_engineOperationsEnd_meets_2 (H : Obligations.EngineOperationsEnd) :
    (∃ t, exec (.mcastDelivery 10 0) emz = .next t) ∧
    (∃ t, exec (.mcastDelivery 10 0) (emp []) = .next t) ∧
    (∃ t, exec (.mcastDelivery 10 0) (emp [255]) = .next t) := by
  refine ⟨?_, ?_, ?_⟩
  · obtain ⟨_, h, _⟩ := (H emz 10 (opOf emz 10) (engOf emz 10) dd dd).2.2.2.2 0 { gen := 1, tile := 5, dev := 0, core := 0 } dd dd dd dd (by refine ⟨dd, dd, ?_⟩; intro h gid slot hh hk; have : h.kind = .grid := (by have := Option.some.inj (hh.symm.trans (show emz.group? (opOf emz 10).gid = some (G emz) from by decide +kernel)); rw [this]; decide +kernel); rw [this] at hk; cases hk) dd |>.2.2 dd (by unfold landingOk; decide +kernel)
    exact ⟨_, h⟩
  · obtain ⟨_, _, h, _⟩ := (H (emp []) 10 (opOf (emp []) 10) (engOf (emp []) 10) dd dd).2.2.2.2 0 { gen := 1, tile := 5, dev := 3, core := 0 } dd dd dd dd (by refine ⟨dd, dd, ?_⟩; intro h gid slot hh hk; have : h.kind = .grid := (by have := Option.some.inj (hh.symm.trans (show (emp []).group? (opOf (emp []) 10).gid = some (G (emp [])) from by decide +kernel)); rw [this]; decide +kernel); rw [this] at hk; cases hk) dd |>.1 dd |>.2 dd
    exact ⟨_, h⟩
  · exact ⟨_, (H (emp [255]) 10 (opOf (emp [255]) 10) (engOf (emp [255]) 10) dd dd).2.2.2.2 0 { gen := 1, tile := 5, dev := 3, core := 0 } dd dd dd dd (by refine ⟨dd, dd, ?_⟩; intro h gid slot hh hk; have : h.kind = .grid := (by have := Option.some.inj (hh.symm.trans (show (emp [255]).group? (opOf (emp [255]) 10).gid = some (G (emp [255])) from by decide +kernel)); rw [this]; decide +kernel); rw [this] at hk; cases hk) dd |>.1 dd |>.1 dd⟩

/-! States and operands for BundlesOpenAndClose, ReadSets, BundleEvents. -/

/-- A bundle descriptor at 0x10400: one line at 0x10200. -/
noncomputable def bd : State := { (S 2 0x10400 (S 3 0x10408 (S 4 0x50000 (S 6 0x8000000000000000 base)))) with mem := putBytes (putBytes [] 0x10400 (bytesLE 8 0x10200)) 0x10408 (bytesLE 4 1) }
noncomputable def bdX : State := { bd with mem := putBytes (putBytes [] 0x10400 (bytesLE 8 0x10204)) 0x10408 (bytesLE 4 1) }
noncomputable def bo : State := nx (.bopen 1 2) bd
noncomputable def hOf (s : State) : Handle := ((G s).bundle).getD { die := 0, idx := 0, gen := 0, dom := 0 }
noncomputable def bcl : State := nx (.bclose 5 0) bo
/-- A store of the open bundle to its line, performed at home; then the bclose. -/
noncomputable def bst : State := nx (.homeAccess 10 [] false) (nx (.sst 6 4 0) (S 4 0x10200 bo))
noncomputable def bpr : State := nx (.bclose 5 0) bst
noncomputable def bcm : State := nx (.bundleCommit 0 0) bpr
noncomputable def bin : State := nx (.bundleInstall 0 0 0x10200) bcm
/-- Two lanes read 0x10200 and 0x10280 into the read set. -/
noncomputable def rd0 : State := S 2 0 (V 1 0 0x10200 (V 1 1 0x10280 (onP (fun p => { p with mask := 3 }) bd)))
noncomputable def rd1 : State := nx (.bld 1 2) rd0
/-- A read set with a fractured entry: line 0x10200 read before, line 0x10280 after a bundle over both. -/
noncomputable def rfr : State := onG (fun g => { g with readset := [{ va := 0x10200, line := 0x10200, cells := [], stamp := 5, ref := none, lost := false }, { va := 0x10280, line := 0x10280, cells := [], stamp := 4096, ref := some { die := 0, idx := 0, gen := 1, dom := 0 }, lost := false }] }) ((S 2 3 bd).modDie 0 fun x => { x with dirs := x.dirs.put 0 { st := .committed, gen := 1, dom := 0, ctx := 1, gid := 1, ranges := [(0x10200, 2)], lines := [0x10200, 0x10280], wait := [0x10200], stamp := 4096, op := 0 } })
noncomputable def rfrE (a n : Nat) (r : Option Handle) : RSEntry := { va := a, line := a, cells := [], stamp := n, ref := r, lost := false }
noncomputable def bfe : State := nx (.bfetch 5 2) rfr
/-- The line already carries a preparing version of another open bundle. -/
noncomputable def bpc : State := (bpr.modDie 0 fun x => { x with dirs := (x.dirs.adjust 0 fun d => d).put 1 { st := .open_, gen := 1, dom := 0, ctx := 1, gid := 2, ranges := [], lines := [], wait := [], stamp := 0, op := 0 } }) |> fun s => { s with ops := s.ops.put 12 { opOf (nx (.sst 6 4 0) (S 4 0x10200 bo)) 10 with gid := 2, kind := .mem { memOf (nx (.sst 6 4 0) (S 4 0x10200 bo)) 10 with bundle := some { die := 0, idx := 1, gen := 1, dom := 0 } } } }
noncomputable def bdR : State := bd.modCore 0 fun k => { k with tlb := k.tlb.map fun e => { e with r := false } }
noncomputable def bdW : State := bd.modCore 0 fun k => { k with tlb := k.tlb.map fun e => { e with w := false } }
noncomputable def bdC : State := { bd with mem := putBytes (putBytes [] 0x10400 (bytesLE 8 (2 ^ 63))) 0x10408 (bytesLE 4 1) }
noncomputable def dF : Dir := { st := .open_, gen := 1, dom := 0, ctx := 1, gid := 1, ranges := [], lines := [], wait := [], stamp := 0, op := 0 }
noncomputable def bdF : State := bd.modDie 0 fun x => { x with dirs := (List.range' 0 1024).map fun i => (i, dF) }
theorem findRange (d : Dir) (n : Nat) : ∀ b i, b ≤ i → i < b + n → SMap.find? ((List.range' b n).map fun j => (j, d)) i = some d := by
  induction n with
  | zero => intro b i h k; omega
  | succ n ih =>
    intro b i h k
    simp only [List.range'_succ, List.map_cons, SMap.find?]
    split
    · rfl
    · exact ih (b + 1) i (by omega) (by omega)
theorem bdFull : ∀ i < 1024, ¬dirFree bdF (dieOf (G bdF).place.core) i := by
  intro i hi h
  rw [show dieOf (G bdF).place.core = 0 from by decide +kernel] at h
  have e := h dF (findRange dF 1024 0 i (by omega) (by omega))
  exact absurd ((show dirView bdF 0 i dF = .open_ from rfl).symm.trans e) (by decide)
noncomputable def rdW : State := nx (.sst 6 4 0) (S 4 0x10200 rd0)
noncomputable def rd7 : State := S 2 0 (V 1 0 0x10200 (V 1 1 0x10280 (onP (fun p => { p with mask := 3 }) bo)))
noncomputable def rd6 : State := onG (fun g => { g with readset := List.replicate 15 { va := 0x10300, line := 0x10300, cells := [], stamp := 5, ref := none, lost := false } }) rd0
noncomputable def bfeR : State := { bfe with lines := [(0x10200, { stamp := 8192, ref := none, prev := none, vlost := none, prep := none })] }
noncomputable def bfeI : State := { bfe with lines := [(0x10200, { stamp := 0, ref := none, prev := none, vlost := none, prep := some ([(0x10200, 7)], { die := 0, idx := 0, gen := 1, dom := 0 }) })] }

theorem test_bundlesOpenAndClose_meets_1 (H : Obligations.BundlesOpenAndClose) :
    (∃ t, exec (.bopen 1 2) bd = .next t) ∧
    (∃ t, exec (.bopen 1 2) bo = .next t) ∧
    (∃ t, exec (.bopen 1 6) bd = .next t) ∧
    (∃ t, exec (.bopen 1 3) bd = .next t) ∧
    (∃ t, exec (.bopen 1 2) bdX = .next t) ∧
    (∃ t, exec (.bopen 1 2) bdR = .next t) ∧
    (∃ t, exec (.bopen 1 2) bdC = .next t) ∧
    (∃ t, exec (.bopen 1 2) bdW = .next t) ∧
    (∃ t, exec (.bopen 1 2) bdF = .next t) ∧
    (∃ t, exec (.bopen 1 2) (nx (.sst 6 2 0) bd) = .next t) ∧
    (∃ t, exec (.bclose 5 0) bd = .next t) ∧
    (∃ t, exec (.bclose 5 0) (bo.modDie 0 fun x => { x with dirs := [] }) = .next t) := by
  refine ⟨?_, ?_, ?_, ?_, ?_, ?_, ?_, ?_, ?_, ?_, ?_, ?_⟩
  · exact ⟨_, (H 1 2 bd (G bd) (P bd)).1 ad dd |>.1 0x10400 0 (fun a => a) dd dd dd dd dd (by unfold rangesOk; decide +kernel) dd dd (by intro d h; have : ((bd.die 0).dirs.find? 0) = none := dd; exact absurd (this.symm.trans h) (by simp)) (by intro j h; omega)⟩
  · exact ⟨_, (H 1 2 bo (G bo) (P bo)).1 ad dd |>.2.1 oo |>.1 dd⟩
  · exact ⟨_, (H 1 6 bd (G bd) (P bd)).1 ad dd |>.2.1 oo |>.2.1 dd dd⟩
  · exact ⟨_, (H 1 3 bd (G bd) (P bd)).1 ad dd |>.2.1 oo |>.2.2.1 dd dd dd⟩
  · exact ⟨_, (H 1 2 bdX (G bdX) (P bdX)).1 ad dd |>.2.1 oo |>.2.2.2.1 0x10400 dd dd dd dd dd (by unfold rangesOk; decide +kernel)⟩
  · exact ⟨_, (H 1 2 bdR (G bdR) (P bdR)).1 ad dd |>.2.1 oo |>.2.2.2.2.1 dd dd dd dd⟩
  · exact ⟨_, (H 1 2 bdC (G bdC) (P bdC)).1 ad dd |>.2.1 oo |>.2.2.2.2.2 0x10400 [] (2 ^ 63) [] dd dd dd dd dd (by unfold rangesOk; decide +kernel) |>.1 dd (by intro y h; cases h) dd⟩
  · exact ⟨_, (H 1 2 bdW (G bdW) (P bdW)).1 ad dd |>.2.1 oo |>.2.2.2.2.2 0x10400 [] 0x10000 [] dd dd dd dd dd (by unfold rangesOk; decide +kernel) |>.2 dd dd dd (by intro y h; cases h) dd⟩
  · exact ⟨_, (H 1 2 bdF (G bdF) (P bdF)).1 ad dd |>.2.2.1 0x10400 dd dd dd dd dd (by unfold rangesOk; decide +kernel) (fun l h => ⟨(show ∀ l ∈ rangeLines bdF 0x10400, badVa l = false by decide +kernel) l h, 0x10000, (show ∀ l ∈ rangeLines bdF 0x10400, trOne bdF (G bdF).place.core (G bdF).ctx (l / 4096 * 4096) Need.write false = .key 0x10000 by decide +kernel) l h⟩) bdFull⟩
  · exact ⟨_, (H 1 2 (nx (.sst 6 2 0) bd) (G (nx (.sst 6 2 0) bd)) (P (nx (.sst 6 2 0) bd))).1 ad dd |>.2.2.2 0x10400 dd dd dd dd dd⟩
  · exact ⟨_, (H 5 0 bd (G bd) (P bd)).2 ad |>.1 dd oo 0⟩
  · exact ⟨_, (H 5 0 (bo.modDie 0 fun x => { x with dirs := [] }) (G bo) (P bo)).2 ad |>.2.1 (hOf bo) 0 dd dd⟩

theorem test_bundlesOpenAndClose_meets_2 (H : Obligations.BundlesOpenAndClose) :
    (∃ t, exec (.bclose 5 0) bo = .next t) ∧
    (∃ t, exec (.bclose 5 1) bst = .next t) := by
  refine ⟨?_, ?_⟩
  · exact ⟨_, (H 5 0 bo (G bo) (P bo)).2 ad |>.2.2 (hOf bo) dd dd |>.1⟩
  · obtain ⟨_, h, _⟩ := (H 5 0 bst (G bst) (P bst)).2 ad |>.2.2 (hOf bst) dd dd |>.2
    exact ⟨_, h⟩

theorem test_readSets_meets_1 (H : Obligations.ReadSets) :
    (∃ t, exec (.bld 1 2) bfe = .next t) ∧
    (∃ t, exec (.bchk 1 2) bfe = .next t) ∧
    (∃ t, exec (.bfetch 1 2) bfe = .next t) ∧
    (∃ t, exec (.bstat 1 2 2) bfe = .next t) ∧
    (∃ t, exec (.bld 1 2) (V 1 0 (2 ^ 63) rd0) = .next t) ∧
    (∃ t, exec (.bld 1 2) (V 1 0 0x10204 rd0) = .next t) ∧
    (∃ t, exec (.bld 1 2) rdW = .next t) ∧
    (∃ t, exec (.bld 1 2) rd7 = .next t) ∧
    (∃ t, exec (.bld 1 2) rd6 = .next t) ∧
    (∃ t, exec (.bld 1 2) (onP (fun p => { p with mask := 0 }) rd0) = .next t) ∧
    (∃ t, exec (.bld 1 2) rd0 = .next t) ∧
    (∃ t, exec (.bchk 5 1) rfr = .next t) := by
  refine ⟨?_, ?_, ?_, ?_, ?_, ?_, ?_, ?_, ?_, ?_, ?_, ?_⟩
  · exact ⟨_, (H 1 2 2 bfe (G bfe) (P bfe)).1 ⟨(10, opOf bfe 10), dd, dd, 5, (match (opOf bfe 10).kind with | .bfetch _ t _ => t | _ => []), 0, dd⟩ |>.1 ad⟩
  · exact ⟨_, (H 1 2 2 bfe (G bfe) (P bfe)).1 ⟨(10, opOf bfe 10), dd, dd, 5, (match (opOf bfe 10).kind with | .bfetch _ t _ => t | _ => []), 0, dd⟩ |>.2.1 ad⟩
  · exact ⟨_, (H 1 2 2 bfe (G bfe) (P bfe)).1 ⟨(10, opOf bfe 10), dd, dd, 5, (match (opOf bfe 10).kind with | .bfetch _ t _ => t | _ => []), 0, dd⟩ |>.2.2.1 ad⟩
  · exact ⟨_, (H 1 2 2 bfe (G bfe) (P bfe)).1 ⟨(10, opOf bfe 10), dd, dd, 5, (match (opOf bfe 10).kind with | .bfetch _ t _ => t | _ => []), 0, dd⟩ |>.2.2.2 rfl ad⟩
  · exact ⟨_, (H 1 2 0 (V 1 0 (2 ^ 63) rd0) (G (V 1 0 (2 ^ 63) rd0)) (P (V 1 0 (2 ^ 63) rd0))).2.1 (by rintro ⟨o, h1, h2, r, t, l, h3⟩; rw [show (V 1 0 (2 ^ 63) rd0).ops = [] from by decide +kernel] at h1; cases h1) (fun a => a) ad |>.1 [] 0 [1] dd (by intro y h; cases h) oo |>.1 dd⟩
  · exact ⟨_, (H 1 2 0 (V 1 0 0x10204 rd0) (G (V 1 0 0x10204 rd0)) (P (V 1 0 0x10204 rd0))).2.1 (by rintro ⟨o, h1, h2, r, t, l, h3⟩; rw [show (V 1 0 0x10204 rd0).ops = [] from by decide +kernel] at h1; cases h1) (fun a => a) ad |>.1 [] 0 [1] dd (by intro y h; cases h) oo |>.2 dd dd⟩
  · exact ⟨_, (H 1 2 0 rdW (G rdW) (P rdW)).2.1 (by rintro ⟨o, h1, h2, r, t, l, h3⟩; have : ∀ o ∈ rdW.ops, (match o.2.kind with | .bfetch _ _ _ => true | _ => false) = false := (by decide +kernel); have e := this o h1; rw [h3] at e; cases e) (fun a => a) ad |>.2 dd dd |>.1 dd⟩
  · exact ⟨_, (H 1 2 0 rd7 (G rd7) (P rd7)).2.1 (by rintro ⟨o, h1, h2, r, t, l, h3⟩; rw [show rd7.ops = [] from by decide +kernel] at h1; cases h1) (fun a => a) ad |>.2 dd dd |>.2 dd |>.1 ⟨0, dd, Or.inl dd⟩ oo⟩
  · exact ⟨_, (H 1 2 0 rd6 (G rd6) (P rd6)).2.1 (by rintro ⟨o, h1, h2, r, t, l, h3⟩; rw [show rd6.ops = [] from by decide +kernel] at h1; cases h1) (fun a => a) ad |>.2 dd dd |>.2 dd |>.2.1 (by intro l h; rcases (show l = 0 ∨ l = 1 by have : ∀ l ∈ actLanes rd6 (G rd6) (P rd6), l = 0 ∨ l = 1 := (by decide +kernel); exact this l h) with e | e <;> subst e <;> (rintro (h1 | ⟨h1, _⟩) <;> revert h1 <;> decide +kernel)) dd oo⟩
  · exact ⟨_, (H 1 2 0 (onP (fun p => { p with mask := 0 }) rd0) (G (onP (fun p => { p with mask := 0 }) rd0)) (P (onP (fun p => { p with mask := 0 }) rd0))).2.1 (by rintro ⟨o, h1, h2, r, t, l, h3⟩; rw [show (onP (fun p => { p with mask := 0 }) rd0).ops = [] from by decide +kernel] at h1; cases h1) (fun a => a) ad |>.2 dd dd |>.2 dd |>.2.2.1 dd dd⟩
  · obtain ⟨_, _, _, _, h, _⟩ := (H 1 2 0 rd0 (G rd0) (P rd0)).2.1 (by rintro ⟨o, h1, h2, r, t, l, h3⟩; rw [show rd0.ops = [] from by decide +kernel] at h1; cases h1) (fun a => a) ad |>.2 dd dd |>.2 dd |>.2.2.2 dd (by intro l h; rcases (show l = 0 ∨ l = 1 by have : ∀ l ∈ actLanes rd0 (G rd0) (P rd0), l = 0 ∨ l = 1 := (by decide +kernel); exact this l h) with e | e <;> subst e <;> exact ⟨by rintro (h1 | ⟨h1, _⟩) <;> revert h1 <;> decide +kernel, by decide +kernel⟩) dd dd
    exact ⟨_, h⟩
  · exact ⟨_, (H 5 0 0 rfr (G rfr) (P rfr)).2.2.1 (by rintro ⟨o, h1, h2, r, t, l, h3⟩; rw [show rfr.ops = [] from by decide +kernel] at h1; cases h1) ad |>.1⟩

theorem test_readSets_meets_2 (H : Obligations.ReadSets) :
    (∃ t, exec (.bchk 5 0) rfr = .next t) ∧
    (∃ t, exec (.bfetch 5 2) (S 2 0 rfr) = .next t) ∧
    (∃ t, exec (.bfetch 5 2) rfr = .next t) ∧
    (∃ t, exec (.bstat 5 1 0) bo = .next t) ∧
    (∃ t, exec (.bstat 5 1 0) bd = .next t) ∧
    (∃ t, exec (.bstat 5 1 1) bcm = .next t) ∧
    (∃ t, exec (.bstat 5 1 2) rfr = .next t) ∧
    (∃ t, exec (.bstat 5 1 3) rfr = .next t) := by
  refine ⟨?_, ?_, ?_, ?_, ?_, ?_, ?_, ?_⟩
  · obtain ⟨_, h, _⟩ := (H 5 0 0 rfr (G rfr) (P rfr)).2.2.1 (by rintro ⟨o, h1, h2, r, t, l, h3⟩; rw [show rfr.ops = [] from by decide +kernel] at h1; cases h1) ad |>.2 dd
    exact ⟨_, h⟩
  · obtain ⟨_, _, h1, _⟩ := (H 5 2 0 (S 2 0 rfr) (G (S 2 0 rfr)) (P (S 2 0 rfr))).2.2.2.1 (by rintro ⟨o, h1, h2, r, t, l, h3⟩; rw [show (S 2 0 rfr).ops = [] from by decide +kernel] at h1; cases h1) ad
    refine ⟨_, h1 ?_⟩
    intro j e h
    have h3 := h.2.1
    rw [show (rS (G (S 2 0 rfr)) 2).toNat = 0 from by decide +kernel, Nat.zero_div] at h3
    cases h3
  · obtain ⟨_, _, _, h2⟩ := (H 5 2 0 rfr (G rfr) (P rfr)).2.2.2.1 (by rintro ⟨o, h1, h2, r, t, l, h3⟩; rw [show rfr.ops = [] from by decide +kernel] at h1; cases h1) ad
    obtain ⟨_, h, _⟩ := h2 ⟨0, rfrE 0x10200 5 none, by decide +kernel, by decide +kernel, rfrE 0x10280 4096 (some ⟨0, 0, 1, 0⟩), by decide +kernel, ⟨0, 0, 1, 0⟩, [0x10200, 0x10280], by decide +kernel, by decide +kernel, by decide +kernel, by decide +kernel⟩
    exact ⟨_, h⟩
  · exact ⟨_, ((H 5 1 0 bo (G bo) (P bo)).2.2.2.2 ad).1 rfl |>.1 ((((bo.die 0).dirs.find? 0)).getD { st := .open_, gen := 1, dom := 0, ctx := 1, gid := 1, ranges := [], lines := [], wait := [], stamp := 0, op := 0 }) dd dd⟩
  · exact ⟨_, ((H 5 1 0 bd (G bd) (P bd)).2.2.2.2 ad).1 rfl |>.2 (by intro d h; have : ((bd.die 0).dirs.find? 0) = none := dd; exact absurd (this.symm.trans h) (by simp))⟩
  · exact ⟨_, ((H 5 1 1 bcm (G bcm) (P bcm)).2.2.2.2 ad).2.1 rfl ((((bcm.die 0).dirs.find? 0)).getD { st := .open_, gen := 1, dom := 0, ctx := 1, gid := 1, ranges := [], lines := [], wait := [], stamp := 0, op := 0 }) dd dd⟩
  · exact ⟨_, ((H 5 1 2 rfr (G rfr) (P rfr)).2.2.2.2 ad).2.2.1 rfl (by rintro ⟨o, h1, h2, r, t, l, h3⟩; rw [show rfr.ops = [] from by decide +kernel] at h1; cases h1)⟩
  · exact ⟨_, ((H 5 1 3 rfr (G rfr) (P rfr)).2.2.2.2 ad).2.2.2 rfl⟩

theorem test_bundleEvents_meets (H : Obligations.BundleEvents) :
    (∃ t, exec (.bundleCommit 0 0) bpr = .next t) ∧
    (∃ t, exec (.bundleCommit 0 0) bpc = .next t) ∧
    (∃ t, exec (.bundleInstall 0 0 0x10200) bcm = .next t) ∧
    (∃ t, exec (.bundleSoftError 0 0) bst = .next t) ∧
    (∃ t, exec (.bundleSoftError 0 0) bcm = .next t) ∧
    (∃ t, exec (.installResend 0 0 0x10200) bcm = .next t) ∧
    (∃ t, exec (.versionFetch 10 0) bfe = .next t) ∧
    (∃ t, exec (.versionFetch 10 0) bfeR = .next t) ∧
    (∃ t, exec (.versionFetch 10 0) bfeI = .next t) := by
  refine ⟨?_, ?_, ?_, ?_, ?_, ?_, ?_, ?_, ?_⟩
  · obtain ⟨_, h, _⟩ := (H 0 0 bpr).1 ((((bpr.die 0).dirs.find? 0)).getD { st := .open_, gen := 1, dom := 0, ctx := 1, gid := 1, ranges := [], lines := [], wait := [], stamp := 0, op := 0 }) (opOf bpr 11) 5 dd |>.1 dd dd dd dd dd dd |>.1 dd dd
    exact ⟨_, h⟩
  · obtain ⟨_, h, _⟩ := (H 0 0 bpc).1 ((((bpc.die 0).dirs.find? 0)).getD { st := .open_, gen := 1, dom := 0, ctx := 1, gid := 1, ranges := [], lines := [], wait := [], stamp := 0, op := 0 }) (opOf bpc 11) 5 dd |>.1 dd dd dd dd dd dd |>.2 0x10200 [] dd dd
    exact ⟨_, h⟩
  · obtain ⟨_, h, _⟩ := (H 0 0 bcm).1 ((((bcm.die 0).dirs.find? 0)).getD { st := .open_, gen := 1, dom := 0, ctx := 1, gid := 1, ranges := [], lines := [], wait := [], stamp := 0, op := 0 }) (opOf bcm 11) 5 dd |>.2.1 0x10200 (((bcm.line 0x10200).prep.map Prod.fst).getD []) dd dd dd dd
    exact ⟨_, h⟩
  · obtain ⟨_, h, _⟩ := (H 0 0 bst).1 ((((bst.die 0).dirs.find? 0)).getD { st := .open_, gen := 1, dom := 0, ctx := 1, gid := 1, ranges := [], lines := [], wait := [], stamp := 0, op := 0 }) (opOf bst 11) 5 dd |>.2.2.1 dd ⟨(0x10200, bst.line 0x10200), dd, dd⟩
    exact ⟨_, h⟩
  · obtain ⟨_, h, _⟩ := (H 0 0 bcm).1 ((((bcm.die 0).dirs.find? 0)).getD { st := .open_, gen := 1, dom := 0, ctx := 1, gid := 1, ranges := [], lines := [], wait := [], stamp := 0, op := 0 }) (opOf bcm 11) 5 dd |>.2.2.2 0x10200 (((bcm.line 0x10200).prep.map Prod.fst).getD []) dd dd dd
    exact ⟨_, h⟩
  · exact ⟨_, (H 0 0 bcm).2.1 0x10200⟩
  · obtain ⟨_, _, ⟨h, _⟩, _⟩ := (H 0 0 bfe).2.2 10 (opOf bfe 10) 5 (match (opOf bfe 10).kind with | .bfetch _ t _ => t | _ => []) 0 0 4096 (G bfe) (((G bfe).readset[0]?).getD ⟨0,0,[],0,none,false⟩) (bgXlate bfe 0 1 0x10200 Need.read false).1 (.key 0x10200) ((bgXlate bfe 0 1 0x10200 Need.read false).1) dd dd dd dd dd dd dd (by refine ⟨dd, dd, ?_⟩; intro h gid slot hh hk; have : h.kind = .grid := (by have := Option.some.inj (hh.symm.trans (show bfe.group? (opOf bfe 10).gid = some (G bfe) from by decide +kernel)); rw [this]; decide +kernel); rw [this] at hk; cases hk) dd dd (by rintro ⟨c, h, d, e, _⟩; have : ((bgXlate bfe 0 1 0x10200 Need.read false).1.line 0x10200).prep = none := (by decide +kernel); exact absurd (this.symm.trans e) (by simp)) (fun _ => rfl) |>.1 (Or.inr ⟨0x10200, rfl, Or.inr dd⟩)
    exact ⟨_, h⟩
  · obtain ⟨_, _, ⟨h, _⟩, _⟩ := (H 0 0 bfeR).2.2 10 (opOf bfeR 10) 5 (match (opOf bfeR 10).kind with | .bfetch _ t _ => t | _ => []) 0 0 4096 (G bfeR) (((G bfeR).readset[0]?).getD ⟨0,0,[],0,none,false⟩) (bgXlate bfeR 0 1 0x10200 Need.read false).1 (.key 0x10200) ((bgXlate bfeR 0 1 0x10200 Need.read false).1) dd dd dd dd dd dd dd (by refine ⟨dd, dd, ?_⟩; intro h gid slot hh hk; have : h.kind = .grid := (by have := Option.some.inj (hh.symm.trans (show bfeR.group? (opOf bfeR 10).gid = some (G bfeR) from by decide +kernel)); rw [this]; decide +kernel); rw [this] at hk; cases hk) dd dd (by rintro ⟨c, h, d, e, _⟩; have : ((bgXlate bfeR 0 1 0x10200 Need.read false).1.line 0x10200).prep = none := (by decide +kernel); exact absurd (this.symm.trans e) (by simp)) (fun _ => rfl) |>.2 rfl dd (lineCells (bgXlate bfeR 0 1 0x10200 Need.read false).1 0x10200, 8192, none) dd dd
    exact ⟨_, h⟩
  · obtain ⟨_, _, ⟨h, _⟩, _⟩ := (H 0 0 bfeI).2.2 10 (opOf bfeI 10) 5 (match (opOf bfeI 10).kind with | .bfetch _ t _ => t | _ => []) 0 0 4096 (G bfeI) (((G bfeI).readset[0]?).getD ⟨0,0,[],0,none,false⟩) (bgXlate bfeI 0 1 0x10200 Need.read false).1 (.key 0x10200) (installLine (bgXlate bfeI 0 1 0x10200 Need.read false).1 0x10200) dd dd dd dd dd dd dd (by refine ⟨dd, dd, ?_⟩; intro h gid slot hh hk; have : h.kind = .grid := (by have := Option.some.inj (hh.symm.trans (show bfeI.group? (opOf bfeI 10).gid = some (G bfeI) from by decide +kernel)); rw [this]; decide +kernel); rw [this] at hk; cases hk) dd dd (fun _ => rfl) (fun h => absurd ⟨[(0x10200, 7)], { die := 0, idx := 0, gen := 1, dom := 0 }, ((((bfeI.die 0).dirs.find? 0)).getD { st := .open_, gen := 1, dom := 0, ctx := 1, gid := 1, ranges := [], lines := [], wait := [], stamp := 0, op := 0 }), dd, dd, dd, dd, dd⟩ h) |>.2 rfl dd (lineCells (installLine (bgXlate bfeI 0 1 0x10200 Need.read false).1 0x10200) 0x10200, 4096, some { die := 0, idx := 0, gen := 1, dom := 0 }) dd dd
    exact ⟨_, h⟩

/-! States and operands for ForkPushesFrame, JoinResults, FrameEndsAndStatus, HeartbeatAndFrameEvents. -/

noncomputable def fr (st : FrameSt) (oc : Bool) (m : Nat) : Frame := { addr := 0x10400, st := st, target := 0x10080, mask := BitVec.ofNat 32 m, fpmode := 0, nv := 1, ns := 1, sa := 4, vb := 5, ret := 0x10044, smask := 3, sargs := [9], vargs := [(0, 7), (1, 8)], onchip := oc, failed := false }
/-- A group with a frame area of two records; s2 a target, s3 an argument, s8 the token. -/
noncomputable def fa : State := onG (fun g => { g with frbase := 0x10400, nrec := 2 }) (S 2 0x10080 (S 3 55 (S 8 0x10400 (S 6 0x8000000000000000 (S 7 0x10402 (V 5 0 1 (V 5 1 2 (onP (fun p => { p with mask := 3 }) base))))))))
noncomputable def fa1 : State := onP (fun p => { p with reserve := [0x10400] }) fa
noncomputable def fj (st : FrameSt) (oc : Bool) (m : Nat) : State := onP (fun p => { p with frames := [fr st oc m] }) fa
noncomputable def fd : State := { fj .done true 1 with mem := putBytes [] 0x10400 (bytesLE 8 (4 * 2 ^ 25 + 5 * 2 ^ 18 + 1 * 2 ^ 15 + 1 * 2 ^ 11 + 5) ++ List.replicate 8 0 ++ bytesLE 8 1 ++ List.replicate 8 0 ++ bytesLE 8 3) }
noncomputable def sp0 : Spawn := { addr := 0x10400, pgid := 2, pslot := 0, target := 0x10080, mask := 3, fpmode := 0, nv := 1, ns := 1, sa := 1, vb := 5, sargs := [9], vargs := [] }
/-- Group 1 runs a promoted frame of group 2's path 0. -/
noncomputable def fs0 : State := let s := onG (fun g => { g with kind := .spawned sp0, fpflags := 4 }) fa
  { s with groups := s.groups.put 2 { (G base) with frbase := 0x10400, nrec := 2, paths := [(0, { (P base) with frames := [fr .running true 3] })] } }
noncomputable def hb0 (m : Nat) : State := fa.modCore 0 fun k => { k with hb := k.hb.put 1 { (fa.hb 0 1) with period := 100, mode := m, count := 7, due := true } }
noncomputable def fp : State := onP (fun p => { p with promo := true, frames := [fr .latent true 1] }) (hb0 2)
noncomputable def fq : State := onP (fun p => { p with frames := [fr .promoting true 1] }) (hb0 2)
noncomputable def f3 (st : FrameSt) : State := onP (fun p => { p with frames := [{ fr .latent true 1 with addr := 1 }, { fr .latent true 1 with addr := 2 }, fr st true 1] }) fa
noncomputable def rq4 : Req := { kind := .spawn sp0, ctx := 1, core := 0, die := 0, since := 5, queued := true, headAt := some 7, gids := [], placed := false, coop := false }
noncomputable def fw : State := { (hb0 2) with cycles := 1000, groups := ((hb0 2).groups.put 3 { G base with place := { (G base).place with core := 5 }, team := 9 }).put 2 { G base with place := (G base).place }, teams := [(9, { ctx := 1, kernel := 0, cohort := 7, no := 0, core := 5, die := 0, total := 1, retired := 0, bars := [], regroups := [] })], cohorts := [(7, { kernel := (G base).kernel, no := (G base).cohort, total := 1, retired := 0, bars := [] })], reqs := [(4, rq4)] }

theorem test_forkPushesFrame_meets (H : Obligations.ForkPushesFrame) :
    (∃ t, exec (.fork 1 2 5 1) (onP (fun p => { p with mask := 0 }) fa) = .next t) ∧
    (∃ t, exec (.fork 1 2 5 1) fa1 = .next t) ∧
    (∃ t, exec (.fork 1 2 5 1) (nx (.sst 6 8 0) fa1) = .next t) ∧
    (∃ t, exec (.fork 1 2 5 1) fa = .next t) ∧
    (∃ t, exec (.fork 1 6 5 1) fa = .next t) ∧
    (∃ t, exec (.fork 1 7 5 1) fa = .next t) ∧
    (∃ t, exec (.fork 1 2 5 1) (onG (fun g => { g with nrec := 0 }) fa) = .next t) := by
  refine ⟨?_, ?_, ?_, ?_, ?_, ?_, ?_⟩
  · exact ⟨_, (H 1 2 5 1 (onP (fun p => { p with mask := 0 }) fa) (G (onP (fun p => { p with mask := 0 }) fa)) (P (onP (fun p => { p with mask := 0 }) fa)) ad).1 dd⟩
  · obtain ⟨_, h, _⟩ := ((H 1 2 5 1 fa1 (G fa1) (P fa1) ad).2.1 0x10400 [] dd ⟨dd, dd⟩ dd dd).2 (by unfold OthersFirst; decide +kernel)
    exact ⟨_, h⟩
  · exact ⟨_, ((H 1 2 5 1 (nx (.sst 6 8 0) fa1) (G (nx (.sst 6 8 0) fa1)) (P (nx (.sst 6 8 0) fa1)) ad).2.1 0x10400 [] dd ⟨dd, dd⟩ dd dd).1 (by unfold OthersFirst; decide +kernel)⟩
  · exact ⟨_, (H 1 2 5 1 fa (G fa) (P fa) ad).2.2.1 (bgXlate fa 0 1 0x10400 Need.rw false).1 0x10400 dd ⟨dd, dd⟩ dd dd dd dd dd⟩
  · exact ⟨_, ((H 1 6 5 1 fa (G fa) (P fa) ad).2.2.2 oo dd).1 dd⟩
  · exact ⟨_, ((H 1 7 5 1 fa (G fa) (P fa) ad).2.2.2 oo dd).2.1 dd dd⟩
  · exact ⟨_, ((H 1 2 5 1 (onG (fun g => { g with nrec := 0 }) fa) (G (onG (fun g => { g with nrec := 0 }) fa)) (P fa) ad).2.2.2 oo dd).2.2 ⟨dd, dd⟩ dd dd⟩

theorem test_joinResults_meets (H : Obligations.JoinResults) :
    (∃ t, exec (.join 8) (fj .latent true 1) = .next t) ∧
    (∃ t, exec (.join 8) (fj .running true 1) = .next t) ∧
    (∃ t, exec (.join 8) fd = .next t) ∧
    (∃ t, exec (.join 8) (fj .latent true 5) = .next t) ∧
    (∃ t, exec (.join 2) (fj .latent true 5) = .next t) ∧
    (∃ t, exec (.join 2) fa = .next t) := by
  refine ⟨?_, ?_, ?_, ?_, ?_, ?_⟩
  · obtain ⟨_, _, h, _⟩ := ((H 8 (fj .latent true 1) (G (fj .latent true 1)) (P (fj .latent true 1)) ad).1 (fr .latent true 1) [] dd dd).1 dd dd dd
    exact ⟨_, h⟩
  · exact ⟨_, ((H 8 (fj .running true 1) (G (fj .running true 1)) (P (fj .running true 1)) ad).1 (fr .running true 1) [] dd dd).2.1 (by decide +kernel) dd dd⟩
  · obtain ⟨_, _, h, _⟩ := ((H 8 fd (G fd) (P fd) ad).1 (fr .done true 1) [] dd dd).2.2.1 0x10400 dd dd dd (by unfold recordAt; decide +kernel) (by unfold recordAt; decide +kernel)
    exact ⟨_, h⟩
  · exact ⟨_, ((H 8 (fj .latent true 5) (G (fj .latent true 5)) (P (fj .latent true 5)) ad).1 (fr .latent true 5) [] dd dd).2.2.2 oo dd dd dd⟩
  · exact ⟨_, (H 2 (fj .latent true 5) (G (fj .latent true 5)) (P (fj .latent true 5)) ad).2 oo (by intro f fs e; right; have : (P (fj .latent true 5)).frames = [fr .latent true 5] := dd; rw [this] at e; cases e; decide +kernel)⟩
  · exact ⟨_, (H 2 fa (G fa) (P fa) ad).2 oo (by intro f fs e; have : (P fa).frames = [] := dd; rw [this] at e; cases e)⟩

theorem test_frameEndsAndStatus_meets_1 (H : Obligations.FrameEndsAndStatus) :
    (∃ t, exec (.fend) (fj .inlined true 1) = .next t) ∧
    (∃ t, exec (.fend) fs0 = .next t) ∧
    (∃ t, exec (.fend) (fj .latent true 1) = .next t) ∧
    (∃ t, exec (.fend) fa = .next t) ∧
    (∃ t, exec (.hold) fa = .next t) ∧
    (∃ t, exec (.release) fa = .next t) ∧
    (∃ t, exec (.frstat 1 2 0) fa = .next t) ∧
    (∃ t, exec (.frstat 1 8 0) (fj .latent true 1) = .next t) ∧
    (∃ t, exec (.frstat 1 8 0) fa = .next t) ∧
    (∃ t, exec (.frstat 1 8 1) (fj .latent true 1) = .next t) ∧
    (∃ t, exec (.frstat 1 8 2) (hb0 2) = .next t) ∧
    (∃ t, exec (.frstat 1 3 3) (hb0 1) = .next t) := by
  refine ⟨?_, ?_, ?_, ?_, ?_, ?_, ?_, ?_, ?_, ?_, ?_, ?_⟩
  · exact ⟨_, ((H 1 8 (fj .inlined true 1) (G (fj .inlined true 1)) (P (fj .inlined true 1))).1 ad).1 (fr .inlined true 1) [] 0x10400 dd dd dd (by unfold recordAt; decide +kernel)⟩
  · obtain ⟨_, h, _⟩ := ((H 1 8 fs0 (G fs0) (P fs0)).1 ad).2.1 sp0 0x10400 (((landGroup fs0 1).group? 1).getD (G fs0)) dd dd dd dd (by unfold OthersFirst; decide +kernel) dd (by unfold recordAt; decide +kernel) dd dd dd dd dd dd
    exact ⟨_, h⟩
  · exact ⟨_, ((H 1 8 (fj .latent true 1) (G (fj .latent true 1)) (P (fj .latent true 1))).1 ad).2.2 oo (Or.inl ⟨fr .latent true 1, [], dd, dd⟩)⟩
  · exact ⟨_, ((H 1 8 fa (G fa) (P fa)).1 ad).2.2 oo (Or.inr ⟨dd, by intro f e; exact absurd e (by simp [show (G fa).kind = .grid from by decide +kernel])⟩)⟩
  · exact ⟨_, ((H 1 8 fa (G fa) (P fa)).2.1 ad).1⟩
  · exact ⟨_, ((H 1 8 fa (G fa) (P fa)).2.1 ad).2⟩
  · exact ⟨_, ((H 1 2 fa (G fa) (P fa)).2.2.1 ad).1 (by decide +kernel)⟩
  · exact ⟨_, ((H 1 8 (fj .latent true 1) (G (fj .latent true 1)) (P (fj .latent true 1))).2.2.1 ad).2.1 (fr .latent true 1) dd dd dd dd dd⟩
  · exact ⟨_, ((H 1 8 fa (G fa) (P fa)).2.2.1 ad).2.2 (bgXlate fa 0 1 0x10400 Need.read false).1 0x10400 dd dd dd dd⟩
  · exact ⟨_, ((H 1 8 (fj .latent true 1) (G (fj .latent true 1)) (P (fj .latent true 1))).2.2.2.1 ad).1⟩
  · exact ⟨_, ((H 1 8 (hb0 2) (G (hb0 2)) (P (hb0 2))).2.2.2.1 ad).2⟩
  · exact ⟨_, ((H 1 3 (hb0 1) (G (hb0 1)) (P (hb0 1))).2.2.2.2 ad).1 dd dd⟩

theorem test_frameEndsAndStatus_meets_2 (H : Obligations.FrameEndsAndStatus) :
    (∃ t, exec (.frstat 1 3 3) (hb0 2) = .next t) := by
  · exact ⟨_, ((H 1 3 (hb0 2) (G (hb0 2)) (P (hb0 2))).2.2.2.2 ad).2 oo (Or.inl dd)⟩

theorem test_heartbeatAndFrameEvents_meets (H : Obligations.HeartbeatAndFrameEvents) :
    (∃ t, exec (.heartbeatTick 0 1) fp = .next t) ∧
    (∃ t, exec (.heartbeatTickMode1 1) (onG (fun g => { g with tickDue := true }) fp) = .next t) ∧
    (∃ t, exec (.promotion 1 0) fp = .next t) ∧
    (∃ t, exec (.promoted 1 0) fq = .next t) ∧
    (∃ t, exec (.spawnForward 4) fw = .next t) ∧
    (∃ t, exec (.recordClaim 1 0 0) fa = .next t) ∧
    (∃ t, exec (.frameSpill 1 0) (f3 .promoted) = .next t) ∧
    (∃ t, exec (.frameSpill 1 0) (f3 .latent) = .next t) := by
  refine ⟨?_, ?_, ?_, ?_, ?_, ?_, ?_, ?_⟩
  · obtain ⟨_, h, _⟩ := (H fp).1 0 1 dd
    exact ⟨_, h⟩
  · obtain ⟨_, _, h, _⟩ := (H (onG (fun g => { g with tickDue := true }) fp)).2.1 1 (G (onG (fun g => { g with tickDue := true }) fp)) dd dd
    exact ⟨_, h⟩
  · obtain ⟨_, h, _⟩ := (H fp).2.2.1 1 0 (G fp) (P fp) (fr .latent true 1) dd dd dd dd dd dd dd (by intro r e; exact absurd e (by simp [show (P fp).cond = .ready from by decide +kernel])) dd
    exact ⟨_, h⟩
  · obtain ⟨_, _, h, _⟩ := (H fq).2.2.2.1 1 0 (G fq) (P fq) (fr .promoting true 1) 0x10400 dd dd dd dd ⟨dd, dd, dd, dd⟩ (by unfold recordAt; decide +kernel) dd
    exact ⟨_, h⟩
  · obtain ⟨_, h, _⟩ := (H fw).2.2.2.2.1 4 rq4 sp0 (((fw.group? 2)).getD (G base)) (7, { kernel := (G base).kernel, no := (G base).cohort, total := 1, retired := 0, bars := [] }) 4 dd rfl dd dd dd dd dd dd dd dd dd
    exact ⟨_, h⟩
  · obtain ⟨_, _, h, _⟩ := (H fa).2.2.2.2.2.1 1 0 0 (G fa) (P fa) 0x10400 dd dd dd dd dd dd dd dd
    exact ⟨_, h⟩
  · obtain ⟨_, h, _⟩ := ((H (f3 .promoted)).2.2.2.2.2.2 1 0 (G (f3 .promoted)) (P (f3 .promoted)) (fr .promoted true 1) 0x10400 dd dd dd dd).1 (Or.inl rfl)
    exact ⟨_, h⟩
  · obtain ⟨_, h, _⟩ := ((H (f3 .latent)).2.2.2.2.2.2 1 0 (G (f3 .latent)) (P (f3 .latent)) (fr .latent true 1) 0x10400 dd dd dd dd).2 (by decide +kernel) ⟨dd, dd, dd, dd⟩ (by unfold recordAt; decide +kernel)
    exact ⟨_, h⟩

/-! States and operands for BarrierResults, WaitsAndWakes, TroupeQueues. -/

noncomputable def tm0 : Team := { ctx := 1, kernel := 3, cohort := 4, no := 0, core := 0, die := 0, total := 2, retired := 0, bars := [], regroups := [] }
noncomputable def co0 : Cohort := { kernel := 3, no := 0, total := 2, retired := 0, bars := [] }
noncomputable def bb (b : Bar) (c : Bar) : State := { onG (fun g => { g with team := 5, kernel := 3 }) (S 2 0x10100 base) with teams := [(5, { tm0 with bars := [(2, b)] })], cohorts := [(4, { co0 with bars := [(2, c)] })] }
noncomputable def b1 : State := bb Bar.reset Bar.reset
/-- Group 2 of the team waits for the phase. -/
noncomputable def b2 : State := let s := bb { phase := 0, counted := [2] } Bar.reset
  { s with groups := s.groups.put 2 { (G s) with grp := 1, paths := [(0, { (P s) with cond := .waiting (.bar false 2 0), after_ := 0x10020, arrivals := [(false, 2, 0)] })] } }
noncomputable def b3 : State := bb { phase := 5, counted := [] } { phase := 7, counted := [9] }
noncomputable def bA : State := onP (fun p => { p with arrivals := [(false, 2, 0)] }) b1
noncomputable def bC : State := onP (fun p => { p with arrivals := [(true, 2, 0)] }) b1
noncomputable def b1o : State := nx (.sst 6 2 0) b1
noncomputable def bG : State := onG (fun g => { g with grp := 63 }) b1
noncomputable def wk (w : Wake) : State := onP (fun p => { p with cond := .waiting w, after_ := 0x10004 }) (S 2 0x10100 base)
noncomputable def tq (put take : Nat) : State := let s := S 1 0x40 (S 3 0x41 (V 2 0 9 (onP (fun p => { p with mask := 3 }) base)))
  padWr (padWr (padWr s 0 0x40 (bytesLE 8 put)) 0 0x48 (bytesLE 8 take)) 0 0x50 (bytesLE 2 4)

theorem test_barrierResults_meets_1 (H : Obligations.BarrierResults) :
    (∃ t, exec (.bar 2) bG = .next t) ∧
    (∃ t, exec (.cbar 2) bG = .next t) ∧
    (∃ t, exec (.bara 6 2) bG = .next t) ∧
    (∃ t, exec (.barw 6 2) bG = .next t) ∧
    (∃ t, exec (.bar 2) b1 = .next t) ∧
    (∃ t, exec (.bar 2) b2 = .next t) ∧
    (∃ t, exec (.bara 6 2) b1 = .next t) ∧
    (∃ t, exec (.bara 6 2) b2 = .next t) ∧
    (∃ t, exec (.bara 6 2) bA = .next t) ∧
    (∃ t, exec (.bara 6 2) b1o = .next t) ∧
    (∃ t, exec (.cbar 2) bC = .next t) ∧
    (∃ t, exec (.cbar 2) b1o = .next t) := by
  refine ⟨?_, ?_, ?_, ?_, ?_, ?_, ?_, ?_, ?_, ?_, ?_, ?_⟩
  · exact ⟨_, ((H 6 2 bG (G bG) (P bG)).1 oo (Or.inr dd)).1 ad |>.1⟩
  · exact ⟨_, ((H 6 2 bG (G bG) (P bG)).1 oo (Or.inr dd)).1 ad |>.2⟩
  · exact ⟨_, ((H 6 2 bG (G bG) (P bG)).1 oo (Or.inr dd)).2.1 ad⟩
  · exact ⟨_, ((H 6 2 bG (G bG) (P bG)).1 oo (Or.inr dd)).2.2 ad⟩
  · obtain ⟨_, _, h, _⟩ := (((H 6 2 b1 (G b1) (P b1)).2 ((b1.teams.find? 5).getD tm0) dd dd dd).1 ad ⟨dd, dd, dd, dd⟩ dd dd (by intro j h hm ht hj; have : ∀ x ∈ b1.groups, x.1 = b1.iss.gid ∨ x.1 ∈ ((b1.teams.find? 5).map fun t => (t.bars.get Bar.reset 2).counted).getD [] := (by decide +kernel); rcases this _ hm with e | e; exact absurd e hj; exact Or.inl e)).1 dd
    exact ⟨_, h⟩
  · obtain ⟨_, _, h, _⟩ := (((H 6 2 b2 (G b2) (P b2)).2 ((b2.teams.find? 5).getD tm0) dd dd dd).1 ad ⟨dd, dd, dd, dd⟩ dd dd (by intro j h hm ht hj; have : ∀ x ∈ b2.groups, x.1 = b2.iss.gid ∨ x.1 ∈ ((b2.teams.find? 5).map fun t => (t.bars.get Bar.reset 2).counted).getD [] := (by decide +kernel); rcases this _ hm with e | e; exact absurd e hj; exact Or.inl e)).2 dd dd
    exact ⟨_, h⟩
  · obtain ⟨_, _, _, h, _⟩ := ((H 6 2 b1 (G b1) (P b1)).2 ((b1.teams.find? 5).getD tm0) dd dd dd).2.1 ad ⟨dd, dd, dd, dd⟩ dd dd (by intro j h hm ht hj; have : ∀ x ∈ b1.groups, x.1 = b1.iss.gid ∨ x.1 ∈ ((b1.teams.find? 5).map fun t => (t.bars.get Bar.reset 2).counted).getD [] := (by decide +kernel); rcases this _ hm with e | e; exact absurd e hj; exact Or.inl e) dd dd
    exact ⟨_, h⟩
  · obtain ⟨_, _, _, h, _⟩ := ((H 6 2 b2 (G b2) (P b2)).2 ((b2.teams.find? 5).getD tm0) dd dd dd).2.1 ad ⟨dd, dd, dd, dd⟩ dd dd (by intro j h hm ht hj; have : ∀ x ∈ b2.groups, x.1 = b2.iss.gid ∨ x.1 ∈ ((b2.teams.find? 5).map fun t => (t.bars.get Bar.reset 2).counted).getD [] := (by decide +kernel); rcases this _ hm with e | e; exact absurd e hj; exact Or.inl e) dd dd
    exact ⟨_, h⟩
  · exact ⟨_, (((H 6 2 bA (G bA) (P bA)).2 ((bA.teams.find? 5).getD tm0) dd dd dd).2.2.1 ad dd dd).1 dd⟩
  · exact ⟨_, (((H 6 2 b1o (G b1o) (P b1o)).2 ((b1o.teams.find? 5).getD tm0) dd dd dd).2.2.1 ad dd dd).2 dd dd⟩
  · exact ⟨_, (((H 6 2 bC (G bC) (P bC)).2 ((bC.teams.find? 5).getD tm0) dd dd dd).2.2.2.1 ((bC.cohorts.find? 4).getD co0) ad dd dd dd).1 dd⟩
  · exact ⟨_, (((H 6 2 b1o (G b1o) (P b1o)).2 ((b1o.teams.find? 5).getD tm0) dd dd dd).2.2.2.1 ((b1o.cohorts.find? 4).getD co0) ad dd dd dd).2 dd dd⟩

theorem test_barrierResults_meets_2 (H : Obligations.BarrierResults) :
    (∃ t, exec (.barw 6 2) b1 = .next t) ∧
    (∃ t, exec (.barw 6 2) b3 = .next t) ∧
    (∃ t, exec (.cbar 2) b1 = .next t) ∧
    (∃ t, exec (.cbar 2) b3 = .next t) ∧
    (∃ t, exec (.bar 2) bA = .next t) ∧
    (∃ t, exec (.bar 2) b1o = .next t) := by
  refine ⟨?_, ?_, ?_, ?_, ?_, ?_⟩
  · exact ⟨_, ((((H 6 2 b1 (G b1) (P b1)).2 ((b1.teams.find? 5).getD tm0) dd dd dd).2.2.2.2.1 ad dd dd).1 (Or.inl dd))⟩
  · exact ⟨_, ((((H 6 2 b3 (G b3) (P b3)).2 ((b3.teams.find? 5).getD tm0) dd dd dd).2.2.2.2.1 ad dd dd).2 dd dd)⟩
  · obtain ⟨_, _, h, _⟩ := (((H 6 2 b1 (G b1) (P b1)).2 ((b1.teams.find? 5).getD tm0) dd dd dd).2.2.2.2.2.1 ad ⟨dd, dd, dd, dd⟩ ((b1.cohorts.find? 4).getD co0) dd dd dd (by intro j h hm ht; have : ∀ x ∈ b1.groups, x.1 = b1.iss.gid := (by decide +kernel); exact this _ hm) (by intro x hx hc hn; have : ∀ x ∈ b1.teams, x.1 = (G b1).team := (by decide +kernel); exact absurd (this x hx) hn)).1 dd
    exact ⟨_, h⟩
  · obtain ⟨_, _, h, _⟩ := (((H 6 2 b3 (G b3) (P b3)).2 ((b3.teams.find? 5).getD tm0) dd dd dd).2.2.2.2.2.1 ad ⟨dd, dd, dd, dd⟩ ((b3.cohorts.find? 4).getD co0) dd dd dd (by intro j h hm ht; have : ∀ x ∈ b3.groups, x.1 = b3.iss.gid := (by decide +kernel); exact this _ hm) (by intro x hx hc hn; have : ∀ x ∈ b3.teams, x.1 = (G b3).team := (by decide +kernel); exact absurd (this x hx) hn)).2 dd dd
    exact ⟨_, h⟩
  · exact ⟨_, (((H 6 2 bA (G bA) (P bA)).2 ((bA.teams.find? 5).getD tm0) dd dd dd).2.2.2.2.2.2 ad).1 dd dd dd⟩
  · exact ⟨_, (((H 6 2 b1o (G b1o) (P b1o)).2 ((b1o.teams.find? 5).getD tm0) dd dd dd).2.2.2.2.2.2 ad).2 dd dd dd dd⟩

theorem test_waitsAndWakes_meets_1 (H : Obligations.WaitsAndWakes) :
    (∃ t, exec (.waitc 3) base = .next t) ∧
    (∃ t, exec (.waitc 3) (onG (fun g => { g with err := 5 }) base) = .next t) ∧
    (∃ t, exec (.waitc 1) c0 = .next t) ∧
    (∃ t, exec (.seqw 2 1) b1 = .next t) ∧
    (∃ t, exec (.seqw 2 1) (S 1 1 b1) = .next t) ∧
    (∃ t, exec (.sleep 1) base = .next t) ∧
    (∃ t, exec (.sleep 2) b1 = .next t) ∧
    (∃ t, exec (.wake 1 0) (wk (.sleep 1000)) = .next t) ∧
    (∃ t, exec (.wake 1 0) (wk (.score [(1,2)])) = .next t) ∧
    (∃ t, exec (.wake 1 0) (wk (.acc 1)) = .next t) ∧
    (∃ t, exec (.wake 1 0) (wk (.seqw 0x10100 0x10100 0 true)) = .next t) ∧
    (∃ t, exec (.wake 1 0) (wk (.queue 64 true)) = .next t) := by
  refine ⟨?_, ?_, ?_, ?_, ?_, ?_, ?_, ?_, ?_, ?_, ?_, ?_⟩
  · exact ⟨_, ((H 2 1 3 base (G base) (P base)).1 ad dd).1 (by refine ⟨?_, dd⟩; intro o ho; rw [show base.ops = [] from by decide +kernel] at ho; cases ho) dd⟩
  · exact ⟨_, ((H 2 1 3 (onG (fun g => { g with err := 5 }) base) (G (onG (fun g => { g with err := 5 }) base)) (P base)).1 ad dd).2.1 (by refine ⟨?_, dd⟩; intro o ho; rw [show (onG (fun g => { g with err := 5 }) base).ops = [] from by decide +kernel] at ho; cases ho) dd oo⟩
  · obtain ⟨_, _, h⟩ := ((H 2 1 1 c0 (G c0) (P c0)).1 ad dd).2.2 (by intro h; have := h.1 (10, opOf c0 10) dd dd; rw [show (opOf c0 10).kind = .eng (engOf c0 10) from by decide +kernel] at this; revert this; decide +kernel)
    exact ⟨_, h⟩
  · obtain ⟨_, h, _⟩ := ((H 2 1 3 b1 (G b1) (P b1)).2.1 0x10100 ad dd dd dd dd dd).1 dd
    exact ⟨_, h⟩
  · obtain ⟨_, h, _⟩ := ((H 2 1 3 (S 1 1 b1) (G (S 1 1 b1)) (P (S 1 1 b1))).2.1 0x10100 ad dd dd dd dd dd).2 dd
    exact ⟨_, h⟩
  · exact ⟨_, ((H 1 1 3 base (G base) (P base)).2.2.1 ad).1 dd⟩
  · exact ⟨_, ((H 2 1 3 b1 (G b1) (P b1)).2.2.1 ad).2 dd⟩
  · exact ⟨_, ((H 2 1 3 (wk (.sleep 1000)) (G (wk (.sleep 1000))) (P (wk (.sleep 1000)))).2.2.2 1 0 (G (wk (.sleep 1000))) (P (wk (.sleep 1000))) dd dd dd dd).1 1000 dd⟩
  · exact ⟨_, ((H 2 1 3 (wk (.score [(1,2)])) (G (wk (.score [(1,2)]))) (P (wk (.score [(1,2)])))).2.2.2 1 0 (G (wk (.score [(1,2)]))) (P (wk (.score [(1,2)]))) dd dd dd dd).2.1 [(1,2)] dd⟩
  · exact ⟨_, ((H 2 1 3 (wk (.acc 1)) (G (wk (.acc 1))) (P (wk (.acc 1)))).2.2.2 1 0 (G (wk (.acc 1))) (P (wk (.acc 1))) dd dd dd dd).2.2.1 1 dd⟩
  · exact ⟨_, ((H 2 1 3 (wk (.seqw 0x10100 0x10100 0 true)) (G (wk (.seqw 0x10100 0x10100 0 true))) (P (wk (.seqw 0x10100 0x10100 0 true)))).2.2.2 1 0 (G (wk (.seqw 0x10100 0x10100 0 true))) (P (wk (.seqw 0x10100 0x10100 0 true))) dd dd dd dd).2.2.2.1 0x10100 0x10100 0 true dd⟩
  · exact ⟨_, ((H 2 1 3 (wk (.queue 64 true)) (G (wk (.queue 64 true))) (P (wk (.queue 64 true)))).2.2.2 1 0 (G (wk (.queue 64 true))) (P (wk (.queue 64 true))) dd dd dd dd).2.2.2.2.1 64 true dd dd⟩

theorem test_waitsAndWakes_meets_2 (H : Obligations.WaitsAndWakes) :
    (∃ t, exec (.wake 1 0) (wk (.waitc 3 [77])) = .next t) ∧
    (∃ t, exec (.wake 1 0) (wk (.barw 2 0)) = .next t) ∧
    (∃ t, exec (.wake 1 0) (wk (.turnDone 0 0)) = .next t) ∧
    (∃ t, exec (.wake 1 0) (wk (.eplace 0)) = .next t) ∧
    (∃ t, exec (.wake 1 0) (wk (.tile 3 false true)) = .next t) ∧
    (∃ t, exec (.wake 1 0) (wk (.dirFree)) = .next t) ∧
    (∃ t, exec (.wake 1 0) (wk (.fetch)) = .next t) ∧
    (∃ t, exec (.wake 1 0) (wk (.mbox true)) = .next t) ∧
    (∃ t, exec (.wake 1 0) (wk (.order true true [])) = .next t) := by
  refine ⟨?_, ?_, ?_, ?_, ?_, ?_, ?_, ?_, ?_⟩
  · exact ⟨_, ((H 2 1 3 (wk (.waitc 3 [77])) (G (wk (.waitc 3 [77]))) (P (wk (.waitc 3 [77])))).2.2.2 1 0 (G (wk (.waitc 3 [77]))) (P (wk (.waitc 3 [77]))) dd dd dd dd).2.2.2.2.2.1 3 [77] dd dd⟩
  · exact ⟨_, ((H 2 1 3 (wk (.barw 2 0)) (G (wk (.barw 2 0))) (P (wk (.barw 2 0)))).2.2.2 1 0 (G (wk (.barw 2 0))) (P (wk (.barw 2 0))) dd dd dd dd).2.2.2.2.2.2.1 2 0 dd⟩
  · exact ⟨_, ((H 2 1 3 (wk (.turnDone 0 0)) (G (wk (.turnDone 0 0))) (P (wk (.turnDone 0 0)))).2.2.2 1 0 (G (wk (.turnDone 0 0))) (P (wk (.turnDone 0 0))) dd dd dd dd).2.2.2.2.2.2.2.1 0 0 dd⟩
  · exact ⟨_, ((H 2 1 3 (wk (.eplace 0)) (G (wk (.eplace 0))) (P (wk (.eplace 0)))).2.2.2 1 0 (G (wk (.eplace 0))) (P (wk (.eplace 0))) dd dd dd dd).2.2.2.2.2.2.2.2.1 0 dd⟩
  · exact ⟨_, ((H 2 1 3 (wk (.tile 3 false true)) (G (wk (.tile 3 false true))) (P (wk (.tile 3 false true)))).2.2.2 1 0 (G (wk (.tile 3 false true))) (P (wk (.tile 3 false true))) dd dd dd dd).2.2.2.2.2.2.2.2.2.1 3 false true dd⟩
  · exact ⟨_, ((H 2 1 3 (wk (.dirFree)) (G (wk (.dirFree))) (P (wk (.dirFree)))).2.2.2 1 0 (G (wk (.dirFree))) (P (wk (.dirFree))) dd dd dd dd).2.2.2.2.2.2.2.2.2.2.1 dd⟩
  · exact ⟨_, ((H 2 1 3 (wk (.fetch)) (G (wk (.fetch))) (P (wk (.fetch)))).2.2.2 1 0 (G (wk (.fetch))) (P (wk (.fetch))) dd dd dd dd).2.2.2.2.2.2.2.2.2.2.2.1 dd⟩
  · exact ⟨_, ((H 2 1 3 (wk (.mbox true)) (G (wk (.mbox true))) (P (wk (.mbox true)))).2.2.2 1 0 (G (wk (.mbox true))) (P (wk (.mbox true))) dd dd dd dd).2.2.2.2.2.2.2.2.2.2.2.2.1 true dd⟩
  · exact ⟨_, ((H 2 1 3 (wk (.order true true [])) (G (wk (.order true true []))) (P (wk (.order true true [])))).2.2.2 1 0 (G (wk (.order true true []))) (P (wk (.order true true []))) dd dd dd dd).2.2.2.2.2.2.2.2.2.2.2.2.2 true true [] dd⟩

theorem test_troupeQueues_meets (H : Obligations.TroupeQueues) :
    (∃ t, exec (.qput 1 2) (tq 5 3) = .next t) ∧
    (∃ t, exec (.qput 1 2) (tq 7 3) = .next t) ∧
    (∃ t, exec (.qput 1 2) (nx (.sst 6 4 0) (S 4 0x10200 (tq 7 3))) = .next t) ∧
    (∃ t, exec (.qtake 1 2) (tq 5 3) = .next t) ∧
    (∃ t, exec (.qtake 1 2) (tq 3 3) = .next t) ∧
    (∃ t, exec (.qstat 2 1) (tq 5 3) = .next t) ∧
    (∃ t, exec (.qput 3 2) (tq 5 3) = .next t) := by
  refine ⟨?_, ?_, ?_, ?_, ?_, ?_, ?_⟩
  · obtain ⟨_, h, _⟩ := ((H 1 2 (tq 5 3) (G (tq 5 3)) (P (tq 5 3))).1 ad (queueOk 4 2 dd dd dd dd dd dd)).2.1 dd dd
    exact ⟨_, h⟩
  · exact ⟨_, ((H 1 2 (tq 7 3) (G (tq 7 3)) (P (tq 7 3))).1 ad (queueOk 4 2 dd dd dd dd dd dd)).2.2 dd dd⟩
  · exact ⟨_, ((H 1 2 (nx (.sst 6 4 0) (S 4 0x10200 (tq 7 3))) (G (nx (.sst 6 4 0) (S 4 0x10200 (tq 7 3)))) (P (nx (.sst 6 4 0) (S 4 0x10200 (tq 7 3))))).1 ad (queueOk 4 2 dd dd dd dd dd dd)).1 dd⟩
  · obtain ⟨_, _, h, _⟩ := ((H 1 2 (tq 5 3) (G (tq 5 3)) (P (tq 5 3))).2.1 ad (queueOk 4 2 dd dd dd dd dd dd)).1 dd dd
    exact ⟨_, h⟩
  · exact ⟨_, ((H 1 2 (tq 3 3) (G (tq 3 3)) (P (tq 3 3))).2.1 ad (queueOk 4 2 dd dd dd dd dd dd)).2 dd dd⟩
  · exact ⟨_, (H 2 1 (tq 5 3) (G (tq 5 3)) (P (tq 5 3))).2.2.1 ad (queueOk 4 2 dd dd dd dd dd dd)⟩
  · exact ⟨_, (H 3 2 (tq 5 3) (G (tq 5 3)) (P (tq 5 3))).2.2.2 ad oo dd⟩

/-! States and operands for FencesPrefetchesAndWalks, Submits, ActiveMessages, WireGroupTurns. -/

/-- Page tables of five levels at 0x20000 that lead 0x10000 to the level-1 entry `e`; one walk, one path waiting for it. -/
noncomputable def wlk (e : Nat) (n : Need) : State :=
  let s := (onP (fun p => { p with cond := .parked 1 }) base).modCtx 1 fun x => { x with ptTop := some 0x20000 }
  let s := { s with dies := [(0, { Die.reset with walks := [(3, { ctx := 1, va := 0x10000, paths := [(1, 0, n)] })] })] }
  let s := s.modCore 0 fun k => { k with tlb := [] }
  { s with mem := putBytes (putBytes (putBytes (putBytes (putBytes [] 0x20000 (bytesLE 8 0x21001)) 0x21000 (bytesLE 8 0x22001)) 0x22000 (bytesLE 8 0x23001)) 0x23000 (bytesLE 8 0x24001)) 0x24080 (bytesLE 8 e) }
noncomputable def wlk1 : State :=
  let s := wlk 0 Need.write
  { s with mem := (List.range 16).foldl (fun m i => putBytes m (0x24080 + 8 * i) (bytesLE 8 (0x1030d + 4096 * i))) s.mem }
noncomputable def wlk2 : State := let s := wlk 0 Need.write; { s with mem := putBytes s.mem 0x23000 (bytesLE 8 0x20010d) }
noncomputable def wlk2m : State := let s := wlk 0 Need.write; { s with mem := putBytes s.mem 0x23000 (bytesLE 8 0x20012d) }
noncomputable def sub : State := { (S 2 0x10100 (S 3 0x10180 (S 4 0x10104 (S 6 0x8000000000000000 base)))) with
  queues := [(7, { ctx := 1, anchor := 0x10100, st := .idle, doneSeq := 0, donePtr := 0, cqSeq := 0, busy := none, pend := [] })]
  mem := putBytes [] 0x10100 (bytesLE 8 0x10200 ++ bytesLE 8 41) }
noncomputable def sub0 : State := { sub with queues := [] }
noncomputable def sb1 : State := nx (.submit 2 3) sub
noncomputable def subV : State := { sub with mem := putBytes [] 0x10100 (bytesLE 8 (2 ^ 63) ++ bytesLE 8 41) }
noncomputable def sbP : State := { sb1 with mem := putBytes [] 0x10100 (bytesLE 8 (2 ^ 63) ++ bytesLE 8 41) }
noncomputable def sb2 : State := nx (.homeAccess 10 [] false) sb1
/-- A message of 12 bytes to core 0, index 5, of this device or of device 9. -/
noncomputable def am (dev : Nat) : State := S 2 (12 * 2 ^ 24 + dev * 2 ^ 16 + 5) (S 3 0x0102030405060708 (S 4 0x1112131415161718 base))
noncomputable def amT (dev : Nat) : State := (am dev).modCtx 1 fun x => { x with tasks := [(5, { entry := 0x10000, frbase := 0, grid := 0, cohort := 0, team := 0, regs := 128, valid := true })] }
noncomputable def peer : State := { am 9 with routing := (List.replicate 64 255).set 9 0 }
/-- Network cycles later; with the packets gone where they cannot be at their end. -/
noncomputable def later (gone : Bool) (s : State) : State := { s with clocks := { s.clocks with nets := 100 }, torus := if gone then [] else s.torus }
noncomputable def am1 : State := later false (nx (.amsg 2 3) (amT 0))
noncomputable def am0 : State := later false (nx (.amsg 2 3) (am 0))
noncomputable def am9 : State := later true (nx (.amsg 2 3) peer)
noncomputable def msgOf (s : State) (o : Nat) : AMsg := match (opOf s o).kind with | .amsg m => m | _ => { op := 0, ctx := 0, dev := 0, core := 0, idx := 0, srcDev := 0, srcCore := 0, payload := [] }
noncomputable def amC : State := later true (nx (.amsg 2 3) (S 2 (12 * 2 ^ 24 + 5 * 2 ^ 8 + 5) (am 0)))
noncomputable def amP : State := { am1 with ops := am1.ops.mapV fun _ o => match o.kind with | .amsg m => { o with kind := .amsg { m with srcDev := 9, ctx := 4 } } | _ => o }
noncomputable def am9d : State := { am9 with linkDown := [0] }
noncomputable def amN : State := (am 0).modCtx 1 fun x => { x with net := [] }
noncomputable def ap : Option Packet := actPacket (am 0) 10 1 0 0 0 12
noncomputable def amF : State := { am 0 with torus := (ap.map fun p => (50, { p with pos := .esc p.sdie p.sstop 0 0 })).toList }
noncomputable def amO : State := nx (.sst 6 8 0) (S 8 0x10100 (am 0))
noncomputable def bnd (f : Bound → Bound) (x : Nat) : State := (S 2 x base).modBound 1 f
noncomputable def alM (d : Bound) : Bound := { d with allots := [(1, 255 * 2 ^ 48)] }
noncomputable def trn (ch : Option (List Nat)) : Turn := { ctx := 1, n := 3, west := false, seq := 1, allot := 255 * 2 ^ 48, chosen := ch }

noncomputable def tE : State := { (bnd (fun d => { alM d with queue := [trn (some [48])], turning := [(48, 5)] }) 0) with clocks := { base.clocks with ticks := 322 } }

theorem test_fencesPrefetchesAndWalks_meets (H : Obligations.FencesPrefetchesAndWalks) :
    (∃ t, exec (.fence) base = .next t) ∧
    (∃ t, exec (.fence) mS = .next t) ∧
    (∃ t, exec (.vprefetch 0 2 1) m0 = .next t) ∧
    (∃ t, exec (.walkComplete 3) (wlk (2 ^ 57 + 0x1010d) Need.write) = .next t) ∧
    (∃ t, exec (.walkComplete 3) (wlk 0x1030d Need.write) = .next t) ∧
    (∃ t, exec (.walkComplete 3) (wlk 0x10105 Need.write) = .next t) ∧
    (∃ t, exec (.walkComplete 3) (wlk 0x1012d Need.write) = .next t) ∧
    (∃ t, exec (.walkComplete 3) (wlk 0x1010d Need.write) = .next t) ∧
    (∃ t, exec (.walkComplete 3) wlk1 = .next t) ∧
    (∃ t, exec (.walkComplete 3) wlk2 = .next t) ∧
    (∃ t, exec (.walkComplete 3) wlk2m = .next t) ∧
    (∃ t, exec (.walkComplete 3) (wlk 0 Need.write) = .next t) := by
  refine ⟨?_, ?_, ?_, ?_, ?_, ?_, ?_, ?_, ?_, ?_, ?_, ?_⟩
  · exact ⟨_, ((H base (G base) (P base)).1 ad).1 dd⟩
  · exact ⟨_, ((H mS (G mS) (P mS)).1 ad).2 ⟨(10, opOf mS 10), dd, dd, dd⟩⟩
  · obtain ⟨_, h, _⟩ := (H m0 (G m0) (P m0)).2.1 0 2 1 ad
    exact ⟨_, h⟩
  · obtain ⟨_, h, _⟩ := ((H (wlk (2 ^ 57 + 0x1010d) Need.write) (G (wlk (2 ^ 57 + 0x1010d) Need.write)) (P (wlk (2 ^ 57 + 0x1010d) Need.write))).2.2 0 3 { ctx := 1, va := 0x10000, paths := [(1, 0, Need.write)] } 1 0 Need.write (P (wlk (2 ^ 57 + 0x1010d) Need.write)) 0x20000 0x24080 1 ⟨⟨((wlk (2 ^ 57 + 0x1010d) Need.write).die 0), dd, dd, dd⟩, dd, dd, dd, dd, dd, dd, (((wlk (2 ^ 57 + 0x1010d) Need.write).ctx? 1).getD loadedCtx), dd, dd⟩ dd dd dd (by simp only [tablesLead]; decide +kernel)).1 dd dd
    exact ⟨_, h⟩
  · obtain ⟨_, h, _⟩ := ((H (wlk 0x1030d Need.write) (G (wlk 0x1030d Need.write)) (P (wlk 0x1030d Need.write))).2.2 0 3 { ctx := 1, va := 0x10000, paths := [(1, 0, Need.write)] } 1 0 Need.write (P (wlk 0x1030d Need.write)) 0x20000 0x24080 1 ⟨⟨((wlk 0x1030d Need.write).die 0), dd, dd, dd⟩, dd, dd, dd, dd, dd, dd, (((wlk 0x1030d Need.write).ctx? 1).getD loadedCtx), dd, dd⟩ dd dd dd (by simp only [tablesLead]; decide +kernel)).2.1 dd dd dd (by intro z; rintro (⟨_, h, _⟩ | ⟨_, _, _, _, h⟩ | ⟨h, _⟩ | ⟨h, _⟩) <;> revert h <;> decide +kernel)
    exact ⟨_, h⟩
  · obtain ⟨_, h, _⟩ := ((H (wlk 0x10105 Need.write) (G (wlk 0x10105 Need.write)) (P (wlk 0x10105 Need.write))).2.2 0 3 { ctx := 1, va := 0x10000, paths := [(1, 0, Need.write)] } 1 0 Need.write (P (wlk 0x10105 Need.write)) 0x20000 0x24080 1 ⟨⟨((wlk 0x10105 Need.write).die 0), dd, dd, dd⟩, dd, dd, dd, dd, dd, dd, (((wlk 0x10105 Need.write).ctx? 1).getD loadedCtx), dd, dd⟩ dd dd dd (by simp only [tablesLead]; decide +kernel)).2.2.1 0 dd dd dd dd |>.1 dd
    exact ⟨_, h⟩
  · obtain ⟨_, _, h, _⟩ := ((H (wlk 0x1012d Need.write) (G (wlk 0x1012d Need.write)) (P (wlk 0x1012d Need.write))).2.2 0 3 { ctx := 1, va := 0x10000, paths := [(1, 0, Need.write)] } 1 0 Need.write (P (wlk 0x1012d Need.write)) 0x20000 0x24080 1 ⟨⟨((wlk 0x1012d Need.write).die 0), dd, dd, dd⟩, dd, dd, dd, dd, dd, dd, (((wlk 0x1012d Need.write).ctx? 1).getD loadedCtx), dd, dd⟩ dd dd dd (by simp only [tablesLead]; decide +kernel)).2.2.1 0 dd dd dd dd |>.2.1 dd dd dd
    exact ⟨_, h⟩
  · obtain ⟨_, _, h, _⟩ := ((H (wlk 0x1010d Need.write) (G (wlk 0x1010d Need.write)) (P (wlk 0x1010d Need.write))).2.2 0 3 { ctx := 1, va := 0x10000, paths := [(1, 0, Need.write)] } 1 0 Need.write (P (wlk 0x1010d Need.write)) 0x20000 0x24080 1 ⟨⟨((wlk 0x1010d Need.write).die 0), dd, dd, dd⟩, dd, dd, dd, dd, dd, dd, (((wlk 0x1010d Need.write).ctx? 1).getD loadedCtx), dd, dd⟩ dd dd dd (by simp only [tablesLead]; decide +kernel)).2.2.1 0 dd dd dd dd |>.2.2 dd dd
    exact ⟨_, h⟩
  · obtain ⟨_, _, h, _⟩ := ((H wlk1 (G wlk1) (P wlk1)).2.2 0 3 { ctx := 1, va := 0x10000, paths := [(1, 0, Need.write)] } 1 0 Need.write (P wlk1) 0x20000 0x24080 1 ⟨⟨(wlk1.die 0), dd, dd, dd⟩, dd, dd, dd, dd, dd, dd, ((wlk1.ctx? 1).getD loadedCtx), dd, dd⟩ dd dd dd (by simp only [tablesLead]; decide +kernel)).2.2.1 1 dd dd dd dd |>.2.2 dd dd
    exact ⟨_, h⟩
  · obtain ⟨_, _, h, _⟩ := ((H wlk2 (G wlk2) (P wlk2)).2.2 0 3 { ctx := 1, va := 0x10000, paths := [(1, 0, Need.write)] } 1 0 Need.write (P wlk2) 0x20000 0x23000 2 ⟨⟨(wlk2.die 0), dd, dd, dd⟩, dd, dd, dd, dd, dd, dd, ((wlk2.ctx? 1).getD loadedCtx), dd, dd⟩ dd dd dd (by simp only [tablesLead]; decide +kernel)).2.2.1 2 dd dd dd dd |>.2.2 dd dd
    exact ⟨_, h⟩
  · obtain ⟨_, _, h, _⟩ := ((H wlk2m (G wlk2m) (P wlk2m)).2.2 0 3 { ctx := 1, va := 0x10000, paths := [(1, 0, Need.write)] } 1 0 Need.write (P wlk2m) 0x20000 0x23000 2 ⟨⟨(wlk2m.die 0), dd, dd, dd⟩, dd, dd, dd, dd, dd, dd, ((wlk2m.ctx? 1).getD loadedCtx), dd, dd⟩ dd dd dd (by simp only [tablesLead]; decide +kernel)).2.2.1 2 dd dd dd dd |>.2.1 dd dd dd
    exact ⟨_, h⟩
  · obtain ⟨_, _, h, _⟩ := ((H (wlk 0 Need.write) (G (wlk 0 Need.write)) (P (wlk 0 Need.write))).2.2 0 3 { ctx := 1, va := 0x10000, paths := [(1, 0, Need.write)] } 1 0 Need.write (P (wlk 0 Need.write)) 0x20000 0x24080 1 ⟨⟨((wlk 0 Need.write).die 0), dd, dd, dd⟩, dd, dd, dd, dd, dd, dd, (((wlk 0 Need.write).ctx? 1).getD loadedCtx), dd, dd⟩ dd dd dd (by simp only [tablesLead]; decide +kernel)).2.2.2 dd
    exact ⟨_, h⟩

theorem test_submits_meets (H : Obligations.Submits) :
    (∃ t, exec (.submit 2 3) sub = .next t) ∧
    (∃ t, exec (.submit 2 3) subV = .next t) ∧
    (∃ t, exec (.submit 2 3) sub0 = .next t) ∧
    (∃ t, exec (.submit 6 3) sub = .next t) ∧
    (∃ t, exec (.submit 2 6) sub = .next t) ∧
    (∃ t, exec (.submit 4 3) sub = .next t) ∧
    (∃ t, exec (.submit 2 4) sub = .next t) ∧
    (∃ t, exec (.homeAccess 10 [] false) sb1 = .next t) ∧
    (∃ t, exec (.homeAccess 10 [] false) sbP = .next t) ∧
    (∃ t, exec (.loadReply 10) sb2 = .next t) := by
  refine ⟨?_, ?_, ?_, ?_, ?_, ?_, ?_, ?_, ?_, ?_⟩
  · exact ⟨_, ((H 2 3 sub (G sub) (P sub)).1 ad dd).1 dd dd dd dd 0x10100 0x10180 dd dd |>.2.1 0x10208 (Or.inl ⟨(7, { ctx := 1, anchor := 0x10100, st := .idle, doneSeq := 0, donePtr := 0, cqSeq := 0, busy := none, pend := [] }), dd, dd, dd⟩) dd dd⟩
  · exact ⟨_, ((H 2 3 subV (G subV) (P subV)).1 ad dd).1 dd dd dd dd 0x10100 0x10180 dd dd |>.1 (Or.inl ⟨(7, { ctx := 1, anchor := 0x10100, st := .idle, doneSeq := 0, donePtr := 0, cqSeq := 0, busy := none, pend := [] }), dd, dd, dd⟩) dd oo⟩
  · exact ⟨_, ((H 2 3 sub0 (G sub0) (P sub0)).1 ad dd).1 dd dd dd dd 0x10100 0x10180 dd dd |>.2.2 (by rintro (⟨q, hq, _⟩ | h); rw [show sub0.queues = [] from by decide +kernel] at hq; cases hq; revert h; decide +kernel) oo⟩
  · exact ⟨_, ((H 6 3 sub (G sub) (P sub)).1 ad dd).2 oo |>.1 dd⟩
  · exact ⟨_, ((H 2 6 sub (G sub) (P sub)).1 ad dd).2 oo |>.2.1 dd dd⟩
  · exact ⟨_, ((H 4 3 sub (G sub) (P sub)).1 ad dd).2 oo |>.2.2.1 dd dd dd⟩
  · exact ⟨_, ((H 2 4 sub (G sub) (P sub)).1 ad dd).2 oo |>.2.2.2 dd dd dd dd⟩
  · obtain ⟨_, h, _⟩ := (H 2 3 sb1 (G sb1) (P sb1)).2.1 10 (opOf sb1 10) 0x10100 0x10180 0x10100 0x10180 4 0 (.key 0x10208) (bgXlate sb1 0 1 0x10208 Need.write false).1 dd dd dd dd dd dd dd |>.1 0x10208 rfl dd dd dd dd dd
    exact ⟨_, h⟩
  · obtain ⟨_, _, h, _⟩ := (H 2 3 sbP (G sbP) (P sbP)).2.1 10 (opOf sbP 10) 0x10100 0x10180 0x10100 0x10180 4 0 .perm (bgXlate sbP 0 1 (2 ^ 63 + 8) Need.write false).1 dd dd dd dd dd dd dd |>.2 (P sbP) rfl dd dd
    exact ⟨_, h⟩
  · obtain ⟨_, _, h, _⟩ := (H 2 3 sb2 (G sb2) (P sb2)).2.2 10 (opOf sb2 10) 0x10100 0x10180 0x10100 0x10180 4 42 (G sb2) dd dd dd dd dd dd dd
    exact ⟨_, h⟩

theorem test_activeMessages_meets_1 (H : Obligations.ActiveMessages) :
    (∃ t, exec (.amsg 2 3) (am 0) = .next t) ∧
    (∃ t, exec (.amsg 2 3) amN = .next t) ∧
    (∃ t, exec (.amsg 2 3) amF = .next t) ∧
    (∃ t, exec (.amsg 2 3) amO = .next t) ∧
    (∃ t, exec (.amsg 2 3) (S 2 0x100000000 base) = .next t) ∧
    (∃ t, exec (.amsg 2 127) (am 0) = .next t) ∧
    (∃ t, exec (.amsg 2 3) (am 9) = .next t) ∧
    (∃ t, exec (.activeMessageArrival (msgOf am1 10)) am1 = .next t) ∧
    (∃ t, exec (.activeMessageArrival (msgOf amP 10)) amP = .next t) ∧
    (∃ t, exec (.activeMessageArrival (msgOf amC 10)) amC = .next t) ∧
    (∃ t, exec (.activeMessageArrival (msgOf am0 10)) am0 = .next t) ∧
    (∃ t, exec (.activeMessageArrival (msgOf am9 10)) am9 = .next t) := by
  refine ⟨?_, ?_, ?_, ?_, ?_, ?_, ?_, ?_, ?_, ?_, ?_, ?_⟩
  · obtain ⟨_, _, h, _⟩ := ((H (am 0)).1 2 3 (G (am 0)) (P (am 0)) ad).1 dd dd dd (Or.inl dd) |>.1 dd dd
    exact ⟨_, h⟩
  · obtain ⟨_, _, h, _⟩ := ((H amN).1 2 3 (G amN) (P amN) ad).1 dd dd dd (Or.inl dd) |>.1 dd dd
    exact ⟨_, h⟩
  · exact ⟨_, ((H amF).1 2 3 (G amF) (P amF) ad).1 dd dd dd (Or.inl dd) |>.2.1 dd dd⟩
  · exact ⟨_, ((H amO).1 2 3 (G amO) (P amO) ad).1 dd dd dd (Or.inl dd) |>.2.2 dd⟩
  · exact ⟨_, ((H (S 2 0x100000000 base)).1 2 3 (G (S 2 0x100000000 base)) (P (S 2 0x100000000 base)) ad).2 oo |>.1 (Or.inr dd)⟩
  · exact ⟨_, ((H (am 0)).1 2 127 (G (am 0)) (P (am 0)) ad).2 oo |>.2.1 dd dd dd⟩
  · exact ⟨_, ((H (am 9)).1 2 3 (G (am 9)) (P (am 9)) ad).2 oo |>.2.2 dd dd dd (by decide +kernel)⟩
  · obtain ⟨_, _, h, _⟩ := ((H am1).2.1 (msgOf am1 10) (opOf am1 10) (by unfold OnItsWay; decide +kernel) dd).1 dd ⟨{ entry := 0x10000, frbase := 0, grid := 0, cohort := 0, team := 0, regs := 128, valid := true }, dd, dd⟩
    exact ⟨_, h⟩
  · obtain ⟨_, _, h, _⟩ := ((H amP).2.1 (msgOf amP 10) (opOf amP 10) (by unfold OnItsWay; decide +kernel) dd).1 dd ⟨{ entry := 0x10000, frbase := 0, grid := 0, cohort := 0, team := 0, regs := 128, valid := true }, dd, dd⟩
    exact ⟨_, h⟩
  · obtain ⟨_, h, _⟩ := ((H amC).2.1 (msgOf amC 10) (opOf amC 10) (by unfold OnItsWay; decide +kernel) dd).2.1 dd
    exact ⟨_, h⟩
  · obtain ⟨_, h, _⟩ := ((H am0).2.1 (msgOf am0 10) (opOf am0 10) (by unfold OnItsWay; decide +kernel) dd).2.2 dd (by rintro ⟨t, h, _⟩; revert h; rw [show taskOf am0 (opOf am0 10).ctx (msgOf am0 10).idx = none from by decide +kernel]; simp)
    exact ⟨_, h⟩
  · obtain ⟨_, h, _⟩ := ((H am9).2.2 (msgOf am9 10) (opOf am9 10) (by unfold OnItsWay; decide +kernel) dd).2 dd
    exact ⟨_, h⟩

theorem test_activeMessages_meets_2 (H : Obligations.ActiveMessages) :
    (∃ t, exec (.activeMessageArrival (msgOf am9d 10)) am9d = .next t) := by
  · exact ⟨_, ((H am9d).2.2 (msgOf am9d 10) (opOf am9d 10) (by unfold OnItsWay; decide +kernel) dd).1 dd⟩

theorem test_wireGroupTurns_meets (H : Obligations.WireGroupTurns) :
    (∃ t, exec (.dturn 1 2 0) (bnd alM 0x301) = .next t) ∧
    (∃ t, exec (.dturn 1 2 0) (bnd (fun d => { alM d with queue := [trn none, trn none] }) 0x301) = .next t) ∧
    (∃ t, exec (.dturn 1 2 0) (bnd alM 1) = .next t) ∧
    (∃ t, exec (.dturn 1 2 0) (bnd id 0x301) = .next t) ∧
    (∃ t, exec (.dturn 1 2 1) (bnd alM 1) = .next t) ∧
    (∃ t, exec (.dturn 1 2 2) (S 1 4 (bnd id 1)) = .next t) ∧
    (∃ t, exec (.turnStart 1) (bnd (fun d => { alM d with queue := [trn none] }) 0) = .next t) ∧
    (∃ t, exec (.turnEnd 1 48) tE = .next t) := by
  refine ⟨?_, ?_, ?_, ?_, ?_, ?_, ?_, ?_⟩
  · exact ⟨_, ((H 1 2 (bnd alM 0x301) (G (bnd alM 0x301)) (P base)).1 ad).1 (by decide +kernel) dd (by decide +kernel)⟩
  · exact ⟨_, ((H 1 2 (bnd (fun d => { alM d with queue := [trn none, trn none] }) 0x301) (G (bnd (fun d => { alM d with queue := [trn none, trn none] }) 0x301)) (P base)).1 ad).2.1 (by decide +kernel) dd (by decide +kernel)⟩
  · exact ⟨_, ((H 1 2 (bnd alM 1) (G (bnd alM 1)) (P base)).1 ad).2.2.2 oo |>.1 (by decide +kernel)⟩
  · exact ⟨_, ((H 1 2 (bnd id 0x301) (G (bnd id 0x301)) (P base)).1 ad).2.2.2 oo |>.2 (by decide +kernel) dd⟩
  · exact ⟨_, ((H 1 2 (bnd alM 1) (G (bnd alM 1)) (P base)).1 ad).2.2.1 dd⟩
  · exact ⟨_, (H 1 2 (S 1 4 (bnd id 1)) (G (S 1 4 (bnd id 1))) (P base)).2.1 ad dd⟩
  · obtain ⟨_, _, h, _⟩ := (H 1 2 (bnd (fun d => { alM d with queue := [trn none] }) 0) (G base) (P base)).2.2.1 1 (trn none) [] dd dd dd
    exact ⟨_, h⟩
  · obtain ⟨_, _, h, _⟩ := (H 1 2 tE (G base) (P base)).2.2.2 1 48 (trn (some [48])) [] [48] 5 dd dd dd dd dd
    exact ⟨_, h⟩

/-! States and operands for QueueCommands, ContextCommands, GrantCommands, DeviceCommands. -/

noncomputable def hq0 : KQueue := { ctx := 0, anchor := 0x30000, st := .running, doneSeq := 0, donePtr := 0x31000, cqSeq := 0, busy := none, pend := [] }
noncomputable def cm (op fl : Nat) (l : List Nat) : Cmd := { q := 7, seq := 1, ptr := 0x31080, op := op, flags := fl, args := l ++ List.replicate (12 - l.length) 0 }
/-- The nonzero bytes of 64-bit words placed 8 bytes apart from `a` on. -/
noncomputable def words64 (m : SMap Byte) (a : Nat) : List Nat → SMap Byte
  | [] => m
  | 0 :: t => words64 m (a + 8) t
  | x :: t => words64 (putBytes m a (bytesLE (x.log2 / 8 + 1) x)) (a + 8) t
noncomputable def hmem (op fl : Nat) (l : List Nat) : SMap Byte :=
  words64 [] 0x30000 [0x31080, 1, 0x32000, 16] |> fun m => words64 m 0x31008 [0x31080] |> fun m => words64 m 0x31080 ([1, 0, op + 2 ^ 16 * fl, 0] ++ l)
/-- A host queue whose next record is the command. -/
noncomputable def hq (op fl : Nat) (l : List Nat) (f : State → State := id) : State := f { base with queues := [(7, hq0)], mem := hmem op fl l }
noncomputable def st (x : CSt) (s : State) : State := s.modCtx 1 fun c => { c with st := x }
/-- A page table that gives 0x10000 for reading. -/
noncomputable def pt (s : State) : State := { s.modCtx 1 (fun x => { x with ptTop := some 0x20000 }) with
  mem := putBytes (putBytes (putBytes (putBytes (putBytes s.mem 0x20000 (bytesLE 8 0x21001)) 0x21000 (bytesLE 8 0x22001)) 0x22000 (bytesLE 8 0x23001)) 0x23000 (bytesLE 8 0x24001)) 0x24080 (bytesLE 8 0x10105) }
noncomputable def noG (s : State) : State := { s with groups := [] }
noncomputable def free0 (s : State) : State := { s with quads := [] }
noncomputable def img : Image := { grps := [], quads := [(0, { Quad.reset with owner := 1 })], parts := [(0, 77)], cores := [] }
noncomputable def withImg (s : State) : State := noG (s.modCtx 1 fun x => { x with image := some img })
/-- A block: one cohort, one team, one group, 128 registers. -/
noncomputable def blkB (entry : Nat) : List Byte := bytesLE 8 entry ++ bytesLE 4 1 ++ bytesLE 1 1 ++ bytesLE 1 1 ++ bytesLE 1 128 ++ bytesLE 1 0 
noncomputable def blkX (entry : Nat) : List Byte := blkB entry ++ List.replicate 240 0
noncomputable def blkS (entry : Nat) (s : State) : State := let t := pt s
  { t with mem := putBytes t.mem 0x10200 (blkB entry) }
noncomputable def fault0 : FaultR := { ctx := 1, va := 0x20000, size := 0, kind := 0, acc := 1, paths := [(1, 0)], ops := [], frames := [], claims := [] }
noncomputable def flt (s : State) : State := (onP (fun p => { p with cond := .parked 1 }) s).modDie 0 fun d => { d with faults := [(2, fault0)] }

noncomputable def hqc : KQueue := ((consume (cm 13 0 [0x30000, 0x31000, 9]) (hq 13 0 [0x30000, 0x31000, 9])).queues.find? 7).getD hq0
noncomputable def kn0 : Kernel := { ctx := 1, q := 7, seq := 1, grid := 5, st := .finishing, entry := 0, cohorts := 1, teams := 1, groups := 1, regs := 8, coop := false, troupe := false, fpmode := 0, frbase := 0, frsize := 0, stack := 0, stacksize := 0, args := [], roles := [], divbase := 0, left := 0, gids := [] }
noncomputable def kdS : State := { hq 0 0 [] with queues := [(7, { hq0 with cqSeq := 16 })], kernels := [(3, kn0)] }
noncomputable def bsS : State := { hq 2 0 [] with mem := putBytes (hmem 2 0 []) 0x31080 (bytesLE 8 3) }
noncomputable def dbS (n : Nat) : State := { hq 2 0 [] with queues := [(7, { hq0 with st := .idle })] }
noncomputable def rqS : State := { base with mem := putBytes [] 0x30000 (bytesLE 8 0x31080 ++ bytesLE 8 0 ++ bytesLE 8 0x32000 ++ bytesLE 4 16) }
noncomputable def shS : State := { hq 7 0 [1, 0, 2] with queues := [(7, { hq0 with busy := some (cm 7 0 [1, 0, 2]) })] }

theorem test_queueCommands_meets (H : Obligations.QueueCommands) :
    (∃ t, exec (.create (cm 1 0 [0, 0, 0, 0, 1])) (hq 1 0 [0, 0, 0, 0, 1]) = .next t) ∧
    (∃ t, exec (.badcmd (cm 0 0 [])) (hq 0 0 []) = .next t) ∧
    (∃ t, exec (.kernelDone 3) kdS = .next t) ∧
    (∃ t, exec (.badseq 7) bsS = .next t) ∧
    (∃ t, exec (.badseq 7) bsS = .next t) ∧
    (∃ t, exec (.doorbell 0) (dbS 1) = .next t) ∧
    (∃ t, exec (.doorbell 3) base = .next t) ∧
    (∃ t, exec (.resync (cm 13 0 [0x38000, 0x31000, 9])) (hq 13 0 [0x38000, 0x31000, 9] (fun s => { s with queues := s.queues.put 8 { hq0 with anchor := 0x38000, st := .stopped } })) = .next t) ∧
    (∃ t, exec (.resync (cm 13 0 [0x30000, 0x31000, 9])) (hq 13 0 [0x30000, 0x31000, 9]) = .next t) := by
  refine ⟨?_, ?_, ?_, ?_, ?_, ?_, ?_, ?_, ?_⟩
  · exact ⟨_, H.1 (cm 1 0 [0, 0, 0, 0, 1]) (hq 1 0 [0, 0, 0, 0, 1]) dd dd dd (Or.inl dd) (by intro h; revert h; decide +kernel)⟩
  · obtain ⟨_, _, _, h, _⟩ := (H.2.1 (cm 0 0 []) (hq 0 0 []) hq0 dd (Or.inl rfl) dd dd)
    exact ⟨_, h⟩
  · obtain ⟨_, _, h, _⟩ := H.2.2.1 3 kn0 kdS ((kdS.queues.find? 7).getD hq0) dd dd dd dd dd (by unfold ringRoom; decide +kernel)
    exact ⟨_, h⟩
  · obtain ⟨_, h, _⟩ := H.2.2.2.1 7 bsS hq0 ((qNext bsS 7).getD (cm 0 0 [], 0)).1 0 dd dd dd dd
    exact ⟨_, h⟩
  · obtain ⟨_, _, h, _⟩ := H.2.2.2.2.1 7 bsS hq0 ((qNext bsS 7).getD (cm 0 0 [], 0)).1 0 dd dd dd
    exact ⟨_, h⟩
  · obtain ⟨_, h, _⟩ := H.2.2.2.2.2.1 0 7 (dbS 1) { hq0 with st := .idle } dd dd dd dd dd dd
    exact ⟨_, h⟩
  · obtain ⟨_, h, _⟩ := H.2.2.2.2.2.2.1 3 base (by unfold Served; decide +kernel) dd ⟨dd, dd⟩
    exact ⟨_, h⟩
  · obtain ⟨_, h, _⟩ := (H.2.2.2.2.2.2.2 (cm 13 0 [0x38000, 0x31000, 9]) (hq 13 0 [0x38000, 0x31000, 9] (fun s => { s with queues := s.queues.put 8 { hq0 with anchor := 0x38000, st := .stopped } })) hqc { hq0 with anchor := 0x38000, st := .stopped } 8 ⟨dd, dd, dd, dd⟩ dd dd).2 dd dd dd
    exact ⟨_, h⟩
  · exact ⟨_, (H.2.2.2.2.2.2.2 (cm 13 0 [0x30000, 0x31000, 9]) (hq 13 0 [0x30000, 0x31000, 9]) hqc hqc 7 ⟨dd, dd, dd, dd⟩ dd dd).1 dd⟩

theorem test_contextCommands_meets_1 (H : Obligations.ContextCommands) :
    (∃ t, exec (.switch (cm 9 0 [0])) (hq 9 0 [0]) = .next t) ∧
    (∃ t, exec (.switch (cm 9 0 [7])) (hq 9 0 [7]) = .next t) ∧
    (∃ t, exec (.create (cm 1 0 [2, 1, 0x40000, 65])) (hq 1 0 [2, 1, 0x40000, 65]) = .next t) ∧
    (∃ t, exec (.create (cm 1 0 [1, 1, 0x40000, 64])) (hq 1 0 [1, 1, 0x40000, 64]) = .next t) ∧
    (∃ t, exec (.create (cm 1 0 [2, 1, 0x40000, 64])) (hq 1 0 [2, 1, 0x40000, 64]) = .next t) ∧
    (∃ t, exec (.regkernel (cm 2 0 [1, 0x10100, 16])) (hq 2 0 [1, 0x10100, 16] (fun s => pt (st .created s))) = .next t) ∧
    (∃ t, exec (.regkernel (cm 2 0 [1, 0x20100, 16])) (hq 2 0 [1, 0x20100, 16] (fun s => pt (st .created s))) = .next t) ∧
    (∃ t, exec (.regregion (cm 3 0 [1, 0x200000, 0x200000, 5])) (hq 3 0 [1, 0x200000, 0x200000, 5] (st .loading)) = .next t) ∧
    (∃ t, exec (.regregion (cm 3 0 [1, 0x200001, 0x200000, 5])) (hq 3 0 [1, 0x200001, 0x200000, 5] (st .loading)) = .next t) ∧
    (∃ t, exec (.regtask (cm 4 0 [1, 5, 0x10000, 0, 0, 422212465065984])) (hq 4 0 [1, 5, 0x10000, 0, 0, 422212465065984]) = .next t) ∧
    (∃ t, exec (.regtask (cm 4 0 [1, 5, 0x10001, 0, 0, 422212465065984])) (hq 4 0 [1, 5, 0x10001, 0, 0, 422212465065984]) = .next t) ∧
    (∃ t, exec (.regtask (cm 4 0 [1, 5, 0x10000, 0, 0, 422212465065984])) (hq 4 0 [1, 5, 0x10000, 0, 0, 422212465065984] (fun s => s.modCtx 1 fun x => { x with attested := true })) = .next t) := by
  refine ⟨?_, ?_, ?_, ?_, ?_, ?_, ?_, ?_, ?_, ?_, ?_, ?_⟩
  · exact ⟨_, (H (cm 9 0 [0]) (hq 9 0 [0])).1 (9, .switch (cm 9 0 [0])) (by simp [namesContext]) ⟨dd, dd, dd, dd⟩ |>.1 (by unfold numberBad; decide +kernel)⟩
  · exact ⟨_, (H (cm 9 0 [7]) (hq 9 0 [7])).1 (9, .switch (cm 9 0 [7])) (by simp [namesContext]) ⟨dd, dd, dd, dd⟩ |>.2 (by unfold numberBad; decide +kernel) dd⟩
  · exact ⟨_, (H (cm 1 0 [2, 1, 0x40000, 65]) (hq 1 0 [2, 1, 0x40000, 65])).2.1 ⟨dd, dd, dd, dd⟩ |>.1 (by rintro ⟨_, _, _, _, _, j, h1, h2, h3⟩; interval_cases j <;> revert h3 <;> decide +kernel)⟩
  · exact ⟨_, (H (cm 1 0 [1, 1, 0x40000, 64]) (hq 1 0 [1, 1, 0x40000, 64])).2.1 ⟨dd, dd, dd, dd⟩ |>.2.1 ⟨(by unfold numberBad; decide +kernel), dd, dd, dd, dd, 6, dd, dd, dd⟩ dd⟩
  · obtain ⟨_, h, _⟩ := (H (cm 1 0 [2, 1, 0x40000, 64]) (hq 1 0 [2, 1, 0x40000, 64])).2.1 ⟨dd, dd, dd, dd⟩ |>.2.2 ⟨(by unfold numberBad; decide +kernel), dd, dd, dd, dd, 6, dd, dd, dd⟩ dd
    exact ⟨_, h⟩
  · exact ⟨_, (H (cm 2 0 [1, 0x10100, 16]) (hq 2 0 [1, 0x10100, 16] (fun s => pt (st .created s)))).2.2.1 (((consume (cm 2 0 [1, 0x10100, 16]) (hq 2 0 [1, 0x10100, 16] (fun s => pt (st .created s)))).ctx? 1).getD loadedCtx) ((ctxRead (consume (cm 2 0 [1, 0x10100, 16]) (hq 2 0 [1, 0x10100, 16] (fun s => pt (st .created s)))) 1 0x10100 16).getD []) ⟨dd, dd, dd, dd⟩ ⟨(by unfold numberBad; decide +kernel), dd, dd⟩ dd dd |>.1 dd⟩
  · exact ⟨_, (H (cm 2 0 [1, 0x20100, 16]) (hq 2 0 [1, 0x20100, 16] (fun s => pt (st .created s)))).2.2.1 (((consume (cm 2 0 [1, 0x20100, 16]) (hq 2 0 [1, 0x20100, 16] (fun s => pt (st .created s)))).ctx? 1).getD loadedCtx) [] ⟨dd, dd, dd, dd⟩ ⟨(by unfold numberBad; decide +kernel), dd, dd⟩ dd dd |>.2 dd⟩
  · obtain ⟨_, h, _⟩ := (H (cm 3 0 [1, 0x200000, 0x200000, 5]) (hq 3 0 [1, 0x200000, 0x200000, 5] (st .loading))).2.2.2.1 (((consume (cm 3 0 [1, 0x200000, 0x200000, 5]) (hq 3 0 [1, 0x200000, 0x200000, 5] (st .loading))).ctx? 1).getD loadedCtx) ⟨dd, dd, dd, dd⟩ ⟨(by unfold numberBad; decide +kernel), dd, dd⟩ |>.2 ⟨dd, dd, dd, dd, dd⟩
    exact ⟨_, h⟩
  · exact ⟨_, (H (cm 3 0 [1, 0x200001, 0x200000, 5]) (hq 3 0 [1, 0x200001, 0x200000, 5] (st .loading))).2.2.2.1 (((consume (cm 3 0 [1, 0x200001, 0x200000, 5]) (hq 3 0 [1, 0x200001, 0x200000, 5] (st .loading))).ctx? 1).getD loadedCtx) ⟨dd, dd, dd, dd⟩ ⟨(by unfold numberBad; decide +kernel), dd, dd⟩ |>.1 (by decide +kernel)⟩
  · obtain ⟨_, _, h, _⟩ := (H (cm 4 0 [1, 5, 0x10000, 0, 0, 422212465065984]) (hq 4 0 [1, 5, 0x10000, 0, 0, 422212465065984])).2.2.2.2.1 (((consume (cm 4 0 [1, 5, 0x10000, 0, 0, 422212465065984]) (hq 4 0 [1, 5, 0x10000, 0, 0, 422212465065984])).ctx? 1).getD loadedCtx) ⟨dd, dd, dd, dd⟩ ⟨(by unfold numberBad; decide +kernel), dd, dd⟩ |>.2.2 ⟨dd, dd, dd, dd, dd, dd, dd⟩ (Or.inl dd)
    exact ⟨_, h⟩
  · exact ⟨_, (H (cm 4 0 [1, 5, 0x10001, 0, 0, 422212465065984]) (hq 4 0 [1, 5, 0x10001, 0, 0, 422212465065984])).2.2.2.2.1 (((consume (cm 4 0 [1, 5, 0x10001, 0, 0, 422212465065984]) (hq 4 0 [1, 5, 0x10001, 0, 0, 422212465065984])).ctx? 1).getD loadedCtx) ⟨dd, dd, dd, dd⟩ ⟨(by unfold numberBad; decide +kernel), dd, dd⟩ |>.1 (by decide +kernel)⟩
  · exact ⟨_, (H (cm 4 0 [1, 5, 0x10000, 0, 0, 422212465065984]) (hq 4 0 [1, 5, 0x10000, 0, 0, 422212465065984] (fun s => s.modCtx 1 fun x => { x with attested := true }))).2.2.2.2.1 (((consume (cm 4 0 [1, 5, 0x10000, 0, 0, 422212465065984]) (hq 4 0 [1, 5, 0x10000, 0, 0, 422212465065984] (fun s => s.modCtx 1 fun x => { x with attested := true }))).ctx? 1).getD loadedCtx) ⟨dd, dd, dd, dd⟩ ⟨(by unfold numberBad; decide +kernel), dd, dd⟩ |>.2.1 ⟨dd, dd, dd, dd, dd, dd, dd⟩ (by rintro (h | ⟨k, hk, _⟩); revert h; decide +kernel; rw [show ((((consume (cm 4 0 [1, 5, 0x10000, 0, 0, 422212465065984]) (hq 4 0 [1, 5, 0x10000, 0, 0, 422212465065984] (fun s => s.modCtx 1 fun x => { x with attested := true }))).ctx? 1).getD loadedCtx)).kregs = [] from by decide +kernel] at hk; cases hk)⟩

theorem test_contextCommands_meets_2 (H : Obligations.ContextCommands) :
    (∃ t, exec (.regqueue (cm 5 0 [1, 0x10100])) (hq 5 0 [1, 0x10100] (fun s => let t := pt s; { t with mem := putBytes (putBytes t.mem 0x10100 (bytesLE 8 0x10200 ++ bytesLE 8 0 ++ bytesLE 8 0x10400 ++ bytesLE 4 16)) 0x24080 (bytesLE 8 0x1010d) })) = .next t) ∧
    (∃ t, exec (.regqueue (cm 5 0 [0, 0x30000])) rqS = .next t) ∧
    (∃ t, exec (.resume (cm 8 0 [1])) (hq 8 0 [1] (fun s => free0 (noG (st .loading s)))) = .next t) ∧
    (∃ t, exec (.resume (cm 8 0 [1])) (hq 8 0 [1] (fun s => noG (st .loading s))) = .next t) ∧
    (∃ t, exec (.resume (cm 8 0 [1])) (hq 8 0 [1] (fun s => withImg (st .saved s))) = .next t) ∧
    (∃ t, exec (.switch (cm 9 0 [1])) (hq 9 0 [1]) = .next t) ∧
    (∃ t, exec (.migrate (cm 10 0 [1, 0x9000])) (hq 10 0 [1, 0x9000] (st .saved)) = .next t) ∧
    (∃ t, exec (.migrate (cm 10 0 [1, 0x9000])) (hq 10 0 [1, 0x9000]) = .next t) ∧
    (∃ t, exec (.destroy (cm 11 0 [1])) (hq 11 0 [1]) = .next t) ∧
    (∃ t, exec (.destroy (cm 11 0 [1])) (hq 11 0 [1] (st .saved)) = .next t) := by
  refine ⟨?_, ?_, ?_, ?_, ?_, ?_, ?_, ?_, ?_, ?_⟩
  · exact ⟨_, (H (cm 5 0 [1, 0x10100]) (hq 5 0 [1, 0x10100] (fun s => let t := pt s; { t with mem := putBytes (putBytes t.mem 0x10100 (bytesLE 8 0x10200 ++ bytesLE 8 0 ++ bytesLE 8 0x10400 ++ bytesLE 4 16)) 0x24080 (bytesLE 8 0x1010d) }))).2.2.2.2.2.2.1 ((newQueue (consume (cm 5 0 [1, 0x10100]) (hq 5 0 [1, 0x10100] (fun s => let t := pt s; { t with mem := putBytes (putBytes t.mem 0x10100 (bytesLE 8 0x10200 ++ bytesLE 8 0 ++ bytesLE 8 0x10400 ++ bytesLE 4 16)) 0x24080 (bytesLE 8 0x1010d) }))) 1 0x10100).getD hq0) (((consume (cm 5 0 [1, 0x10100]) (hq 5 0 [1, 0x10100] (fun s => let t := pt s; { t with mem := putBytes (putBytes t.mem 0x10100 (bytesLE 8 0x10200 ++ bytesLE 8 0 ++ bytesLE 8 0x10400 ++ bytesLE 4 16)) 0x24080 (bytesLE 8 0x1010d) }))).ctx? 1).getD loadedCtx) ⟨dd, dd, dd, dd⟩ ⟨(by unfold numberBad; decide +kernel), dd, dd⟩ dd dd dd dd dd⟩
  · obtain ⟨_, _, h, _⟩ := (H (cm 5 0 [0, 0x30000]) rqS).2.2.2.2.2.1 dd dd dd dd dd dd dd dd dd ⟨4, dd, dd, dd⟩
    exact ⟨_, h⟩
  · exact ⟨_, (H (cm 8 0 [1]) (hq 8 0 [1] (fun s => free0 (noG (st .loading s))))).2.2.2.2.2.2.2.1 (((consume (cm 8 0 [1]) (hq 8 0 [1] (fun s => free0 (noG (st .loading s))))).ctx? 1).getD loadedCtx) ⟨dd, dd, dd, dd⟩ ⟨(by unfold numberBad; decide +kernel), dd, dd⟩ |>.1 dd (by intro q h; have : ∀ q < 768, ((consume (cm 8 0 [1]) (hq 8 0 [1] (fun s => free0 (noG (st .loading s))))).quad q).owner ≠ 1 := (by decide +kernel); exact this q h)⟩
  · obtain ⟨_, h, _⟩ := (H (cm 8 0 [1]) (hq 8 0 [1] (fun s => noG (st .loading s)))).2.2.2.2.2.2.2.1 (((consume (cm 8 0 [1]) (hq 8 0 [1] (fun s => noG (st .loading s)))).ctx? 1).getD loadedCtx) ⟨dd, dd, dd, dd⟩ ⟨(by unfold numberBad; decide +kernel), dd, dd⟩ |>.2.1 dd ⟨0, dd, dd⟩ dd dd dd dd dd (noAllot dd)
    exact ⟨_, h⟩
  · obtain ⟨_, h, _⟩ := (H (cm 8 0 [1]) (hq 8 0 [1] (fun s => withImg (st .saved s)))).2.2.2.2.2.2.2.1 (((consume (cm 8 0 [1]) (hq 8 0 [1] (fun s => withImg (st .saved s)))).ctx? 1).getD loadedCtx) ⟨dd, dd, dd, dd⟩ ⟨(by unfold numberBad; decide +kernel), dd, dd⟩ |>.2.2 dd img dd dd dd (noAllot dd) dd dd
    exact ⟨_, h⟩
  · exact ⟨_, (H (cm 9 0 [1]) (hq 9 0 [1])).2.2.2.2.2.2.2.2.1 (((consume (cm 9 0 [1]) (hq 9 0 [1])).ctx? 1).getD loadedCtx) ⟨dd, dd, dd, dd⟩ ⟨(by unfold numberBad; decide +kernel), dd, dd⟩⟩
  · exact ⟨_, (H (cm 10 0 [1, 0x9000]) (hq 10 0 [1, 0x9000] (st .saved))).2.2.2.2.2.2.2.2.2.1 (((consume (cm 10 0 [1, 0x9000]) (hq 10 0 [1, 0x9000] (st .saved))).ctx? 1).getD loadedCtx) ⟨dd, dd, dd, dd⟩ ⟨(by unfold numberBad; decide +kernel), dd, dd⟩⟩
  · exact ⟨_, (H (cm 10 0 [1, 0x9000]) (hq 10 0 [1, 0x9000])).2.2.2.2.2.2.2.2.2.2.1 (((consume (cm 10 0 [1, 0x9000]) (hq 10 0 [1, 0x9000])).ctx? 1).getD loadedCtx) ⟨dd, dd, dd, dd⟩ ⟨(by unfold numberBad; decide +kernel), dd, dd⟩⟩
  · exact ⟨_, (H (cm 11 0 [1]) (hq 11 0 [1])).2.2.2.2.2.2.2.2.2.2.2.1 (((consume (cm 11 0 [1]) (hq 11 0 [1])).ctx? 1).getD loadedCtx) ⟨dd, dd, dd, dd⟩ ⟨(by unfold numberBad; decide +kernel), dd, dd⟩⟩
  · obtain ⟨_, h, _⟩ := (H (cm 11 0 [1]) (hq 11 0 [1] (st .saved))).2.2.2.2.2.2.2.2.2.2.2.2 (((consume (cm 11 0 [1]) (hq 11 0 [1] (st .saved))).ctx? 1).getD loadedCtx) ⟨dd, dd, dd, dd⟩ ⟨(by unfold numberBad; decide +kernel), dd, dd⟩
    exact ⟨_, h⟩

theorem test_grantCommands_meets_1 (H : Obligations.GrantCommands) :
    (∃ t, exec (.grant (cm 6 0 [1, 0, 1])) (hq 6 0 [1, 0, 1] (fun s => (st .saved s).modQuad 0 fun q => { q with owner := 2 })) = .next t) ∧
    (∃ t, exec (.grant (cm 6 0 [1, 0, 1])) (hq 6 0 [1, 0, 1] (fun s => { st .saved s with ctxs := (st .saved s).ctxs.map (fun x => (x.1, { x.2 with net := [] })) ++ (List.range 15).map fun i => (2 + i, { loadedCtx with net := [(0, i)] }) })) = .next t) ∧
    (∃ t, exec (.grant (cm 6 0 [1, 0, 2])) (hq 6 0 [1, 0, 2] (st .saved)) = .next t) ∧
    (∃ t, exec (.grant (cm 6 0 [1, 1, 2])) (hq 6 0 [1, 1, 2] (st .saved)) = .next t) ∧
    (∃ t, exec (.grant (cm 6 0 [1, 0, 2])) (hq 6 0 [1, 0, 2]) = .next t) ∧
    (∃ t, exec (.shrink (cm 7 0 [1, 0, 1])) (hq 7 0 [1, 0, 1] (st .saved)) = .next t) ∧
    (∃ t, exec (.shrink (cm 7 0 [1, 0, 1])) (hq 7 0 [1, 0, 1] (fun s => { s with reqs := [(9, { ctx := 1, core := 0, die := 0, kind := .team 5, gids := [1], placed := true, queued := false, headAt := none, since := 0, coop := true })] })) = .next t) ∧
    (∃ t, exec (.shrink (cm 7 0 [1, 0, 1])) (hq 7 0 [1, 0, 1]) = .next t) ∧
    (∃ t, exec (.shrink (cm 7 0 [1, 0, 2])) shS = .next t) ∧
    (∃ t, exec (.setbanks (cm 14 0 [1, 0, 64, 0])) (hq 14 0 [1, 0, 64, 0]) = .next t) ∧
    (∃ t, exec (.setbanks (cm 14 0 [1, 0, 2, 1])) (hq 14 0 [1, 0, 2, 1]) = .next t) ∧
    (∃ t, exec (.setbanks (cm 14 0 [1, 0, 2, 0])) (hq 14 0 [1, 0, 2, 0]) = .next t) := by
  refine ⟨?_, ?_, ?_, ?_, ?_, ?_, ?_, ?_, ?_, ?_, ?_, ?_⟩
  · exact ⟨_, (H (cm 6 0 [1, 0, 1]) (hq 6 0 [1, 0, 1] (fun s => (st .saved s).modQuad 0 fun q => { q with owner := 2 })) (((consume (cm 6 0 [1, 0, 1]) (hq 6 0 [1, 0, 1] (fun s => (st .saved s).modQuad 0 fun q => { q with owner := 2 }))).ctx? 1).getD loadedCtx)).1 ⟨dd, dd, dd, dd⟩ dd ⟨(by unfold numberBad; decide +kernel), dd, dd⟩ |>.1 ⟨(0, 0), dd, dd, dd⟩⟩
  · exact ⟨_, (H (cm 6 0 [1, 0, 1]) (hq 6 0 [1, 0, 1] (fun s => { st .saved s with ctxs := (st .saved s).ctxs.map (fun x => (x.1, { x.2 with net := [] })) ++ (List.range 15).map fun i => (2 + i, { loadedCtx with net := [(0, i)] }) })) (((consume (cm 6 0 [1, 0, 1]) (hq 6 0 [1, 0, 1] (fun s => { st .saved s with ctxs := (st .saved s).ctxs.map (fun x => (x.1, { x.2 with net := [] })) ++ (List.range 15).map fun i => (2 + i, { loadedCtx with net := [(0, i)] }) }))).ctx? 1).getD loadedCtx)).1 ⟨dd, dd, dd, dd⟩ dd ⟨(by unfold numberBad; decide +kernel), dd, dd⟩ |>.2.1 dd dd dd dd⟩
  · obtain ⟨_, h, _⟩ := (H (cm 6 0 [1, 0, 2]) (hq 6 0 [1, 0, 2] (st .saved)) (((consume (cm 6 0 [1, 0, 2]) (hq 6 0 [1, 0, 2] (st .saved))).ctx? 1).getD loadedCtx)).1 ⟨dd, dd, dd, dd⟩ dd ⟨(by unfold numberBad; decide +kernel), dd, dd⟩ |>.2.2 dd dd 0 (Or.inl dd)
    exact ⟨_, h⟩
  · obtain ⟨_, h, _⟩ := (H (cm 6 0 [1, 1, 2]) (hq 6 0 [1, 1, 2] (st .saved)) (((consume (cm 6 0 [1, 1, 2]) (hq 6 0 [1, 1, 2] (st .saved))).ctx? 1).getD loadedCtx)).1 ⟨dd, dd, dd, dd⟩ dd ⟨(by unfold numberBad; decide +kernel), dd, dd⟩ |>.2.2 dd dd 0 (Or.inr ⟨dd, dd⟩)
    exact ⟨_, h⟩
  · obtain ⟨_, h, _⟩ := (H (cm 6 0 [1, 0, 2]) (hq 6 0 [1, 0, 2]) (((consume (cm 6 0 [1, 0, 2]) (hq 6 0 [1, 0, 2])).ctx? 1).getD loadedCtx)).1 ⟨dd, dd, dd, dd⟩ dd ⟨(by unfold numberBad; decide +kernel), dd, dd⟩ |>.2.2 dd dd 0 (Or.inl dd)
    exact ⟨_, h⟩
  · exact ⟨_, (H (cm 7 0 [1, 0, 1]) (hq 7 0 [1, 0, 1] (st .saved)) (((consume (cm 7 0 [1, 0, 1]) (hq 7 0 [1, 0, 1] (st .saved))).ctx? 1).getD loadedCtx)).2.1 ⟨dd, dd, dd, dd⟩ dd |>.1 ⟨(by unfold numberBad; decide +kernel), dd, dd⟩⟩
  · exact ⟨_, (H (cm 7 0 [1, 0, 1]) (hq 7 0 [1, 0, 1] (fun s => { s with reqs := [(9, { ctx := 1, core := 0, die := 0, kind := .team 5, gids := [1], placed := true, queued := false, headAt := none, since := 0, coop := true })] })) (((consume (cm 7 0 [1, 0, 1]) (hq 7 0 [1, 0, 1] (fun s => { s with reqs := [(9, { ctx := 1, core := 0, die := 0, kind := .team 5, gids := [1], placed := true, queued := false, headAt := none, since := 0, coop := true })] }))).ctx? 1).getD loadedCtx)).2.1 ⟨dd, dd, dd, dd⟩ dd |>.2.1 ⟨(by unfold numberBad; decide +kernel), dd, dd⟩ dd ⟨(9, { ctx := 1, core := 0, die := 0, kind := .team 5, gids := [1], placed := true, queued := false, headAt := none, since := 0, coop := true }), dd, dd⟩⟩
  · exact ⟨_, (H (cm 7 0 [1, 0, 1]) (hq 7 0 [1, 0, 1]) (((consume (cm 7 0 [1, 0, 1]) (hq 7 0 [1, 0, 1])).ctx? 1).getD loadedCtx)).2.1 ⟨dd, dd, dd, dd⟩ dd |>.2.2 ⟨(by unfold numberBad; decide +kernel), dd, dd⟩ dd dd dd⟩
  · obtain ⟨_, h, _⟩ := (H (cm 7 0 [1, 0, 2]) shS loadedCtx).2.2.1 { hq0 with busy := some (cm 7 0 [1, 0, 2]) } dd dd dd dd dd
    exact ⟨_, h⟩
  · exact ⟨_, (H (cm 14 0 [1, 0, 64, 0]) (hq 14 0 [1, 0, 64, 0]) (((consume (cm 14 0 [1, 0, 64, 0]) (hq 14 0 [1, 0, 64, 0])).ctx? 1).getD loadedCtx)).2.2.2.1 ⟨dd, dd, dd, dd⟩ ⟨(by unfold numberBad; decide +kernel), dd, dd⟩ |>.1 (by decide +kernel)⟩
  · exact ⟨_, (H (cm 14 0 [1, 0, 2, 1]) (hq 14 0 [1, 0, 2, 1]) (((consume (cm 14 0 [1, 0, 2, 1]) (hq 14 0 [1, 0, 2, 1])).ctx? 1).getD loadedCtx)).2.2.2.1 ⟨dd, dd, dd, dd⟩ ⟨(by unfold numberBad; decide +kernel), dd, dd⟩ |>.2.1 ⟨dd, dd, dd⟩ dd dd (Or.inl dd)⟩
  · obtain ⟨_, h, _⟩ := (H (cm 14 0 [1, 0, 2, 0]) (hq 14 0 [1, 0, 2, 0]) (((consume (cm 14 0 [1, 0, 2, 0]) (hq 14 0 [1, 0, 2, 0])).ctx? 1).getD loadedCtx)).2.2.2.1 ⟨dd, dd, dd, dd⟩ ⟨(by unfold numberBad; decide +kernel), dd, dd⟩ |>.2.2 ⟨dd, dd, dd⟩ dd dd dd (Or.inr dd)
    exact ⟨_, h⟩

theorem test_grantCommands_meets_2 (H : Obligations.GrantCommands) :
    (∃ t, exec (.setsort (cm 15 0 [1, 0, 2])) (hq 15 0 [1, 0, 2]) = .next t) ∧
    (∃ t, exec (.setsort (cm 15 0 [1, 0, 0])) (hq 15 0 [1, 0, 0]) = .next t) := by
  refine ⟨?_, ?_⟩
  · exact ⟨_, (H (cm 15 0 [1, 0, 2]) (hq 15 0 [1, 0, 2]) (((consume (cm 15 0 [1, 0, 2]) (hq 15 0 [1, 0, 2])).ctx? 1).getD loadedCtx)).2.2.2.2 ⟨dd, dd, dd, dd⟩ ⟨(by unfold numberBad; decide +kernel), dd, dd⟩ ⟨dd, dd, dd⟩ dd |>.1 dd⟩
  · obtain ⟨_, h, _⟩ := (H (cm 15 0 [1, 0, 0]) (hq 15 0 [1, 0, 0]) (((consume (cm 15 0 [1, 0, 0]) (hq 15 0 [1, 0, 0])).ctx? 1).getD loadedCtx)).2.2.2.2 ⟨dd, dd, dd, dd⟩ ⟨(by unfold numberBad; decide +kernel), dd, dd⟩ ⟨dd, dd, dd⟩ dd |>.2 dd
    exact ⟨_, h⟩

theorem test_deviceCommands_meets_1 (H : Obligations.DeviceCommands) :
    (∃ t, exec (.launch (cm 12 0 [1, 0x10200])) (hq 12 0 [1, 0x10200] (blkS 0x10001)) = .next t) ∧
    (∃ t, exec (.launch (cm 12 0 [1, 0x10200])) (hq 12 0 [1, 0x10200] (fun s => st .loading (blkS 0x10000 s))) = .next t) ∧
    (∃ t, exec (.launch (cm 12 0 [1, 0x10200])) (hq 12 0 [1, 0x10200] (fun s => (blkS 0x10000 s).modCtx 1 fun x => { x with attested := true })) = .next t) ∧
    (∃ t, exec (.launch (cm 12 0 [1, 0x10200])) (hq 12 0 [1, 0x10200] (blkS 0x10000)) = .next t) ∧
    (∃ t, exec (.resolve (cm 16 0 [0, 2])) (hq 16 0 [0, 2] (flt)) = .next t) ∧
    (∃ t, exec (.abort (cm 17 0 [0, 2])) (hq 17 0 [0, 2] (flt)) = .next t) ∧
    (∃ t, exec (.resolve (cm 16 0 [0, 3])) (hq 16 0 [0, 3] (flt)) = .next t) ∧
    (∃ t, exec (.abort (cm 17 0 [4, 2])) (hq 17 0 [4, 2] (flt)) = .next t) ∧
    (∃ t, exec (.alloc (cm 18 0 [0, 0, 0])) (hq 18 0 [0, 0, 0]) = .next t) ∧
    (∃ t, exec (.alloc (cm 18 0 [0, 2, 0])) (hq 18 0 [0, 2, 0]) = .next t) ∧
    (∃ t, exec (.free (cm 19 0 [0x50000, 0])) (hq 19 0 [0x50000, 0] (fun s => s.setPage 0x50000 .clean)) = .next t) ∧
    (∃ t, exec (.free (cm 19 0 [0x50000, 0])) (hq 19 0 [0x50000, 0] (fun s => s.setPage 0x50000 .allocated)) = .next t) := by
  refine ⟨?_, ?_, ?_, ?_, ?_, ?_, ?_, ?_, ?_, ?_, ?_, ?_⟩
  · exact ⟨_, (H (cm 12 0 [1, 0x10200]) (hq 12 0 [1, 0x10200] (blkS 0x10001))).1 (((consume (cm 12 0 [1, 0x10200]) (hq 12 0 [1, 0x10200] (blkS 0x10001))).ctx? 1).getD loadedCtx) (blkX 0x10001) ⟨dd, dd, dd, dd⟩ (by unfold numberBad; decide +kernel) dd dd dd |>.1 dd⟩
  · exact ⟨_, (H (cm 12 0 [1, 0x10200]) (hq 12 0 [1, 0x10200] (fun s => st .loading (blkS 0x10000 s)))).1 (((consume (cm 12 0 [1, 0x10200]) (hq 12 0 [1, 0x10200] (fun s => st .loading (blkS 0x10000 s)))).ctx? 1).getD loadedCtx) (blkX 0x10000) ⟨dd, dd, dd, dd⟩ (by unfold numberBad; decide +kernel) dd dd dd |>.2 [0] dd dd |>.1 dd dd⟩
  · exact ⟨_, (H (cm 12 0 [1, 0x10200]) (hq 12 0 [1, 0x10200] (fun s => (blkS 0x10000 s).modCtx 1 fun x => { x with attested := true }))).1 (((consume (cm 12 0 [1, 0x10200]) (hq 12 0 [1, 0x10200] (fun s => (blkS 0x10000 s).modCtx 1 fun x => { x with attested := true }))).ctx? 1).getD loadedCtx) (blkX 0x10000) ⟨dd, dd, dd, dd⟩ (by unfold numberBad; decide +kernel) dd dd dd |>.2 [0] dd dd |>.2.1 (Or.inl dd) dd ⟨0x10000, dd, dd⟩⟩
  · obtain ⟨_, _, h, _⟩ := (H (cm 12 0 [1, 0x10200]) (hq 12 0 [1, 0x10200] (blkS 0x10000))).1 (((consume (cm 12 0 [1, 0x10200]) (hq 12 0 [1, 0x10200] (blkS 0x10000))).ctx? 1).getD loadedCtx) (blkX 0x10000) ⟨dd, dd, dd, dd⟩ (by unfold numberBad; decide +kernel) dd dd dd |>.2 [0] dd dd |>.2.2 (Or.inl dd) (Or.inl dd) dd
    exact ⟨_, h⟩
  · obtain ⟨_, h, _⟩ := (H (cm 16 0 [0, 2]) (hq 16 0 [0, 2] (flt))).2.1 fault0 dd dd |>.1 ⟨dd, dd, dd, dd⟩
    exact ⟨_, h⟩
  · obtain ⟨_, h, _⟩ := (H (cm 17 0 [0, 2]) (hq 17 0 [0, 2] (flt))).2.1 fault0 dd dd |>.2 ⟨dd, dd, dd, dd⟩ dd dd dd dd (by intro x h; have : ((consume (cm 17 0 [0, 2]) (hq 17 0 [0, 2] (flt))).ctx? 1).map Ctx.replays = some [] := (by decide +kernel); change (consume (cm 17 0 [0, 2]) (hq 17 0 [0, 2] (flt))).ctx? 1 = some x at h; rw [h] at this; exact Option.some.inj this)
    exact ⟨_, h⟩
  · exact ⟨_, (H (cm 16 0 [0, 3]) (hq 16 0 [0, 3] (flt))).2.2.1 (Or.inr dd) |>.1 ⟨dd, dd, dd, dd⟩⟩
  · exact ⟨_, (H (cm 17 0 [4, 2]) (hq 17 0 [4, 2] (flt))).2.2.1 (Or.inl dd) |>.2 ⟨dd, dd, dd, dd⟩⟩
  · exact ⟨_, (H (cm 18 0 [0, 0, 0]) (hq 18 0 [0, 0, 0])).2.2.2.1 ⟨dd, dd, dd, dd⟩ dd dd dd |>.2 dd⟩
  · exact ⟨_, (H (cm 18 0 [0, 2, 0]) (hq 18 0 [0, 2, 0])).2.2.2.2.1 ⟨dd, dd, dd, dd⟩ (by decide +kernel)⟩
  · exact ⟨_, (H (cm 19 0 [0x50000, 0]) (hq 19 0 [0x50000, 0] (fun s => s.setPage 0x50000 .clean))).2.2.2.2.2.1 ⟨dd, dd, dd, dd⟩ dd dd dd |>.1 (Or.inl ⟨0x50000, dd, dd⟩)⟩
  · obtain ⟨_, h, _⟩ := (H (cm 19 0 [0x50000, 0]) (hq 19 0 [0x50000, 0] (fun s => s.setPage 0x50000 .allocated))).2.2.2.2.2.1 ⟨dd, dd, dd, dd⟩ dd dd dd |>.2 dd dd
    exact ⟨_, h⟩

theorem test_deviceCommands_meets_2 (H : Obligations.DeviceCommands) :
    (∃ t, exec (.dirtylog (cm 20 0 [1, 0x9001])) (hq 20 0 [1, 0x9001]) = .next t) ∧
    (∃ t, exec (.dirtylog (cm 20 0 [1, 0x9000])) (hq 20 0 [1, 0x9000]) = .next t) ∧
    (∃ t, exec (.setdomain (cm 21 0 [3, 0x9000])) (hq 21 0 [3, 0x9000]) = .next t) ∧
    (∃ t, exec (.setdomain (cm 21 0 [64, 0x9000])) (hq 21 0 [64, 0x9000]) = .next t) ∧
    (∃ t, exec (.setlinknet (cm 22 0 [3, 0x9000])) (hq 22 0 [3, 0x9000] (fun s => { s with mem := s.mem.set 0 0x900f 15 })) = .next t) ∧
    (∃ t, exec (.setlinknet (cm 22 0 [3, 0x9000])) (hq 22 0 [3, 0x9000]) = .next t) ∧
    (∃ t, exec (.bind (cm 23 0 [1, 9, 4])) (hq 23 0 [1, 9, 4]) = .next t) ∧
    (∃ t, exec (.allot (cm 24 0 [1, 2, 5])) (hq 24 0 [1, 2, 5]) = .next t) ∧
    (∃ t, exec (.allot (cm 24 0 [1, 2, 5])) (hq 24 0 [1, 2, 5] (fun s => s.modBound 2 fun d => { d with allots := [(4, 4)] })) = .next t) := by
  refine ⟨?_, ?_, ?_, ?_, ?_, ?_, ?_, ?_, ?_⟩
  · exact ⟨_, (H (cm 20 0 [1, 0x9001]) (hq 20 0 [1, 0x9001])).2.2.2.2.2.2.1 ⟨dd, dd, dd, dd⟩ |>.1 (Or.inr dd)⟩
  · exact ⟨_, (H (cm 20 0 [1, 0x9000]) (hq 20 0 [1, 0x9000])).2.2.2.2.2.2.1 ⟨dd, dd, dd, dd⟩ |>.2 (((consume (cm 20 0 [1, 0x9000]) (hq 20 0 [1, 0x9000])).ctx? 1).getD loadedCtx) (by unfold numberBad; decide +kernel) dd dd⟩
  · exact ⟨_, (H (cm 21 0 [3, 0x9000]) (hq 21 0 [3, 0x9000])).2.2.2.2.2.2.2.1 ⟨dd, dd, dd, dd⟩ |>.1 ⟨dd, (by intro i v h _; have : ∀ v ∈ ((consume (cm 21 0 [3, 0x9000]) (hq 21 0 [3, 0x9000])).bytes (locKey 0 0x9000) 64).map BitVec.toNat, v ≤ 11 := (by decide +kernel); exact Or.inl (this v (List.mem_of_getElem? h)))⟩⟩
  · exact ⟨_, (H (cm 21 0 [64, 0x9000]) (hq 21 0 [64, 0x9000])).2.2.2.2.2.2.2.1 ⟨dd, dd, dd, dd⟩ |>.2 (by rintro ⟨h, _⟩; revert h; decide +kernel)⟩
  · exact ⟨_, (H (cm 22 0 [3, 0x9000]) (hq 22 0 [3, 0x9000] (fun s => { s with mem := s.mem.set 0 0x900f 15 }))).2.2.2.2.2.2.2.2.1 ⟨dd, dd, dd, dd⟩ |>.1 ⟨dd, (by intro i v h hi; have : ∀ v ∈ ((((consume (cm 22 0 [3, 0x9000]) (hq 22 0 [3, 0x9000] (fun s => { s with mem := s.mem.set 0 0x900f 15 }))).bytes (locKey 0 0x9000) 16).map BitVec.toNat).take 15), v ≤ 14 := (by decide +kernel); exact this v (List.mem_of_getElem? ((List.getElem?_take_of_lt hi).trans h))), dd⟩⟩
  · exact ⟨_, (H (cm 22 0 [3, 0x9000]) (hq 22 0 [3, 0x9000])).2.2.2.2.2.2.2.2.1 ⟨dd, dd, dd, dd⟩ |>.2 (by rintro ⟨_, _, h⟩; revert h; decide +kernel)⟩
  · obtain ⟨_, h, _⟩ := (H (cm 23 0 [1, 9, 4]) (hq 23 0 [1, 9, 4])).2.2.2.2.2.2.2.2.2 (((consume (cm 23 0 [1, 9, 4]) (hq 23 0 [1, 9, 4])).ctx? 1).getD loadedCtx) ⟨(by unfold numberBad; decide +kernel), dd, dd⟩ |>.1 ⟨dd, dd, dd, dd⟩ dd dd
    exact ⟨_, h⟩
  · obtain ⟨_, h, _⟩ := (H (cm 24 0 [1, 2, 5]) (hq 24 0 [1, 2, 5])).2.2.2.2.2.2.2.2.2 (((consume (cm 24 0 [1, 2, 5]) (hq 24 0 [1, 2, 5])).ctx? 1).getD loadedCtx) ⟨(by unfold numberBad; decide +kernel), dd, dd⟩ |>.2 ⟨dd, dd, dd, dd⟩ dd |>.1 dd
    exact ⟨_, h⟩
  · exact ⟨_, (H (cm 24 0 [1, 2, 5]) (hq 24 0 [1, 2, 5] (fun s => s.modBound 2 fun d => { d with allots := [(4, 4)] }))).2.2.2.2.2.2.2.2.2 (((consume (cm 24 0 [1, 2, 5]) (hq 24 0 [1, 2, 5] (fun s => s.modBound 2 fun d => { d with allots := [(4, 4)] }))).ctx? 1).getD loadedCtx) ⟨(by unfold numberBad; decide +kernel), dd, dd⟩ |>.2 ⟨dd, dd, dd, dd⟩ dd |>.2 ⟨(4, 4), dd, dd, dd⟩⟩

/-! States and operands for HostPortWrites, BootAndPower. -/

noncomputable def hw (f : HostPort → HostPort) : State := { base with host := f base.host }
noncomputable def vf : State := { base with host := { base.host with imgSt := .verifying } }
noncomputable def cku (i : Option (List Byte)) : State := { base with boot := .checking, booting := i }
noncomputable def noRes : State := base.modCtx 1 fun x => { x with st := .saved }

noncomputable def cdF : State := let t := pt base
  t.modCtx 1 fun x => { x with attested := true, kregs := [(0x10000, 4096, [])] }

/-- A line of a bundle of context 1 that the tables place elsewhere now, with a previous version. -/
noncomputable def mvS : State := let t := (pt base).modDie 0 fun d => { d with dirs := [(2, { st := .committed, gen := 1, dom := 0, ctx := 1, gid := 1, ranges := [(0x10000, 1)], lines := [0x40000], wait := [], stamp := 3, op := 0 })] }
  { t with lines := t.lines.put 0x40000 { (t.line 0x40000) with stamp := 5, prev := some ([], 4, none) }, host := { t.host with invRun := some (1, 0x10000, 4096) } }

theorem test_hostPortWrites_meets_1 (H : Obligations.HostPortWrites) :
    (∃ t, exec (.eqlostClear 5) base = .next t) ∧
    (∃ t, exec (.h2ptail 5) base = .next t) ∧
    (∃ t, exec (.h2ptail 17) base = .next t) ∧
    (∃ t, exec (.mboxBaseWrite 0 5) base = .next t) ∧
    (∃ t, exec (.mboxBaseWrite 1 5) base = .next t) ∧
    (∃ t, exec (.eqHeadWrite 5) base = .next t) ∧
    (∃ t, exec (.eqHeadWrite 5) (hw fun h => { h with eqHeld := [(9, [3])], eqTail := 8 }) = .next t) ∧
    (∃ t, exec (.hostRegisterWrite 0x10 5) base = .next t) ∧
    (∃ t, exec (.hostRegisterWrite 0x18 5) base = .next t) ∧
    (∃ t, exec (.hostRegisterWrite 0x5C 5) base = .next t) ∧
    (∃ t, exec (.hostRegisterWrite 0x5C 5) (hw fun h => { h with p2hHeld := [[7]], p2hTail := 16 }) = .next t) ∧
    (∃ t, exec (.hostRegisterWrite 0x80 0x12345) base = .next t) := by
  refine ⟨?_, ?_, ?_, ?_, ?_, ?_, ?_, ?_, ?_, ?_, ?_, ?_⟩
  · exact ⟨_, (H 5 base (by unfold Served; decide +kernel)).1⟩
  · exact ⟨_, (H 5 base (by unfold Served; decide +kernel)).2.1 dd⟩
  · obtain ⟨_, h, _⟩ := (H 17 base (by unfold Served; decide +kernel)).2.2.1 dd ⟨dd, dd⟩
    exact ⟨_, h⟩
  · exact ⟨_, (H 5 base (by unfold Served; decide +kernel)).2.2.2.1⟩
  · exact ⟨_, (H 5 base (by unfold Served; decide +kernel)).2.2.2.2.1⟩
  · exact ⟨_, (H 5 base (by unfold Served; decide +kernel)).2.2.2.2.2.1 dd⟩
  · obtain ⟨_, h, _⟩ := (H 5 (hw fun h => { h with eqHeld := [(9, [3])], eqTail := 8 }) (by unfold Served; decide +kernel)).2.2.2.2.2.2.1 9 [3] dd dd
    exact ⟨_, h⟩
  · exact ⟨_, (H 5 base (by unfold Served; decide +kernel)).2.2.2.2.2.2.2.1 dd |>.1⟩
  · exact ⟨_, (H 5 base (by unfold Served; decide +kernel)).2.2.2.2.2.2.2.1 dd |>.2⟩
  · exact ⟨_, (H 5 base (by unfold Served; decide +kernel)).2.2.2.2.2.2.2.2.1 dd⟩
  · obtain ⟨_, h, _⟩ := (H 5 (hw fun h => { h with p2hHeld := [[7]], p2hTail := 16 }) (by unfold Served; decide +kernel)).2.2.2.2.2.2.2.2.2.1 [7] dd dd
    exact ⟨_, h⟩
  · exact ⟨_, (H 0x12345 base (by unfold Served; decide +kernel)).2.2.2.2.2.2.2.2.2.2.1⟩

theorem test_hostPortWrites_meets_2 (H : Obligations.HostPortWrites) :
    (∃ t, exec (.hostRegisterWrite 0xA0 0x12345) base = .next t) ∧
    (∃ t, exec (.hostRegisterWrite 0xA8 0xF234567812345FFF) base = .next t) ∧
    (∃ t, exec (.hostRegisterWrite 0xB0 5) base = .next t) ∧
    (∃ t, exec (.hostRegisterWrite 0xE0 5) base = .next t) ∧
    (∃ t, exec (.hostRegisterWrite 0xE8 5) base = .next t) ∧
    (∃ t, exec (.ptroot 5) (hw fun h => { h with ptroot := [(0, 1)] }) = .next t) ∧
    (∃ t, exec (.inval 5) base = .next t) ∧
    (∃ t, exec (.inval 5) (hw fun h => { h with invRun := some (1, 0, 4096) }) = .next t) ∧
    (∃ t, exec (.invalidationComplete) (hw fun h => { h with invRun := some (1, 0x10000, 4096) }) = .next t) ∧
    (∃ t, exec (.invalidationComplete) mvS = .next t) ∧
    (∃ t, exec (.hostMemoryAccess true 0x10100 4 5) base = .next t) ∧
    (∃ t, exec (.hostMemoryAccess false 0x10100 4 5) base = .next t) := by
  refine ⟨?_, ?_, ?_, ?_, ?_, ?_, ?_, ?_, ?_, ?_, ?_, ?_⟩
  · exact ⟨_, (H 0x12345 base (by unfold Served; decide +kernel)).2.2.2.2.2.2.2.2.2.2.2.1⟩
  · exact ⟨_, (H 0xF234567812345FFF base (by unfold Served; decide +kernel)).2.2.2.2.2.2.2.2.2.2.2.2.1⟩
  · exact ⟨_, (H 5 base (by unfold Served; decide +kernel)).2.2.2.2.2.2.2.2.2.2.2.2.2.1⟩
  · exact ⟨_, (H 5 base (by unfold Served; decide +kernel)).2.2.2.2.2.2.2.2.2.2.2.2.2.2.1⟩
  · exact ⟨_, (H 5 base (by unfold Served; decide +kernel)).2.2.2.2.2.2.2.2.2.2.2.2.2.2.2.1⟩
  · obtain ⟨_, h, _⟩ := (H 5 (hw fun h => { h with ptroot := [(0, 1)] }) (by unfold Served; decide +kernel)).2.2.2.2.2.2.2.2.2.2.2.2.2.2.2.2.1
    exact ⟨_, h⟩
  · exact ⟨_, (H 5 base (by unfold Served; decide +kernel)).2.2.2.2.2.2.2.2.2.2.2.2.2.2.2.2.2.1 |>.1 dd⟩
  · exact ⟨_, (H 5 (hw fun h => { h with invRun := some (1, 0, 4096) }) (by unfold Served; decide +kernel)).2.2.2.2.2.2.2.2.2.2.2.2.2.2.2.2.2.1 |>.2 dd⟩
  · obtain ⟨_, h, _⟩ := (H 5 (hw fun h => { h with invRun := some (1, 0x10000, 4096) }) (by unfold Served; decide +kernel)).2.2.2.2.2.2.2.2.2.2.2.2.2.2.2.2.2.2.1 1 0x10000 4096 dd dd dd dd
    exact ⟨_, h⟩
  · obtain ⟨_, h, _⟩ := (H 5 mvS (by unfold Served; decide +kernel)).2.2.2.2.2.2.2.2.2.2.2.2.2.2.2.2.2.2.1 1 0x10000 4096 dd dd dd dd
    exact ⟨_, h⟩
  · obtain ⟨_, h, _⟩ := (H 5 base (by unfold Served; decide +kernel)).2.2.2.2.2.2.2.2.2.2.2.2.2.2.2.2.2.2.2 0x10100 4 dd dd (Or.inl dd) |>.1 dd
    exact ⟨_, h⟩
  · exact ⟨_, (H 5 base (by unfold Served; decide +kernel)).2.2.2.2.2.2.2.2.2.2.2.2.2.2.2.2.2.2.2 0x10100 4 dd dd (Or.inl dd) |>.2.2⟩

theorem test_hostPortWrites_meets_3 (H : Obligations.HostPortWrites) :
    (∃ t, exec (.hostMemoryAccess true 0x10100 4 5) cdF = .next t) := by
  · exact ⟨_, (H 5 cdF (by unfold Served; decide +kernel)).2.2.2.2.2.2.2.2.2.2.2.2.2.2.2.2.2.2.2 0x10100 4 dd dd (Or.inl dd) |>.2.1 dd⟩

theorem test_bootAndPower_meets_1 (H : Obligations.BootAndPower) :
    (∃ t, exec (.powerRun 4) base = .next t) ∧
    (∃ t, exec (.powerRun 4) { base with power := { base.power with limit := true, st := .capped } } = .next t) ∧
    (∃ t, exec (.powerCapped (1 + 3400 * 2 ^ 16)) { base with power := { base.power with st := .capped } } = .next t) ∧
    (∃ t, exec (.powerCapped (1 + 600 * 2 ^ 16)) base = .next t) ∧
    (∃ t, exec (.powerCapped (1 + 3401 * 2 ^ 16)) base = .next t) ∧
    (∃ t, exec (.powerRetention 2) base = .next t) ∧
    (∃ t, exec (.powerRetention 2) noRes = .next t) ∧
    (∃ t, exec (.imgGo 5) base = .next t) ∧
    ((imageOk vf.host.imgBuf = false → ∃ t, exec (.imageVerified false) vf = .next t) ∧
    (imageOk vf.host.imgBuf = true → ∃ t, exec (.imageVerified true) vf = .next t)) ∧
    (imageOk vf.host.imgBuf = true → ∃ t, exec (.imageVerified true) { vf with boot := .failed } = .next t ∧ t.boot = .checking) ∧
    ((imageOk base.image = true → ∃ t, exec (.firmwareCheckEnd true) (cku none) = .next t) ∧
    (imageOk base.image = false → ∃ t, exec (.firmwareCheckEnd false) (cku none) = .next t)) ∧
    (imageOk [] = true → ∃ t, exec (.firmwareCheckEnd true) (cku (some [])) = .next t) := by
  refine ⟨?_, ?_, ?_, ?_, ?_, ?_, ?_, ?_, ?_, ?_, ?_, ?_⟩
  · obtain ⟨_, h, _⟩ := (H 4 base).1 (by unfold Served; decide +kernel) dd
    exact ⟨_, h⟩
  · obtain ⟨_, h, _⟩ := (H 4 { base with power := { base.power with limit := true, st := .capped } }).1 (by unfold Served; decide +kernel) dd
    exact ⟨_, h⟩
  · obtain ⟨_, h, _⟩ := (H (1 + 3400 * 2 ^ 16) { base with power := { base.power with st := .capped } }).2.1 (by unfold Served; decide +kernel) dd |>.1 dd dd
    exact ⟨_, h⟩
  · obtain ⟨_, h, _⟩ := (H (1 + 600 * 2 ^ 16) base).2.1 (by unfold Served; decide +kernel) dd |>.1 dd dd
    exact ⟨_, h⟩
  · exact ⟨_, (H (1 + 3401 * 2 ^ 16) base).2.1 (by unfold Served; decide +kernel) dd |>.2 (Or.inr dd)⟩
  · exact ⟨_, (H 2 base).2.2.1 (by unfold Served; decide +kernel) dd |>.1 ⟨(1, (base.ctx? 1).getD loadedCtx), dd, Or.inl dd⟩⟩
  · obtain ⟨_, h, _⟩ := (H 2 noRes).2.2.1 (by unfold Served; decide +kernel) dd |>.2 (by rintro ⟨x, hx, h⟩; have : ∀ x ∈ noRes.ctxs, x.2.st ≠ .resident ∧ x.2.st ≠ .quiescing := (by decide +kernel); exact h.elim (this x hx).1 (this x hx).2)
    exact ⟨_, h⟩
  · exact ⟨_, (H 5 base).2.2.2.1 dd dd dd dd⟩
  · obtain ⟨h1, h2⟩ := (H 5 vf).2.2.2.2.1 dd dd
    exact ⟨fun x => ⟨_, h1 x⟩, fun x => (h2 x).elim fun t ht => ⟨t, ht.1⟩⟩
  · obtain ⟨_, h2⟩ := (H 5 { vf with boot := .failed }).2.2.2.2.1 dd dd
    exact fun x => (h2 x).elim fun t ht => ⟨t, ht.1, (ht.2.2.2 dd).1⟩
  · obtain ⟨_, h1, h2⟩ := (H 5 (cku none)).2.2.2.2.2.1 dd dd dd
    exact ⟨fun x => ⟨_, h1 (fun _ h => nomatch h) x⟩, fun x => ⟨_, h2 (fun _ h => nomatch h) x⟩⟩
  · obtain ⟨h1, _⟩ := (H 5 (cku (some []))).2.2.2.2.2.1 dd dd dd
    exact fun x => ⟨_, h1 [] rfl x⟩

theorem test_bootAndPower_meets_2 (H : Obligations.BootAndPower) :
    (imageOk base.image = true → ∃ t, exec (.firmwareCheckEnd true) { cku none with power := { base.power with tripped := some (1, 120) } } = .next t) ∧
    (∃ t, exec (.reset) base = .next t) ∧
    (∃ t, exec (.powerLoss) base = .next t) ∧
    (∃ t, exec (.thermalLimit 0 105) { noRes with power := { base.power with st := .retention } } = .next t) ∧
    (∃ t, exec (.thermalLimit 3 105) base = .next t) ∧
    (∃ t, exec (.thermalLift) { base with power := { base.power with limit := true } } = .next t) ∧
    (∃ t, exec (.thermalLift) { base with power := { base.power with limit := true, lastReq := 1 } } = .next t) ∧
    (∃ t, exec (.imgGo 5) (hw fun h => { h with imgLen := 4096 }) = .next t) ∧
    (∃ t, exec (.thermalTrip 3 115) base = .next t) := by
  refine ⟨?_, ?_, ?_, ?_, ?_, ?_, ?_, ?_, ?_⟩
  · exact fun x => (((H 5 { cku none with power := { base.power with tripped := some (1, 120) } }).2.2.2.2.2.2.1 1 120 dd dd) dd x dd ⟨by decide +kernel, by decide +kernel⟩).elim fun t ht => ⟨t, ht.1⟩
  · obtain ⟨_, h, _⟩ := (H 5 base).2.2.2.2.2.2.2.1
    exact ⟨_, h⟩
  · obtain ⟨_, h, _⟩ := (H 5 base).2.2.2.2.2.2.2.2.1
    exact ⟨_, h⟩
  · obtain ⟨_, h, _⟩ := (H 5 { noRes with power := { base.power with st := .retention } }).2.2.2.2.2.2.2.2.2.1 0 105 dd dd dd dd ⟨dd, dd⟩
    exact ⟨_, h⟩
  · obtain ⟨_, h, _⟩ := (H 5 base).2.2.2.2.2.2.2.2.2.1 3 105 dd dd dd dd ⟨dd, dd⟩
    exact ⟨_, h⟩
  · obtain ⟨_, _, _, h, _⟩ := (H 5 { base with power := { base.power with limit := true } }).2.2.2.2.2.2.2.2.2.2.1 dd dd ⟨dd, dd⟩
    exact ⟨_, h⟩
  · obtain ⟨_, _, _, h, _⟩ := (H 5 { base with power := { base.power with limit := true, lastReq := 1 } }).2.2.2.2.2.2.2.2.2.2.1 dd dd ⟨dd, dd⟩
    exact ⟨_, h⟩
  · exact ⟨_, (H 5 (hw fun h => { h with imgLen := 4096 })).2.2.2.1 dd dd dd dd⟩
  · obtain ⟨_, h, _⟩ := (H 5 base).2.2.2.2.2.2.2.2.2.2.2 3 115 dd dd dd
    exact ⟨_, h⟩

/-! States and operands for ContextEvents, PagesAndLinkEvents. -/

noncomputable def ctx1 (s : State) : Ctx := (s.ctx? 1).getD loadedCtx
noncomputable def qsc (a : After) (s : State) : State := s.modCtx 1 fun x => { x with st := .quiescing, after_ := some a }
noncomputable def krn (n : Nat) : Kernel := { ctx := 1, q := 7, seq := 1, grid := 5, st := .finishing, entry := 0x10000, cohorts := 1, teams := 1, groups := n, regs := 128, coop := false, troupe := false, fpmode := 0, frbase := 0, frsize := 1152, stack := 0, stacksize := 16, args := [7], roles := [], divbase := 0, left := 0, gids := [1] }
noncomputable def rq (k : ReqKind) (gids : List Nat) (pl qd : Bool) (hd : Option Nat) : Req := { ctx := 1, core := 0, die := 0, kind := k, gids := gids, placed := pl, queued := qd, headAt := hd, since := 0, coop := false }
noncomputable def tmA : Team := { ctx := 1, kernel := 3, cohort := 4, no := 0, core := 0, die := 0, total := 2, retired := 0, bars := [], regroups := [] }
noncomputable def coA : Cohort := { kernel := 3, no := 0, total := 1, retired := 0, bars := [] }
noncomputable def alq (n : Nat) (r : List (Nat × Req)) (s : State) : State := { (s.modCore 0 fun k => { k with allot := [(1, [9])] }) with reqs := r, kernels := [(3, { krn n with st := .running })], teams := [(5, tmA)], cohorts := [(4, coA)] }
noncomputable def alS : State := alq 1 [(9, rq (.team 5) [] false true none)] { base with groups := [] }
noncomputable def evS (n : Nat) : State := { alq 32 [(6, rq (.team 5) [1] true false none), (9, rq (.team 5) [] false true (some 7))] (onP (fun p => { p with cond := .waiting (.bar false 2 0) }) base) with cycles := n }
noncomputable def erS : State := { base with reqs := [(9, rq (.team 5) [1] false false none)] }
noncomputable def kdn (s : State) : State := { s with kernels := [(3, krn 1)] }

noncomputable def lst (n : Nat) : State := { mS with ops := mS.ops.put 10 { opOf mS 10 with lost := n, lostAt := 0x10100, born := 0 }, clocks := { mS.clocks with nets := 4194304 } }
/-- A store of two lines, one of which is lost. -/
noncomputable def lstO : State := { lst 1 with ops := (lst 1).ops.put 10 { opOf (lst 1) 10 with kind := .mem { memOf mS 10 with lanes := (memOf mS 10).lanes.map fun l => { l with pa := l.pa + 256 * l.lane } } } }
noncomputable def sbl : State := { sb1 with ops := sb1.ops.put 10 { opOf sb1 10 with lost := 1 } }
noncomputable def pkt (st : Nat) : Packet := { job := .op, op := 10, line := 0x10200, hopped := 0, ddev := 0, ddie := 0, dstop := 5, sdev := 0, sdie := 0, sstop := 0, tag := 0, cls := 1, len := 2, code := 0, ctx := 1, net := 0, pos := .lap 0 st 0 0 }
noncomputable def hopP (p : Packet) (l : List (Nat × Packet)) : State := { mL with agenda := [.hop 5], torus := (5, p) :: l, clocks := { mL.clocks with nets := 100 } }
noncomputable def hopS (l : List (Nat × Packet)) : State := hopP (pkt 2) l
noncomputable def full3 : List (Nat × Packet) := (List.range 2).map fun i => (6 + i, pkt 3)
/-- The escape slots of the ring taken too. -/
noncomputable def esc6 : List (Nat × Packet) := (List.range 6).map fun i => (8 + i, { pkt 3 with pos := .esc 0 i 0 0 })
/-- An active message at the hop to its end, and a packet past the dateline. -/
noncomputable def pktE : Packet := { pkt 2 with cls := 3, dstop := 3 }
noncomputable def pktW : Packet := { pkt 7 with dstop := 1 }
/-- The packet of another network than its context's. -/
noncomputable def pktI : Packet := { pkt 2 with net := 9 }
/-- The load performed, its reply on the way. -/
noncomputable def mLr : State := { mL with ops := mL.ops.put 10 { opOf mL 10 with kind := .mem { memOf mL 10 with lanes := (memOf mL 10).lanes.map fun l => { l with done := true } } } }
/-- A line with a previous version. -/
noncomputable def pvS : State := { base with lines := [(0x10100, { stamp := 5, ref := none, prev := some ([], 4, none), vlost := none, prep := none })] }
/-- A message of which no packet is shown. -/
noncomputable def amB : State := amC
noncomputable def lateS : State := { base with late := [(10, 2, 50)] }

theorem test_contextEvents_meets (H : Obligations.ContextEvents) :
    (∃ t, exec (.quiescenceEnd 1) (qsc .save base) = .next t) ∧
    (∃ t, exec (.quiescenceEnd 1) (qsc .save (flt base)) = .next t) ∧
    (∃ t, exec (.quiescenceEnd 1) (qsc .destroy base) = .next t) ∧
    (∃ t, exec (.contextScrubEnd 1) (base.modCtx 1 fun x => { x with st := .scrubbing }) = .next t) ∧
    (∃ t, exec (.contextScrubEnd 1) ((base.setPage 0x50000 .scrubbing).modCtx 1 fun x => { x with st := .scrubbing, scrub := [0x50000] }) = .next t) ∧
    (∃ t, exec (.migrationExportEnd 1) (base.modCtx 1 fun x => { x with st := .migrating }) = .next t) ∧
    (∃ t, exec (.kernelDone 3) (kdn base) = .next t) ∧
    (∃ t, exec (.kernelDone 3) (kdn mS) = .next t) ∧
    (∃ t, exec (.allotment 0 1) alS = .next t) ∧
    (∃ t, exec (.evictionBound 0 1) (evS 262150) = .next t) ∧
    (∃ t, exec (.evictionBound 0 1) (evS 262151) = .next t) ∧
    (∃ t, exec (.evictedRequeue 9) erS = .next t) := by
  refine ⟨?_, ?_, ?_, ?_, ?_, ?_, ?_, ?_, ?_, ?_, ?_, ?_⟩
  · obtain ⟨_, _, _, h, _⟩ := (H 1 (qsc .save base)).1 (ctx1 (qsc .save base)) dd dd dd dd dd dd dd dd |>.1 dd
    exact ⟨_, h⟩
  · obtain ⟨_, _, _, h, _⟩ := (H 1 (qsc .save (flt base))).1 (ctx1 (qsc .save (flt base))) dd dd dd dd dd dd dd dd |>.1 dd
    exact ⟨_, h⟩
  · obtain ⟨_, h, _⟩ := (H 1 (qsc .destroy base)).1 (ctx1 (qsc .destroy base)) dd dd dd dd dd dd dd dd |>.2 dd
    exact ⟨_, h⟩
  · obtain ⟨_, h, _⟩ := (H 1 (base.modCtx 1 fun x => { x with st := .scrubbing })).2.1 (ctx1 (base.modCtx 1 fun x => { x with st := .scrubbing })) dd dd dd |>.1 dd
    exact ⟨_, h⟩
  · exact ⟨_, (H 1 ((base.setPage 0x50000 .scrubbing).modCtx 1 fun x => { x with st := .scrubbing, scrub := [0x50000] })).2.1 (ctx1 ((base.setPage 0x50000 .scrubbing).modCtx 1 fun x => { x with st := .scrubbing, scrub := [0x50000] })) dd dd dd |>.2 ⟨0x50000, dd, dd⟩⟩
  · obtain ⟨_, _, h, _⟩ := (H 1 (base.modCtx 1 fun x => { x with st := .migrating })).2.2.1 (ctx1 (base.modCtx 1 fun x => { x with st := .migrating })) dd dd
    exact ⟨_, h⟩
  · exact ⟨_, (H 3 (kdn base)).2.2.2.1 (krn 1) dd dd |>.1 dd⟩
  · exact ⟨_, (H 3 (kdn mS)).2.2.2.1 (krn 1) dd dd |>.2 ⟨(10, opOf mS 10), dd, dd, dd⟩⟩
  · obtain ⟨_, h, _⟩ := (H 1 alS).2.2.2.2.1 0 (ctx1 alS) 9 [] (rq (.team 5) [] false true none) 5 tmA { krn 1 with st := .running } coA ((seatReq alS 1 0 false (teamWants { krn 1 with st := .running }) (seatsOf alS 0)).getD []) dd dd dd dd dd dd dd dd dd dd dd dd dd dd dd dd
    exact ⟨_, h⟩
  · exact ⟨_, (H 1 (evS 262150)).2.2.2.2.2.1 0 (ctx1 (evS 262150)) 9 [] (rq (.team 5) [] false true (some 7)) 7 6 ((evictable (evS 262150) 0 1).headD (0, 0)).2 (rq (.team 5) [1] true false none) dd dd dd dd dd dd dd dd |>.1 dd⟩
  · obtain ⟨_, h, _⟩ := (H 1 (evS 262151)).2.2.2.2.2.1 0 (ctx1 (evS 262151)) 9 [] (rq (.team 5) [] false true (some 7)) 7 6 ((evictable (evS 262151) 0 1).headD (0, 0)).2 (rq (.team 5) [1] true false none) dd dd dd dd dd dd dd dd |>.2 dd
    exact ⟨_, h⟩
  · obtain ⟨_, _, h, _⟩ := (H 9 erS).2.2.2.2.2.2 (rq (.team 5) [1] false false none) 1 (G erS) (0, P erS) dd dd dd dd dd dd dd dd dd
    exact ⟨_, h⟩

theorem test_pagesAndLinkEvents_meets_1 (H : Obligations.PagesAndLinkEvents) :
    (∃ t, exec (.pageScrubEnd 0x50000) (base.setPage 0x50000 .scrubbing) = .next t) ∧
    (∃ t, exec (.memoryError 3 3 0x10100) base = .next t) ∧
    (∃ t, exec (.memoryError 4 3 0x10100) base = .next t) ∧
    (∃ t, exec (.packetCheckFailure 10 0 0 2 ((pkt 2).pos.at_.2.2)) (hopS []) = .next t) ∧
    (∃ t, exec (.packetCheckFailure 10 1 0 2 ((pkt 2).pos.at_.2.2)) (hopS []) = .next t) ∧
    (∃ t, exec (.packetCheckFailure 10 2 0 2 ((pkt 2).pos.at_.2.2)) (hopS []) = .next t) ∧
    (∃ t, exec (.packetCheckFailure 10 3 0 2 ((pkt 2).pos.at_.2.2)) (hopP pktI []) = .next t) ∧
    (∃ t, exec (.packetCheckFailure 10 1 0 2 ((pkt 2).pos.at_.2.2)) { mLr with torus := [(5, pkt 2)] } = .next t) ∧
    (∃ t, exec (.packetCheckFailure 10 1 ((inputsOf amB (opOf amB 10)).headD (0, 0, 0)).1 ((inputsOf amB (opOf amB 10)).headD (0, 0, 0)).2.1 ((inputsOf amB (opOf amB 10)).headD (0, 0, 0)).2.2) amB = .next t) ∧
    (∃ t, exec (.lostNotice 10) (lst 1) = .next t) ∧
    (∃ t, exec (.lostNotice 10) lstO = .next t) ∧
    (∃ t, exec (.transactionTimeout 10) (lst 2) = .next t) := by
  refine ⟨?_, ?_, ?_, ?_, ?_, ?_, ?_, ?_, ?_, ?_, ?_, ?_⟩
  · obtain ⟨_, h, _⟩ := H.2.1 0x50000 (base.setPage 0x50000 .scrubbing) dd dd
    exact ⟨_, h⟩
  · obtain ⟨_, h, _⟩ := H.2.2.1 3 3 0x10100 base dd dd dd ⟨dd, dd⟩
    exact ⟨_, h⟩
  · exact ⟨_, H.2.2.2.1 4 3 0x10100 base dd⟩
  · obtain ⟨_, _, h, _⟩ := H.2.2.2.2.1 10 0 0 2 ((pkt 2).pos.at_.2.2) 0 (hopS []) (opOf (hopS []) 10) dd dd dd (Or.inl dd) dd (fun _ _ e => nomatch e) ⟨dd, dd⟩ (by intro p h; rw [show shown (hopS []) 10 = some (pkt 2) from dd] at h; cases h; exact dd) (by intro h; rw [show shown (hopS []) 10 = some (pkt 2) from dd] at h; cases h)
    exact ⟨_, h⟩
  · obtain ⟨_, _, h, _⟩ := H.2.2.2.2.1 10 1 0 2 ((pkt 2).pos.at_.2.2) 0 (hopS []) (opOf (hopS []) 10) dd dd dd (Or.inl dd) dd (fun _ _ e => nomatch e) ⟨dd, dd⟩ (by intro p h; rw [show shown (hopS []) 10 = some (pkt 2) from dd] at h; cases h; exact dd) (by intro h; rw [show shown (hopS []) 10 = some (pkt 2) from dd] at h; cases h)
    exact ⟨_, h⟩
  · obtain ⟨_, _, h, _⟩ := H.2.2.2.2.1 10 2 0 2 ((pkt 2).pos.at_.2.2) 0 (hopS []) (opOf (hopS []) 10) dd dd dd (Or.inl dd) dd (fun _ _ e => nomatch e) ⟨dd, dd⟩ (by intro p h; rw [show shown (hopS []) 10 = some (pkt 2) from dd] at h; cases h; exact dd) (by intro h; rw [show shown (hopS []) 10 = some (pkt 2) from dd] at h; cases h)
    exact ⟨_, h⟩
  · obtain ⟨_, _, h, _⟩ := H.2.2.2.2.1 10 3 0 2 ((pkt 2).pos.at_.2.2) 0 (hopP pktI []) (opOf (hopP pktI []) 10) dd dd dd (Or.inl dd) dd (by intro p h _; rw [show shown (hopP pktI []) 10 = some pktI from dd] at h; cases h; exact dd) ⟨dd, dd⟩ (by intro p h; rw [show shown (hopP pktI []) 10 = some pktI from dd] at h; cases h; exact dd) (by intro h; rw [show shown (hopP pktI []) 10 = some pktI from dd] at h; cases h)
    exact ⟨_, h⟩
  · obtain ⟨_, _, h, _⟩ := H.2.2.2.2.1 10 1 0 2 ((pkt 2).pos.at_.2.2) 0 { mLr with torus := [(5, pkt 2)] } (opOf { mLr with torus := [(5, pkt 2)] } 10) dd dd dd (Or.inr dd) dd (fun _ _ e => nomatch e) ⟨dd, dd⟩ (by intro p h; rw [show shown { mLr with torus := [(5, pkt 2)] } 10 = some (pkt 2) from dd] at h; cases h; exact dd) (by intro h; rw [show shown { mLr with torus := [(5, pkt 2)] } 10 = some (pkt 2) from dd] at h; cases h)
    exact ⟨_, h⟩
  · obtain ⟨_, _, h, _⟩ := H.2.2.2.2.1 10 1 ((inputsOf amB (opOf amB 10)).headD (0, 0, 0)).1 ((inputsOf amB (opOf amB 10)).headD (0, 0, 0)).2.1 ((inputsOf amB (opOf amB 10)).headD (0, 0, 0)).2.2 0 amB (opOf amB 10) dd dd dd (Or.inl dd) dd (by intro p h; rw [show shown amB 10 = none from dd] at h; cases h) ⟨dd, dd⟩ (by intro p h; rw [show shown amB 10 = none from dd] at h; cases h) (fun _ => ⟨dd, dd, dd⟩)
    exact ⟨_, h⟩
  · obtain ⟨_, h, _⟩ := H.2.2.2.2.2.1 10 (lst 1) (opOf (lst 1) 10) (memOf (lst 1) 10) (G (lst 1)) dd dd dd dd |>.1 dd
    exact ⟨_, h⟩
  · obtain ⟨_, h, _⟩ := H.2.2.2.2.2.1 10 lstO (opOf lstO 10) (memOf lstO 10) (G lstO) dd dd dd dd |>.1 dd
    exact ⟨_, h⟩
  · obtain ⟨_, h, _⟩ := H.2.2.2.2.2.1 10 (lst 2) (opOf (lst 2) 10) (memOf (lst 2) 10) (G (lst 2)) dd dd dd dd |>.2.1 dd dd
    exact ⟨_, h⟩

theorem test_pagesAndLinkEvents_meets_2 (H : Obligations.PagesAndLinkEvents) :
    (∃ t, exec (.transactionTimeout 10) { lst 2 with clocks := { mS.clocks with nets := 4194303 } } = .next t) ∧
    (∃ t, exec (.loadReply 10) lateS = .next t) ∧
    (∃ t, exec (.lostNotice 10) sbl = .next t) ∧
    (∃ t, step (hopS []) = .next t) ∧
    (∃ t, step (hopS full3) = .next t) ∧
    (∃ t, step (hopS (full3 ++ esc6)) = .next t) ∧
    (∃ t, step (hopP pktE []) = .next t) ∧
    (∃ t, step (hopP pktW []) = .next t) ∧
    (∃ t, exec (.linkFailure 11) base = .next t) ∧
    (∀ die f, base.page f = .queued → frameOn die 0 f = true → ∃ t, exec (.pageScrubStart die f) base = .next t) ∧
    (∃ t, exec (.memoryError 0 0 0x10100) base = .next t) ∧
    (∃ t, exec (.memoryError 3 3 0x10100) pvS = .next t) := by
  refine ⟨?_, ?_, ?_, ?_, ?_, ?_, ?_, ?_, ?_, ?_, ?_, ?_⟩
  · exact ⟨_, H.2.2.2.2.2.1 10 { lst 2 with clocks := { mS.clocks with nets := 4194303 } } (opOf (lst 2) 10) (memOf (lst 2) 10) (G (lst 2)) dd dd dd dd |>.2.2 dd dd⟩
  · obtain ⟨_, h, _⟩ := H.2.2.2.2.2.2.1 10 2 50 lateS dd dd ⟨dd, dd⟩ dd
    exact ⟨_, h⟩
  · obtain ⟨_, _, h, _⟩ := H.2.2.2.2.2.2.2.1 10 sbl (opOf sbl 10) 0x10100 0x10180 0x10100 0x10180 4 0 (G sbl) (ctx1 sbl) dd dd dd dd dd dd dd
    exact ⟨_, h⟩
  · obtain ⟨_, h, _⟩ := H.2.2.2.2.2.2.2.2.1 5 0 3 0 2 0 false [] (hopS []) (pkt 2) dd dd dd dd rfl dd dd |> fun h => h.1 (by decide +kernel)
    exact ⟨_, h⟩
  · obtain ⟨_, h, _⟩ := H.2.2.2.2.2.2.2.2.1 5 0 3 0 2 0 false [] (hopS full3) (pkt 2) dd dd dd dd rfl dd dd |> fun h => h.2.1 (by decide +kernel) (by decide +kernel)
    exact ⟨_, h⟩
  · exact ⟨_, H.2.2.2.2.2.2.2.2.1 5 0 3 0 2 0 false [] (hopS (full3 ++ esc6)) (pkt 2) dd dd dd dd rfl dd dd |> fun h => h.2.2 (by decide +kernel) (by decide +kernel)⟩
  · obtain ⟨_, h, _⟩ := H.2.2.2.2.2.2.2.2.1 5 0 3 0 2 0 false [] (hopP pktE []) pktE dd dd dd dd rfl dd dd |> fun h => h.2.1 (Or.inl ⟨dd, dd, dd⟩) (by decide +kernel)
    exact ⟨_, h⟩
  · obtain ⟨_, h, _⟩ := H.2.2.2.2.2.2.2.2.1 5 0 0 0 7 0 true [] (hopP pktW []) pktW dd dd dd dd rfl dd dd |> fun h => h.1 (by decide +kernel)
    exact ⟨_, h⟩
  · obtain ⟨_, h, _⟩ := H.2.2.2.2.2.2.2.2.2 11 base dd dd dd ⟨dd, dd⟩
    exact ⟨_, h⟩
  · exact fun die f a b => ((H.1 die f base a (Or.inl b)).1 (by rw [show base.pages = [] from rfl]; simp)).elim fun t ht => ⟨t, ht.1⟩
  · obtain ⟨_, h, _⟩ := H.2.2.1 0 0 0x10100 base dd dd dd ⟨dd, dd⟩
    exact ⟨_, h⟩
  · obtain ⟨_, h, _⟩ := H.2.2.1 3 3 0x10100 pvS dd dd dd ⟨dd, dd⟩
    exact ⟨_, h⟩

/-! States and operands for HandlersAndPorter. -/

noncomputable def trp (c : Cause) (aft : Bool) : TrapRec := { cause := c, data := 3, addr := 0x10040, next := 0x10044, rep := 0, after_ := aft }
noncomputable def hT (c : Cause) : State := (onP (fun p => { p with cond := .trapped (trp c false) }) base).modPart 0 fun q => { q with trapq := [(1, 0)] }
noncomputable def tsk : Task := { entry := 0x10080, frbase := 7, grid := 0, cohort := 0, team := 0, regs := 32, valid := true }
noncomputable def hTt (c : Cause) : State := (hT c).modCtx 1 fun x => { x with tasks := [(255, tsk)] }
noncomputable def hTp : State := { (hT .brk).modCtx 1 fun x => { x with porter := true } with host := { base.host with p2hBase := 0x9000 } }
noncomputable def msg (op c : Nat) (l : List Nat) : Msg := { op := op, ctx := c, seq := 7, words := l ++ List.replicate (7 - l.length) 0 }
/-- The Porter reads the message next; the context is attached or not. -/
noncomputable def mb (on : Bool) (op c : Nat) (l : List Nat) (f : State → State := id) : State :=
  let s := f (base.modCtx 1 fun x => { x with porter := on, debugen := true })
  { s with host := { s.host with h2pBase := 0xa000, h2pTail := 1, p2hBase := 0x9000 }, mem := putBytes s.mem (2 * 2 ^ 57 + 0xa000) (((op * 2 ^ 48 + c * 2 ^ 32 + 7) :: (msg op c l).words).flatMap (bytesLE 8)) }
noncomputable def ptB (s : State) : State := { s.modCtx 1 (fun x => { x with ptTop := some 0x20000 }) with mem := putBytes (putBytes (putBytes (putBytes (putBytes s.mem 0x20000 (bytesLE 8 0x21001)) 0x21000 (bytesLE 8 0x22001)) 0x22000 (bytesLE 8 0x23001)) 0x23000 (bytesLE 8 0x24001)) 0x24080 (bytesLE 8 0x1010d) }
noncomputable def hp (s : State) : State := { s with groups := s.groups.put 2 { G base with kind := .porter 1 0, place := { (G base).place with pos := 16 }, trapaddr := 0x10040 } }

theorem test_handlersAndPorter_meets_1 (H : Obligations.HandlersAndPorter) :
    (∃ t, exec (.handlerStart 0) (hTt .perm) = .next t) ∧
    (∃ t, exec (.handlerStart 0) (hTt .brk) = .next t) ∧
    (∃ t, exec (.handlerStart 0) (hT .perm) = .next t) ∧
    (∃ t, exec (.handlerStart 0) hTp = .next t) ∧
    (∃ t, exec (.attach (msg 1 9 [])) (mb false 1 9 []) = .next t) ∧
    (∃ t, exec (.attach (msg 1 1 [])) (mb false 1 1 []) = .next t) ∧
    (∃ t, exec (.attach (msg 1 1 [])) (mb false 1 1 [] (fun s => s.modCtx 1 fun x => { x with debugen := false })) = .next t) ∧
    (∃ t, exec (.attach (msg 1 1 [])) (mb false 1 1 [] (fun s => { s with power := { s.power with st := .retention } })) = .next t) ∧
    (∃ t, exec (.setbrk (msg 7 1 [1])) (mb false 7 1 [1]) = .next t) ∧
    (∃ t, exec (.detach (msg 2 1 [])) (mb true 2 1 []) = .next t) ∧
    (∃ t, exec (.porterHalt (msg 3 1 [18446744073709551615])) (mb true 3 1 [18446744073709551615]) = .next t) ∧
    (∃ t, exec (.setbrk (msg 7 1 [2, 0x10040])) (mb true 7 1 [2, 0x10040]) = .next t) := by
  refine ⟨?_, ?_, ?_, ?_, ?_, ?_, ?_, ?_, ?_, ?_, ?_, ?_⟩
  · obtain ⟨_, h, _⟩ := H.1 0 1 0 [] (hTt .perm) (G (hTt .perm)) (P (hTt .perm)) (trp .perm false) (((hTt .perm).ctx? 1).getD loadedCtx) dd dd dd dd dd dd dd dd dd dd |>.1 tsk (Or.inl dd) dd dd
    exact ⟨_, h⟩
  · obtain ⟨_, h, _⟩ := H.1 0 1 0 [] (hTt .brk) (G (hTt .brk)) (P (hTt .brk)) (trp .brk false) (((hTt .brk).ctx? 1).getD loadedCtx) dd dd dd dd dd dd dd dd dd dd |>.1 tsk (Or.inr dd) dd dd
    exact ⟨_, h⟩
  · obtain ⟨_, h, _⟩ := H.1 0 1 0 [] (hT .perm) (G (hT .perm)) (P (hT .perm)) (trp .perm false) (((hT .perm).ctx? 1).getD loadedCtx) dd dd dd dd dd dd dd dd dd dd |>.2.1 dd dd ⟨dd, dd⟩
    exact ⟨_, h⟩
  · obtain ⟨_, h, _⟩ := H.1 0 1 0 [] hTp (G hTp) (P hTp) (trp .brk false) ((hTp.ctx? 1).getD loadedCtx) dd dd dd dd dd dd dd dd dd dd |>.2.2 (Or.inl dd) dd dd dd
    exact ⟨_, h⟩
  · obtain ⟨_, h, _⟩ := H.2.1 (msg 1 9 []) (mb false 1 9 []) (by refine ⟨by unfold Served; decide +kernel, dd, dd, dd, dd⟩) dd dd
    exact ⟨_, h⟩
  · exact ⟨_, H.2.2.1 (msg 1 1 []) (mb false 1 1 []) (((mb false 1 1 []).ctx? 1).getD loadedCtx) (by refine ⟨by unfold Served; decide +kernel, dd, dd, dd, dd⟩) dd |>.2 dd dd⟩
  · exact ⟨_, H.2.2.1 (msg 1 1 []) (mb false 1 1 [] (fun s => s.modCtx 1 fun x => { x with debugen := false })) (((mb false 1 1 [] (fun s => s.modCtx 1 fun x => { x with debugen := false })).ctx? 1).getD loadedCtx) (by refine ⟨by unfold Served; decide +kernel, dd, dd, dd, dd⟩) dd |>.1 (Or.inl dd)⟩
  · exact ⟨_, H.2.2.1 (msg 1 1 []) (mb false 1 1 [] (fun s => { s with power := { s.power with st := .retention } })) (((mb false 1 1 [] (fun s => { s with power := { s.power with st := .retention } })).ctx? 1).getD loadedCtx) (by refine ⟨by unfold Served; decide +kernel, dd, dd, dd, dd⟩) dd |>.1 (Or.inr dd)⟩
  · exact ⟨_, H.2.2.2.1 (msg 7 1 [1]) (mb false 7 1 [1]) dd (7, .setbrk (msg 7 1 [1])) (by simp [porterCalls]) (by refine ⟨by unfold Served; decide +kernel, dd, dd, dd, dd⟩)⟩
  · obtain ⟨_, h, _⟩ := H.2.2.2.2 (msg 2 1 []) (mb true 2 1 []) (((mb true 2 1 []).ctx? 1).getD loadedCtx) dd dd |>.1 (by refine ⟨by unfold Served; decide +kernel, dd, dd, dd, dd⟩) (by intro g hg a b; have : ∀ g ∈ (mb true 2 1 []).groups, g.2.kind = .grid := (by decide +kernel); rw [this g hg]; simp)
    exact ⟨_, h⟩
  · obtain ⟨_, h, _⟩ := H.2.2.2.2 (msg 3 1 [18446744073709551615]) (mb true 3 1 [18446744073709551615]) (((mb true 3 1 [18446744073709551615]).ctx? 1).getD loadedCtx) dd dd |>.2.1 (by refine ⟨by unfold Served; decide +kernel, dd, dd, dd, dd⟩) dd dd
    exact ⟨_, h⟩
  · exact ⟨_, H.2.2.2.2 (msg 7 1 [2, 0x10040]) (mb true 7 1 [2, 0x10040]) (((mb true 7 1 [2, 0x10040]).ctx? 1).getD loadedCtx) dd dd |>.2.2.1 (by refine ⟨by unfold Served; decide +kernel, dd, dd, dd, dd⟩) |>.1 dd dd⟩

theorem test_handlersAndPorter_meets_2 (H : Obligations.HandlersAndPorter) :
    (∃ t, exec (.setbrk (msg 7 1 [2, 0x10041])) (mb true 7 1 [2, 0x10041]) = .next t) ∧
    (∃ t, exec (.clrbrk (msg 8 1 [7])) (mb true 8 1 [7]) = .next t) ∧
    (∃ t, exec (.clrbrk (msg 8 1 [8])) (mb true 8 1 [8]) = .next t) ∧
    (∃ t, exec (.rdmem (msg 11 1 [0x10100, 8])) (mb true 11 1 [0x10100, 8] ptB) = .next t) ∧
    (∃ t, exec (.rdmem (msg 11 1 [0x10100, 8])) (mb true 11 1 [0x10100, 8] (fun s => (ptB s).modCtx 1 fun x => { x with regions := [{ base := 0, len := 2^21, holder := 0, bytes := { c := 5, m := 0 }, macs := { c := 6, m := 0 } }] })) = .next t) ∧
    (∃ t, exec (.wrmem (msg 12 1 [0x10100, 1, 9])) (mb true 12 1 [0x10100, 1, 9] (fun s => (ptB s).modCtx 1 fun x => { x with regions := [{ base := 0, len := 2^21, holder := 0, bytes := { c := 5, m := 0 }, macs := { c := 6, m := 0 } }] })) = .next t) ∧
    (∃ t, exec (.wrmem (msg 12 1 [0x10100, 1, 9])) (mb true 12 1 [0x10100, 1, 9] (ptB)) = .next t) ∧
    (∃ t, exec (.porterHalt (msg 3 1 [0, 0])) (mb true 3 1 [0, 0]) = .next t) ∧
    (∃ t, exec (.porterResume (msg 4 1 [0, 0])) (mb true 4 1 [0, 0]) = .next t) ∧
    (∃ t, exec (.porterStep (msg 5 1 [0, 0])) (mb true 5 1 [0, 0]) = .next t) ∧
    (∃ t, exec (.stepgrp (msg 6 1 [0, 0])) (mb true 6 1 [0, 0]) = .next t) ∧
    (∃ t, exec (.porterResume (msg 4 1 [0, 0])) (mb true 4 1 [0, 0] (fun s => hp (onP (fun p => { p with cond := .trapped (trp .brk false) }) s))) = .next t) := by
  refine ⟨?_, ?_, ?_, ?_, ?_, ?_, ?_, ?_, ?_, ?_, ?_, ?_⟩
  · exact ⟨_, H.2.2.2.2 (msg 7 1 [2, 0x10041]) (mb true 7 1 [2, 0x10041]) (((mb true 7 1 [2, 0x10041]).ctx? 1).getD loadedCtx) dd dd |>.2.2.1 (by refine ⟨by unfold Served; decide +kernel, dd, dd, dd, dd⟩) |>.2 (Or.inr dd)⟩
  · exact ⟨_, H.2.2.2.2 (msg 8 1 [7]) (mb true 8 1 [7]) (((mb true 8 1 [7]).ctx? 1).getD loadedCtx) dd dd |>.2.2.2.1 (by refine ⟨by unfold Served; decide +kernel, dd, dd, dd, dd⟩) |>.1 dd⟩
  · exact ⟨_, H.2.2.2.2 (msg 8 1 [8]) (mb true 8 1 [8]) (((mb true 8 1 [8]).ctx? 1).getD loadedCtx) dd dd |>.2.2.2.1 (by refine ⟨by unfold Served; decide +kernel, dd, dd, dd, dd⟩) |>.2 dd⟩
  · exact ⟨_, H.2.2.2.2 (msg 11 1 [0x10100, 8]) (mb true 11 1 [0x10100, 8] ptB) (((mb true 11 1 [0x10100, 8] ptB).ctx? 1).getD loadedCtx) dd dd |>.2.2.2.2.1 (by refine ⟨by unfold Served; decide +kernel, dd, dd, dd, dd⟩) dd dd |>.1 (List.replicate 8 0) dd dd⟩
  · exact ⟨_, H.2.2.2.2 (msg 11 1 [0x10100, 8]) (mb true 11 1 [0x10100, 8] (fun s => (ptB s).modCtx 1 fun x => { x with regions := [{ base := 0, len := 2^21, holder := 0, bytes := { c := 5, m := 0 }, macs := { c := 6, m := 0 } }] })) (((mb true 11 1 [0x10100, 8] (fun s => (ptB s).modCtx 1 fun x => { x with regions := [{ base := 0, len := 2^21, holder := 0, bytes := { c := 5, m := 0 }, macs := { c := 6, m := 0 } }] })).ctx? 1).getD loadedCtx) dd dd |>.2.2.2.2.1 (by refine ⟨by unfold Served; decide +kernel, dd, dd, dd, dd⟩) dd dd |>.2 dd⟩
  · exact ⟨_, H.2.2.2.2 (msg 12 1 [0x10100, 1, 9]) (mb true 12 1 [0x10100, 1, 9] (fun s => (ptB s).modCtx 1 fun x => { x with regions := [{ base := 0, len := 2^21, holder := 0, bytes := { c := 5, m := 0 }, macs := { c := 6, m := 0 } }] })) (((mb true 12 1 [0x10100, 1, 9] (fun s => (ptB s).modCtx 1 fun x => { x with regions := [{ base := 0, len := 2^21, holder := 0, bytes := { c := 5, m := 0 }, macs := { c := 6, m := 0 } }] })).ctx? 1).getD loadedCtx) dd dd |>.2.2.2.2.2.1 (by refine ⟨by unfold Served; decide +kernel, dd, dd, dd, dd⟩) dd dd |>.1 (Or.inl dd)⟩
  · exact ⟨_, H.2.2.2.2 (msg 12 1 [0x10100, 1, 9]) (mb true 12 1 [0x10100, 1, 9] (ptB)) (((mb true 12 1 [0x10100, 1, 9] (ptB)).ctx? 1).getD loadedCtx) dd dd |>.2.2.2.2.2.1 (by refine ⟨by unfold Served; decide +kernel, dd, dd, dd, dd⟩) dd dd |>.2 dd dd (walkNow (taken (mb true 12 1 [0x10100, 1, 9] (ptB))) 1 0x10100 Need.write).1 0x10100 dd⟩
  · exact ⟨_, H.2.2.2.2 (msg 3 1 [0, 0]) (mb true 3 1 [0, 0]) (((mb true 3 1 [0, 0]).ctx? 1).getD loadedCtx) dd dd |>.2.2.2.2.2.2 1 (G (mb true 3 1 [0, 0])) 0 (P (mb true 3 1 [0, 0])) dd dd dd dd dd |>.1 (by refine ⟨by unfold Served; decide +kernel, dd, dd, dd, dd⟩)⟩
  · exact ⟨_, H.2.2.2.2 (msg 4 1 [0, 0]) (mb true 4 1 [0, 0]) (((mb true 4 1 [0, 0]).ctx? 1).getD loadedCtx) dd dd |>.2.2.2.2.2.2 1 (G (mb true 4 1 [0, 0])) 0 (P (mb true 4 1 [0, 0])) dd dd dd dd dd |>.2.1 dd |>.1 (by refine ⟨by unfold Served; decide +kernel, dd, dd, dd, dd⟩)⟩
  · exact ⟨_, H.2.2.2.2 (msg 5 1 [0, 0]) (mb true 5 1 [0, 0]) (((mb true 5 1 [0, 0]).ctx? 1).getD loadedCtx) dd dd |>.2.2.2.2.2.2 1 (G (mb true 5 1 [0, 0])) 0 (P (mb true 5 1 [0, 0])) dd dd dd dd dd |>.2.1 dd |>.2 (by refine ⟨by unfold Served; decide +kernel, dd, dd, dd, dd⟩)⟩
  · obtain ⟨_, h, _⟩ := H.2.2.2.2 (msg 6 1 [0, 0]) (mb true 6 1 [0, 0]) (((mb true 6 1 [0, 0]).ctx? 1).getD loadedCtx) dd dd |>.2.2.2.2.2.2 1 (G (mb true 6 1 [0, 0])) 0 (P (mb true 6 1 [0, 0])) dd dd dd dd dd |>.2.2.1 (by intro h hh b; have : ∀ h ∈ (mb true 6 1 [0, 0]).groups, h.2.kind = .grid := (by decide +kernel); rw [this h hh]; simp) (by refine ⟨by unfold Served; decide +kernel, dd, dd, dd, dd⟩)
    exact ⟨_, h⟩
  · obtain ⟨_, _, h, _⟩ := H.2.2.2.2 (msg 4 1 [0, 0]) (mb true 4 1 [0, 0] (fun s => hp (onP (fun p => { p with cond := .trapped (trp .brk false) }) s))) (((mb true 4 1 [0, 0] (fun s => hp (onP (fun p => { p with cond := .trapped (trp .brk false) }) s))).ctx? 1).getD loadedCtx) dd dd |>.2.2.2.2.2.2 1 (G (mb true 4 1 [0, 0] (fun s => hp (onP (fun p => { p with cond := .trapped (trp .brk false) }) s)))) 0 (P (mb true 4 1 [0, 0] (fun s => hp (onP (fun p => { p with cond := .trapped (trp .brk false) }) s)))) dd dd dd dd dd |>.2.2.2.1 2 (((mb true 4 1 [0, 0] (fun s => hp (onP (fun p => { p with cond := .trapped (trp .brk false) }) s))).group? 2).getD (G (mb true 4 1 [0, 0] (fun s => hp (onP (fun p => { p with cond := .trapped (trp .brk false) }) s))))) (trp .brk false) (by refine ⟨by unfold Served; decide +kernel, dd, dd, dd, dd⟩) dd dd dd dd dd
    exact ⟨_, h⟩

theorem test_handlersAndPorter_meets_3 (H : Obligations.HandlersAndPorter) :
    (∃ t, exec (.porterResume (msg 4 1 [0, 0])) (mb true 4 1 [0, 0] (fun s => let t := hp (onP (fun p => { p with cond := .trapped (trp .brk false), skipCmp := [5] }) s); t.modGroup 2 fun h => { h with trapaddr := 0x10080 })) = .next t) ∧
    (∃ t, exec (.porterResume (msg 4 1 [0, 0])) (mb true 4 1 [0, 0] (fun s => let t := hp (onP (fun p => { p with cond := .trapped (trp .step false), skipCmp := [5] }) s); t.modGroup 2 fun h => { h with trapaddr := 0x10040 })) = .next t) ∧
    (∃ t, exec (.rdreg (msg 9 1 [0, 0, 0, 5])) (mb true 9 1 [0, 0, 0, 5]) = .next t) ∧
    (∃ t, exec (.rdreg (msg 9 1 [0, 0, 1, 5])) (mb true 9 1 [0, 0, 1, 5]) = .next t) ∧
    (∃ t, exec (.rdreg (msg 9 1 [0, 0, 2, 0])) (mb true 9 1 [0, 0, 2, 0]) = .next t) ∧
    (∃ t, exec (.rdreg (msg 9 1 [0, 0, 2, 5])) (mb true 9 1 [0, 0, 2, 5]) = .next t) ∧
    (∃ t, exec (.rdreg (msg 9 1 [0, 0, 3, 5])) (mb true 9 1 [0, 0, 3, 5]) = .next t) ∧
    (∃ t, exec (.wrreg (msg 10 1 [0, 0, 0, 5, 9, 1])) (mb true 10 1 [0, 0, 0, 5, 9, 1] (fun s => onG (fun g => { g with rstack := [{ tok := 2, fdepth := 0, dmask := 0xf0, dpc := 0x10040, phase := false, owner := 0 }] }) s)) = .next t) ∧
    (∃ t, exec (.wrreg (msg 10 1 [0, 0, 1, 5, 9, 1])) (mb true 10 1 [0, 0, 1, 5, 9, 1] (fun s => onG (fun g => { g with rstack := [{ tok := 2, fdepth := 0, dmask := 0xf0, dpc := 0x10040, phase := false, owner := 0 }] }) s)) = .next t) ∧
    (∃ t, exec (.wrreg (msg 10 1 [0, 0, 2, 5, 9, 1])) (mb true 10 1 [0, 0, 2, 5, 9, 1] (fun s => onG (fun g => { g with rstack := [{ tok := 2, fdepth := 0, dmask := 0xf0, dpc := 0x10040, phase := false, owner := 0 }] }) s)) = .next t) ∧
    (∃ t, exec (.wrreg (msg 10 1 [0, 0, 3, 0, 9, 1])) (mb true 10 1 [0, 0, 3, 0, 9, 1] (fun s => onG (fun g => { g with rstack := [{ tok := 2, fdepth := 0, dmask := 0xf0, dpc := 0x10040, phase := false, owner := 0 }] }) s)) = .next t) ∧
    (∃ t, exec (.wrreg (msg 10 1 [0, 0, 2, 0, 9, 1])) (mb true 10 1 [0, 0, 2, 0, 9, 1] (fun s => onG (fun g => { g with rstack := [{ tok := 2, fdepth := 0, dmask := 0xf0, dpc := 0x10040, phase := false, owner := 0 }] }) s)) = .next t) := by
  refine ⟨?_, ?_, ?_, ?_, ?_, ?_, ?_, ?_, ?_, ?_, ?_, ?_⟩
  · obtain ⟨_, _, h, _⟩ := H.2.2.2.2 (msg 4 1 [0, 0]) (mb true 4 1 [0, 0] (fun s => let t := hp (onP (fun p => { p with cond := .trapped (trp .brk false), skipCmp := [5] }) s); t.modGroup 2 fun h => { h with trapaddr := 0x10080 })) (((mb true 4 1 [0, 0] (fun s => let t := hp (onP (fun p => { p with cond := .trapped (trp .brk false), skipCmp := [5] }) s); t.modGroup 2 fun h => { h with trapaddr := 0x10080 })).ctx? 1).getD loadedCtx) dd dd |>.2.2.2.2.2.2 1 (G (mb true 4 1 [0, 0] (fun s => let t := hp (onP (fun p => { p with cond := .trapped (trp .brk false), skipCmp := [5] }) s); t.modGroup 2 fun h => { h with trapaddr := 0x10080 }))) 0 (P (mb true 4 1 [0, 0] (fun s => let t := hp (onP (fun p => { p with cond := .trapped (trp .brk false), skipCmp := [5] }) s); t.modGroup 2 fun h => { h with trapaddr := 0x10080 }))) dd dd dd dd dd |>.2.2.2.1 2 (((mb true 4 1 [0, 0] (fun s => let t := hp (onP (fun p => { p with cond := .trapped (trp .brk false), skipCmp := [5] }) s); t.modGroup 2 fun h => { h with trapaddr := 0x10080 })).group? 2).getD (G (mb true 4 1 [0, 0] (fun s => let t := hp (onP (fun p => { p with cond := .trapped (trp .brk false), skipCmp := [5] }) s); t.modGroup 2 fun h => { h with trapaddr := 0x10080 })))) (trp .brk false) (by refine ⟨by unfold Served; decide +kernel, dd, dd, dd, dd⟩) dd dd dd dd dd
    exact ⟨_, h⟩
  · obtain ⟨_, _, h, _⟩ := H.2.2.2.2 (msg 4 1 [0, 0]) (mb true 4 1 [0, 0] (fun s => let t := hp (onP (fun p => { p with cond := .trapped (trp .step false), skipCmp := [5] }) s); t.modGroup 2 fun h => { h with trapaddr := 0x10040 })) (((mb true 4 1 [0, 0] (fun s => let t := hp (onP (fun p => { p with cond := .trapped (trp .step false), skipCmp := [5] }) s); t.modGroup 2 fun h => { h with trapaddr := 0x10040 })).ctx? 1).getD loadedCtx) dd dd |>.2.2.2.2.2.2 1 (G (mb true 4 1 [0, 0] (fun s => let t := hp (onP (fun p => { p with cond := .trapped (trp .step false), skipCmp := [5] }) s); t.modGroup 2 fun h => { h with trapaddr := 0x10040 }))) 0 (P (mb true 4 1 [0, 0] (fun s => let t := hp (onP (fun p => { p with cond := .trapped (trp .step false), skipCmp := [5] }) s); t.modGroup 2 fun h => { h with trapaddr := 0x10040 }))) dd dd dd dd dd |>.2.2.2.1 2 (((mb true 4 1 [0, 0] (fun s => let t := hp (onP (fun p => { p with cond := .trapped (trp .step false), skipCmp := [5] }) s); t.modGroup 2 fun h => { h with trapaddr := 0x10040 })).group? 2).getD (G (mb true 4 1 [0, 0] (fun s => let t := hp (onP (fun p => { p with cond := .trapped (trp .step false), skipCmp := [5] }) s); t.modGroup 2 fun h => { h with trapaddr := 0x10040 })))) (trp .step false) (by refine ⟨by unfold Served; decide +kernel, dd, dd, dd, dd⟩) dd dd dd dd dd
    exact ⟨_, h⟩
  · exact ⟨_, H.2.2.2.2 (msg 9 1 [0, 0, 0, 5]) (mb true 9 1 [0, 0, 0, 5]) (((mb true 9 1 [0, 0, 0, 5]).ctx? 1).getD loadedCtx) dd dd |>.2.2.2.2.2.2 1 (G (mb true 9 1 [0, 0, 0, 5])) 0 (P (mb true 9 1 [0, 0, 0, 5])) dd dd dd dd dd |>.2.2.2.2.1 (by refine ⟨by unfold Served; decide +kernel, dd, dd, dd, dd⟩) |>.1 dd dd⟩
  · exact ⟨_, H.2.2.2.2 (msg 9 1 [0, 0, 1, 5]) (mb true 9 1 [0, 0, 1, 5]) (((mb true 9 1 [0, 0, 1, 5]).ctx? 1).getD loadedCtx) dd dd |>.2.2.2.2.2.2 1 (G (mb true 9 1 [0, 0, 1, 5])) 0 (P (mb true 9 1 [0, 0, 1, 5])) dd dd dd dd dd |>.2.2.2.2.1 (by refine ⟨by unfold Served; decide +kernel, dd, dd, dd, dd⟩) |>.2.1 dd dd⟩
  · exact ⟨_, H.2.2.2.2 (msg 9 1 [0, 0, 2, 0]) (mb true 9 1 [0, 0, 2, 0]) (((mb true 9 1 [0, 0, 2, 0]).ctx? 1).getD loadedCtx) dd dd |>.2.2.2.2.2.2 1 (G (mb true 9 1 [0, 0, 2, 0])) 0 (P (mb true 9 1 [0, 0, 2, 0])) dd dd dd dd dd |>.2.2.2.2.1 (by refine ⟨by unfold Served; decide +kernel, dd, dd, dd, dd⟩) |>.2.2.1 dd dd⟩
  · exact ⟨_, H.2.2.2.2 (msg 9 1 [0, 0, 2, 5]) (mb true 9 1 [0, 0, 2, 5]) (((mb true 9 1 [0, 0, 2, 5]).ctx? 1).getD loadedCtx) dd dd |>.2.2.2.2.2.2 1 (G (mb true 9 1 [0, 0, 2, 5])) 0 (P (mb true 9 1 [0, 0, 2, 5])) dd dd dd dd dd |>.2.2.2.2.1 (by refine ⟨by unfold Served; decide +kernel, dd, dd, dd, dd⟩) |>.2.2.1 dd dd⟩
  · exact ⟨_, H.2.2.2.2 (msg 9 1 [0, 0, 3, 5]) (mb true 9 1 [0, 0, 3, 5]) (((mb true 9 1 [0, 0, 3, 5]).ctx? 1).getD loadedCtx) dd dd |>.2.2.2.2.2.2 1 (G (mb true 9 1 [0, 0, 3, 5])) 0 (P (mb true 9 1 [0, 0, 3, 5])) dd dd dd dd dd |>.2.2.2.2.1 (by refine ⟨by unfold Served; decide +kernel, dd, dd, dd, dd⟩) |>.2.2.2 dd dd⟩
  · obtain ⟨_, _, h, _⟩ := H.2.2.2.2 (msg 10 1 [0, 0, 0, 5, 9, 1]) (mb true 10 1 [0, 0, 0, 5, 9, 1] (fun s => onG (fun g => { g with rstack := [{ tok := 2, fdepth := 0, dmask := 0xf0, dpc := 0x10040, phase := false, owner := 0 }] }) s)) (((mb true 10 1 [0, 0, 0, 5, 9, 1] (fun s => onG (fun g => { g with rstack := [{ tok := 2, fdepth := 0, dmask := 0xf0, dpc := 0x10040, phase := false, owner := 0 }] }) s)).ctx? 1).getD loadedCtx) dd dd |>.2.2.2.2.2.2 1 (G (mb true 10 1 [0, 0, 0, 5, 9, 1] (fun s => onG (fun g => { g with rstack := [{ tok := 2, fdepth := 0, dmask := 0xf0, dpc := 0x10040, phase := false, owner := 0 }] }) s))) 0 (P (mb true 10 1 [0, 0, 0, 5, 9, 1] (fun s => onG (fun g => { g with rstack := [{ tok := 2, fdepth := 0, dmask := 0xf0, dpc := 0x10040, phase := false, owner := 0 }] }) s))) dd dd dd dd dd |>.2.2.2.2.2 (by refine ⟨by unfold Served; decide +kernel, dd, dd, dd, dd⟩) |>.1 dd dd
    exact ⟨_, h⟩
  · obtain ⟨_, _, h, _⟩ := H.2.2.2.2 (msg 10 1 [0, 0, 1, 5, 9, 1]) (mb true 10 1 [0, 0, 1, 5, 9, 1] (fun s => onG (fun g => { g with rstack := [{ tok := 2, fdepth := 0, dmask := 0xf0, dpc := 0x10040, phase := false, owner := 0 }] }) s)) (((mb true 10 1 [0, 0, 1, 5, 9, 1] (fun s => onG (fun g => { g with rstack := [{ tok := 2, fdepth := 0, dmask := 0xf0, dpc := 0x10040, phase := false, owner := 0 }] }) s)).ctx? 1).getD loadedCtx) dd dd |>.2.2.2.2.2.2 1 (G (mb true 10 1 [0, 0, 1, 5, 9, 1] (fun s => onG (fun g => { g with rstack := [{ tok := 2, fdepth := 0, dmask := 0xf0, dpc := 0x10040, phase := false, owner := 0 }] }) s))) 0 (P (mb true 10 1 [0, 0, 1, 5, 9, 1] (fun s => onG (fun g => { g with rstack := [{ tok := 2, fdepth := 0, dmask := 0xf0, dpc := 0x10040, phase := false, owner := 0 }] }) s))) dd dd dd dd dd |>.2.2.2.2.2 (by refine ⟨by unfold Served; decide +kernel, dd, dd, dd, dd⟩) |>.2.1 dd dd
    exact ⟨_, h⟩
  · obtain ⟨_, _, h, _⟩ := H.2.2.2.2 (msg 10 1 [0, 0, 2, 5, 9, 1]) (mb true 10 1 [0, 0, 2, 5, 9, 1] (fun s => onG (fun g => { g with rstack := [{ tok := 2, fdepth := 0, dmask := 0xf0, dpc := 0x10040, phase := false, owner := 0 }] }) s)) (((mb true 10 1 [0, 0, 2, 5, 9, 1] (fun s => onG (fun g => { g with rstack := [{ tok := 2, fdepth := 0, dmask := 0xf0, dpc := 0x10040, phase := false, owner := 0 }] }) s)).ctx? 1).getD loadedCtx) dd dd |>.2.2.2.2.2.2 1 (G (mb true 10 1 [0, 0, 2, 5, 9, 1] (fun s => onG (fun g => { g with rstack := [{ tok := 2, fdepth := 0, dmask := 0xf0, dpc := 0x10040, phase := false, owner := 0 }] }) s))) 0 (P (mb true 10 1 [0, 0, 2, 5, 9, 1] (fun s => onG (fun g => { g with rstack := [{ tok := 2, fdepth := 0, dmask := 0xf0, dpc := 0x10040, phase := false, owner := 0 }] }) s))) dd dd dd dd dd |>.2.2.2.2.2 (by refine ⟨by unfold Served; decide +kernel, dd, dd, dd, dd⟩) |>.2.2.1 dd dd dd
    exact ⟨_, h⟩
  · obtain ⟨_, _, h, _⟩ := H.2.2.2.2 (msg 10 1 [0, 0, 3, 0, 9, 1]) (mb true 10 1 [0, 0, 3, 0, 9, 1] (fun s => onG (fun g => { g with rstack := [{ tok := 2, fdepth := 0, dmask := 0xf0, dpc := 0x10040, phase := false, owner := 0 }] }) s)) (((mb true 10 1 [0, 0, 3, 0, 9, 1] (fun s => onG (fun g => { g with rstack := [{ tok := 2, fdepth := 0, dmask := 0xf0, dpc := 0x10040, phase := false, owner := 0 }] }) s)).ctx? 1).getD loadedCtx) dd dd |>.2.2.2.2.2.2 1 (G (mb true 10 1 [0, 0, 3, 0, 9, 1] (fun s => onG (fun g => { g with rstack := [{ tok := 2, fdepth := 0, dmask := 0xf0, dpc := 0x10040, phase := false, owner := 0 }] }) s))) 0 (P (mb true 10 1 [0, 0, 3, 0, 9, 1] (fun s => onG (fun g => { g with rstack := [{ tok := 2, fdepth := 0, dmask := 0xf0, dpc := 0x10040, phase := false, owner := 0 }] }) s))) dd dd dd dd dd |>.2.2.2.2.2 (by refine ⟨by unfold Served; decide +kernel, dd, dd, dd, dd⟩) |>.2.2.2.1 dd dd dd
    exact ⟨_, h⟩
  · exact ⟨_, H.2.2.2.2 (msg 10 1 [0, 0, 2, 0, 9, 1]) (mb true 10 1 [0, 0, 2, 0, 9, 1] (fun s => onG (fun g => { g with rstack := [{ tok := 2, fdepth := 0, dmask := 0xf0, dpc := 0x10040, phase := false, owner := 0 }] }) s)) (((mb true 10 1 [0, 0, 2, 0, 9, 1] (fun s => onG (fun g => { g with rstack := [{ tok := 2, fdepth := 0, dmask := 0xf0, dpc := 0x10040, phase := false, owner := 0 }] }) s)).ctx? 1).getD loadedCtx) dd dd |>.2.2.2.2.2.2 1 (G (mb true 10 1 [0, 0, 2, 0, 9, 1] (fun s => onG (fun g => { g with rstack := [{ tok := 2, fdepth := 0, dmask := 0xf0, dpc := 0x10040, phase := false, owner := 0 }] }) s))) 0 (P (mb true 10 1 [0, 0, 2, 0, 9, 1] (fun s => onG (fun g => { g with rstack := [{ tok := 2, fdepth := 0, dmask := 0xf0, dpc := 0x10040, phase := false, owner := 0 }] }) s))) dd dd dd dd dd |>.2.2.2.2.2 (by refine ⟨by unfold Served; decide +kernel, dd, dd, dd, dd⟩) |>.2.2.2.2.1 dd dd⟩

theorem test_handlersAndPorter_meets_4 (H : Obligations.HandlersAndPorter) :
    (∃ t, exec (.wrreg (msg 10 1 [0, 0, 4, 5, 9, 1])) (mb true 10 1 [0, 0, 4, 5, 9, 1] (fun s => onG (fun g => { g with rstack := [{ tok := 2, fdepth := 0, dmask := 0xf0, dpc := 0x10040, phase := false, owner := 0 }] }) s)) = .next t) := by
  · exact ⟨_, H.2.2.2.2 (msg 10 1 [0, 0, 4, 5, 9, 1]) (mb true 10 1 [0, 0, 4, 5, 9, 1] (fun s => onG (fun g => { g with rstack := [{ tok := 2, fdepth := 0, dmask := 0xf0, dpc := 0x10040, phase := false, owner := 0 }] }) s)) (((mb true 10 1 [0, 0, 4, 5, 9, 1] (fun s => onG (fun g => { g with rstack := [{ tok := 2, fdepth := 0, dmask := 0xf0, dpc := 0x10040, phase := false, owner := 0 }] }) s)).ctx? 1).getD loadedCtx) dd dd |>.2.2.2.2.2.2 1 (G (mb true 10 1 [0, 0, 4, 5, 9, 1] (fun s => onG (fun g => { g with rstack := [{ tok := 2, fdepth := 0, dmask := 0xf0, dpc := 0x10040, phase := false, owner := 0 }] }) s))) 0 (P (mb true 10 1 [0, 0, 4, 5, 9, 1] (fun s => onG (fun g => { g with rstack := [{ tok := 2, fdepth := 0, dmask := 0xf0, dpc := 0x10040, phase := false, owner := 0 }] }) s))) dd dd dd dd dd |>.2.2.2.2.2 (by refine ⟨by unfold Served; decide +kernel, dd, dd, dd, dd⟩) |>.2.2.2.2.2 dd⟩

/-! States and operands for MemoryReadsBack, MemoryKept, DeviceKept, EncodeDecode, StepRunsDecoded. -/

noncomputable def isNext : Host.Outcome State Fault Refusal → Bool | .next _ => true | _ => false
theorem nextOf {o : Host.Outcome State Fault Refusal} (h : isNext o = true) : ∃ t, o = .next t := by
  cases o with
  | next t => exact ⟨t, rfl⟩
  | fault f => exact absurd h (by simp [isNext])
  | refused r => exact absurd h (by simp [isNext])
noncomputable def isRun : Fetch → Option (Prefixes × Nat × Nat) | .run (.instr p w n) => some (p, w, n) | _ => none
theorem runOf {f : Fetch} {p : Prefixes} {w n : Nat} (h : isRun f = some (p, w, n)) : f = .run (.instr p w n) := by
  unfold isRun at h
  split at h
  · cases h; rfl
  · cases h
noncomputable def code (ws : List Nat) (s : State) : State := { s with mem := putBytes s.mem 0x10000 (ws.flatMap (bytesLE 4)) }
noncomputable def stp (ws : List Nat) (s : State) : State := { code ws s with agenda := [.issue 1 0] }
noncomputable def ag (a : Act) (s : State) : State := { s with agenda := [a] }
noncomputable def isu (s : State) : Issue := (hasTurn s 1 0).getD { gid := 0, slot := 0, pipe := 0, draws := false }
noncomputable def out (s : State) : State := { s with agenda := [] }
/-- The run at the pc. -/
noncomputable def runAt (s : State) : Prefixes × Nat × Nat := match fetchRun s (G s) (P s) runMax [] with | .run (.instr p w n) => (p, w, n) | _ => (Prefixes.none, 0, 0)
noncomputable def wSadd : List Nat := [0x04014307]
/-- An imm prefix before saddi; rpt 2 stepping d before sadd; the same at repetition 1 with d = 127. -/
noncomputable def wImm : List Nat := [0xFD000001, 0x10183FFF]
noncomputable def wRpt : List Nat := [0xFF041000, 0x04014307]
noncomputable def wEnd : List Nat := [0xFF041000, 0x041FC307]
noncomputable def rep1 : State := onP (fun p => { p with rep := 1 }) base
/-- A path of which an access to another page was aborted. -/
noncomputable def abS : State := onP (fun p => { p with aborted := true, permFail := [(0x20000, 0, 0)] }) base
noncomputable def dueT : State := base.modCore 0 fun k => { k with hb := k.hb.put 1 { (base.hb 0 1) with period := 100, due := true } }
noncomputable def noneIss : State := onP (fun p => { p with halted := true }) base
theorem noTell {s : State} {c : Nat} (h : s.memErrs = []) (ls : List Nat) : NoneToTell s c ls := by
  intro l _; simp [h, SMap.find?]
theorem stepNext : ∃ t, step (stp wSadd base) = .next t := nextOf (by decide +kernel)
theorem saddNext : ∃ t, exec (.sadd 1 2 3) base = .next t := nextOf (by decide +kernel)
theorem boundNext : ∃ t, exec (.sadd 127 6 7) ((issuing (out (stp wEnd rep1)) (P (stp wEnd rep1)) (isu (stp wEnd rep1)) (runAt (stp wEnd rep1)).1 (runAt (stp wEnd rep1)).2.2).modGroup (isu (stp wEnd rep1)).gid fun h => { h with kind := .grid }) = .next t := nextOf (by decide +kernel)

theorem test_memoryReadsBack_meets (H : Obligations.MemoryReadsBack) :
    (MemOk (base.wr 0x10100 [1, 0])) ∧
    (base.mem = base.mem) ∧
    ((homeWrite base none 0x10100 [1, 0]).mem = putBytes base.mem 0x10100 [1, 0]) := by
  refine ⟨?_, ?_, ?_⟩
  · exact H.2.2.1 base 0x10100 [1, 0] (by unfold MemOk; decide +kernel)
  · exact H.2.2.2.1 base base (by unfold MemOk; decide +kernel) (by unfold MemOk; decide +kernel) (fun _ => rfl)
  · exact (H.2.2.2.2 base none 0x10100 [1, 0] (by simp) dd).1

theorem test_memoryKept_meets (H : Obligations.MemoryKept) :
    (∃ t, step (stp wSadd base) = .next t ∧ MemOk t) := by
  · exact ⟨stepNext.choose, stepNext.choose_spec, H (stp wSadd base) stepNext.choose (by unfold MemOk; decide +kernel) stepNext.choose_spec⟩

theorem test_deviceKept_meets (H : Obligations.DeviceKept) :
    (∃ t, exec (.sadd 1 2 3) base = .next t ∧ SameDevice base t) := by
  · exact ⟨saddNext.choose, saddNext.choose_spec, H (.sadd 1 2 3) base saddNext.choose dd saddNext.choose_spec⟩

theorem test_encodeDecode_meets (H : Obligations.EncodeDecode) :
    (decodeWord (encode (.sadd 1 2 127)) = some (.sadd 1 2 127)) ∧
    (encode (.sadd 5 6 7) = 0x04014307) := by
  refine ⟨?_, ?_⟩
  · exact (H.1 (.sadd 1 2 127) dd (by simp only [Instr.WF]; decide)).2
  · exact (H.2 0x04014307 (.sadd 5 6 7) dd dd).2.2

theorem test_stepRunsDecoded_meets_1 (H : Obligations.StepRunsDecoded) :
    (step (stp wSadd base) = exec (.sadd 5 6 7) (issuing (out (stp wSadd base)) (P (stp wSadd base)) (isu (stp wSadd base)) Prefixes.none 0)) ∧
    (step (out (stp wSadd base)) = exec (.sadd 5 6 7) (issuing (out (stp wSadd base)) (P base) (isu (stp wSadd base)) Prefixes.none 0)) ∧
    (step (stp wSadd abS) = exec (.sadd 5 6 7) (issuing (out (stp wSadd abS)) (P (stp wSadd abS)) (isu (stp wSadd abS)) Prefixes.none 0)) ∧
    (step (stp wImm base) = exec ((decodeWord (runAt (stp wImm base)).2.1).getD .illopEncoding) (issuing (out (stp wImm base)) (P (stp wImm base)) (isu (stp wImm base)) (runAt (stp wImm base)).1 (runAt (stp wImm base)).2.2)) ∧
    (step (stp wRpt rep1) = exec ((decodeWord 0x04018307).getD .illopEncoding) (issuing (out (stp wRpt rep1)) (P (stp wRpt rep1)) (isu (stp wRpt rep1)) (runAt (stp wRpt rep1)).1 (runAt (stp wRpt rep1)).2.2)) ∧
    (∃ t, step (stp wEnd rep1) = .next t) ∧
    (∃ x, step (ag (.event .reset) base) = exec .reset x) ∧
    (∃ t, step (ag (.tick 3) base) = .next t) ∧
    (∃ t, step (ag (.issue 7 0) base) = .next t) ∧
    (step (ag (.tick 3) dueT) = exec (.heartbeatTick 0 1) (ag (.tick 3) dueT)) ∧
    (∃ t, step (ag (.clock 12 12) { base with power := { base.power with st := .capped } }) = .next t) ∧
    (∃ t, step (ag (.hold true) base) = .next t) := by
  refine ⟨?_, ?_, ?_, ?_, ?_, ?_, ?_, ?_, ?_, ?_, ?_, ?_⟩
  · exact H.1 (stp wSadd base) (out (stp wSadd base)) (isu (stp wSadd base)) (G (stp wSadd base)) (P (stp wSadd base)) 0x10000 (Or.inl ⟨[], dd, dd, rfl, dd⟩) ⟨dd, dd, dd, dd, dd, dd, fun _ _ _ _ => noTell rfl _⟩ |>.1 (.sadd 5 6 7) dd
  · exact H.1 (out (stp wSadd base)) (out (stp wSadd base)) (isu (stp wSadd base)) (G base) (P base) 0x10000 (Or.inr ⟨dd, dd, dd, rfl⟩) ⟨dd, dd, dd, dd, dd, dd, fun _ _ _ _ => noTell rfl _⟩ |>.1 (.sadd 5 6 7) dd
  · exact H.1 (stp wSadd abS) (out (stp wSadd abS)) (isu (stp wSadd abS)) (G (stp wSadd abS)) (P (stp wSadd abS)) 0x10000 (Or.inl ⟨[], dd, dd, rfl, dd⟩) ⟨dd, dd, dd, dd, dd, dd, fun _ _ _ _ => noTell rfl _⟩ |>.1 (.sadd 5 6 7) dd
  · exact H.1 (stp wImm base) (out (stp wImm base)) (isu (stp wImm base)) (G (stp wImm base)) (P (stp wImm base)) 0x10000 (Or.inl ⟨[], dd, dd, rfl, dd⟩) ⟨dd, dd, dd, dd, dd, dd, fun _ _ _ _ => noTell rfl _⟩ |>.2 (runAt (stp wImm base)).1 (runAt (stp wImm base)).2.1 (runAt (stp wImm base)).2.2 (runOf dd) |>.1 dd
  · exact H.1 (stp wRpt rep1) (out (stp wRpt rep1)) (isu (stp wRpt rep1)) (G (stp wRpt rep1)) (P (stp wRpt rep1)) 0x10000 (Or.inl ⟨[], dd, dd, rfl, dd⟩) ⟨dd, dd, dd, dd, dd, dd, fun _ _ _ _ => noTell rfl _⟩ |>.2 (runAt (stp wRpt rep1)).1 (runAt (stp wRpt rep1)).2.1 (runAt (stp wRpt rep1)).2.2 (runOf dd) |>.2.1 { cnt := 2, sd := 1, sa := 0, sb := 0 } 0x04018307 dd dd
  · exact ⟨_, H.1 (stp wEnd rep1) (out (stp wEnd rep1)) (isu (stp wEnd rep1)) (G (stp wEnd rep1)) (P (stp wEnd rep1)) 0x10000 (Or.inl ⟨[], dd, dd, rfl, dd⟩) ⟨dd, dd, dd, dd, dd, dd, fun _ _ _ _ => noTell rfl _⟩ |>.2 (runAt (stp wEnd rep1)).1 (runAt (stp wEnd rep1)).2.1 (runAt (stp wEnd rep1)).2.2 (runOf dd) |>.2.2 { cnt := 2, sd := 1, sa := 0, sb := 0 } (.sadd 127 6 7) boundNext.choose dd dd dd boundNext.choose_spec⟩
  · exact ⟨_, (H.2.1 (ag (.event .reset) base) (.event .reset) [] dd).1 .reset dd dd⟩
  · exact ⟨_, (H.2.1 (ag (.tick 3) base) (.tick 3) [] dd).2.1 2 dd dd⟩
  · exact ⟨_, (H.2.1 (ag (.issue 7 0) base) (.issue 7 0) [] dd).2.2.1 7 0 dd dd dd⟩
  · exact (H.2.1 (ag (.tick 3) dueT) (.tick 3) [] dd).2.2.2.1 (.heartbeatTick 0 1) dd dd
  · obtain ⟨_, h, _⟩ := (H.2.1 (ag (.clock 12 12) { base with power := { base.power with st := .capped } }) (.clock 12 12) [] dd).2.2.2.2.1 12 12 dd dd dd dd
    exact ⟨_, h⟩
  · exact ⟨_, (H.2.1 (ag (.hold true) base) (.hold true) [] dd).2.2.2.2.2.1 dd⟩

theorem test_stepRunsDecoded_meets_2 (H : Obligations.StepRunsDecoded) :
    (∃ t, step (ag (.hold false) base) = .next t) ∧
    (∃ t, step (ag (.damage 1 0 3) base) = .next t) ∧
    (step dueT = exec (.heartbeatTick 0 1) dueT) ∧
    (step noneIss = .next (cycle noneIss)) ∧
    ((cycle base).cycles = base.cycles + 1) ∧
    ((cycle { base with power := { base.power with st := .retention } }).cycles = base.cycles) ∧
    (∃ x : State, cycle { base with power := { base.power with st := .off } } = x ∧ x.cycles = 1000) := by
  refine ⟨?_, ?_, ?_, ?_, ?_, ?_, ?_⟩
  · obtain ⟨_, h, _⟩ := (H.2.1 (ag (.hold false) base) (.hold false) [] dd).2.2.2.2.2.2.1 dd
    exact ⟨_, h⟩
  · obtain ⟨_, h, _⟩ := (H.2.1 (ag (.damage 1 0 3) base) (.damage 1 0 3) [] dd).2.2.2.2.2.2.2 1 0 3 (G base) dd dd
    exact ⟨_, h⟩
  · exact (H.2.2.1 dueT dd).1 (.heartbeatTick 0 1) dd
  · exact (H.2.2.1 noneIss dd).2 dd dd
  · exact ((H.2.2.2.1 base dd).2.1 dd).1
  · exact ((H.2.2.2.1 { base with power := { base.power with st := .retention } } dd).2.2 rfl).1
  · rw [H.2.2.2.2 { base with power := { base.power with st := .off } } dd]; exact ⟨_, rfl, rfl⟩

/-! Values that the spec writes out, one step each. -/

/-- Group 1 after instruction `i` in `s`, and one register of it. -/
noncomputable def after (i : Instr) (s : State) : Group := G (nx i s)
noncomputable def vAt (d l : Nat) (i : Instr) (s : State) : Nat := (rV (after i s) d l).toNat
noncomputable def sAt (d : Nat) (i : Instr) (s : State) : Nat := (rS (after i s) d).toNat
noncomputable def flags (i : Instr) (s : State) : Nat := (after i s).fpflags.toNat

/-- Arithmetic on scalar registers is modulo 2^64 (R77). -/
theorem test_sadd_wraps : sAt 1 (.sadd 1 2 3) (S 2 0xFFFFFFFFFFFFFFFF (S 3 2 base)) = 1 := by decide +kernel
/-- s0 reads as zero and discards writes (R47). -/
theorem test_s0_discards : sAt 0 (.saddi 0 2 5) (S 2 7 base) = 0 := by decide +kernel
/-- The words gelas emits for saddi s2, s2, 100000 (R62). -/
theorem test_imm_word : decodeWord 0x101026A0 = some (.saddi 2 2 0x6A0) ∧
    sAt 2 (.saddi 2 2 0x6A0) (pre { Prefixes.none with his := [0x18] } (S 2 0 base)) = 100000 := by decide +kernel
/-- The example of R80: POS 8, LEN 4, field 0xF. -/
theorem test_sbfx_example : sAt 4 (.sbfxI 4 5 6) (S 5 0xF00 (S 6 0x408 base)) = 0xFFFFFFFFFFFFFFFF := by decide +kernel
/-- The example of R82: the active lanes numbered below 10, and their count. -/
theorem test_mbelow_example : ((after (.mbelow 2 0 5) (S 5 10 base)).m.get 0 2).toNat = 0x3FF ∧ sAt 6 (.mpop 6 2) (M 2 0x3FF base) = 10 := by decide +kernel
/-- The example of R96: 0xF0 + 0x20 clamps to 0xFF with SAT, and wraps to 0x10 without. -/
theorem test_vadd_example : vAt 1 0 (.vaddSatN 0 1 2 3) (V 2 0 0xF0 (V 3 0 0x20 base)) = 0xFF ∧
    flags (.vaddSatN 0 1 2 3) (V 2 0 0xF0 (V 3 0 0x20 base)) = 32 ∧ vAt 1 0 (.vadd 0 1 2 3) (V 2 0 0xF0 (V 3 0 0x20 base)) = 0x10 := by decide +kernel
/-- The example of R102: 2^-6 + 2^-14 rounds to 0x3C80 with NX. -/
theorem test_vfma_bf16_example : vAt 1 0 (.vfmaBf16 1 2 3) (V 1 0 0xBF80 (V 2 0 0x3F81 (V 3 0 0x3F81 base))) = 0x3C80 ∧
    flags (.vfmaBf16 1 2 3) (V 1 0 0xBF80 (V 2 0 0x3F81 (V 3 0 0x3F81 base))) = 16 := by decide +kernel
/-- The example of R108: 3.5e9 to i32 gives 2^31 - 1 and sets NV alone. -/
theorem test_vcvt_i32_example : vAt 1 0 (.vcvtI32F32 1 2) (V 2 0 0x4F509C80 base) = 0x7FFFFFFF ∧
    flags (.vcvtI32F32 1 2) (V 2 0 0x4F509C80 base) = 1 := by decide +kernel
/-- The worked kernel of chapter 7: 897 to f8e4 is 0x7E with OF and NX, and 126 + 126 clamps to 127 with SAT. -/
theorem test_vdemo : vAt 4 0 (.vcvtF8e4F32 4 1 0) (V 1 0 0x4460400044604000 base) = 0x7E7E ∧
    flags (.vcvtF8e4F32 4 1 0) (V 1 0 0x4460400044604000 base) = 20 ∧ vAt 5 0 (.vaddSatI 0 5 4 4) (V 4 0 0x7E7E base) = 0x7F7F ∧
    flags (.vaddSatI 0 5 4 4) (V 4 0 0x7E7E base) = 32 := by decide +kernel
/-- The example of R31: -0.2 to f4 is 0b1000 where %fx0 is 0x8000_0000, and a NaN is 0x7 with NV. -/
theorem test_f4_example : let s := (base.modCtx 1 fun c => { c with fx := c.fx.put 0 0x80000000 })
    vAt 1 0 (.vcvtF4F32 1 2 0) (V 2 0 0xBE4CCCCD s) % 16 = 8 ∧ vAt 1 0 (.vcvtF4F32 1 2 0) (V 2 0 0x7FC00000 s) % 16 = 7 ∧
    flags (.vcvtF4F32 1 2 0) (V 2 0 0x7FC00000 s) = 1 := by decide +kernel
/-- The example of R44: index 0x6A names lane 13, bits 47:32 at width 16. -/
theorem test_vget_example : vAt 1 0 (.vget 1 2 0x6A) (pre { Prefixes.none with mod := some { ModW.ofPayload 0 with ewv := true, ew := 1 } } (V 2 13 0x1234567800000000 base)) = 0x5678 := by decide +kernel
/-- Table XLN.3: the seed of 1/3, and the four steps after it with x = 3 in v2. -/
theorem test_reciprocal_of_three : vAt 1 0 (.vrcpSeed 1 2) (V 2 0 0x40400000 base) % 2 ^ 32 = 0x3EAAB000 ∧
    vAt 3 0 (.vfnmaF32 3 2 1) (V 3 0 0x3F800000 (V 2 0 0x40400000 (V 1 0 0x3EAAB000 base))) = 0xB9000000 ∧
    vAt 1 0 (.vfmaF32 1 4 3) (V 1 0 0x3EAAB000 (V 4 0 0x3EAAB000 (V 3 0 0xB9000000 base))) = 0x3EAAAAAA ∧
    vAt 3 0 (.vfnmaF32 3 2 1) (V 3 0 0x3F800000 (V 2 0 0x40400000 (V 1 0 0x3EAAAAAA base))) = 0x33800000 ∧
    vAt 1 0 (.vfmaF32 1 4 3) (V 1 0 0x3EAAAAAA (V 4 0 0x3EAAAAAA (V 3 0 0x33800000 base))) = 0x3EAAAAAB := by decide +kernel
/-- Table XLN.4: among the six candidates +0 with IDX 30 wins. -/
theorem test_maxidx_order : vAt 1 7 (.vmaxidxF16 1 2) (onP (fun p => { p with mask := 0x3F })
    (V 2 0 0x3C0000FE00 (V 2 1 0x20000B800 (V 2 2 0x900008000 (V 2 3 0x2D00000000 (V 2 4 0x1E00000000 (V 2 5 0x300007E00 base))))))) = 0 ∧
    vAt 1 0 (.vmaxidxF16 1 2) (onP (fun p => { p with mask := 0x3F })
    (V 2 0 0x3C0000FE00 (V 2 1 0x20000B800 (V 2 2 0x900008000 (V 2 3 0x2D00000000 (V 2 4 0x1E00000000 (V 2 5 0x300007E00 base))))))) = 0x1E00000000 := by
  decide +kernel
/-- The example of R195: the first charge of a region raises M to 1,048,576, and the fifth of 262,144 bytes to 2,097,152. -/
theorem test_charge_example : (((charge false 1 262144 { loadedCtx with regions := [{ base := 0, len := 0, holder := 5, bytes := { c := 0, m := 0 }, macs := { c := 0, m := 0 } }] }).regions.map Region.bytes) =
      [{ c := 262144, m := 1048576 }]) ∧
    (((charge false 1 262144 { loadedCtx with regions := [{ base := 0, len := 0, holder := 5, bytes := { c := 1048576, m := 1048576 }, macs := { c := 0, m := 0 } }] }).regions.map Region.bytes) =
      [{ c := 1310720, m := 2097152 }]) := by decide +kernel
/-- FIPS 202: the first bytes of SHAKE256 of the empty message (R15). -/
theorem test_shake256_empty : (shake64 []).take 8 = [0x46, 0xB9, 0xDD, 0x2B, 0x0B, 0xA8, 0x8D, 0x13] := by decide +kernel

end Sys2Proof.Slice0
end

section
/-! What reading and writing bytes of physical memory do (R2, R5, R293; log 3). -/

namespace Sys2Proof.Machine

theorem ofBytesLE_bytesLE (n v : Nat) : ofBytesLE (bytesLE n v) = v % 2 ^ (8 * n) := by
  induction n generalizing v with
  | zero => simp [bytesLE, ofBytesLE, Nat.mod_one]
  | succ n ih =>
    have hpow : 2 ^ (8 * (n + 1)) = 256 * 2 ^ (8 * n) := by rw [Nat.mul_succ, pow_add]; ring
    simp only [bytesLE, ofBytesLE, ih, BitVec.toNat_ofNat]
    rw [hpow, Nat.mod_mul]

@[simp] theorem length_bytesLE (n v : Nat) : (bytesLE n v).length = n := by
  induction n generalizing v with
  | zero => rfl
  | succ n ih => simp [bytesLE, ih]

/-- READ AFTER WRITE, byte by byte: the bytes stand from `pa` on, every other address reads as before. -/
theorem get_putBytes (m : SMap Byte) (pa a : Nat) (bs : List Byte) :
    (putBytes m pa bs).get 0 a = if pa ≤ a ∧ a < pa + bs.length then bs.getD (a - pa) 0 else m.get 0 a := by
  induction bs generalizing m pa with
  | nil =>
    have hout : ¬ (pa ≤ a ∧ a < pa + ([] : List Byte).length) := by simp
    rw [if_neg hout, putBytes]
  | cons b t ih =>
    rw [putBytes, ih, SMap.get_set, List.length_cons]
    rcases lt_trichotomy a pa with hlt | rfl | hgt
    · rw [if_neg (by omega), if_neg (by omega), if_neg (by omega)]
    · rw [if_neg (by omega), if_pos rfl, if_pos (by omega)]
      simp
    · obtain ⟨k, rfl⟩ : ∃ k, a = pa + 1 + k := ⟨a - (pa + 1), by omega⟩
      have hidx : pa + 1 + k - pa = k + 1 := by omega
      rw [if_neg (show pa + 1 + k ≠ pa by omega), hidx, Nat.add_sub_cancel_left, List.getD_cons_succ]
      exact if_congr (by omega) rfl rfl

@[simp] theorem State.wr_mem (s : State) (pa : Nat) (bs : List Byte) : (s.wr pa bs).mem = putBytes s.mem pa bs := rfl

theorem State.bytes_wr (s : State) (pa : Nat) (bs : List Byte) : (s.wr pa bs).bytes pa bs.length = bs := by
  refine List.ext_getElem (by simp [State.bytes]) fun i _ hi => ?_
  simp only [State.bytes, State.byte, List.getElem_map, List.getElem_range, State.wr_mem]
  rw [get_putBytes, if_pos (by omega), Nat.add_sub_cancel_left, List.getD_eq_getElem _ _ hi]

theorem State.rd_wrN (s : State) (pa n v : Nat) : (s.wrN pa n v).rd pa n = v % 2 ^ (8 * n) := by
  have hbytes : (s.wrN pa n v).bytes pa n = bytesLE n v := by
    simpa [State.wrN] using s.bytes_wr pa (bytesLE n v)
  rw [State.rd, hbytes, ofBytesLE_bytesLE]

theorem State.wr_memOk {s : State} (pa : Nat) (bs : List Byte) (h : MemOk s) : MemOk (s.wr pa bs) :=
  putBytes_wf bs s.mem pa h

/-- Memories in canonical form that read alike at every address are one list. -/
theorem mem_ext {s t : State} (hs : MemOk s) (ht : MemOk t) (h : ∀ a, s.byte a = t.byte a) : s.mem = t.mem :=
  SMap.wf_ext 0 s.mem t.mem hs ht h

@[simp] theorem unstamp_mem (s : State) (line : Nat) : (unstamp s line).mem = s.mem := by
  unfold unstamp
  split <;> rfl

theorem foldl_unstamp_mem (ls : List Nat) (s : State) : (ls.foldl unstamp s).mem = s.mem := by
  induction ls generalizing s with
  | nil => rfl
  | cons l ls ih => rw [List.foldl_cons, ih, unstamp_mem]

theorem State.line_setLine_same (s : State) (line : Nat) (v : LineV) : (s.setLine line v).line line = v := by
  simp [State.line, State.setLine, SMap.get_set]

/-- R296: the line that a write outside a bundle reaches has stamp 0, no reference and no previous version; a line
that is not listed has none of them to lose. -/
theorem line_unstamp_same (s : State) (line : Nat) :
    ((unstamp s line).line line).stamp = 0 ∧ ((unstamp s line).line line).ref = none ∧
      ((unstamp s line).line line).prev = none := by
  unfold unstamp
  split
  · next hnone => simp [State.line, SMap.get, hnone, LineV.none]
  · simp [State.line_setLine_same]

/-- The lines of bytes that do not leave one line. -/
theorem linesOf_eq_singleton {pa n : Nat} (h : lineOf pa = lineOf (pa + n - 1)) : linesOf pa n = [lineOf pa] := by
  simp [linesOf, ← h]

theorem homeWrite_mem (s : State) (core : Option Nat) (pa : Nat) (bs : List Byte) :
    (homeWrite s core pa bs).mem = putBytes s.mem pa bs := by
  cases core <;> simp [homeWrite, foldl_unstamp_mem]

theorem homeWrite_line (s : State) (core : Option Nat) (pa : Nat) (bs : List Byte) (line : Nat) :
    (homeWrite s core pa bs).line line = ((linesOf pa bs.length).foldl unstamp (s.wr pa bs)).line line := by
  cases core <;> rfl

/-- Settles O57, byte by byte along the list written; the metadata of a write within one line is that line's alone. -/
theorem memoryReadsBack : Obligations.MemoryReadsBack := by
  unfold Obligations.MemoryReadsBack
  refine ⟨get_putBytes, State.rd_wrN, fun _ => State.wr_memOk, fun _ _ => mem_ext, fun s core pa bs _ hline => ?_⟩
  refine ⟨homeWrite_mem s core pa bs, ?_⟩
  rw [homeWrite_line, linesOf_eq_singleton hline]
  exact line_unstamp_same _ _

end Sys2Proof.Machine
end

section
/-! What a whole step keeps: an instruction or event by its own lemma, then the fetch and the schedule around it (log 3). -/

namespace Sys2Proof.Machine

/-- The device itself is set by these: power and heat, reset, firmware images, registers of the host port, domain and
network tables, the failure of a link. -/
def setsDevice : Instr → Bool
  | .setdomain _ | .setlinknet _ | .powerRun _ | .powerCapped _ | .powerRetention _ | .hostRegisterWrite _ _
  | .imageVerified _ | .reset | .firmwareCheckEnd _ | .powerLoss | .thermalLimit _ _ | .thermalLift | .thermalTrip _ _
  | .linkFailure _ => true
  | _ => false

/-- Every other instruction or event keeps memory canonical and the device as it is: one arm per arm of `exec`. -/
theorem exec_kept {r s : State} (h : Kept r s) (i : Instr) (hi : setsDevice i = false) : OutK r (exec i s) := by
  cases i with
  | sadd => exact execSadd_kept h
  | ssub => exact execSsub_kept h
  | smul => exact execSmul_kept h
  | smulhI => exact execSmulhI_kept h
  | smulhN => exact execSmulhN_kept h
  | sdivI => exact execSdivI_kept h
  | sdivN => exact execSdivN_kept h
  | sremI => exact execSremI_kept h
  | sremN => exact execSremN_kept h
  | sminI => exact execSminI_kept h
  | sminN => exact execSminN_kept h
  | smaxI => exact execSmaxI_kept h
  | smaxN => exact execSmaxN_kept h
  | sabs => exact execSabs_kept h
  | sneg => exact execSneg_kept h
  | seq => exact execSeq_kept h
  | sne => exact execSne_kept h
  | sltI => exact execSltI_kept h
  | sltN => exact execSltN_kept h
  | sleI => exact execSleI_kept h
  | sleN => exact execSleN_kept h
  | ssel => exact execSsel_kept h
  | smov => exact execSmov_kept h
  | sadds => exact execSadds_kept h
  | sand => exact execSand_kept h
  | sor => exact execSor_kept h
  | sxor => exact execSxor_kept h
  | sandn => exact execSandn_kept h
  | snot => exact execSnot_kept h
  | sshl => exact execSshl_kept h
  | sshr => exact execSshr_kept h
  | ssar => exact execSsar_kept h
  | srol => exact execSrol_kept h
  | sror => exact execSror_kept h
  | sclz => exact execSclz_kept h
  | sctz => exact execSctz_kept h
  | spop => exact execSpop_kept h
  | sbfxI => exact execSbfxI_kept h
  | sbfxN => exact execSbfxN_kept h
  | sbfi => exact execSbfi_kept h
  | mand => exact execMand_kept h
  | mor => exact execMor_kept h
  | mxor => exact execMxor_kept h
  | mandn => exact execMandn_kept h
  | mnot => exact execMnot_kept h
  | mmov => exact execMmov_kept h
  | mpop => exact execMpop_kept h
  | mfirst => exact execMfirst_kept h
  | mtos => exact execMtos_kept h
  | stom => exact execStom_kept h
  | mbelow => exact execMbelow_kept h
  | saddi => exact execSaddi_kept h
  | sandi => exact execSandi_kept h
  | sori => exact execSori_kept h
  | sxori => exact execSxori_kept h
  | sshli => exact execSshli_kept h
  | sshri => exact execSshri_kept h
  | sslti => exact execSslti_kept h
  | sli => exact execSli_kept h
  | br => exact execBr_kept h
  | call => exact execCall_kept h
  | bc => exact execBc_kept h
  | vbr => exact execVbr_kept h
  | vadd => exact execVadd_kept h
  | vsub => exact execVsub_kept h
  | vmul => exact execVmul_kept h
  | vmulhI => exact execVmulhI_kept h
  | vmulhN => exact execVmulhN_kept h
  | vaddSatI => exact execVaddSatI_kept h
  | vaddSatN => exact execVaddSatN_kept h
  | vminI => exact execVminI_kept h
  | vminN => exact execVminN_kept h
  | vmaxI => exact execVmaxI_kept h
  | vmaxN => exact execVmaxN_kept h
  | vabs => exact execVabs_kept h
  | vneg => exact execVneg_kept h
  | vavgN => exact execVavgN_kept h
  | vand => exact execVand_kept h
  | vor => exact execVor_kept h
  | vxor => exact execVxor_kept h
  | vandn => exact execVandn_kept h
  | vnot => exact execVnot_kept h
  | vsel => exact execVsel_kept h
  | vmov => exact execVmov_kept h
  | vshl => exact execVshl_kept h
  | vshr => exact execVshr_kept h
  | vsar => exact execVsar_kept h
  | vpop => exact execVpop_kept h
  | vclz => exact execVclz_kept h
  | vceq => exact execVceq_kept h
  | vcne => exact execVcne_kept h
  | vcltI => exact execVcltI_kept h
  | vcltN => exact execVcltN_kept h
  | vcleI => exact execVcleI_kept h
  | vcleN => exact execVcleN_kept h
  | vtom => exact execVtom_kept h
  | mtov => exact execMtov_kept h
  | vfmaF32 => exact execVfmaF32_kept h
  | vfmaF16 => exact execVfmaF16_kept h
  | vfmaBf16 => exact execVfmaBf16_kept h
  | vfmsF32 => exact execVfmsF32_kept h
  | vfmsF16 => exact execVfmsF16_kept h
  | vfmsBf16 => exact execVfmsBf16_kept h
  | vfnmaF32 => exact execVfnmaF32_kept h
  | vfnmaF16 => exact execVfnmaF16_kept h
  | vfnmaBf16 => exact execVfnmaBf16_kept h
  | vfaddF32 => exact execVfaddF32_kept h
  | vfaddF16 => exact execVfaddF16_kept h
  | vfaddBf16 => exact execVfaddBf16_kept h
  | vfsubF32 => exact execVfsubF32_kept h
  | vfsubF16 => exact execVfsubF16_kept h
  | vfsubBf16 => exact execVfsubBf16_kept h
  | vfmulF32 => exact execVfmulF32_kept h
  | vfmulF16 => exact execVfmulF16_kept h
  | vfmulBf16 => exact execVfmulBf16_kept h
  | vfminF32 => exact execVfminF32_kept h
  | vfminF16 => exact execVfminF16_kept h
  | vfminBf16 => exact execVfminBf16_kept h
  | vfmaxF32 => exact execVfmaxF32_kept h
  | vfmaxF16 => exact execVfmaxF16_kept h
  | vfmaxBf16 => exact execVfmaxBf16_kept h
  | vfminnumF32 => exact execVfminnumF32_kept h
  | vfminnumF16 => exact execVfminnumF16_kept h
  | vfminnumBf16 => exact execVfminnumBf16_kept h
  | vfmaxnumF32 => exact execVfmaxnumF32_kept h
  | vfmaxnumF16 => exact execVfmaxnumF16_kept h
  | vfmaxnumBf16 => exact execVfmaxnumBf16_kept h
  | vfceqF32 => exact execVfceqF32_kept h
  | vfceqF16 => exact execVfceqF16_kept h
  | vfceqBf16 => exact execVfceqBf16_kept h
  | vfcltF32 => exact execVfcltF32_kept h
  | vfcltF16 => exact execVfcltF16_kept h
  | vfcltBf16 => exact execVfcltBf16_kept h
  | vfcleF32 => exact execVfcleF32_kept h
  | vfcleF16 => exact execVfcleF16_kept h
  | vfcleBf16 => exact execVfcleBf16_kept h
  | vfcunF32 => exact execVfcunF32_kept h
  | vfcunF16 => exact execVfcunF16_kept h
  | vfcunBf16 => exact execVfcunBf16_kept h
  | vfabsF32 => exact execVfabsF32_kept h
  | vfabsF16 => exact execVfabsF16_kept h
  | vfabsBf16 => exact execVfabsBf16_kept h
  | vfnegF32 => exact execVfnegF32_kept h
  | vfnegF16 => exact execVfnegF16_kept h
  | vfnegBf16 => exact execVfnegBf16_kept h
  | vfclassF32 => exact execVfclassF32_kept h
  | vfclassF16 => exact execVfclassF16_kept h
  | vfclassBf16 => exact execVfclassBf16_kept h
  | vfcopysignF32 => exact execVfcopysignF32_kept h
  | vfcopysignF16 => exact execVfcopysignF16_kept h
  | vfcopysignBf16 => exact execVfcopysignBf16_kept h
  | vcvtF16F32 => exact execVcvtF16F32_kept h
  | vcvtBf16F32 => exact execVcvtBf16F32_kept h
  | vcvtF32F16 => exact execVcvtF32F16_kept h
  | vcvtF32Bf16 => exact execVcvtF32Bf16_kept h
  | vcvtI32F32 => exact execVcvtI32F32_kept h
  | vcvtN32F32 => exact execVcvtN32F32_kept h
  | vcvtF32I32 => exact execVcvtF32I32_kept h
  | vcvtF32N32 => exact execVcvtF32N32_kept h
  | vcvtF8e4F32 => exact execVcvtF8e4F32_kept h
  | vcvtF8e5F32 => exact execVcvtF8e5F32_kept h
  | vcvtF32F8e4 => exact execVcvtF32F8e4_kept h
  | vcvtF32F8e5 => exact execVcvtF32F8e5_kept h
  | vcvtF6e2F32 => exact execVcvtF6e2F32_kept h
  | vcvtF6e3F32 => exact execVcvtF6e3F32_kept h
  | vcvtF4F32 => exact execVcvtF4F32_kept h
  | vcvtF32F6e2 => exact execVcvtF32F6e2_kept h
  | vcvtF32F6e3 => exact execVcvtF32F6e3_kept h
  | vcvtF32F4 => exact execVcvtF32F4_kept h
  | vcvtI8I32 => exact execVcvtI8I32_kept h
  | vrcpSeed => exact execVrcpSeed_kept h
  | vrsqSeed => exact execVrsqSeed_kept h
  | vexpRed => exact execVexpRed_kept h
  | vlogRed => exact execVlogRed_kept h
  | vscRed => exact execVscRed_kept h
  | vldexp => exact execVldexp_kept h
  | vgetexp => exact execVgetexp_kept h
  | vgetman => exact execVgetman_kept h
  | vfrac => exact execVfrac_kept h
  | vfrnd => exact execVfrnd_kept h
  | vscFix => exact execVscFix_kept h
  | vaddi => exact execVaddi_kept h
  | vmovi => exact execVmovi_kept h
  | vsplat => exact execVsplat_kept h
  | vshfl => exact execVshfl_kept h
  | vshfleE32 => exact execVshfleE32_kept h
  | vpswap => exact execVpswap_kept h
  | vprefixAddI32 => exact execVprefixAddI32_kept h
  | vprefixAddF32 => exact execVprefixAddF32_kept h
  | vredAddI32 => exact execVredAddI32_kept h
  | vredAddF32 => exact execVredAddF32_kept h
  | vredMaxI32 => exact execVredMaxI32_kept h
  | vredMaxF32 => exact execVredMaxF32_kept h
  | vmaxidxF16 => exact execVmaxidxF16_kept h
  | vmaxidxF32 => exact execVmaxidxF32_kept h
  | vcompact => exact execVcompact_kept h
  | vexpand => exact execVexpand_kept h
  | vlaneid => exact execVlaneid_kept h
  | vvoteAll => exact execVvoteAll_kept h
  | vvoteAny => exact execVvoteAny_kept h
  | vballot => exact execVballot_kept h
  | qswpH => exact execQswpH_kept h
  | qswpV => exact execQswpV_kept h
  | qswpD => exact execQswpD_kept h
  | qbcast => exact execQbcast_kept h
  | vpkpx => exact execVpkpx_kept h
  | vunpx => exact execVunpx_kept h
  | vpkmx => exact execVpkmx_kept h
  | vunmx => exact execVunmx_kept h
  | vget => exact execVget_kept h
  | vput => exact execVput_kept h
  | vbcast => exact execVbcast_kept h
  | vbfly => exact execVbfly_kept h
  | vrot => exact execVrot_kept h
  | qbcastI => exact execQbcastI_kept h
  | vld32 => exact execVld32_kept h
  | vld64 => exact execVld64_kept h
  | vst32 => exact execVst32_kept h
  | vst64 => exact execVst64_kept h
  | vld16 => exact execVld16_kept h
  | vst16 => exact execVst16_kept h
  | vld8 => exact execVld8_kept h
  | vst8 => exact execVst8_kept h
  | sld => exact execSld_kept h
  | sst => exact execSst_kept h
  | spld => exact execSpld_kept h
  | spst => exact execSpst_kept h
  | vldx32 => exact execVldx32_kept h
  | vldx64 => exact execVldx64_kept h
  | vstx32 => exact execVstx32_kept h
  | vstx64 => exact execVstx64_kept h
  | vldx16 => exact execVldx16_kept h
  | vstx16 => exact execVstx16_kept h
  | vldx8 => exact execVldx8_kept h
  | vstx8 => exact execVstx8_kept h
  | fence => exact execFence_kept h
  | vprefetch => exact execVprefetch_kept h
  | atomAddE32 => exact execAtomAddE32_kept h
  | atomAddE64 => exact execAtomAddE64_kept h
  | atomMinI32 => exact execAtomMinI32_kept h
  | atomMinN32 => exact execAtomMinN32_kept h
  | atomMaxI32 => exact execAtomMaxI32_kept h
  | atomMaxN32 => exact execAtomMaxN32_kept h
  | atomAndB64 => exact execAtomAndB64_kept h
  | atomOrB64 => exact execAtomOrB64_kept h
  | atomXorB64 => exact execAtomXorB64_kept h
  | atomXchgE32 => exact execAtomXchgE32_kept h
  | atomXchgE64 => exact execAtomXchgE64_kept h
  | atomCasE32 => exact execAtomCasE32_kept h
  | atomCasE64 => exact execAtomCasE64_kept h
  | atomFaddF32 => exact execAtomFaddF32_kept h
  | atomFaddBf16x2 => exact execAtomFaddBf16x2_kept h
  | atomMaxidxF16 => exact execAtomMaxidxF16_kept h
  | gang => exact execGang_kept h
  | mma => exact execMma_kept h
  | mmat => exact execMmat_kept h
  | mprom => exact execMprom_kept h
  | acczero => exact execAcczero_kept h
  | wbld => exact execWbld_kept h
  | wbfree => exact execWbfree_kept h
  | fmtchk => exact execFmtchk_kept h
  | sxld => exact execSxld_kept h
  | sxrun => exact execSxrun_kept h
  | sxst => exact execSxst_kept h
  | sxstat => exact execSxstat_kept h
  | sxabort => exact execSxabort_kept h
  | acopy => exact execAcopy_kept h
  | acopyo => exact execAcopyo_kept h
  | agath => exact execAgath_kept h
  | ascat => exact execAscat_kept h
  | acoll => exact execAcoll_kept h
  | mcast => exact execMcast_kept h
  | tstat => exact execTstat_kept h
  | trel => exact execTrel_kept h
  | talloc => exact execTalloc_kept h
  | tglook => exact execTglook_kept h
  | tgset => exact execTgset_kept h
  | tgclr => exact execTgclr_kept h
  | bopen => exact execBopen_kept h
  | bclose => exact execBclose_kept h
  | bld => exact execBld_kept h
  | bchk => exact execBchk_kept h
  | bfetch => exact execBfetch_kept h
  | bstat => exact execBstat_kept h
  | ret => exact execRet_kept h
  | brx => exact execBrx_kept h
  | rcv => exact execRcv_kept h
  | allon => exact execAllon_kept h
  | alloff => exact execAlloff_kept h
  | regroup => exact execRegroup_kept h
  | yield => exact execYield_kept h
  | nop => exact execNop_kept h
  | exit => exact execExit_kept h
  | callx => exact execCallx_kept h
  | fork => exact execFork_kept h
  | join => exact execJoin_kept h
  | fend => exact execFend_kept h
  | hold => exact execHold_kept h
  | release => exact execRelease_kept h
  | frstat => exact execFrstat_kept h
  | bar => exact execBar_kept h
  | bara => exact execBara_kept h
  | barw => exact execBarw_kept h
  | cbar => exact execCbar_kept h
  | waitc => exact execWaitc_kept h
  | seqw => exact execSeqw_kept h
  | sleep => exact execSleep_kept h
  | qput => exact execQput_kept h
  | qtake => exact execQtake_kept h
  | qstat => exact execQstat_kept h
  | amsg => exact execAmsg_kept h
  | dturn => exact execDturn_kept h
  | submit => exact execSubmit_kept h
  | arowRd => exact execArowRd_kept h
  | arowWr => exact execArowWr_kept h
  | acolRd => exact execAcolRd_kept h
  | acolWr => exact execAcolWr_kept h
  | arowRdb => exact execArowRdb_kept h
  | arowAdd => exact execArowAdd_kept h
  | trap => exact execTrap_kept h
  | rett => exact execRett_kept h
  | rinj => exact execRinj_kept h
  | sysrd => exact execSysrd_kept h
  | syswr => exact execSyswr_kept h
  | halt => exact execHalt_kept h
  | mboxSend => exact execMboxSend_kept h
  | mboxRecv => exact execMboxRecv_kept h
  | brk => exact execBrk_kept h
  | ucnt => exact execUcnt_kept h
  | attest => exact execAttest_kept h
  | hint => exact execHint_kept h
  | srseedWrite => exact execSrseedWrite_kept h
  | hbperiodWrite => exact execHbperiodWrite_kept h
  | hbmodeWrite => exact execHbmodeWrite_kept h
  | gangWrite => exact execGangWrite_kept h
  | divspillSpill => exact execDivspillSpill_kept h
  | divspillDrop => exact execDivspillDrop_kept h
  | divspillOpen => exact execDivspillOpen_kept h
  | create => exact execCreate_kept h
  | regkernel => exact execRegkernel_kept h
  | regregion => exact execRegregion_kept h
  | regtask => exact execRegtask_kept h
  | regqueue => exact execRegqueue_kept h
  | grant => exact execGrant_kept h
  | shrink => exact execShrink_kept h
  | resume => exact execResume_kept h
  | switch => exact execSwitch_kept h
  | migrate => exact execMigrate_kept h
  | destroy => exact execDestroy_kept h
  | launch => exact execLaunch_kept h
  | resync => exact execResync_kept h
  | setbanks => exact execSetbanks_kept h
  | setsort => exact execSetsort_kept h
  | resolve => exact execResolve_kept h
  | abort => exact execAbort_kept h
  | alloc => exact execAlloc_kept h
  | free => exact execFree_kept h
  | dirtylog => exact execDirtylog_kept h
  | setdomain => cases hi
  | setlinknet => cases hi
  | bind => exact execBind_kept h
  | allot => exact execAllot_kept h
  | badcmd => exact execBadcmd_kept h
  | badseq => exact execBadseq_kept h
  | doorbell => exact execDoorbell_kept h
  | eqlostClear v => exact execEqlostClear_kept (_v := v) h
  | h2ptail => exact execH2ptail_kept h
  | ptroot => exact execPtroot_kept h
  | inval v => exact execInval_kept (_v := v) h
  | powerRun => cases hi
  | powerCapped => cases hi
  | powerRetention => cases hi
  | imgGo => exact execImgGo_kept h
  | hostRegisterWrite => cases hi
  | hostMemoryAccess => exact execHostMemoryAccess_kept h
  | invalidationComplete => exact execInvalidationComplete_kept h
  | imageVerified => cases hi
  | reset => cases hi
  | firmwareCheckEnd => cases hi
  | powerLoss => cases hi
  | thermalLimit => cases hi
  | thermalLift => cases hi
  | thermalTrip => cases hi
  | quiescenceEnd => exact execQuiescenceEnd_kept h
  | contextScrubEnd => exact execContextScrubEnd_kept h
  | migrationExportEnd => exact execMigrationExportEnd_kept h
  | kernelDone => exact execKernelDone_kept h
  | allotment => exact execAllotment_kept h
  | evictionBound => exact execEvictionBound_kept h
  | evictedRequeue => exact execEvictedRequeue_kept h
  | wake => exact execWake_kept h
  | heartbeatTick => exact execHeartbeatTick_kept h
  | heartbeatTickMode1 => exact execHeartbeatTickMode1_kept h
  | promotion => exact execPromotion_kept h
  | promoted => exact execPromoted_kept h
  | spawnForward => exact execSpawnForward_kept h
  | recordClaim => exact execRecordClaim_kept h
  | frameSpill => exact execFrameSpill_kept h
  | tileFillEnd => exact execTileFillEnd_kept h
  | tileDrainEnd => exact execTileDrainEnd_kept h
  | engineCompletion => exact execEngineCompletion_kept h
  | mcastDelivery => exact execMcastDelivery_kept h
  | sortLoadEnd => exact execSortLoadEnd_kept h
  | sortRunEnd => exact execSortRunEnd_kept h
  | sortStop => exact execSortStop_kept h
  | sortStoreEnd => exact execSortStoreEnd_kept h
  | sortSoftError => exact execSortSoftError_kept h
  | matrixResult => exact execMatrixResult_kept h
  | wbldSlotLoaded => exact execWbldSlotLoaded_kept h
  | loadReply => exact execLoadReply_kept h
  | atomicReply => exact execAtomicReply_kept h
  | homeAccess => exact execHomeAccess_kept h
  | walkComplete => exact execWalkComplete_kept h
  | pageScrubStart => exact execPageScrubStart_kept h
  | pageScrubEnd => exact execPageScrubEnd_kept h
  | memoryError => exact execMemoryError_kept h
  | packetCheckFailure => exact execPacketCheckFailure_kept h
  | lostNotice => exact execLostNotice_kept h
  | transactionTimeout => exact execTransactionTimeout_kept h
  | linkFailure => cases hi
  | activeMessageArrival => exact execActiveMessageArrival_kept h
  | bundleCommit => exact execBundleCommit_kept h
  | bundleInstall => exact execBundleInstall_kept h
  | versionFetch => exact execVersionFetch_kept h
  | installResend d i l => exact execInstallResend_kept (_die := d) (_i := i) (_line := l) h
  | bundleSoftError => exact execBundleSoftError_kept h
  | turnStart => exact execTurnStart_kept h
  | turnEnd => exact execTurnEnd_kept h
  | handlerStart => exact execHandlerStart_kept h
  | attach => exact execAttach_kept h
  | detach => exact execDetach_kept h
  | porterHalt => exact execPorterHalt_kept h
  | porterResume => exact execPorterResume_kept h
  | porterStep => exact execPorterStep_kept h
  | stepgrp => exact execStepgrp_kept h
  | setbrk => exact execSetbrk_kept h
  | clrbrk => exact execClrbrk_kept h
  | rdreg => exact execRdreg_kept h
  | wrreg => exact execWrreg_kept h
  | rdmem => exact execRdmem_kept h
  | wrmem => exact execWrmem_kept h
  | illopEncoding => exact execIllopEncoding_kept h
  | eqHeadWrite => exact execEqHeadWrite_kept h
  | mboxBaseWrite => exact execMboxBaseWrite_kept h

theorem OutK.get {r t : State} {o : Out} (e : o = .next t) (h : OutK r o) : Kept r t := by
  subst e
  unfold OutK at h
  exact h

/-- What sets the device keeps memory canonical; loss of power drops bytes and reorders none. -/
theorem exec_memOk_of_setsDevice {s t : State} {i : Instr} (hi : setsDevice i = true) (h : MemOk s)
    (e : exec i s = .next t) : MemOk t := by
  unfold setsDevice at hi
  split at hi
  · exact execSetdomain_memOk h e
  · exact execSetlinknet_memOk h e
  · exact execPowerRun_memOk h e
  · exact execPowerCapped_memOk h e
  · exact execPowerRetention_memOk h e
  · exact execHostRegisterWrite_memOk h e
  · exact execImageVerified_memOk h e
  · exact execReset_memOk h e
  · exact execFirmwareCheckEnd_memOk h e
  · exact execPowerLoss_memOk h e
  · exact execThermalLimit_memOk h e
  · exact execThermalLift_memOk h e
  · exact execThermalTrip_memOk h e
  · exact execLinkFailure_memOk h e
  · cases hi

theorem exec_memOk {i : Instr} {s t : State} (h : MemOk s) (e : exec i s = .next t) : MemOk t := by
  cases hi : setsDevice i with
  | true => exact exec_memOk_of_setsDevice hi h e
  | false => exact (OutK.get e (exec_kept (Kept.refl s) i hi)).memOk h

/-- A fetch that stops has parked or trapped its path, or asked for a translation. -/
theorem fetchRun_kept {r s : State} (g : Group) (p : Path) (fuel : Nat) (ws : List Nat) (h : Kept r s) :
    FetchK r (fetchRun s g p fuel ws) := by
  induction fuel generalizing ws with
  | zero => exact FetchK.run
  | succ fuel ih =>
    unfold fetchRun
    split
    · dsimp only
      split
      · exact FetchK.of (trapAt_kept h)
      split
      · exact FetchK.of (trapAt_kept h)
      split
      · exact ih _
      · exact FetchK.of (trapAt_kept h)
      · split
        · exact FetchK.of (trapAt_kept h)
        · exact FetchK.of (wantWalk_kept (State.modPath_kept h))
    · exact FetchK.run

theorem fetchSeen_kept {r s : State} {g : Group} {p : Path} {n : Nat} (h : Kept r s) : Kept r (fetchSeen s g p n) := by
  unfold fetchSeen
  refine Kept.foldl h _ _ fun t i ht => ?_
  split
  · exact readSeen_kept ht
  · exact ht

/-- The trap of a stepped register is taken in the state before the instruction, whose own next state is only looked at. -/
theorem steppedOut_memOk {s t : State} {gid slot word : Nat} (h : MemOk s) (e : steppedOut s gid slot word = .next t) :
    MemOk t := by
  unfold steppedOut at e
  split at e
  · exact exec_memOk h e
  split at e
  · cases e
    split <;> exact (trapAt_kept (Kept.refl s)).memOk h
  · exact exec_memOk ((State.modGroup_kept (Kept.refl s)).memOk h) e

theorem runInstr_memOk {s t : State} {p : Path} {gid slot word at_ : Nat} {pre : Prefixes} (h : MemOk s)
    (e : runInstr s p gid slot pre word at_ = .next t) : MemOk t := by
  unfold runInstr at e
  extract_lets s1 s2 at e
  have h2 : MemOk s2 := (State.modPath_kept (Kept.refl s1)).memOk h
  split at e
  · exact steppedOut_memOk h2 e
  split at e
  · exact exec_memOk h2 e
  · exact exec_memOk h2 e

theorem issuePath_memOk {s t : State} {i : Issue} (h : MemOk s) (e : issuePath i s = .next t) : MemOk t := by
  unfold issuePath at e
  split at e
  · next g p _ _ =>
    extract_lets s0 at e
    have h0 : MemOk s0 := (noteIssue_kept (Kept.refl s)).memOk h
    split at e
    · cases e
      exact (State.modPathAt_kept (trapPath_kept (Kept.refl s0))).memOk h0
    split at e
    · next s1 hstop =>
      cases e
      exact (FetchK.get hstop (fetchRun_kept g p _ _ (Kept.refl s0))).memOk h0
    · exact runInstr_memOk ((fetchSeen_kept (Kept.refl s0)).memOk h0) e
    · exact exec_memOk h0 e
  · cases e
    exact h

theorem porterAt_kept {r s : State} {gid : Nat} {pc : W64} (h : Kept r s) : Kept r (porterAt gid pc s) :=
  State.modPathAt_kept h

theorem agendaStep_memOk {a : Act} {s t : State} (h : MemOk s) (e : agendaStep a s = .next t) : MemOk t := by
  have keeps {u : State} (hu : Kept s u) : MemOk u := hu.memOk h
  cases a with
  | event i =>
    simp only [agendaStep] at e
    split at e
    · exact exec_memOk h e
    · cases e; exact h
  | issue gid slot =>
    simp only [agendaStep] at e
    split at e
    · exact issuePath_memOk h e
    · cases e; exact h
  | hold b =>
    cases e
    cases b with
    | true => exact h
    | false => exact release_memOk h
  | tick n =>
    cases e
    cases n with
    | zero => exact h
    | succ n => exact cycle_memOk h
  | porterAt => cases e; exact keeps (porterAt_kept (Kept.refl s))
  | damage => cases e; exact keeps (State.modGroup_kept (Kept.refl s))
  | inject => cases e; exact keeps (inject_kept (Kept.refl s))
  | send => cases e; exact keeps (sendJob_kept (Kept.refl s))
  | hop => cases e; exact keeps (hopOne_kept (Kept.refl s))
  | clock => cases e; exact setClocks_memOk h
  | linkCtx => cases e; exact keeps (linkCtx_kept (Kept.refl s))
  | peerMcast => cases e; exact keeps (peerMcast_kept (Kept.refl s))
  | peerSubmit => cases e; exact keeps (peerSubmit_kept (Kept.refl s))
  | peerAmsg => cases e; exact keeps (peerAmsg_kept (Kept.refl s))
  | peerAccess => cases e; exact keeps (peerAccess_kept (Kept.refl s))
  | peerDir => cases e; exact keeps (peerDir_kept (Kept.refl s))

/-- Settles O58, by what a step can be: an event, an entry of the agenda, an issue, or the end of a cycle. -/
theorem memoryKept : Obligations.MemoryKept := by
  intro s t h e
  unfold step nextStep at e
  split at e
  · split at e
    · exact exec_memOk h e
    · next rest _ _ _ => exact agendaStep_memOk (s := { s with agenda := rest }) h e
  split at e
  · exact exec_memOk h e
  split at e
  · exact issuePath_memOk h e
  · cases e
    exact cycle_memOk h

end Sys2Proof.Machine
end

section
/-! What reset leaves (R25, R335, R362). -/

namespace Sys2Proof.Machine
open Sys2Proof.Claims

/-- The first half of a boundary's wire groups goes east, the second west (R335). -/
theorem Bound.reset_west {w : Nat} (hw : w < 96) : Bound.reset.west / 2 ^ w % 2 = if w < 48 then 0 else 1 := by
  unfold Bound.reset
  revert w
  decide

/-- Settles O56: every table of the state is empty at reset, so each unit reads as its own first state. -/
theorem resetState : Obligations.ResetState := by
  refine ⟨rfl, rfl, rfl, rfl, rfl, rfl, rfl, rfl, rfl, rfl, rfl, rfl, fun _ => rfl, fun _ => rfl, fun _ => ?_, fun _ => rfl,
    fun _ => ⟨rfl, rfl⟩, fun _ w hw => Bound.reset_west hw⟩
  exact ⟨rfl, rfl, rfl, rfl, fun _ => rfl⟩

end Sys2Proof.Machine
end

section
/-! Draws, and vector results that take them: what block packing and the tree sum write (R25, R34, R117, R123, R124). -/

namespace Sys2Proof.Machine
open Sys2Proof.Claims

/-- Draws touch the generators alone. -/
theorem drawnFrom_frame (s : State) (g : Group) (n : Nat) : drawnFrom s g n = { s with parts := (drawnFrom s g n).parts } := by
  unfold drawnFrom; split <;> rfl

/-- Draws are those of the state at issue: its groups do not matter to the generators. -/
theorem withDraws_eq (s : State) (g : Group) (n : Nat) (G : SMap Group) (k : List Nat → State → State) :
    withDraws (rmode s g) n g { s with groups := G } k = k (drawn s g n) { drawnFrom s g n with groups := G } := by
  unfold withDraws drawn drawnFrom
  by_cases h : rmode s g = 5 ∧ n ≠ 0
  · simp only [h.1, h.2, and_self, ne_eq, not_false_eq_true, if_true]; rfl
  · have h' : ¬(n ≠ 0 ∧ rmode s g = 5) := fun x => h x.symm
    simp only [if_neg h, if_neg h']

theorem rS_puts_vWrites (g : Group) (d : Nat) (ls : List Nat) (f : Nat → W64) (n : Nat) :
    rS (g.puts (vWrites d ls f)) n = rS g n := by
  have e := (puts_lanes d (ls.map fun l => (l, f l)) g).1
  simp only [List.map_map, Function.comp_def] at e
  simp only [rS, vWrites, e]

theorem m_puts_vWrites (g : Group) (d : Nat) (ls : List Nat) (f : Nat → W64) : (g.puts (vWrites d ls f)).m = g.m := by
  have e := (puts_lanes d (ls.map fun l => (l, f l)) g).2
  simp only [List.map_map, Function.comp_def] at e
  exact e

theorem cellReg_vWrites {d : Nat} {ls : List Nat} (hl : ∀ l ∈ ls, l < 32) (f : Nat → W64) :
    ∀ w ∈ vWrites d ls f, cellReg w.cell ∈ vR [d] := by
  intro w hw
  obtain ⟨l, hm, rfl⟩ := List.mem_map.mp hw
  have := hl l hm
  simp [cellReg, RegW.cell, vR]
  omega

theorem lt_of_mem_actLanes {s : State} {g : Group} {p : Path} {l : Nat} (h : l ∈ actLanes s g p) : l < 32 :=
  ((mem_lanesOf _ _).mp h).1

/-- A VECTOR RESULT THAT TAKES DRAWS: admitted, it completes with V(d, l) := f l in each acting lane. -/
theorem computes_vector {a : Adm} {s : State} {g : Group} {p : Path} (h : Admitted a s g p) (hc : a.count = true)
    (hp : s.pipeHold = false) (d n F fl : Nat) (f : Nat → W64) (k : Group → Path → State → State)
    (hk : ∀ G, k g p { s with groups := G } =
      land (vWrites d (actLanes s g p) f) fl { drawnFrom s g n with groups := G, fresh := F }) :
    ∃ t, gated a s k = .next t ∧
      Computes s { drawnFrom s g n with fresh := F } t g p (vR [d]) (rS g) (setV s g p d f) (fun k => g.m.get 0 k) fl := by
  have e := drawnFrom_frame s g n
  generalize (drawnFrom s g n).parts = P at e
  rw [e]
  exact computes_of h hc hp _ fl P F k (fun G => by rw [hk, e]) (rS_puts_vWrites g d _ f)
    (fun m l hl => rV_puts_vWrites s g p d f m l hl) (fun m _ => by rw [m_puts_vWrites])
    (cellReg_vWrites (fun _ => lt_of_mem_actLanes) f)

@[simp] theorem drawnFrom_fresh (s : State) (g : Group) (n : Nat) : (drawnFrom s g n).fresh = s.fresh := by
  rw [drawnFrom_frame]

/-- R34, R117: the tree that vred.add.f32 runs is `treeSum`, with the free values of the state at issue. -/
theorem treeSumResult : Claims.TreeSumResult := by
  intro d a s g p h hp n r
  refine computes_vector h rfl hp d n _ _ _ _ fun G => ?_
  have hd (l e : Nat) : 2 * (actLanes s g p).idxOf l + e = (actLanes s g p).idxOf l * 2 + e := by omega
  simp only [withDraws_eq, drawnFrom_fresh, hd]
  rfl

/-! Blocks of lanes (R123). -/

theorem range_32_blocks {n : Nat} (hn : n = 8 ∨ n = 16) :
    List.range 32 = (List.range (32 / n)).flatMap fun j => (List.range n).map (n * j + ·) := by
  obtain rfl | rfl := hn <;> rfl

theorem flatMap_filter_eq {α β : Type} (q : α → Bool) (f : α → List β) (l : List α) :
    (l.filter q).flatMap f = l.flatMap fun x => if q x then f x else [] := by
  induction l with
  | nil => rfl
  | cons x t ih => by_cases h : q x <;> simp [h, ih]

/-- The acting lanes of the block of lanes n·j to n·j + n − 1. -/
theorem filter_block (m : W32) (n j : Nat) :
    ((List.range n).map (n * j + ·)).filter (fun l => m.getLsbD l) =
      ((List.range n).filter fun i => m.getLsbD (n * j + i)).map (n * j + ·) := by
  rw [List.filter_map]; rfl

/-- Blocks are taken where each of them acts wholly or not at all (R123): those that act. -/
theorem blocks_eq_some {s : State} {g : Group} {p : Path} {n : Nat} {js : List Nat} (h : blocks s g p n = some js) :
    let acting (j : Nat) := ((List.range n).filter fun i => (act s g p).getLsbD (n * j + i)).length
    (∀ j < 32 / n, acting j = 0 ∨ acting j = n) ∧ js = (List.range (32 / n)).filter fun j => acting j = n := by
  simp only [blocks] at h
  split at h
  · cases h
  · next hwhole =>
    simp only [List.any_eq_true, List.mem_range, decide_eq_true_eq, not_exists, not_and, not_not] at hwhole
    exact ⟨fun j hj => or_iff_not_imp_left.mpr (hwhole j hj), (Option.some.inj h).symm⟩

theorem blocks_nodup {s : State} {g : Group} {p : Path} {n : Nat} {js : List Nat} (h : blocks s g p n = some js) : js.Nodup :=
  (blocks_eq_some h).2 ▸ List.nodup_range.filter _

/-- Where every block acts wholly or not at all, the acting lanes are those of the acting blocks. -/
theorem actLanes_of_blocks {s : State} {g : Group} {p : Path} {n : Nat} (hn : n = 8 ∨ n = 16) {js : List Nat}
    (h : blocks s g p n = some js) : actLanes s g p = js.flatMap fun j => (List.range n).map (n * j + ·) := by
  obtain ⟨hwhole, rfl⟩ := blocks_eq_some h
  rw [actLanes, lanesOf, range_32_blocks hn, List.filter_flatMap, flatMap_filter_eq]
  refine List.flatMap_congr fun j hj => ?_
  rw [filter_block]
  rcases hwhole j (List.mem_range.mp hj) with h0 | h1
  · have hn0 : n ≠ 0 := by omega
    simp [List.length_eq_zero_iff.mp h0, Ne.symm hn0]
  · have hall : (List.range n).filter (fun i => (act s g p).getLsbD (n * j + i)) = List.range n :=
      List.filter_eq_self.mpr (List.length_filter_eq_length_iff.mp (by simpa using h1))
    simp [hall]

/-- Numbering the members of a list without repetition is looking up where each stands. -/
theorem zipIdx_map_idxOf {β : Type} {js : List Nat} (h : js.Nodup) (f : Nat → Nat → β) :
    js.zipIdx.map (fun q => f q.1 q.2) = js.map fun j => f j (js.idxOf j) := by
  refine List.ext_getElem (by simp) fun i h1 h2 => ?_
  simp [h.idxOf_getElem]

/-- The writes of the acting blocks, lane by lane, are a vector result. -/
theorem block_writes (d n : Nat) (hn : 0 < n) (js : List Nat) (f : Nat → Nat → W64) :
    (js.flatMap fun j => (List.range n).map fun i => RegW.v d (n * j + i) (f j i)) =
      vWrites d (js.flatMap fun j => (List.range n).map (n * j + ·)) fun l => f (l / n) (l % n) := by
  unfold vWrites
  rw [List.map_flatMap]
  refine List.flatMap_congr fun j _ => ?_
  rw [List.map_map]
  refine List.map_congr_left fun i hi => ?_
  have hi' : i < n := List.mem_range.mp hi
  have hq : (n * j + i) / n = j := by rw [Nat.mul_add_div hn, Nat.div_eq_of_lt hi', Nat.add_zero]
  have hr : (n * j + i) % n = i := by rw [Nat.mul_add_mod, Nat.mod_eq_of_lt hi']
  simp only [Function.comp_apply, hq, hr]

/-- The bytes of block j of V(a). -/
def blockBytes (g : Group) (n a j : Nat) : List Byte := (List.range n).flatMap fun i => bytesLE 8 (rV g a (n * j + i)).toNat

/-- What a block form makes of block j: its new bytes and flags. -/
def blockOut (g : Group) (n a : Nat) (js : List Nat) (f : List Nat → List Byte → List Byte × Nat) (ds : List Nat) (j : Nat) :
    List Byte × Nat :=
  f (ds.drop (2 * n * js.idxOf j)) (blockBytes g n a j)

/-- A BLOCK FORM COMPLETES: each acting lane takes its eight bytes of its block's result (R123, R124). -/
theorem blockOp_computes {acc : Acc} {n d a : Nat} (hn : n = 8 ∨ n = 16) {s : State} {g : Group} {p : Path} {js : List Nat}
    (hb : blocks s g p n = some js) (f : Group → List Nat → List Byte → List Byte × Nat)
    (h : Admitted { acc := acc, rd := vR [a], wr := vR [d], fields := rmode s g < 6 } s g p) (hp : s.pipeHold = false) :
    let ds := drawn s g (2 * n * js.length)
    ∃ t, blockOp acc n d a s f = .next t ∧
      Computes s (drawnFrom s g (2 * n * js.length)) t g p (vR [d]) (rS g)
        (setV s g p d fun l => BitVec.ofNat 64 (ofBytesLE (((blockOut g n a js (f g) ds (l / n)).1.drop (8 * (l % n))).take 8)))
        (fun k => g.m.get 0 k) ((js.map fun j => (blockOut g n a js (f g) ds j).2).foldl (· ||| ·) 0) := by
  intro ds
  have hm : modeOk s = decide (rmode s g < 6) := by simp only [modeOk, h.group]
  have hF : drawnFrom s g (2 * n * js.length) = { drawnFrom s g (2 * n * js.length) with fresh := s.fresh } := by
    rw [drawnFrom_frame]
  have hout : js.zipIdx.map (fun q => (q.1, f g ((drawn s g (2 * n * js.length)).drop (2 * n * q.2))
      ((List.range n).flatMap fun i => bytesLE 8 (rV g a (n * q.1 + i)).toNat))) =
      js.map fun j => (j, blockOut g n a js (f g) ds j) :=
    zipIdx_map_idxOf (blocks_nodup hb) fun j k => (j, f g (ds.drop (2 * n * k)) (blockBytes g n a j))
  have hw := block_writes d n (by omega) js fun j i =>
    BitVec.ofNat 64 (ofBytesLE (((blockOut g n a js (f g) ds j).1.drop (8 * i)).take 8))
  unfold blockOp
  rw [hm, hF]
  refine computes_vector h rfl hp d _ _ _ _ _ fun G => ?_
  have hact : blocks s g p n = some js := hb
  simp only [hact, withDraws_eq, hout]
  simp only [List.flatMap_map, List.map_map, Function.comp_def, hw, orAll, drawnFrom_fresh, actLanes_of_blocks hn hb]

/-- R123, R124: the four block forms are one operation over blocks of eight or of sixteen lanes. -/
theorem blockPackingResults : Claims.BlockPackingResults := by
  intro i s g p e he h hp
  simp only [blockEffect] at he
  split at he
  case h_1 d a f =>
    obtain ⟨js, hb, rfl⟩ := Option.map_eq_some_iff.mp he
    exact blockOp_computes (.inl rfl) hb (fun g ds b => packPx (pxBits f) (rmode s g) (f32s g b) ds) h hp
  case h_2 d a f =>
    obtain ⟨js, hb, rfl⟩ := Option.map_eq_some_iff.mp he
    exact blockOp_computes (.inl rfl) hb (fun g ds b => f32Bytes (rmode s g) 16 ds (pxVals (pxBits f) b)) h hp
  case h_3 d a f =>
    obtain ⟨js, hb, rfl⟩ := Option.map_eq_some_iff.mp he
    exact blockOp_computes (.inr rfl) hb (fun g ds b => packMx f (rmode s g) g.satf8 (s.fx g.ctx g.fxsel) (f32s g b) ds) h hp
  case h_4 d a f =>
    obtain ⟨js, hb, rfl⟩ := Option.map_eq_some_iff.mp he
    exact blockOp_computes (.inr rfl) hb (fun g ds b => f32Bytes (rmode s g) 32 ds (mxVals f (s.fx g.ctx g.fxsel) b)) h hp
  case h_5 => cases he

/-- Settles O6, by the writes of a block form, lane by lane, and by the tree that vred.add.f32 runs. -/
theorem packingAndTreeSumResults : Obligations.PackingAndTreeSumResults := ⟨blockPackingResults, treeSumResult⟩

end Sys2Proof.Machine
end

section
/-! Sparse tables: changes under different keys are made in either order. -/

namespace Sys2Proof.SMap
variable {α : Type}

/-- Each key is put before the first larger one, whatever stands there already. -/
theorem put_comm (m : SMap α) {i j : Nat} (hij : i ≠ j) (v w : α) : (m.put i v).put j w = (m.put j w).put i v := by
  induction m with
  | nil => grind [put]
  | cons q t ih => grind [put]

theorem adjust_of_none {m : SMap α} {k : Nat} (h : m.find? k = none) (f : α → α) : m.adjust k f = m := by
  simp only [adjust, h]

theorem adjust_comm (m : SMap α) {i j : Nat} (hij : i ≠ j) (f h : α → α) :
    (m.adjust i f).adjust j h = (m.adjust j h).adjust i f := by
  cases hi : m.find? i with
  | none =>
    have hi' : (m.adjust j h).find? i = none := by rw [find?_adjust, if_neg hij, hi]
    rw [adjust_of_none hi, adjust_of_none hi']
  | some v =>
    have hi' : (m.adjust j h).find? i = some v := by rw [find?_adjust, if_neg hij, hi]
    rw [adjust_eq_put m f hi, adjust_eq_put _ f hi']
    cases hj : m.find? j with
    | none => rw [adjust_of_none hj, adjust_of_none ((find?_put_ne m _ hij.symm).trans hj)]
    | some w =>
      rw [adjust_eq_put m h hj, adjust_eq_put _ h ((find?_put_ne m _ hij.symm).trans hj), put_comm m hij]

end Sys2Proof.SMap
end

section
/-! System registers: what their reads and writes do to the issuing group, its core, its context and the group it serves (R25, R27,
R48, R244, R352). -/

namespace Sys2Proof.Machine
open Sys2Proof.Claims

/-! What an admitted instruction does when its effect is on its own group, or on another. -/

/-- A change of a group that leaves alone what the count and the advance of its path read and write. -/
structure SparesIssue (e : Group → Group) (g : Group) : Prop where
  comm    : ∀ x, e { g with paths := x } = { e g with paths := x }
  ctx     : (e g).ctx = g.ctx
  place   : (e g).place = g.place
  hbCount : (e g).hbCount = g.hbCount
  tickDue : (e g).tickDue = g.tickDue
  paths   : (e g).paths = g.paths

theorem sparesIssue_put1 (w : RegW) (g : Group) : SparesIssue (fun x => x.put1 w) g where
  comm x := Group.puts_paths [w] g x
  ctx := by rw [Group.put1_frame]
  place := by rw [Group.put1_frame]
  hbCount := by rw [Group.put1_frame]
  tickDue := by rw [Group.put1_frame]
  paths := Group.put1_paths g w

/-- An effect on the record of the issuing group, after which the path goes on. -/
theorem goesOn_own {s : State} {g : Group} {p : Path} (h : Issuing s g p) {e : Group → Group} (he : SparesIssue e g)
    (k : State → State) (hk : ∀ G, k { s with groups := G } = advance (State.modG { s with groups := G } e)) :
    issued true s p k = goesOn s g p (s.modGroup s.iss.gid e) := by
  refine issued_passes h k e (nextPath s) (nextPath s) rfl rfl he.comm he.ctx he.place he.hbCount he.tickDue he.paths
    (nextPath_counted s p true) (fun _ => rfl) fun G x q h1 h2 => ?_
  have hG : State.group? { s with groups := G } s.iss.gid = some { g with paths := x } := h1
  rw [hk, State.modG, modGroup_of hG, he.comm]
  exact advance_put h2

/-- Two effects that agree on the states that admission runs them in. -/
theorem issued_congr {s : State} {p : Path} {k k' : State → State} (b : Bool) (h : k s = k' s)
    (hm : ∀ f, k (s.modPath f) = k' (s.modPath f)) : issued b s p k = issued b s p k' := by
  unfold issued
  rw [h, hm]

/-- An effect on the record of another group, after which the path goes on. -/
theorem goesOn_other {s : State} {g : Group} {p : Path} (h : Issuing s g p) {gid : Nat} (hne : gid ≠ s.iss.gid)
    (f : Group → Group) : issued true s p (fun u => advance (u.modGroup gid f)) = goesOn s g p (s.modGroup gid f) := by
  have hu : Issuing (s.modGroup gid f) g p :=
    ⟨by rw [← h.group]; exact (SMap.find?_adjust _ _ _ _).trans (if_neg hne.symm), h.path⟩
  have hc : ∀ e, (s.modPath e).modGroup gid f = (s.modGroup gid f).modPath e := fun e =>
    congrArg (fun G => { s with groups := G }) (SMap.adjust_comm s.groups hne.symm _ f)
  have hk : issued true s p (fun u => advance (u.modGroup gid f)) = issued true (s.modGroup gid f) p advance := by
    simp only [issued, hc]
    rfl
  rw [hk]
  exact goesOn_of hu advance rfl rfl fun _ => rfl

/-! Reads. -/

/-- The lowest of the lanes below n that a mask holds, n where it holds none. -/
theorem ctzN_eq_find? (n x : Nat) : ctzN n x = ((List.range n).find? x.testBit).getD n := by
  induction n generalizing x with
  | zero => rfl
  | succ n ih =>
    have hs : x.testBit ∘ Nat.succ = (x / 2).testBit := funext fun i => Nat.testBit_succ x i
    rw [List.range_succ_eq_map, List.find?_cons, List.find?_map, ctzN, ih, hs]
    cases h : x.testBit 0 with
    | true => rw [Nat.testBit_zero, decide_eq_true_eq] at h; simp [h]
    | false =>
      rw [Nat.testBit_zero, decide_eq_false_iff_not] at h
      rw [if_neg h]
      cases (List.range n).find? (x / 2).testBit <;> simp [Nat.add_comm]

/-- %lane reads the lowest lane of the path, 0 for a path without lanes. -/
theorem lowestLane (m : W32) :
    ((lanesOf m).head?).getD 0 = if ctzN 32 m.toNat = 32 then 0 else ctzN 32 m.toNat := by
  rw [lanesOf, List.head?_filter, ctzN_eq_find?]
  have hm : (fun l => m.getLsbD l) = m.toNat.testBit := rfl
  rw [hm]
  cases h : (List.range 32).find? m.toNat.testBit with
  | none => simp
  | some l =>
    have hl : l < 32 := List.mem_range.mp (List.mem_of_find?_eq_some h)
    simp [hl.ne]

/-- The group that a handler serves, in a state where the issuing group's paths alone have changed. -/
theorem servedGroup_map {α : Type} (s : State) (g : Group) (p : Path) (h : Issuing s g p) (f : Path → Path) (c : Group → α)
    (hc : ∀ h x, c { h with paths := x } = c h) (x : SMap Path) :
    (servedGroup (s.modPath f) { g with paths := x }).map c = (servedGroup s g).map c := by
  rw [modPath_of h]
  have hs : ({ g with paths := x } : Group).served = g.served := rfl
  unfold servedGroup
  rw [hs]
  cases g.served with
  | none => rfl
  | some y =>
    simp only [Option.bind_some, group_put]
    by_cases hy : y.1 = s.iss.gid
    · rw [if_pos hy, hy, h.group]
      exact congrArg some (hc g _)
    · rw [if_neg hy]

/-- The value of a system register does not depend on the issuing path's own record, which admission marks counted. -/
theorem sysValue_modPath {s : State} {g : Group} {p : Path} (h : Issuing s g p) (f : Path → Path) (n : Nat) :
    sysValue (s.modPath f) (((s.modPath f).group? s.iss.gid).getD g) p n = sysValue s g p n := by
  obtain ⟨x, hx⟩ : ∃ x, (s.modPath f).group? s.iss.gid = some { g with paths := x } :=
    ⟨_, by rw [modPath_of h]; exact group_put_self _ _ _⟩
  have served {α : Type} (c : Group → α) (hc : ∀ h x, c { h with paths := x } = c h) :
      (servedGroup (s.modPath f) { g with paths := x }).map c = (servedGroup s g).map c := servedGroup_map s g p h f c hc x
  have servedOr {α : Type} (c : Group → α) (hc : ∀ h x, c { h with paths := x } = c h) :
      c ((servedGroup (s.modPath f) { g with paths := x }).getD { g with paths := x }) = c ((servedGroup s g).getD g) := by
    rw [← Option.getD_map c, served c hc, hc, Option.getD_map]
  have hreplay := served (fun t => t.replay.length) fun _ _ => rfl
  have hstack := servedOr (fun t => t.rstack.length) fun _ _ => rfl
  have hspill := servedOr (fun t => t.spill) fun _ _ => rfl
  have hbase := servedOr (fun t => t.divbase) fun _ _ => rfl
  rw [hx, Option.getD_some]
  unfold sysValue
  simp only [hreplay, hstack, hspill, hbase]
  rfl

/-- Table WRK.4, Table TRP.2: the value that the statement gives a register is the one that sysrd reads. -/
theorem sysValue_eq_sysReads (s : State) (g : Group) (p : Path) (n : Nat) : sysValue s g p n = sysReads s g p n := by
  have hseed : BitVec.ofNat 64 (s.part g.place.partIx).srseed.toNat = (s.part g.place.partIx).srseed.setWidth 64 := by
    simp
  unfold sysValue sysReads
  simp only [lowestLane, hseed, servedGroup] <;> rfl

/-- Where none of the group's arithmetic is in flight, none has to land before %fpflags is accessed (R27). -/
theorem settleFlags_landed {s : State} {n : Nat} (h : n = 0x0C → ∀ e ∈ s.pipe, e.gid ≠ s.iss.gid) : settleFlags n s = s := by
  unfold settleFlags
  split
  · next hn =>
    have hown : s.pipe.filter (fun e => e.gid = s.iss.gid) = [] := by simpa using h hn
    have hrest : s.pipe.filter (fun e => e.gid ≠ s.iss.gid) = s.pipe := by simpa using h hn
    rw [landGroup, hown, hrest]
    rfl
  · rfl

/-- R48, R352: an admitted sysrd writes the register's value and goes on. -/
theorem execSysrd_admitted {d n : Nat} {s : State} {g : Group} {p : Path}
    (h : Admitted { acc := {}, wr := sR [d], who := sysReader n } s g p)
    (hpipe : n = 0x0C → ∀ e ∈ s.pipe, e.gid ≠ s.iss.gid) :
    execSysrd d n s = .next (goesOn s g p (wrote (.s d (sysReads s g p n)) s)) := by
  have hm (f : Path → Path) : settleFlags n (s.modPath f) = s.modPath f := settleFlags_landed hpipe
  have hs : settleFlags n s = s := settleFlags_landed hpipe
  have hg : (s.group? s.iss.gid).getD g = g := by rw [h.group, Option.getD_some]
  unfold execSysrd
  refine (gated_admitted h _).trans ?_
  rw [issued_congr (k' := fun u => advance (u.wS d (sysReads s g p n)))]
  · exact congrArg _ (goesOn_own h.toIssuing (sparesIssue_put1 _ g) _ fun _ => rfl)
  · simp only [hs, hg, sysValue_eq_sysReads]
  · intro f
    simp only [hm, sysValue_modPath h.toIssuing, sysValue_eq_sysReads]

/-! Traps of an instruction that its group may not issue. -/

/-- A trap of the issuing instruction, before it was admitted. -/
theorem trapAt_eq_trapped {s : State} {g : Group} {p : Path} (h : Issuing s g p) (ho : Ordinary g) (c : Cause) (n : Nat) :
    trapAt c n s = trapped s g (trapBefore s c n) s := by
  unfold trapAt
  rw [trapPath_of h.group ho]
  rfl

/-- R72 step 7: a group that may not issue an instruction traps PRIV. -/
theorem gated_priv {a : Adm} {s : State} {g : Group} {p : Path} (h : Issuing s g p) (ho : Ordinary g)
    (hp : prefixOk a.acc s.iss.pre = true) (hf : a.fields = true) (hr : a.acc.rnd = false) (hw : a.who.ok g = false)
    (k : Group → Path → State → State) : gated a s k = .next (trapped s g (trapBefore s .priv 0) s) := by
  have hg : gate a s g p = .trap .priv 0 := by
    unfold gate
    simp [hp, hf, hr, hw]
  rw [gated_trap h hg (by decide), trapAt_eq_trapped h ho]

/-- An ordinary group is none of those that a register is kept for. -/
theorem Who.ok_ordinary {g : Group} (ho : Ordinary g) {w : Who} (hw : w = .nobody ∨ w = .handler) : w.ok g = false := by
  obtain rfl | rfl := hw
  · rfl
  · exact ho

theorem sysReader_eq {n : Nat} (hn : n < 0x20) : sysReader n = if sysHandler n then .handler else .any := by
  revert n
  decide

theorem sysWriter_eq {n : Nat} (hn : n < 0x20) : sysWriter n = sysWho n := by
  revert n
  decide

/-- R48, R352: reads, and the PRIV of a group that may not read. -/
theorem systemRegisterReads : Claims.SystemRegisterReads := by
  intro d n s g p hn
  constructor
  · intro h hpipe
    rw [← sysReader_eq hn] at h
    exact execSysrd_admitted h hpipe
  · intro h ho hp hh _
    refine gated_priv h ho hp rfl rfl (Who.ok_ordinary ho (.inr ?_)) _
    rw [sysReader_eq hn, if_pos hh]

/-! Writes. -/

theorem exec_namesWrite {i : Instr} {a n : Nat} (h : namesWrite i a n) (s : State) : exec i s = syswrOp a n s := by
  obtain rfl | ⟨rfl, rfl⟩ | ⟨rfl, rfl⟩ | ⟨rfl, rfl⟩ | ⟨rfl, rfl⟩ | ⟨rfl | rfl | rfl, rfl⟩ := h <;> rfl

/-- Table WRK.4: the period's range. -/
theorem wrHbperiod_eq (x : Nat) (g : Group) (s : State) :
    wrHbperiod x g s = if 1024 ≤ x ∧ x ≤ 2 ^ 24 then
      advance (s.modCore g.place.core fun k => { k with hb := k.hb.modify Hb.reset g.ctx fun h => { h with period := x } })
    else trapAt .illop 0 s := by
  have hb : (decide (x < 1024) || decide (2 ^ 24 < x)) = !decide (1024 ≤ x ∧ x ≤ 2 ^ 24) := by
    rw [Bool.eq_iff_iff]; simp
  unfold wrHbperiod
  rw [hb]
  by_cases hx : 1024 ≤ x ∧ x ≤ 2 ^ 24
  · simp only [hx, and_self, decide_true, Bool.not_true, Bool.false_eq_true, if_true, if_false]
  · simp only [hx, decide_false, Bool.not_false, if_true, if_false]

theorem wrHbmode_eq (x : Nat) (g : Group) (s : State) :
    wrHbmode x g s = if x ≤ 1 then
      advance (s.modCore g.place.core fun k => { k with hb := k.hb.modify Hb.reset g.ctx fun h => { h with mode := x } })
    else trapAt .illop 0 s := by
  by_cases hx : x ≤ 1 <;> simp [wrHbmode, hx, Nat.not_lt.mpr, Nat.lt_of_not_le]

/-- Table NUM.7: the codes of the rounding mode end at 5. -/
theorem wrFpmode_eq (x : W64) (g : Group) (s : State) :
    sysWrite 0x0B x g s = if x.toNat % 8 ≤ 5 then advance (s.modG fun g => { g with fpmode := BitVec.ofNat 64 (x.toNat % 2 ^ 14) })
    else trapAt .illop 0 s := by
  have hf : fld x.toNat 0 3 = x.toNat % 8 := by simp [fld]
  by_cases hx : x.toNat % 8 ≤ 5 <;> simp [sysWrite, hf, hx, Nat.not_lt.mpr, Nat.lt_of_not_le]

/-- In range, a write of a register changes it and nothing else, and the path goes on. -/
theorem sysWrite_inRange {s u : State} {g : Group} {p : Path} (h : Issuing s g p) {n : Nat} {x : W64}
    (hu : sysWrites s g n x = some u) (hserved : ∀ y, n = 0x1F → g.served = some y → y.1 ≠ s.iss.gid) :
    issued true s p (sysWrite n x g) = goesOn s g p u := by
  unfold sysWrites at hu
  split at hu
  case h_1 => -- %hbperiod
    simp only [Option.ite_none_right_eq_some, Option.some.injEq] at hu
    obtain ⟨hx, rfl⟩ := hu
    exact goesOn_of h _ rfl rfl fun G => (wrHbperiod_eq _ _ _).trans (if_pos hx)
  case h_2 => -- %hbmode
    simp only [Option.ite_none_right_eq_some, Option.some.injEq] at hu
    obtain ⟨hx, rfl⟩ := hu
    exact goesOn_of h _ rfl rfl fun G => (wrHbmode_eq _ _ _).trans (if_pos hx)
  case h_4 => -- %fpmode
    simp only [Option.ite_none_right_eq_some, Option.some.injEq] at hu
    obtain ⟨hx, rfl⟩ := hu
    exact goesOn_own h ⟨fun _ => rfl, rfl, rfl, rfl, rfl, rfl⟩ _ fun G => (wrFpmode_eq _ _ _).trans (if_pos hx)
  case h_3 | h_5 | h_15 | h_16 | h_17 | h_18 => -- %frbase, %fpflags and the trap frame, of the group itself
    cases hu
    exact goesOn_own h ⟨fun _ => rfl, rfl, rfl, rfl, rfl, rfl⟩ _ fun _ => rfl
  case h_6 | h_7 | h_8 | h_9 | h_10 | h_11 | h_12 | h_13 | h_14 => -- %srseed of the partition and %fx of the context
    cases hu
    exact goesOn_of h _ rfl rfl fun _ => rfl
  case h_19 => -- %divbase of the group that a handler serves
    obtain ⟨y, hy, rfl⟩ := Option.map_eq_some_iff.mp hu
    have hw : sysWrite 0x1F x g = fun s => advance (s.modGroup y.1 fun t => { t with divbase := x }) := by
      funext s; simp only [sysWrite, hy]
    rw [hw]
    exact goesOn_other h (hserved y rfl hy) _
  case h_20 => cases hu

/-- A value out of range of %hbperiod, %hbmode or %fpmode traps ILLOP. -/
theorem sysWrite_outOfRange {s : State} {g : Group} {n : Nat} {x : W64} (hn : n = 0x08 ∨ n = 0x09 ∨ n = 0x0B)
    (hu : sysWrites s g n x = none) (t : State) : sysWrite n x g t = trapAt .illop 0 t := by
  obtain rfl | rfl | rfl := hn <;> simp only [sysWrites, ite_eq_right_iff, reduceCtorEq, imp_false] at hu
  · exact (wrHbperiod_eq _ _ _).trans (if_neg hu)
  · exact (wrHbmode_eq _ _ _).trans (if_neg hu)
  · exact (wrFpmode_eq _ _ _).trans (if_neg hu)

/-- An admitted write of a register runs `sysWrite`, where none of the group's arithmetic is in flight. -/
theorem syswrOp_admitted {a n : Nat} {s : State} {g : Group} {p : Path}
    (h : Admitted { acc := {}, rd := sR [a], who := sysWriter n } s g p) (hpipe : n = 0x0C → ∀ e ∈ s.pipe, e.gid ≠ s.iss.gid) :
    syswrOp a n s = .next (issued true s p (sysWrite n (rS g a) g)) := by
  have hm (f : Path → Path) : settleFlags n (s.modPath f) = s.modPath f := settleFlags_landed hpipe
  refine (gated_admitted h _).trans (congrArg _ (issued_congr true ?_ fun f => ?_))
  · exact congrArg _ (settleFlags_landed hpipe)
  · exact congrArg _ (hm f)

/-- R25, R48, R244, R352: writes, and the traps of those that may not be made. -/
theorem systemRegisterWrites : Claims.SystemRegisterWrites := by
  intro i a n s g p hn hi
  rw [exec_namesWrite hi, ← sysWriter_eq hn]
  refine ⟨fun h hpipe => ?_, fun h ho hp _ hw => gated_priv h ho hp rfl rfl (Who.ok_ordinary ho hw) _⟩
  rw [syswrOp_admitted h hpipe]
  refine ⟨fun u hu hserved => ?_, fun hr hu ho => ?_⟩
  · rw [sysWrite_inRange h.toIssuing hu hserved]
  · exact congrArg _ (trapsBefore_of h.toIssuing ho _ _ _ rfl rfl fun G => sysWrite_outOfRange hr hu _)

/-- Settles O14, by the value that each register reads and the one field of the state that each write changes. -/
theorem systemRegisters : Obligations.SystemRegisters := ⟨systemRegisterReads, systemRegisterWrites⟩

end Sys2Proof.Machine
end

section
/-! The decoder and the encoder are inverse (R51, R53, R70). A word is a number with fields placed in it; what is placed is
read back, and the arm of the decoder that major and fn select names the instruction for those fields. The other way, an
arm's conditions and fields add up to the word. -/

namespace Sys2Proof.Encoding

theorem fld_lt (w lo n : Nat) : fld w lo n < 2 ^ n := Nat.mod_lt _ (by positivity)

/-- A field that is cut in two: the upper part counts in units of the lower. -/
theorem fld_split (w lo m n : Nat) : fld w lo (m + n) = fld w (lo + m) n * 2 ^ m + fld w lo m := by
  unfold fld
  rw [pow_add, pow_add, ← Nat.div_div_eq_div_mul, Nat.mod_mul, Nat.add_comm, Nat.mul_comm]

/-- The bits from `top` on are those of `k`. -/
theorem fld_eq_of_div_eq {w k top lo n : Nat} (h : w / 2 ^ top = k / 2 ^ top) (hlo : top ≤ lo) : fld w lo n = fld k lo n := by
  obtain ⟨j, rfl⟩ := Nat.exists_eq_add_of_le hlo
  rw [fld, fld, pow_add, ← Nat.div_div_eq_div_mul, h, Nat.div_div_eq_div_mul]

/-- The number `acc` with fields placed in it: of each its value, its lowest bit and its width (R53). -/
def place : Nat → List (Nat × Nat × Nat) → Nat
  | acc, [] => acc
  | acc, (x, 0, _) :: t => place (acc + x) t
  | acc, (x, lo + 1, _) :: t => place (acc + x * 2 ^ (lo + 1)) t

theorem place_cons (acc x lo n : Nat) (t : List (Nat × Nat × Nat)) :
    place acc ((x, lo, n) :: t) = place (acc + x * 2 ^ lo) t := by
  cases lo <;> simp [place]

/-- The fields stand below bit `top`, the highest first, and do not overlap. -/
def laidOut : Nat → List (Nat × Nat × Nat) → Bool
  | _, [] => true
  | top, (_, lo, n) :: t => decide (lo + n ≤ top) && laidOut lo t

/-- Every value fits the width of its field. -/
def fits : List (Nat × Nat × Nat) → Prop
  | [] => True
  | [(x, _, n)] => x < 2 ^ n
  | (x, _, n) :: t => x < 2 ^ n ∧ fits t

theorem fits_cons {x lo n : Nat} {t : List (Nat × Nat × Nat)} (h : fits ((x, lo, n) :: t)) : x < 2 ^ n ∧ fits t := by
  cases t with
  | nil => exact ⟨h, trivial⟩
  | cons => exact h

/-- Below bit `top`, `w` holds the fields and zeros between them (R51). -/
def reads (w : Nat) : Nat → List (Nat × Nat × Nat) → Prop
  | top, [] => fld w 0 top = 0
  | top, (x, lo, n) :: t => fld w (lo + n) (top - (lo + n)) = 0 ∧ fld w lo n = x ∧ reads w lo t

/-- WHAT IS PLACED IS READ BACK, and the bits above stay. -/
theorem reads_place {top : Nat} {fs : List (Nat × Nat × Nat)} (hl : laidOut top fs = true) (hf : fits fs) (q : Nat) :
    reads (place (q * 2 ^ top) fs) top fs ∧ place (q * 2 ^ top) fs / 2 ^ top = q := by
  induction fs generalizing top q with
  | nil => exact ⟨by simp [reads, place, fld], by simp [place]⟩
  | cons f t ih =>
    obtain ⟨x, lo, n⟩ := f
    obtain ⟨hx, hft⟩ := fits_cons hf
    simp only [laidOut, Bool.and_eq_true, decide_eq_true_eq] at hl
    obtain ⟨hln, hlt⟩ := hl
    obtain ⟨m, rfl⟩ := Nat.exists_eq_add_of_le hln
    have hacc : q * 2 ^ (lo + n + m) + x * 2 ^ lo = (q * 2 ^ m * 2 ^ n + x) * 2 ^ lo := by ring
    obtain ⟨hr, hdiv⟩ := ih hlt hft (q * 2 ^ m * 2 ^ n + x)
    rw [place_cons, hacc]
    generalize place ((q * 2 ^ m * 2 ^ n + x) * 2 ^ lo) t = w at hr hdiv
    have hhigh : w / 2 ^ (lo + n) = q * 2 ^ m := by
      rw [pow_add, ← Nat.div_div_eq_div_mul, hdiv, Nat.add_comm, Nat.add_mul_div_right _ _ (by positivity), Nat.div_eq_of_lt hx, Nat.zero_add]
    refine ⟨⟨?_, ?_, hr⟩, ?_⟩
    · rw [fld, hhigh, Nat.add_sub_cancel_left, Nat.mul_mod_left]
    · rw [fld, hdiv, Nat.mul_add_mod_self_right, Nat.mod_eq_of_lt hx]
    · rw [pow_add, ← Nat.div_div_eq_div_mul, hhigh, Nat.mul_div_cancel _ (by positivity)]

/-- The word of an instruction is a word, and the decoder's tables name the instruction for it. -/
def Decodes (i : Instr) : Prop := encode i < 2 ^ 32 ∧ decodeRaw (encode i) = some i

/-- In every word whose bits from `top` on are those of `k`, the decoder runs `arm`: the arm of its tables that major and
fn select (R68, R69). -/
def Selects (k top : Nat) (arm : Nat → Option Instr) : Prop :=
  ∀ w, (∀ lo n, top ≤ lo → fld w lo n = fld k lo n) → ∀ o, arm w = o → decodeRaw w = o

/-- An instruction whose word is `k` with fields below bit `top`, where the arm that `k` selects names it for these fields. -/
theorem decodes_of_selects {i : Instr} {k top : Nat} {fs : List (Nat × Nat × Nat)} {arm : Nat → Option Instr}
    (hs : Selects k top arm) (hi : encode i = place k fs) (hl : laidOut top fs = true) (hf : fits fs)
    (hk : k % 2 ^ top = 0 ∧ k / 2 ^ top < 2 ^ (32 - top) ∧ top ≤ 32) (harm : ∀ w, reads w top fs → arm w = some i) :
    Decodes i := by
  obtain ⟨hmod, hdiv, htop⟩ := hk
  have hkq : k / 2 ^ top * 2 ^ top = k := Nat.div_mul_cancel (Nat.dvd_of_mod_eq_zero hmod)
  obtain ⟨hr, hq⟩ := reads_place hl hf (k / 2 ^ top)
  rw [hkq] at hr hq
  rw [Decodes, hi]
  refine ⟨?_, hs _ (fun lo n h => fld_eq_of_div_eq hq h) _ (harm _ hr)⟩
  rw [← hq, Nat.div_lt_iff_lt_mul (by positivity), ← pow_add, Nat.sub_add_cancel htop] at hdiv
  exact hdiv

/-- Formats B, C, J and H: the major alone selects. -/
theorem decodes_major {i : Instr} {k : Nat} {arm : Nat → Option Instr} (fs : List (Nat × Nat × Nat)) (hi : encode i = place k fs) (hf : fits fs)
    (harm : ∀ w, reads w 26 fs → arm w = some i)
    (hs : Selects k 26 arm := by intro w hk o ho; rw [decodeRaw, hk 26 6 (by decide)]; exact ho)
    (hl : laidOut 26 fs = true := by exact rfl)
    (hk : k % 2 ^ 26 = 0 ∧ k / 2 ^ 26 < 2 ^ (32 - 26) ∧ 26 ≤ 32 := by decide) : Decodes i :=
  decodes_of_selects hs hi hl hf hk harm

/-- Formats A and E: major and fn select. -/
theorem decodes_fn {i : Instr} {k : Nat} {arm : Nat → Option Instr} (fs : List (Nat × Nat × Nat)) (hi : encode i = place k fs) (hf : fits fs)
    (harm : ∀ w, reads w 21 fs → arm w = some i)
    (hs : Selects k 21 arm := by
      intro w hk o ho; rw [decodeRaw, hk 26 6 (by decide)]; conv => {lhs; whnf}; rw [hk 21 5 (by decide)]; exact ho)
    (hl : laidOut 21 fs = true := by exact rfl)
    (hk : k % 2 ^ 21 = 0 ∧ k / 2 ^ 21 < 2 ^ (32 - 21) ∧ 21 ≤ 32 := by decide) : Decodes i :=
  decodes_of_selects hs hi hl hf hk harm

/-- Format A with the width code in the low bits of fn, which are field and selector. -/
theorem decodes_fnSized {i : Instr} {k : Nat} {arm : Nat → Option Instr} (fs : List (Nat × Nat × Nat)) (hi : encode i = place k fs) (hf : fits fs)
    (harm : ∀ w, reads w 21 fs → arm w = some i)
    (hs : Selects k 21 arm := by
      intro w hk o ho; rw [decodeRaw, hk 26 6 (by decide)]; conv => {lhs; whnf}; rw [hk 21 5 (by decide), hk 21 2 (by decide)]; exact ho)
    (hl : laidOut 21 fs = true := by exact rfl)
    (hk : k % 2 ^ 21 = 0 ∧ k / 2 ^ 21 < 2 ^ (32 - 21) ∧ 21 ≤ 32 := by decide) : Decodes i :=
  decodes_of_selects hs hi hl hf hk harm

/-- Format D. -/
theorem decodes_fnD {i : Instr} {k : Nat} {arm : Nat → Option Instr} (fs : List (Nat × Nat × Nat)) (hi : encode i = place k fs) (hf : fits fs)
    (harm : ∀ w, reads w 22 fs → arm w = some i)
    (hs : Selects k 22 arm := by
      intro w hk o ho; rw [decodeRaw, hk 26 6 (by decide)]; conv => {lhs; whnf}; rw [hk 22 4 (by decide)]; exact ho)
    (hl : laidOut 22 fs = true := by exact rfl)
    (hk : k % 2 ^ 22 = 0 ∧ k / 2 ^ 22 < 2 ^ (32 - 22) ∧ 22 ≤ 32 := by decide) : Decodes i :=
  decodes_of_selects hs hi hl hf hk harm

/-- Format F: major and op10 select. -/
theorem decodes_op10 {i : Instr} {k : Nat} {arm : Nat → Option Instr} (fs : List (Nat × Nat × Nat)) (hi : encode i = place k fs) (hf : fits fs)
    (harm : ∀ w, reads w 16 fs → arm w = some i)
    (hs : Selects k 16 arm := by
      intro w hk o ho; rw [decodeRaw, hk 26 6 (by decide)]; conv => {lhs; whnf}; rw [hk 16 10 (by decide)]; exact ho)
    (hl : laidOut 16 fs = true := by exact rfl)
    (hk : k % 2 ^ 16 = 0 ∧ k / 2 ^ 16 < 2 ^ (32 - 16) ∧ 16 ≤ 32 := by decide) : Decodes i :=
  decodes_of_selects hs hi hl hf hk harm

/-- Instructions with the width code in the low bits of fn (R69). -/
def isSized : Instr → Bool
  | .vadd .. | .vsub .. | .vmul .. | .vmulhI .. | .vmulhN .. | .vaddSatI .. | .vaddSatN .. | .vminI .. | .vminN .. |
  .vmaxI .. | .vmaxN .. | .vavgN .. | .vshl .. | .vshr .. | .vsar .. | .vceq .. | .vcne .. | .vcltI .. | .vcltN .. |
  .vcleI .. | .vcleN .. | .vabs .. | .vneg .. | .vpop .. | .vclz .. => true
  | _ => false

/-- Instructions of the majors 0x2B to 0x3F (Table OPC.1). -/
def inUpperMajors : Instr → Bool
  | .callx .. | .allon .. | .alloff .. | .yield .. | .nop .. | .exit .. | .fend .. | .hold .. | .release .. | .gang ..
  | .sxst .. | .bclose .. | .bchk .. | .mma .. | .mmat .. | .mprom .. | .acczero .. | .wbld .. | .fmtchk .. |
  .acopyo .. | .ascat .. | .mcast .. | .talloc .. | .wbfree .. | .sxstat .. | .join .. | .sleep .. | .sxld .. |
  .sxrun .. | .sxabort .. | .acopy .. | .agath .. | .tstat .. | .tglook .. | .tgset .. | .bopen .. | .bld .. |
  .bfetch .. | .seqw .. | .qput .. | .qtake .. | .qstat .. | .amsg .. | .submit .. | .acoll .. | .frstat .. | .trel ..
  | .tgclr .. | .bstat .. | .dturn .. | .ret .. | .brx .. | .rcv .. | .regroup .. | .fork .. | .bar .. | .bara .. |
  .barw .. | .cbar .. | .waitc .. | .arowRd .. | .acolRd .. | .arowRdb .. | .arowWr .. | .acolWr .. | .arowAdd .. |
  .trap .. | .brk .. | .rett .. | .rinj .. | .sysrd .. | .syswr .. | .halt .. | .mboxSend .. | .mboxRecv .. | .ucnt ..
  | .attest .. | .hint .. => true
  | _ => false

theorem decodes_of_isSized {i : Instr} (hs : isSized i = true) (h : i.WF) : Decodes i := by
  cases i with
  | vadd | vsub | vmul | vmulhI | vmulhN | vaddSatI | vaddSatN | vminI | vminN | vmaxI | vmaxN | vavgN | vshl | vshr |
      vsar | vceq | vcne | vcltI | vcltN | vcleI | vcleN =>
    obtain ⟨hw, h⟩ := h
    rename_i w _ _ _
    interval_cases w
    all_goals
      refine decodes_fnSized [(_, 14, 7), (_, 7, 7), (_, 0, 7)] rfl h ?_
      rintro w ⟨-, rfl, -, rfl, -, rfl, -⟩
      rfl
  | vabs | vneg | vpop | vclz =>
    obtain ⟨hw, h⟩ := h
    rename_i w _ _
    interval_cases w
    all_goals
      refine decodes_fnSized [(_, 14, 7), (_, 7, 7)] rfl h ?_
      rintro w ⟨-, rfl, -, rfl, h2⟩
      exact if_pos h2
  | _ => cases hs

theorem decodes_of_inUpperMajors {i : Instr} (hu : inUpperMajors i = true) (h : i.WF) : Decodes i := by
  cases i with
  | callx =>
    refine decodes_fn [(_, 14, 7), (_, 7, 7)] rfl h ?_
    rintro w ⟨-, rfl, -, rfl, h2⟩
    exact if_pos h2
  | allon | alloff | yield | nop | exit | fend | hold | release =>
    refine decodes_fn [] rfl h ?_
    intro w hr
    exact if_pos hr
  | gang | sxst | bclose | bchk =>
    refine decodes_fn [(_, 11, 7), (_, 0, 1)] rfl h ?_
    rintro w ⟨h0, rfl, h1, rfl, -⟩
    exact if_pos ⟨h1, h0⟩
  | mma =>
    refine decodes_fn [(_, 18, 3), (_, 11, 7), (_, 0, 4)] rfl h ?_
    rintro w ⟨-, rfl, -, rfl, h2, rfl, -⟩
    exact if_pos h2
  | mmat =>
    refine decodes_fn [(_, 18, 3), (_, 11, 7), (_, 4, 7), (_, 0, 4)] rfl h ?_
    rintro w ⟨-, rfl, -, rfl, -, rfl, -, rfl, -⟩
    rfl
  | mprom =>
    refine decodes_fn [(_, 18, 3), (_, 4, 3)] rfl h ?_
    rintro w ⟨-, rfl, h1, rfl, h2⟩
    exact if_pos ⟨h2, h1⟩
  | acczero =>
    refine decodes_fn [(_, 18, 3)] rfl h ?_
    rintro w ⟨-, rfl, h1⟩
    exact if_pos h1
  | wbld | fmtchk | acopyo | ascat | mcast | talloc =>
    refine decodes_fn [(_, 11, 7), (_, 4, 7), (_, 0, 1)] rfl h ?_
    rintro w ⟨h0, rfl, -, rfl, h2, rfl, -⟩
    exact if_pos ⟨h2, h0⟩
  | wbfree | sxstat | join | sleep =>
    refine decodes_fn [(_, 11, 7)] rfl h ?_
    rintro w ⟨h0, rfl, h1⟩
    exact if_pos ⟨h1, h0⟩
  | sxld =>
    refine decodes_fn [(_, 11, 7), (_, 0, 4)] rfl ⟨h.1, h.2.1⟩ ?_
    rintro w ⟨h0, rfl, h1, rfl, -⟩
    exact if_pos ⟨h1, h0⟩
  | sxrun | sxabort =>
    refine decodes_fn [(_, 0, 1)] rfl h ?_
    rintro w ⟨h0, rfl, -⟩
    exact if_pos h0
  | acopy | agath | tstat | tglook | tgset | bopen | bld | bfetch | seqw | qput | qtake | qstat | amsg | submit =>
    refine decodes_fn [(_, 11, 7), (_, 4, 7)] rfl h ?_
    rintro w ⟨h0, rfl, -, rfl, h2⟩
    exact if_pos ⟨h2, h0⟩
  | acoll | frstat =>
    refine decodes_fn [(_, 11, 7), (_, 4, 7), (_, 0, 4)] rfl ⟨h.1, h.2.1, h.2.2.1⟩ ?_
    rintro w ⟨h0, rfl, -, rfl, -, rfl, -⟩
    exact if_pos h0
  | trel =>
    refine decodes_fn [(_, 11, 7), (_, 0, 2)] rfl ⟨h.1, h.2.1⟩ ?_
    rintro w ⟨h0, rfl, h1, rfl, -⟩
    exact if_pos ⟨h1, h0⟩
  | tgclr =>
    refine decodes_fn [(_, 11, 7), (_, 0, 1)] rfl ⟨h.1, h.2.1⟩ ?_
    rintro w ⟨h0, rfl, h1, rfl, -⟩
    exact if_pos ⟨h1, h0⟩
  | bstat | dturn =>
    refine decodes_fn [(_, 11, 7), (_, 4, 7), (_, 0, 2)] rfl ⟨h.1, h.2.1, h.2.2.1⟩ ?_
    rintro w ⟨h0, rfl, -, rfl, h2, rfl, -⟩
    exact if_pos ⟨h2, h0⟩
  | ret | brx =>
    refine decodes_fn [(_, 7, 7)] rfl h ?_
    rintro w ⟨h0, rfl, h1⟩
    exact if_pos ⟨h1, h0⟩
  | rcv =>
    refine decodes_fn [(_, 0, 3)] rfl h ?_
    rintro w ⟨h0, rfl, -⟩
    exact if_pos h0
  | regroup =>
    refine decodes_fn [(_, 14, 7), (_, 7, 7), (_, 0, 7)] rfl ⟨h.1, h.2.1, h.2.2.1⟩ ?_
    rintro w ⟨-, rfl, -, rfl, -, rfl, -⟩
    rfl
  | fork =>
    refine decodes_fn [(_, 18, 3), (_, 11, 7), (_, 4, 7), (_, 0, 4)] rfl ⟨h.1, h.2.1, h.2.2.1, h.2.2.2.1⟩ ?_
    rintro w ⟨-, rfl, -, rfl, -, rfl, -, rfl, -⟩
    rfl
  | bar =>
    refine decodes_fn [(_, 0, 4)] rfl h ?_
    rintro w ⟨h0, rfl, -⟩
    exact if_pos h0
  | bara | barw =>
    refine decodes_fn [(_, 11, 7), (_, 0, 4)] rfl h ?_
    rintro w ⟨h0, rfl, h1, rfl, -⟩
    exact if_pos ⟨h1, h0⟩
  | cbar =>
    refine decodes_fn [(_, 0, 2)] rfl h ?_
    rintro w ⟨h0, rfl, -⟩
    exact if_pos h0
  | waitc =>
    refine decodes_fn [(_, 11, 6)] rfl h.1 ?_
    rintro w ⟨h0, rfl, h1⟩
    exact if_pos ⟨h1, h0⟩
  | arowRd | acolRd | arowRdb =>
    refine decodes_fn [(_, 14, 7), (_, 7, 3), (_, 0, 7)] rfl h ?_
    rintro w ⟨-, rfl, h1, rfl, -, rfl, -⟩
    exact if_pos h1
  | arowWr | acolWr | arowAdd =>
    refine decodes_fn [(_, 14, 3), (_, 7, 7), (_, 0, 7)] rfl h ?_
    rintro w ⟨h0, rfl, -, rfl, -, rfl, -⟩
    exact if_pos h0
  | trap | brk =>
    refine decodes_op10 [(_, 0, 16)] rfl h ?_
    rintro w ⟨-, rfl, -⟩
    rfl
  | rett =>
    refine decodes_op10 [(_, 14, 2), (_, 7, 7)] rfl ⟨h.1, h.2.1⟩ ?_
    rintro w ⟨-, rfl, -, rfl, h2⟩
    exact if_pos h2
  | rinj =>
    refine decodes_op10 [(_, 15, 1), (_, 13, 2), (_, 6, 7), (_, 0, 6)] rfl ⟨h.1, h.2.1, h.2.2.1, h.2.2.2.1⟩ ?_
    rintro w ⟨-, rfl, -, rfl, -, rfl, -, rfl, -⟩
    rfl
  | sysrd | syswr =>
    refine decodes_op10 [(_, 9, 7), (_, 1, 8)] rfl ⟨h.1, h.2.1⟩ ?_
    rintro w ⟨-, rfl, -, rfl, h2⟩
    exact if_pos h2
  | halt =>
    refine decodes_op10 [(_, 8, 8), (_, 0, 1)] rfl h ?_
    rintro w ⟨-, rfl, h1, rfl, -⟩
    exact if_pos h1
  | mboxSend =>
    refine decodes_op10 [(_, 9, 7)] rfl h.1 ?_
    rintro w ⟨-, rfl, h1⟩
    exact if_pos h1
  | ucnt =>
    refine decodes_op10 [(_, 9, 7), (_, 3, 6), (_, 2, 1)] rfl h ?_
    rintro w ⟨-, rfl, -, rfl, -, rfl, h3⟩
    exact if_pos h3
  | attest =>
    refine decodes_op10 [(_, 9, 7), (_, 2, 7)] rfl h ?_
    rintro w ⟨-, rfl, -, rfl, h2⟩
    exact if_pos h2
  | hint =>
    refine decodes_major [(_, 4, 1), (_, 0, 4)] rfl h ?_
    rintro w ⟨h0, rfl, -, rfl, -⟩
    exact if_pos h0
  | mboxRecv => -- OPX tells it from mboxSend (R355)
    refine decodes_op10 (k := 0xF8060000) [(_, 9, 7), (256, 0, 9)] ?_ ⟨h.1, show 256 < 2 ^ 9 by decide⟩ ?_
    · show 0xF8060100 + _ * 512 = 0xF8060000 + _ * 2 ^ 9 + 256
      omega
    · rintro w ⟨-, rfl, -, h1, -⟩
      exact (if_neg (by rw [h1]; decide)).trans (if_pos h1)
  | _ => cases hu

/-- EVERY INSTRUCTION WITH A WORD, with operands that fit, is what the tables name for its word. -/
theorem decodes_encode {i : Instr} (hw : i.hasWord = true) (h : i.WF) : Decodes i := by
  cases i with
  | sadd | ssub | smul | smulhI | smulhN | sdivI | sdivN | sremI | sremN | sminI | sminN | smaxI | smaxN | seq | sne |
      sltI | sltN | sleI | sleN | ssel | sadds | sand | sor | sxor | sandn | sshl | sshr | ssar | srol | sror | sbfxI
      | sbfxN | sbfi | vand | vor | vxor | vandn | vsel | vfmaF32 | vfmaF16 | vfmaBf16 | vfmsF32 | vfmsF16 | vfmsBf16
      | vfnmaF32 | vfnmaF16 | vfnmaBf16 | vfaddF32 | vfaddF16 | vfaddBf16 | vfsubF32 | vfsubF16 | vfsubBf16 | vfmulF32
      | vfmulF16 | vfmulBf16 | vfminF32 | vfminF16 | vfminBf16 | vfmaxF32 | vfmaxF16 | vfmaxBf16 | vfminnumF32 |
      vfminnumF16 | vfminnumBf16 | vfmaxnumF32 | vfmaxnumF16 | vfmaxnumBf16 | vfceqF32 | vfceqF16 | vfceqBf16 |
      vfcltF32 | vfcltF16 | vfcltBf16 | vfcleF32 | vfcleF16 | vfcleBf16 | vfcunF32 | vfcunF16 | vfcunBf16 |
      vfcopysignF32 | vfcopysignF16 | vfcopysignBf16 | vldexp | vscFix | vshfl | vshfleE32 | qbcast | vldx32 | vldx64
      | vstx32 | vstx64 | vldx16 | vstx16 | vldx8 | vstx8 | atomAddE32 | atomAddE64 | atomMinI32 | atomMinN32 |
      atomMaxI32 | atomMaxN32 | atomAndB64 | atomOrB64 | atomXorB64 | atomXchgE32 | atomXchgE64 | atomCasE32 |
      atomCasE64 | atomFaddF32 | atomFaddBf16x2 | atomMaxidxF16 =>
    refine decodes_fn [(_, 14, 7), (_, 7, 7), (_, 0, 7)] rfl h ?_
    rintro w ⟨-, rfl, -, rfl, -, rfl, -⟩
    rfl
  | sabs | sneg | smov | snot | sclz | sctz | spop | vnot | vmov | vfabsF32 | vfabsF16 | vfabsBf16 | vfnegF32 |
      vfnegF16 | vfnegBf16 | vfclassF32 | vfclassF16 | vfclassBf16 | vcvtI32F32 | vcvtN32F32 | vcvtF32I32 | vcvtF32N32
      | vrcpSeed | vrsqSeed | vgetexp | vgetman | vfrac | vfrnd | vprefixAddI32 | vprefixAddF32 | vredAddI32 |
      vredAddF32 | vredMaxI32 | vredMaxF32 | vmaxidxF16 | vmaxidxF32 | vvoteAll | vvoteAny | qswpH | qswpV | qswpD =>
    refine decodes_fn [(_, 14, 7), (_, 7, 7)] rfl h ?_
    rintro w ⟨-, rfl, -, rfl, h2⟩
    exact if_pos h2
  | mand | mor | mxor | mandn =>
    refine decodes_fn [(_, 14, 3), (_, 7, 3), (_, 0, 3)] rfl h ?_
    rintro w ⟨h0, rfl, h1, rfl, h2, rfl, -⟩
    exact if_pos ⟨h2, h1, h0⟩
  | mnot | mmov =>
    refine decodes_fn [(_, 14, 3), (_, 7, 3)] rfl h ?_
    rintro w ⟨h0, rfl, h1, rfl, h2⟩
    exact if_pos ⟨h2, h1, h0⟩
  | mpop | mfirst | mtos | mtov =>
    refine decodes_fn [(_, 14, 7), (_, 7, 3)] rfl h ?_
    rintro w ⟨-, rfl, h1, rfl, h2⟩
    exact if_pos ⟨h2, h1⟩
  | stom | vballot =>
    refine decodes_fn [(_, 14, 3), (_, 7, 7)] rfl h ?_
    rintro w ⟨h0, rfl, -, rfl, h2⟩
    exact if_pos ⟨h2, h0⟩
  | mbelow =>
    refine decodes_fn [(_, 14, 3), (_, 7, 3), (_, 0, 7)] rfl h ?_
    rintro w ⟨h0, rfl, h1, rfl, -, rfl, -⟩
    exact if_pos ⟨h1, h0⟩
  | saddi | sandi | sori | sxori | sslti | vaddi | vsplat | vld32 | vld64 | vst32 | vst64 | vld16 | vst16 | vld8 |
      vst8 | sld | sst | spld | spst =>
    refine decodes_major [(_, 19, 7), (_, 12, 7), (_, 0, 12)] rfl h ?_
    rintro w ⟨-, rfl, -, rfl, -, rfl, -⟩
    rfl
  | sshli | sshri =>
    refine decodes_major [(_, 19, 7), (_, 12, 7), (_, 0, 6)] rfl h ?_
    rintro w ⟨-, rfl, -, rfl, h2, rfl, -⟩
    exact if_pos h2
  | sli | vmovi =>
    refine decodes_major [(_, 19, 7), (_, 0, 12)] rfl h ?_
    rintro w ⟨-, rfl, h1, rfl, -⟩
    exact if_pos h1
  | br | call =>
    refine decodes_major [(_, 0, 26)] rfl h ?_
    rintro w ⟨-, rfl, -⟩
    rfl
  | bc =>
    refine decodes_major [(_, 19, 7), (_, 16, 3), (_, 0, 16)] rfl h ?_
    rintro w ⟨-, rfl, -, rfl, -, rfl, -⟩
    rfl
  | vbr =>
    refine decodes_major [(_, 19, 3), (_, 16, 3), (_, 0, 16)] rfl h ?_
    rintro w ⟨h0, rfl, -, rfl, -, rfl, -⟩
    exact if_pos h0
  | vtom =>
    refine decodes_fn [(_, 14, 3), (_, 7, 7), (_, 0, 3)] rfl h ?_
    rintro w ⟨h0, rfl, -, rfl, h2, rfl, -⟩
    exact if_pos ⟨h2, h0⟩
  | vcvtF16F32 | vcvtBf16F32 | vcvtF32F16 | vcvtF32Bf16 | vexpRed | vlogRed | vscRed =>
    refine decodes_fn [(_, 14, 7), (_, 7, 7), (_, 0, 1)] rfl h ?_
    rintro w ⟨-, rfl, -, rfl, h2, rfl, -⟩
    exact if_pos h2
  | vcvtF8e4F32 | vcvtF8e5F32 | vcvtF32F8e4 | vcvtF32F8e5 | vcvtF6e2F32 | vcvtF6e3F32 | vcvtF4F32 | vcvtF32F6e2 |
      vcvtF32F6e3 | vcvtF32F4 | vcvtI8I32 =>
    refine decodes_fn [(_, 14, 7), (_, 7, 7), (_, 0, 2)] rfl h ?_
    rintro w ⟨-, rfl, -, rfl, h2, rfl, -⟩
    exact if_pos h2
  | vpswap | vpkmx | vunmx =>
    refine decodes_fn [(_, 14, 7), (_, 7, 7), (_, 0, 3)] rfl ⟨h.1, h.2.1, h.2.2.1⟩ ?_
    rintro w ⟨-, rfl, -, rfl, h2, rfl, -⟩
    exact if_pos h2
  | vcompact | vexpand =>
    refine decodes_fn [(_, 14, 7), (_, 7, 7), (_, 0, 3)] rfl h ?_
    rintro w ⟨-, rfl, -, rfl, h2, rfl, -⟩
    exact if_pos h2
  | vlaneid =>
    refine decodes_fn [(_, 14, 7)] rfl h ?_
    rintro w ⟨-, rfl, h1⟩
    exact if_pos h1
  | vpkpx | vunpx =>
    refine decodes_fn [(_, 14, 7), (_, 7, 7), (_, 0, 2)] rfl ⟨h.1, h.2.1, h.2.2.1⟩ ?_
    rintro w ⟨-, rfl, -, rfl, h2, rfl, -⟩
    exact if_pos h2
  | vget | vput | vbcast | vbfly | vrot =>
    refine decodes_fnD [(_, 15, 7), (_, 8, 7), (_, 0, 8)] rfl h ?_
    rintro w ⟨-, rfl, -, rfl, -, rfl, -⟩
    rfl
  | qbcastI =>
    refine decodes_fnD [(_, 15, 7), (_, 8, 7), (_, 0, 2)] rfl h ?_
    rintro w ⟨-, rfl, -, rfl, h2, rfl, -⟩
    exact if_pos h2
  | fence =>
    refine decodes_fn [] rfl h ?_
    intro w hr
    exact if_pos hr
  | vprefetch =>
    refine decodes_fn [(_, 14, 1), (_, 7, 7), (_, 0, 7)] rfl h ?_
    rintro w ⟨h0, rfl, -, rfl, -, rfl, -⟩
    exact if_pos h0
  | vadd | vsub | vmul | vmulhI | vmulhN | vaddSatI | vaddSatN | vminI | vminN | vmaxI | vmaxN | vavgN | vshl | vshr |
      vsar | vceq | vcne | vcltI | vcltN | vcleI | vcleN | vabs | vneg | vpop | vclz =>
    exact decodes_of_isSized rfl h
  | callx | allon | alloff | yield | nop | exit | fend | hold | release | gang | sxst | bclose | bchk | mma | mmat |
      mprom | acczero | wbld | fmtchk | acopyo | ascat | mcast | talloc | wbfree | sxstat | join | sleep | sxld |
      sxrun | sxabort | acopy | agath | tstat | tglook | tgset | bopen | bld | bfetch | seqw | qput | qtake | qstat |
      amsg | submit | acoll | frstat | trel | tgclr | bstat | dturn | ret | brx | rcv | regroup | fork | bar | bara |
      barw | cbar | waitc | arowRd | acolRd | arowRdb | arowWr | acolWr | arowAdd | trap | brk | rett | rinj | sysrd |
      syswr | halt | mboxSend | mboxRecv | ucnt | attest | hint =>
    exact decodes_of_inUpperMajors rfl h
  | _ => cases hw

/-! Every arm of the decoder names an instruction whose word is the one decoded. -/

theorem ite_some_eq_some {α : Type} {c : Prop} [Decidable c] {x i : α} :
    (if c then some x else none) = some i ↔ c ∧ x = i := by simp

/-- An arm without a condition is one whose condition is `True`. -/
theorem some_eq_some_iff {α : Type} {x i : α} : some x = some i ↔ True ∧ x = i := by simp

/-- `w` is the word of the instruction, and its fields fit where the checks of its entry pass. -/
def Encodes (w : Nat) (i : Instr) : Prop := i.hasWord = true ∧ (i.fieldsOk = true → i.WF) ∧ encode i = w

/-! A word is its fields, each at its place (Table ASM.1). -/

theorem fld_word {w : Nat} (hw : w < 2 ^ 32) : fld w 0 32 = w := by
  rw [fld, pow_zero, Nat.div_one, Nat.mod_eq_of_lt hw]

theorem word_formatA {w : Nat} (hw : w < 2 ^ 32) :
    fld w 26 6 * 67108864 + fld w 21 5 * 2097152 + fld w 14 7 * 16384 + fld w 7 7 * 128 + fld w 0 7 = w := by
  have h := fld_word hw
  have h0 : fld w 0 32 = fld w 7 25 * 128 + fld w 0 7 := fld_split w 0 7 25
  have h7 : fld w 7 25 = fld w 14 18 * 128 + fld w 7 7 := fld_split w 7 7 18
  have h14 : fld w 14 18 = fld w 21 11 * 128 + fld w 14 7 := fld_split w 14 7 11
  have h21 : fld w 21 11 = fld w 26 6 * 32 + fld w 21 5 := fld_split w 21 5 6
  omega

theorem word_formatB {w : Nat} (hw : w < 2 ^ 32) :
    fld w 26 6 * 67108864 + fld w 19 7 * 524288 + fld w 12 7 * 4096 + fld w 0 12 = w := by
  have h := fld_word hw
  have h0 : fld w 0 32 = fld w 12 20 * 4096 + fld w 0 12 := fld_split w 0 12 20
  have h12 : fld w 12 20 = fld w 19 13 * 128 + fld w 12 7 := fld_split w 12 7 13
  have h19 : fld w 19 13 = fld w 26 6 * 128 + fld w 19 7 := fld_split w 19 7 6
  omega

theorem word_formatC {w : Nat} (hw : w < 2 ^ 32) :
    fld w 26 6 * 67108864 + fld w 19 7 * 524288 + fld w 16 3 * 65536 + fld w 0 16 = w := by
  have h := fld_word hw
  have h0 : fld w 0 32 = fld w 16 16 * 65536 + fld w 0 16 := fld_split w 0 16 16
  have h16 : fld w 16 16 = fld w 19 13 * 8 + fld w 16 3 := fld_split w 16 3 13
  have h19 : fld w 19 13 = fld w 26 6 * 128 + fld w 19 7 := fld_split w 19 7 6
  omega

theorem word_formatD {w : Nat} (hw : w < 2 ^ 32) :
    fld w 26 6 * 67108864 + fld w 22 4 * 4194304 + fld w 15 7 * 32768 + fld w 8 7 * 256 + fld w 0 8 = w := by
  have h := fld_word hw
  have h0 : fld w 0 32 = fld w 8 24 * 256 + fld w 0 8 := fld_split w 0 8 24
  have h8 : fld w 8 24 = fld w 15 17 * 128 + fld w 8 7 := fld_split w 8 7 17
  have h15 : fld w 15 17 = fld w 22 10 * 128 + fld w 15 7 := fld_split w 15 7 10
  have h22 : fld w 22 10 = fld w 26 6 * 16 + fld w 22 4 := fld_split w 22 4 6
  omega

theorem word_formatE {w : Nat} (hw : w < 2 ^ 32) :
    fld w 26 6 * 67108864 + fld w 21 5 * 2097152 + fld w 18 3 * 262144 + fld w 11 7 * 2048 + fld w 4 7 * 16 + fld w 0 4 = w := by
  have h := fld_word hw
  have h0 : fld w 0 32 = fld w 4 28 * 16 + fld w 0 4 := fld_split w 0 4 28
  have h4 : fld w 4 28 = fld w 11 21 * 128 + fld w 4 7 := fld_split w 4 7 21
  have h11 : fld w 11 21 = fld w 18 14 * 128 + fld w 11 7 := fld_split w 11 7 14
  have h18 : fld w 18 14 = fld w 21 11 * 8 + fld w 18 3 := fld_split w 18 3 11
  have h21 : fld w 21 11 = fld w 26 6 * 32 + fld w 21 5 := fld_split w 21 5 6
  omega

theorem word_formatF {w : Nat} (hw : w < 2 ^ 32) : fld w 26 6 * 67108864 + fld w 16 10 * 65536 + fld w 0 16 = w := by
  have h := fld_word hw
  have h0 : fld w 0 32 = fld w 16 16 * 65536 + fld w 0 16 := fld_split w 0 16 16
  have h16 : fld w 16 16 = fld w 26 6 * 1024 + fld w 16 10 := fld_split w 16 10 6
  omega

theorem word_formatJ {w : Nat} (hw : w < 2 ^ 32) : fld w 26 6 * 67108864 + fld w 0 26 = w := by
  have h := fld_word hw
  have h0 : fld w 0 32 = fld w 26 6 * 67108864 + fld w 0 26 := fld_split w 0 26 6
  omega

theorem word_fn {w : Nat} (hw : w < 2 ^ 32) : fld w 26 6 * 67108864 + fld w 21 5 * 2097152 + fld w 0 21 = w := by
  have h := fld_word hw
  have h0 : fld w 0 32 = fld w 21 11 * 2097152 + fld w 0 21 := fld_split w 0 21 11
  have h21 : fld w 21 11 = fld w 26 6 * 32 + fld w 21 5 := fld_split w 21 5 6
  omega

theorem encodes_of_decode03 {w : Nat} {i : Instr} (hw : w < 2 ^ 32) (hm : fld w 26 6 = 0x03) (h : decode03 w = some i) :
    Encodes w i := by -- SMASK
  have hword := word_formatA hw
  have cut14_3 : fld w 14 7 = fld w 17 4 * 8 + fld w 14 3 := fld_split w 14 3 4
  have cut7_3 : fld w 7 7 = fld w 10 4 * 8 + fld w 7 3 := fld_split w 7 3 4
  have cut0_3 : fld w 0 7 = fld w 3 4 * 8 + fld w 0 3 := fld_split w 0 3 4
  unfold decode03 at h
  split at h <;> simp only [ite_some_eq_some, reduceCtorEq] at h
  all_goals obtain ⟨hz, rfl⟩ := h
  all_goals exact ⟨rfl, fun _ => by and_intros <;> exact fld_lt _ _ _, by show _ + _ = w; omega⟩

theorem encodes_of_decode12 {w : Nat} {i : Instr} (hw : w < 2 ^ 32) (hm : fld w 26 6 = 0x12) (h : decode12 w = some i) :
    Encodes w i := by -- VBIT
  have hword := word_formatA hw
  have hs : fld w 21 2 = fld w 21 5 % 4 := by unfold fld; omega
  unfold decode12 at h
  split at h <;> simp only [ite_some_eq_some, some_eq_some_iff, reduceCtorEq] at h
  all_goals obtain ⟨hz, rfl⟩ := h
  all_goals exact ⟨rfl, fun _ => by and_intros <;> exact fld_lt _ _ _, by show _ + _ = w; omega⟩

theorem encodes_of_decode13 {w : Nat} {i : Instr} (hw : w < 2 ^ 32) (hm : fld w 26 6 = 0x13) (h : decode13 w = some i) :
    Encodes w i := by -- VICMP
  have hword := word_formatA hw
  have cut14_3 : fld w 14 7 = fld w 17 4 * 8 + fld w 14 3 := fld_split w 14 3 4
  have cut7_3 : fld w 7 7 = fld w 10 4 * 8 + fld w 7 3 := fld_split w 7 3 4
  have cut0_3 : fld w 0 7 = fld w 3 4 * 8 + fld w 0 3 := fld_split w 0 3 4
  have hs : fld w 21 2 = fld w 21 5 % 4 := by unfold fld; omega
  unfold decode13 at h
  split at h <;> simp only [ite_some_eq_some, some_eq_some_iff, reduceCtorEq] at h
  all_goals obtain ⟨hz, rfl⟩ := h
  all_goals exact ⟨rfl, fun _ => by and_intros <;> exact fld_lt _ _ _, by show _ + _ = w; omega⟩

theorem encodes_of_decode16 {w : Nat} {i : Instr} (hw : w < 2 ^ 32) (hm : fld w 26 6 = 0x16) (h : decode16 w = some i) :
    Encodes w i := by -- VCVT
  have hword := word_formatA hw
  have cut0_1 : fld w 0 7 = fld w 1 6 * 2 + fld w 0 1 := fld_split w 0 1 6
  have cut0_2 : fld w 0 7 = fld w 2 5 * 4 + fld w 0 2 := fld_split w 0 2 5
  unfold decode16 at h
  split at h <;> simp only [ite_some_eq_some, reduceCtorEq] at h
  all_goals obtain ⟨hz, rfl⟩ := h
  all_goals exact ⟨rfl, fun _ => by and_intros <;> exact fld_lt _ _ _, by show _ + _ = w; omega⟩

theorem encodes_of_decode17 {w : Nat} {i : Instr} (hw : w < 2 ^ 32) (hm : fld w 26 6 = 0x17) (h : decode17 w = some i) :
    Encodes w i := by -- VHELP
  have hword := word_formatA hw
  have cut0_1 : fld w 0 7 = fld w 1 6 * 2 + fld w 0 1 := fld_split w 0 1 6
  unfold decode17 at h
  split at h <;> simp only [ite_some_eq_some, some_eq_some_iff, reduceCtorEq] at h
  all_goals obtain ⟨hz, rfl⟩ := h
  all_goals exact ⟨rfl, fun _ => by and_intros <;> exact fld_lt _ _ _, by show _ + _ = w; omega⟩

theorem encodes_of_decode1B {w : Nat} {i : Instr} (hw : w < 2 ^ 32) (hm : fld w 26 6 = 0x1B) (h : decode1B w = some i) :
    Encodes w i := by -- XLANE
  have hword := word_formatA hw
  have cut14_3 : fld w 14 7 = fld w 17 4 * 8 + fld w 14 3 := fld_split w 14 3 4
  have cut0_7 : fld w 0 14 = fld w 7 7 * 128 + fld w 0 7 := fld_split w 0 7 7
  have cut0_3 : fld w 0 7 = fld w 3 4 * 8 + fld w 0 3 := fld_split w 0 3 4
  have cut0_2 : fld w 0 7 = fld w 2 5 * 4 + fld w 0 2 := fld_split w 0 2 5
  unfold decode1B at h
  split at h <;> simp only [ite_some_eq_some, some_eq_some_iff, reduceCtorEq] at h
  all_goals obtain ⟨hz, rfl⟩ := h
  all_goals refine ⟨rfl, fun hok => ?_, by show _ + _ = w; omega⟩
  all_goals repeat refine ⟨fld_lt _ _ _, ?_⟩
  case h_3 | h_22 | h_23 | h_24 | h_25 => exact of_decide_eq_true hok
  all_goals exact fld_lt _ _ _

theorem encodes_of_decode29 {w : Nat} {i : Instr} (hw : w < 2 ^ 32) (hm : fld w 26 6 = 0x29) (h : decode29 w = some i) :
    Encodes w i := by -- MEMX
  have hword := word_formatA hw
  have cut14_1 : fld w 14 7 = fld w 15 6 * 2 + fld w 14 1 := fld_split w 14 1 6
  unfold decode29 at h
  split at h <;> simp only [ite_some_eq_some, some_eq_some_iff, reduceCtorEq] at h
  case h_9 hf =>
    obtain ⟨hz, rfl⟩ := h
    have hword := word_fn hw
    simp only [hm, hf, hz, Nat.reduceMul, Nat.reduceAdd, Nat.add_zero] at hword
    exact ⟨rfl, fun _ => trivial, hword⟩
  all_goals obtain ⟨hz, rfl⟩ := h
  all_goals exact ⟨rfl, fun _ => by and_intros <;> exact fld_lt _ _ _, by show _ + _ = w; omega⟩

theorem encodes_of_decode2B {w : Nat} {i : Instr} (hw : w < 2 ^ 32) (hm : fld w 26 6 = 0x2B) (h : decode2B w = some i) :
    Encodes w i := by -- MATRIX
  have hword := word_formatE hw
  have cut0_1 : fld w 0 4 = fld w 1 3 * 2 + fld w 0 1 := fld_split w 0 1 3
  have cut0_4 : fld w 0 11 = fld w 4 7 * 16 + fld w 0 4 := fld_split w 0 4 7
  have cut1_3 : fld w 1 10 = fld w 4 7 * 8 + fld w 1 3 := fld_split w 1 3 7
  have cut0_11 : fld w 0 18 = fld w 11 7 * 2048 + fld w 0 11 := fld_split w 0 11 7
  have cut4_3 : fld w 4 7 = fld w 7 4 * 8 + fld w 4 3 := fld_split w 4 3 4
  have cut7_4 : fld w 7 11 = fld w 11 7 * 16 + fld w 7 4 := fld_split w 7 4 7
  unfold decode2B at h
  split at h <;> simp only [ite_some_eq_some, some_eq_some_iff, reduceCtorEq] at h
  all_goals obtain ⟨hz, rfl⟩ := h
  all_goals exact ⟨rfl, fun _ => by and_intros <;> exact fld_lt _ _ _, by show _ + _ = w; omega⟩

theorem encodes_of_decode2C {w : Nat} {i : Instr} (hw : w < 2 ^ 32) (hm : fld w 26 6 = 0x2C) (h : decode2C w = some i) :
    Encodes w i := by -- SORT
  have hword := word_formatE hw
  have cut0_1 : fld w 0 4 = fld w 1 3 * 2 + fld w 0 1 := fld_split w 0 1 3
  have cut0_4 : fld w 0 11 = fld w 4 7 * 16 + fld w 0 4 := fld_split w 0 4 7
  have cut1_3 : fld w 1 10 = fld w 4 7 * 8 + fld w 1 3 := fld_split w 1 3 7
  have cut1_10 : fld w 1 20 = fld w 11 10 * 1024 + fld w 1 10 := fld_split w 1 10 10
  have cut11_7 : fld w 11 10 = fld w 18 3 * 128 + fld w 11 7 := fld_split w 11 7 3
  unfold decode2C at h
  split at h <;> simp only [ite_some_eq_some, reduceCtorEq] at h
  all_goals obtain ⟨hz, rfl⟩ := h
  all_goals refine ⟨rfl, fun hok => ?_, by show _ + _ = w; omega⟩
  all_goals repeat refine ⟨fld_lt _ _ _, ?_⟩
  case h_1 => exact of_decide_eq_true hok
  all_goals exact fld_lt _ _ _

theorem encodes_of_decode2D {w : Nat} {i : Instr} (hw : w < 2 ^ 32) (hm : fld w 26 6 = 0x2D) (h : decode2D w = some i) :
    Encodes w i := by -- ENGINE
  have hword := word_formatE hw
  have cut0_1 : fld w 0 4 = fld w 1 3 * 2 + fld w 0 1 := fld_split w 0 1 3
  have cut0_2 : fld w 0 4 = fld w 2 2 * 4 + fld w 0 2 := fld_split w 0 2 2
  have cut1_3 : fld w 1 10 = fld w 4 7 * 8 + fld w 1 3 := fld_split w 1 3 7
  have cut2_2 : fld w 2 9 = fld w 4 7 * 4 + fld w 2 2 := fld_split w 2 2 7
  unfold decode2D at h
  split at h <;> simp only [ite_some_eq_some, reduceCtorEq] at h
  all_goals obtain ⟨hz, rfl⟩ := h
  all_goals refine ⟨rfl, fun hok => ?_, by show _ + _ = w; omega⟩
  all_goals repeat refine ⟨fld_lt _ _ _, ?_⟩
  case h_5 | h_8 | h_12 => exact of_decide_eq_true hok
  all_goals exact fld_lt _ _ _

theorem encodes_of_decode2E {w : Nat} {i : Instr} (hw : w < 2 ^ 32) (hm : fld w 26 6 = 0x2E) (h : decode2E w = some i) :
    Encodes w i := by -- BUNDLE
  have hword := word_formatE hw
  have cut0_1 : fld w 0 4 = fld w 1 3 * 2 + fld w 0 1 := fld_split w 0 1 3
  have cut0_2 : fld w 0 4 = fld w 2 2 * 4 + fld w 0 2 := fld_split w 0 2 2
  have cut1_3 : fld w 1 10 = fld w 4 7 * 8 + fld w 1 3 := fld_split w 1 3 7
  unfold decode2E at h
  split at h <;> simp only [ite_some_eq_some, reduceCtorEq] at h
  all_goals obtain ⟨hz, rfl⟩ := h
  all_goals refine ⟨rfl, fun hok => ?_, by show _ + _ = w; omega⟩
  all_goals repeat refine ⟨fld_lt _ _ _, ?_⟩
  case h_6 => exact of_decide_eq_true hok
  all_goals exact fld_lt _ _ _

theorem encodes_of_decode2F {w : Nat} {i : Instr} (hw : w < 2 ^ 32) (hm : fld w 26 6 = 0x2F) (h : decode2F w = some i) :
    Encodes w i := by -- CTRL
  have hword := word_formatA hw
  have cut0_14 : fld w 0 21 = fld w 14 7 * 16384 + fld w 0 14 := fld_split w 0 14 7
  have cut0_7 : fld w 0 14 = fld w 7 7 * 128 + fld w 0 7 := fld_split w 0 7 7
  have cut0_3 : fld w 0 21 = fld w 3 18 * 8 + fld w 0 3 := fld_split w 0 3 18
  unfold decode2F at h
  split at h <;> simp only [ite_some_eq_some, some_eq_some_iff, reduceCtorEq] at h
  case h_4 hf | h_5 hf | h_7 hf | h_8 hf | h_9 hf =>
    obtain ⟨hz, rfl⟩ := h
    have hword := word_fn hw
    simp only [hm, hf, hz, Nat.reduceMul, Nat.reduceAdd, Nat.add_zero] at hword
    exact ⟨rfl, fun _ => trivial, hword⟩
  all_goals obtain ⟨hz, rfl⟩ := h
  all_goals refine ⟨rfl, fun hok => ?_, by show _ + _ = w; omega⟩
  all_goals repeat refine ⟨fld_lt _ _ _, ?_⟩
  case h_6 => exact of_decide_eq_true hok
  all_goals exact fld_lt _ _ _

theorem encodes_of_decode30 {w : Nat} {i : Instr} (hw : w < 2 ^ 32) (hm : fld w 26 6 = 0x30) (h : decode30 w = some i) :
    Encodes w i := by -- FORK
  have hword := word_formatE hw
  have cut0_4 : fld w 0 11 = fld w 4 7 * 16 + fld w 0 4 := fld_split w 0 4 7
  unfold decode30 at h
  split at h <;> simp only [ite_some_eq_some, some_eq_some_iff, reduceCtorEq] at h
  case h_3 hf | h_4 hf | h_5 hf =>
    obtain ⟨hz, rfl⟩ := h
    have hword := word_fn hw
    simp only [hm, hf, hz, Nat.reduceMul, Nat.reduceAdd, Nat.add_zero] at hword
    exact ⟨rfl, fun _ => trivial, hword⟩
  all_goals obtain ⟨hz, rfl⟩ := h
  all_goals refine ⟨rfl, fun hok => ?_, by show _ + _ = w; omega⟩
  all_goals repeat refine ⟨fld_lt _ _ _, ?_⟩
  case h_1 | h_6 => exact of_decide_eq_true hok
  all_goals exact fld_lt _ _ _

theorem encodes_of_decode31 {w : Nat} {i : Instr} (hw : w < 2 ^ 32) (hm : fld w 26 6 = 0x31) (h : decode31 w = some i) :
    Encodes w i := by -- SYNC
  have hword := word_formatE hw
  have cut0_2 : fld w 0 4 = fld w 2 2 * 4 + fld w 0 2 := fld_split w 0 2 2
  have cut0_4 : fld w 0 11 = fld w 4 7 * 16 + fld w 0 4 := fld_split w 0 4 7
  have cut2_2 : fld w 2 19 = fld w 4 17 * 4 + fld w 2 2 := fld_split w 2 2 17
  have cut4_7 : fld w 4 17 = fld w 11 10 * 128 + fld w 4 7 := fld_split w 4 7 10
  have cut11_7 : fld w 11 10 = fld w 18 3 * 128 + fld w 11 7 := fld_split w 11 7 3
  have cut11_6 : fld w 11 7 = fld w 17 1 * 64 + fld w 11 6 := fld_split w 11 6 1
  have cut17_1 : fld w 17 4 = fld w 18 3 * 2 + fld w 17 1 := fld_split w 17 1 3
  unfold decode31 at h
  split at h <;> simp only [ite_some_eq_some, reduceCtorEq] at h
  all_goals obtain ⟨hz, rfl⟩ := h
  all_goals refine ⟨rfl, fun hok => ?_, by show _ + _ = w; omega⟩
  all_goals repeat refine ⟨fld_lt _ _ _, ?_⟩
  case h_5 => exact of_decide_eq_true hok
  all_goals exact fld_lt _ _ _

theorem encodes_of_decode32 {w : Nat} {i : Instr} (hw : w < 2 ^ 32) (hm : fld w 26 6 = 0x32) (h : decode32 w = some i) :
    Encodes w i := by -- QUEUE
  have hword := word_formatE hw
  have cut0_2 : fld w 0 4 = fld w 2 2 * 4 + fld w 0 2 := fld_split w 0 2 2
  unfold decode32 at h
  split at h <;> simp only [ite_some_eq_some, reduceCtorEq] at h
  all_goals obtain ⟨hz, rfl⟩ := h
  all_goals refine ⟨rfl, fun hok => ?_, by show _ + _ = w; omega⟩
  all_goals repeat refine ⟨fld_lt _ _ _, ?_⟩
  case h_5 => exact of_decide_eq_true hok
  all_goals exact fld_lt _ _ _

theorem encodes_of_decode3E {w : Nat} {i : Instr} (hw : w < 2 ^ 32) (hm : fld w 26 6 = 0x3E) (h : decode3E w = some i) :
    Encodes w i := by -- SYS
  have hword := word_formatF hw
  have cut0_7 : fld w 0 16 = fld w 7 9 * 128 + fld w 0 7 := fld_split w 0 7 9
  have cut7_7 : fld w 7 9 = fld w 14 2 * 128 + fld w 7 7 := fld_split w 7 7 2
  have cut0_6 : fld w 0 16 = fld w 6 10 * 64 + fld w 0 6 := fld_split w 0 6 10
  have cut6_7 : fld w 6 10 = fld w 13 3 * 128 + fld w 6 7 := fld_split w 6 7 3
  have cut13_2 : fld w 13 3 = fld w 15 1 * 4 + fld w 13 2 := fld_split w 13 2 1
  have cut0_1 : fld w 0 16 = fld w 1 15 * 2 + fld w 0 1 := fld_split w 0 1 15
  have cut1_8 : fld w 1 15 = fld w 9 7 * 256 + fld w 1 8 := fld_split w 1 8 7
  have cut0_8 : fld w 0 16 = fld w 8 8 * 256 + fld w 0 8 := fld_split w 0 8 8
  have cut1_7 : fld w 1 15 = fld w 8 8 * 128 + fld w 1 7 := fld_split w 1 7 8
  have cut0_9 : fld w 0 16 = fld w 9 7 * 512 + fld w 0 9 := fld_split w 0 9 7
  have cut0_2 : fld w 0 16 = fld w 2 14 * 4 + fld w 0 2 := fld_split w 0 2 14
  have cut2_1 : fld w 2 14 = fld w 3 13 * 2 + fld w 2 1 := fld_split w 2 1 13
  have cut3_6 : fld w 3 13 = fld w 9 7 * 64 + fld w 3 6 := fld_split w 3 6 7
  have cut2_7 : fld w 2 14 = fld w 9 7 * 128 + fld w 2 7 := fld_split w 2 7 7
  unfold decode3E at h
  split at h
  case h_7 => -- mboxSend and mboxRecv
    split at h
    · cases h
      exact ⟨rfl, fun hok => ⟨fld_lt _ _ _, of_decide_eq_true hok⟩, by show _ + _ = w; omega⟩
    · simp only [ite_some_eq_some] at h
      obtain ⟨hz, rfl⟩ := h
      exact ⟨rfl, fun hok => ⟨fld_lt _ _ _, of_decide_eq_true hok⟩, by show _ + _ = w; omega⟩
  all_goals simp only [ite_some_eq_some, some_eq_some_iff, reduceCtorEq] at h
  all_goals obtain ⟨hz, rfl⟩ := h
  all_goals refine ⟨rfl, fun hok => ?_, by show _ + _ = w; omega⟩
  all_goals repeat refine ⟨fld_lt _ _ _, ?_⟩
  case h_2 | h_3 | h_4 | h_5 => exact of_decide_eq_true hok
  all_goals exact fld_lt _ _ _

theorem encodes_of_decode33 {w : Nat} {i : Instr} (hw : w < 2 ^ 32) (hm : fld w 26 6 = 0x33) (h : decode33 w = some i) :
    Encodes w i := by -- ACCV
  have hword := word_formatA hw
  have cut14_3 : fld w 14 7 = fld w 17 4 * 8 + fld w 14 3 := fld_split w 14 3 4
  have cut7_3 : fld w 7 7 = fld w 10 4 * 8 + fld w 7 3 := fld_split w 7 3 4
  unfold decode33 at h
  split at h <;> simp only [ite_some_eq_some, reduceCtorEq] at h
  all_goals obtain ⟨hz, rfl⟩ := h
  all_goals exact ⟨rfl, fun _ => by and_intros <;> exact fld_lt _ _ _, by show _ + _ = w; omega⟩

/-- EVERY WORD THAT THE TABLES NAME AN INSTRUCTION FOR is that instruction's word: one case per major (Table OPC.1). -/
theorem encodes_of_decodeRaw {w : Nat} {i : Instr} (hw : w < 2 ^ 32) (h : decodeRaw w = some i) : Encodes w i := by
  unfold decodeRaw at h
  split at h
  case h_1 hm | h_2 hm | h_20 hm | h_21 hm | h_42 hm => -- format A, operands of 7 bits
    have hword := word_formatA hw
    simp only [decode01, decode02, decode14, decode15, decode2A] at h
    split at h <;> simp only [ite_some_eq_some, some_eq_some_iff, reduceCtorEq] at h
    all_goals
      rename_i hf
      obtain ⟨hz, rfl⟩ := h
      refine ⟨rfl, fun _ => by and_intros <;> exact fld_lt _ _ _, ?_⟩
      simp only [hm, hf, hz, Nat.reduceMul, Nat.reduceAdd, Nat.zero_mul, Nat.add_zero] at hword
      exact hword
  case h_16 hm | h_17 hm => -- format A with a width code
    have hword := word_formatA hw
    have hs : fld w 21 2 = fld w 21 5 % 4 := by unfold fld; omega
    simp only [decode10, decode11] at h
    split at h <;> simp only [ite_some_eq_some, some_eq_some_iff, reduceCtorEq] at h
    all_goals
      rename_i hf
      obtain ⟨hz, rfl⟩ := h
      refine ⟨rfl, fun _ => by and_intros <;> exact fld_lt _ _ _, ?_⟩
      simp only [hf, Nat.reduceMod] at hs
      simp only [hm, hf, hz, Nat.reduceMul, Nat.reduceAdd, Nat.zero_mul, Nat.add_zero] at hword
      rw [hs]
      exact hword
  case h_4 hm | h_5 hm | h_6 hm | h_7 hm | h_10 hm | h_24 hm | h_26 hm | h_29 hm | h_30 hm | h_31 hm | h_32 hm |
      h_33 hm | h_34 hm | h_35 hm | h_36 hm | h_37 hm | h_38 hm | h_39 hm | h_40 hm => -- format B
    have hword := word_formatB hw
    simp only [decode04, decode05, decode06, decode07, decode0A, decode18, decode1A, decode1D, decode1E, decode1F,
      decode20, decode21, decode22, decode23, decode24, decode25, decode26, decode27, decode28,
      Option.some.injEq] at h
    subst h
    rw [hm] at hword
    exact ⟨rfl, fun _ => ⟨fld_lt _ _ _, fld_lt _ _ _, fld_lt _ _ _⟩, hword⟩
  case h_8 hm | h_9 hm | h_11 hm | h_25 hm => -- format B with an unused part
    have hword := word_formatB hw
    have cut0_6 : fld w 0 12 = fld w 6 6 * 64 + fld w 0 6 := fld_split w 0 6 6
    simp only [decode08, decode09, decode0B, decode19, ite_some_eq_some] at h
    obtain ⟨hz, rfl⟩ := h
    exact ⟨rfl, fun _ => by and_intros <;> exact fld_lt _ _ _, by show _ + _ = w; omega⟩
  case h_12 hm | h_13 hm => -- format J
    have hword := word_formatJ hw
    simp only [decode0C, decode0D, Option.some.injEq] at h
    subst h
    rw [hm] at hword
    exact ⟨rfl, fun _ => fld_lt _ _ _, hword⟩
  case h_14 hm => -- format C
    have hword := word_formatC hw
    simp only [decode0E, Option.some.injEq] at h
    subst h
    rw [hm] at hword
    exact ⟨rfl, fun _ => ⟨fld_lt _ _ _, fld_lt _ _ _, fld_lt _ _ _⟩, hword⟩
  case h_15 hm => -- format C with a mask
    have hword := word_formatC hw
    have cut19_3 : fld w 19 7 = fld w 22 4 * 8 + fld w 19 3 := fld_split w 19 3 4
    simp only [decode0F, ite_some_eq_some] at h
    obtain ⟨hz, rfl⟩ := h
    exact ⟨rfl, fun _ => by and_intros <;> exact fld_lt _ _ _, by show _ + _ = w; omega⟩
  case h_28 hm => -- format D
    have hword := word_formatD hw
    have cut0_2 : fld w 0 8 = fld w 2 6 * 4 + fld w 0 2 := fld_split w 0 2 6
    simp only [decode1C] at h
    split at h <;> simp only [ite_some_eq_some, some_eq_some_iff, reduceCtorEq] at h
    all_goals obtain ⟨hz, rfl⟩ := h
    all_goals exact ⟨rfl, fun _ => by and_intros <;> exact fld_lt _ _ _, by show _ + _ = w; omega⟩
  case h_53 hm => -- format H
    have hword := word_formatJ hw
    have cut0_5 : fld w 0 26 = fld w 5 21 * 32 + fld w 0 5 := fld_split w 0 5 21
    have cut0_4 : fld w 0 5 = fld w 4 1 * 16 + fld w 0 4 := fld_split w 0 4 1
    simp only [decode3F, ite_some_eq_some] at h
    obtain ⟨hz, rfl⟩ := h
    exact ⟨rfl, fun _ => by and_intros <;> exact fld_lt _ _ _, by show _ + _ = w; omega⟩
  case h_3 hm => exact encodes_of_decode03 hw hm h
  case h_18 hm => exact encodes_of_decode12 hw hm h
  case h_19 hm => exact encodes_of_decode13 hw hm h
  case h_22 hm => exact encodes_of_decode16 hw hm h
  case h_23 hm => exact encodes_of_decode17 hw hm h
  case h_27 hm => exact encodes_of_decode1B hw hm h
  case h_41 hm => exact encodes_of_decode29 hw hm h
  case h_43 hm => exact encodes_of_decode2B hw hm h
  case h_44 hm => exact encodes_of_decode2C hw hm h
  case h_45 hm => exact encodes_of_decode2D hw hm h
  case h_46 hm => exact encodes_of_decode2E hw hm h
  case h_47 hm => exact encodes_of_decode2F hw hm h
  case h_48 hm => exact encodes_of_decode30 hw hm h
  case h_49 hm => exact encodes_of_decode31 hw hm h
  case h_50 hm => exact encodes_of_decode32 hw hm h
  case h_51 hm => exact encodes_of_decode33 hw hm h
  case h_52 hm => exact encodes_of_decode3E hw hm h
  case h_54 => cases h

/-- The fields of a well-formed instruction pass the checks of its entry (R70). -/
theorem fieldsOk_of_wf {i : Instr} (h : i.WF) : i.fieldsOk = true := by
  cases i with
  | waitc | mboxSend | mboxRecv => exact decide_eq_true h.2
  | sxld | trel | tgclr | rett | sysrd | syswr => exact decide_eq_true h.2.2
  | vpswap | vpkpx | vunpx | vpkmx | vunmx | acoll | bstat | regroup | frstat | dturn => exact decide_eq_true h.2.2.2
  | fork | rinj => exact decide_eq_true h.2.2.2.2
  | _ => rfl

theorem decodeWord_eq_some_iff {w : Nat} {i : Instr} : decodeWord w = some i ↔ decodeRaw w = some i ∧ i.fieldsOk = true :=
  Option.filter_eq_some_iff

/-- Settles O54: the fields of an instruction are read back from its word, and those of a word add up to it. -/
theorem encodeDecode : Obligations.EncodeDecode := by
  refine ⟨fun i hword hwf => ?_, fun w i hw h => ?_⟩
  · obtain ⟨hlt, hraw⟩ := decodes_encode hword hwf
    exact ⟨hlt, decodeWord_eq_some_iff.mpr ⟨hraw, fieldsOk_of_wf hwf⟩⟩
  · obtain ⟨hraw, hok⟩ := decodeWord_eq_some_iff.mp h
    obtain ⟨hword, hwf, henc⟩ := encodes_of_decodeRaw hw hraw
    exact ⟨hword, hwf hok, henc⟩

end Sys2Proof.Encoding
end

section
/-! A step is the issue of the decoded run, an event, or the passage of time (R63, R65, R66, R72, R225, R357, R358). Noting
an issue changes nothing that a fetch reads, so that the run a path is shown to fetch is the run that it fetches. -/

namespace Sys2Proof.Machine
open Sys2Proof.Claims

/-- The instruction of a run stands among the words read (R65). -/
theorem parseRun_at_lt {ws : List Nat} {kp : Nat} {p pre : Prefixes} {a w k : Nat} (h : parseRun kp p a ws = .instr pre w k) :
    k < a + ws.length := by
  induction ws generalizing kp p a with
  | nil => cases h
  | cons x t ih =>
    have later {kp' p'} (h : parseRun kp' p' (a + 1) t = .instr pre w k) : k < a + (t.length + 1) := by have := ih h; omega
    have here (h : Run.instr p x a = .instr pre w k) : k < a + (t.length + 1) := by cases h; omega
    unfold parseRun at h
    dsimp only at h
    split_ifs at h
    · exact here h
    · exact later h
    · exact later h
    · exact later h
    · exact here h

/-- The address of the next word of a run of which `ws` are read. -/
def wordVa (p : Path) (ws : List Nat) : Nat := (p.pc + BitVec.ofNat 64 (4 * ws.length)).toNat

/-- The next word of a run of which `ws` are read stands at key `k`: its address is canonical, its fetch was not aborted, and it
translates (R72 step 1, R315). -/
def WordAt (s : State) (g : Group) (p : Path) (ws : List Nat) (k : Nat) : Prop :=
  badVa (wordVa p ws) = false ∧ (p.aborted && p.permFail.any fun f => f.2.2 = 0 && inPage f.1 f.2.1 (wordVa p ws)) = false ∧
    trOne s g.place.core g.ctx (wordVa p ws) Need.fetch false = .key k

theorem fetchRun_of_ended {s : State} {g : Group} {p : Path} {fuel : Nat} {ws : List Nat}
    (h : parseRun 4 Prefixes.none 0 ws ≠ .more) : fetchRun s g p (fuel + 1) ws = .run (parseRun 4 Prefixes.none 0 ws) := by
  rw [fetchRun]
  cases hp : parseRun 4 Prefixes.none 0 ws with
  | instr => rfl
  | illop => rfl
  | more => exact absurd hp h

theorem fetchRun_of_more_iff {s : State} {g : Group} {p : Path} {fuel : Nat} {ws : List Nat} {r : Run}
    (h : parseRun 4 Prefixes.none 0 ws = .more) :
    fetchRun s g p (fuel + 1) ws = .run r ↔ ∃ k, WordAt s g p ws k ∧ fetchRun s g p fuel (ws ++ [s.rd k 4]) = .run r := by
  rw [fetchRun, h]
  constructor
  · intro e
    split at e
    · dsimp only at e
      split at e
      · cases e
      next hb =>
      split at e
      · cases e
      next ha =>
      split at e
      · next k ht => exact ⟨k, ⟨Bool.not_eq_true _ ▸ hb, Bool.not_eq_true _ ▸ ha, ht⟩, e⟩
      · cases e
      · split at e <;> cases e
    · next hmore => exact absurd rfl hmore
  · rintro ⟨k, ⟨hb, ha, ht⟩, hr⟩
    unfold wordVa at hb ha ht
    simp only [hb, ha, ht, Bool.false_eq_true, if_false]
    exact hr

theorem fetchRun_at_lt {s : State} {g : Group} {p : Path} {fuel : Nat} {ws : List Nat} {pre : Prefixes} {w k : Nat}
    (h : fetchRun s g p fuel ws = .run (.instr pre w k)) : k < fuel + ws.length := by
  induction fuel generalizing ws with
  | zero => cases h
  | succ fuel ih =>
    by_cases hp : parseRun 4 Prefixes.none 0 ws = .more
    · obtain ⟨x, -, hx⟩ := (fetchRun_of_more_iff hp).mp h
      have := ih hx
      rw [List.length_append, List.length_singleton] at this
      omega
    · rw [fetchRun_of_ended hp, Fetch.run.injEq] at h
      have := parseRun_at_lt h
      omega

/-- What fetches a run in one state fetches it in another where memory and the translations for a fetch are the same. -/
theorem fetchRun_congr {s t : State} {g : Group} {p : Path} {fuel : Nat} {ws : List Nat} {r : Run} (hmem : t.mem = s.mem)
    (htr : ∀ va, trOne t g.place.core g.ctx va Need.fetch false = trOne s g.place.core g.ctx va Need.fetch false)
    (h : fetchRun s g p fuel ws = .run r) : fetchRun t g p fuel ws = .run r := by
  induction fuel generalizing ws with
  | zero => exact h
  | succ fuel ih =>
    by_cases hp : parseRun 4 Prefixes.none 0 ws = .more
    · obtain ⟨k, hk, hrun⟩ := (fetchRun_of_more_iff hp).mp h
      have hrd : t.rd k 4 = s.rd k 4 := by simp only [State.rd, State.bytes, State.byte, hmem]
      refine (fetchRun_of_more_iff hp).mpr ⟨k, ?_, ?_⟩
      · rwa [WordAt, htr]
      · rw [hrd]; exact ih hrun
    · rw [fetchRun_of_ended hp] at h ⊢
      exact h

/-- A word that decodes is a run by itself: of the major of prefixes, only a hint decodes, and its kind is 0 (R65, R89). -/
theorem parseRun_of_decodeWord {w : Nat} {n : Instr} (h : decodeWord w = some n) :
    parseRun 4 Prefixes.none 0 [w] = .instr Prefixes.none w 0 := by
  obtain ⟨hraw, -⟩ := Sys2Proof.Encoding.decodeWord_eq_some_iff.mp h
  unfold parseRun
  by_cases hm : fld w 26 6 = 0x3F
  · have hk : fld w 24 2 = 0 := by
      rw [decodeRaw, hm] at hraw
      obtain ⟨hz, -⟩ := Option.ite_none_right_eq_some.mp hraw
      rw [fld] at hz ⊢
      omega
    simp [hm, hk]
  · rw [if_neg hm]

/-- Noting an issue changes groups and partitions, and coming to issue the issue record: no other field. -/
theorem issHere_noteIssue (i : Issue) (s : State) (p : Path) : ∃ gs ps,
    issHere (noteIssue i s) i.gid i.slot p = { s with groups := gs, parts := ps, iss := (issHere s i.gid i.slot p).iss } := by
  unfold noteIssue
  split
  · exact ⟨_, _, rfl⟩
  · split <;> exact ⟨_, _, rfl⟩

theorem readSeen_of_told {s : State} {c pa n : Nat} (h : NoneToTell s c (linesOf pa n)) : readSeen c pa n s = s := by
  unfold readSeen
  split
  · rfl
  · exact List.foldlRecOn (motive := fun t => t = s) _ _ rfl fun t ht l hl => by
      subst ht
      have := h l hl
      cases hf : t.memErrs.find? l with
      | none => rfl
      | some e =>
        rw [hf] at this
        exact if_pos this

theorem fetchSeen_of_told {s : State} {g : Group} {p : Path} {n : Nat}
    (h : ∀ j < n, ∀ x, trOne s g.place.core g.ctx (p.pc + BitVec.ofNat 64 (4 * j)).toNat Need.fetch false = .key x →
      NoneToTell s g.ctx (linesOf x 4)) : fetchSeen s g p n = s :=
  List.foldlRecOn (motive := fun t => t = s) _ _ rfl fun t ht j hj => by
    subst ht
    have hk := h j (List.mem_range.mp hj)
    cases htr : trOne t g.place.core g.ctx (p.pc + BitVec.ofNat 64 (4 * j)).toNat Need.fetch false with
    | key x => exact readSeen_of_told (hk x htr)
    | perm => rfl
    | miss => rfl

theorem trOne_with (s : State) (gs : SMap Group) (ps : SMap Part) (i : Iss) (core c va : Nat) (n : Need) (eng : Bool) :
    trOne { s with groups := gs, parts := ps, iss := i } core c va n eng = trOne s core c va n eng := rfl

/-- The run that a path fetches in a state, it fetches once its issue is noted. -/
theorem fetchRun_issHere {s : State} {i : Issue} {g : Group} {p : Path} {r : Run} (h : fetchRun s g p runMax [] = .run r) :
    fetchRun (issHere (noteIssue i s) i.gid i.slot p) g p runMax [] = .run r := by
  obtain ⟨gs, ps, e⟩ := issHere_noteIssue i s p
  rw [e]
  exact fetchRun_congr (s := s) rfl (fun va => trOne_with s gs ps _ g.place.core g.ctx va Need.fetch false) h

theorem boundaryTrap_of_fetches {s : State} {i : Issue} {g : Group} {p : Path} {k : Nat} (hf : Fetches s i.gid i.slot g p k) :
    boundaryTrap (issHere (noteIssue i s) i.gid i.slot p) g p = none := by
  obtain ⟨hfpx, hstep, hmem, hcmp⟩ := hf.clear
  obtain ⟨gs, ps, e⟩ := issHere_noteIssue i s p
  have hcmp' : cmpHit (issHere (noteIssue i s) i.gid i.slot p) g p = none := by rw [e]; exact hcmp
  simp [boundaryTrap, hfpx, hstep, hmem, hcmp']

theorem fetchSeen_of_fetches {s : State} {i : Issue} {g : Group} {p : Path} {k n : Nat} (hf : Fetches s i.gid i.slot g p k)
    (hn : n ≤ runMax) :
    fetchSeen (issHere (noteIssue i s) i.gid i.slot p) g p n = issHere (noteIssue i s) i.gid i.slot p := by
  refine fetchSeen_of_told fun j hj x => ?_
  obtain ⟨gs, ps, e⟩ := issHere_noteIssue i s p
  rw [e]
  exact hf.told j (by omega) x

/-- A PATH THAT FETCHES A RUN RUNS ITS INSTRUCTION. -/
theorem issuePath_of_fetches {s : State} {i : Issue} {g : Group} {p : Path} {k w n : Nat} {pre : Prefixes}
    (hf : Fetches s i.gid i.slot g p k) (hr : fetchRun s g p runMax [] = .run (.instr pre w n)) :
    issuePath i s = runInstr (issHere (noteIssue i s) i.gid i.slot p) p i.gid i.slot pre w n := by
  have hn : n + 1 ≤ runMax := fetchRun_at_lt hr
  have hp : s.path? i.gid i.slot = some p := by rw [State.path?, hf.group]; exact hf.path
  simp only [issuePath, hf.group, hp, boundaryTrap_of_fetches hf, fetchRun_issHere hr, fetchSeen_of_fetches hf hn]

/-- The word where a path stands, if it decodes, is the run that it fetches. -/
theorem fetchRun_of_decodeWord {s : State} {gid slot k : Nat} {g : Group} {p : Path} {n : Instr} (hf : Fetches s gid slot g p k)
    (h : decodeWord (s.rd k 4) = some n) : fetchRun s g p runMax [] = .run (.instr Prefixes.none (s.rd k 4) 0) := by
  have hva : wordVa p [] = p.pc.toNat := by simp [wordVa]
  refine (fetchRun_of_more_iff rfl).mpr ⟨k, ?_, ?_⟩
  · rw [WordAt, hva]
    refine ⟨hf.canon, ?_, hf.key⟩
    rw [Bool.and_eq_false_imp]
    intro ha
    simpa using fun a b c hm (hc : c = 0) => hf.live ha (a, b, c) hm hc
  · have hrun := parseRun_of_decodeWord h
    rw [List.nil_append, fetchRun_of_ended (by rw [hrun]; exact Run.noConfusion), hrun]

section
variable {s : State} {i : Issue} {p : Path} {pre : Prefixes} {w w' n : Nat} {r : RptW}

/-- Without rpt the word of the run is the instruction (R72). -/
theorem runInstr_of_no_rpt (h : pre.rpt = none) : runInstr (issHere (noteIssue i s) i.gid i.slot p) p i.gid i.slot pre w n =
    exec ((decodeWord w).getD .illopEncoding) (issuing s p i pre n) := by
  unfold runInstr
  extract_lets s1 s2
  have hs2 : s2 = issuing s p i pre n := rfl
  simp only [h, hs2]
  cases decodeWord w <;> rfl

/-- Under rpt it is stepped for the repetition (R63). -/
theorem runInstr_of_stepped (h : pre.rpt = some r) (hw : stepWord w p.rep r = some w') :
    runInstr (issHere (noteIssue i s) i.gid i.slot p) p i.gid i.slot pre w n =
      exec ((decodeWord w').getD .illopEncoding) (issuing s p i pre n) := by
  unfold runInstr
  extract_lets s1 s2
  have hs2 : s2 = issuing s p i pre n := rfl
  simp only [h, hw, hs2]
  cases decodeWord w' <;> rfl

/-- A register stepped out of its range traps as the word as it stands has it (R63, R72). -/
theorem runInstr_of_stepped_out {o : Instr} {t : State} (h : pre.rpt = some r) (hw : stepWord w p.rep r = none)
    (ho : decodeWord w = some o)
    (ht : exec o ((issuing s p i pre n).modGroup i.gid fun h => { h with kind := .grid }) = .next t) :
    runInstr (issHere (noteIssue i s) i.gid i.slot p) p i.gid i.slot pre w n =
      .next (trapAt (if tookIllop t i.gid i.slot then .illop else .regbound) 0 (issuing s p i pre n)) := by
  unfold runInstr
  extract_lets s1 s2
  have hs2 : s2 = issuing s p i pre n := rfl
  simp only [h, hw, hs2, steppedOut, ho, ht]
  split <;> rfl

end

/-- The step from `s0` gives the path of `i` its turn, in `s`: by the agenda once no tick is due, or where nothing else is due (R225). -/
def TurnOf (s0 s : State) (i : Issue) : Prop :=
  (∃ rest, s0.agenda = .issue i.gid i.slot :: rest ∧ tickDueNow s0 = none ∧ s = { s0 with agenda := rest } ∧
    hasTurn s i.gid i.slot = some i) ∨
  (s0.agenda = [] ∧ dueEvent s0 = none ∧ pickPath s0 = some i ∧ s = s0)

theorem step_eq_issuePath {s0 s : State} {i : Issue} (h : TurnOf s0 s i) : step s0 = issuePath i s := by
  unfold step nextStep
  rcases h with ⟨rest, ha, ht, rfl, hi⟩ | ⟨ha, hd, hp, rfl⟩
  · simp only [ha, Act.timed, if_true, ht, agendaStep, hi]
  · simp only [ha, hd, hp]

/-- A step with no tick due takes the head of the agenda. -/
theorem step_eq_agendaStep {s : State} {a : Act} {rest : List Act} (ha : s.agenda = a :: rest)
    (ht : a.timed = true → tickDueNow s = none) : step s = agendaStep a { s with agenda := rest } := by
  unfold step nextStep
  simp only [ha]
  cases h : a.timed with
  | false => rfl
  | true => simp only [ht h, if_true]

theorem step_eq_exec_of_tickDue {s : State} {a : Act} {rest : List Act} {i : Instr} (ha : s.agenda = a :: rest)
    (h : a.timed = true) (ht : tickDueNow s = some i) : step s = exec i s := by
  unfold step nextStep
  simp only [ha, h, if_true, ht]

theorem step_of_empty_agenda {s : State} (ha : s.agenda = []) :
    (∀ i, dueEvent s = some i → step s = exec i s) ∧
    (dueEvent s = none → pickPath s = none → step s = .next (cycle s)) := by
  unfold step nextStep
  simp only [ha]
  exact ⟨fun i hi => by simp only [hi], fun hd hp => by simp only [hd, hp]⟩

/-- Landing writes a group: what is in flight and the hold on it stand as releasing set them. -/
theorem release_pipe (s : State) : (release s).pipe = [] ∧ (release s).pipeHold = false :=
  List.foldlRecOn (motive := fun (t : State) => t.pipe = [] ∧ t.pipeHold = false) _ _ ⟨rfl, rfl⟩ fun _ ht _ _ => ht

/-- The clocks are set where system software holds the device under a cap, and neither is raised over its full rate (R14). -/
theorem setClocks_of_capped {s : State} {ar net : Nat} (hst : s.power.st = .capped) (har : Clocks.reset.ar ≤ ar)
    (hnet : Clocks.reset.net ≤ net) : setClocks ar net s = { s with clocks := s.clocks.at_ ar net } := by
  simp [setClocks, hst, har, hnet]

/-- The network's cycles move the torus, and count themselves. -/
theorem netCycles_frame (n : Nat) (s : State) :
    (netCycles n s).parts = s.parts ∧ (netCycles n s).cycles = s.cycles ∧ (netCycles n s).clocks.ticks = s.clocks.ticks := by
  induction n generalizing s with
  | zero => exact ⟨rfl, rfl, rfl⟩
  | succ n ih =>
    unfold netCycles
    split
    · exact ih _
    · exact ⟨rfl, rfl, rfl⟩

/-- Of the clocks, the end of an arithmetic cycle adds its length to the ticks (R14, R363). -/
theorem cycle_ticks {s : State} (h : s.power.st ≠ .off) : (cycle s).clocks.ticks = s.clocks.ticks + s.clocks.ar := by
  have hp : powered s = true := by simpa [powered] using h
  unfold cycle
  rw [hp]
  split
  · next hn => cases hn
  split
  · exact congrArg Clocks.ticks (imageRead_kept (Kept.refl _)).same.clocks
  · exact (netCycles_frame _ _).2.2.trans (congrArg Clocks.ticks (listHb_kept (imageRead_kept (Kept.refl _))).same.clocks)

theorem part_mapV_issued (ps : SMap Part) (n : Nat) :
    ((ps.mapV fun _ p => { p with issued := [] }).get Part.reset n).issued = [] := by
  rw [SMap.get, SMap.find?_mapV]
  cases ps.find? n <;> rfl

/-- Where the clocks run, every path may issue again when a cycle has ended (R225). -/
theorem cycle_issued {s : State} (h : s.power.st ≠ .off) (hr : s.power.st ≠ .retention) (n : Nat) :
    ((cycle s).part n).issued = [] := by
  have hp : powered s = true := by simpa [powered] using h
  unfold cycle
  rw [hp, if_neg (by simp), if_neg hr, State.part, (netCycles_frame _ _).1]
  exact part_mapV_issued _ n

/-- In retention time passes and an image is read: the rest is held (Table HST.2). -/
theorem cycle_of_retention {s : State} (hr : s.power.st = .retention) :
    (cycle s).cycles = s.cycles ∧ (cycle s).cores = s.cores ∧ (cycle s).groups = s.groups ∧ (cycle s).ops = s.ops := by
  have hp : powered s = true := by simp [powered, hr]
  unfold cycle
  rw [hp, if_neg (by simp), if_pos hr]
  unfold imageRead
  split <;> exact ⟨rfl, rfl, rfl, rfl⟩

theorem cycle_of_off {s : State} (h : s.power.st = .off) : cycle s = s := by simp [cycle, powered, h]

/-- Settles O60, by what gives a path its turn and what it fetches there, and by the entries of the agenda. -/
theorem stepRunsDecoded : Obligations.StepRunsDecoded := by
  refine ⟨fun s0 s i g p k h hf => ?_, fun s a rest ha => ?_, fun s ha => step_of_empty_agenda ha,
    fun s hs => ⟨cycle_ticks hs, fun hr => ⟨?_, cycle_issued hs hr⟩, cycle_of_retention⟩, fun s => cycle_of_off⟩
  · rw [step_eq_issuePath h]
    refine ⟨fun n hn => ?_, fun pre w n hr => ?_⟩
    · rw [issuePath_of_fetches hf (fetchRun_of_decodeWord hf hn), runInstr_of_no_rpt rfl, hn, Option.getD_some]
    · rw [issuePath_of_fetches hf hr]
      exact ⟨runInstr_of_no_rpt, fun r w' => runInstr_of_stepped, fun r o t => runInstr_of_stepped_out⟩
  · have untimed (h : a.timed = false) : step s = agendaStep a { s with agenda := rest } :=
      step_eq_agendaStep ha fun ht => by rw [h] at ht; cases ht
    refine ⟨?event, ?tick, ?issue, fun i => step_eq_exec_of_tickDue ha, ?clock, ?hold, ?release, ?damage⟩
    case event =>
      rintro i rfl hi
      rw [untimed rfl, agendaStep, if_pos hi]
    case tick =>
      rintro n rfl ht
      exact step_eq_agendaStep ha fun _ => ht
    case issue =>
      rintro gid slot rfl ht hn
      rw [step_eq_agendaStep ha fun _ => ht, agendaStep, hn]
    case clock =>
      rintro ar net rfl hst har hnet
      refine ⟨_, untimed rfl, ?_⟩
      rw [setClocks_of_capped (s := { s with agenda := rest }) hst har hnet]
      exact ⟨rfl, rfl, rfl, rfl⟩
    case hold =>
      rintro rfl
      exact untimed rfl
    case release =>
      rintro rfl
      obtain ⟨hp, hh⟩ := release_pipe { s with agenda := rest }
      exact ⟨_, untimed rfl, hh, hp⟩
    case damage =>
      rintro gid kind n g rfl hg
      refine ⟨_, untimed rfl, ?_⟩
      exact (SMap.find?_adjust _ _ _ _).trans (by rw [if_pos rfl]; exact congrArg _ hg)
  · rw [cycle_cycles, if_pos ⟨by simpa [powered] using hs, hr⟩]

end Sys2Proof.Machine
end

section
/-! HintsTrapsAndReturns fails: rinj is claimed to move a register of the served group whatever damage stands in it, but a
damaged register raises REGFAULT in the handler that reads it (R342), which is a double fault (R346). -/

namespace Sys2Proof.Machine
open Sys2Proof.Claims

/-- A handler that reads a damaged scalar register of the group it serves takes REGFAULT (R342). -/
theorem exec_rinj_of_damaged {i h gid slot n : Nat} {s : State} {g t : Group} {p : Path}
    (ha : Admitted { acc := {}, who := .handler, wr := sR [h] } s g p) (hs : g.served = some (gid, slot))
    (ht : s.group? gid = some t) (hp : regPending s gid (0, i) = false) (hd : t.damagedAmong [(0, i)] = some n) :
    exec (.rinj 0 1 i h) s = .next (issued true s p (regFault g n)) := by
  change gated { acc := {}, who := .handler, wr := sR [h] } s _ = _
  rw [gated_admitted ha]
  simp [hs, ht, hp, hd]

/-- A seat of partition 0. -/
def seatAt (pos : Nat) : Seat := { place := { core := 0, quad := 0, part := 0, pos := pos }, base := 0, budget := 16, frags := 0 }

/-- A group whose scalar register 9 has a soft error. -/
def damagedGroup : Group :=
  { Group.start State.reset 1 (seatAt 0) .grid 0x10000 (BitVec.allOnes 32) with damaged := [(0, 9)] }

/-- The trap handler that serves path 0 of group 2, and its path. -/
def damageHandler : Group := Group.start State.reset 1 (seatAt 16) (.trapH 2 0) 0x20000 (BitVec.allOnes 32)
def damageHandlerPath : Path := Path.start 0x20000 (BitVec.allOnes 32) 0 0 false

/-- The handler issues as group 1, and serves the damaged group 2. -/
def damageState : State :=
  { State.reset with groups := [(1, damageHandler), (2, damagedGroup)], iss := { Iss.none with gid := 1 } }

theorem damageHandler_admitted :
    Admitted { acc := {}, who := .handler, wr := sR [2] } damageState damageHandler damageHandlerPath where
  group := rfl
  path := rfl
  prefixes := by decide
  fields := rfl
  who := rfl
  budget := by decide
  full := by decide
  noM0 := by decide
  rounding := by decide
  pipes := by decide
  score := by decide
  sound := by decide

theorem exec_rinj_damageState : exec (.rinj 0 1 9 2) damageState =
    .next (issued true damageState damageHandlerPath (regFault damageHandler 9)) :=
  exec_rinj_of_damaged damageHandler_admitted rfl rfl rfl (by decide)

/-- The double fault stands in the event queue. -/
theorem eqSeq_of_damaged_rinj :
    (issued true damageState damageHandlerPath (regFault damageHandler 9)).host.eqSeq = 1 := by decide +kernel

/-- Refutes O20: rinj of a served group's scalar register in which a soft error stands moves nothing: it is a REGFAULT of the
handler, which posts a double fault. -/
theorem not_hintsTrapsAndReturns : ¬ Obligations.HintsTrapsAndReturns := by
  rintro ⟨-, -, -, hinj⟩
  obtain ⟨-, hscalar, -⟩ := hinj 9 2 2 0 damageState damageHandler damagedGroup damageHandlerPath rfl (by decide) rfl
    (by simp [damageState, State.reset]) (by simp [damageState, State.reset])
  obtain ⟨hmoves, -⟩ := hscalar damageHandler_admitted
  have hhost := congrArg State.host (Host.Outcome.next.inj (exec_rinj_damageState.symm.trans hmoves))
  have hzero : (issued true damageState damageHandlerPath (regFault damageHandler 9)).host.eqSeq = 0 :=
    congrArg HostPort.eqSeq hhost
  exact absurd (eqSeq_of_damaged_rinj.symm.trans hzero) (by decide)

end Sys2Proof.Machine
end

section
/-! Admission (R72): its checks in their order, and the trap or the wait that the first of them to fail makes. -/

namespace Sys2Proof.Machine
open Sys2Proof.Claims

/-- R72 steps 5 and 6, and the rounding mode of R24. -/
theorem form_fails_iff (a : Adm) (s : State) (g : Group) :
    (!prefixOk a.acc s.iss.pre || !a.fields || (a.acc.rnd && decide (6 ≤ rmode s g))) = true ↔
      ¬(prefixOk a.acc s.iss.pre = true ∧ a.fields = true ∧ (a.acc.rnd = true → rmode s g < 6)) := by
  simp only [Bool.or_eq_true, Bool.not_eq_true', Bool.and_eq_true, decide_eq_true_eq, not_and_or, Bool.not_eq_true,
    Classical.not_imp, Nat.not_lt, or_assoc]

/-- R72 step 8. -/
theorem budget_fails_iff (a : Adm) (g : Group) :
    (a.rd ++ a.wr).any (outOfBudget g) = true ↔ ¬∀ r ∈ a.rd ++ a.wr, outOfBudget g r = false := by
  simp only [List.any_eq_true, not_forall, exists_prop, Bool.not_eq_false]

/-- R72 step 9. -/
theorem mask_fails_iff (a : Adm) (p : Path) :
    (a.full && decide (p.mask ≠ BitVec.allOnes 32)) = true ↔ ¬(a.full = true → p.mask = BitVec.allOnes 32) := by
  simp only [Bool.and_eq_true, decide_eq_true_eq, Classical.not_imp, ne_eq]

/-- R72: the checks in their order, each as what it asks. -/
theorem gate_eq (a : Adm) (s : State) (g : Group) (p : Path) :
    gate a s g p =
      if ¬(prefixOk a.acc s.iss.pre = true ∧ a.fields = true ∧ (a.acc.rnd = true → rmode s g < 6)) then .trap .illop 0
      else if a.who.ok g = false then .trap .priv 0
      else if ¬∀ r ∈ a.rd ++ a.wr, outOfBudget g r = false then .trap .regbound 0
      else if ¬(a.full = true → p.mask = BitVec.allOnes 32) then .trap .maskreq 0
      else if (2, 0) ∈ a.wr then .trap .illop 0
      else if pipeBusy s (a.named s) = true then .settle
      else if scoreBusy s s.iss.gid s.iss.slot p (a.named s) = true then .score
      else (g.damagedAmong (a.rd ++ predReg s.iss.pre)).elim .go (.trap .regfault) := by
  unfold gate
  simp only [form_fails_iff, Bool.not_eq_true', budget_fails_iff, mask_fails_iff, List.contains_iff_mem]
  cases g.damagedAmong (a.rd ++ predReg s.iss.pre) <;> rfl

/-- A check of admission that fails in an ordinary group is the trap taken, before the instruction. -/
theorem gated_trapped {a : Adm} {s : State} {g : Group} {p : Path} {c : Cause} (h : Issuing s g p) (ho : Ordinary g)
    (hg : gate a s g p = .trap c 0) (hc : c ≠ .regfault) (k : Group → Path → State → State) :
    gated a s k = .next (trapped s g (trapBefore s c 0) s) := by
  rw [gated_trap h hg hc, trapAt_eq_trapped h ho]

/-- R132: a register that an operation in flight will still write makes the path wait. -/
theorem gated_score {a : Adm} {s : State} {g : Group} {p : Path} (h : Issuing s g p) (hg : gate a s g p = .score)
    (k : Group → Path → State → State) : gated a s k = .next (waitOn (.score (a.named s)) s) := by
  simp only [gated, onPath_issuing h, hg]

/-- A path that waits leaves everything but its group's record and the counter of stamps as it is. -/
theorem waitOn_frame {s : State} {g : Group} {p : Path} (h : Issuing s g p) (w : Wake) :
    waitOn w s = { s with groups := (waitOn w s).groups, nextId := s.nextId + 1 } := by
  simp only [waitOn, modPath_of h]

/-- Its path is the one that waits. -/
theorem waitOn_path {s : State} {g : Group} {p : Path} (h : Issuing s g p) (w : Wake) :
    (waitOn w s).path? s.iss.gid s.iss.slot = some (p.wait w s.nextId) := by
  simp [waitOn, modPath_of h, State.path?, State.group?]

/-- Settles O15: the first check of `gate_eq` to fail decides, and its trap is taken in the state as it was. -/
theorem admissionTrapsInOrder : Obligations.AdmissionTrapsInOrder := by
  intro a s g p k h ho formOk inBudget maskOk
  refine ⟨fun hform => ?illop, fun hform hwho => ?priv, fun hform hwho hbudget => ?regbound,
    fun hform hwho hbudget hmask => ?maskreq, fun hform hwho hbudget hmask hm0 => ?m0,
    fun hform hwho hbudget hmask hm0 hpipe hscore => ?score⟩
  case illop => exact gated_trapped h ho ((gate_eq a s g p).trans (if_pos hform)) (by decide) k
  case priv =>
    refine gated_trapped h ho ?_ (by decide) k
    rw [gate_eq, if_neg (not_not_intro hform), if_pos hwho]
  case regbound =>
    refine gated_trapped h ho ?_ (by decide) k
    rw [gate_eq, if_neg (not_not_intro hform), if_neg (ne_false_of_eq_true hwho), if_pos hbudget]
  case maskreq =>
    refine gated_trapped h ho ?_ (by decide) k
    rw [gate_eq, if_neg (not_not_intro hform), if_neg (ne_false_of_eq_true hwho), if_neg (not_not_intro hbudget), if_pos hmask]
  case m0 =>
    refine gated_trapped h ho ?_ (by decide) k
    rw [gate_eq, if_neg (not_not_intro hform), if_neg (ne_false_of_eq_true hwho), if_neg (not_not_intro hbudget),
      if_neg (not_not_intro hmask), if_pos hm0]
  case score =>
    refine ⟨_, _, gated_score h ?_ k, waitOn_frame h _, waitOn_path h _, rfl, by rw [waitOn_frame h]⟩
    rw [gate_eq, if_neg (not_not_intro hform), if_neg (ne_false_of_eq_true hwho), if_neg (not_not_intro hbudget),
      if_neg (not_not_intro hmask), if_neg hm0, if_neg (ne_true_of_eq_false hpipe), if_pos hscore]

end Sys2Proof.Machine
end

section
/-! Words of the manual's tables (Tables ASM.2, OPC.3, MEM.9, MTX.7, SRT.5, QUE.4, FRM.4, BAR.4, BND.5, LNK.4, TRP.5). -/

namespace Sys2Proof.Encoding

/-- A word that a well-formed instruction encodes to decodes to it (`encodeDecode`). -/
theorem decodeWord_of_encode {w : Nat} {i : Instr} (hword : i.hasWord = true) (hwf : i.WF) (henc : encode i = w) :
    decodeWord w = some i := by
  subst henc
  exact (encodeDecode.1 i hword hwf).2

/-- R68, R70: no entry of the opcode tables has the word's major, fn and fixed zero bits. -/
theorem decodeWord_none_of_noEntry {w : Nat} (h : decodeRaw w = none) : decodeWord w = none := by
  rw [decodeWord, h, Option.filter_none]

/-- R70: the word has an entry, which calls the value of one of its fields illegal. -/
theorem decodeWord_none_of_badField {w : Nat} {i : Instr} (h : decodeRaw w = some i) (hf : i.fieldsOk = false) :
    decodeWord w = none := by
  rw [decodeWord, h, Option.filter_some_neg (by simp [hf])]

/-- Settles O55: the words are those of their instructions, so that they are read back; of the illegal ones eleven have no entry
in the opcode tables, and two have a field value that their entry calls illegal. -/
theorem manualWords : Obligations.ManualWords := by
  constructor <;> simp only [List.forall_mem_cons, List.not_mem_nil, false_imp_iff, implies_true, and_true]
  · and_intros
    all_goals exact decodeWord_of_encode rfl (by simp [Instr.WF]) rfl
  · exact ⟨decodeWord_none_of_noEntry rfl, -- major 0x00
      decodeWord_none_of_noEntry rfl, -- major 0x34
      decodeWord_none_of_noEntry rfl, -- major 0x10, fn 0x1C
      decodeWord_none_of_noEntry rfl, -- major 0x14, fn 0x1E
      decodeWord_none_of_noEntry rfl, -- SYS, fn 0x0A
      decodeWord_none_of_noEntry rfl, -- hint with bit 5 set
      decodeWord_none_of_noEntry rfl, -- exit with bit 14 set
      decodeWord_none_of_badField (i := .sxld 4 6) rfl rfl, -- sxld with k = 6
      decodeWord_none_of_noEntry rfl, -- sxrun with bit 1 set
      decodeWord_none_of_noEntry rfl, -- mma with bits 5:4 set
      decodeWord_none_of_noEntry rfl, -- cbar with bit 2 set
      decodeWord_none_of_noEntry rfl, -- bchk with bit 1 set
      decodeWord_none_of_badField (i := .dturn 5 6 3) rfl rfl⟩ -- dturn with k = 3

end Sys2Proof.Encoding
end

section
/-! Scalar, bit and mask instructions (R77 to R83): each is one write of one register, and its value is that of its table. -/

namespace Sys2Proof.Machine
open Sys2Proof.Claims

/-! The values, where the model and the statement write them differently. -/

theorem truth_eq_bit (b : Prop) [Decidable b] : truth b = bit (decide b) := by
  by_cases h : b <;> simp [truth, bit, h]

/-- R78: the quotient of a signed division. -/
theorem sdivI_eq (a b : W64) : sdivI a b = BitVec.ofInt 64 (quotI a b) := by
  unfold sdivI quotI
  split_ifs <;> rfl

/-- R78: the remainder of a signed division, computed modulo 2^64. -/
theorem sub_sdivI_mul (a b : W64) : a - sdivI a b * b = BitVec.ofInt 64 (a.toInt - b.toInt * quotI a b) := by
  have hmul : BitVec.ofInt 64 (b.toInt * quotI a b) = b * sdivI a b := by
    rw [sdivI_eq, BitVec.ofInt_mul, BitVec.ofInt_toInt]
  rw [Int.sub_eq_add_neg, BitVec.ofInt_add, BitVec.ofInt_neg, BitVec.ofInt_toInt, hmul, BitVec.mul_comm, BitVec.sub_eq_add_neg]

/-- R79: a shift counts by the low six bits of S(b). -/
theorem fld_low (x n : Nat) : fld x 0 n = x % 2 ^ n := by simp [fld]

/-! One write of one register. -/

/-- ARITHMETIC WITHOUT DRAWS that writes one scalar register. -/
theorem completes_scalar {acc : Acc} {rd : List RegN} {d : Nat} {v w : W64} {s : State} {g : Group} {p : Path} {e : Effect}
    (he : effS g acc rd d v = some e) (h : Admitted e.adm s g p) (hp : s.pipeHold = false)
    {k : Group → Path → State → State} (hk : k g p = land [.s d w] 0) (hv : w = v) :
    ∃ t, gated { acc := acc, rd := rd, wr := sR [d] } s k = .next t ∧
      Computes s (drawnFrom s g e.draws) t g p e.adm.wr (e.rs (drawn s g e.draws)) (e.rv (drawn s g e.draws))
        (e.rm (drawn s g e.draws)) (e.fl (drawn s g e.draws)) := by
  cases he
  subst hv
  exact computes_of h rfl hp [.s d w] 0 s.parts s.fresh k (fun G => congrFun hk _) (rS_puts_s g d w)
    (fun n l _ => rV_puts_s g d w n l) (fun n _ => by rw [m_puts_s]) (by simp [cellReg, RegW.cell, sR])

/-- ARITHMETIC WITHOUT DRAWS that writes one mask register. -/
theorem completes_mask {acc : Acc} {rd : List RegN} {d : Nat} {x y : W32} {s : State} {g : Group} {p : Path} {e : Effect}
    (he : effM g acc rd d x = some e) (h : Admitted e.adm s g p) (hp : s.pipeHold = false)
    {k : Group → Path → State → State} (hk : k g p = land [.m d y] 0) (hx : y = x) :
    ∃ t, gated { acc := acc, rd := rd, wr := mR [d] } s k = .next t ∧
      Computes s (drawnFrom s g e.draws) t g p e.adm.wr (e.rs (drawn s g e.draws)) (e.rv (drawn s g e.draws))
        (e.rm (drawn s g e.draws)) (e.fl (drawn s g e.draws)) := by
  cases he
  subst hx
  exact computes_of h rfl hp [.m d y] 0 s.parts s.fresh k (fun G => congrFun hk _) (rS_puts_m g d y)
    (fun n l _ => rV_puts_m g d y n l) (fun n hn => m_puts_m g d y hn) (by simp [cellReg, RegW.cell, mR])

/-- Settles O1, instruction by instruction: where the model computes the value of the table as it stands there, the write is that
of `completes_scalar` or `completes_mask`; elsewhere the two forms of the value agree. -/
theorem scalarAndMaskResults : Obligations.ScalarAndMaskResults := by
  intro i s g p e he h hp
  cases i
  -- arithmetic
  case sadd | ssub | smul | smulhI | smulhN | sdivN | sremN | sminI | sminN | smaxI | smaxN | sabs | ssel | smov | sadds =>
    exact completes_scalar he h hp rfl rfl
  case sdivI => exact completes_scalar he h hp rfl (sdivI_eq _ _).symm
  case sremI => exact completes_scalar he h hp rfl (by simp only [sub_sdivI_mul])
  case sneg => exact completes_scalar he h hp rfl (BitVec.zero_sub _).symm
  -- comparisons
  case seq | sne | sltI | sltN | sleI | sleN | sslti => exact completes_scalar he h hp rfl (truth_eq_bit _).symm
  -- bits and fields
  case sand | sor | sxor | sandn | snot | sclz | sctz | spop | sbfxI | sbfxN | sbfi => exact completes_scalar he h hp rfl rfl
  case sshl | sshr | ssar | srol | sror => exact completes_scalar he h hp rfl (by simp only [fld_low]; rfl)
  -- immediates
  case saddi | sandi | sori | sxori | sshli | sshri | sli => exact completes_scalar he h hp rfl rfl
  -- masks
  case mpop | mfirst | mtos => exact completes_scalar he h hp rfl rfl
  case mand | mor | mxor | mandn | mnot | mmov | stom | mbelow => exact completes_mask he h hp rfl rfl
  -- no other instruction has such a result
  all_goals cases he

end Sys2Proof.Machine
end

section
/-! Branches, calls and returns (R84 to R87). -/

namespace Sys2Proof.Machine
open Sys2Proof.Claims

theorem badTarget_of_aligned {t : W64} (hb : badVa t.toNat = false) (ha : t.toNat % 4 = 0) : badTarget t = none := by
  simp [badTarget, hb, ha]

theorem badTarget_of_badVa {t : W64} (hb : badVa t.toNat = true) : badTarget t = some .perm := by simp [badTarget, hb]

theorem badTarget_of_misaligned {t : W64} (hb : badVa t.toNat = false) (ha : t.toNat % 4 ≠ 0) : badTarget t = some .align := by
  simp [badTarget, hb, ha]

/-- A transfer of control checks its target first. -/
theorem jump_eq (t : W64) (w : State → State) :
    jump t w = (badTarget t).elim (fun u => goTo t (w u)) fun c => trapAt c t.toNat := by
  funext u
  unfold jump
  cases badTarget t <;> rfl

/-- The path goes on at `t`, its link register written. -/
theorem goesTo_linked {s : State} {g : Group} {p : Path} (h : Issuing s g p) (t : W64) (d : Option Nat) :
    issued true s p (fun u => goTo t (linked u d)) = goesTo s g p t (linked s d) := by
  cases d with
  | none => exact goesTo_of h _ t rfl rfl fun _ => rfl
  | some n =>
    have he := sparesIssue_put1 (.s n (s.iss.at_ + 4)) g
    refine issued_passes h _ _ (fun q => { q.fresh with pc := t, rep := 0 }) _ rfl rfl he.comm he.ctx he.place he.hbCount he.tickDue
      he.paths rfl (fun _ => rfl) fun G x q h1 h2 => ?_
    have hG : State.group? { s with groups := G } s.iss.gid = some { g with paths := x } := h1
    simp only [linked, wrote]
    rw [modGroup_of hG, he.comm, goTo, modPath_at (s := s) _ (SMap.find?_put_self _ _ _) h2, SMap.put_put]

/-- WHAT A TRANSFER DOES, admitted: its target is checked where it is taken, and nowhere else (R87). -/
theorem transfer_completes {s : State} {g : Group} {p : Path} {x : Transfer} (h : Admitted x.adm s g p) (hc : x.adm.count = true)
    {k : Group → Path → State → State}
    (hk : k g p = if x.taken then jump x.target fun u => linked u x.link else advance) :
    (x.taken = false → gated x.adm s k = .next (goesOn s g p s)) ∧
    (x.taken = true → badVa x.target.toNat = false → x.target.toNat % 4 = 0 →
      gated x.adm s k = .next (goesTo s g p x.target (linked s x.link))) ∧
    (x.taken = true → badVa x.target.toNat = true → Ordinary g →
      gated x.adm s k = .next (trapsBefore s g p .perm x.target.toNat s)) ∧
    (x.taken = true → badVa x.target.toNat = false → x.target.toNat % 4 ≠ 0 → Ordinary g →
      gated x.adm s k = .next (trapsBefore s g p .align x.target.toNat s)) := by
  have hi := h.toIssuing
  rw [gated_admitted h, hk, hc]
  refine ⟨fun ht => ?_, fun ht hb ha => ?_, fun ht hb ho => ?_, fun ht hb ha ho => ?_⟩
  · rw [if_neg (by simp [ht]), goesOn_of hi advance rfl rfl fun _ => rfl]
  · rw [if_pos ht, jump_eq, badTarget_of_aligned hb ha, Option.elim_none, goesTo_linked hi]
  · rw [if_pos ht, jump_eq, badTarget_of_badVa hb, Option.elim_some, trapsBefore_of hi ho _ _ _ rfl rfl fun _ => rfl]
  · rw [if_pos ht, jump_eq, badTarget_of_misaligned hb ha, Option.elim_some, trapsBefore_of hi ho _ _ _ rfl rfl fun _ => rfl]

/-- R85: bit 0 of S(a). -/
theorem odd_iff_getLsbD (x : W64) : decide (x.toNat % 2 = 1) = x.getLsbD 0 := by
  rw [BitVec.getLsbD, Nat.testBit_zero]

theorem even_iff_getLsbD (x : W64) : decide (x.toNat % 2 = 0) = !x.getLsbD 0 := by
  rw [← odd_iff_getLsbD, ← decide_not, decide_eq_decide, Nat.mod_two_not_eq_one]

/-- R84 to R87: every branch, call and return is one transfer, of which bc alone may not be taken. -/
theorem transfersOfControl : Claims.TransfersOfControl := by
  intro i s g p x hx h
  cases i
  case br | call | ret | brx | callx => cases hx; exact transfer_completes h rfl (if_pos rfl).symm
  case bc a c o =>
    cases hx
    refine transfer_completes h rfl (congrArg (fun b => if b = true then _ else advance) ?_)
    simp only [condOf, even_iff_getLsbD, odd_iff_getLsbD]
  all_goals cases hx

end Sys2Proof.Machine
end

section
/-! Sparse tables: what stands in one after a change under a key that it lists. -/

namespace Sys2Proof.SMap
variable {α : Type}

theorem mem_of_find? {m : SMap α} {k : Nat} {v : α} (h : m.find? k = some v) : (k, v) ∈ m := by
  induction m with
  | nil => cases h
  | cons q t ih =>
    obtain ⟨j, w⟩ := q
    rw [find?_cons] at h
    split_ifs at h with hj
    · cases h; subst hj; exact List.mem_cons_self
    · exact List.mem_cons_of_mem _ (ih h)

/-- Only the pair that was found gives way to a new one. -/
theorem mem_put_of_mem {m : SMap α} {k : Nat} {v : α} (h : m.find? k = some v) (w : α) {q : Nat × α} (hq : q ∈ m) :
    q ∈ m.put k w ∨ q = (k, v) := by
  induction m with
  | nil => cases hq
  | cons r t ih =>
    obtain ⟨j, x⟩ := r
    rw [find?_cons] at h
    simp only [put]
    split_ifs at h ⊢ with hj hlt
    · cases h; subst hj
      exact (List.mem_cons.mp hq).symm.imp_left (List.mem_cons_of_mem _)
    · exact .inl (List.mem_cons_of_mem _ hq)
    · rcases List.mem_cons.mp hq with rfl | hq
      · exact .inl List.mem_cons_self
      · exact (ih h hq).imp_left (List.mem_cons_of_mem _)

/-- A change under a key leaves the keys alone. -/
theorem mem_keys_put {m : SMap α} {k : Nat} {v : α} (h : m.find? k = some v) (w : α) (j : Nat) :
    j ∈ (m.put k w).map Prod.fst ↔ j ∈ m.map Prod.fst := by
  simp only [List.mem_map]
  constructor
  · rintro ⟨q, hq, rfl⟩
    rcases mem_put m k w hq with rfl | hq
    · exact ⟨(k, v), mem_of_find? h, rfl⟩
    · exact ⟨q, hq, rfl⟩
  · rintro ⟨q, hq, rfl⟩
    rcases mem_put_of_mem h w hq with hq | rfl
    · exact ⟨q, hq, rfl⟩
    · exact ⟨(k, w), mem_of_find? (find?_put_self m k w), rfl⟩

theorem del_put (m : SMap α) (k : Nat) (v : α) : (m.put k v).del k = m.del k := by
  induction m with
  | nil => simp [put, del]
  | cons q t ih =>
    obtain ⟨j, w⟩ := q
    simp only [put]
    split_ifs with hj hlt
    · subst hj; simp [del]
    · simp [del]
    · simp [del, hj, ih]

theorem del_adjust (m : SMap α) (k : Nat) (f : α → α) : (m.adjust k f).del k = m.del k := by
  cases h : m.find? k with
  | none => rw [adjust_of_none h]
  | some v => rw [adjust_eq_put m f h, del_put]

theorem find?_eq_of_del_eq {m n : SMap α} {k j : Nat} (h : m.del k = n.del k) (hj : j ≠ k) : m.find? j = n.find? j := by
  rw [← find?_del_ne m hj, h, find?_del_ne n hj]

theorem length_le_put (m : SMap α) (k : Nat) (v : α) : m.length ≤ (m.put k v).length := by
  induction m with
  | nil => simp
  | cons q t ih =>
    simp only [put]
    split_ifs <;> simp [ih]

theorem length_le_adjust (m : SMap α) (k : Nat) (f : α → α) : m.length ≤ (m.adjust k f).length := by
  cases h : m.find? k with
  | none => rw [adjust_of_none h]
  | some v => rw [adjust_eq_put m f h]; exact length_le_put _ _ _

theorem adjust_singleton (k j : Nat) (v : α) (f : α → α) : adjust [(k, v)] j f = [(k, if k = j then f v else v)] := by
  by_cases h : k = j <;> simp [adjust, find?_cons, put, h]

theorem eq_singleton_of_find? {m : SMap α} {k : Nat} {v : α} (h : m.find? k = some v) (hl : m.length ≤ 1) : m = [(k, v)] := by
  obtain ⟨q, rfl⟩ := List.length_eq_one_iff.mp (le_antisymm hl (List.length_pos_of_mem (mem_of_find? h)))
  rw [List.mem_singleton.mp (mem_of_find? h)]

end Sys2Proof.SMap
end

section
/-! How an admitted instruction runs: in a state where its path is marked counted, and is then counted (R244, R370). -/

namespace Sys2Proof.Machine
open Sys2Proof.Claims

/-- The state in which the effect of an admitted instruction runs. -/
def marked (s : State) (p : Path) : State := if p.counted then s else s.modPath fun q => { q with counted := true }

/-- The state after an effect that left `t`, the instruction counted, once. -/
def tallied (s : State) (p : Path) (t : State) : State := if p.counted then t else countOne s.iss.gid t

theorem issued_eq_tallied (s : State) (p : Path) (k : State → State) : issued true s p k = tallied s p (k (marked s p)) := by
  unfold issued tallied marked
  cases p.counted <;> rfl

/-- `s` with the groups `G` is as `s`, but that the issuing path may be marked counted: `x` are the paths of its group, `b` its mark. -/
structure Marks (s : State) (g : Group) (p : Path) (G : SMap Group) (x : SMap Path) (b : Bool) : Prop where
  group  : G.find? s.iss.gid = some { g with paths := x }
  path   : x.find? s.iss.slot = some { p with counted := b }
  groups : G.del s.iss.gid = s.groups.del s.iss.gid
  paths  : x.del s.iss.slot = g.paths.del s.iss.slot
  length : g.paths.length ≤ x.length
  sole   : g.paths = [(s.iss.slot, p)] → x = [(s.iss.slot, { p with counted := b })]

theorem marked_eq {s : State} {g : Group} {p : Path} (h : Issuing s g p) :
    ∃ G x b, marked s p = { s with groups := G } ∧ Marks s g p G x b := by
  unfold marked
  cases hc : p.counted with
  | true =>
    have hp : { p with counted := true } = p := by rw [← hc]
    exact ⟨s.groups, g.paths, true, rfl, h.group, h.path.trans (congrArg some hp.symm), rfl, rfl, le_rfl, fun e => by rw [hp, e]⟩
  | false =>
    simp only [Bool.false_eq_true, if_false]
    rw [modPath_of h]
    exact ⟨_, _, true, rfl, SMap.find?_put_self _ _ _, SMap.find?_put_self _ _ _, SMap.del_put _ _ _, SMap.del_put _ _ _,
      SMap.length_le_put _ _ _, fun e => by rw [e, SMap.put, if_pos rfl]⟩

/-- The count changes the heartbeat count and the due tick of the group, and nothing else. -/
theorem tallied_of_group (s : State) (p : Path) {t : State} {h : Group} (ht : t.group? s.iss.gid = some h) :
    ∃ n d, tallied s p t = { t with groups := (tallied s p t).groups } ∧
      (∀ j, j ≠ s.iss.gid → (tallied s p t).group? j = t.group? j) ∧
      (tallied s p t).group? s.iss.gid = some { h with hbCount := n, tickDue := d } := by
  have hmod (f : Group → Group) : ∀ j, j ≠ s.iss.gid → (t.modGroup s.iss.gid f).group? j = t.group? j := fun j hj =>
    (SMap.find?_adjust _ _ _ _).trans (if_neg hj)
  have hown (f : Group → Group) : (t.modGroup s.iss.gid f).group? s.iss.gid = some (f h) := by
    rw [modGroup_of ht, group_put_self]
  unfold tallied
  split_ifs
  · exact ⟨h.hbCount, h.tickDue, rfl, fun _ _ => rfl, ht⟩
  · simp only [countOne, ht]
    split_ifs
    · exact ⟨h.hbCount, h.tickDue, rfl, fun _ _ => rfl, ht⟩
    · exact ⟨0, true, rfl, hmod _, hown _⟩
    · exact ⟨h.hbCount + 1, h.tickDue, rfl, hmod _, hown _⟩

theorem tallied_of_gone (s : State) (p : Path) {t : State} (ht : t.group? s.iss.gid = none) : tallied s p t = t := by
  unfold tallied countOne
  rw [ht, ite_self]

/-- AN EFFECT ON THE OWN GROUP, beside one on the operations in flight: the group's record is changed by `e`, with the issuing path
marked counted, and the instruction is counted. -/
theorem issued_own {s : State} {g : Group} {p : Path} (h : Issuing s g p) {O : SMap Op} {e : Group → Group} {k : State → State}
    (hk : ∀ G, k { s with groups := G } = State.modG { s with groups := G, ops := O } e) :
    ∃ u x b n d, issued true s p k = u ∧ (∀ j, j ≠ s.iss.gid → u.group? j = s.group? j) ∧
      u.group? s.iss.gid = some { e { g with paths := x } with hbCount := n, tickDue := d } ∧
      u = { s with groups := u.groups, ops := O } ∧ x.find? s.iss.slot = some { p with counted := b } ∧
      ∀ j, j ≠ s.iss.slot → x.find? j = g.paths.find? j := by
  obtain ⟨G, x, b, hG, hm⟩ := marked_eq h
  let t : State := State.modG { s with groups := G, ops := O } e
  have ht : t.group? s.iss.gid = some (e { g with paths := x }) := by
    have hg : State.group? { s with groups := G, ops := O } s.iss.gid = some { g with paths := x } := hm.group
    rw [show t = _ from modGroup_of hg e]
    exact group_put_self _ _ _
  have hothers : ∀ j, j ≠ s.iss.gid → t.group? j = s.group? j := fun j hj =>
    ((SMap.find?_adjust _ _ _ _).trans (if_neg hj)).trans (SMap.find?_eq_of_del_eq hm.groups hj)
  obtain ⟨n, d, hu, hj, hown⟩ := tallied_of_group s p ht
  refine ⟨tallied s p t, x, b, n, d, ?_, fun j hne => (hj j hne).trans (hothers j hne), hown, hu, hm.path,
    fun j hne => SMap.find?_eq_of_del_eq hm.paths hne⟩
  rw [issued_eq_tallied, hG, hk]

end Sys2Proof.Machine
end

section
/-! vbr (R226 to R229): the division of a path. -/

namespace Sys2Proof.Machine
open Sys2Proof.Claims

/-! The split table (R228): which entries are free does not depend on what the issuing path's record holds. -/

theorem mem_splitUsed {s : State} {core x : Nat} :
    x ∈ splitUsed s core ↔
      2 ≤ x ∧ ∃ q ∈ s.groups, (q.2.resident = true ∧ q.2.place.core = core) ∧ x ∈ q.2.paths.map Prod.fst := by
  simp only [splitUsed, List.mem_filter, List.mem_flatMap, Bool.and_eq_true, decide_eq_true_eq, and_assoc]
  exact and_comm

theorem mem_splitUsed_modPath {s : State} {g : Group} {p : Path} (h : Issuing s g p) (f : Path → Path) (core x : Nat) :
    x ∈ splitUsed (s.modPath f) core ↔ x ∈ splitUsed s core := by
  have hkeys := SMap.mem_keys_put h.path (f p) x
  rw [modPath_of h, mem_splitUsed, mem_splitUsed]
  refine and_congr_right fun _ => ⟨?_, ?_⟩
  · rintro ⟨q, hq, hcore, hx⟩
    rcases SMap.mem_put _ _ _ hq with rfl | hq
    · exact ⟨(s.iss.gid, g), SMap.mem_of_find? h.group, hcore, hkeys.mp hx⟩
    · exact ⟨q, hq, hcore, hx⟩
  · rintro ⟨q, hq, hcore, hx⟩
    rcases SMap.mem_put_of_mem h.group { g with paths := g.paths.put s.iss.slot (f p) } hq with hq | rfl
    · exact ⟨q, hq, hcore, hx⟩
    · exact ⟨_, SMap.mem_of_find? (SMap.find?_put_self _ _ _), hcore, hkeys.mpr hx⟩

theorem freeSplit_modPath {s : State} {g : Group} {p : Path} (h : Issuing s g p) (f : Path → Path) (core : Nat) :
    freeSplit (s.modPath f) core = freeSplit s core := by
  unfold freeSplit
  simp only [List.contains_eq_mem, mem_splitUsed_modPath h]

theorem freeSplit_eq_some {s : State} {core i : Nat} (hi : i < splitMax) (hfree : i + 2 ∉ splitUsed s core)
    (hlow : ∀ j < i, j + 2 ∈ splitUsed s core) : freeSplit s core = some i := by
  rw [freeSplit, List.find?_range_eq_some]
  simpa [hi, hfree] using hlow

theorem freeSplit_eq_none {s : State} {core : Nat} (h : ∀ i < splitMax, i + 2 ∈ splitUsed s core) : freeSplit s core = none := by
  rw [freeSplit, List.find?_range_eq_none]
  simpa using h

/-! The two sides of a division, and what each case of it does to the group (R227). -/

/-- A path goes on with the lanes and at the place of a side. -/
def takesSide (side : W32 × W64) (q : Path) : Path := { q.fresh with mask := side.1, pc := side.2, rep := 0 }

/-- The side with fewer lanes, the branching side of two alike, and the other. -/
def minorSide (tk nt : W32 × W64) : W32 × W64 := if popN 32 tk.1.toNat ≤ popN 32 nt.1.toNat then tk else nt
def majorSide (tk nt : W32 × W64) : W32 × W64 := if popN 32 tk.1.toNat ≤ popN 32 nt.1.toNat then nt else tk

/-- The path begins inside the code of an inlined frame (R91; log 104). -/
def startsInlined (p : Path) : Bool := p.inl || p.frames.any fun f => f.st = .inlined

/-- Path `slot` keeps one side and the new path `new` takes the other. -/
def splitPath (c slot new : Nat) (keep go : W32 × W64) (p : Path) (g : Group) : Group :=
  { g with
    paths := (g.paths.adjust slot (takesSide keep)).put new (freshPath go.2 go.1 c slot (p.stepReq ≠ 0) (startsInlined p)) }

/-- Path `slot`, which is slot A, keeps the lanes that fall through and slot B takes the others. -/
def splitSlots (c slot : Nat) (tk nt : W32 × W64) (p : Path) (g : Group) : Group :=
  { splitPath c slot 1 nt tk p g with divTok := c, fdepth := p.frames.length }

/-- Path `slot` keeps one side and the other is deferred by a stack entry. -/
def deferSide (c slot : Nat) (keep go : W32 × W64) (p : Path) (g : Group) : Group :=
  { g with
    rstack := g.rstack ++ [{ dpc := go.2, owner := slot, fdepth := p.frames.length, phase := false, tok := c, dmask := go.1 }]
    paths := g.paths.adjust slot fun q => { takesSide keep q with nent := q.nent + 1 } }

section
variable {c : Nat} {t : W64} {tk nt : W32} {g : Group} {p : Path} {s : State}

theorem divide_slots (hslot : s.iss.slot = 0) (hb : g.paths.find? 1 = none) (u : State) (hu : u.iss = s.iss) :
    divide c t tk nt g p u =
      (dividedOps u s.iss.gid s.iss.slot 1).modG (splitSlots c s.iss.slot (tk, t) (nt, s.iss.next) p) := by
  unfold divide
  simp only [hu, hslot, hb, Option.isNone_none, and_self, if_true]
  rfl

theorem divide_fragment {i : Nat} (hslot : ¬(s.iss.slot = 0 ∧ g.paths.find? 1 = none)) (u : State) (hu : u.iss = s.iss)
    (hf : freeSplit u g.place.core = some i) :
    divide c t tk nt g p u = (dividedOps u s.iss.gid s.iss.slot (i + 2)).modG
      (splitPath c s.iss.slot (i + 2) (majorSide (tk, t) (nt, s.iss.next)) (minorSide (tk, t) (nt, s.iss.next)) p) := by
  unfold divide majorSide minorSide
  simp only [hu, Option.isNone_iff_eq_none, if_neg hslot, hf]
  split_ifs <;> rfl

theorem divide_defer (hslot : ¬(s.iss.slot = 0 ∧ g.paths.find? 1 = none)) (u : State) (hu : u.iss = s.iss)
    (hf : freeSplit u g.place.core = none) (hroom : g.rstack.length < 16) :
    divide c t tk nt g p u = u.modG
      (deferSide c s.iss.slot (majorSide (tk, t) (nt, s.iss.next)) (minorSide (tk, t) (nt, s.iss.next)) p) := by
  unfold divide majorSide minorSide
  simp only [hu, Option.isNone_iff_eq_none, if_neg hslot, hf, Nat.not_le.mpr hroom, if_false]
  split_ifs <;> rfl

theorem divide_deep (hslot : ¬(s.iss.slot = 0 ∧ g.paths.find? 1 = none)) (u : State) (hu : u.iss = s.iss)
    (hf : freeSplit u g.place.core = none) (hfull : 16 ≤ g.rstack.length) : divide c t tk nt g p u = trapAt .divdeep 0 u := by
  unfold divide
  simp only [hu, Option.isNone_iff_eq_none, if_neg hslot, hf, if_pos hfull]

/-- What runs where the entry of the split table that is free plays a part: the free entry is the same in the state that the effect
runs in. -/
theorem issued_of_freeSplit (h : Issuing s g p) {k k' : State → State}
    (hk : ∀ u, u.iss = s.iss → freeSplit u g.place.core = freeSplit s g.place.core → k u = k' u) :
    issued true s p k = issued true s p k' :=
  issued_congr true (hk s rfl rfl) fun f => hk _ rfl (freeSplit_modPath h f _)

/-- A division into a new path: what it leaves of the state, of the group and of its paths. -/
theorem issued_splits (h : Issuing s g p) {new : Nat} (hnew : new ≠ s.iss.slot) {keep go : W32 × W64} {e : Group → Group}
    (he : ∀ x, (e x).paths = (splitPath c s.iss.slot new keep go p x).paths) :
    ∃ u x n d, issued true s p (fun u => (dividedOps u s.iss.gid s.iss.slot new).modG e) = u ∧
      (∀ j, j ≠ s.iss.gid → u.group? j = s.group? j) ∧
      u.group? s.iss.gid = some { e { g with paths := x } with hbCount := n, tickDue := d } ∧
      u = { dividedOps s s.iss.gid s.iss.slot new with groups := u.groups } ∧
      (e { g with paths := x }).paths.find? s.iss.slot = some (takesSide keep p) ∧
      (e { g with paths := x }).paths.find? new =
        some (freshPath go.2 go.1 c s.iss.slot (p.stepReq ≠ 0) (startsInlined p)) ∧
      ∀ j, j ≠ s.iss.slot → j ≠ new → (e { g with paths := x }).paths.find? j = g.paths.find? j := by
  obtain ⟨u, x, b, n, d, hu, hothers, hown, hframe, hpath, hpaths⟩ :=
    issued_own (O := (dividedOps s s.iss.gid s.iss.slot new).ops) (e := e)
      (k := fun u => (dividedOps u s.iss.gid s.iss.slot new).modG e) h fun _ => rfl
  refine ⟨u, x, n, d, hu, hothers, hown, hframe, ?_, ?_, fun j hj hjn => ?_⟩ <;> rw [he] <;> unfold splitPath
  · rw [SMap.find?_put_ne _ _ hnew.symm, SMap.find?_adjust, if_pos rfl, hpath]; rfl
  · exact SMap.find?_put_self _ _ _
  · rw [SMap.find?_put_ne _ _ hjn, SMap.find?_adjust, if_neg hj, hpaths j hj]

/-- A deferral: what it leaves of the group and of its paths. -/
theorem issued_defers (h : Issuing s g p) {keep go : W32 × W64} :
    ∃ u x n d, issued true s p (fun u => u.modG (deferSide c s.iss.slot keep go p)) = u ∧
      OnlyGroup s u { deferSide c s.iss.slot keep go p { g with paths := x } with hbCount := n, tickDue := d } ∧
      (deferSide c s.iss.slot keep go p { g with paths := x }).paths.find? s.iss.slot =
        some { takesSide keep p with nent := p.nent + 1 } ∧
      ∀ j, j ≠ s.iss.slot → (deferSide c s.iss.slot keep go p { g with paths := x }).paths.find? j = g.paths.find? j := by
  obtain ⟨u, x, b, n, d, hu, hothers, hown, hframe, hpath, hpaths⟩ :=
    issued_own (O := s.ops) (e := deferSide c s.iss.slot keep go p)
      (k := fun u => u.modG (deferSide c s.iss.slot keep go p)) h fun _ => rfl
  refine ⟨u, x, n, d, hu, ⟨hframe, hothers, hown⟩, ?_, fun j hj => ?_⟩ <;> unfold deferSide
  · rw [SMap.find?_adjust, if_pos rfl, hpath]; rfl
  · rw [SMap.find?_adjust, if_neg hj, hpaths j hj]

/-! vbr by its cases: what its effect is (R226). -/

variable {a o : Nat}

/-- What an admitted vbr of a path outside an allon region does, by the lanes of M(a) and the target. -/
theorem exec_vbr (h : Admitted { acc := { imms := 1 }, rd := mR [a] } s g p) (hsaved : p.saved = none) :
    let tk := p.mask &&& rM s g p a
    let nt := p.mask &&& ~~~rM s g p a
    let t := relTarget s 16 o
    exec (.vbr a c o) s = .next (issued true s p fun u =>
      if tk = 0 then advance u
      else (badTarget t).elim (if nt = 0 then goTo t u else divide c t tk nt g p u) fun x => trapAt x t.toNat u) := by
  refine (gated_admitted h _).trans ?_
  simp only [hsaved, Option.isSome_none, Bool.false_eq_true, if_false]
  cases badTarget (relTarget s 16 o) <;> rfl

theorem exec_vbr_in_allon (h : Admitted { acc := { imms := 1 }, rd := mR [a] } s g p) (hsaved : p.saved.isSome = true)
    (ho : Ordinary g) : exec (.vbr a c o) s = .next (trapsBefore s g p .illop 0 s) := by
  refine (gated_admitted h _).trans (congrArg _ (trapsBefore_of h.toIssuing ho _ _ _ rfl rfl fun G => ?_))
  simp only [hsaved, if_true]

end

/-- R226 to R229: where some lanes branch and some do not, `divide` says what becomes of the two sides. -/
theorem vectorBranchDivides : Claims.VectorBranchDivides := by
  intro a c o s g p h
  have hi := h.toIssuing
  extract_lets slot core tk nt t inl fewer minor major after
  refine ⟨fun hsaved ho => exec_vbr_in_allon h hsaved ho, fun hsaved => ?_⟩
  have run : exec (.vbr a c o) s = .next (issued true s p fun u =>
      if tk = 0 then advance u
      else (badTarget t).elim (if nt = 0 then goTo t u else divide c t tk nt g p u) fun x => trapAt x t.toNat u) :=
    exec_vbr h hsaved
  have hminor : minorSide (tk, t) (nt, s.iss.next) = minor := rfl
  have hmajor : majorSide (tk, t) (nt, s.iss.next) = major := rfl
  clear_value tk nt t minor major
  refine ⟨fun htk => ?falls, fun htk ho hb => ?perm, fun htk ho hb ha => ?align, fun htk hb ha => ?good⟩
  case falls =>
    simp only [run, htk, if_true]
    rw [goesOn_of hi advance rfl rfl fun _ => rfl]
  case perm =>
    simp only [run, htk, if_false, badTarget_of_badVa hb, Option.elim_some]
    rw [trapsBefore_of hi ho _ _ _ rfl rfl fun _ => rfl]
  case align =>
    simp only [run, htk, if_false, badTarget_of_misaligned hb ha, Option.elim_some]
    rw [trapsBefore_of hi ho _ _ _ rfl rfl fun _ => rfl]
  case good =>
    simp only [run, htk, if_false, badTarget_of_aligned hb ha, Option.elim_none, after]
    refine ⟨fun hnt => ?branches, fun hnt hslot hB => ?slots, fun hnt hslot => ⟨fun i hi64 hfree hlow hne => ?fragment,
      fun hused => ⟨fun hroom => ?defers, fun hfull ho => ?deep⟩⟩⟩
    case branches =>
      simp only [hnt, if_true]
      rw [goesTo_of hi (goTo t) t rfl rfl fun _ => rfl]
    all_goals simp only [hnt, if_false]
    case slots =>
      have hne : 1 ≠ s.iss.slot := ne_of_ne_of_eq one_ne_zero hslot.symm
      rw [issued_of_freeSplit hi fun u hiss _ => divide_slots hslot hB u hiss]
      obtain ⟨u, x, n, d, hu, hothers, hown, hframe, hpath, hnew, hpaths⟩ :=
        issued_splits (e := splitSlots c s.iss.slot (tk, t) (nt, s.iss.next) p) hi hne fun _ => rfl
      refine ⟨u, _, ⟨congrArg _ hu, hothers, hown, hframe, hpaths⟩, rfl, (congrArg _ hslot.symm).trans hpath, hnew.trans ?_⟩
      rw [show s.iss.slot = 0 from hslot]
      rfl
    case fragment =>
      have hfs := freeSplit_eq_some hi64 hfree hlow
      rw [issued_of_freeSplit hi fun u hiss h => divide_fragment hslot u hiss (h.trans hfs), hmajor, hminor]
      obtain ⟨u, x, n, d, hu, hothers, hown, hframe, hpath, hnew, hpaths⟩ :=
        issued_splits (c := c) (keep := major) (go := minor) hi hne fun _ => rfl
      exact ⟨u, _, ⟨congrArg _ hu, hothers, hown, hframe, hpaths⟩, rfl, hpath, hnew⟩
    case defers =>
      have hfs := freeSplit_eq_none hused
      rw [issued_of_freeSplit hi fun u hiss h => divide_defer hslot u hiss (h.trans hfs) hroom, hmajor, hminor]
      obtain ⟨u, x, n, d, hu, honly, hpath, hpaths⟩ := issued_defers (c := c) (keep := major) (go := minor) hi
      exact ⟨u, _, congrArg _ hu, honly, rfl, hpath, hpaths⟩
    case deep =>
      rw [issued_of_freeSplit hi fun u hiss hfs => divide_deep hslot u hiss (hfs.trans (freeSplit_eq_none hused)) hfull,
        trapsBefore_of hi ho _ _ _ rfl rfl fun _ => rfl]

/-- Settles O10, by what a transfer does with its target, and by what becomes of the two sides of a path that divides. -/
theorem controlTransfers : Obligations.ControlTransfers := ⟨transfersOfControl, vectorBranchDivides⟩

end Sys2Proof.Machine
end

section
/-! What the end of a path leaves of the groups: none begins, and but for those that retire their live lanes stay (R90, R231, R233). -/

namespace Sys2Proof.Machine
open Sys2Proof.Claims

/-- The groups of `t` are those of `s`, with the same live lanes, and so are the teams. -/
structure SameLive (s t : State) : Prop where
  teams : t.teams = s.teams
  live  : ∀ j, (t.group? j).map Group.live = (s.group? j).map Group.live

/-- Every group of `t` is one of `s`. -/
def NoneNew (s t : State) : Prop := ∀ j, s.group? j = none → t.group? j = none

section
variable {r s t u : State}

theorem SameLive.refl (s : State) : SameLive s s := ⟨rfl, fun _ => rfl⟩

theorem SameLive.trans (h : SameLive s t) (k : SameLive t u) : SameLive s u :=
  ⟨k.teams.trans h.teams, fun j => (k.live j).trans (h.live j)⟩

/-- A change of the state that leaves groups and teams alone. -/
theorem SameLive.beside (h : SameLive r s) (hg : t.groups = s.groups) (ht : t.teams = s.teams) : SameLive r t :=
  ⟨ht.trans h.teams, fun j => by rw [← h.live j]; unfold State.group?; rw [hg]⟩

theorem SameLive.foldl {α : Type} {f : State → α → State} {l : List α} (h : SameLive r s)
    (hf : ∀ s a, SameLive r s → SameLive r (f s a)) : SameLive r (l.foldl f s) := by
  induction l generalizing s with
  | nil => exact h
  | cons a l ih => exact ih (hf s a h)

theorem SameLive.modGroup {gid : Nat} {f : Group → Group} (h : SameLive r s) (hf : ∀ g, (f g).live = g.live) :
    SameLive r (s.modGroup gid f) := by
  refine ⟨h.teams, fun j => ?_⟩
  have hj : (s.modGroup gid f).group? j = if j = gid then (s.group? gid).map f else s.group? j := SMap.find?_adjust _ _ _ _
  rw [hj, ← h.live j]
  split_ifs with hj
  · subst hj; cases s.group? j <;> simp [hf]
  · rfl

theorem SameLive.mapGroups {f : Nat → Group → Group} (h : SameLive r s) (hg : t.groups = s.groups.mapV f) (ht : t.teams = s.teams)
    (hf : ∀ k g, (f k g).live = g.live) : SameLive r t := by
  refine ⟨ht.trans h.teams, fun j => ?_⟩
  have hj : t.group? j = (s.group? j).map (f j) := by unfold State.group?; rw [hg, SMap.find?_mapV]
  rw [hj, ← h.live j]
  cases s.group? j <;> simp [hf]

theorem NoneNew.refl (s : State) : NoneNew s s := fun _ h => h

theorem NoneNew.sameLive (h : NoneNew r s) (k : SameLive s t) : NoneNew r t := fun j hj => by
  have := k.live j
  rw [h j hj] at this
  exact Option.map_eq_none_iff.mp this

theorem NoneNew.beside (h : NoneNew r s) (hg : t.groups = s.groups) : NoneNew r t := fun j hj =>
  (congrArg (SMap.find? · j) hg).trans (h j hj)

theorem NoneNew.modGroup {gid : Nat} {f : Group → Group} (h : NoneNew r s) : NoneNew r (s.modGroup gid f) := fun j hj => by
  refine (SMap.find?_adjust _ _ _ _).trans ?_
  split_ifs with hgid
  · exact hgid ▸ Option.map_eq_none_iff.mpr (h j hj)
  · exact h j hj

theorem NoneNew.foldl {α : Type} {f : State → α → State} {l : List α} (h : NoneNew r s)
    (hf : ∀ s a, NoneNew r s → NoneNew r (f s a)) : NoneNew r (l.foldl f s) := by
  induction l generalizing s with
  | nil => exact h
  | cons a l ih => exact ih (hf s a h)

theorem SameLive.modCtx {c : Nat} {f : Ctx → Ctx} (h : SameLive r s) : SameLive r (s.modCtx c f) := h.beside rfl rfl
theorem SameLive.modPart {i : Nat} {f : Part → Part} (h : SameLive r s) : SameLive r (s.modPart i f) := h.beside rfl rfl

/-! Memory, records and translation. -/

theorem SameLive.wr {pa : Nat} {bs : List Byte} (h : SameLive r s) : SameLive r (s.wr pa bs) := by
  unfold State.wr
  refine h.mapGroups (f := ?f) ?groups rfl ?live
  case groups => dsimp only; rfl
  case live => exact fun _ _ => rfl

theorem SameLive.eqPut {n : Nat} {b : List Byte} (h : SameLive r s) : SameLive r (s.eqPut n b) := h.wr.beside rfl rfl

theorem SameLive.postEvent {typ c : Nat} {body : List (Nat × Nat)} (h : SameLive r s) :
    SameLive r (postEvent s typ c body) := by
  unfold Machine.postEvent
  dsimp only
  split_ifs
  · exact .eqPut (h.beside rfl rfl)
  · exact h.beside rfl rfl
  · exact h.beside rfl rfl

theorem SameLive.wrGuard {pa n v : Nat} (h : SameLive r s) : SameLive r (s.wrGuard pa n v) := by
  unfold State.wrGuard
  split_ifs
  · exact h
  · exact h.wr

theorem SameLive.dirtyAppend {c va size : Nat} (h : SameLive r s) : SameLive r (dirtyAppend s c va size) := by
  unfold Machine.dirtyAppend
  split
  · exact h
  · exact h
  · dsimp only
    split_ifs
    · exact h
    · exact h.wrGuard.postEvent
    · exact h.wrGuard.wrGuard

theorem SameLive.setAD {c va leaf size : Nat} {w : Bool} (h : SameLive r s) : SameLive r (setAD s c va leaf size w) := by
  have hd : SameLive r (if w && fld (s.rd leaf 8) 7 1 = 0 then Machine.dirtyAppend s c va size else s) := by
    split_ifs
    · exact h.dirtyAppend
    · exact h
  exact hd.wr

theorem SameLive.walk {c va : Nat} {n : Need} (h : SameLive r s) : SameLive r (walk s c va n).1 := by
  unfold Machine.walk
  split
  · exact h
  · split
    · exact h.setAD
    · exact h

theorem SameLive.walkNow {c va : Nat} {n : Need} {x : State × Option Nat} (h : SameLive r s) (hx : walkNow s c va n = x) :
    SameLive r x.1 := by
  subst hx
  have hw : SameLive r (Machine.walk s c va n).1 := h.walk
  unfold Machine.walkNow
  split_ifs
  · exact h
  · split
    · next heq =>
      rw [heq] at hw
      split_ifs
      · exact h
      · exact hw
    · next heq => rw [heq] at hw; exact hw

theorem SameLive.ctxLog {c typ : Nat} {body : List (Nat × Nat)} (h : SameLive r s) : SameLive r (ctxLog s c typ body) := by
  unfold Machine.ctxLog
  split
  · exact h
  · split_ifs
    · exact h
    · dsimp only
      split
      · next heq => exact (h.modCtx.walkNow heq).beside rfl rfl
      · next heq =>
        have h1 := h.modCtx.walkNow heq
        split_ifs
        · exact h1.modCtx.wr
        · split
          · next heq => exact (h1.walkNow heq).beside rfl rfl
          · next heq => exact (h1.walkNow heq).wr.wr.modCtx

theorem SameLive.unstamp {line : Nat} (h : SameLive r s) : SameLive r (unstamp s line) := by
  unfold Machine.unstamp
  split <;> exact h.beside rfl rfl

theorem SameLive.homeWrite {core : Option Nat} {pa : Nat} {bs : List Byte} (h : SameLive r s) :
    SameLive r (homeWrite s core pa bs) := by
  have hl : SameLive r ((linesOf pa bs.length).foldl Machine.unstamp (s.wr pa bs)) := h.wr.foldl fun _ _ h => h.unstamp
  cases core with
  | none => exact hl
  | some c => exact hl.beside rfl rfl

theorem SameLive.freeRecord {c core va : Nat} (h : SameLive r s) : SameLive r (freeRecord s c core va) := by
  unfold Machine.freeRecord
  split
  · next heq => exact (h.walkNow heq).homeWrite
  · next heq => exact h.walkNow heq

theorem SameLive.freeReserve {gid slot : Nat} (h : SameLive r s) : SameLive r (freeReserve s gid slot) := by
  unfold Machine.freeReserve
  split
  · exact h.foldl fun _ _ h => h.freeRecord
  · exact h

/-! Bundles, traps and the count of instructions. -/

theorem SameLive.abandon {b : Handle} (h : SameLive r s) : SameLive r (abandon s b) := by
  unfold Machine.abandon
  split
  · exact h
  · exact h.beside rfl rfl

theorem SameLive.abandonOpen {g : Group} (h : SameLive r s) : SameLive r (abandonOpen s g) := by
  unfold Machine.abandonOpen
  split
  · split
    · split_ifs
      · exact h.abandon.ctxLog
      · exact h
    · exact h
  · exact h

theorem SameLive.mboxPut {ws : List Nat} (h : SameLive r s) : SameLive r (mboxPut s ws) := by
  unfold Machine.mboxPut
  split_ifs
  · exact h.beside rfl rfl
  · exact h.wr.beside rfl rfl

theorem SameLive.beginQuiesce {c : Nat} {a : After} (h : SameLive r s) : SameLive r (beginQuiesce s c a) := by
  unfold Machine.beginQuiesce
  refine h.mapGroups (f := ?f) ?groups rfl ?live
  case groups => dsimp only [State.modCtx]; rfl
  case live => intro _ g; split_ifs <;> rfl

theorem SameLive.doubleFault {g : Group} {slot : Nat} {c : Cause} {addr : W64} (h : SameLive r s) :
    SameLive r (doubleFault s g slot c addr) := by
  have hq : SameLive r (if (s.ctx? g.ctx).map Ctx.st = some .resident then Machine.beginQuiesce s g.ctx .save else s) := by
    split_ifs
    · exact h.beginQuiesce
    · exact h
  unfold Machine.doubleFault
  dsimp only
  generalize (if (s.ctx? g.ctx).map Ctx.st = some .resident then Machine.beginQuiesce s g.ctx .save else s) = t at hq ⊢
  split_ifs
  · exact hq.postEvent.mboxPut
  · exact hq.postEvent

theorem SameLive.trapPath {gid slot : Nat} {x : TrapRec} (h : SameLive r s) : SameLive r (trapPath s gid slot x) := by
  unfold Machine.trapPath
  split
  · exact h
  · split_ifs
    · exact h.doubleFault
    · exact .modPart (.modGroup (h.beside rfl rfl) fun _ => rfl)

theorem SameLive.gangAbort {q : Nat} (h : SameLive r s) : SameLive r (gangAbort s q) := by
  refine SameLive.foldl (h.beside rfl rfl) fun s e h => ?_
  unfold trapWaiting
  split
  · exact h
  · exact h.trapPath

theorem SameLive.countOne {gid : Nat} (h : SameLive r s) : SameLive r (countOne gid s) := by
  unfold Machine.countOne
  split
  · exact h
  · dsimp only
    split_ifs
    · exact h
    · exact h.modGroup fun _ => rfl
    · exact h.modGroup fun _ => rfl

theorem SameLive.tallied {x : State} {p : Path} (h : SameLive r s) : SameLive r (tallied x p s) := by
  unfold Machine.tallied
  split_ifs
  · exact h
  · exact h.countOne

/-! Fences, meetings, and a path that is gone. -/

theorem SameLive.fenceGroup {gid core scp : Nat} (h : SameLive r s) : SameLive r (fenceGroup s gid core scp) := by
  unfold Machine.fenceGroup
  split_ifs
  · split
    · exact h
    · exact h.beside rfl rfl
  · exact h

theorem SameLive.renamePath {gid old new : Nat} (h : SameLive r s) : SameLive r (renamePath s gid old new) := by
  unfold Machine.renamePath
  refine SameLive.mapGroups (s := s.modGroup gid ?e) (f := ?f) (h.modGroup ?own) ?groups rfl ?live
  case groups => dsimp only; rfl
  case own => intro g; split <;> rfl
  case live => intro _ g; split <;> rfl

theorem SameLive.fuseInto {gid old new : Nat} (h : SameLive r s) : SameLive r (fuseInto s gid old new) := by
  unfold Machine.fuseInto
  dsimp only
  refine SameLive.fenceGroup ((h.freeReserve.modGroup fun g => ?_).beside rfl rfl)
  split <;> rfl

theorem SameLive.meetStep {gid : Nat} (h : SameLive r s) (ht : meetStep s gid = some t) : SameLive r t := by
  unfold Machine.meetStep at ht
  split at ht
  · cases ht
  · obtain ⟨x, -, rfl⟩ := Option.map_eq_some_iff.mp ht
    split
    · exact h.modGroup fun _ => rfl
    · exact h.fuseInto
    · exact h.fuseInto.modGroup fun _ => rfl

theorem SameLive.meets {n gid : Nat} (h : SameLive r s) : SameLive r (meets n s gid) := by
  induction n generalizing s with
  | zero => exact h
  | succ n ih =>
    unfold Machine.meets
    split
    · exact h
    · next ht => exact ih (h.meetStep ht)

theorem SameLive.closeRanks {gid old parent : Nat} (h : SameLive r s) : SameLive r (closeRanks s gid old parent) := by
  unfold Machine.closeRanks
  split
  · exact h
  · dsimp only
    generalize (if 2 ≤ old then parent else _) = np
    split_ifs
    · exact h.modGroup fun _ => rfl
    · exact .renamePath (h.modGroup fun _ => rfl)
    · split
      · exact h.modGroup fun _ => rfl
      · exact .modGroup (.renamePath (h.modGroup fun _ => rfl)) fun _ => rfl

theorem SameLive.endedOps {gid slot : Nat} (h : SameLive r s) : SameLive r (endedOps s gid slot) := h.beside rfl rfl

/-! Barriers and rounds of a team. -/

/-- Paths that a completed phase makes ready: groups, and the L1 copies that their cores drop. -/
theorem barWakeAll_frame (s : State) : barWakeAll s =
    { s with
      groups := s.groups.mapV fun _ g => { g with paths := g.paths.mapV fun _ p => barWake s g p }
      cores := (barWakeAll s).cores } := by
  have hl (l : List (Nat × Group)) (u : State) :
      l.foldl (fun s g => l1Drop s g.2.place.core g.2.ctx) u =
        { u with cores := (l.foldl (fun s g => l1Drop s g.2.place.core g.2.ctx) u).cores } := by
    induction l generalizing u with
    | nil => rfl
    | cons a l ih => exact ih _
  exact hl _ _

/-- A group, its paths that wait at a phase that has completed made ready. -/
def wokenGroup (s : State) (g : Group) : Group := { g with paths := g.paths.mapV fun _ p => barWake s g p }

theorem group?_barWakeAll (s : State) (j : Nat) : (barWakeAll s).group? j = (s.group? j).map (wokenGroup s) := by
  rw [barWakeAll_frame]
  unfold State.group?
  dsimp only
  rw [SMap.find?_mapV]
  rfl

theorem wokenGroup_path (s : State) (g : Group) (j : Nat) :
    (wokenGroup s g).paths.find? j = (g.paths.find? j).map (barWake s g) := by
  rw [wokenGroup, SMap.find?_mapV]

theorem barWake_of_ready {p : Path} (hp : p.cond = .ready) (s : State) (g : Group) : barWake s g p = p := by
  unfold barWake
  rw [hp]

theorem SameLive.barWakeAll (h : SameLive r s) : SameLive r (barWakeAll s) := by
  rw [barWakeAll_frame]
  refine h.mapGroups (f := ?f) ?groups rfl ?live
  case groups => dsimp only; rfl
  case live => exact fun _ _ => rfl

/-- A group without a team counts at no barrier. -/
theorem recount_of_noTeam {team : Nat} (ht : s.teams.find? team = none) : recount s team = barWakeAll s := by
  unfold recount recount.recountBars
  rw [ht]

theorem NoneNew.recount {team : Nat} (h : NoneNew r s) : NoneNew r (recount s team) := by
  have hb : (recount.recountBars s team).groups = s.groups := by
    unfold recount.recountBars
    split
    · rfl
    · dsimp only; split <;> rfl
  exact (h.beside hb).sameLive (SameLive.refl _).barWakeAll

/-- A group that retires, with its reserves returned and its open bundle abandoned, is gone before anything else follows (R90). -/
def goneOf (s : State) (gid : Nat) (g : Group) : State :=
  let u := abandonOpen (g.paths.foldl (fun s p => freeReserve s gid p.1) s) g
  { u with groups := u.groups.del gid, pipe := u.pipe.filter fun e => e.gid ≠ gid }

theorem group?_goneOf (s : State) (gid : Nat) (g : Group) : (goneOf s gid g).group? gid = none := SMap.find?_del_self _ _

theorem noneNew_goneOf (s : State) (gid : Nat) (g : Group) : NoneNew s (goneOf s gid g) := fun j hj => by
  have h : SameLive s (abandonOpen (g.paths.foldl (fun s p => freeReserve s gid p.1) s) g) :=
    ((SameLive.refl s).foldl fun _ _ h => h.freeReserve).abandonOpen
  refine (SMap.find?_del _ _ _).trans (ite_eq_left_iff.mpr fun _ => ?_)
  exact (NoneNew.refl s).sameLive h j hj

/-- What follows from a retirement makes no group. -/
theorem noneNew_retire_of_goneOf {gid : Nat} {g : Group} (hg : s.group? gid = some g) :
    NoneNew (goneOf s gid g) (retire s gid) := by
  unfold retire
  split
  · next h => rw [hg] at h; cases h
  · next h =>
    cases hg.symm.trans h
    extract_lets s1 s2 s3 s4 s5
    have h4 : NoneNew (goneOf s gid g) s4 := by
      refine NoneNew.sameLive (s := s3) (.refl _) ?_
      dsimp only [s4]
      split_ifs
      · exact (SameLive.refl s3).gangAbort.beside rfl rfl
      · exact .refl s3
    have h5 : NoneNew (goneOf s gid g) s5 := h4.beside rfl
    clear_value s5
    split
    · exact h5
    · split_ifs
      · exact .recount (h5.beside rfl)
      · split
        · exact h5.beside rfl
        · split_ifs
          · dsimp only
            split
            · exact .recount (h5.beside rfl)
            · exact h5.beside rfl
          · exact h5.beside rfl

theorem NoneNew.retire {gid : Nat} (h : NoneNew r s) : NoneNew r (retire s gid) := fun j hj => by
  cases hg : s.group? gid with
  | none => rw [Machine.retire, hg]; exact h j hj
  | some g => exact noneNew_retire_of_goneOf hg j (noneNew_goneOf s gid g j (h j hj))

/-- RETIREMENT removes the group. -/
theorem retire_gone (s : State) (gid : Nat) : (retire s gid).group? gid = none := by
  cases hg : s.group? gid with
  | none => exact (NoneNew.refl s).retire gid hg
  | some g => exact noneNew_retire_of_goneOf hg gid (group?_goneOf s gid g)

theorem NoneNew.fusePair {host partner d a b : Nat} (h : NoneNew r s) : NoneNew r (fusePair s host partner d a b) := by
  unfold Machine.fusePair
  split
  · exact .retire h.modGroup
  · exact h

theorem NoneNew.regroupRound {team : Nat} {x : W64} (h : NoneNew r s) : NoneNew r (regroupRound s team x) := by
  unfold Machine.regroupRound
  split
  · exact h
  · dsimp only
    split_ifs
    · exact h
    · refine NoneNew.foldl (h.beside rfl) fun s pr h => ?_
      split
      · exact h.fusePair
      · exact h.modGroup

theorem NoneNew.regroupTimes {team : Nat} {xs : List W64} {n : Nat} (h : NoneNew r s) :
    NoneNew r (regroupTimes team xs n s) := by
  induction n generalizing s with
  | zero => exact h
  | succ n ih => exact ih (h.foldl fun _ _ h => h.regroupRound)

theorem NoneNew.regroupAll {team : Nat} (h : NoneNew r s) : NoneNew r (regroupAll s team) := by
  unfold Machine.regroupAll
  split
  · exact h
  · exact h.regroupTimes

theorem regroupAll_of_noTeam {team : Nat} (ht : s.teams.find? team = none) : regroupAll s team = s := by
  unfold regroupAll
  rw [ht]

end

end Sys2Proof.Machine
end

section
/-! exit (R90, R91, R376). -/

namespace Sys2Proof.Machine
open Sys2Proof.Claims

/-! Arithmetic that lands before a path ends. -/

/-- `t` is `s` but for what counting the instruction and landing the group's arithmetic change: its group is then `h`, its path `q`. -/
structure Landed (s : State) (g : Group) (p : Path) (t : State) (h : Group) (q : Path) : Prop where
  frame  : t = { s with pipe := t.pipe, groups := t.groups }
  others : t.groups.del s.iss.gid = s.groups.del s.iss.gid
  group  : t.group? s.iss.gid = some h
  path   : h.paths.find? s.iss.slot = some q
  same   : h = { g with s := h.s, v := h.v, m := h.m, damaged := h.damaged, fpflags := h.fpflags, paths := h.paths }
  marks  : q = { p with counted := q.counted, fpx := q.fpx }
  length : g.paths.length ≤ h.paths.length
  sole   : g.paths = [(s.iss.slot, p)] → h.paths = [(s.iss.slot, q)]

section
variable {s t : State} {g h : Group} {p q : Path}

theorem marked_pipe (s : State) (p : Path) : (marked s p).pipe = s.pipe := by unfold marked; split <;> rfl

theorem landed_marked (hi : Issuing s g p) : ∃ h q, Landed s g p (marked s p) h q := by
  obtain ⟨G, x, b, hG, hm⟩ := marked_eq hi
  rw [hG]
  exact ⟨{ g with paths := x }, { p with counted := b }, rfl, hm.groups, hm.group, hm.path, rfl, rfl, hm.length, hm.sole⟩

/-- A result that lands: registers and flags of its group, and the trap FPX that may become due of its path (R27). -/
theorem landE_of {e : PipeE} (hg : t.group? e.gid = some h) :
    ∃ k, landE t e = { t with groups := t.groups.put e.gid k } ∧
      k = { h with s := k.s, v := k.v, m := k.m, damaged := k.damaged, fpflags := k.fpflags, paths := k.paths } ∧
      ∃ f : Path → Path, (∀ x, f x = { x with fpx := (f x).fpx }) ∧ (k.paths = h.paths ∨ k.paths = h.paths.adjust e.slot f) := by
  have hf := Group.puts_frame e.writes h
  refine ⟨_, modGroup_of hg _, ?_, ?_⟩ <;> dsimp only
  · rw [hf]; split_ifs <;> rfl
  · split_ifs
    · exact ⟨id, fun _ => rfl, .inl (by rw [hf])⟩
    · refine ⟨_, fun x => ?_, .inr (by rw [Group.modPath, hf])⟩
      split_ifs <;> rfl

theorem Landed.landE (hl : Landed s g p t h q) {e : PipeE} (he : e.gid = s.iss.gid) : ∃ h q, Landed s g p (landE t e) h q := by
  obtain ⟨k, hk, hsame, f, hf, hpaths⟩ := landE_of (he ▸ hl.group)
  have hsame' : k = { g with s := k.s, v := k.v, m := k.m, damaged := k.damaged, fpflags := k.fpflags, paths := k.paths } :=
    hsame.trans (by rw [hl.same])
  rw [hk, he]
  have hframe : ∀ G, { t with groups := G } = { s with pipe := t.pipe, groups := G } := fun G => by rw [hl.frame]
  have hothers : (t.groups.put s.iss.gid k).del s.iss.gid = s.groups.del s.iss.gid := (SMap.del_put _ _ _).trans hl.others
  have hfind : (h.paths.adjust e.slot f).find? s.iss.slot = some (if s.iss.slot = e.slot then f q else q) := by
    rw [SMap.find?_adjust]
    split_ifs with hs
    · rw [← hs, hl.path]; rfl
    · exact hl.path
  rcases hpaths with hp | hp
  · exact ⟨k, q, hframe _, hothers, group_put_self _ _ _, hp ▸ hl.path, hsame', hl.marks,
      hp ▸ hl.length, fun e => hp ▸ hl.sole e⟩
  · refine ⟨k, _, hframe _, hothers, group_put_self _ _ _, hp ▸ hfind, hsame', ?_, ?_, fun hs => ?_⟩
    · split_ifs
      · rw [hf, hl.marks]
      · exact hl.marks
    · rw [hp]; exact hl.length.trans (SMap.length_le_adjust _ _ _)
    · rw [hp, hl.sole hs, SMap.adjust_singleton]

/-- The group's arithmetic lands, in issue order. -/
theorem Landed.landGroup (hl : Landed s g p t h q) : ∃ h q, Landed s g p (landGroup t s.iss.gid) h q := by
  have hall (l : List PipeE) (hgid : ∀ e ∈ l, e.gid = s.iss.gid) {u : State} {h : Group} {q : Path} (hu : Landed s g p u h q) :
      ∃ h q, Landed s g p (l.foldl Machine.landE u) h q := by
    induction l generalizing u h q with
    | nil => exact ⟨h, q, hu⟩
    | cons e l ih =>
      obtain ⟨h', q', hu'⟩ := hu.landE (hgid e (by simp))
      exact ih (fun x hx => hgid x (by simp [hx])) hu'
  exact hall _ (fun e he => by simpa using (List.mem_filter.mp he).2) ⟨by rw [hl.frame], hl.others, hl.group, hl.path, hl.same,
    hl.marks, hl.length, hl.sole⟩

theorem landGroup_pipe (t : State) (gid : Nat) : (landGroup t gid).pipe = t.pipe.filter fun e => e.gid ≠ gid := by
  have hall (l : List PipeE) (u : State) : (l.foldl Machine.landE u).pipe = u.pipe := by
    induction l generalizing u with
    | nil => rfl
    | cons e l ih => exact (ih _).trans rfl
  exact hall _ _

/-! The end of a path, its group's arithmetic having landed. -/

/-- The live lanes of the group without those of the path that ends. -/
def livesOn (g : Group) (p : Path) : W32 := g.live &&& ~~~p.mask

/-- R90 step 3: no other path is left, or none with live lanes. -/
theorem endPath_of_last (hl : Landed s g p (landGroup t s.iss.gid) h q)
    (hlast : h.paths.length ≤ 1 ∨ livesOn g p = 0) :
    endPath t s.iss.gid s.iss.slot =
      regroupAll (retire ((landGroup t s.iss.gid).modGroup s.iss.gid fun x => { x with live := livesOn g p }) s.iss.gid) g.team := by
  have hlive : h.live &&& ~~~q.mask = livesOn g p := by rw [hl.same, hl.marks]; rfl
  have hteam : h.team = g.team := by rw [hl.same]
  unfold endPath
  simp only [hl.group, hl.path, hlive, hteam, Bool.or_eq_true, decide_eq_true_eq, if_pos hlast]

/-- The state in which the path has been removed, its reserve returned and its lanes ended. -/
def pathRemoved (s : State) (g : Group) (p : Path) (t : State) : State :=
  (freeReserve t s.iss.gid s.iss.slot).modGroup s.iss.gid fun x =>
    { x with live := livesOn g p, paths := x.paths.del s.iss.slot }

/-- R90 step 2: the group runs on without the path. -/
theorem endPath_of_others (hl : Landed s g p (landGroup t s.iss.gid) h q)
    (hmore : ¬(h.paths.length ≤ 1 ∨ livesOn g p = 0)) :
    endPath t s.iss.gid s.iss.slot =
      regroupAll (recount (meets 200 (closeRanks (endedOps (pathRemoved s g p (landGroup t s.iss.gid)) s.iss.gid s.iss.slot)
        s.iss.gid s.iss.slot p.parent) s.iss.gid) g.team) g.team := by
  have hlive : h.live &&& ~~~q.mask = livesOn g p := by rw [hl.same, hl.marks]; rfl
  have hteam : h.team = g.team := by rw [hl.same]
  have hparent : q.parent = p.parent := by rw [hl.marks]
  unfold endPath
  simp only [hl.group, hl.path, hlive, hteam, hparent, Bool.or_eq_true, decide_eq_true_eq, if_neg hmore, pathRemoved]

theorem pathRemoved_live (hl : Landed s g p t h q) :
    ((pathRemoved s g p t).group? s.iss.gid).map Group.live = some (livesOn g p) := by
  obtain ⟨y, hy, -⟩ := Option.map_eq_some_iff.mp
    (((SameLive.refl t).freeReserve.live s.iss.gid).trans (congrArg _ hl.group))
  rw [pathRemoved, modGroup_of hy, group_put_self, Option.map_some]

theorem pathRemoved_teams (hl : Landed s g p t h q) : (pathRemoved s g p t).teams = s.teams :=
  (SameLive.refl t).freeReserve.teams.trans (by rw [hl.frame])

theorem freeReserve_of_empty {gid slot : Nat} (hq : t.path? gid slot = some q) (he : q.reserve = []) :
    freeReserve t gid slot = t := by
  unfold freeReserve
  split
  · next hp => cases hq.symm.trans hp; rw [he]; rfl
  · rfl

/-- RETIREMENT of a group on its own: it holds no reserve, bundle or place in a gang, and is of no team and no request. -/
theorem retire_of_sole {gid slot : Nat} (hg : t.group? gid = some h) (hpaths : h.paths = [(slot, q)]) (hreserve : q.reserve = [])
    (hbundle : h.bundle = none) (hgang : gangLists (t.quad h.place.quadIx).gang h.place = false) (hkind : h.kind = .grid)
    (hreq : t.reqs.find? h.req = none) (hteam : t.teams.find? h.team = none) :
    retire t gid = { t with
      groups := t.groups.del gid
      pipe := t.pipe.filter fun e => e.gid ≠ gid
      kernels := t.kernels.adjust h.kernel kernelLess } := by
  have hq : t.path? gid slot = some q := by
    rw [State.path?, hg, Option.bind_some, hpaths, SMap.find?_cons, if_pos rfl]
  unfold retire
  split
  · next hn => cases hg.symm.trans hn
  · next x hx =>
    cases hg.symm.trans hx
    extract_lets s1 s2 s3 s4 s5
    have h1 : s1 = t := by
      simp only [s1, hpaths, List.foldl_cons, List.foldl_nil]
      exact freeReserve_of_empty hq hreserve
    have h2 : s2 = t := by simp only [s2, abandonOpen, hbundle, h1]
    have h3 : s3 = { t with groups := t.groups.del gid, pipe := t.pipe.filter fun e => e.gid ≠ gid } := by simp only [s3, h2]
    have h4 : s4 = s3 := by
      have hq3 : s3.quad h.place.quadIx = t.quad h.place.quadIx := by rw [h3]; rfl
      simp only [s4, hq3, hgang, Bool.and_false, Bool.false_eq_true, if_false]
    have h5 : s5 = { s3 with kernels := t.kernels.adjust h.kernel kernelLess } := by
      have hr : s3.reqs.find? h.req = none := by rw [h3]; exact hreq
      simp only [s5, h4, hr, hkind, if_true]
      rw [h3]
    rw [h5, h3]
    split
    · rfl
    · next hs => cases hteam.symm.trans hs

end

/-! exit, by its cases. -/

section
variable {s : State} {g : Group} {p : Path}

/-- R91: no frame, no inlined frame's code and no spawned group. -/
structure MayEnd (g : Group) (p : Path) : Prop where
  saved   : p.saved = none
  frames  : p.frames = []
  inl     : p.inl = false
  spawned : ∀ f, g.kind ≠ .spawned f

/-- exit of a path that owns no stack entry ends it. -/
theorem exec_exit_ends (h : Admitted { acc := {}, who := .notHandler } s g p) (hm : MayEnd g p) (hn : p.nent = 0) :
    exec .exit s = .next (tallied s p (endPath (marked s p) s.iss.gid s.iss.slot)) := by
  refine ((gated_admitted h _).trans ?_).trans (congrArg _ (issued_eq_tallied s p fun u => endPath u s.iss.gid s.iss.slot))
  cases hk : g.kind with
  | spawned f => exact absurd hk (hm.spawned f)
  | _ => simp [hm.saved, hm.frames, hm.inl, hn]

/-- R376: exit of a path that owns stack entries turns to the lanes of the topmost. -/
theorem exec_exit_turns (h : Admitted { acc := {}, who := .notHandler } s g p) (hm : MayEnd g p) (hn : 0 < p.nent) {i : Nat}
    {e : REntry} (hi : topEntry g s.iss.slot = some i) (he : g.rstack[i]? = some e) :
    exec .exit s = .next (tallied s p (recount (exitEntry i e p (marked s p)) g.team)) := by
  refine ((gated_admitted h _).trans ?_).trans (congrArg _ (issued_eq_tallied s p fun u => recount (exitEntry i e p u) g.team))
  cases hk : g.kind with
  | spawned f => exact absurd hk (hm.spawned f)
  | _ => simp [hm.saved, hm.frames, hm.inl, hn, hi, he]

/-- R91: exit with frames to join. -/
theorem exec_exit_joins (h : Admitted { acc := {}, who := .notHandler } s g p) (hsaved : p.saved = none)
    (hj : p.frames ≠ [] ∨ p.inl = true ∨ ∃ f, g.kind = .spawned f) :
    exec .exit s = .next (trapsBefore s g p .framejoin 0 s) := by
  have ho : Ordinary g := (Bool.not_eq_true' _).mp h.who
  refine (gated_admitted h _).trans (congrArg _ (trapsBefore_of h.toIssuing ho _ _ _ rfl rfl fun G => ?_))
  rcases hj with hf | hinl | ⟨f, hk⟩
  · simp [hsaved, hf]
  · simp [hsaved, hinl]
  · simp [hsaved, hk]

/-- R90: the group of the last path, or of the last with live lanes, is gone. -/
theorem exit_retires (h : Admitted { acc := {}, who := .notHandler } s g p) (hm : MayEnd g p) (hn : p.nent = 0)
    (hlast : g.paths.length ≤ 1 ∨ livesOn g p = 0) : ∃ t, exec .exit s = .next t ∧ t.group? s.iss.gid = none := by
  obtain ⟨h0, q0, hl0⟩ := landed_marked h.toIssuing
  obtain ⟨k, q, hl⟩ := hl0.landGroup
  have hlast' : k.paths.length ≤ 1 ∨ livesOn g p = 0 := hlast.imp_left fun hle => by
    rw [hl.sole (SMap.eq_singleton_of_find? h.path hle), List.length_singleton]
  have hgone : (endPath (marked s p) s.iss.gid s.iss.slot).group? s.iss.gid = none := by
    rw [endPath_of_last hl hlast']
    exact (NoneNew.refl _).regroupAll _ (retire_gone _ _)
  exact ⟨_, exec_exit_ends h hm hn, (congrArg (State.group? · _) (tallied_of_gone s p hgone)).trans hgone⟩

/-- R90: the group runs on without the lanes of the path, where others with live lanes are left. -/
theorem exit_runsOn (h : Admitted { acc := {}, who := .notHandler } s g p) (hm : MayEnd g p) (hn : p.nent = 0)
    (hmore : 1 < g.paths.length) (hlive : livesOn g p ≠ 0) (hteam : s.teams.find? g.team = none) :
    ∃ t x, exec .exit s = .next t ∧ t.group? s.iss.gid = some x ∧ x.live = livesOn g p := by
  obtain ⟨h0, q0, hl0⟩ := landed_marked h.toIssuing
  obtain ⟨k, q, hl⟩ := hl0.landGroup
  have hend := endPath_of_others hl (not_or.mpr ⟨Nat.not_le.mpr (hmore.trans_le hl.length), hlive⟩)
  have hown := pathRemoved_live hl
  have hteams := pathRemoved_teams hl
  generalize pathRemoved s g p (landGroup (marked s p) s.iss.gid) = v at hend hown hteams
  have hclose : SameLive v (meets 200 (closeRanks (endedOps v s.iss.gid s.iss.slot) s.iss.gid s.iss.slot p.parent) s.iss.gid) :=
    (SameLive.refl v).endedOps.closeRanks.meets
  generalize meets 200 (closeRanks (endedOps v s.iss.gid s.iss.slot) s.iss.gid s.iss.slot p.parent) s.iss.gid = w at hclose hend
  have hnone {x : State} (hx : SameLive v x) : x.teams.find? g.team = none := by rw [hx.teams, hteams]; exact hteam
  rw [recount_of_noTeam (hnone hclose), regroupAll_of_noTeam (hnone hclose.barWakeAll)] at hend
  obtain ⟨x, hx, hlx⟩ := Option.map_eq_some_iff.mp
    ((hclose.barWakeAll.tallied (x := s) (p := p)).live s.iss.gid |>.trans hown)
  exact ⟨_, x, exec_exit_ends h hm hn, hend ▸ hx, hlx⟩

/-- R90: the state after the exit of a group on its own. -/
theorem exit_of_sole (h : Admitted { acc := {}, who := .notHandler } s g p) (hm : MayEnd g p) (hn : p.nent = 0)
    (hpaths : g.paths = [(s.iss.slot, p)]) (hreserve : p.reserve = []) (hbundle : g.bundle = none)
    (hteam : s.teams.find? g.team = none) (hgang : gangLists (s.quad g.place.quadIx).gang g.place = false) (hkind : g.kind = .grid)
    (hreq : s.reqs.find? g.req = none) :
    exec .exit s = .next { s with
      groups := s.groups.del s.iss.gid
      pipe := s.pipe.filter fun e => e.gid ≠ s.iss.gid
      kernels := s.kernels.adjust g.kernel kernelLess } := by
  obtain ⟨h0, q0, hl0⟩ := landed_marked h.toIssuing
  obtain ⟨k, q, hl⟩ := hl0.landGroup
  have hk : k.paths = [(s.iss.slot, q)] := hl.sole hpaths
  have hpipe : (landGroup (marked s p) s.iss.gid).pipe = s.pipe.filter fun e => e.gid ≠ s.iss.gid := by
    rw [landGroup_pipe, marked_pipe]
  have hend := endPath_of_last hl (.inl (by rw [hk, List.length_singleton]))
  generalize landGroup (marked s p) s.iss.gid = t at hl hend hpipe
  have hlive : (t.modGroup s.iss.gid fun x => { x with live := livesOn g p }).group? s.iss.gid =
      some { k with live := livesOn g p } := by
    rw [modGroup_of hl.group, group_put_self]
  obtain ⟨P, G, rfl⟩ : ∃ P G, t = { s with pipe := P, groups := G } := ⟨_, _, hl.frame⟩
  have hret := retire_of_sole hlive hk (by rw [hl.marks]; exact hreserve) (by rw [hl.same]; exact hbundle)
    (by rw [hl.same]; exact hgang) (by rw [hl.same]; exact hkind) (by rw [hl.same]; exact hreq) (by rw [hl.same]; exact hteam)
  have hgroups : (G.adjust s.iss.gid fun x => { x with live := livesOn g p }).del s.iss.gid = s.groups.del s.iss.gid :=
    (SMap.del_adjust _ _ _).trans hl.others
  have hkernel : k.kernel = g.kernel := by rw [hl.same]
  have hfilter : P.filter (fun e => e.gid ≠ s.iss.gid) = s.pipe.filter fun e => e.gid ≠ s.iss.gid := by
    rw [show P = _ from hpipe, List.filter_filter]
    simp only [Bool.and_self]
  simp only [State.modGroup, hgroups, hfilter, hkernel] at hret
  have hgone : endPath (marked s p) s.iss.gid s.iss.slot = { s with
      groups := s.groups.del s.iss.gid
      pipe := s.pipe.filter fun e => e.gid ≠ s.iss.gid
      kernels := s.kernels.adjust g.kernel kernelLess } :=
    (hend.trans (congrArg (regroupAll · g.team) hret)).trans (regroupAll_of_noTeam hteam)
  have hnone : (endPath (marked s p) s.iss.gid s.iss.slot).group? s.iss.gid = none := by
    rw [hgone]
    exact SMap.find?_del_self _ _
  rw [exec_exit_ends h hm hn, tallied_of_gone s p hnone, hgone]

/-- The group after its path turned to the lanes that entry `i` has deferred (R376). -/
def turned (s : State) (i : Nat) (e : REntry) (p : Path) (g : Group) : Group :=
  { g with
    live := livesOn g p
    rstack := if e.phase then g.rstack.eraseIdx i else g.rstack.set i { e with dmask := 0, phase := true }
    paths := g.paths.adjust s.iss.slot fun q =>
      { q.fresh with
        mask := e.dmask, rep := 0
        pc := if e.phase then e.dpc + 4 else e.dpc
        nent := if e.phase then q.nent - 1 else q.nent } }

/-- R376: the lanes of the path leave the group, and it turns to those that the entry has deferred. -/
theorem exit_turns (h : Admitted { acc := {}, who := .notHandler } s g p) (hm : MayEnd g p) (hn : 0 < p.nent) {i : Nat}
    {e : REntry} (hi : topEntry g s.iss.slot = some i) (he : g.rstack[i]? = some e) (hteam : s.teams.find? g.team = none)
    (hready : p.cond = .ready) :
    ∃ t x, exec .exit s = .next t ∧ t.group? s.iss.gid = some x ∧ t.mem = s.mem ∧ x.live = livesOn g p ∧
      x.paths.find? s.iss.slot = some { p.fresh with
        mask := e.dmask, rep := 0, pc := if e.phase then e.dpc + 4 else e.dpc, nent := if e.phase then p.nent - 1 else p.nent } ∧
      x.rstack = if e.phase then g.rstack.eraseIdx i else g.rstack.set i { e with dmask := 0, phase := true } := by
  obtain ⟨G, x, b, hG, hmarks⟩ := marked_eq h.toIssuing
  have hv : exitEntry i e p (marked s p) = { s with groups := G.put s.iss.gid (turned s i e p { g with paths := x }) } := by
    rw [hG]
    exact modGroup_of (s := { s with groups := G }) hmarks.group _
  have hpath : (turned s i e p { g with paths := x }).paths.find? s.iss.slot = some { p.fresh with
      mask := e.dmask, rep := 0, pc := if e.phase then e.dpc + 4 else e.dpc, nent := if e.phase then p.nent - 1 else p.nent } := by
    rw [turned, SMap.find?_adjust, if_pos rfl, hmarks.path]
    rfl
  have hrun := exec_exit_turns h hm hn hi he
  have hown := group_put_self { s with groups := G } s.iss.gid (turned s i e p { g with paths := x })
  rw [hv] at hrun
  generalize hvv : ({ s with groups := G.put s.iss.gid (turned s i e p { g with paths := x }) } : State) = v at hrun hown
  have hteams : v.teams.find? g.team = none := by rw [← hvv]; exact hteam
  rw [recount_of_noTeam hteams] at hrun
  have hwoken := (group?_barWakeAll v s.iss.gid).trans (congrArg (Option.map (wokenGroup v)) hown)
  obtain ⟨n, d, hframe, -, htallied⟩ := tallied_of_group s p hwoken
  have hmem : (tallied s p (barWakeAll v)).mem = s.mem := by rw [hframe, barWakeAll_frame, ← hvv]
  have hkeeps := wokenGroup_path v (turned s i e p { g with paths := x }) s.iss.slot
  rw [hpath, Option.map_some, barWake_of_ready (by exact hready)] at hkeeps
  exact ⟨_, _, hrun, htallied, hmem, rfl, hkeeps, rfl⟩

/-! exit of a handler group: a double fault (R346). -/

@[simp] theorem postEvent_ctxs (s : State) (typ c : Nat) (body : List (Nat × Nat)) : (postEvent s typ c body).ctxs = s.ctxs := by
  unfold postEvent
  dsimp only
  split_ifs <;> rfl

/-- R364: each record takes the next sequence number, also one that is held back or lost. -/
@[simp] theorem postEvent_eqSeq (s : State) (typ c : Nat) (body : List (Nat × Nat)) :
    (postEvent s typ c body).host.eqSeq = s.host.eqSeq + 1 := by
  unfold postEvent
  dsimp only
  split_ifs <;> rfl

/-- A double fault in a resident context to which no Porter is attached: the context quiesces to saved and a record is posted. -/
theorem doubleFault_resident {slot : Nat} {c : Cause} {addr : W64} (hres : (s.ctx? g.ctx).map Ctx.st = some .resident)
    (hporter : (s.ctx? g.ctx).map Ctx.porter = some false) :
    ((doubleFault s g slot c addr).ctx? g.ctx).map Ctx.st = some .quiescing ∧
      ((doubleFault s g slot c addr).ctx? g.ctx).bind Ctx.after_ = some .save ∧
      (doubleFault s g slot c addr).host.eqSeq = s.host.eqSeq + 1 := by
  obtain ⟨x, hx, -⟩ := Option.map_eq_some_iff.mp hres
  have hq : (beginQuiesce s g.ctx .save).ctx? g.ctx = some { x with st := .quiescing, after_ := some .save } := by
    refine (SMap.find?_adjust _ _ _ _).trans ?_
    rw [if_pos rfl, show s.ctxs.find? g.ctx = some x from hx, Option.map_some]
  unfold doubleFault
  simp only [hres, hporter, if_true, Option.some.injEq, Bool.false_eq_true, if_false, postEvent_eqSeq]
  have hctx (body : List (Nat × Nat)) : (postEvent (beginQuiesce s g.ctx .save) 6 g.ctx body).ctx? g.ctx =
      some { x with st := .quiescing, after_ := some .save } := by
    rw [State.ctx?, postEvent_ctxs]
    exact hq
  rw [hctx]
  exact ⟨rfl, rfl, rfl⟩

theorem exec_exit_handler (h : Issuing s g p) (hh : g.isHandler = true) (hp : prefixOk {} s.iss.pre = true) :
    exec .exit s = .next (doubleFault s g s.iss.slot .priv s.iss.addr) := by
  have hg : gate { acc := acc0, who := .notHandler } s g p = .trap .priv 0 := by
    simp [gate, acc0, hp, Who.ok, hh]
  refine (gated_trap h hg (by decide) _).trans (congrArg _ ?_)
  simp only [trapAt, trapPath, h.group, hh, if_true]

end

/-- Settles O19: exit of the last path, of one among others, of a group on its own, of a path with stack entries, of one with frames to
join, and of a handler group. -/
theorem exitResults : Obligations.ExitResults := by
  intro s g p
  refine ⟨fun h hsaved hframes hinl hspawned => ?_, exec_exit_joins, fun h hh hp hres hporter => ?_⟩
  · have hm : MayEnd g p := ⟨hsaved, hframes, hinl, hspawned⟩
    exact ⟨exit_retires h hm, exit_runsOn h hm, fun hn hpaths hreserve hbundle _ hteam hgang hkind hreq =>
      exit_of_sole h hm hn hpaths hreserve hbundle hteam hgang hkind hreq,
      fun i e hn hi he hteam hready => exit_turns h hm hn hi he hteam hready⟩
  · exact ⟨_, exec_exit_handler h hh hp, doubleFault_resident hres hporter⟩

end Sys2Proof.Machine
end

section
/-! Vector results, lane by lane and sub-element by sub-element (R25, R27, R92). -/

namespace Sys2Proof.Machine
open Sys2Proof.Claims

/-! The lanes and draws of an instruction. -/

theorem actLanes_nodup (s : State) (g : Group) (p : Path) : (actLanes s g p).Nodup := lanesOf_nodup _

@[simp] theorem drawn_zero (s : State) (g : Group) : drawn s g 0 = [] := if_neg fun h => h.1 rfl

@[simp] theorem drawnFrom_zero (s : State) (g : Group) : drawnFrom s g 0 = s := if_neg fun h => h.1 rfl

/-- Only .sr draws (R25). -/
theorem withDraws_of_ne {mode : Nat} (h : mode ≠ 5) (n : Nat) (g : Group) (s : State) (k : List Nat → State → State) :
    withDraws mode n g s k = k [] s := if_neg fun hc => h hc.1

/-- R25: a lane's draws are numbered by where the lane stands among the acting ones. -/
theorem vecF_actLanes (s : State) (g : Group) (p : Path) (n : Nat) (ds : List Nat) (f : Nat → Nat → Nat → Nat × Nat) :
    vecF n (actLanes s g p) ds f =
      (actLanes s g p).map fun l => (l, (List.range n).map fun e => f (drawOf s g p n ds l e) l e) :=
  zipIdx_map_idxOf (actLanes_nodup s g p) fun l k => (l, (List.range n).map fun e => f (ds.getD (k * n + e) 0) l e)

theorem vecWrites_vecF (s : State) (g : Group) (p : Path) (d w : Nat) (ds : List Nat) (f : Nat → Nat → Nat → Nat × Nat) :
    vecWrites d w (vecF (64 / w) (actLanes s g p) ds f) =
      vWrites d (actLanes s g p) fun l => mapE w fun e => (f (drawOf s g p (64 / w) ds l e) l e).1 := by
  simp only [vecF_actLanes, vecWrites, vWrites, mapE, List.map_map, Function.comp_def]

theorem vecFlags_vecF (s : State) (g : Group) (p : Path) (n : Nat) (ds : List Nat) (f : Nat → Nat → Nat → Nat × Nat) :
    vecFlags (vecF n (actLanes s g p) ds f) = allFlags s g p n fun l e => (f (drawOf s g p n ds l e) l e).2 := by
  simp only [vecF_actLanes, vecFlags, orAll, allFlags, List.flatMap_map, List.map_map, Function.comp_def]

/-! The sub-elements of a result. -/

theorem elem_lt (w : Nat) (x : W64) (e : Nat) : elem w x e < 2 ^ w := Nat.mod_lt _ (Nat.two_pow_pos w)

theorem packN_congr (w : Nat) {f h : Nat → Nat} (l : List Nat) (hfh : ∀ e, f e % 2 ^ w = h e % 2 ^ w) :
    packN w (l.map f) = packN w (l.map h) := by
  induction l with
  | nil => rfl
  | cons e l ih => simp only [List.map_cons, packN, hfh e, ih]

/-- A result is cut to the width of its sub-element. -/
theorem mapE_congr {w : Nat} {f h : Nat → Nat} (hfh : ∀ e, f e % 2 ^ w = h e % 2 ^ w) : mapE w f = mapE w h :=
  congrArg (BitVec.ofNat 64) (packN_congr w _ hfh)

/-- Two results of a sub-element of width `w`, with their flags, come to the same. -/
def SameResult (w : Nat) (x y : Nat × Nat) : Prop := x.1 % 2 ^ w = y.1 % 2 ^ w ∧ x.2 = y.2

theorem SameResult.of_eq {w : Nat} {x y : Nat × Nat} (h : x = y) : SameResult w x y := h ▸ ⟨rfl, rfl⟩

/-! Completion. -/

/-- The outcome `o` of an instruction is a next state with exactly the effect `e`. -/
def Reaches (s : State) (g : Group) (p : Path) (e : Effect) (o : Out) : Prop :=
  ∃ t, o = .next t ∧ Computes s (drawnFrom s g e.draws) t g p e.adm.wr (e.rs (drawn s g e.draws)) (e.rv (drawn s g e.draws))
    (e.rm (drawn s g e.draws)) (e.fl (drawn s g e.draws))

section
variable {s : State} {g : Group} {p : Path} {e : Effect} {acc : Acc} {rd : List RegN} {d w : Nat}
  {k : Group → Path → State → State}

/-- AN EFFECT ON ONE VECTOR REGISTER, with its draws. -/
theorem reaches_vector {f : List Nat → Nat → W64} {n : Nat} {fl : List Nat → Nat}
    (he : e = { adm := { acc := acc, rd := rd, wr := vR [d] }, draws := n, rs := fun _ => rS g,
                rv := fun ds => setV s g p d (f ds), rm := fun _ m => g.m.get 0 m, fl := fl })
    (h : Admitted e.adm s g p) (hp : s.pipeHold = false)
    (hk : ∀ G, k g p { s with groups := G } = land (vWrites d (actLanes s g p) (f (drawn s g n))) (fl (drawn s g n))
      { drawnFrom s g n with groups := G }) :
    Reaches s g p e (gated { acc := acc, rd := rd, wr := vR [d] } s k) := by
  subst he
  have hF : drawnFrom s g n = { drawnFrom s g n with fresh := s.fresh } := by rw [drawnFrom_frame]
  unfold Reaches
  dsimp only
  rw [hF]
  exact computes_vector h rfl hp d n s.fresh _ _ k fun G => by rw [hk, hF]

/-- A VECTOR REGISTER WRITTEN lane by lane, without flags (R98). -/
theorem reaches_lanes {f : Nat → W64} (he : effV s g p acc rd d f = some e) (h : Admitted e.adm s g p)
    (hp : s.pipeHold = false) (hk : k g p = land (vWrites d (actLanes s g p) f) 0) :
    Reaches s g p e (gated { acc := acc, rd := rd, wr := vR [d] } s k) :=
  reaches_vector (f := fun _ => f) (fl := fun _ => 0) (Option.some.inj he).symm h hp fun G => by
    rw [hk, drawnFrom_zero]

/-- A VECTOR REGISTER WRITTEN sub-element by sub-element, without draws (R92). -/
theorem reaches_elements {f r : Nat → Nat → Nat × Nat} (he : effE s g p acc rd d w f = some e) (h : Admitted e.adm s g p)
    (hp : s.pipeHold = false)
    (hk : k g p = land (vecWrites d w (vecF (64 / w) (actLanes s g p) [] fun _ => r))
      (vecFlags (vecF (64 / w) (actLanes s g p) [] fun _ => r)))
    (hr : ∀ l x, SameResult w (r l x) (f l x)) :
    Reaches s g p e (gated { acc := acc, rd := rd, wr := vR [d] } s k) := by
  refine reaches_vector (f := fun _ l => mapE w fun x => (f l x).1) (fl := fun _ => allFlags s g p (64 / w) fun l x => (f l x).2)
    (Option.some.inj he).symm h hp fun G => ?_
  have hval : ∀ l, (mapE w fun x => (r l x).1) = mapE w fun x => (f l x).1 := fun l => mapE_congr fun x => (hr l x).1
  have hflags : ∀ l x, (r l x).2 = (f l x).2 := fun l x => (hr l x).2
  rw [hk, vecWrites_vecF, vecFlags_vecF, drawnFrom_zero]
  simp only [hval, hflags]

/-- A ROUNDING INSTRUCTION: each sub-element takes its draw (R25, R92). -/
theorem reaches_rounded {f : Nat → Nat → Nat → Nat × Nat} (he : effR s g p acc rd d w f = some e) (h : Admitted e.adm s g p)
    (hp : s.pipeHold = false)
    (hk : k g p = fun u => withDraws (rmode s g) (64 / w * (actLanes s g p).length) g u fun ds =>
      land (vecWrites d w (vecF (64 / w) (actLanes s g p) ds f)) (vecFlags (vecF (64 / w) (actLanes s g p) ds f))) :
    Reaches s g p e (gated { acc := acc, rd := rd, wr := vR [d] } s k) :=
  reaches_vector (f := fun ds l => mapE w fun x => (f (drawOf s g p (64 / w) ds l x) l x).1)
    (fl := fun ds => allFlags s g p (64 / w) fun l x => (f (drawOf s g p (64 / w) ds l x) l x).2)
    (Option.some.inj he).symm h hp fun G => by
      simp only [hk, withDraws_eq, vecWrites_vecF, vecFlags_vecF]

end

end Sys2Proof.Machine
end

section
/-! Integer vector instructions (R92 to R101, R109). -/

namespace Sys2Proof.Machine
open Sys2Proof.Claims

/-! The values, where the model and the statement write them differently. -/

theorem wrap_lt (w : Nat) (i : Int) : wrap w i < 2 ^ w := by
  have hlt := Int.emod_lt_of_pos i (by positivity : (0 : Int) < 2 ^ w)
  have hcast : ((2 ^ w : Nat) : Int) = 2 ^ w := by norm_cast
  unfold wrap
  omega

/-- A natural number congruent to `i` has the low bits of `i`. -/
theorem mod_eq_wrap {w n : Nat} {i : Int} (h : (n : Int) ≡ i [ZMOD 2 ^ w]) : n % 2 ^ w = wrap w i % 2 ^ w := by
  rw [Nat.mod_eq_of_lt (wrap_lt w i), wrap, ← h]
  norm_cast

theorem add_mod_eq_wrap (w x y : Nat) : (x + y) % 2 ^ w = wrap w (x + y) % 2 ^ w :=
  mod_eq_wrap (by rw [Nat.cast_add])

theorem mul_mod_eq_wrap (w x y : Nat) : x * y % 2 ^ w = wrap w (x * y) % 2 ^ w :=
  mod_eq_wrap (by rw [Nat.cast_mul])

/-- R96: the model keeps a difference of codes from going below zero. -/
theorem sub_mod_eq_wrap {w y : Nat} (x : Nat) (hy : y < 2 ^ w) : (2 ^ w + x - y) % 2 ^ w = wrap w (x - y) % 2 ^ w :=
  mod_eq_wrap (by
    rw [Nat.cast_sub (by omega), Nat.cast_add, add_sub_assoc]
    exact_mod_cast Int.add_modEq_left)

theorem neg_mod_eq_wrap {w x : Nat} (hx : x < 2 ^ w) : (2 ^ w - x) % 2 ^ w = wrap w (-(x : Int)) % 2 ^ w := by
  simpa using sub_mod_eq_wrap 0 hx

/-- R97: a sum clamped between bounds. -/
theorem clampSat_eq (w : Nat) {lo hi : Int} (h : lo ≤ hi) (i : Int) :
    clampSat w lo hi i = (wrap w (max lo (min hi i)), if lo ≤ i ∧ i ≤ hi then 0 else fSAT) := by
  unfold clampSat
  split_ifs with hlo hin hhi hin hin
  · omega
  · rw [max_eq_left (by omega)]; rfl
  · omega
  · rw [min_eq_left hhi.le, max_eq_right h]; rfl
  · rw [min_eq_right (not_lt.mp hhi), max_eq_right (not_lt.mp hlo)]; rfl
  · omega

theorem zero_le_two_pow_sub_one (w : Nat) : (0 : Int) ≤ 2 ^ w - 1 := sub_nonneg.mpr (one_le_pow₀ one_le_two)

theorem neg_two_pow_le (w : Nat) : (-2 ^ w : Int) ≤ 2 ^ w - 1 :=
  (neg_nonpos.mpr (by positivity)).trans (zero_le_two_pow_sub_one w)

theorem wOf_pos (c : Nat) : 0 < wOf c := by unfold wOf; positivity

/-- R16: the integer of a code, by the code's low bits. -/
theorem toI_eq (w x : Nat) :
    toI w x = if 2 * (x % 2 ^ w) < 2 ^ w then ((x % 2 ^ w : Nat) : Int) else ((x % 2 ^ w : Nat) : Int) - (2 ^ w : Nat) := by
  unfold toI
  push_cast
  rfl

/-- R97: but for the least integer, what vneg makes of a code denotes the negated integer. -/
theorem toI_wrap_neg {w y : Nat} (hw : 0 < w) (hy : y < 2 ^ w) (hleast : y ≠ 2 ^ (w - 1)) :
    toI w (wrap w (-(y : Int))) = -toI w y := by
  have hdouble : 2 ^ w = 2 * 2 ^ (w - 1) := (mul_pow_sub_one hw.ne' 2).symm
  rw [toI_eq, toI_eq, ← neg_mod_eq_wrap hy, Nat.mod_eq_of_lt hy]
  generalize 2 ^ (w - 1) = half at *
  generalize 2 ^ w = full at *
  rcases Nat.eq_zero_or_pos y with rfl | hpos
  · simp [hy]
  · rw [Nat.mod_eq_of_lt (by omega)]
    split_ifs <;> omega

/-- R101: vtom writes a mask register, and has the number of a sub-element to check. -/
theorem vtom_reaches {s : State} {g : Group} {p : Path} {e : Effect} {d a x : Nat} (he : vectorEffect s g p (.vtom d a x) = some e)
    (h : Admitted e.adm s g p) (hp : s.pipeHold = false) : Reaches s g p e (exec (.vtom d a x) s) := by
  obtain rfl := Option.some.inj he
  exact computes_of h rfl hp [.m d _] 0 s.parts s.fresh _ (fun _ => rfl) (rS_puts_m g d _)
    (fun n l _ => rV_puts_m g d _ n l) (fun _ hn => m_puts_m g d _ hn) (by simp [cellReg, RegW.cell, mR])

/-- Settles O2, instruction by instruction: where the model computes the value of the table as it stands there, the write is that
of `reaches_elements` or `reaches_lanes`; elsewhere the two forms of the value agree in the sub-element's bits. -/
theorem integerVectorResults : Obligations.IntegerVectorResults := by
  refine ⟨fun i s g p e he h hp => ?_, fun c _ x y hy hleast => ?_⟩
  · cases i
    case vmulhI | vmulhN | vminI | vminN | vmaxI | vmaxN | vavgN | vshr | vsar | vpop | vclz | vceq | vcne | vcltI | vcltN |
        vcleI | vcleN =>
      exact reaches_elements he h hp rfl fun _ _ => ⟨rfl, rfl⟩
    case vadd => exact reaches_elements he h hp rfl fun _ _ => ⟨add_mod_eq_wrap _ _ _, rfl⟩
    case vsub => exact reaches_elements he h hp rfl fun _ _ => ⟨sub_mod_eq_wrap _ (elem_lt _ _ _), rfl⟩
    case vmul => exact reaches_elements he h hp rfl fun _ _ => ⟨mul_mod_eq_wrap _ _ _, rfl⟩
    case vneg => exact reaches_elements he h hp rfl fun _ _ => ⟨neg_mod_eq_wrap (elem_lt _ _ _), rfl⟩
    case vabs => exact reaches_elements he h hp rfl fun _ _ => .of_eq (congrArg (wrap _ · , 0) (Int.natCast_natAbs _))
    case vshl => exact reaches_elements he h hp rfl fun _ _ => ⟨(Nat.mod_mod _ _).symm, rfl⟩
    case vaddSatI => exact reaches_elements he h hp rfl fun _ _ => .of_eq (clampSat_eq _ (neg_two_pow_le _) _)
    case vaddSatN =>
      exact reaches_elements he h hp rfl fun _ _ => .of_eq (by simp only [clampSat_eq _ (zero_le_two_pow_sub_one _), Nat.cast_add])
    case vand | vor | vxor | vandn | vsel | vnot | vmov | mtov | vaddi | vmovi | vsplat => exact reaches_lanes he h hp rfl
    case vtom => exact vtom_reaches he h hp
    all_goals cases he
  · rw [toI_wrap_neg (wOf_pos c) hy hleast, sub_eq_add_neg]

end Sys2Proof.Machine
end

section
/-! Floating-point vector instructions (R102 to R106, R112 to R114). -/

namespace Sys2Proof.Machine
open Sys2Proof.Claims

/-- The code of a sub-element, read with DAZ (R28). -/
def codeOf (g : Group) (t : Fmt) (r l x : Nat) : Nat := t.daz g.daz (elem t.bits (rV g r l) x)

/-- Its exact value. -/
def numOf (g : Group) (t : Fmt) (r l x : Nat) : FV := t.val (codeOf g t r l x)

/-- One rounding of an exact value, with the flags of both (R33). -/
def roundOf (s : State) (g : Group) (t : Fmt) (dr : Nat) (v : FV × Nat) : Nat × Nat :=
  ((v.1.round t (rmode s g) dr g.ftz).1, v.2 ||| (v.1.round t (rmode s g) dr g.ftz).2)

section
variable {s : State} {g : Group} {p : Path} {e : Effect} {t : Fmt} {d a b : Nat}

/-- R33, R102: an exact operation on sub-elements, rounded once. -/
theorem fArith_reaches {tri : Bool} (op : Nat → FV → FV → FV → FV × Nat)
    (he : effR s g p accR3 (vR (if tri then [a, b, d] else [a, b])) d t.bits (fun dr l x =>
      roundOf s g t dr (op (rmode s g) (numOf g t a l x) (numOf g t b l x) (numOf g t d l x))) = some e)
    (h : Admitted e.adm s g p) (hp : s.pipeHold = false) : Reaches s g p e (fArith t tri d a b s op) :=
  reaches_rounded he h hp rfl

/-- R103: a minimum or maximum, with FTZ on the result. -/
theorem fMinMax_reaches {mx num : Bool}
    (he : effE s g p accV3 (vR [a, b]) d t.bits (fun l x =>
      let v := t.minMax mx num (codeOf g t a l x) (codeOf g t b l x)
      ((t.flush g.ftz v.1).1, v.2 ||| (t.flush g.ftz v.1).2)) = some e)
    (h : Admitted e.adm s g p) (hp : s.pipeHold = false) : Reaches s g p e (fMinMax t mx num d a b s) :=
  reaches_elements he h hp rfl fun _ _ => .of_eq rfl

/-- R105: a relation, as all ones or zero. -/
theorem fCmp_reaches {rel : Nat}
    (he : effE s g p accV3 (vR [a, b]) d t.bits (fun l x =>
      (if (fRel t rel (codeOf g t a l x) (codeOf g t b l x)).1 then 2 ^ t.bits - 1 else 0,
        (fRel t rel (codeOf g t a l x) (codeOf g t b l x)).2)) = some e)
    (h : Admitted e.adm s g p) (hp : s.pipeHold = false) : Reaches s g p e (fCmp t rel d a b s) :=
  reaches_elements he h hp rfl fun _ _ => .of_eq rfl

/-- R106: a form on the bits of the sub-elements. -/
theorem fBits_reaches {un : Bool} (op : Fmt → Nat → Nat → Nat)
    (he : effV s g p (if un then accV2 else accV3) (vR (if un then [a] else [a, b])) d (fun l =>
      mapE t.bits fun x => op t (elem t.bits (rV g a l) x) (elem t.bits (rV g b l) x)) = some e)
    (h : Admitted e.adm s g p) (hp : s.pipeHold = false) : Reaches s g p e (fBits t un d a b s (op t)) :=
  reaches_lanes he h hp rfl

/-- R112: a helper on one source. -/
theorem helper_reaches {acc : Acc} {f : FV → Nat × Nat}
    (he : effE s g p acc (vR [a]) d 32 (fun l x => f (numOf g F32 a l x)) = some e)
    (h : Admitted e.adm s g p) (hp : s.pipeHold = false) : Reaches s g p e (helper acc d a s f) :=
  reaches_elements he h hp rfl fun _ _ => .of_eq rfl

end

/-- Settles O3, instruction by instruction: each is its shared operation, at the format, exact operation or relation of its table. -/
theorem floatVectorResults : Obligations.FloatVectorResults := by
  intro i s g p e he h hp
  cases i
  -- arithmetic, rounded once
  case vfmaF32 | vfmaF16 | vfmaBf16 => exact fArith_reaches (fun m x y z => x.fma m y z) he h hp
  case vfmsF32 | vfmsF16 | vfmsBf16 => exact fArith_reaches (fun m x y z => x.fma m y z.neg) he h hp
  case vfnmaF32 | vfnmaF16 | vfnmaBf16 => exact fArith_reaches (fun m x y z => x.neg.fma m y z) he h hp
  case vfaddF32 | vfaddF16 | vfaddBf16 => exact fArith_reaches (fun m x y _ => x.add m y) he h hp
  case vfsubF32 | vfsubF16 | vfsubBf16 => exact fArith_reaches (fun m x y _ => x.add m y.neg) he h hp
  case vfmulF32 | vfmulF16 | vfmulBf16 => exact fArith_reaches (fun _ x y _ => x.mul y) he h hp
  -- minima, maxima and relations
  case vfminF32 | vfminF16 | vfminBf16 | vfmaxF32 | vfmaxF16 | vfmaxBf16 | vfminnumF32 | vfminnumF16 | vfminnumBf16 |
      vfmaxnumF32 | vfmaxnumF16 | vfmaxnumBf16 =>
    exact fMinMax_reaches he h hp
  case vfceqF32 | vfceqF16 | vfceqBf16 | vfcltF32 | vfcltF16 | vfcltBf16 | vfcleF32 | vfcleF16 | vfcleBf16 | vfcunF32 |
      vfcunF16 | vfcunBf16 =>
    exact fCmp_reaches he h hp
  -- forms on the bits
  case vfabsF32 | vfabsF16 | vfabsBf16 => exact fBits_reaches (fun t x _ => x % t.top) he h hp
  case vfnegF32 | vfnegF16 | vfnegBf16 => exact fBits_reaches (fun t x _ => x ^^^ t.top) he h hp
  case vfclassF32 | vfclassF16 | vfclassBf16 => exact fBits_reaches (fun t x _ => t.class_ x) he h hp
  case vfcopysignF32 | vfcopysignF16 | vfcopysignBf16 =>
    exact fBits_reaches (fun t x y => x % t.top + y / t.top * t.top) he h hp
  -- helpers
  case vrcpSeed | vrsqSeed | vexpRed | vlogRed | vscRed | vgetexp | vgetman | vfrac => exact helper_reaches he h hp
  case vldexp d a b =>
    exact reaches_rounded (w := 32)
      (f := fun dr l x => ldexp (rmode s g) dr g.ftz (toI 32 (elem 32 (rV g b l) x)) (numOf g F32 a l x)) he h hp rfl
  case vfrnd d a => exact reaches_rounded (w := 32) (f := fun dr l x => frnd (rmode s g) dr (numOf g F32 a l x)) he h hp rfl
  case vscFix => exact reaches_elements he h hp rfl fun _ _ => .of_eq rfl
  -- no other instruction is of this family
  all_goals cases he

end Sys2Proof.Machine
end

section
/-! Conversions (R107, R108). -/

namespace Sys2Proof.Machine
open Sys2Proof.Claims

/-! Merging a part into a register. -/

/-- The elements of a list but for a run of `n` from `a` on, which are those of another. -/
theorem take_append_drop_eq_map_range {α : Type} {N a n : Nat} (h : a + n ≤ N) (old new : Nat → α) :
    ((List.range N).map old).take a ++ (List.range n).map new ++ ((List.range N).map old).drop (a + n) =
      (List.range N).map fun e => if e < a ∨ a + n ≤ e then old e else new (e - a) := by
  obtain ⟨m, rfl⟩ := Nat.exists_eq_add_of_le h
  rw [← List.map_take, ← List.map_drop, List.range_add (n := a + n), List.drop_left' List.length_range, List.range_add (n := a),
    List.append_assoc (List.range a), List.take_left' List.length_range]
  simp only [List.map_append, List.map_map, List.append_assoc]
  refine congrArg₂ (· ++ ·) ?before (congrArg₂ (· ++ ·) ?within ?after)
  case before => exact List.map_congr_left fun e he => (if_pos (.inl (List.mem_range.mp he))).symm
  case within =>
    refine List.map_congr_left fun e he => ?_
    have hn : e < n := List.mem_range.mp he
    simp only [Function.comp_apply, Nat.add_sub_cancel_left]
    rw [if_neg (by omega)]
  case after => exact List.map_congr_left fun e _ => (if_pos (.inr (Nat.le_add_right _ _))).symm

/-! Conversions: their effect, and that they come to it. -/

/-- Results in each part of a register: those of the wider of the two widths. -/
def partLen (ws wd : Nat) : Nat := 64 / max ws wd

/-- Result `j` of lane `l`, with its flags: of a widening conversion it is that of sub-element `j` of part `q` (R107). -/
def convResult (s : State) (g : Group) (p : Path) (ws wd a q : Nat) (cv : Nat → Nat → Nat × Nat) (ds : List Nat) (l j : Nat) :
    Nat × Nat :=
  cv (drawOf s g p (partLen ws wd) ds l j) (elem ws (rV g a l) (if wd < ws then j else q * partLen ws wd + j))

/-- V(d, l) after a conversion: of a narrowing one, part `q` of it is new (R107). -/
def convLane (s : State) (g : Group) (p : Path) (ws wd d a q : Nat) (cv : Nat → Nat → Nat × Nat) (ds : List Nat) (l : Nat) : W64 :=
  mapE wd fun x =>
    if wd < ws ∧ (x < q * partLen ws wd ∨ q * partLen ws wd + partLen ws wd ≤ x) then elem wd (rV g d l) x
    else (convResult s g p ws wd a q cv ds l (if wd < ws then x - q * partLen ws wd else x)).1

/-- What a conversion is to do. -/
def convEff (s : State) (g : Group) (p : Path) (acc : Acc) (ws wd d a q : Nat) (cv : Nat → Nat → Nat × Nat) : Effect :=
  { adm := { acc := acc, rd := vR (if wd < ws then [a, d] else [a]), wr := vR [d] }
    draws := if acc.rnd then partLen ws wd * (actLanes s g p).length else 0
    rs := fun _ => rS g
    rm := fun _ n => g.m.get 0 n
    rv := fun ds => setV s g p d (convLane s g p ws wd d a q cv ds)
    fl := fun ds => allFlags s g p (partLen ws wd) (fun l j => (convResult s g p ws wd a q cv ds l j).2) }

/-- A form that rounds takes its draws, the others none (R25). -/
theorem withDraws_rounding (rnd : Bool) (s : State) (g : Group) (n : Nat) (G : SMap Group) (k : List Nat → State → State) :
    let m := if rnd then n else 0
    withDraws (if rnd then rmode s g else 0) n g { s with groups := G } k = k (drawn s g m) { drawnFrom s g m with groups := G } := by
  cases rnd
  · simp [withDraws_of_ne]
  · exact withDraws_eq s g n G k

section
variable {s : State} {g : Group} {p : Path} {e : Effect} {ws wd d a q : Nat}

/-- V(d, l) with a lane's results `new` put in: of a narrowing conversion in place of part `q` (R107). -/
def merged (g : Group) (ws wd d q l : Nat) (new : List Nat) : W64 :=
  let old := elems wd (rV g d l)
  if wd < ws then ofElems wd (old.take (q * partLen ws wd) ++ new ++ old.drop (q * partLen ws wd + partLen ws wd))
  else ofElems wd new

theorem merged_eq_convLane (hq : wd < ws → q * partLen ws wd + partLen ws wd ≤ 64 / wd) (cv : Nat → Nat → Nat × Nat)
    (ds : List Nat) (l : Nat) :
    merged g ws wd d q l ((List.range (partLen ws wd)).map fun j => (convResult s g p ws wd a q cv ds l j).1) =
      convLane s g p ws wd d a q cv ds l := by
  unfold merged convLane mapE
  split_ifs with hw
  · simp only [elems, take_append_drop_eq_map_range (hq hw), hw, true_and]
  · have hlen : partLen ws wd = 64 / wd := by rw [partLen, max_eq_right (not_lt.mp hw)]
    simp only [hlen, hw, false_and, if_false]

/-- Each acting lane is written with what `F` makes of its results. -/
theorem laneWrites_vecF (n : Nat) (ds : List Nat) (f : Nat → Nat → Nat → Nat × Nat) (F : Nat → List Nat → W64) :
    ((vecF n (actLanes s g p) ds f).map fun x => RegW.v d x.1 (F x.1 (x.2.map Prod.fst))) =
      vWrites d (actLanes s g p) fun l => F l ((List.range n).map fun j => (f (drawOf s g p n ds l j) l j).1) := by
  simp only [vecF_actLanes, vWrites, List.map_map, Function.comp_def]

/-- R107, R108: a conversion `cvt` into part `q`, or of part `q`. -/
theorem vCvt_reaches {rnd : Bool} (cvt : Group → Nat → Nat → Nat × Nat)
    (he : some (convEff s g p (if rnd then accR2 else accV2) ws wd d a q (cvt g)) = some e)
    (hq : wd < ws → q * partLen ws wd + partLen ws wd ≤ 64 / wd) (h : Admitted e.adm s g p) (hp : s.pipeHold = false) :
    Reaches s g p e (vCvt rnd ws wd d a q s cvt) := by
  have hacc : { (if rnd then accR2 else accV2) with rnd := rnd } = if rnd then accR2 else accV2 := by cases rnd <;> rfl
  have hrnd : (if rnd then accR2 else accV2).rnd = rnd := by cases rnd <;> rfl
  unfold vCvt
  rw [hacc]
  refine reaches_vector (f := convLane s g p ws wd d a q (cvt g))
    (fl := fun ds => allFlags s g p (partLen ws wd) fun l j => (convResult s g p ws wd a q (cvt g) ds l j).2)
    (Option.some.inj he).symm h hp fun G => ?_
  rw [hrnd]
  refine (withDraws_rounding rnd s g _ G _).trans (congrArg₂ (land · · _) ?_ (vecFlags_vecF s g p _ _ _))
  refine (laneWrites_vecF _ _ _ (merged g ws wd d q)).trans (congrArg (vWrites d _) (funext fun l => ?_))
  exact merged_eq_convLane hq (cvt g) _ l

/-- The same for a form that names one of `n` parts, which all lie in the narrower register. -/
theorem vCvt_part_reaches {rnd : Bool} {n : Nat} (cvt : Group → Nat → Nat → Nat × Nat)
    (he : (if q < n then some (convEff s g p (if rnd then accR2 else accV2) ws wd d a q (cvt g)) else none) = some e)
    (hn : wd < ws → n * partLen ws wd ≤ 64 / wd) (h : Admitted e.adm s g p) (hp : s.pipeHold = false) :
    Reaches s g p e (vCvt rnd ws wd d a q s cvt) := by
  obtain ⟨hq, he⟩ := Option.ite_none_right_eq_some.mp he
  refine vCvt_reaches cvt he (fun hw => ?_) h hp
  calc q * partLen ws wd + partLen ws wd = (q + 1) * partLen ws wd := (Nat.succ_mul _ _).symm
    _ ≤ n * partLen ws wd := Nat.mul_le_mul_right _ hq
    _ ≤ 64 / wd := hn hw

/-- f32 into a format of 16 bits, which follows FTZ (R107). -/
theorem half_reaches {f : Fmt}
    (he : (if q < 2 then some (convEff s g p accR2 32 16 d a q fun dr x =>
      (F32.val (F32.daz g.daz x)).into f (rmode s g) dr g.ftz false) else none) = some e)
    (h : Admitted e.adm s g p) (hp : s.pipeHold = false) :
    Reaches s g p e (vCvt true 32 16 d a q s fun g dr x => (F32.val (F32.daz g.daz x)).into f (rmode s g) dr g.ftz false) :=
  vCvt_part_reaches _ he (by decide) h hp

/-- f32 into a format of 8 bits or fewer (R31, R108). -/
theorem narrow_reaches {f : Fmt}
    (he : (if q < 4 then some (convEff s g p accR2 32 8 d a q fun dr x =>
      intoNarrow f (rmode s g) dr g.satf8 (s.fx g.ctx g.fxsel) (F32.val (F32.daz g.daz x))) else none) = some e)
    (h : Admitted e.adm s g p) (hp : s.pipeHold = false) :
    Reaches s g p e (vCvt true 32 8 d a q s fun g dr x =>
      intoNarrow f (rmode s g) dr g.satf8 (s.fx g.ctx g.fxsel) (F32.val (F32.daz g.daz x))) :=
  vCvt_part_reaches _ he (by decide) h hp

/-- A format of 16 bits into f32: exact, then FTZ, with NV alone (R108; log 50). -/
theorem exact_reaches {f : Fmt}
    (he : (if q < 2 then some (convEff s g p accV2 16 32 d a q fun _ x =>
      let r := (f.val (f.daz g.daz x)).into F32 0 0 false false
      ((F32.flush g.ftz r.1).1, r.2 &&& fNV)) else none) = some e)
    (h : Admitted e.adm s g p) (hp : s.pipeHold = false) :
    Reaches s g p e (vCvt false 16 32 d a q s fun g _ x =>
      let r := (f.val (f.daz g.daz x)).into F32 0 0 false false
      let z := F32.flush g.ftz r.1
      (z.1, r.2 &&& fNV)) :=
  vCvt_part_reaches _ he (by decide) h hp

/-- A format of 8 bits or fewer into f32, exactly (R108). -/
theorem widen_reaches {f : Fmt}
    (he : (if q < 4 then some (convEff s g p accV2 8 32 d a q fun _ x => (f.val x).into F32 0 0 false false) else none) = some e)
    (h : Admitted e.adm s g p) (hp : s.pipeHold = false) :
    Reaches s g p e (vCvt false 8 32 d a q s fun _ _ x => (f.val x).into F32 0 0 false false) :=
  vCvt_part_reaches _ he (by decide) h hp

/-- R108: i32 into i8 clamps. -/
theorem vcvtI8I32_reaches (he : convertEffect s g p (.vcvtI8I32 d a q) = some e) (h : Admitted e.adm s g p)
    (hp : s.pipeHold = false) : Reaches s g p e (exec (.vcvtI8I32 d a q) s) := by
  have hclamp : (fun _ x => clampSat 8 (-128) 127 (toI 32 x) : Nat → Nat → Nat × Nat) = fun _ x =>
      (wrap 8 (max (-128) (min 127 (toI 32 x))), if -128 ≤ toI 32 x ∧ toI 32 x ≤ 127 then 0 else fSAT) :=
    funext fun _ => funext fun _ => clampSat_eq 8 (by decide) _
  refine vCvt_part_reaches (rnd := false) (n := 4) (fun _ _ x => clampSat 8 (-128) 127 (toI 32 x)) ?_ (by decide) h hp
  rw [hclamp]
  exact he

end

/-- Settles O4, instruction by instruction: each is `vCvt` with the conversion of its table. -/
theorem conversionResults : Obligations.ConversionResults := by
  intro i s g p e he h hp
  cases i
  -- between f32 and the formats of 16 bits
  case vcvtF16F32 | vcvtBf16F32 => exact half_reaches he h hp
  case vcvtF32F16 | vcvtF32Bf16 => exact exact_reaches he h hp
  -- between f32 and the formats of 8 bits or fewer
  case vcvtF8e4F32 | vcvtF8e5F32 | vcvtF6e2F32 | vcvtF6e3F32 | vcvtF4F32 => exact narrow_reaches he h hp
  case vcvtF32F8e4 | vcvtF32F8e5 | vcvtF32F6e2 | vcvtF32F6e3 => exact widen_reaches he h hp
  case vcvtF32F4 => exact vCvt_part_reaches (fun g _ x => (f4ToF32 (s.fx g.ctx g.fxsel) x, 0)) he (by decide) h hp
  -- between f32 and integers
  case vcvtI32F32 =>
    exact vCvt_reaches (fun g dr x => intoInt true 32 (rmode s g) dr (F32.val (F32.daz g.daz x))) he (by decide) h hp
  case vcvtN32F32 =>
    exact vCvt_reaches (fun g dr x => intoInt false 32 (rmode s g) dr (F32.val (F32.daz g.daz x))) he (by decide) h hp
  case vcvtF32I32 =>
    exact vCvt_reaches (fun g dr x => (FV.fin (toI 32 x < 0) (toI 32 x).natAbs 0).into F32 (rmode s g) dr g.ftz false) he
      (by decide) h hp
  case vcvtF32N32 =>
    exact vCvt_reaches (fun g dr x => (FV.fin false x 0).into F32 (rmode s g) dr g.ftz false) he (by decide) h hp
  case vcvtI8I32 => exact vcvtI8I32_reaches he h hp
  -- no other instruction is of this family
  all_goals cases he

end Sys2Proof.Machine
end

section
/-! Cross-lane instructions (R110, R115 to R122). -/

namespace Sys2Proof.Machine
open Sys2Proof.Claims

/-! The acting lanes. -/

theorem mem_actLanes {s : State} {g : Group} {p : Path} {l : Nat} :
    l ∈ actLanes s g p ↔ l < 32 ∧ (act s g p).getLsbD l = true := mem_lanesOf _ l

theorem actLanes_sorted (s : State) (g : Group) (p : Path) : (actLanes s g p).Pairwise (· < ·) :=
  List.pairwise_lt_range.filter _

theorem keptLanes_subset {s : State} {g : Group} {p : Path} {b l : Nat} (h : l ∈ keptLanes s g p b) : l ∈ actLanes s g p := by
  obtain ⟨hl, hand⟩ := (mem_lanesOf _ _).mp h
  rw [BitVec.getLsbD_and, Bool.and_eq_true] at hand
  exact mem_actLanes.mpr ⟨hl, hand.2⟩

/-- R120: the k-th lane listed is paired with the k-th value. -/
theorem find?_zip {β : Type} (ks : List Nat) (vs : List β) (l : Nat) :
    (ks.zip vs).find? (fun q => q.1 = l) = if l ∈ ks then vs[ks.idxOf l]?.map (l, ·) else none := by
  induction ks generalizing vs with
  | nil => rfl
  | cons k ks ih =>
    cases vs with
    | nil => simp
    | cons v vs =>
      by_cases hk : k = l
      · simp [hk]
      · simp [hk, Ne.symm hk, ih]

/-! Flags of two sub-elements, over the acting lanes. -/

theorem orAll_cons (x : Nat) (l : List Nat) : orAll (x :: l) = x ||| orAll l := by
  unfold orAll
  rw [List.foldl_cons, Nat.zero_or, ← Nat.or_zero x, List.foldl_assoc, Nat.or_zero]

theorem orAll_const (x : Nat) {l : List Nat} (h : l ≠ []) : orAll (l.map fun _ => x) = x := by
  induction l with
  | nil => exact absurd rfl h
  | cons k t ih =>
    rw [List.map_cons, orAll_cons]
    by_cases ht : t = []
    · simp [ht, orAll]
    · rw [ih ht, Nat.or_self]

/-- The flags of all lanes are those of sub-element 0 and those of sub-element 1. -/
theorem allFlags_two (s : State) (g : Group) (p : Path) (F : Nat → Nat → Nat) :
    allFlags s g p 2 F = orAll ((actLanes s g p).map (F · 0)) ||| orAll ((actLanes s g p).map (F · 1)) := by
  have hpairs (ls : List Nat) : orAll (ls.flatMap fun l => [F l 0, F l 1]) = orAll (ls.map (F · 0)) ||| orAll (ls.map (F · 1)) := by
    induction ls with
    | nil => simp [orAll]
    | cons l t ih =>
      simp only [List.flatMap_cons, List.map_cons, List.cons_append, List.nil_append, orAll_cons, ih]
      ac_rfl
  exact hpairs _

/-! Runs over the lanes up to each lane. -/

/-- What a run over some lanes ends with: the first lane begins it, each later one takes a step; `z` where there
is no lane (R34). -/
def laneRun {α : Type} (z : α) (start : Nat → α) (step : Nat → α → α) : List Nat → α
  | [] => z
  | k :: t => t.foldl (fun v j => step j v) (start k)

section
variable {α : Type}

/-- Of lanes in ascending order, the first has itself alone up to it, and each later one the first and those of the others. -/
theorem map_filter_le {k : Nat} {t : List Nat} (h : (k :: t).Pairwise (· < ·)) (F : Nat → List Nat → α) :
    ((k :: t).map fun l => F l ((k :: t).filter (· ≤ l))) = F k [k] :: t.map fun l => F l (k :: t.filter (· ≤ l)) := by
  have hlt : ∀ l ∈ t, k < l := fun l hl => List.rel_of_pairwise_cons h hl
  have hself : t.filter (· ≤ k) = [] := List.filter_eq_nil_iff.mpr fun l hl => by simpa using hlt l hl
  rw [List.map_cons, List.filter_cons_of_pos (by simp), hself]
  exact congrArg _ (List.map_congr_left fun l hl => by rw [List.filter_cons_of_pos (by simpa using (hlt l hl).le)])

/-- A scan that has begun with `v` gives each lane the steps of the lanes up to it. -/
theorem scanLanes_some (f : Nat → α → α → α) (key : Nat → Nat) (x : Nat → α) (v : α) {t : List Nat} (h : t.Pairwise (· < ·)) :
    scanLanes f (some v) (t.map fun l => (key l, x l)) =
      t.map fun l => (key l, (t.filter (· ≤ l)).foldl (fun w j => f (key j) w (x j)) v) := by
  induction t generalizing v with
  | nil => rfl
  | cons k t ih =>
    rw [map_filter_le h fun l u => (key l, u.foldl (fun w j => f (key j) w (x j)) v), List.map_cons, scanLanes, ih _ h.of_cons]
    rfl

/-- R34, R117: a scan gives each lane the run over the lanes up to it. -/
theorem scanLanes_eq (z : α) (f : Nat → α → α → α) (key : Nat → Nat) (x : Nat → α) {ls : List Nat} (h : ls.Pairwise (· < ·)) :
    scanLanes f none (ls.map fun l => (key l, x l)) =
      ls.map fun l => (key l, laneRun z x (fun j v => f (key j) v (x j)) (ls.filter (· ≤ l))) := by
  cases ls with
  | nil => rfl
  | cons k t =>
    rw [map_filter_le h fun l u => (key l, laneRun z x (fun j v => f (key j) v (x j)) u), List.map_cons, scanLanes,
      scanLanes_some f key x _ h.of_cons]
    rfl

end

/-- A run of sums modulo m is the sum modulo m. -/
theorem laneRun_add_mod (m : Nat) (x : Nat → Nat) (ls : List Nat) :
    laneRun 0 x (fun j v => (v + x j) % m) ls % m = (ls.map x).sum % m := by
  have hfold (t : List Nat) (v : Nat) : t.foldl (fun v j => (v + x j) % m) v % m = (v + (t.map x).sum) % m := by
    induction t generalizing v with
    | nil => rfl
    | cons j t ih => rw [List.foldl_cons, ih, Nat.mod_add_mod, List.map_cons, List.sum_cons, Nat.add_assoc]
  cases ls with
  | nil => rfl
  | cons k t => exact hfold t (x k)

/-! Sums with a NaN (R29, R103). -/

/-- R103: a sum with a NaN is a NaN, and a signalling one sets NV beside the flags that it sets when quiet. -/
theorem add_nan (mode : Nat) (x : FV) (sig : Bool) :
    x.add mode (.nan sig) = (.nan false, (if sig then fNV else 0) ||| (x.add mode (.nan false)).2) := by
  cases x with
  | nan sig' => cases sig' <;> cases sig <;> simp [FV.add]
  | inf | fin => simp [FV.add]

/-- R29: in a sum, a source that is made quiet first brings the same value, and its NV apart. -/
theorem addF_quietF (mode draw : Nat) (ftz : Bool) (x y : Nat) :
    ((addF mode draw ftz x (quietF y).1).1, (quietF y).2 ||| (addF mode draw ftz x (quietF y).1).2) = addF mode draw ftz x y := by
  have hquiet : F32.val F32.qnan = .nan false := by decide
  have hsum : ((F32.val x).add mode (.nan false)).1 = .nan false := by rw [add_nan]
  unfold addF quietF
  cases hy : F32.val y with
  | nan sig =>
    rw [add_nan mode _ sig]
    simp only [FV.isNaN, FV.isSig, if_true, hquiet, hsum, Nat.or_assoc]
    rfl
  | inf | fin => simp [FV.isNaN, hy]

/-! Moves: a vector register written without draws or flags. -/

/-- What a move is to do: V(d, l) := f l for each acting lane; `fields` is the check of its SUB (R44, R116). -/
def moveEffect (s : State) (g : Group) (p : Path) (acc : Acc) (rd : List RegN) (fields : Bool) (d : Nat) (f : Nat → W64) : Effect :=
  { adm := { acc := acc, rd := rd, wr := vR [d], fields := fields }
    rs := fun _ => rS g
    rv := fun _ => setV s g p d f
    rm := fun _ n => g.m.get 0 n
    fl := fun _ => 0 }

section
variable {s : State} {g : Group} {p : Path} {e : Effect} {acc : Acc} {rd : List RegN} {fields : Bool} {d a b im : Nat}
  {f : Nat → W64} {k : Group → Path → State → State}

/-- A MOVE THAT WRITES SOME OF THE ACTING LANES, each once: the others keep what they hold. -/
theorem reaches_someLanes (he : some (moveEffect s g p acc rd fields d f) = some e) (h : Admitted e.adm s g p)
    (hp : s.pipeHold = false) (ws : List (Nat × W64)) (hk : k g p = land (ws.map fun q => .v d q.1 q.2) 0)
    (hnodup : (ws.map Prod.fst).Nodup) (hacting : ∀ q ∈ ws, q.1 ∈ actLanes s g p)
    (hf : ∀ l ∈ actLanes s g p, ((ws.find? fun q => q.1 = l).map Prod.snd).getD (rV g d l) = f l) :
    Reaches s g p e (gated { acc := acc, rd := rd, wr := vR [d], fields := fields } s k) := by
  obtain rfl := Option.some.inj he
  have hlt : ∀ q ∈ ws, q.1 < 32 := fun q hq => lt_of_mem_actLanes (hacting q hq)
  have hread (n l : Nat) (hl : l < 32) : rV (g.puts (ws.map fun q => .v d q.1 q.2)) n l = setV s g p d f n l := by
    rw [rV_puts_lanes d ws hnodup hlt g n l hl, setV]
    by_cases hn : n = d
    · subst hn
      by_cases hl' : (act s g p).getLsbD l = true
      · rw [if_pos rfl, if_pos ⟨rfl, hl'⟩, hf l (mem_actLanes.mpr ⟨hl, hl'⟩)]
      · have hnone : ws.find? (fun q => q.1 = l) = none :=
          List.find?_eq_none.mpr fun q hq hql => hl' (of_decide_eq_true hql ▸ (mem_actLanes.mp (hacting q hq)).2)
        simp [hl', hnone]
    · simp [hn]
  have hcells : ∀ w ∈ ws.map (fun q => RegW.v d q.1 q.2), cellReg w.cell ∈ vR [d] := by
    intro w hw
    obtain ⟨q, hq, rfl⟩ := List.mem_map.mp hw
    have := hlt q hq
    simp [cellReg, RegW.cell, vR]
    omega
  obtain ⟨hscalars, hmasks⟩ := puts_lanes d ws g
  have hs (n : Nat) : rS (g.puts (ws.map fun q => .v d q.1 q.2)) n = rS g n := by simp only [rS, hscalars]
  have hm (n : Nat) : (g.puts (ws.map fun q => .v d q.1 q.2)).m.get 0 n = g.m.get 0 n := by rw [hmasks]
  exact computes_of h rfl hp _ 0 s.parts s.fresh k (fun G => congrFun hk _) hs hread (fun n _ => hm n) hcells

/-- A MOVE THAT WRITES EVERY ACTING LANE. -/
theorem reaches_move {v : Nat → W64} (he : some (moveEffect s g p acc rd fields d f) = some e) (h : Admitted e.adm s g p)
    (hp : s.pipeHold = false) (hk : k g p = land (vWrites d (actLanes s g p) v) 0) (hv : ∀ l, v l = f l) :
    Reaches s g p e (gated { acc := acc, rd := rd, wr := vR [d], fields := fields } s k) := by
  obtain rfl := Option.some.inj he
  obtain rfl := funext hv
  exact computes_vector h rfl hp d 0 s.fresh 0 v k fun G => by rw [hk, drawnFrom_zero]

/-- R115: a lane whose number has bit `x` set takes its partner's value, any other the same with each top bit turned over. -/
theorem vpswap_reaches {x : Nat} (he : crossEffect s g p (.vpswap d a x) = some e) (h : Admitted e.adm s g p)
    (hp : s.pipeHold = false) : Reaches s g p e (exec (.vpswap d a x) s) := by
  refine reaches_move he h hp rfl fun l => ?_
  simp only [fld, pow_one]
  by_cases hq : (act s g p).getLsbD (l ^^^ 2 ^ x) = true
  · rcases Nat.mod_two_eq_zero_or_one (l / 2 ^ x) with h0 | h1
    · simp [hq, h0]
    · simp [hq, h1]
  · simp [hq]

/-- R116: the model adds a whole round of 32 lanes of `n` sub-elements, which keeps the place it looks for from going below zero. -/
theorem rotIndex_eq {n r x : Nat} (hr : r < 32) (hx : x < n) (i : Nat) :
    (i + 32 * n - (n * r + x)) % (32 * n) = (((i : Int) - (n * r + x)) % (32 * n)).toNat := by
  have hle : n * r + x ≤ i + 32 * n := by nlinarith
  have hcast : ((i + 32 * n - (n * r + x) : Nat) : Int) = i - (n * r + x) + 32 * n := by
    push_cast [Nat.cast_sub hle]
    ring
  rw [← Int.add_emod_right, ← hcast]
  norm_cast

/-- R116: vrot takes a sub-element from that many places before, around all lanes. -/
theorem vrot_reaches (he : crossEffect s g p (.vrot d a im) = some e) (h : Admitted e.adm s g p)
    (hp : s.pipeHold = false) : Reaches s g p e (exec (.vrot d a im) s) := by
  have hsub : fld im 0 3 < 64 / ewOf s := by
    obtain rfl := Option.some.inj he
    exact of_decide_eq_true h.fields
  have hlane : fld im 3 5 < 32 := Nat.mod_lt _ (by decide)
  refine reaches_move he h hp rfl fun l => congrArg (mapE _) (funext fun x => ?_)
  have hindex := rotIndex_eq hlane hsub (64 / ewOf s * l + x)
  push_cast at hindex
  simp only [hindex]
  rfl

/-- R116: vput writes one lane, where that lane acts. -/
theorem vput_reaches (he : crossEffect s g p (.vput d a im) = some e) (h : Admitted e.adm s g p)
    (hp : s.pipeHold = false) : Reaches s g p e (exec (.vput d a im) s) := by
  cases hlanes : actLanes s g p with
  | nil =>
    refine reaches_someLanes he h hp [] ?_ List.nodup_nil (by simp) fun l hl => ?_
    · simp only [hlanes]; rfl
    · simp [hlanes] at hl
  | cons f t =>
    set x := fld im 3 5 with hx
    by_cases hacts : (act s g p).getLsbD x = true
    · have hmem : x ∈ actLanes s g p := mem_actLanes.mpr ⟨Nat.mod_lt _ (by decide), hacts⟩
      refine reaches_someLanes he h hp
        [(x, setElem (ewOf s) (rV g d x) (fld im 0 3) (elem (ewOf s) (rV g a f) 0))] ?_ (List.nodup_singleton _) (by simpa) fun l _ => ?_
      · simp only [hlanes, ← hx, hacts, if_true]; rfl
      · by_cases hl : x = l
        · subst hl; simp [hlanes, ← hx]
        · simp [hlanes, ← hx, hl, Ne.symm hl]
    · refine reaches_someLanes he h hp [] ?_ List.nodup_nil (by simp) fun l hl => ?_
      · simp only [hlanes, ← hx, hacts]; rfl
      · have hne : l ≠ x := fun hlx => hacts (hlx ▸ (mem_actLanes.mp hl).2)
        simp [hlanes, ← hx, hne]

/-- R120: the first of the lanes `ks` take what the lanes `vs` hold, in order. -/
theorem reaches_paired (he : some (moveEffect s g p acc rd fields d f) = some e) (h : Admitted e.adm s g p)
    (hp : s.pipeHold = false) (ks vs : List Nat) (hk : k g p = land ((ks.zip vs).map fun q => .v d q.1 (rV g a q.2)) 0)
    (hnodup : ks.Nodup) (hacting : ∀ l ∈ ks, l ∈ actLanes s g p)
    (hf : ∀ l ∈ actLanes s g p, (if l ∈ ks then (vs[ks.idxOf l]?).elim (rV g d l) (rV g a) else rV g d l) = f l) :
    Reaches s g p e (gated { acc := acc, rd := rd, wr := vR [d], fields := fields } s k) := by
  refine reaches_someLanes he h hp ((ks.zip vs).map fun q => (q.1, rV g a q.2)) (hk.trans ?_) ?_ ?_ fun l hl => ?_
  · rw [List.map_map]; rfl
  · rw [List.map_map, List.zip_eq_zip_take_min]
    set n := min ks.length vs.length with hn
    have hfst : ((ks.take n).zip (vs.take n)).map Prod.fst = ks.take n := List.map_fst_zip (by simp [hn])
    exact hfst.symm ▸ hnodup.sublist (List.take_sublist n ks)
  · intro q hq
    obtain ⟨r, hr, rfl⟩ := List.mem_map.mp hq
    exact hacting _ (List.of_mem_zip hr).1
  · rw [← hf l hl, List.find?_map]
    simp only [Function.comp_def, find?_zip]
    split_ifs
    · cases vs[ks.idxOf l]? <;> rfl
    · rfl

/-- R120: vcompact gives the k-th acting lane the k-th value kept. -/
theorem vcompact_reaches (he : crossEffect s g p (.vcompact d a b) = some e) (h : Admitted e.adm s g p)
    (hp : s.pipeHold = false) : Reaches s g p e (exec (.vcompact d a b) s) :=
  reaches_paired he h hp (actLanes s g p) (keptLanes s g p b) rfl (actLanes_nodup s g p) (fun _ hl => hl)
    fun _ hl => if_pos hl

/-- R120: vexpand gives the k-th lane kept the k-th acting value. -/
theorem vexpand_reaches (he : crossEffect s g p (.vexpand d a b) = some e) (h : Admitted e.adm s g p)
    (hp : s.pipeHold = false) : Reaches s g p e (exec (.vexpand d a b) s) := by
  refine reaches_paired (a := a) he h hp (keptLanes s g p b) (actLanes s g p) ?_ (lanesOf_nodup _) (fun _ => keptLanes_subset) fun l _ => ?_
  · simp only [← List.zip_swap (actLanes s g p), List.map_map]
    rfl
  · simp only [← List.contains_iff_mem]
    rfl

/-! Reductions and votes. -/

/-- R117: a reduction's value and flags are the same for every acting lane. -/
theorem reduce_reaches (F : Group → List Nat → Nat × Nat)
    (he : effE s g p accV2 (vR [a]) d 32 (fun _ x => F g ((actLanes s g p).map fun l => elem 32 (rV g a l) x)) = some e)
    (h : Admitted e.adm s g p) (hp : s.pipeHold = false) : Reaches s g p e (reduce accV2 d a s F) := by
  refine reaches_vector (f := fun _ _ => mapE 32 fun x => (F g ((actLanes s g p).map fun l => elem 32 (rV g a l) x)).1)
    (fl := fun _ => allFlags s g p 2 fun _ x => (F g ((actLanes s g p).map fun l => elem 32 (rV g a l) x)).2)
    (Option.some.inj he).symm h hp fun G => ?_
  rw [drawnFrom_zero, allFlags_two]
  by_cases hlanes : actLanes s g p = []
  · simp [hlanes, vWrites, orAll]
  · rw [orAll_const _ hlanes, orAll_const _ hlanes]
    exact congrFun (if_neg (by simp [hlanes])) _

/-- R29, R103, R117: the maximum of some f32 codes, numbers before NaNs, with FTZ on the result. -/
def maxF32 (g : Group) (l : List Nat) : Nat × Nat :=
  let r := laneRun (0, 0) quietF (fun y m => ((F32.minMax true true m.1 y).1, m.2 ||| (F32.minMax true true m.1 y).2))
    (l.map (F32.daz g.daz))
  ((F32.flush g.ftz r.1).1, r.2 ||| (F32.flush g.ftz r.1).2)

/-- R120: a vote writes its truth value. -/
theorem vote_reaches {F : List W64 → Bool} {v : Bool} (he : effS g accV2 (vR [a]) d (truth v) = some e) (h : Admitted e.adm s g p)
    (hp : s.pipeHold = false) (hF : F ((actLanes s g p).map (rV g a)) = v) : Reaches s g p e (vote d a s F) :=
  completes_scalar he h hp rfl (by subst hF; rfl)

/-! Sums up to each lane. -/

/-- R117: integer sums up to each lane, cut to 32 bits when they are written. -/
theorem vprefixAddI32_reaches (he : crossEffect s g p (.vprefixAddI32 d a) = some e) (h : Admitted e.adm s g p)
    (hp : s.pipeHold = false) : Reaches s g p e (exec (.vprefixAddI32 d a) s) := by
  let col (x l : Nat) : Nat := laneRun 0 (fun j => elem 32 (rV g a j) x) (fun j v => (v + elem 32 (rV g a j) x) % 2 ^ 32)
    ((actLanes s g p).filter (· ≤ l))
  have hcol (x : Nat) : scanLanes (fun _ x y => (x + y) % 2 ^ 32) none ((actLanes s g p).map fun l => (l, elem 32 (rV g a l) x)) =
      (actLanes s g p).map fun l => (l, col x l) := scanLanes_eq 0 _ id _ (actLanes_sorted s g p)
  refine reaches_move (v := fun l => mapE 32 fun x => col x l) he h hp ?_ fun l => mapE_congr fun x => laneRun_add_mod _ _ _
  simp only [hcol, List.zip_map', List.map_map]
  rfl

/-- R34, R117: the sum up to lane `l` with its flags, each of its steps rounded under the draw of the lane that joins;
the value of the first lane is not rounded, so FTZ leaves it (log 105). -/
def runSum (s : State) (g : Group) (p : Path) (a : Nat) (ds : List Nat) (l x : Nat) : Nat × Nat :=
  laneRun (0, 0) (fun j => quietF (F32.daz g.daz (elem 32 (rV g a j) x)))
    (fun j v =>
      let r := addF (rmode s g) (drawOf s g p 2 ds j x) g.ftz v.1 (F32.daz g.daz (elem 32 (rV g a j) x))
      (r.1, v.2 ||| r.2))
    ((actLanes s g p).filter (· ≤ l))

/-- What vprefix.add.f32 scans gives each lane that sum. -/
theorem scanLanes_runSum (ds : List Nat) (x : Nat) :
    scanLanes (fun i (v w : Nat × Nat) =>
        let r := addF (rmode s g) (ds.getD (2 * i + x) 0) g.ftz v.1 w.1
        (r.1, v.2 ||| w.2 ||| r.2)) none
      ((actLanes s g p).zipIdx.map fun q => (q.2, quietF (F32.daz g.daz (elem 32 (rV g a q.1) x)))) =
    (actLanes s g p).map fun l => ((actLanes s g p).idxOf l, runSum s g p a ds l x) := by
  rw [zipIdx_map_idxOf (actLanes_nodup s g p) fun l i => (i, quietF (F32.daz g.daz (elem 32 (rV g a l) x))),
    scanLanes_eq (0, 0) _ _ _ (actLanes_sorted s g p)]
  refine List.map_congr_left fun l _ => congrArg _ (congrArg (laneRun _ _ · _) (funext fun j => funext fun v => ?_))
  simp only [drawOf, Nat.mul_comm _ 2, Nat.or_assoc, ← addF_quietF _ _ _ _ (F32.daz _ _)]

/-- R34, R117: f32 sums up to each lane, with the flags of both sub-elements. -/
theorem vprefixAddF32_reaches (he : crossEffect s g p (.vprefixAddF32 d a) = some e) (h : Admitted e.adm s g p)
    (hp : s.pipeHold = false) : Reaches s g p e (exec (.vprefixAddF32 d a) s) := by
  refine reaches_vector (n := 2 * (actLanes s g p).length) (f := fun ds l => mapE 32 fun x => (runSum s g p a ds l x).1)
    (fl := fun ds => allFlags s g p 2 fun l x => (runSum s g p a ds l x).2) (Option.some.inj he).symm h hp fun G => ?_
  refine (withDraws_eq s g _ G _).trans (congrArg₂ (land · · _) ?writes ?flags)
  case writes =>
    simp only [scanLanes_runSum, List.zip_map', List.map_map]
    refine List.map_congr_left fun l hl => congrArg (RegW.v d · _) ?_
    dsimp only
    rw [List.getD_eq_getElem _ _ (List.idxOf_lt_length_of_mem hl), List.getElem_idxOf]
  case flags =>
    simp only [scanLanes_runSum, List.map_map, allFlags_two]
    rfl

end

/-- R115: the index of vshfl.e32 names a lane by its bits 7:3 and a half of it by bit 0. -/
theorem shuffleOfHalves : Claims.ShuffleOfHalves := by
  intro d a b s g p h hp from_
  have hreaches : Reaches s g p (moveEffect s g p accV3 (vR [a, b]) true d fun l =>
      mapE 32 fun x => elem 32 (from_ (elem 32 (rV g b l) x)) (elem 32 (rV g b l) x % 2)) (exec (.vshfleE32 d a b) s) :=
    reaches_move rfl h hp rfl fun l => by simp only [fld_low]; rfl
  simpa only [Reaches, moveEffect, drawnFrom_zero] using hreaches

/-- Settles O5, instruction by instruction: a move or quad exchange is one vector write whose values agree lane by lane; vput, vcompact and
vexpand write some of the acting lanes; a reduction or vote is its shared operation; the sums up to each lane are runs over the lanes
before it. -/
theorem crossLaneResults : Obligations.CrossLaneResults := by
  refine ⟨fun i s g p e he h hp => ?_, shuffleOfHalves⟩
  cases i
  -- moves between lanes
  case vshfl => exact reaches_move he h hp rfl fun _ => by simp only [fld_low]; rfl
  case vshfleE32 | vlaneid => exact reaches_move he h hp rfl fun _ => rfl
  case vpswap => exact vpswap_reaches he h hp
  case vget | vbcast | vbfly => exact reaches_move he h hp rfl fun _ => rfl
  case vrot => exact vrot_reaches he h hp
  case vput => exact vput_reaches he h hp
  case vcompact => exact vcompact_reaches he h hp
  case vexpand => exact vexpand_reaches he h hp
  -- sums up to each lane, reductions and maxima
  case vprefixAddI32 => exact vprefixAddI32_reaches he h hp
  case vprefixAddF32 => exact vprefixAddF32_reaches he h hp
  case vredAddI32 => exact reduce_reaches (fun _ l => (l.sum % 2 ^ 32, 0)) he h hp
  case vredMaxI32 =>
    exact reduce_reaches (fun _ l => (l.foldl (fun m x => if toI 32 m < toI 32 x then x else m) (l.headD 0), 0)) he h hp
  case vredMaxF32 => exact reduce_reaches maxF32 he h hp
  case vmaxidxF16 => exact reaches_move he h hp rfl fun _ => if_pos rfl
  case vmaxidxF32 => exact reaches_move he h hp rfl fun _ => if_neg (by decide)
  -- votes
  case vvoteAll => exact vote_reaches (F := fun l => l.all (· ≠ 0)) he h hp List.all_map
  case vvoteAny => exact vote_reaches (F := fun l => l.any (· ≠ 0)) he h hp List.any_map
  case vballot => exact completes_mask he h hp rfl rfl
  -- quads
  case qswpH | qswpV | qswpD => exact reaches_move he h hp rfl fun _ => rfl
  case qbcast => exact reaches_move he h hp rfl fun _ => by simp only [fld_low, Nat.mul_comm 4]; rfl
  case qbcastI => exact reaches_move he h hp rfl fun _ => by simp only [Nat.mul_comm 4]
  -- no other instruction is of this family
  all_goals cases he

end Sys2Proof.Machine
end

section
/-! The issue of loads, stores and atomics (R125 to R128, R132, R133, R135, R296, R315): what an access asks for, how its
addresses are checked and translated, and the operation that is then in flight. -/

namespace Sys2Proof.Machine
open Sys2Proof.Claims

/-! Translation of the addresses of one instruction (R132, R315). -/

/-- Each address with what it needs and how it is translated now. -/
def looked (s : State) (g : Group) (n : Need) (vas : List Nat) : List ((Nat × Need) × Tr) :=
  vas.map fun va => ((va, n), trOne s g.place.core g.ctx va n false)

/-- An ABORT ended the access, or the walk that it waited for found no permission (R132, R315). -/
def ended (p : Path) (r : (Nat × Need) × Tr) : Bool := (p.aborted || r.2 = .miss) && p.failsAt r.1.1
def refusedBy (p : Path) : (Nat × Need) × Tr → Bool := fun r => r.2 = .perm || ended p r
def missedBy (p : Path) : (Nat × Need) × Tr → Bool := fun r => r.2 = .miss && !ended p r

section
variable {s : State} {g : Group} {p : Path} {n : Need} {vas : List Nat}

theorem translate_runs (hf : (looked s g n vas).filter (refusedBy p) = []) (hm : (looked s g n vas).filter (missedBy p) = [])
    (k : List Nat → State → State) :
    translate g p vas n k s = k ((looked s g n vas).map fun r => match r.2 with | .key a => a | _ => 0) s := by
  unfold looked refusedBy ended at hf
  unfold looked missedBy ended at hm
  simp only [translate, translateEach, List.map_map, Function.comp_def, looked, hf, hm, List.map_nil, List.eraseDups_nil] <;> rfl

theorem translate_traps {f : (Nat × Need) × Tr} {t : List ((Nat × Need) × Tr)}
    (hf : (looked s g n vas).filter (refusedBy p) = f :: t) (hm : (looked s g n vas).filter (missedBy p) = [])
    (k : List Nat → State → State) : translate g p vas n k s = trapAt .perm f.1.1 s := by
  unfold looked refusedBy ended at hf
  unfold looked missedBy ended at hm
  simp only [translate, translateEach, List.map_map, Function.comp_def, hf, hm, List.map_nil, List.eraseDups_nil]

/-- Where every address is translated and no ABORT ended one, the effect runs on the keys held. -/
theorem translate_held {pa : Nat → Nat}
    (h : ∀ va ∈ vas, trOne s g.place.core g.ctx va n false = .key (pa va) ∧ (p.aborted = true → p.failsAt va = false))
    (k : List Nat → State → State) : translate g p vas n k s = k (vas.map pa) s := by
  have hkeys : looked s g n vas = vas.map fun va => ((va, n), Tr.key (pa va)) :=
    List.map_congr_left fun va hva => by rw [(h va hva).1]
  have hended : ∀ va ∈ vas, ended p ((va, n), .key (pa va)) = false := fun va hva => by
    cases hp : p.aborted with
    | false => simp [ended, hp]
    | true => simp [ended, (h va hva).2 hp]
  rw [translate_runs (p := p) (vas := vas) (s := s) _ _ k, hkeys, List.map_map]
  · rfl
  · simpa [hkeys, List.filter_eq_nil_iff, refusedBy] using hended
  · simp [hkeys, List.filter_eq_nil_iff, missedBy]

/-- Where no address misses, the first that fails traps PERM. -/
theorem translate_fails {va : Nat} {pre post : List Nat}
    (hmiss : ∀ x ∈ pre ++ va :: post, trOne s g.place.core g.ctx x n false ≠ .miss)
    (hpre : ∀ x ∈ pre, trOne s g.place.core g.ctx x n false ≠ .perm ∧ (p.aborted = true → p.failsAt x = false))
    (hva : trOne s g.place.core g.ctx va n false = .perm ∨ (p.aborted = true ∧ p.failsAt va = true))
    (k : List Nat → State → State) : translate g p (pre ++ va :: post) n k s = trapAt .perm va s := by
  have hnone : (looked s g n pre).filter (refusedBy p) = [] := by
    simp only [looked, List.filter_eq_nil_iff, List.forall_mem_map, refusedBy, ended]
    intro x hx
    obtain ⟨hp, ha⟩ := hpre x hx
    have hm := hmiss x (List.mem_append_left _ hx)
    cases hb : p.aborted with
    | false => simp [hp, hm]
    | true => simp [hp, ha hb]
  have hfirst : refusedBy p ((va, n), trOne s g.place.core g.ctx va n false) = true := by
    rcases hva with h | ⟨h1, h2⟩
    · simp [refusedBy, h]
    · simp [refusedBy, ended, h1, h2]
  refine translate_traps (f := ((va, n), trOne s g.place.core g.ctx va n false)) (t := (looked s g n post).filter (refusedBy p)) ?_ ?_ k
  · simp only [looked, List.map_append, List.filter_append, List.map_cons] at hnone ⊢
    rw [hnone, List.filter_cons_of_pos hfirst, List.nil_append]
  · simp only [looked, List.filter_eq_nil_iff, List.forall_mem_map]
    intro x hx
    simp [missedBy, hmiss x hx]

/-- A miss of the only address parks the path on the walk of its page. -/
theorem translate_misses {va : Nat} (hmiss : trOne s g.place.core g.ctx va n false = .miss) (hva : p.failsAt va = false)
    (k : List Nat → State → State) :
    translate g p [va] n k s = wantWalk (s.modPath fun q => { q with cond := .parked 1 }) g.place.core g.ctx (pageOf va) n
      s.iss.gid s.iss.slot := by
  have hdups : ([(pageOf va, n)] : List (Nat × Need)).eraseDups = [(pageOf va, n)] := by simp [List.eraseDups_cons]
  simp [translate, translateEach, hmiss, hva, translateEach.park, hdups]

end

/-! An access (R127, R128, R133, R135, R296). -/

/-- What memory is asked for each lane of an access: its number, address, operand and comparand. -/
def askedLanes (x : Access) : List (Nat × Nat × Nat × Nat) := x.lanes.map fun l => (l.1, l.2.1.toNat, l.2.2)

/-- The issue of an access that is admitted. -/
def issueAccess (x : Access) : Group → Path → State → State :=
  memIssue x.k x.n x.ord x.scp x.dst (askedLanes x) (!x.host)

/-- An admitted load, store or atomic issues its access. -/
theorem exec_memAccess {i : Instr} {s : State} {g : Group} {p : Path} {x : Access} (hx : memAccess s g p i = some x)
    (h : Admitted x.adm s g p) : exec i s = .next (issued true s p (issueAccess x g p)) := by
  unfold memAccess at hx
  split at hx
  all_goals cases hx
  all_goals
    refine (gated_admitted h _).trans (congrArg _ ?_)
    simp only [issueAccess, askedLanes, List.map_map, List.map_cons, List.map_nil]
    rfl

/-- The fault of a lane's address, if it has one (R127). -/
def addrFault (n va : Nat) : Option (Cause × Nat) :=
  if badVa va then some (.perm, va) else if va % n ≠ 0 then some (.align, va) else none

theorem addrFault_of_ok {n : Nat} {va : W64} (h : addrOk n va) : addrFault n va.toNat = none := by
  obtain ⟨hb, ha⟩ := h
  simp [addrFault, hb, ha]

section
variable {x : Access} {s : State} {g : Group} {p : Path}

/-- An address that is bad or misaligned traps, the first in lane order. -/
theorem issueAccess_faults {c : Cause} {va : Nat} (h : x.lanes.findSome? (fun l => addrFault x.n l.2.1.toNat) = some (c, va)) :
    issueAccess x g p s = trapAt c va s := by
  have hf : (askedLanes x).findSome? (fun l => addrFault x.n l.2.1) = some (c, va) := by
    rw [askedLanes, List.findSome?_map]; exact h
  simp only [addrFault] at hf
  simp only [issueAccess, memIssue, hf]

/-- The address lies in a range of the bundle that the group holds open (R296). -/
def inOpen (s : State) (g : Group) (va : Nat) : Bool := match openBundle s g with | some (_, d) => inRanges d va | none => false

theorem inOpen_toNat (s : State) (g : Group) (va : W64) : inOpen s g va.toNat = inBundle s g va := by
  unfold inOpen inBundle; rfl

/-- Ranges are of 57-bit addresses. -/
theorem inOpen_mod (s : State) (g : Group) (va : Nat) : inOpen s g (va % 2 ^ 57) = inOpen s g va := by
  unfold inOpen
  split
  · simp only [inRanges, Nat.mod_mod]
  · rfl

/-- A lane that is asked for, with its physical key, as it is in flight. -/
def flying (x : Access) (s : State) (g : Group) (q : (Nat × Nat × Nat × Nat) × Nat) : LaneAcc :=
  { lane := q.1.1, va := q.1.2.1 % 2 ^ 57, pa := q.2, x := q.1.2.2.1, c := q.1.2.2.2
    bun := x.k = .store && inOpen s g q.1.2.1, done := false, res := 0 }

/-- The reason for which a bundle stops the access, 0 for none (R296, R302). -/
def bundleReason (x : Access) (s : State) (g : Group) (las : List LaneAcc) : Nat :=
  match x.k with
  | .atom _ => if las.any fun l => inOpen s g l.va then 5 else 0
  | .store => (match openBundle s g with
    | some (h, _) => if las.any fun l => l.bun && conflict s h (lineOf l.pa) then 4 else 0
    | none => 0)
  | .load => 0

/-- The lanes of an access in flight. -/
def accessLanes (x : Access) (s : State) (g : Group) (pa : W64 → Nat) : List LaneAcc :=
  x.lanes.map fun l => flying x s g ((l.1, l.2.1.toNat, l.2.2), pa l.2.1)

/-- What an access does with the keys of its lanes. -/
def inFlight (x : Access) (g : Group) (pas : List Nat) (s : State) : State :=
  let las := (List.zip (askedLanes x) pas).map (flying x s g)
  let reason := bundleReason x s g las
  if reason ≠ 0 then trapAt .bundle reason (s.modG fun g => { g with bReason := reason })
  else if las.isEmpty then advance s
  else advance (s.addOp
    { gid := s.iss.gid, slot := s.iss.slot, ctx := g.ctx, core := g.place.core, perf := false, lost := 0, born := s.clocks.nets
      kind := .mem { k := x.k, n := x.n, ord := x.ord, scp := x.scp, dst := x.dst, lanes := las
                     bundle := (openBundle s g).map Prod.fst, cls := 3 } })

/-- A bundle stops no access that meets the statement's condition. -/
theorem bundleReason_eq_zero {pa : W64 → Nat} (hb : bundleOk s g x pa) : bundleReason x s g (accessLanes x s g pa) = 0 := by
  unfold bundleOk at hb
  unfold bundleReason
  split
  next fn hk =>
    rw [hk] at hb
    simp only [accessLanes, List.any_map, List.any_eq_true, Function.comp_apply, flying, inOpen_mod, inOpen_toNat]
    rw [if_neg]
    rintro ⟨l, hl, h⟩
    rw [hb l hl] at h
    cases h
  next hk =>
    rw [hk] at hb
    split
    next h d hopen =>
      simp only [accessLanes, List.any_map, List.any_eq_true, Function.comp_apply, flying, inOpen_toNat, Bool.and_eq_true]
      rw [if_neg]
      rintro ⟨l, hl, ⟨-, hin⟩, hc⟩
      rw [hb h (by rw [hopen]; rfl) l hl hin] at hc
      cases hc
    · rfl
  · rfl

/-- Where no bundle stops it, the operation is in flight with exactly its lanes; with none the path goes on (R133, R296). -/
theorem inFlight_runs {pa : W64 → Nat} (hb : bundleOk s g x pa) :
    inFlight x g (x.lanes.map fun l => pa l.2.1) s = advance (if x.lanes = [] then s else s.addOp (accessOp s g x pa)) := by
  have hlas : (List.zip (askedLanes x) (x.lanes.map fun l => pa l.2.1)).map (flying x s g) = accessLanes x s g pa := by
    rw [askedLanes, List.zip_map', List.map_map]; rfl
  have hop : accessLanes x s g pa = x.lanes.map fun l =>
      { lane := l.1, va := l.2.1.toNat % 2 ^ 57, pa := pa l.2.1, x := l.2.2.1, c := l.2.2.2
        bun := x.k = .store && inBundle s g l.2.1, done := false, res := 0 } := rfl
  simp only [inFlight, hlas, bundleReason_eq_zero hb, ne_eq, not_true_eq_false, if_false]
  by_cases hl : x.lanes = []
  · simp [accessLanes, hl]
  · simp only [if_neg hl, accessOp, hop]
    rw [if_neg (by simpa using hl)]

/-- Aligned accesses are translated, with what the access needs. -/
theorem issueAccess_aligned (h : ∀ l ∈ x.lanes, addrOk x.n l.2.1) :
    issueAccess x g p s = translate g p (x.lanes.map fun l => l.2.1.toNat) x.need (inFlight x g) s := by
  have hno : (askedLanes x).findSome? (fun l => addrFault x.n l.2.1) = none := by
    simp only [List.findSome?_eq_none_iff, askedLanes, List.forall_mem_map]
    exact fun l hl => addrFault_of_ok (h l hl)
  have hvas : (askedLanes x).map (fun l => l.2.1) = x.lanes.map fun l => l.2.1.toNat := by
    simp only [askedLanes, List.map_map]; rfl
  have hneed : x.need = match x.k with
      | .load => Need.read
      | .store => Need.write
      | .atom _ => { Need.rw with hostBad := !x.host } := by
    unfold Access.need; cases x.k <;> rfl
  simp only [addrFault] at hno
  simp only [issueAccess, memIssue, hno, hvas, hneed]
  rfl

end

/-- Settles O7: the access is aligned, its keys are held, no bundle stops it, so that its operation is put in flight. -/
theorem memoryAccessesIssue : Obligations.MemoryAccessesIssue := by
  intro i s g p x pa hx h hlanes hb
  rw [exec_memAccess hx h]
  have hruns (u : State) (hu : ∃ G, u = { s with groups := G }) :
      issueAccess x g p u = advance (if x.lanes = [] then u else u.addOp (accessOp s g x pa)) := by
    obtain ⟨G, rfl⟩ := hu
    have hkey : ∀ va ∈ x.lanes.map (fun l => l.2.1.toNat),
        trOne s g.place.core g.ctx va x.need false = .key (pa (BitVec.ofNat 64 va)) ∧ (p.aborted = true → p.failsAt va = false) := by
      simp only [List.forall_mem_map, BitVec.ofNat_toNat, BitVec.setWidth_eq]
      exact fun l hl => (hlanes l hl).2
    rw [issueAccess_aligned fun l hl => (hlanes l hl).1]
    refine (translate_held (s := { s with groups := G }) (pa := fun va => pa (BitVec.ofNat 64 va)) hkey _).trans ?_
    rw [List.map_map]
    simp only [Function.comp_def, BitVec.ofNat_toNat, BitVec.setWidth_eq]
    exact inFlight_runs (s := { s with groups := G }) hb
  refine congrArg _ (goesOn_of h.toIssuing _ ?_ ?_ fun G => ?_)
  · split <;> rfl
  · split <;> rfl
  · rw [hruns _ ⟨G, rfl⟩]
    split <;> rfl

/-! Addresses that trap, and a miss (R127, R132, R189, R311, R312). -/

theorem addrFault_of_badVa {n va : Nat} (h : badVa va = true) : addrFault n va = some (.perm, va) := by simp [addrFault, h]

theorem addrFault_of_misaligned {n va : Nat} (h : badVa va = false) (ha : va % n ≠ 0) : addrFault n va = some (.align, va) := by
  simp [addrFault, h, ha]

/-- The first lane whose address has a fault decides. -/
theorem first_fault {x : Access} {pre post : List (Nat × W64 × Nat × Nat)} {l : Nat × W64 × Nat × Nat} {c : Cause}
    (hx : x.lanes = pre ++ l :: post) (hpre : ∀ q ∈ pre, addrOk x.n q.2.1) (hl : addrFault x.n l.2.1.toNat = some (c, l.2.1.toNat)) :
    x.lanes.findSome? (fun l => addrFault x.n l.2.1.toNat) = some (c, l.2.1.toNat) := by
  have hnone : pre.findSome? (fun l => addrFault x.n l.2.1.toNat) = none :=
    List.findSome?_eq_none_iff.mpr fun q hq => addrFault_of_ok (hpre q hq)
  rw [hx, List.findSome?_append, hnone, Option.none_or, List.findSome?_cons, hl]

/-- R127: bad and misaligned addresses, then those without permission, trap in lane order. -/
theorem memoryAddressTraps : Claims.MemoryAddressTraps := by
  intro i s g p x hx h ho
  rw [exec_memAccess hx h]
  have htrap {c : Cause} {va : Nat} (hk : ∀ G, issueAccess x g p { s with groups := G } = trapAt c va { s with groups := G }) :
      (.next (issued true s p (issueAccess x g p)) : Host.Outcome State Fault Refusal) = .next (trapsBefore s g p c va s) :=
    congrArg _ (trapsBefore_of h.toIssuing ho _ _ _ rfl rfl hk)
  refine ⟨fun pre l post hl hpre => ⟨fun hb => ?_, fun hb ha => ?_⟩, fun hall pre l post hl hpre hbad => ?_⟩
  · exact htrap fun G => issueAccess_faults (first_fault hl hpre (addrFault_of_badVa hb))
  · exact htrap fun G => issueAccess_faults (first_fault hl hpre (addrFault_of_misaligned hb ha))
  · refine htrap fun G => ?_
    rw [issueAccess_aligned fun l hl => (hall l hl).1, hl, List.map_append, List.map_cons]
    refine translate_fails (s := { s with groups := G }) ?_ ?_ ?_ _
    · have hm : ∀ y ∈ x.lanes.map (fun l => l.2.1.toNat), trOne s g.place.core g.ctx y x.need false ≠ .miss :=
        List.forall_mem_map.mpr fun l hl => (hall l hl).2
      rwa [hl, List.map_append, List.map_cons] at hm
    · exact List.forall_mem_map.mpr hpre
    · exact hbad.imp_right fun hn => by simpa [notAborted] using hn

section
variable {s : State} {core c page : Nat} (n : Need) (gid slot : Nat)

/-- A page that no walk of the die translates gets a walk of its own. -/
theorem wantWalk_opens (h : ∀ w ∈ (s.die (dieOf core)).walks, ¬(w.2.ctx = c ∧ w.2.va = page)) :
    wantWalk s core c page n gid slot = { s.modDie (dieOf core) (fun d =>
      { d with walks := d.walks.put s.nextId { ctx := c, va := page, paths := [(gid, slot, n)] } }) with nextId := s.nextId + 1 } := by
  have hfind : List.find? (fun (y : Nat × Walk) => y.2.ctx = c && y.2.va = page) (s.die (dieOf core)).walks = none := by
    rw [List.find?_eq_none]
    intro w hw
    simpa using h w hw
  simp only [wantWalk, hfind]

/-- The misses of a page share its walk. -/
theorem wantWalk_joins {k : Nat} {w : Walk} (hkw : (k, w) ∈ (s.die (dieOf core)).walks) (hctx : w.ctx = c) (hva : w.va = page)
    (huniq : ∀ y ∈ (s.die (dieOf core)).walks, y.2.ctx = c → y.2.va = page → y = (k, w)) :
    wantWalk s core c page n gid slot =
      s.modDie (dieOf core) fun d => { d with walks := d.walks.put k { w with paths := w.paths ++ [(gid, slot, n)] } } := by
  have hfind : List.find? (fun (y : Nat × Walk) => y.2.ctx = c && y.2.va = page) (s.die (dieOf core)).walks = some (k, w) := by
    cases hf : List.find? (fun (y : Nat × Walk) => y.2.ctx = c && y.2.va = page) (s.die (dieOf core)).walks with
    | none => exact absurd (List.find?_eq_none.mp hf _ hkw) (by simp [hctx, hva])
    | some y =>
      have hy := List.find?_some hf
      simp only [Bool.and_eq_true, decide_eq_true_eq] at hy
      rw [huniq y (List.mem_of_find?_eq_some hf) hy.1 hy.2]
  simp only [wantWalk, hfind]

end

/-- R132, R312: a miss of the only page parks the path on its walk. -/
theorem translationMissParks : Claims.TranslationMissParks := by
  intro i s g p x l hx h hl hok hfail hmiss parked me page ws
  rw [exec_memAccess hx h]
  have hk (G : SMap Group) : issueAccess x g p { s with groups := G } =
      wantWalk (({ s with groups := G } : State).modPath fun q => { q with cond := .parked 1 }) g.place.core g.ctx page x.need
        s.iss.gid s.iss.slot := by
    rw [issueAccess_aligned (by simpa [hl] using hok), hl]
    exact translate_misses (s := { s with groups := G }) hmiss hfail _
  have hparks {u : State} (hu : ∃ D n, u = { s with dies := D, nextId := n }) (hw : ∀ G,
      wantWalk { s with groups := G } g.place.core g.ctx page x.need s.iss.gid s.iss.slot = { u with groups := G }) :
      .next (issued true s p (issueAccess x g p)) = parked u := by
    obtain ⟨D, n, rfl⟩ := hu
    refine congrArg _ (passes_of h.toIssuing _ (fun q => { q with cond := .parked 1 }) _ rfl rfl rfl (fun hc => by rw [hc])
      fun G y q hG hy => ?_)
    rw [hk, modPath_at _ hG hy, hw]
  refine ⟨fun hnone => ?_, fun k w hkw hctx hva huniq => ?_⟩
  · refine hparks ⟨_, _, rfl⟩ fun G => ?_
    rw [wantWalk_opens (s := { s with groups := G }) _ _ _ hnone]
    rfl
  · refine hparks ⟨_, _, rfl⟩ fun G => ?_
    rw [wantWalk_joins (s := { s with groups := G }) _ _ _ hkw hctx hva huniq]
    rfl

/-- Settles O11. -/
theorem translationOfAddresses : Obligations.TranslationOfAddresses := ⟨memoryAddressTraps, translationMissParks⟩

end Sys2Proof.Machine
end

section
/-! What instructions that are performed at their issue do: an effect on the issuing group's registers beside one on the rest of the state,
after which the path goes on. -/

namespace Sys2Proof.Machine
open Sys2Proof.Claims

section
variable {s u : State} {g : Group} {p : Path}

/-- An effect on the issuing group's own record, beside one on the rest of the state, after which the path goes on. -/
theorem goesOn_beside (h : Issuing s g p) {e : Group → Group} (he : SparesIssue e g) (k : State → State) (hg : u.groups = s.groups)
    (hi : u.iss = s.iss) (hk : ∀ G, k { s with groups := G } = advance (State.modG { u with groups := G } e)) :
    issued true s p k = goesOn s g p (u.modGroup s.iss.gid e) := by
  refine issued_passes h k e (nextPath s) (nextPath s) hg hi he.comm he.ctx he.place he.hbCount he.tickDue he.paths
    (nextPath_counted s p true) (fun _ => rfl) fun G x q h1 h2 => ?_
  have hG : State.group? { u with groups := G } u.iss.gid = some { g with paths := x } := hi ▸ h1
  have hn : nextPath u q = nextPath s q := by unfold nextPath; rw [hi]
  rw [hk, State.modG]
  refine (congrArg advance (modGroup_of hG e)).trans ?_
  rw [he.comm, ← hi, ← hn]
  exact advance_put (s := { u with groups := G }) (g := { e g with paths := x }) (hi ▸ h2)

/-- The registers of an instruction are written to the record alone. -/
theorem sparesIssue_puts (ws : List RegW) (g : Group) : SparesIssue (fun x => x.puts ws) g where
  comm x := Group.puts_paths ws g x
  ctx := by rw [Group.puts_frame]
  place := by rw [Group.puts_frame]
  hbCount := by rw [Group.puts_frame]
  tickDue := by rw [Group.puts_frame]
  paths := by rw [Group.puts_frame]

/-- The state with other groups: what an instruction does beside its group does not look at them. -/
def regrouped (s : State) (G : SMap Group) : State := { s with groups := G }

/-- AN ADMITTED INSTRUCTION GOES ON, its effect beside its own group. -/
theorem gated_goesOn {a : Adm} (h : Admitted a s g p) (hc : a.count = true) (k : Group → Path → State → State) (hg : u.groups = s.groups)
    (hi : u.iss = s.iss) (hk : ∀ G, k g p (regrouped s G) = advance (regrouped u G)) :
    gated a s k = .next (goesOn s g p u) := by
  rw [gated_admitted h, hc, goesOn_of h.toIssuing _ hg hi hk]

/-- It goes on with one register written. -/
theorem gated_writes {a : Adm} (h : Admitted a s g p) (hc : a.count = true) (k : Group → Path → State → State) (w : RegW)
    (hg : u.groups = s.groups) (hi : u.iss = s.iss)
    (hk : ∀ G, k g p (regrouped s G) = advance ((regrouped u G).modG fun x => x.put1 w)) :
    gated a s k = .next (goesOn s g p (wrote w u)) := by
  rw [gated_admitted h, hc, goesOn_beside h.toIssuing (sparesIssue_put1 w g) _ hg hi hk, wrote, hi]

/-- It waits at its issue. -/
theorem gated_waits {a : Adm} (h : Admitted a s g p) (hc : a.count = true) (k : Group → Path → State → State) (w : Wake)
    (hg : u.groups = s.groups) (hi : u.iss = s.iss) (hk : ∀ G, k g p (regrouped s G) = waitOn w (regrouped u G)) :
    gated a s k = .next (waitsOn s g p w u) := by
  rw [gated_admitted h, hc, waitsOn_of h.toIssuing _ w hg hi hk]

/-- It takes a trap before its effect. -/
theorem gated_trapsBefore {a : Adm} (h : Admitted a s g p) (hc : a.count = true) (ho : Ordinary g) (k : Group → Path → State → State)
    (c : Cause) (n : Nat) (hg : u.groups = s.groups) (hi : u.iss = s.iss)
    (hk : ∀ G, k g p (regrouped s G) = trapAt c n (regrouped u G)) :
    gated a s k = .next (trapsBefore s g p c n u) := by
  rw [gated_admitted h, hc, trapsBefore_of h.toIssuing ho _ c n hg hi hk]

/-- A result written at the issue raises no flag: the registers take it, and the path goes on. -/
theorem landNow_zero (s : State) (ws : List RegW) : landNow ws 0 s = advance (s.modG fun x => x.puts ws) := by
  have hflags (x : Group) : { x.puts ws with fpflags := x.fpflags ||| BitVec.ofNat 64 0 } = x.puts ws := by
    have hfp : x.fpflags ||| BitVec.ofNat 64 0 = (x.puts ws).fpflags := by rw [Group.puts_frame]; exact BitVec.or_zero
    rw [hfp]
  simp only [landNow, landE, Nat.zero_and, if_true, hflags]
  rfl

/-- RESULTS WRITTEN AT THE ISSUE: the instruction completes with the registers that its writes give. -/
theorem computes_landNow {a : Adm} (h : Admitted a s g p) (hc : a.count = true) (ws : List RegW) (k : Group → Path → State → State)
    (hk : ∀ G, k g p (regrouped s G) = landNow ws 0 (regrouped s G))
    {rs : Nat → W64} {rv : Nat → Nat → W64} {rm : Nat → W32} (hs : ∀ n, rS (g.puts ws) n = rs n)
    (hv : ∀ n l, l < 32 → rV (g.puts ws) n l = rv n l) (hm : ∀ n, n ≠ 0 → (g.puts ws).m.get 0 n = rm n)
    {W : List RegN} (hw : ∀ w ∈ ws, cellReg w.cell ∈ W) : ∃ t, gated a s k = .next t ∧ Computes s s t g p W rs rv rm 0 := by
  have hgoes : issued a.count s p (k g p) = goesOn s g p (s.modGroup s.iss.gid fun x => x.puts ws) := by
    rw [hc]
    exact goesOn_own h.toIssuing (sparesIssue_puts ws g) _ fun G => (hk G).trans (landNow_zero _ ws)
  have hf := Group.puts_frame ws g
  have hpaths : (g.puts ws).paths = g.paths := by rw [hf]
  have hat : goesOn s g p (s.modGroup s.iss.gid fun x => x.puts ws) = { s with groups := s.groups.put s.iss.gid { g.puts ws with
      hbCount := (countedBeat s g p).1, tickDue := (countedBeat s g p).2, paths := g.paths.put s.iss.slot (nextPath s p) } } := by
    rw [modGroup_of h.group, goesOn, passes, modGroup_of (group_put_self _ _ _)]
    simp only [SMap.put_put, hpaths]
    rw [SMap.adjust_eq_put _ _ h.path]
    rfl
  have hfpx : nextPath s p = { nextPath s p with fpx := fpxDue s g p 0 } := by
    rw [← nextPath_fpx]
    simp [fpxDue]
  refine ⟨_, gated_admitted h k, ?_⟩
  rw [hgoes, hat]
  refine ⟨rfl, fun j hj => by simp [State.group?, SMap.find?_put_ne _ _ hj], _, _, group_put_self _ _ _, SMap.find?_put_self _ _ _,
    hs, hv, hm, fun _ h => Group.mem_puts_damaged h, fun c h hc => Group.mem_damaged_puts h fun w hx e => hc (e ▸ hw w hx), ?_,
    fun j hj => SMap.find?_put_ne _ _ hj, hfpx⟩
  simp only [BitVec.or_zero]
  rw [hf]

end

end Sys2Proof.Machine
end

section
/-! Bytes that several lanes write: each word keeps its bytes where the words do not overlap, and every other byte reads as before. -/

namespace Sys2Proof.Machine

section
variable {α : Type} (o : α → Nat) (bs : α → List Byte)

/-- The writes of several lanes, one after another. -/
def putAll (m : SMap Byte) (ls : List α) : SMap Byte := ls.foldl (fun m l => putBytes m (o l) (bs l)) m

/-- A byte that no lane names reads as before. -/
theorem get_putAll_outside {ls : List α} {m : SMap Byte} {b : Nat} (h : ∀ l ∈ ls, b < o l ∨ o l + (bs l).length ≤ b) :
    (putAll o bs m ls).get 0 b = m.get 0 b := by
  induction ls generalizing m with
  | nil => rfl
  | cons l ls ih =>
    have hl := h l List.mem_cons_self
    have hout : ¬(o l ≤ b ∧ b < o l + (bs l).length) := by omega
    refine (ih fun x hx => h x (List.mem_cons_of_mem _ hx)).trans ?_
    rw [get_putBytes, if_neg hout]

/-- Of lanes whose words are apart, each word keeps its bytes. -/
theorem get_putAll_of_mem {ls : List α} {m : SMap Byte} {l : α} {i : Nat} (hl : l ∈ ls) (hi : i < (bs l).length)
    (hapart : ls.Pairwise fun x y => o x + (bs x).length ≤ o y ∨ o y + (bs y).length ≤ o x) :
    (putAll o bs m ls).get 0 (o l + i) = (bs l).getD i 0 := by
  induction ls generalizing m with
  | nil => cases hl
  | cons x ls ih =>
    obtain ⟨hx, hls⟩ := List.pairwise_cons.mp hapart
    obtain rfl | hmem := List.mem_cons.mp hl
    · refine (get_putAll_outside o bs (ls := ls) fun y hy => ?_).trans ?_
      · have := hx y hy; omega
      · rw [get_putBytes, if_pos (by omega), Nat.add_sub_cancel_left]
    · exact ih hmem hls

end

end Sys2Proof.Machine
end

section
/-! The scratchpad (R127, R129, R131, R275). -/

namespace Sys2Proof.Machine
open Sys2Proof.Claims

section
variable {s : State} {g : Group} {p : Path} {a im : Nat}

/-- The offsets of lanes of which none fails. -/
theorem firstBad_offsets (h : ∀ l ∈ actLanes s g p, padFails s g (padOff s g a im l) = none) :
    firstBad (actLanes s g p) (fun l => ((rV g a l + immS s im).toNat, padBad s g.place.core g.ctx (rV g a l + immS s im).toNat)) = none :=
  List.findSome?_eq_none_iff.mpr fun l hl => congrArg (Option.map _) (h l hl)

/-- The first lane whose offset fails decides. -/
theorem firstBad_split {pre post : List Nat} {l : Nat} {c : Cause} (hl : actLanes s g p = pre ++ l :: post)
    (hpre : ∀ q ∈ pre, padFails s g (padOff s g a im q) = none) (hc : padFails s g (padOff s g a im l) = some c) :
    firstBad (actLanes s g p) (fun l => ((rV g a l + immS s im).toNat, padBad s g.place.core g.ctx (rV g a l + immS s im).toNat)) =
      some (c, padOff s g a im l) := by
  have hnone : pre.findSome? (fun l => (padFails s g (padOff s g a im l)).map fun c => (c, padOff s g a im l)) = none :=
    List.findSome?_eq_none_iff.mpr fun q hq => by rw [hpre q hq]; rfl
  have hsome : (pre ++ l :: post).findSome? (fun l => (padFails s g (padOff s g a im l)).map fun c => (c, padOff s g a im l)) =
      some (c, padOff s g a im l) := by
    rw [List.findSome?_append, hnone, Option.none_or, List.findSome?_cons, hc]; rfl
  rw [hl]
  exact hsome

end

/-- An offset that does not fail is aligned. -/
theorem aligned_of_padFails {s : State} {g : Group} {o : Nat} (h : padFails s g o = none) : o % 8 = 0 := by
  unfold padFails at h
  split at h
  · cases h
  · split at h
    · cases h
    · omega

/-- The lane whose word stays, of those that name one word (R131). -/
def padWins (s : State) (off : Nat → Nat) (lanes : List Nat) : List Nat :=
  lanes.filter fun l => padWinner s (lanes.filter fun k => off k = off l) = l

/-- Of lanes that name one word, one is taken. -/
theorem padWinner_mem (s : State) {same : List Nat} (h : same ≠ []) : padWinner s same ∈ same := by
  unfold padWinner
  split
  · simp
  · next l t _ =>
    have hlt := Nat.mod_lt (Config.freeValue (s.fresh + l)).toNat (List.length_pos_of_ne_nil h)
    rw [List.getD_eq_getElem _ _ hlt]
    exact List.getElem_mem hlt
  · exact absurd rfl h

/-- Every word that a lane names is written by one of the lanes that name it. -/
theorem exists_padWins (s : State) {off : Nat → Nat} {lanes : List Nat} {l : Nat} (hl : l ∈ lanes) :
    ∃ k ∈ padWins s off lanes, off k = off l := by
  have hmem := padWinner_mem s (same := lanes.filter fun k => off k = off l) (List.ne_nil_of_mem (List.mem_filter.mpr ⟨hl, by simp⟩))
  obtain ⟨hk, hoff⟩ := List.mem_filter.mp hmem
  rw [decide_eq_true_eq] at hoff
  refine ⟨_, List.mem_filter.mpr ⟨hk, ?_⟩, hoff⟩
  rw [hoff, decide_eq_true_eq]

/-- No two of the lanes whose words stay name one word. -/
theorem padWins_apart (s : State) {off : Nat → Nat} {lanes : List Nat} (hnd : lanes.Nodup) (hal : ∀ l ∈ lanes, off l % 8 = 0) :
    (padWins s off lanes).Pairwise fun x y => off x + 8 ≤ off y ∨ off y + 8 ≤ off x := by
  refine (hnd.filter _).imp_of_mem fun {x y} hx hy hne => ?_
  obtain ⟨hxl, hxw⟩ := List.mem_filter.mp hx
  obtain ⟨hyl, hyw⟩ := List.mem_filter.mp hy
  rw [decide_eq_true_eq] at hxw hyw
  have hoff : off x ≠ off y := fun he => hne (by rw [← hxw, ← hyw, he])
  have h1 := hal x hxl
  have h2 := hal y hyl
  omega

/-- The scratchpads after the words of several lanes. -/
def padsAfter (core : Nat) (o : Nat → Nat) (bs : Nat → List Byte) (ls : List Nat) (cs : SMap Core) : SMap Core :=
  ls.foldl (fun cs l => cs.modify Core.reset core fun k => { k with pad := putBytes k.pad (o l) (bs l) }) cs

/-- Words of the scratchpad written one after another change the cores alone. -/
theorem foldl_padWr (s : State) (core : Nat) (o : Nat → Nat) (bs : Nat → List Byte) (ls : List Nat) :
    ls.foldl (fun s l => padWr s core (o l) (bs l)) s = { s with cores := padsAfter core o bs ls s.cores } := by
  induction ls generalizing s with
  | nil => rfl
  | cons l ls ih => rw [List.foldl_cons, ih]; rfl

/-- Of the core written the scratchpad changes, and of every other core nothing. -/
theorem get_padsAfter (core : Nat) (o : Nat → Nat) (bs : Nat → List Byte) (ls : List Nat) (cs : SMap Core) (j : Nat) :
    (padsAfter core o bs ls cs).get Core.reset j =
      if j = core then { cs.get Core.reset core with pad := putAll o bs (cs.get Core.reset core).pad ls } else cs.get Core.reset j := by
  induction ls generalizing cs with
  | nil => simp only [padsAfter, putAll, List.foldl_nil]; split_ifs with h <;> simp [h]
  | cons l ls ih =>
    rw [padsAfter, List.foldl_cons, ← padsAfter, ih]
    simp only [SMap.get_modify, if_true]
    split_ifs with h
    · rfl
    · rfl

/-- The result of spld (R129). -/
theorem spldLoads {d a im : Nat} {s : State} {g : Group} {p : Path} (h : Admitted { acc := accP, rd := vR [a], wr := vR [d] } s g p)
    (hok : ∀ l ∈ actLanes s g p, padFails s g (padOff s g a im l) = none) (hord : ¬OthersFirst s g false false []) :
    ∃ t, exec (.spld d a im) s = .next t ∧ Computes s s t g p (vR [d]) (rS g)
      (setV s g p d fun l => BitVec.ofNat 64 (padRd s g.place.core (padOff s g a im l) 8)) (fun n => g.m.get 0 n) 0 := by
  refine computes_landNow h rfl (vWrites d (actLanes s g p) fun l => BitVec.ofNat 64 (padRd s g.place.core (padOff s g a im l) 8)) _
    (fun G => ?_) (rS_puts_vWrites g d _ _) (fun m l hl => rV_puts_vWrites s g p d _ m l hl) (fun m _ => by rw [m_puts_vWrites])
    (cellReg_vWrites (fun _ => lt_of_mem_actLanes) _)
  simp only [firstBad_offsets hok]
  exact if_neg hord

/-- The result of spst: the words that stay are written, and no other byte (R129, R131; log 7). -/
theorem spstStores {d a im : Nat} {s : State} {g : Group} {p : Path} (h : Admitted { acc := accP, rd := vR [a, d] } s g p)
    (hok : ∀ l ∈ actLanes s g p, padFails s g (padOff s g a im l) = none) (hord : ¬OthersFirst s g true false []) :
    exec (.spst d a im) s = .next (goesOn s g p { s with
      fresh := s.fresh + 32
      cores := padsAfter g.place.core (padOff s g a im) (fun l => bytesLE 8 (rV g d l).toNat) (padWins s (padOff s g a im) (actLanes s g p)) s.cores }) := by
  refine gated_goesOn h rfl _ rfl rfl fun G => ?_
  simp only [firstBad_offsets hok, foldl_padWr]
  exact if_neg hord

/-- What is written to a scratchpad leaves the count under %hbmode as it is. -/
theorem hb_padsAfter (s : State) (core : Nat) (o : Nat → Nat) (bs : Nat → List Byte) (ls : List Nat) (c j : Nat) (n : Nat) :
    State.hb { s with fresh := n, cores := padsAfter core o bs ls s.cores } j c = s.hb j c := by
  have hget := get_padsAfter core o bs ls s.cores j
  unfold State.hb State.core
  rw [hget]
  split_ifs with h
  · subst h; rfl
  · rfl

/-- The bytes of a word of the scratchpad. -/
theorem padRd_eq_of_bytes {t : State} {core o n : Nat} {v : W64} (h : ∀ i < 8, padByte t core (o + i) = (bytesLE 8 n).getD i 0)
    (hn : n = v.toNat) : padRd t core o 8 = v.toNat := by
  have hb : padBytes t core o 8 = bytesLE 8 n :=
    List.ext_getElem (by simp [padBytes]) fun i hi hi' => by
      simp only [padBytes, List.length_map, List.length_range] at hi
      simp only [padBytes, List.getElem_map, List.getElem_range, h i hi, List.getD_eq_getElem _ _ hi']
  rw [padRd, hb, ofBytesLE_bytesLE, hn]
  exact Nat.mod_eq_of_lt v.isLt

/-- Settles O12: the lanes are checked in order; where none fails, spld's words are written to its destination, and spst's to the
scratchpad, one for each word that lanes name. -/
theorem scratchpadAccesses : Obligations.ScratchpadAccesses := by
  intro d a im s g p
  refine ⟨spldLoads, fun h hok hord => ?_, fun hok => ⟨fun h hord => ?_, fun h hord => ?_⟩, fun i hi ho pre l post c hl hpre hc => ?_⟩
  · have hcore := get_padsAfter g.place.core (padOff s g a im) (fun l => bytesLE 8 (rV g d l).toNat)
      (padWins s (padOff s g a im) (actLanes s g p)) s.cores
    refine ⟨_, spstStores h hok hord, ?_, fun c hc => ?_, ?_, fun b hb => ?_, fun l hl => ?_⟩
    · simp only [goesOn, passes, countedBeat, hb_padsAfter]; rfl
    · exact (hcore c).trans (if_neg hc)
    · exact congrArg (fun k : Core => { k with pad := (s.core g.place.core).pad }) ((hcore _).trans (if_pos rfl))
    · refine (congrArg (fun k : Core => k.pad.get 0 b) ((hcore _).trans (if_pos rfl))).trans ?_
      refine get_putAll_outside _ _ fun l hl => ?_
      rw [length_bytesLE]
      exact hb l (List.mem_of_mem_filter hl)
    · obtain ⟨k, hk, hoff⟩ := exists_padWins s (off := padOff s g a im) hl
      refine ⟨k, List.mem_of_mem_filter hk, hoff, ?_⟩
      rw [← hoff]
      refine padRd_eq_of_bytes (fun i hi => ?_) rfl
      refine (congrArg (fun c : Core => c.pad.get 0 _) ((hcore _).trans (if_pos rfl))).trans ?_
      refine get_putAll_of_mem _ (fun l => bytesLE 8 (rV g d l).toNat) hk (by rwa [length_bytesLE]) ?_
      simp only [length_bytesLE]
      exact padWins_apart s (actLanes_nodup s g p) fun l hl => aligned_of_padFails (hok l hl)
  · exact gated_waits h rfl _ _ rfl rfl fun G => by simp only [firstBad_offsets hok]; exact if_pos hord
  · exact gated_waits h rfl _ _ rfl rfl fun G => by simp only [firstBad_offsets hok]; exact if_pos hord
  · have hbad := firstBad_split hl hpre hc
    rcases hi with ⟨rfl, h⟩ | ⟨rfl, h⟩
    · exact gated_trapsBefore h rfl ho _ _ _ rfl rfl fun G => by simp only [hbad]
    · exact gated_trapsBefore h rfl ho _ _ _ rfl rfl fun G => by simp only [hbad]

end Sys2Proof.Machine
end

section
/-! The tile and tag tables (R138 to R142, R333, Table MEM.4, Table MEM.6). -/

namespace Sys2Proof.Machine
open Sys2Proof.Claims

/-! Tiles. -/

section
variable {s : State} {g : Group} {p : Path}

/-- A bank of a run, or the entry itself, is of another context. -/
theorem foreign_iff {t base cnt : Nat} :
    (!ownsBank s g.place.core g.ctx (2 * t) ||
      (List.range cnt).any fun i => base + i < 512 && !ownsBank s g.place.core g.ctx (base + i)) = true ↔
      ownsEntry s g t = false ∨ ¬∀ i < cnt, base + i < 512 → ownsBank s g.place.core g.ctx (base + i) = true := by
  simp [ownsEntry]

/-- The corners of talloc on an entry that is not held (R141). -/
theorem tallocBad_iff {r : Bool} {base cnt : Nat} {ts : SMap Tile} :
    (r || decide (cnt = 0) || decide (512 < base + cnt) ||
      ts.any fun y => y.2.reg && y.2.base < base + cnt && base < y.2.base + y.2.count) = true ↔
      r = true ∨ cnt = 0 ∨ 512 < base + cnt ∨
        ∃ y ∈ ts, y.2.reg = true ∧ base < y.2.base + y.2.count ∧ y.2.base < base + cnt := by
  simp only [Bool.or_eq_true, decide_eq_true_eq, List.any_eq_true, Bool.and_eq_true, or_assoc, and_assoc, and_comm (a := _ < base + cnt)]

theorem Tile.busy_iff {x : Tile} : x.busy = true ↔ x.st = .filling ∨ x.st = .draining := by simp [Tile.busy]

/-- R138, R141, R333. -/
theorem tallocResults {a b k : Nat} (h : Admitted { acc := {}, rd := sR [a, b] } s g p) :
    let core := g.place.core
    let ta := (rS g a).toNat % 256
    let base := (rS g b).toNat / 2 ^ 16 % 2 ^ 9
    let cnt := (rS g b).toNat / 2 ^ 32 % 2 ^ 10
    let x := s.tile core ta
    let mine := ∀ i < cnt, base + i < 512 → ownsBank s core g.ctx (base + i) = true
    let corner := x.reg = true ∨ cnt = 0 ∨ 512 < base + cnt ∨
      ∃ y ∈ (s.core core).tiles, y.2.reg = true ∧ base < y.2.base + y.2.count ∧ y.2.base < base + cnt
    (Ordinary g → ownsEntry s g ta = false ∨ ¬mine → exec (.talloc a b k) s = .next (trapsBefore s g p .padbound ta s)) ∧
    (ownsEntry s g ta = true → mine →
      (0 < x.held → exec (.talloc a b k) s = .next (waitsOn s g p (.tile ta false true) s)) ∧
      (x.held = 0 →
        (Ordinary g → corner → exec (.talloc a b k) s = .next (trapsBefore s g p .engine 0 s)) ∧
        (¬corner → exec (.talloc a b k) s = .next (goesOn s g p (s.modTile core ta fun x =>
          { x with gen := (x.gen + 1) % 2 ^ 16, count := cnt, base := base, reg := true, rmask := 0, held := 0, st := if k = 0 then .empty else .ready }))))) := by
  have hta : fld (rS g a).toNat 0 8 = (rS g a).toNat % 256 := fld_low _ _
  have hbase : fld (rS g b).toNat 16 9 = (rS g b).toNat / 2 ^ 16 % 2 ^ 9 := rfl
  have hcnt : fld (rS g b).toNat 32 10 = (rS g b).toNat / 2 ^ 32 % 2 ^ 10 := rfl
  intro core ta base cnt x mine corner
  refine ⟨fun ho hbad => ?_, fun hown hm => ?_⟩
  · refine gated_trapsBefore h rfl ho _ _ _ rfl rfl fun G => ?_
    simp only [hta, hbase, hcnt]
    exact if_pos (foreign_iff.mpr hbad)
  have hmine := mt foreign_iff.mp (not_or.mpr ⟨by simpa using hown, not_not.mpr hm⟩)
  refine ⟨fun hheld => ?_, fun hheld => ⟨fun ho hbad => ?_, fun hbad => ?_⟩⟩
  · refine gated_waits h rfl _ _ rfl rfl fun G => ?_
    simp only [hta, hbase, hcnt]
    exact (if_neg hmine).trans (if_pos hheld)
  · refine gated_trapsBefore h rfl ho _ _ _ rfl rfl fun G => ?_
    simp only [hta, hbase, hcnt]
    exact (if_neg hmine).trans ((if_neg hheld.not_gt).trans (if_pos (tallocBad_iff.mpr hbad)))
  · refine gated_goesOn h rfl _ rfl rfl fun G => ?_
    simp only [hta, hbase, hcnt]
    exact (if_neg hmine).trans ((if_neg hheld.not_gt).trans (if_neg (mt tallocBad_iff.mp hbad)))

/-- R139, R141, R159. -/
theorem trelResults {a k : Nat} (h : Admitted { acc := {}, rd := sR [a] } s g p) :
    let core := g.place.core
    let ta := (rS g a).toNat % 256
    let x := s.tile core ta
    (Ordinary g → ownsEntry s g ta = false → exec (.trel a k) s = .next (trapsBefore s g p .padbound ta s)) ∧
    (ownsEntry s g ta = true →
      (Ordinary g → x.reg = false ∨ x.busy = true → exec (.trel a k) s = .next (trapsBefore s g p .engine 0 s)) ∧
      (x.reg = true → x.busy = false →
        (0 < x.held → exec (.trel a k) s = .next (waitsOn s g p (.tile ta false true) s)) ∧
        (x.held = 0 →
          (Ordinary g → k = 2 ∧ x.st ≠ .empty → exec (.trel a k) s = .next (trapsBefore s g p .engine 0 s)) ∧
          ((k = 2 → x.st = .empty) → exec (.trel a k) s = .next (goesOn s g p (s.modTile core ta fun x =>
            if k = 0 then { x with reg := false, st := .empty } else if k = 1 then { x with st := .empty }
            else { x with st := .ready })))))) := by
  have hta : fld (rS g a).toNat 0 8 = (rS g a).toNat % 256 := fld_low _ _
  intro core ta x
  refine ⟨fun ho hown => ?_, fun hown => ⟨fun ho hbad => ?_, fun hreg hbusy => ?_⟩⟩
  · refine gated_trapsBefore h rfl ho _ _ _ rfl rfl fun G => ?_
    simp only [hta]
    exact if_pos (by simpa [ownsEntry] using hown)
  · refine gated_trapsBefore h rfl ho _ _ _ rfl rfl fun G => ?_
    simp only [hta]
    exact (if_neg (by simpa [ownsEntry] using hown)).trans (if_pos (by simpa using hbad))
  have hmine : ¬(!ownsBank s core g.ctx (2 * ta)) = true := by simpa [ownsEntry] using hown
  have hst : ¬(!x.reg || x.busy) = true := by simp [hreg, hbusy]
  refine ⟨fun hheld => ?_, fun hheld => ⟨fun ho hbad => ?_, fun hk => ?_⟩⟩
  · refine gated_waits h rfl _ _ rfl rfl fun G => ?_
    simp only [hta]
    exact (if_neg hmine).trans ((if_neg hst).trans (if_pos hheld))
  · refine gated_trapsBefore h rfl ho _ _ _ rfl rfl fun G => ?_
    simp only [hta]
    exact (if_neg hmine).trans ((if_neg hst).trans ((if_neg hheld.not_gt).trans (if_pos (by simpa using hbad))))
  · refine gated_goesOn h rfl _ rfl rfl fun G => ?_
    simp only [hta]
    exact (if_neg hmine).trans ((if_neg hst).trans ((if_neg hheld.not_gt).trans (if_neg (by simpa using hk))))

/-- R141, Table MEM.4. -/
theorem tstatResults {a b : Nat} (h : Admitted { acc := {}, rd := sR [b], wr := sR [a] } s g p) :
    let t := (rS g b).toNat % 256
    (Ordinary g → ownsEntry s g t = false → exec (.tstat a b) s = .next (trapsBefore s g p .padbound t s)) ∧
    (ownsEntry s g t = true → exec (.tstat a b) s = .next (goesOn s g p (wrote (.s a (s.tile g.place.core t).word) s))) := by
  have ht : fld (rS g b).toNat 0 8 = (rS g b).toNat % 256 := fld_low _ _
  intro t
  refine ⟨fun ho hown => gated_trapsBefore h rfl ho _ _ _ rfl rfl fun G => ?_, fun hown => gated_writes h rfl _ _ rfl rfl fun G => ?_⟩
  · simp only [ht]
    exact if_pos (by simpa [ownsEntry] using hown)
  · simp only [ht]
    exact if_neg (by simpa [ownsEntry] using hown)

end

/-- R138 to R141, R333. -/
theorem tileTable : Claims.TileTable := by
  intro a b k s g p core ta tb base cnt x mine apart
  refine ⟨fun h => ?_, fun h => ?_, fun h => ?_⟩
  · obtain ⟨hpad, hgo⟩ := tallocResults (k := k) h
    refine ⟨fun hown hm hheld hreg hcnt hfit hap => ((hgo hown hm).2 hheld).2 ?_, fun ho hbad => hpad ho hbad, fun hown hm hheld => (hgo hown hm).1 hheld,
      fun ho hown hm hheld hbad => ((hgo hown hm).2 hheld).1 ho hbad⟩
    rintro (hr | hc | hf | ⟨y, hy, hyr, hlo, hhi⟩)
    · rw [hr] at hreg; cases hreg
    · exact hcnt hc
    · exact hf.not_ge hfit
    · rcases hap y hy hyr with h | h
      · exact hlo.not_ge h
      · exact hhi.not_ge h
  · obtain ⟨hpad, hgo⟩ := trelResults (k := k) h
    have hfree (hst : x.st = .empty ∨ x.st = .ready) : x.busy = false := by rcases hst with h | h <;> simp [Tile.busy, h]
    refine ⟨fun hown hreg hst => ⟨fun hheld hk _ => (((hgo hown).2 hreg (hfree hst)).2 hheld).2 hk,
      fun hheld => ((hgo hown).2 hreg (hfree hst)).1 hheld⟩, fun ho hown => hpad ho hown, fun ho hown hbad => ?_⟩
    by_cases hearly : x.reg = false ∨ x.busy = true
    · exact (hgo hown).1 ho hearly
    · obtain ⟨hreg, hbusy⟩ := not_or.mp hearly
      have hlate : x.held = 0 ∧ k = 2 ∧ x.st ≠ .empty := by
        simp only [Tile.busy_iff] at hbusy
        tauto
      exact (((hgo hown).2 (by simpa using hreg) (by simpa using hbusy)).2 hlate.1).1 ho hlate.2
  · obtain ⟨hpad, hgo⟩ := tstatResults h
    exact ⟨hgo, hpad⟩

end Sys2Proof.Machine
end

section
namespace Sys2Proof.Machine
open Sys2Proof.Claims

/-! Tags. -/

/-- Of the mark `m` and an entry, the one used earlier. -/
def olderOf (m : Nat × Nat) (w : Nat × Option Tag) : Nat × Nat :=
  match w.2 with
  | some t => if t.used < m.2 then (w.1, t.used) else m
  | none => m

/-- Going through the entries of a list keeps the mark or an entry, and none of them was used before it. -/
theorem foldl_olderOf (l : List (Nat × Option Tag)) (m : Nat × Nat) :
    (l.foldl olderOf m = m ∨ ∃ x ∈ l, ∃ t, x.2 = some t ∧ l.foldl olderOf m = (x.1, t.used)) ∧ (l.foldl olderOf m).2 ≤ m.2 ∧
      ∀ x ∈ l, ∀ t, x.2 = some t → (l.foldl olderOf m).2 ≤ t.used := by
  induction l generalizing m with
  | nil => simp
  | cons y l ih =>
    have hstep : (olderOf m y = m ∨ ∃ t, y.2 = some t ∧ olderOf m y = (y.1, t.used)) ∧ (olderOf m y).2 ≤ m.2 ∧
        ∀ t, y.2 = some t → (olderOf m y).2 ≤ t.used := by
      unfold olderOf
      cases hy : y.2 with
      | none => simp
      | some t => dsimp only; split_ifs with hlt <;> simp <;> omega
    obtain ⟨hr, hm, hl⟩ := ih (olderOf m y)
    rw [List.foldl_cons]
    refine ⟨?_, hm.trans hstep.2.1, fun x hx t ht => ?_⟩
    · rcases hr with hr | ⟨x, hx, h⟩
      · rw [hr]
        exact hstep.1.imp_right fun h => ⟨y, List.mem_cons_self, h⟩
      · exact .inr ⟨x, List.mem_cons_of_mem _ hx, h⟩
    · obtain rfl | hx := List.mem_cons.mp hx
      · exact hm.trans (hstep.2.2 t ht)
      · exact hl x hx t ht

/-- The way to fill: the lowest invalid one, else the least recently used (Table MEM.6). -/
theorem fillWay_spec (k : Core) (set : Nat) : ∃ w < 4, fillWay (setTags k set) = 4 * set + w ∧
    (∀ v < 4, k.tags.find? (4 * set + v) = none → k.tags.find? (4 * set + w) = none ∧ w ≤ v) ∧
    ∀ v t u, v < 4 → k.tags.find? (4 * set + w) = some t → k.tags.find? (4 * set + v) = some u → t.used ≤ u.used := by
  have hmem {x : Nat × Option Tag} : x ∈ setTags k set ↔ ∃ w < 4, x = (4 * set + w, k.tags.find? (4 * set + w)) := by
    simp [setTags, eq_comm]
  cases hf : (setTags k set).find? fun w => w.2.isNone with
  | some x =>
    have hx := hf
    rw [setTags, List.find?_map, Option.map_eq_some_iff] at hx
    obtain ⟨w, hw, rfl⟩ := hx
    obtain ⟨hnone, hlt, hlow⟩ := List.find?_range_eq_some.mp hw
    have hnone : k.tags.find? (4 * set + w) = none := by simpa using hnone
    refine ⟨w, by simpa using hlt, by simp only [fillWay, hf], fun v hv hvn => ⟨hnone, Nat.le_of_not_lt fun hlt => ?_⟩, fun v t u _ ht => ?_⟩
    · simpa [hvn] using hlow v hlt
    · rw [hnone] at ht; cases ht
  | none =>
    have hsome (v : Nat) (hv : v < 4) : k.tags.find? (4 * set + v) ≠ none := fun hn => by
      simpa [hn] using List.find?_eq_none.mp hf _ (hmem.mpr ⟨v, hv, rfl⟩)
    obtain ⟨t0, h0⟩ := Option.ne_none_iff_exists'.mp (hsome 0 (by decide))
    obtain ⟨hr, -, hleast⟩ := foldl_olderOf (setTags k set) (4 * set + 0, t0.used)
    have hfill : fillWay (setTags k set) = ((setTags k set).foldl olderOf (4 * set + 0, t0.used)).1 := by
      have hhead : (setTags k set).headD (0, none) = (4 * set + 0, some t0) := by rw [← h0]; rfl
      simp only [fillWay, hf, hhead]
      rfl
    have hr : ∃ w < 4, ∃ t, k.tags.find? (4 * set + w) = some t ∧ (setTags k set).foldl olderOf (4 * set + 0, t0.used) = (4 * set + w, t.used) := by
      rcases hr with hr | ⟨x, hx, t, ht, hr⟩
      · exact ⟨0, by decide, t0, h0, hr⟩
      · obtain ⟨w, hw, rfl⟩ := hmem.mp hx
        exact ⟨w, hw, t, ht, hr⟩
    obtain ⟨w, hw, t, ht, hr⟩ := hr
    rw [hr] at hleast hfill
    refine ⟨w, hw, hfill, fun v hv hvn => absurd hvn (hsome v hv), fun v t' u hv ht' hu => ?_⟩
    rw [ht, Option.some.injEq] at ht'
    exact ht' ▸ hleast _ (hmem.mpr ⟨v, hv, rfl⟩) u hu

/-- The lowest way that holds the key is the hit (log 106). -/
theorem setTags_hit {k : Core} {set w : Nat} {t : Tag} {key : W64} (hw : w < 4) (ht : k.tags.find? (4 * set + w) = some t) (hkey : t.key = key)
    (hlow : ∀ v u, v < w → k.tags.find? (4 * set + v) = some u → u.key ≠ key) :
    ((setTags k set).find? fun x => x.2.map Tag.key = some key) = some (4 * set + w, some t) := by
  have hfirst : ((List.range 4).find? fun v => (k.tags.find? (4 * set + v)).map Tag.key = some key) = some w := by
    refine List.find?_range_eq_some.mpr ⟨by simp [ht, hkey], by simpa using hw, fun v hv => ?_⟩
    cases hf : k.tags.find? (4 * set + v) with
    | none => simp
    | some u => simpa using hlow v u hv hf
  rw [setTags, List.find?_map]
  exact (congrArg (Option.map _) hfirst).trans (by simp [ht])

/-- Where no way holds the key, none is found. -/
theorem setTags_miss {k : Core} {set : Nat} {key : W64} (h : ∀ w t, w < 4 → k.tags.find? (4 * set + w) = some t → t.key ≠ key) :
    ((setTags k set).find? fun x => x.2.map Tag.key = some key) = none := by
  simp only [setTags, List.find?_eq_none, List.forall_mem_map, List.mem_range, decide_eq_true_eq]
  intro w hw hk
  obtain ⟨t, ht, hkey⟩ := Option.map_eq_some_iff.mp hk
  exact h w t hw ht hkey

/-- R142, Table MEM.6. -/
theorem tagTable : Claims.TagTable := by
  intro a b s g p
  dsimp only
  have he : fld (rS g b).toNat 0 10 = (rS g b).toNat % 1024 := fld_low _ _
  have hea : fld (rS g a).toNat 0 10 = (rS g a).toNat % 1024 := fld_low _ _
  have hown {t : Nat} (h : ownsEntry s g t = true) : ¬(!ownsBank s g.place.core g.ctx (2 * t)) = true := by simpa [ownsEntry] using h
  have hforeign {t : Nat} (h : ownsEntry s g t = false) : (!ownsBank s g.place.core g.ctx (2 * t)) = true := by simpa [ownsEntry] using h
  refine ⟨fun h hset => ⟨fun w t hw ht hkey hlow => ?_, fun hmiss => ?_⟩, fun h hent hkey => ?_, fun h hent => ?_, fun h => ?_,
    fun ho => ⟨fun h hset => ?_, fun h => ⟨fun hent => ?_, fun hent hkey => ?_⟩, fun h hent => ?_⟩⟩
  · refine gated_writes h rfl _ _ rfl rfl fun G => (if_neg (hown hset)).trans ?_
    simp only [setTags_hit hw ht hkey hlow]
    rfl
  · obtain ⟨w, hw, hfill, hfree, hleast⟩ := fillWay_spec (s.core g.place.core) ((rS g b).toNat % 256)
    refine ⟨w, hw, ?_, hfree, hleast⟩
    refine gated_writes h rfl _ _ rfl rfl fun G => (if_neg (hown hset)).trans ?_
    simp only [setTags_miss hmiss]
    rw [hfill]
    rfl
  · refine gated_goesOn h rfl _ rfl rfl fun G => ?_
    simp only [he]
    exact (if_neg (hown hent)).trans (if_neg (not_not.mpr hkey))
  · refine gated_goesOn h rfl _ rfl rfl fun G => (if_pos rfl).trans ?_
    simp only [hea]
    exact if_neg (hown hent)
  · exact gated_goesOn h rfl _ rfl rfl fun G => if_neg (by decide)
  · exact gated_trapsBefore h rfl ho _ _ _ rfl rfl fun G => if_pos (hforeign hset)
  · refine gated_trapsBefore h rfl ho _ _ _ rfl rfl fun G => ?_
    simp only [he]
    exact if_pos (hforeign hent)
  · refine gated_trapsBefore h rfl ho _ _ _ rfl rfl fun G => ?_
    simp only [he]
    exact (if_neg (hown hent)).trans (if_pos hkey)
  · refine gated_trapsBefore h rfl ho _ _ _ rfl rfl fun G => (if_pos rfl).trans ?_
    simp only [hea]
    exact if_pos (hforeign hent)

end Sys2Proof.Machine
end

section
/-! Gang lists (R152, R153, R345) and the commands to %divspill (R346, R353). -/

namespace Sys2Proof.SMap
variable {α : Type}

/-- What no pair tells apart from the one that it replaces holds of some pair as before. -/
theorem any_put {m : SMap α} {k : Nat} {v w : α} {P : Nat × α → Bool} (h : m.find? k = some v) (hP : P (k, w) = P (k, v)) :
    (m.put k w).any P = m.any P := by
  rw [Bool.eq_iff_iff, List.any_eq_true, List.any_eq_true]
  constructor
  · rintro ⟨q, hq, hPq⟩
    obtain rfl | hm := mem_put m k w hq
    · exact ⟨_, mem_of_find? h, hP ▸ hPq⟩
    · exact ⟨q, hm, hPq⟩
  · rintro ⟨q, hq, hPq⟩
    obtain hm | rfl := mem_put_of_mem h w hq
    · exact ⟨q, hm, hPq⟩
    · exact ⟨(k, w), mem_of_find? (find?_put_self m k w), hP ▸ hPq⟩

end Sys2Proof.SMap

namespace Sys2Proof.Machine
open Sys2Proof.Claims

/-! Paths of a state, by group and slot. -/

theorem group?_modPathAt (s : State) (j k : Nat) (f : Path → Path) (a : Nat) :
    (s.modPathAt j k f).group? a = if a = j then (s.group? j).map fun g => g.modPath k f else s.group? a := SMap.find?_adjust _ _ _ _

theorem path?_modPathAt (s : State) (j k : Nat) (f : Path → Path) (a b : Nat) :
    (s.modPathAt j k f).path? a b = if a = j ∧ b = k then (s.path? a b).map f else s.path? a b := by
  simp only [State.path?, group?_modPathAt]
  by_cases ha : a = j
  · subst ha
    cases hg : s.group? a with
    | none => simp
    | some g =>
      simp only [if_true, true_and, Option.map_some, Option.bind_some, Group.modPath, SMap.find?_adjust]
      split_ifs with hb <;> simp [hb]
  · simp [ha]

/-- The path waits, and a trap that it takes is no double fault. -/
def TrapReady (s : State) (e : Nat × Nat) : Prop := (s.group? e.1).map Group.isHandler = some false ∧ (s.path? e.1 e.2).isSome

/-- The path has taken GANG precisely at its instruction. -/
def GangTrapped (s : State) (e : Nat × Nat) : Prop :=
  ∃ q r, s.path? e.1 e.2 = some q ∧ q.cond = .trapped r ∧ r.cause = .gang ∧ r.after_ = false

/-- The record of a group, one path of which takes a trap. -/
def trapMark (slot : Nat) (r : TrapRec) (ps : List PipeE) (g : Group) : Group :=
  { (g.modPath slot fun p => { p with cond := .trapped r, fpx := none, since := 0, woken := none }) with replay := g.replay ++ ps }

/-- A trap of a waiting path changes that path and no other. -/
theorem trapWaiting_spec {s : State} {gid slot : Nat} (h : TrapReady s (gid, slot)) :
    let t := trapWaiting s gid slot .gang
    (t.quads = s.quads ∧ t.mem = s.mem ∧ t.iss = s.iss) ∧ GangTrapped t (gid, slot) ∧
      (∀ a, (t.group? a).map Group.isHandler = (s.group? a).map Group.isHandler) ∧
      ∀ a b, (a, b) ≠ (gid, slot) → t.path? a b = s.path? a b := by
  obtain ⟨hkind, hpath⟩ := h
  obtain ⟨g, hg, ho⟩ := Option.map_eq_some_iff.mp hkind
  obtain ⟨q, hq⟩ := Option.isSome_iff_exists.mp hpath
  let r : TrapRec := { cause := .gang, data := 0, addr := q.pc, next := q.after_, rep := 0, after_ := false }
  let ps := s.pipe.filter fun e => decide (e.gid = gid) && decide (e.slot = slot)
  intro t
  have ht : t = trapPath s gid slot r := by simp only [t, trapWaiting, show s.path? gid slot = some q from hq]; rfl
  rw [trapPath_of hg ho] at ht
  have hgroup (a : Nat) : t.group? a = if a = gid then (s.group? gid).map (trapMark slot r ps) else s.group? a := by
    rw [ht]; exact SMap.find?_adjust _ _ _ _
  have hpaths (a b : Nat) : t.path? a b = (s.modPathAt gid slot fun p => { p with cond := .trapped r, fpx := none, since := 0, woken := none }).path? a b := by
    rw [State.path?, State.path?, hgroup, group?_modPathAt]
    split_ifs with ha
    · rw [Option.bind_map, Option.bind_map]; rfl
    · rfl
  refine ⟨by rw [ht]; exact ⟨rfl, rfl, rfl⟩, ⟨_, r, (hpaths _ _).trans ((path?_modPathAt _ _ _ _ _ _).trans ((if_pos ⟨rfl, rfl⟩).trans (congrArg _ hq))), rfl, rfl, rfl⟩,
    fun a => ?_, fun a b hab => ?_⟩
  · rw [hgroup]
    split_ifs with ha
    · rw [ha, Option.map_map]; rfl
    · rfl
  · rw [hpaths, path?_modPathAt, if_neg (by simpa using hab)]

/-- R153: every path that has arrived takes GANG; the other paths are left as they are. -/
theorem foldl_trapWaiting (l : List Arrival) {s : State} (hnd : (l.map fun e => (e.gid, e.slot)).Nodup)
    (hready : ∀ e ∈ l, TrapReady s (e.gid, e.slot)) :
    let t := l.foldl (fun s e => trapWaiting s e.gid e.slot .gang) s
    (t.quads = s.quads ∧ t.mem = s.mem ∧ t.iss = s.iss) ∧ (∀ e ∈ l, GangTrapped t (e.gid, e.slot)) ∧
      (∀ a, (t.group? a).map Group.isHandler = (s.group? a).map Group.isHandler) ∧
      ∀ a b, (a, b) ∉ l.map (fun e => (e.gid, e.slot)) → t.path? a b = s.path? a b := by
  induction l generalizing s with
  | nil => simp
  | cons e l ih =>
    obtain ⟨hhead, htail⟩ := List.nodup_cons.mp (by simpa only [List.map_cons] using hnd)
    obtain ⟨⟨hquads, hmem, hiss⟩, htrap, hkind, hpath⟩ := trapWaiting_spec (hready e List.mem_cons_self)
    have hne {x : Arrival} (hx : x ∈ l) : (x.gid, x.slot) ≠ (e.gid, e.slot) := fun he => hhead (List.mem_map.mpr ⟨x, hx, he⟩)
    obtain ⟨⟨hquads', hmem', hiss'⟩, htrap', hkind', hpath'⟩ := ih htail fun x hx => by
      obtain ⟨h1, h2⟩ := hready x (List.mem_cons_of_mem _ hx)
      exact ⟨(hkind _).trans h1, by rw [hpath _ _ (hne hx)]; exact h2⟩
    refine ⟨⟨hquads'.trans hquads, hmem'.trans hmem, hiss'.trans hiss⟩, fun x hx => ?_, fun a => (hkind' a).trans (hkind a), fun a b hab => ?_⟩
    · obtain rfl | hx := List.mem_cons.mp hx
      · obtain ⟨q, r, hq, hr⟩ := htrap
        exact ⟨q, r, (hpath' _ _ hhead).trans hq, hr⟩
      · exact htrap' x hx
    · obtain ⟨h1, h2⟩ := not_or.mp (List.mem_cons.not.mp (by simpa only [List.map_cons] using hab))
      exact (hpath' a b h2).trans (hpath a b h1)

/-! The gang list of a quadrant. -/

theorem any_groups_modPathAt (s : State) (j k : Nat) (f : Path → Path) {P : Nat × Group → Bool} (hP : ∀ g, P (j, g.modPath k f) = P (j, g)) :
    (s.modPathAt j k f).groups.any P = s.groups.any P := by
  simp only [State.modPathAt, State.modGroup, SMap.adjust]
  cases hg : s.groups.find? j with
  | none => rfl
  | some g => exact SMap.any_put hg (hP g)

/-- Which lists are legal does not depend on what a path's record holds. -/
theorem gangOk_modPath (s : State) (f : Path → Path) (c : Nat) (pl : Place) (x : W64) : gangOk (s.modPath f) c pl x = gangOk s c pl x := by
  have hat (a b : Nat) : (groupAt (s.modPath f) pl.core pl.quad a b c).isSome = (groupAt s pl.core pl.quad a b c).isSome := by
    rw [Bool.eq_iff_iff, groupAt, groupAt, List.find?_isSome, List.find?_isSome, ← List.any_eq_true, ← List.any_eq_true, State.modPath,
      any_groups_modPathAt]
    exact fun _ => rfl
  unfold gangOk
  simp only [hat]

/-- A path's record is as ready for a trap when another record, or its own, is changed. -/
theorem TrapReady.modPath {s : State} {e : Nat × Nat} (h : TrapReady s e) (j k : Nat) (f : Path → Path) : TrapReady (s.modPathAt j k f) e := by
  obtain ⟨h1, h2⟩ := h
  refine ⟨?_, ?_⟩
  · rw [group?_modPathAt]
    split_ifs with ha
    · rw [← ha, Option.map_map]; exact h1
    · exact h1
  · rw [path?_modPathAt]
    split_ifs
    · rw [Option.isSome_map]; exact h2
    · exact h2

/-- The count of an instruction changes no path. -/
theorem path?_tallied (s : State) (p : Path) {t : State} (ht : (t.group? s.iss.gid).isSome) (a b : Nat) :
    (tallied s p t).path? a b = t.path? a b := by
  obtain ⟨h, hh⟩ := Option.isSome_iff_exists.mp ht
  obtain ⟨n, d, -, hother, hown⟩ := tallied_of_group s p hh
  by_cases ha : a = s.iss.gid
  · subst ha
    simp only [State.path?, hown, hh, Option.bind_some]
  · simp only [State.path?, hother a ha]

theorem modQuad_modQuad (s : State) (q : Nat) (f f' : Quad → Quad) : (s.modQuad q f).modQuad q f' = s.modQuad q fun x => f' (f x) := by
  simp only [State.modQuad, SMap.modify, SMap.put_put, SMap.get_put, if_true]

theorem quad_modQuad (s : State) (q : Nat) (f : Quad → Quad) : (s.modQuad q f).quad q = f (s.quad q) := by
  simp [State.quad, State.modQuad, SMap.get_modify]

theorem gangOk_marked (s : State) (p : Path) (c : Nat) (pl : Place) (x : W64) : gangOk (marked s p) c pl x = gangOk s c pl x := by
  unfold marked
  split_ifs
  · rfl
  · exact gangOk_modPath _ _ _ _ _

theorem TrapReady.marked {s : State} {e : Nat × Nat} (h : TrapReady s e) (p : Path) : TrapReady (marked s p) e := by
  unfold Machine.marked
  split_ifs
  · exact h
  · exact h.modPath _ _ _

theorem quads_marked (s : State) (p : Path) : (marked s p).quads = s.quads := by unfold marked; split_ifs <;> rfl
theorem mem_marked (s : State) (p : Path) : (marked s p).mem = s.mem := by unfold marked; split_ifs <;> rfl
theorem iss_marked (s : State) (p : Path) : (marked s p).iss = s.iss := by unfold marked; split_ifs <;> rfl

/-- A legal list is set, and every path that has arrived takes GANG (R152, R153). -/
theorem issued_setGang {s : State} {g : Group} {p : Path} (h : Issuing s g p) {x : W64} (hok : gangOk s g.ctx g.place x = true)
    (hnd : ((s.quad g.place.quadIx).latch.map fun e => (e.gid, e.slot)).Nodup)
    (hme : (s.iss.gid, s.iss.slot) ∉ (s.quad g.place.quadIx).latch.map fun e => (e.gid, e.slot))
    (hready : ∀ e ∈ (s.quad g.place.quadIx).latch, TrapReady s (e.gid, e.slot)) :
    let t := issued true s p (setGang x g)
    t.quad g.place.quadIx = { s.quad g.place.quadIx with gang := x, latch := [] } ∧ t.mem = s.mem ∧
      ∀ e ∈ (s.quad g.place.quadIx).latch, GangTrapped t (e.gid, e.slot) := by
  let u := (marked s p).modQuad g.place.quadIx fun q => { q with gang := x, latch := [] }
  let v := (s.quad g.place.quadIx).latch.foldl (fun s e => trapWaiting s e.gid e.slot .gang) u
  have hquad : (marked s p).quad g.place.quadIx = s.quad g.place.quadIx := by rw [State.quad, quads_marked]; rfl
  have hset : setGang x g (marked s p) = advance v := by
    unfold setGang gangAbort
    rw [gangOk_marked, hok, modQuad_modQuad, quad_modQuad, hquad]
    rfl
  obtain ⟨⟨hquads, hmem, hiss⟩, htrap, hkind, hpath⟩ := foldl_trapWaiting (s := u) _ hnd fun e he => (hready e he).marked p
  have hiss : v.iss = s.iss := hiss.trans (iss_marked s p)
  have hown : ((advance v).group? s.iss.gid).isSome := by
    have hv : ((v.group? s.iss.gid).map Group.isHandler).isSome := by
      have hu : ((marked s p).group? s.iss.gid).isSome := by
        obtain ⟨G, y, b, hG, hm⟩ := marked_eq h
        rw [hG]
        exact Option.isSome_iff_exists.mpr ⟨_, hm.group⟩
      rw [hkind, Option.isSome_map]
      exact hu
    rw [advance, State.modPath, group?_modPathAt, hiss, if_pos rfl, Option.isSome_map]
    simpa using hv
  obtain ⟨w, hw⟩ := Option.isSome_iff_exists.mp hown
  obtain ⟨-, -, hframe, -⟩ := tallied_of_group s p hw
  intro t
  have ht : t = tallied s p (advance v) := (issued_eq_tallied s p _).trans (congrArg _ hset)
  refine ⟨?_, ?_, fun e he => ?_⟩
  · have hq : t.quads = v.quads := by rw [ht, hframe]; rfl
    rw [State.quad, hq, hquads]
    refine (quad_modQuad _ _ _).trans ?_
    rw [hquad]
  · have hm : t.mem = v.mem := by rw [ht, hframe]; rfl
    rw [hm, hmem]
    exact mem_marked s p
  · obtain ⟨q, r, hq, hr⟩ := htrap e he
    refine ⟨q, r, ?_, hr⟩
    have hne : ¬(e.gid = s.iss.gid ∧ e.slot = s.iss.slot) := fun ⟨h1, h2⟩ => hme (List.mem_map.mpr ⟨e, he, by rw [h1, h2]⟩)
    rw [ht, path?_tallied s p hown, advance, State.modPath, path?_modPathAt, hiss, if_neg hne]
    exact hq

/-- The position that gang reads: the group's own, or that of the group that it serves (R345). -/
theorem pgroup_position {s : State} {g : Group} {x : Place}
    (hx : if g.isHandler then ∃ y h, g.served = some y ∧ s.group? y.1 = some h ∧ x = h.place else x = g.place) (hpart : x.part < 4)
    (hpos : x.pos < 16) : pgroup s g % 64 * 2 ^ 4 = x.part * 2 ^ 8 + x.pos * 2 ^ 4 := by
  have hplace : pgroup s g = 64 * x.quad + 16 * x.part + x.pos % 16 := by
    unfold pgroup
    cases hk : g.kind
    all_goals simp only [Group.isHandler, Group.served, hk, if_true, Bool.false_eq_true, if_false] at hx
    case trapH gid slot | porter gid slot =>
      obtain ⟨y, h, hy, hh, rfl⟩ := hx
      cases hy
      simp only [hh]
      rfl
    all_goals rw [hx]
  rw [hplace]
  omega

/-- With no group at a rendezvous the list alone changes. -/
theorem setGang_idle {u : State} {g : Group} {x : W64} (hok : gangOk u g.ctx g.place x = true) (hlatch : (u.quad g.place.quadIx).latch = []) :
    setGang x g u = advance (u.modQuad g.place.quadIx fun q => { q with gang := x, latch := [] }) := by
  unfold setGang gangAbort
  rw [hok, modQuad_modQuad, quad_modQuad, hlatch]
  rfl

theorem setGang_illegal {u : State} {g : Group} {x : W64} (hok : gangOk u g.ctx g.place x = false) : setGang x g u = trapAt .gang 0 u := by
  unfold setGang
  rw [hok]
  rfl

/-- R152, R153, R345. -/
theorem gangListResults : Claims.GangLists := by
  intro a s g p
  refine ⟨fun h x hx hpart hpos => ?_, fun i hi => ?_⟩
  · refine gated_writes h rfl _ _ rfl rfl fun G => (if_neg (by decide)).trans ?_
    rw [pgroup_position hx hpart hpos]
    rfl
  have hset : ∃ adm, Admitted adm s g p ∧ exec i s = .next (issued true s p (setGang (rS g a) g)) := by
    rcases hi with ⟨rfl, h⟩ | ⟨rfl, h⟩
    · exact ⟨_, h, gated_admitted h _⟩
    · exact ⟨_, h, syswrOp_admitted (n := 0x0E) h fun hn => absurd hn (by decide)⟩
  obtain ⟨adm, h, hexec⟩ := hset
  rw [hexec]
  refine ⟨fun hok hlatch => ?_, fun hok hnd hme hl => ?_, fun hok ho => ?_⟩
  · rw [issued_congr (k' := fun u => advance (u.modQuad g.place.quadIx fun q => { q with gang := rS g a, latch := [] })) true
      (setGang_idle hok hlatch) fun f => setGang_idle ((gangOk_modPath s f _ _ _).trans hok) hlatch]
    exact congrArg _ (goesOn_of h.toIssuing _ rfl rfl fun _ => rfl)
  · obtain ⟨hq, hmem, htrap⟩ := issued_setGang h.toIssuing hok hnd hme fun e he => by
      obtain ⟨w, q, hw, ho, hq⟩ := hl _ (List.mem_map.mpr ⟨e, he, rfl⟩)
      exact ⟨by rw [hw]; exact congrArg some ho, by simp [State.path?, hw, hq]⟩
    exact ⟨_, rfl, hq, hmem, List.forall_mem_map.mpr htrap⟩
  · rw [issued_congr (k' := trapAt .gang 0) true (setGang_illegal hok) fun f => setGang_illegal ((gangOk_modPath s f _ _ _).trans hok)]
    exact congrArg _ (trapsBefore_of h.toIssuing ho _ _ _ rfl rfl fun _ => rfl)

/-! The commands to %divspill (R346, R353). -/

/-- Of the groups' records only what the paths hold has changed. -/
def PathsAlone (s t : State) : Prop := ∀ j, ∃ x : Group → SMap Path, t.group? j = (s.group? j).map fun h => { h with paths := x h }

section
variable {s t u : State}

theorem PathsAlone.mapGroups {f : Nat → Group → Group} (h : t.groups = s.groups.mapV f) (hf : ∀ k g, f k g = { g with paths := (f k g).paths }) :
    PathsAlone s t := fun j => by
  refine ⟨fun g => (f j g).paths, ?_⟩
  unfold State.group?
  rw [h, SMap.find?_mapV]
  exact congrArg (Option.map · _) (funext (hf j))

theorem PathsAlone.of_groups (h : t.groups = s.groups) : PathsAlone s t := fun j =>
  ⟨Group.paths, by unfold State.group?; rw [h]; exact (congrFun Option.map_id_fun' _).symm⟩

theorem PathsAlone.trans (h : PathsAlone s t) (k : PathsAlone t u) : PathsAlone s u := fun j => by
  obtain ⟨x, hx⟩ := h j
  obtain ⟨y, hy⟩ := k j
  exact ⟨fun h => y { h with paths := x h }, by rw [hy, hx, Option.map_map]; rfl⟩

theorem PathsAlone.wr (s : State) (pa : Nat) (bs : List Byte) : PathsAlone s (s.wr pa bs) := by
  unfold State.wr
  refine .mapGroups (f := ?f) ?groups ?paths
  case groups => dsimp only; rfl
  case paths => exact fun _ _ => rfl

theorem PathsAlone.postEvent (s : State) (typ c : Nat) (body : List (Nat × Nat)) : PathsAlone s (postEvent s typ c body) := by
  unfold Machine.postEvent
  dsimp only
  split_ifs
  · exact .trans (.wr _ _ _) (.of_groups rfl)
  · exact .of_groups rfl
  · exact .of_groups rfl

theorem PathsAlone.beginQuiesce (s : State) (c : Nat) (a : After) : PathsAlone s (beginQuiesce s c a) := by
  unfold Machine.beginQuiesce
  refine .mapGroups (f := ?f) ?groups ?paths
  case groups => dsimp only [State.modCtx]; rfl
  case paths => intro _ g; split_ifs <;> rfl

/-- A double fault, where no Porter is attached, leaves the groups' records but for what their paths hold. -/
theorem PathsAlone.doubleFault {g : Group} {slot : Nat} {c : Cause} {addr : W64} (hporter : (s.ctx? g.ctx).map Ctx.porter = some false) :
    PathsAlone s (doubleFault s g slot c addr) := by
  have hno : ¬some false = some true := by decide
  unfold Machine.doubleFault
  simp only [hporter, if_neg hno]
  split_ifs
  · exact (PathsAlone.beginQuiesce _ _ _).trans (.postEvent _ _ _ _)
  · exact .postEvent _ _ _ _

end

/-- The count that a command to %divspill names does not fit, or the command is none (R353). -/
def spillBad (x : Nat) (h : Group) : Bool :=
  fld x 62 2 = 3 || 128 < fld x 0 8 || (fld x 62 2 = 1 && h.rstack.length < fld x 16 5) || (fld x 62 2 = 2 && 16 - h.rstack.length < fld x 16 5)

/-- The record of the group served, after a command of %divspill. -/
def spilled (x : Nat) (t : Group) : Group :=
  { t with
    spill := fld x 0 8
    rstack := if fld x 62 2 = 1 then t.rstack.drop (fld x 16 5)
      else if fld x 62 2 = 2 then List.replicate (fld x 16 5) (REntry.ofBits 0) ++ t.rstack else t.rstack }

theorem wrDivspill_eq {u : State} {g h : Group} {gid slot x : Nat} (hserved : g.served = some (gid, slot)) (hh : u.group? gid = some h) :
    wrDivspill x g u = if spillBad x h then trapAt .illop 0 u else advance (u.modGroup gid (spilled x)) := by
  simp only [wrDivspill, servedGroup, hserved, Option.bind_some, hh]
  rfl

theorem spillBad_iff {x : Nat} {h : Group} (hlen : h.rstack.length ≤ 16) : spillBad x h = true ↔
    x / 2 ^ 62 % 4 = 3 ∨ 128 < x % 2 ^ 8 ∨ (x / 2 ^ 62 % 4 = 1 ∧ h.rstack.length < x / 2 ^ 16 % 2 ^ 5) ∨
      (x / 2 ^ 62 % 4 = 2 ∧ 16 < h.rstack.length + x / 2 ^ 16 % 2 ^ 5) := by
  have hsub : 16 - h.rstack.length < x / 2 ^ 16 % 2 ^ 5 ↔ 16 < h.rstack.length + x / 2 ^ 16 % 2 ^ 5 := by omega
  simp only [spillBad, fld_low, Bool.or_eq_true, Bool.and_eq_true, decide_eq_true_eq, or_assoc]
  exact or_congr_right (or_congr_right (or_congr_right (and_congr_right fun _ => hsub)))

theorem isHandler_of_served {g : Group} {e : Nat × Nat} (h : g.served = some e) : g.isHandler = true := by
  unfold Group.served at h
  unfold Group.isHandler
  split at h <;> simp_all

/-- A trap of a handler group, before its instruction takes effect, is a double fault. -/
theorem trapAt_handler {u : State} {g : Group} (hg : u.group? u.iss.gid = some g) (hh : g.isHandler = true) (c : Cause) (n : Nat) :
    trapAt c n u = doubleFault u g u.iss.slot c u.iss.addr := by
  simp only [trapAt, trapPath, hg, hh, if_true]

/-- R346: an instruction of a handler group that traps: its context quiesces, and of the other groups' records only what their paths hold
has changed. -/
theorem tallied_trapAt_handler {s : State} {g : Group} {p : Path} (h : Issuing s g p) (hh : g.isHandler = true) (c : Cause) (n : Nat)
    (hres : (s.ctx? g.ctx).map Ctx.st = some .resident) (hporter : (s.ctx? g.ctx).map Ctx.porter = some false) :
    let t := issued true s p (trapAt c n)
    (t.ctx? g.ctx).map Ctx.st = some .quiescing ∧ (t.ctx? g.ctx).bind Ctx.after_ = some .save ∧
      ∀ j, j ≠ s.iss.gid → ∃ x : Group → SMap Path, t.group? j = (s.group? j).map fun h => { h with paths := x h } := by
  obtain ⟨G, x, b, hm, hmarks⟩ := marked_eq h
  let u : State := { s with groups := G }
  let v := doubleFault u { g with paths := x } s.iss.slot c s.iss.addr
  have hv : trapAt c n (marked s p) = v := by rw [hm]; exact trapAt_handler (u := u) hmarks.group hh c n
  obtain ⟨hst, hafter, -⟩ := doubleFault_resident (s := u) (g := { g with paths := x }) (slot := s.iss.slot) (c := c) (addr := s.iss.addr) hres hporter
  have hpaths : PathsAlone u v := .doubleFault hporter
  obtain ⟨y, hy⟩ := hpaths s.iss.gid
  have hown : v.group? s.iss.gid = some { g with paths := y { g with paths := x } } := hy.trans (congrArg _ hmarks.group)
  obtain ⟨d, e, hframe, hother, -⟩ := tallied_of_group s p hown
  have ht : issued true s p (trapAt c n) = tallied s p v := (issued_eq_tallied s p _).trans (congrArg _ hv)
  rw [ht]
  have hctxs : (tallied s p v).ctxs = v.ctxs := by rw [hframe]
  refine ⟨by rw [State.ctx?, hctxs]; exact hst, by rw [State.ctx?, hctxs]; exact hafter, fun j hj => ?_⟩
  obtain ⟨z, hz⟩ := hpaths j
  exact ⟨z, (hother j hj).trans (hz.trans (congrArg _ (SMap.find?_eq_of_del_eq hmarks.groups hj)))⟩

/-- R346, R353. -/
theorem stackSpillCommands : Claims.StackSpillCommands := by
  intro i a gid slot s g h p hi had hserved hne hh
  have hexec : exec i s = .next (issued true s p (wrDivspill (rS g a).toNat g)) := by
    rcases hi with rfl | rfl | rfl | rfl <;> exact syswrOp_admitted (n := 0x1D) had fun hn => absurd hn (by decide)
  have hmod (f : Path → Path) : (s.modPath f).group? gid = some h := by
    rw [State.modPath, group?_modPathAt, if_neg hne, hh]
  have hsp : fld (rS g a).toNat 0 8 = (rS g a).toNat % 2 ^ 8 := fld_low _ _
  intro x cmd n sp
  rw [hexec]
  refine ⟨fun hcmd hspill hdrop hopen => ?_, fun hbad hlen hres hporter => ?_⟩
  · have hok : spillBad x h = false := by
      simp only [spillBad, Bool.or_eq_false_iff, Bool.and_eq_false_imp, decide_eq_false_iff_not, decide_eq_true_eq, fld_low]
      exact ⟨⟨⟨hcmd, hspill.not_gt⟩, fun h1 => (hdrop h1).not_gt⟩, fun h2 hlt => by have : _ + n ≤ 16 := hopen h2; change 16 - _ < n at hlt; omega⟩
    rw [issued_congr (k' := fun u => advance (u.modGroup gid (spilled x))) true]
    · exact congrArg _ ((goesOn_other had.toIssuing hne _).trans (by unfold spilled; rw [hsp]; rfl))
    · rw [wrDivspill_eq hserved hh, hok]; rfl
    · exact fun f => by rw [wrDivspill_eq hserved (hmod f), hok]; rfl
  · have hbad : spillBad x h = true := (spillBad_iff hlen).mpr hbad
    obtain ⟨hst, hafter, hgroups⟩ := tallied_trapAt_handler had.toIssuing (isHandler_of_served hserved) .illop 0 hres hporter
    obtain ⟨y, hy⟩ := hgroups gid hne
    rw [issued_congr (k' := trapAt .illop 0) true]
    · exact ⟨_, rfl, hst, hafter, by rw [hy, hh]; rfl, by rw [hy, hh]; rfl⟩
    · rw [wrDivspill_eq hserved hh, hbad]; rfl
    · exact fun f => by rw [wrDivspill_eq hserved (hmod f), hbad]; rfl

/-- Settles O13: the tile table, the tag table, gang lists and the commands to %divspill. -/
theorem tablesGangsAndSpills : Obligations.TablesGangsAndSpills := ⟨tileTable, tagTable, gangListResults, stackSpillCommands⟩

end Sys2Proof.Machine
end

section
/-! Replies and acknowledgements (R132, R137, R330). -/

namespace Sys2Proof.Machine
open Sys2Proof.Claims

theorem Group.put1_m_of_not_mask (g : Group) {w : RegW} (h : w.reg.1 ≠ 2) : (g.put1 w).m = g.m := by
  cases w with
  | m d x => exact absurd rfl h
  | s d x => simp only [Group.put1]; split_ifs <;> rfl
  | v d l x => rfl

/-- Writes of which none is a mask register's leave the mask registers. -/
theorem Group.puts_m_of_not_mask {ws : List RegW} (h : ∀ w ∈ ws, w.reg.1 ≠ 2) (g : Group) : (g.puts ws).m = g.m := by
  unfold Group.puts
  induction ws generalizing g with
  | nil => rfl
  | cons w ws ih =>
    rw [List.foldl_cons, ih fun x hx => h x (List.mem_cons_of_mem _ hx)]
    exact Group.put1_m_of_not_mask g (h w List.mem_cons_self)

/-- A reply writes no mask register. -/
theorem replyWrites_not_mask (m : MemOp) : ∀ w ∈ replyWrites m, w.reg.1 ≠ 2 := by
  unfold replyWrites
  split <;> simp [RegW.reg]

/-- In a resident context a reply lands at once: its registers are written and the operation is gone (R132). -/
theorem landReply_resident {s : State} {o : Nat} {op : Op} {ws : List RegW} (h : (s.ctx? op.ctx).map Ctx.st = some .resident) :
    landReply s o op ws = (s.delOp o).modGroup op.gid fun g => g.puts ws := by
  simp only [landReply, h]

section
variable {s : State} {o : Nat} {op : Op} {m : MemOp} (ho : s.ops.find? o = some op) (hlost : op.lost = 0) (hroute : enRoute s o = false)
  (hkind : op.kind = .mem m) (hdone : ∀ l ∈ m.lanes, l.done = true)
include ho hlost hroute hkind

/-- No packet of the access is on its way, so that its reply is taken. -/
theorem exec_loadReply : exec (.loadReply o) s = .next (loadReplyMem o op m s) := by
  change execLoadReply o s = _
  simp [execLoadReply, ho, hlost, hroute, hkind]

include hdone

theorem exec_atomicReply {fn : Nat} (hk : m.k = .atom fn) : exec (.atomicReply o) s = .next (landReply s o op (replyWrites m)) := by
  change execAtomicReply o s = _
  simp [execAtomicReply, ho, hlost, hroute, hkind, hk, List.all_eq_true.mpr hdone]

end

theorem loadReplyMem_load {s : State} {o : Nat} {op : Op} {m : MemOp} (hdone : ∀ l ∈ m.lanes, l.done = true) (hk : m.k = .load) :
    loadReplyMem o op m s = landReply s o op (replyWrites m) := by simp [loadReplyMem, List.all_eq_true.mpr hdone, hk]

theorem loadReplyMem_store {s : State} {o : Nat} {op : Op} {m : MemOp} (hdone : ∀ l ∈ m.lanes, l.done = true) (hk : m.k = .store) :
    loadReplyMem o op m s = s.delOp o := by simp [loadReplyMem, List.all_eq_true.mpr hdone, hk]

/-- A vector reply's writes, lane by lane. -/
theorem rV_puts_reply {m : MemOp} {d : Nat} (hd : m.dst = .vec d) (hlanes : ∀ l ∈ m.lanes, l.lane < 32) (hnd : (m.lanes.map LaneAcc.lane).Nodup)
    (g : Group) (n l : Nat) (hl : l < 32) : rV (g.puts (replyWrites m)) n l =
      if n = d then ((m.lanes.find? fun x => x.lane = l).map fun x => BitVec.ofNat 64 x.res).getD (rV g n l) else rV g n l := by
  have hws : replyWrites m = (m.lanes.map fun x => (x.lane, BitVec.ofNat 64 x.res)).map fun q => RegW.v d q.1 q.2 := by
    simp only [replyWrites, hd, List.map_map]; rfl
  rw [hws, rV_puts_lanes d _ (by rwa [List.map_map]) (by simpa using hlanes) g n l hl, List.find?_map, Option.map_map]
  rfl

theorem rS_puts_reply {m : MemOp} {d : Nat} (hd : m.dst = .vec d) (g : Group) (n : Nat) : rS (g.puts (replyWrites m)) n = rS g n := by
  have hws : replyWrites m = (m.lanes.map fun x => (x.lane, BitVec.ofNat 64 x.res)).map fun q => RegW.v d q.1 q.2 := by
    simp only [replyWrites, hd, List.map_map]; rfl
  rw [hws, rS, rS, (puts_lanes d _ g).1]

/-- Settles O9: in a resident context a reply lands at once, by its destination's writes alone. -/
theorem repliesWriteDestinations : Obligations.RepliesWriteDestinations := by
  intro s o op m g ho hlost hroute hkind hlanes hnd hg hres
  have hdone : ∀ l ∈ m.lanes, l.done = true := fun l hl => (hlanes l hl).1
  refine ⟨fun hk => ?_, fun i hi => ?_⟩
  · rw [exec_loadReply ho hlost hroute hkind, loadReplyMem_store hdone hk]
    rfl
  have hexec : exec i s = .next ((s.delOp o).modGroup op.gid fun g => g.puts (replyWrites m)) := by
    rw [← landReply_resident hres]
    rcases hi with ⟨rfl, hk⟩ | ⟨rfl, fn, hk⟩
    · rw [exec_loadReply ho hlost hroute hkind, loadReplyMem_load hdone hk]
    · exact exec_atomicReply ho hlost hroute hkind hdone hk
  have hmask : (g.puts (replyWrites m)).m = g.m := Group.puts_m_of_not_mask (replyWrites_not_mask m) g
  refine ⟨_, g.puts (replyWrites m), hexec, rfl, fun j hj => (SMap.find?_adjust _ _ _ _).trans (if_neg hj), ?_, ?_,
    fun c => Group.mem_puts_damaged, fun d hd => ⟨rS_puts_reply hd g, fun n l hl => rV_puts_reply hd (fun l hl => (hlanes l hl).2) hnd g n l hl⟩,
    fun d x hd hx => ?_, fun hd => ?_⟩
  · exact (SMap.find?_adjust _ _ _ _).trans ((if_pos rfl).trans (congrArg _ hg))
  · rw [Group.puts_frame, hmask]
  · have hws : replyWrites m = [.s d (BitVec.ofNat 64 x.res)] := by simp only [replyWrites, hd, hx, List.map_cons, List.map_nil]
    rw [hws]
    exact ⟨rV_puts_s g d _, rS_puts_s g d _⟩
  · have hws : replyWrites m = [] := by simp only [replyWrites, hd]
    rw [hws]
    exact ⟨rfl, rfl, rfl⟩

end Sys2Proof.Machine
end

section
/-! The issue of engine operations (R143 to R146, R332). -/

namespace Sys2Proof.Machine
open Sys2Proof.Claims

/-! What an instruction asks its engine for. -/

/-- A descriptor read at issue is the statement's. -/
theorem engOf_eq_engineOp {fn : Nat} (hfn : fn < 6) (k : Nat) (r : Nat → Nat) : engOf fn k r = engineOp fn k r := by
  interval_cases fn <;> simp [engOf, engineOp, fld]

theorem inbound_iff (e : EngOp) : e.inbound = true ↔ e.fn = 0 ∨ e.fn = 2 := by simp [EngOp.inbound]

theorem items_eq_engineItems (e : EngOp) : e.items = engineItems e := by
  unfold EngOp.items engineItems
  split_ifs <;> simp_all

/-- The corners of steps 1 and 2 that an instruction checks beside those of every descriptor (R145), and how it completes its descriptor. -/
structure EngineChecks (fn : Nat) (bad mis : (Nat → Nat) → Bool) : Prop where
  shape : ∀ k r, (bad r || decide ((engineOp fn k r).secs = 0) || decide ((engineOp fn k r).rows = 0)) = true ↔ ¬engineShape (engineOp fn k r) r
  aligned : ∀ k r, (mis r || decide ((engineOp fn k r).off % 32 ≠ 0) || decide ((engineOp fn k r).rec_ % 16 ≠ 0)) = true ↔
    ¬engineAligned (engineOp fn k r) r

theorem engineChecks_plain {fn : Nat} (hfn : fn < 5) :
    EngineChecks fn (fun _ => false) (misEng (decide (fn = 2 ∨ fn = 3)) (decide (fn = 4))) where
  shape k r := by
    have hmc : ¬fn = 5 := by omega
    simp [engineShape, engineOp, hmc]
    tauto
  aligned k r := by
    interval_cases fn <;> simp [engineAligned, engineOp, misEng, fld, -not_and] <;> tauto

theorem engineChecks_multicast : EngineChecks 5
    (fun r => let n := fld (r 4) 0 8; fld (r 1) 32 32 ≠ 0 || n = 0 || 64 < n || fld (r 4) 32 32 ≠ 0)
    (fun r => r 0 % 8 ≠ 0 || fld (r 4) 8 24 % 32 ≠ 0) where
  shape k r := by
    simp only [Bool.or_eq_true, decide_eq_true_eq]
    simp only [engineShape, engineOp, fld, Nat.div_one, forall_const, Nat.one_le_iff_ne_zero, ← Nat.not_le, Nat.reducePow]
    tauto
  aligned k r := by
    simp [engineAligned, engineOp, fld, -not_and]
    tauto

/-! The tiles that a descriptor names (R139, R145). -/

section
variable {s : State} {core c : Nat} {e : EngOp}

theorem engOwned_eq_none (h : ∀ t ∈ engineTiles e, tileOwned s core c t = true) : engOwned s core c e = none := by
  unfold engineTiles at h
  unfold engOwned
  split_ifs at h with hg
  · simp [h e.tile (by simp), h e.itile (by simp)]
  · simp [h e.tile (by simp), not_or.mp hg]

theorem engOwned_eq_tile (h : tileOwned s core c e.tile = false) : engOwned s core c e = some e.tile := by simp [engOwned, h]

theorem engBusy_eq_none (h : ∀ t ∈ engineTiles e, (s.tile core t).st ≠ .filling ∧ (s.tile core t).st ≠ .draining ∧ (s.tile core t).held = 0) :
    engBusy s core e = none := by
  have hfree {t : Nat} (ht : t ∈ engineTiles e) : ((s.tile core t).busy || decide (0 < (s.tile core t).held)) = false := by
    obtain ⟨hf, hd, hh⟩ := h t ht
    simp [Tile.busy, hf, hd, hh]
  unfold engineTiles at hfree
  unfold engBusy
  split_ifs at hfree with hg
  · simp only [hfree (t := e.tile) (by simp), hfree (t := e.itile) (by simp)]
    simp
  · simp only [hfree (t := e.tile) (by simp)]
    simp [not_or.mp hg]

theorem engBusy_eq_tile (h : (s.tile core e.tile).st = .filling ∨ (s.tile core e.tile).st = .draining ∨ 0 < (s.tile core e.tile).held) :
    engBusy s core e = some e.tile := by
  have hb : ((s.tile core e.tile).busy || decide (0 < (s.tile core e.tile).held)) = true := by
    simpa [Tile.busy, or_assoc] using h
  simp only [engBusy, hb, if_true]

/-- Tiles in the right states, which the data fit. -/
theorem engStates_ok (h : engineFits s core e) : engStates s core e = .ok := by
  obtain ⟨hreg, hst, hfit, hidx⟩ := h
  have hx : tileState (s.tile core e.tile) e.inbound = .ok := by
    simp only [tileState, hreg, hst, ← inbound_iff]
    split_ifs <;> simp_all
  unfold engStates
  by_cases hg : e.fn = 2 ∨ e.fn = 3
  · obtain ⟨hyreg, hyst, hyfit⟩ := hidx hg
    have hy : tileState (s.tile core e.itile) false = .ok := by simp [tileState, hyreg, hyst]
    have hgat : (decide (e.fn = 2) || decide (e.fn = 3)) = true := by simpa using hg
    simp only [hgat, hx, hy, hreg, hyreg, if_true, Bool.not_true, Bool.and_false, Bool.or_self, Bool.false_eq_true, if_false, Bool.true_and,
      decide_eq_true_eq]
    rw [if_neg (by omega), if_neg (by omega)]
  · have hgat : (decide (e.fn = 2) || decide (e.fn = 3)) = false := by simpa using hg
    simp only [hgat, hx, hreg, Bool.not_true, Bool.false_and, Bool.or_self, Bool.false_eq_true, if_false]
    rw [if_neg (by omega)]

theorem engStates_unregistered (h : (s.tile core e.tile).reg = false) : engStates s core e = .trap .engine 0 := by
  simp [engStates, h]

theorem engStates_empty (hfn : e.fn = 1 ∨ e.fn = 4 ∨ e.fn = 5) (hreg : (s.tile core e.tile).reg = true)
    (hst : (s.tile core e.tile).st = .empty) : engStates s core e = .trap .tileempty 0 := by
  have hx : tileState (s.tile core e.tile) e.inbound = .trap .tileempty 0 := by
    rcases hfn with h | h | h <;> simp [tileState, hreg, hst, EngOp.inbound, h]
  have hg : (decide (e.fn = 2) || decide (e.fn = 3)) = false := by rcases hfn with h | h | h <;> simp [h]
  simp [engStates, hx, hg, hreg]

end

/-! The checks in their order (R145). -/

/-- The operation issued: it takes the next sequence number of its engine and context, and its tile fills or drains. -/
def engStart (s : State) (g : Group) (d : Nat) (e : EngOp) (s2 : State) : State :=
  let core := g.place.core
  let key := 65536 * e.eng + g.ctx
  let seq := (s2.core core).eseq.get 1 key
  let s3 := s2.modCore core fun c => { c with eseq := c.eseq.set 1 key (seq + 1) }
  let s4 := s3.modTile core e.tile fun t => { t with st := if e.inbound then .filling else .draining }
  let s5 := s4.addOp (matOp s g (.eng { e with seq := seq }))
  advance (s5.wS d (BitVec.ofNat 64 seq))

/-- What an admitted operation `e` does after steps 1 and 2, `k` completing it. -/
def engTiles (s : State) (g : Group) (d : Nat) (e : EngOp) (k : (EngOp → State → State) → State → State) (s1 : State) : State :=
  match engOwned s g.place.core g.ctx e with
  | some t => trapAt .padbound t s1
  | none =>
    if 64 ≤ (engOps s g.place.core e.eng).length then waitOn (.eplace e.eng) s1
    else match engBusy s g.place.core e with
      | some t => waitOn (.tile t false true) s1
      | none => (engStates s g.place.core e).then e.tile false (k (engStart s g d)) s1

/-- The issue of an operation changes what the statement says, and its path goes on. -/
theorem issued_engStart {s : State} {g : Group} {p : Path} (h : Issuing s g p) (d : Nat) (e : EngOp) {k : State → State}
    (hk : ∀ G, k (regrouped s G) = engStart s g d e (regrouped s G)) : issued true s p k = goesOn s g p (engineIssued s g d e) := by
  have hst : (fun t : Tile => { t with st := if e.inbound then TileSt.filling else .draining }) =
      fun t => { t with st := if e.fn = 0 ∨ e.fn = 2 then .filling else .draining } := by
    funext t; rw [if_congr (inbound_iff e) rfl rfl]
  refine goesOn_beside (u := ?u) h (sparesIssue_put1 ?w g) k ?groups ?iss fun G => (hk G).trans ?start
  case start => simp only [engStart, hst]; rfl
  case groups => rfl
  case iss => rfl

section
variable {s : State} {g : Group} {p : Path} {d b n fn kk : Nat} {bad mis : (Nat → Nat) → Bool}
  {k : Group → Path → EngOp → (EngOp → State → State) → State → State}

variable (h : Admitted { acc := {}, rd := sR ((List.range n).map (b + ·)), wr := sR [d] } s g p) (hck : EngineChecks fn bad mis)
include h hck

/-- Step 1. -/
theorem engIssue_shape (ho : Ordinary g) (hbad : ¬engineShape (engineOp fn kk fun j => (rS g (b + j)).toNat) fun j => (rS g (b + j)).toNat) :
    engIssue d b n (engineOp fn kk) bad mis k s = .next (trapsBefore s g p .engine 0 s) :=
  gated_trapsBefore h rfl ho _ _ _ rfl rfl fun _ => if_pos ((hck.shape _ _).mpr hbad)

variable (hlegal : engineShape (engineOp fn kk fun j => (rS g (b + j)).toNat) fun j => (rS g (b + j)).toNat)
include hlegal

/-- Step 2. -/
theorem engIssue_align (ho : Ordinary g) (hbad : ¬engineAligned (engineOp fn kk fun j => (rS g (b + j)).toNat) fun j => (rS g (b + j)).toNat) :
    engIssue d b n (engineOp fn kk) bad mis k s = .next (trapsBefore s g p .align 0 s) :=
  gated_trapsBefore h rfl ho _ _ _ rfl rfl fun _ =>
    (if_neg fun hb => (hck.shape _ _).mp hb hlegal).trans (if_pos ((hck.aligned _ _).mpr hbad))

/-- An operation that passes steps 1 and 2 comes to its tiles. -/
theorem engIssue_tiles (halign : engineAligned (engineOp fn kk fun j => (rS g (b + j)).toNat) fun j => (rS g (b + j)).toNat) :
    let e := engineOp fn kk fun j => (rS g (b + j)).toNat
    engIssue d b n (engineOp fn kk) bad mis k s = .next (issued true s p (engTiles s g d e (k g p e))) := by
  intro e
  refine (gated_admitted h _).trans (congrArg _ (congrArg (issued true s p) (funext fun s1 => ?_)))
  exact (if_neg fun hb => (hck.shape _ _).mp hb hlegal).trans (if_neg fun hb => (hck.aligned _ _).mp hb halign)

end

/-! Steps 3 to 7, which look at the tiles and the engine's operations alone. -/

section
variable {s : State} {g : Group} {d : Nat} {e : EngOp} {k : (EngOp → State → State) → State → State}

theorem engTiles_foreign (hown : tileOwned s g.place.core g.ctx e.tile = false) : engTiles s g d e k = trapAt .padbound e.tile := by
  funext s1; simp only [engTiles, engOwned_eq_tile hown]

variable (hown : ∀ t ∈ engineTiles e, tileOwned s g.place.core g.ctx t = true)
include hown

theorem engTiles_full (hroom : ¬(engOps s g.place.core e.eng).length < 64) : engTiles s g d e k = waitOn (.eplace e.eng) := by
  funext s1; simp only [engTiles, engOwned_eq_none hown]; exact if_pos (Nat.le_of_not_lt hroom)

variable (hroom : (engOps s g.place.core e.eng).length < 64)
include hroom

theorem engTiles_busy (hbusy : (s.tile g.place.core e.tile).st = .filling ∨ (s.tile g.place.core e.tile).st = .draining ∨
    0 < (s.tile g.place.core e.tile).held) : engTiles s g d e k = waitOn (.tile e.tile false true) := by
  funext s1; simp only [engTiles, engOwned_eq_none hown, engBusy_eq_tile hbusy]; exact if_neg hroom.not_ge

/-- With its tiles free, an operation comes to their states. -/
theorem engTiles_free (hstill : ∀ t ∈ engineTiles e, (s.tile g.place.core t).st ≠ .filling ∧ (s.tile g.place.core t).st ≠ .draining ∧
    (s.tile g.place.core t).held = 0) : engTiles s g d e k = (engStates s g.place.core e).then e.tile false (k (engStart s g d)) := by
  funext s1; simp only [engTiles, engOwned_eq_none hown, engBusy_eq_none hstill]; exact if_neg hroom.not_ge

end

/-! The six instructions. -/

/-- The addresses of a multicast's list. -/
def targetAddrs (b : Nat) (g : Group) (e : EngOp) : List Nat :=
  (List.range (fld (rS g (b + 4)).toNat 0 8)).map fun t => (e.addr + 8 * t) % 2 ^ 64

/-- The list read, the operation is issued with its targets. -/
def takeTargets (b : Nat) (g : Group) (e : EngOp) (next : EngOp → State → State) (pas : List Nat) (s : State) : State :=
  if (pas.map fun pa => s.rd pa 8).any fun x => !targetOk x then trapAt .engine 0 s
  else next { e with todo := List.range (fld (rS g (b + 4)).toNat 0 8), targets := (pas.map fun pa => s.rd pa 8).map targetOf } s

/-- How mcast completes its descriptor: the list is read after the path's own writes of it (R267, R332). -/
def readTargets (b : Nat) (g : Group) (p : Path) (e : EngOp) (next : EngOp → State → State) (s1 : State) : State :=
  match (targetAddrs b g e).find? badVa with
  | some x => trapAt .perm x s1
  | none => translate g p (targetAddrs b g e) Need.read (fun pas => inOrder g false false (pas.map fun pa => (pa, 8)) (takeTargets b g e next pas)) s1

/-- A list that the path may read names its targets. -/
theorem readTargets_ok {s : State} {G : SMap Group} {g : Group} {p : Path} {e : EngOp} {b : Nat} {pa : Nat → Nat} {next : EngOp → State → State} :
    let r (j : Nat) : Nat := (rS g (b + j)).toNat
    let vas := (List.range (r 4 % 256)).map fun t => (e.addr + 8 * t) % 2 ^ 64
    let words := vas.map fun va => s.rd (pa va) 8
    (∀ va ∈ vas, badVa va = false ∧ trOne s g.place.core g.ctx va Need.read false = .key (pa va)) → p.aborted = false →
    ¬OthersFirst s g false false (vas.map fun va => (pa va, 8)) → (∀ x ∈ words, x / 2 ^ 40 % 2 ^ 8 = 0 ∧ x / 2 ^ 14 % 2 ^ 18 = 0) →
    readTargets b g p e next (regrouped s G) = next { e with
      todo := List.range (r 4 % 256)
      targets := words.map fun x => { gen := x / 2 ^ 48 % 2 ^ 16, tile := x / 2 ^ 32 % 2 ^ 8, dev := x / 2 ^ 8 % 2 ^ 6, core := x % 2 ^ 8 } }
        (regrouped s G) := by
  intro r vas words hvas hab hord hwords
  have hn : fld (rS g (b + 4)).toNat 0 8 = r 4 % 256 := fld_low _ _
  have hgood : vas.find? badVa = none := List.find?_eq_none.mpr fun va hva => by simp [(hvas va hva).1]
  have hkey : ∀ va ∈ vas, trOne (regrouped s G) g.place.core g.ctx va Need.read false = .key (pa va) ∧ (p.aborted = true → p.failsAt va = false) :=
    fun va hva => ⟨(hvas va hva).2, fun ha => by rw [hab] at ha; cases ha⟩
  have hok : (words.any fun x => !targetOk x) = false := by
    simp only [List.any_eq_false, Bool.not_eq_true', Bool.not_eq_false]
    intro x hx
    obtain ⟨h1, h2⟩ := hwords x hx
    simp only [targetOk, fld, h1, h2]
    rfl
  have htargets : words.map targetOf = words.map fun x =>
      { gen := x / 2 ^ 48 % 2 ^ 16, tile := x / 2 ^ 32 % 2 ^ 8, dev := x / 2 ^ 8 % 2 ^ 6, core := x % 2 ^ 8 } :=
    List.map_congr_left fun x _ => by simp only [targetOf, fld_low]; rfl
  have hv : targetAddrs b g e = vas := by rw [targetAddrs, hn]
  have hrds : ((vas.map pa).map fun pa => (regrouped s G).rd pa 8) = words := List.map_map
  simp only [readTargets, hv, hgood]
  rw [translate_held hkey, List.map_map]
  refine (if_neg hord).trans ?_
  rw [takeTargets, hrds, hok, hn, htargets]
  rfl

/-- Each engine instruction is the issue of its descriptor, completed as its function says. -/
theorem exec_engineForm {i : Instr} {fn k n d b : Nat} (hi : engineForm i = some (fn, k, n, d, b)) (s : State) :
    ∃ bad mis, EngineChecks fn bad mis ∧ exec i s =
      engIssue d b n (engineOp fn k) bad mis (if fn = 5 then readTargets b else plainWork) s := by
  have hop {f : Nat} (hf : f < 6) (j : Nat) : engOf f j = engineOp f j := funext fun r => engOf_eq_engineOp hf j r
  cases i
  case acopy | acopyo | agath | ascat | acoll =>
    cases hi
    refine ⟨_, _, engineChecks_plain (by decide), ?_⟩
    rw [← hop (by decide)]
    rfl
  case mcast =>
    cases hi
    refine ⟨_, _, engineChecks_multicast, ?_⟩
    rw [← hop (by decide)]
    rfl
  all_goals cases hi

/-- Settles O29. -/
theorem engineOperationsIssue : Obligations.EngineOperationsIssue := by
  intro i fn k n d b s g p hi h core r e legal aligned owned room still
  obtain ⟨bad, mis, hck, hexec⟩ := exec_engineForm hi s
  rw [hexec]
  have hfn : e.fn = fn := rfl
  refine ⟨fun hl ha hown hroom hstill hfits => ⟨fun hfn => ?_, fun hfn pa => ?_⟩, fun hl ha hown hroom => ?_, fun hl ha hown hroom hbusy => ?_,
    fun ho => ⟨fun hl => ?_, fun hl ha => ?_, fun hl ha hown => ?_, fun hl ha hown hroom hstill hreg => ?_, fun hl ha hown hroom hstill hout hreg hst => ?_⟩⟩
  · rw [engIssue_tiles h hck hl ha, engTiles_free hown hroom hstill, engStates_ok hfits, if_neg hfn]
    refine congrArg _ (issued_engStart h.toIssuing d _ fun G => ?_)
    exact congrArg (fun m => engStart s g d { e with todo := List.range (m + if e.cnt ≠ 0 then 1 else 0) } (regrouped s G)) (items_eq_engineItems e)
  · intro vas words hvas hab hord hwords
    rw [engIssue_tiles h hck hl ha, engTiles_free hown hroom hstill, engStates_ok hfits, if_pos hfn]
    refine congrArg _ (issued_engStart h.toIssuing d _ fun G => ?_)
    exact readTargets_ok hvas hab hord hwords
  · rw [engIssue_tiles h hck hl ha, engTiles_full hown hroom]
    exact congrArg _ (waitsOn_of h.toIssuing _ _ rfl rfl fun _ => rfl)
  · rw [engIssue_tiles h hck hl ha, engTiles_busy hown hroom hbusy]
    exact congrArg _ (waitsOn_of h.toIssuing _ _ rfl rfl fun _ => rfl)
  · exact engIssue_shape h hck ho hl
  · exact engIssue_align h hck hl ho ha
  · rw [engIssue_tiles h hck hl ha, engTiles_foreign hown]
    exact congrArg _ (trapsBefore_of h.toIssuing ho _ _ _ rfl rfl fun _ => rfl)
  · rw [engIssue_tiles h hck hl ha, engTiles_free hown hroom hstill, engStates_unregistered hreg]
    exact congrArg _ (trapsBefore_of h.toIssuing ho _ _ _ rfl rfl fun _ => rfl)
  · rw [engIssue_tiles h hck hl ha, engTiles_free hown hroom hstill, engStates_empty hout hreg hst]
    exact congrArg _ (trapsBefore_of h.toIssuing ho _ _ _ rfl rfl fun _ => rfl)

end Sys2Proof.Machine
end

section
/-! seqw of a word in whose line an uncorrectable error stands: the read is told to the context, in whose log the error goes (R318, R366;
log 101), so that more than the core's L1 changes. -/

namespace Sys2Proof.Machine
open Sys2Proof.Claims

/-- A group whose S(1) is the address of the word that it waits for, and its path. -/
def seqwGroup : Group := { Group.start State.reset 1 (seatAt 0) .grid 0x10000 (BitVec.allOnes 32) with s := [(1, 0x20000)] }
def seqwPath : Path := Path.start 0x10000 (BitVec.allOnes 32) 0 0 false

/-- The word's page may be read, and in the word's line stands an error that no context has been told of. -/
def seqwState : State :=
  { State.reset with
    groups := [(1, seqwGroup)]
    cores := [(0, { Core.reset with tlb := [{ ctx := 1, va := 0x20000, size := 0, pa := 0x20000, r := true, w := true, x := false
                                              d := true, mig := false, leaf := 0, page := 0 }] })]
    memErrs := [(0x20000, ([], []))]
    iss := { Iss.none with gid := 1 } }

theorem seqw_admitted : Admitted { acc := { ords := [0, 1, 4] }, rd := sR [1, 0] } seqwState seqwGroup seqwPath where
  group := rfl
  path := rfl
  prefixes := by decide
  fields := rfl
  who := rfl
  budget := by decide
  full := by decide
  noM0 := by decide
  rounding := by decide
  pipes := by decide
  score := by decide
  sound := by decide

/-- The lines with an error, and the contexts told of them, after an instruction. -/
def errsAfter (x : Out) : SMap (List (Nat × Nat) × List Nat) := match x with | .next t => t.memErrs | _ => []

/-- The read has been told to context 1. -/
theorem errsAfter_seqw : errsAfter (exec (.seqw 1 0) seqwState) = [(0x20000, ([], [1]))] := by decide +kernel

/-- Refutes O39: seqw's read of a line in which an error stands is told to its context, so that the record of errors changes beside the
core's L1. -/
theorem not_waitsAndWakes : ¬ Obligations.WaitsAndWakes := by
  intro h
  obtain ⟨-, hseqw, -⟩ := h 1 0 0 seqwState seqwGroup seqwPath
  obtain ⟨hmet, -⟩ := hseqw 0x20000 seqw_admitted (by decide) (by decide) (by decide) (by decide) (by decide)
  obtain ⟨t, hexec, ht, -⟩ := hmet (by decide)
  have herrs : t.memErrs = [(0x20000, ([], []))] := by rw [ht]; rfl
  have htold := errsAfter_seqw
  rw [hexec, errsAfter, herrs] at htold
  exact absurd htold (by decide)

end Sys2Proof.Machine
end

section
/-! Page tables (R310, R311): where the tables lead an address, and what the entry there ends a walk in. -/

namespace Sys2Proof.Machine
open Sys2Proof.Claims

theorem ofBytesLE_lt (l : List Byte) : ofBytesLE l < 256 ^ l.length := by
  induction l with
  | nil => simp [ofBytesLE]
  | cons b t ih =>
    have hb := b.isLt
    simp only [ofBytesLE, List.length_cons, pow_succ]
    omega

theorem rd_lt (s : State) (a : Nat) : s.rd a 8 < 2 ^ 64 := by
  have h := ofBytesLE_lt (s.bytes a 8)
  simpa [State.rd, State.bytes] using h

theorem rd_congr {s t : State} (h : t.mem = s.mem) (a n : Nat) : t.rd a n = s.rd a n := by
  simp only [State.rd, State.bytes, State.byte, h]

theorem fld_eq_one_iff {e n : Nat} : fld e n 1 = 1 ↔ pteBit e n = true := by simp [fld, pteBit]
theorem fld_eq_zero_iff {e n : Nat} : fld e n 1 = 0 ↔ pteBit e n = false := by simp [fld, pteBit]

/-- The tables decide what a walk ends in. -/
theorem walkFrom_congr {s t : State} (h : t.mem = s.mem) (c va : Nat) (n : Need) (lvl tbl : Nat) :
    walkFrom t c va n lvl tbl = walkFrom s c va n lvl tbl := by
  induction lvl generalizing tbl with
  | zero => rfl
  | succ lvl ih => simp only [walkFrom, rd_congr h, ih]

theorem gapFrom_congr {s t : State} (h : t.mem = s.mem) (va lvl tbl : Nat) : gapFrom t va lvl tbl = gapFrom s va lvl tbl := by
  induction lvl generalizing tbl with
  | zero => rfl
  | succ lvl ih => simp only [gapFrom, rd_congr h, ih]

/-- An entry that only points to the next table. -/
theorem tableEntry_fields {e : Nat} (he : e % 2 ^ 12 = 1) (hlt : e < 2 ^ 57) :
    fld e 0 1 = 1 ∧ fld e 57 7 = 0 ∧ fld e 1 1 = 0 ∧ fld e 8 1 = 0 ∧ fld e 9 3 = 0 ∧ fld e 2 6 = 0 ∧
      locKey 0 (fld e 12 45 * 4096) = e / 4096 * 4096 := by
  simp only [fld, locKey]
  omega

section
variable {s : State} {c va lv tbl t e a : Nat}

theorem walkFrom_table {n : Need} (hr : s.rd (tbl + 8 * fld va (12 + 9 * lv) 9) 8 = e) (he : e % 2 ^ 12 = 1) (hlt : e < 2 ^ 57) (hlv : lv ≠ 0) :
    walkFrom s c va n (lv + 1) tbl = walkFrom s c va n lv (e / 4096 * 4096) := by
  obtain ⟨h0, h57, h1, h8, h9, h2, hnext⟩ := tableEntry_fields he hlt
  simp [walkFrom, hr, h0, h57, h1, h8, h9, h2, hnext, hlv]

theorem gapFrom_table (hr : s.rd (tbl + 8 * fld va (12 + 9 * lv) 9) 8 = e) (he : e % 2 ^ 12 = 1) (hlt : e < 2 ^ 57) :
    gapFrom s va (lv + 1) tbl = gapFrom s va lv (e / 4096 * 4096) := by
  obtain ⟨h0, h57, h1, h8, h9, h2, hnext⟩ := tableEntry_fields he hlt
  simp [gapFrom, hr, h0, h8, hnext]

/-- The tables that lead to an entry are passed through, whatever the access needs. -/
theorem walkFrom_of_tablesLead {m : Nat} (h : tablesLead s va a (lv + 1) m tbl) :
    ∃ t, a = t + 8 * fld va (12 + 9 * lv) 9 ∧ (∀ c n, walkFrom s c va n m tbl = walkFrom s c va n (lv + 1) t) ∧
      gapFrom s va m tbl = gapFrom s va (lv + 1) t := by
  induction m generalizing tbl with
  | zero => exact h.elim
  | succ m ih =>
    obtain ⟨hlv, rfl⟩ | ⟨hlv, he, hlt, hrest⟩ := h
    · obtain rfl : m = lv := by omega
      exact ⟨tbl, rfl, fun _ _ => rfl, rfl⟩
    · obtain ⟨t, ha, hwalk, hgap⟩ := ih hrest
      exact ⟨t, ha, fun c n => (walkFrom_table rfl he hlt (by omega)).trans (hwalk c n), (gapFrom_table rfl he hlt).trans hgap⟩

/-- An invalid entry faults; above level 1 it is a gap in the tables. -/
theorem walkFrom_invalid {n : Need} (hr : s.rd (t + 8 * fld va (12 + 9 * lv) 9) 8 = e) (h : pteBit e 0 = false) :
    walkFrom s c va n (lv + 1) t = .fault 0 := by
  simp [walkFrom, hr, fld_eq_zero_iff.mpr h]

theorem gapFrom_invalid (hr : s.rd (t + 8 * fld va (12 + 9 * lv) 9) 8 = e) (h : pteBit e 0 = false) :
    gapFrom s va (lv + 1) t = decide (lv ≠ 0) := by
  simp [gapFrom, hr, fld_eq_zero_iff.mpr h]

/-- The entries of the run of sixteen that an entry of level `lv + 1` stands in. -/
def runOf (s : State) (va lv t : Nat) : List Nat :=
  (List.range 16).map fun i => s.rd (t + 8 * (fld va (12 + 9 * lv) 9 / 16 * 16) + 8 * i) 8

/-- The bits of a valid entry that stand against its use. -/
theorem entryBad_succ_iff (h : pteBit e 0 = true) (hlt : e < 2 ^ 64) : entryBad (lv + 1) e ↔
    fld e 57 7 ≠ 0 ∨ fld e 1 1 = 1 ∨ (fld e 8 1 = 1 ∧ 3 ≤ lv) ∨ (fld e 8 1 ≠ 1 ∧ (lv = 0 ∨ fld e 9 3 ≠ 0 ∨ fld e 2 6 ≠ 0)) := by
  have hlow : e % 2 ^ 12 = 1 ↔ e / 2 ^ 0 % 2 = 1 ∧ e / 2 ^ 1 % 2 = 0 ∧ e / 2 ^ 2 % 2 ^ 6 = 0 ∧ e / 2 ^ 8 % 2 = 0 ∧ e / 2 ^ 9 % 2 ^ 3 = 0 := by omega
  have hhigh : 2 ^ 57 ≤ e ↔ e / 2 ^ 57 % 2 ^ 7 ≠ 0 := by omega
  simp only [entryBad, pteBit, fld, decide_eq_true_eq, decide_eq_false_iff_not, ne_eq, hlow, hhigh] at *
  have hb : e / 2 ^ 1 % 2 < 2 := Nat.mod_lt _ (by decide)
  have hx : e / 2 ^ 8 % 2 < 2 := Nat.mod_lt _ (by decide)
  generalize e / 2 ^ 0 % 2 = v, e / 2 ^ 57 % 2 ^ 7 = u, e / 2 ^ 1 % 2 = b, e / 2 ^ 8 % 2 = x, e / 2 ^ 2 % 2 ^ 6 = y, e / 2 ^ 9 % 2 ^ 3 = z at *
  omega

/-- A valid entry that may not stand there ends the walk in PERM. -/
theorem walkFrom_bad {n : Need} (hr : s.rd (t + 8 * fld va (12 + 9 * lv) 9) 8 = e) (h : pteBit e 0 = true) (hbad : entryBad (lv + 1) e) :
    walkFrom s c va n (lv + 1) t = .perm := by
  have hcases := (entryBad_succ_iff h (hr ▸ rd_lt s _)).mp hbad
  simp only [walkFrom, hr, fld_eq_one_iff.mpr h, Nat.one_ne_zero, if_false]
  split_ifs with hres hleaf <;> simp_all

/-- A leaf that may stand there is judged with its run. -/
theorem walkFrom_leaf {n : Need} (hr : s.rd (t + 8 * fld va (12 + 9 * lv) 9) 8 = e) (h : pteBit e 0 = true) (hgood : ¬entryBad (lv + 1) e)
    (hleaf : pteBit e 8 = true) :
    walkFrom s c va n (lv + 1) t = leafRes c va (lv + 1) e (t + 8 * fld va (12 + 9 * lv) 9) (runOf s va lv t) n := by
  rw [entryBad_succ_iff h (hr ▸ rd_lt s _)] at hgood
  obtain ⟨hres, hone, hlv, -⟩ := by simpa only [not_or, not_and] using hgood
  have h8 := fld_eq_one_iff.mpr hleaf
  simp [walkFrom, hr, fld_eq_one_iff.mpr h, h8, runOf, hres, hone, hlv h8]

end

end Sys2Proof.Machine
end

section
/-! Leaf entries (R310, R311): which leaves map a page, and what an access to one gets. -/

namespace Sys2Proof.Machine
open Sys2Proof.Claims

/-- The size code of a leaf entry of level 1, 2 or 3. -/
def leafCode (lvl e : Nat) : Nat := if lvl = 3 then 3 else if lvl = 2 then 2 else if fld e 9 1 = 1 then 1 else 0

/-- A leaf entry without A and D. -/
def bareLeaf (x : Nat) : Nat := x - 64 * fld x 6 1 - 128 * fld x 7 1

/-- The leaf entry maps no page: CONT above level 1, a frame that is not aligned, or a run that is none. -/
def misplaced (lvl e : Nat) (run : List Nat) : Bool :=
  let base := if leafCode lvl e = 1 then run.headD e else e
  (lvl ≠ 1 && fld e 9 1 = 1) ||
    if leafCode lvl e = 1 then !((List.range 16).all fun i => bareLeaf (run.getD i 0) = bareLeaf base + 4096 * i) || fld base 12 4 ≠ 0
    else fld e 12 45 * 4096 % 2 ^ pageBits (leafCode lvl e) ≠ 0

/-- The access needs a right that the leaf entry does not grant. -/
def leafRefuses (e : Nat) (n : Need) : Bool :=
  (n.r && fld e 2 1 = 0) || (n.w && fld e 3 1 = 0) || (n.x && fld e 4 1 = 0) || (n.hostBad && fld e 10 2 = 2)

/-- The translation held of a page of size code `size`: of 64 KiB the 4 KiB part (log 9). -/
def leafTlb (c va e leaf size : Nat) (n : Need) : Tlb :=
  let b := pageBits (if size = 1 then 0 else size)
  { ctx := c, va := va / 2 ^ b * 2 ^ b, size := if size = 1 then 0 else size, pa := locKey (fld e 10 2) (fld e 12 45 * 4096 / 2 ^ b * 2 ^ b)
    r := fld e 2 1 = 1, w := fld e 3 1 = 1, x := fld e 4 1 = 1, d := n.w || fld e 7 1 = 1
    mig := fld e 5 1 = 1, leaf := leaf, page := size }

theorem leafRes_eq (c va lvl e leaf : Nat) (run : List Nat) (n : Need) : leafRes c va lvl e leaf run n =
    if misplaced lvl e run then .perm else if leafRefuses e n then .perm else if n.w && fld e 5 1 = 1 then .fault 1
    else .held (leafTlb c va e leaf (leafCode lvl e) n) leaf (leafCode lvl e) := rfl

section
variable {s : State} {va lv t e size : Nat}

theorem leafCode_of_leafSize {a : Nat} (h : leafSize s va lv e a size) : size = leafCode lv e := by
  obtain ⟨rfl, h9, rfl⟩ | ⟨rfl, h9, rfl, -⟩ | ⟨rfl, -, -, rfl⟩ | ⟨rfl, -, -, rfl⟩ := h
  · simp [leafCode, fld_eq_zero_iff.mpr h9]
  · simp [leafCode, fld_eq_one_iff.mpr h9]
  · rfl
  · rfl

theorem bareLeaf_eq (x : Nat) : bareLeaf x = bareEntry x := rfl

/-- The run starts where the entry's index rounded down to sixteen stands. -/
theorem runOf_getD (s : State) (va t i : Nat) (hi : i < 16) :
    (runOf s va 0 t).getD i 0 = s.rd (t + 8 * fld va (12 + 9 * 0) 9 - 8 * (va / 2 ^ 12 % 16) + 8 * i) 8 := by
  have hstart : t + 8 * fld va (12 + 9 * 0) 9 - 8 * (va / 2 ^ 12 % 16) = t + 8 * (fld va (12 + 9 * 0) 9 / 16 * 16) := by
    simp only [fld]
    omega
  rw [hstart, runOf, List.getD_eq_getElem _ _ (by simpa using hi)]
  simp

/-- A leaf entry of level 1 without CONT maps its 4 KiB. -/
theorem misplaced_page {run : List Nat} (h9 : pteBit e 9 = false) : misplaced 1 e run = false := by
  have h : fld e 12 45 * 4096 % 2 ^ pageBits 0 = 0 := Nat.mul_mod_left _ _
  simp [misplaced, leafCode, fld_eq_zero_iff.mpr h9, h]

/-- A leaf entry of level 1 with CONT maps its 64 KiB exactly where its run is one. -/
theorem misplaced_run {first : Nat} (h9 : pteBit e 9 = true) (hfirst : first = t + 8 * fld va (12 + 9 * 0) 9 - 8 * (va / 2 ^ 12 % 16)) :
    misplaced 1 e (runOf s va 0 t) = false ↔
      s.rd first 8 / 2 ^ 12 % 16 = 0 ∧ ∀ i < 16, bareEntry (s.rd (first + 8 * i) 8) = bareEntry (s.rd first 8) + 4096 * i := by
  have hget (i : Nat) (hi : i < 16) : (runOf s va 0 t).getD i 0 = s.rd (first + 8 * i) 8 := hfirst ▸ runOf_getD s va t i hi
  have hhead : (runOf s va 0 t).headD e = s.rd first 8 := hget 0 (by decide)
  have hrun : ((List.range 16).all fun i => bareLeaf ((runOf s va 0 t).getD i 0) = bareLeaf (s.rd first 8) + 4096 * i) = true ↔
      ∀ i < 16, bareEntry (s.rd (first + 8 * i) 8) = bareEntry (s.rd first 8) + 4096 * i := by
    simp only [List.all_eq_true, List.mem_range, decide_eq_true_eq, ← bareLeaf_eq]
    exact forall₂_congr fun i hi => by rw [hget i hi]
  have hcode : leafCode 1 e = 1 := by simp [leafCode, fld_eq_one_iff.mpr h9]
  rw [misplaced, hcode]
  simp only [if_true, hhead, Bool.or_eq_false_iff, Bool.not_eq_false', hrun, decide_eq_false_iff_not, ne_eq, not_not]
  simp [fld, and_comm]

/-- Above level 1 a leaf has no CONT and a frame aligned to its page. -/
theorem misplaced_large {run : List Nat} {lvl : Nat} (hlvl : lvl = 2 ∨ lvl = 3) :
    misplaced lvl e run = false ↔ pteBit e 9 = false ∧ e / 2 ^ 12 % 2 ^ (9 * (lvl - 1)) = 0 := by
  rw [← fld_eq_zero_iff]
  have h9 : fld e 9 1 < 2 := Nat.mod_lt _ (by decide)
  obtain rfl | rfl := hlvl <;> simp [misplaced, leafCode, pageBits, fld] <;> omega

theorem misplaced_iff (hlv : lv ≤ 2) :
    misplaced (lv + 1) e (runOf s va lv t) = false ↔ ∃ size, leafSize s va (lv + 1) e (t + 8 * fld va (12 + 9 * lv) 9) size := by
  obtain rfl | hlv : lv = 0 ∨ lv + 1 = 2 ∨ lv + 1 = 3 := by omega
  · cases h9 : pteBit e 9 with
    | false => exact ⟨fun _ => ⟨0, .inl ⟨rfl, h9, rfl⟩⟩, fun _ => misplaced_page h9⟩
    | true =>
      rw [misplaced_run h9 rfl]
      refine ⟨fun h => ⟨1, .inr (.inl ⟨rfl, h9, rfl, h⟩)⟩, fun ⟨size, h⟩ => ?_⟩
      obtain ⟨-, h0, -⟩ | h | ⟨h, -⟩ | ⟨h, -⟩ := h
      · simp [h9] at h0
      · exact h.2.2.2
      · simp at h
      · simp at h
  · rw [misplaced_large hlv]
    constructor
    · rintro ⟨h9, hf⟩
      obtain rfl | rfl : lv = 1 ∨ lv = 2 := by omega
      · exact ⟨2, .inr (.inr (.inl ⟨rfl, h9, hf, rfl⟩))⟩
      · exact ⟨3, .inr (.inr (.inr ⟨rfl, h9, hf, rfl⟩))⟩
    · rintro ⟨size, ⟨h, -⟩ | ⟨h, -⟩ | ⟨h, h9, hf, -⟩ | ⟨h, h9, hf, -⟩⟩
      · omega
      · omega
      · obtain rfl : lv = 1 := by omega
        exact ⟨h9, hf⟩
      · obtain rfl : lv = 2 := by omega
        exact ⟨h9, hf⟩

end

end Sys2Proof.Machine
end

section
/-! A die's walk at its end (R311, R312, R314), for the one path that waits for it. -/

namespace Sys2Proof.Machine
open Sys2Proof.Claims

theorem leafRefuses_eq_false_iff (e : Nat) (n : Need) : leafRefuses e n = false ↔
    (n.r = true → pteBit e 2 = true) ∧ (n.w = true → pteBit e 3 = true) ∧ (n.x = true → pteBit e 4 = true) ∧ (n.hostBad = true → e / 2 ^ 10 % 4 ≠ 2) := by
  simp only [leafRefuses, Bool.or_eq_false_iff, and_assoc, Bool.and_eq_false_imp, decide_eq_false_iff_not, fld_eq_zero_iff, Bool.not_eq_false]
  rfl

/-- The frame of a leaf that maps a page is the key that its translation holds. -/
theorem leafTlb_pa {c va lvl e leaf a size : Nat} {s : State} {n : Need} (h : leafSize s va lvl e a size) :
    (leafTlb c va e leaf size n).pa = e / 2 ^ 10 % 4 * 2 ^ 57 + e / 2 ^ 12 % 2 ^ 45 * 4096 := by
  obtain ⟨-, -, rfl⟩ | ⟨-, -, rfl, -⟩ | ⟨-, -, h, rfl⟩ | ⟨-, -, h, rfl⟩ := h <;> simp [leafTlb, pageBits, fld, locKey] <;> omega

section
variable {s : State} {core c va top lv a e : Nat} {n : Need}

/-- With no translation held, a miss ends in what its walk ends in; a leaf found is held. -/
theorem heldWalk_held {t : Tlb} {leaf size : Nat} (hmiss : tlbOf s core c va = none) (htop : (s.ctx? c).bind Ctx.ptTop = some top)
    (hw : walkFrom s c va n 5 top = .held t leaf size) :
    heldWalk s core c va n = (fillBoth (setAD s c va leaf size n.w) core t, .held t leaf size) := by
  simp only [heldWalk, hmiss, walk, htop, hw]

theorem heldWalk_perm (hmiss : tlbOf s core c va = none) (htop : (s.ctx? c).bind Ctx.ptTop = some top)
    (hw : walkFrom s c va n 5 top = .perm) : heldWalk s core c va n = (s, .perm) := by
  simp only [heldWalk, hmiss, walk, htop, hw]

theorem heldWalk_fault {kind : Nat} (hmiss : tlbOf s core c va = none) (htop : (s.ctx? c).bind Ctx.ptTop = some top)
    (hw : walkFrom s c va n 5 top = .fault kind) : heldWalk s core c va n = (s, .fault kind) := by
  simp only [heldWalk, hmiss, walk, htop, hw]

/-- A and D are set by one write of the entry where no log is kept (R311, R321). -/
theorem setAD_of_noLog {x : Ctx} (hx : s.ctx? c = some x) (hlog : x.dirtyLog = 0) (leaf size : Nat) (w : Bool) :
    setAD s c va leaf size w = s.wrN leaf 8 (s.rd leaf 8 ||| if w then 192 else 64) := by
  have hdirty : dirtyAppend s c va size = s := by simp only [dirtyAppend, hx, Option.map_some, hlog]
  simp only [setAD, hdirty, ite_self]

end

theorem die_modDie (s : State) (d j : Nat) (f : Die → Die) : (s.modDie d f).die j = if j = d then f (s.die d) else s.die j :=
  SMap.get_modify Die.reset s.dies d j f

/-! What a translation entered in the TLBs leaves, and that it is there. -/

theorem walks_fillBoth (s : State) (core : Nat) (t : Tlb) (j : Nat) : ((fillBoth s core t).die j).walks = (s.die j).walks := by
  have h : (fillBoth s core t).die j = _ := die_modDie s (dieOf core) j fun x => { x with tlb := tlbFill l2Tlbs x.tlb t }
  rw [h]
  split_ifs with hj
  · rw [hj]
  · rfl

theorem mem_tlb_fillBoth (s : State) (core : Nat) (t : Tlb) : t ∈ ((fillBoth s core t).core core).tlb := by
  have hcore := SMap.get_modify Core.reset s.cores core core fun x => { x with tlb := tlbFill l1Tlbs x.tlb t }
  have h : (fillBoth s core t).core core = _ := hcore
  rw [h, if_pos rfl, tlbFill, l1Tlbs]
  exact List.mem_cons_self

/-! What the walk ends in by the entry that the tables lead to. -/

section
variable {s : State} {c va top lv a size : Nat} {n : Need}

theorem walk_of_invalid (h : tablesLead s va a lv 5 top) (hlv : 1 ≤ lv) (he : pteBit (s.rd a 8) 0 = false) :
    walkFrom s c va n 5 top = .fault 0 ∧ gapFrom s va 5 top = decide (1 < lv) := by
  obtain ⟨lv, rfl⟩ := Nat.exists_eq_add_of_le' hlv
  obtain ⟨t, rfl, hwalk, hgap⟩ := walkFrom_of_tablesLead h
  refine ⟨(hwalk c n).trans (walkFrom_invalid rfl he), hgap.trans ((gapFrom_invalid rfl he).trans (decide_eq_decide.mpr ?_))⟩
  omega

theorem walk_of_bad (h : tablesLead s va a lv 5 top) (hlv : 1 ≤ lv) (he : pteBit (s.rd a 8) 0 = true) (hbad : entryBad lv (s.rd a 8)) :
    walkFrom s c va n 5 top = .perm := by
  obtain ⟨lv, rfl⟩ := Nat.exists_eq_add_of_le' hlv
  obtain ⟨t, rfl, hwalk, -⟩ := walkFrom_of_tablesLead h
  exact (hwalk c n).trans (walkFrom_bad rfl he hbad)

theorem walk_of_misplaced (h : tablesLead s va a lv 5 top) (hlv : 1 ≤ lv) (he : pteBit (s.rd a 8) 0 = true) (hgood : ¬entryBad lv (s.rd a 8))
    (hleaf : pteBit (s.rd a 8) 8 = true) (hno : ∀ size, ¬leafSize s va lv (s.rd a 8) a size) : walkFrom s c va n 5 top = .perm := by
  obtain ⟨lv, rfl⟩ := Nat.exists_eq_add_of_le' hlv
  obtain ⟨t, rfl, hwalk, -⟩ := walkFrom_of_tablesLead h
  have hlow : lv ≤ 2 := by
    by_contra hhigh
    exact hgood (.inr (.inr (.inl ⟨hleaf, by omega⟩)))
  have hmis := mt (misplaced_iff hlow).mp (not_exists.mpr hno)
  rw [hwalk, walkFrom_leaf rfl he hgood hleaf, leafRes_eq, if_pos (Bool.not_eq_false _ ▸ hmis)]

theorem walk_of_leaf (h : tablesLead s va a lv 5 top) (hlv : 1 ≤ lv) (he : pteBit (s.rd a 8) 0 = true) (hgood : ¬entryBad lv (s.rd a 8))
    (hleaf : pteBit (s.rd a 8) 8 = true) (hsize : leafSize s va lv (s.rd a 8) a size) :
    walkFrom s c va n 5 top = if leafRefuses (s.rd a 8) n then .perm else if n.w && pteBit (s.rd a 8) 5 then .fault 1
      else .held (leafTlb c va (s.rd a 8) a size n) a size := by
  obtain ⟨lv, rfl⟩ := Nat.exists_eq_add_of_le' hlv
  obtain ⟨t, rfl, hwalk, -⟩ := walkFrom_of_tablesLead h
  have hlow : lv ≤ 2 := by
    by_contra hhigh
    exact hgood (.inr (.inr (.inl ⟨hleaf, by omega⟩)))
  have hmis := (misplaced_iff hlow).mpr ⟨size, hsize⟩
  rw [hwalk, walkFrom_leaf rfl he hgood hleaf, leafRes_eq, if_neg (Bool.eq_false_iff.mp hmis), ← leafCode_of_leafSize hsize]
  rfl

end

/-! The state once the walk has left its die. -/

/-- The walk is no longer one of its die's. -/
def unwalked (s : State) (d w : Nat) : State := s.modDie d fun x => { x with walks := x.walks.del w }

section
variable {s : State} {d w gid slot top lv a size : Nat} {k : Walk} {n : Need} {g : Group} {q : Path}

theorem exec_walkComplete_sole (h : soleWalk s d w k gid slot n g q) : exec (.walkComplete w) s = .next (walkEnd d k (unwalked s d w) (gid, slot, n)) := by
  obtain ⟨⟨di, hdies, hwalks, -⟩, hpaths, -⟩ := h
  change execWalkComplete w s = _
  simp [execWalkComplete, hdies, hwalks, hpaths, SMap.find?, unwalked, walkMax]

theorem die_unwalked (s : State) (d w j : Nat) :
    (unwalked s d w).die j = { s.die j with walks := if j = d then (s.die j).walks.del w else (s.die j).walks } := by
  refine (die_modDie s d j _).trans ?_
  split_ifs with hj
  · rw [hj]
  · rfl

theorem tlbOf_unwalked (s : State) (d w core c va : Nat) : tlbOf (unwalked s d w) core c va = tlbOf s core c va := by
  simp only [tlbOf, die_unwalked]
  rfl

theorem path?_wr (s : State) (pa : Nat) (bs : List Byte) (j l : Nat) :
    (s.wr pa bs).path? j l = (s.path? j l).map (seqwSeen (putBytes s.mem pa bs) pa bs.length) := by
  simp only [State.path?, State.group?, State.wr, SMap.find?_mapV]
  cases s.groups.find? j <;> simp [SMap.find?_mapV]

/-- A write wakes no path that is parked. -/
theorem path?_wr_of_parked {m j l : Nat} (h : s.path? j l = some q) (hq : q.cond = .parked m) (pa : Nat) (bs : List Byte) : (s.wr pa bs).path? j l = some q := by
  rw [path?_wr, h, Option.map_some, seqwSeen, hq]

theorem path?_postEvent_of_parked {m j l : Nat} (h : s.path? j l = some q) (hq : q.cond = .parked m) (typ c : Nat) (body : List (Nat × Nat)) :
    (postEvent s typ c body).path? j l = some q := by
  unfold postEvent
  dsimp only
  split_ifs
  · exact path?_wr_of_parked (s := { s with host := _ }) h hq _ _
  · exact h
  · exact h

theorem die_postEvent (s : State) (typ c : Nat) (body : List (Nat × Nat)) (j : Nat) : (postEvent s typ c body).die j = s.die j := by
  unfold postEvent
  dsimp only
  split_ifs <;> rfl

theorem walkFrom_unwalked (s : State) (d w c va : Nat) (n : Need) (m tbl : Nat) : walkFrom (unwalked s d w) c va n m tbl = walkFrom s c va n m tbl :=
  walkFrom_congr (s := s) (t := unwalked s d w) rfl _ _ _ _ _

theorem coreOf_unwalked (h : soleWalk s d w k gid slot n g q) : coreOf (unwalked s d w) gid = g.place.core := by
  obtain ⟨-, -, hg, -⟩ := h
  have hg' : (unwalked s d w).group? gid = some g := hg
  rw [coreOf, hg', Option.map_some, Option.getD_some]

theorem path?_unwalked (h : soleWalk s d w k gid slot n g q) : (unwalked s d w).path? gid slot = some q := by
  obtain ⟨-, -, hg, hq, -⟩ := h
  change (s.group? gid).bind _ = _
  rw [hg, Option.bind_some, hq]

/-- The fault of a page that its first waiting path opens (R314). -/
def openedFault (c page size kind acc gid slot : Nat) : FaultR :=
  { ctx := c, va := page, size := size, kind := kind, acc := acc, paths := [(gid, slot)], ops := [], frames := [], claims := [] }

/-- No fault is open on any die. -/
theorem faults_unwalked (h : soleWalk s d w k gid slot n g q) (j : Nat) : ((unwalked s d w).die j).faults = [] := by
  obtain ⟨⟨di, hdies, -, hnone⟩, -⟩ := h
  rw [die_unwalked]
  change (s.dies.get Die.reset j).faults = []
  rw [hdies, SMap.get, SMap.find?_cons]
  split_ifs
  · exact hnone
  · rfl

theorem faultRoom_unwalked (h : soleWalk s d w k gid slot n g q) : faultRoom (unwalked s d w) d = true := by
  obtain ⟨⟨di, hdies, hwalks, hnone⟩, -⟩ := h
  have hrest : (unwalked s d w).dies = [(d, { di with walks := [] })] := by
    simp [unwalked, State.modDie, hdies, hwalks, SMap.modify, SMap.put, SMap.get, SMap.find?, SMap.del]
  simp [faultRoom, faultUse, hrest, hnone, faultMax]

theorem faultAt_unwalked (h : soleWalk s d w k gid slot n g q) (c page kind : Nat) : faultAt (unwalked s d w) c page kind = none := by
  rw [faultAt, List.findSome?_eq_none_iff]
  intro j _
  rw [faults_unwalked h j]
  rfl

theorem pageSizeAt_unwalked (s : State) (d w c va : Nat) : pageSizeAt (unwalked s d w) c va = pageSizeAt s c va := by
  simp only [pageSizeAt, leafNow, walkFrom_unwalked]
  rfl

theorem tableGap_unwalked (s : State) (d w c va : Nat) : tableGap (unwalked s d w) c va = tableGap s c va := by
  simp only [tableGap, gapFrom_congr (s := s) (t := unwalked s d w) rfl]
  rfl

variable (h : soleWalk s d w k gid slot n g q) (hmiss : tlbOf s g.place.core k.ctx k.va = none) (htop : (s.ctx? k.ctx).bind Ctx.ptTop = some top)
include h hmiss htop

/-- PERM is due at the path's next boundary. -/
theorem walkEnd_perm (hw : walkFrom s k.ctx k.va n 5 top = .perm) :
    let u := walkEnd d k (unwalked s d w) (gid, slot, n)
    u.mem = s.mem ∧ u.path? gid slot = some { q with cond := .ready, permFail := (k.va, 0, 0) :: q.permFail } := by
  have hheld := heldWalk_perm (s := unwalked s d w) ((tlbOf_unwalked ..).trans hmiss) htop ((walkFrom_unwalked ..).trans hw)
  rw [← coreOf_unwalked h] at hheld
  have hpath := path?_unwalked h
  obtain ⟨-, -, -, -, hcond, hpage, hlt, -⟩ := h
  have hown : pageOf k.va = k.va := by
    simp only [pageOf]
    omega
  simp only [walkEnd, hheld, path?_modPathAt, hpath, and_self, if_true, Option.map_some, unparkOne, hcond, hown, Nat.le_refl, and_true]
  rfl

/-- The translation is held, A and D are set, and the path is ready. -/
theorem walkEnd_held {t : Tlb} (hw : walkFrom s k.ctx k.va n 5 top = .held t a size) :
    let u := walkEnd d k (unwalked s d w) (gid, slot, n)
    u.mem = putBytes s.mem a (bytesLE 8 (s.rd a 8 ||| if n.w then 192 else 64)) ∧ u.path? gid slot = some { q with cond := .ready } ∧
      (u.die d).walks = [] ∧ t ∈ (u.core g.place.core).tlb := by
  have hheld := heldWalk_held (s := unwalked s d w) ((tlbOf_unwalked ..).trans hmiss) htop ((walkFrom_unwalked ..).trans hw)
  rw [← coreOf_unwalked h] at hheld
  have hpath := path?_unwalked h
  have hcore := coreOf_unwalked h
  obtain ⟨⟨di, hdies, hwalks, -⟩, -, -, -, hcond, -, -, x, hx, hlog⟩ := h
  have hset := setAD_of_noLog (s := unwalked s d w) (c := k.ctx) (va := k.va) hx hlog a size n.w
  have hpar : (setAD (unwalked s d w) k.ctx k.va a size n.w).path? gid slot = some q := hset ▸ path?_wr_of_parked hpath hcond _ _
  have hgone : ((unwalked s d w).die d).walks = [] := by
    rw [die_unwalked]
    simp [hdies, hwalks, State.die, SMap.get, SMap.find?, SMap.del]
  simp only [walkEnd, hheld, path?_modPathAt, and_self, if_true]
  refine ⟨by rw [hset]; rfl, ?_, ?_, ?_⟩
  · have hfill (v : State) (c : Nat) (t : Tlb) : (fillBoth v c t).path? gid slot = v.path? gid slot := rfl
    rw [hfill, hpar, Option.map_some, unparkOne, hcond]
    rfl
  · refine (walks_fillBoth ..).trans ?_
    rw [hset]
    exact hgone
  · rw [hcore]
    exact mem_tlb_fillBoth ..

/-- A fault of the page is open, the host is told of it, and the path stays parked. -/
theorem walkEnd_fault {kind : Nat} (hw : walkFrom s k.ctx k.va n 5 top = .fault kind) :
    let u := walkEnd d k (unwalked s d w) (gid, slot, n)
    let size := if kind = 1 then pageSizeAt s k.ctx k.va else 0
    ∃ f, u.path? gid slot = some q ∧ u.host.eqSeq = s.host.eqSeq + 1 ∧ (u.die d).faults = [(0, f)] ∧ f.ctx = k.ctx ∧
      f.va = k.va / 2 ^ pageBits size * 2 ^ pageBits size ∧ f.size = size ∧ f.kind = kind ∧
      f.acc = accByte n false + (if kind = 0 && tableGap s k.ctx k.va then 16 else 0) ∧ f.paths = [(gid, slot)] := by
  have hheld := heldWalk_fault (s := unwalked s d w) ((tlbOf_unwalked ..).trans hmiss) htop ((walkFrom_unwalked ..).trans hw)
  rw [← coreOf_unwalked h] at hheld
  have hpath := path?_unwalked h
  have hid : freeId ((unwalked s d w).die d).faults = 0 := by rw [faults_unwalked h]; rfl
  have hroom := faultRoom_unwalked h
  have hnone := faultAt_unwalked h
  have hfaults := faults_unwalked h d
  obtain ⟨-, -, -, -, hcond, -, hlt, -⟩ := h
  have hva : k.va % 2 ^ 57 = k.va := Nat.mod_eq_of_lt hlt
  simp only [walkEnd, hheld, hroom, if_true, openFault, hva, hnone, hid, pageSizeAt_unwalked, tableGap_unwalked]
  generalize hz : (if kind = 1 then pageSizeAt s k.ctx k.va else 0) = size
  refine ⟨openedFault _ _ _ _ _ gid slot, path?_postEvent_of_parked (s := (unwalked s d w).modDie d _) hpath hcond _ _ _, postEvent_eqSeq _ _ _ _, ?_,
    rfl, rfl, rfl, rfl, rfl, rfl⟩
  rw [die_postEvent, die_modDie, if_pos rfl]
  change SMap.put ((unwalked s d w).die d).faults 0 _ = _
  rw [hfaults]
  rfl

end

end Sys2Proof.Machine
end

section
/-! Fences and prefetches (R134, R272), and the results of a walk put together. -/

namespace Sys2Proof.Machine
open Sys2Proof.Claims

theorem core_modCore (s : State) (c j : Nat) (f : Core → Core) : (s.modCore c f).core j = if j = c then f (s.core c) else s.core j :=
  SMap.get_modify Core.reset s.cores c j f

/-- The L1 copies of cores changed, and nothing else. -/
def L1Only (s t : State) : Prop := t = { s with cores := t.cores } ∧ ∀ n, { t.core n with l1 := [] } = { s.core n with l1 := [] }

theorem L1Only.refl (s : State) : L1Only s s := ⟨rfl, fun _ => rfl⟩

theorem L1Only.trans {s t u : State} (h : L1Only s t) (k : L1Only t u) : L1Only s u := by
  obtain ⟨hs, hl⟩ := h
  obtain ⟨ht, hm⟩ := k
  refine ⟨ht.trans ?_, fun n => (hm n).trans (hl n)⟩
  rw [hs]

theorem L1Only.l1Fill (s : State) (core c line : Nat) (fill : Bool) : L1Only s (l1Fill s core c line fill) := by
  refine ⟨rfl, fun n => ?_⟩
  unfold Machine.l1Fill
  rw [core_modCore]
  by_cases hn : n = core
  · subst hn
    rw [if_pos rfl]
    dsimp only
    split_ifs <;> rfl
  · rw [if_neg hn]

/-- One lane's prefetch: its line may be brought into the L1 of the core (R134). -/
def prefetched (core c : Nat) (s : State) (va : Nat) : State :=
  if badVa va then s
  else match trOne s core c va Need.read false with
    | .key pa => if ownPrep s s.iss.gid (lineOf pa) || (l1Find s core c (lineOf pa)).isSome then s else l1Fill s core c (lineOf pa) true
    | _ => s

theorem prefetched_l1Only (core c : Nat) (s : State) (va : Nat) : L1Only s (prefetched core c s va) := by
  unfold prefetched
  split_ifs
  · exact .refl s
  · cases trOne s core c va Need.read false with
    | key pa =>
      dsimp only
      split_ifs
      · exact .refl s
      · exact .l1Fill ..
    | perm => exact .refl s
    | miss => exact .refl s

theorem prefetched_regrouped (core c : Nat) (s : State) (G : SMap Group) (va : Nat) :
    prefetched core c (regrouped s G) va = regrouped (prefetched core c s va) G := by
  have htr : trOne (regrouped s G) core c va Need.read false = trOne s core c va Need.read false := trOne_with s G s.parts s.iss ..
  unfold prefetched
  rw [htr]
  split_ifs
  · rfl
  · cases trOne s core c va Need.read false with
    | key pa =>
      have hown : ownPrep (regrouped s G) (regrouped s G).iss.gid (lineOf pa) = ownPrep s s.iss.gid (lineOf pa) := rfl
      have hfind : l1Find (regrouped s G) core c (lineOf pa) = l1Find s core c (lineOf pa) := rfl
      dsimp only
      rw [hown, hfind]
      split_ifs <;> rfl
    | perm => rfl
    | miss => rfl

/-- The lanes' prefetches in order. -/
def prefetches (core c : Nat) (s : State) (vas : List Nat) : State := vas.foldl (prefetched core c) s

theorem prefetches_l1Only (core c : Nat) (s : State) (vas : List Nat) : L1Only s (prefetches core c s vas) :=
  List.foldlRecOn (motive := L1Only s) _ _ (.refl s) fun _ h va _ => h.trans (prefetched_l1Only core c _ va)

theorem prefetches_regrouped (core c : Nat) (s : State) (G : SMap Group) (vas : List Nat) :
    prefetches core c (regrouped s G) vas = regrouped (prefetches core c s vas) G := by
  induction vas generalizing s with
  | nil => rfl
  | cons va vas ih => simp only [prefetches, List.foldl_cons, prefetched_regrouped] at *; exact ih _

/-- What changes L1 copies alone leaves the count under %hbmode as it is, and what goes on after it. -/
theorem goesOn_l1Only {s u : State} (h : L1Only s u) (g : Group) (p : Path) : goesOn s g p u = { goesOn s g p s with cores := u.cores } := by
  obtain ⟨hs, hl⟩ := h
  have hcore := congrArg Core.hb (hl g.place.core)
  have hhb : u.hb g.place.core g.ctx = s.hb g.place.core g.ctx := congrArg (fun m : SMap Hb => m.get Hb.reset g.ctx) hcore
  have hbeat : countedBeat u g p = countedBeat s g p := by simp only [countedBeat, hhb]
  simp only [goesOn, passes, hbeat]
  rw [hs]
  rfl

/-- R134: a prefetch changes L1 copies alone, and none of another level. -/
theorem vprefetchFills {s : State} {g : Group} {p : Path} {l a b : Nat} (h : Admitted { acc := { pred := true }, rd := sR [a] ++ vR [b] } s g p) :
    exec (.vprefetch l a b) s = .next (goesOn s g p (prefetches g.place.core g.ctx s
      ((if l = 0 then actLanes s g p else []).map fun i => (rS g a + rV g b i).toNat))) := by
  have honly := prefetches_l1Only g.place.core g.ctx s ((if l = 0 then actLanes s g p else []).map fun i => (rS g a + rV g b i).toNat)
  refine gated_goesOn h rfl _ ?_ ?_ fun G => ?_
  · rw [honly.1]
  · rw [honly.1]
  · rw [← prefetches_regrouped, prefetches, List.foldl_map]
    rfl

/-- R272: with nothing before it in flight a fence acts at once; else it stays in its path's order. -/
theorem fenceActs {s : State} {g : Group} {p : Path} (h : Admitted { acc := { pred := true, ords := [1, 2, 3, 4] } } s g p) :
    let o := ordOf s 4 3
    let u := if o.1 ≠ 2 ∧ 1 ≤ o.2 then l1Drop s g.place.core g.ctx else s
    exec .fence s = .next (goesOn s g p (if s.ops.any fun z => z.2.of s.iss.gid s.iss.slot && z.2.owed then u.addOp (matOp s g (.fence o.1 o.2)) else u)) := by
  dsimp only
  refine gated_goesOn h rfl _ ?_ ?_ fun G => ?_
  · split_ifs <;> rfl
  · split_ifs <;> rfl
  · simp only [Bool.and_eq_true, decide_eq_true_eq]
    split_ifs <;> rfl

/-- The page of a leaf as the tables say it, whatever an access needs. -/
theorem pageSizeAt_of_leaf {s : State} {c va top lv a size : Nat} (htop : (s.ctx? c).bind Ctx.ptTop = some top) (h : tablesLead s va a lv 5 top)
    (hlv : 1 ≤ lv) (he : pteBit (s.rd a 8) 0 = true) (hgood : ¬entryBad lv (s.rd a 8)) (hleaf : pteBit (s.rd a 8) 8 = true)
    (hsize : leafSize s va lv (s.rd a 8) a size) : pageSizeAt s c va = size := by
  have hw := walk_of_leaf (c := c) (n := Need.none) h hlv he hgood hleaf hsize
  have hfree : leafRefuses (s.rd a 8) Need.none = false := rfl
  rw [hfree, if_neg Bool.false_ne_true, if_neg (by simp [Need.none])] at hw
  simp only [pageSizeAt, leafNow, htop, hw, Option.map_some, Option.getD_some, leafTlb]

/-- The ACC byte of an access that is no engine's. -/
theorem accByte_eq (n : Need) : accByte n false = (if n.r then 1 else 0) + (if n.w then 2 else 0) + if n.x then 4 else 0 := rfl

/-- Settles O41: a fence acts or stays by what of its path is in flight, a prefetch touches L1 copies alone, and a walk ends by the entry that the
tables lead to: the judgement of that entry (`walk_of_invalid`, `walk_of_bad`, `walk_of_misplaced`, `walk_of_leaf`), then what each result does to
the one path that waits (`walkEnd_perm`, `walkEnd_held`, `walkEnd_fault`). -/
theorem fencesPrefetchesAndWalks : Obligations.FencesPrefetchesAndWalks := by
  intro s g p
  refine ⟨fun h => ⟨fun hnone => ?_, fun ⟨z, hz, hof, howed⟩ => ?_⟩, fun l a b h => ?_, fun d w k gid slot n q top a lv hsole hmiss htop hlv hlead => ?_⟩
  · have hidle : ¬(List.any s.ops fun z => z.2.of s.iss.gid s.iss.slot && z.2.owed) = true := by
      simp only [List.any_eq_true, Bool.and_eq_true, not_exists, not_and]
      exact fun z hz hof howed => absurd (hnone z hz hof) (by rw [howed]; decide)
    exact (fenceActs h).trans (by rw [if_neg hidle])
  · have hbusy : (List.any s.ops fun z => z.2.of s.iss.gid s.iss.slot && z.2.owed) = true :=
      List.any_eq_true.mpr ⟨z, hz, by rw [hof, howed]; rfl⟩
    exact (fenceActs h).trans (by rw [if_pos hbusy])
  · have honly := prefetches_l1Only g.place.core g.ctx s ((if l = 0 then actLanes s g p else []).map fun i => (rS g a + rV g b i).toNat)
    refine ⟨_, vprefetchFills h, goesOn_l1Only honly g p, fun hl => ?_, honly.2⟩
    rw [if_neg hl]
    rfl
  · have hrun := exec_walkComplete_sole hsole
    have hrefused (hw : walkFrom s k.ctx k.va n 5 top = .perm) := And.intro hrun (walkEnd_perm hsole hmiss htop hw)
    have hva : k.va / 4096 * 4096 = k.va := by
      obtain ⟨-, -, -, -, -, hpage, -⟩ := hsole
      omega
    refine ⟨fun he hbad => ⟨_, hrefused (walk_of_bad hlead hlv he hbad)⟩,
      fun he hgood hleaf hno => ⟨_, hrefused (walk_of_misplaced hlead hlv he hgood hleaf hno)⟩, fun size he hgood hleaf hsize => ?_, fun he => ?_⟩
    · have hw := walk_of_leaf (c := k.ctx) (n := n) hlead hlv he hgood hleaf hsize
      refine ⟨fun hrights => ⟨_, hrefused ?_⟩, fun hrights hwr hmig => ?_, fun hrights hok => ?_⟩
      · rw [hw, if_pos]
        exact Bool.not_eq_false _ ▸ mt (leafRefuses_eq_false_iff _ _).mp hrights
      · rw [(leafRefuses_eq_false_iff _ _).mpr hrights, if_neg Bool.false_ne_true, if_pos (by rw [hwr, hmig]; rfl)] at hw
        obtain ⟨f, hq, hev, hopen, hc, hpage, hz, hk, hacc, hpaths⟩ := walkEnd_fault hsole hmiss htop hw
        have hcode := pageSizeAt_of_leaf htop hlead hlv he hgood hleaf hsize
        rw [if_pos rfl, hcode] at hpage hz
        exact ⟨_, f, hrun, hq, hev, hopen, hc, hpage, hz, hk, hacc, hpaths⟩
      · have hmig : (n.w && pteBit (s.rd a 8) 5) = false := by
          rw [Bool.and_eq_false_imp]
          exact hok
        rw [(leafRefuses_eq_false_iff _ _).mpr hrights, if_neg Bool.false_ne_true, hmig, if_neg Bool.false_ne_true] at hw
        obtain ⟨hmem, hq, hwalks, htlb⟩ := walkEnd_held hsole hmiss htop hw
        exact ⟨_, _, hrun, hmem, hq, hwalks, htlb, rfl, rfl, rfl, rfl, leafTlb_pa hsize, rfl, rfl, rfl⟩
    · obtain ⟨hw, hgap⟩ := walk_of_invalid (c := k.ctx) (n := n) hlead hlv he
      obtain ⟨f, hq, hev, hopen, hc, hpage, hz, hk, hacc, hpaths⟩ := walkEnd_fault hsole hmiss htop hw
      have hgap' : tableGap s k.ctx k.va = decide (1 < lv) := by rw [tableGap, htop]; exact hgap
      refine ⟨_, f, hrun, hq, hev, hopen, hc, hpage.trans hva, hz, hk, hacc.trans ?_, hpaths⟩
      rw [hgap', accByte_eq]
      simp

end Sys2Proof.Machine
end

section
/-! A load whose lane is marked as a bundle store's, at a line with a committed version of its group: the version is installed, and the
access makes a preparing version of the open bundle that it names. No issue marks a load so, but the statement has no premise
that says so. -/

namespace Sys2Proof.Machine
open Sys2Proof.Claims

/-- The committed bundle whose version stands on the line, and an open one of the same group. -/
def bundleDir (st : BSt) : Dir := { st := st, gen := 1, dom := 0, ctx := 1, gid := 1, ranges := [], lines := [], wait := [], stamp := 5, op := 0 }
def committedHandle : Handle := { die := 0, idx := 0, gen := 1, dom := 0 }
def openHandle : Handle := { die := 0, idx := 1, gen := 1, dom := 0 }

/-- A load of one lane that is marked as a store into the open bundle. -/
def markedLane : LaneAcc := { lane := 0, va := 0x20000, pa := 0x20000, x := 0, c := 0, bun := true, done := false, res := 0 }
def markedLoad : MemOp :=
  { k := .load, n := 8, ord := 0, scp := 0, dst := .none, lanes := [markedLane], bundle := some openHandle, cls := 3 }
def markedOp : Op := { gid := 1, slot := 0, ctx := 1, core := 0, perf := false, lost := 0, born := 0, kind := .mem markedLoad }

def markedState : State :=
  { State.reset with
    ops := [(7, markedOp)]
    lines := [(0x20000, { LineV.none with prep := some ([], committedHandle) })]
    dies := [(0, { Die.reset with dirs := [(0, bundleDir .committed), (1, bundleDir .open_)] })] }

theorem markedState_atHome : AtHome markedState 7 markedOp markedLoad :=
  ⟨rfl, rfl, by decide +kernel, rfl, by decide, by decide +kernel, by decide +kernel⟩

/-- The bundle of the preparing version on the line after an instruction. -/
def preparingAfter (x : Out) : Option Handle := match x with | .next t => (t.line 0x20000).prep.map Prod.snd | _ => none

theorem preparingAfter_markedLoad : preparingAfter (exec (.homeAccess 7 [] false) markedState) = some openHandle := by decide +kernel

/-- Refutes O8: after a load of a committed version no preparing version is said to stand on the line, also where the load's lane is marked as a
bundle store's; then the access makes a preparing version of the bundle that it names. -/
theorem not_homeAccessEffects : ¬ Obligations.HomeAccessEffects := by
  rintro ⟨-, hbundle⟩
  obtain ⟨-, hload⟩ := hbundle markedState 7 markedOp markedLoad markedLane committedHandle (bundleDir .committed) [] markedState_atHome rfl
    (by decide) (by decide) rfl rfl
  obtain ⟨-, hcommitted⟩ := hload rfl (by decide) rfl rfl
  obtain ⟨t, hexec, -, -, hline⟩ := hcommitted rfl
  have hprep := preparingAfter_markedLoad
  have hnone : (t.line 0x20000).prep = none := congrArg LineV.prep hline
  rw [hexec, preparingAfter, hnone] at hprep
  exact absurd hprep (by decide)

end Sys2Proof.Machine
end

section
/-! What translations of background work and records of the device leave: operations, groups but for what their paths hold, and cores but for
their translations; and that they do not look at the operations in flight. -/

namespace Sys2Proof.Machine
open Sys2Proof.Claims

/-- Records written by the device: operations and cores stand, and of the groups only what their paths hold has changed. -/
structure Recorded (s t : State) : Prop where
  ops   : t.ops = s.ops
  cores : t.cores = s.cores
  paths : PathsAlone s t

namespace Recorded
variable {s t u : State}

theorem beside (ho : t.ops = s.ops) (hc : t.cores = s.cores) (hg : t.groups = s.groups) : Recorded s t := ⟨ho, hc, .of_groups hg⟩

theorem refl (s : State) : Recorded s s := beside rfl rfl rfl

theorem trans (h : Recorded s t) (k : Recorded t u) : Recorded s u := ⟨k.ops.trans h.ops, k.cores.trans h.cores, h.paths.trans k.paths⟩

theorem wr (s : State) (pa : Nat) (bs : List Byte) : Recorded s (s.wr pa bs) := ⟨rfl, rfl, .wr s pa bs⟩

theorem postEvent (s : State) (typ c : Nat) (body : List (Nat × Nat)) : Recorded s (postEvent s typ c body) := by
  refine ⟨?_, ?_, .postEvent s typ c body⟩
  all_goals
    unfold Machine.postEvent
    dsimp only
    split_ifs <;> rfl

theorem wrGuard (s : State) (pa n v : Nat) : Recorded s (s.wrGuard pa n v) := by
  unfold State.wrGuard
  split_ifs
  · exact refl s
  · exact wr s pa _

theorem dirtyAppend (s : State) (c va size : Nat) : Recorded s (dirtyAppend s c va size) := by
  unfold Machine.dirtyAppend
  split
  · exact refl s
  · exact refl s
  · dsimp only
    split_ifs
    · exact refl s
    · exact (wrGuard ..).trans (postEvent ..)
    · exact (wrGuard ..).trans (wrGuard ..)

theorem setAD (s : State) (c va leaf size : Nat) (w : Bool) : Recorded s (setAD s c va leaf size w) := by
  unfold Machine.setAD
  refine trans ?_ (wr ..)
  split_ifs
  · exact dirtyAppend ..
  · exact refl s

theorem walk (s : State) (c va : Nat) (n : Need) : Recorded s (walk s c va n).1 := by
  unfold Machine.walk
  split
  · exact refl s
  · split
    · exact setAD ..
    · exact refl s

theorem walkNow {c va : Nat} {n : Need} {x : State × Option Nat} (hx : walkNow s c va n = x) : Recorded s x.1 := by
  subst hx
  have hw := walk s c va n
  unfold Machine.walkNow
  split_ifs
  · exact refl s
  · split
    · next heq =>
      rw [heq] at hw
      split_ifs
      · exact refl s
      · exact hw
    · next heq => rwa [heq] at hw

theorem modCtx (s : State) (c : Nat) (f : Ctx → Ctx) : Recorded s (s.modCtx c f) := beside rfl rfl rfl

theorem ctxLog (s : State) (c typ : Nat) (body : List (Nat × Nat)) : Recorded s (ctxLog s c typ body) := by
  unfold Machine.ctxLog
  split
  · exact refl s
  · split_ifs
    · exact refl s
    · dsimp only
      split
      · next heq => exact ((modCtx ..).trans (walkNow heq)).trans (beside rfl rfl rfl)
      · next heq =>
        have h := (modCtx ..).trans (walkNow heq)
        split_ifs
        · exact h.trans ((modCtx ..).trans (wr ..))
        · split
          · next heq => exact (h.trans (walkNow heq)).trans (beside rfl rfl rfl)
          · next heq => exact (h.trans (walkNow heq)).trans (((wr ..).trans (wr ..)).trans (modCtx ..))

end Recorded

/-- A translation made: the same but for the translations that the cores hold. -/
structure Translated (s t : State) : Prop where
  ops   : t.ops = s.ops
  cores : ∀ j, { t.core j with tlb := [] } = { s.core j with tlb := [] }
  paths : PathsAlone s t

namespace Translated
variable {s t u : State}

theorem of_recorded (h : Recorded s t) : Translated s t := ⟨h.ops, fun j => by simp only [State.core, h.cores], h.paths⟩

theorem refl (s : State) : Translated s s := of_recorded (.refl s)

theorem fillBoth (h : Recorded s t) (core : Nat) (x : Tlb) : Translated s (fillBoth t core x) := by
  refine ⟨h.ops, fun j => ?_, h.paths.trans (.of_groups rfl)⟩
  unfold Machine.fillBoth
  rw [core_modCore]
  by_cases hj : j = core
  · subst hj
    rw [if_pos rfl]
    simp only [State.core, State.modDie, h.cores]
  · rw [if_neg hj]
    simp only [State.core, State.modDie, h.cores]

theorem heldWalk (s : State) (core c va : Nat) (n : Need) : Translated s (heldWalk s core c va n).1 := by
  have hw := Recorded.walk s c va n
  unfold Machine.heldWalk
  split
  · split_ifs
    · exact refl s
    · exact refl s
    · exact fillBoth (.setAD ..) _ _
    · exact fillBoth (.refl s) _ _
  · split
    · next heq => rw [heq] at hw; exact fillBoth hw _ _
    · exact of_recorded hw

theorem bgNow (s : State) (core c va : Nat) (n : Need) (eng : Bool) : Translated s (bgNow s core c va n eng).1 := by
  have hw := heldWalk s core c (va % 2 ^ 57) n
  unfold Machine.bgNow
  dsimp only
  split_ifs
  · exact refl s
  · split
    · next heq =>
      rw [heq] at hw
      split_ifs
      · exact refl s
      · exact hw
    · next heq => rwa [heq] at hw
    · next heq => rwa [heq] at hw

theorem bgXlate (s : State) (core c va : Nat) (n : Need) (eng : Bool) : Translated s (bgXlate s core c va n eng).1 := by
  unfold Machine.bgXlate
  split_ifs
  · unfold Machine.queueWalk
    split_ifs
    · exact refl s
    · exact of_recorded (.beside rfl rfl rfl)
  · exact bgNow ..

theorem padByte (h : Translated s t) (core b : Nat) : padByte t core b = padByte s core b := by
  have hpad := congrArg Core.pad (h.cores core)
  exact congrArg (fun m : SMap Byte => m.get 0 b) hpad

end Translated

theorem PathsAlone.err {s t : State} (h : PathsAlone s t) (j : Nat) : (t.group? j).map Group.err = (s.group? j).map Group.err := by
  obtain ⟨x, hx⟩ := h j
  rw [hx, Option.map_map]
  rfl

/-! The state with other operations in flight. -/

def withOps (s : State) (O : SMap Op) : State := { s with ops := O }

section
variable (s : State) (O : SMap Op)

theorem postEvent_withOps (typ c : Nat) (body : List (Nat × Nat)) : postEvent (withOps s O) typ c body = withOps (postEvent s typ c body) O := by
  have hhost : (withOps s O).host = s.host := rfl
  unfold postEvent
  simp only [hhost]
  split_ifs <;> rfl

theorem wrGuard_withOps (pa n v : Nat) : (withOps s O).wrGuard pa n v = withOps (s.wrGuard pa n v) O := by
  have hcode : codeFrame (withOps s O) pa = codeFrame s pa := rfl
  unfold State.wrGuard
  rw [hcode]
  split_ifs <;> rfl

theorem dirtyAppend_withOps (c va size : Nat) : dirtyAppend (withOps s O) c va size = withOps (dirtyAppend s c va size) O := by
  have hctx : (withOps s O).ctx? c = s.ctx? c := rfl
  have hrd (a n : Nat) : (withOps s O).rd a n = s.rd a n := rfl
  unfold dirtyAppend
  rw [hctx]
  split
  · rfl
  · rfl
  · simp only [hrd, wrGuard_withOps, postEvent_withOps]
    split_ifs <;> rfl

theorem setAD_withOps (c va leaf size : Nat) (w : Bool) : setAD (withOps s O) c va leaf size w = withOps (setAD s c va leaf size w) O := by
  have hrd (a n : Nat) : (withOps s O).rd a n = s.rd a n := rfl
  unfold setAD
  simp only [hrd, dirtyAppend_withOps]
  split_ifs <;> rfl

theorem walk_withOps (c va : Nat) (n : Need) : walk (withOps s O) c va n = (withOps (walk s c va n).1 O, (walk s c va n).2) := by
  have hctx : (withOps s O).ctx? c = s.ctx? c := rfl
  have hwalk (m tbl : Nat) : walkFrom (withOps s O) c va n m tbl = walkFrom s c va n m tbl := walkFrom_congr (s := s) (t := withOps s O) rfl ..
  unfold walk
  rw [hctx]
  split
  · rfl
  · rw [hwalk]
    split
    · rw [setAD_withOps]
    · rfl

theorem heldWalk_withOps (core c va : Nat) (n : Need) :
    heldWalk (withOps s O) core c va n = (withOps (heldWalk s core c va n).1 O, (heldWalk s core c va n).2) := by
  have htlb : tlbOf (withOps s O) core c va = tlbOf s core c va := rfl
  unfold heldWalk
  rw [htlb]
  split
  · split_ifs
    · rfl
    · rfl
    · rw [setAD_withOps]; rfl
    · rfl
  · rw [walk_withOps]
    cases walk s c va n with
    | mk t r => cases r <;> rfl

/-- A translation does not look at the operations in flight. -/
theorem bgXlate_withOps (core c va : Nat) (n : Need) (eng : Bool) :
    bgXlate (withOps s O) core c va n eng = (withOps (bgXlate s core c va n eng).1 O, (bgXlate s core c va n eng).2) := by
  have htlb (v : Nat) : tlbOf (withOps s O) core c v = tlbOf s core c v := rfl
  have hdie (d : Nat) : (withOps s O).die d = s.die d := rfl
  have hbar (v pa : Nat) : barred (withOps s O) c v pa n eng = barred s c v pa n eng := rfl
  unfold bgXlate
  rw [htlb, hdie]
  split_ifs
  · unfold queueWalk
    rw [hdie]
    split_ifs <;> rfl
  · unfold bgNow
    dsimp only
    split_ifs
    · rfl
    · rw [heldWalk_withOps]
      cases heldWalk s core c (va % 2 ^ 57) n with
      | mk t r =>
        cases r with
        | held x leaf size =>
          dsimp only
          rw [hbar]
          split_ifs <;> rfl
        | fault k => rfl
        | perm => rfl

end

end Sys2Proof.Machine
end

section
/-! The items of copies, gathers, scatters and collective operations (R36, R144, Table MEM.8): where each stands, and what its home access does. -/

namespace Sys2Proof.Machine
open Sys2Proof.Claims

/-- Elements of a sector that are moved one by one (R144). -/
def itemPer (e : EngOp) : Nat := if e.fn = 4 then (if e.opc = 1 ∨ e.opc = 2 then 16 else 8) else 1
def itemRow (e : EngOp) (i : Nat) : Nat := i / (e.secs * itemPer e)
def itemCol (e : EngOp) (i : Nat) : Nat := i % (e.secs * itemPer e)
def itemIdx (s : State) (op : Op) (e : EngOp) (i : Nat) : Nat := rowIdx s op.core e (itemRow e i)

/-- Where an item stands in memory, and in the tile. -/
def itemAt (s : State) (op : Op) (e : EngOp) (i : Nat) : Nat := wrapAddr e (itemIdx s op e i) (32 / itemPer e * itemCol e i)
def itemPad (s : State) (op : Op) (e : EngOp) (i : Nat) : Nat :=
  4096 * (s.tile op.core e.tile).base + e.off + 32 * e.secs * itemRow e i + 32 / itemPer e * itemCol e i
def itemNeed (e : EngOp) : Need := if e.inbound then Need.read else if e.fn = 4 then Need.rw else Need.write

/-- The operation with the index of the item's row noted (R144). -/
def indexNoted (s : State) (o : Nat) (op : Op) (e : EngOp) (i : Nat) : SMap Op :=
  if e.fn = 2 || e.fn = 3 then (s.modEng o fun f => { f with idx := f.idx.put (itemRow e i) (itemIdx s op e i) }).ops else s.ops

/-- The record of an operation, item `i` of which has ended with a status. -/
def itemLeft (s : State) (op : Op) (e : EngOp) (i st rm : Nat) : Op :=
  { op with kind := .eng { e with
      todo := e.todo.filter (· ≠ i), status := max e.status st, rmask := rm
      idx := if e.fn = 2 || e.fn = 3 then e.idx.put (itemRow e i) (itemIdx s op e i) else e.idx } }

theorem itemPer_eq (e : EngOp) : (if e.fn = 4 then (if [1, 2].contains e.opc then 16 else 8) else 1) = itemPer e := by
  simp only [itemPer, List.contains_cons, List.contains_nil, Bool.or_false, Bool.or_eq_true, beq_iff_eq]

theorem items_eq (e : EngOp) : e.items = engineItems e := by
  simp only [EngOp.items, engineItems, List.contains_cons, List.contains_nil, Bool.or_false, Bool.or_eq_true, beq_iff_eq]
  split_ifs <;> simp

/-- What a translation of an item does. -/
def itemTranslated (o : Nat) (op : Op) (e : EngOp) (i va pad : Nat) : State × XRes → State
  | (s1, .perm) => engDeny o i pad op.core e.inbound s1
  | (s1, .fault k) => bgFault s1 op.core op.ctx va k (itemNeed e) true (.op o)
  | (s1, .wait) => s1
  | (s1, .key pa) => engMove o i va pa pad (32 / itemPer e) false op e s1

/-! Changes of an operation's record. -/

theorem find?_modEng {s : State} {o : Nat} {op : Op} {e : EngOp} (h : s.ops.find? o = some op) (hk : op.kind = .eng e) (f : EngOp → EngOp) :
    (s.modEng o f).ops.find? o = some { op with kind := .eng (f e) } := by
  refine (SMap.find?_adjust _ _ _ _).trans ?_
  rw [if_pos rfl, h, Option.map_some, hk]

theorem find?_itemDone {s : State} {o : Nat} {op : Op} {e : EngOp} (h : s.ops.find? o = some op) (hk : op.kind = .eng e) (i st : Nat) :
    (itemDone s o i st).ops.find? o = some { op with kind := .eng { e with todo := e.todo.filter (· ≠ i), status := max e.status st } } :=
  find?_modEng h hk _

section
variable {s u : State} {o i : Nat} {op : Op} {e : EngOp} (hop : s.ops.find? o = some op) (hk : op.kind = .eng e)
include hop hk

theorem find?_indexNoted : (indexNoted s o op e i).find? o = some { op with kind := .eng { e with
    idx := if e.fn = 2 || e.fn = 3 then e.idx.put (itemRow e i) (itemIdx s op e i) else e.idx } } := by
  unfold indexNoted
  split_ifs
  · exact find?_modEng hop hk _
  · rw [hop, ← hk]

/-- What a moving item leaves of its operation, whatever else has changed of it before. -/
theorem find?_itemLeft {t : State} {st rm : Nat} (ht : t.ops = (withOps u (indexNoted s o op e i)).ops) (hrm : rm = e.rmask) :
    (itemDone t o i st).ops.find? o = some (itemLeft s op e i st rm) := by
  subst hrm
  refine (find?_itemDone (e := { e with idx := if e.fn = 2 || e.fn = 3 then e.idx.put (itemRow e i) (itemIdx s op e i) else e.idx })
    ((congrArg (SMap.find? · o) ht).trans (find?_indexNoted hop hk)) rfl i st).trans ?_
  rfl

/-- The same, where bits of the tile's mask have been added. -/
theorem find?_itemLeft_mask {t : State} {st : Nat} (g : Nat → Nat) (ht : t.ops = indexNoted s o op e i) :
    (itemDone (t.modEng o fun f => { f with rmask := g f.rmask }) o i st).ops.find? o = some (itemLeft s op e i st (g e.rmask)) := by
  have hnoted := (congrArg (SMap.find? · o) ht).trans (find?_indexNoted hop hk)
  have hmask := find?_modEng hnoted rfl fun f => { f with rmask := g f.rmask }
  exact find?_itemDone hmask rfl i st

variable (hi : i ∈ e.todo) (hlast : ¬(e.cnt ≠ 0 ∧ i = engineItems e)) (hrows : e.fn = 3 → ∀ x ∈ e.todo, itemRow e i ≤ itemRow e x) (hden : e.denied = [])
include hi hlast hrows hden

/-- An item to be moved: its translation decides. -/
theorem engItem_eq : engItem o op s i = itemTranslated o op e i (itemAt s op e i) (itemPad s op e i)
    (bgXlate (withOps s (indexNoted s o op e i)) op.core op.ctx (itemAt s op e i) (itemNeed e) e.inbound) := by
  have hbool : (decide (e.cnt ≠ 0) && decide (i = e.items)) = false := by
    rw [items_eq, Bool.and_eq_false_imp, decide_eq_true_eq, decide_eq_false_iff_not]
    exact fun hc hlst => hlast ⟨hc, hlst⟩
  have htodo : e.todo.contains i = true := List.contains_iff_mem.mpr hi
  have horder : (decide (e.fn = 3) && e.todo.any fun j => decide (j / e.secs < i / (e.secs * itemPer e))) = false := by
    rw [Bool.and_eq_false_imp, decide_eq_true_eq]
    intro h3
    have hper : itemPer e = 1 := by simp [itemPer, h3]
    have h := hrows h3
    simp only [itemRow, hper, Nat.mul_one] at h
    simpa only [hper, Nat.mul_one, List.any_eq_false, decide_eq_true_eq, Nat.not_lt] using h
  have hnoted : (if e.fn = 2 || e.fn = 3 then s.modEng o fun f => { f with idx := f.idx.put (i / (e.secs * itemPer e)) (rowIdx s op.core e (i / (e.secs * itemPer e))) }
      else s) = withOps s (indexNoted s o op e i) := by
    unfold indexNoted
    split_ifs <;> rfl
  unfold engItem
  simp only [hop, Option.map_some, hk, itemPer_eq, hbool, htodo, horder, hden, List.any_nil, hnoted, Bool.not_true, Bool.false_and, Bool.or_self,
    Bool.false_eq_true, if_false]
  rfl

theorem engItem_key {pa : Nat} (hx : bgXlate s op.core op.ctx (itemAt s op e i) (itemNeed e) e.inbound = (u, .key pa)) :
    engItem o op s i = engMove o i (itemAt s op e i) pa (itemPad s op e i) (32 / itemPer e) false op e (withOps u (indexNoted s o op e i)) := by
  rw [engItem_eq hop hk hi hlast hrows hden, bgXlate_withOps, hx]
  rfl

theorem engItem_perm (hx : bgXlate s op.core op.ctx (itemAt s op e i) (itemNeed e) e.inbound = (u, .perm)) :
    engItem o op s i = engDeny o i (itemPad s op e i) op.core e.inbound (withOps u (indexNoted s o op e i)) := by
  rw [engItem_eq hop hk hi hlast hrows hden, bgXlate_withOps, hx]
  rfl

end

end Sys2Proof.Machine
end

section
/-! How an item moves, or ends denied (R144, R318, R339, Table MEM.8). -/

namespace Sys2Proof.Machine
open Sys2Proof.Claims

theorem noneToTell_iff {s : State} {c : Nat} {lines : List Nat} :
    NoneToTell s c lines ↔ ∀ x ∈ lines, ∀ z, s.memErrs.find? x = some z → c ∈ z.2 := by
  refine forall₂_congr fun x _ => ?_
  cases s.memErrs.find? x <;> simp

/-! The scratchpad after a write. -/

section
variable (s : State) (core o : Nat) (bs : List Byte)

theorem padByte_padWr (b : Nat) : padByte (padWr s core o bs) core b = if o ≤ b ∧ b < o + bs.length then bs.getD (b - o) 0 else padByte s core b := by
  unfold padByte padWr
  rw [core_modCore, if_pos rfl]
  exact get_putBytes _ _ _ _

end

section
variable {s u : State} {o i pa : Nat} {op : Op} {e : EngOp} {O : SMap Op} {va pad w : Nat}

/-- Memory to tile. -/
theorem engMove_inbound (hin : e.inbound = true) (htold : NoneToTell u op.ctx (linesOf pa 32)) (hlink : linkWaits u pa = false) :
    engMove o i va pa pad w false op e (withOps u O) = itemDone (State.modEng (padWr (withOps u O) op.core pad (u.bytes pa 32)) o
      fun f => { f with rmask := f.rmask ||| regionMask u op.ctx va }) o i 0 := by
  have hseen : readSeen op.ctx pa 32 (withOps u O) = withOps u O := readSeen_of_told htold
  have hlink' : linkWaits (withOps u O) pa = false := hlink
  simp only [engMove, hin, hseen, hlink', if_true, if_false, Bool.false_eq_true]
  rfl

/-- Tile to memory. -/
theorem engMove_outbound (hin : e.inbound = false) (hfn : e.fn ≠ 4) (hlink : linkWaits u pa = false) :
    engMove o i va pa pad w false op e (withOps u O) = itemDone (homeWrite (withOps u O) none pa (padBytes u op.core pad 32)) o i 0 := by
  have hlink' : linkWaits (withOps u O) pa = false := hlink
  simp only [engMove, hin, hfn, hlink', if_false, Bool.false_eq_true]
  rfl

/-- An element combined into memory. -/
theorem engMove_combined (hfn : e.fn = 4) (htold : NoneToTell u op.ctx (linesOf pa w)) (hlink : linkWaits u pa = false) :
    engMove o i va pa pad w false op e (withOps u O) =
      itemDone (homeWrite (withOps u O) none pa (bytesLE w (collOp e.opc (u.rd pa w) (padRd u op.core pad w)))) o i 0 := by
  have hin : e.inbound = false := by simp [EngOp.inbound, hfn]
  have hseen : readSeen op.ctx pa w (withOps u O) = withOps u O := readSeen_of_told htold
  have hlink' : linkWaits (withOps u O) pa = false := hlink
  simp only [engMove, hin, hfn, hseen, hlink', if_true, if_false, Bool.false_eq_true]
  rfl

/-- The counter of a collective. -/
theorem engMove_counter (htold : NoneToTell u op.ctx (linesOf pa 8)) (hlink : linkWaits u pa = false) :
    engMove o i va pa pad w true op e u = itemDone (homeWrite u none pa (bytesLE 8 (u.rd pa 8 + 1))) o i 0 := by
  have hseen : readSeen op.ctx pa 8 u = u := readSeen_of_told htold
  simp only [engMove, hseen, hlink, if_true, if_false, Bool.false_eq_true]

end

theorem Recorded.homeWrite (s : State) (pa : Nat) (bs : List Byte) : Recorded s (homeWrite s none pa bs) := by
  have hun (v : State) (line : Nat) : Recorded v (unstamp v line) := by
    unfold Machine.unstamp
    split
    · exact .refl v
    · exact .beside rfl rfl rfl
  refine (Recorded.wr s pa bs).trans ?_
  exact List.foldlRecOn (motive := Recorded (s.wr pa bs)) _ _ (.refl _) fun _ h line _ => h.trans (hun _ line)

/-- What lands in the tile changes the scratchpad and the operation's record. -/
theorem itemDone_padWr (u : State) (O : SMap Op) (core pad : Nat) (bs : List Byte) (o i st : Nat) (f : EngOp → EngOp) :
    let t := itemDone (State.modEng (padWr (withOps u O) core pad bs) o f) o i st
    t = { u with cores := t.cores, ops := t.ops } := by
  have h : itemDone (State.modEng (padWr (withOps u O) core pad bs) o f) o i st =
      { u with cores := (padWr u core pad bs).cores, ops := (itemDone (State.modEng (withOps u O) o f) o i st).ops } := rfl
  rw [h]

section
variable {s u : State} {o i pa : Nat} {op : Op} {e : EngOp} (hop : s.ops.find? o = some op) (hk : op.kind = .eng e)
  (hi : i ∈ e.todo) (hlast : ¬(e.cnt ≠ 0 ∧ i = engineItems e)) (hrows : e.fn = 3 → ∀ x ∈ e.todo, itemRow e i ≤ itemRow e x) (hden : e.denied = [])
include hop hk hi hlast hrows hden

/-- R144: an item of memory stands in the tile, which else keeps its bytes. -/
theorem item_inbound (hx : bgXlate s op.core op.ctx (itemAt s op e i) (itemNeed e) e.inbound = (u, .key pa)) (hlink : linkWaits u pa = false)
    (hin : e.inbound = true) (htold : NoneToTell u op.ctx (linesOf pa 32)) :
    let t := engItem o op s i
    t = { u with cores := t.cores, ops := t.ops } ∧ (∀ j < 32, padByte t op.core (itemPad s op e i + j) = u.byte (pa + j)) ∧
      (∀ b, b < itemPad s op e i ∨ itemPad s op e i + 32 ≤ b → padByte t op.core b = padByte s op.core b) ∧
      ∃ rm, t.ops.find? o = some (itemLeft s op e i 0 rm) := by
  have hsame : Translated s u := by have h := Translated.bgXlate s op.core op.ctx (itemAt s op e i) (itemNeed e) e.inbound; rwa [hx] at h
  rw [engItem_key hop hk hi hlast hrows hden hx, engMove_inbound hin htold hlink]
  have hpad (v : State) (k st b : Nat) (f : EngOp → EngOp) : padByte (itemDone (v.modEng o f) o k st) op.core b = padByte v op.core b := rfl
  have hlen : (u.bytes pa 32).length = 32 := by simp [State.bytes]
  refine ⟨itemDone_padWr u (indexNoted s o op e i) _ _ _ _ _ _ _, fun j hj => ?_, fun b hb => ?_,
    _, find?_itemLeft_mask hop hk (· ||| regionMask u op.ctx (itemAt s op e i)) rfl⟩
  · rw [hpad, padByte_padWr, hlen, if_pos (by omega), Nat.add_sub_cancel_left]
    simp [State.bytes, List.getD_eq_getElem?_getD, hj]
  · rw [hpad, padByte_padWr, hlen, if_neg (by omega)]
    exact hsame.padByte op.core b

/-- R144: an item of the tile stands in memory. -/
theorem item_outbound (hx : bgXlate s op.core op.ctx (itemAt s op e i) (itemNeed e) e.inbound = (u, .key pa)) (hlink : linkWaits u pa = false)
    (hin : e.inbound = false) (hfn : e.fn ≠ 4) :
    let t := engItem o op s i
    t.mem = putBytes u.mem pa (padBytes s op.core (itemPad s op e i) 32) ∧ t.cores = u.cores ∧ t.ops.find? o = some (itemLeft s op e i 0 e.rmask) := by
  have hsame : Translated s u := by have h := Translated.bgXlate s op.core op.ctx (itemAt s op e i) (itemNeed e) e.inbound; rwa [hx] at h
  have hbytes : padBytes u op.core (itemPad s op e i) 32 = padBytes s op.core (itemPad s op e i) 32 :=
    List.map_congr_left fun j _ => hsame.padByte op.core _
  rw [engItem_key hop hk hi hlast hrows hden hx, engMove_outbound hin hfn hlink, hbytes]
  have hrec := Recorded.homeWrite (withOps u (indexNoted s o op e i)) pa (padBytes s op.core (itemPad s op e i) 32)
  exact ⟨homeWrite_mem _ _ _ _, hrec.cores, find?_itemLeft hop hk hrec.ops rfl⟩

/-- R144: an element of the tile is combined into memory. -/
theorem item_combined (hx : bgXlate s op.core op.ctx (itemAt s op e i) (itemNeed e) e.inbound = (u, .key pa)) (hlink : linkWaits u pa = false)
    (hfn : e.fn = 4) (htold : NoneToTell u op.ctx (linesOf pa (32 / itemPer e))) :
    let t := engItem o op s i
    t.mem = putBytes u.mem pa (bytesLE (32 / itemPer e) (collOp e.opc (u.rd pa (32 / itemPer e)) (padRd s op.core (itemPad s op e i) (32 / itemPer e)))) ∧
      t.cores = u.cores ∧ t.ops.find? o = some (itemLeft s op e i 0 e.rmask) := by
  have hsame : Translated s u := by have h := Translated.bgXlate s op.core op.ctx (itemAt s op e i) (itemNeed e) e.inbound; rwa [hx] at h
  have hword : padRd u op.core (itemPad s op e i) (32 / itemPer e) = padRd s op.core (itemPad s op e i) (32 / itemPer e) :=
    congrArg ofBytesLE (List.map_congr_left fun j _ => hsame.padByte op.core _)
  rw [engItem_key hop hk hi hlast hrows hden hx, engMove_combined hfn htold hlink, hword]
  generalize bytesLE (32 / itemPer e) _ = bs
  have hrec := Recorded.homeWrite (withOps u (indexNoted s o op e i)) pa bs
  exact ⟨homeWrite_mem _ _ _ _, hrec.cores, find?_itemLeft hop hk hrec.ops rfl⟩

/-- Table MEM.8: an item that may not be accessed ends denied, and an inbound tile holds zero there. -/
theorem item_denied (hx : bgXlate s op.core op.ctx (itemAt s op e i) (itemNeed e) e.inbound = (u, .perm)) :
    let t := engItem o op s i
    t.mem = u.mem ∧ t.ops.find? o = some (itemLeft s op e i 1 e.rmask) ∧
      (e.inbound = true → (∀ j < 32, padByte t op.core (itemPad s op e i + j) = 0) ∧
        ∀ b, b < itemPad s op e i ∨ itemPad s op e i + 32 ≤ b → padByte t op.core b = padByte s op.core b) ∧
      (¬e.inbound = true → t.cores = u.cores) := by
  have hsame : Translated s u := by have h := Translated.bgXlate s op.core op.ctx (itemAt s op e i) (itemNeed e) e.inbound; rwa [hx] at h
  have hpad (v : State) (k st b : Nat) : padByte (itemDone v o k st) op.core b = padByte v op.core b := rfl
  rw [engItem_perm hop hk hi hlast hrows hden hx]
  cases hin : e.inbound with
  | true =>
    refine ⟨rfl, find?_itemLeft (u := u) hop hk rfl rfl, fun _ => ⟨fun j hj => ?_, fun b hb => ?_⟩, fun h => absurd rfl h⟩
    · rw [engDeny, if_pos rfl, hpad, padByte_padWr, List.length_replicate, if_pos (by omega)]
      rw [List.getD_eq_getElem _ _ (by rw [List.length_replicate]; omega), List.getElem_replicate]
    · rw [engDeny, if_pos rfl, hpad, padByte_padWr, List.length_replicate, if_neg (by omega)]
      exact hsame.padByte op.core b
  | false => exact ⟨rfl, find?_itemLeft (u := u) hop hk rfl rfl, fun h => absurd h Bool.false_ne_true, fun _ => rfl⟩

end

end Sys2Proof.Machine
end

section
/-! Home accesses of engine operations, the ends of tiles, and the completion record (R139, R144, R146, R148). -/

namespace Sys2Proof.Machine
open Sys2Proof.Claims

theorem forked_of_afterOthers {s : State} {o : Nat} {op : Op} (h : ∀ y ∈ before s o op, y.2.undone = false) : forked s o op = true := by
  rw [forked, List.all_eq_true]
  exact fun y hy => by rw [h y hy]; rfl

section
variable {s u : State} {o i pa : Nat} {op : Op} {e : EngOp} (hop : s.ops.find? o = some op) (hk : op.kind = .eng e)
include hop hk

/-- One item is accessed at its home. -/
theorem exec_homeAccess_item (hlost : op.lost = 0) (hafter : AfterOthers s o op) (hfn : e.fn ≠ 5) :
    exec (.homeAccess o [i] false) s = .next (engItem o op s i) := by
  obtain ⟨hroute, hothers, -⟩ := hafter
  change execHomeAccess o [i] false s = _
  simp [execHomeAccess, hop, hk, hroute, hlost, engPerform, forked_of_afterOthers hothers, hfn]

/-- R144: the counter comes last, and takes 1. -/
theorem item_counter (hfn : e.fn = 4) (hcnt : e.cnt ≠ 0) (htodo : e.todo = [engineItems e]) (hden : e.denied = [])
    (hx : bgXlate s op.core op.ctx e.cnt Need.rw false = (u, .key pa)) (hlink : linkWaits u pa = false) (htold : NoneToTell u op.ctx (linesOf pa 8)) :
    let t := engItem o op s (engineItems e)
    t.mem = putBytes u.mem pa (bytesLE 8 (u.rd pa 8 + 1)) ∧ t.cores = u.cores ∧
      t.ops.find? o = some (itemLeft s op e (engineItems e) 0 e.rmask) := by
  have hsame : Translated s u := by have h := Translated.bgXlate s op.core op.ctx e.cnt Need.rw false; rwa [hx] at h
  have hin : e.inbound = false := by simp [EngOp.inbound, hfn]
  have hitem : engItem o op s (engineItems e) = itemDone (homeWrite u none pa (bytesLE 8 (u.rd pa 8 + 1))) o (engineItems e) 0 := by
    unfold engItem
    simp only [hop, Option.map_some, hk, items_eq, htodo, hden, hin, hfn]
    simp [hcnt, hx, engMove_counter htold hlink]
  have hrec := Recorded.homeWrite u pa (bytesLE 8 (u.rd pa 8 + 1))
  rw [hitem]
  refine ⟨homeWrite_mem _ _ _ _, hrec.cores, find?_itemLeft (u := u) hop hk ?_ rfl⟩
  rw [hrec.ops, hsame.ops]
  simp [withOps, indexNoted, hfn]

end

theorem tile_modTile (s : State) (core n : Nat) (f : Tile → Tile) : (s.modTile core n f).tile core n = f (s.tile core n) := by
  unfold State.tile State.modTile
  rw [core_modCore, if_pos rfl]
  exact (SMap.get_set _ _ _ _ _).trans (if_pos rfl)

section
variable {s u : State} {o i pa : Nat} {op : Op} {e : EngOp} (hop : s.ops.find? o = some op) (hk : op.kind = .eng e)
include hop hk

/-- The tile reaches its end state, and the operation's record says so. -/
theorem moved_effect (f : Tile → Tile) :
    let t := (s.modTile op.core e.tile f).modEng o fun e => { e with moved := true }
    t = { s with cores := t.cores, ops := t.ops } ∧ t.tile op.core e.tile = f (s.tile op.core e.tile) ∧
      t.ops.find? o = some { op with kind := .eng { e with moved := true } } :=
  ⟨rfl, tile_modTile s op.core e.tile f, find?_modEng (s := s.modTile op.core e.tile f) hop hk _⟩

theorem exec_tileFillEnd_moves (hfn : e.fn = 0 ∨ e.fn = 2) (htodo : e.todo = []) (hmoved : e.moved = false) :
    exec (.tileFillEnd o) s = .next ((s.modTile op.core e.tile fun t => { t with st := .ready, rmask := e.rmask }).modEng o fun e => { e with moved := true }) := by
  have hin : e.inbound = true := by simpa [EngOp.inbound] using hfn
  change execTileFillEnd o s = _
  simp [execTileFillEnd, hop, hk, hin, htodo, hmoved]

theorem exec_tileDrainEnd_moves (hfn : e.fn = 1 ∨ e.fn = 3 ∨ e.fn = 4 ∨ e.fn = 5)
    (htodo : ∀ i ∈ e.todo, e.cnt ≠ 0 ∧ i = engineItems e) (hmoved : e.moved = false) :
    exec (.tileDrainEnd o) s = .next ((s.modTile op.core e.tile fun t => { t with st := if e.keep then .ready else .empty }).modEng o
      fun e => { e with moved := true }) := by
  have hin : e.inbound = false := by
    obtain h | h | h | h := hfn <;> simp [EngOp.inbound, h]
  have hdone : (e.todo.filter fun i => !(decide (e.cnt ≠ 0) && decide (i = e.items))).isEmpty = true := by
    rw [List.isEmpty_iff, List.filter_eq_nil_iff]
    intro i hi
    obtain ⟨hcnt, rfl⟩ := htodo i hi
    simp [hcnt, items_eq]
  change execTileDrainEnd o s = _
  simp only [execTileDrainEnd, hop, hk, hin, hdone, hmoved, Bool.not_false, Bool.and_self, if_true]

/-- The ERR bits of the group with the operation's status (R148). -/
def errsOf (e : EngOp) (x : Nat) : Nat := if e.status ≠ 0 then x ||| 2 ^ (if e.eng = 0 then 0 else if e.eng = 1 then 1 else 5) else x

end

/-- The operation ends; a bad status sets the ERR bit of its class. -/
def engEnded (o : Nat) (op : Op) (e : EngOp) (s : State) : State := if e.status ≠ 0 then setErr (s.delOp o) op.gid (engClass e.eng) else s.delOp o

theorem engEnded_effect (s : State) (o : Nat) (op : Op) (e : EngOp) :
    let t := engEnded o op e s
    t = { s with ops := s.ops.del o, groups := t.groups } ∧ (t.group? op.gid).map Group.err = (s.group? op.gid).map fun g => errsOf e g.err := by
  by_cases hst : e.status ≠ 0
  · simp only [engEnded, errsOf, if_pos hst]
    refine ⟨rfl, (congrArg (Option.map Group.err) (SMap.find?_adjust _ _ _ _)).trans ?_⟩
    rw [if_pos rfl, Option.map_map]
    rfl
  · simp only [engEnded, errsOf, if_neg hst]
    exact ⟨rfl, rfl⟩

/-- A delivery of a multicast at its tile: dropped for a reason, or the tile is held (R333). -/
def delivered (s : State) (o : Nat) (op : Op) (e : EngOp) (t : Nat) (x : Target) : Option Nat → State
  | some r => ctxLog (itemDone s o t 2) (if bankOwner s x.core (2 * x.tile) = 0 then op.ctx else bankOwner s x.core (2 * x.tile)) 17
      [(1, 0), (1, r), (2, x.core), (2, x.gen), (1, x.tile), (1, s.domain), (2, op.core)]
  | none => (s.modTile x.core x.tile fun y => { y with held := y.held + 1 }).modEng o fun f =>
      { f with todo := (f.todo.filter (· ≠ t)) ++ (List.range (e.secs * e.rows)).map fun k => 64 + t * (e.secs * e.rows) + k }

/-- The landing tile's check is that of R333. -/
theorem landingBad_eq_none_iff {s : State} {e : EngOp} {c : Nat} {x : Target} :
    landingBad s c (e.loff + 32 * e.secs * e.rows) x = none ↔ landingOk s c e x := by
  unfold landingBad landingOk
  dsimp only
  have hquad : ((List.range 4).all fun q => decide ((s.quad (4 * x.core + q)).owner ≠ c)) = true ↔ ¬∃ q < 4, (s.quad (4 * x.core + q)).owner = c := by
    simp
  split_ifs with hst hgen hown hfit <;> simp only [Bool.or_eq_true, Bool.not_eq_true', decide_eq_true_eq, hquad, not_or, not_not, Bool.not_eq_false, not_lt] at *
  · exact iff_of_false nofun fun ⟨hreg, hready, _⟩ => hst.elim (fun h => absurd (hreg.symm.trans h) (by decide)) (· hready)
  · exact iff_of_false nofun fun ⟨_, _, h, _⟩ => hgen h
  · exact iff_of_false nofun fun ⟨_, _, _, hc, hres, hq, _⟩ => hown.elim (fun h => h.elim (· hc) (· hres)) (· hq)
  · exact iff_of_false nofun fun ⟨_, _, _, _, _, _, h⟩ => absurd hfit (Nat.not_lt.mpr h)
  · exact iff_of_true trivial ⟨hst.1, hst.2, hgen, hown.1.1, hown.1.2, hown.2, hfit⟩

section
variable {s u : State} {o i pa : Nat} {op : Op} {e : EngOp} (hop : s.ops.find? o = some op) (hk : op.kind = .eng e)
include hop hk

/-- An operation without a record ends. -/
theorem exec_engineCompletion_noRecord (htodo : e.todo = []) (hmoved : e.moved = true) (hrec : e.rec_ = 0) :
    exec (.engineCompletion o) s = .next (engEnded o op e s) := by
  change execEngineCompletion o s = _
  simp [execEngineCompletion, hop, hk, htodo, hmoved, hrec, engEnded]

/-- The record is written after those of the earlier operations of the engine, and the operation ends (R146). -/
theorem exec_engineCompletion_record (htodo : e.todo = []) (hmoved : e.moved = true) (hrec : e.rec_ ≠ 0) (hdrop : e.recDrop = false)
    (hearlier : ∀ x ∈ s.ops, x.1 < o → x.2.core = op.core → x.2.ctx = op.ctx → ∀ f, x.2.kind = .eng f → f.eng ≠ e.eng)
    (hbefore : ∀ y ∈ before s o op, y.2.undone = false) (hx : bgXlate s op.core op.ctx e.rec_ Need.write false = (u, .key pa)) :
    exec (.engineCompletion o) s = .next (engEnded o op e (homeWrite u none pa (bytesLE 8 e.seq ++ bytesLE 8 e.status))) := by
  change execEngineCompletion o s = _
  simp only [execEngineCompletion, hop, hk]
  rw [if_neg, if_neg hrec, if_neg (by simp [hdrop]), hx]
  · simp [engEnded]
  · simp only [htodo, hmoved, forked_of_afterOthers hbefore, List.isEmpty_nil, Bool.not_true, Bool.false_or, Bool.or_false, Bool.and_eq_true,
      List.any_eq_true, not_and, not_exists, decide_eq_true_eq, and_imp]
    intro _ p hp hlt hcore hctx heng
    cases hkind : p.2.kind with
    | eng f => exact hearlier p hp hlt hcore hctx f hkind (by simpa [hkind] using heng)
    | _ => simp [hkind] at heng

/-! Deliveries of a multicast (R333). -/

theorem exec_mcastDelivery_eq {t : Nat} {x : Target} (hfn : e.fn = 5) (ht : t ∈ e.todo) (hlt : t < 64) (hlost : op.lost = 0) (hafter : AfterOthers s o op)
    (hx : e.targets[t]? = some x) : exec (.mcastDelivery o t) s = .next (
      if x.dev ≠ s.domain then if s.linkDown.contains (s.routing.getD x.dev 255) then s else peerDelivery o t op x s
      else delivered s o op e t x (landingBad s op.ctx (e.loff + 32 * e.secs * e.rows) x)) := by
  obtain ⟨hroute, hothers, -⟩ := hafter
  change execMcastDelivery o t s = _
  simp only [execMcastDelivery, hop, hk]
  rw [if_neg (by simp [hfn, ht, hlt, hlost, hroute, forked_of_afterOthers hothers]), hx]
  by_cases hdev : x.dev = s.domain
  · simp only [hdev, ne_eq, not_true_eq_false, decide_false, Bool.false_and, Bool.false_eq_true, if_false]
    cases landingBad s op.ctx (e.loff + 32 * e.secs * e.rows) x <;> rfl
  · simp [hdev]

end

end Sys2Proof.Machine
end

section
/-! How engine operations move and end, put together (R36, R139, R144, R146, R148, R333). -/

namespace Sys2Proof.Machine
open Sys2Proof.Claims

section
variable {s : State} {o : Nat} {op : Op} {e : EngOp} (hop : s.ops.find? o = some op) (hk : op.kind = .eng e)
include hop hk

/-- A delivery to a peer device is judged there (log 23). -/
theorem peerDelivery_effect (t : Nat) (x : Target) :
    (peerDelivery o t op x s).cores = s.cores ∧ ∃ n, (n = e.status ∨ n = max e.status 2) ∧
      (peerDelivery o t op x s).ops.find? o = some { op with kind := .eng { e with todo := e.todo.filter (· ≠ t), status := n } } := by
  have hdone (st : Nat) := find?_itemDone (s := { s with fresh := s.fresh + 1 }) hop hk t st
  unfold peerDelivery
  dsimp only
  split_ifs
  · exact ⟨rfl, _, .inl (Nat.max_zero _), hdone 0⟩
  · exact ⟨rfl, _, .inr rfl, hdone 2⟩
  · have hlog := Recorded.ctxLog (itemDone { s with fresh := s.fresh + 1 } o t 2) op.ctx 17
      [(1, 0), (1, (Config.freeValue s.fresh).toNat / 4 % 4), (2, x.core), (2, x.gen), (1, x.tile), (1, s.domain), (2, op.core)]
    exact ⟨hlog.cores, _, .inr rfl, (congrArg (SMap.find? · o) hlog.ops).trans (hdone 2)⟩

/-- A tile that accepts a delivery is held (R333). -/
theorem delivered_accepted (t : Nat) (x : Target) :
    let u := delivered s o op e t x none
    u = { s with cores := u.cores, ops := u.ops } ∧ u.tile x.core x.tile = { s.tile x.core x.tile with held := (s.tile x.core x.tile).held + 1 } ∧
      u.ops.find? o = some { op with kind := .eng { e with
        todo := e.todo.filter (· ≠ t) ++ (List.range (e.secs * e.rows)).map fun k => 64 + t * (e.secs * e.rows) + k } } :=
  ⟨rfl, tile_modTile s x.core x.tile fun y => { y with held := y.held + 1 }, find?_modEng (s := s.modTile x.core x.tile _) hop hk _⟩

/-- A delivery that the tile does not accept is dropped whole. -/
theorem delivered_dropped (t : Nat) (x : Target) (r : Nat) :
    (delivered s o op e t x (some r)).cores = s.cores ∧ (delivered s o op e t x (some r)).ops.find? o =
      some { op with kind := .eng { e with todo := e.todo.filter (· ≠ t), status := max e.status 2 } } := by
  have hlog := Recorded.ctxLog (itemDone s o t 2) (if bankOwner s x.core (2 * x.tile) = 0 then op.ctx else bankOwner s x.core (2 * x.tile)) 17
    [(1, 0), (1, r), (2, x.core), (2, x.gen), (1, x.tile), (1, s.domain), (2, op.core)]
  exact ⟨hlog.cores, (congrArg (SMap.find? · o) hlog.ops).trans (find?_itemDone hop hk t 2)⟩

end

/-- Settles O30, item by item: the translation of an item decides what it does (`engItem_key`, `engItem_perm`), and looks at no operation in flight
(`bgXlate_withOps`); the ends of the tile, the record and the deliveries follow one case each. -/
theorem engineOperationsEnd : Obligations.EngineOperationsEnd := by
  intro s o op e hop hk
  refine ⟨fun hlost hafter hden hsecs hfn => ⟨fun i u hi hlast hrows => ⟨fun pa hx hlink => ?_, fun hx => ?_⟩, fun pa u h4 hcnt htodo hx hlink htold => ?_⟩,
    fun hfn htodo hmoved => ?_, fun hfn htodo hmoved => ?_, fun htodo hmoved => ⟨fun hrec => ?_, fun hrec hdrop hearlier hbefore pa u hx => ?_⟩,
    fun t x hfn ht hlt hlost hafter hx => ⟨fun hdev => ⟨fun hdown => ?_, fun hup => ?_⟩, fun hdev hland => ?_, fun hdev hland => ?_⟩⟩
  · refine ⟨_, exec_homeAccess_item hop hk hlost hafter (by omega), fun hin htold => ?_, fun hout => ?_, fun h4 htold => ?_⟩
    · exact item_inbound hop hk hi hlast hrows hden hx hlink hin (noneToTell_iff.mpr htold)
    · have hin : e.inbound = false := by obtain h | h := hout <;> simp [EngOp.inbound, h]
      exact item_outbound hop hk hi hlast hrows hden hx hlink hin (by omega)
    · exact item_combined hop hk hi hlast hrows hden hx hlink h4 (noneToTell_iff.mpr htold)
  · exact ⟨_, exec_homeAccess_item hop hk hlost hafter (by omega), item_denied hop hk hi hlast hrows hden hx⟩
  · exact ⟨_, exec_homeAccess_item hop hk hlost hafter (by omega), item_counter hop hk h4 hcnt htodo hden hx hlink (noneToTell_iff.mpr htold)⟩
  · exact ⟨_, exec_tileFillEnd_moves hop hk hfn htodo hmoved, moved_effect hop hk _⟩
  · exact ⟨_, exec_tileDrainEnd_moves hop hk hfn htodo hmoved, moved_effect hop hk _⟩
  · exact ⟨_, exec_engineCompletion_noRecord hop hk htodo hmoved hrec, engEnded_effect s o op e⟩
  · have hrun := exec_engineCompletion_record hop hk htodo hmoved hrec hdrop hearlier hbefore hx
    generalize hbs : bytesLE 8 e.seq ++ bytesLE 8 e.status = bs at hrun
    have hsame : Translated s u := by have h := Translated.bgXlate s op.core op.ctx e.rec_ Need.write false; rwa [hx] at h
    obtain ⟨hframe, herr⟩ := engEnded_effect (homeWrite u none pa bs) o op e
    have hown := (hsame.paths.trans (Recorded.homeWrite u pa bs).paths).err op.gid
    refine ⟨_, hrun, ?_, ?_, herr.trans ?_⟩
    · rw [hframe]
      exact homeWrite_mem u none pa bs
    · rw [hframe]
      exact SMap.find?_del_self _ _
    · have hmap := congrArg (Option.map (errsOf e)) hown
      rwa [Option.map_map, Option.map_map] at hmap
  · rw [exec_mcastDelivery_eq hop hk hfn ht hlt hlost hafter hx, if_pos hdev, if_pos hdown]
  · obtain ⟨hcores, n, hn, hrec⟩ := peerDelivery_effect hop hk t x
    refine ⟨_, n, (exec_mcastDelivery_eq hop hk hfn ht hlt hlost hafter hx).trans ?_, hcores, hn, hrec⟩
    rw [if_pos hdev, if_neg (Bool.eq_false_iff.mp hup)]
  · refine ⟨_, (exec_mcastDelivery_eq hop hk hfn ht hlt hlost hafter hx).trans ?_, delivered_accepted hop hk t x⟩
    rw [if_neg (not_not.mpr hdev), landingBad_eq_none_iff.mpr hland]
  · obtain ⟨r, hr⟩ := Option.ne_none_iff_exists'.mp (mt landingBad_eq_none_iff.mp hland)
    refine ⟨_, (exec_mcastDelivery_eq hop hk hfn ht hlt hlost hafter hx).trans ?_, delivered_dropped hop hk t x r⟩
    rw [if_neg (not_not.mpr hdev), hr]

end Sys2Proof.Machine
end


section
/-! Format-blocks (R155 to R158, R162, Table MTX.2 to Table MTX.4): the formats' table, the reason for which a block is refused, the slots
that a product takes B from, and the operands that it captures. -/

namespace Sys2Proof.Machine
open Sys2Proof.Claims

/-! Table MTX.3. -/

theorem fam_mfmt : ∀ f < 16, (mfmt f).fam = famOf f := by decide
theorem kp_mfmt : ∀ f < 16, (mfmt f).kp = kPer f := by decide
theorem e_mfmt : ∀ f < 16, (mfmt f).e = perReg f := by decide
theorem kStep_mfmt : ∀ f < 16, kStep (mfmt f) = stepOf f := by decide
theorem pair_mfmt : ∀ a < 16, ∀ b < 16, (mfmt a).pair = (mfmt b).pair ↔ pairOk a b = true := by decide
theorem pbOf_eq_panelBytes : ∀ f < 16, ∀ sp : Bool, (sp = true → f < 7) → pbOf f sp = panelBytes f sp := by decide

/-- A slot holds whole blocks of sixteen. -/
theorem kPer_blocks (f : Nat) : 0 < kPer f ∧ kPer f = 16 * (kPer f / 16) := by
  have htable : ∀ x ∈ [128, 128, 256, 256, 256, 256, 256, 256, 256, 256, 256, 256, 256, 256, 256, 128], x = 128 ∨ x = 256 := by decide
  have hper : kPer f = 128 ∨ kPer f = 256 := by
    unfold kPer
    rw [List.getD_eq_getElem?_getD]
    cases h : [128, 128, 256, 256, 256, 256, 256, 256, 256, 256, 256, 256, 256, 256, 256, 128][f]? with
    | none => exact .inl rfl
    | some x => exact htable x (List.mem_of_getElem? h)
  omega

/-! The slots of a product (R162). -/

section
variable {b kp fuel p k : Nat}

/-- The elements from `p` to the end of its slot are in one slot. -/
theorem div_of_lt_run {y : Nat} (hy : y < kp - p % kp) : (p + y) / kp = p / kp := by
  have hsplit := Nat.div_add_mod p kp
  have hsum : p + y = kp * (p / kp) + (p % kp + y) := by omega
  have hlt : (p % kp + y) / kp = 0 := Nat.div_eq_of_lt (by omega)
  rw [hsum, Nat.mul_add_div (by omega), hlt, Nat.add_zero]

/-- The slot after that of `p` begins at a multiple of its size. -/
theorem run_end (hkp : 0 < kp) : p + (kp - p % kp) = kp * (p / kp + 1) := by
  have hsplit := Nat.div_add_mod p kp
  have hmod := Nat.mod_lt p hkp
  rw [Nat.mul_add, Nat.mul_one]
  omega

theorem slotRuns_zero : slotRuns b kp fuel p 0 = [] := by cases fuel <;> rfl

/-- What is left is in the slot of `p`. -/
theorem slotRuns_last (hk : 0 < k) (h : k ≤ kp - p % kp) : slotRuns b kp (fuel + 1) p k = [((b + p / kp) % 32, k)] := by
  simp only [slotRuns, if_neg hk.ne', Nat.min_eq_left h, Nat.sub_self, slotRuns_zero]

/-- The rest of the slot of `p` is taken, and more is left. -/
theorem slotRuns_next (h : kp - p % kp < k) : slotRuns b kp (fuel + 1) p k =
    ((b + p / kp) % 32, kp - p % kp) :: slotRuns b kp fuel (p + (kp - p % kp)) (k - (kp - p % kp)) := by
  rw [slotRuns, if_neg (by omega), Nat.min_eq_right h.le]

/-- With fuel enough, the runs name the slots of the `k` elements from `p` on. -/
theorem mem_slotRuns (hkp : 0 < kp) (hf : k + p % kp ≤ fuel * kp) (i : Nat) :
    i ∈ (slotRuns b kp fuel p k).map Prod.fst ↔ ∃ y < k, i = (b + (p + y) / kp) % 32 := by
  induction fuel generalizing p k with
  | zero =>
    have hk : k = 0 := by omega
    simp [slotRuns, hk]
  | succ fuel ih =>
    have hmod := Nat.mod_lt p hkp
    rcases Nat.eq_zero_or_pos k with rfl | hk
    · simp [slotRuns_zero]
    rcases Nat.lt_or_ge (kp - p % kp) k with h | h
    · have hend := run_end (p := p) hkp
      have hrest := @ih (p + (kp - p % kp)) (k - (kp - p % kp)) (by
        rw [Nat.add_mul, Nat.one_mul] at hf
        rw [hend, Nat.mul_mod_right]
        omega)
      rw [slotRuns_next h, List.map_cons, List.mem_cons, hrest]
      constructor
      · rintro (rfl | ⟨y, hy, rfl⟩)
        · exact ⟨0, hk, rfl⟩
        · exact ⟨kp - p % kp + y, by omega, by rw [Nat.add_assoc]⟩
      · rintro ⟨y, hy, rfl⟩
        rcases Nat.lt_or_ge y (kp - p % kp) with hin | hout
        · exact .inl (by rw [div_of_lt_run hin])
        · exact .inr ⟨y - (kp - p % kp), by omega, by rw [Nat.add_assoc, Nat.add_sub_cancel' hout]⟩
    · rw [slotRuns_last hk h, List.map_singleton, List.mem_singleton]
      constructor
      · rintro rfl
        exact ⟨0, hk, rfl⟩
      · rintro ⟨y, hy, rfl⟩
        rw [div_of_lt_run (by omega)]

/-- Columns of `l` entries, one for each `u` elements of a slot, stand one after another: entry `x` is in the slot of element `u * x`. -/
theorem getD_slotRuns {u l : Nat} (hu : 0 < u) (hkp : kp = u * l) (hl : 0 < l) {col : Nat → List Nat} (hp : p % kp = 0) (hf : k ≤ fuel * kp)
    (hcol : ∀ y < k, (col ((b + (p + y) / kp) % 32)).length = l) {x : Nat} (hx : u * x < k) :
    ((slotRuns b kp fuel p k).flatMap fun r => col r.1).getD x 0 = (col ((b + (p + u * x) / kp) % 32)).getD ((p + u * x) % kp / u) 0 := by
  have hpos : 0 < kp := hkp ▸ Nat.mul_pos hu hl
  induction fuel generalizing p k x with
  | zero => omega
  | succ fuel ih =>
    have hk : 0 < k := by omega
    have hhead := hcol 0 hk
    rw [Nat.add_zero] at hhead
    have hin (hxl : x < l) : (p + u * x) / kp = p / kp ∧ (p + u * x) % kp / u = x := by
      have hlt : u * x < kp := hkp ▸ Nat.mul_lt_mul_of_pos_left hxl hu
      refine ⟨div_of_lt_run (by omega), ?_⟩
      rw [Nat.add_mod, hp, Nat.zero_add, Nat.mod_mod, Nat.mod_eq_of_lt hlt, Nat.mul_div_cancel_left _ hu]
    rcases Nat.lt_or_ge (kp - p % kp) k with h | h
    · rw [slotRuns_next h, List.flatMap_cons]
      rcases Nat.lt_or_ge x l with hxl | hxl
      · rw [List.getD_append _ _ _ _ (hhead ▸ hxl), (hin hxl).1, (hin hxl).2]
      · have hsub : u * (x - l) = u * x - kp := by rw [Nat.mul_sub, ← hkp]
        have hle : kp ≤ u * x := hkp ▸ Nat.mul_le_mul_left u hxl
        have hmove : p + kp + u * (x - l) = p + u * x := by omega
        rw [hp, Nat.sub_zero] at h ⊢
        rw [Nat.add_mul, Nat.one_mul] at hf
        have hrest := ih (p := p + kp) (k := k - kp) (x := x - l) (by rw [Nat.add_mod_right, hp]) (by omega)
          (fun y hy => by
            have := hcol (kp + y) (by omega)
            rwa [← Nat.add_assoc] at this)
          (by omega)
        rw [hmove] at hrest
        rw [List.getD_append_right _ _ _ _ (hhead ▸ hxl), hhead, hrest]
    · have hxl : x < l := Nat.lt_of_mul_lt_mul_left (a := u) (by rw [← hkp]; omega)
      rw [slotRuns_last hk h, List.flatMap_singleton, (hin hxl).1, (hin hxl).2]

end

/-! Whether a format-block is valid (R156, Table MTX.4). -/

/-- What a valid format-block meets, beside the slots that it names being in its format. -/
structure BlockFits (q : Quad) (f : FBlock) (mmat : Bool) (k : Nat) : Prop where
  af     : f.af < 16
  bf     : f.bf < 16
  plain  : mmat = false → famOf f.af ≠ 2
  gang   : mmat = false → q.gang.toNat / 2 ^ 61 % 8 ≠ 0
  some   : 0 < k
  offset : 32 * f.bkoff < kPer f.bf
  room   : k + 32 * f.bkoff ≤ 32 * kPer f.bf
  slots  : ∀ i ∈ kSlots f k, (q.slot i).fmt = f.bf

/-- The first reason that holds. -/
theorem firstReason_cons (n : Nat) (b : Bool) (l : List (Nat × Bool)) :
    ((List.find? (fun r : Nat × Bool => r.2) ((n, b) :: l)).map Prod.fst).getD 0 =
      if b = true then n else ((List.find? (fun r : Nat × Bool => r.2) l).map Prod.fst).getD 0 := by cases b <;> rfl

/-- The reasons in their order. -/
theorem blockReason_eq (q : Quad) (f : FBlock) (mmat : Bool) (k : Nat) : blockReason q f mmat k =
    if (16 ≤ f.af || 16 ≤ f.bf || f.rsv ≠ 0 : Bool) then 1
    else if (!pairOk f.af f.bf) = true then 2
    else if f.bl ≠ (if famOf f.af = 1 then 1 else 0) then 3
    else if (if mmat then f.arc ≠ 0 else famOf f.af = 2) then 4
    else if (!mmat && q.gang.toNat / 2 ^ 61 % 8 = 0 : Bool) then 9
    else if (k = 0 || k % stepOf f.af ≠ 0 : Bool) then 5
    else if kPer f.bf ≤ 32 * f.bkoff then 7
    else if 32 * kPer f.bf < k + 32 * f.bkoff then 8
    else if (kSlots f k).any fun i => (q.slot i).st = .free || (q.slot i).fmt ≠ f.bf then 6
    else 0 := by
  unfold blockReason
  cases mmat <;> simp only [firstReason_cons, decide_eq_true_eq, if_true, Bool.false_eq_true, if_false] <;> rfl

theorem not_of_firstReason {l : List (Nat × Bool)} (hl : ∀ r ∈ l, r.1 ≠ 0)
    (h : ((List.find? (fun r : Nat × Bool => r.2) l).map Prod.fst).getD 0 = 0) : ∀ r ∈ l, r.2 = false := by
  intro r hr
  by_contra hne
  obtain ⟨x, hx⟩ := Option.isSome_iff_exists.mp (List.find?_isSome.mpr ⟨r, hr, by simpa using hne⟩)
  rw [hx] at h
  exact hl x (List.mem_of_find?_eq_some hx) h

/-- A block without a reason against it is valid. -/
theorem blockFits_of_reason {q : Quad} {f : FBlock} {mmat : Bool} {k : Nat} (h : blockReason q f mmat k = 0) : BlockFits q f mmat k := by
  have hall := not_of_firstReason (by simp) h
  simp only [List.forall_mem_cons, Bool.or_eq_false_iff, decide_eq_false_iff_not, List.any_eq_false] at hall
  obtain ⟨⟨⟨haf, hbf⟩, -⟩, -, -, hplain, hgang, ⟨hk, -⟩, hoff, hroom, hslots, -⟩ := hall
  refine ⟨by omega, by omega, fun hm => ?_, fun hm => ?_, by omega, by omega, by omega, fun i hi => ?_⟩
  · simpa [hm] using hplain
  · simpa [hm] using hgang
  · have hfit := hslots i hi
    simp only [Bool.or_eq_true, decide_eq_true_eq, not_or, not_not] at hfit
    exact hfit.2

/-- The runs of a product name its slots, no others. -/
theorem mem_runs_iff {f : FBlock} {k : Nat} (hbf : f.bf < 16) (hroom : k + 32 * f.bkoff ≤ 32 * kPer f.bf) (i : Nat) :
    i ∈ (f.runs k).map Prod.fst ↔ i ∈ kSlots f k := by
  have hpos := (kPer_blocks f.bf).1
  have hmod := Nat.mod_le (32 * f.bkoff) (kPer f.bf)
  rw [FBlock.runs, kp_mfmt _ hbf, mem_slotRuns hpos (by omega)]
  simp only [kSlots, List.mem_map, List.mem_range, kSlot, eq_comm]

theorem any_runs {f : FBlock} {k : Nat} (hbf : f.bf < 16) (hroom : k + 32 * f.bkoff ≤ 32 * kPer f.bf)
    (P : Nat → Bool) : ((f.runs k).any fun r => P r.1) = (kSlots f k).any P := by
  have hmap : ((f.runs k).any fun r => P r.1) = ((f.runs k).map Prod.fst).any P := by rw [List.any_map]; rfl
  rw [hmap, Bool.eq_iff_iff, List.any_eq_true, List.any_eq_true]
  simp only [mem_runs_iff hbf hroom]

/-- The array refuses a block for the first reason of Table MTX.4; `k` is K as the model counts it, `k'` as the table of formats does. -/
theorem fmtReason_eq {q : Quad} {f : FBlock} {mmat : Bool} {k k' : Nat} (hk : f.af < 16 → k = k') :
    fmtReason q f mmat k = blockReason q f mmat k' := by
  rw [blockReason_eq]
  unfold fmtReason
  by_cases h1 : (16 ≤ f.af || 16 ≤ f.bf || f.rsv ≠ 0 : Bool) = true
  · simp only [h1, if_true]
  obtain ⟨⟨haf, hbf⟩, -⟩ : (f.af < 16 ∧ f.bf < 16) ∧ f.rsv = 0 := by simpa using h1
  have hpair : ((mfmt f.af).pair ≠ (mfmt f.bf).pair) = ((!pairOk f.af f.bf) = true) := by
    rw [ne_eq, pair_mfmt _ haf _ hbf, Bool.not_eq_true', Bool.not_eq_true]
  simp only [h1, hpair, fam_mfmt _ haf, kStep_mfmt _ haf, kp_mfmt _ hbf, hk haf]
  by_cases h7 : kPer f.bf ≤ 32 * f.bkoff
  · simp only [h7, if_true]
    rfl
  by_cases h8 : 32 * kPer f.bf < k' + 32 * f.bkoff
  · simp only [h8, if_true]
    rfl
  rw [any_runs hbf (Nat.le_of_not_lt h8) fun i => (q.slot i).st = .free || (q.slot i).fmt ≠ f.bf]
  rfl

/-- R157: for mmat. -/
theorem fmtReason_mmat (q : Quad) (f : FBlock) (k : Nat) : fmtReason q f true k = blockReason q f true k := fmtReason_eq fun _ => rfl

theorem mmaK_eq_gangK {q : Quad} {f : FBlock} (haf : f.af < 16) : mmaK q.gang f = gangK q f := by rw [mmaK, e_mfmt _ haf]; rfl

/-- R157: for the mma of a gang. -/
theorem fmtReason_mma (q : Quad) (f : FBlock) : fmtReason q f false (mmaK q.gang f) = blockReason q f false (gangK q f) :=
  fmtReason_eq mmaK_eq_gangK

/-- A slot that is still loading is looked for among the product's own. -/
theorem loading_runs {q : Quad} {f : FBlock} {mmat : Bool} {k : Nat} (hfit : BlockFits q f mmat k) (h : ∀ i ∈ kSlots f k, (q.slot i).st ≠ .loading) :
    ((f.runs k).any fun r => (q.slot r.1).st = .loading) = false := by
  rw [any_runs hfit.bf hfit.room fun i => (q.slot i).st = .loading]
  simpa using h

/-! The operands that a product captures (R158, R162). -/

theorem length_slotCol (w : WSlot) (j : Nat) : (slotCol w j).length = if (mfmt w.fmt).fam = 2 then (mfmt w.fmt).kp / 16 else (mfmt w.fmt).kp := by
  simp only [slotCol]
  split_ifs <;> simp

/-- B of R162: an entry for each element, or for each block of sixteen. -/
theorem getD_bCol {q : Quad} {f : FBlock} {mmat : Bool} {k : Nat} (hfit : BlockFits q f mmat k) {u : Nat} (hu : u = if famOf f.bf = 2 then 16 else 1)
    (j : Nat) {x : Nat} (hx : x < k / u) :
    (bCol q f k j).getD x 0 = (slotCol (q.slot (kSlot f (u * x))) j).getD (kPlace f (u * x) / u) 0 := by
  obtain ⟨hpos, hblocks⟩ := kPer_blocks f.bf
  have hsize : 0 < u ∧ kPer f.bf = u * (kPer f.bf / u) ∧ 32 * f.bkoff = u * (32 * f.bkoff / u) := by
    rw [hu]
    split_ifs <;> omega
  obtain ⟨hu0, hper, hfirst⟩ := hsize
  have hl : 0 < kPer f.bf / u := Nat.pos_of_ne_zero fun h0 => by rw [h0, Nat.mul_zero] at hper; omega
  have hslot (y : Nat) (hy : y < k + 32 * f.bkoff) : (slotCol (q.slot ((f.bslot + (0 + y) / kPer f.bf) % 32)) j).length = kPer f.bf / u := by
    have hmem : (f.bslot + (0 + y) / kPer f.bf) % 32 ∈ kSlots f k := by
      have hk := hfit.some
      refine List.mem_map.mpr ⟨y - 32 * f.bkoff, List.mem_range.mpr (by omega), ?_⟩
      rcases Nat.le_total (32 * f.bkoff) y with h | h
      · rw [kSlot, Nat.add_sub_cancel' h, Nat.zero_add]
      · have hoff := hfit.offset
        rw [kSlot, Nat.sub_eq_zero_of_le h, Nat.zero_add, Nat.add_zero, Nat.div_eq_of_lt hoff, Nat.div_eq_of_lt (h.trans_lt hoff)]
    rw [length_slotCol, hfit.slots _ hmem, fam_mfmt _ hfit.bf, kp_mfmt _ hfit.bf, hu]
    split_ifs <;> simp
  have hwhole : u * (32 * f.bkoff / u + x) = 32 * f.bkoff + u * x := by rw [Nat.mul_add, ← hfirst]
  have hlast : u * x < k := (Nat.mul_lt_mul_of_pos_left hx hu0).trans_le (Nat.mul_div_le k u)
  have hroom := hfit.room
  have hrun := getD_slotRuns (col := fun i => slotCol (q.slot i) j) (b := f.bslot) (p := 0) (fuel := 40) (k := k + 32 * f.bkoff) hu0 hper hl
    (Nat.zero_mod _) (by omega) hslot (x := 32 * f.bkoff / u + x) (by omega)
  rw [Nat.zero_add, hwhole] at hrun
  have hcol : bCol q f k j = (((slotRuns f.bslot (kPer f.bf) 40 0 (k + 32 * f.bkoff)).flatMap fun r => slotCol (q.slot r.1) j).drop (32 * f.bkoff / u)).take (k / u) := by
    simp only [bCol, fam_mfmt _ hfit.bf, kp_mfmt _ hfit.bf, Nat.mod_eq_of_lt hfit.offset, Nat.div_eq_of_lt hfit.offset, Nat.zero_mul, ← hu]
  have htake (l : List Nat) : ((l.drop (32 * f.bkoff / u)).take (k / u)).getD x 0 = l.getD (32 * f.bkoff / u + x) 0 := by
    rw [List.getD_eq_getElem?_getD, List.getElem?_take_of_lt hx, List.getElem?_drop, ← List.getD_eq_getElem?_getD]
  rw [hcol, htake, hrun]
  rfl

theorem getD_map_range {α : Type} (n : Nat) (f : Nat → α) (d : α) {i : Nat} (hi : i < n) : ((List.range n).map f).getD i d = f i := by
  simp [List.getD_eq_getElem?_getD, hi]

/-- The scale bytes of R162, where the product has any. -/
theorem getD_scales (s : State) (core off k : Nat) {i x : Nat} (hi : i < 32) (hx : x < k / 32) :
    ((scales s core off k).getD i []).getD x 0 = (padByte s core (32 * off + k / 32 * i + x)).toNat := by
  rw [scales, getD_map_range _ _ _ hi, getD_map_range _ _ _ hx]

/-- The operands captured at acceptance are those of R162. -/
theorem operands_captured {s : State} {g : Group} {f : FBlock} {mmat : Bool} {k : Nat} (hfit : BlockFits (s.quad g.place.quadIx) f mmat k) :
    Operands s g f k ((List.range 32).map (bCol (s.quad g.place.quadIx) f k))
      (if (mfmt f.af).fam = 1 then scales s g.place.core f.asc k else []) (if (mfmt f.af).fam = 1 then scales s g.place.core f.bsc k else []) where
  codes hf j hj x hx := by
    have hcol := getD_bCol hfit (if_neg hf).symm j (x := x) (by rwa [Nat.div_one])
    rw [getD_map_range _ _ _ hj, hcol, Nat.one_mul, Nat.div_one]
  blocks hf j hj x hx := by
    rw [getD_map_range _ _ _ hj, getD_bCol hfit (if_pos hf).symm j hx]
  ascale hf i hi x hx := by
    rw [fam_mfmt _ hfit.af, if_pos hf, getD_scales _ _ _ _ hi hx]
  bscale hf j hj x hx := by
    rw [fam_mfmt _ hfit.af, if_pos hf, getD_scales _ _ _ _ hj hx]

/-- No scale byte of a product lies outside the context's banks. -/
theorem badScale_none {s : State} {g : Group} {f : FBlock} {k : Nat} (haf : f.af < 16) (h : scalesOk s g f k) : badScale s g.place.core g.ctx f k = none := by
  unfold badScale
  rw [fam_mfmt _ haf]
  split_ifs with hmx
  · rfl
  · simp only [List.findSome?_eq_none_iff, List.mem_cons, List.not_mem_nil, or_false, List.mem_range]
    intro o ho x hx
    obtain ⟨hin, hown⟩ := h (not_not.mp hmx) o ho x hx
    simpa [hown] using hin

end Sys2Proof.Machine
end


section
/-! Matrix results (R35, R149, R150, R163, R165). -/

namespace Sys2Proof.SMap
variable {α : Type} [DecidableEq α]

/-- Values set one after another leave every other key as it is. -/
theorem get_foldl_set_ne {ι : Type} (d : α) (k : ι → Nat) (v : ι → α) (l : List ι) (m : SMap α) {n : Nat} (h : ∀ i ∈ l, n ≠ k i) :
    (l.foldl (fun m i => m.set d (k i) (v i)) m).get d n = m.get d n := by
  induction l generalizing m with
  | nil => rfl
  | cons a l ih =>
    rw [List.foldl_cons, ih _ fun i hi => h i (List.mem_cons_of_mem _ hi), get_set, if_neg (h a List.mem_cons_self)]

/-- Each is read at its key, where no key is given two values. -/
theorem get_foldl_set {ι : Type} (d : α) (k : ι → Nat) (v : ι → α) (l : List ι) (m : SMap α) (hv : ∀ i ∈ l, ∀ j ∈ l, k i = k j → v i = v j)
    {i : ι} (hi : i ∈ l) : (l.foldl (fun m i => m.set d (k i) (v i)) m).get d (k i) = v i := by
  induction l generalizing m i with
  | nil => cases hi
  | cons a l ih =>
    have htail : ∀ i ∈ l, ∀ j ∈ l, k i = k j → v i = v j := fun i hi j hj => hv i (List.mem_cons_of_mem _ hi) j (List.mem_cons_of_mem _ hj)
    rw [List.foldl_cons]
    by_cases hlater : ∃ j ∈ l, k j = k i
    · obtain ⟨j, hj, hk⟩ := hlater
      rw [← hk, ih _ htail hj]
      exact hv j (List.mem_cons_of_mem _ hj) i hi hk
    · have hne : ∀ j ∈ l, k i ≠ k j := fun j hj h => hlater ⟨j, hj, h.symm⟩
      obtain rfl | hl := List.mem_cons.mp hi
      · rw [get_foldl_set_ne d k v l _ hne, get_set, if_pos rfl]
      · exact absurd rfl (hne i hl)

end Sys2Proof.SMap

namespace Sys2Proof.Machine
open Sys2Proof.Claims

/-! The two-level sum (R163). -/

/-- A k-step taken into the narrow sum, with the flags so far. -/
def narrowed (n : Nat × Nat) (st : List FV × List FV) : Nat × Nat :=
  let x := stepSum st.1 st.2
  let r := sumRound NS24 (NS24.val n.1) x.1.posZero
  (r.1, n.2 ||| x.2 ||| r.2)

/-- A narrow sum promoted into the accumulator. -/
def promoted (acc n : Nat) : Nat × Nat := sumRound F32 (F32.val acc) (NS24.val n)

/-- A run of k-steps taken into the accumulator, with the flags so far. -/
def runTaken (a : Nat × Nat) (run : List (List FV × List FV)) : Nat × Nat :=
  let n := run.foldl narrowed (0, 0)
  ((promoted a.1 n.1).1, a.2 ||| n.2 ||| (promoted a.1 n.1).2)

/-- A cell goes through the steps up to the next promotion. -/
theorem cell_run {p : Nat} (run rest : List (List FV × List FV)) (n c acc fl w : Nat) (hrun : run ≠ []) (hc : c + run.length ≤ p)
    (hend : c + run.length = p ∨ rest = []) :
    cell p (run ++ rest) n c acc (fl ||| w) =
      let m := run.foldl narrowed (n, w)
      cell p rest 0 0 (promoted acc m.1).1 (fl ||| m.2 ||| (promoted acc m.1).2) := by
  induction run generalizing n c w with
  | nil => exact absurd rfl hrun
  | cons st run ih =>
    cases run with
    | nil =>
      have hlast : (decide (c + 1 = p) || rest.isEmpty) = true := by simpa using hend
      simp only [List.cons_append, List.nil_append, cell, hlast, if_true, List.foldl_cons, List.foldl_nil, narrowed, promoted, Nat.or_assoc]
    | cons st' run =>
      have hmore : (decide (c + 1 = p) || (st' :: run ++ rest).isEmpty) = false := by
        simp only [List.length_cons] at hc
        simp only [List.cons_append, List.isEmpty_cons, Bool.or_false, decide_eq_false_iff_not]
        omega
      have hnext := ih (narrowed (n, w) st).1 (c + 1) (narrowed (n, w) st).2 (List.cons_ne_nil _ _)
        (by simp only [List.length_cons] at hc ⊢; omega) (hend.imp_left fun h => by simp only [List.length_cons] at h ⊢; omega)
      rw [List.cons_append, cell]
      simp only [hmore, Bool.false_eq_true, if_false]
      rw [List.foldl_cons]
      simpa only [narrowed, Nat.or_assoc] using hnext

/-- A cell is its runs, one after another. -/
theorem cell_eq_runs {p : Nat} (hp : 0 < p) (fuel : Nat) (steps : List (List FV × List FV)) (hf : steps.length < fuel) (acc fl : Nat) :
    cell p steps 0 0 acc fl = (chunks p fuel steps).foldl runTaken (acc, fl) := by
  induction fuel generalizing steps acc fl with
  | zero => omega
  | succ fuel ih =>
    cases steps with
    | nil => rfl
    | cons st steps =>
      have hpos : (List.take p (st :: steps)) ≠ [] := by simp [hp.ne']
      have hrun := cell_run (p := p) ((st :: steps).take p) ((st :: steps).drop p) 0 0 acc fl 0 hpos (by simp)
        (by simp only [List.length_take, List.drop_eq_nil_iff, Nat.zero_add]; omega)
      have hshort : ((st :: steps).drop p).length < fuel := by simp only [List.length_drop, List.length_cons] at hf ⊢; omega
      rw [List.take_append_drop, Nat.or_zero] at hrun
      rw [hrun]
      exact ih _ hshort _ _

/-- What accepted work makes of an element is the value of R163 or R165. -/
theorem eval_eq_workResult {k : MatKind} (hp : ∀ af bf p a b c d fx l m, k = .mm af bf p a b c d fx l m → 0 < p) (q : Quad) (t i j : Nat) :
    k.eval q t i j = workResult k q t i j := by
  cases k with
  | zero => rfl
  | prom b => rfl
  | mm af bf p a b asc bsc fx sl l =>
    exact cell_eq_runs (hp _ _ _ _ _ _ _ _ _ _ rfl) _ _ (Nat.lt_succ_self _) _ _

/-! An accumulator written as one unit (R150). -/

theorem putAcc_frame (q : Quad) (t : Nat) (f : Nat → Nat → Nat) : q.putAcc t f = { q with acc := (q.putAcc t f).acc } := by
  simp only [Quad.putAcc]

theorem get_putAcc (q : Quad) (t : Nat) (f : Nat → Nat → Nat) (n : Nat) :
    (q.putAcc t f).acc.get 0 n = if n / 1024 = t then BitVec.ofNat 32 (f (n % 1024 / 32) (n % 32)) else q.acc.get 0 n := by
  unfold Quad.putAcc
  split_ifs with hn
  · have hkey : 1024 * t + n % 1024 = n := by omega
    have hread := SMap.get_foldl_set (0 : W32) (fun i => 1024 * t + i) (fun i => BitVec.ofNat 32 (f (i / 32) (i % 32))) (List.range 1024) q.acc
      (fun i _ j _ h => congrArg (fun i => BitVec.ofNat 32 (f (i / 32) (i % 32))) (by simpa using h)) (List.mem_range.mpr (Nat.mod_lt n (by decide)))
    have hcol : n % 1024 % 32 = n % 32 := by omega
    simpa only [hkey, hcol] using hread
  · have hne : ∀ i ∈ List.range 1024, n ≠ 1024 * t + i := fun i hi => by
      have := List.mem_range.mp hi
      omega
    simpa only using SMap.get_foldl_set_ne (0 : W32) (fun i => 1024 * t + i) (fun i => BitVec.ofNat 32 (f (i / 32) (i % 32))) (List.range 1024) q.acc hne

theorem quad_modQuad_ne (s : State) {i j : Nat} (f : Quad → Quad) (h : j ≠ i) : (s.modQuad i f).quad j = s.quad j := by
  simp [State.quad, State.modQuad, SMap.get_modify, h]

/-! The flags of a product (R149). -/

/-- The group with flags raised. -/
def raised (fl : Nat) (g : Group) : Group := { g with fpflags := g.fpflags ||| BitVec.ofNat 64 fl }

theorem raised_raised (fl : Nat) (g : Group) : raised fl (raised fl g) = raised fl g := by
  simp only [raised, BitVec.or_assoc, BitVec.or_self]

/-- Groups raise the flags once, however often they are named; nothing else changes. -/
theorem foldl_raised (fl : Nat) (l : List Nat) (s : State) :
    let u := l.foldl (fun s j => s.modGroup j (raised fl)) s
    u = { s with groups := u.groups } ∧ ∀ j, u.group? j = if j ∈ l then (s.group? j).map (raised fl) else s.group? j := by
  induction l generalizing s with
  | nil => exact ⟨rfl, fun _ => rfl⟩
  | cons a l ih =>
    obtain ⟨hframe, hgroup⟩ := ih (s.modGroup a (raised fl))
    refine ⟨hframe, fun j => (hgroup j).trans ?_⟩
    have hone : (s.modGroup a (raised fl)).group? j = if j = a then (s.group? a).map (raised fl) else s.group? j := SMap.find?_adjust _ _ _ _
    rw [hone]
    by_cases hj : j = a
    · subst hj
      simp only [if_true, List.mem_cons_self, Option.map_map]
      split_ifs
      · exact congrArg (fun f => (s.group? j).map f) (funext (raised_raised fl))
      · rfl
    · simp [hj]

/-- The flags of an accumulator's elements. -/
def workFlags (k : MatKind) (q : Quad) (t : Nat) : Nat := orAll ((List.range 1024).map fun n => (k.eval q t (n / 32) (n % 32)).2)

/-- The accumulator that accepted work leaves, before its flags are raised. -/
def workDone (s : State) (o qi t : Nat) (k : MatKind) : State :=
  (s.delOp o).modQuad qi fun q => q.putAcc t fun i j => (k.eval q t i j).1

/-- The oldest accepted work of its quadrant is done. -/
theorem exec_matrixResult {s : State} {o : Nat} {op : Op} {qi t fl : Nat} {k : MatKind} (ho : s.ops.find? o = some op) (hk : op.kind = .mat qi t k)
    (hfirst : ∀ x ∈ s.ops, x.1 < o → ∀ u k', x.2.kind ≠ .mat qi u k') (hfl : workFlags k (s.quad qi) t = fl) :
    exec (.matrixResult o) s = .next ((flagged k op.gid).foldl (fun s j => s.modGroup j (raised fl)) (workDone s o qi t k)) := by
  have hold : (s.ops.any fun x => decide (x.1 < o) && (match x.2.kind with | .mat q _ _ => q = qi | _ => false)) = false := by
    refine List.any_eq_false.mpr fun x hx h => ?_
    rw [Bool.and_eq_true, decide_eq_true_eq] at h
    obtain ⟨hlt, hkind⟩ := h
    split at hkind
    · next q u k' hx' => exact hfirst x hx hlt u k' (by rw [hx', of_decide_eq_true hkind])
    · cases hkind
  change execMatrixResult o s = _
  simp only [execMatrixResult, ho, hk]
  rw [workFlags] at hfl
  rw [hfl]
  refine congrArg _ ((if_neg (ne_true_of_eq_false hold)).trans ?_)
  cases k <;> rfl

/-- Settles O24: the work's elements are written as one unit, and its flags raised in the groups that share them (R149, R150, R163). -/
theorem matrixResults : Obligations.MatrixResults := by
  intro s o op qi t k ho hk hfirst hp
  have heval (i j : Nat) : k.eval (s.quad qi) t i j = workResult k (s.quad qi) t i j := eval_eq_workResult hp _ _ _ _
  obtain ⟨fl, hfl⟩ : ∃ fl, workFlags k (s.quad qi) t = fl := ⟨_, rfl⟩
  obtain ⟨u, hexec, hframe, hgroup⟩ : ∃ u, exec (.matrixResult o) s = .next u ∧ u = { workDone s o qi t k with groups := u.groups } ∧
      ∀ j, u.group? j = if j ∈ flagged k op.gid then (s.group? j).map (raised fl) else s.group? j :=
    ⟨_, exec_matrixResult ho hk hfirst hfl, foldl_raised fl (flagged k op.gid) (workDone s o qi t k)⟩
  have hsum : ((List.range 1024).map fun n => (workResult k (s.quad qi) t (n / 32) (n % 32)).2).foldl (· ||| ·) 0 = fl := by
    simp only [← hfl, workFlags, orAll, heval]
  have hquads : u.quads = (workDone s o qi t k).quads := by rw [hframe]
  have hother (j : Nat) (hj : j ≠ qi) : u.quad j = s.quad j := by
    rw [State.quad, hquads]
    exact quad_modQuad_ne _ _ hj
  have hquad : u.quad qi = (s.quad qi).putAcc t fun i j => (k.eval (s.quad qi) t i j).1 := by
    rw [State.quad, hquads]
    exact quad_modQuad _ _ _
  refine ⟨u, hexec, ?_, ?_, hother, fun i hi j hj => ?_, fun n hn => ?_, fun j hj => ?_, ?_⟩
  · rw [hquads]
    exact hframe
  · rw [hquad]
    exact putAcc_frame _ _ _
  · have hrow : (1024 * t + 32 * i + j) / 1024 = t ∧ (1024 * t + 32 * i + j) % 1024 / 32 = i ∧ (1024 * t + 32 * i + j) % 32 = j := by omega
    rw [hquad, get_putAcc, if_pos hrow.1, hrow.2.1, hrow.2.2, heval]
  · rw [hquad, get_putAcc, if_neg hn]
  · exact (hgroup j).trans (if_neg hj)
  · rw [hsum]
    exact fun j hj => (hgroup j).trans (if_pos hj)

end Sys2Proof.Machine
end


section
/-! Results written at the issue with flags, beside an effect on the rest of the state (R27, R340). -/

namespace Sys2Proof.Machine
open Sys2Proof.Claims

/-- A result written at the issue does not depend on whether the schedule holds the pipes. -/
theorem landNow_of {s : State} {g : Group} {p : Path} (h : Issuing s g p) (ws : List RegW) (fl : Nat) :
    landNow ws fl s = { s with groups := s.groups.put s.iss.gid { g.puts ws with
      fpflags := g.fpflags ||| BitVec.ofNat 64 fl
      paths := g.paths.put s.iss.slot { nextPath s p with fpx := fpxDue s g p fl } } } := by
  have hland := land_of (s := { s with pipeHold := false }) ⟨h.group, h.path⟩ rfl ws fl
  exact congrArg (fun u : State => { u with pipeHold := s.pipeHold }) hland

/-- The record of a group in which a result has landed. -/
def withResult (ws : List RegW) (fl : Nat) (y : Group) : Group := { y.puts ws with fpflags := y.fpflags ||| BitVec.ofNat 64 fl }

/-- The path whose result has landed: an enabled flag makes FPX due (R27). -/
def afterResult (s : State) (g : Group) (fl : Nat) (q : Path) : Path := { nextPath s q with fpx := fpxDue s g q fl }

section
variable {s x : State} {g : Group} {p : Path} {a : Adm}

/-- RESULTS WRITTEN AT THE ISSUE, with flags: `x` is `s` with what the instruction does beside its group. -/
theorem computes_landNow_beside (h : Admitted a s g p) (hc : a.count = true) (hg : x.groups = s.groups) (hi : x.iss = s.iss)
    (hcores : x.cores = s.cores) (ws : List RegW) (fl : Nat) (k : Group → Path → State → State)
    (hk : ∀ G, k g p (regrouped s G) = landNow ws fl (regrouped x G))
    {rs : Nat → W64} {rv : Nat → Nat → W64} {rm : Nat → W32} (hs : ∀ n, rS (g.puts ws) n = rs n)
    (hv : ∀ n l, l < 32 → rV (g.puts ws) n l = rv n l) (hm : ∀ n, n ≠ 0 → (g.puts ws).m.get 0 n = rm n)
    {W : List RegN} (hw : ∀ w ∈ ws, cellReg w.cell ∈ W) : ∃ t, gated a s k = .next t ∧ Computes s x t g p W rs rv rm fl := by
  have hf := Group.puts_frame ws g
  have hpaths : (g.puts ws).paths = g.paths := by rw [hf]
  have hhb : x.hb g.place.core g.ctx = s.hb g.place.core g.ctx := by simp only [State.hb, State.core, hcores]
  have hbeat : countedBeat x g p = countedBeat s g p := by unfold countedBeat; rw [hhb]
  have hpasses : issued true s p (k g p) = passes s g p (afterResult s g fl) (x.modGroup s.iss.gid (withResult ws fl)) := by
    refine issued_passes h.toIssuing (k g p) (withResult ws fl) (afterResult s g fl) (afterResult s g fl) hg hi (fun y => ?_)
      (by simp only [withResult]; rw [hf]) (by simp only [withResult]; rw [hf])
      (by simp only [withResult]; rw [hf]) (by simp only [withResult]; rw [hf]) (by simp only [withResult]; rw [hf]) ?_ (fun _ => rfl) fun G y q h1 h2 => ?_
    · simp only [withResult, Group.puts_paths]
    · simp only [afterResult, nextPath_counted]; rfl
    · have hland := landNow_of (s := regrouped x G) (g := { g with paths := y }) (p := q) ⟨hi ▸ h1, hi ▸ h2⟩ ws fl
      rw [Group.puts_paths] at hland
      have hnext : nextPath (regrouped x G) q = nextPath s q := by simp only [nextPath, regrouped, hi]
      have hfpx : fpxDue (regrouped x G) { g with paths := y } q fl = fpxDue s g q fl := by simp only [fpxDue, regrouped, hi]
      rw [hnext, hfpx] at hland
      refine (hk G).trans (hland.trans ?_)
      simp only [regrouped, hi]
      rfl
  have hat : passes s g p (afterResult s g fl) (x.modGroup s.iss.gid (withResult ws fl)) = { x with groups := s.groups.put s.iss.gid { withResult ws fl g with
      hbCount := (countedBeat s g p).1, tickDue := (countedBeat s g p).2, paths := g.paths.put s.iss.slot (afterResult s g fl p) } } := by
    have hx : x.group? s.iss.gid = some g := by rw [State.group?, hg]; exact h.group
    rw [modGroup_of hx, passes, modGroup_of (group_put_self _ _ _), hg]
    have hb : ∀ G, countedBeat { x with groups := G } g p = countedBeat s g p := fun _ => hbeat
    simp only [SMap.put_put, withResult, hpaths, hb]
    rw [SMap.adjust_eq_put _ _ h.path]
  refine ⟨_, gated_admitted h k, ?_⟩
  rw [hc, hpasses, hat]
  refine ⟨rfl, fun j hj => by simp [State.group?, SMap.find?_put_ne _ _ hj], _, _, group_put_self _ _ _, SMap.find?_put_self _ _ _,
    hs, hv, hm, fun _ h => Group.mem_puts_damaged h, fun c h hc => Group.mem_damaged_puts h fun w hx e => hc (e ▸ hw w hx), ?_,
    fun j hj => SMap.find?_put_ne _ _ hj, rfl⟩
  simp only [withResult]
  rw [hf]

end

end Sys2Proof.Machine
end


section
/-! Rows and columns of an accumulator (R150, R167). -/

namespace Sys2Proof.Machine
open Sys2Proof.Claims

theorem elem_zero (w : Nat) (x : W64) : elem w x 0 = x.toNat % 2 ^ w := by simp [elem, fld]

/-- A register of one sub-element. -/
theorem mapE_64 (f : Nat → Nat) : mapE 64 f = BitVec.ofNat 64 (f 0) := by
  apply BitVec.eq_of_toNat_eq
  simp [mapE, ofElems, packN]

/-- Results of one sub-element: each acting lane's value is written whole. -/
theorem vecWrites_one (s : State) (g : Group) (p : Path) (d : Nat) (ds : List Nat) (f : Nat → Nat → Nat → Nat × Nat) :
    vecWrites d 64 (vecF 1 (actLanes s g p) ds f) = vWrites d (actLanes s g p) fun l => BitVec.ofNat 64 (f (drawOf s g p 1 ds l 0) l 0).1 := by
  have hw := vecWrites_vecF s g p d 64 ds f
  simp only [mapE_64] at hw
  exact hw

/-- Their flags are united over the acting lanes. -/
theorem vecFlags_one (s : State) (g : Group) (p : Path) (ds : List Nat) (f : Nat → Nat → Nat → Nat × Nat) :
    vecFlags (vecF 1 (actLanes s g p) ds f) = ((actLanes s g p).map fun l => (f (drawOf s g p 1 ds l 0) l 0).2).foldl (· ||| ·) 0 := by
  rw [vecFlags_vecF, allFlags, List.map_eq_flatMap]
  rfl

/-- The result of an acting lane, looked up among the results. -/
theorem result_vecF {s : State} {g : Group} {p : Path} (ds : List Nat) (f : Nat → Nat → Nat → Nat × Nat) {l : Nat} (hl : l ∈ actLanes s g p) :
    (((vecF 1 (actLanes s g p) ds f).find? fun q => q.1 = l).bind fun q => q.2.head?.map Prod.fst).getD 0 = (f (drawOf s g p 1 ds l 0) l 0).1 := by
  have hfind : (actLanes s g p).find? (fun k => k = l) = some l := by
    obtain ⟨k, hk⟩ := Option.isSome_iff_exists.mp ((List.find?_isSome (p := fun k => decide (k = l))).mpr ⟨l, hl, by simp⟩)
    have hkl : k = l := by simpa using List.find?_some hk
    rw [← hkl] at hk ⊢
    exact hk
  rw [vecF_actLanes, List.find?_map]
  simp only [Function.comp_def, hfind]
  rfl

/-! Elements stored (R167). -/

/-- `x` is `y` with the elements `f i j` of accumulator `d` stored; the elements before are those of `s`. -/
def AccStored (s y x : State) (qi d : Nat) (f : Nat → Nat → Option Nat) : Prop :=
  x = { y with quads := x.quads } ∧ (∀ j, j ≠ qi → x.quad j = y.quad j) ∧ x.quad qi = { y.quad qi with acc := (x.quad qi).acc } ∧
  (∀ i < 32, ∀ j < 32, (x.quad qi).acc.get 0 (1024 * d + 32 * i + j) = ((f i j).map (BitVec.ofNat 32)).getD ((s.quad qi).acc.get 0 (1024 * d + 32 * i + j))) ∧
  ∀ m, m / 1024 ≠ d → (x.quad qi).acc.get 0 m = (s.quad qi).acc.get 0 m

/-- The elements of acting lanes are stored, each at the place that its lane has. -/
theorem accPut_stored {s y : State} {g : Group} {d : Nat} {lanes : List Nat} {at_ : Nat → Nat × Nat} {v : Nat → Nat} {f : Nat → Nat → Option Nat}
    (hy : y.quads = s.quads) (hat : ∀ l ∈ lanes, (at_ l).1 < 32 ∧ (at_ l).2 < 32) (hinj : ∀ k ∈ lanes, ∀ l ∈ lanes, at_ k = at_ l → k = l)
    (hf : ∀ l ∈ lanes, f (at_ l).1 (at_ l).2 = some (v l)) (hnone : ∀ i < 32, ∀ j < 32, (∀ l ∈ lanes, at_ l ≠ (i, j)) → f i j = none) :
    AccStored s y (accPut g d lanes at_ v y) g.place.quadIx d f := by
  have hquad : (accPut g d lanes at_ v y).quad g.place.quadIx = { y.quad g.place.quadIx with
      acc := lanes.foldl (fun m l => m.set 0 (1024 * d + 32 * (at_ l).1 + (at_ l).2) (BitVec.ofNat 32 (v l))) (s.quad g.place.quadIx).acc } := by
    rw [accPut, quad_modQuad, State.quad, State.quad, hy]
  have hkey (k : Nat) (hk : k ∈ lanes) (i j : Nat) (hi : i < 32) (hj : j < 32)
      (h : 1024 * d + 32 * i + j = 1024 * d + 32 * (at_ k).1 + (at_ k).2) : at_ k = (i, j) := by
    obtain ⟨h1, h2⟩ := hat k hk
    exact Prod.ext (by omega) (by omega)
  refine ⟨rfl, fun j hj => quad_modQuad_ne _ _ hj, by rw [hquad], fun i hi j hj => ?_, fun m hm => ?_⟩
  · rw [hquad]
    by_cases hl : ∃ l ∈ lanes, at_ l = (i, j)
    · obtain ⟨l, hl, he⟩ := hl
      have hread := SMap.get_foldl_set (0 : W32) (fun l => 1024 * d + 32 * (at_ l).1 + (at_ l).2) (fun l => BitVec.ofNat 32 (v l)) lanes
        (s.quad g.place.quadIx).acc (fun k hk l hl h => by
          rw [hinj k hk l hl (hkey k hk _ _ (hat l hl).1 (hat l hl).2 h.symm)]) hl
      have hfl := hf l hl
      simp only [he] at hread hfl
      simp only [hread, hfl, Option.map_some, Option.getD_some]
    · have hout : ∀ l ∈ lanes, at_ l ≠ (i, j) := fun l hl' he => hl ⟨l, hl', he⟩
      rw [hnone i hi j hj hout]
      exact SMap.get_foldl_set_ne (0 : W32) _ _ lanes _ fun l hl' h => hout l hl' (hkey l hl' i j hi hj h)
  · rw [hquad]
    refine SMap.get_foldl_set_ne (0 : W32) _ _ lanes _ fun l hl h => hm ?_
    obtain ⟨h1, h2⟩ := hat l hl
    omega

/-- What is stored depends on the values of the lanes named alone. -/
theorem accPut_congr {g : Group} {d : Nat} {lanes : List Nat} {at_ : Nat → Nat × Nat} {v w : Nat → Nat} (h : ∀ l ∈ lanes, v l = w l) (y : State) :
    accPut g d lanes at_ v y = accPut g d lanes at_ w y := by
  have hfold (m : SMap W32) := List.foldl_ext (fun (m : SMap W32) l => m.set 0 (1024 * d + 32 * (at_ l).1 + (at_ l).2) (BitVec.ofNat 32 (v l)))
    (fun m l => m.set 0 (1024 * d + 32 * (at_ l).1 + (at_ l).2) (BitVec.ofNat 32 (w l))) m fun m l hl => by rw [h l hl]
  simp only [accPut, hfold]

section
variable {s y : State} {g : Group} {p : Path} {r : Nat}

/-- The value of an acting lane. -/
def ofActing (s : State) (g : Group) (p : Path) (l v : Nat) : Option Nat := if (act s g p).getLsbD l then some v else none

theorem accPut_row (d : Nat) (v : Nat → Nat) (hr : r < 32) (hy : y.quads = s.quads) :
    AccStored s y (accPut g d (actLanes s g p) (fun l => (r, l)) v y) g.place.quadIx d fun i j => if i = r then ofActing s g p j (v j) else none := by
  refine accPut_stored hy (fun l hl => ⟨hr, lt_of_mem_actLanes hl⟩) (fun k _ l _ h => (Prod.mk.inj h).2) (fun l hl => ?_) fun i _ j hj h => ?_
  · rw [if_pos rfl, ofActing, if_pos (mem_actLanes.mp hl).2]
  · split_ifs with hir
    · exact if_neg fun ha => h j (mem_actLanes.mpr ⟨hj, ha⟩) (by rw [hir])
    · rfl

theorem accPut_column (d : Nat) (v : Nat → Nat) (hr : r < 32) (hy : y.quads = s.quads) :
    AccStored s y (accPut g d (actLanes s g p) (fun l => (l, r)) v y) g.place.quadIx d fun i j => if j = r then ofActing s g p i (v i) else none := by
  refine accPut_stored hy (fun l hl => ⟨lt_of_mem_actLanes hl, hr⟩) (fun k _ l _ h => (Prod.mk.inj h).1) (fun l hl => ?_) fun i hi j _ h => ?_
  · rw [if_pos rfl, ofActing, if_pos (mem_actLanes.mp hl).2]
  · split_ifs with hjr
    · exact if_neg fun ha => h i (mem_actLanes.mpr ⟨hi, ha⟩) (by rw [hjr])
    · rfl

end

/-! The six accesses. -/

section
variable {s x : State} {g : Group} {p : Path} {acc : Acc} {t b : Nat} {rd wr : List RegN} {k : Group → Path → Nat → State → State}

/-- While accepted work names the accumulator, the access waits (R150). -/
theorem accv_waits (h : Admitted { acc := acc, rd := rd ++ sR [b], wr := wr } s g p) (hbusy : accBusy s g.place.quadIx t = true) :
    accv acc t rd wr b s k = .next (waitsOn s g p (.acc t) s) :=
  gated_waits h rfl _ _ rfl rfl fun _ => if_pos hbusy

section
variable (hfree : accBusy s g.place.quadIx t = false) (hg : x.groups = s.groups) (hi : x.iss = s.iss) (hcores : x.cores = s.cores) {fl : Nat}
include hfree hg hi hcores

/-- Elements read into a vector register, in the acting lanes. -/
theorem accv_reads {d : Nat} (h : Admitted { acc := acc, rd := rd ++ sR [b], wr := vR [d] } s g p) (v : Nat → W64)
    (hk : ∀ G, k g p ((rS g b).toNat % 32) (regrouped s G) = landNow (vWrites d (actLanes s g p) v) fl (regrouped x G)) :
    ∃ u, accv acc t rd (vR [d]) b s k = .next u ∧ Computes s x u g p (vR [d]) (rS g) (setV s g p d v) (fun n => g.m.get 0 n) fl := by
  refine computes_landNow_beside h rfl hg hi hcores (vWrites d (actLanes s g p) v) fl _ (fun G => ?_) (rS_puts_vWrites g d _ _)
    (fun m l hl => rV_puts_vWrites s g p d _ m l hl) (fun m _ => by rw [m_puts_vWrites]) (cellReg_vWrites (fun _ => lt_of_mem_actLanes) _)
  rw [fld_low]
  exact (if_neg (ne_true_of_eq_false hfree)).trans (hk G)

/-- Elements stored: no register is written. -/
theorem accv_stores (h : Admitted { acc := acc, rd := rd ++ sR [b], wr := wr } s g p)
    (hk : ∀ G, k g p ((rS g b).toNat % 32) (regrouped s G) = landNow [] fl (regrouped x G)) :
    ∃ u, accv acc t rd wr b s k = .next u ∧ Computes s x u g p [] (rS g) (rV g) (fun n => g.m.get 0 n) fl := by
  refine computes_landNow_beside h rfl hg hi hcores [] fl _ (fun G => ?_) (fun _ => rfl) (fun _ _ _ => rfl) (fun _ _ => rfl) (by simp)
  rw [fld_low]
  exact (if_neg (ne_true_of_eq_false hfree)).trans (hk G)

end

end

section
variable {s : State} {g : Group} {p : Path} {d a b : Nat}

/-- Draws leave alone what an access reads beside the generators. -/
theorem drawnFrom_beside (s : State) (g : Group) (n : Nat) : (drawnFrom s g n).groups = s.groups ∧ (drawnFrom s g n).iss = s.iss ∧
    (drawnFrom s g n).cores = s.cores ∧ (drawnFrom s g n).quads = s.quads := by
  rw [drawnFrom_frame]
  exact ⟨rfl, rfl, rfl, rfl⟩

/-- The bf16 rounding of an element (R108, R167). -/
def elementBf16 (s : State) (g : Group) (t r dr l : Nat) : Nat × Nat :=
  (F32.val (F32.daz g.daz ((s.quad g.place.quadIx).acc? t r l))).into BF16 (rmode s g) dr g.ftz false

/-- arow.rdb (R108, R167; log 10). -/
theorem arowRdb_reads (hfree : accBusy s g.place.quadIx a = false) (h : Admitted { acc := { pred := true, rnd := true }, rd := sR [b], wr := vR [d] } s g p) :
    let ds := drawn s g (actLanes s g p).length
    let bf (l : Nat) : Nat × Nat := elementBf16 s g a ((rS g b).toNat % 32) (drawOf s g p 1 ds l 0) l
    ∃ u, execArowRdb d a b s = .next u ∧ Computes s (drawnFrom s g (actLanes s g p).length) u g p (vR [d]) (rS g)
      (setV s g p d fun l => BitVec.ofNat 64 (bf l).1) (fun n => g.m.get 0 n) (((actLanes s g p).map fun l => (bf l).2).foldl (· ||| ·) 0) := by
  intro ds bf
  obtain ⟨hg, hi, hcores, -⟩ := drawnFrom_beside s g (actLanes s g p).length
  unfold execArowRdb
  refine accv_reads (x := drawnFrom s g (actLanes s g p).length) hfree hg hi hcores h (fun l => BitVec.ofNat 64 (bf l).1) fun G => ?_
  refine (withDraws_eq s g _ G _).trans ?_
  change landNow (vecWrites d 64 (vecF 1 (actLanes s g p) ds fun dr l _ => elementBf16 s g a ((rS g b).toNat % 32) dr l))
    (vecFlags (vecF 1 (actLanes s g p) ds fun dr l _ => elementBf16 s g a ((rS g b).toNat % 32) dr l)) _ = _
  rw [vecWrites_one, vecFlags_one]
  rfl

/-- The sum of an element and the lane's FP32 value, rounded once (R103, R167). -/
def elementSum (s : State) (g : Group) (t r a dr l : Nat) : Nat × Nat :=
  let z := (F32.val (F32.daz g.daz ((s.quad g.place.quadIx).acc? t r l))).add (rmode s g) (F32.val (F32.daz g.daz (elem 32 (rV g a l) 0)))
  ((z.1.round F32 (rmode s g) dr g.ftz).1, z.2 ||| (z.1.round F32 (rmode s g) dr g.ftz).2)

/-- arow.add (R102, R103, R167; log 10). -/
theorem arowAdd_stores (hfree : accBusy s g.place.quadIx d = false) (h : Admitted { acc := { pred := true, rnd := true }, rd := vR [a] ++ sR [b] } s g p) :
    let ds := drawn s g (actLanes s g p).length
    let sum (l : Nat) : Nat × Nat := elementSum s g d ((rS g b).toNat % 32) a (drawOf s g p 1 ds l 0) l
    ∃ x u, execArowAdd d a b s = .next u ∧
      AccStored s (drawnFrom s g (actLanes s g p).length) x g.place.quadIx d (fun i j => if i = (rS g b).toNat % 32 then ofActing s g p j (sum j).1 else none) ∧
      Computes s x u g p [] (rS g) (rV g) (fun n => g.m.get 0 n) (((actLanes s g p).map fun l => (sum l).2).foldl (· ||| ·) 0) := by
  intro ds sum
  obtain ⟨hg, hi, hcores, hq⟩ := drawnFrom_beside s g (actLanes s g p).length
  have hr : (rS g b).toNat % 32 < 32 := Nat.mod_lt _ (by decide)
  let x := accPut g d (actLanes s g p) (fun l => ((rS g b).toNat % 32, l)) (fun l => (sum l).1) (drawnFrom s g (actLanes s g p).length)
  have hval : ∀ l ∈ actLanes s g p, (((vecF 1 (actLanes s g p) ds fun dr l _ => elementSum s g d ((rS g b).toNat % 32) a dr l).find? fun q => q.1 = l).bind
      fun q => q.2.head?.map Prod.fst).getD 0 = (sum l).1 := fun l hl => result_vecF ds _ hl
  obtain ⟨u, hu, hcomp⟩ : ∃ u, execArowAdd d a b s = .next u ∧ Computes s x u g p [] (rS g) (rV g) (fun n => g.m.get 0 n)
      (((actLanes s g p).map fun l => (sum l).2).foldl (· ||| ·) 0) := by
    unfold execArowAdd
    refine accv_stores (x := x) hfree hg hi hcores h fun G => ?_
    refine (withDraws_eq s g _ G _).trans ?_
    change landNow [] (vecFlags (vecF 1 (actLanes s g p) ds fun dr l _ => elementSum s g d ((rS g b).toNat % 32) a dr l))
      (accPut g d (actLanes s g p) _ (fun l => (((vecF 1 (actLanes s g p) ds fun dr l _ => elementSum s g d ((rS g b).toNat % 32) a dr l).find?
        fun q => q.1 = l).bind fun q => q.2.head?.map Prod.fst).getD 0) (regrouped (drawnFrom s g (actLanes s g p).length) G)) = _
    rw [vecFlags_one, accPut_congr hval]
    rfl
  exact ⟨x, u, hu, accPut_row d _ hr hq, hcomp⟩

/-- The accesses without rounding read or store; those that round draw first (R25). -/
theorem exec_arowRd : exec (.arowRd d a b) s = execArowRd d a b s := rfl
theorem exec_acolRd : exec (.acolRd d a b) s = execAcolRd d a b s := rfl
theorem exec_arowRdb : exec (.arowRdb d a b) s = execArowRdb d a b s := rfl
theorem exec_arowWr : exec (.arowWr d a b) s = execArowWr d a b s := rfl
theorem exec_acolWr : exec (.acolWr d a b) s = execAcolWr d a b s := rfl
theorem exec_arowAdd : exec (.arowAdd d a b) s = execArowAdd d a b s := rfl

/-- Settles O25: by the access of each form, once its accumulator is free, and the wait for it until then. -/
theorem accumulatorRowsAndColumns : Obligations.AccumulatorRowsAndColumns := by
  intro d a b s g p qi r el n ds bf sum same rdAdm wrAdm put on src
  have hr : r < 32 := Nat.mod_lt _ (by decide)
  have hsrc : ∀ l ∈ actLanes s g p, elem 32 (rV g a l) 0 = src l := fun l _ => elem_zero _ _
  rw [exec_arowRd, exec_acolRd, exec_arowRdb, exec_arowWr, exec_acolWr, exec_arowAdd]
  refine ⟨fun hfree => ⟨fun h => ⟨?rowRead, ?columnRead⟩, arowRdb_reads hfree⟩,
    fun hfree => ⟨fun h => ⟨?rowWritten, ?columnWritten⟩, fun h => ?rowAdded⟩,
    fun hbusy => ⟨fun h => ⟨?_, ?_⟩, fun h => ?_⟩, fun hbusy => ⟨fun h => ⟨?_, ?_⟩, fun h => ?_⟩⟩
  case rowRead => exact accv_reads (x := s) hfree rfl rfl rfl h _ fun _ => rfl
  case columnRead => exact accv_reads (x := s) hfree rfl rfl rfl h _ fun _ => rfl
  case rowWritten =>
    obtain ⟨u, hu, hcomp⟩ := accv_stores (x := accPut g d (actLanes s g p) (fun l => (r, l)) src s) hfree rfl rfl rfl h
      (k := fun g p r => landNow [] 0 ∘ accPut g d (actLanes s g p) (fun l => (r, l)) fun l => elem 32 (rV g a l) 0) (fl := 0) fun G => by
        simp only [Function.comp_apply, accPut_congr hsrc]; rfl
    exact ⟨_, u, hu, accPut_row d _ hr rfl, hcomp⟩
  case columnWritten =>
    obtain ⟨u, hu, hcomp⟩ := accv_stores (x := accPut g d (actLanes s g p) (fun l => (l, r)) src s) hfree rfl rfl rfl h
      (k := fun g p r => landNow [] 0 ∘ accPut g d (actLanes s g p) (fun l => (l, r)) fun l => elem 32 (rV g a l) 0) (fl := 0) fun G => by
        simp only [Function.comp_apply, accPut_congr hsrc]; rfl
    exact ⟨_, u, hu, accPut_column d _ hr rfl, hcomp⟩
  case rowAdded =>
    have hadd := arowAdd_stores hfree h
    simp only [elementSum, elem_zero] at hadd
    exact hadd
  all_goals exact accv_waits h hbusy

end

end Sys2Proof.Machine
end


section
/-! The weight buffer (R157 to R160, R190). -/

namespace Sys2Proof.SMap
variable {α : Type}

/-- One value put under several keys. -/
theorem get_foldl_put (d v : α) (l : List Nat) (m : SMap α) (n : Nat) :
    (l.foldl (fun m i => m.put i v) m).get d n = if n ∈ l then v else m.get d n := by
  induction l generalizing m with
  | nil => rfl
  | cons i l ih =>
    rw [List.foldl_cons, ih, get_put]
    by_cases hl : n ∈ l
    · simp [hl]
    · simp [hl]

/-- Several keys taken out, where a condition of the key holds. -/
theorem get_foldl_del (d : α) (c : Nat → Prop) [DecidablePred c] (l : List Nat) (m : SMap α) (n : Nat) :
    (l.foldl (fun m i => if c i then m.del i else m) m).get d n = if n ∈ l ∧ c n then d else m.get d n := by
  induction l generalizing m with
  | nil => simp
  | cons i l ih =>
    have hone : (if c i then m.del i else m).get d n = if n = i ∧ c n then d else m.get d n := by
      by_cases hc : c i
      · simp only [if_pos hc, get, find?_del]
        by_cases hn : n = i
        · subst hn; simp [hc]
        · simp [hn]
      · have hn : ¬(n = i ∧ c n) := fun ⟨he, hcn⟩ => hc (he ▸ hcn)
        rw [if_neg hc, if_neg hn]
    rw [List.foldl_cons, ih, hone]
    by_cases hc : c n <;> by_cases hl : n ∈ l <;> simp [hc, hl]

end Sys2Proof.SMap

namespace Sys2Proof.Machine
open Sys2Proof.Claims

/-! Reading a tile (R139). -/

theorem tileRead_foreign {s : State} {core c t : Nat} (h : tileOwned s core c t = false) : tileRead s core c t = .trap .padbound t := by
  simp [tileRead, h]

theorem tileRead_empty {s : State} {core c t : Nat} (hown : tileOwned s core c t = true) (hreg : (s.tile core t).reg = true)
    (hst : (s.tile core t).st = .empty) : tileRead s core c t = .trap .tileempty 0 := by
  simp [tileRead, hown, Tile.busy, tileState, hreg, hst]

section
variable {s : State} {g : Group} {p : Path} {a b k : Nat}

/-- R157, Table MTX.4. -/
theorem fmtchkAnswers (h : Admitted { acc := {}, rd := sR (if k = 0 then [b] else [b, b + 1]), wr := sR [a] } s g p) :
    let q := s.quad g.place.quadIx
    exec (.fmtchk a b k) s = .next (goesOn s g p (wrote (.s a (BitVec.ofNat 64 (if k = 0 then blockReason q (FBlock.of (rS g b)) false (gangK q (FBlock.of (rS g b)))
      else blockReason q (FBlock.of (rS g b)) true ((rS g (b + 1)).toNat / 2 ^ 32 % 2 ^ 16)))) s)) := by
  refine gated_writes h rfl _ _ rfl rfl fun G => ?_
  simp only [← fmtReason_mma, ← fmtReason_mmat]
  rfl

/-! wbld (R159, R190). -/

/-- A slot, and a count, that name slots of the buffer, and nothing above them but five bits of a format (R159, R160). -/
def slotsShape (v : Nat) : Prop := 1 ≤ v / 2 ^ 8 % 64 ∧ v / 2 ^ 8 % 64 ≤ 32 ∧ v = v % 32 + 2 ^ 8 * (v / 2 ^ 8 % 64) + 2 ^ 16 * (v / 2 ^ 16 % 32)

/-- The slots that a register names. -/
def slotsNamed (v : Nat) : List Nat := (List.range (v / 2 ^ 8 % 64)).map fun i => (v % 32 + i) % 32

theorem slotList_eq (v : Nat) : slotList (fld v 0 5) (fld v 8 6) = slotsNamed v := by rw [fld_low]; rfl

/-- What wbld asks of its second operand: slots, and a format that can be loaded so (R159). -/
def wbldLegal (y : Nat) (sp : Bool) : Prop := slotsShape y ∧ y / 2 ^ 16 % 32 < 16 ∧ (sp = true → y / 2 ^ 16 % 32 < 7)

theorem wbldBad_iff (y : Nat) (sp : Bool) :
    (decide (16 ≤ fld y 16 5) || (sp && decide ((mfmt (fld y 16 5)).fam ≠ 0)) || decide (fld y 8 6 = 0) || decide (32 < fld y 8 6) ||
      decide (y ≠ fld y 0 5 + 2 ^ 8 * fld y 8 6 + 2 ^ 16 * fld y 16 5)) = true ↔
      ¬wbldLegal y sp := by
  have hf : fld y 16 5 = y / 2 ^ 16 % 32 := rfl
  have hn : fld y 8 6 = y / 2 ^ 8 % 64 := rfl
  have hfam : y / 2 ^ 16 % 32 < 16 → ((mfmt (y / 2 ^ 16 % 32)).fam ≠ 0 ↔ ¬y / 2 ^ 16 % 32 < 7) := fun h16 => by
    rw [fam_mfmt _ h16, famOf]
    split_ifs <;> simp_all
  rw [hf, hn, fld_low]
  simp only [Bool.or_eq_true, Bool.and_eq_true, decide_eq_true_eq, wbldLegal, slotsShape]
  by_cases h16 : y / 2 ^ 16 % 32 < 16
  · rw [hfam h16]
    cases sp <;> simp <;> omega
  · exact iff_of_true (by omega) fun h => h16 h.2.1

/-- The bytes that wbld loads (R159). -/
def wbldBytes (y : Nat) (sp : Bool) : Nat := 32 * panelBytes (y / 2 ^ 16 % 32) sp * (y / 2 ^ 8 % 64)

/-- The quadrant with slots set. -/
def slotsSet (l : List Nat) (w : WSlot) (q : Quad) : Quad := { q with slots := l.foldl (fun m i => m.put i w) q.slots }

theorem slot_slotsSet (l : List Nat) (w : WSlot) (q : Quad) (i : Nat) : (slotsSet l w q).slot i = if i ∈ l then w else q.slot i :=
  SMap.get_foldl_put _ _ _ _ _

/-- A slot that a load of wbld takes. -/
def loadingSlot (y : Nat) (sp : Bool) (rmask : Nat) : WSlot := { st := .loading, fmt := y / 2 ^ 16 % 32, sp := sp, data := [], rmask := rmask }

/-- The slots begin to load from a tile, which they hold, and the bytes are charged (R159, R190). -/
def slotsLoading (s : State) (g : Group) (x y : Nat) (sp : Bool) : State :=
  let rmask := (s.tile g.place.core (x % 256)).rmask
  ((s.modQuad g.place.quadIx (slotsSet (slotsNamed y) (loadingSlot y sp rmask))).modTile g.place.core (x % 256) fun t =>
    { t with held := t.held + 1 }).modCtx g.ctx (charge false rmask (wbldBytes y sp))

/-- The load in flight. -/
def slotsLoad (s : State) (g : Group) (x y : Nat) (sp : Bool) : Op :=
  matOp s g (.wb g.place.quadIx (y % 32) (y / 2 ^ 8 % 64) (y / 2 ^ 16 % 32) sp (x / 2 ^ 8 % 2 ^ 24) 0 (x % 256) (s.tile g.place.core (x % 256)).rmask [])

/-- What wbld does once its tile can be read. -/
def wbldLoads (s : State) (g : Group) (x y : Nat) (sp : Bool) (s2 : State) : State :=
  if 4096 * (s.tile g.place.core (x % 256)).count < x / 2 ^ 8 % 2 ^ 24 + wbldBytes y sp then trapAt .engine 0 s2
  else if slotsRead s g.place.quadIx (slotsNamed y) then waitOn (.wslots (slotsNamed y) true) s2
  else
    let rmask := (s.tile g.place.core (x % 256)).rmask
    advance ((((s2.modQuad g.place.quadIx (slotsSet (slotsNamed y) (loadingSlot y sp rmask))).modTile g.place.core (x % 256) fun t =>
      { t with held := t.held + 1 }).modCtx g.ctx (charge false rmask (wbldBytes y sp))).addOp (slotsLoad s g x y sp))

section
variable (h : Admitted { acc := {}, rd := sR [a, b], full := true } s g p)
include h

/-- ILLOP: the operand names no slots, or no format that can be loaded. -/
theorem wbld_illop (ho : Ordinary g) (hbad : ¬wbldLegal (rS g b).toNat (k % 2 = 1)) : exec (.wbld a b k) s = .next (trapsBefore s g p .illop 0 s) :=
  gated_trapsBefore h rfl ho _ _ _ rfl rfl fun _ => if_pos ((wbldBad_iff _ _).mpr hbad)

variable (hlegal : wbldLegal (rS g b).toNat (k % 2 = 1))
include hlegal

/-- ALIGN (its data 0: log 52). -/
theorem wbld_align (ho : Ordinary g) (hoff : (rS g a).toNat / 2 ^ 8 % 2 ^ 24 % 32 ≠ 0) : exec (.wbld a b k) s = .next (trapsBefore s g p .align 0 s) :=
  gated_trapsBefore h rfl ho _ _ _ rfl rfl fun _ => (if_neg fun hb => (wbldBad_iff _ _).mp hb hlegal).trans (if_pos hoff)

/-- A legal, aligned wbld reads its tile. -/
theorem exec_wbld (hoff : (rS g a).toNat / 2 ^ 8 % 2 ^ 24 % 32 = 0) :
    exec (.wbld a b k) s = .next (issued true s p ((tileRead s g.place.core g.ctx ((rS g a).toNat % 256)).then ((rS g a).toNat % 256) true
      (wbldLoads s g (rS g a).toNat (rS g b).toNat (k % 2 = 1)))) := by
  have hpb : pbOf (fld (rS g b).toNat 16 5) (k % 2 = 1) = panelBytes ((rS g b).toNat / 2 ^ 16 % 32) (k % 2 = 1) :=
    pbOf_eq_panelBytes _ hlegal.2.1 _ hlegal.2.2
  have htn : fld (rS g a).toNat 0 8 = (rS g a).toNat % 256 := fld_low _ _
  have hsl : fld (rS g b).toNat 0 5 = (rS g b).toNat % 32 := fld_low _ _
  refine (gated_admitted h _).trans (congrArg _ (congrArg (issued true s p) (funext fun s1 => ?_)))
  refine (if_neg fun hb => (wbldBad_iff _ _).mp hb hlegal).trans ((if_neg (not_not.mpr hoff)).trans ?_)
  simp only [hpb, htn, hsl]
  rfl

end

/-- Of the quadrant the slots named change, and no others. -/
theorem quad_slotsLoading (s : State) (g : Group) (x y : Nat) (sp : Bool) : (slotsLoading s g x y sp).quad g.place.quadIx =
    slotsSet (slotsNamed y) (loadingSlot y sp (s.tile g.place.core (x % 256)).rmask) (s.quad g.place.quadIx) := quad_modQuad _ _ _

/-- The tile is held for the load. -/
theorem tile_slotsLoading (s : State) (g : Group) (x y : Nat) (sp : Bool) : (slotsLoading s g x y sp).tile g.place.core (x % 256) =
    { s.tile g.place.core (x % 256) with held := (s.tile g.place.core (x % 256)).held + 1 } :=
  tile_modTile (s.modQuad g.place.quadIx (slotsSet (slotsNamed y) (loadingSlot y sp (s.tile g.place.core (x % 256)).rmask))) g.place.core (x % 256)
    fun t => { t with held := t.held + 1 }

/-- A load charges its bytes and holds its tile (R190). -/
theorem wbldStarts (h : Admitted { acc := {}, rd := sR [a, b], full := true } s g p) (hlegal : wbldLegal (rS g b).toNat (k % 2 = 1))
    (hoff : (rS g a).toNat / 2 ^ 8 % 2 ^ 24 % 32 = 0) (htile : tileRead s g.place.core g.ctx ((rS g a).toNat % 256) = .ok)
    (hfit : (rS g a).toNat / 2 ^ 8 % 2 ^ 24 + wbldBytes (rS g b).toNat (k % 2 = 1) ≤ 4096 * (s.tile g.place.core ((rS g a).toNat % 256)).count)
    (hfree : slotsRead s g.place.quadIx (slotsNamed (rS g b).toNat) = false) :
    exec (.wbld a b k) s = .next (goesOn s g p ((slotsLoading s g (rS g a).toNat (rS g b).toNat (k % 2 = 1)).addOp
      (slotsLoad s g (rS g a).toNat (rS g b).toNat (k % 2 = 1)))) := by
  rw [exec_wbld h hlegal hoff, htile]
  exact congrArg _ (goesOn_of h.toIssuing _ rfl rfl fun _ => (if_neg hfit.not_gt).trans (if_neg (ne_true_of_eq_false hfree)))

/-! wbfree (R160). -/

theorem slotsShape_iff (v : Nat) :
    (decide (fld v 8 6 = 0) || decide (32 < fld v 8 6) || decide (v ≠ fld v 0 5 + 2 ^ 8 * fld v 8 6 + 2 ^ 16 * fld v 16 5)) = true ↔ ¬slotsShape v := by
  have hf : fld v 16 5 = v / 2 ^ 16 % 32 := rfl
  have hn : fld v 8 6 = v / 2 ^ 8 % 64 := rfl
  rw [hf, hn, fld_low]
  simp only [Bool.or_eq_true, decide_eq_true_eq, slotsShape]
  omega

/-- A load in flight of the quadrant, told which of its slots are to be freed when it ends. -/
def freedLater (qi : Nat) (ss : List Nat) (o : Op) : Op :=
  match o.kind with
  | .wb q sl m f sp off j tn rm fr => if q = qi then { o with kind := .wb q sl m f sp off j tn rm (fr ++ ss.filter fun i => (slotList sl m).contains i) } else o
  | _ => o

/-- The quadrant with the loaded ones of some slots freed. -/
def slotsCleared (ss : List Nat) (q : Quad) : Quad :=
  { q with slots := ss.foldl (fun m i => if (q.slot i).st = .loaded then m.del i else m) q.slots }

theorem slot_slotsCleared (ss : List Nat) (q : Quad) (i : Nat) :
    (slotsCleared ss q).slot i = if i ∈ ss ∧ (q.slot i).st = .loaded then WSlot.reset else q.slot i :=
  SMap.get_foldl_del _ (fun i => (q.slot i).st = .loaded) _ _ _

/-- Loaded slots are free at once, those that load are to be freed. -/
def slotsFreed (s : State) (qi : Nat) (ss : List Nat) : State :=
  { s.modQuad qi (slotsCleared ss) with ops := s.ops.mapV fun _ o => freedLater qi ss o }

theorem quad_slotsFreed (s : State) (qi : Nat) (ss : List Nat) : (slotsFreed s qi ss).quad qi = slotsCleared ss (s.quad qi) := quad_modQuad _ _ _

/-- A load takes down the slots that it shares with those freed. -/
theorem load_slotsFreed {s : State} {qi o sl m f off j tn rm : Nat} {op : Op} {sp : Bool} {fr : List Nat} (ss : List Nat) (ho : s.ops.find? o = some op)
    (hk : op.kind = .wb qi sl m f sp off j tn rm fr) :
    ∃ fr', (slotsFreed s qi ss).ops.find? o = some { op with kind := .wb qi sl m f sp off j tn rm fr' } ∧
      ∀ i, i ∈ fr' ↔ i ∈ fr ∨ (i ∈ ss ∧ ∃ n < m, i = (sl + n) % 32) := by
  refine ⟨fr ++ ss.filter fun i => (slotList sl m).contains i, ?_, fun i => ?_⟩
  · simp only [slotsFreed, SMap.find?_mapV, ho, Option.map_some, freedLater, hk, if_true]
  · simp [slotList, eq_comm]

section
variable (h : Admitted { acc := {}, rd := sR [a], full := true } s g p)
include h

theorem wbfree_illop (ho : Ordinary g) (hbad : ¬slotsShape (rS g a).toNat) : exec (.wbfree a) s = .next (trapsBefore s g p .illop 0 s) :=
  gated_trapsBefore h rfl ho _ _ _ rfl rfl fun _ => if_pos ((slotsShape_iff _).mpr hbad)

variable (hshape : slotsShape (rS g a).toNat)
include hshape

theorem wbfree_waits (hread : slotsRead s g.place.quadIx (slotsNamed (rS g a).toNat) = true) :
    exec (.wbfree a) s = .next (waitsOn s g p (.wslots (slotsNamed (rS g a).toNat) false) s) := by
  refine gated_waits h rfl _ _ rfl rfl fun G => (if_neg (not_not.mpr hshape ∘ (slotsShape_iff _).mp)).trans ?_
  rw [slotList_eq]
  exact if_pos hread

theorem wbfreeFrees (hfree : slotsRead s g.place.quadIx (slotsNamed (rS g a).toNat) = false) :
    exec (.wbfree a) s = .next (goesOn s g p (slotsFreed s g.place.quadIx (slotsNamed (rS g a).toNat))) := by
  refine gated_goesOn h rfl _ rfl rfl fun G => (if_neg (not_not.mpr hshape ∘ (slotsShape_iff _).mp)).trans ?_
  rw [slotList_eq]
  exact if_neg (ne_true_of_eq_false hfree)

end

end

/-! The panels of a load (R159). -/

/-- With no arrival at the latch, no product is accepted. -/
theorem mmaAccept_idle {s : State} {qi : Nat} (h : (s.quad qi).latch = []) : mmaAccept s qi = s := by
  simp only [mmaAccept, h]

/-- The quadrant with a panel stored, or its slot freed where that is asked. -/
def panelTaken (fr : List Nat) (i : Nat) (w : WSlot) (q : Quad) : Quad :=
  if fr.contains i then { q with slots := q.slots.del i } else { q with slots := q.slots.put i w }

theorem slot_panelTaken (fr : List Nat) (i : Nat) (w : WSlot) (q : Quad) (j : Nat) :
    (panelTaken fr i w q).slot j = if j = i then (if i ∈ fr then WSlot.reset else w) else q.slot j := by
  unfold panelTaken
  by_cases hfr : i ∈ fr
  · simp only [List.contains_iff_mem, hfr, if_true, Quad.slot, SMap.get, SMap.find?_del]
    split_ifs <;> rfl
  · simp only [List.contains_iff_mem, hfr, if_false, Quad.slot, SMap.get_put]

/-- The latch stays as it is. -/
theorem latch_panelTaken (fr : List Nat) (i : Nat) (w : WSlot) (q : Quad) : (panelTaken fr i w q).latch = q.latch := by
  unfold panelTaken
  split_ifs <;> rfl

section
variable {s : State} {o qi n sl f off j tn rm : Nat} {op : Op} {sp : Bool} {fr : List Nat}

/-- Panel `j` of a load as it stands in its tile. -/
def panelOf (s : State) (op : Op) (f : Nat) (sp : Bool) (off j tn rm : Nat) : WSlot :=
  { st := .loaded, fmt := f, sp := sp, rmask := rm
    data := padBytes s op.core (4096 * (s.tile op.core tn).base + off + 32 * pbOf f sp * j) (32 * pbOf f sp) }

/-- The state with a panel of the only load of its quadrant stored. -/
def panelStored (s : State) (op : Op) (qi sl f : Nat) (sp : Bool) (off j tn rm : Nat) (fr : List Nat) : State :=
  s.modQuad qi (panelTaken fr ((sl + j) % 32) (panelOf s op f sp off j tn rm))

theorem quad_panelStored : (panelStored s op qi sl f sp off j tn rm fr).quad qi =
    panelTaken fr ((sl + j) % 32) (panelOf s op f sp off j tn rm) (s.quad qi) := quad_modQuad _ _ _

/-- The state after that panel: the load goes on, or ends and lets go of its tile. -/
def panelDone (s : State) (o : Nat) (op : Op) (qi sl n f : Nat) (sp : Bool) (off j tn rm : Nat) (fr : List Nat) : State :=
  if j + 1 < n then (panelStored s op qi sl f sp off j tn rm fr).modOp o fun p => { p with kind := .wb qi sl n f sp off (j + 1) tn rm fr }
  else ((panelStored s op qi sl f sp off j tn rm fr).delOp o).modTile op.core tn fun t => { t with held := t.held - 1 }

theorem mem_panelDone : (panelDone s o op qi sl n f sp off j tn rm fr).mem = s.mem := by
  unfold panelDone
  split_ifs <;> rfl

theorem quad_panelDone : (panelDone s o op qi sl n f sp off j tn rm fr).quad qi =
    panelTaken fr ((sl + j) % 32) (panelOf s op f sp off j tn rm) (s.quad qi) := by
  unfold panelDone
  split_ifs <;> exact quad_panelStored

/-- The next panel of the only load of a quadrant whose latch is empty. -/
theorem exec_wbldSlotLoaded (ho : s.ops.find? o = some op) (hk : op.kind = .wb qi sl n f sp off j tn rm fr) (hlatch : (s.quad qi).latch = [])
    (hsole : ∀ z ∈ s.ops, z.1 ≠ o → ∀ sl n f sp off j tn rm fr, z.2.kind ≠ .wb qi sl n f sp off j tn rm fr) :
    exec (.wbldSlotLoaded o) s = .next (panelDone s o op qi sl n f sp off j tn rm fr) := by
  have hnone (P : Nat × Op → Bool) (hP : ∀ z, P z = true → z.1 ≠ o ∧ ∃ sl n f sp off j tn rm fr, z.2.kind = .wb qi sl n f sp off j tn rm fr) :
      s.ops.any P = false := List.any_eq_false.mpr fun z hz h => by
    obtain ⟨hne, sl, n, f, sp, off, j, tn, rm, fr, hkind⟩ := hP z h
    exact hsole z hz hne sl n f sp off j tn rm fr hkind
  change execWbldSlotLoaded o s = _
  simp only [execWbldSlotLoaded, ho, hk]
  rw [if_neg (ne_true_of_eq_false (hnone _ ?older)), if_neg (ne_true_of_eq_false (hnone _ ?newer))]
  case older =>
    intro z h
    obtain ⟨hlt, hkind⟩ := (Bool.and_eq_true _ _).mp h
    refine ⟨(of_decide_eq_true hlt).ne, ?_⟩
    split at hkind
    · next hz => exact ⟨_, _, _, _, _, _, _, _, _, by rw [hz, of_decide_eq_true hkind]⟩
    · cases hkind
  case newer =>
    intro z h
    obtain ⟨hlt, hkind⟩ := (Bool.and_eq_true _ _).mp h
    refine ⟨(of_decide_eq_true hlt).ne', ?_⟩
    split at hkind
    · next hz =>
      obtain ⟨hq, -⟩ := (Bool.and_eq_true _ _).mp hkind
      exact ⟨_, _, _, _, _, _, _, _, _, by rw [hz, of_decide_eq_true hq]⟩
    · cases hkind
  have hstored : (if fr.contains ((sl + j) % 32) = true then s.modQuad qi fun q => { q with slots := q.slots.del ((sl + j) % 32) }
      else s.modQuad qi fun q => { q with slots := q.slots.put ((sl + j) % 32) (panelOf s op f sp off j tn rm) }) =
      panelStored s op qi sl f sp off j tn rm fr := by
    unfold panelStored panelTaken
    split_ifs <;> rfl
  have hend : (((panelStored s op qi sl f sp off j tn rm fr).delOp o).modTile op.core tn fun t => { t with held := t.held - 1 }).quad qi =
      (panelStored s op qi sl f sp off j tn rm fr).quad qi := rfl
  have hidle := mmaAccept_idle (qi := qi) (by rw [hend, quad_panelStored, latch_panelTaken, hlatch])
  rw [panelDone, ← hidle, ← hstored]
  rfl

end

/-- Settles O26: each instruction by its outcomes, and a load panel by panel. -/
theorem weightBuffer : Obligations.WeightBuffer := by
  intro a b k s g p core qi q x y slots shape f sp tn off bytes legal wb
  have htraps {c : Cause} {n : Nat} {t : TileUse} (h : wb) (ho : Ordinary g) (hlegal : legal) (hoff : off % 32 = 0)
      (htile : tileRead s core g.ctx tn = t)
      (ht : ∀ G, t.then tn true (wbldLoads s g x y sp) (regrouped s G) = trapAt c n (regrouped s G)) :
      exec (.wbld a b k) s = .next (trapsBefore s g p c n s) := by
    rw [exec_wbld h hlegal hoff, htile]
    exact congrArg _ (trapsBefore_of h.toIssuing ho _ _ _ rfl rfl ht)
  refine ⟨fmtchkAnswers, fun h hlegal hoff htile hfit hfree => ⟨slotsLoading s g x y sp, rfl, wbldStarts h hlegal hoff htile hfit hfree,
      fun j hj => quad_modQuad_ne _ _ hj, ?frame, fun i => ?loading, tile_slotsLoading s g x y sp, ?charged⟩,
    fun h ho => ⟨wbld_illop h ho, fun hlegal => wbld_align h hlegal ho, fun hlegal hoff htile hfit => ?engine, fun hlegal hoff hown => ?padbound,
      fun hlegal hoff hown hreg hst => ?tileempty⟩,
    fun h hlegal hoff htile hfit hread => ?waits, fun h hshape => wbfree_waits h hshape,
    fun h => ⟨fun hshape hfree => ⟨_, wbfreeFrees h hshape hfree, rfl, fun j hj => quad_modQuad_ne _ _ hj, fun i => ?freed,
      fun _ _ _ _ _ _ _ _ _ _ _ => load_slotsFreed _⟩, fun hshape ho => wbfree_illop h ho hshape⟩,
    fun o op n sl f sp off j tn rm fr ho hk hlatch hsole => ⟨_, exec_wbldSlotLoaded ho hk hlatch hsole, mem_panelDone, ?panel, fun i hi => ?others,
      fun hmore => ?more, fun hlast => ?last⟩⟩
  case frame => rw [quad_slotsLoading]; rfl
  case loading => rw [quad_slotsLoading, slot_slotsSet]; rfl
  case charged => exact (SMap.find?_adjust _ _ _ _).trans (if_pos rfl)
  case engine => exact htraps h ho hlegal hoff htile fun _ => if_pos hfit
  case padbound => exact htraps h ho hlegal hoff (tileRead_foreign hown) fun _ => rfl
  case tileempty => exact htraps h ho hlegal hoff (tileRead_empty hown hreg hst) fun _ => rfl
  case waits =>
    rw [exec_wbld h hlegal hoff, htile]
    exact congrArg _ (waitsOn_of h.toIssuing _ _ rfl rfl fun _ => (if_neg (Nat.not_lt.mpr hfit)).trans (if_pos hread))
  case freed => rw [quad_slotsFreed, slot_slotsCleared]; rfl
  case panel => rw [quad_panelDone, slot_panelTaken, if_pos rfl]; rfl
  case others => rw [quad_panelDone, slot_panelTaken, if_neg hi]
  case more =>
    rw [panelDone, if_pos hmore]
    exact (SMap.find?_adjust _ _ _ _).trans ((if_pos rfl).trans (congrArg _ ho))
  case last =>
    rw [panelDone, if_neg hlast.not_gt]
    exact ⟨SMap.find?_del_self _ _, tile_modTile _ _ _ _⟩

end Sys2Proof.Machine
end


section
/-! A product of a tile's rows, and merges (R164, R165). -/

namespace Sys2Proof.Machine
open Sys2Proof.Claims

/-- A row of A is a whole number of bytes (R164). -/
def rowBytes (f : FBlock) (k : Nat) : Nat := if (mfmt f.af).fam = 2 then k / 16 * pxBytes (mfmt f.af) else (k * (mfmt f.af).bits + 7) / 8

theorem fld_top (v : W64) : fld v.toNat 48 16 = v.toNat / 2 ^ 48 := by
  have hlt := v.isLt
  unfold fld
  omega

/-- Codes of a row of A (R164). -/
theorem tileRow_codes (s : State) (core base off pitch k i : Nat) {m : MFmt} (h : m.fam ≠ 2) {y : Nat} (hy : y < k) :
    (tileRow s core base off pitch k m i).getD y 0 =
      padRd s core (4096 * base + off + pitch * i) ((k * m.bits + 7) / 8) / 2 ^ (m.bits * y) % 2 ^ m.bits := by
  rw [tileRow, if_neg h, getD_map_range _ _ _ hy]
  rfl

/-- Blocks of a row of A (R164). -/
theorem tileRow_blocks (s : State) (core base off pitch k i : Nat) {m : MFmt} (h : m.fam = 2) {y : Nat} (hy : y < k / 16) :
    (tileRow s core base off pitch k m i).getD y 0 = padRd s core (4096 * base + off + pitch * i + pxBytes m * y) (pxBytes m) := by
  rw [tileRow, if_pos h, getD_map_range _ _ _ hy]

section
variable {s : State} {g : Group} {p : Path} {t a b k : Nat}

/-- What mmat does once its tile can be read (R164). -/
def mmatMultiplies (s : State) (g : Group) (t k d : Nat) (f : FBlock) (s2 : State) : State :=
  let q := s.quad g.place.quadIx
  let kk := d / 2 ^ 32 % 2 ^ 16
  let x := s.tile g.place.core (d % 256)
  if fmtReason q f true kk ≠ 0 then trapAt .illop 0 s2
  else if (f.runs kk).any fun r => (q.slot r.1).st = .loading then waitOn (.wslots ((f.runs kk).map Prod.fst) true) s2
  else if 4096 * x.count < d / 2 ^ 8 % 2 ^ 24 + 31 * (d / 2 ^ 48) + rowBytes f kk then trapAt .engine 0 s2
  else
    match badScale s g.place.core g.ctx f kk with
    | some o => trapAt .padbound o s2
    | none => advance (acceptMat s2 g s.iss.gid s.iss.slot t (promP s k) f kk
        ((List.range 32).map (tileRow s g.place.core x.base (d / 2 ^ 8 % 2 ^ 24) (d / 2 ^ 48) kk (mfmt f.af))) [s.iss.gid])

section
variable (h : Admitted { acc := { px := true }, rd := sR [a, b], full := true } s g p)
include h

/-- ALIGN (its data 0: log 52). -/
theorem mmat_align (ho : Ordinary g)
    (halign : ¬((rS g b).toNat / 2 ^ 8 % 2 ^ 24 % 32 = 0 ∧ (rS g b).toNat / 2 ^ 48 % 32 = 0)) :
    exec (.mmat t a b k) s = .next (trapsBefore s g p .align 0 s) := by
  have hpitch := fld_top (rS g b)
  refine gated_trapsBefore h rfl ho _ _ _ rfl rfl fun _ => if_pos ?_
  rw [hpitch]
  simpa [imp_iff_not_or, fld] using halign

/-- With its operand aligned, mmat reads its tile. -/
theorem exec_mmat (halign : (rS g b).toNat / 2 ^ 8 % 2 ^ 24 % 32 = 0 ∧ (rS g b).toNat / 2 ^ 48 % 32 = 0) :
    exec (.mmat t a b k) s = .next (issued true s p ((tileRead s g.place.core g.ctx ((rS g b).toNat % 256)).then ((rS g b).toNat % 256) true
      (mmatMultiplies s g t k (rS g b).toNat (FBlock.of (rS g a))))) := by
  have hpitch := fld_top (rS g b)
  have htn : fld (rS g b).toNat 0 8 = (rS g b).toNat % 256 := fld_low _ _
  obtain ⟨hoff, hpit⟩ := halign
  have hok : ¬(decide (fld (rS g b).toNat 8 24 % 32 ≠ 0) || decide (fld (rS g b).toNat 48 16 % 32 ≠ 0)) = true := by
    have hoff' : fld (rS g b).toNat 8 24 % 32 = 0 := hoff
    rw [hpitch, hoff', hpit]
    decide
  refine (gated_admitted h _).trans (congrArg _ (congrArg (issued true s p) (funext fun s1 => (if_neg hok).trans ?_)))
  simp only [hpitch, htn]
  rfl

end

/-- mmat goes on, with its product in the acceptance order. -/
theorem mmatMultiplies_accepts {d : Nat} {f : FBlock} (s2 : State)
    (hfit : fmtReason (s.quad g.place.quadIx) f true (d / 2 ^ 32 % 2 ^ 16) = 0)
    (hload : ((f.runs (d / 2 ^ 32 % 2 ^ 16)).any fun r => ((s.quad g.place.quadIx).slot r.1).st = .loading) = false)
    (hroom : d / 2 ^ 8 % 2 ^ 24 + 31 * (d / 2 ^ 48) + rowBytes f (d / 2 ^ 32 % 2 ^ 16) ≤ 4096 * (s.tile g.place.core (d % 256)).count)
    (hscale : badScale s g.place.core g.ctx f (d / 2 ^ 32 % 2 ^ 16) = none) :
    mmatMultiplies s g t k d f s2 = advance (acceptMat s2 g s.iss.gid s.iss.slot t (promP s k) f (d / 2 ^ 32 % 2 ^ 16)
        ((List.range 32).map (tileRow s g.place.core (s.tile g.place.core (d % 256)).base (d / 2 ^ 8 % 2 ^ 24) (d / 2 ^ 48) (d / 2 ^ 32 % 2 ^ 16) (mfmt f.af)))
        [s.iss.gid]) := by
  refine (if_neg (not_not.mpr hfit)).trans ((if_neg (ne_true_of_eq_false hload)).trans ((if_neg hroom.not_gt).trans ?_))
  rw [hscale]

end

/-- Settles O23: each instruction by its outcomes, the corners of mmat in their order. -/
theorem tileProductsAndMerges : Obligations.TileProductsAndMerges := by
  intro t a b k s g p core q f d pitch kk off tn x bits row at_ aligned
  have hrow (haf : f.af < 16) : rowBytes f kk = row := by rw [rowBytes, fam_mfmt _ haf]
  have htraps {c : Cause} {n : Nat} {use : TileUse} (h : Admitted { acc := { px := true }, rd := sR [a, b], full := true } s g p) (ho : Ordinary g)
      (ha : aligned) (htile : tileRead s core g.ctx tn = use)
      (ht : ∀ G, use.then tn true (mmatMultiplies s g t k d f) (regrouped s G) = trapAt c n (regrouped s G)) :
      exec (.mmat t a b k) s = .next (trapsBefore s g p c n s) := by
    rw [exec_mmat h ha, htile]
    exact congrArg _ (trapsBefore_of h.toIssuing ho _ _ _ rfl rfl ht)
  refine ⟨fun h => ⟨fun ha htile hreason hload hroom hscale => ?accepted, fun ho => ⟨fun ha => mmat_align h ho ha, fun ha hown => ?padbound,
    fun ha hown hreg hst => ?tileempty, fun ha htile hreason => ?illop, fun ha htile hreason hload hroom => ?engine⟩⟩,
    fun h => ⟨gated_goesOn h rfl _ rfl rfl fun _ => rfl, gated_goesOn h rfl _ rfl rfl fun _ => rfl⟩⟩
  case accepted =>
    have hfit := blockFits_of_reason hreason
    have hfam := fam_mfmt _ hfit.af
    refine ⟨(List.range 32).map (tileRow s core x.base off pitch kk (mfmt f.af)), _, _, _, operands_captured hfit, ?goes,
      fun hf i hi y hy => ?codes, fun hf i hi y hy => ?blocks⟩
    case goes =>
      rw [exec_mmat h ha, htile]
      refine congrArg _ (goesOn_of h.toIssuing _ rfl rfl fun G => ?_)
      exact mmatMultiplies_accepts _ ((fmtReason_mmat _ _ _).trans hreason) (loading_runs hfit hload) (by rwa [hrow hfit.af]) (badScale_none hfit.af hscale)
    case codes =>
      rw [getD_map_range _ _ _ hi, tileRow_codes _ _ _ _ _ _ _ (hfam ▸ hf) hy]
      simp only [at_, row, if_neg hf]
      rfl
    case blocks =>
      rw [getD_map_range _ _ _ hi]
      exact tileRow_blocks _ _ _ _ _ _ _ (hfam.trans hf) hy
  case padbound => exact htraps h ho ha (tileRead_foreign hown) fun _ => rfl
  case tileempty => exact htraps h ho ha (tileRead_empty hown hreg hst) fun _ => rfl
  case illop =>
    refine htraps h ho ha htile fun _ => if_pos ?_
    rwa [fmtReason_mmat]
  case engine =>
    have hfit := blockFits_of_reason hreason
    refine htraps h ho ha htile fun _ => (if_neg (not_not.mpr ((fmtReason_mmat _ _ _).trans hreason))).trans
      ((if_neg (ne_true_of_eq_false (loading_runs hfit hload))).trans (if_pos ?_))
    rwa [hrow hfit.af]

end Sys2Proof.Machine
end


section
/-! The last arrival of an mma where two groups stand at one place of the gang, under keys that do not rise: the write of the issuing path's
record puts its group before the other, and the place is then the issuing group's. No run leaves groups so, but the statement has no premise
that says so. -/

namespace Sys2Proof.Machine
open Sys2Proof.Claims

/-- Group 2, at place (0, 0) of the quadrant with the group that issues; its V(0, 0) is 1. -/
def placeTwin : Group := { Group.start State.reset 1 (seatAt 0) .grid 0x10000 (BitVec.allOnes 32) with v := [(0, 1)] }

/-- Group 1, which issues the mma, and its path. -/
def lastGroup : Group := Group.start State.reset 1 (seatAt 0) .grid 0x10000 (BitVec.allOnes 32)
def lastPath : Path := Path.start 0x10000 (BitVec.allOnes 32) 0 0 false

/-- Group 3, which has arrived, at place (0, 1). -/
def firstGroup : Group := Group.start State.reset 1 (seatAt 1) .grid 0x10000 (BitVec.allOnes 32)

/-- A gang of places (0, 0) and (0, 1), at whose latch group 3 has arrived; the slot of B is loaded. -/
def twinQuad : Quad :=
  { Quad.reset with
    gang := 0x4000000000004000
    slots := [(0, { WSlot.reset with st := .loaded })]
    latch := [{ gid := 3, slot := 0, t := 0, p := 1, fb := 0 }] }

/-- Group 2 stands before group 1. -/
def twinState : State :=
  { State.reset with
    groups := [(2, placeTwin), (1, lastGroup), (3, firstGroup)]
    quads := [(0, twinQuad)]
    iss := { Iss.none with gid := 1 } }

theorem twinState_admitted : Admitted { acc := { px := true }, rd := sR [0] ++ vR (contributed twinState 0), full := true } twinState lastGroup lastPath where
  group := rfl
  path := rfl
  prefixes := by decide
  fields := rfl
  who := rfl
  budget := by decide
  full := by decide
  noM0 := by decide
  rounding := by decide
  pipes := by decide
  score := by decide
  sound := by decide

/-- The first element of A of an operation, where it is a product. -/
def firstElement (o : Op) : Nat := match o.kind with | .mat _ _ (.mm _ _ _ a _ _ _ _ _ _) => (a.getD 0 []).getD 0 0 | _ => 0

/-- That of the product accepted after an instruction, which is operation 2. -/
def acceptedElement (x : Out) : Nat := match x with | .next t => (t.ops.find? 2).elim 0 firstElement | _ => 0

/-- Group 1 gives its V(0, 0), which is 0. -/
theorem acceptedElement_mma : acceptedElement (exec (.mma 0 0 0) twinState) = 0 := by decide +kernel

/-- Refutes O22: where two groups are found at a place of the gang, the one that gives the operand is the first found once the issuing
path's record is written, and not the first found before. -/
theorem not_mmaRendezvous : ¬ Obligations.MmaRendezvous := by
  intro h
  obtain ⟨-, -, haccept⟩ := h 0 0 0 twinState lastGroup lastPath twinState_admitted
  have hscales : scalesOk twinState lastGroup (FBlock.of 0) (gangK twinQuad (FBlock.of 0)) := fun hmx => absurd hmx (by decide)
  have hmembers : ∀ en ∈ gangEntries twinQuad.gang, ∃ h, groupAt twinState 0 0 en.1 en.2.1 1 = some h ∧ 8 * en.2.2 + 0 < h.2.budget := by
    have hentries : gangEntries twinQuad.gang = [(0, 0, 0), (0, 1, 0)] := by decide
    rw [hentries, List.forall_mem_cons, List.forall_mem_singleton]
    exact ⟨⟨(2, placeTwin), rfl, by decide⟩, ⟨(3, firstGroup), rfl, by decide⟩⟩
  have hlatch : ∀ x ∈ twinQuad.latch, x.gid ≠ 1 ∧ ∃ h, twinState.group? x.gid = some h ∧ h.place.core = 0 ∧ h.place.quad = 0 ∧ h.ctx = 1 :=
    List.forall_mem_singleton.mpr ⟨by decide, firstGroup, rfl, rfl, rfl, rfl⟩
  obtain ⟨u, op, ar, b, asc, bsc, hexec, -, -, hop, hkind, -, hrows, -⟩ :=
    haccept (by decide) (by decide) (by decide) (by decide) (by decide) hscales hmembers hlatch
  have hrow : (ar.getD 0 []).getD 0 0 = 1 := hrows 0 (0, 0, 0) (2, placeTwin) (by decide) rfl 0 (by decide) 0 (by decide) 0 (by decide)
  have hzero := acceptedElement_mma
  rw [hexec, acceptedElement, show u.ops.find? 2 = some op from hop, Option.elim_some, firstElement, hkind] at hzero
  exact absurd (hrow.symm.trans hzero) (by decide)

end Sys2Proof.Machine
end


section
/-! The SORT instructions (R174 to R182, Table SRT.2). -/

namespace Sys2Proof.Machine
open Sys2Proof.Claims

/-! How naming a tile ends, beyond what a matrix load asks (R139). -/

theorem tileRead_ready {s : State} {core c t : Nat} (hown : tileOwned s core c t = true) (hreg : (s.tile core t).reg = true)
    (hst : (s.tile core t).st = .ready) : tileRead s core c t = .ok := by
  simp [tileRead, hown, Tile.busy, tileState, hreg, hst]

theorem tileRead_unregistered {s : State} {core c t : Nat} (hown : tileOwned s core c t = true) (hbusy : (s.tile core t).busy = false)
    (hreg : (s.tile core t).reg = false) : tileRead s core c t = .trap .engine 0 := by
  simp [tileRead, hown, hbusy, tileState, hreg]

theorem tileRead_busy {s : State} {core c t : Nat} (hown : tileOwned s core c t = true) (hbusy : (s.tile core t).busy = true) :
    tileRead s core c t = .wait := by
  simp [tileRead, hown, hbusy]

theorem tileState_inbound_empty {x : Tile} (hreg : x.reg = true) (hst : x.st = .empty) : tileState x true = .ok := by
  simp [tileState, hreg, hst]

theorem tileState_inbound_engine {x : Tile} (h : x.reg = false ∨ x.st = .ready) : tileState x true = .trap .engine 0 := by
  rcases h with h | h <;> simp [tileState, h]

/-! The descriptor of a load or a store (R177, R179). -/

section
variable {s : State} {g : Group} {d : Nat}

theorem sortDesc_align (hoff : d / 2 ^ 8 % 2 ^ 24 % 32 ≠ 0) : sortDesc s d g = some (.align, 0) := if_pos hoff

theorem sortDesc_padbound (hoff : d / 2 ^ 8 % 2 ^ 24 % 32 = 0) (hown : tileOwned s g.place.core g.ctx (d % 256) = false) :
    sortDesc s d g = some (.padbound, d % 256) := by
  have htile : fld d 0 8 = d % 256 := fld_low d 8
  refine (if_neg (not_not.mpr hoff)).trans ?_
  rw [htile, hown]
  rfl

theorem sortDesc_none (hoff : d / 2 ^ 8 % 2 ^ 24 % 32 = 0) (hown : tileOwned s g.place.core g.ctx (d % 256) = true) : sortDesc s d g = none := by
  have htile : fld d 0 8 = d % 256 := fld_low d 8
  refine (if_neg (not_not.mpr hoff)).trans ?_
  rw [htile, hown]
  rfl

end

/-! The owner's check, the descriptor's, and the waits, which come before what a SORT instruction does (R174, R175; log 80). -/

section
variable {s : State} {g : Group} {p : Path} {rd : List RegN} {early : Group → Option (Cause × Nat)} {k : Group → Path → SortArr → State → State}
  (h : Admitted { acc := {}, rd := rd } s g p)
include h

theorem sortInstr_foreign (ho : Ordinary g) (hmine : ¬sortMine s g) : sortInstr rd s early k = .next (trapsBefore s g p .sortstate 0 s) :=
  gated_trapsBefore h rfl ho _ _ _ rfl rfl fun _ => if_pos hmine

variable (hmine : sortMine s g)
include hmine

theorem sortInstr_early (ho : Ordinary g) {c : Cause} {n : Nat} (he : early g = some (c, n)) :
    sortInstr rd s early k = .next (trapsBefore s g p c n s) :=
  gated_trapsBefore h rfl ho _ _ _ rfl rfl fun _ => (if_neg (not_not.mpr hmine)).trans (by rw [he])

variable (he : early g = none)
include he

theorem sortInstr_waits (hw : sortWaits s g.place.core p = true) : sortInstr rd s early k = .next (waitsOn s g p .sort s) :=
  gated_waits h rfl _ _ rfl rfl fun _ => (if_neg (not_not.mpr hmine)).trans (by rw [he]; exact if_pos hw)

theorem sortInstr_runs (hw : sortWaits s g.place.core p = false) :
    sortInstr rd s early k = .next (issued true s p (k g p (s.core g.place.core).sort)) := by
  refine (gated_admitted h _).trans (congrArg _ (congrArg (issued true s p) (funext fun s1 => (if_neg (not_not.mpr hmine)).trans ?_)))
  rw [he]
  exact if_neg (ne_true_of_eq_false hw)

end

theorem modSort_congr {s : State} {core : Nat} {f f' : SortArr → SortArr} (h : f (s.core core).sort = f' (s.core core).sort) :
    s.modSort core f = s.modSort core f' := by
  have hcore : { s.core core with sort := f (s.core core).sort } = { s.core core with sort := f' (s.core core).sort } := by rw [h]
  exact congrArg (fun k => { s with cores := s.cores.put core k }) hcore

section
variable {s : State} {g : Group} {p : Path} {a k : Nat}

/-! sxld and sxst (R177, R179). -/

/-- What sxld does once its tile can be read. -/
def sxldStarts (s : State) (g : Group) (d k : Nat) (s2 : State) : State :=
  if 4096 * (s.tile g.place.core (d % 256)).count < d / 2 ^ 8 % 2 ^ 24 + 1024 * recordBytes k then trapAt .engine 0 s2
  else advance { (s2.modTile g.place.core (d % 256) fun y => { y with held := y.held + 1 }).modSort g.place.core fun y =>
    { y with st := .loading, cells := [], phase := 0, step := 0, kf := k, gid := s.iss.gid, slot := s.iss.slot, tile := d % 256, off := d / 2 ^ 8 % 2 ^ 24,
             op := s2.nextId, stopReq := false, paused := false } with nextId := s2.nextId + 1 }

/-- What sxst does with a sorted array of format `kf`, once its tile can be filled. -/
def sxstStarts (s : State) (g : Group) (d k kf : Nat) (s2 : State) : State :=
  if 4096 * (s.tile g.place.core (d % 256)).count < d / 2 ^ 8 % 2 ^ 24 + 1024 * recordBytes kf then trapAt .engine 0 s2
  else advance { (s2.modTile g.place.core (d % 256) fun y => { y with st := .filling }).modSort g.place.core fun y =>
    { y with st := .storing, gid := s.iss.gid, slot := s.iss.slot, tile := d % 256, off := d / 2 ^ 8 % 2 ^ 24, k := k, op := s2.nextId }
    with nextId := s2.nextId + 1 }

/-- What each of them does past its waits. -/
def sxldActs (s : State) (a k : Nat) (g : Group) (_ : Path) (_ : SortArr) : State → State :=
  let d := (rS g a).toNat
  (tileRead s g.place.core g.ctx (d % 256)).then (d % 256) false (sxldStarts s g d k)

def sxstActs (s : State) (a k : Nat) (g : Group) (_ : Path) (x : SortArr) (s1 : State) : State :=
  let d := (rS g a).toNat
  let tl := s.tile g.place.core (d % 256)
  if x.st ≠ .sorted then trapAt .sortstate 0 s1
  else if tl.busy then waitOn (.tile (d % 256) false false) s1
  else (tileState tl true).then (d % 256) false (sxstStarts s g d k x.kf) s1

theorem exec_sxld (s : State) (a k : Nat) :
    exec (.sxld a k) s = sortInstr (sR [a]) s (fun g => sortDesc s (rS g a).toNat g) (sxldActs s a k) := by
  change execSxld a k s = _
  simp only [execSxld, fld_low]
  rfl

theorem exec_sxst (s : State) (a k : Nat) :
    exec (.sxst a k) s = sortInstr (sR [a]) s (fun g => sortDesc s (rS g a).toNat g) (sxstActs s a k) := by
  change execSxst a k s = _
  simp only [execSxst, fld_low]
  rfl

/-- Both have one descriptor, which is checked before they wait. -/
theorem exec_transfer {i : Instr} (hi : i = .sxld a k ∨ i = .sxst a k) :
    ∃ f, exec i s = sortInstr (sR [a]) s (fun g => sortDesc s (rS g a).toNat g) f :=
  hi.elim (fun h => ⟨_, h ▸ exec_sxld s a k⟩) fun h => ⟨_, h ▸ exec_sxst s a k⟩

section
variable (h : Admitted { acc := {}, rd := sR [a] } s g p) (hmine : sortMine s g) (hoff : (rS g a).toNat / 2 ^ 8 % 2 ^ 24 % 32 = 0)
  (hown : tileOwned s g.place.core g.ctx ((rS g a).toNat % 256) = true) (hw : sortWaits s g.place.core p = false)
include h hmine hoff hown hw

theorem sxld_runs : exec (.sxld a k) s = .next (issued true s p (sxldActs s a k g p (s.core g.place.core).sort)) :=
  (exec_sxld s a k).trans (sortInstr_runs h hmine (sortDesc_none hoff hown) hw)

theorem sxst_runs : exec (.sxst a k) s = .next (issued true s p (sxstActs s a k g p (s.core g.place.core).sort)) :=
  (exec_sxst s a k).trans (sortInstr_runs h hmine (sortDesc_none hoff hown) hw)

/-- An array that is not sorted cannot be stored. -/
theorem sxst_unsorted (ho : Ordinary g) (hst : (s.core g.place.core).sort.st ≠ .sorted) :
    exec (.sxst a k) s = .next (trapsBefore s g p .sortstate 0 s) :=
  (sxst_runs h hmine hoff hown hw).trans (congrArg _ (trapsBefore_of h.toIssuing ho _ _ _ rfl rfl fun _ => if_pos hst))

variable (hsorted : (s.core g.place.core).sort.st = .sorted)
include hsorted

theorem sxst_waits (hbusy : (s.tile g.place.core ((rS g a).toNat % 256)).busy = true) :
    exec (.sxst a k) s = .next (waitsOn s g p (.tile ((rS g a).toNat % 256) false false) s) :=
  (sxst_runs h hmine hoff hown hw).trans (congrArg _ (waitsOn_of h.toIssuing _ _ rfl rfl fun _ =>
    (if_neg (not_not.mpr hsorted)).trans (if_pos hbusy)))

/-- A sorted array is stored to a tile that can be filled. -/
theorem sxst_fills (hbusy : (s.tile g.place.core ((rS g a).toNat % 256)).busy = false) :
    exec (.sxst a k) s = .next (issued true s p ((tileState (s.tile g.place.core ((rS g a).toNat % 256)) true).then ((rS g a).toNat % 256) false
      (sxstStarts s g (rS g a).toNat k (s.core g.place.core).sort.kf))) :=
  (sxst_runs h hmine hoff hown hw).trans (congrArg _ (congrArg (issued true s p) (funext fun _ =>
    (if_neg (not_not.mpr hsorted)).trans (if_neg (ne_true_of_eq_false hbusy)))))

end

/-! sxrun (R178). -/

/-- A run goes on from a phase and a step. -/
def runFrom (s : State) (g : Group) (k ph st : Nat) (s1 : State) : State :=
  advance { s1.modSort g.place.core fun x =>
    { x with st := .running, phase := ph, step := st, dir := k % 2, gid := s.iss.gid, slot := s.iss.slot, op := s1.nextId, stopReq := false, paused := false }
    with nextId := s1.nextId + 1 }

/-- What sxrun does past its waits. -/
def sxrunActs (s : State) (k : Nat) (g : Group) (_ : Path) (x : SortArr) (s1 : State) : State :=
  if x.st = .loaded ∨ x.st = .sorted then runFrom s g k 0 0 s1
  else if x.st = .stopped ∧ k % 2 = x.dir then runFrom s g k x.phase x.step s1 else trapAt .sortstate 0 s1

theorem exec_sxrun (s : State) (k : Nat) : exec (.sxrun k) s = sortInstr [] s (fun _ => none) (sxrunActs s k) := by
  change execSxrun k s = _
  unfold execSxrun
  refine congrArg (sortInstr [] s fun _ => none) (funext fun g => funext fun p => funext fun x => funext fun s1 => ?_)
  unfold sxrunActs
  split
  · next hst => exact (if_pos (.inl hst)).symm
  · next hst => exact (if_pos (.inr hst)).symm
  · next hst =>
    have hnew : ¬(x.st = .loaded ∨ x.st = .sorted) := by simp [hst]
    rw [if_neg hnew]
    exact if_congr (and_iff_right hst).symm rfl rfl
  · next hloaded hsorted hstopped =>
    exact ((if_neg (not_or.mpr ⟨hloaded, hsorted⟩)).trans (if_neg fun h => hstopped h.1)).symm

section
variable (h : Admitted { acc := {} } s g p)
include h

theorem sxrun_foreign (ho : Ordinary g) (hmine : ¬sortMine s g) : exec (.sxrun k) s = .next (trapsBefore s g p .sortstate 0 s) :=
  (exec_sxrun s k).trans (sortInstr_foreign h ho hmine)

variable (hmine : sortMine s g)
include hmine

theorem sxrun_waits (hw : sortWaits s g.place.core p = true) : exec (.sxrun k) s = .next (waitsOn s g p .sort s) :=
  (exec_sxrun s k).trans (sortInstr_waits h hmine rfl hw)

variable (hw : sortWaits s g.place.core p = false)
include hw

theorem sxrun_runs : exec (.sxrun k) s = .next (issued true s p (sxrunActs s k g p (s.core g.place.core).sort)) :=
  (exec_sxrun s k).trans (sortInstr_runs h hmine rfl hw)

/-- A loaded or sorted array begins a run. -/
theorem sxrun_begins (hst : (s.core g.place.core).sort.st = .loaded ∨ (s.core g.place.core).sort.st = .sorted) :
    exec (.sxrun k) s = .next (goesOn s g p { s.modSort g.place.core fun y =>
      { y with st := .running, phase := 0, step := 0, dir := k % 2, gid := s.iss.gid, slot := s.iss.slot, op := s.nextId, stopReq := false, paused := false }
      with nextId := s.nextId + 1 }) :=
  (sxrun_runs h hmine hw).trans (congrArg _ (goesOn_of h.toIssuing _ rfl rfl fun _ => if_pos hst))

/-- A stopped one goes on where it stopped, in its own direction. -/
theorem sxrun_resumes (hst : (s.core g.place.core).sort.st = .stopped) (hdir : (s.core g.place.core).sort.dir = k % 2) :
    exec (.sxrun k) s = .next (goesOn s g p { s.modSort g.place.core fun y =>
      { y with st := .running, gid := s.iss.gid, slot := s.iss.slot, op := s.nextId, stopReq := false, paused := false } with nextId := s.nextId + 1 }) := by
  refine (sxrun_runs h hmine hw).trans (congrArg _ (goesOn_of h.toIssuing _ rfl rfl fun G => ?_))
  refine (if_neg (by simp [hst])).trans ((if_pos ⟨hst, hdir.symm⟩).trans ?_)
  have hsame := modSort_congr (s := regrouped s G) (core := g.place.core)
    (f := fun y => { y with st := .running, phase := (s.core g.place.core).sort.phase, step := (s.core g.place.core).sort.step, dir := k % 2,
                            gid := s.iss.gid, slot := s.iss.slot, op := s.nextId, stopReq := false, paused := false })
    (f' := fun y => { y with st := .running, gid := s.iss.gid, slot := s.iss.slot, op := s.nextId, stopReq := false, paused := false })
    (by rw [← hdir]; rfl)
  exact congrArg (fun u : State => advance { u with nextId := s.nextId + 1 }) hsame

/-- An idle one has nothing to run, and a stopped one no run of another direction. -/
theorem sxrun_traps (ho : Ordinary g) (hst : (s.core g.place.core).sort.st = .idle ∨
    ((s.core g.place.core).sort.st = .stopped ∧ (s.core g.place.core).sort.dir ≠ k % 2)) :
    exec (.sxrun k) s = .next (trapsBefore s g p .sortstate 0 s) := by
  refine (sxrun_runs h hmine hw).trans (congrArg _ (trapsBefore_of h.toIssuing ho _ _ _ rfl rfl fun G => ?_))
  obtain hst | ⟨hst, hdir⟩ := hst
  · exact (if_neg (by simp [hst])).trans (if_neg (by simp [hst]))
  · exact (if_neg (by simp [hst])).trans (if_neg fun hrun => hdir hrun.2.symm)

end

/-! sxabort (R182) and sxstat (R181). -/

section
variable (h : Admitted { acc := {} } s g p)
include h

theorem sxabort_foreign (ho : Ordinary g) (hmine : ¬sortMine s g) : exec (.sxabort k) s = .next (trapsBefore s g p .sortstate 0 s) :=
  gated_trapsBefore h rfl ho _ _ _ rfl rfl fun _ => if_pos hmine

variable (hmine : sortMine s g)
include hmine

/-- A pause asks a run to stop, and does not wait. -/
theorem sxabort_pauses : exec (.sxabort 0) s = .next (goesOn s g p
    (if (s.core g.place.core).sort.st = .running then s.modSort g.place.core fun y => { y with stopReq := true } else s)) := by
  refine gated_goesOn h rfl _ (by split_ifs <;> rfl) (by split_ifs <;> rfl) fun G => (if_neg (not_not.mpr hmine)).trans ((if_pos rfl).trans ?_)
  split_ifs <;> rfl

theorem sxabort_discards (hw : sortWaits s g.place.core p = false) :
    exec (.sxabort 1) s = .next (goesOn s g p (s.modSort g.place.core SortArr.clear)) :=
  gated_goesOn h rfl _ rfl rfl fun _ => (if_neg (not_not.mpr hmine)).trans ((if_neg one_ne_zero).trans (if_neg (ne_true_of_eq_false hw)))

theorem sxabort_waits (hw : sortWaits s g.place.core p = true) : exec (.sxabort 1) s = .next (waitsOn s g p .sort s) :=
  gated_waits h rfl _ _ rfl rfl fun _ => (if_neg (not_not.mpr hmine)).trans ((if_neg one_ne_zero).trans (if_pos hw))

end

/-- Table SRT.4. -/
theorem sxstat_answers (h : Admitted { acc := {}, wr := sR [a] } s g p) :
    let c := s.core g.place.core
    exec (.sxstat a) s = .next (goesOn s g p (wrote (.s a (BitVec.ofNat 64
      (if (s.quad (4 * g.place.core + c.sortq)).owner = g.ctx then
        c.sort.phase * 2 ^ 24 + c.sort.step * 2 ^ 19 + c.sort.kf * 2 ^ 16 + c.sort.dir * 2 ^ 15 + c.sortq * 2 ^ 10 +
          (if c.sortq = g.place.quad then 2 ^ 9 else 0) + c.sort.st.code
      else c.sortq * 2 ^ 10))) s)) := by
  refine gated_writes h rfl _ _ rfl rfl fun G => ?_
  simp only [decide_eq_true_eq]
  rfl

end

/-- Settles O27: the owner's check, the descriptor's and the waits by `sortInstr`, then each instruction by the states of the array and its tile. -/
theorem sortInstructions : Obligations.SortInstructions := by
  intro a k s g p core x d t off tl ad ar sorts
  have hloads {c : Cause} {n : Nat} {use : TileUse} (h : ad) (hmine : sortMine s g) (hoff : off % 32 = 0) (hown : tileOwned s core g.ctx t = true)
      (hw : sortWaits s core p = false) (ho : Ordinary g) (huse : tileRead s core g.ctx t = use)
      (ht : ∀ G, use.then t false (sxldStarts s g d k) (regrouped s G) = trapAt c n (regrouped s G)) :
      exec (.sxld a k) s = .next (trapsBefore s g p c n s) := by
    rw [sxld_runs h hmine hoff hown hw, sxldActs, huse]
    exact congrArg _ (trapsBefore_of h.toIssuing ho _ _ _ rfl rfl ht)
  have hstores {use : TileUse} (h : ad) (hmine : sortMine s g) (hoff : off % 32 = 0) (hown : tileOwned s core g.ctx t = true)
      (hw : sortWaits s core p = false) (ho : Ordinary g) (hsorted : x.st = .sorted) (hbusy : tl.busy = false) (huse : tileState tl true = use)
      (ht : ∀ G, use.then t false (sxstStarts s g d k x.kf) (regrouped s G) = trapAt .engine 0 (regrouped s G)) :
      exec (.sxst a k) s = .next (trapsBefore s g p .engine 0 s) := by
    rw [sxst_fills h hmine hoff hown hw hsorted hbusy, huse]
    exact congrArg _ (trapsBefore_of h.toIssuing ho _ _ _ rfl rfl ht)
  refine ⟨fun h hmine hoff hread hw hfit => ?load,
    fun h hmine hw => ⟨sxrun_begins h hmine hw, sxrun_resumes h hmine hw, sxrun_traps h hmine hw⟩,
    fun h hmine hoff hown hw => ⟨fun hsorted hreg hst hfit => ?store, sxst_unsorted h hmine hoff hown hw, fun ho hsorted hbusy htile => ?storeEngine,
      sxst_waits h hmine hoff hown hw⟩,
    fun h hmine hoff hown hw => ⟨fun ho hbusy hreg hst => ?loadEmpty, fun ho hbusy htile => ?loadEngine, fun hbusy => ?loadWaits⟩,
    fun h ho i hi => ?corners,
    fun h hmine => ⟨sxabort_pauses h hmine, sxabort_discards h hmine, fun hw => ⟨sxrun_waits h hmine hw, sxabort_waits h hmine hw⟩⟩,
    fun h ho hmine => ⟨sxrun_foreign h ho hmine, sxabort_foreign h ho hmine⟩, sxstat_answers⟩
  case load =>
    have hown : tileOwned s core g.ctx t = true := by
      by_contra hno
      rw [tileRead_foreign (Bool.eq_false_iff.mpr hno)] at hread
      cases hread
    rw [sxld_runs h hmine hoff hown hw, sxldActs, hread]
    exact congrArg _ (goesOn_of h.toIssuing _ rfl rfl fun _ => if_neg hfit.not_gt)
  case store =>
    have hbusy : tl.busy = false := by simp [Tile.busy, hst]
    rw [sxst_fills h hmine hoff hown hw hsorted hbusy, tileState_inbound_empty hreg hst]
    exact congrArg _ (goesOn_of h.toIssuing _ rfl rfl fun _ => if_neg hfit.not_gt)
  case storeEngine =>
    by_cases hengine : tl.reg = false ∨ tl.st = .ready
    · exact hstores h hmine hoff hown hw ho hsorted hbusy (tileState_inbound_engine hengine) fun _ => rfl
    · obtain ⟨hreg, hready⟩ := not_or.mp hengine
      obtain ⟨hst, hlong⟩ := (htile.resolve_left hreg).resolve_left hready
      exact hstores h hmine hoff hown hw ho hsorted hbusy (tileState_inbound_empty (Bool.eq_true_of_not_eq_false hreg) hst) fun _ => if_pos hlong
  case loadEmpty => exact hloads h hmine hoff hown hw ho (tileRead_empty hown hreg hst) fun _ => rfl
  case loadEngine =>
    by_cases hreg : tl.reg = false
    · exact hloads h hmine hoff hown hw ho (tileRead_unregistered hown hbusy hreg) fun _ => rfl
    · obtain ⟨hst, hlong⟩ := htile.resolve_left hreg
      exact hloads h hmine hoff hown hw ho (tileRead_ready hown (Bool.eq_true_of_not_eq_false hreg) hst) fun _ => if_pos hlong
  case loadWaits =>
    rw [sxld_runs h hmine hoff hown hw, sxldActs, tileRead_busy hown hbusy]
    exact congrArg _ (waitsOn_of h.toIssuing _ _ rfl rfl fun _ => rfl)
  case corners =>
    obtain ⟨f, hexec⟩ := exec_transfer (s := s) hi
    rw [hexec]
    exact ⟨sortInstr_foreign h ho, fun hmine hoff => sortInstr_early h hmine ho (sortDesc_align hoff),
      fun hmine hoff hown => sortInstr_early h hmine ho (sortDesc_padbound hoff hown),
      fun hmine hoff hown => sortInstr_waits h hmine (sortDesc_none hoff hown)⟩

end Sys2Proof.Machine
end


section
/-! One step of shearsort (R171, R172). -/

namespace Sys2Proof.Machine
open Sys2Proof.Claims

/-! The order of keys (R171, Table SRT.1): the rank of a key is its place in the order, moved so that it is not negative. -/

theorem xor_two_pow_of_lt {n x : Nat} (h : x < 2 ^ n) : x ^^^ 2 ^ n = x + 2 ^ n := by
  refine Nat.eq_of_testBit_eq fun j => ?_
  rw [Nat.testBit_xor, Nat.testBit_two_pow, Nat.add_comm]
  rcases lt_trichotomy j n with hj | rfl | hj
  · rw [Nat.testBit_two_pow_add_gt hj]; simp [hj.ne']
  · rw [Nat.testBit_two_pow_add_eq]; simp
  · have hx : x.testBit j = false := Nat.testBit_lt_two_pow (h.trans (Nat.pow_lt_pow_right one_lt_two hj))
    have hsum : 2 ^ n + x < 2 ^ j := by
      have := Nat.pow_le_pow_right two_pos hj
      rw [pow_succ] at this
      omega
    rw [Nat.testBit_lt_two_pow hsum, hx]
    simp [hj.ne]

theorem xor_two_pow_of_le {n x : Nat} (hle : 2 ^ n ≤ x) (h : x < 2 ^ (n + 1)) : x ^^^ 2 ^ n = x - 2 ^ n := by
  have hlow : x - 2 ^ n < 2 ^ n := by rw [pow_succ] at h; omega
  calc x ^^^ 2 ^ n = ((x - 2 ^ n) + 2 ^ n) ^^^ 2 ^ n := by rw [Nat.sub_add_cancel hle]
    _ = x - 2 ^ n := by rw [← xor_two_pow_of_lt hlow, Nat.xor_xor_cancel_right]

theorem xor_ones {n x : Nat} (h : x < 2 ^ n) : x ^^^ (2 ^ n - 1) = 2 ^ n - 1 - x := by
  have hnot := congrArg BitVec.toNat (BitVec.xor_allOnes (x := BitVec.ofNat n x))
  rwa [BitVec.toNat_xor, BitVec.toNat_not, BitVec.toNat_allOnes, BitVec.toNat_ofNat, Nat.mod_eq_of_lt h] at hnot

/-- The place of the least key of a format below 0. -/
def keyBias (kf : Nat) : Nat := if kf = 0 ∨ kf = 2 then 2 ^ 31 else if kf = 3 ∨ kf = 4 then 2 ^ 15 else 0

theorem signedRank {x : Nat} (h : x < 2 ^ 32) : ((x ^^^ 2 ^ 31 : Nat) : Int) = toI 32 x + 2 ^ 31 := by
  unfold toI
  by_cases hx : x < 2 ^ 31
  · rw [xor_two_pow_of_lt hx]; split_ifs <;> omega
  · rw [xor_two_pow_of_le (Nat.le_of_not_lt hx) h]; split_ifs <;> omega

theorem floatRank {n x : Nat} (h : x < 2 ^ (n + 1)) :
    ((if fld x n 1 = 1 then x ^^^ (2 ^ (n + 1) - 1) else x ^^^ 2 ^ n : Nat) : Int) =
      (if x / 2 ^ n % 2 = 1 then -((x % 2 ^ n : Nat) : Int) - 1 else (x : Int)) + (2 ^ n : Nat) := by
  have hbit : fld x n 1 = x / 2 ^ n % 2 := rfl
  have hdiv : x / 2 ^ n < 2 := Nat.div_lt_of_lt_mul (by rwa [← pow_succ])
  have hsplit := Nat.div_add_mod x (2 ^ n)
  have hlow := Nat.mod_lt x (Nat.two_pow_pos n)
  have hmod : x / 2 ^ n % 2 = x / 2 ^ n := Nat.mod_eq_of_lt hdiv
  rw [hbit, hmod]
  obtain hx | hx := Nat.le_one_iff_eq_zero_or_eq_one.mp (Nat.le_of_lt_succ hdiv)
  · rw [hx, mul_zero, zero_add] at hsplit
    rw [hx, if_neg zero_ne_one, if_neg zero_ne_one, xor_two_pow_of_lt (hsplit ▸ hlow)]
    exact Nat.cast_add _ _
  · rw [hx, mul_one] at hsplit
    rw [hx, if_pos rfl, if_pos rfl, xor_ones h]
    have hpow : 2 ^ (n + 1) = 2 * 2 ^ n := pow_succ' 2 n
    omega

theorem rank_eq {kf x : Nat} (h : x < 2 ^ keyBits kf) : (rank kf x : Int) = keyOrder kf x + keyBias kf :=
  match kf with
  | 0 => signedRank h
  | 1 => (add_zero _).symm
  | 2 => floatRank (n := 31) h
  | 3 => floatRank (n := 15) h
  | 4 => floatRank (n := 15) h
  | _ + 5 => (add_zero _).symm

theorem cellBefore_iff {kf dir : Nat} {p q : Cell} (hp : p.key < 2 ^ keyBits kf) (hq : q.key < 2 ^ keyBits kf) :
    cellBefore kf dir p q = true ↔ comesBefore kf dir p q := by
  have hrp := rank_eq hp
  have hrq := rank_eq hq
  unfold cellBefore comesBefore
  by_cases hne : rank kf p.key = rank kf q.key
  · rw [if_neg (not_not.mpr hne), decide_eq_true_eq]
    split_ifs <;> omega
  · rw [if_pos hne]
    split_ifs <;> rw [decide_eq_true_eq] <;> omega

/-! The pairs of a step (R172), by the places of their cells. -/

/-- The place of a cell along the rows in a row phase, along the columns in a column phase. -/
def along (ph i : Nat) : Nat := if ph % 2 = 0 then i % 32 else i / 32

/-- How far apart the cells of a pair are. -/
def stride (ph : Nat) : Nat := if ph % 2 = 0 then 1 else 32

/-- The cell is the first of a pair. -/
abbrev pairHead (ph st i : Nat) : Prop := along ph i % 2 = st % 2 ∧ along ph i ≤ 30

/-- The cell is the second of a pair. -/
abbrev pairTail (ph st i : Nat) : Prop := along ph i % 2 ≠ st % 2 ∧ 1 ≤ along ph i

/-- The pair whose first cell is `i` is exchanged: in odd rows of a row phase it is in order when reversed. -/
def pairSwaps (kf dir ph : Nat) (cells : List Cell) (i : Nat) : Bool :=
  if ph % 2 = 0 ∧ i / 32 % 2 = 1 then cellBefore kf dir (cellAt cells i) (cellAt cells (i + stride ph))
  else cellBefore kf dir (cellAt cells (i + stride ph)) (cellAt cells i)

/-- The cell whose record comes to cell `i`. -/
def source (kf dir ph st : Nat) (cells : List Cell) (i : Nat) : Nat :=
  if pairHead ph st i then (if pairSwaps kf dir ph cells i then i + stride ph else i)
  else if pairTail ph st i then (if pairSwaps kf dir ph cells (i - stride ph) then i - stride ph else i) else i

section
variable {kf dir ph st i : Nat} {cells : List Cell}

theorem sortStep_eq (kf dir ph st : Nat) (cells : List Cell) :
    sortStep kf dir ph st cells = (List.range 1024).map fun i => cellAt cells (source kf dir ph st cells i) := by
  refine List.map_congr_left fun i hi => ?_
  have hat (j : Nat) : cells.toArray.getD j { key := 0, pay := 0, pos := 0 } = cellAt cells j := by simp [cellAt]
  simp only [hat, source, pairHead, pairTail, pairSwaps, along, stride]
  by_cases hph : ph % 2 = 0
  · have hrow : i % 32 ≠ 0 → (i - 1) / 32 = i / 32 := by omega
    have hback : i % 32 ≠ 0 → i - 1 + 1 = i := by omega
    by_cases hpar : i % 32 % 2 = st % 2
    · simp only [hph, hpar, if_true, true_and, ne_eq, not_true_eq_false, false_and, if_false]
      by_cases hend : i % 32 ≤ 30
      · by_cases hodd : i / 32 % 2 = 1 <;> simp [hend, hodd, apply_ite (cellAt cells)]
      · simp [hend]
    · simp only [hph, hpar, if_true, true_and, ne_eq, not_false_eq_true, false_and, if_false]
      by_cases hend : 1 ≤ i % 32
      · have h1 := hrow (by omega)
        have h2 := hback (by omega)
        by_cases hodd : i / 32 % 2 = 1 <;> simp [hend, hodd, h1, h2, apply_ite (cellAt cells)]
      · simp [hend]
  · by_cases hpar : i / 32 % 2 = st % 2
    · simp only [hph, hpar, if_true, true_and, ne_eq, not_true_eq_false, false_and, if_false]
      by_cases hend : i / 32 ≤ 30 <;> simp [hend, apply_ite (cellAt cells)]
    · simp only [hph, hpar, true_and, ne_eq, not_false_eq_true, false_and, if_false]
      by_cases hend : 1 ≤ i / 32
      · have h2 : i - 32 + 32 = i := by omega
        simp [hend, h2, apply_ite (cellAt cells)]
      · simp [hend]

theorem pairTail_of_head (hi : i < 1024) (h : pairHead ph st i) :
    i + stride ph < 1024 ∧ ¬pairHead ph st (i + stride ph) ∧ pairTail ph st (i + stride ph) := by
  unfold pairHead pairTail along stride at *
  split_ifs at * <;> omega

theorem pairHead_of_tail (hi : i < 1024) (h : pairTail ph st i) : stride ph ≤ i ∧ pairHead ph st (i - stride ph) := by
  unfold pairHead pairTail along stride at *
  split_ifs at * <;> omega


/-! The cells of a pair: their records go to each other, or stay. -/

theorem source_head (h : pairHead ph st i) : source kf dir ph st cells i = if pairSwaps kf dir ph cells i then i + stride ph else i := if_pos h

theorem source_tail (hi : i < 1024) (h : pairHead ph st i) :
    source kf dir ph st cells (i + stride ph) = if pairSwaps kf dir ph cells i then i else i + stride ph := by
  obtain ⟨-, hnot, htail⟩ := pairTail_of_head hi h
  rw [source, if_neg hnot, if_pos htail, Nat.add_sub_cancel]

theorem source_alone (hhead : ¬pairHead ph st i) (htail : ¬pairTail ph st i) : source kf dir ph st cells i = i :=
  (if_neg hhead).trans (if_neg htail)

/-- A cell is the first of a pair, the second of one, or alone. -/
theorem pair_cases (hi : i < 1024) :
    pairHead ph st i ∨ (∃ j, j < 1024 ∧ pairHead ph st j ∧ i = j + stride ph) ∨ (¬pairHead ph st i ∧ ¬pairTail ph st i) := by
  by_cases hhead : pairHead ph st i
  · exact .inl hhead
  · by_cases htail : pairTail ph st i
    · obtain ⟨hle, hj⟩ := pairHead_of_tail hi htail
      exact .inr (.inl ⟨i - stride ph, by omega, hj, (Nat.sub_add_cancel hle).symm⟩)
    · exact .inr (.inr ⟨hhead, htail⟩)

/-- Records are exchanged between cells of the array. -/
theorem source_involutive (hi : i < 1024) :
    source kf dir ph st cells i < 1024 ∧ source kf dir ph st cells (source kf dir ph st cells i) = i := by
  obtain h | ⟨j, hj, h, rfl⟩ | ⟨hhead, htail⟩ := pair_cases (ph := ph) (st := st) hi
  · by_cases hs : pairSwaps kf dir ph cells i
    · simp only [source_head h, source_tail hi h, if_pos hs]
      exact ⟨(pairTail_of_head hi h).1, trivial⟩
    · simp only [source_head h, if_neg hs]
      exact ⟨hi, trivial⟩
  · by_cases hs : pairSwaps kf dir ph cells j
    · simp only [source_tail hj h, source_head h, if_pos hs]
      exact ⟨hj, trivial⟩
    · simp only [source_tail hj h, if_neg hs]
      exact ⟨hi, trivial⟩
  · simp only [source_alone hhead htail]
    exact ⟨hi, trivial⟩

end

theorem perm_map_range {n : Nat} {f : Nat → Nat} (h : ∀ i < n, f i < n ∧ f (f i) = i) : ((List.range n).map f).Perm (List.range n) := by
  have hinj : ((List.range n).map f).Nodup := List.nodup_range.map_on fun x hx y hy he => by
    rw [← (h x (List.mem_range.mp hx)).2, he, (h y (List.mem_range.mp hy)).2]
  refine (List.perm_ext_iff_of_nodup hinj List.nodup_range).mpr fun i => ?_
  rw [List.mem_map, List.mem_range]
  exact ⟨fun ⟨j, hj, he⟩ => he ▸ (h j (List.mem_range.mp hj)).1, fun hi => ⟨f i, List.mem_range.mpr (h i hi).1, (h i hi).2⟩⟩

theorem map_cellAt_range {cells : List Cell} : (List.range cells.length).map (cellAt cells) = cells :=
  List.ext_getElem (by simp) fun i _ hi => by simp [cellAt, hi]

section
variable {kf dir ph st i : Nat} {cells : List Cell}

theorem cellAt_sortStep (hi : i < 1024) : cellAt (sortStep kf dir ph st cells) i = cellAt cells (source kf dir ph st cells i) := by
  rw [sortStep_eq, cellAt, List.getD_eq_getElem _ _ (by simpa using hi)]
  simp

/-- The records are only exchanged. -/
theorem sortStep_perm (hlen : cells.length = 1024) : (sortStep kf dir ph st cells).Perm cells := by
  have hmap : sortStep kf dir ph st cells = ((List.range 1024).map (source kf dir ph st cells)).map (cellAt cells) := by
    rw [sortStep_eq, List.map_map]; rfl
  have hperm := (perm_map_range fun i hi => source_involutive (kf := kf) (dir := dir) (ph := ph) (st := st) (cells := cells) hi).map (cellAt cells)
  rwa [← hmap, ← hlen, map_cellAt_range] at hperm

theorem key_cellAt (hkeys : ∀ c ∈ cells, c.key < 2 ^ keyBits kf) : (cellAt cells i).key < 2 ^ keyBits kf := by
  unfold cellAt
  by_cases hi : i < cells.length
  · rw [List.getD_eq_getElem _ _ hi]
    exact hkeys _ (List.getElem_mem hi)
  · rw [List.getD_eq_default _ _ (Nat.le_of_not_lt hi)]
    exact Nat.two_pow_pos _

/-- The pair that begins at `i` is put in order, forwards or, in an odd row, backwards. -/
theorem pair_exchanged (hkeys : ∀ c ∈ cells, c.key < 2 ^ keyBits kf) (hi : i < 1024) (h : pairHead ph st i) :
    (¬(ph % 2 = 0 ∧ i / 32 % 2 = 1) → exchanged kf dir cells (sortStep kf dir ph st cells) i (i + stride ph)) ∧
      (ph % 2 = 0 ∧ i / 32 % 2 = 1 → exchanged kf dir cells (sortStep kf dir ph st cells) (i + stride ph) i) := by
  obtain ⟨htail, -, -⟩ := pairTail_of_head hi h
  have hiff := fun j k => cellBefore_iff (kf := kf) (dir := dir) (key_cellAt (i := j) hkeys) (key_cellAt (i := k) hkeys)
  unfold exchanged
  rw [cellAt_sortStep hi, cellAt_sortStep htail, source_head h, source_tail hi h, ← hiff, ← hiff]
  refine ⟨fun hrow => ⟨fun hb => ?_, fun hb => ?_⟩, fun hrow => ⟨fun hb => ?_, fun hb => ?_⟩⟩
  all_goals simp [pairSwaps, hrow, hb]

/-- A cell alone keeps its record. -/
theorem alone_kept (hi : i < 1024) (hhead : ¬pairHead ph st i) (htail : ¬pairTail ph st i) :
    cellAt (sortStep kf dir ph st cells) i = cellAt cells i := by
  rw [cellAt_sortStep hi, source_alone hhead htail]

end

/-- A step puts each of its pairs in order; a cell of no pair keeps its record. -/
theorem shearsortStep : Claims.ShearsortStep := by
  intro kf dir ph st cells hlen hkeys new
  refine ⟨by simp [new, sortStep], sortStep_perm hlen, fun hph r hr => ⟨fun c hc hpar => ?rowPairs, fun hst => ⟨?rowFirst, ?rowLast⟩⟩,
    fun hph c hc => ⟨fun r hr hpar => ?columnPairs, fun hst => ⟨?columnFirst, ?columnLast⟩⟩⟩
  case rowPairs =>
    have halong : (32 * r + c) % 32 = c ∧ (32 * r + c) / 32 = r := by omega
    have hpair := pair_exchanged (dir := dir) (ph := ph) (st := st) (i := 32 * r + c) hkeys (by omega)
      (by simp only [pairHead, along, hph, if_true, halong]; exact ⟨hpar, hc⟩)
    rw [halong.2, stride, if_pos hph] at hpair
    split_ifs with hodd
    · exact hpair.2 ⟨hph, hodd⟩
    · exact hpair.1 fun h => hodd h.2
  case columnPairs =>
    have halong : (32 * r + c) / 32 = r := by omega
    have hpair := pair_exchanged (dir := dir) (ph := ph) (st := st) (i := 32 * r + c) hkeys (by omega)
      (by simp only [pairHead, along, hph, one_ne_zero, if_false, halong]; exact ⟨hpar, hr⟩)
    have hnext : 32 * (r + 1) + c = 32 * r + c + stride ph := by rw [stride, if_neg (by omega)]; ring
    rw [hnext]
    exact hpair.1 (by omega)
  all_goals
    refine alone_kept (by omega) ?_ ?_
    all_goals
      simp only [pairHead, pairTail, along, hph, if_true, one_ne_zero, if_false]
      omega

end Sys2Proof.Machine
end


section
/-! How sort operations end (R169, R170, R172, R177, R179, R182, R183). -/

namespace Sys2Proof.Machine
open Sys2Proof.Claims

/-! Records in the scratchpad (R170). -/

section
variable {α : Type} {f : Nat → List α} {n : Nat} (hlen : ∀ j, (f j).length = n)
include hlen

theorem length_flatMap_range (m : Nat) : ((List.range m).flatMap f).length = n * m := by
  induction m with
  | zero => rfl
  | succ m ih => rw [List.range_succ, List.flatMap_append, List.flatMap_singleton, List.length_append, ih, hlen, Nat.mul_succ]

/-- The elements of blocks of one length, one block after another. -/
theorem getD_flatMap_range (d : α) {m j i : Nat} (hj : j < m) (hi : i < n) : ((List.range m).flatMap f).getD (n * j + i) d = (f j).getD i d := by
  induction m with
  | zero => omega
  | succ m ih =>
    have hbefore := length_flatMap_range hlen m
    rw [List.range_succ, List.flatMap_append, List.flatMap_singleton]
    obtain hlt | rfl := Nat.lt_succ_iff_lt_or_eq.mp hj
    · have hin : n * j + i < n * m := by
        calc n * j + i < n * (j + 1) := by rw [Nat.mul_succ]; omega
          _ ≤ n * m := Nat.mul_le_mul_left n hlt
      rw [List.getD_append _ _ _ _ (by rw [hbefore]; exact hin), ih hlt]
    · rw [List.getD_append_right _ _ _ _ (by rw [hbefore]; omega), hbefore, Nat.add_sub_cancel_left]

end

/-- Bytes that stand in the scratchpad are read as their number. -/
theorem padRd_of_bytes {t : State} {core o n v : Nat} (h : ∀ i < n, padByte t core (o + i) = (bytesLE n v).getD i 0) :
    padRd t core o n = v % 256 ^ n := by
  have hbytes : padBytes t core o n = bytesLE n v :=
    List.ext_getElem (by simp [padBytes]) fun i hi hi' => by
      simp only [padBytes, List.length_map, List.length_range] at hi
      simp only [padBytes, List.getElem_map, List.getElem_range, h i hi, List.getD_eq_getElem _ _ hi']
  rw [padRd, hbytes, ofBytesLE_bytesLE, Nat.pow_mul]

/-- Record `j` of a store: its key, then its payload or its position. -/
def recordBytesOf (x : SortArr) (j : Nat) : List Byte :=
  bytesLE (recSize x.kf / 2) (x.record j).key ++ bytesLE (recSize x.kf / 2) (if x.k = 0 then (x.record j).pay else (x.record j).pos)

theorem recSize_even (kf : Nat) : recSize kf / 2 + recSize kf / 2 = recSize kf := by unfold recSize; split_ifs <;> rfl

theorem length_recordBytesOf (x : SortArr) (j : Nat) : (recordBytesOf x j).length = recSize x.kf := by
  simp [recordBytesOf, recSize_even]

/-- The records of a store are written at their places. -/
theorem stored_records {s t : State} {core base : Nat} {x : SortArr}
    (ht : ∀ b, padByte t core b = padByte (padWr s core base ((List.range 1024).flatMap (recordBytesOf x))) core b) :
    (∀ j < 1024, padRd t core (base + recSize x.kf * j) (recSize x.kf / 2) = (x.record j).key % 256 ^ (recSize x.kf / 2) ∧
      padRd t core (base + recSize x.kf * j + recSize x.kf / 2) (recSize x.kf / 2) =
        (if x.k = 0 then (x.record j).pay else (x.record j).pos) % 256 ^ (recSize x.kf / 2)) ∧
    ∀ b, b < base ∨ base + 1024 * recSize x.kf ≤ b → padByte t core b = padByte s core b := by
  have hlen : ((List.range 1024).flatMap (recordBytesOf x)).length = 1024 * recSize x.kf :=
    (length_flatMap_range (length_recordBytesOf x) 1024).trans (Nat.mul_comm _ _)
  have hhalf := recSize_even x.kf
  have hin {j i : Nat} (hj : j < 1024) (hi : i < recSize x.kf) : padByte t core (base + recSize x.kf * j + i) = (recordBytesOf x j).getD i 0 := by
    have hplace : recSize x.kf * j + i < 1024 * recSize x.kf := by
      calc recSize x.kf * j + i < recSize x.kf * (j + 1) := by rw [Nat.mul_succ]; omega
        _ ≤ recSize x.kf * 1024 := Nat.mul_le_mul_left _ hj
        _ = 1024 * recSize x.kf := Nat.mul_comm _ _
    rw [ht, padByte_padWr, hlen, if_pos (by omega), Nat.add_assoc, Nat.add_sub_cancel_left, getD_flatMap_range (length_recordBytesOf x) _ hj hi]
  refine ⟨fun j hj => ⟨padRd_of_bytes fun i hi => ?_, padRd_of_bytes fun i hi => ?_⟩, fun b hb => ?_⟩
  · rw [hin hj (by omega), recordBytesOf, List.getD_append _ _ _ _ (by simpa using hi)]
  · rw [Nat.add_assoc _ (recSize x.kf / 2) i, hin hj (by omega), recordBytesOf, List.getD_append_right _ _ _ _ (by simp), length_bytesLE,
      Nat.add_sub_cancel_left]
  · rw [ht, padByte_padWr, hlen, if_neg (by omega)]

/-! A core's array and one of its tiles changed together. -/

theorem sort_modSort (s : State) (core : Nat) (f : SortArr → SortArr) : ((s.modSort core f).core core).sort = f (s.core core).sort := by
  rw [State.modSort, core_modCore, if_pos rfl]

theorem core_modSort_ne {s : State} {core j : Nat} (f : SortArr → SortArr) (h : j ≠ core) : (s.modSort core f).core j = s.core j := by
  rw [State.modSort, core_modCore, if_neg h]

theorem tile_modSort (s : State) (core j t : Nat) (f : SortArr → SortArr) : (s.modSort core f).tile j t = s.tile j t := by
  simp only [State.tile, State.modSort, core_modCore]
  split_ifs with h
  · rw [h]
  · rfl

theorem padByte_modSort (s : State) (core j b : Nat) (f : SortArr → SortArr) : padByte (s.modSort core f) j b = padByte s j b := by
  simp only [padByte, State.modSort, core_modCore]
  split_ifs with h
  · rw [h]
  · rfl

theorem sort_modTile (s : State) (core t : Nat) (f : Tile → Tile) : ((s.modTile core t f).core core).sort = (s.core core).sort := by
  rw [State.modTile, core_modCore, if_pos rfl]

theorem core_modTile_ne {s : State} {core j t : Nat} (f : Tile → Tile) (h : j ≠ core) : (s.modTile core t f).core j = s.core j := by
  rw [State.modTile, core_modCore, if_neg h]

theorem padByte_modTile (s : State) (core t b : Nat) (f : Tile → Tile) : padByte (s.modTile core t f) core b = padByte s core b := by
  simp only [padByte, State.modTile, core_modCore, if_true]

theorem sort_padWr (s : State) (core o : Nat) (bs : List Byte) : ((padWr s core o bs).core core).sort = (s.core core).sort := by
  rw [padWr, core_modCore, if_pos rfl]

theorem core_padWr_ne {s : State} {core j o : Nat} (bs : List Byte) (h : j ≠ core) : (padWr s core o bs).core j = s.core j := by
  rw [padWr, core_modCore, if_neg h]

theorem tile_padWr (s : State) (core o t : Nat) (bs : List Byte) : (padWr s core o bs).tile core t = s.tile core t := by
  rw [State.tile, padWr, core_modCore, if_pos rfl, State.tile]

/-! The events. -/

section
variable {s : State} {core : Nat}

/-- The records that a load puts into the cells. -/
def loadedCells (s : State) (core : Nat) : List Cell :=
  let x := (s.core core).sort
  let n := recordBytes x.kf
  let base := 4096 * (s.tile core x.tile).base + x.off
  (List.range 1024).map fun i => { key := padRd s core (base + n * i) (keyBits x.kf / 8), pay := padRd s core (base + n * i + n / 2) 4, pos := i }

theorem length_loadedCells (s : State) (core : Nat) : (loadedCells s core).length = 1024 := by rw [loadedCells, List.length_map, List.length_range]

theorem cellAt_loadedCells {i : Nat} (hi : i < 1024) :
    let x := (s.core core).sort
    let n := recordBytes x.kf
    let base := 4096 * (s.tile core x.tile).base + x.off
    cellAt (loadedCells s core) i =
      { key := padRd s core (base + n * i) (keyBits x.kf / 8), pay := padRd s core (base + n * i + n / 2) 4, pos := i } := by
  rw [cellAt, List.getD_eq_getElem _ _ (by rwa [length_loadedCells])]
  simp only [loadedCells, List.getElem_map, List.getElem_range]

theorem keyBytes_eq (kf : Nat) : (if kf = 5 then 8 else if kf = 3 || kf = 4 then 2 else 4) = keyBits kf / 8 := by
  unfold keyBits
  by_cases h5 : kf = 5
  · simp [h5]
  · by_cases h : kf = 3 ∨ kf = 4 <;> simp [h5, h]

/-- The state with cells loaded, and the hold on the tile lifted. -/
def sortLoaded (s : State) (core : Nat) (cells : List Cell) : State :=
  (s.modTile core (s.core core).sort.tile fun t => { t with held := t.held - 1 }).modSort core fun y =>
    { y with st := .loaded, cells := cells, phase := 0, step := 0 }

/-- The state with bytes stored, and their tile ready. -/
def sortStored (s : State) (core : Nat) (bs : List Byte) : State :=
  ((padWr s core (4096 * (s.tile core (s.core core).sort.tile).base + (s.core core).sort.off) bs).modTile core (s.core core).sort.tile fun t =>
    { t with st := .ready, rmask := 0 }).modSort core fun y => { y with st := .sorted }

theorem sortLoaded_frame (s : State) (core : Nat) (cells : List Cell) :
    sortLoaded s core cells = { s with cores := (sortLoaded s core cells).cores } := rfl

theorem sortStored_frame (s : State) (core : Nat) (bs : List Byte) : sortStored s core bs = { s with cores := (sortStored s core bs).cores } := rfl

theorem exec_sortLoadEnd (hst : (s.core core).sort.st = .loading) : exec (.sortLoadEnd core) s = .next (sortLoaded s core (loadedCells s core)) := by
  change execSortLoadEnd core s = _
  simp only [execSortLoadEnd, keyBytes_eq]
  exact congrArg _ (if_neg (not_not.mpr hst))

theorem exec_sortStoreEnd (hst : (s.core core).sort.st = .storing) :
    exec (.sortStoreEnd core) s = .next (sortStored s core ((List.range 1024).flatMap (recordBytesOf (s.core core).sort))) :=
  congrArg _ (if_neg (not_not.mpr hst))

/-- A soft error of a run: the array is cleared, the error bit of its group set, and the log written. -/
theorem exec_sortSoftError (hst : (s.core core).sort.st = .running) :
    exec (.sortSoftError core) s = .next (ctxLog (setErr (s.modSort core SortArr.clear) (s.core core).sort.gid 2)
      (s.quad (4 * core + (s.core core).sortq)).owner 18
      [(1, 1), (1, ((s.group? (s.core core).sort.gid).map (pgroup s)).getD 0), (1, (s.core core).sort.slot), (1, 0), (8, 0)]) := by
  change execSortSoftError core s = _
  simp only [execSortSoftError, SortArr.busy, hst, reduceCtorEq, if_false, decide_true, decide_false, Bool.or_true, Bool.or_false, if_true]

end

/-- A load, a run, a stop, a store and a soft error end as their rules say. -/
theorem sortOperationsEnd : Claims.SortOperationsEnd := by
  intro core s x n base
  refine ⟨fun hst => ⟨_, exec_sortLoadEnd hst, sortLoaded_frame _ _ _, fun c hc => ?loadOthers, ?loadArray, ?loadLength,
      fun i hi => ?loadCells, ?loadTile⟩,
    fun hst hpaused hstop hph hstep => ?lastStep, fun hst => ?ended, fun hst hph => ?runEnds, fun hst hstop => ?stops, fun hst hstop hquiet => ?pauses,
    fun hst => ⟨_, exec_sortStoreEnd hst, sortStored_frame _ _ _, fun c hc => ?storeOthers, ?storeArray, ?storeTile,
      stored_records (s := s) fun b => ?storeBytes⟩,
    fun hst => ?softError⟩
  case loadOthers => rw [sortLoaded, core_modSort_ne _ hc, core_modTile_ne _ hc]
  case loadArray => rw [sortLoaded, sort_modSort, sort_modTile]
  case loadLength => rw [sortLoaded, sort_modSort, length_loadedCells]
  case loadCells =>
    simp only [sortLoaded, sort_modSort]
    exact cellAt_loadedCells hi
  case loadTile => rw [sortLoaded, tile_modSort, tile_modTile]
  case lastStep =>
    have htick : x.tick = { x with cells := sortStep x.kf x.dir 10 31 x.cells, phase := 11, step := 0, st := .sorted } := by
      simp [SortArr.tick, hst, hpaused, hstop, hph, hstep]
    have hcycle : sortCycle s core x = x.tick := by rw [sortCycle, htick]; rfl
    simp only [hcycle, htick, and_self]
  case ended => exact congrArg _ (if_neg (by simp [show (s.core core).sort.st = .sorted from hst]))
  case runEnds => exact congrArg _ (if_pos (by simp [show (s.core core).sort.st = .running from hst, show (s.core core).sort.phase = 11 from hph]))
  case stops => exact congrArg _ (if_pos (by simp [show (s.core core).sort.st = .running from hst, show (s.core core).sort.stopReq = true from hstop]))
  case pauses =>
    refine congrArg _ ((if_neg (by simp [show (s.core core).sort.stopReq = false from hstop])).trans (if_pos ?_))
    simp [show (s.core core).sort.st = .running from hst, sortQuiesces, hquiet]
  case storeOthers => rw [sortStored, core_modSort_ne _ hc, core_modTile_ne _ hc, core_padWr_ne _ hc]
  case storeArray => rw [sortStored, sort_modSort, sort_modTile, sort_padWr]
  case storeTile => rw [sortStored, tile_modSort, tile_modTile, tile_padWr]
  case storeBytes => rw [sortStored, padByte_modSort, padByte_modTile]
  case softError =>
    have hrec := Recorded.ctxLog (setErr (s.modSort core SortArr.clear) x.gid 2) (s.quad (4 * core + (s.core core).sortq)).owner 18
      [(1, 1), (1, ((s.group? x.gid).map (pgroup s)).getD 0), (1, x.slot), (1, 0), (8, 0)]
    refine ⟨_, exec_sortSoftError hst, ?_, fun g hg => ?_⟩
    · rw [State.core, hrec.cores]
      exact sort_modSort s core SortArr.clear
    · obtain ⟨paths, hpaths⟩ := hrec.paths x.gid
      have hset : (setErr (s.modSort core SortArr.clear) x.gid 2).group? x.gid = some { g with err := g.err ||| 4 } := by
        rw [setErr, modGroup_of (s := s.modSort core SortArr.clear) (g := g) hg, group_put_self]; rfl
      rw [hpaths, hset]
      rfl

/-- Settles O28: a step sends each record to the other cell of its pair or leaves it, and each operation ends by its event. -/
theorem sortSteps : Obligations.SortSteps := ⟨shearsortStep, sortOperationsEnd⟩

end Sys2Proof.Machine
end


section
/-! GrantCommands fails: the second step of SHRINK is claimed to reset each quadrant that is its context's, and no premise says that the
context's number is one that names a context (R184). With the number 0 these are the quadrants that belong to nobody: they pass from
nobody to nobody, and what stands in them stays. -/

namespace Sys2Proof.Machine
open Sys2Proof.Claims

/-! A completion of a host queue writes memory, its lines and the queue, and leaves the quadrants alone (R200, R201; log 20). -/

/-- Queue `i` is a host queue, where there is one. -/
def HostQueue (i : Nat) (s : State) : Prop := ∀ q, s.queues.find? i = some q → q.ctx = 0

theorem homeWrite_queues_quads (s : State) (pa : Nat) (bs : List Byte) :
    (homeWrite s none pa bs).queues = s.queues ∧ (homeWrite s none pa bs).quads = s.quads := by
  refine List.foldlRecOn (motive := fun t : State => t.queues = s.queues ∧ t.quads = s.quads) (linesOf pa bs.length) unstamp ⟨rfl, rfl⟩
    fun t ht line _ => ?_
  unfold unstamp
  split
  · exact ht
  · exact ht

theorem qWr_host {q : KQueue} (hq : q.ctx = 0) (s : State) (va : Nat) (bs : List Byte) :
    (qWr s q va bs).queues = s.queues ∧ (qWr s q va bs).quads = s.quads := by
  rw [qWr, if_pos hq]
  exact homeWrite_queues_quads s _ bs

theorem HostQueue.modQ {i : Nat} {s : State} {f : KQueue → KQueue} (h : HostQueue i s) (hf : ∀ q, (f q).ctx = q.ctx) : HostQueue i (s.modQ i f) := by
  intro q hq
  have hfind : (s.modQ i f).queues.find? i = (s.queues.find? i).map f := (SMap.find?_adjust _ _ _ _).trans (if_pos rfl)
  obtain ⟨x, hx, rfl⟩ := Option.map_eq_some_iff.mp (hfind.symm.trans hq)
  rw [hf, h x hx]

theorem qFlush_quads (fuel : Nat) {i : Nat} {s : State} (h : HostQueue i s) : (qFlush fuel i s).quads = s.quads := by
  induction fuel generalizing s with
  | zero => rfl
  | succ fuel ih =>
    unfold qFlush
    split
    · rfl
    · next q hq =>
      split
      · rfl
      · split_ifs
        · rfl
        · have hhost := h q hq
          dsimp only
          rw [ih]
          · exact ((qWr_host hhost _ _ _).2).trans (qWr_host hhost _ _ _).2
          · refine HostQueue.modQ (fun x hx => h x ?_) fun _ => rfl
            rwa [(qWr_host hhost _ _ _).1, (qWr_host hhost _ _ _).1] at hx

theorem qStall_quads (i : Nat) (s : State) : (qStall i s).quads = s.quads := by
  unfold qStall
  split
  · split_ifs <;> rfl
  · rfl

theorem complete_quads {i : Nat} {s : State} (h : HostQueue i s) (seq st res : Nat) : (complete i seq st res s).quads = s.quads :=
  (qStall_quads _ _).trans (qFlush_quads _ (h.modQ fun _ => rfl))

/-! The counterexample. -/

/-- A SHRINK of context 0 by quadrant 0 of die 0, in progress on host queue 0. -/
def shrinkZero : Cmd := { q := 0, seq := 0, ptr := 0, op := 7, flags := 0, args := [0, 0, 1] }
def shrinkQueue : KQueue := { ctx := 0, anchor := 0, st := .idle, doneSeq := 0, donePtr := 0, cqSeq := 0, busy := some shrinkZero, pend := [] }

/-- A record of a context in a state, with nothing registered. -/
def bareCtx (st : CSt) : Ctx :=
  { st := st, debugen := false, attested := false, logBase := 0, logSize := 0, logTail := 0, logLost := 0, net := [], ptTop := none, fx := [],
    kregs := [], regions := [], satc := false, tasks := [], dirtyLog := 0, porter := false, porterEver := false, cmps := [], reportSeq := 0,
    link := [], hist := [], after_ := none, exportAddr := 0, image := none, replays := [], logSeq := 0, scrub := [] }

/-- A quadrant that belongs to nobody, in which a gang register stands. -/
def strayQuad : Quad := { Quad.reset with gang := 1 }

def shrinkState : State :=
  { State.reset with ctxs := [(0, bareCtx .resident)], queues := [(0, shrinkQueue)], quads := [(0, strayQuad)] }

/-- The state that SHRINK completes from: its quadrants have passed. -/
def shrunkState : State := (takeQuads shrinkState 0 (maskQuads shrinkZero)).modQ 0 fun q => { q with busy := none }

theorem exec_shrinkZero : exec (.shrink shrinkZero) shrinkState = .next (complete 0 0 0 0 shrunkState) := by
  have hdue : (decide (shrinkZero ≠ shrinkZero) || decide (shrinkZero.op ≠ 7) || !ctxIn shrinkState 0 [.resident] ||
      (maskQuads shrinkZero).any fun q => (shrinkState.quad (4 * q.1 + q.2)).owner = 0 && quadInUse shrinkState q.1 q.2) = false := by decide +kernel
  exact congrArg _ (if_neg (t := shrinkState) (ne_true_of_eq_false hdue))

theorem queues_shrunkState : shrunkState.queues = [(0, { shrinkQueue with busy := none })] := by decide +kernel
theorem quads_shrunkState : shrunkState.quads = [(0, strayQuad)] := by decide +kernel

/-- Refutes O47: SHRINK of context 0 leaves quadrant 0, which belongs to nobody, as it stands. -/
theorem not_grantCommands : ¬ Obligations.GrantCommands := by
  intro h
  obtain ⟨-, -, hsecond, -⟩ := h shrinkZero shrinkState (bareCtx .resident)
  obtain ⟨u, hexec, hqueue, hquad⟩ := hsecond shrinkQueue rfl rfl rfl rfl (by decide +kernel)
  have hhost : HostQueue 0 u := fun q hq => by cases (hqueue.symm.trans hq); rfl
  have hhost' : HostQueue 0 shrunkState := fun q hq => by
    rw [queues_shrunkState] at hq
    cases hq
    rfl
  have hsame : complete 0 0 0 0 shrunkState = complete 0 0 0 0 u := Host.Outcome.next.inj (exec_shrinkZero.symm.trans hexec)
  have hquads : u.quads = [(0, strayQuad)] := by
    rw [← complete_quads hhost 0 0 0, ← hsame, complete_quads hhost', quads_shrunkState]
  have hreset : u.quad 0 = Quad.reset := hquad (0, 0) (by decide +kernel) rfl
  rw [State.quad, hquads] at hreset
  exact absurd hreset (by decide)

end Sys2Proof.Machine
end


section
/-! ContextEvents fails: quiescence is claimed to end once nothing of the context is in flight, but it also waits for each path that has
issued an instruction which waits for the accesses before it (R191, R260; log 60), and no premise of the statement excludes one. -/

namespace Sys2Proof.Machine
open Sys2Proof.Claims

/-- A path that has issued an access which waits for earlier ones. -/
def landingPath : Path := { Path.start 0x10000 (BitVec.allOnes 32) 0 0 false with cond := .waiting (.order false false []) }

/-- Its group, of a context that stops. -/
def landingGroup : Group := { Group.start State.reset 1 (seatAt 0) .grid 0x10000 (BitVec.allOnes 32) with paths := [(0, landingPath)] }

def landingState : State := { State.reset with ctxs := [(1, bareCtx .quiescing)], groups := [(1, landingGroup)] }

theorem quiet_landingState : quiet landingState 1 = false := by decide +kernel

/-- Quiescence does not end: the event changes nothing. -/
theorem exec_quiescenceEnd_landing : exec (.quiescenceEnd 1) landingState = .next landingState := by
  refine congrArg _ (if_pos ?_)
  rw [quiet_landingState]
  rfl

/-- Refutes O51: with a path that waits for the accesses before it the context stays quiescing, though nothing of it is in flight. -/
theorem not_contextEvents : ¬ Obligations.ContextEvents := by
  intro h
  obtain ⟨hquiescence, -⟩ := h 1 landingState
  obtain ⟨hsaved, -⟩ := hquiescence (bareCtx .quiescing) rfl rfl rfl (by decide) (by decide) (by decide +kernel) (by decide) (by decide)
  obtain ⟨t, i, l, hexec, hctx, -⟩ := hsaved (by decide)
  rw [exec_quiescenceEnd_landing] at hexec
  cases hexec
  have hst : some CSt.quiescing = some CSt.saved := congrArg (Option.map Ctx.st) hctx
  exact absurd hst (by decide)

end Sys2Proof.Machine
end
